-- ==== Sys2Proof/Word.lean ====
section
/-! DEFINITION. The plainest types of the model: bytes, master identities, job numbers, error codes.
Bits of a register or of a stored word are numbered from the least significant bit (R5). -/

namespace Sys2Proof

/-- One byte of memory. -/
abbrev Byte := BitVec 8

/-- A master identity (R375): 8 bits carried by every access inside the package. -/
abbrev Master := BitVec 8

/-- An error code (R420): class in bits [15:8], cause in bits [7:0]; 0 means no error. -/
abbrev Code := BitVec 16

/-- A package number, the value of PKG_ID[3:0] (R8). -/
abbrev Pkg := BitVec 4

end Sys2Proof
end

