-- ==== Sys2Proof/Syntax.lean ====
section
/-! DEFINITION. The commands of the block: one constructor of `Instr` for each of the 234 rows of
`spec/opcode_table.json`, with the operands each row needs, and the types of those operands.
An operand is what comes from outside the package (a register value, a flit, a datagram, samples, a pin level) or what
names the place of an internal event (a basin, a chain context, a link). -/

namespace Sys2Proof

/-- A flit of the Turhorn fabric (R308): the fields of its control word, whether a reserved bit is set, whether both
FEC codewords decoded (R310), and its data bytes (up to LEN of them; the rest are sent as 0). -/
structure Flit where
  ty : BitVec 4 := 0
  vc : BitVec 2 := 0
  src : Pkg := 0
  dst : Pkg := 0
  seq : BitVec 12 := 0
  ack : BitVec 12 := 0
  nak : Bool := false
  ackV : Bool := false
  crVc : BitVec 2 := 0
  crCnt : BitVec 9 := 0
  addr : BitVec 44 := 0
  len : BitVec 13 := 0
  tag : BitVec 16 := 0
  mask : BitVec 16 := 0
  code : Code := 0
  master : Master := 0
  crc : BitVec 32 := 0
  reserved : Bool := false
  fecOk : Bool := true
  /-- of a flit received: the bytes that the FEC corrected on each of the four lanes (R306) -/
  ce : List Nat := []
  data : List Byte := []
  deriving DecidableEq, Repr

/-- A steal probe as it reaches a hub (R182): from a neighbour package, or a neighbour's answer to a basin of ours. -/
inductive Probe where
  /-- basin `tb` of package `src` asks for the basin that holds the most items stealable at fabric locality. -/
  | ask (src : Pkg) (tb : Fin 32)
  /-- package `src` answers basin `b` of this package: its basin `vb` holds `count` such items. -/
  | answer (b : Fin 32) (src : Pkg) (vb : Fin 32) (count : Nat)
  deriving DecidableEq, Repr

/-- A work item (R176), field by field; `reserved` is true when a reserved bit of the 64 bytes is set. -/
structure Item where
  chain : BitVec 23 := 0
  kind : BitVec 2 := 0
  locality : BitVec 3 := 0
  jets : BitVec 2 := 0
  job : BitVec 16 := 0
  key : BitVec 16 := 0
  stepTag : BitVec 32 := 0
  layerSeq : BitVec 16 := 0
  gate : BitVec 48 := 0
  gateVal : BitVec 16 := 0
  done : BitVec 48 := 0
  workOff : BitVec 23 := 0
  workLen : BitVec 17 := 0
  inLen : BitVec 17 := 0
  retOff : BitVec 23 := 0
  retLen : BitVec 17 := 0
  pfChain : BitVec 23 := 0
  pfEn : Bool := false
  obj : BitVec 23 := 0
  reserved : Bool := false
  deriving DecidableEq, Repr

/-- A take (R182, R183). -/
inductive Take where
  /-- the take that basin `b` of this package has sent to a basin of this package is served. -/
  | serve (b : Fin 32)
  /-- a thief of package `src`, its basin `tb`, takes from basin `vb` of this package; `freeJets` is its count of free jets
  and `occupied` its occupied granules. -/
  | remote (src : Pkg) (tb : Fin 32) (vb : Fin 32) (freeJets : Nat) (occupied : List Nat) (tag : BitVec 16)
  /-- package `src` answers the take of basin `b` of this package from its basin `vb`: an item, or NONE. -/
  | answer (b : Fin 32) (src : Pkg) (vb : Fin 32) (item : Option Item) (tag : BitVec 16)
  deriving DecidableEq, Repr

/-- The end of a migrated item at a basin. -/
inductive Returned where
  /-- the item of context `c` of the basin, a thief of this package. -/
  | mine (c : Fin 16)
  /-- package `src` tells that its thief has ended item `item` of the basin, its home, with the counters to signal in order, or
  that it stopped. -/
  | far (src : Pkg) (item : Item) (counters : List (Fin 64)) (stopped : Bool) (tag : BitVec 16)
  deriving DecidableEq, Repr

/-- The descriptor in flight that completes: the i-th of its context; `xbar` is the cycles that an in-place thief waited for it on the
crossbar (R184). -/
structure Done where
  i : Nat
  xbar : Nat
  vec : Nat
  deriving DecidableEq, Repr

/-- The cycles of a change of ganging mode: `drain` from the start of the drain to the change (R35); `vec` what a partial that issues then
waits for the vector unit (R127). -/
structure GangCycles where
  drain : Nat
  vec : Nat
  deriving DecidableEq, Repr

/-- A confirmed message as it arrives (R318): the package that sent it, and its TAG. -/
structure Sent where
  src : Pkg
  tag : BitVec 16
  deriving DecidableEq, Repr

/-- A confirmed message about a set entry. -/
structure SetMsg where
  entry : Fin 16
  sent : Sent
  deriving DecidableEq, Repr

/-- A link block as it reaches the receiving hub (R231): its bytes (header, then payload), the destination of its raw
bytes, the job of its transfer, and whether it is the final block of the transfer. -/
structure LinkBlock where
  bytes : List Byte
  dst : BitVec 48
  job : BitVec 16
  final : Bool
  deriving DecidableEq, Repr

/-- Where an eviction request comes from (R240, R250): the head descriptor of a chain, or the oldest posted block. -/
inductive ReqSrc where
  | desc (b : Fin 32) (c : Fin 16)
  | block
  deriving DecidableEq, Repr

/-- A shard entry of a manifest (R270). -/
structure ShardEnt where
  flashOff : BitVec 44
  len : BitVec 29
  form : BitVec 2
  dest : BitVec 44
  nonce : List Byte
  tag : List Byte
  hash : List Byte
  reserved : Bool
  deriving DecidableEq, Repr

/-- A table record of a manifest (R271): slot, basins, holds, and the 192 bytes of the table image. -/
structure TableRec where
  slot : BitVec 4
  basins : BitVec 32
  holds : BitVec 20
  image : List Byte
  reserved : Bool
  deriving DecidableEq, Repr

/-- A layer entry of a manifest (R271). -/
structure LayerEnt where
  seq : BitVec 16
  first : BitVec 16
  count : BitVec 16
  reserved : Bool
  deriving DecidableEq, Repr

/-- A manifest (R269 to R271), field by field, with the SHA-256 of its signed region. -/
structure Manifest where
  magicOk : Bool := true
  formatOk : Bool := true
  setUid : BitVec 64 := 0
  epoch : BitVec 16 := 0
  kind : BitVec 2 := 0
  firstSeq : BitVec 16 := 0
  lastSeq : BitVec 16 := 0
  nShard : BitVec 13 := 0
  nTable : BitVec 5 := 0
  nLayer : BitVec 16 := 0
  total : BitVec 64 := 0
  sigLen : BitVec 32 := 0
  keyOff : BitVec 32 := 0
  pubId : List Byte := []
  reserved : Bool := false
  shards : List ShardEnt := []
  tables : List TableRec := []
  layers : List LayerEnt := []
  hash : List Byte := []
  deriving DecidableEq, Repr

/-- Where a LOAD or STAGE comes from (R277): the oldest posted command block, or the manifest that a reader multicasts. -/
inductive LoadSrc where
  | post
  | manifest (reader : Pkg) (e : Fin 16) (bias : BitVec 44) (m : Manifest)
  deriving DecidableEq, Repr

/-- What a receiver takes of one attempt of a shard (R277): its index, the bytes received in order, whether every byte came,
and whether the reader marked the attempt good. -/
structure ShardRx where
  index : Nat
  bytes : List Byte
  whole : Bool
  good : Bool
  deriving DecidableEq, Repr

/-- An access of a mailbox channel (R385, R386): a write of DATA, a read of DATA, a status poll. -/
inductive MbOp where
  | write | read | poll
  deriving DecidableEq, Repr

/-- How an access of a mailbox channel travels (R390): to a channel of this package, which master 0x40 + p reaches from package p; by the
management core to a channel of package p; or the MSG of package p that answers such an access, with its word and its code. -/
inductive MbVia where
  | here
  | out (p : Pkg)
  | answer (p : Pkg) (data : BitVec 32) (code : BitVec 16)
  deriving DecidableEq, Repr

/-- A mailbox channel of an access, and how the access travels. -/
structure MbChan where
  n : Fin 64
  via : MbVia
  deriving DecidableEq, Repr

/-- A message between hubs (R312, R318). The spec gives these messages no layout; MSG flits carry them as free bytes (log entry 2). -/
inductive HubMsg where
  | contain (job code : Nat)
  | ready (job tick : Nat)
  | commit (job tick : Nat)
  | phase (tick : Nat) (corr : Int)
  | lost (p : Pkg) (nonce : Nat)
  | probe (b : Fin 32)
  | probeAnswer (b : Fin 32) (victim : Fin 32) (count : Nat)
  | take (b : Fin 32) (victim : Fin 32) (freeJets : Nat) (occupied : List Nat)
  | takeAnswer (b : Fin 32) (victim : Fin 32) (item : Option Item)
  /-- the end of an item that this package ran for basin b of another one: its counter signals, and whether it stopped (R185, R187) -/
  | returned (b : Fin 32) (item : Item) (counters : List Nat) (stopped : Bool)
  /-- an access of the management core to channel `ch` of the receiver, and the answer to one: the word and the code (R390) -/
  | mailbox (op : MbOp) (ch data : Nat)
  | mailboxAnswer (op : MbOp) (ch data code : Nat)
  | shardGood (e i : Nat) | shardBad (e i : Nat) | shardReq (e i : Nat) | loadDone (e : Nat)
  | loadComplete (e : Nat) | loadFail (e cause : Nat)
  | replDone (e : Nat) | replRelease (e : Nat)
  | manifest (e bias : Nat) (x : Manifest)
  /-- the reader announces shard i, and marks its attempt good or not (R277) -/
  | announce (e i : Nat)
  | shardMark (e i : Nat) (good : Bool)
  /-- message TAG of sender p is confirmed (R318) -/
  | confirm (p : Pkg) (tag : Nat)
  deriving DecidableEq, Repr

/-- What REPL_LIMIT passes for (R290, R296): a replacement of a set, or a pending adapter switch. -/
inductive StuckSrc where
  | set (e : Fin 16)
  | switch (i : Nat)
  deriving DecidableEq, Repr

/-- What training finds (R307): the stages all ended in time, the partner's PKG_ID, link number and boot nonce, and the
round trip in units of 10 ns. -/
structure Ident where
  stagesOk : Bool
  pkg : Pkg
  link : BitVec 4
  nonce : BitVec 32
  rtt : BitVec 8
  deriving DecidableEq, Repr

/-- The bits of one 10 ms frame at the data pins (R329): for each pin of PDM_DAT, the bits taken after the rising edges of its array's clock and
those after the falling edges, in order. -/
structure AudioIn where
  pins : List (Nat × List Bool × List Bool)
  deriving DecidableEq, Repr

/-- An Ethernet frame as a port receives it (R349, R350): the port, the destination address, the PCP and VID of each of its 802.1Q tags, its length
and that of its service data unit in bytes, and the sequence number of its 802.1CB tag. -/
structure EthFrame where
  port : Fin 2
  dst : BitVec 48
  tags : List (BitVec 3 × BitVec 12)
  bytes : Nat
  sdu : Nat
  seq : Option (BitVec 16)
  deriving DecidableEq, Repr

/-- The UDP datagram of an IPv4 packet (R349, R363): its frame, its addresses, the UDP port it goes to, whether it
comes in fragments, and its 16-byte header. -/
structure UdpIn where
  frame : EthFrame
  srcIp : BitVec 32
  dstIp : BitVec 32
  dstPort : BitVec 16
  fragment : Bool
  magic : BitVec 16
  version : BitVec 8
  typ : BitVec 8
  pkgId : BitVec 4
  reserved4 : BitVec 12
  job : BitVec 16
  seq : BitVec 32
  count : BitVec 16
  reserved12 : BitVec 16
  deriving DecidableEq, Repr

/-- An AVTP AAF packet (R357 to R360). `fmt` is 0 for INT_16BIT, 1 for INT_24BIT, 2 for INT_32BIT, other values for a
format that is not supported; `rate48` is none for an unsupported rate; `samples` holds for each channel its samples. -/
structure AvtpPacket where
  frame : EthFrame
  streamId : BitVec 64
  fmt : BitVec 4
  rate48 : Option Bool
  tv : Bool
  timestamp : BitVec 32
  ch : Nat
  samples : List (List Int)
  deriving DecidableEq, Repr

/-- An ARP packet (R349): its frame, its operation, the addresses of its sender, and the IPv4 address it asks for. -/
structure ArpPacket where
  frame : EthFrame
  op : BitVec 16
  senderMac : BitVec 48
  senderIp : BitVec 32
  targetIp : BitVec 32
  deriving DecidableEq, Repr

/-- An ICMP echo request (R349): its frame and source address, the IPv4 addresses, whether it comes in fragments, its identifier, sequence number
and data. -/
structure EchoRequest where
  frame : EthFrame
  srcMac : BitVec 48
  srcIp : BitVec 32
  dstIp : BitVec 32
  fragment : Bool
  ident : BitVec 16
  seq : BitVec 16
  data : List Byte
  deriving DecidableEq, Repr

/-- What a port receives that no row of its own names (log entry 186): an AVTP packet, or what R349 has the device answer beside it. -/
inductive NetIn where
  | avtp (x : AvtpPacket)
  | arp (x : ArpPacket)
  | echo (x : EchoRequest)
  deriving DecidableEq, Repr

/-- A WDATA datagram (R363, R366). -/
structure WDatagram where
  udp : UdpIn
  xfer : BitVec 32
  offset : BitVec 44
  reserved : Bool
  data : List Byte
  deriving DecidableEq, Repr

/-- A CTRL_REQ datagram (R363, R367) on host control channel A (`chB` false, master 0x02) or B (0x03). -/
structure CtrlRequest where
  udp : UdpIn
  chB : Bool
  op : BitVec 8
  addr : BitVec 48
  data : BitVec 32
  deriving DecidableEq, Repr

/-- A gPTP Sync message (R350, R351): the port and the domain it comes in, the time it gives this package, and its estimate of the offset from the
grandmaster in ns. -/
structure SyncMsg where
  port : Fin 2
  domain : BitVec 8
  time : BitVec 64
  offset : Int
  deriving DecidableEq, Repr

/-- The levels of the strap pins (R412), and of PWR_GOOD at the same moment (R395). -/
structure Straps where
  pkgId : Pkg
  bootAlt : Bool
  autoOn : Bool
  pwrGood : Bool
  deriving DecidableEq, Repr

/-- What an access meets and the registers do not show (log entry 188): an earlier profile is still being applied (R373, R382); the hub is
powered and gives no answer (R373, R392); the levels of the pins, where they are known (R398, R412). -/
structure Meets where
  applying : Bool := false
  silent : Bool := false
  pins : Option Straps := none
  deriving DecidableEq, Repr

/-- A register write: its value, and what it meets. -/
structure RegWrite where
  v : BitVec 32
  meets : Meets := {}
  deriving DecidableEq, Repr

/-- A write of CAD_CTRL: its value, and the phase of the cadence master at that moment, or none where no cadence master can be reached
(R200, R202). -/
structure CadWrite where
  v : BitVec 32
  phi : Option (BitVec 32)
  deriving DecidableEq, Repr

/-- A request frame of the management port (R371): CMD, INDEX, DATA and CRC; and what its access meets. -/
structure PortFrame where
  cmd : BitVec 8
  index : BitVec 8
  data : BitVec 32
  crc : BitVec 8
  meets : Meets := {}
  deriving DecidableEq, Repr

/-- What a start-up stage finds outside the package (R411): the flash attached (channels found and raw capacity in GiB)
and the entropy that the security engine draws. -/
structure StageIn where
  channels : BitVec 8
  rawGib : Nat
  entropy : BitVec 32
  deriving DecidableEq, Repr

/-- The commands, in the order of the table. -/
inductive Instr where
  /-- NOP (R477). A descriptor that uses no unit; it only waits on and signals event counters. Issue of the head descriptor of context c of basin b. -/
  | nop (b : Fin 32) (c : Fin 16)
  /-- MATMUL (R40). A jet matrix multiply over M rows, K reduction and N columns, with optional rescale, scale streams and adapter. Issue of the head descriptor of context c of basin b. -/
  | matmul (b : Fin 32) (c : Fin 16)
  /-- KV_APPEND (R159). A jet descriptor with OUT_MODE 1 appends its output rows as latents into page slots of the roots named by its append map. Issue of the head descriptor of context c of basin b. -/
  | kvAppend (b : Fin 32) (c : Fin 16)
  /-- ADD (R49). Vector element-wise a + b. Issue of the head descriptor of context c of basin b. -/
  | add (b : Fin 32) (c : Fin 16)
  /-- SUB (R49). Vector element-wise a - b. Issue of the head descriptor of context c of basin b. -/
  | sub (b : Fin 32) (c : Fin 16)
  /-- MUL (R49). Vector element-wise a x b. Issue of the head descriptor of context c of basin b. -/
  | mul (b : Fin 32) (c : Fin 16)
  /-- FMA (R49). Vector element-wise a x b + IMM. Issue of the head descriptor of context c of basin b. -/
  | fma (b : Fin 32) (c : Fin 16)
  /-- MAX (R479). Vector element-wise maximum, NaN-propagating. Issue of the head descriptor of context c of basin b. -/
  | max (b : Fin 32) (c : Fin 16)
  /-- MIN (R479). Vector element-wise minimum, NaN-propagating. Issue of the head descriptor of context c of basin b. -/
  | min (b : Fin 32) (c : Fin 16)
  /-- SCALE (R49). Vector element-wise a x IMM. Issue of the head descriptor of context c of basin b. -/
  | scale (b : Fin 32) (c : Fin 16)
  /-- CVT (R49). Vector conversion of a to OUT_FMT. Issue of the head descriptor of context c of basin b. -/
  | cvt (b : Fin 32) (c : Fin 16)
  /-- IADD (R49). Vector INT32 wrapping addition. Issue of the head descriptor of context c of basin b. -/
  | iadd (b : Fin 32) (c : Fin 16)
  /-- ISUB (R49). Vector INT32 wrapping subtraction. Issue of the head descriptor of context c of basin b. -/
  | isub (b : Fin 32) (c : Fin 16)
  /-- IMUL (R49). Vector exact integer product, rescaled or taken modulo 2^32. Issue of the head descriptor of context c of basin b. -/
  | imul (b : Fin 32) (c : Fin 16)
  /-- IMAX (R49). Vector INT32 maximum. Issue of the head descriptor of context c of basin b. -/
  | imax (b : Fin 32) (c : Fin 16)
  /-- ROW_MAX (R479). Row reduction to the maximum of each row. Issue of the head descriptor of context c of basin b. -/
  | rowMax (b : Fin 32) (c : Fin 16)
  /-- ROW_SUM (R479). Row reduction to the FP32 pairwise-tree sum of each row. Issue of the head descriptor of context c of basin b. -/
  | rowSum (b : Fin 32) (c : Fin 16)
  /-- EXP2 (R51). Special-function base-2 exponential. Issue of the head descriptor of context c of basin b. -/
  | exp2 (b : Fin 32) (c : Fin 16)
  /-- RECIP (R51). Special-function reciprocal. Issue of the head descriptor of context c of basin b. -/
  | recip (b : Fin 32) (c : Fin 16)
  /-- RSQRT (R51). Special-function reciprocal square root. Issue of the head descriptor of context c of basin b. -/
  | rsqrt (b : Fin 32) (c : Fin 16)
  /-- LOG2 (R51). Special-function base-2 logarithm. Issue of the head descriptor of context c of basin b. -/
  | log2 (b : Fin 32) (c : Fin 16)
  /-- TANH (R51). Special-function hyperbolic tangent. Issue of the head descriptor of context c of basin b. -/
  | tanh (b : Fin 32) (c : Fin 16)
  /-- DESCRIPTOR_COMPLETE (R39). A descriptor completes, signalling its counter and releasing pins and held resources. -/
  | descriptorComplete (b : Fin 32) (c : Fin 16) (j : Done)
  /-- GANG_MODE_CHANGE (R35). Once no jet is busy and no accumulator held after a gang drain, the basin changes ganging mode and issues the waiting descriptor. -/
  | gangModeChange (b : Fin 32) (cycles : GangCycles)
  /-- SRAM_CORRECT_WRITEBACK (R53). A single-bit-corrected SRAM word is written back within 64 cycles. Word: index of the 64-bit word in the basin. -/
  | sramCorrectWriteback (b : Fin 32) (word : Nat)
  /-- SCRUB_READ (R55). Every 1,024 cycles the scrubber reads one line of every bank. Line read in every bank. -/
  | scrubRead (b : Fin 32) (line : Nat)
  /-- FREQ_WRITE (R59). A write of BS_CLK_n.FREQ stops issue and waits for the basin to drain before relocking the PLL. Write of BS_CLK_b. -/
  | freqWrite (m : Master) (b : Fin 32) (v : BitVec 32)
  /-- PLL_RELOCK_DONE (R59). The basin PLL has relocked at the new FREQ and issue resumes. -/
  | pllRelockDone (b : Fin 32)
  /-- STRETCH_APPLY (R60). A basin applies a new stretch value s at its next 16-edge boundary. -/
  | stretchApply (b : Fin 32)
  /-- BS_ENABLE_WRITE (R61). A write of BS_ENABLE enables or disables basins, ignoring bits of basins whose self-test has not passed. -/
  | bsEnableWrite (m : Master) (v : BitVec 32)
  /-- BS_TEST_START (R63). A START write runs the self-test of one disabled basin. Write of BS_TEST. -/
  | bsTestStart (m : Master) (v : BitVec 32)
  /-- SELFTEST_DONE (R63). A basin self-test ends, setting SELFTEST and FAIL_UNIT and recording a failure. FailUnit 0: passed. -/
  | selftestDone (b : Fin 32) (failUnit : BitVec 6)
  /-- STATE_CHUNK (R97). Advances the state of up to 256 streams by a chunk of frames, writing back state after frame F-1. -/
  | stateChunk (b : Fin 32) (c : Fin 16)
  /-- SAVE (R109). STATE_CKPT copies a whole state object to a checkpoint address. -/
  | save (b : Fin 32) (c : Fin 16)
  /-- RESTORE (R109). STATE_CKPT checks a saved header and copies the checkpoint over the object. -/
  | restore (b : Fin 32) (c : Fin 16)
  /-- CLEAR_HOOK (R107). STATE_CKPT sets HOOK_PENDING of an object to 0. -/
  | clearHook (b : Fin 32) (c : Fin 16)
  /-- ATTN_PARTIAL_FORWARD (R123). A forward attention partial over a page range writes a partial record, or normalised output with FINALISE. Wait: cycles waited for the vector unit (VEC_WAIT). -/
  | attnPartialForward (b : Fin 32) (c : Fin 16) (wait : Nat)
  /-- ATTN_BACKWARD_P (R139). A backward partial with PASS 1 recomputes scores and writes normalised probabilities. Wait: cycles waited for the vector unit (VEC_WAIT). -/
  | attnBackwardP (b : Fin 32) (c : Fin 16) (wait : Nat)
  /-- ATTN_BACKWARD_DS (R139). A backward partial with PASS 2 recomputes scores and writes dS. Wait: cycles waited for the vector unit (VEC_WAIT). -/
  | attnBackwardDs (b : Fin 32) (c : Fin 16) (wait : Nat)
  /-- ATTN_MERGE (R129). Checks record headers and combines partial records in order into the final output. -/
  | attnMerge (b : Fin 32) (c : Fin 16)
  /-- ATTN_WINDOW (R141). Local windowed attention over unpaged tensors with exact row maxima. -/
  | attnWindow (b : Fin 32) (c : Fin 16)
  /-- LAB_PREFETCH_FILL (R156). A prefetched body line is installed in the look-aside buffer when its read completes. The i-th outstanding prefetch; ok: its read did not fail. -/
  | labPrefetchFill (b : Fin 32) (i : Nat) (ok : Bool)
  /-- PUBLISH (R166). KV_PAGE stages a new body as the version in effect from the next tick. -/
  | publish (b : Fin 32) (c : Fin 16)
  /-- RESOLVE (R163). KV_PAGE accepts COUNT tentative slots and drops the rest in the named layers. -/
  | resolve (b : Fin 32) (c : Fin 16)
  /-- TRIM (R163). KV_PAGE sets LEN and ACC_LEN of the named layers to COUNT. -/
  | trim (b : Fin 32) (c : Fin 16)
  /-- FOLD_TAIL (R170). KV_PAGE releases copy tails that the pinned body now maps. -/
  | foldTail (b : Fin 32) (c : Fin 16)
  /-- QUERY (R169). KV_PAGE writes the state of each version slot to a result record. -/
  | query (b : Fin 32) (c : Fin 16)
  /-- CLEAR_PINS (R171). KV_PAGE sets PINS of a version slot to 0 for recovery. -/
  | clearPins (b : Fin 32) (c : Fin 16)
  /-- WQ_POST (R179). A write of COUNT posts a run of work items to a basin queue after checking all of them. Write of WQ_POST_HI_b. -/
  | wqPost (m : Master) (b : Fin 32) (v : BitVec 32)
  /-- ITEM_START (R181). The sequencer starts the oldest ready item among the first eight once it has a free chain context. Swap: cycles that chunk items of the basin were held since they were last counted (STATE_SWAP). -/
  | itemStart (b : Fin 32) (swap : Nat)
  /-- GATE_REREAD (R180). The sequencer re-reads a gate word every 64 cycles or 1 us. I: position in the queue. -/
  | gateReread (b : Fin 32) (i : Nat)
  /-- STEAL_SWEEP (R182). A thief sweeps the circles in order, probing victims and sending a take. -/
  | stealSweep (b : Fin 32)
  /-- STEAL_BACKOFF_EXPIRE (R182). After an empty sweep the BACKOFF wait ends and the thief may sweep again. -/
  | stealBackoffExpire (b : Fin 32)
  /-- STEAL_PROBE (R182). A victim answers a probe with its count of stealable items. -/
  | stealProbe (p : Probe)
  /-- STEAL_TAKE (R183). A victim answers a take with its stealable item nearest the tail, or NONE. -/
  | stealTake (t : Take)
  /-- MIGRATE_RETURN (R185). After a migrated item's last descriptor, the thief copies back the return range, signals the home and frees granules. -/
  | migrateReturn (b : Fin 32) (c : Returned)
  /-- RUN_AHEAD_ISSUE (R189). The sequencer issues an item's run-ahead chain once its layer is within PF_AHEAD. I: position in the queue. -/
  | runAheadIssue (b : Fin 32) (i : Nat)
  /-- WQ_CANCEL (R192). GO removes a job's queued items of a step, or all steps, from every queue. -/
  | wqCancel (m : Master) (v : BitVec 32)
  /-- CADENCE_TICK (R196). A tick instant: tick numbers advance, versions take effect and commit points are taken. -/
  | cadenceTick
  /-- TICK_GUARD_EXPIRE (R180). TICK_GUARD after a tick elapses and items of that step tag become ready. -/
  | tickGuardExpire
  /-- START (R202). CAD_CTRL.START begins tick generation once gPTP is locked. Write of CAD_CTRL. -/
  | start (m : Master) (v : CadWrite)
  /-- RESYNC (R200). CAD_CTRL.RESYNC takes phi from the cadence master and steers toward it. Write of CAD_CTRL. -/
  | resync (m : Master) (v : CadWrite)
  /-- SYNC_IN_EDGE (R199). A SYNC_IN rising edge is stamped and, on the cadence master, yields a phase correction and notice. GPTP time of the edge. -/
  | syncInEdge (stamp : BitVec 64)
  /-- PHASE_NOTICE (R200). A package receives a phase notice and applies it at the named tick or reports it late. Corr in ns. -/
  | phaseNotice (src : BitVec 4) (tag : BitVec 16) (tick : BitVec 32) (corr : Int)
  /-- WQ_WINDOW_WRITE (R201). A write of WQ_WINDOW, ignored if out of range or any granule is occupied. -/
  | wqWindowWrite (m : Master) (v : BitVec 32)
  /-- WQ_BASE_WRITE (R201). A write of WQ_BASE_n, ignored unless the queue is empty. -/
  | wqBaseWrite (m : Master) (b : Fin 32) (v : BitVec 32)
  /-- CX_BUILD (R219). CODEC_BUILD builds a Huffman table from a source into a slot. -/
  | cxBuild (b : Fin 32) (c : Fin 16)
  /-- ENCODE (R223). CODEC_BUILD codes blocks with a slot's table, writing CODED or RAW blocks and taking holds. -/
  | encode (b : Fin 32) (c : Fin 16)
  /-- BUILD_ENCODE (R223). CODEC_BUILD builds a table and then codes the source with it. -/
  | buildEncode (b : Fin 32) (c : Fin 16)
  /-- CX_LOAD (R218). CODEC_BUILD loads a checked table image into a slot. -/
  | cxLoad (b : Fin 32) (c : Fin 16)
  /-- HOLD (R216). CODEC_BUILD adds COUNT holds to a READY slot of matching GEN. -/
  | hold (b : Fin 32) (c : Fin 16)
  /-- CX_RELEASE (R216). CODEC_BUILD subtracts COUNT holds from a READY slot of matching GEN. -/
  | cxRelease (b : Fin 32) (c : Fin 16)
  /-- CODEC_SLOT_ACQUIRE (R215). A waiting table write takes its slot once the slot becomes free. Cycles waited (TABLE_WAIT). -/
  | codecSlotAcquire (b : Fin 32) (c : Fin 16) (cycles : Nat)
  /-- TABLE_WAIT_TIMEOUT (R215). A table write waits longer than TABLE_LIMIT and stops with CX_SLOT_WAIT. -/
  | tableWaitTimeout (b : Fin 32) (c : Fin 16) (cycles : Nat)
  /-- LINK_BLOCK_RECEIVE (R231). A receiving hub checks and decodes a link block and writes its raw bytes. -/
  | linkBlockReceive (l : Fin 12) (x : LinkBlock)
  /-- PLAIN (R242). COPY moves rows of bytes unchanged between system addresses. -/
  | plain (b : Fin 32) (c : Fin 16)
  /-- MOVE_UP (R240). COPY sends an UP request for its record and completes when it is RESIDENT, or claims in run-ahead. -/
  | moveUp (b : Fin 32) (c : Fin 16)
  /-- EVICT (R252). COPY or request asks an ordinary eviction of a record. -/
  | evict (r : ReqSrc)
  /-- FORCE_EVICT (R252). COPY or request asks a forced eviction of a record. -/
  | forceEvict (r : ReqSrc)
  /-- PL_POST (R250). A write of COUNT posts a run of placement request blocks, read whole before acceptance. Write of PL_POST_HI. -/
  | plPost (m : Master) (v : BitVec 32)
  /-- CREATE (R247). Creates a residency record in state ABSENT and charges it. Acceptance of the oldest posted request block, when it is this request. -/
  | create
  /-- FREE (R251). Clears a record and returns its charges. Acceptance of the oldest posted request block, when it is this request. -/
  | free
  /-- SHARE (R251). Adds 1 to a record's REFS. Acceptance of the oldest posted request block, when it is this request. -/
  | share
  /-- UNSHARE (R251). Subtracts 1 from a record's REFS. Acceptance of the oldest posted request block, when it is this request. -/
  | unshare
  /-- UP (R252). Requests the move-up of a record, optionally with a pin. Acceptance of the oldest posted request block, when it is this request. -/
  | up
  /-- CANCEL_EVICT (R251). Clears EVICT_PEND and FORCE_PEND of a record. Acceptance of the oldest posted request block, when it is this request. -/
  | cancelEvict
  /-- PIN (R251). Adds 1 to a record's PINS. Acceptance of the oldest posted request block, when it is this request. -/
  | pin
  /-- UNPIN (R251). Subtracts 1 from PINS, starting a pending write-back when pins and busy reach 0. Acceptance of the oldest posted request block, when it is this request. -/
  | unpin
  /-- ADMIT (R255). Reserves the listed capacity for a job or refuses it whole. Acceptance of the oldest posted request block, when it is this request. -/
  | admitJob
  /-- RELEASE_JOB (R257). Closes a job's account and returns its reservations. Acceptance of the oldest posted request block, when it is this request. -/
  | releaseJob
  /-- QUERY_JOB (R257). Writes a job's reserved and charged amounts per unit. Acceptance of the oldest posted request block, when it is this request. -/
  | queryJob
  /-- MOVE_UP_DONE (R252). A move-up completes; dirty bits clear, the record becomes RESIDENT and pending evictions apply. -/
  | moveUpDone (rec : Nat)
  /-- WRITE_BACK_DONE (R252). A write-back completes; the record becomes ABSENT and a pending move-up starts. -/
  | writeBackDone (rec : Nat)
  /-- MOVE_STOP (R252). A move-up or write-back stops on an error, setting MOVE_FAILED and failing its waiters. -/
  | moveStop (rec : Nat) (code : BitVec 16)
  /-- TIER_LATE (R261). A hold passes LATE_LIMIT and TIER_LATE is reported with ALERT_N. The i-th hold of basin b. -/
  | tierLate (b : Fin 32) (i : Nat)
  /-- PL_MODE_WRITE (R258). A write of PL_CFG.MODE switches between QUOTA and SERVICE or is refused. Write of PL_CFG. -/
  | plModeWrite (m : Master) (v : BitVec 32)
  /-- FLASH_PROGRAM_ACK (R262). The translation layer acknowledges a write after programming and its journal entry. The i-th flash write under way. -/
  | flashProgramAck (i : Nat) (err : Option (BitVec 16))
  /-- WEAR_LEVELLING (R263). The layer moves static data when erase-count spread passes WEAR_SPREAD. -/
  | wearLevelling (src : Nat) (dst : Nat)
  /-- READ_DISTURB_REFRESH (R263). A block read beyond RD_LIMIT is rewritten elsewhere. -/
  | readDisturbRefresh (blk : Nat) (dst : Nat)
  /-- BAD_BLOCK_RETIRE (R263). A block that fails erase or program is retired and its data reprogrammed. -/
  | badBlockRetire (blk : Nat)
  /-- MS_POST (R276). A write of COUNT posts a run of model-set command blocks. Write of MS_POST_HI. -/
  | msPost (m : Master) (v : BitVec 32)
  /-- MS_LOAD (R277). LOAD reads, checks and multicasts a model set into an entry. -/
  | msLoad (x : LoadSrc)
  /-- STAGE (R277). STAGE loads the next epoch into the staging area at DEST + BIAS. -/
  | stage (x : LoadSrc)
  /-- REPLACE (R283). REPLACE arms an in-place replacement of the staged epoch at ARM_TICK. Acceptance of the oldest posted command block, when it is this command. -/
  | replace
  /-- ABORT (R291). ABORT stops a load, staging or replacement. Acceptance of the oldest posted command block, when it is this command. -/
  | abort
  /-- RETIRE (R292). RETIRE makes a set entry EMPTY. Acceptance of the oldest posted command block, when it is this command. -/
  | retire
  /-- BIND (R268). BIND attaches a job to a set entry. Acceptance of the oldest posted command block, when it is this command. -/
  | bind
  /-- UNBIND (R268). UNBIND detaches a job from its set. Acceptance of the oldest posted command block, when it is this command. -/
  | unbind
  /-- ADAPTER_SWITCH (R294). ADAPTER_SWITCH schedules a new adapter directory entry for a job at a tick. Acceptance of the oldest posted command block, when it is this command. -/
  | adapterSwitch
  /-- ADAPTER_SWITCH_APPLY (R295). Once earlier steps drain after TICK, the entry is written to every named basin and the job released. The i-th pending switch. -/
  | adapterSwitchApply (i : Nat)
  /-- SHARD_READ_DONE (R280). The reader finishes reading a shard, judges it, and re-reads, serves requests or announces the next. -/
  | shardReadDone (e : Fin 16)
  /-- SHARD_ANNOUNCE (R277). A receiver takes a shard announcement and the multicast bytes that follow. -/
  | shardAnnounce (e : Fin 16) (x : ShardRx)
  /-- SHARD_GOOD (R277). The reader receives a receiver's GOOD report for a shard. -/
  | shardGood (e : Fin 16) (p : Sent) (i : Nat)
  /-- SHARD_BAD (R279). The reader receives a receiver's BAD report for a shard. -/
  | shardBad (e : Fin 16) (p : Sent) (i : Nat)
  /-- SHARD_MISSING (R279). 500 ms after an announcement a receiver lacking the shard sends a request. -/
  | shardMissing (e : Fin 16) (i : Nat)
  /-- SHARD_REQUEST (R280). The reader receives a missing-shard request and schedules a further read. -/
  | shardRequest (e : Fin 16) (p : Sent) (i : Nat)
  /-- LOAD_DONE_REPORT (R277). The reader receives a receiver's DONE and multicasts COMPLETE when all have reported. -/
  | loadDoneReport (e : Fin 16) (p : Sent)
  /-- COMPLETE (R277). On COMPLETE a package sets the entry READY or STAGED and completes the command. -/
  | complete (e : SetMsg)
  /-- FAIL (R281). On FAIL a package marks the load failed and releases its holds. -/
  | fail (e : SetMsg) (cause : BitVec 4)
  /-- REPL_ARM (R285). At ARM_TICK the replacement barrier is armed and later-step items are held. -/
  | replArm (e : Fin 16)
  /-- REPL_LAYER_COPY (R286). The copy of a layer begins once earlier steps have left it and its records are quiet. -/
  | replLayerCopy (e : Fin 16)
  /-- REPL_LAYER_DONE (R286). A layer copy completes; the next begins or DONE goes to the coordinator. -/
  | replLayerDone (e : Fin 16)
  /-- REPL_DONE (R287). The coordinator receives DONE and multicasts RELEASE once all have reported. -/
  | replDone (e : Fin 16) (p : Sent)
  /-- REPL_RELEASE (R287). On RELEASE a package makes the new epoch current and releases held items. -/
  | replRelease (e : SetMsg)
  /-- REPL_STUCK (R290). REPL_LIMIT passes without release or switch and REPL_STUCK is reported. -/
  | replStuck (x : StuckSrc)
  /-- TRAIN (R307). A TRAIN write begins training of a link. Write of TH_LINK_CTRL_l. -/
  | train (m : Master) (l : Fin 12) (v : BitVec 32)
  /-- TRAIN_DONE (R307). Training ends with the link UP or FAILED. -/
  | trainDone (l : Fin 12) (x : Ident)
  /-- TRAIN_TIMEOUT (R307). A training stage, or the partner's answer, exceeds its time and the link fails with TH_TRAIN. -/
  | trainTimeout (l : Fin 12)
  /-- DOWN (R320). A DOWN write takes a link down and settles its flits. Write of TH_LINK_CTRL_l. -/
  | down (m : Master) (l : Fin 12) (v : BitVec 32)
  /-- LANE_FAIL (R306). A lane loses lock or exceeds its FEC limit and takes its link DOWN. -/
  | laneFail (l : Fin 12) (lane : BitVec 2)
  /-- IDLE (R309). An IDLE flit is received, carrying acknowledgements and credits. Flit received on link l. -/
  | idle (l : Fin 12) (f : Flit)
  /-- BEAT (R319). A BEAT flit is received, carrying the sender's boot nonce. Flit received on link l. -/
  | beat (l : Fin 12) (f : Flit)
  /-- WRITE (R314). A WRITE flit is received and its bytes written or forwarded. Flit received on link l. -/
  | write (l : Fin 12) (f : Flit)
  /-- WRITE_ACK (R314). A WRITE_ACK completes a remote write at the requester. Flit received on link l. -/
  | writeAck (l : Fin 12) (f : Flit)
  /-- READ_REQ (R314). A READ_REQ is served with READ_DATA or ERR_RESP. Flit received on link l. -/
  | readReq (l : Fin 12) (f : Flit)
  /-- READ_DATA (R314). READ_DATA returns bytes of a remote read. Flit received on link l. -/
  | readData (l : Fin 12) (f : Flit)
  /-- ATOMIC (R314). An ATOMIC is performed at its home and answered. Flit received on link l. -/
  | atomic (l : Fin 12) (f : Flit)
  /-- ATOMIC_RESP (R314). ATOMIC_RESP returns an atomic result to its requester. Flit received on link l. -/
  | atomicResp (l : Fin 12) (f : Flit)
  /-- MCAST_WRITE (R316). A multicast write is written at a receiver and forwarded down the tree. Flit received on link l. -/
  | mcastWrite (l : Fin 12) (f : Flit)
  /-- ERR_RESP (R314). ERR_RESP completes a transaction with an error as if met locally. Flit received on link l. -/
  | errResp (l : Fin 12) (f : Flit)
  /-- CONFIRM (R318). A CONFIRM message marks a confirmed message received by one receiver. -/
  | confirm (p : BitVec 4) (tag : BitVec 16)
  /-- CONFIRM_RESEND (R318). 20 us after last sending, an unconfirmed message is sent again. -/
  | confirmResend (tag : BitVec 16)
  /-- REPLAY_TIMEOUT (R311). 2 us without acknowledgement triggers a replay, or DOWN after REPLAY_MAX. -/
  | replayTimeout (l : Fin 12)
  /-- ACK_TIMER (R311). The receiver sends a cumulative acknowledgement every 100 ns or 32 flits. -/
  | ackTimer (l : Fin 12)
  /-- BEAT_SEND (R319). Every 10 us each UP link sends a BEAT. -/
  | beatSend (l : Fin 12)
  /-- BEAT_MISS (R319). No BEAT accepted for HB_MISS x 10 us + 2 us takes the link DOWN. -/
  | beatMiss (l : Fin 12)
  /-- FENCE (R322). A TH_FENCE.FENCE write fences a package. Write of TH_FENCE. -/
  | fence (m : Master) (v : BitVec 32)
  /-- LOST_NOTICE (R322). A LOST notice arrives, fencing the named package or self-fencing the receiver. -/
  | lostNotice (src : BitVec 4) (tag : BitVec 16) (p : BitVec 4) (nonce : BitVec 32)
  /-- UNFENCE (R324). A TH_FENCE.UNFENCE write returns a package to LIVE if a new nonce was seen. Write of TH_FENCE. -/
  | unfence (m : Master) (v : BitVec 32)
  /-- TH_MEMBERS_WRITE (R327). A write of TH_MEMBERS, ignored while any link is UP or TRAINING. -/
  | thMembersWrite (m : Master) (v : BitVec 32)
  /-- FE_FRAME (R334). Every 10 ms of audio the wellhead writes a frame of each output and runs the wake stages on it. -/
  | feFrame (x : AudioIn)
  /-- WAKE_REQUEST (R402). A wake request acts as a request for ACTIVE, after any change in progress. -/
  | wakeRequest
  /-- STAGE3_POST (R340). Once its conditions hold, stage 3 fetches frames, prepares the item and posts it to V_BASIN. -/
  | stage3Post
  /-- STAGE3_POLL (R340). Every 10 us the wellhead reads the done word and, when set, takes the verdict. -/
  | stage3Poll
  /-- STAGE3_TIMEOUT (R340). V_LIMIT passes with the done word 0 and stage 3 fails. -/
  | stage3Timeout
  /-- RING_BLOCK (R342). Every 16 ms a ring block of all ring channels is coded and stored, overwriting the oldest. X carries nothing; once 256 samples of each ring channel are there. -/
  | ringBlock (x : Unit)
  /-- FE_FETCH (R343). GO decodes frames from the ring into PCM at DST. Write of the FE_FETCH control word. -/
  | feFetch (m : Master) (v : BitVec 32)
  /-- FE_DSP_LOAD (R339). LOAD checks a keyword image and loads it into the DSP. -/
  | feDspLoad (m : Master) (v : BitVec 32)
  /-- MUTE (R344). A write of FE_MUTE stops or lets samples through and starts clearing. -/
  | mute (m : Master) (v : BitVec 32)
  /-- MUTE_CLEAR_DONE (R344). Zeroing after a mute ends and CLEARING falls. -/
  | muteClearDone
  /-- RING_CONFIG_WRITE (R342). A write of FE_RING_CFG or FE_RING_SRC empties the ring and drops wake stages in progress. J 0: FE_RING_CFG; j+1: FE_RING_SRC_j. -/
  | ringConfigWrite (m : Master) (j : Fin 9) (v : BitVec 32)
  /-- FE_ARRAY_APPLY (R346). An array or beam register write applies at the array's next frame boundary. -/
  | feArrayApply (a : Fin 4)
  /-- FE_PLL_LOCK (R335). The audio PLL reaches its gPTP targets; FRAME_OFS is set and OFS_VALID raised. -/
  | fePllLock
  /-- AVTP_RECEIVE (R359). A listener AVTP packet is checked and its samples placed in frame records. -/
  | avtpReceive (x : NetIn)
  /-- LISTENER_FRAME_CLOSE (R360). A listener frame closes at its end plus LATENESS and its header is written. -/
  | listenerFrameClose (slot : Fin 512) (k : BitVec 32)
  /-- TALKER_UNIT_READ (R362). The hub reads a talker unit 200 us before its start. -/
  | talkerUnitRead (t : Fin 2048) (n : BitVec 32)
  /-- TALKER_PACKET_SEND (R362). A talker packet is sent at its first sample's time, marked by commit state. K: packet of the unit read. -/
  | talkerPacketSend (t : Fin 2048) (k : Nat)
  /-- RESULT_DATAGRAM_SEND (R364). A RESULT datagram leaves at 91 records or 50 us after its first. -/
  | resultDatagramSend
  /-- WDATA (R366). A WDATA datagram writes bytes into flash through the translation layer. -/
  | wdata (x : WDatagram)
  /-- WACK (R366). Once the flash acknowledges a WDATA write, a WACK is returned. -/
  | wack (i : Nat)
  /-- CTRL_REQ (R367). A host control request performs one indirect access and returns CTRL_RESP. -/
  | ctrlReq (x : CtrlRequest)
  /-- GPTP_SYNC (R351). A gPTP Sync message updates the offset estimate and lock state. -/
  | gptpSync (x : SyncMsg)
  /-- GPTP_SYNC_TIMEOUT (R351). No Sync within syncReceiptTimeout and the package loses lock. -/
  | gptpSyncTimeout
  /-- ETH_LINK_CHANGE (R368). A host port's link goes up or down. -/
  | ethLinkChange (p : Fin 2) (isUp : Bool)
  /-- READ (R373). A management-port READ frame accesses one small-map register. -/
  | read (f : PortFrame)
  /-- MP_WRITE (R373). A management-port WRITE frame accesses one small-map register. -/
  | mpWrite (f : PortFrame)
  /-- FRAME_ABORT (R374). MCS_N rises before a frame ends and the frame is discarded or its response lost. Late: MCS_N rose after cycle 56. -/
  | frameAbort (f : PortFrame) (late : Bool)
  /-- IW_READ (R379). GO with WRITE 0 performs one 32-bit read through the indirect window. -/
  | iwRead (inc : Bool)
  /-- IW_WRITE (R379). GO with WRITE 1 performs one 32-bit write through the indirect window. -/
  | iwWrite (be : BitVec 4) (inc : Bool)
  /-- IW_TIMEOUT (R380). An indirect access not complete 1 ms after GO ends with IW_TIMEOUT. -/
  | iwTimeout
  /-- ER_DATA_READ (R378). A read of ER_DATA returns a recorder word and advances ER_PTR. -/
  | erDataRead
  /-- MP_RESET (R410). The key written to MP_RESET starts a package reset. -/
  | mpReset (m : Master) (v : RegWrite)
  /-- PEAK_CLR (R377). PEAK_CLR sets TJ_PEAK to TJ. -/
  | peakClr (m : Master)
  /-- LOCK (R384). MP_LOCK.LOCK locks the mailbox binding table until package reset. -/
  | lock (m : Master)
  /-- BINDING_WRITE (R384). A write of a mailbox binding entry binds a channel and empties it. -/
  | bindingWrite (m : Master) (ch : Fin 64) (v : BitVec 32)
  /-- MB_DATA_WRITE (R385). A sender writes a word into a mailbox channel. -/
  | mbDataWrite (m : Master) (ch : MbChan) (v : BitVec 32)
  /-- MB_DATA_READ (R386). The receiver reads a mailbox word and clears FULL. -/
  | mbDataRead (m : Master) (ch : MbChan)
  /-- STATUS_POLL (R387). A master polls a channel's status word, with MB_DOMAIN_OFF for a dead peer. -/
  | statusPoll (m : Master) (ch : MbChan)
  /-- TAKE (R388). MB_SEL.TAKE takes the word of the selected channel for the management port. Write of MB_SEL with CHANNEL ch and TAKE 1. -/
  | take (ch : Fin 64)
  /-- BASIN_PROFILE (R64). Writing BASIN_PROFILE applies its basin settings. Write of the profile register. -/
  | basinProfile (m : Master) (v : RegWrite)
  /-- SCALE_PROFILE (R90). Writing SCALE_PROFILE writes every SU_CFG_n. Write of the profile register. -/
  | scaleProfile (m : Master) (v : RegWrite)
  /-- STATE_PROFILE (R116). Writing STATE_PROFILE writes ST_CFG. Write of the profile register. -/
  | stateProfile (m : Master) (v : RegWrite)
  /-- ATTN_PROFILE (R143). Writing ATTN_PROFILE writes AT_CFG. Write of the profile register. -/
  | attnProfile (m : Master) (v : RegWrite)
  /-- KV_PROFILE (R175). Writing KV_PROFILE writes KV_CFG. Write of the profile register. -/
  | kvProfile (m : Master) (v : RegWrite)
  /-- WQ_PROFILE (R203). Writing WQ_PROFILE writes WQ_CFG. Write of the profile register. -/
  | wqProfile (m : Master) (v : RegWrite)
  /-- CADENCE_PROFILE (R203). Writing CADENCE_PROFILE writes CAD_CFG. Write of the profile register. -/
  | cadenceProfile (m : Master) (v : RegWrite)
  /-- COMPRESS_PROFILE (R234). Writing COMPRESS_PROFILE writes CX_CFG. Write of the profile register. -/
  | compressProfile (m : Master) (v : RegWrite)
  /-- PLACE_PROFILE (R266). Writing PLACE_PROFILE writes LATE_LIMIT and FL_CFG. Write of the profile register. -/
  | placeProfile (m : Master) (v : RegWrite)
  /-- MODEL_PROFILE (R299). Writing MODEL_PROFILE writes MS_CFG. Write of the profile register. -/
  | modelProfile (m : Master) (v : RegWrite)
  /-- FABRIC_PROFILE (R328). Writing FABRIC_PROFILE writes TH_CFG and trains or downs links. Write of the profile register. -/
  | fabricProfile (m : Master) (v : RegWrite)
  /-- FE_PROFILE (R348). Writing FE_PROFILE writes the array and wake settings. Write of the profile register. -/
  | feProfile (m : Master) (v : RegWrite)
  /-- NET_PROFILE (R370). Writing NET_PROFILE writes NET_CFG. Write of the profile register. -/
  | netProfile (m : Master) (v : RegWrite)
  /-- POWER_PROFILE (R419). Writing POWER_PROFILE writes WR_BUDGET and WR_CFG. Write of the profile register. -/
  | powerProfile (m : Master) (v : RegWrite)
  /-- RECORD_PROFILE (R441). Writing RECORD_PROFILE writes ER_CFG. Write of the profile register. -/
  | recordProfile (m : Master) (v : RegWrite)
  /-- REGISTER_WRITE (R6). A write to a register that has no row of its own. -/
  | registerWrite (m : Master) (addr : BitVec 48) (v : RegWrite)
  /-- POWER_REQUEST (R398). MP_POWER.GO requests a change to the mode in REQ. PwrGood: level of the pin. -/
  | powerRequest (m : Master) (req : BitVec 2) (pwrGood : Bool)
  /-- POWER_CHANGE_DONE (R399). A requested mode change completes. -/
  | powerChangeDone
  /-- POWER_DRAIN_TIMEOUT (R398). Basins not idle 20 ms after GO and the change is refused with PWR_DRAIN. -/
  | powerDrainTimeout
  /-- POWER_OFF (R416). MP_POWER.OFF switches off every domain but the island within 100 us. -/
  | powerOff (m : Master)
  /-- CLAMP_WRITE (R416). A write of MP_POWER.CLAMP lowers the package limit. -/
  | clampWrite (m : Master) (clamp : BitVec 8)
  /-- CLAMP_FALLBACK (R416). With no weir grant for 100 us under a clamp, the island forces every basin to s = 12. -/
  | clampFallback
  /-- WEIR_PERIOD (R403). Every 10 us the weir measures, sets the limit and grants credits to basins. Fixed draw in credits; request of each basin in credits. -/
  | weirPeriod (fixed : Nat) (req : List Nat)
  /-- DIDT_TRIP (R407). The VDD_CORE comparator trips and every basin stretches fully. -/
  | didtTrip
  /-- THERMAL_STEP (R408). Every 10 ms the weir lowers or restores budgets by the junction temperature. -/
  | thermalStep (tj : BitVec 8)
  /-- THERMAL_SHUTDOWN (R416). A sensor reaches 110 C and the island powers off the package. -/
  | thermalShutdown (tj : BitVec 8)
  /-- PWR_GOOD_FALL (R396). PWR_GOOD falls outside OFF and the island powers off. -/
  | pwrGoodFall
  /-- RST_N_LOW (R410). RST_N held low resets the package reset domain. -/
  | rstNLow (straps : Straps)
  /-- ALWAYS_ON_RESET (R410). Power-on or VDD_AON low resets the always-on domain. -/
  | alwaysOnReset
  /-- STARTUP_STAGE_DONE (R411). A start-up stage completes and the next begins, ending at READY or FAILED. -/
  | startupStageDone (x : StageIn)
  /-- CONTAIN_NOTICE (R424). A containment notice arrives and the job is contained with RC_REMOTE. -/
  | containNotice (src : BitVec 4) (tag : BitVec 16) (job : BitVec 16) (code : BitVec 16)
  /-- CONTAINED_RELEASE (R426). Writing 1 to RC_JOB_j.CONTAINED releases containment unless INFLIGHT. -/
  | containedRelease (m : Master) (j : Fin 256)
  /-- READY_C (R428). The home receives READY(c) and passes the commit point once all are in. -/
  | readyC (src : BitVec 4) (tag : BitVec 16) (j : Fin 256) (ct : BitVec 32)
  /-- COMMIT_C (R428). On COMMIT(c) a package sets RC_COMMIT_j and sends its COMMIT datagram. -/
  | commitC (src : BitVec 4) (tag : BitVec 16) (j : Fin 256) (ct : BitVec 32)
  /-- COMMIT_LATE (R429). A commit point not passed LATE ms after its tick is reported. -/
  | commitLate (j : Fin 256) (ct : BitVec 32)
  /-- RECORDER_INTERVAL_CLOSE (R437). A one-second interval closes and SUMMARY and INTERVAL records are written. -/
  | recorderIntervalClose
  /-- MIRROR_SECTOR_WRITE (R440). A mirror sector is written to flash when full, after 1 s, or after a severe record. -/
  | mirrorSectorWrite
  /-- ATTEST (R456). SEC_CTRL ATTEST signs a report with the next leaf. Write of SEC_CTRL with this OP. -/
  | attest (m : Master)
  /-- ANCHOR (R455). SEC_CTRL ANCHOR anchors the chain to a given hash and reserves the next block. Write of SEC_CTRL with this OP. -/
  | anchor (m : Master)
  /-- MOVE (R455). SEC_CTRL MOVE builds a new subtree and writes a MOVED reservation record. Write of SEC_CTRL with this OP. -/
  | move (m : Master)
  /-- ENROL (R444). SEC_CTRL ENROL creates helper data and a new identity. Write of SEC_CTRL with this OP. -/
  | enrol (m : Master)
  /-- RESCAN (R450). SEC_CTRL RESCAN re-reads the enrolment area and enrols publishers. Write of SEC_CTRL with this OP. -/
  | rescan (m : Master)
  /-- RST_N_RELEASE (R410). RST_N goes high again after a reset and the package starts toward MP_POWER.REQ through the start-up stages. -/
  | rstNRelease
  /-- ALWAYS_ON_RESET_END (R412). The 2 ms always-on reset hold ends: straps are sampled, the MARK record is written, a deferred thermal shutdown is taken, and with AUTO_ON the start-up sequence begins. -/
  | alwaysOnResetEnd (straps : Straps)
  /-- IDENTITY_READY (R446). The security engine finishes building the top HSS tree, ID_READY is set, the identity record becomes readable, and a load waiting at step 1 of R277 proceeds. -/
  | identityReady
  deriving DecidableEq, Repr

end Sys2Proof
end

