-- ==== Sys2Proof/Decode.lean ====
section
/-! DEFINITION. The command that a word of the table's bits spells. The rows of `spec/opcode_table.json` give no bits, so there is no
such word (log entry 7). -/

namespace Sys2Proof

/-- The command spelled by the low `nbits` bits of a word: none, for any word. -/
def decodeTableWord (_nbits _w : Nat) : Option Instr := none

end Sys2Proof
end

