-- ==== Sys2Proof/Config.lean ====
section
/-! DEFINITION. The free values of the model: opaque constants with no body, so that no proof can see what they are.
Each stands for a value that the spec leaves open, or for a function of a published standard that the spec names and
does not define (SHA-256, the signature scheme of the firmware and manifests, AES-256-GCM, ML-KEM). -/

namespace Sys2Proof

/-- A free byte: the `i`-th byte of the `n`-th draw (log entry 1). -/
opaque Config.freeByte (n i : Nat) : Byte

/-- A free number: the `n`-th draw, for a value whose range the user of the draw bounds (log entry 1). -/
opaque Config.freeNat (n : Nat) : Nat

/-- The bytes of a message between hubs in its MSG flit (R309): the spec gives these messages no layout (log entry 2). -/
opaque Config.msgBytes (x : HubMsg) : List Byte

/-- What the special-function unit answers on an FP32 argument (R51, log entry 5): op 1 EXP2, 2 RECIP, 3 RSQRT, 4 LOG2,
5 TANH. It is used only where it lies within the accuracy that R51 states. -/
opaque Config.sfu (op : Nat) (arg : Nat) : Nat

/-- SHA-256 of a string of bytes (R270, R447, R453): 32 bytes, a published standard the spec does not define. -/
opaque Config.sha256 (bytes : List Byte) : List Byte

/-- HMAC-SHA-256 (R443, R453), a published standard. -/
opaque Config.hmac (key bytes : List Byte) : List Byte

/-- HKDF-SHA-256 with a salt of 32 zero bytes (R445, R451): `n` bytes from a key and an info string. -/
opaque Config.hkdf (key info : List Byte) (n : Nat) : List Byte

/-- The vendor root in boot ROM (R442, R449): a public key that the spec names and does not give. -/
opaque Config.vendorRoot : List Byte

/-- Whether an HSS signature over a string of bytes verifies under a public key (R442). -/
opaque Config.hssVerify (key bytes signature : List Byte) : Bool

/-- The HSS public key whose top-level tree grows from the output of "T16 HSS TOP" (R445, R446). -/
opaque Config.hssPublic (top : List Byte) : List Byte

/-- The HSS signature over a string of bytes with leaf `leaf` of the second-level tree that grows from `sub`, whose key top-tree leaf `tree`
signs (R445, R452). -/
opaque Config.hssSign (top sub : List Byte) (tree leaf : Nat) (bytes : List Byte) : List Byte

/-- The ML-KEM-1024 encapsulation key of a seed (R445, R446). -/
opaque Config.kemPublic (seed : List Byte) : List Byte

/-- ML-KEM-1024 decapsulation (R451): the shared secret. -/
opaque Config.kemDecaps (seed ciphertext : List Byte) : List Byte

/-- AES Key Wrap opening (R451): the content key, or none where the integrity check fails. -/
opaque Config.keyUnwrap (kek wrapped : List Byte) : Option (List Byte)

/-- AES-256-GCM opening of a shard (R272): the plain bytes, or none where the tag does not match; `aad` is the
additional authenticated data of R274. -/
opaque Config.gcmOpen (key nonce aad tag bytes : List Byte) : Option (List Byte)

/-- What the die's PUF array makes of a copy of the helper data (R443): a candidate for K_root, if it makes one. -/
opaque Config.pufRoot (copy : List Byte) : Option (List Byte)

/-- The check value that a copy of the helper data holds (R443); the spec does not say where in the sector it lies. -/
opaque Config.pufCheck (copy : List Byte) : List Byte

/-- What the `n`-th ENROL draws from the array (R444): K_root and the sector of helper data made for it. -/
opaque Config.pufEnrol (n : Nat) : List Byte × List Byte

/-- The MAC address that address resolution gives for an IPv4 address (R349), where no ARP packet of that address has come. -/
opaque Config.arpMac (ip : Nat) : Nat

/-- The stages of a path after its CIC (R331), the half-bands and the droop-compensating FIR, whose coefficients the spec does not give: from
what they hold and the CIC's output of a frame, what they hold then and the samples, in units of 1/256 of the last place of the output
width. -/
opaque Config.decimate (high : Bool) (held cic : List Int) : List Int × List Int

/-- The DC blocker of a path (R332), whose coefficients the spec does not give: from what it holds and the samples of a frame,
what it holds then and the samples it gives. -/
opaque Config.dcBlock (high : Bool) (held samples : List Int) : List Int × List Int

/-- Coefficient `j` of phase `p` of the beam interpolator (R333), in units of 1/32,768; the spec does not give them. -/
opaque Config.tap (p j : Nat) : Int

/-- What a sum that INT32 cannot hold leaves in a layer of the keyword network (R339); the spec states no result there. -/
opaque Config.overflow32 (exact : Int) : Int

/-- Feature i of a frame (R338) before it is held to INT8, in units of 1/8, from the ring audio of the 32 ms that end with the frame; the spec
does not give the transform bit by bit. -/
opaque Config.feature (samples : List Int) (i : Nat) : Int

end Sys2Proof
end

