-- ==== Sys2Proof/Machine/Data.lean ====
section
/-! DEFINITION. Plain data and the operations on it: tables sorted by key, memories in their one canonical form, and
the reading and writing of bit fields and of little-endian words (R5). -/

namespace Sys2Proof.Machine

/-- A table sorted by strictly rising key. A key that is not listed stands for the table's default. -/
abbrev Tab (α : Type) := List (Nat × α)

/-- The entry of a key, if it is listed. -/
def tabFind {α : Type} : Tab α → Nat → Option α
  | [], _ => none
  | (k, v) :: r, n => if k = n then some v else tabFind r n

/-- The entry of a key, or the default. -/
def tabGet {α : Type} (d : α) (m : Tab α) (n : Nat) : α := (tabFind m n).getD d

/-- The table with the entry of one key set. -/
def tabSet {α : Type} : Tab α → Nat → α → Tab α
  | [], n, v => [(n, v)]
  | (k, w) :: r, n, v =>
    if n < k then (n, v) :: (k, w) :: r else if n = k then (n, v) :: r else (k, w) :: tabSet r n v

/-- The table without one key. -/
def tabDel {α : Type} : Tab α → Nat → Tab α
  | [], _ => []
  | (k, w) :: r, n => if n < k then (k, w) :: r else if n = k then r else (k, w) :: tabDel r n

/-- The keys rise strictly, each above `lo` where one is given. -/
def tabSorted {α : Type} : Option Nat → Tab α → Bool
  | _, [] => true
  | lo, (k, _) :: r => (match lo with | none => true | some l => decide (l < k)) && tabSorted (some k) r

/-- A memory: (address, byte) pairs. An address that is not listed reads 0 (R56, R411, R262). -/
abbrev Memory := List Host.Cell

/-- The one canonical form of a memory: addresses strictly rising, and no entry equal to what an unlisted address
reads as. -/
def Memory.wf (m : Memory) : Bool := tabSorted none m && m.all (fun c => c.2 != 0)

/-- The byte at an address. -/
def memRead (m : Memory) (a : Nat) : Byte := tabGet 0 m a

/-- The memory with one byte written. -/
def memWrite (m : Memory) (a : Nat) (v : Byte) : Memory := if v = 0 then tabDel m a else tabSet m a v

/-- The bytes of `n` addresses from `a` upward. -/
def memReadN (m : Memory) (a : Nat) : Nat → List Byte
  | 0 => []
  | n + 1 => memRead m a :: memReadN m (a + 1) n

/-- The memory with consecutive bytes written from `a` upward. -/
def memWriteN (m : Memory) (a : Nat) : List Byte → Memory
  | [] => m
  | v :: vs => memWriteN (memWrite m a v) (a + 1) vs

/-- The number a little-endian string of bytes spells (R5). -/
def leNat : List Byte → Nat
  | [] => 0
  | v :: vs => v.toNat + 256 * leNat vs

/-- The `n` bytes of a number, least significant first (R5). -/
def leBytes : Nat → Nat → List Byte
  | 0, _ => []
  | n + 1, x => BitVec.ofNat 8 x :: leBytes n (x / 256)

/-- The field of `w` bits whose lowest is bit `lo` of `x`. -/
def fld (x lo w : Nat) : Nat := x / 2 ^ lo % 2 ^ w

/-- `x` with the field of `w` bits at `lo` set to `v`. -/
def setFld (x lo w v : Nat) : Nat := x - fld x lo w * 2 ^ lo + (v % 2 ^ w) * 2 ^ lo

/-- Bit `i` of `x`. -/
def bit (x i : Nat) : Bool := x.testBit i

/-- 1 for true. -/
def b2n (b : Bool) : Nat := if b then 1 else 0

/-- The two's complement reading of the low `w` bits of `x`. -/
def signed (w x : Nat) : Int :=
  let v := x % 2 ^ w
  if v < 2 ^ (w - 1) then (v : Int) else (v : Int) - (2 ^ w : Nat)

/-- The low `w` bits of an integer in two's complement. -/
def unsigned (w : Nat) (i : Int) : Nat := (i % ((2 ^ w : Nat) : Int)).toNat

/-- The quotient, rounded up. -/
def ceilDiv (a b : Nat) : Nat := (a + b - 1) / b

/-- `x` rounded up to a multiple of `b`. -/
def roundUp (x b : Nat) : Nat := ceilDiv x b * b

/-- The numbers `a`, `a + 1`, … `a + n - 1`. -/
def span (a n : Nat) : List Nat := (List.range n).map (a + ·)

/-- The first element of a list that satisfies a test, and its place. -/
def findPos {α : Type} (p : α → Bool) : List α → Nat → Option (Nat × α)
  | [], _ => none
  | x :: xs, i => if p x then some (i, x) else findPos p xs (i + 1)

/-- The list without its `i`-th element. -/
def dropAt {α : Type} (xs : List α) (i : Nat) : List α := xs.eraseIdx i

end Sys2Proof.Machine
end

