-- ==== Sys2Proof/Machine/Num.lean ====
section
/-! DEFINITION. Number formats, exact arithmetic and the one rounding rule (R41, R65 to R70, R77, R85). A value is
exact: a sign, a magnitude and a power of two. Every result that must lose bits is rounded to the nearest, a tie away
from zero (R69). -/

namespace Sys2Proof.Machine

/-- The formats of R41. -/
inductive Fmt where
  | int4 | int8 | fp8 | bf16 | fp32 | int32
  deriving DecidableEq, Repr

/-- The format of a 4-bit code (R41); the other codes are reserved. -/
def fmtOf : Nat → Option Fmt
  | 0 => some .int4 | 1 => some .int8 | 2 => some .fp8 | 3 => some .bf16 | 4 => some .fp32 | 5 => some .int32
  | _ => none

/-- The width of an element in bits. -/
def Fmt.bits : Fmt → Nat
  | .int4 => 4 | .int8 => 8 | .fp8 => 8 | .bf16 => 16 | .fp32 => 32 | .int32 => 32

/-- The bytes that `n` packed elements occupy (INT4 two to a byte, R65). -/
def Fmt.bytes (f : Fmt) (n : Nat) : Nat := ceilDiv (f.bits * n) 8

/-- Integer formats. -/
def Fmt.isInt : Fmt → Bool
  | .int4 | .int8 | .int32 => true
  | _ => false

/-- An exact value: NaN, an infinity, or (-1)^neg x m x 2^e, the sign of zero kept (R68). -/
inductive Val where
  | nan
  | inf (neg : Bool)
  | fin (neg : Bool) (m : Nat) (e : Int)
  deriving DecidableEq, Repr

/-- Plus zero. -/
def Val.zero : Val := .fin false 0 0

/-- The value of an integer. -/
def Val.ofInt (i : Int) : Val := .fin (decide (i < 0)) i.natAbs 0

/-- Is it NaN. -/
def Val.isNan : Val → Bool
  | .nan => true
  | _ => false

/-- Is it finite. -/
def Val.isFin : Val → Bool
  | .fin _ _ _ => true
  | _ => false

/-- The value of a stored float: `eb` exponent bits, `mb` fraction bits, bias, with infinities or without (R66, R67). -/
def floatVal (eb mb bias : Nat) (ieee : Bool) (x : Nat) : Val :=
  let s := bit x (eb + mb)
  let e := fld x mb eb
  let m := fld x 0 mb
  if e = 2 ^ eb - 1 ∧ ieee then (if m = 0 then .inf s else .nan)
  else if e = 2 ^ eb - 1 ∧ m = 2 ^ mb - 1 then .nan
  else if e = 0 then .fin s m (1 - (bias : Int) - mb)
  else .fin s (2 ^ mb + m) ((e : Int) - bias - mb)

/-- The value that a code of a format has (R65 to R67). -/
def valOf : Fmt → Nat → Val
  | .int4, x => Val.ofInt (signed 4 x)
  | .int8, x => Val.ofInt (signed 8 x)
  | .int32, x => Val.ofInt (signed 32 x)
  | .fp8, x => floatVal 4 3 7 false x
  | .bf16, x => floatVal 8 7 127 true x
  | .fp32, x => floatVal 8 23 127 true x

/-- The integer that a code of an integer format has. -/
def intOf : Fmt → Nat → Int
  | .int4, x => signed 4 x
  | .int8, x => signed 8 x
  | _, x => signed 32 x

/-- `n / d` rounded to the nearest whole number, a tie upward: with a magnitude, away from zero (R69). -/
def roundDiv (n d : Nat) : Nat := (2 * n + d) / (2 * d)

/-- `n x 2^e / d` as a fraction of naturals. -/
def scaled (n d : Nat) (e : Int) : Nat × Nat :=
  if 0 ≤ e then (n * 2 ^ e.toNat, d) else (n, d * 2 ^ (-e).toNat)

/-- The floor of the base-2 logarithm of n x 2^e / d, for n and d above 0. -/
def floorLog (n d : Nat) (e : Int) : Int :=
  let k : Int := (Nat.log2 n : Int) - (Nat.log2 d : Int)
  let (a, b) := scaled n d (-k)
  (if a < b then k - 1 else k) + e

/-- The magnitude n x 2^e / d rounded by R69 to `p` significant bits, none below 2^emin: the result is r x 2^q. -/
def roundMag (p : Nat) (emin : Int) (n d : Nat) (e : Int) : Nat × Int :=
  if n = 0 then (0, emin)
  else
    let q := max (floorLog n d e - (p : Int) + 1) emin
    let (a, b) := scaled n d (e - q)
    (roundDiv a b, q)

/-- The code, without its sign, of r x 2^q in a float format of `p` significant bits. The carry of a rounding up to the next power of
two passes into the exponent by itself. -/
def floatCode (p : Nat) (emin : Int) (r : Nat) (q : Int) : Nat := (q - emin).toNat * 2 ^ (p - 1) + r

/-- What a conversion yields (R70): the code, and whether SATURATE and NAN_CONVERT count it. -/
structure Conv where
  code : Nat
  sat : Bool := false
  nanc : Bool := false
  deriving DecidableEq, Repr

/-- A code with its sign bit. -/
def withSign (w : Nat) (neg : Bool) (x : Nat) : Nat := if neg then 2 ^ (w - 1) + x else x

/-- Conversion of (-1)^neg x n x 2^e / d to a format, with the rounding of R69 and the saturation of R70. -/
def convRat (f : Fmt) (neg : Bool) (n d : Nat) (e : Int) : Conv :=
  match f with
  | .fp32 =>
    let (r, q) := roundMag 24 (-149) n d e
    let c := floatCode 24 (-149) r q
    { code := withSign 32 neg (if c < 0x7F800000 then c else 0x7F800000) }
  | .bf16 =>
    let (r, q) := roundMag 8 (-133) n d e
    let c := floatCode 8 (-133) r q
    { code := withSign 16 neg (if c < 0x7F80 then c else 0x7F80) }
  | .fp8 =>
    let (r, q) := roundMag 4 (-9) n d e
    let c := floatCode 4 (-9) r q
    if c ≤ 0x7E then { code := withSign 8 neg c } else { code := withSign 8 neg 0x7E, sat := true }
  | _ =>
    let w := f.bits
    let (a, b) := scaled n d e
    let r := roundDiv a b
    let lim := if neg then 2 ^ (w - 1) else 2 ^ (w - 1) - 1
    if r ≤ lim then { code := unsigned w (if neg then -(r : Int) else r) }
    else { code := unsigned w (if neg then -(lim : Int) else lim), sat := true }

/-- Conversion of a value to a format (R69, R70). -/
def conv (f : Fmt) (v : Val) : Conv :=
  match v with
  | .fin s m e => convRat f s m 1 e
  | .nan =>
    match f with
    | .fp32 => { code := 0x7FC00000 }
    | .bf16 => { code := 0x7FC0 }
    | .fp8 => { code := 0x7F }
    | _ => { code := 0, nanc := true }
  | .inf s =>
    match f with
    | .fp32 => { code := withSign 32 s 0x7F800000 }
    | .bf16 => { code := withSign 16 s 0x7F80 }
    | .fp8 => { code := withSign 8 s 0x7E, sat := true }
    | _ => { code := unsigned f.bits (if s then -((2 ^ (f.bits - 1) : Nat) : Int) else ((2 ^ (f.bits - 1) - 1 : Nat) : Int)),
             sat := true }

/-- A value rounded to FP32 (R69). -/
def toF32 (v : Val) : Val := valOf .fp32 (conv .fp32 v).code

/-- The FP32 code of a value rounded to FP32. -/
def f32Code (v : Val) : Nat := (conv .fp32 v).code

/-- The value with the other sign. -/
def Val.neg : Val → Val
  | .nan => .nan
  | .inf s => .inf (!s)
  | .fin s m e => .fin (!s) m e

/-- The magnitude. -/
def Val.abs : Val → Val
  | .nan => .nan
  | .inf _ => .inf false
  | .fin _ m e => .fin false m e

/-- The exact sum. A sum of zeros of both signs, and an exact cancellation, is +0 (log entry 6). -/
def Val.add : Val → Val → Val
  | .nan, _ => .nan
  | _, .nan => .nan
  | .inf s, .inf t => if s = t then .inf s else .nan
  | .inf s, _ => .inf s
  | _, .inf t => .inf t
  | .fin s m e, .fin t n f =>
    let g := min e f
    let a : Int := (m * 2 ^ (e - g).toNat : Nat)
    let b : Int := (n * 2 ^ (f - g).toNat : Nat)
    let r := (if s then -a else a) + (if t then -b else b)
    if r = 0 then .fin (s && t) 0 g else .fin (decide (r < 0)) r.natAbs g

/-- The exact product. -/
def Val.mul : Val → Val → Val
  | .nan, _ => .nan
  | _, .nan => .nan
  | .inf s, .inf t => .inf (s != t)
  | .inf s, .fin t n _ => if n = 0 then .nan else .inf (s != t)
  | .fin s m _, .inf t => if m = 0 then .nan else .inf (s != t)
  | .fin s m e, .fin t n f => .fin (s != t) (m * n) (e + f)

/-- The value times a power of two. -/
def Val.shl (v : Val) (k : Int) : Val :=
  match v with
  | .fin s m e => .fin s m (e + k)
  | w => w

/-- FP32 addition: one rounding (R69). -/
def fAdd (a b : Val) : Val := toF32 (a.add b)

/-- FP32 multiplication: one rounding (R69). -/
def fMul (a b : Val) : Val := toF32 (a.mul b)

/-- FP32 fused multiply-add: one rounding (R69). -/
def fFma (a b c : Val) : Val := toF32 ((a.mul b).add c)

/-- The order of two values that are no NaN: is the first below the second, -0 below +0 (R479). -/
def Val.lt (a b : Val) : Bool :=
  match a, b with
  | .nan, _ => false
  | _, .nan => false
  | .inf s, .inf t => s && !t
  | .inf s, _ => s
  | _, .inf t => !t
  | .fin s m e, .fin t n f =>
    let g := min e f
    let a : Int := (m * 2 ^ (e - g).toNat : Nat)
    let b : Int := (n * 2 ^ (f - g).toNat : Nat)
    let x := if s then -a else a
    let y := if t then -b else b
    if x = 0 ∧ y = 0 then s && !t else decide (x < y)

/-- MAX of R479. -/
def Val.max (a b : Val) : Val := if a.isNan || b.isNan then .nan else if a.lt b then b else a

/-- MIN of R479. -/
def Val.min (a b : Val) : Val := if a.isNan || b.isNan then .nan else if b.lt a then b else a

/-- The exact sum of a list, from +0. -/
def sumVals (xs : List Val) : Val := xs.foldl Val.add Val.zero

/-- One level of the pairwise tree of R479: each sum is rounded once. -/
def pairLevel : List Val → List Val
  | a :: b :: r => fAdd a b :: pairLevel r
  | r => r

/-- The pairwise tree, level by level; `fuel` bounds the number of levels. -/
def pairTree : Nat → List Val → Val
  | _, [] => Val.zero
  | _, [a] => a
  | 0, a :: _ => a
  | k + 1, xs => pairTree k (pairLevel xs)

/-- ROW_SUM of R479. -/
def rowSumOf (xs : List Val) : Val := pairTree xs.length xs

/-- The magnitude rounded by R69 to a whole number, with its sign. -/
def roundInt (i d : Int) : Int := if i < 0 then -((roundDiv i.natAbs d.natAbs : Nat) : Int) else (roundDiv i.natAbs d.natAbs : Nat)

/-- `i x 2^k` for a k of either sign, rounded by R69. -/
def shiftRound (i k : Int) : Int :=
  if 0 ≤ k then i * ((2 ^ k.toNat : Nat) : Int) else roundInt i ((2 ^ (-k).toNat : Nat) : Int)

/-- `i` held within the signed range of `w` bits, and whether it had to be. -/
def clampInt (w : Nat) (i : Int) : Int × Bool :=
  let hi : Int := ((2 ^ (w - 1) : Nat) : Int) - 1
  let lo : Int := -((2 ^ (w - 1) : Nat) : Int)
  if i > hi then (hi, true) else if i < lo then (lo, true) else (i, false)

/-- An SC16 scale (R77): MANT in [7:0], EXP in [15:8]. The value is MANT x 2^(EXP - 7). -/
structure Sc16 where
  mant : Nat := 128
  exp : Int := 0
  deriving DecidableEq, Repr

/-- The scale a stored word names. -/
def sc16Of (x : Nat) : Sc16 := { mant := fld x 0 8, exp := signed 8 (fld x 8 8) }

/-- The stored word of a scale; a zero scale is 0x0000 (R77). -/
def sc16Code (s : Sc16) : Nat := if s.mant = 0 then 0 else s.mant + 256 * unsigned 8 s.exp

/-- A reserved entry: EXP 127 or -128 with MANT above 0 (R77). -/
def sc16Bad (s : Sc16) : Bool := s.mant != 0 && (s.exp == 127 || s.exp == -128)

/-- The scale 1.0. -/
def sc16One : Sc16 := { mant := 128, exp := 0 }

/-- The smallest normalised SC16 not less than n x 2^e / d, for a value above 0 (R85). -/
def sc16Up (n d : Nat) (e : Int) : Sc16 :=
  let k := max (floorLog n d e) (-127)
  let (a, b) := scaled n d (e - k + 7)
  let m := max (ceilDiv a b) 128
  if m ≤ 255 then { mant := m, exp := k } else { mant := 128, exp := k + 1 }

/-- QMAX of R85. -/
def qmax : Fmt → Nat
  | .fp8 => 448
  | _ => 127

/-- The scale found from a block maximum X (R85): 0x0000 where X is 0. -/
def sc16Found (f : Fmt) (x : Val) : Sc16 :=
  match x with
  | .fin _ m e => if m = 0 then { mant := 0, exp := 0 } else sc16Up m (qmax f) e
  | _ => { mant := 0, exp := 0 }

/-- An element written with a scale: x / s, computed exactly, then rounded (R86). With a scale of 0 a finite element is
written as zero of its sign (log entry 6). -/
def quant (f : Fmt) (s : Sc16) (x : Val) : Conv :=
  match x with
  | .nan => conv f .nan
  | .inf neg =>
    match f with
    | .fp8 => { code := withSign 8 neg 0x7E, sat := true }
    | _ => { code := unsigned 8 (if neg then -127 else 127), sat := true }
  | .fin neg m e =>
    if s.mant = 0 then { code := withSign 8 (neg && f == .fp8) 0 }
    else convRat f neg m s.mant (e - s.exp + 7)

/-- The absolute maximum of the finite elements (R85). -/
def blockMax (xs : List Val) : Val :=
  xs.foldl (fun a x => match x with | .fin _ m e => if a.lt (.fin false m e) then .fin false m e else a | _ => a) Val.zero

/-- The elements of a format in a run of bytes: `n` of them from element `i`. -/
def element (f : Fmt) (bytes : List Byte) (i : Nat) : Nat :=
  match f with
  | .int4 => fld (bytes.getD (i / 2) 0).toNat (4 * (i % 2)) 4
  | f => let w := f.bits / 8; leNat ((List.range w).map (fun k => bytes.getD (w * i + k) 0))

/-- The bytes of a list of codes of one format (INT4 does not occur as a result, R41). -/
def packCodes (f : Fmt) (cs : List Nat) : List Byte := cs.flatMap (leBytes (f.bits / 8))

end Sys2Proof.Machine
end

