-- ==== Sys2Proof/Machine/State.lean ====
section
/-! DEFINITION. The state of one Elpiath T16 package as plain data, and its value right after power-on, in always-on reset
(R410). Registers that the spec's tables give stand in `Chip.regs`, by address, with the reset values of `Regs.lean`;
everything else stands in the structures below. -/

namespace Sys2Proof.Machine

/-- Why a step stops with a fault. No command of this hardware does: the spec gives every one an effect. -/
inductive Fault where
  /-- Raised by no command; safe. It stands for a case to which the spec gives no effect, and there is none. -/
  | noEffect
  deriving DecidableEq, Repr

/-- Why a step is refused. -/
inductive Refusal where
  /-- Raised by an arm of `exec` that is not modelled yet; safe. -/
  | notModelled (mnemonic : String)
  deriving DecidableEq, Repr

/-! ### A basin -/

/-- Accumulators held at the end of a descriptor with OUT_MODE 2 (R36, R83): M rows of N sums, the reduction held, the form
(integer in plain or scaled form, with E_ref of each element, or FP32), and the jets they lie in. -/
structure Acc where
  m : Nat := 0
  n : Nat := 0
  k : Nat := 0
  isInt : Bool := true
  acc48 : Bool := false
  scaled : Bool := false
  gang : Nat := 0
  jets : List Nat := []
  ints : List (List Int) := []
  eref : List (List (Option Int)) := []
  floats : List (List Val) := []
  deriving DecidableEq, Repr

/-- What a descriptor in flight still waits for before it can complete. -/
inductive Wait where
  | none
  /-- MOVE_UP: the record is to become RESIDENT (R240). -/
  | move (record : Nat)
  /-- a copy from or to another package: the transactions not yet answered (R314). -/
  | tags (left : List Nat)
  /-- a table write that waits for its slot (R215): the slot asked for, 16 for any. -/
  | slot (slot : Nat)
  /-- EVICT or FORCE_EVICT: the hub is to accept its request (R240, R250). -/
  | request
  /-- a copy that found all four places of its copy engine taken (R243). -/
  | place
  deriving DecidableEq, Repr

/-- A pin on a version slot of a root (R152): the root's system address, the slot, and the generation pinned. -/
structure PinRef where
  root : Nat
  slot : Nat
  gen : Nat
  deriving DecidableEq, Repr

/-- A descriptor in flight: its number in the chain, its eight words, the jets it occupies, and what its completion
releases: pins (R152), BUSY of records (R248), holds it adds to a slot (R216), the slots it encodes with, decodes with and builds
(R214); for a table write, since when it waits for its slot and the DCYC_MAX it began with (R220, R233). -/
structure Flight where
  id : Nat := 0
  w : List Nat := []
  job : Nat := 0
  jets : List Nat := []
  wait : Wait := .none
  pins : List PinRef := []
  busy : List Nat := []
  holds : List (Nat × Nat) := []
  encode : List Nat := []
  decode : List Nat := []
  builds : List Nat := []
  since : Nat := 0
  dcycMax : Nat := 128
  stopped : Bool := false
  /-- its body waits for what it has asked of other packages, and runs again with the answers (R314, log entry 12) -/
  again : Bool := false
  /-- of a COPY, the link of its first transaction, and that of the WRITEs of one which leaves by another pair than it came (R303) -/
  link : Option (Fin 12) := none
  out : Option (Fin 12) := none
  deriving DecidableEq, Repr

/-- Where an item's chain runs (R184, R185). -/
inductive Place where
  | home | inPlace | migrated
  deriving DecidableEq, Repr

/-- A run-ahead copy (R189, R190): the record it claims, if it is a MOVE_UP, whether it has completed, what it will have
written once its item issues, its destination ranges (R191), and the transactions with another package that it waits for, with the rows
(source, destination, length) that their answers fill and the bytes that have come so far, by system address. -/
structure RunCopy where
  claim : Option Nat := none
  /-- the record that its MOVE_UP pins as the item issues -/
  pin : Option Nat := none
  moved : Bool := false
  /-- its record has been RESIDENT since (R253) -/
  stale : Bool := false
  writes : List (Nat × List Byte) := []
  dst : List (Nat × Nat) := []
  tags : List Nat := []
  rows : List (Nat × Nat × Nat) := []
  got : Memory := []
  deriving DecidableEq, Repr

/-- A queued item (R178): the item, whether its gate was satisfied when last read (R180), whether its run-ahead chain has
issued with which copies (R189), whether the chain stopped, and whether the item is held at issue (R190, R114) since when. -/
structure QItem where
  item : Item := {}
  gateOk : Bool := false
  ahead : Option (List RunCopy) := none
  heldSince : Option Nat := none
  /-- the ticket of R111 stands on this record -/
  ticket : Option Nat := none
  deriving DecidableEq, Repr

/-- An active chain in one of the 16 contexts (R37): its item, the basin it was posted to, how it runs, the offset of its next
descriptor, whether its LAST descriptor has issued, the accumulators it holds, its descriptors in flight, the counter
signals a migrated chain withholds (R185), and whether it has stopped (R45). `stamp` is when its head descriptor came to
the head. -/
structure Chain where
  item : Item := {}
  homePkg : Pkg := 0
  home : Fin 32 := 0
  place : Place := .home
  pc : Nat := 0
  begun : Bool := false
  lastIssued : Bool := false
  lastDone : Bool := false
  nextId : Nat := 0
  acc : Option Acc := none
  flight : List Flight := []
  signals : List Nat := []
  stopped : Bool := false
  stamp : Nat := 0
  ahead : List RunCopy := []
  ticket : Option Nat := none
  /-- the return copy of R185 has been sent to another package -/
  returned : Bool := false
  deriving DecidableEq, Repr

/-- A thief (R182): not sweeping, sweeping from a circle on (a take may be out, to a basin of this package or to another
package), or in its back-off after an empty sweep. -/
inductive Thief where
  | idle
  | sweeping (circle : Nat)
  | taking (circle : Nat) (victim : Fin 32)
  | probing (answers : List (Pkg × Fin 32 × Nat))
  | takingFar (src : Pkg) (victim : Fin 32)
  | backoff
  deriving DecidableEq, Repr

/-- A body entry in the look-aside buffer (R155), tagged by root, GEN, layer and page. -/
structure LabLine where
  root : Nat
  gen : Nat
  layer : Nat
  page : Nat
  entry : Nat
  deriving DecidableEq, Repr

/-- A prefetch read in flight (R156): the tag of the first entry of the line that belongs to the layer, how many of the layer's
entries the line holds, and the system address of that first entry. -/
structure LabFetch where
  root : Nat
  gen : Nat
  layer : Nat
  page : Nat
  count : Nat
  addr : Nat
  deriving DecidableEq, Repr

/-- The state of a table slot (R214). -/
inductive SlotState where
  | empty | ready | building
  deriving DecidableEq, Repr

/-- A table slot (R214): STATE, GEN, HOLDS and the 256 code lengths. -/
structure Slot where
  state : SlotState := .empty
  gen : Nat := 0
  holds : Nat := 0
  lens : List Nat := []
  deriving DecidableEq, Repr

/-- A hold in progress, or the late tier that it is (R260, R261): the job, when it began in ns, the cause of the leg that
completed last, the limit in ms in force when it began, and whether TIER_LATE was reported. -/
structure Hold where
  job : Nat
  chain : Nat
  since : Nat
  cause : Nat
  limit : Nat
  reported : Bool := false
  deriving DecidableEq, Repr

/-- A copy in the copy engine of a basin (R243): that of a descriptor in flight, or the move of a record. -/
inductive CopyJob where
  | copy (k : Fin 16) (id : Nat)
  | move (record : Nat)
  deriving DecidableEq, Repr

/-- A basin: what the spec gives it beside the registers of its tables. -/
structure Basin where
  /-- BS_STATUS_n.SELFTEST and FAIL_UNIT (R63) -/
  selftest : Nat := 0
  failUnit : Nat := 0
  pllLock : Bool := false
  /-- a change of FREQ is under way (R59) -/
  freqPend : Bool := false
  /-- the current ganging mode (R35) -/
  gang : Nat := 0
  /-- the chains whose head waits for another ganging mode, the first to reach its head first (R35) -/
  drain : List (Fin 16) := []
  /-- the stretch applied, the stretch of the last grant, and whether issue is held (R60, R406) -/
  stretch : Nat := 0
  grant : Nat := 0
  hold : Bool := false
  /-- the 64 event counters (R39) -/
  ctr : Tab Nat := []
  chains : Vector (Option Chain) 16 := Vector.replicate 16 none
  queue : List QItem := []
  thief : Thief := .idle
  /-- occupied granules of the steal window (R185) -/
  occupied : List Nat := []
  lab : List LabLine := []
  labFetch : List LabFetch := []
  slots : Vector Slot 16 := Vector.replicate 16 {}
  /-- the home basin, slot and generation of the last block that its sluice decoded (R217) -/
  decoded : Option (Fin 32 × Nat × Nat) := none
  holds : List Hold := []
  /-- jobs stopped in this basin since the containment began (R45) -/
  stopped : List Nat := []
  stamp : Nat := 0
  /-- items posted so far: the place of the tail in the ring (R178) -/
  tail : Nat := 0
  /-- the copies of the copy engine in order of arrival: the first four hold its places, the others wait (R243) -/
  engine : List CopyJob := []
  /-- items that another package's queue has given to this basin and that wait for a context (R183, R185): the package, the home -/
  arrived : List (Pkg × Fin 32 × Item) := []
  /-- WQ_CFG as the sweep found it, and WQ_WINDOW as the take did (R201) -/
  sweepCfg : Nat := 0
  takeWin : Nat := 0
  /-- a chunk item has been held since its cycles were last counted (R114) -/
  swapOwed : Bool := false
  deriving DecidableEq, Repr

/-! ### Memory tiers -/

/-- STATE of a residency record (R246). -/
inductive RecState where
  | absent | movingUp | resident | movingDown
  deriving DecidableEq, Repr

/-- Who waits for a record to be RESIDENT: the UP request block at an address, a copy of a chain (R252), or a sequencer that holds a
chunk item (R114). -/
inductive Waiter where
  | block (addr : Nat)
  | copy (b : Fin 32) (c : Fin 16)
  | sequencer
  deriving DecidableEq, Repr

/-- A VALID residency record (R246), with who waits on its move, the job of the request that started the move, and those of the requests
that its pending flags stand for (R252).
A number that the table does not list is a record whose VALID is 0. -/
structure Rec where
  up : Nat := 0
  state : RecState := .absent
  evictPend : Bool := false
  forcePend : Bool := false
  upPend : Bool := false
  wbAll : Bool := false
  moveFailed : Bool := false
  down : Nat := 0
  downFlash : Bool := false
  claims : Nat := 0
  len64 : Nat := 0
  job : Nat := 0
  refs : Nat := 1
  pins : Nat := 0
  busy : Nat := 0
  moveJob : Nat := 0
  evictJob : Nat := 0
  forceJob : Nat := 0
  upJob : Nat := 0
  waiters : List Waiter := []
  deriving DecidableEq, Repr

/-- Where a placement request comes from (R250): a posted block, the COPY descriptor `id` of a chain, or a sequencer. -/
inductive ReqOrigin where
  | posted
  | copy (b : Fin 32) (k : Fin 16) (id : Nat)
  | sequencer
  /-- a posted run that is still being read from another package: its post (R250, R276) -/
  | reading (post : Nat)
  deriving DecidableEq, Repr

/-- A posted block (R250, R276), or a request in the form of one: its system address, its words and where it comes from. -/
structure Block where
  addr : Nat
  w : List Nat
  master : Master
  origin : ReqOrigin := .posted
  deriving DecidableEq, Repr

/-- A word with an error: one bit, or uncorrectable (R53, R239). -/
inductive EccErr where
  | single | double
  deriving DecidableEq, Repr

/-- A residue fault that a check will meet (R57, R58): the basin, the unit as in FAIL_UNIT, the row or element, and the block of 32
reduction elements in which a product with scales shows it (R84). -/
structure Residue where
  b : Fin 32
  unit : Nat
  row : Nat
  block : Nat := 0
  deriving DecidableEq, Repr

/-- What a program under way in the flash is for (R262): the write-back of a record, a WDATA datagram (R366), the security engine, or a sector of
the recorder's mirror with the SEQ that ER_MIRROR_POS then takes (R440). -/
inductive FlashBy where
  | move (record : Nat)
  | wdata
  | sec
  | mirror (next : Nat)
  deriving DecidableEq, Repr

/-- The flash and its translation layer (R262, R263): bytes by package and logical address, erase counts and reads since erase of its
blocks, retired blocks, blocks in all and spares left, the block that each written sector stands in, the block that takes the next writes
with the sectors written to it, and writes under way. -/
structure Flash where
  bytes : Memory := []
  erases : Tab Nat := []
  reads : Tab Nat := []
  bad : List Nat := []
  blocks : Nat := 0
  spares : Nat := 0
  place : Tab Nat := []
  opened : Option (Nat × Nat) := none
  /-- programs under way (R262): what each is for, its address and its bytes -/
  writes : List (FlashBy × Nat × List Byte) := []
  /-- writes of WDATA and of the security engine that are acknowledged and not yet answered: their address and code -/
  acked : List (Nat × Nat) := []
  unreadable : List Nat := []
  deriving DecidableEq, Repr

/-! ### Reports and the recorder -/

/-- A record of the recorder (R436): its SEQ, its severity, its sixteen words, and whether the ER_CFG it was written under mirrors it (R440). -/
structure ErRec where
  seq : Nat
  sev : Nat
  w : List Nat
  mir : Bool := false
  deriving DecidableEq, Repr

/-- The statistics of one class in the interval (R437). -/
structure ErClass where
  first : Nat := 0
  last : Nat := 0
  count : Nat := 0
  sev : Nat := 0
  code : Nat := 0
  job : Nat := 0xFFFF
  deriving DecidableEq, Repr

/-- The interval in progress (R437). -/
structure Interval where
  classes : Tab ErClass := []
  pairs : List (Nat × Nat) := []
  /-- holds of cause c in bin b, at 6c + b (R260) -/
  hist : Tab Nat := []
  peak : Nat := 0
  low : Nat := 255
  longest : Nat := 0
  longCause : Nat := 0
  throttleUs : Nat := 0
  excursions : Nat := 0
  severe : Nat := 0
  powered : Bool := false
  deriving DecidableEq, Repr

/-- The event recorder (R435 to R440): the ring, the interval, TOTAL of each class, the latch of ER_DATA (R378), and the
mirror's next SEQ. -/
structure Recorder where
  ring : Tab ErRec := []
  iv : Interval := {}
  totals : Tab Nat := []
  latch : List Nat := []
  /-- records since the mirror's last sector write, oldest SEQ not yet written -/
  dirtyFrom : Option Nat := none
  deriving DecidableEq, Repr

/-- Containment and commit of a job (R424 to R429): RC_JOB_j beside its register fields: which packages have sent READY and for
which commit point, the commit points not passed (R428), those reported late, and whether a commit point has passed (R29). -/
structure JobRc where
  contained : Bool := false
  passed : Bool := false
  ready : List (Pkg × Nat) := []
  sentReady : List Nat := []
  waiting : List Nat := []
  late : List Nat := []
  code : Nat := 0
  deriving DecidableEq, Repr

/-! ### Cadence -/

/-- The tick generator (R193 to R200): whether a START waits for lock, the settings that START or RESYNC took, whether
TICK_GUARD has passed since the tick began, the last tick instant in ns of the gPTP time, the target shift still to be steered, notices to
apply at a tick, and ticks already moved. -/
structure Cadence where
  startPend : Bool := false
  src : Nat := 0
  syncEn : Bool := false
  syncPeriod : Nat := 1
  guardDone : Bool := false
  instant : Nat := 0
  fresh : Bool := false
  steer : Int := 0
  notices : List (Nat × Int) := []
  moved : List Nat := []
  lastEdge : Option Nat := none
  deriving DecidableEq, Repr

/-! ### Power and the weir -/

/-- The stages of start-up (R411). -/
inductive Boot where
  | off | hub | firmware | blob | dram | dies | selftest | ready | failed
  deriving DecidableEq, Repr

/-- A mode change under way (R398, R399): the mode it leads to, and whether it waits for basins to drain. -/
structure Change where
  target : Nat
  draining : Bool := false
  fromReset : Bool := false
  deriving DecidableEq, Repr

/-- The power controller (R395 to R417). MODE and REQ stand in MP_POWER. -/
structure Power where
  aonHeld : Bool := true
  rstLow : Bool := false
  pwrGood : Bool := false
  bootAlt : Bool := false
  autoOn : Bool := false
  pkgId : Pkg := 0
  change : Option Change := none
  boot : Boot := .off
  wakePend : Bool := false
  shutPend : Bool := false
  /-- the start-up follows a package reset: MP_STATUS.RESET is set at its end -/
  resetRun : Bool := false
  deriving DecidableEq, Repr

/-- The weir between its periods (R404, R408): the bucket in units of 2.5 uJ, periods left of an excursion, whether a period at or
below SUSTAIN has passed since the last excursion, and the percentage in force. -/
structure Weir where
  bucket : Nat := 0
  excursion : Option Nat := none
  rested : Bool := true
  pct : Nat := 100
  deriving DecidableEq, Repr

/-! ### Mailboxes and the management port -/

/-- A mailbox channel with its binding (R383, R384). -/
structure Mbox where
  data : BitVec 32 := 0
  full : Bool := false
  sender : Master := 0
  receiver : Master := 0
  valid : Bool := false
  deriving DecidableEq, Repr

/-- An access of the indirect window under way to a place that answers later (R379, R380). -/
structure Window where
  busy : Bool := false
  write : Bool := false
  tag : Option Nat := none
  deriving DecidableEq, Repr

/-! ### The fabric -/

/-- A flit that waits to be sent on a link, and the link whose receive buffer it still occupies if it is forwarded (R313). -/
structure Queued where
  f : Flit
  origin : Option (Fin 12) := none
  deriving DecidableEq, Repr

/-- A link (R308 to R313). STATE and the rest of its status stand in TH_LINK_STATUS_l. Sender: the next SEQ, the replay buffer
(oldest first), flits that wait for the window or for credits, replays in a row, the credits in use (VC, and whether of the
shared ones), oldest first, the channel whose turn it is, and since when it waits for credits. Receiver: the SEQ expected, NAK
sent, flits accepted since the last acknowledgement, credits to return, the millisecond at hand and the bytes that the FEC corrected
on each lane in it (R306). Sender: the REPLAY_MAX of the run of replays under way (R327). -/
structure Link where
  nextSeq : Nat := 0
  replay : List Flit := []
  waiting : List Queued := []
  runs : Nat := 0
  used : List (Nat × Bool) := []
  turn : Nat := 0
  waitSince : Option Nat := none
  expect : Nat := 0
  nakSent : Bool := false
  since : Nat := 0
  returns : Vector Nat 4 := Vector.replicate 4 0
  ceAt : Nat := 0
  ce : Vector Nat 4 := Vector.replicate 4 0
  runMax : Nat := 0
  deriving DecidableEq, Repr

/-- What the package knows of package p beside TH_PARTNER_p (R322, R324): the boot nonce last received, the nonce recorded at
its fence, and whether a BEAT with another nonce has been accepted since. -/
structure Partner where
  nonce : Nat := 0
  fenceNonce : Nat := 0
  newNonce : Bool := false
  deriving DecidableEq, Repr

/-- Who made a transaction (R314), and what its answer is for. -/
inductive Requester where
  /-- a COPY of a chain: its number there, and for a read the address that takes the bytes -/
  | copy (b : Fin 32) (c : Fin 16) (id : Nat) (dst : Nat)
  /-- the indirect window -/
  | window
  /-- a register or memory access of another master on the package -/
  | bus (m : Master)
  /-- a CTRL_REQ of a host control channel (R367) -/
  | ctrl (chB : Bool) (seq : Nat)
  /-- a done word of an item of a basin, or a pin that a descriptor gives back, with the item's STEP_TAG (R152, R177, R437) -/
  | done (b : Fin 32) (job step : Nat)
  /-- a walk or another unit of a descriptor in flight: its chain and its number (R146, R314) -/
  | walk (b : Fin 32) (c : Fin 16) (id : Nat)
  /-- a move of a residency record, or the copy of a claim on it (R243, R252) -/
  | move (rec : Nat)
  /-- a run-ahead copy of a queued item of a basin (R190) -/
  | ahead (b : Fin 32) (job : Nat)
  /-- the gate word of queued items of a basin (R177) -/
  | gate (b : Fin 32) (addr : Nat)
  /-- a line that the walker of a basin prefetches (R156) -/
  | line (b : Fin 32)
  /-- a posted run, by its number (R179, R250, R276) -/
  | post (n : Nat)
  /-- the oldest placement request, which reads or writes a list (R255, R257) -/
  | request
  /-- a unit of the hub that runs again with the answers: 0 what reads the result ring (R364), 1 the load of a keyword image (R339), 2 + n what reads
  the unit of talker n (R362) -/
  | unit (n : Nat)
  /-- a write of a host's WDATA datagram or another unit of the hub -/
  | hub
  deriving DecidableEq, Repr

/-- A request that a walk or another unit makes of another package, before it is sent: TYPE (2 WRITE, 4 READ_REQ, 6 ATOMIC), system
address, length, data (R314), and whether it is a prefetch, for which nothing waits (R156). -/
structure FarReq where
  ty : Nat
  addr : Nat
  len : Nat
  data : List Byte := []
  quiet : Bool := false
  deriving DecidableEq, Repr

/-- A request that was made and what came of it (R314): for whom, which of its equal requests it was, its tag, and the answer once it is in: an
error code, 0 for none, and the bytes. An operation of R152 on a root of this package stands here too, for as long as its descriptor waits
for others. -/
structure Asked where
  who : Requester
  req : FarReq
  nth : Nat := 0
  tag : Nat := 0
  answer : Option (Nat × List Byte) := none
  deriving DecidableEq, Repr

/-- Who is told the outcome of a write of COUNT (R179, R250, R276): a master on the package, the indirect window, a host control channel, or
a package whose WRITE it was. -/
inductive PostBy where
  | nobody
  | bus (m : Master)
  | window
  | ctrl (chB : Bool) (seq : Nat)
  | flit (src : Pkg) (tag : Nat) (addr : BitVec 44)
  deriving DecidableEq, Repr

/-- What a posted run holds: items for a basin, placement requests, or command blocks. -/
inductive PostKind where
  | items (b : Fin 32)
  | requests
  | commands
  deriving DecidableEq, Repr

/-- A run of another package that a write of COUNT has posted and that is still being read (R179, R250, R276): its number, its address, its
blocks, who posted it, and who waits for the outcome. -/
structure Post where
  n : Nat
  kind : PostKind
  addr : Nat
  count : Nat
  master : Master
  writer : PostBy
  deriving DecidableEq, Repr

/-- An outstanding transaction (R314); `off` is where the bytes asked for stand in a read of whole 64-byte lines. -/
structure Txn where
  tag : Nat
  dst : Pkg
  addr : Nat
  len : Nat
  got : Nat := 0
  write : Bool := false
  link : Fin 12 := 0
  who : Requester
  bytes : List Byte := []
  off : Nat := 0
  deriving DecidableEq, Repr

/-- A confirmed message outstanding (R318), with the receivers that have not confirmed it. -/
structure Confirmed where
  tag : Nat
  left : List Pkg
  msg : HubMsg
  deriving DecidableEq, Repr

/-- An item of this package that another package's thief has taken and whose end it has not told (R185, R197). -/
structure Away where
  thief : Pkg
  home : Fin 32
  item : Item
  deriving DecidableEq, Repr

/-- The fabric as this package's hub sees it. -/
structure Fab where
  links : Vector Link 12 := Vector.replicate 12 {}
  partners : Vector Partner 16 := Vector.replicate 16 {}
  txns : List Txn := []
  confirms : List Confirmed := []
  /-- the last 256 confirmed TAGs acted on, by sender (R318) -/
  seen : Tab (List Nat) := []
  nextTag : Nat := 0
  selfFenced : Bool := false
  /-- requests to other packages of the unit at work, in the order in which it makes them, and who it is (R314) -/
  far : List FarReq := []
  now : Requester := .hub
  asked : List Asked := []
  posts : List Post := []
  /-- accesses of the management core to channels of other packages that are not answered yet (R390) -/
  mails : List (MbOp × Pkg × Fin 64) := []
  nextPost : Nat := 0
  deriving DecidableEq, Repr

/-! ### Model sets -/

/-- A table write of a load (R277 step 3): the basin, the slot, the holds to take, the image, and since when it waits for its slot, in the order
of the table writes of the basin (R220). -/
structure TableJob where
  b : Fin 32
  slot : Nat
  holds : Nat
  image : List Byte
  since : Option Nat := none
  deriving DecidableEq, Repr

/-- A load or a staging under way (R277 to R282). At the reader: the command block, the content key, the shard in hand, the reads of each
shard, requests and further reads to serve, shards whose last attempt was corrupt, the reports received. At a receiver: the
shards of which every byte came. At both: the table
writes still to do, the holds taken, and whether the load waits at step 1 for the identity. -/
structure Load where
  stage : Bool := false
  reader : Pkg := 0
  mine : Bool := false
  member : Bool := false
  peers : List Nat := []
  block : Option Nat := none
  bias : Nat := 0
  base : Nat := 0
  retry : Nat := 3
  man : Manifest := {}
  key : Option (List Byte) := none
  /-- the publishers enrolled at acceptance: PUB_ID, key, and the privileged attribute (R450) -/
  pubs : List (List Byte × List Byte × Bool) := []
  atStep1 : Bool := false
  /-- reads that a corrupt shard has set aside (R280) -/
  paused : List Nat := []
  tables : List TableJob := []
  holds : List (Fin 32 × Nat × Nat) := []
  next : Nat := 0
  hand : Option Nat := none
  again : List Nat := []
  reads : Tab Nat := []
  good : List (Nat × Nat) := []
  done : List Nat := []
  whole : List Nat := []
  bad : List Nat := []
  deriving DecidableEq, Repr

/-- A replacement under way (R283 to R291): its command block, its participants, the staged manifest and its BIAS, REPL_LIMIT at
acceptance, whether the barrier is armed, the layers left, the layer whose copy runs, whether any copy has begun, whether DONE has been
reported, the reports that the coordinator holds, and whether REPL_STUCK was reported. -/
structure Repl where
  block : Nat := 0
  peers : List Nat := []
  man : Manifest := {}
  bias : Nat := 0
  armed : Bool := false
  layers : List Nat := []
  copying : Option Nat := none
  begun : Bool := false
  doneSent : Bool := false
  dones : List Nat := []
  stuck : Bool := false
  deriving DecidableEq, Repr

/-- A pending adapter switch (R294, R295). -/
structure Switch where
  block : Nat := 0
  job : Nat := 0
  adapter : Nat := 1
  tick : Nat := 0
  basins : Nat := 0
  entry : List Nat := []
  stuck : Bool := false
  deriving DecidableEq, Repr

/-- Model sets (R267 to R297) beside their registers: posted command blocks, loads, manifests staged (with BIAS) and in effect, and
replacements, by set entry; adapter switches; and since when an item of the package is held at a barrier. -/
structure Ms where
  queue : List Block := []
  loads : Tab Load := []
  staged : Tab (Manifest × Nat) := []
  current : Tab Manifest := []
  repls : Tab Repl := []
  switches : List Switch := []
  heldSince : Option Nat := none
  deriving DecidableEq, Repr

/-! ### What leaves the package -/

/-- A datagram of the device (R363): the UDP port it comes from, the IPv4 address, UDP port and MAC address it goes to, the sequence number of its
802.1CB tag (R350), and its payload, from the header on. -/
structure Datagram where
  src : Nat
  ip : Nat
  udp : Nat
  mac : Nat
  seq : Option Nat := none
  payload : List Byte
  deriving DecidableEq, Repr

/-- An AVTP packet of a talker (R350, R357, R361, R362), whose tv is 1: the table entry, STREAM_ID, destination address, VID and PCP, which names its
queue, the format (0 INT_16BIT, 1 INT_24BIT, 2 INT_32BIT) and rate, the sequence number of its 802.1CB tag, the presentation time, whether it is
marked tentative (evt 0b0001), its samples. -/
structure AvtpOut where
  talker : Nat
  streamId : Nat
  mac : Nat
  vid : Nat
  pcp : Nat
  fmt : Nat
  rate48 : Bool
  seq : Option Nat
  time : Nat
  mark : Bool
  samples : List (List Int)
  deriving DecidableEq, Repr

/-- Everything that leaves the package, newest first. -/
inductive Emit where
  /-- a response of the management port (R373): STATUS, INDEX, DATA, CRC -/
  | port (status index data crc : Nat)
  /-- the answer to a register access of a master on the package: its value and its error code (R375) -/
  | bus (m : Master) (data code : Nat)
  /-- a flit sent on a link -/
  | flit (l : Fin 12) (f : Flit)
  /-- a message to the hub of another package, as it is given to the links; MSG flits carry it (log entry 2) -/
  | hub (dst : Pkg) (tag : Nat) (x : HubMsg)
  /-- the link block that codes a part of a transfer's payload on a link (R231, log entry 69) -/
  | linkBlock (l : Fin 12) (x : LinkBlock)
  /-- a message confirmed to its sender (R318) -/
  | confirm (dst : Pkg) (tag : Nat)
  /-- a datagram of the device, and the ports it leaves by (R363) -/
  | datagram (ports : List Nat) (x : Datagram)
  /-- an AVTP packet of a talker, and the ports it leaves by (R350, R361, R362) -/
  | avtp (ports : List Nat) (x : AvtpOut)
  /-- the answer to an ARP request at a port (R349): the address asked about, and whom it goes to -/
  | arp (port ip mac : Nat)
  /-- the answer to an ICMP echo request at a port (R349): whom it goes to, and what it returns -/
  | echo (port mac ip ident seq : Nat) (data : List Byte)
  deriving DecidableEq, Repr

/-- A frame that waits for its transmit gate or its shaper (R350): its port, its queue, its length in bytes, and what leaves with it. -/
structure TxFrame where
  port : Nat
  queue : Nat
  bytes : Nat
  what : Emit
  deriving DecidableEq, Repr

/-- The operating gate list of a port (R393): the list in force, and the one that a cycle start puts in force, with that time in ns. -/
structure GateList where
  list : List (Nat × Nat) := []
  next : Option (Nat × List (Nat × Nat)) := none
  deriving DecidableEq, Repr

/-- The transmit side of the host ports (R349, R350, R393): operating gate lists, the next sequence number of the streams that 802.1CB numbers, by
table entry, the MAC addresses that ARP has told, by IPv4 address, the frames that wait, and the credit of each shaper in millionths of a bit
with the time in ns that it stands at. -/
structure Tx where
  gates : Vector GateList 2 := Vector.replicate 2 {}
  seqGen : Tab Nat := []
  arp : Tab Nat := []
  waiting : List TxFrame := []
  credit : Tab (Int × Nat) := []
  deriving DecidableEq, Repr

/-- A host control channel (R367): the SEQ last served, its answer (DATA and code) once it is known. -/
structure Ctl where
  seq : Option Nat := none
  answer : Option (Nat × Nat) := none
  deriving DecidableEq, Repr

/-! ### The package -/

/-- Everything but the wellhead, the host ports and the security engine, which no descriptor acts on. -/
structure Chip where
  /-- the counter with which free values are drawn (log entry 1) -/
  free : Nat := 0
  out : List Emit := []
  /-- the island's time count, the gPTP time of the package, and the time that lengths of waits are taken from, which nothing sets, in ns
  (R436, R351, R260) -/
  aonNs : Nat := 0
  gptpNs : Nat := 0
  upNs : Nat := 0
  /-- the last SYNC_IN stamp (R356) -/
  syncNs : Nat := 0
  /-- memory by 48-bit system address (R10, R235), and the injected errors and granules of R53, R239, R244 -/
  mem : Memory := []
  ecc : Tab EccErr := []
  residue : List Residue := []
  dirty : List Nat := []
  /-- registers by offset in the hub range, and the carried remainders of counters in units -/
  regs : Tab (BitVec 32) := []
  rems : Tab Nat := []
  basins : Vector Basin 32 := Vector.replicate 32 {}
  recs : Tab Rec := []
  /-- the movers of the four base dies: moves in order of arrival, of which the first four hold the places (R243) -/
  movers : Vector (List Nat) 4 := Vector.replicate 4 []
  plQueue : List Block := []
  away : List Away := []
  flash : Flash := {}
  accounts : List Nat := []
  reserved : Tab Nat := []
  charged : Tab Nat := []
  jobs : Tab JobRc := []
  /-- the next SEQ of RESULT and COMMIT datagrams, by job (R363) -/
  seqs : Tab Nat := []
  /-- COMMIT datagrams due (R365): job, commit point, and the head of the result ring at the moment it passed -/
  commits : List (Nat × Nat × Nat) := []
  cad : Cadence := {}
  recorder : Recorder := {}
  power : Power := {}
  weir : Weir := {}
  mbox : Vector Mbox 64 := Vector.replicate 64 {}
  window : Window := {}
  fab : Fab := {}
  ms : Ms := {}
  ctl : Vector Ctl 2 := Vector.replicate 2 {}
  tx : Tx := {}
  deriving DecidableEq, Repr

/-! ### The security engine -/

/-- ATT_STATE (R454). -/
inductive AttState where
  | unanchored | ready | gap | spent | noIdentity
  deriving DecidableEq, Repr

/-- An enrolled publisher (R450): PUB_ID, the key, and the privileged channel attribute. -/
structure Publisher where
  id : List Byte
  key : List Byte
  priv : Bool
  deriving DecidableEq, Repr

/-- The head in the always-on island (R453): SEQ and hash of the last record written, and the next leaf: subtree, block, next report
leaf within the block, and whether the block has none left. -/
structure Head where
  seq : Nat := 0
  hash : List Byte := []
  subtree : Nat := 0
  block : Nat := 0
  next : Nat := 1
  exhausted : Bool := false
  deriving DecidableEq, Repr

/-- What a command that waits for the flash goes on with (R454, R455, R457): a reservation record at an address, the head it gives, and
the report to sign then, if it is for one; or helper data, with the copies still to be written. -/
inductive SecJob where
  | reserve (addr : Nat) (head : Head) (report : Option Nat)
  | enrol (left : List Nat) (root : List Byte) (code : Nat)
  deriving DecidableEq, Repr

/-- The security engine (R442 to R459). What it keeps in private storage is `root`, from which every key is derived, and the keys of
loads under way (in `Load`). `tried` is the last block whose record was attempted, counted over all subtrees. -/
structure Sec where
  root : Option (List Byte) := none
  helper : Bool := false
  kemReady : Bool := false
  idReady : Bool := false
  att : AttState := .unanchored
  pubs : List Publisher := []
  head : Option Head := none
  tried : Option Nat := none
  job : Option SecJob := none
  code : Nat := 0
  fwHash : List Byte := []
  fwVersion : Nat := 0
  fwCopy : Nat := 0
  blobHash : List Byte := []
  enrols : Nat := 0
  deriving DecidableEq, Repr

/-! ### The wellhead -/

/-- A ring block (R342): the sample number of its first sample (160 to a frame), and the 132 bytes of each channel. -/
structure RingBlk where
  start : Nat
  chans : List (List Byte)
  deriving DecidableEq, Repr

/-- The wake stages (R337 to R341): the noise floor with the frames since it last changed, and the run of frames over the threshold;
then, from an onset on, f0 and P with the settings in force, the image, the next frame of stage 2 and the inputs its layers remember;
and the done word of the item posted for stage 3. Levels count 0.5 dB from -96 dB. -/
structure Wake where
  noise : Option Nat := none
  rise : Nat := 0
  run : Nat := 0
  f0 : Nat := 0
  p : Nat := 0
  cfg : Nat := 0
  cfg2 : Nat := 0
  vItem : Nat := 0
  vPcm : Nat := 0
  vVerdict : Nat := 0
  image : List Byte := []
  next : Nat := 0
  memory : List (List (List Int)) := []
  done : Nat := 0
  deriving DecidableEq, Repr

/-- The wellhead beside its registers (R329 to R348): the current frame, its start in gPTP time and in the time `Chip.upNs`, whether the audio
clock was locked as it began, MUTE as it began and the changes of MUTE since, each with the ns from the frame's start; the array and
beam registers in force with the arrays that have a write waiting; what the CIC, the later decimation stages, the filters and the beams
remember of each channel; the outputs whose next frame carries GAP; the samples of each ring channel not yet in a block, the ring (newest
block first) with the place of its next block and the ADPCM step indexes; the loaded image, and the load under way; and the
wake stages. -/
structure Fe where
  k : Nat := 0
  start : Nat := 0
  startUp : Int := 0
  lockAt : Bool := false
  muteAt : Bool := true
  mutes : List (Nat × Bool) := []
  cic : Tab (List Int × List Int) := []
  dec : Tab (List Int) := []
  ringBuf : Tab (List Int) := []
  arr : Vector Nat 4 := Vector.replicate 4 0xC8
  beams : Tab Nat := []
  waiting : List Nat := []
  dc : Tab (List Int) := []
  hist : Tab (List Int) := []
  gaps : List Nat := []
  ring : List RingBlk := []
  ringPos : Nat := 0
  steps : Tab Nat := []
  image : List Byte := []
  /-- the load of an image from a system address waits for another package (R339) -/
  loading : Option Nat := none
  wake : Wake := {}
  deriving DecidableEq, Repr

/-! ### The host ports -/

/-- An open listener frame (R360): its number, the samples by position, and whether one saturated. -/
structure RxFrame where
  k : Nat
  got : Tab Int := []
  clip : Bool := false
  deriving DecidableEq, Repr

/-- A slot of the input area (R357, R360): its rate, its open frames, the last frame closed, the frames in a row without a sample, and
whether the next frame carries GAP. -/
structure RxSlot where
  rate48 : Bool := false
  frames : List RxFrame := []
  last : Option Nat := none
  quiet : Nat := 0
  gap : Bool := false
  deriving DecidableEq, Repr

/-- A talker unit as it was read (R362): its number, whether it is sent as zeros, its TICK, its samples, the next packet, and the table
entry in force. -/
structure TxUnit where
  n : Nat
  zero : Bool
  tick : Nat
  words : List Nat
  samples : List (List Int)
  next : Nat := 0
  deriving DecidableEq, Repr

/-- A WDATA datagram whose write is under way (R366): the flash address, XFER, OFFSET and SEQ. -/
structure Ingest where
  addr : Nat
  xfer : Nat
  offset : Nat
  seq : Nat
  deriving DecidableEq, Repr

/-- A flow meter (R350, R393): the tokens of its committed and excess buckets in parts of a byte, the time they were counted at, and whether a red
frame has made all frames red. -/
structure Meter where
  c : Nat
  e : Nat
  ns : Nat
  red : Bool := false
  deriving DecidableEq, Repr

/-- The history of a recovered stream (R350): the highest sequence number passed, and which of the 32 up to it were seen, the highest first. -/
structure Recovery where
  top : Nat
  seen : List Bool
  deriving DecidableEq, Repr

/-- The host ports beside their registers and what they transmit (R349 to R370): MAC addresses, Sync messages in a row within 100 ns, slots,
talker units, WDATA under way, the flow meters by port and entry, and by table entry the history of the streams that 802.1CB recovers. -/
structure Net where
  macA : Nat := 0
  macB : Nat := 0
  good : Nat := 0
  slots : Tab RxSlot := []
  units : Tab TxUnit := []
  wdata : List Ingest := []
  meters : Tab Meter := []
  recovery : Tab Recovery := []
  deriving DecidableEq, Repr

/-! ### The machine -/

/-- The package: everything but the queue of commands. -/
structure Dev where
  chip : Chip := {}
  sec : Sec := {}
  fe : Fe := {}
  net : Net := {}
  deriving DecidableEq, Repr

/-- The machine: the commands that wait, first in first out, and the package. -/
structure State where
  pending : List Instr := []
  chip : Chip := {}
  sec : Sec := {}
  fe : Fe := {}
  net : Net := {}
  deriving DecidableEq, Repr

/-- Right after power-on: the island in always-on reset, MODE OFF, every register at its reset value (R410, R377). -/
def State.reset : State := {}

end Sys2Proof.Machine
end

