-- ==== Sys2Proof/Machine/Regs.lean ====
section
/-! DEFINITION. The registers of the spec's tables: where each lies in the hub range, its reset value, and which of its bits a
write stores (types RW of each table; RO, WO and W1C bits are handled where the register is served). Bits that no row
stores read 0, and what is written to them is ignored (R6). -/

namespace Sys2Proof.Machine

/-- `n` ones from bit `lo`. -/
def ones (lo n : Nat) : Nat := (2 ^ n - 1) * 2 ^ lo

/-- A row of the register table: first offset in the hub range, distance and number of its registers, reset value, the
bits that a write stores, and whether it lies in the always-on reset domain (R410). -/
structure RegRow where
  base : Nat
  stride : Nat := 4
  count : Nat := 1
  reset : Nat := 0
  wmask : Nat := 0
  aon : Bool := false

/-- The small map (R377): index i lies at offset 4i. -/
def smallMapRows : List RegRow := [
  { base := 0x00, reset := 0x00017416, aon := true },                 -- MP_ID
  { base := 0x04, reset := 1, aon := true },                          -- MP_STATUS, W1C
  { base := 0x08, reset := 0x2FF, wmask := ones 0 10, aon := true },  -- MP_ALERT_EN
  { base := 0x0C, aon := true },                                      -- MP_ERR_LAST
  { base := 0x10, wmask := ones 0 32, aon := true },                  -- IW_ADDR_LO
  { base := 0x14, wmask := ones 0 16, aon := true },                  -- IW_ADDR_HI
  { base := 0x18, wmask := ones 0 32, aon := true },                  -- IW_DATA
  { base := 0x1C, reset := 0x3C, wmask := ones 1 6, aon := true },    -- IW_CTRL
  { base := 0x20, reset := 0xF, wmask := ones 2 2 + ones 8 8, aon := true },  -- MP_POWER
  { base := 0x24, aon := true },                                      -- MP_RESET
  { base := 0x28, aon := true },                                      -- MP_THERM
  { base := 0x2C, wmask := ones 0 32, aon := true },                  -- MP_SCRATCH
  { base := 0x30, aon := true },                                      -- MP_BOOT
  { base := 0x34 },                                                   -- MP_LOCK
  { base := 0x38, wmask := ones 0 16, aon := true },                  -- ER_PTR
  { base := 0x3C, aon := true },                                      -- ER_DATA
  { base := 0x40, count := 2 },                                       -- MB_FULL_LO, MB_FULL_HI
  { base := 0x48, wmask := ones 0 6 },                                -- MB_SEL
  { base := 0x4C, count := 2 },                                       -- MB_DATA, MB_ERR
  { base := 0x54 },                                                   -- MP_PARTNERS
  { base := 0x58, aon := true },                                      -- MP_COUNT
  { base := 0x80, count := 15, wmask := ones 0 4 } ]                  -- profile registers

/-- Registers of basins, scales, state, attention, pages and queues (R64, R89, R115, R142, R174, R201, R202). -/
def basinRows : List RegRow := [
  { base := 0x20000, wmask := ones 0 32 },                            -- BS_ENABLE
  { base := 0x20004, wmask := ones 0 5 },                             -- BS_TEST
  { base := 0x20100, count := 32 },                                   -- BS_STATUS_n
  { base := 0x20200, count := 32, reset := 24, wmask := ones 0 6 },   -- BS_CLK_n
  { base := 0x20300, count := 64 },                                   -- BS_ERR_n, BS_ERRID_n
  { base := 0x20400, count := 32, reset := 0x23, wmask := ones 0 3 + ones 4 2 },  -- SU_CFG_n
  { base := 0x20500, reset := 0x30, wmask := ones 0 6 },              -- ST_CFG
  { base := 0x20600, reset := 2, wmask := ones 0 3 },                 -- AT_CFG
  { base := 0x20700, reset := 0x14, wmask := ones 0 5 },              -- KV_CFG
  { base := 0x20800, reset := 0x242714, wmask := ones 0 3 + ones 4 2 + ones 8 7 + ones 16 7 },  -- WQ_CFG
  { base := 0x20804, wmask := ones 0 7 + ones 8 6 },                  -- WQ_WINDOW
  { base := 0x20808, wmask := ones 0 17 },                            -- WQ_CANCEL
  { base := 0x2080C, wmask := ones 0 32 },                            -- WQ_CANCEL_TAG
  { base := 0x20900, stride := 16, count := 32, reset := 383, wmask := ones 0 9 },  -- WQ_BASE_n
  { base := 0x20904, stride := 16, count := 32 },                     -- WQ_STATUS_n
  { base := 0x20908, stride := 16, count := 32, wmask := ones 0 32 }, -- WQ_POST_LO_n
  { base := 0x2090C, stride := 16, count := 32, wmask := ones 0 16 }, -- WQ_POST_HI_n
  { base := 0x20C00, reset := 4, wmask := ones 0 12 },                -- CAD_CFG
  { base := 0x20C04, count := 3 },                                    -- CAD_TICK, CAD_PHASE, CAD_STATUS
  { base := 0x20C10 },                                                -- CAD_CTRL
  { base := 0x20D00, reset := 0x640180, wmask := ones 0 9 + ones 16 10 },  -- CX_CFG
  { base := 0x20E00, count := 32, wmask := ones 0 18 },               -- CX_ADIR_n
  { base := 0x20F00, reset := 0x3201, wmask := ones 0 1 + ones 8 8 }, -- PL_CFG
  { base := 0x20F04, wmask := ones 0 32 },                            -- PL_POST_LO
  { base := 0x20F08, wmask := ones 0 16 },                            -- PL_POST_HI
  { base := 0x20F0C },                                                -- PL_STATUS
  { base := 0x20F10, count := 4, reset := 0xFFFFFFFF, wmask := ones 0 32 },  -- PL_QUOTA_t
  { base := 0x20F20, reset := 0x080A, wmask := ones 0 16 },           -- FL_CFG
  { base := 0x20F24 },                                                -- FL_STATUS
  { base := 0x21000, count := 256 },                                  -- counter blocks of the basins (R64, R89)
  { base := 0x22000, count := 128 },                                  -- state counter blocks
  { base := 0x22200, count := 128 },                                  -- attention counter blocks
  { base := 0x22400, count := 128 },                                  -- page counter blocks
  { base := 0x22600, count := 256 },                                  -- scheduling counter blocks
  { base := 0x22A00, count := 128 },                                  -- sluice counter blocks
  { base := 0x22C00, count := 11 },                                   -- placement counter block
  { base := 0x22D00, count := 37 },                                   -- hold statistics
  { base := 0x23000, count := 512 } ]                                 -- CX_SLOT_n_s

/-- Registers of model sets, the fabric, the weir, containment and commit (R298, R327, R418, R427). -/
def hubRows : List RegRow := [
  { base := 0x24000, reset := 0x280803, wmask := ones 0 2 + ones 8 4 + ones 16 8 },  -- MS_CFG
  { base := 0x24004, wmask := ones 0 32 },                            -- MS_POST_LO
  { base := 0x24008, wmask := ones 0 16 },                            -- MS_POST_HI
  { base := 0x2400C },                                                -- MS_STATUS
  { base := 0x24100, count := 64 },                                   -- set entries
  { base := 0x24200, count := 256 },                                  -- MS_JOB_j
  { base := 0x24600, count := 6 },                                    -- model-set counters
  { base := 0x25000, reset := 0x4088, wmask := ones 0 17 },           -- TH_CFG
  { base := 0x25004, wmask := ones 0 16 },                            -- TH_MEMBERS
  { base := 0x25100, stride := 16, count := 12 },                     -- TH_LINK_CTRL_l
  { base := 0x25104, stride := 16, count := 12 },                     -- TH_LINK_STATUS_l
  { base := 0x25200, count := 16 },                                   -- TH_PARTNER_p
  { base := 0x25300, wmask := ones 0 4 },                             -- TH_FENCE
  { base := 0x25304 },                                                -- TH_BOOT
  { base := 0x25400, count := 96 },                                   -- link counter blocks
  { base := 0x26000, reset := 0x025801C2, wmask := ones 0 10 + ones 16 10 },  -- WR_BUDGET
  { base := 0x26004, reset := 0x64960414, wmask := ones 0 12 + ones 16 16 },  -- WR_CFG
  { base := 0x26008, reset := 0x6400 },                               -- WR_STATUS
  { base := 0x2600C },                                                -- WR_DRAW
  { base := 0x26010, count := 4, reset := 150, wmask := ones 0 10 },  -- WR_DIE_d
  { base := 0x26020, count := 8, reset := 75, wmask := ones 0 10 },   -- WR_TERRACE_t
  { base := 0x26100, count := 4 },                                    -- weir counters
  { base := 0x27000, stride := 8, count := 256, wmask := ones 0 7 + ones 10 1 + ones 16 16 },  -- RC_JOB_j
  { base := 0x27004, stride := 8, count := 256 },                     -- RC_COMMIT_j
  { base := 0x27800, reset := 20, wmask := ones 0 8 },                -- RC_CFG
  { base := 0x27900, count := 3 } ]                                   -- recovery counters

/-- Registers of the wellhead, the host ports, the security engine and the recorder (R347, R369, R441, and R443 on). -/
def farRows : List RegRow := [
  { base := 0x30000, reset := 1, wmask := ones 0 1 },                 -- FE_MUTE
  { base := 0x30010, count := 4, reset := 0xC8, wmask := ones 0 23 }, -- FE_ARRAY_a
  { base := 0x30100, count := 128, wmask := ones 0 10 + ones 16 16 }, -- FE_BEAM_a_b_c
  { base := 0x30400, reset := 0x646C00, wmask := ones 0 28 },  -- FE_WAKE_CFG
  { base := 0x30404, reset := 300 + 96 * 512 + 5 * 2097152, wmask := ones 0 29 },  -- FE_WAKE_CFG2
  { base := 0x30408, wmask := ones 0 23 },                            -- V_ITEM
  { base := 0x3040C, reset := 80 * 8388608, wmask := ones 0 32 },     -- V_PCM, V_LEN
  { base := 0x30410, wmask := ones 0 23 },                            -- V_VERDICT
  { base := 0x30414, count := 4 },                                    -- FE_WAKE_STATUS, FE_WAKE_FRAME, FE_FRAME, FE_FRAME_OFS
  { base := 0x30500, reset := 14, wmask := ones 0 6 },                -- FE_RING_CFG
  { base := 0x30504, count := 8, wmask := ones 0 6 + ones 8 6 + ones 16 6 + ones 24 6 },  -- FE_RING_SRC_j
  { base := 0x30524 },                                                -- FE_RING_STATUS
  { base := 0x30530, count := 2, wmask := ones 0 32 },                -- FE_FETCH FIRST, DST_LO
  { base := 0x30538, wmask := ones 0 30 },                            -- FE_FETCH control word
  { base := 0x30540, wmask := ones 0 32 },                            -- FE_DSP SRC_LO
  { base := 0x30544, wmask := ones 0 16 },                            -- FE_DSP control word
  { base := 0x30600, count := 9 },                                    -- wellhead counters
  { base := 0x31000, reset := 0x29FEE, wmask := ones 0 19 },  -- NET_CFG
  { base := 0x31004, reset := 0xC000, wmask := ones 0 16 },           -- NET_UDP
  { base := 0x31008, count := 2, wmask := ones 0 32 },                -- NET_IP, NET_HOST_IP
  { base := 0x31010, wmask := ones 0 28 },                            -- NET_WWIN
  { base := 0x31018, wmask := ones 0 32 },                            -- NET_RES_LO
  { base := 0x3101C, reset := 6 * 65536, wmask := ones 0 21 },        -- NET_RES_HI
  { base := 0x31020, wmask := ones 0 32 },                            -- NET_RES_HEAD
  { base := 0x31024, count := 8 },                                    -- NET_RES_TAIL to NET_SYNC_HI
  { base := 0x31100, count := 10 },                                   -- network counters
  { base := 0x40000 },                                                -- SEC_CTRL
  { base := 0x40004, wmask := ones 0 32 },                            -- SEC_ADDR_LO
  { base := 0x40008, wmask := ones 0 16 },                            -- SEC_ADDR_HI
  { base := 0x4000C, wmask := ones 0 15 },                            -- SEC_ARG
  { base := 0x40010 },                                                -- SEC_STATUS
  { base := 0x40014, count := 2, aon := true },                       -- SEC_LEAF, SEC_HEAD
  { base := 0x40020, count := 2 },                                    -- security counters
  { base := 0xC0000, reset := 0xD, wmask := ones 0 4, aon := true },  -- ER_CFG
  { base := 0xC0004, count := 8, aon := true } ]                      -- ER_STATUS to MIRROR_LOST

/-- The TSN tables of a port (R393): the administrative gate list, gate control, shapers, stream filters, flow meters and stream gates. -/
def portRows (base : Nat) : List RegRow := [
  { base := base, stride := 8, count := 256, wmask := ones 0 8 },
  { base := base + 4, stride := 8, count := 256, wmask := ones 0 32 },
  { base := base + 0x800, count := 3, wmask := ones 0 32 },
  { base := base + 0x80C, wmask := ones 0 9 },
  { base := base + 0x900, stride := 16, count := 2, wmask := ones 0 4 },
  { base := base + 0x904, stride := 16, count := 2, wmask := ones 0 32 },
  { base := base + 0x1000, stride := 16, count := 64, wmask := ones 0 32 },
  { base := base + 0x1004, stride := 16, count := 64, wmask := ones 0 29 },
  { base := base + 0x1008, stride := 16, count := 64, wmask := ones 0 6 + ones 8 6 + ones 16 14 },
  { base := base + 0x1400, stride := 32, count := 32, wmask := ones 0 32 },
  { base := base + 0x1404, stride := 32, count := 32, wmask := ones 0 32 },
  { base := base + 0x1408, stride := 32, count := 32, wmask := ones 0 32 },
  { base := base + 0x140C, stride := 32, count := 32, wmask := ones 0 32 },
  { base := base + 0x1410, stride := 32, count := 32, wmask := ones 0 3 },
  { base := base + 0x2000, stride := 128, count := 64, wmask := ones 0 5 } ] ++
  (List.range 8).flatMap (fun i => [
    { base := base + 0x2008 + 8 * i, stride := 128, count := 64, wmask := 1 },
    { base := base + 0x200C + 8 * i, stride := 128, count := 64, wmask := ones 0 32 }])

/-- The TSN tables of both ports and the shared 802.1CB tables (R393); what a table reserves reads 0. -/
def tsnRows : List RegRow :=
  portRows 0x34000 ++ portRows 0x38000 ++ [
  { base := 0x3C000, stride := 16, count := 128, wmask := ones 0 32 },
  { base := 0x3C004, stride := 16, count := 128, wmask := ones 0 29 },
  { base := 0x34000, count := 8704 } ]

/-- The register table. -/
def regRows : List RegRow := smallMapRows ++ basinRows ++ hubRows ++ farRows ++ tsnRows

/-- Does the row hold the register at an offset. -/
def RegRow.has (r : RegRow) (off : Nat) : Bool :=
  decide (r.base ≤ off ∧ (off - r.base) % r.stride = 0 ∧ (off - r.base) / r.stride < r.count)

/-- The row of the register at an offset of the hub range. -/
def rowAt (off : Nat) : Option RegRow := regRows.find? (·.has off)

/-- The reset value of the register at an offset. -/
def resetAt (off : Nat) : Nat := match rowAt off with | some r => r.reset | none => 0

/-- The value a register holds. -/
def getReg (c : Chip) (off : Nat) : Nat :=
  match tabFind c.regs off with
  | some v => v.toNat
  | none => resetAt off

/-- The package with a register set. -/
def putReg (c : Chip) (off v : Nat) : Chip := { c with regs := tabSet c.regs off (BitVec.ofNat 32 v) }

/-- A field of a register. -/
def getF (c : Chip) (off lo w : Nat) : Nat := fld (getReg c off) lo w

/-- The package with one field of a register set. -/
def putF (c : Chip) (off lo w v : Nat) : Chip := putReg c off (setFld (getReg c off) lo w v)

/-- A counter grows by `n` and wraps modulo 2^32. -/
def bump (c : Chip) (off : Nat) (n : Nat := 1) : Chip := if n = 0 then c else putReg c off (getReg c off + n)

/-- A counter in units of `unit` grows by `n` parts, the remainder carried. -/
def bumpUnits (c : Chip) (off unit n : Nat) : Chip :=
  let t := tabGet 0 c.rems off + n
  bump { c with rems := tabSet c.rems off (t % unit) } off (t / unit)

/-- The part of a write that a register stores (R6): the bits of its row. -/
def storeReg (c : Chip) (off v : Nat) : Chip :=
  match rowAt off with
  | some r => putReg c off (Nat.lor (Nat.land (getReg c off) (2 ^ 32 - 1 - r.wmask)) (Nat.land v r.wmask))
  | none => c

/-- Package reset, or the hub switched on again (R401, R410): the registers of the package domain take their reset values. -/
def resetRegs (keep : Nat → Bool) (regs : Tab (BitVec 32)) : Tab (BitVec 32) :=
  regs.filter (fun p => keep p.1 || (match rowAt p.1 with | some r => r.aon | none => false))

/-! ### Where the registers lie -/

def rStatus : Nat := 0x04
def rAlertEn : Nat := 0x08
def rErrLast : Nat := 0x0C
def rIwLo : Nat := 0x10
def rIwHi : Nat := 0x14
def rIwData : Nat := 0x18
def rIwCtrl : Nat := 0x1C
def rPower : Nat := 0x20
def rTherm : Nat := 0x28
def rBoot : Nat := 0x30
def rLock : Nat := 0x34
def rErPtr : Nat := 0x38
def rMbSel : Nat := 0x48
def rMbErr : Nat := 0x50
def rCount : Nat := 0x58
def rEnable : Nat := 0x20000
def rTest : Nat := 0x20004
def rClk (b : Nat) : Nat := 0x20200 + 4 * b
def rErr (b : Nat) : Nat := 0x20300 + 8 * b
def rErrId (b : Nat) : Nat := 0x20304 + 8 * b
def rSuCfg (b : Nat) : Nat := 0x20400 + 4 * b
def rStCfg : Nat := 0x20500
def rAtCfg : Nat := 0x20600
def rKvCfg : Nat := 0x20700
def rWqCfg : Nat := 0x20800
def rWqWindow : Nat := 0x20804
def rWqCancel : Nat := 0x20808
def rWqTag : Nat := 0x2080C
def rWqBase (b : Nat) : Nat := 0x20900 + 16 * b
def rWqStatus (b : Nat) : Nat := 0x20904 + 16 * b
def rWqLo (b : Nat) : Nat := 0x20908 + 16 * b
def rWqHi (b : Nat) : Nat := 0x2090C + 16 * b
def rCadCfg : Nat := 0x20C00
def rTick : Nat := 0x20C04
def rPhase : Nat := 0x20C08
def rCadStatus : Nat := 0x20C0C
def rCxCfg : Nat := 0x20D00
def rCxAdir (b : Nat) : Nat := 0x20E00 + 4 * b
def rPlCfg : Nat := 0x20F00
def rPlLo : Nat := 0x20F04
def rPlHi : Nat := 0x20F08
def rPlStatus : Nat := 0x20F0C
def rQuota (t : Nat) : Nat := 0x20F10 + 4 * t
def rFlCfg : Nat := 0x20F20
def rFlStatus : Nat := 0x20F24
/-- Counter `k` of the counter block of basin `b` (R64, R89): 0 SRAM_CE, 1 SRAM_UE, 2 RESIDUE_FAIL, 3 GANG_DRAIN,
4 ISSUE_REJECT, 5 SCALE_REFIT, 6 SATURATE, 7 NAN_CONVERT. -/
def rBasinCtr (b k : Nat) : Nat := 0x21000 + 0x20 * b + 4 * k
/-- State counters (R115): 0 STATE_SWAP, 1 HOOK_FIRED, 2 RESID_HELD, 3 STATE_NONFINITE. -/
def rStateCtr (b k : Nat) : Nat := 0x22000 + 0x10 * b + 4 * k
/-- Attention counters (R142): 0 ATTN_DONE, 1 ROW_EMPTY, 2 ROW_NAN, 3 VEC_WAIT. -/
def rAttnCtr (b k : Nat) : Nat := 0x22200 + 0x10 * b + 4 * k
/-- Page counters (R174): 0 LAB_HIT, 1 LAB_MISS, 2 COW_COPY, 3 SLOT_REVERT. -/
def rKvCtr (b k : Nat) : Nat := 0x22400 + 0x10 * b + 4 * k
/-- Scheduling counters (R201): 0 STEAL_IN, 1 STEAL_OUT, 2 STEAL_EMPTY, 3 XBAR_STALL, 4 RA_DISCARD, 5 ITEM_CANCEL,
6 POST_REJECT. -/
def rWqCtr (b k : Nat) : Nat := 0x22600 + 0x20 * b + 4 * k
/-- Sluice counters (R233): 0 SLUICE_STALL, 1 BLOCK_CODED, 2 BLOCK_RAW, 3 TABLE_WAIT. -/
def rCxCtr (b k : Nat) : Nat := 0x22A00 + 0x10 * b + 4 * k
/-- Placement counters (R265): 0 PL_UP, 1 PL_DOWN, 2 PL_EVICT_QUEUED, 3 PL_UP_AFTER_DOWN, 4 PL_REFUSED, 5 DRAM_CE, 6 DRAM_UE,
7 FL_REFRESH, 8 FL_BAD, 9 CIS_CE, 10 CIS_UE. -/
def rPlCtr (k : Nat) : Nat := 0x22C00 + 4 * k
def rHist (c b : Nat) : Nat := 0x22D00 + 0x20 * c + 4 * b
def rStallTime (c : Nat) : Nat := 0x22D80 + 4 * c
def rStallMax : Nat := 0x22D90
def rMsCfg : Nat := 0x24000
def rMsLo : Nat := 0x24004
def rMsHi : Nat := 0x24008
def rMsStatus : Nat := 0x2400C
def rSet (e k : Nat) : Nat := 0x24100 + 0x10 * e + 4 * k
def rMsJob (j : Nat) : Nat := 0x24200 + 4 * j
/-- Model-set counters (R298): 0 LOAD_REREAD, 1 LOAD_REQ, 2 REPL_DROP, 3 REPL_HOLD, 4 LOAD_DONE, 5 LOAD_FAILED. -/
def rMsCtr (k : Nat) : Nat := 0x24600 + 4 * k
def rThCfg : Nat := 0x25000
def rMembers : Nat := 0x25004
def rLinkStatus (l : Nat) : Nat := 0x25104 + 0x10 * l
def rPartner (p : Nat) : Nat := 0x25200 + 4 * p
def rFence : Nat := 0x25300
def rNonce : Nat := 0x25304
/-- Link counters (R327): 0 FEC_CE, 1 CRC_FAIL, 2 REPLAY, 3 LINK_DOWN, 4 CREDIT_WAIT. -/
def rLinkCtr (l k : Nat) : Nat := 0x25400 + 0x20 * l + 4 * k
def rBudget : Nat := 0x26000
def rWrCfg : Nat := 0x26004
def rWrStatus : Nat := 0x26008
def rWrDraw : Nat := 0x2600C
def rDie (d : Nat) : Nat := 0x26010 + 4 * d
def rTerrace (t : Nat) : Nat := 0x26020 + 4 * t
/-- Weir counters (R418): 0 EXCURSIONS, 1 THROTTLE_US, 2 FLOOR_PERIODS, 3 DIDT_TRIP. -/
def rWrCtr (k : Nat) : Nat := 0x26100 + 4 * k
def rRcJob (j : Nat) : Nat := 0x27000 + 8 * j
def rRcCommit (j : Nat) : Nat := 0x27004 + 8 * j
def rRcCfg : Nat := 0x27800
/-- Recovery counters (R429): 0 CONTAINS, 1 COMMITS, 2 COMMITS_LATE. -/
def rRcCtr (k : Nat) : Nat := 0x27900 + 4 * k
def rErCfg : Nat := 0xC0000
def rErStatus : Nat := 0xC0004
def rErSeq : Nat := 0xC0008
def rErMirror : Nat := 0xC000C
def rErDrop (s : Nat) : Nat := 0xC0010 + 4 * s
def rMirrorLost : Nat := 0xC0020

end Sys2Proof.Machine
end

