-- ==== Sys2Proof/Machine/Ops.lean ====
section
/-! DEFINITION. The named operations over memory, reports, the recorder and containment, which every command shares:
the address map (R10, R235 to R239), reading and writing memory with its error checking (R53, R239, R244), reports and
their records (R420 to R423, R436 to R439), containment (R424, R425), and messages to other hubs (R318). -/

namespace Sys2Proof.Machine

/-! ### Error codes (R421) -/

def eDescOpcode : Nat := 0x101
def eDescReserved : Nat := 0x102
def eDescGang : Nat := 0x103
def eDescPair : Nat := 0x104
def eDescOutfmt : Nat := 0x105
def eDescAlign : Nat := 0x106
def eDescRange : Nat := 0x107
def eDescAcc : Nat := 0x108
def eSramUe : Nat := 0x201
def eResidue : Nat := 0x202
def eDramUe : Nat := 0x203
def eFlashUe : Nat := 0x204
def eSelftest : Nat := 0x205
def eScaleSkew : Nat := 0x301
def eScaleRange : Nat := 0x302
def eStateHdr : Nat := 0x401
def eStateHook : Nat := 0x402
def eAttnFmt : Nat := 0x501
def eAttnSkew : Nat := 0x502
def eKvStale : Nat := 0x601
def eKvNoGen : Nat := 0x602
def eKvRoot : Nat := 0x603
def eKvBody : Nat := 0x604
def eKvRank : Nat := 0x605
def eKvUnmapped : Nat := 0x606
def eKvPte : Nat := 0x607
def eKvFmt : Nat := 0x608
def eKvLen : Nat := 0x609
def eKvSpecOpen : Nat := 0x60A
def eKvSpecLimit : Nat := 0x60B
def eKvMap : Nat := 0x60C
def eKvShare : Nat := 0x60D
def eKvNoPage : Nat := 0x60E
def eKvTailFull : Nat := 0x60F
def eKvTailMismatch : Nat := 0x610
def eKvNoSlot : Nat := 0x611
def eItemFmt : Nat := 0x701
def eWqFull : Nat := 0x702
def eItemWait : Nat := 0x703
def eItemPf : Nat := 0x704
def eSluiceHdr : Nat := 0x801
def eSluiceGen : Nat := 0x802
def eSluiceCrc : Nat := 0x803
def eSluiceLen : Nat := 0x804
def eCxSlot : Nat := 0x805
def eCxSlotWait : Nat := 0x806
def eCxHold : Nat := 0x807
def eCxImage : Nat := 0x808
def eCxRemote : Nat := 0x809
def eCxAdapter : Nat := 0x80A
def eUnbacked : Nat := 0x901
def ePlRec : Nat := 0x902
def ePlState : Nat := 0x903
def ePlPin : Nat := 0x904
def ePlRefused : Nat := 0x905
def ePlOver : Nat := 0x906
def ePlMode : Nat := 0x907
def eTierLate : Nat := 0x908
def eFlashFull : Nat := 0x909
def eLoadFail : Nat := 0xA01
def eMsCmd : Nat := 0xA02
def eMsState : Nat := 0xA03
def eMsLate : Nat := 0xA04
def eReplPost : Nat := 0xA05
def eReplStuck : Nat := 0xA06
def eReplFail : Nat := 0xA07
def eFabFenced : Nat := 0xB01
def eFabLink : Nat := 0xB02
def eFabDenied : Nat := 0xB03
def eThWiring : Nat := 0xB04
def eThTrain : Nat := 0xB05
def ePartnerLost : Nat := 0xB06
def eSelfFenced : Nat := 0xB07
def eCadPhase : Nat := 0xC01
def eGptpLost : Nat := 0xC02
def eFeConfig : Nat := 0xD01
def eFeImage : Nat := 0xD02
def eFeFetch : Nat := 0xD03
def eFeVerify : Nat := 0xD04
def eNetWindow : Nat := 0xD05
def eMbFull : Nat := 0xE01
def eMbOff : Nat := 0xE02
def eMbDenied : Nat := 0xE03
def eMbEmpty : Nat := 0xE04
def eMbLocked : Nat := 0xE05
def eMbBind : Nat := 0xE06
def eHubDenied : Nat := 0xE07
def eIwAlign : Nat := 0xE08
def eIwTimeout : Nat := 0xE09
def eMpProfile : Nat := 0xE0A
def eMpKey : Nat := 0xE0B
def ePwrBasins : Nat := 0xF01
def ePwrDrain : Nat := 0xF02
def ePwrGoodLow : Nat := 0xF03
def ePwrLost : Nat := 0xF04
def eBootFw : Nat := 0xF05
def eBootBlob : Nat := 0xF06
def eThermShut : Nat := 0xF07
def eSecDenied : Nat := 0x1001
def ePufFail : Nat := 0x1002
def eAttestGap : Nat := 0x1003
def eAttestSpent : Nat := 0x1004
def eRcRemote : Nat := 0x1101
def eCommitLate : Nat := 0x1102
def eRcBusy : Nat := 0x1103
def eErMirror : Nat := 0x1104

/-- The default severity of a code (R421). -/
def sevOf (code : Nat) : Nat :=
  if code = 0xB05 then 1
  else if code = 0xB07 ∨ code = 0xF04 ∨ code = 0xF05 ∨ code = 0xF07 ∨ code = 0x1002 then 3
  else if code = 0x703 ∨ code = 0x704 ∨ code = 0x901 ∨ code = 0xA01 ∨ code = 0xA07 ∨ code = 0xC01 ∨ code = 0xF06 ∨
    code = 0x1101 then 2
  else if code = 0x1001 then 1
  else if code = 0xE01 ∨ code = 0xE02 ∨ code = 0xE04 ∨ code = 0xE08 ∨ code = 0x1103 then 0
  else
    match code / 256 with
    | 1 => 2 | 2 => 2 | 3 => 2 | 4 => 2 | 5 => 2 | 6 => 2 | 8 => 2 | 0xB => 2 | 0x10 => 2
    | _ => 1

/-! ### The address map -/

/-- This package's number (R8). -/
def pkg (c : Chip) : Nat := c.power.pkgId.toNat

/-- The system address of a local address of this package (R10). -/
def sys (c : Chip) (loc : Nat) : Nat := pkg c * 2 ^ 44 + loc

/-- The package that a system address names. -/
def pkgOf (a : Nat) : Nat := a / 2 ^ 44 % 16

/-- The local part of a system address. -/
def locOf (a : Nat) : Nat := a % 2 ^ 44

/-- The start of the hub range (R10). -/
def hubBase : Nat := 0xF0000000000

/-- The local address of an offset of a basin's SRAM window (R10). -/
def sramLoc (b off : Nat) : Nat := 0x80100000000 + b * 0x800000 + off

/-- The system address of an offset of a basin's SRAM of this package. -/
def sram (c : Chip) (b : Fin 32) (off : Nat) : Nat := sys c (sramLoc b.val off)

/-- What stands at a local address (R10, R237): a basin's SRAM, a cistern, a DRAM stack, the hub range, or no memory. -/
inductive Region where
  | sram (b : Fin 32)
  | cistern (d : Fin 4)
  | dram (d : Fin 4)
  | hub
  | hole
  deriving DecidableEq, Repr

/-- The region of a local address; windows are larger than what backs them (R10, R237). -/
def regionOf (loc : Nat) : Region :=
  if loc < 0x1800000000 then .dram ⟨loc / 0x600000000 % 4, Nat.mod_lt _ (by decide)⟩
  else if loc < 0x80000000000 then .hole
  else if loc < 0x80010000000 then
    if (loc - 0x80000000000) % 0x4000000 < 0x3000000 then
      .cistern ⟨(loc - 0x80000000000) / 0x4000000 % 4, Nat.mod_lt _ (by decide)⟩ else .hole
  else if loc < 0x80100000000 then .hole
  else if loc < 0x80110000000 then
    if (loc - 0x80100000000) % 0x800000 < 0x600000 then
      .sram ⟨(loc - 0x80100000000) / 0x800000 % 32, Nat.mod_lt _ (by decide)⟩ else .hole
  else if loc < hubBase then .hole
  else .hub

/-- Do two regions belong to one range of the map: the four DRAM stacks lie side by side (R10, R237). -/
def Region.joined : Region → Region → Bool
  | .dram _, .dram _ => true
  | x, y => x == y

/-- Is the whole range of `n` bytes at a system address backed by memory, without a gap. -/
def backed (a n : Nat) : Bool :=
  match regionOf (locOf a) with
  | .hub => false
  | .hole => false
  | r => n = 0 || (r.joined (regionOf (locOf a + n - 1)) && pkgOf (a + n - 1) == pkgOf a)

/-- Is the whole range backed by one basin SRAM, one cistern or one DRAM stack (R145). -/
def backedOne (a n : Nat) : Bool := backed a n && (n == 0 || regionOf (locOf a) == regionOf (locOf a + n - 1))

/-- Does the range meet a hub range. -/
def inHub (a n : Nat) : Bool := decide (locOf a + n > hubBase)

/-- The terrace and the die of a basin (R8). -/
def terraceOf (b : Fin 32) : Nat := b.val / 4
def dieOf (b : Fin 32) : Nat := b.val / 8

/-- The copy engine (FAIL_UNIT). -/
def copyUnit : Nat := 0x38

/-! ### Effects on the package that can stop -/

/-- What stops a descriptor, a copy, a walk or another unit's step: the code, the unit as in FAIL_UNIT, the address or
offset, the argument that the rule names, the STEP_TAG of the item (R437), and whether the detection has been reported already (R423). -/
structure Stop where
  code : Nat
  unit : Nat := 0
  addr : Nat := 0
  arg : Nat := 0
  step : Nat := 0
  told : Bool := false
  deriving DecidableEq, Repr

/-- A step on the package that may stop; what it did before it stopped stays done (R58, R81). -/
abbrev Eff := EStateM Stop Chip

/-- Stop with a code. -/
def stopWith {α : Type} (code : Nat) (unit : Nat := 0) (addr : Nat := 0) : Eff α := throw { code := code, unit := unit, addr := addr }

/-- Stop with a code where a condition holds. -/
def stopIf (p : Bool) (code : Nat) (unit : Nat := 0) (addr : Nat := 0) : Eff Unit :=
  if p then stopWith code unit addr else pure ()

/-- Change the package. -/
def change (f : Chip → Chip) : Eff Unit := modify f

/-- What a step left: the package, and what stopped it if anything did. -/
def runEff {α : Type} (m : Eff α) (c : Chip) : Chip × Except Stop α :=
  match m c with
  | .ok a d => (d, .ok a)
  | .error e d => (d, .error e)

/-! ### Memory -/

/-- Insertion into a rising list without repeats. -/
def insertNat (n : Nat) : List Nat → List Nat
  | [] => [n]
  | k :: r => if n < k then n :: k :: r else if n = k then k :: r else k :: insertNat n r

/-- The counters of a corrected and of an uncorrectable error at a local address (R53, R239). -/
def eccCtr (loc : Nat) : Option (Nat × Nat) :=
  match regionOf loc with
  | .sram b => some (rBasinCtr b.val 0, rBasinCtr b.val 1)
  | .cistern _ => some (rPlCtr 9, rPlCtr 10)
  | .dram _ => some (rPlCtr 5, rPlCtr 6)
  | _ => none

/-- The error code of an uncorrectable word at a local address (R53, R239). -/
def ueCode (loc : Nat) : Nat := match regionOf loc with | .dram _ => eDramUe | _ => eSramUe

/-- The words with an error in a range, lowest first. -/
def eccIn (c : Chip) (a n : Nat) : List (Nat × EccErr) :=
  c.ecc.filter (fun p => decide (8 * p.1 + 8 > a ∧ 8 * p.1 < a + n))

/-- Is a system address in a cistern. -/
def inCistern (a : Nat) : Bool := match regionOf (locOf a) with | .cistern _ => true | _ => false

/-- Corrected errors of a list of words counted, up to the first uncorrectable one, whose address is given. A corrected word of a cistern is
written back at once (R239); that of a basin is a command of its own (R53). -/
def countEcc (own : Nat) : List (Nat × EccErr) → Chip → Chip × Option Nat
  | [], c => (c, none)
  | (w, .single) :: r, c =>
    let c := match eccCtr (locOf (8 * w)) with
      | some (k, _) => if pkgOf (8 * w) = own then bump c k else c
      | none => c
    countEcc own r (if inCistern (8 * w) then { c with ecc := tabDel c.ecc w } else c)
  | (w, .double) :: _, c =>
    let c := match eccCtr (locOf (8 * w)) with
      | some (_, k) => if pkgOf (8 * w) = own then bump c k else c
      | none => c
    (c, some (8 * w))

/-- A read checks the ECC of its words before any byte is used (R53, R239). The unit reported is the one that reads (log entry 8). -/
def checkEcc (unit a n : Nat) : Eff Unit := do
  let c ← get
  let (d, bad) := countEcc (pkg c) (eccIn c a n) c
  set d
  match bad with
  | some w => stopWith (ueCode (locOf w)) unit w
  | none => pure ()

/-- The pieces of a range, each of at most `n` bytes. -/
def pieces (n : Nat) (a len : Nat) : List (Nat × Nat) :=
  (List.range (ceilDiv len n)).map (fun i => (a + i * n, min n (len - i * n)))

/-! ### What a unit asks of other packages (R314, log entry 12) -/

/-- The stop of a unit that waits for the answer of another package; no error has this code. -/
def awaitFar : Stop := { code := 0 }

/-- A unit begins its work, or begins it again with the answers that have come. -/
def beginFar (who : Requester) (c : Chip) : Chip := { c with fab := { c.fab with far := [], now := who } }

/-- A request to another package, to be sent when the unit at work stops, waits or is done. A read is asked for once. -/
def askFar (x : FarReq) (c : Chip) : Chip :=
  if x.ty = 4 ∧ c.fab.far.contains x then c else { c with fab := { c.fab with far := c.fab.far ++ [x] } }

/-- The aligned 64-byte lines that hold a range, at most 4,096 bytes at a time: the reads that ask for it (R314). -/
def lineReads (a n : Nat) : List FarReq :=
  (pieces 4096 (a / 64 * 64) (roundUp (a + n) 64 - a / 64 * 64)).map (fun p => { ty := 4, addr := p.1, len := p.2 })

/-- A read of another package. -/
def askRead (a n : Nat) (c : Chip) : Chip := (lineReads a n).foldl (fun c x => askFar x c) c

/-- A write to another package, at most 256 bytes at a time (R314). -/
def askWrite (a : Nat) (bs : List Byte) (c : Chip) : Chip :=
  (pieces 256 a bs.length).foldl (fun c p => askFar { ty := 2, addr := p.1, len := p.2, data := (bs.drop (p.1 - a)).take p.2 } c) c

/-- The request of an atomic operation at the home of a root or word: its number, and its operands (log entry 34). -/
def atomicReq (a op : Nat) (operands : List Nat) : FarReq :=
  let data := (op :: operands).flatMap (leBytes 4)
  { ty := 6, addr := a, len := data.length, data := data }

/-- Such an operation asked of another package. -/
def askAtomic (a op : Nat) (operands : List Nat) (c : Chip) : Chip := askFar (atomicReq a op operands) c

/-- Which of the equal requests of its unit a request is. -/
def farNth (fs : List FarReq) (x : FarReq) : Nat := if x.ty = 4 then 0 else (fs.filter (· == x)).length

/-- A unit's requests with their numbers among equal ones, in order. -/
def farNumbered (fs : List FarReq) : List (FarReq × Nat) :=
  ((List.range fs.length).zip fs).map (fun p => (p.2, farNth (fs.take p.1) p.2))

/-- The basin whose walker a unit reads with. -/
def Requester.walker : Requester → Option (Fin 32)
  | .walk b _ _ => some b
  | _ => none

/-- What was asked for a unit and bears on a request: the same request of its own, or a line that its walker has begun to prefetch and whose
read has not failed (R156). -/
def askedFor (c : Chip) (who : Requester) (x : FarReq) (nth : Nat) : Option Asked :=
  (c.fab.asked.find? (fun y => y.who == who && y.req == x && y.nth == nth)).or
    (c.fab.asked.find? (fun y => who.walker.any (fun b => y.who == .line b) && x.ty == 4 && y.req.addr == x.addr && y.req.len == x.len &&
      (match y.answer with | some (code, _) => code == 0 | none => true)))

/-- A request made by the unit at work: its answer, if that has come. An error is met as one that is met here (R314). -/
def ask (unit : Nat) (x : FarReq) : Eff (Option (List Byte)) := do
  let c ← get
  let y := askedFor c c.fab.now x (farNth c.fab.far x)
  set (askFar x c)
  match y.bind (·.answer) with
  | some (code, bs) => if code = 0 then pure (some bs) else stopWith code unit x.addr
  | none => pure none

/-- The answers to several requests, which are all made before the first is waited for. -/
def askAll (unit : Nat) (xs : List FarReq) : Eff (List (List Byte)) := do
  let os ← xs.mapM (ask unit)
  if os.all (·.isSome) then pure (os.filterMap id) else throw awaitFar

/-- Whatever the unit at work has asked of other packages is done there before it goes on. -/
def syncFar (unit : Nat) : Eff Unit := do
  let c ← get
  let xs := (farNumbered c.fab.far).filter (fun p => !p.1.quiet && pkgOf p.1.addr != pkg c)
  xs.forM (fun p =>
    match (askedFor c c.fab.now p.1 p.2).bind (·.answer) with
    | some (code, _) => stopIf (code != 0) code unit p.1.addr
    | none => throw awaitFar)

/-- A range of another package is asked for, and is not waited for yet. -/
def wantMem (a n : Nat) : Eff Unit := change (fun c => if pkgOf a = pkg c then c else askRead a n c)

/-- The bytes of a range, checked. Those of another package come with the answers to the reads that ask for them (R314). -/
def readMem (unit a n : Nat) : Eff (List Byte) := do
  let c ← get
  if pkgOf a = pkg c then do
    checkEcc unit a n
    let c ← get
    pure (memReadN c.mem a n)
  else if n = 0 then pure []
  else do
    let bs ← askAll unit (lineReads a n)
    pure ((bs.flatten.drop (a % 64)).take n)

/-- The little-endian number of `n` bytes at an address, checked. -/
def readNat (unit a n : Nat) : Eff Nat := do
  let bs ← readMem unit a n
  pure (leNat bs)

/-- The 64-bit words of a range. -/
def readWords (unit a n : Nat) : Eff (List Nat) := do
  let bs ← readMem unit a (8 * n)
  pure ((List.range n).map (fun i => leNat ((bs.drop (8 * i)).take 8)))

/-- The package with bytes written: granules become dirty (R244), and a whole 64-bit word written replaces an error (R53). DESIGN CHOICE
(log entry 146), unsafe: where a result of a descriptor ends inside a 64-bit word, the spec writes the whole word (R54) and does not say what
its other bytes hold; the model leaves those bytes, and an error of the word, as they were. -/
def putMem (c : Chip) (a : Nat) (bs : List Byte) : Chip :=
  if bs = [] then c else
    let n := bs.length
    let ecc := c.ecc.filter (fun p => !decide (a ≤ 8 * p.1 ∧ 8 * p.1 + 8 ≤ a + n))
    let dirty := if pkgOf a = pkg c then (span (a / 65536) ((a + n - 1) / 65536 + 1 - a / 65536)).foldl (fun l g => insertNat g l) c.dirty
      else c.dirty
    { c with mem := memWriteN c.mem a bs, ecc := ecc, dirty := dirty }

/-- Bytes written. -/
def writeMem (a : Nat) (bs : List Byte) : Eff Unit := change (fun c => putMem c a bs)

/-- Bytes written at any package: those of another one are sent to it. -/
def writeOut (a : Nat) (bs : List Byte) : Eff Unit := change (fun c => if pkgOf a = pkg c then putMem c a bs else askWrite a bs c)

/-- An operation at the home of a root or word, with what it answers (R146): done here, or asked of its package and waited for. -/
def atHome (unit a op : Nat) (operands : List Nat) (m : Eff (List Byte)) : Eff (List Byte) := do
  let c ← get
  if pkgOf a = pkg c then m
  else do
    let bs ← askAll unit [atomicReq a op operands]
    pure bs.flatten

/-- A number written in `n` little-endian bytes. -/
def writeNat (a n v : Nat) : Eff Unit := writeMem a (leBytes n v)

/-- Words written. -/
def writeWords (a : Nat) (ws : List Nat) : Eff Unit := writeMem a (ws.flatMap (leBytes 8))

/-- A range left undefined: a free value in every byte (log entry 1). -/
def undefine (c : Chip) (a n : Nat) : Chip :=
  putMem { c with free := c.free + 1 } a ((List.range n).map (Config.freeByte c.free))

/-- A number of a draw, below a bound. -/
def drawNat (c : Chip) (bound : Nat) : Nat × Chip := (Config.freeNat c.free % bound, { c with free := c.free + 1 })

/-- The package with part of a 64-bit word written: the whole word is, so a single-bit error in it is gone (R53, R54). -/
def putSub (c : Chip) (a : Nat) (bs : List Byte) : Chip := { putMem c a bs with ecc := tabDel (putMem c a bs).ecc (a / 8) }

/-- A write narrower than 64 bits: a read-modify-write of the word that holds it, which an uncorrectable error stops (R54). -/
def rmw (unit a : Nat) (bs : List Byte) : Eff Unit := do
  checkEcc unit (a / 8 * 8) 8
  change (fun c => putSub c a bs)

/-! ### Parts of the package -/

/-- One basin changed. -/
def modBasin (b : Fin 32) (f : Basin → Basin) (c : Chip) : Chip := { c with basins := c.basins.set b.val (f c.basins[b]) b.isLt }

/-- Every basin changed. -/
def modBasins (f : Fin 32 → Basin → Basin) (c : Chip) : Chip := { c with basins := Vector.ofFn (fun i => f i c.basins[i]) }

/-- A chain context changed. -/
def setChain (b : Fin 32) (k : Fin 16) (x : Option Chain) (c : Chip) : Chip :=
  modBasin b (fun s => { s with chains := s.chains.set k.val x k.isLt }) c

/-- Every chain of a basin, with its context. -/
def chainsOf (s : Basin) : List (Fin 16 × Chain) :=
  (List.finRange 16).filterMap (fun k => s.chains[k].map (fun x => (k, x)))

/-- The tables of a job (R424). -/
def jobRc (c : Chip) (j : Nat) : JobRc := tabGet {} c.jobs j

/-- A job's table changed. -/
def modJob (j : Nat) (f : JobRc → JobRc) (c : Chip) : Chip := { c with jobs := tabSet c.jobs j (f (jobRc c j)) }

/-- Is the basin enabled (R61). -/
def enabled (c : Chip) (b : Fin 32) : Bool := bit (getReg c rEnable) b.val

/-- Is gPTP locked (R351). -/
def locked (c : Chip) : Bool := bit (getReg c 0x31030) 0

/-- The mode in force: 0 ACTIVE, 1 IDLE, 2 LISTEN, 3 OFF. -/
def modeOf (c : Chip) : Nat := getF c rPower 0 2

/-- Is a start-up past stage HUB, and not at its end (R411). -/
def pastHub : Boot → Bool
  | .firmware | .blob | .dram | .dies | .selftest => true
  | _ => false

/-- Is the hub powered (R397, R411). -/
def hubOn (c : Chip) : Bool := decide (modeOf c ≤ 1) || pastHub c.power.boot

/-- The current tick number (R195). -/
def tickOf (c : Chip) : Nat := getReg c rTick

/-- Does tick a come no later than tick b in the serial order of R152. -/
def tickLe (a b : Nat) : Bool := decide ((b + 2 ^ 32 - a % 2 ^ 32) % 2 ^ 32 < 2 ^ 31)

/-! ### Reports and records (R423, R436 to R439) -/

/-- A report. -/
structure Report where
  code : Nat
  sev : Nat
  job : Option Nat := none
  src : Nat := 0xFF
  seq : Nat := 0
  unit : Nat := 0
  cont : Bool := false
  addr : Nat := 0
  tag : Nat := 0
  peer : Nat := 0
  link : Nat := 0
  arg : Nat := 0

/-- One byte of the CRC-32C of a record (R436), reflected. -/
def crc32Step (poly : Nat) : Nat → Nat → Nat
  | 0, x => x
  | k + 1, x => crc32Step poly k (if x % 2 = 1 then Nat.xor (x / 2) poly else x / 2)

/-- A reflected 32-bit CRC with initial value and final inversion of all ones. -/
def crc32 (poly : Nat) (bs : List Byte) : Nat :=
  Nat.xor 0xFFFFFFFF (bs.foldl (fun x v => crc32Step poly 8 (Nat.xor x v.toNat)) 0xFFFFFFFF)

/-- CRC-32C (polynomial 0x1EDC_6F41, reflected). -/
def crc32c (bs : List Byte) : Nat := crc32 0x82F63B78 bs

/-- The lowest index that a rising table does not list. -/
def firstFree {α : Type} : Tab α → Nat → Nat
  | [], n => n
  | (k, _) :: r, n => if k = n then firstFree r (n + 1) else n

/-- The index that a new record of a severity takes (R438): the lowest empty one, or that of the lowest SEQ among the records of no
higher severity. -/
def ringPlace (ring : Tab ErRec) (sev : Nat) : Option Nat :=
  let f := firstFree ring 0
  if f < 4096 then some f
  else
    (ring.foldl (fun best (p : Nat × ErRec) =>
      if p.2.sev ≤ sev then
        match best with
        | some (_, s) => if p.2.seq < s then some (p.1, p.2.seq) else best
        | none => some (p.1, p.2.seq)
      else best) (none : Option (Nat × Nat))).map (·.1)

/-- Is a record of a severity that is written now mirrored (R440): a write to ER_CFG applies to records written after it. -/
def mirrors (c : Chip) (sev : Nat) : Bool :=
  match getF c rErCfg 0 2 with
  | 0 => false
  | 1 => decide (2 ≤ sev)
  | 2 => decide (1 ≤ sev)
  | _ => true

/-- The sixteen words of a record (R436). -/
def recordWords (c : Chip) (typ sev code job src : Nat) (payload : List Nat) : List Nat :=
  let w := [typ + sev * 256 + code * 65536, getReg c rErSeq, c.aonNs % 2 ^ 32, c.aonNs / 2 ^ 32 % 2 ^ 32,
    job + src * 65536 + b2n (!locked c) * 16777216] ++ (payload ++ List.replicate 10 0).take 10
  w ++ [crc32c (w.flatMap (leBytes 4))]

/-- A record enters the ring, or is dropped and counted (R438). -/
def writeRecord (typ sev code job src : Nat) (payload : List Nat) (c : Chip) : Chip :=
  match ringPlace c.recorder.ring sev with
  | none => bump c (rErDrop sev)
  | some i =>
    let seq := getReg c rErSeq
    let w := recordWords c typ sev code job src payload
    let lost := match tabFind c.recorder.ring i with
      | some r => r.mir && decide (getReg c rErMirror ≤ r.seq)
      | none => false
    let c := if lost then bump c rMirrorLost else c
    let c := { c with recorder := { c.recorder with ring := tabSet c.recorder.ring i { seq := seq, sev := sev, w := w, mir := mirrors c sev } } }
    putF (putReg c rErSeq (seq + 1)) rErStatus 0 12 i

/-- The statistics of the interval take a report (R437). -/
def countReport (c : Chip) (r : Report) : Chip :=
  let k := r.code / 256
  let iv := c.recorder.iv
  let e := tabGet {} iv.classes k
  let e := { e with first := if e.count = 0 then c.aonNs else e.first, last := c.aonNs, count := e.count + 1,
                    sev := max e.sev r.sev, code := r.code, job := r.job.getD 0xFFFF }
  let iv := { iv with classes := tabSet iv.classes k e, severe := iv.severe + (if r.sev ≥ 2 then 1 else 0) }
  { c with recorder := { c.recorder with iv := iv, totals := tabSet c.recorder.totals k (tabGet 0 c.recorder.totals k + 1) } }

/-- Each detection makes one report (R423): the statistics, MP_ERR_LAST and MP_STATUS (R439), and the ERROR record where this is the
first of its (CODE, JOB) pair in the interval (R437). -/
def report (r : Report) (c : Chip) : Chip :=
  let c := countReport c r
  if r.sev = 0 then c else
    let c := putReg c rErrLast (r.code + r.sev * 65536)
    let c := if r.sev ≥ 2 then putF c rStatus 1 1 1 else c
    let key := (r.code, r.job.getD 0xFFFF)
    if c.recorder.iv.pairs.contains key then c else
      let c := { c with recorder := { c.recorder with iv := { c.recorder.iv with pairs := key :: c.recorder.iv.pairs } } }
      writeRecord 1 r.sev r.code (r.job.getD 0xFFFF) r.src
        [r.seq + r.unit * 65536 + b2n r.cont * 4194304, r.addr % 2 ^ 32, r.addr / 2 ^ 32 % 65536, r.tag,
         r.peer + r.link * 16, r.arg] c

/-- A bit of MP_STATUS is set (R381). -/
def setStatus (i : Nat) (c : Chip) : Chip := putF c rStatus i 1 1

/-- ALERT_N is asserted (R381): an enabled status bit is set, the island is not in reset, and no package reset is in progress. -/
def alertN (c : Chip) : Bool :=
  decide (Nat.land (getReg c rStatus) (getReg c rAlertEn) ≠ 0) && !c.power.aonHeld && !c.power.rstLow

/-! ### Members, and what leaves the package -/

/-- Is a package a member of the system (R301). -/
def member (c : Chip) (p : Nat) : Bool := bit (getReg c rMembers) p

/-- Is a package treated as fenced (R301, R322). -/
def fenced (c : Chip) (p : Nat) : Bool :=
  decide (p ≠ pkg c) && (!member c p || getF c (rPartner p) 0 2 == 3 || c.fab.selfFenced)

/-- Something leaves the package. -/
def emit (x : Emit) (c : Chip) : Chip := { c with out := x :: c.out }

/-- Does a port carry traffic (R349): it is enabled, its link is up, and the mode is ACTIVE or IDLE. -/
def portOn (c : Chip) (p : Nat) : Bool := decide (modeOf c ≤ 1) && bit (getReg c 0x31000) (2 + p) && bit (getReg c (0x31028 + 4 * p)) 0

/-- The ports that can send now (R368). -/
def portsUp (c : Chip) (ports : Nat) : List Nat := (List.range 2).filter (fun p => (ports == p || ports == 2) && portOn c p)

/-- The payload of a datagram of this package (R363). -/
def udpPayload (c : Chip) (typ job seq count : Nat) (body : List Byte) : List Byte :=
  leBytes 2 0x4C45 ++ leBytes 1 1 ++ leBytes 1 typ ++ leBytes 2 (pkg c) ++ leBytes 2 job ++ leBytes 4 seq ++ leBytes 4 count ++ body

end Sys2Proof.Machine
end

