-- ==== Sys2Proof/Machine/Ports.lean ====
section
/-! DEFINITION. What leaves by the host ports (R349, R350, R363, R393): the TSN tables, transmit gates and shapers, the frames that wait for them,
802.1CB sequence numbers, and datagrams. What IEEE 802.1Qbv, 802.1Qav and 802.1CB are left to say is PRESUMED from them (log entries 153, 187). -/

namespace Sys2Proof.Machine

/-- The tables of a port, and the 64-bit word of a table entry (R393). -/
def tsnBase (p : Nat) : Nat := 0x34000 + 0x4000 * p
def tsnWord (c : Chip) (off : Nat) : Nat := getReg c off + getReg c (off + 4) * 2 ^ 32

/-- The first VALID entry of a table of 64 that names a destination address and a VID. -/
def streamEntry (c : Chip) (base dst vid : Nat) : Option Nat :=
  (List.range 64).find? (fun i =>
    let w := tsnWord c (base + 16 * i)
    bit w 60 && fld w 0 48 == dst && fld w 48 12 == vid)

/-! ### Gates -/

/-- A list of intervals as one cycle runs through it: the last one lasts to the cycle's end. -/
def oneCycle : List (Bool × Nat) → Nat → List (Bool × Nat)
  | [], _ => []
  | [x], left => [(x.1, left)]
  | x :: y :: r, left => if left ≤ x.2 then [(x.1, left)] else x :: oneCycle (y :: r) (left - x.2)

/-- Does a list of intervals stay open for `dur` from a time on. -/
def openFor : List (Bool × Nat) → Nat → Nat → Bool
  | [], _, _ => true
  | x :: r, t, dur => if x.2 ≤ t then openFor r (t - x.2) dur else x.1 && (decide (t + dur ≤ x.2) || openFor r 0 (t + dur - x.2))

/-- Is a gate that runs through a list on the CYCLE and BASE_TIME of a port open for `dur` from `now`. A frame of 9,216 bytes lasts less than three
of the shortest cycles. -/
def gateFor (c : Chip) (p now dur : Nat) (list : List (Bool × Nat)) : Bool :=
  let base := tsnWord c (tsnBase p + 0x800)
  let cycle := getReg c (tsnBase p + 0x808)
  if list = [] || cycle == 0 || decide (now < base) then true
  else
    let one := oneCycle list cycle
    openFor (one ++ one ++ one ++ one) ((now - base) % cycle) dur

/-- The operating gate list of a port at a time (R393). -/
def gatesAt (now : Nat) (g : GateList) : List (Nat × Nat) := match g.next with | some (t, l) => if t ≤ now then l else g.list | none => g.list

/-- The gates of a port. -/
def portGates (c : Chip) (p : Nat) : GateList := c.tx.gates[(⟨p % 2, Nat.mod_lt _ (by decide)⟩ : Fin 2)]

/-- How long a frame occupies a 25 Gb/s port, in ns, with its preamble. -/
def frameNs (bytes : Nat) : Nat := ceilDiv ((bytes + 8) * 8) 25

/-- Does a frame that starts now end before the gate of its queue closes (R350). -/
def txGate (c : Chip) (p q bytes now : Nat) : Bool :=
  gateFor c p now (frameNs bytes) ((gatesAt now (portGates c p)).map (fun x => (bit x.1 q, x.2)))

/-! ### Shapers -/

/-- The shaper of a queue of a port that is enabled, and its idle slope in kbit/s (R393). -/
def shaperOf (c : Chip) (p q : Nat) : Option (Nat × Nat) :=
  ([0, 1].find? (fun k => bit (getReg c (tsnBase p + 0x900 + 16 * k)) 3 && getF c (tsnBase p + 0x900 + 16 * k) 0 3 == q)).map
    (fun k => (2 * p + k, getReg c (tsnBase p + 0x904 + 16 * k)))

/-- The credit of a shaper now: it rises at the idle slope, and above 0 only while a frame of its queue waits. -/
def creditAt (c : Chip) (x : Nat × Nat) (queued : Bool) (now : Nat) : Int :=
  let y := tabGet ((0 : Int), now) c.tx.credit x.1
  let v := y.1 + (x.2 : Int) * ((now - y.2 : Nat) : Int)
  if queued then v else min v 0

/-- May a frame start now: its gate leaves it the time, and its shaper has credit. -/
def maySend (c : Chip) (p q bytes now : Nat) (queued : Bool) : Bool :=
  txGate c p q bytes now && (match shaperOf c p q with | some x => decide (0 ≤ creditAt c x queued now) | none => true)

/-- A frame has started: the credit of its shaper falls at the send slope, the idle slope minus the port rate, until it ends. -/
def spendCredit (p q bytes now : Nat) (queued : Bool) (c : Chip) : Chip :=
  match shaperOf c p q with
  | none => c
  | some x =>
    let v := creditAt c x queued now + ((x.2 : Int) - 25000000) * (frameNs bytes : Int)
    { c with tx := { c.tx with credit := tabSet c.tx.credit x.1 (v, now + frameNs bytes) } }

/-! ### Frames -/

/-- Does a frame of a queue of a port wait. -/
def queueWaits (c : Chip) (p q : Nat) : Bool := c.tx.waiting.any (fun x => x.port == p && x.queue == q)

/-- The frames that wait, in order: those that may start now leave, and those of a port that is down are dropped (R368). -/
def drainTx (now : Nat) (c : Chip) : Chip :=
  c.tx.waiting.foldl (fun c x =>
    if !portOn c x.port then c
    else if !queueWaits c x.port x.queue && maySend c x.port x.queue x.bytes now true then
      emit x.what (spendCredit x.port x.queue x.bytes now true c)
    else { c with tx := { c.tx with waiting := c.tx.waiting ++ [x] } }) { c with tx := { c.tx with waiting := [] } }

/-- A frame of `bytes` bytes is given to a queue of each of some ports at a time: where it may start it leaves, and elsewhere it waits. -/
def transmit (ports : List Nat) (queue bytes now : Nat) (what : List Nat → Emit) (c : Chip) : Chip :=
  let c := drainTx now c
  let go := ports.filter (fun p => !queueWaits c p queue && maySend c p queue bytes now false)
  let late := ports.filter (fun p => !go.contains p)
  let c := if go = [] then c else emit (what go) (go.foldl (fun c p => spendCredit p queue bytes now false c) c)
  { c with tx := { c.tx with waiting := c.tx.waiting ++ late.map (fun p => { port := p, queue := queue, bytes := bytes, what := what [p] }) } }

/-- The bytes of an Ethernet frame with `n` bytes of a network packet and `tags` bytes of tags. -/
def etherBytes (tags n : Nat) : Nat := max 64 (18 + tags + n)

/-- The sequence number that 802.1CB gives the next frame of a stream, if the stream is one it numbers (R350). -/
def nextSeq (dst vid : Nat) (c : Chip) : Option Nat × Chip :=
  match streamEntry c 0x3C000 dst vid with
  | none => (none, c)
  | some i =>
    let n := tabGet 0 c.tx.seqGen i
    (some n, { c with tx := { c.tx with seqGen := tabSet c.tx.seqGen i ((n + 1) % 2 ^ 16) } })

/-- The MAC address of an IPv4 address (R349). -/
def macOf (c : Chip) (ip : Nat) : Nat := (tabFind c.tx.arp ip).getD (Config.arpMac ip)

/-- A datagram leaves by the ports of PORTS that are up (R361, R363, R368), untagged, from the UDP port at a distance from NET_UDP.BASE. -/
def sendDatagram (ports off ip udp : Nat) (payload : List Byte) (c : Chip) : Chip :=
  if portsUp c ports = [] then c
  else
    let x : Datagram := { src := getF c 0x31004 0 16 + off, ip := ip, udp := udp, mac := macOf c ip, payload := payload }
    let q := nextSeq x.mac 0 c
    transmit (portsUp c ports) 0 (etherBytes (if q.1.isSome then 6 else 0) (28 + payload.length)) c.gptpNs (fun ps => .datagram ps { x with seq := q.1 })
      q.2

end Sys2Proof.Machine
end

