-- ==== Sys2Proof/Machine/Wire.lean ====
section
/-! DEFINITION. The sending side of the Turhorn fabric (R300 to R318): wiring and routes, flits, credits and replay buffers, requests to other
packages, messages between hubs, and the containment of a job, of which other packages are told (R424, R425). -/

namespace Sys2Proof.Machine

/-! ### Wiring and routes (R300 to R303) -/

/-- The pair of package `p` that leads to package `q`, if they share a row or a column (R300). -/
def pairTo (p q : Nat) : Option Nat :=
  if p = q then none
  else if p / 4 = q / 4 then some ((q % 4 + 4 - p % 4) % 4 - 1)
  else if p % 4 = q % 4 then some (3 + ((q / 4 + 4 - p / 4) % 4 - 1))
  else none

/-- The partner on a pair of package `p` (R300). -/
def pairPartner (p k : Nat) : Nat :=
  if k < 3 then p / 4 * 4 + (p % 4 + k + 1) % 4 else (p / 4 + k - 2) % 4 * 4 + p % 4

/-- The partner's pair back (R300). -/
def pairBack (k : Nat) : Nat := if k < 3 then 2 - k else 8 - k

/-- The package that link `l` leads to, and the number of the link there. -/
def linkPartner (c : Chip) (l : Fin 12) : Nat := pairPartner (pkg c) (l.val / 2)
def linkBack (l : Fin 12) : Nat := 2 * pairBack (l.val / 2) + l.val % 2

/-- STATE of a link: 0 DOWN, 1 TRAINING, 2 UP, 3 FAILED. -/
def linkState (c : Chip) (l : Fin 12) : Nat := getF c (rLinkStatus l.val) 0 3
def linkUp (c : Chip) (l : Fin 12) : Bool := linkState c l == 2

/-- The two links of a pair. -/
def linksOf (k : Nat) : List (Fin 12) :=
  [⟨2 * k % 12, Nat.mod_lt _ (by decide)⟩, ⟨(2 * k + 1) % 12, Nat.mod_lt _ (by decide)⟩]

/-- The links that are UP of the pair that leads to a partner. -/
def upLinks (c : Chip) (q : Nat) : List (Fin 12) :=
  match pairTo (pkg c) q with
  | some k => (linksOf k).filter (linkUp c)
  | none => []

/-- May a package carry flits as the next hop: a member that is not fenced, with a link of its pair UP. The links beyond it are not
this package's to know; their loss is told by LOST notices (log entry 33). -/
def hopOk (c : Chip) (q : Nat) : Bool := !fenced c q && upLinks c q != []

/-- The first and second choice of intermediate (R302). -/
def vias (c : Chip) (q : Nat) : Nat × Nat :=
  let row := pkg c / 4 * 4 + q % 4
  let col := q / 4 * 4 + pkg c % 4
  if bit (getReg c rThCfg) 16 then (col, row) else (row, col)

/-- The next hop toward a package, and whether it is the second choice (R302). -/
def nextHop (c : Chip) (q : Nat) : Option (Nat × Bool) :=
  if (pairTo (pkg c) q).isSome then (if upLinks c q != [] then some (q, false) else none)
  else if hopOk c (vias c q).1 then some ((vias c q).1, false)
  else if hopOk c (vias c q).2 then some ((vias c q).2, true)
  else none

/-- The link that a transaction is bound to (R303): of those UP toward the next hop the one with fewer flits waiting, the lower one
between equals. -/
def bindLink (c : Chip) (hop : Nat) : Option (Fin 12) :=
  (upLinks c hop).foldl (fun best l =>
    match best with
    | none => some l
    | some m => if c.fab.links[l].waiting.length < c.fab.links[m].waiting.length then some l else best) none

/-! ### Flits (R308 to R310) -/

/-- The virtual channel of a type, or none where the type is reserved (R309). -/
def vcOf (ty : Nat) : Option Nat :=
  if ty = 2 ∨ ty = 4 ∨ ty = 6 then some 0
  else if ty = 3 ∨ ty = 5 ∨ ty = 7 ∨ ty = 10 then some 1
  else if ty = 8 then some 2
  else if ty = 9 then some 3
  else if ty ≤ 1 then some 0
  else none

/-- Is a type numbered (R309). -/
def numbered (ty : Nat) : Bool := decide (2 ≤ ty)

/-- Words 0 to 2 of the control word (R308). -/
def flitWords (f : Flit) : List Nat :=
  [f.ty.toNat + f.vc.toNat * 2 ^ 4 + f.src.toNat * 2 ^ 8 + f.dst.toNat * 2 ^ 12 + f.seq.toNat * 2 ^ 16 + f.ack.toNat * 2 ^ 28 +
     b2n f.nak * 2 ^ 40 + b2n f.ackV * 2 ^ 41 + f.crVc.toNat * 2 ^ 42 + f.crCnt.toNat * 2 ^ 44,
   f.addr.toNat + f.len.toNat * 2 ^ 44,
   f.tag.toNat + f.mask.toNat * 2 ^ 16 + f.code.toNat * 2 ^ 32 + f.master.toNat * 2 ^ 48]

/-- The CRC of a flit (R310): words 0 to 2, then 256 data bytes, those beyond LEN being 0. -/
def flitCrc (f : Flit) : Nat :=
  crc32 0xEDB88320 ((flitWords f).flatMap (leBytes 8) ++ (f.data ++ List.replicate 256 0).take 256)

/-- Is a flit whole (R309, R310): both codewords decode, the CRC matches, and nothing of it is reserved. -/
def flitOk (f : Flit) : Bool :=
  f.fecOk && !f.reserved && f.crc.toNat == flitCrc f &&
  (match vcOf f.ty.toNat with | some v => !numbered f.ty.toNat || f.vc.toNat == v | none => false)

/-- A link changed. -/
def modLink (l : Fin 12) (f : Link → Link) (c : Chip) : Chip :=
  { c with fab := { c.fab with links := c.fab.links.set l.val (f c.fab.links[l]) l.isLt } }

/-- A flit leaves on a link: it carries the acknowledgement and the credits of one channel that are due (R308, R311, R313). -/
def sendFlit (l : Fin 12) (nak : Bool) (f : Flit) (c : Chip) : Chip :=
  let k := c.fab.links[l]
  let v := ((List.finRange 4).find? (fun v => k.returns[v] != 0)).getD 0
  let n := min 511 k.returns[v]
  let g := { f with ack := BitVec.ofNat 12 k.expect, ackV := true, nak := nak, crVc := BitVec.ofNat 2 v.val, crCnt := BitVec.ofNat 9 n }
  let g := { g with crc := BitVec.ofNat 32 (flitCrc g) }
  emit (.flit l g) (modLink l (fun k => { k with since := 0, returns := k.returns.set v.val (k.returns[v] - n) v.isLt }) c)

/-- An IDLE flit leaves, to the link's partner (R308). -/
def sendIdle (l : Fin 12) (nak : Bool) (c : Chip) : Chip :=
  sendFlit l nak { src := c.power.pkgId, dst := BitVec.ofNat 4 (linkPartner c l) } c

/-- A credit is due to the partner of a link. -/
def returnCredit (l : Fin 12) (vc : Nat) (c : Chip) : Chip :=
  modLink l (fun k => { k with returns := k.returns.set (vc % 4) (k.returns[vc % 4]'(Nat.mod_lt _ (by decide)) + 1) (Nat.mod_lt _ (by decide)) }) c

/-! ### Credits and sending (R311 to R313) -/

/-- Is a flit on its last hop to package `q` (R313). -/
def lastHop (f : Flit) (q : Nat) : Bool := if f.ty = 8 ∨ f.ty = 9 then bit f.mask.toNat q else f.dst.toNat == q

/-- The credit that a flit takes: a reserved one of its channel, or a shared one, if one is free. -/
def takeCredit (k : Link) (q : Nat) (f : Flit) : Option Bool :=
  let vc := f.vc.toNat
  if lastHop f q && decide ((k.used.filter (fun u => u == (vc, false))).length < 32) then some false
  else if (k.used.filter (·.2)).length < 256 then some true
  else none

/-- The place of the next flit to send, and the credit it takes: channel 3 first, then channels 0 to 2 in turn. -/
def pickFlit (k : Link) (q : Nat) : Option (Nat × Queued × Bool) :=
  let order := [3, k.turn % 3, (k.turn + 1) % 3, (k.turn + 2) % 3]
  order.findSome? (fun v =>
    match findPos (fun x => x.f.vc.toNat == v) k.waiting 0 with
    | none => none
    | some (i, x) => (takeCredit k q x.f).map (fun sh => (i, x, sh)))

/-- A wait for credits ends: CREDIT_WAIT takes its time (R313). -/
def endWait (l : Fin 12) (c : Chip) : Chip :=
  match c.fab.links[l].waitSince with
  | some t => modLink l (fun k => { k with waitSince := none }) (bumpUnits c (rLinkCtr l.val 4) 1000 (c.upNs - t))
  | none => c

/-- Flits that wait are sent while the window and the credits allow. -/
def pump (l : Fin 12) : Nat → Chip → Chip
  | 0, c => c
  | n + 1, c =>
    let k := c.fab.links[l]
    let q := linkPartner c l
    if !linkUp c l || fenced c q || decide (512 ≤ k.replay.length) then c
    else
      match pickFlit k q with
      | none => if k.waiting ≠ [] ∧ k.waitSince = none then modLink l (fun k => { k with waitSince := some c.upNs }) c else c
      | some (i, x, sh) =>
        let c := endWait l c
        let f := { x.f with seq := BitVec.ofNat 12 k.nextSeq }
        let c := modLink l (fun k => { k with waiting := k.waiting.eraseIdx i, replay := k.replay ++ [f], nextSeq := (k.nextSeq + 1) % 4096,
                                              used := k.used ++ [(f.vc.toNat, sh)],
                                              turn := if f.vc.toNat < 3 then (f.vc.toNat + 1) % 3 else k.turn }) c
        let c := sendFlit l false f c
        let c := match x.origin with | some o => returnCredit o f.vc.toNat c | none => c
        pump l n c

/-- A flit is given to a link. -/
def enqueue (l : Fin 12) (origin : Option (Fin 12)) (f : Flit) (c : Chip) : Chip :=
  let c := modLink l (fun k => { k with waiting := k.waiting ++ [{ f := f, origin := origin }] }) c
  pump l c.fab.links[l].waiting.length c

/-- An answer travels back to its requester by either link toward it (R303); with no way there it is lost. -/
def sendAnswer (f : Flit) (origin : Option (Fin 12)) (c : Chip) : Chip :=
  if fenced c f.dst.toNat then c else
    match (nextHop c f.dst.toNat).bind (fun h => bindLink c h.1) with
    | some l => enqueue l origin f c
    | none => c

/-- An ERR_RESP for the transaction of a flit, to its requester. -/
def errFlit (c : Chip) (req tag code : Nat) : Flit :=
  { ty := 10, vc := 1, src := c.power.pkgId, dst := BitVec.ofNat 4 req, tag := BitVec.ofNat 16 tag, code := BitVec.ofNat 16 code }

/-- The requester of the transaction that a flit belongs to (R320), if it is not a posted one. -/
def requesterOf (f : Flit) : Option Nat :=
  if f.ty = 2 ∨ f.ty = 4 ∨ f.ty = 6 then some f.src.toNat
  else if f.ty = 3 ∨ f.ty = 5 ∨ f.ty = 7 ∨ f.ty = 10 then some f.dst.toNat
  else none

/-! ### Requests of this package (R302, R303, R308, R314) -/

/-- The first tag from `t` on that is not in use; of one more tags than are used, one is free. -/
def freeTag (used : List Nat) : Nat → Nat → Nat
  | 0, t => t
  | n + 1, t => if used.contains t then freeTag used n ((t + 1) % 65536) else t

/-- A tag that no outstanding transaction or confirmed message bears (R308, R318). -/
def takeTag (c : Chip) : Nat × Chip :=
  let used := c.fab.txns.map (·.tag) ++ c.fab.confirms.map (·.tag)
  let t := freeTag used used.length c.fab.nextTag
  (t, { c with fab := { c.fab with nextTag := (t + 1) % 65536 } })

/-- A request flit of this package. -/
def reqFlit (c : Chip) (ty a len tag : Nat) (m : Master) (data : List Byte) : Flit :=
  { ty := BitVec.ofNat 4 ty, vc := 0, src := c.power.pkgId, dst := BitVec.ofNat 4 (pkgOf a), addr := BitVec.ofNat 44 (locOf a),
    len := BitVec.ofNat 13 len, tag := BitVec.ofNat 16 tag, master := m, data := data }

/-- A transaction is outstanding, and its request is given to its link. -/
def sendReq (l : Fin 12) (t : Txn) (f : Flit) (c : Chip) : Chip :=
  enqueue l none f { c with fab := { c.fab with txns := c.fab.txns ++ [t] } }

/-- A read is sent on a link. The answer is its tag. -/
def sendRead (l : Fin 12) (a len : Nat) (m : Master) (who : Requester) (c : Chip) (off : Nat := 0) : Nat × Chip :=
  let (tag, c) := takeTag c
  let t : Txn := { tag := tag, dst := BitVec.ofNat 4 (pkgOf a), addr := locOf a, len := len, link := l, who := who, off := off }
  (tag, sendReq l t (reqFlit c 4 a len tag m []) c)

/-- A write of up to 256 bytes is sent on a link. -/
def sendWrite (l : Fin 12) (a : Nat) (bs : List Byte) (m : Master) (who : Requester) (c : Chip) : Nat × Chip :=
  let (tag, c) := takeTag c
  let t : Txn := { tag := tag, dst := BitVec.ofNat 4 (pkgOf a), addr := locOf a, len := bs.length, write := true, link := l, who := who, bytes := bs }
  (tag, sendReq l t (reqFlit c 2 a bs.length tag m bs) c)

/-- An atomic operation on a root, gate word or done word of another package is sent (R146, R177). Its operation and operands stand in its
data (log entry 34). -/
def sendAtomic (l : Fin 12) (a : Nat) (data : List Byte) (m : Master) (who : Requester) (c : Chip) : Nat × Chip :=
  let (tag, c) := takeTag c
  let t : Txn := { tag := tag, dst := BitVec.ofNat 4 (pkgOf a), addr := locOf a, len := data.length, link := l, who := who }
  (tag, sendReq l t (reqFlit c 6 a data.length tag m data) c)

/-- The link of the route to a package that is not fenced, if there is one. -/
def routeLink (p : Nat) (c : Chip) : Option (Fin 12) :=
  if fenced c p then none else (nextHop c p).bind (fun h => bindLink c h.1)

/-- The identity in MASTER of requests that the hub's own engines make; the spec gives them none (log entry 152). -/
def hubMaster : Master := 0xFF

/-- Bytes that a unit of the hub writes anywhere: here, or in WRITE flits, for which it does not wait; to a package that cannot be reached none
is sent. -/
def writeHub (a : Nat) (bs : List Byte) (c : Chip) : Chip :=
  if pkgOf a = pkg c then putMem c a bs
  else
    (pieces 256 a bs.length).foldl (fun c p =>
      match routeLink (pkgOf p.1) c with
      | some l => (sendWrite l p.1 ((bs.drop (p.1 - a)).take p.2) hubMaster .hub c).2
      | none => c) c

/-! ### Multicast and messages between hubs (R312, R316, R318) -/

/-- The packages of a mask. -/
def pkgsOf (mask : Nat) : List Nat := (List.range 16).filter (bit mask)

/-- A flit to several receivers (R316): it is sent once on each pair that leads to a receiver or to the intermediate of receivers
beyond. -/
def sendTree (dsts : List Nat) (f : Flit) (c : Chip) : Chip :=
  let hops := (dsts.filterMap (fun p => (nextHop c p).map (·.1))).eraseDups
  hops.foldl (fun c h => match bindLink c h with | some l => enqueue l none f c | none => c) c

/-- The MASK that names some packages. -/
def maskOf (dsts : List Nat) : BitVec 16 := BitVec.ofNat 16 ((List.range 16).foldl (fun m p => m + b2n (dsts.contains p) * 2 ^ p) 0)

/-- The DST of a flit with several receivers is its source (R308). -/
def dstOf (c : Chip) : List Nat → Pkg
  | [p] => BitVec.ofNat 4 p
  | _ => c.power.pkgId

/-- The MSG flit of a message (R309): its bytes are the layout's, which the spec does not give. -/
def msgFlit (c : Chip) (dsts : List Nat) (tag : Nat) (x : HubMsg) : Flit :=
  let bs := (Config.msgBytes x ++ [0]).take 256
  { ty := 9, vc := 3, src := c.power.pkgId, dst := dstOf c dsts, len := BitVec.ofNat 13 bs.length, tag := BitVec.ofNat 16 tag,
    mask := maskOf dsts, data := bs }

/-- A message is given to the links, for the receivers that are not fenced. A package that has fenced itself sends none (R323). -/
def sendMsg (dsts : List Nat) (tag : Nat) (x : HubMsg) (c : Chip) : Chip :=
  let dsts := dsts.filter (fun p => !fenced c p && decide (p ≠ pkg c))
  if dsts = [] then c
  else sendTree dsts (msgFlit c dsts tag x) (dsts.foldl (fun c p => emit (.hub (BitVec.ofNat 4 p) tag x) c) c)

/-- A message to a hub, not confirmed. -/
def sendHub (dst : Nat) (x : HubMsg) (c : Chip) : Chip := sendMsg [dst] 0 x c

/-- A confirmed message to some packages (R318): fenced receivers do not count. -/
def sendConfirmed (dsts : List Nat) (x : HubMsg) (c : Chip) : Chip :=
  let left := dsts.filter (fun p => !fenced c p && decide (p ≠ pkg c))
  if left = [] then c else
    let (tag, c) := takeTag c
    sendMsg left tag x { c with fab := { c.fab with confirms := c.fab.confirms ++ [{ tag := tag, left := left.map (BitVec.ofNat 4), msg := x }] } }

/-- Bytes multicast to some packages in posted flits (R316, R317). -/
def sendCast (dsts : List Nat) (loc : Nat) (bs : List Byte) (c : Chip) : Chip :=
  (pieces 256 loc bs.length).foldl (fun c p =>
    let d := (bs.drop (p.1 - loc)).take p.2
    sendTree dsts { ty := 8, vc := 2, src := c.power.pkgId, dst := c.power.pkgId, addr := BitVec.ofNat 44 p.1, len := BitVec.ofNat 13 d.length,
                    mask := maskOf dsts, data := d } c) c

/-- A confirmed message from a package is acted on once (R318): every copy is confirmed, and only the first is acted on. The package
keeps the last 256 tags of each sender. -/
def onConfirmed (src : Nat) (tag : Nat) (act : Chip → Chip) (c : Chip) : Chip :=
  if fenced c src then c else
    let c := emit (.confirm (BitVec.ofNat 4 src) tag) c
    let c := sendTree [src] (msgFlit c [src] 0 (.confirm (BitVec.ofNat 4 src) tag)) c
    let seen := tabGet [] c.fab.seen src
    if seen.contains tag then c
    else act { c with fab := { c.fab with seen := tabSet c.fab.seen src ((tag :: seen).take 256) } }

/-! ### Containment (R424, R425) -/

/-- A record changed. -/
def modRec (n : Nat) (f : Rec → Rec) (c : Chip) : Chip :=
  match tabFind c.recs n with
  | some r => { c with recs := tabSet c.recs n (f r) }
  | none => c

/-- The claims of a list of run-ahead copies fall (R253, R191). -/
def dropClaims (xs : List RunCopy) (c : Chip) : Chip :=
  xs.foldl (fun c x => match x.claim with
    | some n => modRec n (fun r => { r with claims := r.claims - 1 }) c
    | none => c) c

/-- Run-ahead copies of a basin are discarded (R191): each is counted, claims fall, and the destinations are left undefined, but for a record
that is no longer ABSENT, to whose data they no longer belong (R253). -/
def discardCopies (b : Fin 32) (xs : List RunCopy) (c : Chip) : Chip :=
  let c := xs.foldl (fun c x =>
    match x.claim.bind (tabFind c.recs) with
    | some r => if r.state = .absent then x.dst.foldl (fun c d => undefine c d.1 d.2) c else c
    | none => x.dst.foldl (fun c d => undefine c d.1 d.2) c) c
  bump (dropClaims xs c) (rWqCtr b.val 4) xs.length

/-- The run-ahead copies of the queued items that satisfy a test are discarded in one basin. -/
def discardAhead (b : Fin 32) (p : QItem → Bool) (c : Chip) : Chip :=
  let gone := (c.basins[b].queue.filter p).filterMap (·.ahead)
  let c := gone.foldl (fun c xs => discardCopies b xs c) c
  modBasin b (fun s => { s with queue := s.queue.map (fun q => if p q then { q with ahead := none } else q) }) c

/-- The run-ahead copies of items that have a context and have issued nothing yet are discarded with those of a contained job. -/
def discardBegun (b : Fin 32) (j : Nat) (c : Chip) : Chip :=
  (chainsOf c.basins[b]).foldl (fun c p =>
    if p.2.begun || p.2.item.job.toNat != j || p.2.ahead == [] then c
    else setChain b p.1 (some { p.2 with ahead := [] }) (discardCopies b p.2.ahead c)) c

/-- The number that RC_JOB_j.PKGS names (R427). -/
def jobPkgs (c : Chip) (j : Nat) : List Nat := pkgsOf (getF c (rRcJob j) 16 16)

/-- A job is contained in the package (R424): its run-ahead copies are discarded, and the other packages of its PKGS are told. A job
already contained stays so, and a number that is no job contains nothing. -/
def contain (j code : Nat) (c : Chip) : Chip :=
  if 256 ≤ j ∨ (jobRc c j).contained then c else
    let c := modJob j (fun x => { x with contained := true, code := code }) c
    let c := bump c (rRcCtr 0)
    let c := (List.finRange 32).foldl (fun c b => discardBegun b j (discardAhead b (fun q => q.item.job.toNat == j) c)) c
    sendConfirmed (jobPkgs c j) (.contain j code) c

/-- May a basin issue a descriptor of a job (R45, R425). -/
def jobBlocked (c : Chip) (b : Fin 32) (j : Nat) : Bool := (jobRc c j).contained || c.basins[b].stopped.contains j

/-- An error that stops a descriptor or an item in a basin (R45, R58): BS_ERR_n and BS_ERRID_n, the report at severity 2 at least
(R422), unless the detection has made one already (R423), and the containment of the job. -/
def basinError (b : Fin 32) (job seq : Nat) (e : Stop) (c : Chip) : Chip :=
  let c := putReg c (rErr b.val) (e.code + e.unit * 65536)
  let c := putReg c (rErrId b.val) (seq + job * 65536)
  let c := modBasin b (fun s => { s with stopped := insertNat job s.stopped }) c
  let c := if e.told then c
    else report { code := e.code, sev := max 2 (sevOf e.code), job := some job, src := b.val, seq := seq, unit := e.unit,
                  cont := true, addr := e.addr, tag := e.step, arg := e.arg } c
  contain job e.code c

/-- A report against the hub that contains a job (R424). -/
def hubError (job : Nat) (e : Stop) (c : Chip) : Chip :=
  contain job e.code (report { code := e.code, sev := max 2 (sevOf e.code), job := some job, src := 0x24, cont := true, addr := e.addr,
                               arg := e.arg } c)

end Sys2Proof.Machine
end

