-- ==== Sys2Proof/Machine/Blocks.lean ====
section
/-! DEFINITION. The block codec (R204 to R219, R231): canonical prefix codes, the sub-streams of a block, building a table from counts, coding a
block, table images, and the link blocks of a transfer over a link. -/

namespace Sys2Proof.Machine

/-- A list cut into runs of `n`. -/
def chunks {α : Type} (n : Nat) : Nat → List α → List (List α)
  | 0, _ => []
  | _, [] => []
  | k + 1, xs => xs.take n :: chunks n k (xs.drop n)

/-- One byte of a CRC-16 with polynomial 0x1021, most significant bit first. -/
def crc16Step : Nat → Nat → Nat
  | 0, x => x
  | k + 1, x => crc16Step k (if 0x8000 ≤ x then Nat.xor (2 * x % 65536) 0x1021 else 2 * x)

/-- CRC16 of R208. -/
def crc16 (bs : List Byte) : Nat := bs.foldl (fun x v => crc16Step 8 (Nat.xor x (v.toNat * 256))) 0xFFFF

/-! ### Canonical codes (R207) -/

/-- The byte values of a code length, ascending. -/
def valuesOf (lens : List Nat) (n : Nat) : List Nat := (List.range 256).filter (fun s => lens.getD s 0 == n)

/-- The conditions of R207 on code lengths. -/
def lensOk (lens : List Nat) : Bool :=
  let used := lens.filter (· != 0)
  used.all (· ≤ 12) && !used.isEmpty && decide ((used.map (fun n => 2 ^ (12 - n))).sum ≤ 4096) &&
  (used.length != 1 || used == [1])

/-- The codes of a table: (value, length, code), in the canonical order. -/
def codesFrom (lens : List Nat) : Nat → Nat → Nat → List (Nat × Nat × Nat)
  | 0, _, _ => []
  | fuel + 1, n, code =>
    let vs := valuesOf lens n
    (vs.zip (List.range vs.length)).map (fun p => (p.1, n, code + p.2)) ++ codesFrom lens fuel (n + 1) (2 * (code + vs.length))

/-- All codes of a table. -/
def codes (lens : List Nat) : List (Nat × Nat × Nat) := codesFrom lens 12 1 0

/-- One symbol read from a list of bits: the value, its length and the rest; `code` and `first` are the code so far and the first code
of its length. None is an invalid code or the end of the bits. -/
def readSym (lens : List Nat) : Nat → Nat → Nat → Nat → List Bool → Option (Nat × Nat × List Bool)
  | 0, _, _, _, _ => none
  | _, _, _, _, [] => none
  | fuel + 1, n, code, first, b :: bs =>
    let code := 2 * code + b2n b
    let first := 2 * first
    let vs := valuesOf lens n
    if code < first + vs.length ∧ first ≤ code then some (vs.getD (code - first) 0, n, bs)
    else readSym lens fuel (n + 1) code (first + vs.length) bs

/-- `k` symbols read: the values with their lengths, and the bits left. -/
def readSyms (lens : List Nat) : Nat → List Bool → Option (List (Nat × Nat) × List Bool)
  | 0, bs => some ([], bs)
  | k + 1, bs =>
    match readSym lens 12 1 0 0 bs with
    | none => none
    | some (v, n, r) => (readSyms lens k r).map (fun p => ((v, n) :: p.1, p.2))

/-- The bits of 32-bit words, bit 31 of each first (R206). -/
def wordBits (bs : List Byte) : List Bool :=
  (chunks 4 bs.length bs).flatMap (fun w => let x := leNat w; (List.range 32).map (fun i => bit x (31 - i)))

/-- The cycles that a decoder takes over a sub-stream's code lengths (R211). -/
def subCycles : Nat → List Nat → Nat
  | 0, _ => 0
  | _, [] => 0
  | fuel + 1, a :: r =>
    match r with
    | b :: c :: d :: t =>
      if a + b + c + d ≤ 32 then 1 + subCycles fuel t
      else if a + b + c ≤ 32 then 1 + subCycles fuel (d :: t) else 1 + subCycles fuel (c :: d :: t)
    | [b, c] => if a + b + c ≤ 32 then 1 else 1 + subCycles fuel [c]
    | [_] => 1
    | [] => 1

/-- A sub-stream decoded (check 6 of R209): its 256 values and their lengths. -/
def decodeSub (lens : List Nat) (bs : List Byte) : Option (List (Nat × Nat)) :=
  match readSyms lens 256 (wordBits bs) with
  | none => none
  | some (vs, r) => if r.length < 32 && r.all (!·) then some vs else none

/-- The raw bytes of a block from its sixteen sub-streams (R206). -/
def interleave (subs : List (List Nat)) : List Byte :=
  (List.range 4096).map (fun i => BitVec.ofNat 8 ((subs.getD (i / 4 % 16) []).getD (i / 64 * 4 + i % 4) 0))

/-- The bytes of sub-stream `j` of a raw block (R206). -/
def subOf (raw : List Byte) (j : Nat) : List Nat := (List.range 256).map (fun i => (raw.getD (i / 4 * 64 + 4 * j + i % 4) 0).toNat)

/-- The sub-streams of a payload decoded, with the cycles the block takes. -/
def decodeSubs (lens : List Nat) (lenj : List Nat) (payload : List Byte) : Option (List Byte × Nat) :=
  let starts := (List.range 16).map (fun j => 4 * (lenj.take j).sum)
  let subs := (List.range 16).map (fun j => decodeSub lens ((payload.drop (starts.getD j 0)).take (4 * lenj.getD j 0)))
  if subs.all Option.isSome then
    let vs := subs.map (fun x => x.getD [])
    some (interleave (vs.map (fun l => l.map (·.1))), (vs.map (fun l => subCycles 256 (l.map (·.2)))).foldl max 0)
  else none

/-- A header word's field (R205). -/
def hdr (ws : List Nat) (i lo n : Nat) : Nat := fld (ws.getD i 0) lo n

/-- The LEN_j of a header. -/
def lenj (ws : List Nat) : List Nat := (List.range 16).map (fun j => hdr ws (1 + j / 8) (8 * (j % 8)) 8)

/-- The stored size of a block (R204). -/
def storedSize (clen : Nat) : Nat := roundUp (32 + clen) 64

/-! ### Building and coding (R219, R223) -/

/-- A node of the Huffman construction: its count, whether it is merged, its order, and the values below it. -/
structure HNode where
  count : Nat
  merged : Bool
  order : Nat
  vals : List Nat
  deriving DecidableEq, Repr

/-- The order of R219: lower counts first; between equal counts a leaf before a merged node, lower values and earlier merges first. -/
def HNode.before (a b : HNode) : Bool :=
  decide (a.count < b.count) || (a.count == b.count && ((!a.merged && b.merged) || (a.merged == b.merged && decide (a.order < b.order))))

/-- Insertion in that order. -/
def hInsert (x : HNode) : List HNode → List HNode
  | [] => [x]
  | y :: r => if x.before y then x :: y :: r else y :: hInsert x r

/-- The two lowest nodes are merged until one is left; each merge makes the code of every value below it one bit longer. -/
def hMerge : Nat → Nat → List HNode → Tab Nat → Tab Nat
  | 0, _, _, t => t
  | fuel + 1, k, a :: b :: r, t =>
    let vs := a.vals ++ b.vals
    hMerge fuel (k + 1) (hInsert { count := a.count + b.count, merged := true, order := k, vals := vs } r)
      (vs.foldl (fun t v => tabSet t v (tabGet 0 t v + 1)) t)
  | _, _, _, t => t

/-- The code lengths of a Huffman code over counts. -/
def huffOnce (counts : List Nat) : List Nat :=
  let leaves := (List.range 256).filter (fun v => counts.getD v 0 != 0)
  match leaves with
  | [v] => (List.range 256).map (fun s => if s = v then 1 else 0)
  | _ =>
    let ns := leaves.foldl (fun l v => hInsert { count := counts.getD v 0, merged := false, order := v, vals := [v] } l) []
    let t := hMerge 256 0 ns []
    (List.range 256).map (fun s => tabGet 0 t s)

/-- The lengths of R219: counts are halved until no length exceeds 12. -/
def huffLens : Nat → List Nat → List Nat
  | 0, counts => huffOnce counts
  | fuel + 1, counts =>
    let ls := huffOnce counts
    if ls.all (· ≤ 12) then ls else huffLens fuel (counts.map (fun k => if k > 1 then ceilDiv k 2 else k))

/-- The counts of every byte value (R219). -/
def countBytes (bs : List Byte) : List Nat := (List.range 256).map (fun v => (bs.filter (fun x => x.toNat == v)).length)

/-- The table that R219 builds from bytes. -/
def buildLens (bs : List Byte) : List Nat := huffLens 32 (countBytes bs)

/-- The bits of a value's code, most significant first. -/
def codeBits (cs : List (Nat × Nat × Nat)) (v : Nat) : List Bool :=
  match cs.find? (fun p => p.1 == v) with
  | some (_, n, k) => (List.range n).map (fun i => bit k (n - 1 - i))
  | none => []

/-- 32-bit words from bits, bit 31 first, padded with 0 (R206). -/
def bitsWords (bits : List Bool) : List Byte :=
  (chunks 32 bits.length bits).flatMap (fun w =>
    leBytes 4 ((List.range 32).foldl (fun x i => 2 * x + b2n (w.getD i false)) 0))

/-- The sub-streams of a raw block coded with a table (R206), and its DCYC (R211). -/
def codeSubs (lens : List Nat) (raw : List Byte) : List (List Byte) × Nat :=
  let cs := codes lens
  ((List.range 16).map (fun j => bitsWords ((subOf raw j).flatMap (codeBits cs))),
   ((List.range 16).map (fun j => subCycles 256 ((subOf raw j).map (fun v => lens.getD v 0)))).foldl max 0)

/-- The LEN_j of sub-streams, as words 1 and 2 of a header (R205). -/
def lenWords (subs : List (List Byte)) : List Nat :=
  let ls := subs.map (fun x => BitVec.ofNat 8 (x.length / 4))
  [leNat (ls.take 8), leNat (ls.drop 8)]

/-- A block coded (R204 to R206, R223): its header words and payload, CODED where it may be, and otherwise RAW; and its DCYC, 0 for RAW. -/
def codeBlock (lens : List Nat) (slot gen tag dcycMax : Nat) (raw : List Byte) : List Nat × List Byte × Nat :=
  let rawOut := ([tag * 2 ^ 16 + 4096 * 2 ^ 24 + crc16 raw * 2 ^ 48, 0, 0, 0], raw, 0)
  if raw.any (fun v => lens.getD v.toNat 0 == 0) then rawOut else
    let (subs, dcyc) := codeSubs lens raw
    let payload := subs.flatten
    let clen := payload.length
    if 3840 ≤ storedSize clen ∨ dcycMax < dcyc then rawOut else
      ([1 + slot * 4 + gen * 2 ^ 8 + tag * 2 ^ 16 + clen * 2 ^ 24 + dcyc * 2 ^ 40 + crc16 payload * 2 ^ 48] ++ lenWords subs ++ [0], payload, dcyc)

/-- The 128 length bytes of a table image (R218). -/
def lenBytes (lens : List Nat) : List Byte := (List.range 128).map (fun i => BitVec.ofNat 8 (lens.getD (2 * i) 0 + 16 * lens.getD (2 * i + 1) 0))

/-- The lengths that 128 length bytes hold. -/
def lensOfBytes (bs : List Byte) : List Nat := (List.range 256).map (fun s => fld (bs.getD (s / 2) 0).toNat (4 * (s % 2)) 4)

/-- A part of a transfer as a link block (R231): INLINE, with the table built from it alone, where it is whole and codes below the limit, and
otherwise RAW. -/
def linkBlockOf (raw : List Byte) : List Byte :=
  let asRaw := (leBytes 8 (raw.length * 2 ^ 24 + crc16 raw * 2 ^ 48)) ++ List.replicate 24 0 ++ raw
  if raw.length ≠ 4096 then asRaw else
    let lens := buildLens raw
    let (subs, dcyc) := codeSubs lens raw
    let payload := lenBytes lens ++ subs.flatten
    let clen := payload.length
    if 3840 ≤ 32 + clen then asRaw
    else ([2 + clen * 2 ^ 24 + dcyc * 2 ^ 40 + crc16 payload * 2 ^ 48] ++ lenWords subs ++ [0]).flatMap (leBytes 8) ++ payload

/-- With LINK_CODE the payload of a transfer to an address is coded in link blocks (R231). What leaves beside the flits says how each part is
coded; the spec does not say how flits carry a block (log entry 69). -/
def codeLink (l : Fin 12) (job dst : Nat) (bs : List Byte) (c : Chip) : Chip :=
  if !bit (getReg c rCxCfg) 8 then c
  else
    (pieces 4096 dst bs.length).foldl (fun c p =>
      emit (.linkBlock l { bytes := linkBlockOf ((bs.drop (p.1 - dst)).take p.2), dst := BitVec.ofNat 48 p.1, job := BitVec.ofNat 16 job,
                           final := decide (p.1 + p.2 = dst + bs.length) }) c) c

/-- The table image of R218. -/
def imageOf (gen : Nat) (lens : List Nat) : List Byte :=
  let used := lens.filter (· != 0)
  let lb := lenBytes lens
  leBytes 8 (gen + used.foldl max 0 * 2 ^ 8 + used.length * 2 ^ 16) ++ leBytes 8 (crc16 lb) ++ List.replicate 48 0 ++ lb

/-- The lengths and generation of a table image, or none where it fails R218. -/
def imageLens (img : List Byte) : Option (Nat × List Nat) :=
  let w0 := leNat (img.take 8)
  let w1 := leNat ((img.drop 8).take 8)
  let lb := (img.drop 64).take 128
  let lens := lensOfBytes lb
  let used := lens.filter (· != 0)
  if fld w0 12 4 != 0 || fld w0 25 39 != 0 || fld w1 16 48 != 0 || ((img.drop 16).take 48).any (· != 0) then none
  else if crc16 lb != fld w1 0 16 || used.any (· > 12) || used.foldl max 0 != fld w0 8 4 || used.length != fld w0 16 9 || !lensOk lens
  then none
  else some (fld w0 0 8, lens)

end Sys2Proof.Machine
end

