-- ==== Sys2Proof/Machine/Losses.lean ====
section
/-! DEFINITION. What the loss of a package does here (R282, R287, R322), with the state of model sets that it ends (R267 to R291), and the
sending of what a unit has asked of other packages, which fences one to which no route is left (R302, R314). -/

namespace Sys2Proof.Machine

/-! ### Table slots -/

/-- A slot changed. -/
def modSlot (m : Fin 32) (n : Nat) (f : Slot → Slot) (c : Chip) : Chip :=
  modBasin m (fun s => { s with slots := s.slots.set (n % 16) (f (s.slots[n % 16]'(Nat.mod_lt _ (by decide)))) (Nat.mod_lt _ (by decide)) }) c

/-! ### The set table and bindings -/

/-- STATE and STAGE of a set entry (R267): 0 EMPTY, 1 LOADING, 2 READY, 3 REPLACING, 4 FAILED, 5 INVALID; and 0 NONE, 1 LOADING,
2 STAGED, 3 FAILED. -/
def setState (c : Chip) (e : Nat) : Nat := getF c (rSet e 0) 0 3
def setStage (c : Chip) (e : Nat) : Nat := getF c (rSet e 0) 3 2

/-- The replaced range and the arming tick of an entry. -/
def firstSeq (c : Chip) (e : Nat) : Nat := getF c (rSet e 2) 0 16
def lastSeq (c : Chip) (e : Nat) : Nat := getF c (rSet e 2) 16 16
def armTick (c : Chip) (e : Nat) : Nat := getReg c (rSet e 3)

/-- The set a job is bound to (R268). -/
def boundSet (c : Chip) (job : Nat) : Option Nat :=
  if job < 256 ∧ bit (getReg c (rMsJob job)) 4 then some (getF c (rMsJob job) 0 4) else none

/-- A command block completes (R276): word 15, and MS_STATUS.LAST_ERR and a report where it is not OK. -/
def finishCmd (addr code cause : Nat) (c : Chip) : Chip :=
  let c := writeHub (addr + 120) (leBytes 8 (1 + b2n (code == 0) * 2 + code * 65536 + cause * 2 ^ 32)) c
  if code = 0 then c
  else report { code := code, sev := sevOf code, src := 0x24, arg := cause } (putF c rMsStatus 16 16 code)

/-- A command block at the reader or the poster, where there is one. -/
def finishCmdAt (addr : Option Nat) (code cause : Nat) (c : Chip) : Chip :=
  match addr with | some a => finishCmd a code cause c | none => c

/-- A load changed. -/
def modLoad (e : Nat) (f : Load → Load) (c : Chip) : Chip :=
  match tabFind c.ms.loads e with
  | some l => { c with ms := { c.ms with loads := tabSet c.ms.loads e (f l) } }
  | none => c

/-- A replacement changed. -/
def modRepl (e : Nat) (f : Repl → Repl) (c : Chip) : Chip :=
  match tabFind c.ms.repls e with
  | some r => { c with ms := { c.ms with repls := tabSet c.ms.repls e (f r) } }
  | none => c

/-! ### The barrier (R284, R285, R295) -/

/-- Is tick `a` before tick `b` in the serial order. -/
def tickBefore (a b : Nat) : Bool := !tickLe b a

/-- Is an item held at the barrier of its set's replacement (R285). -/
def itemHeld (c : Chip) (it : Item) : Bool :=
  match boundSet c it.job.toNat with
  | some e =>
    setState c e == 3 && tickLe (armTick c e) (tickOf c) && tickLe (armTick c e) it.stepTag.toNat &&
    decide (firstSeq c e ≤ it.layerSeq.toNat)
  | none => false

/-- Does the set that the item's job is bound to permit it (R268), and no adapter switch hold it (R295). -/
def setPermits (c : Chip) (it : Item) : Bool :=
  (match boundSet c it.job.toNat with
   | some e => setState c e == 2 || (setState c e == 3 && !itemHeld c it)
   | none => true) &&
  !c.ms.switches.any (fun w => w.job == it.job.toNat && tickLe w.tick (tickOf c) && tickLe w.tick it.stepTag.toNat)

/-- REPL_HOLD takes the time for which items of the package have been held since it was last counted (R285). -/
def countHold (c : Chip) : Chip :=
  match c.ms.heldSince with
  | none => c
  | some t => bumpUnits { c with ms := { c.ms with heldSince := some c.upNs } } (rMsCtr 3) 1000 (c.upNs - t)

/-- Items that have become held lose their run-ahead copies, and REPL_HOLD counts while at least one queued item of the package is held
(R285). -/
def refreshHeld (c : Chip) : Chip :=
  let held := fun (q : QItem) => q.ahead.isSome && itemHeld c q.item
  let c := (List.finRange 32).foldl (fun c b => if c.basins[b].queue.any held then discardAhead b held c else c) c
  let any := (List.finRange 32).any (fun b => c.basins[b].queue.any (fun q => itemHeld c q.item))
  match c.ms.heldSince with
  | none => if any then { c with ms := { c.ms with heldSince := some c.upNs } } else c
  | some t =>
    if any then c
    else
      let c := bumpUnits c (rMsCtr 3) 1000 (c.upNs - t)
      { c with ms := { c.ms with heldSince := none } }

/-! ### The end of a load (R277 step 7, R281, R282) -/

/-- The holds that a load took fall (R281). -/
def releaseLoadHolds (l : Load) (c : Chip) : Chip :=
  l.holds.foldl (fun c h => modSlot h.1 h.2.1 (fun t => { t with holds := t.holds - h.2.2 }) c) c

/-- The destinations of a load. -/
def shardDest (c : Chip) (l : Load) (s : ShardEnt) : Nat := sys c (s.dest.toNat + l.bias)

/-- A load ends on this package with a failure (R281). A reader that is no receiver keeps its entry (log entry 32). -/
def endLoad (e cause : Nat) (c : Chip) : Chip :=
  match tabFind c.ms.loads e with
  | none => c
  | some l =>
    let c := { c with ms := { c.ms with loads := tabDel c.ms.loads e } }
    let c := if l.member then
        let c := if l.stage then putF (putF c (rSet e 0) 3 2 3) (rSet e 0) 12 4 cause else putF (putF c (rSet e 0) 0 3 4) (rSet e 0) 8 4 cause
        let c := releaseLoadHolds l c
        l.man.shards.foldl (fun c s => undefine c (shardDest c l s) s.len.toNat) c
      else c
    if l.mine then finishCmdAt l.block eLoadFail cause (bump c (rMsCtr 5)) else c

/-- The reader ends a load on every package (R281). -/
def failLoad (e cause : Nat) (c : Chip) : Chip :=
  match tabFind c.ms.loads e with
  | none => c
  | some l => endLoad e cause (sendConfirmed l.peers (.loadFail e cause) c)

/-- A package that finds a failure tells the reader (R281); the reader tells all. -/
def loadFails (e cause : Nat) (c : Chip) : Chip :=
  match tabFind c.ms.loads e with
  | none => c
  | some l => if l.mine then failLoad e cause c else sendConfirmed [l.reader.toNat] (.loadFail e cause) c

/-! ### The end of a replacement (R287, R291) -/

/-- RELEASE on this package (R287). -/
def releaseRepl (e : Nat) (c : Chip) : Chip :=
  match tabFind c.ms.repls e with
  | none => c
  | some r =>
    let c := { c with ms := { c.ms with repls := tabDel c.ms.repls e, staged := tabDel c.ms.staged e, current := tabSet c.ms.current e r.man } }
    let c := putF (putF (putF c (rSet e 0) 16 16 (getF c (rSet e 1) 0 16)) (rSet e 0) 3 2 0) (rSet e 0) 0 3 2
    finishCmd r.block 0 0 (refreshHeld c)

/-- A replacement ends without release (R291, R297): READY with the epoch still staged before the first copy has begun, INVALID after. -/
def endRepl (e code : Nat) (c : Chip) : Chip :=
  match tabFind c.ms.repls e with
  | none => c
  | some r =>
    let c := { c with ms := { c.ms with repls := tabDel c.ms.repls e } }
    finishCmd r.block code 0 (refreshHeld (putF c (rSet e 0) 0 3 (if r.begun then 5 else 2)))

/-- The coordinator (R283): the participant of lowest number that is not fenced. -/
def coordinator (c : Chip) (r : Repl) : Option Nat := (List.range 16).find? (fun p => r.peers.contains p && !fenced c p)

/-- The coordinator has DONE from a package; with all of the unfenced participants it multicasts RELEASE (R287). -/
def replDoneAt (e p : Nat) (c : Chip) : Chip :=
  let c := modRepl e (fun r => { r with dones := insertNat p r.dones }) c
  match tabFind c.ms.repls e with
  | none => c
  | some r =>
    if coordinator c r = some (pkg c) && r.peers.all (fun q => fenced c q || r.dones.contains q) then
      releaseRepl e (sendConfirmed r.peers (.replRelease e) c)
    else c

/-- This package reports DONE to the coordinator. -/
def reportReplDone (e : Nat) (c : Chip) : Chip :=
  match tabFind c.ms.repls e with
  | none => c
  | some r =>
    let c := modRepl e (fun r => { r with doneSent := true }) c
    match coordinator c r with
    | none => c
    | some p => if p = pkg c then replDoneAt e p c else sendConfirmed [p] (.replDone e) c

/-! ### The loss of a package (R282, R287) -/

/-- What a fence of package p does to loads and replacements. -/
def msFenced (p : Nat) (c : Chip) : Chip :=
  let c := c.ms.loads.foldl (fun c x =>
    if x.2.mine && x.2.peers.contains p then failLoad x.1 10 c
    else if !x.2.mine && x.2.reader.toNat == p then endLoad x.1 10 c
    else c) c
  c.ms.repls.foldl (fun c x =>
    if !x.2.peers.contains p then c
    else if x.2.doneSent && (List.range p).all (fun q => !x.2.peers.contains q || fenced c q) then reportReplDone x.1 c
    else
      match tabFind c.ms.repls x.1 with
      | some r => if coordinator c r = some (pkg c) && r.dones.contains (pkg c) then replDoneAt x.1 (pkg c) c else c
      | none => c) c

/-! ### Fences (R302, R322) -/

/-- The other members that are the package's partners and can be reached over their own pair. -/
def livePartners (c : Chip) : List Nat := (List.range 16).filter (fun q => hopOk c q)

/-- Confirmed messages no longer count a receiver (R318). -/
def unconfirm (p : Nat) (c : Chip) : Chip :=
  let cs := c.fab.confirms.map (fun x => { x with left := x.left.filter (fun q => q.toNat != p) })
  { c with fab := { c.fab with confirms := cs.filter (fun x => x.left != []) } }

/-- What the package knows of package p. -/
def partnerOf (c : Chip) (p : Nat) : Partner := c.fab.partners[p % 16]'(Nat.mod_lt _ (by decide))

/-- It changed. -/
def modPartner (p : Nat) (f : Partner → Partner) (c : Chip) : Chip :=
  { c with fab := { c.fab with partners := c.fab.partners.set (p % 16) (f (partnerOf c p)) (Nat.mod_lt _ (by decide)) } }

/-- A fence of package p is noted: FENCED, the cause, and the nonce that an UNFENCE compares, which is that of the notice where no link leads to p
(R322, R324). -/
def noteFence (p cause : Nat) (by' : Option (Nat × Nat)) (c : Chip) : Chip :=
  let nonce := match by' with
    | some (_, n) => if (pairTo (pkg c) p).isNone then n else (partnerOf c p).nonce
    | none => (partnerOf c p).nonce
  let c := modPartner p (fun x => { x with fenceNonce := nonce, newNonce := false }) c
  putF (putF c (rPartner p) 0 2 3) (rPartner p) 5 4 cause

/-- The accesses of the management core to mailboxes of a fenced package end (R390, R391). -/
def mailsFenced (p : Nat) (c : Chip) : Chip :=
  let gone := c.fab.mails.filter (fun x => x.2.1.toNat == p)
  gone.foldl (fun c _ => emit (.bus 1 0 eFabFenced) (report { code := eFabFenced, sev := sevOf eFabFenced, src := 0x24, peer := p } c))
    { c with fab := { c.fab with mails := c.fab.mails.filter (fun x => x.2.1.toNat != p) } }

/-- What follows once everything that was under way with p is settled (R322): it counts as no receiver, LOST notices, the report, the
containment of its jobs, and the end of its part in model sets. -/
def afterFence (p cause : Nat) (by' : Option (Nat × Nat)) (c : Chip) : Chip :=
  let c := mailsFenced p (unconfirm p { c with away := c.away.filter (fun x => x.thief.toNat != p) })
  let dsts := livePartners c
  let c := if dsts.all (fun q => some q == by'.map (·.1)) then c
    else sendConfirmed dsts (.lost (BitVec.ofNat 4 p) (partnerOf c p).fenceNonce) c
  let c := setStatus 2 (report { code := ePartnerLost, sev := sevOf ePartnerLost, src := 0x24, peer := p, arg := cause } c)
  let c := ((List.range 256).filter (fun j => (jobPkgs c j).contains p)).foldl (fun c j => contain j ePartnerLost c) c
  msFenced p c

/-- A member that was never reached and has no route is fenced as it is asked for (R302): nothing is under way with it. -/
def fenceUnreached (p : Nat) (c : Chip) : Chip :=
  if p = pkg c ∨ !member c p ∨ getF c (rPartner p) 0 2 = 3 ∨ 16 ≤ p then c else afterFence p 4 none (noteFence p 4 none c)

/-! ### What a unit asks of other packages (R156, R302, R314) -/

/-- Whose answers are kept until the unit has used them. -/
def Requester.keeps : Requester → Bool
  | .walk _ _ _ => true
  | .line _ => true
  | .move _ => true
  | .gate _ _ => true
  | .post _ => true
  | .request => true
  | .unit _ => true
  | _ => false

/-- A request leaves on a link: its tag. -/
def sendAsked (l : Fin 12) (m : Master) (who : Requester) (x : FarReq) (c : Chip) : Nat × Chip :=
  if x.ty = 4 then sendRead l x.addr x.len m who c else if x.ty = 2 then sendWrite l x.addr x.data m who c
  else sendAtomic l x.addr x.data m who c

/-- One request of a unit is sent, unless it was before: the tags that the unit waits for, with the first address whose package cannot be
reached. That package is fenced (R302). A prefetch is not waited for, and is dropped where it cannot go (R156). -/
def flushOne (m : Master) (who : Requester) (r : (List Nat × Option Nat) × Chip) (p : FarReq × Nat) : (List Nat × Option Nat) × Chip :=
  let x := p.1
  let who := if x.quiet then (match who.walker with | some b => .line b | none => .hub) else who
  if pkgOf x.addr = pkg r.2 then r
  else
    match askedFor r.2 who x p.2 with
    | some y => (if y.answer.isSome || x.quiet then r.1 else (r.1.1 ++ [y.tag], r.1.2), r.2)
    | none =>
      match routeLink (pkgOf x.addr) r.2 with
      | none => if x.quiet then r else ((r.1.1, r.1.2.or (some x.addr)), fenceUnreached (pkgOf x.addr) r.2)
      | some l =>
        let q := sendAsked l m who x r.2
        let c := if who.keeps then
            { q.2 with fab := { q.2.fab with asked := q.2.fab.asked ++ [{ who := who, req := x, nth := p.2, tag := q.1 }] } }
          else q.2
        (if x.quiet then r.1 else (r.1.1 ++ [q.1], r.1.2), c)

/-- The writes among some requests, those to addresses that follow one another joined to one transfer. -/
def writeRuns (xs : List FarReq) : List (Nat × List Byte) :=
  xs.foldl (fun (rs : List (Nat × List Byte)) x =>
    if x.ty ≠ 2 then rs
    else
      match rs.getLast? with
      | some (a, bs) => if a + bs.length = x.addr then rs.dropLast ++ [(a, bs ++ x.data)] else rs ++ [(x.addr, x.data)]
      | none => [(x.addr, x.data)]) []

/-- The job that a unit works for, or 0 where it is not known. -/
def jobOf (c : Chip) : Requester → Nat
  | .walk b k _ => ((c.basins[b].chains[k]).map (fun ch => ch.item.job.toNat)).getD 0
  | .move n => ((tabFind c.recs n).map (·.moveJob)).getD 0
  | _ => 0

/-- The payload of the writes that are yet to be sent is coded where LINK_CODE says so (R231). -/
def codeWrites (who : Requester) (c : Chip) : Chip :=
  let xs := ((farNumbered c.fab.far).filter (fun p => (askedFor c who p.1 p.2).isNone && pkgOf p.1.addr != pkg c)).map (·.1)
  (writeRuns xs).foldl (fun c w => match routeLink (pkgOf w.1) c with | some l => codeLink l (jobOf c who) w.1 w.2 c | none => c) c

/-- The requests that a unit has made of other packages are sent: the tags of those it waits for, and the first address whose package cannot
be reached. -/
def flushFar (m : Master) (who : Requester) (c : Chip) : (List Nat × Option Nat) × Chip :=
  let r := (farNumbered c.fab.far).foldl (flushOne m who) (([], none), codeWrites who c)
  (r.1, beginFar .hub r.2)

/-- The hub's own requests are sent, for a requester; a package that cannot be reached gets none. -/
def flushHub (who : Requester) (c : Chip) : List Nat × Chip :=
  let r := flushFar hubMaster who c
  (r.1.1, r.2)

/-- What a unit has asked is forgotten: it has used the answers, or needs none. -/
def forgetFar (who : Requester) (c : Chip) : Chip := { c with fab := { c.fab with asked := c.fab.asked.filter (fun y => y.who != who) } }

/-- The answer to a request that is kept. -/
def noteAnswer (tag code : Nat) (bs : List Byte) (c : Chip) : Chip :=
  { c with fab := { c.fab with asked := c.fab.asked.map (fun y =>
    if y.tag = tag ∧ y.answer.isNone then { y with answer := some (code, bs) } else y) } }

/-- What came of a unit's run: it is done, it waits for other packages, or it stops. -/
inductive Ran (α : Type) where
  | done (a : α)
  | waits
  | stops (e : Stop)
  deriving DecidableEq, Repr

/-- Of what a unit has asked, only the writes still go out once it stops. -/
def keepWrites (c : Chip) : Chip := { c with fab := { c.fab with far := c.fab.far.filter (·.ty == 2) } }

/-- A unit of the hub runs with the answers that have come. While it waits it has done nothing yet but ask. -/
def runHub {α : Type} (m : Master) (who : Requester) (act : Eff α) (c : Chip) : Chip × Ran α :=
  match runEff act (beginFar who c) with
  | (d, .ok a) => (forgetFar who (flushFar m who d).2, .done a)
  | (d, .error e) =>
    if e.code ≠ 0 then (forgetFar who (flushFar m who (keepWrites d)).2, .stops e)
    else
      let r := flushFar m who { c with fab := d.fab }
      match r.1.2 with
      | some a => (forgetFar who r.2, .stops { code := eFabFenced, addr := a })
      | none => (r.2, .waits)

end Sys2Proof.Machine
end

