-- ==== Sys2Proof/Machine/Operands.lean ====
section
/-! DEFINITION. Descriptors and their operands: the eight words and their fields (R40, R48), the operand pairs (R71), tile sizes
and the layout of weights (R31, R478), extents (R43), scale packets (R78, R79), and output scales found or predicted
(R85 to R88). -/

namespace Sys2Proof.Machine

/-- Where a descriptor runs: the basin and context that issue it, the basin whose SRAM its offsets name (R184, R185), whether that
is reached over the terrace crossbar, and its number in its chain. -/
structure Ctx where
  b : Fin 32
  k : Fin 16
  m : Fin 32
  crossbar : Bool := false
  id : Nat := 0
  deriving DecidableEq, Repr

/-- The chain in a context changed. -/
def modChain (b : Fin 32) (k : Fin 16) (f : Chain → Chain) (c : Chip) : Chip :=
  match c.basins[b].chains[k] with
  | none => c
  | some ch => setChain b k (some (f ch)) c

/-- A flight of a chain changed, by its number. -/
def modFlightOf (b : Fin 32) (k : Fin 16) (id : Nat) (f : Flight → Flight) (c : Chip) : Chip :=
  modChain b k (fun ch => { ch with flight := ch.flight.map (fun x => if x.id = id then f x else x) }) c

/-- A descriptor: eight 64-bit words. -/
structure Desc where
  w : List Nat := []
  deriving DecidableEq, Repr

/-- Word `i`. -/
def Desc.word (d : Desc) (i : Nat) : Nat := d.w.getD i 0

/-- The field of `n` bits at bit `lo` of word `i`. -/
def Desc.f (d : Desc) (i lo n : Nat) : Nat := fld (d.word i) lo n

/-- Bit `k` of word `i`. -/
def Desc.b (d : Desc) (i k : Nat) : Bool := bit (d.word i) k

def Desc.opcode (d : Desc) : Nat := d.f 0 0 8
def Desc.gang (d : Desc) : Nat := d.f 0 8 2
def Desc.target (d : Desc) : Nat := d.f 0 10 5
def Desc.overlap (d : Desc) : Bool := d.b 0 15
def Desc.aFmt (d : Desc) : Nat := d.f 0 16 4
def Desc.wFmt (d : Desc) : Nat := d.f 0 20 4
def Desc.outFmt (d : Desc) : Nat := d.f 0 24 4
def Desc.acc48 (d : Desc) : Bool := d.b 0 28
def Desc.accClear (d : Desc) : Bool := d.b 0 29
def Desc.last (d : Desc) : Bool := d.b 0 31
def Desc.job (d : Desc) : Nat := d.f 0 32 16
def Desc.seq (d : Desc) : Nat := d.f 0 48 16
def Desc.waitCtr (d : Desc) : Nat := d.f 6 32 6
def Desc.waitEn (d : Desc) : Bool := d.b 6 38
def Desc.sigCtr (d : Desc) : Nat := d.f 6 40 6
def Desc.sigEn (d : Desc) : Bool := d.b 6 46
def Desc.waitVal (d : Desc) : Nat := d.f 6 48 16

/-- The first failing check of a list, each with its error (R43). -/
def firstBad : List (Bool × Nat) → Option Nat
  | [] => none
  | (p, e) :: r => if p then some e else firstBad r

/-- The end of a basin's SRAM (R43): no byte beyond offset 0x5F_FFFF. -/
def sramEnd : Nat := 0x600000

/-- Does a range pass the end of SRAM. -/
def past (base n : Nat) : Bool := decide (base + n > sramEnd)

/-- Is an offset off the 64-byte grid (R43, order 6). -/
def off64 (x : Nat) : Bool := x % 64 != 0

/-- The reserved bits of each word of a class, as masks; a set bit is DESC_RESERVED, and so is a JOB above 255 (R9, R477). -/
def reservedBad (d : Desc) (masks : List Nat) : Bool :=
  (List.range 8).any (fun i => Nat.land (d.word i) (masks.getD i 0) != 0) || decide (256 ≤ d.job)

/-- The reserved bits that word 0 and the wait and signal half of word 6 have in every class (R40). -/
def word0Mask : Nat := ones 30 1
def word6Mask : Nat := ones 39 1 + ones 47 1

/-- Every bit of a word. -/
def allBits : Nat := 2 ^ 64 - 1

/-! ### Operand pairs and tiles -/

/-- An operand pair of the jets (R71). -/
def isPair (a w : Fmt) : Bool :=
  match a, w with
  | .int8, .int4 => true
  | .int8, .int8 => true
  | .int8, .fp8 => true
  | .int8, .bf16 => true
  | .fp8, .int8 => true
  | .fp8, .fp8 => true
  | .fp8, .bf16 => true
  | .bf16, .int8 => true
  | .bf16, .fp8 => true
  | .bf16, .bf16 => true
  | _, _ => false

/-- Is the pair of the integer class (R71). -/
def intPair (a w : Fmt) : Bool := a.isInt && w.isInt

/-- The weight tile of a pair in a mode (R31, R478): depth and width. -/
def tileOf (w : Fmt) (gang : Nat) : Nat × Nat :=
  let s := 2 ^ gang
  ((if w = .int4 then 64 else 32) * s, 32 * s)

/-- Accumulator depth in rows (R32). -/
def accDepth (gang : Nat) (acc48 : Bool) : Nat := (if acc48 then 128 else 256) * 2 ^ gang

/-- The extent in bytes of a raw weight operand (R478). -/
def weightBytes (w : Fmt) (gang k n : Nat) : Nat :=
  let (kt, nt) := tileOf w gang
  w.bytes (ceilDiv k kt * ceilDiv n nt * kt * nt)

/-- The extent in bytes of rows with a pitch (R43). -/
def rowsBytes (rows pitch rowBytes : Nat) : Nat := (rows - 1) * pitch * 64 + rowBytes

/-- The packets of a scale stream (R78): `rows` rows of `blocks` blocks. -/
def packets (rows blocks : Nat) : Nat := rows * ceilDiv blocks 8

/-- The extent of a scale stream. -/
def scaleBytes (rows blocks : Nat) : Nat := 24 * packets rows blocks

/-- The offset of the prediction array from the scale base (R87). -/
def predOff (rows blocks : Nat) : Nat := roundUp (scaleBytes rows blocks) 64

/-- The extent of output scales, with the prediction array where it is enabled (R87). -/
def outScaleBytes (rows blocks : Nat) (pred : Bool) : Nat :=
  if pred then predOff rows blocks + 4 * rows * blocks else scaleBytes rows blocks

/-- Does OUT_SC_EN have an effect with an output format (R86). -/
def scalesOut (f : Fmt) : Bool := f == .int8 || f == .fp8

/-! ### Scale packets -/

/-- Where a packet lies in its stream: its number, and the entries it must hold (R79). -/
def packetNo (blocks r j : Nat) : Nat := r * ceilDiv blocks 8 + j

/-- The entries of packet `j` of row `r` in a stream of rows of `blocks` blocks at a system address, checked in the order of R79. -/
def scalePacket (base blocks r j : Nat) : Eff (List Sc16) := do
  let q := packetNo blocks r j
  let ws ← readWords 0x36 (base + 24 * q) 3
  let w2 := ws.getD 2 0
  let valid := min 8 (blocks - 8 * j)
  let entry := fun i => fld (ws.getD (i / 4) 0) (16 * (i % 4)) 16
  stopIf (fld w2 0 4 != q % 16) eScaleSkew 0x36 (base + 24 * q)
  stopIf (fld w2 8 4 != valid) eScaleSkew 0x36 (base + 24 * q)
  stopIf (fld w2 4 4 != 0 || fld w2 12 52 != 0 || (span valid (8 - valid)).any (fun i => entry i != 0)) eDescReserved 0x36
    (base + 24 * q)
  stopIf ((List.range valid).any (fun i => sc16Bad (sc16Of (entry i)))) eScaleRange 0x36 (base + 24 * q)
  pure ((List.range valid).map (fun i => sc16Of (entry i)))

/-- The scales of blocks `b0` to `b1` - 1 of row `r`. -/
def rowScales (base blocks r b0 b1 : Nat) : Eff (List Sc16) := do
  let js := span (b0 / 8) (ceilDiv b1 8 - b0 / 8)
  let ps ← js.mapM (fun j => scalePacket base blocks r j)
  pure (((ps.flatten).drop (b0 - 8 * (b0 / 8))).take (b1 - b0))

/-- All scales of row `r`, or 1.0 in every block where no stream is enabled. -/
def scalesOf (en : Bool) (base blocks r b0 b1 : Nat) : Eff (List Sc16) :=
  if en then rowScales base blocks r b0 b1 else pure (List.replicate (b1 - b0) sc16One)

/-- An entry of an output scale stream is written; the first of a packet writes the whole packet around it (R78). -/
def putScale (base blocks r blk : Nat) (s : Sc16) : Eff Unit := do
  let q := packetNo blocks r (blk / 8)
  let a := base + 24 * q
  let valid := min 8 (blocks - 8 * (blk / 8))
  if blk % 8 = 0 then writeWords a [0, 0, q % 16 + valid * 256] else pure ()
  writeNat (a + 2 * (blk % 8)) 2 (sc16Code s)

/-! ### Output scales found and predicted (R85 to R88) -/

/-- The scale unit's settings (R89): EMA_SHIFT, and H as eighths. -/
def headroom (c : Chip) (b : Fin 32) : Nat × Nat :=
  (getF c (rSuCfg b.val) 0 3, match getF c (rSuCfg b.val) 4 2 with | 0 => 8 | 1 => 9 | 2 => 10 | _ => 12)

/-- Is a block maximum X above s x QMAX x 2^k. -/
def exceeds (x : Val) (s : Sc16) (f : Fmt) (k : Int) : Bool :=
  (Val.fin false (s.mant * qmax f) (s.exp - 7 + k)).lt x

/-- The scale of one block, and the new entry of its prediction array where it has one (R85, R88): whether it was refitted. -/
def blockScale (f : Fmt) (ema hr : Nat) (pred : Option Nat) (xs : List Val) : Sc16 × Option Nat × Bool :=
  let x := blockMax xs
  match pred with
  | none => (sc16Found f x, none, false)
  | some a =>
    match valOf .fp32 a with
    | .fin false m e =>
      if m = 0 then (sc16Found f x, some (f32Code x), false)
      else
        let s := sc16Up (m * hr) (8 * qmax f) e
        if exceeds x s f 0 || (Val.fin false 0 0 == x) || (x.shl 8).lt (.fin false (s.mant * qmax f) (s.exp - 7)) then
          (sc16Found f x, some (f32Code x), true)
        else
          (s, some (f32Code (((Val.fin false m e).neg.add x |>.shl (-(ema : Int))).add (.fin false m e))), false)
    | _ => (sc16Found f x, some (f32Code x), false)

/-- SATURATE and NAN_CONVERT of a list of conversions counted in a basin (R70). -/
def countConv (b : Fin 32) (cs : List Conv) (c : Chip) : Chip :=
  bump (bump c (rBasinCtr b.val 6) (cs.filter (·.sat)).length) (rBasinCtr b.val 7) (cs.filter (·.nanc)).length

/-- One block of source values converted with its own scale, found or predicted, which is written to its stream: the codes
(R85 to R88). `base` is the scale base, `rows` and `blocks` the shape of the tensor. -/
def convBlock (b : Fin 32) (f : Fmt) (base : Nat) (pred : Bool) (rows blocks r blk : Nat) (xs : List Val) : Eff (List Nat) := do
  let c ← get
  let (ema, hr) := headroom c b
  let pa := base + predOff rows blocks + 4 * (r * blocks + blk)
  let old ← if pred then (do let v ← readNat 0x36 pa 4; pure (some v)) else pure none
  let (s, new, refit) := blockScale f ema hr old xs
  let cs := xs.map (quant f s)
  putScale base blocks r blk s
  match new with
  | some v => writeNat pa 4 v
  | none => pure ()
  change (fun c => countConv b cs (if refit then bump c (rBasinCtr b.val 5) else c))
  pure (cs.map (·.code))

/-- A row segment that begins at block `blk0`, with output scales. -/
def convScaled (b : Fin 32) (f : Fmt) (base : Nat) (pred : Bool) (rows blocks r blk0 : Nat) (xs : List Val) : Eff (List Nat) := do
  let bs := chunks 32 xs.length xs
  let out ← (bs.zip (List.range bs.length)).mapM (fun p => convBlock b f base pred rows blocks r (blk0 + p.2) p.1)
  pure out.flatten

/-- A list of values converted without output scales. -/
def convPlain (b : Fin 32) (f : Fmt) (xs : List Val) : Eff (List Nat) := do
  let cs := xs.map (conv f)
  change (countConv b cs)
  pure (cs.map (·.code))

/-! ### The rescale (R76) -/

/-- A rescale: multiplier M (signed Q31) and shift. -/
structure Rescale where
  mult : Int
  shift : Nat
  deriving DecidableEq, Repr

/-- The rescale of word 4. -/
def Desc.rescale (d : Desc) : Rescale := { mult := signed 32 (d.f 4 0 32), shift := d.f 4 32 6 }

/-- round(a x M / 2^(31 + RS_SHIFT)) before saturation, with the extra shift of R83 for accumulators in scaled form. -/
def rescaleInt (rs : Rescale) (eref : Option Int) (a : Int) : Int :=
  match eref with
  | none => shiftRound (a * rs.mult) (-(31 + (rs.shift : Int)))
  | some e => shiftRound (a * rs.mult) (-(45 + (rs.shift : Int) - e))

/-- The per-column rescales of a table (R76): a nonzero reserved bit stops the descriptor. -/
def rescaleTable (unit base n : Nat) : Eff (List Rescale) := do
  let ws ← readWords unit base n
  stopIf (ws.any (fun w => fld w 38 26 != 0)) eDescReserved unit base
  pure (ws.map (fun w => { mult := signed 32 (fld w 0 32), shift := fld w 32 6 }))

/-- The fault that the residue check of a row or element of a basin meets (R57, R58), if one is injected; `at_` tests its block. -/
def residueAt (c : Chip) (b : Fin 32) (units : List Nat) (row : Nat) (at_ : Nat → Bool) : Option Residue :=
  c.residue.find? (fun x => x.b == b && units.contains x.unit && x.row == row && at_ x.block)

/-- A residue mismatch counts and stops the descriptor (R58). A fault shows once. -/
def residueStop (b : Fin 32) (x : Residue) : Eff Unit := do
  change (fun c => bump { c with residue := c.residue.erase x } (rBasinCtr b.val 2))
  stopWith eResidue x.unit

/-- The residue check of a row or element at its drain, before it is written (R57, R58). -/
def residueCheck (b : Fin 32) (units : List Nat) (row : Nat) : Eff Unit := do
  let c ← get
  match residueAt c b units row (fun _ => true) with
  | some x => residueStop b x
  | none => pure ()

/-- The checks of the blocks `lo` to `hi` - 1 of a row as they are multiplied, in some units: of a float pair in each cycle (R57), and of a
scaled product on each block sum before it is scaled and on its scaling in the scale unit, 0x36 (R84). -/
def residueBlocks (b : Fin 32) (units : List Nat) (row lo hi : Nat) : Eff Unit := do
  let c ← get
  match residueAt c b units row (fun k => decide (lo ≤ k ∧ k < hi)) with
  | some x => residueStop b x
  | none => pure ()

end Sys2Proof.Machine
end

