-- ==== Sys2Proof/Machine/Place.lean ====
section
/-! DEFINITION. Memory tiers and placement (R235 to R261): places and whether they can be reached, dirty granules, residency
records and their moves, accounts and charges, and the statistics of holds. -/

namespace Sys2Proof.Machine

/-! ### Places -/

/-- A range that a device unit is to reach (R237, R238, R322): a fenced package, a hub range and a place without memory each stop the unit. -/
def checkPlace (unit a n : Nat) : Eff Unit := do
  let c ← get
  let p := pkgOf a
  stopIf (fenced c p) eFabFenced unit a
  stopIf (inHub a n) (if p = pkg c then eHubDenied else eFabDenied) unit a
  stopIf (!backed a n) eUnbacked unit a

/-- The bytes of a range anywhere in the system (R237, R238). -/
def readAny (unit a n : Nat) : Eff (List Byte) := do
  checkPlace unit a n
  readMem unit a n

/-- Bytes written anywhere in the system. -/
def writeAny (unit a : Nat) (bs : List Byte) : Eff Unit := do
  checkPlace unit a bs.length
  writeOut a bs

/-- An atomic addition to a 32-bit word at its home (R54, R177). -/
def atomicAdd32 (unit a v : Nat) : Eff Unit := do
  checkPlace unit a 4
  let c ← get
  rmw unit a (leBytes 4 (leNat (memReadN c.mem a 4) + v))

/-- The capacity unit of a place of this package (R254): 0 to 31 basin SRAM, 32 to 35 cisterns, 36 to 39 DRAM stacks. -/
def unitOf (loc : Nat) : Option Nat :=
  match regionOf loc with
  | .sram b => some b.val
  | .cistern d => some (32 + d.val)
  | .dram d => some (36 + d.val)
  | _ => none

/-- The tier of a place as this package sees it (R235). -/
def tierOf (c : Chip) (a : Nat) (flash : Bool) : Nat :=
  if flash then 5 else if pkgOf a ≠ pkg c then 4 else
    match regionOf (locOf a) with | .sram _ => 1 | .cistern _ => 2 | _ => 3

/-- The capacity of a unit in bytes (R254). -/
def capacity (c : Chip) (u : Nat) : Nat :=
  if u < 32 then 0x600000 else if u < 36 then 0x3000000 else if u < 40 then 0x600000000 else getF c rFlStatus 0 14 * 2 ^ 30

/-- The tier whose quota bounds a unit (R258). -/
def quotaTier (u : Nat) : Nat := if u < 32 then 0 else if u < 36 then 1 else if u < 40 then 2 else 3

/-- All that jobs have reserved, or been charged, on a unit. -/
def unitSum (t : Tab Nat) (u : Nat) : Nat := ((t.filter (fun p => p.1 % 64 == u)).map (·.2)).sum

/-- The charges on all units of a tier (R258). -/
def tierSum (t : Tab Nat) (k : Nat) : Nat := ((t.filter (fun p => quotaTier (p.1 % 64) == k)).map (·.2)).sum

/-- The key of a job's amount on a unit. -/
def acctKey (job u : Nat) : Nat := job * 64 + u

/-- Does a charge fit (R256, R258): in SERVICE mode the job's reserved amount, in QUOTA mode the tier's quota. -/
def chargeFits (c : Chip) (job u bytes : Nat) : Bool :=
  if bit (getReg c rPlCfg) 0 then
    decide (tierSum c.charged (quotaTier u) + bytes ≤ getReg c (rQuota (quotaTier u)) * 65536)
  else decide (tabGet 0 c.charged (acctKey job u) + bytes ≤ tabGet 0 c.reserved (acctKey job u))

/-- A charge made, or returned. -/
def addCharge (job u : Nat) (bytes : Int) (c : Chip) : Chip :=
  { c with charged := tabSet c.charged (acctKey job u) (((tabGet 0 c.charged (acctKey job u) : Nat) : Int) + bytes).toNat }

/-- The units that a record charges (R256): that of its upper place, and that of its lower place if it lies in the package. -/
def chargedUnits (c : Chip) (r : Rec) : List Nat :=
  (unitOf (locOf r.up)).toList ++
  (if r.downFlash then (if pkgOf r.down = pkg c then [40] else []) else
    if pkgOf r.down = pkg c then (unitOf (locOf r.down)).toList else [])

/-! ### Dirty granules (R244, R245) -/

/-- The dirty bits of every granule that lies wholly inside a range are cleared. -/
def clearDirty (a n : Nat) (c : Chip) : Chip :=
  { c with dirty := c.dirty.filter (fun g => !decide (a ≤ g * 65536 ∧ g * 65536 + 65536 ≤ a + n)) }

/-- The parts of a range that a write-back copies (R245): those in dirty granules, or the whole range. -/
def wbParts (c : Chip) (r : Rec) : List (Nat × Nat) :=
  let a := r.up
  let n := r.len64 * 64
  if r.wbAll then [(a, n)]
  else (c.dirty.filter (fun g => decide (g * 65536 < a + n ∧ a < g * 65536 + 65536))).map (fun g =>
    let lo := max a (g * 65536)
    (lo, min (a + n) (g * 65536 + 65536) - lo))

/-! ### Holds (R260) -/

/-- The bin of a hold's length in ns. -/
def holdBin (ns : Nat) : Nat :=
  if ns < 1000 then 0 else if ns < 10000 then 1 else if ns < 100000 then 2 else if ns < 1000000 then 3
  else if ns < 10000000 then 4 else 5

/-- The statistics take a hold that has ended (R260, R437). -/
def endHold (h : Hold) (c : Chip) : Chip :=
  let ns := c.upNs - h.since
  let us := ns / 1000
  let bin := holdBin ns
  let c := bump c (rHist h.cause bin)
  let c := bumpUnits c (rStallTime h.cause) 1000 ns
  let c := if getF c rStallMax 0 28 < us then putReg c rStallMax (min us (2 ^ 28 - 1) + h.cause * 2 ^ 28) else c
  let iv := c.recorder.iv
  let k := 6 * h.cause + bin
  let iv := { iv with hist := tabSet iv.hist k (min 255 (tabGet 0 iv.hist k + 1)) }
  let iv := if iv.longest < us then { iv with longest := min us (2 ^ 28 - 1), longCause := h.cause } else iv
  { c with recorder := { c.recorder with iv := iv } }

/-- A hold begins in a basin for a chain or a queued item named by the offset of its chain. -/
def beginHold (b : Fin 32) (job chain cause : Nat) (c : Chip) : Chip :=
  modBasin b (fun s => { s with holds := s.holds ++ [{ job := job, chain := chain, since := c.upNs, cause := cause,
                                                       limit := getF c rPlCfg 8 8 }] }) c

/-- The holds of a basin that satisfy a test end. -/
def endHolds (b : Fin 32) (p : Hold → Bool) (c : Chip) : Chip :=
  let hs := c.basins[b].holds.filter p
  hs.foldl (fun c h => endHold h c) (modBasin b (fun s => { s with holds := s.holds.filter (fun h => !p h) }) c)

/-- The cause of a wait for a record (R260): its lower place is flash, another package, or a memory of this package. -/
def causeOf (c : Chip) (r : Rec) : Nat := if r.downFlash then 1 else if pkgOf r.down ≠ pkg c then 2 else 0

/-! ### Blocks -/

/-- Word 7 of a request block is written, wherever it lies, and nothing else (R250). -/
def finishBlock (addr code unit : Nat) (c : Chip) : Chip :=
  writeHub (addr + 56) (leBytes 8 (1 + b2n (code == 0) * 2 + code * 65536 + unit * 2 ^ 32)) c

/-- A request block completes with an error: word 7 and PL_STATUS.LAST_ERR (R250). -/
def failBlock (addr code unit : Nat) (c : Chip) : Chip := putF (finishBlock addr code unit c) rPlStatus 16 16 code

/-- A request block completes: an error makes a report at the code's own severity (R422). -/
def endRequest (addr job code unit : Nat) (c : Chip) : Chip :=
  if code = 0 then finishBlock addr code unit c
  else report { code := code, sev := sevOf code, job := some job, src := 0x24 } (failBlock addr code unit c)

/-! ### Records (R246 to R253) -/

/-- Is a record VALID and RESIDENT. -/
def isResident (c : Chip) (n : Nat) : Bool := ((tabFind c.recs n).map (fun r => r.state == .resident)).getD false

/-- The upper place and length of the record of an object, by its upper address (R248). -/
def recAt (c : Chip) (up : Nat) : Option Nat := (c.recs.find? (fun p => p.2.up == up)).map (·.1)

/-- The bytes of a range of this package's flash (R262). -/
def flashBytes (c : Chip) (a n : Nat) : List Byte := memReadN c.flash.bytes a n

/-- The sectors of a range of flash are read: each counts against the block that it stands in; one never written is not read (R262, R263). -/
def countReads (a n : Nat) (c : Chip) : Chip :=
  if pkgOf a ≠ pkg c then c
  else
    let reads := (c.flash.place.filter (fun p => decide (p.1 * 4096 < a + n ∧ a < p.1 * 4096 + 4096))).foldl (fun t p =>
      tabSet t p.2 (tabGet 0 t p.2 + 1)) c.flash.reads
    { c with flash := { c.flash with reads := reads } }

/-- Does a range of flash meet a sector that fails every read level (R263). -/
def flashBad (c : Chip) (a n : Nat) : Bool := c.flash.unreadable.any (fun s => decide (s * 4096 < a + n ∧ a < s * 4096 + 4096))

/-! ### The places of the copy engines and movers (R243) -/

/-- A move joins the copy engine of the basin, or the mover of the base die, of its upper place. -/
def joinMove (n up : Nat) (c : Chip) : Chip :=
  match regionOf (locOf up) with
  | .sram b => modBasin b (fun s => { s with engine := s.engine ++ [.move n] }) c
  | .cistern d => { c with movers := c.movers.set d.val (c.movers[d] ++ [n]) d.isLt }
  | .dram d => { c with movers := c.movers.set d.val (c.movers[d] ++ [n]) d.isLt }
  | _ => c

/-- A move leaves them. -/
def leaveMove (n up : Nat) (c : Chip) : Chip :=
  match regionOf (locOf up) with
  | .sram b => modBasin b (fun s => { s with engine := s.engine.filter (· != .move n) }) c
  | .cistern d => { c with movers := c.movers.set d.val (c.movers[d].filter (· != n)) d.isLt }
  | .dram d => { c with movers := c.movers.set d.val (c.movers[d].filter (· != n)) d.isLt }
  | _ => c

/-- Does a move hold one of the four places; one that moves nothing needs none. -/
def movePlaced (n up : Nat) (c : Chip) : Bool :=
  match regionOf (locOf up) with
  | .sram b => !(c.basins[b].engine.drop 4).contains (.move n)
  | .cistern d => !(c.movers[d].drop 4).contains n
  | .dram d => !(c.movers[d].drop 4).contains n
  | _ => true

/-! ### Moves of records (R252) -/

/-- The data of a lower place in another package is asked of it (R243, R314). -/
def askLower (n : Nat) (r : Rec) (c : Chip) : Chip :=
  if r.downFlash || pkgOf r.down == pkg c then c else (flushHub (.move n) (askRead r.down (r.len64 * 64) (beginFar (.move n) (forgetFar (.move n) c)))).2

/-- Does a move still wait for another package. -/
def moveFar (n : Nat) (c : Chip) : Bool := c.fab.txns.any (fun t => t.who == .move n)

/-- A move-up starts (R252). -/
def startUp (n job : Nat) (c : Chip) : Chip :=
  match tabFind c.recs n with
  | none => c
  | some r => bump (askLower n r (joinMove n r.up (modRec n (fun r => { r with state := .movingUp, moveJob := job }) c))) (rPlCtr 0)

/-- A write-back is done (R252): dirty bits clear, the record is ABSENT, and a move-up that waited starts afresh. -/
def downDone (n : Nat) (c : Chip) : Chip :=
  match tabFind c.recs n with
  | none => c
  | some r =>
    let c := leaveMove n r.up (clearDirty r.up (r.len64 * 64) c)
    let c := modRec n (fun r => { r with evictPend := false, forcePend := false, upPend := false, state := .absent }) c
    if r.upPend then startUp n r.upJob (bump c (rPlCtr 3)) else c

/-- A move has stopped (R252): it is left in its state with MOVE_FAILED and no pending flag, and the error is raised against the job whose
request started it. -/
def markFailed (n : Nat) (e : Stop) (c : Chip) : Chip :=
  match tabFind c.recs n with
  | none => c
  | some r =>
    let c := { c with flash := { c.flash with writes := c.flash.writes.filter (fun w => w.1 != .move n) } }
    let c := modRec n (fun r => { r with moveFailed := true, evictPend := false, forcePend := false, upPend := false }) (leaveMove n r.up c)
    hubError r.moveJob e c

/-- The bytes that a write-back programs into flash or sends to another package, checked before any is used (R239). -/
def flashParts (n : Nat) (r : Rec) (parts : List (Nat × Nat)) : Eff (List (FlashBy × Nat × List Byte)) := do
  let c ← get
  stopIf (fenced c (pkgOf r.down)) eFabFenced 0 r.down
  parts.mapM (fun p => do
    let bs ← readMem 0x38 p.1 p.2
    pure (.move n, r.down + (p.1 - r.up), bs))

/-- A write-back to another package sends its bytes in WRITE flits (R314). -/
def farParts (n : Nat) (r : Rec) (parts : List (Nat × Nat)) : Eff Unit := do
  let ws ← flashParts n r parts
  change (fun c => (flushHub (.move n) (ws.foldl (fun c w => askWrite w.2.1 w.2.2 c) (beginFar (.move n) (forgetFar (.move n) c)))).2)

/-- A write-back starts (R245, R252); with nothing to copy it is done at once. To flash it is a program under way (R262). Nobody waits on it
yet, so that an error which stops it here has no one else to tell. -/
def startDown (n job : Nat) (c : Chip) : Chip :=
  match tabFind c.recs n with
  | none => c
  | some r =>
    let c := bump (modRec n (fun r => { r with state := .movingDown, moveJob := job }) c) (rPlCtr 1)
    let parts := wbParts c r
    if parts = [] then downDone n c
    else if r.downFlash then
      match runEff (flashParts n r parts) (joinMove n r.up c) with
      | (c, .ok ws) => { c with flash := { c.flash with writes := c.flash.writes ++ ws } }
      | (c, .error e) => markFailed n e c
    else if pkgOf r.down ≠ pkg c then
      match runEff (farParts n r parts) (joinMove n r.up c) with
      | (c, .ok _) => c
      | (c, .error e) => markFailed n e c
    else joinMove n r.up c

/-- A pending eviction of a RESIDENT record is carried out once nothing holds it back (R252). -/
def settle (n : Nat) (c : Chip) : Chip :=
  match tabFind c.recs n with
  | none => c
  | some r =>
    if r.state = .resident ∧ r.busy = 0 ∧ (r.forcePend ∨ (r.evictPend ∧ r.pins = 0)) then
      startDown n (if r.forcePend then r.forceJob else r.evictJob) c
    else c

/-- BUSY of a record grows or falls (R248, R252). -/
def addBusy (n : Nat) (up : Bool) (c : Chip) : Chip :=
  settle n (modRec n (fun r => { r with busy := if up then r.busy + 1 else r.busy - 1 }) c)

/-- PINS of a record falls, as a ticket or an UNPIN releases it (R111, R251). -/
def dropPin (n : Nat) (c : Chip) : Chip := settle n (modRec n (fun r => { r with pins := r.pins - 1 }) c)

/-- UP (R252, R253): the code of a refusal, or 0; the waiter is answered when the record is RESIDENT. -/
def acceptUp (n job : Nat) (pin : Bool) (w : Option Waiter) (c : Chip) : Nat × Chip :=
  match tabFind c.recs n with
  | none => (ePlRec, c)
  | some r =>
    if r.moveFailed then (ePlState, c)
    else if pin && decide (65535 ≤ r.pins) then (ePlPin, c)
    else
      let c := if pin then modRec n (fun r => { r with pins := r.pins + 1 }) c else c
      let wait := fun (c : Chip) => modRec n (fun r => { r with waiters := r.waiters ++ w.toList }) c
      match r.state with
      | .resident => (0, match w with | some (.block a) => endRequest a job 0 0 c | _ => c)
      | .absent => (0, if r.claims > 0 then wait c else wait (startUp n job c))
      | .movingUp => (0, wait c)
      | .movingDown => (0, wait (modRec n (fun r => { r with upPend := true, upJob := if r.upPend then r.upJob else job }) c))

/-- An ordinary eviction waits; the request that set EVICT_PEND is the one that its write-back answers to. -/
def pendEvict (job : Nat) (r : Rec) : Rec := { r with evictPend := true, evictJob := if r.evictPend then r.evictJob else job }

/-- A forced eviction waits. -/
def pendForce (job : Nat) (r : Rec) : Rec := { r with forcePend := true, forceJob := if r.forcePend then r.forceJob else job }

/-- EVICT (R252). -/
def acceptEvict (n job : Nat) (c : Chip) : Nat × Chip :=
  match tabFind c.recs n with
  | none => (ePlRec, c)
  | some r =>
    if r.moveFailed then (ePlState, c)
    else
      match r.state with
      | .absent => (0, c)
      | .movingUp => (0, bump (modRec n (pendEvict job) c) (rPlCtr 2))
      | .resident =>
        if r.pins = 0 ∧ r.busy = 0 then (0, startDown n job c)
        else (0, bump (modRec n (pendEvict job) c) (rPlCtr 2))
      | .movingDown => (0, c)

/-- FORCE_EVICT (R113, R252): with ST_CFG.FORCE_EN at 0 it is an ordinary eviction where a pin stands in its way. -/
def acceptForce (n job : Nat) (c : Chip) : Nat × Chip :=
  match tabFind c.recs n with
  | none => (ePlRec, c)
  | some r =>
    let en := bit (getReg c rStCfg) 5
    if r.moveFailed then (ePlState, c)
    else
      match r.state with
      | .absent => (0, c)
      | .movingUp =>
        (0, bump (modRec n (if en then pendForce job else pendEvict job) c) (rPlCtr 2))
      | .resident =>
        if !en && decide (r.pins > 0) then acceptEvict n job c
        else if r.busy = 0 then (0, startDown n job c)
        else (0, bump (modRec n (pendForce job) c) (rPlCtr 2))
      | .movingDown => (0, c)

/-- A read of this package's flash: it counts against the blocks read, and a sector that no level reads stops it (R263). -/
def readFlash (a n : Nat) : Eff (List Byte) := do
  change (countReads a n)
  let c ← get
  stopIf (flashBad c a n) eFlashUe 0 a
  pure (flashBytes c a n)

/-- What the flash of another package holds is not of this package, and no transaction of R314 reads it: free values (log entry 169). -/
def farFlash (n : Nat) : Eff (List Byte) := do
  let c ← get
  set { c with free := c.free + 1 }
  pure ((List.range n).map (Config.freeByte c.free))

/-- The bytes of a record's lower place, or what stops a move that reads them. -/
def lowerBytes (r : Rec) : Eff (List Byte) := do
  let c ← get
  let n := r.len64 * 64
  if r.downFlash then do
    stopIf (fenced c (pkgOf r.down)) eFabFenced 0 r.down
    if pkgOf r.down = pkg c then readFlash r.down n else farFlash n
  else do
    stopIf (fenced c (pkgOf r.down)) eFabFenced 0 r.down
    readMem 0x38 r.down n

/-- The data of a move-up reaches the upper place. -/
def moveData (r : Rec) : Eff Unit := do
  let bs ← lowerBytes r
  writeMem r.up bs
  change (clearDirty r.up (r.len64 * 64))

/-- The data of a write-back reaches a lower place in memory. -/
def backData (r : Rec) (parts : List (Nat × Nat)) : Eff Unit := do
  let c ← get
  stopIf (fenced c (pkgOf r.down)) eFabFenced 0 r.down
  parts.forM (fun p => do
    let bs ← readMem 0x38 p.1 p.2
    writeMem (r.down + (p.1 - r.up)) bs)

end Sys2Proof.Machine
end

