-- ==== Sys2Proof/Machine/Kv.lean ====
section
/-! DEFINITION. Pages of the key-value cache (R144 to R171): frames, roots, bodies and entries, pins and walks, the
look-aside buffer, appends with copy-on-write and tentative slots, and the operations of KV_PAGE. -/

namespace Sys2Proof.Machine

/-- The walker as a unit (FAIL_UNIT). -/
def kvUnit : Nat := 0x37

/-! ### Frames (R144, R145) -/

/-- Bytes of an element of a frame's format code. -/
def frameEl (fmt : Nat) : Nat := if fmt = 3 then 2 else 1

/-- Scale packets of a slot. -/
def framePk (rank : Nat) : Nat := ceilDiv rank 256

/-- The size of a frame. -/
def frameSize (fmt rank : Nat) : Nat := if fmt = 3 then 32 * rank else 16 * rank + 384 * framePk rank

/-- The frame address of an entry (R150). -/
def frameOf (e : Nat) : Nat := fld e 10 38 * 1024

/-! ### Entries (R150, R151) -/

def entV (e : Nat) : Bool := bit e 0
def entTent (e : Nat) : Bool := bit e 1
def entCow (e : Nat) : Bool := bit e 2
def entFmt (e : Nat) : Nat := fld e 3 4
def entShare (e : Nat) : Nat := fld e 48 16

/-- What a flag tail shares with its body entry: PPN, FMT, COPY_ON_WRITE and SHARE (R151). -/
def entSame (a b : Nat) : Bool :=
  frameOf a == frameOf b && entFmt a == entFmt b && entCow a == entCow b && entShare a == entShare b

/-- An effective entry that a walk cannot use (R153). -/
def entryBad (rank : Nat) (inBody : Bool) (e : Nat) : Bool :=
  !entV e || fld e 7 3 != 0 || !([1, 2, 3].contains (entFmt e)) || (inBody && entTent e) || (!entCow e && entShare e != 0) ||
  !backedOne (frameOf e) (frameSize (entFmt e) rank)

/-! ### The root (R146 to R148, R152) -/

/-- Tick t1 precedes tick t2 in serial order. -/
def precedes (a b : Nat) : Bool :=
  let d := (b + 2 ^ 32 - a % 2 ^ 32) % 2 ^ 32
  decide (1 ≤ d ∧ d < 2 ^ 31)

/-- A version slot: GEN, LIVE, FROM_TICK, BODY, PINS. -/
structure Version where
  slot : Nat
  gen : Nat
  live : Bool
  tick : Nat
  body : Nat
  pins : Nat
  deriving DecidableEq, Repr

/-- A layer record: LEN, ACC_LEN, and the valid tail entries, each with its number, its page index and its entry. -/
structure LayerRec where
  len : Nat
  acc : Nat
  tails : List (Nat × Nat × Nat)
  deriving DecidableEq, Repr

/-- A root as the operation at its home reads it: the four header words, the version slots, and whether a reserved field of
the header or of a slot is set. -/
structure Root where
  addr : Nat
  layers : Nat
  job : Nat
  share : Nat
  free : Nat
  freeCnt : Nat
  w3 : Nat
  vs : List Version
  bad : Bool
  deriving DecidableEq, Repr

/-- The version slot in the four words from `+64 + 32v`. -/
def versionOf (v : Nat) (ws : List Nat) : Version :=
  let w := fun i => ws.getD (8 + 4 * v + i) 0
  { slot := v, gen := fld (w 0) 0 16, live := bit (w 0) 16, tick := fld (w 0) 32 32, body := fld (w 1) 0 48, pins := fld (w 2) 0 32 }

/-- A root from its first 24 words. -/
def rootOf (addr : Nat) (ws : List Nat) : Root :=
  let w := fun i => ws.getD i 0
  let slotBad := fun v => fld (w (8 + 4 * v)) 17 15 != 0 || fld (w (9 + 4 * v)) 48 16 != 0 || fld (w (10 + 4 * v)) 32 32 != 0 ||
    w (11 + 4 * v) != 0
  { addr := addr, layers := fld (w 0) 0 9, job := fld (w 0) 16 16, share := fld (w 1) 0 48, free := fld (w 2) 0 48,
    freeCnt := fld (w 3) 0 16, w3 := w 3, vs := (List.range 4).map (fun v => versionOf v ws),
    bad := fld (w 0) 9 7 != 0 || fld (w 0) 32 32 != 0 || fld (w 1) 48 16 != 0 || fld (w 2) 48 16 != 0 || fld (w 3) 32 32 != 0 ||
      (span 4 4).any (fun i => w i != 0) || (List.range 4).any slotBad || fld (w 1) 0 6 != 0 || fld (w 2) 0 6 != 0 }

/-- The 64-bit words of a string of bytes. -/
def wordsOf (bs : List Byte) : List Nat := (chunks 8 bs.length bs).map leNat

/-- A root lies wholly in backed memory on a 64-byte boundary (R152). How far one of another package reaches, its home finds in its first
word. -/
def rootPlaced (root : Nat) : Eff Unit := do
  let c ← get
  stopIf (root % 64 != 0 || !backed root 192) eKvRoot kvUnit root
  stopIf (fenced c (pkgOf root)) eFabFenced kvUnit root
  if pkgOf root = pkg c then do
    let w ← readNat kvUnit root 8
    stopIf (!backed root (192 + 32 * fld w 0 9)) eKvRoot kvUnit root
  else pure ()

/-- The record of a layer in its 32 bytes, and whether a reserved field of it is set. -/
def layerOf (bs : List Byte) : LayerRec × Bool :=
  let ws := wordsOf bs
  let w := fun i => ws.getD i 0
  let tails := (List.range 2).filterMap (fun t =>
    if bit (w 0) (42 + t) then some (t, fld (w 3) (16 * t) 16, w (1 + t)) else none)
  ({ len := fld (w 0) 0 21, acc := fld (w 0) 21 21, tails := tails }, fld (w 0) 44 20 != 0 || fld (w 3) 32 32 != 0)

/-- The four words of a layer's record: a tail entry that is not valid is written 0 (log entry 137). -/
def layerWords (x : LayerRec) : List Nat :=
  let tail := fun t => x.tails.find? (fun p => p.1 == t)
  let valid := fun t => b2n (tail t).isSome
  let entry := fun t => ((tail t).map (·.2.2)).getD 0
  let idx := fun t => ((tail t).map (·.2.1)).getD 0
  [x.len + x.acc * 2 ^ 21 + valid 0 * 2 ^ 42 + valid 1 * 2 ^ 43, entry 0, entry 1, idx 0 + idx 1 * 2 ^ 16]

/-- The numbers of the operations on a root or word at its home, as an ATOMIC names them (log entry 34): an addition to 32 and to 64 bits,
the operation of R152, its release, words written, the root read, records of layers read, PUBLISH, RESOLVE or TRIM, and tails released. -/
def opAdd : Nat := 0
def opAdd64 : Nat := 1
def opPin : Nat := 2
def opUnpin : Nat := 3
def opWrite : Nat := 4
def opRead : Nat := 5
def opLayers : Nat := 6
def opPublish : Nat := 7
def opRevert : Nat := 8
def opFold : Nat := 9

/-- Words of a root by their offsets, as operands of an ATOMIC. -/
def wordOperands (ps : List (Nat × Nat)) : List Nat := ps.flatMap (fun p => [p.1, p.2 % 2 ^ 32, p.2 / 2 ^ 32])

/-- The record of a layer as words of its root. -/
def layerPlaces (l : Nat) (x : LayerRec) : List (Nat × Nat) := ((List.range 4).map (fun i => 192 + 32 * l + 8 * i)).zip (layerWords x)

/-- The record of a layer written, at the root's home. -/
def putLayer (root l : Nat) (x : LayerRec) : Eff Unit := writeWords (root + 192 + 32 * l) (layerWords x)

/-- Words of a root written at its home, all or none; the answer is how many. -/
def writeAtHome (root : Nat) (ps : List (Nat × Nat)) : Eff (List Byte) := do
  ps.forM (fun p => stopIf (!backed (root + p.1) 8) eUnbacked kvUnit (root + p.1))
  ps.forM (fun p => writeNat (root + p.1) 8 p.2)
  pure (leBytes 4 ps.length)

/-- Records of `n` layers read at the root's home. -/
def layersAtHome (root first n : Nat) : Eff (List Byte) := do
  stopIf (!backed root (192 + 32 * (first + n))) eKvRoot kvUnit root
  readMem kvUnit (root + 192 + 32 * first) (32 * n)

/-- The records of some layers, eight to an operation at the root's home (R146). -/
def readLayers (root first n : Nat) : Eff (List (LayerRec × Bool)) := do
  let rs := (pieces 8 first n).map (fun p => (p.1, p.2))
  let c ← get
  let bs ← (if pkgOf root = pkg c then rs.mapM (fun p => layersAtHome root p.1 p.2)
    else askAll kvUnit (rs.map (fun p => atomicReq root opLayers [p.1, p.2])))
  pure ((chunks 32 n bs.flatten).map layerOf)

/-- The LIVE version with the latest FROM_TICK not after t (R152). -/
def versionAt (vs : List Version) (t : Nat) : Option Version :=
  (vs.filter (fun v => v.live && !precedes t v.tick)).foldl (fun best v =>
    match best with
    | none => some v
    | some x => if precedes x.tick v.tick then some v else some x) none

/-- The full tick that a five-bit tag names (R157). -/
def fullTag (now tag5 : Nat) : Nat := (now + 2 ^ 32 - (now + 32 - tag5) % 32) % 2 ^ 32

/-- A walk: the pinned version with the layer record as its operation returned them, and what R153 read of root and body. -/
structure Walk where
  root : Root
  v : Version
  layer : Nat
  lrec : LayerRec
  lbad : Bool
  pages : Nat := 0
  rank32 : Nat := 0
  win : Nat := 0
  globals : List Nat := []
  deriving DecidableEq, Repr

/-- A pin stands in the descriptor that takes it. -/
def notePin (b : Fin 32) (k : Fin 16) (id : Nat) (p : PinRef) (c : Chip) : Chip :=
  modFlightOf b k id (fun f => { f with pins := f.pins ++ [p] }) c

/-- The PINS of a version slot at an address. -/
def pinsAddr (root slot : Nat) : Nat := root + 64 + 32 * slot + 16

/-- The version that the operation of R152 finds in a root. -/
def versionFor (r : Root) (root t : Nat) : Eff Version := do
  let c ← get
  let now := tickOf c
  stopIf (precedes now t || decide (getF c rKvCfg 0 4 < (now + 2 ^ 32 - t % 2 ^ 32) % 2 ^ 32)) eKvStale kvUnit root
  match versionAt r.vs t with
  | none => stopWith eKvNoGen kvUnit root
  | some v => pure v

/-- The operation of R152 at the root's home: the pin, and what it returns, the root's first 192 bytes as they stood with the record of the
layer named. -/
def pinAtHome (root t layer : Nat) : Eff (List Byte) := do
  let head ← readMem kvUnit root 192
  let r := rootOf root (wordsOf head)
  let v ← versionFor r root t
  rmw kvUnit (pinsAddr root v.slot) (leBytes 4 (v.pins + 1))
  let x ← (if layer < r.layers then layersAtHome root layer 1 else pure [])
  pure (head ++ x)

/-- The pin that an answer to the operation of R152 tells of. -/
def pinOf (root t : Nat) (bs : List Byte) : Option PinRef :=
  (versionAt (rootOf root (wordsOf (bs.take 192))).vs t).map (fun v => { root := root, slot := v.slot, gen := v.gen })

/-- The walk that such an answer begins. -/
def walkOf (root t layer : Nat) (bs : List Byte) : Eff Walk :=
  let r := rootOf root (wordsOf (bs.take 192))
  let x := layerOf (bs.drop 192)
  match versionAt r.vs t with
  | none => stopWith eKvNoGen kvUnit root
  | some v =>
    pure { root := r, v := v, layer := layer, lrec := if layer < r.layers then x.1 else { len := 0, acc := 0, tails := [] },
           lbad := decide (r.layers ≤ layer) || x.2 }

/-- The operation of R152 on one root: done here and kept with the descriptor's answers, or asked of the root's package, and then none until
it has answered. -/
def pinOne (x : Ctx) (t layer root : Nat) : Eff (Option (List Byte)) := do
  let c ← get
  let q := atomicReq root opPin [t % 2 ^ 32, layer]
  match ← ask kvUnit q with
  | some bs => pure (some bs)
  | none =>
    if pkgOf root ≠ pkg c then pure none
    else do
      let bs ← pinAtHome root t layer
      change (fun d => { d with fab := { d.fab with asked := d.fab.asked ++
        [{ who := c.fab.now, req := q, nth := farNth c.fab.far q, answer := some (0, bs) }] } })
      change (fun d => match pinOf root t bs with | some p => notePin x.b x.k x.id p d | none => d)
      pure (some bs)

/-- The operation of R152 on some roots, by a walk: every one is made before the first answer is waited for. -/
def kvPins (x : Ctx) (t layer : Nat) (roots : List Nat) : Eff (List Walk) := do
  let os ← roots.mapM (pinOne x t layer)
  if os.all (·.isSome) then (roots.zip (os.filterMap id)).mapM (fun p => walkOf p.1 t layer p.2) else throw awaitFar

/-- The operation of R152 on one root. -/
def kvPin (x : Ctx) (root t layer : Nat) : Eff Walk := do
  match ← kvPins x t layer [root] with
  | w :: _ => pure w
  | [] => stopWith eKvNoGen kvUnit root

/-- One pin is released at its home (R152). A home that cannot be reached keeps its count, and an uncorrectable word is not written: the
error contains the job (R54). -/
def releasePin (b : Fin 32) (job seq : Nat) (p : PinRef) (c : Chip) : Chip :=
  if fenced c (pkgOf p.root) then c
  else if pkgOf p.root ≠ pkg c then askAtomic p.root opUnpin [p.slot] c
  else
    let a := pinsAddr p.root p.slot
    match runEff (rmw kvUnit a (leBytes 4 (leNat (memReadN c.mem a 4) - 1))) c with
    | (c, .ok _) => c
    | (c, .error e) => basinError b job seq e c

/-- The pins of a descriptor that completes or stops are released (R152), and the buffer drops what no pin holds (R155). -/
def releasePins (b : Fin 32) (job seq : Nat) (ps : List PinRef) (c : Chip) : Chip :=
  let c := ps.foldl (fun c p => releasePin b job seq p c) c
  let held := (chainsOf c.basins[b]).flatMap (fun x => x.2.flight.flatMap (·.pins))
  modBasin b (fun s => { s with lab := s.lab.filter (fun e => held.any (fun p => p.root == e.root && p.gen == e.gen)) }) c

/-! ### The body (R148, R153) -/

/-- The checks of R153 after the operation; `rank32` is the descriptor's rank where it has one, and `unmapped` tells from PAGES and
LEN whether the page range passes it. DESIGN CHOICE (log entry 178), unsafe: the layer record that the operation of R152 returned is the only
one whose reserved fields are looked at; whether those of other layers make the root one that KV_ROOT stops, R153 does not say. -/
def kvCheck (job : Nat) (rank32 : Option Nat) (unmapped : Nat → Nat → Bool) (w : Walk) : Eff Walk := do
  stopIf (w.root.bad || w.root.job != job || decide (w.root.layers ≤ w.layer) || w.lbad) eKvRoot kvUnit w.root.addr
  let a := w.v.body
  stopIf (a % 64 != 0 || !backed a 320) eKvBody kvUnit a
  let c ← get
  stopIf (fenced c (pkgOf a)) eFabFenced kvUnit a
  let ws ← readWords kvUnit a 40
  let h := fun i => ws.getD i 0
  let pages := fld (h 0) 0 17
  let layers := fld (h 0) 17 9
  let r32 := fld (h 0) 26 5
  let nglob := fld (h 1) 21 7
  let gl := (List.range 64).map (fun i => fld (h (8 + i / 2)) (32 * (i % 2)) 32)
  let gs := gl.take nglob
  stopIf (!backed a (320 + 8 * layers * pages)) eKvBody kvUnit a
  stopIf (fld (h 0) 31 33 != 0 || fld (h 1) 28 36 != 0 || (span 2 6).any (fun i => h i != 0) || gl.any (fun g => decide (2 ^ 20 ≤ g)))
    eKvBody kvUnit a
  stopIf (layers != w.root.layers || decide (r32 < 2 ∨ 16 < r32)) eKvBody kvUnit a
  stopIf (decide (64 < nglob) || (gs.zip (gs.drop 1)).any (fun p => decide (p.2 ≤ p.1))) eKvBody kvUnit a
  stopIf (match rank32 with | some r => r != r32 | none => false) eKvRank kvUnit a
  stopIf (unmapped pages w.lrec.len) eKvUnmapped kvUnit a
  pure { w with pages := pages, rank32 := r32, win := fld (h 1) 0 21, globals := gs }

/-- The address of the body entry of page i of a layer. -/
def entryAddr (w : Walk) (l i : Nat) : Nat := w.v.body + 320 + 8 * (l * w.pages + i)

/-! ### The look-aside buffer (R155, R156) -/

/-- Does a buffered entry bear a tag. -/
def LabLine.has (x : LabLine) (root gen layer page : Nat) : Bool :=
  x.root == root && x.gen == gen && x.layer == layer && x.page == page

/-- Entries enter the buffer as the most recently used; 64 stay. -/
def labInstall (b : Fin 32) (es : List LabLine) (c : Chip) : Chip :=
  modBasin b (fun s => { s with lab :=
    (es ++ s.lab.filter (fun x => !es.any (fun e => e.has x.root x.gen x.layer x.page))).take 64 }) c

/-- The entries of one layer in the line that holds page i: the first page and the count. -/
def lineOf (w : Walk) (l i : Nat) : Nat × Nat :=
  let k := l * w.pages + i
  let lo := max (k / 8 * 8) (l * w.pages)
  let hi := min (k / 8 * 8 + 8) ((l + 1) * w.pages)
  (lo - l * w.pages, hi - lo)

/-- The `count` entries of a layer from `addr` on, taken from the eight words of their aligned line of a body (R155). -/
def lineEntries (root gen layer page count addr : Nat) (ws : List Nat) : List LabLine :=
  (List.range count).map (fun j => { root := root, gen := gen, layer := layer, page := page + j, entry := ws.getD (addr % 64 / 8 + j) 0 })

/-- The aligned 64-byte line of a body is read whole (R155). -/
def readLine (root gen layer page count addr : Nat) : Eff (List LabLine) := do
  let ws ← readWords kvUnit (addr / 64 * 64) 8
  pure (lineEntries root gen layer page count addr ws)

/-- The line that a prefetch has read, or its error: of this package it is read now, of another it came with the answer. -/
def fillLine (b : Fin 32) (x : LabFetch) : Eff (List LabLine) := do
  let c ← get
  let a := x.addr / 64 * 64
  if pkgOf a = pkg c then readLine x.root x.gen x.layer x.page x.count x.addr
  else
    match c.fab.asked.findSome? (fun y => if y.who = .line b ∧ y.req.addr = a then y.answer else none) with
    | some (0, bs) => pure (lineEntries x.root x.gen x.layer x.page x.count x.addr (wordsOf bs))
    | some (code, _) => stopWith code kvUnit a
    | none => throw awaitFar

/-- A prefetch of a line in another package asks for it (R314). -/
def askLine (a : Nat) (c : Chip) : Chip :=
  if pkgOf a = pkg c then c else askFar { ty := 4, addr := a / 64 * 64, len := 64, quiet := true } c

/-- With PREFETCH, reaching entry 4 of a line starts the read of the layer's next line, unless it is buffered or under way. -/
def labPrefetch (b : Fin 32) (w : Walk) (l i : Nat) (c : Chip) : Chip :=
  let (first, count) := lineOf w l i
  let next := first + count
  let s := c.basins[b]
  let gone := s.lab.any (fun x => x.has w.root.addr w.v.gen l next) ||
    s.labFetch.any (fun x => x.root == w.root.addr && x.gen == w.v.gen && x.layer == l && x.page == next)
  if !bit (getReg c rKvCfg) 4 || (l * w.pages + i) % 8 != 4 || decide (w.pages ≤ next) || gone then c
  else
    let n := (lineOf w l next).2
    askLine (entryAddr w l next) (modBasin b (fun s => { s with labFetch := s.labFetch ++
      [{ root := w.root.addr, gen := w.v.gen, layer := l, page := next, count := n, addr := entryAddr w l next }] }) c)

/-- The effective entry of page i of a layer, and whether it is the body's (R151, R155). -/
def kvEntry (b : Fin 32) (w : Walk) (l : Nat) (tails : List (Nat × Nat × Nat)) (i : Nat) : Eff (Nat × Bool) := do
  match tails.find? (fun p => p.2.1 == i) with
  | some p => pure (p.2.2, false)
  | none => do
    let c ← get
    let hit := c.basins[b].lab.find? (fun x => x.has w.root.addr w.v.gen l i)
    let (first, count) := lineOf w l i
    let fetch := c.basins[b].labFetch.any (fun x => x.root == w.root.addr && x.gen == w.v.gen && x.layer == l && x.page == first)
    match hit with
    | some x => do
      change (fun c => labPrefetch b w l i (labInstall b [x] (bump c (rKvCtr b.val 0))))
      pure (x.entry, true)
    | none => do
      change (fun c => bump c (rKvCtr b.val (if fetch then 0 else 1)))
      let es ← readLine w.root.addr w.v.gen l first count (entryAddr w l first)
      change (fun c => labPrefetch b w l i (labInstall b es (modBasin b (fun s => { s with labFetch := s.labFetch.filter (fun x =>
        !(x.root == w.root.addr && x.gen == w.v.gen && x.layer == l && x.page == first)) }) c)))
      pure (((es.find? (fun x => x.page == i)).map (·.entry)).getD 0, true)

/-- A usable effective entry (R153). -/
def kvUse (b : Fin 32) (w : Walk) (i : Nat) : Eff Nat := do
  let (e, inBody) ← kvEntry b w w.layer w.lrec.tails i
  stopIf (entryBad (32 * w.rank32) inBody e) eKvPte kvUnit (frameOf e)
  let c ← get
  stopIf (fenced c (pkgOf (frameOf e))) eFabFenced kvUnit (frameOf e)
  pure e

/-- The body entry of a page, read outside the buffer. -/
def bodyEntry (w : Walk) (l i : Nat) : Eff Nat := if i < w.pages then readNat kvUnit (entryAddr w l i) 8 else pure 0

/-! ### Tail entries (R151, R162, R165) -/

/-- Page i holds a slot in [acc, len). -/
def pageTent (acc len i : Nat) : Bool := decide (acc < len ∧ acc < 16 * i + 16 ∧ 16 * i < len)

/-- TENTATIVE of an entry set. -/
def setTent (t : Bool) (e : Nat) : Nat := setFld e 1 1 (b2n t)

/-- The tails of a layer after its LEN and ACC_LEN changed: TENTATIVE recomputed, and flag tails without it released (R165). The body
entries come from `entry`. -/
def fixTails (entry : Nat → Eff Nat) (x : LayerRec) : Eff LayerRec := do
  let ts ← x.tails.mapM (fun p => do
    let e := setTent (pageTent x.acc x.len p.2.1) p.2.2
    let be ← entry p.2.1
    pure (p.1, p.2.1, e, entSame e be && !entTent e))
  pure { x with tails := (ts.filter (fun q => !q.2.2.2)).map (fun q => (q.1, q.2.1, q.2.2.1)) }

/-! ### Appends (R157 to R162) -/

/-- One root of an append map: its walk, the number of its rows, and what step 2 decided: the entry of each page it writes, the new tails,
FREE_CNT, and the share counters that fall by 1. -/
structure Append where
  w : Walk
  rows : Nat
  first : Nat
  pages : List (Nat × Nat) := []
  tails : List (Nat × Nat × Nat) := []
  freeCnt : Nat := 0
  shares : List Nat := []
  deriving DecidableEq, Repr

/-- The rows of a map grouped by root, in map order; none if rows of one root are not consecutive. -/
def groupMap : List Nat → Nat → List (Nat × Nat × Nat) → Option (List (Nat × Nat × Nat))
  | [], _, acc => some acc.reverse
  | a :: r, i, acc =>
    match acc with
    | (x, f, n) :: t =>
      if x = a then groupMap r (i + 1) ((x, f, n + 1) :: t)
      else if t.any (fun p => p.1 == a) then none else groupMap r (i + 1) ((a, i, 1) :: acc)
    | [] => groupMap r (i + 1) [(a, i, 1)]

/-- The walks of an append: the map is read, and every root is placed, pinned and checked (R152, R153, R158). -/
def appendOpen (x : Ctx) (d : Desc) (m n : Nat) : Eff (List Append) := do
  let c ← get
  let base := sram c x.m (d.f 3 0 23)
  let ws ← readWords kvUnit base m
  stopIf (ws.any (fun w => fld w 48 16 != 0)) eKvMap kvUnit base
  match groupMap ws 0 [] with
  | none => stopWith eKvMap kvUnit base
  | some gs => do
    stopIf (decide (64 < gs.length)) eKvMap kvUnit base
    let layer := d.f 7 8 8
    let tag := fullTag (tickOf c) (d.f 7 16 5)
    gs.forM (fun g => rootPlaced g.1)
    let ws ← kvPins x tag layer (gs.map (·.1))
    (gs.zip ws).mapM (fun p => do
      let w ← kvCheck d.job (some (n / 32)) (fun pages len => decide (pages ≤ (len + p.1.2.2 - 1) / 16)) p.2
      pure { w := w, rows := p.1.2.2, first := p.1.2.1 })

/-- Step 1 of R159 for one root: the entry of every page written, found as its first row is checked. -/
def appendCheck (b : Fin 32) (fmt : Nat) (spec : Bool) (x : Append) : Eff Append := do
  let len := x.w.lrec.len
  let acc := x.w.lrec.acc
  let pages ← (List.range x.rows).foldlM (fun (ps : List (Nat × Nat)) r => do
    let i := (len + r) / 16
    let ps ← (if ps.any (fun p => p.1 == i) then pure ps else do
      let e ← kvUse b x.w i
      pure (ps ++ [(i, e)]))
    let e := ((ps.find? (fun p => p.1 == i)).map (·.2)).getD 0
    stopIf (entFmt e != fmt) eKvFmt kvUnit x.w.root.addr
    stopIf (decide (16 * x.w.pages < len + r + 1 ∨ 1048576 < len + r + 1)) eKvLen kvUnit x.w.root.addr
    stopIf (!spec && decide (acc < len)) eKvSpecOpen kvUnit x.w.root.addr
    stopIf (spec && decide (16 < len + r + 1 - acc)) eKvSpecLimit kvUnit x.w.root.addr
    pure ps) []
  pure { x with pages := pages, tails := x.w.lrec.tails, freeCnt := x.w.root.freeCnt }

/-- A tail slot for a new entry of page i (R162): the page's own, a free one, or a flag tail that this update releases. -/
def tailSlot (entry : Nat → Eff Nat) (acc len : Nat) (tails : List (Nat × Nat × Nat)) (i : Nat) : Eff (Option Nat) := do
  match tails.find? (fun p => p.2.1 == i) with
  | some p => pure (some p.1)
  | none =>
    match (List.range 2).find? (fun t => !tails.any (fun p => p.1 == t)) with
    | some t => pure (some t)
    | none => tails.foldlM (fun (r : Option Nat) p => do
      match r with
      | some t => pure (some t)
      | none => do
        let be ← entry p.2.1
        pure (if entSame p.2.2 be && !pageTent acc len p.2.1 then some p.1 else none)) none

/-- A word of the share array or of the free stack lies in backed memory (R161). -/
def kvWordPlaced (a n : Nat) : Eff Unit := do
  let c ← get
  stopIf (!backed a n) eKvRoot kvUnit a
  stopIf (fenced c (pkgOf a)) eFabFenced kvUnit a

/-- Step 2 of R159 for one page: copy-on-write is resolved, and the tail entry that the update will write is fixed (R161, R162). -/
def appendPage (b : Fin 32) (spec : Bool) (x : Append) (p : Nat × Nat) : Eff Append := do
  let (i, e) := p
  let w := x.w
  let len' := w.lrec.len + x.rows
  let acc' := if spec then w.lrec.acc else len'
  let entry := bodyEntry w w.layer
  if entCow e then do
    let ca := w.root.share + 4 * entShare e
    kvWordPlaced ca 4
    let n ← readNat kvUnit ca 4
    stopIf (n == 0) eKvShare kvUnit ca
    stopIf (decide (2 ≤ n) && x.freeCnt == 0) eKvNoPage kvUnit w.root.addr
    let slot ← tailSlot entry acc' len' x.tails i
    match slot with
    | none => stopWith eKvTailFull kvUnit w.root.addr
    | some t =>
      if n = 1 then
        let e' := setFld (setFld e 2 1 0) 48 16 0
        pure { x with pages := x.pages.map (fun q => if q.1 = i then (i, e') else q),
                      tails := x.tails.filter (fun q => q.1 != t) ++ [(t, i, e')], shares := x.shares ++ [ca] }
      else do
        let sa := w.root.free + 8 * (x.freeCnt - 1)
        kvWordPlaced sa 8
        let top ← readNat kvUnit sa 8
        let frame := frameOf top
        let size := frameSize (entFmt e) (32 * w.rank32)
        stopIf (!backedOne frame size) eKvPte kvUnit frame
        let bs ← readMem kvUnit (frameOf e) size
        writeAny kvUnit frame bs
        change (fun c => bump c (rKvCtr b.val 2))
        let e' := 1 + entFmt e * 8 + frame
        pure { x with pages := x.pages.map (fun q => if q.1 = i then (i, e') else q),
                      tails := x.tails.filter (fun q => q.1 != t) ++ [(t, i, e')], shares := x.shares ++ [ca],
                      freeCnt := x.freeCnt - 1 }
  else if spec && !(x.tails.any (fun q => q.2.1 == i)) then do
    let slot ← tailSlot entry acc' len' x.tails i
    match slot with
    | none => stopWith eKvTailFull kvUnit w.root.addr
    | some t => pure { x with tails := x.tails.filter (fun q => q.1 != t) ++ [(t, i, setTent true e)] }
  else pure x

/-- Steps 1 and 2 of R159 for every root. -/
def appendPlan (b : Fin 32) (fmt : Nat) (spec : Bool) (xs : List Append) : Eff (List Append) := do
  let xs ← xs.mapM (appendCheck b fmt spec)
  xs.mapM (fun x => x.pages.foldlM (appendPage b spec) x)

/-- Step 3: row `r` of a root, its latent's bytes and its scales, is written into its slot (R144). -/
def appendRow (fmt : Nat) (x : Append) (r : Nat) (bytes : List Byte) (scales : List Sc16) : Eff Unit := do
  let tok := x.w.lrec.len + r
  let s := tok % 16
  let rank := 32 * x.w.rank32
  let frame := frameOf (((x.pages.find? (fun p => p.1 == tok / 16)).map (·.2)).getD 0)
  writeAny kvUnit (frame + s * rank * frameEl fmt) bytes
  if fmt = 3 then pure () else do
    let pk := framePk rank
    (List.range pk).forM (fun j => do
      let ss := (scales.drop (8 * j)).take 8
      let a := frame + 16 * rank + 24 * (pk * s + j)
      let es := (List.range 8).map (fun i => match ss[i]? with | some x => sc16Code x | none => 0)
      writeAny kvUnit a ((es.flatMap (leBytes 2)) ++ leBytes 8 ((pk * s + j) % 16 + 256 * ss.length)))

/-- The layer record that an append leaves of its root. -/
def closedLayer (spec : Bool) (x : Append) : Eff LayerRec :=
  let len := x.w.lrec.len + x.rows
  fixTails (bodyEntry x.w x.w.layer) { len := len, acc := if spec then x.w.lrec.acc else len, tails := x.tails }

/-- The update of a root by an append (R159 step 4): its layer record and FREE_CNT. -/
def closeWords (x : Append) (r : LayerRec) : List (Nat × Nat) :=
  layerPlaces x.w.layer r ++ [(24, x.w.root.w3 / 2 ^ 16 * 2 ^ 16 + x.freeCnt)]

/-- A share counter of this package falls by 1. -/
def countDown (a : Nat) : Eff Unit := do
  let c ← get
  rmw kvUnit a (leBytes 4 (leNat (memReadN c.mem a 4) - 1))

/-- Steps 4 and 5: one update of each root, then the share counters. Whatever they read is read first, every slot is written by then, and the
roots and counters of other packages are updated before those of this one, so that a stop leaves what it can reach unchanged (R160). -/
def appendClose (spec : Bool) (xs : List Append) : Eff Unit := do
  let rs ← xs.mapM (closedLayer spec)
  syncFar kvUnit
  let c ← get
  let here := fun (a : Nat) => pkgOf a == pkg c
  let ups := xs.zip rs
  let _ ← askAll kvUnit ((ups.filter (fun p => !here p.1.w.root.addr)).map (fun p =>
    atomicReq p.1.w.root.addr opWrite (wordOperands (closeWords p.1 p.2))))
  let shares := xs.flatMap (·.shares)
  let _ ← askAll kvUnit ((shares.filter (fun a => !here a)).map (fun a => atomicReq a opAdd [2 ^ 32 - 1]))
  (ups.filter (fun p => here p.1.w.root.addr)).forM (fun p => do
    putLayer p.1.w.root.addr p.1.w.layer p.2
    rmw kvUnit (p.1.w.root.addr + 24) (leBytes 2 p.1.freeCnt))
  (shares.filter here).forM countDown

/-! ### KV_PAGE (R163 to R171) -/

/-- A LIVE version that may be reused (R167). -/
def retirable (span now : Nat) (vs : List Version) (v : Version) : Bool :=
  v.live && v.pins == 0 && vs.any (fun x => x.live && precedes v.tick x.tick && !precedes now x.tick &&
    decide (span ≤ (now + 2 ^ 32 - x.tick) % 2 ^ 32))

/-- STATUS of a version slot (R169): 0 FREE, 1 STAGED, 2 IN_EFFECT, 3 SUPERSEDED, 4 RETIRABLE. -/
def versionStatus (span now : Nat) (vs : List Version) (v : Version) : Nat :=
  if !v.live then 0 else if precedes now v.tick then 1
  else if (versionAt vs now).map (·.slot) == some v.slot then 2
  else if retirable span now vs v then 4 else 3

/-- The result record (R169). -/
def writeResult (m : Fin 32) (d : Desc) (r : Root) (wrote : Option (Nat × Bool)) : Eff Unit := do
  let c ← get
  let span := getF c rKvCfg 0 4
  let now := tickOf c
  let ws := r.vs.flatMap (fun v =>
    [v.gen + versionStatus span now r.vs v * 2 ^ 16 + v.tick * 2 ^ 32,
     v.pins + (match wrote with | some (s, rep) => if s = v.slot then 2 ^ 32 + b2n rep * 2 ^ 33 else 0 | none => 0)])
  writeWords (sram c m (d.f 3 0 23)) ws

/-- A root that a KV_PAGE may not act on: a reserved field, another job, or fewer layers (R153, R169). -/
def rootRefused (r : Root) (job layers : Nat) : Bool := r.bad || r.job != job || decide (r.layers < layers)

/-- The root that a KV_PAGE names as it stands, placed and checked. -/
def kvPageRoot (d : Desc) (layers : Nat) : Eff Root := do
  let root := d.f 1 0 48
  rootPlaced root
  let bs ← atHome kvUnit root opRead [] (readMem kvUnit root 192)
  let r := rootOf root (wordsOf bs)
  stopIf (rootRefused r d.job layers) eKvRoot kvUnit root
  pure r

/-- PUBLISH at the root's home (R166): the answer is the root after it, the slot written, and whether a body was replaced. With no LIVE slot the
rule gives no generation, and a free one stands (log entry 1). -/
def publishAtHome (root job body : Nat) : Eff (List Byte) := do
  let bs ← readMem kvUnit root 192
  let r := rootOf root (wordsOf bs)
  stopIf (rootRefused r job 0) eKvRoot kvUnit root
  let c ← get
  let now := tickOf c
  let next := (now + 1) % 2 ^ 32
  let put := fun (s i v : Nat) => writeNat (root + 64 + 32 * s + 8 * i) 8 v
  let s ← (match r.vs.find? (fun v => v.live && v.tick == next) with
    | some v => do
      put v.slot 1 body
      pure (v.slot, true)
    | none => do
      let old := (r.vs.filter (retirable (getF c rKvCfg 0 4) now r.vs)).foldl (fun (best : Option Version) v =>
        match best with | some x => if precedes v.tick x.tick then some v else some x | none => some v) none
      match (r.vs.find? (fun v => !v.live)).or old with
      | none => stopWith eKvNoSlot kvUnit root
      | some v => do
        let gen ← (if r.vs.any (·.live) then pure (((r.vs.filter (·.live)).foldl (fun g x => max g x.gen) 0 + 1) % 2 ^ 16)
          else modifyGet (fun c => drawNat c 65536))
        put v.slot 1 body
        put v.slot 2 0
        put v.slot 0 (gen + 2 ^ 16 + next * 2 ^ 32)
        pure (v.slot, false))
  let bs ← readMem kvUnit root 192
  pure (bs ++ leBytes 1 s.1 ++ leBytes 1 (b2n s.2))

/-- PUBLISH (R166), one operation at the root's home. -/
def kvPublish (m : Fin 32) (d : Desc) : Eff Unit := do
  let root := d.f 1 0 48
  let body := d.f 2 0 48
  rootPlaced root
  let bs ← atHome kvUnit root opPublish [d.job, body % 2 ^ 32, body / 2 ^ 32] (publishAtHome root d.job body)
  writeResult m d (rootOf root (wordsOf (bs.take 192))) (some ((bs.getD 192 0).toNat, (bs.getD 193 0).toNat == 1))

/-- QUERY (R169). -/
def kvQuery (m : Fin 32) (d : Desc) : Eff Unit := do
  let r ← kvPageRoot d 0
  writeResult m d r none

/-- CLEAR_PINS (R171). -/
def kvClearPins (m : Fin 32) (d : Desc) : Eff Unit := do
  let r ← kvPageRoot d 0
  let a := pinsAddr r.addr (d.f 4 38 2)
  let _ ← atHome kvUnit r.addr opWrite (wordOperands [(a - r.addr, 0)]) (do
    rmw kvUnit a (leBytes 4 0)
    pure [])
  let after ← kvPageRoot d 0
  writeResult m d after none

/-- The body of the version in effect now as RESOLVE and TRIM read it, to tell flag tails: an unreadable place stops with KV_BODY. -/
def effectEntry (r : Root) (now l i : Nat) : Eff Nat := do
  match versionAt r.vs now with
  | none => pure 0
  | some v => do
    stopIf (v.body % 64 != 0 || !backed v.body 320) eKvBody kvUnit v.body
    let h ← readNat kvUnit v.body 8
    let a := v.body + 320 + 8 * (l * fld h 0 17 + i)
    stopIf (!backed a 8) eKvBody kvUnit v.body
    if i < fld h 0 17 then readNat kvUnit a 8 else pure 0

/-- LEN and ACC_LEN of a layer after RESOLVE (0) or TRIM (1) with a COUNT, or none for KV_LEN (R163). -/
def revertLens (trim : Bool) (n : Nat) (x : LayerRec) : Option Nat :=
  if trim then (if x.acc < n then none else some n) else if x.len - x.acc < n then none else some (x.acc + n)

/-- Tails named by their bits, two to a layer from the first one on, as words of 32 bits. -/
def tailWords (ps : List (Nat × Nat)) (n : Nat) : List Nat :=
  (List.range (ceilDiv (2 * n) 32)).map (fun i => ((ps.filter (fun p => (2 * p.1 + p.2) / 32 == i)).map (fun p => 2 ^ ((2 * p.1 + p.2) % 32))).sum)

/-- Is tail `t` of the `i`-th layer among those named. -/
def tailNamed (ws : List Nat) (i t : Nat) : Bool := bit (ws.getD ((2 * i + t) / 32) 0) ((2 * i + t) % 32)

/-- The record of a layer with LEN and ACC_LEN set to `len`: TENTATIVE is recomputed, and those of the named tails without it are released
(R165). -/
def revertLayer (len i : Nat) (ws : List Nat) (x : LayerRec) : LayerRec :=
  let ts := x.tails.map (fun p => (p.1, p.2.1, setTent (pageTent len len p.2.1) p.2.2))
  { len := len, acc := len, tails := ts.filter (fun p => entTent p.2.2 || !tailNamed ws i p.1) }

/-- RESOLVE or TRIM at the root's home (R163): every layer is checked, then all are changed; the answer is how many. `ws` names the flag
tails. -/
def revertAtHome (root : Nat) (trim : Bool) (first count n : Nat) (ws : List Nat) : Eff (List Byte) := do
  let bs ← layersAtHome root first count
  let xs := (chunks 32 count bs).map layerOf
  stopIf (xs.any (·.2)) eKvRoot kvUnit root
  let ls := xs.map (fun x => revertLens trim n x.1)
  stopIf (ls.any Option.isNone) eKvLen kvUnit root
  ((List.range count).zip (xs.zip ls)).forM (fun p => putLayer root (first + p.1) (revertLayer (p.2.2.getD 0) p.1 ws p.2.1.1))
  pure (leBytes 4 count)

/-- RESOLVE and TRIM (R163). Every layer is checked first; flag tails are told from the body in effect, and one operation at the home changes
every layer. -/
def kvRevert (trim : Bool) (b : Fin 32) (d : Desc) : Eff Unit := do
  let first := d.f 4 0 8
  let count := d.f 4 8 9
  let n := d.f 4 17 21
  let r ← kvPageRoot d (first + count)
  let c ← get
  let xs ← readLayers r.addr first count
  stopIf (xs.any (·.2)) eKvRoot kvUnit r.addr
  stopIf (xs.any (fun x => (revertLens trim n x.1).isNone)) eKvLen kvUnit r.addr
  let flags ← ((List.range count).zip xs).mapM (fun p =>
    p.2.1.tails.filterMapM (fun q => do
      let be ← effectEntry r (tickOf c) (first + p.1) q.2.1
      pure (if entSame q.2.2 be then some (p.1, q.1) else none)))
  let ws := tailWords flags.flatten count
  let _ ← atHome kvUnit r.addr opRevert ([b2n trim, first, count, n] ++ ws) (revertAtHome r.addr trim first count n ws)
  change (fun c => bump c (rKvCtr b.val 3) ((xs.map (fun x => x.1.len - (revertLens trim n x.1).getD 0)).sum))

/-- RESOLVE (R163). -/
def kvResolve (b : Fin 32) (d : Desc) : Eff Unit := kvRevert false b d

/-- TRIM (R163). -/
def kvTrim (b : Fin 32) (d : Desc) : Eff Unit := kvRevert true b d

/-- The named tails of some layers are released at the root's home (R170); the answer is how many layers. -/
def foldAtHome (root first count : Nat) (ws : List Nat) : Eff (List Byte) := do
  let bs ← layersAtHome root first count
  ((List.range count).zip ((chunks 32 count bs).map layerOf)).forM (fun p =>
    putLayer root (first + p.1) { p.2.1 with tails := p.2.1.tails.filter (fun q => !tailNamed ws p.1 q.1) })
  pure (leBytes 4 count)

/-- FOLD_TAIL (R170). -/
def kvFoldTail (x : Ctx) (d : Desc) : Eff Unit := do
  let root := d.f 1 0 48
  let first := d.f 4 0 8
  let n := d.f 4 8 9
  rootPlaced root
  let w ← kvPin x root (d.f 5 0 32) (first + n - 1)
  let w ← kvCheck d.job none (fun _ _ => false) w
  let xs ← readLayers root first n
  stopIf (xs.any (·.2)) eKvRoot kvUnit root
  let gone ← ((List.range n).zip xs).mapM (fun p =>
    (p.2.1.tails.filter (fun q => !entTent q.2.2)).mapM (fun q => do
      let (e, _) ← (if q.2.1 < w.pages then kvEntry x.b w (first + p.1) [] q.2.1 else pure (0, true))
      stopIf (!entV e || frameOf e != frameOf q.2.2 || entFmt e != entFmt q.2.2 || entCow e) eKvTailMismatch kvUnit root
      pure (p.1, q.1)))
  let ws := tailWords gone.flatten n
  let _ ← atHome kvUnit root opFold ([first, n] ++ ws) (foldAtHome root first n ws)

/-- A prefetched line is installed when its read completes, if a pin still holds its version (R155, R156). -/
def labFill (b : Fin 32) (i : Nat) (ok : Bool) (c : Chip) : Chip :=
  match c.basins[b].labFetch[i]? with
  | none => c
  | some x =>
    let held := (chainsOf c.basins[b]).any (fun y => y.2.flight.any (fun f => f.pins.any (fun p => p.root == x.root && p.gen == x.gen)))
    let gone := fun (c : Chip) => modBasin b (fun s => { s with labFetch := dropAt s.labFetch i })
      { c with fab := { c.fab with asked := c.fab.asked.filter (fun y => !(y.who == .line b && y.req.addr == x.addr / 64 * 64)) } }
    let far := pkgOf x.addr ≠ pkg c
    if !ok || !held || fenced c (pkgOf x.addr) || (far && !c.fab.asked.any (fun y => y.who == .line b && y.req.addr == x.addr / 64 * 64)) then gone c
    else
      match runEff (fillLine b x) c with
      | (c, .ok es) => labInstall b es (gone c)
      | (c, .error e) => if e.code = 0 then c else gone c

end Sys2Proof.Machine
end

