-- ==== Sys2Proof/Machine/Checks.lean ====
section
/-! DEFINITION. The checks at issue (R43, R44, R477) of every class of descriptor, in the order of R43's table: the first failing
check names the error. Bases and streams that a descriptor does not enable are not checked (log entry 9). -/

namespace Sys2Proof.Machine

/-! ### The rows of descriptors -/

/-- Which command of the table a descriptor is. -/
inductive RowId where
  | nop | matmul | kvAppend
  | vec (op vop : Nat)
  | copy (act : Nat)
  | codec (op : Nat)
  | attn (pass : Nat)
  | merge | window
  | kv (op : Nat)
  | chunk
  | ckpt (act : Nat)
  deriving DecidableEq, Repr

/-- The VOPs of an opcode of the vector class (R49). -/
def vopListed (op vop : Nat) : Bool :=
  if op = 0x10 then decide ((1 ≤ vop ∧ vop ≤ 8) ∨ (0x10 ≤ vop ∧ vop ≤ 0x13))
  else if op = 0x11 then decide (1 ≤ vop ∧ vop ≤ 2) else decide (1 ≤ vop ∧ vop ≤ 5)

/-- The command that a descriptor is; none for an opcode or an operation that no table lists (R42, R477). -/
def rowOf (d : Desc) : Option RowId :=
  let op := d.opcode
  if op = 0x00 then some .nop
  else if op = 0x01 then (if d.f 3 23 2 = 3 then none else if d.f 3 23 2 = 1 then some .kvAppend else some .matmul)
  else if op = 0x10 ∨ op = 0x11 ∨ op = 0x12 then
    (if vopListed op (d.f 7 0 8) then some (.vec op (d.f 7 0 8)) else none)
  else if op = 0x20 then some (.copy (d.f 5 16 2))
  else if op = 0x22 then (if d.f 1 40 3 ≤ 5 then some (.codec (d.f 1 40 3)) else none)
  else if op = 0x30 then (if d.f 3 48 2 = 3 then none else some (.attn (d.f 3 48 2)))
  else if op = 0x31 then some .merge
  else if op = 0x32 then some .window
  else if op = 0x38 then (if d.f 1 48 4 ≤ 5 then some (.kv (d.f 1 48 4)) else none)
  else if op = 0x40 then some .chunk
  else if op = 0x41 then (if d.f 1 24 2 = 3 then none else some (.ckpt (d.f 1 24 2)))
  else none

/-- The opcodes that R42 lists. -/
def opcodes : List Nat := [0x00, 0x01, 0x10, 0x11, 0x12, 0x20, 0x22, 0x30, 0x31, 0x32, 0x38, 0x40, 0x41]

/-! ### Shared parts -/

/-- GANG or TARGET outside R34, for a descriptor that uses the jets. -/
def gangBad (d : Desc) : Bool :=
  match d.gang with
  | 0 => decide (16 < d.target)
  | 1 => decide (4 < d.target)
  | 2 => decide (0 < d.target)
  | _ => true

/-- GANG or TARGET nonzero where the class requires 0. -/
def gangSet (d : Desc) : Bool := d.gang != 0 || d.target != 0

/-- A format code that is reserved, or INT4 outside W_FMT (R41). -/
def fmtBad (x : Nat) : Bool := match fmtOf x with | none => true | some .int4 => true | _ => false

/-- The format of a code, INT8 where it is reserved. -/
def fmtGet (x : Nat) : Fmt := (fmtOf x).getD .int8

/-- A jet pair that R71 does not hold. -/
def pairBad (a w : Nat) : Bool :=
  match fmtOf a, fmtOf w with
  | some x, some y => !isPair x y
  | _, _ => true

/-- Is the pair of the integer class. -/
def pairInt (a w : Nat) : Bool := intPair (fmtGet a) (fmtGet w)

/-- The reserved bits of word 6 as R40 lays it out, in every class but NOP (R477). -/
def word6Sc : Nat := ones 25 7 + word6Mask

/-- The reserved bits of word 6 in a NOP, which lays out only the wait and signal fields (R477). -/
def word6No : Nat := ones 0 32 + word6Mask

/-- The extents of enabled output scales (R43). -/
def outScalePast (d : Desc) (f : Fmt) (rows blocks : Nat) : Bool :=
  d.b 6 23 && scalesOut f && past (d.f 6 0 23) (outScaleBytes rows blocks (d.b 6 24))

/-- A misaligned base of output scales, where OUT_SC_EN has an effect (R86). -/
def outScaleOff (d : Desc) (f : Fmt) : Bool := d.b 6 23 && scalesOut f && off64 (d.f 6 0 23)

/-! ### Classes -/

/-- NOP (R477). -/
def checksNop (d : Desc) : List (Bool × Nat) :=
  [(reservedBad d [word0Mask, allBits, allBits, allBits, allBits, allBits, word6No, allBits], eDescReserved),
   (gangSet d, eDescGang),
   (d.aFmt != 0 || d.wFmt != 0 || d.outFmt != 0, eDescPair),
   (d.acc48 || d.accClear, eDescAcc)]

/-- The jet class (R43, R44, R158, R229). -/
def checksJet (d : Desc) (held : Option Acc) : List (Bool × Nat) :=
  let mode := d.f 3 23 2
  let out := mode != 2
  let m := d.f 1 24 16
  let k := d.f 2 24 20
  let n := d.f 2 44 16
  let isInt := pairInt d.aFmt d.wFmt
  let rs := d.b 4 39
  let asc := d.b 5 23
  let wsc := d.b 5 47
  let ad := d.f 7 0 7
  let o := fmtGet d.outFmt
  let kb := ceilDiv k 32
  let nb := ceilDiv n 32
  [(reservedBad d [word0Mask, ones 56 8, ones 60 4, ones 41 23, ones 63 1, ones 48 16, word6Sc,
      ones 7 1 + (if mode = 1 then ones 22 42 else ones 8 56)], eDescReserved),
   (gangBad d, eDescGang),
   (fmtOf d.aFmt == none || fmtOf d.wFmt == none || (out && fmtBad d.outFmt) || pairBad d.aFmt d.wFmt ||
      (ad != 0 && (asc || wsc)), eDescPair),
   (if isInt then out && (if rs then !(o == .int8 || o == .int32) else !(o == .int32) || d.acc48)
    else rs || d.acc48 || (out && !(o == .fp32 || o == .bf16 || o == .fp8)), eDescOutfmt),
   (mode == 1 && (!(o == .int8 || o == .fp8 || o == .bf16) || (scalesOut o && !d.b 6 23) || d.b 6 24), eDescOutfmt),
   (off64 (d.f 1 0 23) || off64 (d.f 2 0 23) || (out && off64 (d.f 3 0 23)) || (d.b 4 38 && off64 (d.f 4 40 23)) ||
      (asc && off64 (d.f 5 0 23)) || (wsc && off64 (d.f 5 24 23)) || (out && outScaleOff d o), eDescAlign),
   (m == 0 || k == 0 || n == 0 || mode == 3 || decide (64 < ad), eDescRange),
   (mode == 1 && (d.f 3 25 16 != 0 || n % 32 != 0 || decide (n < 64 ∨ 512 < n) || past (d.f 3 0 23) (8 * m)), eDescRange),
   ((!d.b 1 23 && past (d.f 1 0 23) (rowsBytes m (d.f 1 40 16) ((fmtGet d.aFmt).bytes k))) ||
      (!d.b 2 23 && past (d.f 2 0 23) (weightBytes (fmtGet d.wFmt) d.gang k n)) ||
      (mode == 0 && past (d.f 3 0 23) (rowsBytes m (d.f 3 25 16) (o.bytes n))) ||
      (d.b 4 38 && past (d.f 4 40 23) (8 * n)) || (asc && past (d.f 5 0 23) (scaleBytes m kb)) ||
      (wsc && past (d.f 5 24 23) (scaleBytes n kb)) || (mode == 0 && outScalePast d o m nb), eDescRange),
   (ad != 0 && (!d.accClear || mode == 2), eDescAcc),
   (!d.accClear && (match held with
      | none => true
      | some a => a.gang != d.gang || a.acc48 != d.acc48 || a.m != m || a.n != n || a.isInt != isInt ||
                  (isInt && (asc || wsc) && !a.scaled)), eDescAcc),
   (isInt && !d.acc48 && decide (65536 < k + (if d.accClear then 0 else (held.map (·.k)).getD 0)), eDescAcc)]

/-- Is a vector operation one of integers (R49): a VOP that R49 does not list is of neither kind. -/
def vopInt (d : Desc) : Bool := d.opcode == 0x10 && vopListed 0x10 (d.f 7 0 8) && decide (0x10 ≤ d.f 7 0 8)

/-- Does a vector operation read operand b. -/
def vopTwo (d : Desc) : Bool := d.opcode == 0x10 && d.f 7 0 8 != 7 && d.f 7 0 8 != 8

/-- The number of results of a vector descriptor. -/
def vecResults (d : Desc) : Nat := if d.opcode = 0x11 then d.f 1 24 20 / d.f 2 24 20 else d.f 1 24 20

/-- The vector class (R44, R48, R73). A reserved W_FMT fails at order 4 whatever the operation, and a VOP that R49 does not list for the
opcode at order 7 (R43, R477). -/
def checksVec (d : Desc) : List (Bool × Nat) :=
  let a := fmtOf d.aFmt
  let w := fmtOf d.wFmt
  let o := fmtGet d.outFmt
  let vop := d.f 7 0 8
  let rs := d.b 4 39
  let n := d.f 1 24 20
  let rl := d.f 2 24 20
  let outs := vecResults d
  [(reservedBad d [word0Mask, ones 23 1 + ones 44 20, ones 23 1 + (if d.opcode = 0x11 then 0 else ones 24 20) + ones 44 20,
      ones 23 41, ones 63 1, allBits, word6Sc, ones 8 24], eDescReserved),
   (gangSet d, eDescGang),
   (fmtBad d.aFmt || w == none || fmtBad d.outFmt ||
      (vopInt d && (!(a == some .int8 || a == some .int32) || !(w == some .int4 || w == some .int8 || w == some .int32))), eDescPair),
   (d.b 4 38 ||
      (if vopInt d then
        (if vop = 0x12 then (if rs then !(o == .int8 || o == .int32) else !(o == .int32)) else rs || !(o == .int8 || o == .int32))
       else rs && vopListed d.opcode vop), eDescOutfmt),
   (off64 (d.f 1 0 23) || (vopTwo d && off64 (d.f 2 0 23)) || off64 (d.f 3 0 23) || outScaleOff d o, eDescAlign),
   (!vopListed d.opcode vop || n == 0 || (d.opcode == 0x11 && (rl == 0 || decide (65536 < rl) || n % rl != 0)), eDescRange),
   (past (d.f 1 0 23) ((fmtGet d.aFmt).bytes n) || (vopTwo d && past (d.f 2 0 23) ((fmtGet d.wFmt).bytes n)) ||
      past (d.f 3 0 23) (o.bytes outs) || outScalePast d o 1 (ceilDiv outs 32), eDescRange),
   (d.acc48 || d.accClear, eDescAcc)]

/-- COPY (R240, R241). -/
def checksCopy (d : Desc) : List (Bool × Nat) :=
  let act := d.f 5 16 2
  [(reservedBad d [word0Mask, ones 48 16, ones 48 16, ones 40 24, ones 48 16, ones 14 2 + ones 19 45, word6Sc, allBits], eDescReserved),
   (gangSet d, eDescGang),
   (d.aFmt != 0 || d.wFmt != 0 || d.outFmt != 0, eDescPair),
   (off64 (d.f 1 0 48) || off64 (d.f 2 0 48), eDescAlign),
   (if act = 0 then d.f 3 0 16 == 0 || d.f 3 16 24 == 0 || d.f 5 0 14 != 0 || d.b 5 18 ||
        (decide (1 < d.f 3 0 16) && decide (d.f 4 24 24 < d.f 3 16 24))
      else d.word 1 != 0 || d.word 2 != 0 || d.word 3 != 0 || d.word 4 != 0 || (d.b 5 18 && act != 1), eDescRange),
   (d.acc48 || d.accClear, eDescAcc)]

/-- CODEC_BUILD (R221, R222). -/
def checksCodec (d : Desc) : List (Bool × Nat) :=
  let op := d.f 1 40 3
  let blocks := d.f 1 24 11
  let sc := d.b 4 41
  let slot := d.f 3 0 5
  let src := decide (op ≤ 3)
  let dst := op == 1 || op == 2
  let img := d.b 2 47 && (op == 0 || op == 2)
  let hold := op == 4 || op == 5
  [(reservedBad d [word0Mask, ones 23 1 + ones 35 5 + ones 43 21, ones 23 1 + ones 48 16, ones 5 3 + ones 36 28, ones 42 22,
      allBits, word6Sc, allBits], eDescReserved),
   (gangSet d, eDescGang),
   (d.aFmt != 0 || d.outFmt != 0 || (if sc then fmtOf d.wFmt == none || fmtOf d.wFmt == some .int32 else d.wFmt != 0), eDescPair),
   ((src && off64 (d.f 1 0 23)) || (dst && off64 (d.f 2 0 23)) || (img && off64 (d.f 2 24 23)) || (d.b 4 23 && off64 (d.f 4 0 23)),
      eDescAlign),
   (decide (5 < op) || (if op ≤ 2 then blocks == 0 || decide (1536 < blocks) else blocks != 0) || decide (16 < slot) ||
      (slot == 16 && (op == 1 || hold)) || (hold && d.f 3 16 20 == 0) || (!hold && (d.f 3 8 8 != 0 || d.f 3 16 20 != 0)) ||
      (sc && d.f 4 24 17 == 0) || decide (65535 < d.f 4 24 17), eDescRange),
   ((src && past (d.f 1 0 23) (if op = 3 then 192 else 4096 * blocks)) || (dst && past (d.f 2 0 23) (4160 * blocks)) ||
      (img && past (d.f 2 24 23) 192) || (d.b 4 23 && past (d.f 4 0 23) 64), eDescRange),
   (d.acc48 || d.accClear, eDescAcc)]

/-- Head dimension of HDIM (R121). -/
def hdimOf (x : Nat) : Nat := 32 * 2 ^ x

/-- The bounds B_0 to B_30 of R136. -/
def bucketBounds : List Nat :=
  [16, 32, 48, 80, 128, 192, 272, 400, 576, 816, 1168, 1664, 2368, 3360, 4752, 6736, 9536, 13488, 19088, 27008, 38208, 54048,
   76448, 108128, 152928, 216288, 305888, 432592, 611792, 865216, 1048576]

/-- BUCKET of R136: the smallest b with B_b at least 16 x PAGE_COUNT. -/
def bucketOf (pages : Nat) : Nat := (bucketBounds.filter (fun x => decide (x < 16 * pages))).length

/-- The tokens of a block (R142). -/
def attnBlock (c : Chip) : Nat := match getF c rAtCfg 0 2 with | 0 => 128 | 1 => 256 | _ => 512

/-- The bytes of `rows` rows at a pitch of 64-byte multiples of a row's bytes. -/
def paddedRows (rows rowBytes : Nat) : Nat := rows * roundUp rowBytes 64

/-- Extent of the query with its scales (R120). -/
def queryEnd (f : Fmt) (base rows pitch width : Nat) : Nat :=
  let q := base + rowsBytes rows pitch (f.bytes width)
  if f == .bf16 then q else roundUp q 64 + scaleBytes rows (ceilDiv width 32)

/-- ATTN_PARTIAL (R121, R122, R124, R125, R134, R139). -/
def checksPartial (c : Chip) (d : Desc) : List (Bool × Nat) :=
  let a := fmtOf d.aFmt
  let o := fmtGet d.outFmt
  let pass := d.f 3 48 2
  let fin := d.b 7 21
  let ex := d.b 2 23
  let heads := d.f 1 32 8
  let qpos := d.f 1 24 4
  let nq := heads * qpos
  let r := 32 * d.f 2 48 5
  let hd := hdimOf (d.f 2 53 2)
  let width := if ex then hd else r
  let pages := d.f 4 48 16
  let dp := paddedRows nq (64 * pages)
  let up := weightBytes (fmtGet d.wFmt) d.gang r (heads * hd)
  let outEnd := match pass with
    | 0 => if fin then paddedRows nq (o.bytes width) else roundUp (64 + 16 * nq) 64 + paddedRows nq (4 * width)
    | _ => dp
  let scrEnd := match pass with
    | 0 => nq * attnBlock c * 4 + (if ex then 2 * 64 * heads * hd else 0)
    | 1 => 16 * nq
    | _ => roundUp (16 * nq) 64 + dp
  [(reservedBad d [word0Mask, ones 23 1 + ones 28 4 + ones 60 4, ones 47 1 + ones 55 9, ones 23 1 + ones 47 1 + ones 61 3, 0,
      ones 61 3, word6Sc, ones 22 10], eDescReserved),
   (gangBad d, eDescGang),
   (!(a == some .int8 || a == some .fp8 || a == some .bf16) || !(d.f 1 56 4 == 2 || d.f 1 56 4 == 3) ||
      (if ex then fmtOf d.wFmt == none || fmtOf d.wFmt == some .fp32 || fmtOf d.wFmt == some .int32 else d.wFmt != 0) || fmtBad d.outFmt,
      eDescPair),
   ((if pass = 0 then (if fin then !(o == .fp32 || o == .bf16 || o == .fp8 || o == .int8) else o != .fp32)
     else pass != 3 && (o != .fp32 || d.b 6 23)) || d.b 6 24, eDescOutfmt),
   (off64 (d.f 1 0 23) || off64 (d.f 3 0 23) || off64 (d.f 3 24 23) || (ex && (off64 (d.f 2 0 23) || off64 (d.f 2 24 23))) ||
      (fin && outScaleOff d o), eDescAlign),
   (decide (qpos < 1 ∨ 9 < qpos) || decide (heads < 1 ∨ 128 < heads) || decide (accDepth d.gang false < nq) ||
      decide (r < 64 ∨ 512 < r) || d.f 2 53 2 == 3 ||
      (!ex && (d.f 2 53 2 != 0 || d.f 2 0 23 != 0 || d.f 2 24 23 != 0)) || decide (d.f 3 55 6 < 1 ∨ 32 < d.f 3 55 6) ||
      decide (d.f 3 55 6 ≤ d.f 5 56 5) || pass == 3 || (fin && (d.f 3 55 6 != 1 || pass != 0)) || pages == 0 ||
      decide (65536 < d.f 4 32 16 + pages) || d.f 3 50 5 != bucketOf pages, eDescRange),
   (decide (sramEnd < queryEnd (fmtGet d.aFmt) (d.f 1 0 23) nq (d.f 1 40 16) width) ||
      (ex && (past (d.f 2 0 23) up || past (d.f 2 24 23) up)) || past (d.f 3 0 23) outEnd || past (d.f 3 24 23) scrEnd ||
      (fin && outScalePast d o nq (ceilDiv width 32)), eDescRange),
   (!d.accClear || d.acc48, eDescAcc)]

/-- ATTN_MERGE (R131). -/
def checksMerge (d : Desc) : List (Bool × Nat) :=
  let o := fmtGet d.outFmt
  let rows := d.f 1 48 11
  let od := d.f 2 24 10
  let parts := d.f 1 40 6
  let rec_ := roundUp (64 + 16 * rows) 64 + paddedRows rows (4 * od)
  [(reservedBad d [word0Mask, ones 23 1 + ones 46 2 + ones 59 5, ones 23 1 + ones 34 30, ones 24 40, ones 32 32, allBits, word6Sc,
      allBits], eDescReserved),
   (gangSet d, eDescGang),
   (d.aFmt != 4 || d.wFmt != 0 || fmtBad d.outFmt, eDescPair),
   (o == .int32, eDescOutfmt),
   (off64 (d.f 1 0 23) || off64 (d.f 2 0 23) || (d.b 3 23 && off64 (d.f 3 0 23)) || outScaleOff d o, eDescAlign),
   (decide (parts < 1 ∨ 32 < parts) || decide (rows < 1 ∨ 1024 < rows) || decide (od < 32 ∨ 512 < od) || od % 32 != 0, eDescRange),
   (past (d.f 1 0 23) ((parts - 1) * d.f 1 24 16 * 64 + rec_) || past (d.f 2 0 23) (paddedRows rows (o.bytes od)) ||
      (d.b 3 23 && past (d.f 3 0 23) (16 * rows)) || outScalePast d o rows (od / 32), eDescRange),
   (d.acc48 || d.accClear, eDescAcc)]

/-- ATTN_WINDOW (R140). A P_FMT of INT8 makes a pair of R71 and fails as a field outside its range. DESIGN CHOICE (log entry 139), unsafe:
R140 gives no required value of ACC_CLEAR and ACC48; the model requires 1 and 0, as ATTN_PARTIAL does. -/
def checksWindow (d : Desc) : List (Bool × Nat) :=
  let a := fmtOf d.aFmt
  let o := fmtGet d.outFmt
  let pitch := d.f 1 24 16
  let heads := d.f 1 40 7
  let frames := d.f 1 48 12
  let rows := heads * frames
  let hd := hdimOf (d.f 3 48 2)
  let wl := d.f 2 48 8
  let wr := d.f 2 56 8
  let endOf := fun (f : Nat) (base : Nat) => queryEnd (fmtGet f) base rows pitch hd
  [(reservedBad d [word0Mask, ones 23 1 + ones 47 1 + ones 60 4, ones 23 1 + ones 47 1, ones 23 1 + ones 47 1 + ones 54 10, ones 32 32,
      allBits, word6Sc, allBits], eDescReserved),
   (gangBad d, eDescGang),
   (!(a == some .int8 || a == some .fp8 || a == some .bf16) || pairBad d.aFmt d.wFmt ||
      pairBad (d.f 3 50 4) d.wFmt || fmtBad d.outFmt, eDescPair),
   (!(o == .fp32 || o == .bf16 || o == .fp8), eDescOutfmt),
   (off64 (d.f 1 0 23) || off64 (d.f 2 0 23) || off64 (d.f 2 24 23) || off64 (d.f 3 0 23) || off64 (d.f 3 24 23) || outScaleOff d o,
      eDescAlign),
   (decide (heads < 1 ∨ 64 < heads) || frames == 0 || decide (256 < wl + wr + 1) || d.f 3 48 2 == 3 ||
      !(d.f 3 50 4 == 2 || d.f 3 50 4 == 3), eDescRange),
   (decide (sramEnd < endOf d.aFmt (d.f 1 0 23)) || decide (sramEnd < endOf d.wFmt (d.f 2 0 23)) ||
      decide (sramEnd < endOf d.wFmt (d.f 2 24 23)) || past (d.f 3 0 23) (rowsBytes rows pitch (o.bytes hd)) ||
      past (d.f 3 24 23) (2 * 4096 * ceilDiv (wl + wr + 32) 32) || outScalePast d o rows (hd / 32), eDescRange),
   (!d.accClear || d.acc48, eDescAcc)]

/-- KV_PAGE (R169). -/
def checksKv (d : Desc) : List (Bool × Nat) :=
  let op := d.f 1 48 4
  let res := op == 0 || op == 4 || op == 5
  [(reservedBad d [word0Mask, ones 52 12, ones 48 16, ones 23 41, ones 40 24, ones 32 32, word6Sc, allBits], eDescReserved),
   (gangSet d, eDescGang),
   (d.aFmt != 0 || d.wFmt != 0 || d.outFmt != 0, eDescPair),
   (res && off64 (d.f 3 0 23), eDescAlign),
   (decide (5 < op) || (op != 0 && d.f 2 0 48 != 0) ||
      ((op == 1 || op == 2 || op == 3) && (decide (d.f 4 8 9 < 1 ∨ 256 < d.f 4 8 9) || decide (256 < d.f 4 0 8 + d.f 4 8 9))) ||
      (op == 1 && decide (16 < d.f 4 17 21)) || (op == 2 && decide (1048576 < d.f 4 17 21)) || (res && past (d.f 3 0 23) 64), eDescRange),
   (d.acc48 || d.accClear, eDescAcc)]

/-- STATE_CHUNK (R96, R99). -/
def checksChunk (d : Desc) : List (Bool × Nat) :=
  let kind := d.b 5 32
  let a := fmtOf d.aFmt
  let o := fmtGet d.outFmt
  let h := d.f 5 34 4
  let fr := d.f 1 24 7
  let la := d.f 1 32 7
  let st := d.f 5 23 9
  let n := d.f 5 38 17
  let rows := st * (fr + la)
  let outEn := d.b 3 23
  [(reservedBad d [word0Mask, ones 23 1 + ones 31 1 + ones 39 1 + ones 56 8, ones 41 23, ones 40 24, allBits, ones 55 9, word6Sc,
      ones 7 57], eDescReserved),
   (if kind then gangBad d else gangSet d, eDescGang),
   (fmtBad d.aFmt || fmtOf d.wFmt == none || fmtBad d.outFmt || a == some .int32 ||
      (if kind then pairBad h d.wFmt || pairInt h d.wFmt else h != 0), eDescPair),
   (o == .int32 || d.b 6 24, eDescOutfmt),
   (off64 (d.f 1 0 23) || off64 (d.f 2 0 23) || off64 (d.f 5 0 23) || (outEn && (off64 (d.f 3 0 23) || outScaleOff d o)), eDescAlign),
   (decide (fr < 1 ∨ 64 < fr) || decide (fr < la) || decide (st < 1 ∨ 256 < st) || n % 32 != 0 || decide (n < 32 ∨ 65536 < n) ||
      (kind && (decide (1024 < n) || d.b 2 24 || d.f 2 25 16 != 0)) || (!kind && (d.b 5 33 || d.b 2 23)), eDescRange),
   (past (d.f 1 0 23) (rowsBytes rows (d.f 1 40 16) ((fmtGet d.aFmt).bytes n)) || past (d.f 5 0 23) (4 * st) ||
      (if kind then !d.b 2 23 && past (d.f 2 0 23) (weightBytes (fmtGet d.wFmt) d.gang n n)
       else past (d.f 2 0 23) (rowsBytes (if d.b 2 24 then st else rows) (d.f 2 25 16) ((fmtGet d.wFmt).bytes n))) ||
      (outEn && (past (d.f 3 0 23) (rowsBytes rows (d.f 3 24 16) (o.bytes n)) || outScalePast d o rows (n / 32))), eDescRange),
   (!d.accClear || d.acc48, eDescAcc)]

/-- STATE_CKPT (R108, R109). -/
def checksCkpt (d : Desc) : List (Bool × Nat) :=
  let act := d.f 1 24 2
  [(reservedBad d [word0Mask, ones 23 1 + ones 26 38, ones 48 16, allBits, allBits, allBits, word6Sc, allBits], eDescReserved),
   (gangSet d, eDescGang),
   (d.aFmt != 0 || d.wFmt != 0 || d.outFmt != 0, eDescPair),
   (off64 (d.f 1 0 23) || (act != 2 && off64 (d.f 2 0 48)), eDescAlign),
   (act == 3, eDescRange),
   (d.acc48 || d.accClear, eDescAcc)]

/-- The first failing check of a descriptor (R43), against the accumulators that its chain holds. -/
def checkDesc (c : Chip) (held : Option Acc) (d : Desc) : Option Nat :=
  match d.opcode with
  | 0x00 => firstBad (checksNop d)
  | 0x01 => firstBad (checksJet d held)
  | 0x10 => firstBad (checksVec d)
  | 0x11 => firstBad (checksVec d)
  | 0x12 => firstBad (checksVec d)
  | 0x20 => firstBad (checksCopy d)
  | 0x22 => firstBad (checksCodec d)
  | 0x30 => firstBad (checksPartial c d)
  | 0x31 => firstBad (checksMerge d)
  | 0x32 => firstBad (checksWindow d)
  | 0x38 => firstBad (checksKv d)
  | 0x40 => firstBad (checksChunk d)
  | 0x41 => firstBad (checksCkpt d)
  | _ => some eDescOpcode

end Sys2Proof.Machine
end

