-- ==== Sys2Proof/Machine/Issue.lean ====
section
/-! DEFINITION. Issue of the descriptor at the head of a chain (R34 to R37, R43, R45, R137, R186, R190, R217), what a stop does
(R45, R58, R111, R152, R187), and the change of ganging mode (R35). A descriptor's whole effect on memory happens at issue;
its completion is a command of its own (log entry 10). -/

namespace Sys2Proof.Machine

/-! ### Chains -/

/-- Where a chain runs. -/
def ctxOf (b : Fin 32) (k : Fin 16) (ch : Chain) : Ctx :=
  match ch.place with
  | .home => { b := b, k := k, m := b }
  | .inPlace => { b := b, k := k, m := ch.home, crossbar := true }
  | .migrated => { b := b, k := k, m := b }

/-- A new head stands in a chain: it is stamped in the order in which heads reach their heads (R35, R137). -/
def stampHead (b : Fin 32) (k : Fin 16) (c : Chip) : Chip :=
  let n := c.basins[b].stamp
  modBasin b (fun s => { s with stamp := n + 1 }) (modChain b k (fun ch => { ch with stamp := n }) c)

/-- The ticket of a chain's item is released (R111). -/
def releaseTicket (b : Fin 32) (k : Fin 16) (c : Chip) : Chip :=
  match c.basins[b].chains[k] with
  | none => c
  | some ch =>
    match ch.ticket with
    | none => c
    | some n => dropPin n (setChain b k (some { ch with ticket := none }) c)

/-- The 64 KiB granules of a working range (R183, R185). -/
def granules (off len64 : Nat) : List Nat := span (off / 65536) (ceilDiv (off % 65536 + len64 * 64) 65536)

/-- A context is freed: a migrated item's granules with it, when STEAL_IN counts the item (R185, R187, log entry 52). -/
def freeContext (b : Fin 32) (k : Fin 16) (c : Chip) : Chip :=
  match c.basins[b].chains[k] with
  | none => c
  | some ch =>
    let gs := granules ch.item.workOff.toNat ch.item.workLen.toNat
    let c := setChain b k none (releaseTicket b k c)
    let c := bump c (rWqCtr b.val 0) (b2n (ch.place == .migrated))
    modBasin b (fun s => { s with drain := s.drain.filter (· != k),
                                  occupied := if ch.place = .migrated then s.occupied.filter (fun g => !gs.contains g) else s.occupied }) c

/-- A stopped chain frees its context once none of its descriptors is in flight. -/
def freeStopped (b : Fin 32) (k : Fin 16) (c : Chip) : Chip :=
  match c.basins[b].chains[k] with
  | none => c
  | some ch => if ch.stopped ∧ ch.flight = [] then freeContext b k c else c

/-- The identity of a basin's requests (R375). -/
def basinMaster (b : Fin 32) : Master := BitVec.ofNat 8 (0x10 + b.val)

/-- The STEP_TAG of the item in a context. -/
def stepOf (c : Chip) (b : Fin 32) (k : Fin 16) : Nat := ((c.basins[b].chains[k]).map (fun ch => ch.item.stepTag.toNat)).getD 0

/-- What a flight of an item with a STEP_TAG holds is released: pins on versions, those at another package by an ATOMIC (R152), and BUSY of
records. -/
def releaseFlight (b : Fin 32) (step : Nat) (f : Flight) (c : Chip) : Chip :=
  let c := releasePins b f.job (fld (f.w.getD 0 0) 48 16) f.pins (beginFar (.done b f.job step) c)
  f.busy.foldl (fun c n => addBusy n false c) (flushFar (basinMaster b) (.done b f.job step) c).2

/-- What a descriptor has asked of other packages is forgotten, with the lines that its walker no longer prefetches (R156). -/
def forgetFlight (b : Fin 32) (k : Fin 16) (id : Nat) (c : Chip) : Chip :=
  let c := forgetFar (.walk b k id) c
  { c with fab := { c.fab with asked := c.fab.asked.filter (fun y =>
    y.who != .line b || c.basins[b].labFetch.any (fun x => x.addr / 64 * 64 == y.req.addr)) } }

/-- A chain stops with an error of one of its descriptors (R45, R187): contained in the basin that runs it and in its home. Its ticket falls,
unless a STATE_CHUNK is still in flight, whose completion releases it (R111). -/
def stopChain (b : Fin 32) (k : Fin 16) (job seq : Nat) (e : Stop) (c : Chip) : Chip :=
  match c.basins[b].chains[k] with
  | none => c
  | some ch =>
    let c := setChain b k (some { ch with stopped := true, acc := none }) c
    let c := modBasin b (fun s => { s with drain := s.drain.filter (· != k) }) c
    let c := basinError b job seq { e with step := ch.item.stepTag.toNat } c
    let c := if ch.place = .home then c
      else if ch.homePkg = c.power.pkgId then modBasin ch.home (fun s => { s with stopped := insertNat job s.stopped }) c
      else sendConfirmed [ch.homePkg.toNat] (.returned ch.home ch.item [] true) c
    freeStopped b k (if ch.flight.any (fun f => fld (f.w.getD 0 0) 0 8 == 0x40) then c else releaseTicket b k c)

/-- A copy leaves the copy engine that held it (R243). -/
def leaveEngine (b : Fin 32) (k : Fin 16) (id : Nat) (c : Chip) : Chip :=
  modBasin b (fun s => { s with engine := s.engine.filter (· != .copy k id) }) c

/-- A descriptor in flight stops: what it holds is released, and its chain stops. -/
def stopFlight (b : Fin 32) (k : Fin 16) (f : Flight) (e : Stop) (c : Chip) : Chip :=
  let c := modChain b k (fun ch => { ch with flight := ch.flight.filter (fun x => x.id != f.id) }) (leaveEngine b k f.id c)
  stopChain b k f.job (fld (f.w.getD 0 0) 48 16) e (forgetFlight b k f.id (releaseFlight b (stepOf c b k) f c))

/-! ### Who waits for a record (R252, R260) -/

/-- The key of the hold of a chain's MOVE_UP copies of a record, and that of a chain whose run-ahead copies are not whole. -/
def copyHold (k : Fin 16) (n : Nat) : Nat := 0x1000000 * (k.val + 1) + n
def chainHold (k : Fin 16) : Nat := 0x20000000 + k.val

/-- A copy of a chain no longer waits for its record. -/
def wakeCopy (b : Fin 32) (k : Fin 16) (n : Nat) (c : Chip) : Chip :=
  match c.basins[b].chains[k] with
  | none => c
  | some ch =>
    let c := setChain b k (some { ch with flight := ch.flight.map (fun f => if f.wait == .move n then { f with wait := .none } else f) }) c
    endHolds b (fun h => h.chain == copyHold k n) c

/-- A copy of a chain stops with an error (R252): its hold ends, and the chain stops with it. -/
def failCopy (b : Fin 32) (k : Fin 16) (n : Nat) (e : Stop) (c : Chip) : Chip :=
  match (c.basins[b].chains[k]).bind (fun ch => ch.flight.find? (fun f => f.wait == .move n)) with
  | none => c
  | some f => stopFlight b k f e (endHolds b (fun h => h.chain == copyHold k n) c)

/-- Who waits for a record is answered: with no error, or with one (R252). -/
def answerWaiters (n : Nat) (e : Option Stop) (c : Chip) : Chip :=
  match tabFind c.recs n with
  | none => c
  | some r =>
    let c := modRec n (fun r => { r with waiters := [] }) c
    r.waiters.foldl (fun c w =>
      match w, e with
      | .block a, none => endRequest a r.job 0 0 c
      | .block a, some x => failBlock a x.code 0 c
      | .copy b k, none => wakeCopy b k n c
      | .copy b k, some x => failCopy b k n { x with unit := copyUnit, told := true } c
      | .sequencer, _ => c) c

/-- A move stops (R252): the error against the job whose request started it, and the same error for all who wait. -/
def moveFails (n : Nat) (e : Stop) (c : Chip) : Chip := answerWaiters n (some e) (markFailed n e c)

/-- The copies of claims on a record of which it is no longer true that the record is still ABSENT: what they moved is not its data (R253, log
entry 170). -/
def staleClaims (n : Nat) (c : Chip) : Chip :=
  let f := fun (xs : List RunCopy) => xs.map (fun x => if x.claim = some n then { x with moved := true, writes := [], stale := true } else x)
  modBasins (fun _ s => { s with queue := s.queue.map (fun q => { q with ahead := q.ahead.map f }),
                                 chains := s.chains.map (fun o => o.map (fun ch => { ch with ahead := f ch.ahead })) }) c

/-- A record becomes RESIDENT (R252): who waits is answered, and a pending eviction is carried out if nothing holds it back. -/
def becomeResident (n : Nat) (c : Chip) : Chip :=
  match tabFind c.recs n with
  | none => c
  | some r => settle n (answerWaiters n none (modRec n (fun r => { r with state := .resident }) (leaveMove n r.up (staleClaims n c))))

/-- Does a run-ahead copy still wait for the data of record `n`. -/
def waitsClaim (n : Nat) (x : RunCopy) : Bool := x.claim == some n && !x.moved

/-- The key of a queued item's hold. -/
def itemHold (q : QItem) (h : Hold) : Bool := h.chain == q.item.chain.toNat && h.job == q.item.job.toNat

/-- The cause of the leg that has just ended (R260). From another package the last leg is the copy, or the decoding of its link blocks where the
far hub codes them: which of the two is not known here, and a free value tells (log entry 1). -/
def lastLeg (c : Chip) (r : Rec) : Nat × Chip :=
  if causeOf c r = 2 then (2 + (drawNat c 2).1, (drawNat c 2).2) else (causeOf c r, c)

/-- The last leg of a record's data has arrived: the holds that waited for it take their cause from it (R260). -/
def legDone (n : Nat) (c : Chip) : Chip :=
  match tabFind c.recs n with
  | none => c
  | some r =>
    let (cause, c) := lastLeg c r
    modBasins (fun b s => { s with holds := s.holds.map (fun h =>
      if s.queue.any (fun q => itemHold q h && ((q.ahead.getD []).any (waitsClaim n) || sram c b q.item.obj.toNat == r.up)) ||
          (chainsOf s).any (fun p => (h.chain == chainHold p.1 && p.2.ahead.any (waitsClaim n)) || h.chain == copyHold p.1 n) then { h with cause := cause } else h) }) c

/-- The basins, jobs and STEP_TAGs of the queued items whose run-ahead copies claim a record and still wait for its data. -/
def claimants (c : Chip) (n : Nat) : List (Fin 32 × Nat × Nat) :=
  (List.finRange 32).flatMap (fun b => (c.basins[b].queue.filter (fun q => (q.ahead.getD []).any (waitsClaim n))).map
    (fun q => (b, q.item.job.toNat, q.item.stepTag.toNat)))

/-- The chains that wait so: items stolen in place before their run-ahead copies were whole. -/
def claimChains (c : Chip) (n : Nat) : List (Fin 32 × Fin 16 × Nat) :=
  (List.finRange 32).flatMap (fun b => ((chainsOf c.basins[b]).filter (fun p => p.2.ahead.any (waitsClaim n))).map
    (fun p => (b, p.1, p.2.item.job.toNat)))

/-- Does a claim on a record still wait for its data. -/
def claimOpen (c : Chip) (n : Nat) : Bool := claimants c n != [] || claimChains c n != []

/-- A claim's copy stops: the run-ahead chains stop with it, and the UP requests that waited on it (R189, R252). The detection makes one
report, with the first of them (R423). -/
def claimFails (n : Nat) (e : Stop) (c : Chip) : Chip :=
  let who := claimants c n
  let chains := claimChains c n
  let tell := fun (i : Nat) => { e with told := decide (0 < i) }
  let c := ((List.range who.length).zip who).foldl (fun c p => basinError p.2.1 p.2.2.1 0 { tell p.1 with step := p.2.2.2 } c) c
  let c := ((List.range chains.length).zip chains).foldl (fun c p => stopChain p.2.1 p.2.2.1 p.2.2.2 0 (tell (who.length + p.1)) c) c
  answerWaiters n (some e) c

/-- A transaction of a move, or of the copy of a claim, with another package failed (R252, R314). -/
def moveFailed (n : Nat) (e : Stop) (c : Chip) : Chip :=
  let c := { c with fab := { c.fab with txns := c.fab.txns.filter (fun t => t.who != .move n) } }
  match tabFind c.recs n with
  | none => c
  | some r =>
    if r.moveFailed then c
    else if r.state = .movingUp ∨ r.state = .movingDown then moveFails n e c
    else if r.state = .absent ∧ (claimOpen c n ∨ r.waiters ≠ []) then claimFails n e c
    else c

/-- A run-ahead copy takes the bytes that a transaction brings from a system address; with the last of them it is whole (R190). -/
def RunCopy.take (tag a : Nat) (bs : List Byte) (x : RunCopy) : RunCopy :=
  if !x.tags.contains tag then x
  else
    let left := x.tags.filter (· != tag)
    let got := memWriteN x.got a bs
    if left ≠ [] then { x with tags := left, got := got }
    else { x with tags := [], got := [], moved := true, writes := x.rows.map (fun r => (r.2.1, memReadN got r.1 r.2.2)) }

/-- A transaction of a run-ahead copy is answered (R190). -/
def aheadAnswered (tag a : Nat) (bs : List Byte) (c : Chip) : Chip :=
  let f := fun (xs : List RunCopy) => xs.map (RunCopy.take tag a bs)
  modBasins (fun _ s => { s with queue := s.queue.map (fun q => { q with ahead := q.ahead.map f }),
                                 chains := s.chains.map (fun o => o.map (fun ch => { ch with ahead := f ch.ahead })) }) c

/-! ### Jets -/

/-- The jets that GANG and TARGET name. -/
def jetsNamed (gang t : Nat) : List Nat :=
  match gang with
  | 0 => [t]
  | 1 => span (4 * t) 4
  | _ => List.range 16

/-- Jets that a descriptor in flight occupies, or that hold accumulators (R36) of a chain other than `k`. -/
def jetsTaken (s : Basin) (k : Option (Fin 16)) : List Nat :=
  (chainsOf s).flatMap (fun p =>
    p.2.flight.flatMap (·.jets) ++ (if some p.1 = k then [] else (p.2.acc.map (·.jets)).getD []))

/-- The jets for a descriptor: those where its chain holds accumulators, those that it names, or the lowest free ones (R34, R36). -/
def pickJets (s : Basin) (k : Fin 16) (held : Option Acc) (d : Desc) : Option (List Nat) :=
  let taken := jetsTaken s (some k)
  let free := fun (js : List Nat) => js.all (fun j => !taken.contains j)
  match held with
  | some a => if free a.jets then some a.jets else none
  | none =>
    let any := if d.gang = 0 then 16 else if d.gang = 1 then 4 else 1
    if d.target < any then (if free (jetsNamed d.gang d.target) then some (jetsNamed d.gang d.target) else none)
    else ((List.range any).map (jetsNamed d.gang)).find? free

/-- Does a descriptor use the jets (R42). -/
def usesJets (d : Desc) : Bool :=
  d.opcode == 0x01 || d.opcode == 0x30 || d.opcode == 0x32 || (d.opcode == 0x40 && d.b 5 32)

/-! ### Conditions of issue -/

/-- May the basin issue anything for the chain now (R37, R59, R60, R61, R398). A chain whose migration still copies does not issue (R185). -/
def mayIssue (c : Chip) (b : Fin 32) (ch : Chain) : Bool :=
  let s := c.basins[b]
  enabled c b && modeOf c == 0 && !s.freqPend && !s.hold && !ch.stopped && !ch.lastIssued && !ch.flight.any (fun f => f.w == [])

/-- The previous descriptor of the chain has completed, or the head overlaps it (R37). -/
def orderOk (ch : Chain) (d : Desc) : Bool := d.overlap || !ch.flight.any (fun f => f.id + 1 == ch.nextId)

/-- The event counter that the head waits on has reached its value (R39, R186). -/
def waitOk (c : Chip) (m : Fin 32) (d : Desc) : Bool :=
  !d.waitEn || decide ((tabGet 0 c.basins[m].ctr d.waitCtr + 65536 - d.waitVal) % 65536 < 32768)

/-- The words of a descriptor, without a check of their ECC. -/
def peekDesc (c : Chip) (m : Fin 32) (pc : Nat) : Desc :=
  { w := (List.range 8).map (fun i => leNat (memReadN c.mem (sram c m pc + 8 * i) 8)) }

/-- Would the head of another chain, an ATTN_PARTIAL that waits only for its jets, go first (R137). -/
def partialFirst (c : Chip) (b : Fin 32) (k : Fin 16) (ch : Chain) (d : Desc) : Bool :=
  let low := bit (getReg c rAtCfg) 2
  let rank := fun (x : Chain) (e : Desc) => (if low then e.f 3 50 5 else 31 - e.f 3 50 5, x.stamp)
  (chainsOf c.basins[b]).any (fun p =>
    let e := peekDesc c (ctxOf b p.1 p.2).m p.2.pc
    p.1 != k && e.opcode == 0x30 && mayIssue c b p.2 && (p.2.begun || p.2.ahead.all (·.moved)) && orderOk p.2 e && !jobBlocked c b e.job && (checkDesc c p.2.acc e).isNone &&
    waitOk c (ctxOf b p.1 p.2).m e && e.gang == d.gang && (pickJets c.basins[b] p.1 p.2.acc e).isSome &&
    (decide ((rank p.2 e).1 < (rank ch d).1) || ((rank p.2 e).1 == (rank ch d).1 && decide ((rank p.2 e).2 < (rank ch d).2))))

/-- The jets for the head, where it may issue to them now (R34 to R36): none where it must wait. A descriptor of another ganging
mode joins those that wait for the change, and while any waits no descriptor with fresh accumulators issues. -/
def grantJets (c : Chip) (b : Fin 32) (k : Fin 16) (ch : Chain) (d : Desc) : Option (List Nat) × Chip :=
  let s := c.basins[b]
  if !usesJets d then (some [], c)
  else if d.gang ≠ s.gang then
    (none, if s.drain.contains k then c else modBasin b (fun s => { s with drain := s.drain ++ [k] }) c)
  else if s.drain ≠ [] ∧ d.accClear then (none, c)
  else if d.opcode = 0x30 ∧ partialFirst c b k ch d then (none, c)
  else (pickJets s k ch.acc d, c)

/-! ### Run-ahead taking effect (R190, R253) -/

/-- A claim takes effect as its item issues its first descriptor, if the record is still ABSENT. -/
def claimIssue (n : Nat) (stale : Bool) (writes : List (Nat × List Byte)) (c : Chip) : Chip :=
  match tabFind c.recs n with
  | none => c
  | some r =>
    if r.state = .absent ∧ !stale then
      let c := writes.foldl (fun c w => putMem c w.1 w.2) c
      let c := clearDirty r.up (r.len64 * 64) c
      becomeResident n (modRec n (fun r => { r with claims := 0 }) c)
    else modRec n (fun r => { r with claims := r.claims - 1 }) c

/-- What the run-ahead chain of an item did takes effect. -/
def applyAhead (xs : List RunCopy) (c : Chip) : Chip :=
  xs.foldl (fun c x =>
    let c := match x.pin with | some n => modRec n (fun r => { r with pins := min 65535 (r.pins + 1) }) c | none => c
    match x.claim with
    | some n => claimIssue n x.stale x.writes c
    | none => x.writes.foldl (fun c w => putMem c w.1 w.2) c) c

/-! ### Issue -/

/-- The fetch of a descriptor (R46). -/
def fetchDesc (c : Chip) (m : Fin 32) (pc : Nat) : Eff Desc := do
  let ws ← readWords 0x34 (sram c m pc) 8
  pure { w := ws }

/-- A descriptor is rejected at issue (R45). -/
def rejectHead (b : Fin 32) (k : Fin 16) (d : Desc) (code : Nat) (c : Chip) : Chip :=
  stopChain b k d.job d.seq { code := code, unit := 0x34 } (bump c (rBasinCtr b.val 4))

/-- A descriptor of a migrated chain that may not run there (R186, R217). -/
def migratedBad (ch : Chain) (d : Desc) : Option Nat :=
  if ch.place ≠ .migrated then none
  else if d.waitEn then some eItemWait
  else if (d.opcode = 0x01 ∧ (d.b 1 23 ∨ d.b 2 23)) ∨ (d.opcode = 0x40 ∧ d.b 2 23) ∨ d.opcode = 0x22 then some eCxRemote
  else none

/-- The descriptor leaves the head of its chain and is in flight. -/
def launch (b : Fin 32) (k : Fin 16) (ch : Chain) (d : Desc) (jets : List Nat) (c : Chip) : Chip :=
  let c := setChain b k (some { ch with pc := ch.pc + 64, begun := true, lastIssued := d.last, nextId := ch.nextId + 1, ahead := [],
                                        flight := ch.flight ++ [{ id := ch.nextId, w := d.w, job := d.job, jets := jets }] }) c
  stampHead b k c

/-- The cause of a wait for run-ahead copies (R260): the leg of a claim's record, or the fabric for a copy from another package. -/
def aheadCause (c : Chip) (xs : List RunCopy) : Nat :=
  xs.foldl (fun k x => max k (match x.claim.bind (tabFind c.recs) with | some r => causeOf c r | none => if x.rows = [] then 0 else 2)) 0

/-- A chain whose run-ahead copies are not whole is held at issue (R190, R260): its hold begins once. -/
def holdChain (b : Fin 32) (k : Fin 16) (ch : Chain) (c : Chip) : Chip :=
  if c.basins[b].holds.any (fun h => h.chain == chainHold k) then c
  else
    let cause := aheadCause c (ch.ahead.filter (fun x => !x.moved))
    beginHold b ch.item.job.toNat (chainHold k) cause c

/-- The descriptor of a number stops, if it is in flight. -/
def stopNumber (b : Fin 32) (k : Fin 16) (id : Nat) (e : Stop) (c : Chip) : Chip :=
  match (c.basins[b].chains[k]).bind (fun x => x.flight.find? (fun f => f.id == id)) with
  | some f => stopFlight b k f e c
  | none => c

/-- A flight waits for more transactions. -/
def awaitTags (ts : List Nat) (f : Flight) : Flight :=
  { f with wait := match f.wait with | .tags old => .tags (old ++ ts) | _ => .tags ts }

/-- What a descriptor holds at other places already as it waits stays taken, though its body has done nothing yet: the pins that it has on
roots of this package (R152), and BUSY of its objects (R248). `d` is the package as the body left it. -/
def keepHeld (b : Fin 32) (k : Fin 16) (id : Nat) (d c : Chip) : Chip :=
  let flight := fun (p : Chip) => (p.basins[b].chains[k]).bind (fun ch => ch.flight.find? (fun f => f.id == id))
  match flight d, flight c with
  | some g, some f =>
    let own := fun (p : PinRef) => pkgOf p.root == pkg c
    let c := ((g.pins.drop f.pins.length).filter own).foldl (fun c p =>
      let a := pinsAddr p.root p.slot
      putSub c a (leBytes 4 (leNat (memReadN c.mem a 4) + 1))) c
    let c := (g.busy.drop f.busy.length).foldl (fun c n => addBusy n true c) c
    modFlightOf b k id (fun f => { f with pins := g.pins, busy := g.busy }) { c with fab := d.fab }
  | _, _ => { c with fab := d.fab }

/-- The body of a descriptor in flight runs, or runs again with the answers of other packages. What it asks of them is sent; while it waits
for them it has had no effect but what `keepHeld` says, and the descriptor completes only once all it asked is done (R314). A package that
cannot be reached stops it, as an error of its own does. -/
def runFlight (b : Fin 32) (k : Fin 16) (id : Nat) (home : Fin 32) (body : Eff Unit) (c : Chip) : Chip :=
  let who : Requester := .walk b k id
  let m := basinMaster home
  match runEff body (beginFar who c) with
  | (d, .ok _) =>
    let r := flushFar m who d
    match r.1.2 with
    | some a => stopNumber b k id { code := eFabFenced, unit := kvUnit, addr := a } r.2
    | none => if r.1.1 = [] then r.2 else modFlightOf b k id (awaitTags r.1.1) r.2
  | (d, .error e) =>
    if e.code ≠ 0 then stopNumber b k id e (flushFar m who (keepWrites d)).2
    else
      let r := flushFar m who (keepHeld b k id d c)
      match r.1.2 with
      | some a => stopNumber b k id { code := eFabFenced, unit := kvUnit, addr := a } r.2
      | none => modFlightOf b k id (fun f => { awaitTags r.1.1 f with again := true }) r.2

/-- A descriptor issues with its jets, and its body runs. -/
def runHead (b : Fin 32) (k : Fin 16) (ch : Chain) (d : Desc) (jets : List Nat) (body : Ctx → Desc → Eff Unit) (c : Chip) : Chip :=
  let c := if ch.begun then c else applyAhead ch.ahead (endHolds b (fun h => h.chain == chainHold k) c)
  runFlight b k ch.nextId ch.home (body { ctxOf b k ch with id := ch.nextId } d) (launch b k ch d jets c)

/-- Issue of the head descriptor of a chain, if it is the command `want` and may issue: otherwise the package stays as it is, but
for the place in the queue of a mode change. A descriptor that no command of the table names is rejected by whichever asks. -/
def issue (b : Fin 32) (k : Fin 16) (want : RowId → Bool) (body : Ctx → Desc → Eff Unit) (c : Chip) : Chip :=
  match c.basins[b].chains[k] with
  | none => c
  | some ch =>
    let x := ctxOf b k ch
    if !mayIssue c b ch then c
    else if !ch.begun && !ch.ahead.all (·.moved) then holdChain b k ch c
    else if past ch.pc 64 then
      (if ch.flight.any (fun f => f.id + 1 == ch.nextId) then c
       else stopChain b k ch.item.job.toNat 0 { code := eDescRange, unit := 0x34, addr := ch.pc } (bump c (rBasinCtr b.val 4)))
    else
      match runEff (fetchDesc c x.m ch.pc) c with
      | (c', .error e) =>
        if ch.flight.any (fun f => f.id + 1 == ch.nextId) then c else stopChain b k ch.item.job.toNat 0 e c'
      | (c', .ok d) =>
        if (match rowOf d with | some r => !want r | none => false) then c
        else if !orderOk ch d || jobBlocked c b d.job then c
        else
          match checkDesc c ch.acc d with
          | some code => rejectHead b k d code c'
          | none =>
            match migratedBad ch d with
            | some code => stopChain b k d.job d.seq { code := code, unit := if code = eCxRemote then 0x35 else 0x34 } c'
            | none =>
              if !waitOk c x.m d then c
              else
                match grantJets c' b k ch d with
                | (none, c') => c'
                | (some js, c') => runHead b k ch d js body c'

/-- A vector, copy or other unit's stop names its unit where the stop does not. -/
def withUnit (u : Nat) (m : Eff Unit) : Eff Unit := fun c =>
  match m c with
  | .error e d => .error (if e.unit = 0 then { e with unit := u } else e) d
  | r => r

/-- A range is left undefined when a step stops, and what stopped it goes on. -/
def undefineOnStop {α : Type} (ranges : List (Nat × Nat)) (m : Eff α) : Eff α := fun c =>
  match m c with
  | .error e d => .error e (ranges.foldl (fun d r => undefine d r.1 r.2) d)
  | r => r

/-- A command that changes the package alone. -/
def onChip (f : Chip → Chip) (s : State) : Host.Outcome State Fault Refusal := .next { s with chip := f s.chip }

/-- The package of a state, without its queue. -/
def State.dev (s : State) : Dev := { chip := s.chip, sec := s.sec, fe := s.fe, net := s.net }

/-- A command that acts on the whole package. -/
def onDev (f : Dev → Dev) (s : State) : Host.Outcome State Fault Refusal :=
  let d := f s.dev
  .next { s with chip := d.chip, sec := d.sec, fe := d.fe, net := d.net }

/-- What acts on the chip alone, as an act on the package. -/
def Dev.chipDo (f : Chip → Chip) (d : Dev) : Dev := { d with chip := f d.chip }

/-- NOP waits and signals only (R477). -/
def bodyNop (_ : Ctx) (_ : Desc) : Eff Unit := pure ()

/-- NOP. -/
def execNop (b : Fin 32) (c : Fin 16) (s : State) : Host.Outcome State Fault Refusal :=
  onChip (issue b c (fun r => r == .nop) bodyNop) s

end Sys2Proof.Machine
end

