-- ==== Sys2Proof/Machine/Sluice.lean ====
section
/-! DEFINITION. The sluice (R209 to R217): the checks of a block, and reading a raw or coded operand as its raw image. -/

namespace Sys2Proof.Machine

/-! ### Reading a coded operand -/

/-- How far a coded operand has been read: where its next block starts, that block's number, the blocks decoded, and where each block
started. -/
structure Coded where
  base : Nat
  pos : Nat
  next : Nat := 0
  done : Tab (List Byte) := []
  starts : Tab Nat := []
  deriving DecidableEq, Repr

/-- Where an operand is read: its SRAM (system address of offset 0), the basin, chain and descriptor that read it, the basin whose slots they
use (R217), and whether it is reached over the crossbar. -/
structure Port where
  sram : Nat
  basin : Fin 32
  k : Fin 16
  slots : Fin 32
  crossbar : Bool := false
  id : Nat := 0

/-- The port of a descriptor. -/
def portOf (c : Chip) (x : Ctx) : Port := { sram := sram c x.m 0, basin := x.b, k := x.k, slots := x.m, crossbar := x.crossbar, id := x.id }

/-- A CODED block has been decoded (R212, R214, R217): the counters, DECODING of its slot until the descriptor completes, and the crossbar
fetch of the home's table where the last block decoded named another. -/
def noteCoded (p : Port) (slot gen dcyc : Nat) (c : Chip) : Chip :=
  let c := bumpUnits (bump c (rCxCtr p.basin.val 1)) (rCxCtr p.basin.val 0) 256 (dcyc - 64)
  let c := if p.crossbar && c.basins[p.basin].decoded != some (p.slots, slot, gen) then bumpUnits c (rWqCtr p.basin.val 3) 256 24 else c
  let c := modBasin p.basin (fun s => { s with decoded := some (p.slots, slot, gen) }) c
  modFlightOf p.basin p.k p.id (fun f => { f with decode := insertNat slot f.decode }) c

/-- Check 2 of R209 fails. -/
def headerBad (ws : List Nat) : Bool :=
  let mode := hdr ws 0 0 2
  let clen := hdr ws 0 24 13
  let ls := lenj ws
  let rsv := hdr ws 0 6 2 != 0 || hdr ws 0 20 4 != 0 || hdr ws 0 37 3 != 0 || ws.getD 3 0 != 0
  rsv || (match mode with
    | 0 => clen != 4096 || hdr ws 0 2 4 != 0 || hdr ws 0 8 8 != 0 || hdr ws 0 40 8 != 0 || ls.any (· != 0)
    | 1 => ls.any (fun n => decide (n < 8 ∨ 96 < n)) || clen != 4 * ls.sum || decide (3840 ≤ storedSize clen) ||
           decide (hdr ws 0 40 8 < 64 ∨ 128 < hdr ws 0 40 8)
    | _ => true)

/-- The next block of a coded operand is checked and decoded (R209, R210); `tag` is the SC_TAG it must carry, if any. -/
def nextBlock (p : Port) (tag : Option Nat) (x : Coded) : Eff Coded := do
  stopIf (past x.pos 32) eDescRange 0x35 x.pos
  let ws ← readWords 0x35 (p.sram + x.pos) 4
  let clen := hdr ws 0 24 13
  stopIf (past x.pos (storedSize clen)) eDescRange 0x35 x.pos
  stopIf (headerBad ws) eSluiceHdr 0x35 x.pos
  let c ← get
  let slot := hdr ws 0 2 4
  let gen := hdr ws 0 8 8
  let coded := decide (hdr ws 0 0 2 = 1)
  let t := c.basins[p.slots].slots[slot % 16]'(Nat.mod_lt _ (by decide))
  stopIf (coded && (t.state != .ready || t.gen != gen)) eSluiceGen 0x35 x.pos
  stopIf (match tag with | some k => hdr ws 0 16 4 != k | none => false) eScaleSkew 0x35 x.pos
  let payload ← readMem 0x35 (p.sram + x.pos + 32) clen
  stopIf (crc16 payload != hdr ws 0 48 16) eSluiceCrc 0x35 x.pos
  let raw ← (if coded then
      match decodeSubs t.lens (lenj ws) payload with
      | some (r, cyc) => do stopIf (cyc != hdr ws 0 40 8) eSluiceLen 0x35 x.pos; pure r
      | none => stopWith eSluiceLen 0x35 x.pos
    else pure payload)
  change (fun c => if coded then noteCoded p slot gen (hdr ws 0 40 8) c else bump c (rCxCtr p.basin.val 2))
  pure { x with pos := x.pos + storedSize clen, next := x.next + 1, done := tabSet x.done x.next raw, starts := tabSet x.starts x.next x.pos }

/-- Blocks are decoded in order until `n` of them are. -/
def decodeTo (p : Port) (tags : Nat → Option Nat) : Nat → Nat → Coded → Eff Coded
  | 0, _, x => pure x
  | fuel + 1, n, x => if n ≤ x.next then pure x else do
    let y ← nextBlock p (tags x.next) x
    decodeTo p tags fuel n y

/-- An operand: raw at an offset, or coded. -/
inductive Src where
  | raw (off : Nat)
  | coded (x : Coded)
  deriving DecidableEq, Repr

/-- The operand that a base and its CODED bit name. -/
def srcOf (base : Nat) (coded : Bool) : Src := if coded then .coded { base := base, pos := base } else .raw base

/-- The operand read again from its start (R212). -/
def Src.rewind : Src → Src
  | .raw o => .raw o
  | .coded x => .coded { base := x.base, pos := x.base }

/-- The operand read on from raw byte `o`, for a further row block: a block that was decoded for rows before it is decoded again (R212). -/
def Src.seek (o : Nat) : Src → Src
  | .raw b => .raw b
  | .coded x =>
    let i := o / 4096
    if i < x.next then .coded { x with pos := tabGet x.base x.starts i, next := i, done := [] } else .coded x

/-- Bytes `o` to `o + n - 1` of the raw image of an operand. -/
def readSrc (p : Port) (unit : Nat) (tags : Nat → Option Nat) (s : Src) (o n : Nat) : Eff (List Byte × Src) :=
  match s with
  | .raw base => do
    let bs ← readMem unit (p.sram + base + o) n
    pure (bs, .raw base)
  | .coded x => do
    let last := ceilDiv (o + n) 4096
    let y ← decodeTo p tags (last + 1) last x
    let bs := (span (o / 4096) (last - o / 4096)).flatMap (fun i => tabGet [] y.done i)
    pure (((bs.drop (o % 4096)).take n), .coded y)

end Sys2Proof.Machine
end

