-- ==== Sys2Proof/Machine/Jets.lean ====
section
/-! DEFINITION. The jets: products of activation rows with weight tiles in the hardware's order (R31 to R33, R47, R478), exact and
fixed-order accumulation with block scales (R74, R75, R81 to R83), the drain with its rescale and conversion (R76, R85 to R88),
held accumulators (R36), adapters (R227 to R229), and appends of latents (R157 to R165). -/

namespace Sys2Proof.Machine

/-- An accumulator: an integer with the E_ref of the scaled form (R83), or FP32. -/
inductive Cell where
  | int (a : Int) (eref : Option Int)
  | flt (v : Val)
  deriving DecidableEq, Repr

/-- A product of rows with a weight operand: the formats, shape, mode, form, the scale streams by system address, the jets that form it, as
FAIL_UNIT numbers them, and the number of its row 0 among the rows that are checked (R57). -/
structure Prod where
  aFmt : Fmt
  wFmt : Fmt
  gang : Nat
  m : Nat
  k : Nat
  n : Nat
  pitch : Nat := 0
  acc48 : Bool := false
  scaled : Bool := false
  aSc : Option Nat := none
  wSc : Option Nat := none
  unit : Nat := 0x21
  units : List Nat := []
  row0 : Nat := 0
  deriving DecidableEq, Repr

/-- Is the product of the integer class. -/
def Prod.isInt (p : Prod) : Bool := intPair p.aFmt p.wFmt

/-- The units whose checks a product meets block by block: the scale unit and the jets where a scale stream is enabled (R84), the jets of a
float pair in each cycle (R57); an integer pair without scales is checked at its drain alone. -/
def Prod.blockUnits (p : Prod) : List Nat :=
  if p.aSc.isSome || p.wSc.isSome then 0x36 :: p.units else if p.isInt then [] else p.units

/-- The check of a row of an integer pair at its drain, before it is written (R57). -/
def drainCheck (b : Fin 32) (p : Prod) (row : Nat) : Eff Unit := if p.isInt then residueCheck b p.units (p.row0 + row) else pure ()

/-- An accumulator cleared. -/
def Prod.clear (p : Prod) : Cell := if p.isInt then .int 0 none else .flt Val.zero

/-- The blocks of a scale stream row along the reduction. -/
def Prod.blocks (p : Prod) : Nat := ceilDiv p.k 32

/-- One block of up to 32 reduction elements enters an accumulator (R74, R75, R82, R83): whether it saturated. DESIGN CHOICE (log entry
140), unsafe: an INT48 accumulator in plain form that a long chain drives past its width is held at its end and counts, as R74 states for
scaled terms; the spec says only how many products it takes before it can overflow. -/
def addBlock (p : Prod) (sa sw : Sc16) (as ws : List Nat) (x : Cell) : Cell × Bool :=
  let cm := sa.mant * sw.mant
  let eb := sa.exp + sw.exp
  match x with
  | .int a e =>
    let s : Int := ((as.zip ws).map (fun q => intOf p.aFmt q.1 * intOf p.wFmt q.2)).sum
    let w := if p.acc48 then 48 else 32
    if p.scaled then
      let r := e.getD eb
      let t := shiftRound (s * (cm : Int)) (eb - r)
      let (t, s1) := if 0 < eb - r then clampInt w t else (t, false)
      let (v, s2) := clampInt w (a + t)
      (.int v (some r), s1 || s2)
    else
      let (v, s2) := clampInt w (a + s)
      (.int v e, s2)
  | .flt v =>
    if cm = 0 then (.flt (fAdd v Val.zero), false)
    else
      let s := sumVals ((as.zip ws).map (fun q => (valOf p.aFmt q.1).mul (valOf p.wFmt q.2)))
      (.flt (fAdd v (toF32 (s.mul (.fin false cm (eb - 14))))), false)

/-- A run of blocks enters an accumulator. -/
def addBlocks (p : Prod) : List Sc16 → List Sc16 → List (List Nat) → List (List Nat) → Cell × Bool → Cell × Bool
  | sa :: sas, sw :: sws, a :: as, w :: ws, (x, s) =>
    let (y, t) := addBlock p sa sw a w x
    addBlocks p sas sws as ws (y, s || t)
  | _, _, _, _, r => r

/-- A row meets the columns of a tile. -/
def rowTile (p : Prod) (sas : List Sc16) (as : List Nat) (cols : List (List Sc16 × List Nat)) (cells : List Cell) : List Cell × Bool :=
  let ab := chunks 32 as.length as
  let rs := (cols.zip cells).map (fun q => addBlocks p sas q.1.1 ab (chunks 32 q.1.2.length q.1.2) (q.2, false))
  (rs.map (·.1), rs.any (·.2))

/-- The packet tag that block `i` of a coded activation operand must carry (R79). DESIGN CHOICE (log entry 141), unsafe: with a pitch of 0
the whole offset is the byte of row 0, where R79 divides by 0; and a block whose first element would lie beyond the last row is covered by
no packet, and its SC_TAG is not compared. -/
def aTag (p : Prod) (i : Nat) : Option Nat :=
  if p.aSc.isNone then none else
    let b := 4096 * i
    let row := b / (64 * p.pitch)
    let x := b % (64 * p.pitch)
    let gap := decide (p.aFmt.bytes p.k ≤ x)
    let r := if gap then row + 1 else row
    let e := if gap then 0 else x * 8 / p.aFmt.bits
    if p.m ≤ r then none else some ((r * ceilDiv p.blocks 8 + e / 256) % 16)

/-- The packet tag that block `i` of a coded weight operand must carry (R79). DESIGN CHOICE (log entry 141), unsafe: a block whose first
element lies in the padding columns beyond N is covered by no packet, and its SC_TAG is not compared. -/
def wTag (p : Prod) (i : Nat) : Option Nat :=
  if p.wSc.isNone then none else
    let (kt, nt) := tileOf p.wFmt p.gang
    let e := 4096 * i * 8 / p.wFmt.bits
    let t := e / (kt * nt)
    let o := e % (kt * nt)
    let kn := ceilDiv p.k kt
    let k := t % kn * kt + o / nt
    let n := t / kn * nt + o % nt
    let pk := ceilDiv p.blocks 8
    if p.n ≤ n then none else some ((n * pk + (if p.k ≤ k then pk - 1 else k / 256)) % 16)

/-- The columns of weight tile (i, j): the scales of each column's blocks, checked first, and the codes (R31, R47, R478). -/
def loadTile (p : Prod) (pt : Port) (w : Src) (i j : Nat) : Eff (List (List Sc16 × List Nat) × Src) := do
  let (kt, nt) := tileOf p.wFmt p.gang
  let nc := min nt (p.n - j * nt)
  let kc := min kt (p.k - i * kt)
  let scs ← (List.range nc).mapM (fun x =>
    scalesOf p.wSc.isSome (p.wSc.getD 0) p.blocks (j * nt + x) (i * kt / 32) (ceilDiv (i * kt + kc) 32))
  let size := p.wFmt.bytes (kt * nt)
  let (bs, w') ← readSrc pt p.unit (wTag p) w ((j * ceilDiv p.k kt + i) * size) size
  let cols := (List.range nc).map (fun x => (List.range kc).map (fun y => element p.wFmt bs (y * nt + x)))
  pure (scs.zip cols, w')

/-- Elements `k0` to `k0 + kc - 1` of row `r` of the activation operand, with their scales. -/
def loadRow (p : Prod) (pt : Port) (a : Src) (r k0 kc : Nat) : Eff (List Sc16 × List Nat × Src) := do
  let sc ← scalesOf p.aSc.isSome (p.aSc.getD 0) p.blocks r (k0 / 32) (ceilDiv (k0 + kc) 32)
  let (bs, a') ← readSrc pt p.unit (aTag p) a (r * p.pitch * 64 + p.aFmt.bytes k0) (p.aFmt.bytes kc)
  pure (sc, (List.range kc).map (element p.aFmt bs), a')

/-! ### The loop over rows and tiles -/

/-- What the loop carries: how far each operand is read, the accumulators of the row block and column tile at hand by row, and the rows in
which an accumulator saturated. -/
structure JetSt where
  a : Src
  w : Src
  cells : Tab (List Cell) := []
  sats : List Nat := []

/-- A tile's rows pass through the array: `rows` of them, each from the operand or from rows held in the output buffers, and `done` takes
each row's accumulators as they are complete. Its blocks are checked as they are multiplied (R57, R84). A row whose
accumulators pass their width counts once (R74). -/
def passTile (p : Prod) (pt : Port) (held : Option (Tab (List Nat))) (cols : List (List Sc16 × List Nat)) (k0 kc : Nat)
    (done : Nat → List Cell → Eff Unit) (rows : List Nat) (s : JetSt) : Eff JetSt :=
  rows.foldlM (fun (s : JetSt) r => do
    let (sc, as, a) ← (match held with
      | some t => pure (List.replicate (ceilDiv kc 32) sc16One, ((tabGet [] t r).drop k0).take kc, s.a)
      | none => loadRow p pt s.a r k0 kc)
    let (cs, sat) := rowTile p sc as cols (tabGet [] s.cells r)
    residueBlocks pt.basin p.blockUnits (p.row0 + r) (k0 / 32) (ceilDiv (k0 + kc) 32)
    change (fun c => bump c (rBasinCtr pt.basin.val 6) (b2n (sat && !s.sats.contains r)))
    done r cs
    pure { s with a := a, cells := tabSet s.cells r cs, sats := if sat then insertNat r s.sats else s.sats }) s

/-- The reduction of a product over one column tile for a list of rows; `done` runs with the last weight tile only. -/
def reduceTile (p : Prod) (pt : Port) (held : Option (Tab (List Nat))) (j : Nat) (done : Nat → List Cell → Eff Unit) (rows : List Nat)
    (s : JetSt) : Eff JetSt := do
  let kt := (tileOf p.wFmt p.gang).1
  let kn := ceilDiv p.k kt
  (List.range kn).foldlM (fun (s : JetSt) i => do
    let (cols, w) ← loadTile p pt s.w i j
    passTile p pt held cols (i * kt) (min kt (p.k - i * kt)) (if i + 1 = kn then done else fun _ _ => pure ()) rows { s with w := w }) s

/-- The row blocks of a descriptor (R33); the tiles of an adapter's factor B lengthen its reduction (R228). -/
def rowBlocks (p : Prod) (adapter : Bool) : List (List Nat) :=
  let depth := if ceilDiv p.k (tileOf p.wFmt p.gang).1 ≤ 1 && !adapter then p.m else accDepth p.gang p.acc48
  chunks depth p.m (List.range p.m)

/-! ### The drain -/

/-- The rescaled result of an integer accumulator (R76, R83). -/
def intResult (rsEn : Bool) (rs : Rescale) : Cell → Int
  | .int a e =>
    if rsEn then rescaleInt rs e a
    else match e with
      | none => a
      | some e => shiftRound a (e - 14)
  | .flt _ => 0

/-- The FP32 value of a float accumulator. -/
def fltResult : Cell → Val
  | .flt v => v
  | .int _ _ => Val.zero

/-- Where rows of results go. -/
structure OutSpec where
  fmt : Fmt
  base : Nat
  pitch : Nat
  rows : Nat
  n : Nat
  scEn : Bool
  scBase : Nat
  pred : Bool
  rsEn : Bool := false
  rs : List Rescale := []

/-- The source values of a segment of a row that begins at column c0 (R85), and how many were held at the ends of INT32 for it. -/
def sourceVals (p : Prod) (o : OutSpec) (c0 : Nat) (cells : List Cell) : List Val × Nat :=
  if p.isInt then
    let xs := (cells.zip (List.range cells.length)).map (fun q => intResult o.rsEn (o.rs.getD (c0 + q.2) (o.rs.getD 0 ⟨0, 0⟩)) q.1)
    if o.scEn && scalesOut o.fmt then
      let ys := xs.map (clampInt 32)
      (ys.map (fun y => Val.ofInt y.1), (ys.filter (·.2)).length)
    else (xs.map Val.ofInt, 0)
  else (cells.map fltResult, 0)

/-- A row segment is converted and written (R46, R85, R86, R88). -/
def writeSeg (b : Fin 32) (p : Prod) (o : OutSpec) (r c0 : Nat) (cells : List Cell) : Eff Unit := do
  let (xs, held) := sourceVals p o c0 cells
  change (fun c => bump c (rBasinCtr b.val 6) held)
  let codes ← (if o.scEn && scalesOut o.fmt then convScaled b o.fmt o.scBase o.pred o.rows (ceilDiv o.n 32) r (c0 / 32) xs
    else convPlain b o.fmt xs)
  writeMem (o.base + r * o.pitch * 64 + o.fmt.bytes c0) (packCodes o.fmt codes)

/-- A row segment converted with found scales that are not written to a stream: its codes and scales. -/
def foundSeg (b : Fin 32) (f : Fmt) (xs : List Val) : Eff (List Nat × List Sc16) := do
  if scalesOut f then do
    let rs := (chunks 32 xs.length xs).map (fun blk => let s := sc16Found f (blockMax blk); (s, blk.map (quant f s)))
    change (countConv b (rs.flatMap (·.2)))
    pure (rs.flatMap (fun q => q.2.map (·.code)), rs.map (·.1))
  else do
    let cs ← convPlain b f xs
    pure (cs, [])

/-! ### Held accumulators (R36, R83) -/

/-- The cells of held accumulators by row. -/
def cellsOf (a : Acc) : Tab (List Cell) :=
  (List.range a.m).map (fun r => (r,
    if a.isInt then ((a.ints.getD r []).zip (a.eref.getD r [])).map (fun q => Cell.int q.1 q.2)
    else (a.floats.getD r []).map Cell.flt))

/-- Accumulators held from cells by row. -/
def accOf (p : Prod) (k : Nat) (jets : List Nat) (t : Tab (List Cell)) : Acc :=
  let rows := t.map (·.2)
  { m := p.m, n := p.n, k := k, isInt := p.isInt, acc48 := p.acc48, scaled := p.scaled, gang := p.gang, jets := jets,
    ints := if p.isInt then rows.map (List.map (fun x => match x with | .int a _ => a | .flt _ => 0)) else [],
    eref := if p.isInt then rows.map (List.map (fun x => match x with | .int _ e => e | .flt _ => none)) else [],
    floats := if p.isInt then [] else rows.map (List.map fltResult) }

/-! ### Adapters (R227 to R229) -/

/-- An adapter directory entry. -/
structure Adapter where
  a : Src
  b : Src
  rho : Nat
  fmt : Fmt
  rs : Rescale
  deriving DecidableEq, Repr

/-- The adapter that a descriptor names is read and checked after issue (R229). -/
def readAdapter (x : Ctx) (d : Desc) : Eff Adapter := do
  let c ← get
  let dir := rCxAdir x.m.val
  let off := getF c dir 0 17 * 64
  stopIf (!bit (getReg c dir) 17 || past off 2048) eCxAdapter 0x35 off
  let a := off + 32 * (d.f 7 0 7 - 1)
  let ws ← readWords 0x34 (sram c x.m a) 4
  let w := fun i => ws.getD i 0
  let rho := 8 * 2 ^ fld (w 0) 48 3
  let f := fmtOf (fld (w 0) 52 4)
  stopIf (!bit (w 0) 51 || fld (w 0) 56 8 != 0 || fld (w 1) 38 26 != 0 || fld (w 2) 16 48 != 0 || w 3 != 0 ||
    decide (4 < fld (w 0) 48 3) || fld (w 2) 0 16 != d.job) eCxAdapter 0x35 a
  match f with
  | none => stopWith eCxAdapter 0x35 a
  | some g => do
    stopIf (!isPair (fmtGet d.aFmt) g) eCxAdapter 0x35 a
    let ao := fld (w 0) 0 23
    let bo := fld (w 0) 24 23
    stopIf ((!bit (w 0) 23 && past ao (weightBytes g d.gang (d.f 2 24 20) rho)) || past ao 1 ||
      (!bit (w 0) 47 && past bo (weightBytes g d.gang rho (d.f 2 44 16))) || past bo 1) eCxAdapter 0x35 a
    pure { a := srcOf ao (bit (w 0) 23), b := srcOf bo (bit (w 0) 47), rho := rho, fmt := g,
           rs := { mult := signed 32 (fld (w 1) 0 32), shift := fld (w 1) 32 6 } }

/-- The adapter's t for a list of rows (R228): codes by row, the operand, and the rows in which an accumulator has saturated. -/
def adapterT (b : Fin 32) (p : Prod) (pt : Port) (ad : Adapter) (rows : List Nat) (a : Src) (sats : List Nat) :
    Eff (Tab (List Nat) × Src × List Nat) := do
  let q : Prod := { p with wFmt := ad.fmt, n := ad.rho, wSc := none, aSc := none, scaled := false }
  let nt := (tileOf ad.fmt p.gang).2
  let r ← (List.range (ceilDiv ad.rho nt)).foldlM (fun (s : Src × Src × Tab (List Nat) × List Nat) j => do
    let nc := min nt (ad.rho - j * nt)
    let st ← reduceTile q pt none j (fun r _ => drainCheck b q r) rows
      { a := s.1, w := s.2.1, cells := rows.map (fun r => (r, List.replicate nc q.clear)), sats := s.2.2.2 }
    let t ← rows.foldlM (fun (t : Tab (List Nat)) r => do
      let cells := tabGet [] st.cells r
      let cs ← (if q.isInt then convPlain b .int8 (cells.map (fun x => Val.ofInt (intResult true ad.rs x)))
        else convPlain b p.aFmt (cells.map fltResult))
      pure (tabSet t r (tabGet [] t r ++ cs))) s.2.2.1
    pure (st.a, st.w, t, st.sats)) (a, ad.a.rewind, [], sats)
  pure (r.2.2.1, r.1, r.2.2.2)

/-! ### The jet class -/

/-- How the accumulators of a descriptor start (R40). -/
def startCells (p : Prod) (held : Option (Tab (List Cell))) (nt j nc : Nat) (rows : List Nat) : Tab (List Cell) :=
  rows.map (fun r => (r, match held with
    | some t => ((tabGet [] t r).drop (j * nt)).take nc
    | none => List.replicate nc p.clear))

/-- What a multiply carries: the operands, factor B of an adapter, the complete accumulators by row, and the rows in which one saturated. -/
structure MulSt where
  a : Src
  w : Src
  fb : Src
  out : Tab (List Cell) := []
  sats : List Nat := []

/-- A jet multiply (R33, R36, R46, R212, R228): `take` receives each row as a segment of it is complete (the row, the segment's first column,
and the row's accumulators up to the segment's end) before the next row enters. -/
def multiply (x : Ctx) (p : Prod) (a w : Src) (held : Option (Tab (List Cell))) (ad : Option Adapter)
    (take : Nat → Nat → List Cell → Eff Unit) : Eff (Tab (List Cell)) := do
  let c ← get
  let pt := portOf c x
  let nt := (tileOf p.wFmt p.gang).2
  let r ← (rowBlocks p ad.isSome).foldlM (fun (s : MulSt) rows => do
    let a := s.a.seek (rows.headD 0 * p.pitch * 64)
    let (t, a, sats) ← (match ad with
      | some e => adapterT x.b p pt e rows a s.sats
      | none => pure ([], a, s.sats))
    let s := { s with a := a, w := s.w.rewind, fb := s.fb.rewind, sats := sats }
    (List.range (ceilDiv p.n nt)).foldlM (fun (s : MulSt) j => do
      let nc := min nt (p.n - j * nt)
      let finish := fun r cs => take r (j * nt) (tabGet [] s.out r ++ cs)
      let st ← reduceTile p pt none j (if ad.isSome then fun _ _ => pure () else finish) rows
        { a := s.a, w := s.w, cells := startCells p held nt j nc rows, sats := s.sats }
      let (st, fb) ← (match ad with
        | some e => do
          let q : Prod := { p with wFmt := e.fmt, k := e.rho, aSc := none, wSc := none, aFmt := if p.isInt then .int8 else p.aFmt }
          let u ← reduceTile q pt (some t) j finish rows { st with w := s.fb }
          pure ({ u with w := st.w }, u.w)
        | none => pure (st, s.fb))
      let out := rows.foldl (fun t r => tabSet t r (tabGet [] t r ++ tabGet [] st.cells r)) s.out
      pure { a := st.a, w := st.w, fb := fb, out := out, sats := st.sats }) s)
    { a := a, w := w, fb := (ad.map (·.b)).getD w }
  pure r.out

/-- The units of a list of jets as FAIL_UNIT counts them. -/
def jetUnits (js : List Nat) : List Nat := js.map (0x21 + ·)

/-- The jets of the descriptor at hand. -/
def myJets (c : Chip) (x : Ctx) : List Nat :=
  match c.basins[x.b].chains[x.k] with
  | some ch => ((ch.flight.find? (fun f => f.id == x.id)).map (·.jets)).getD []
  | none => []

/-- The product that a jet descriptor names. -/
def prodOf (c : Chip) (x : Ctx) (d : Desc) (held : Option Acc) : Prod :=
  let sc := fun (lo : Nat) => sram c x.m (d.f 5 lo 23)
  { aFmt := fmtGet d.aFmt, wFmt := fmtGet d.wFmt, gang := d.gang, m := d.f 1 24 16, k := d.f 2 24 20, n := d.f 2 44 16,
    pitch := d.f 1 40 16, acc48 := d.acc48,
    scaled := if d.accClear then d.b 5 23 || d.b 5 47 else (held.map (·.scaled)).getD false,
    aSc := if d.b 5 23 then some (sc 0) else none, wSc := if d.b 5 47 then some (sc 24) else none,
    unit := 0x21 + (myJets c x).headD 0, units := jetUnits (myJets c x) }

/-- Where the rows of a jet descriptor go. -/
def outOf (c : Chip) (x : Ctx) (d : Desc) (rs : List Rescale) : OutSpec :=
  { fmt := fmtGet d.outFmt, base := sram c x.m (d.f 3 0 23), pitch := d.f 3 25 16, rows := d.f 1 24 16, n := d.f 2 44 16,
    scEn := d.b 6 23, scBase := sram c x.m (d.f 6 0 23), pred := d.b 6 24, rsEn := d.b 4 39, rs := rs }

/-- The rescales of a descriptor: per column, or one for all (R76). -/
def rescalesOf (c : Chip) (x : Ctx) (d : Desc) : Eff (List Rescale) :=
  if d.b 4 39 && d.b 4 38 then rescaleTable (0x21 + (myJets c x).headD 0) (sram c x.m (d.f 4 40 23)) (d.f 2 44 16) else pure [d.rescale]

/-- MATMUL with OUT_MODE 0 or 2. DESIGN CHOICE (log entry 142), unsafe: with OUT_MODE 2 and M above the accumulator depth (R32), or N above
the columns of the mode's tile, the spec neither rejects the descriptor nor says what is held; the model holds all M x N sums. -/
def bodyMatmul (x : Ctx) (d : Desc) : Eff Unit := do
  let c ← get
  let held := (c.basins[x.b].chains[x.k].bind (·.acc))
  let p := prodOf c x d held
  let rs ← rescalesOf c x d
  let o := outOf c x d rs
  let ad ← (if d.f 7 0 7 = 0 then pure none else do
    let a ← readAdapter x d
    pure (some a))
  let start := if d.accClear then none else held.map cellsOf
  let hold := d.f 3 23 2 == 2
  let cells ← multiply x p (srcOf (d.f 1 0 23) (d.b 1 23)) (srcOf (d.f 2 0 23) (d.b 2 23)) start ad
    (fun r c0 cs => if hold then pure () else do
      drainCheck x.b p r
      writeSeg x.b p o r c0 (cs.drop c0))
  let k := p.k + (if d.accClear then 0 else (held.map (·.k)).getD 0)
  change (modChain x.b x.k (fun ch => { ch with acc := if hold then some (accOf p k (myJets c x) cells) else none }))

/-- A row of an append is complete: it is converted and written into its slot (R159 step 3). -/
def appendSlot (x : Ctx) (d : Desc) (p : Prod) (o : OutSpec) (apps : List Append) (r : Nat) (cells : List Cell) : Eff Unit :=
  match apps.find? (fun a => decide (a.first ≤ r ∧ r < a.first + a.rows)) with
  | none => pure ()
  | some a => do
    let (xs, sat) := sourceVals p o 0 cells
    change (fun c => bump c (rBasinCtr x.b.val 6) sat)
    let (codes, ss) ← foundSeg x.b o.fmt xs
    appendRow d.outFmt a (r - a.first) (packCodes o.fmt codes) ss

/-- KV_APPEND: a jet descriptor with OUT_MODE 1 (R157 to R165). Each row is written as it drains, so that those before a row whose check fails
stay written (R58); no root shows them before the close. -/
def bodyAppend (x : Ctx) (d : Desc) : Eff Unit := do
  let c ← get
  let held := (c.basins[x.b].chains[x.k].bind (·.acc))
  let p := prodOf c x d held
  let spec := d.b 7 21
  let apps ← appendOpen x d p.m p.n
  let apps ← appendPlan x.b d.outFmt spec apps
  let rs ← rescalesOf c x d
  let o := outOf c x d rs
  let ad ← (if d.f 7 0 7 = 0 then pure none else do
    let a ← readAdapter x d
    pure (some a))
  let start := if d.accClear then none else held.map cellsOf
  let _ ← multiply x p (srcOf (d.f 1 0 23) (d.b 1 23)) (srcOf (d.f 2 0 23) (d.b 2 23)) start ad
    (fun r _ cs => do
      drainCheck x.b p r
      if cs.length = p.n then appendSlot x d p o apps r cs else pure ())
  appendClose spec apps
  change (modChain x.b x.k (fun ch => { ch with acc := none }))

/-- MATMUL. -/
def execMatmul (b : Fin 32) (c : Fin 16) (s : State) : Host.Outcome State Fault Refusal :=
  onChip (issue b c (fun r => r == .matmul) bodyMatmul) s

/-- KV_APPEND. -/
def execKvAppend (b : Fin 32) (c : Fin 16) (s : State) : Host.Outcome State Fault Refusal :=
  onChip (issue b c (fun r => r == .kvAppend) bodyAppend) s

end Sys2Proof.Machine
end

