-- ==== Sys2Proof/Machine/Sfu.lean ====
section
/-! DEFINITION. The special-function unit (R51): the special cases exactly, and elsewhere any FP32 result within the stated
accuracy. The unit's own choice is a free value (`Config.sfu`, log entry 5); it is used where it lies within the accuracy,
which is judged against a reference computed here to 2^-90, and otherwise the correctly rounded result stands for it. -/

namespace Sys2Proof.Machine

/-- Fixed-point unit of the reference: 2^-96. -/
def fxOne : Nat := 2 ^ 96

/-- ln 2 in units of 2^-96. -/
def fxLn2 : Nat := 54916777467707473351141471128

/-- The terms of the exponential series of y, `k` of them, from term number `i` of value `t`. -/
def expSeries (y : Nat) : Nat → Nat → Nat → Nat
  | 0, _, _ => 0
  | k + 1, i, t => t + expSeries y k (i + 1) (t * y / fxOne / (i + 1))

/-- 2^f for a fraction f in units of 2^-96. -/
def exp2Frac (f : Nat) : Nat := expSeries (f * fxLn2 / fxOne) 32 0 fxOne

/-- The terms u^(2j+1)/(2j+1), `k` of them. -/
def atanhSeries (u2 : Nat) : Nat → Nat → Nat → Nat
  | 0, _, _ => 0
  | k + 1, j, p => p / (2 * j + 1) + atanhSeries u2 k (j + 1) (p * u2 / fxOne)

/-- log2 of z for z in [1, 2), in units of 2^-96. -/
def log2Frac (z : Nat) : Nat :=
  let u := (z - fxOne) * fxOne / (z + fxOne)
  2 * atanhSeries (u * u / fxOne) 45 0 u * fxOne / fxLn2

/-- The floor of a square root, bit by bit from bit `k`. -/
def sqrtBits (x : Nat) : Nat → Nat → Nat
  | 0, r => r
  | k + 1, r => let c := r + 2 ^ k; sqrtBits x k (if c * c ≤ x then c else r)

/-- A reference result: a magnitude n x 2^e / d with a sign, within 2^-70 of the exact value in proportion. -/
structure SfuRef where
  neg : Bool
  n : Nat
  d : Nat
  e : Int
  deriving DecidableEq, Repr

/-- The reference of EXP2 at x, for x from -149 to below 128. -/
def refExp2 (s : Bool) (m : Nat) (e : Int) : SfuRef :=
  let (a, b) := scaled (m * fxOne) 1 e
  let i : Int := if s then -(ceilDiv a b : Nat) else ((a / b : Nat) : Int)
  { neg := false, n := exp2Frac (i % (fxOne : Int)).toNat, d := 1, e := i / (fxOne : Int) - 96 }

/-- The reference of RECIP. -/
def refRecip (s : Bool) (m : Nat) (e : Int) : SfuRef := { neg := s, n := 1, d := m, e := -e }

/-- The reference of RSQRT at m x 2^e above 0. -/
def refRsqrt (m : Nat) (e : Int) : SfuRef :=
  let m2 := if e % 2 = 0 then m else 2 * m
  let e2 := if e % 2 = 0 then e else e - 1
  { neg := false, n := sqrtBits (2 ^ 240 / m2) 121 0, d := 1, e := -(e2 / 2) - 120 }

/-- The reference of LOG2 at m x 2^e above 0. -/
def refLog2 (m : Nat) (e : Int) : SfuRef :=
  let k := Nat.log2 m
  let v : Int := ((k : Int) + e) * (fxOne : Int) + (log2Frac (m * fxOne / 2 ^ k) : Nat)
  { neg := decide (v < 0), n := v.natAbs, d := 1, e := -96 }

/-- The reference of TANH: the series below 2^-20, and 1 - 2 / (exp(2x) + 1) above. -/
def refTanh (s : Bool) (m : Nat) (e : Int) : SfuRef :=
  let (a, b) := scaled (m * fxOne) 1 e
  let x := a / b
  if x < 2 ^ 76 then
    let x2 := x * x / fxOne
    { neg := s, n := m * (fxOne - x2 / 3 + 2 * (x2 * x2 / fxOne) / 15), d := 1, e := e - 96 }
  else
    let t := 2 * x * fxOne / fxLn2
    let p := exp2Frac (t % fxOne) * 2 ^ (t / fxOne)
    { neg := s, n := p - fxOne, d := p + fxOne, e := 0 }

/-- The correctly rounded FP32 code of a reference. -/
def SfuRef.code (r : SfuRef) : Nat := (convRat .fp32 r.neg r.n r.d r.e).code

/-- Is the FP32 code within `k` units in the last place of the reference. -/
def SfuRef.within (r : SfuRef) (k : Nat) (c : Nat) : Bool :=
  match valOf .fp32 c with
  | .fin s m e =>
    let u := max (floorLog r.n r.d r.e - 23) (-149)
    let g := min e (min r.e u)
    let v : Int := (m * 2 ^ (e - g).toNat * r.d : Nat)
    let w : Int := (r.n * 2 ^ (r.e - g).toNat : Nat)
    let diff := (if s then -v else v) - (if r.neg then -w else w)
    decide (diff.natAbs ≤ k * 2 ^ (u - g).toNat * r.d)
  | _ => false

/-- Is the FP32 code within 2^-22 of the reference. -/
def SfuRef.near (r : SfuRef) (c : Nat) : Bool :=
  match valOf .fp32 c with
  | .fin s m e =>
    let g := min e (min r.e (-22))
    let v : Int := (m * 2 ^ (e - g).toNat * r.d : Nat)
    let w : Int := (r.n * 2 ^ (r.e - g).toNat : Nat)
    let diff := (if s then -v else v) - (if r.neg then -w else w)
    decide (diff.natAbs ≤ 2 ^ ((-22) - g).toNat * r.d)
  | _ => false

/-- The unit's own choice where it is allowed, and otherwise the correctly rounded reference. -/
def sfuPick (op arg : Nat) (ok : Nat → Bool) (r : SfuRef) : Nat :=
  let c := Config.sfu op arg % 2 ^ 32
  if ok c then c else r.code

/-- The value at or above a power of two: m x 2^e >= k x 2^-q. -/
def atLeast (m : Nat) (e : Int) (k q : Nat) : Bool :=
  let (a, b) := scaled (m * 2 ^ q) 1 e
  decide (k * b ≤ a)

/-- The FP32 code that the unit returns (R51); op 1 EXP2, 2 RECIP, 3 RSQRT, 4 LOG2, 5 TANH. -/
def sfuOf (op arg : Nat) : Nat :=
  match op, valOf .fp32 arg with
  | _, .nan => 0x7FC00000
  | 1, .inf s => if s then 0 else 0x7F800000
  | 1, .fin s m e =>
    if m = 0 then sfuPick 1 arg ((refExp2 s m e).within 2) (refExp2 s m e)
    else if !s && atLeast m e 128 0 then 0x7F800000
    else if s && (Val.fin false 149 0).lt (.fin false m e) then 0
    else sfuPick 1 arg ((refExp2 s m e).within 2) (refExp2 s m e)
  | 2, .inf s => withSign 32 s 0
  | 2, .fin s m e =>
    if m = 0 then withSign 32 s 0x7F800000 else
      let r := refRecip s m e
      if r.code % 2 ^ 31 = 0x7F800000 then r.code else sfuPick 2 arg (r.within 1) r
  | 3, .inf s => if s then 0x7FC00000 else 0
  | 3, .fin s m e =>
    if m = 0 then withSign 32 s 0x7F800000
    else if s then 0x7FC00000 else sfuPick 3 arg ((refRsqrt m e).within 2) (refRsqrt m e)
  | 4, .inf s => if s then 0x7FC00000 else 0x7F800000
  | 4, .fin s m e =>
    if m = 0 then 0xFF800000
    else if s then 0x7FC00000
    else if arg = 0x3F800000 then 0
    else
      let r := refLog2 m e
      sfuPick 4 arg (if atLeast m e 1 1 && !(Val.fin false 2 0).lt (.fin false m e) then r.near else r.within 2) r
  | 5, .inf s => withSign 32 s 0x3F800000
  | 5, .fin s m e =>
    if m = 0 then withSign 32 s 0
    else if atLeast m e 19 1 then withSign 32 s 0x3F800000
    else sfuPick 5 arg ((refTanh s m e).within 2) (refTanh s m e)
  | _, _ => 0x7FC00000

end Sys2Proof.Machine
end

