-- ==== Sys2Proof/Machine/Vec.lean ====
section
/-! DEFINITION. The vector unit and the special-function unit (R44, R48 to R51, R57, R58, R73, R85, R479). -/

namespace Sys2Proof.Machine

/-- The vector unit (FAIL_UNIT). -/
def vecUnit : Nat := 0x31

/-- The codes of `n` elements of a format at an offset of the basin's SRAM. -/
def readCodes (x : Ctx) (unit : Nat) (f : Fmt) (off n : Nat) : Eff (List Nat) := do
  let c ← get
  let bs ← readMem unit (sram c x.m off) (f.bytes n)
  pure ((List.range n).map (element f bs))

/-- An operand of a float operation, widened to FP32; INT32 is rounded (R73). -/
def widen (f : Fmt) (code : Nat) : Val := if f == .int32 then toF32 (valOf f code) else valOf f code

/-- An operand code as an FP32 code, for the special-function unit. -/
def widenCode (f : Fmt) (code : Nat) : Nat := f32Code (widen f code)

/-- The first element of `n` whose residue check fails (R57). -/
def firstResidue (c : Chip) (b : Fin 32) (n : Nat) : Option Nat :=
  ((c.residue.filter (fun r => r.b == b && r.unit == vecUnit && decide (r.row < n))).map (·.row)).min?

/-- How many results of `n` are converted before a residue check fails (R57, R58): with output scales only whole blocks are. -/
def keptCount (c : Chip) (x : Ctx) (d : Desc) (covered : Bool) (n : Nat) : Nat :=
  match (if covered then firstResidue c x.b n else none) with
  | some i => if d.b 6 23 && scalesOut (fmtGet d.outFmt) then min i n / 32 * 32 else min i n
  | none => n

/-- Results are converted and written in order (R44, R85): all of them, or with a failing residue check those before it, after which
the descriptor stops (R58). With output scales a block is written whole. -/
def writeResults (x : Ctx) (d : Desc) (covered : Bool) (vs : List Val) : Eff Unit := do
  let c ← get
  let f := fmtGet d.outFmt
  let bad := if covered then firstResidue c x.b vs.length else none
  let scaled := d.b 6 23 && scalesOut f
  let xs := vs.take (keptCount c x d covered vs.length)
  let codes ← (if scaled then
      convScaled x.b f (sram c x.m (d.f 6 0 23)) (d.b 6 24) 1 (ceilDiv vs.length 32) 0 0 xs
    else convPlain x.b f xs)
  writeMem (sram c x.m (d.f 3 0 23)) (packCodes f codes)
  match bad with
  | some i => residueCheck x.b [vecUnit] i
  | none => pure ()

/-- The immediate as FP32. -/
def immVal (d : Desc) : Val := valOf .fp32 (d.f 7 32 32)

/-- An element-wise float operation of one or two operands (R49, R73). `covered` says that its multiply is checked (R57). DESIGN CHOICE (log
entry 172), unsafe: what a vector or special-function descriptor that SRAM_UE stops has written already the spec does not say (R53); the model
reads whole operands first, so that it has written nothing. -/
def bodyFloat (two covered : Bool) (op : Desc → Val → Val → Val) (x : Ctx) (d : Desc) : Eff Unit := do
  let n := d.f 1 24 20
  let fa := fmtGet d.aFmt
  let fb := fmtGet d.wFmt
  let as ← readCodes x vecUnit fa (d.f 1 0 23) n
  let bs ← (if two then readCodes x vecUnit fb (d.f 2 0 23) n else pure (as.map (fun _ => 0)))
  writeResults x d covered ((as.zip bs).map (fun p => op d (widen fa p.1) (widen fb p.2)))

/-- An integer rescaled and held within INT32, as a source value, and whether it was held; for an INT32 or unscaled result the conversion
holds it (R44, R76, R85). -/
def intSource (d : Desc) (i : Int) : Val × Bool :=
  if d.b 6 23 && scalesOut (fmtGet d.outFmt) then (Val.ofInt (clampInt 32 i).1, (clampInt 32 i).2) else (Val.ofInt i, false)

/-- An element-wise integer operation (R49, R73). -/
def bodyInt (covered : Bool) (op : Desc → Int → Int → Int) (x : Ctx) (d : Desc) : Eff Unit := do
  let n := d.f 1 24 20
  let fa := fmtGet d.aFmt
  let fb := fmtGet d.wFmt
  let as ← readCodes x vecUnit fa (d.f 1 0 23) n
  let bs ← readCodes x vecUnit fb (d.f 2 0 23) n
  let ys := (as.zip bs).map (fun p => intSource d (op d (intOf fa p.1) (intOf fb p.2)))
  change (fun c => bump c (rBasinCtr x.b.val 6) ((ys.take (keptCount c x d covered ys.length)).filter (·.2)).length)
  writeResults x d covered (ys.map (·.1))

/-- An integer taken modulo 2^32 as INT32. -/
def wrap32 (i : Int) : Int := signed 32 (unsigned 32 i)

/-- IMUL (R49): the exact product rescaled, or taken modulo 2^32. -/
def imulOp (d : Desc) (a b : Int) : Int := if d.b 4 39 then rescaleInt d.rescale none (a * b) else wrap32 (a * b)

/-- A reduction of each row (R49, R479). -/
def bodyRow (op : List Val → Val) (x : Ctx) (d : Desc) : Eff Unit := do
  let n := d.f 1 24 20
  let rl := d.f 2 24 20
  let fa := fmtGet d.aFmt
  let as ← readCodes x vecUnit fa (d.f 1 0 23) n
  writeResults x d false ((chunks rl n as).map (fun r => op (r.map (widen fa))))

/-- The maximum of a row, NaN where any element is (R479). -/
def rowMaxOf : List Val → Val
  | [] => .nan
  | v :: vs => vs.foldl Val.max v

/-- A special function of each element (R51). -/
def bodySfu (op : Nat) (x : Ctx) (d : Desc) : Eff Unit := do
  let n := d.f 1 24 20
  let fa := fmtGet d.aFmt
  let as ← readCodes x 0x32 fa (d.f 1 0 23) n
  writeResults x d false (as.map (fun a => valOf .fp32 (sfuOf op (widenCode fa a))))

/-- Issue of a vector descriptor. -/
def issueVec (op vop : Nat) (body : Ctx → Desc → Eff Unit) (b : Fin 32) (c : Fin 16) : Chip → Chip :=
  issue b c (fun r => r == .vec op vop) body

/-- ADD. -/
def execAdd (b : Fin 32) (c : Fin 16) (s : State) : Host.Outcome State Fault Refusal :=
  onChip (issueVec 0x10 1 (bodyFloat true false (fun _ x y => fAdd x y)) b c) s

/-- SUB. -/
def execSub (b : Fin 32) (c : Fin 16) (s : State) : Host.Outcome State Fault Refusal :=
  onChip (issueVec 0x10 2 (bodyFloat true false (fun _ x y => fAdd x y.neg)) b c) s

/-- MUL. -/
def execMul (b : Fin 32) (c : Fin 16) (s : State) : Host.Outcome State Fault Refusal :=
  onChip (issueVec 0x10 3 (bodyFloat true true (fun _ x y => fMul x y)) b c) s

/-- FMA: one rounding of a x b + IMM. -/
def execFma (b : Fin 32) (c : Fin 16) (s : State) : Host.Outcome State Fault Refusal :=
  onChip (issueVec 0x10 4 (bodyFloat true true (fun d x y => fFma x y (immVal d))) b c) s

/-- MAX. -/
def execMax (b : Fin 32) (c : Fin 16) (s : State) : Host.Outcome State Fault Refusal :=
  onChip (issueVec 0x10 5 (bodyFloat true false (fun _ x y => Val.max x y)) b c) s

/-- MIN. -/
def execMin (b : Fin 32) (c : Fin 16) (s : State) : Host.Outcome State Fault Refusal :=
  onChip (issueVec 0x10 6 (bodyFloat true false (fun _ x y => Val.min x y)) b c) s

/-- SCALE. -/
def execScale (b : Fin 32) (c : Fin 16) (s : State) : Host.Outcome State Fault Refusal :=
  onChip (issueVec 0x10 7 (bodyFloat false true (fun d x _ => fMul x (immVal d))) b c) s

/-- CVT. -/
def execCvt (b : Fin 32) (c : Fin 16) (s : State) : Host.Outcome State Fault Refusal :=
  onChip (issueVec 0x10 8 (bodyFloat false false (fun _ x _ => x)) b c) s

/-- IADD. -/
def execIadd (b : Fin 32) (c : Fin 16) (s : State) : Host.Outcome State Fault Refusal :=
  onChip (issueVec 0x10 0x10 (bodyInt true (fun _ x y => wrap32 (x + y))) b c) s

/-- ISUB. -/
def execIsub (b : Fin 32) (c : Fin 16) (s : State) : Host.Outcome State Fault Refusal :=
  onChip (issueVec 0x10 0x11 (bodyInt true (fun _ x y => wrap32 (x - y))) b c) s

/-- IMUL. -/
def execImul (b : Fin 32) (c : Fin 16) (s : State) : Host.Outcome State Fault Refusal :=
  onChip (issueVec 0x10 0x12 (bodyInt true imulOp) b c) s

/-- IMAX. -/
def execImax (b : Fin 32) (c : Fin 16) (s : State) : Host.Outcome State Fault Refusal :=
  onChip (issueVec 0x10 0x13 (bodyInt false (fun _ x y => if x < y then y else x)) b c) s

/-- ROW_MAX. -/
def execRowMax (b : Fin 32) (c : Fin 16) (s : State) : Host.Outcome State Fault Refusal :=
  onChip (issueVec 0x11 1 (bodyRow rowMaxOf) b c) s

/-- ROW_SUM. -/
def execRowSum (b : Fin 32) (c : Fin 16) (s : State) : Host.Outcome State Fault Refusal :=
  onChip (issueVec 0x11 2 (bodyRow rowSumOf) b c) s

/-- EXP2. -/
def execExp2 (b : Fin 32) (c : Fin 16) (s : State) : Host.Outcome State Fault Refusal := onChip (issueVec 0x12 1 (bodySfu 1) b c) s

/-- RECIP. -/
def execRecip (b : Fin 32) (c : Fin 16) (s : State) : Host.Outcome State Fault Refusal := onChip (issueVec 0x12 2 (bodySfu 2) b c) s

/-- RSQRT. -/
def execRsqrt (b : Fin 32) (c : Fin 16) (s : State) : Host.Outcome State Fault Refusal := onChip (issueVec 0x12 3 (bodySfu 3) b c) s

/-- LOG2. -/
def execLog2 (b : Fin 32) (c : Fin 16) (s : State) : Host.Outcome State Fault Refusal := onChip (issueVec 0x12 4 (bodySfu 4) b c) s

/-- TANH. -/
def execTanh (b : Fin 32) (c : Fin 16) (s : State) : Host.Outcome State Fault Refusal := onChip (issueVec 0x12 5 (bodySfu 5) b c) s

end Sys2Proof.Machine
end

