-- ==== Sys2Proof/Machine/Attn.lean ====
section
/-! DEFINITION. The attention engine (R117 to R141): scores in the base-2 domain, visibility, FOLD and EXPAND forms, forward and backward
partials, partial records, combine and the merge, FINALISE, sparse patterns, and the windowed mode. -/

namespace Sys2Proof.Machine

/-- EXP2 of an FP32 value (R51). -/
def exp2Of (v : Val) : Val := valOf .fp32 (sfuOf 1 (f32Code v))

/-- RECIP of an FP32 value (R51). -/
def recipOf (v : Val) : Val := valOf .fp32 (sfuOf 2 (f32Code v))

/-- Minus infinity. -/
def minusInf : Val := .inf true

/-- Is a value a zero. -/
def isZero : Val → Bool
  | .fin _ m _ => m == 0
  | _ => false

/-! ### Rows with scales -/

/-- A row of codes with the scales of its blocks of 32, 1.0 for a format without a stream. -/
structure SRow where
  codes : List Nat
  sc : List Sc16
  deriving DecidableEq, Repr

/-- Row `row` of a tensor of the basin's SRAM, `width` wide, whose scale packets begin at the first 64-byte boundary after its last row
(R120, R140). -/
def tensorRow (x : Ctx) (unit : Nat) (f : Fmt) (base rows pitch width row : Nat) : Eff SRow := do
  let c ← get
  let sb := roundUp (base + rowsBytes rows pitch (f.bytes width)) 64
  let sc ← scalesOf (scalesOut f) (sram c x.m sb) (ceilDiv width 32) row 0 (ceilDiv width 32)
  let cs ← readCodes x unit f (base + row * pitch * 64) width
  pure { codes := cs, sc := sc }

/-- The exact values of a row, each element with its own scale (log entry 11). -/
def SRow.vals (f : Fmt) (r : SRow) : List Val :=
  (r.codes.zip (List.range r.codes.length)).map (fun p =>
    let s := r.sc.getD (p.2 / 32) sc16One
    (valOf f p.1).mul (.fin false s.mant (s.exp - 7)))

/-- Blocks `lo` to `hi` - 1 of a row. -/
def SRow.part (r : SRow) (lo n : Nat) : SRow := { codes := (r.codes.drop lo).take n, sc := (r.sc.drop (lo / 32)).take (ceilDiv n 32) }

/-- FP32 values converted to a storage or P format: INT8 and FP8 E4M3 with found scales, BF16 by rounding (R85, R86, R119, R123). -/
def toSRow (b : Fin 32) (f : Fmt) (vs : List Val) : Eff SRow := do
  let (cs, ss) ← foundSeg b f vs
  pure { codes := cs, sc := if scalesOut f then ss else List.replicate (ceilDiv cs.length 32) sc16One }

/-! ### Scores (R117) -/

/-- The dot product of two rows as the jets form it, as an FP32 value, and whether an integer accumulator saturated. -/
def dot (fa fw : Fmt) (a w : SRow) : Val × Bool :=
  let p : Prod := { aFmt := fa, wFmt := fw, gang := 0, m := 1, k := a.codes.length, n := 1, scaled := true }
  let (x, s) := addBlocks p a.sc w.sc (chunks 32 a.codes.length a.codes) (chunks 32 w.codes.length w.codes) (p.clear, false)
  match x with
  | .int v e => (toF32 ((Val.ofInt v).shl (e.getD 14 - 14)), s)
  | .flt v => (v, s)

/-- The score of a query row against a key (R117). -/
def score (fa fw : Fmt) (scale : Val) (q k : SRow) : Val × Bool :=
  let (v, s) := dot fa fw q k
  (fMul v scale, s)

/-- What a query row makes of a token (R118): none where the token is invisible. -/
def seen (visible : Bool) (s : Val) : Option Val := if !visible || s == minusInf then none else some s

/-- A score that makes its row NaN. -/
def spoils (s : Option Val) : Bool := match s with | some v => v.isNan || v == .inf false | none => false

/-! ### Row state and combine (R128) -/

/-- The state of a row: m, l, o, and whether the row is NaN. -/
structure ARow where
  m : Val
  l : Val
  o : List Val
  nan : Bool := false
  deriving DecidableEq, Repr

/-- The start of a row. -/
def ARow.start (width : Nat) : ARow := { m := minusInf, l := Val.zero, o := List.replicate width Val.zero }

/-- A row is folded into a running row (R128). -/
def combine (a x : ARow) : ARow :=
  let m := a.m.max x.m
  let wa := if a.m == minusInf then Val.zero else exp2Of (fAdd a.m m.neg)
  let wx := if x.m == minusInf then Val.zero else exp2Of (fAdd x.m m.neg)
  { m := m, l := fFma x.l wx (fMul a.l wa), o := (a.o.zip x.o).map (fun p => fFma p.2 wx (fMul p.1 wa)), nan := a.nan || x.nan }

/-- The final output of a row (R129), and whether it is empty. DESIGN CHOICE (log entry 144), unsafe: where a row has l = +0 and a NaN in an
element of o, both clauses of R129 apply, and the model writes NaN. -/
def finalRow (a : ARow) : List Val × Bool :=
  if a.nan || a.l.isNan || a.m.isNan then (a.o.map (fun _ => .nan), false)
  else if isZero a.l then (a.o.map (fun _ => Val.zero), true)
  else let r := recipOf a.l; (a.o.map (fun v => fMul v r), false)

/-- Output rows in the layout of a merge's DST, found scales where they are enabled (R129, R131, R134). -/
def writeOutputs (x : Ctx) (d : Desc) (dst width : Nat) (rows : List ARow) : Eff Unit := do
  let c ← get
  let f := fmtGet d.outFmt
  (rows.zip (List.range rows.length)).forM (fun p => do
    let (vs, empty) := finalRow p.1
    change (fun c => bump c (rAttnCtr x.b.val 1) (b2n empty))
    let codes ← (if d.b 6 23 && scalesOut f then
        convScaled x.b f (sram c x.m (d.f 6 0 23)) (d.b 6 24) rows.length (ceilDiv width 32) p.2 0 vs
      else convPlain x.b f vs)
    writeMem (sram c x.m dst + p.2 * roundUp (f.bytes width) 64) (packCodes f codes))

/-! ### Tokens of a partial -/

/-- A token that a partial reads: its position, and its keys and values, one of each in FOLD form, one for each head in EXPAND form. -/
structure Tok where
  pos : Nat
  keys : List SRow
  vals : List (List Val)
  deriving DecidableEq, Repr

/-- The fields of a partial. -/
structure Part where
  heads : Nat
  qpos : Nat
  r : Nat
  width : Nat
  expand : Bool
  pos0 : Nat
  sparse : Bool
  first : Nat
  count : Nat
  aFmt : Fmt
  pFmt : Fmt
  scale : Val
  deriving DecidableEq, Repr

/-- Those of a descriptor (R121). -/
def partOf (d : Desc) : Part :=
  let ex := d.b 2 23
  { heads := d.f 1 32 8, qpos := d.f 1 24 4, r := 32 * d.f 2 48 5, width := if ex then hdimOf (d.f 2 53 2) else 32 * d.f 2 48 5,
    expand := ex, pos0 := d.f 7 0 20, sparse := d.b 7 20, first := d.f 4 32 16, count := d.f 4 48 16,
    aFmt := fmtGet d.aFmt, pFmt := fmtGet (d.f 1 56 4), scale := valOf .fp32 (d.f 4 0 32) }

/-- Does the query position p see the token at t (R118, R135). -/
def visibleAt (a : Part) (w : Walk) (p t : Nat) : Bool :=
  decide (t ≤ p ∧ t < w.lrec.len) && (!a.sparse || decide (p < t + w.win) || w.globals.contains t)

/-- Is a page read (R135, R154). DEDUCED (log entry 143), unsafe: R135 states its sentence on the walker with the sparse patterns, so a page
that the causal mask alone hides from every row is read. -/
def pageRead (a : Part) (w : Walk) (i : Nat) : Bool :=
  decide (16 * i < w.lrec.len) &&
  (!a.sparse || (span (16 * i) 16).any (fun t => (span a.pos0 a.qpos).any (fun p => visibleAt a w p t)))

/-- The units of an attention descriptor that check a row's products: the vector unit, its jets, and the scale unit where one of the formats
carries scales (R57, R84). -/
def attnUnits (c : Chip) (x : Ctx) (fs : List Fmt) : List Nat :=
  vecUnit :: (if fs.any scalesOut then [0x36] else []) ++ jetUnits (myJets c x)

/-- The expansion of the latent of the token at `pos` into the rows of every head (R119): the product with an up-projection, in the latent's
format, and whether an accumulator saturated (R74). DEDUCED (log entry 171), unsafe: R119 has it written per R85, whose source value for an
integer pair is the INT32 result of R83; R117's FP32 form is stated for scores alone. -/
def expandRow (x : Ctx) (d : Desc) (a : Part) (f : Fmt) (base pos : Nat) (lat : SRow) : Eff (List SRow × Bool) := do
  let c ← get
  let p : Prod := { aFmt := f, wFmt := fmtGet d.wFmt, gang := d.gang, m := 1, k := a.r, n := a.heads * a.width, scaled := true,
                    unit := 0x21 + (myJets c x).headD 0, units := jetUnits (myJets c x), row0 := pos }
  let units := if scalesOut f then 0x36 :: p.units else p.blockUnits
  let pt := portOf c x
  let (kt, nt) := tileOf p.wFmt p.gang
  let cells ← (List.range (ceilDiv p.n nt)).mapM (fun j =>
    (List.range (ceilDiv p.k kt)).foldlM (fun (cs : List Cell × Bool) i => do
      let (cols, _) ← loadTile p pt (.raw base) i j
      let k0 := i * kt
      let kc := min kt (p.k - k0)
      residueBlocks x.b units pos (k0 / 32) (ceilDiv (k0 + kc) 32)
      let (ys, sat) := rowTile p ((lat.sc.drop (k0 / 32)).take (ceilDiv kc 32)) ((lat.codes.drop k0).take kc) cols cs.1
      pure (ys, cs.2 || sat))
      (List.replicate (min nt (p.n - j * nt)) p.clear, false))
  drainCheck x.b p 0
  let (vs, held) := sourceVals p { fmt := .int8, base := 0, pitch := 0, rows := 1, n := p.n, scEn := true, scBase := 0, pred := false } 0
    (cells.map (·.1)).flatten
  change (fun c => bump c (rBasinCtr x.b.val 6) held)
  let rows ← (List.range a.heads).mapM (fun h => toSRow x.b f ((vs.drop (h * a.width)).take a.width))
  pure (rows, cells.any (·.2))

/-- A page is looked up and, where it is read, checked and delivered (R120, R144, R145, R153 to R156): the format of the first page of the
range, and the tokens. DESIGN CHOICE (log entry 176), unsafe: a mapped page that lies wholly at or above LEN takes no part in the comparison of
formats, which R120 makes with the first page of the range and R154 does not have read. The tokens of a page that is not read stay in the block's row, invisible to every row (R118, R123). -/
def readPage (x : Ctx) (d : Desc) (a : Part) (w : Walk) (fmt : Option Nat) (i : Nat) : Eff (Option Nat × List Tok) := do
  let (e, inBody) ← kvEntry x.b w w.layer w.lrec.tails i
  let other := match fmt with | some g => g != entFmt e | none => false
  if !pageRead a w i then do
    let mapped := entV e && decide (16 * i < w.lrec.len)
    stopIf (mapped && other) eAttnFmt kvUnit (frameOf e)
    pure (if mapped then some (fmt.getD (entFmt e)) else fmt,
      (List.range (min 16 (w.lrec.len - 16 * i))).map (fun s => { pos := 16 * i + s, keys := [], vals := [] }))
  else do
    stopIf (entryBad a.r inBody e) eKvPte kvUnit (frameOf e)
    let c ← get
    stopIf (fenced c (pkgOf (frameOf e))) eFabFenced kvUnit (frameOf e)
    let f := fmtGet (entFmt e)
    stopIf other eAttnFmt kvUnit (frameOf e)
    stopIf (!isPair a.aFmt f || !isPair a.pFmt f || (a.expand && !isPair f (fmtGet d.wFmt))) eAttnFmt kvUnit (frameOf e)
    let el := frameEl (entFmt e)
    let toks ← (List.range (min 16 (w.lrec.len - 16 * i))).mapM (fun s => do
      let bs ← readMem kvUnit (frameOf e + s * a.r * el) (a.r * el)
      let sc ← scalesOf (scalesOut f) (frameOf e + 16 * a.r * el) (a.r / 32) s 0 (a.r / 32)
      let lat : SRow := { codes := (List.range a.r).map (element f bs), sc := sc }
      if a.expand then do
        let (ks, s1) ← expandRow x d a f (d.f 2 0 23) (16 * i + s) lat
        let (vs, s2) ← (if d.f 3 48 2 = 0 then expandRow x d a f (d.f 2 24 23) (16 * i + s) lat else pure ([], false))
        change (fun c => bump c (rBasinCtr x.b.val 6) (b2n (s1 || s2)))
        pure ({ pos := 16 * i + s, keys := ks, vals := vs.map (SRow.vals f) } : Tok)
      else pure { pos := 16 * i + s, keys := [lat], vals := [lat.vals f] })
    pure (some (fmt.getD (entFmt e)), toks)

/-- The walk of a partial: placed, pinned and checked (R152, R153). -/
def partWalk (x : Ctx) (d : Desc) (a : Part) : Eff Walk := do
  let root := d.f 5 0 48
  rootPlaced root
  let w ← kvPin x root (d.f 7 32 32) (d.f 5 48 8)
  kvCheck d.job (some (a.r / 32)) (fun pages _ => decide (pages < a.first + a.count)) w

/-- The query rows (R120, R121). -/
def queryRows (x : Ctx) (d : Desc) (a : Part) : Eff (List SRow) := do
  let c ← get
  let u := 0x21 + (myJets c x).headD 0
  (List.range (a.heads * a.qpos)).mapM (fun q => tensorRow x u a.aFmt (d.f 1 0 23) (a.heads * a.qpos) (d.f 1 40 16) a.width q)

/-- The key of a token for a row's head. -/
def Tok.key (t : Tok) (a : Part) (h : Nat) : SRow := t.keys.getD (if a.expand then h else 0) ⟨[], []⟩

/-- The value of a token for a row's head. -/
def Tok.val (t : Tok) (a : Part) (h : Nat) : List Val := t.vals.getD (if a.expand then h else 0) []

/-- The scores of a row against tokens (R117, R118): none where invisible, and whether an accumulator saturated. -/
def rowScores (a : Part) (w : Walk) (f : Fmt) (q : SRow) (i : Nat) (toks : List Tok) : List (Option Val) × Bool :=
  let h := i / a.qpos
  let p := a.pos0 + i % a.qpos
  let ss := toks.map (fun t => (score a.aFmt f a.scale q (t.key a h), visibleAt a w p t.pos))
  (ss.map (fun s => seen s.2 s.1.1), ss.any (fun s => s.1.2))

/-- The product of converted weights with values, per R75 over slices of 32 tokens (R123 step 6, log entry 11). A token that is not seen
enters no sum (R118). -/
def weighted (pf : Fmt) (ps : SRow) (sees : List Bool) (vals : List (List Val)) (width : Nat) : List Val :=
  let pv := chunks 32 ps.codes.length (ps.codes.map (valOf pf))
  let vv := chunks 32 vals.length (sees.zip vals)
  (List.range width).map (fun col =>
    ((pv.zip vv).zip ps.sc).foldl (fun acc q =>
      let s := sumVals (((q.1.1.zip q.1.2).filter (fun z => z.2.1)).map (fun z => z.1.mul (z.2.2.getD col Val.zero)))
      fAdd acc (if q.2.mant = 0 then Val.zero else toF32 (s.mul (.fin false q.2.mant (q.2.exp - 7))))) Val.zero)

/-- A row over a block of tokens (R123 steps 3 to 6): its (m, l, o). -/
def blockRow (x : Ctx) (a : Part) (h : Nat) (ss : List (Option Val)) (toks : List Tok) : Eff ARow := do
  let m := (ss.filterMap id).foldl Val.max minusInf
  let ps := ss.map (fun s => match s with | some v => exp2Of (fAdd v m.neg) | none => Val.zero)
  let pc ← toSRow x.b a.pFmt ps
  let l := rowSumOf ((pc.vals a.pFmt).map toF32)
  let o := weighted a.pFmt pc (ss.map Option.isSome) (toks.map (fun t => t.val a h)) a.width
  pure { m := m, l := l, o := o, nan := ss.any spoils }

/-- The pages of a range read in order, and their format. -/
def readPages (x : Ctx) (d : Desc) (a : Part) (w : Walk) (fmt : Option Nat) (pages : List Nat) : Eff (Option Nat × List Tok) :=
  pages.foldlM (fun (s : Option Nat × List Tok) i => do
    let (f, ts) ← readPage x d a w s.1 i
    pure (f, s.2 ++ ts)) (fmt, [])

/-- The running rows after every block (R123). -/
def forwardRows (x : Ctx) (d : Desc) (a : Part) (w : Walk) (qs : List SRow) : Eff (List ARow) := do
  let c ← get
  let per := attnBlock c / 16
  let r ← (chunks per a.count (span a.first a.count)).foldlM (fun (s : Option Nat × List Nat × List ARow) pages => do
    let (fmt, toks) ← readPages x d a w s.1 pages
    let f := fmtGet (fmt.getD 1)
    let r ← ((qs.zip s.2.2).zip (List.range qs.length)).mapM (fun q => do
      residueCheck x.b (attnUnits c x [a.aFmt, f, a.pFmt]) q.2
      let (ss, sat) := rowScores a w f q.1.1 q.2 toks
      change (fun c => bump c (rBasinCtr x.b.val 6) (b2n (sat && !s.2.1.contains q.2)))
      let y ← blockRow x a (q.2 / a.qpos) ss toks
      pure (combine q.1.2 y, sat))
    let sats := (r.zip (List.range r.length)).foldl (fun l y => if y.1.2 then insertNat y.2 l else l) s.2.1
    pure (fmt, sats, r.map (·.1))) (none, [], qs.map (fun _ => ARow.start a.width))
  pure r.2.2

/-- Statistics of a row: 16 bytes (R125). -/
def statBytes (r : ARow) : List Byte := leBytes 4 (f32Code r.m) ++ leBytes 4 (f32Code r.l) ++ leBytes 8 0

/-- A partial record is written, the header last (R125, R126). -/
def writePartRecord (x : Ctx) (d : Desc) (a : Part) (rows : List ARow) : Eff Unit := do
  let c ← get
  let base := sram c x.m (d.f 3 0 23)
  let n := rows.length
  let rows := rows.map (fun r => if r.nan then { r with m := .nan, l := .nan, o := r.o.map (fun _ => .nan) } else r)
  writeMem (base + 64) (rows.flatMap statBytes)
  (rows.zip (List.range n)).forM (fun p =>
    writeMem (base + roundUp (64 + 16 * n) 64 + p.2 * roundUp (4 * a.width) 64) (p.1.o.flatMap (fun v => leBytes 4 (f32Code v))))
  writeWords base [d.job + d.f 5 56 5 * 2 ^ 16 + d.f 3 55 6 * 2 ^ 21 + n * 2 ^ 27 + a.width * 2 ^ 38, d.f 7 32 32, 0, 0, 0, 0, 0, 0]

/-- The scratch area of a forward partial (R124). -/
def scratchOf (c : Chip) (x : Ctx) (d : Desc) (a : Part) : Nat × Nat :=
  (sram c x.m (d.f 3 24 23), a.heads * a.qpos * attnBlock c * 4 + (if a.expand then 2 * 64 * a.heads * a.width else 0))

/-- A forward partial (R123 to R126, R134): its scratch area is left undefined. -/
def bodyForward (wait : Nat) (x : Ctx) (d : Desc) : Eff Unit := do
  let c ← get
  let a := partOf d
  let scr := scratchOf c x d a
  change (fun c => bumpUnits c (rAttnCtr x.b.val 3) 256 wait)
  undefineOnStop [scr] (do
    let w ← partWalk x d a
    let qs ← queryRows x d a
    let rows ← forwardRows x d a w qs
    let rows := rows.map (fun r => { r with nan := r.nan || r.m.isNan || r.l.isNan })
    change (fun c => bump c (rAttnCtr x.b.val 2) (rows.filter (·.nan)).length)
    if d.b 7 21 then
      writeOutputs x d (d.f 3 0 23) a.width (rows.map (fun r => combine (ARow.start a.width) { r with nan := r.nan || r.o.any Val.isNan }))
    else writePartRecord x d a rows
    change (fun c => undefine c scr.1 scr.2))

/-- The backward passes (R139): `val` gives what is written for a visible token from p, dP and D. DESIGN CHOICE (log entry 177), unsafe: where
a visible score is plus infinity or NaN though the stored m and l are finite, each token has its own value and ROW_NAN does not count, R139
naming neither. -/
def bodyBackward (val : Val → Val → Val → Val) (wait : Nat) (x : Ctx) (d : Desc) : Eff Unit := do
  let c ← get
  let a := partOf d
  let nq := a.heads * a.qpos
  let rowLen := 64 * a.count
  let out := sram c x.m (d.f 3 0 23)
  let inp := sram c x.m (d.f 3 24 23)
  let dpBase := inp + roundUp (16 * nq) 64
  let two := d.f 3 48 2 == 2
  change (fun c => bumpUnits c (rAttnCtr x.b.val 3) 256 wait)
  undefineOnStop [(out, nq * rowLen)] (do
    let w ← partWalk x d a
    let qs ← queryRows x d a
    let (fmt, toks) ← readPages x d a w none (span a.first a.count)
    let f := fmtGet (fmt.getD 1)
    (qs.zip (List.range nq)).forM (fun q => do
      residueCheck x.b (attnUnits c x [a.aFmt, f]) q.2
      let st ← readMem vecUnit (inp + 16 * q.2) 16
      let word := fun i => valOf .fp32 (element .fp32 st i)
      let dp ← (if two then readMem vecUnit (dpBase + q.2 * rowLen) rowLen else pure [])
      let (ss, sat) := rowScores a w f q.1 q.2 toks
      change (fun c => bump c (rBasinCtr x.b.val 6) (b2n sat))
      let ys := (List.range (16 * a.count)).map (fun t =>
        match ((toks.zip ss).find? (fun z => z.1.pos == 16 * a.first + t)).bind (·.2) with
        | none => Val.zero
        | some s =>
          if isZero (word 1) then Val.zero
          else val (fMul (exp2Of (fAdd s (word 0).neg)) (recipOf (word 1))) (valOf .fp32 (element .fp32 dp t)) (word 2))
      writeMem (out + q.2 * rowLen) (ys.flatMap (fun v => leBytes 4 (f32Code v)))))

/-- ATTN_PARTIAL with PASS 0. -/
def execAttnPartialForward (b : Fin 32) (c : Fin 16) (wait : Nat) (s : State) : Host.Outcome State Fault Refusal :=
  onChip (issue b c (fun r => r == .attn 0) (bodyForward wait)) s

/-- ATTN_PARTIAL with PASS 1: normalised probabilities. -/
def execAttnBackwardP (b : Fin 32) (c : Fin 16) (wait : Nat) (s : State) : Host.Outcome State Fault Refusal :=
  onChip (issue b c (fun r => r == .attn 1) (bodyBackward (fun p _ _ => p) wait)) s

/-- ATTN_PARTIAL with PASS 2: dS = p x (dP - D). -/
def execAttnBackwardDs (b : Fin 32) (c : Fin 16) (wait : Nat) (s : State) : Host.Outcome State Fault Refusal :=
  onChip (issue b c (fun r => r == .attn 2) (bodyBackward (fun p dp dd => fMul p (fAdd dp dd.neg)) wait)) s

/-! ### The merge (R129 to R132) -/

/-- A record header that differs from the descriptor, or with a reserved field set (R132). -/
def recordSkew (d : Desc) (i : Nat) (ws : List Nat) : Bool :=
  let w := fun i => ws.getD i 0
  w 0 != d.job + i * 2 ^ 16 + d.f 1 40 6 * 2 ^ 21 + d.f 1 48 11 * 2 ^ 27 + d.f 2 24 10 * 2 ^ 38 || w 1 != d.f 4 0 32 ||
  (span 2 6).any (fun k => w k != 0)

/-- ATTN_MERGE. -/
def bodyMerge (x : Ctx) (d : Desc) : Eff Unit := do
  let c ← get
  let rows := d.f 1 48 11
  let od := d.f 2 24 10
  let recs := (List.range (d.f 1 40 6)).map (fun i => sram c x.m (d.f 1 0 23 + i * d.f 1 24 16 * 64))
  let hs ← recs.mapM (fun a => readWords vecUnit a 8)
  stopIf ((hs.zip (List.range hs.length)).any (fun h => recordSkew d h.2 h.1)) eAttnSkew vecUnit
  let out ← (List.range rows).mapM (fun r => do
    residueCheck x.b [vecUnit] r
    recs.foldlM (fun (s : ARow) a => do
      let st ← readMem vecUnit (a + 64 + 16 * r) 16
      let ob ← readMem vecUnit (a + roundUp (64 + 16 * rows) 64 + r * roundUp (4 * od) 64) (4 * od)
      let y : ARow := { m := valOf .fp32 (element .fp32 st 0), l := valOf .fp32 (element .fp32 st 1),
                        o := (List.range od).map (fun i => valOf .fp32 (element .fp32 ob i)) }
      pure (combine s { y with nan := y.m.isNan || y.l.isNan || y.o.any Val.isNan })) (ARow.start od))
  writeOutputs x d (d.f 2 0 23) od out
  if d.b 3 23 then writeMem (sram c x.m (d.f 3 0 23)) (out.flatMap statBytes) else pure ()

/-- ATTN_MERGE. -/
def execAttnMerge (b : Fin 32) (c : Fin 16) (s : State) : Host.Outcome State Fault Refusal :=
  onChip (issue b c (fun r => r == .merge) bodyMerge) s

/-! ### The windowed mode (R140, R141) -/

/-- A query frame of a head: its output row (R141). DESIGN CHOICE (log entry 145), unsafe: a row whose l is +0, every seen score being minus
infinity, is written as zeros, as R129 writes it; and P in FP8 E4M3 is converted with found scales both times, as R123 converts it, where
R141 says only that it is converted. -/
def windowRow (x : Ctx) (pf fa fw : Fmt) (scale : Val) (q : SRow) (ks : List (Bool × SRow)) (vs : List (List Val)) (width : Nat) :
    Eff (List Val) := do
  let scs := ks.map (fun k => (score fa fw scale q k.2, k.1))
  change (fun c => bump c (rBasinCtr x.b.val 6) (b2n (scs.any (fun s => s.1.2))))
  let ss := scs.map (fun s => seen s.2 s.1.1)
  let m := (ss.filterMap id).foldl Val.max minusInf
  let pc ← toSRow x.b pf (ss.map (fun s => match s with | some v => exp2Of (fAdd v m.neg) | none => Val.zero))
  let ps := (pc.vals pf).map toF32
  let l := rowSumOf ps
  if ss.any spoils then pure (List.replicate width .nan)
  else if isZero l then pure (List.replicate width Val.zero)
  else do
    let r := recipOf l
    let nc ← toSRow x.b pf (ps.map (fun p => fMul p r))
    pure (weighted pf nc (ss.map Option.isSome) vs width)

/-- ATTN_WINDOW: its scratch area is left undefined. -/
def bodyWindow (x : Ctx) (d : Desc) : Eff Unit := do
  let c ← get
  let heads := d.f 1 40 7
  let frames := d.f 1 48 12
  let pitch := d.f 1 24 16
  let rows := heads * frames
  let hd := hdimOf (d.f 3 48 2)
  let wl := d.f 2 48 8
  let wr := d.f 2 56 8
  let fa := fmtGet d.aFmt
  let fw := fmtGet d.wFmt
  let pf := fmtGet (d.f 3 50 4)
  let o := fmtGet d.outFmt
  let scale := valOf .fp32 (d.f 4 0 32)
  let u := 0x21 + (myJets c x).headD 0
  let scr := (sram c x.m (d.f 3 24 23), 2 * 4096 * ceilDiv (wl + wr + 32) 32)
  undefineOnStop [scr] (do
    (List.range heads).forM (fun h => (chunks 32 frames (List.range frames)).forM (fun blk => do
      let i0 := blk.headD 0
      let lo := i0 - wl
      let hi := min (frames - 1) (i0 + 31 + wr)
      let js := span lo (hi + 1 - lo)
      let ks ← js.mapM (fun j => tensorRow x u fw (d.f 2 0 23) rows pitch hd (h * frames + j))
      let vs ← js.mapM (fun j => tensorRow x u fw (d.f 2 24 23) rows pitch hd (h * frames + j))
      blk.forM (fun i => do
        let row := h * frames + i
        let q ← tensorRow x u fa (d.f 1 0 23) rows pitch hd row
        residueCheck x.b (attnUnits c x [fa, fw, pf]) row
        let out ← windowRow x pf fa fw scale q ((js.zip ks).map (fun z => (decide (i ≤ z.1 + wl ∧ z.1 ≤ i + wr), z.2)))
          (vs.map (SRow.vals fw)) hd
        let codes ← (if d.b 6 23 && scalesOut o then
            convScaled x.b o (sram c x.m (d.f 6 0 23)) (d.b 6 24) rows (hd / 32) row 0 out
          else convPlain x.b o out)
        writeMem (sram c x.m (d.f 3 0 23) + row * pitch * 64) (packCodes o codes))))
    change (fun c => undefine c scr.1 scr.2))

/-- ATTN_WINDOW. -/
def execAttnWindow (b : Fin 32) (c : Fin 16) (s : State) : Host.Outcome State Fault Refusal :=
  onChip (issue b c (fun r => r == .window) bodyWindow) s

end Sys2Proof.Machine
end

