-- ==== Sys2Proof/Machine/Codec.lean ====
section
/-! DEFINITION. The table builder and coder (R214 to R226): slots, CODEC_BUILD in its six operations, and waits for a slot. -/

namespace Sys2Proof.Machine

/-- The sluice (FAIL_UNIT). -/
def cxUnit : Nat := 0x35

/-- A slot of a basin. -/
def slotAt (c : Chip) (m : Fin 32) (n : Nat) : Slot := c.basins[m].slots[n % 16]'(Nat.mod_lt _ (by decide))

/-- Does any descriptor in flight code with a slot of basin m (R214). A chain codes with the slots of the basin whose SRAM it names. -/
def slotEncoding (c : Chip) (m : Fin 32) (n : Nat) : Bool :=
  (List.finRange 32).any (fun b => (chainsOf c.basins[b]).any (fun p =>
    (ctxOf b p.1 p.2).m == m && p.2.flight.any (fun f => f.encode.contains n)))

/-- Does any descriptor in flight decode with a slot of basin m (R214, log entry 147). -/
def slotDecoding (c : Chip) (m : Fin 32) (n : Nat) : Bool :=
  (List.finRange 32).any (fun b => (chainsOf c.basins[b]).any (fun p =>
    (ctxOf b p.1 p.2).m == m && p.2.flight.any (fun f => f.decode.contains n)))

/-- A free slot (R215). -/
def slotFree (c : Chip) (m : Fin 32) (n : Nat) : Bool :=
  (slotAt c m n).holds == 0 && (slotAt c m n).state != .building && !slotEncoding c m n && !slotDecoding c m n

/-- Does a table write that reached the slot before wait for it (R220): a descriptor that waits for this slot or for any, or the next table of
a load (R277). A writer that does not wait yet comes after all that do. -/
def slotClaimed (c : Chip) (m : Fin 32) (since : Option Nat) (n : Nat) : Bool :=
  let first := fun (s : Nat) => match since with | some t => decide (s < t) | none => true
  c.ms.loads.any (fun l => l.2.tables.head?.any (fun t => t.b == m && t.slot == n && t.since.any first)) ||
  (List.finRange 32).any (fun b => (chainsOf c.basins[b]).any (fun p =>
    (ctxOf b p.1 p.2).m == m && p.2.flight.any (fun f =>
      (f.wait == .slot n || f.wait == .slot 16) && first f.since)))

/-- The slot that a table write takes now: the one named, or with 16 the lowest free one. -/
def pickSlot (c : Chip) (m : Fin 32) (n : Nat) (since : Option Nat := none) : Option Nat :=
  let ok := fun (s : Nat) => slotFree c m s && !slotClaimed c m since s
  if n < 16 then (if ok n then some n else none) else (List.range 16).find? ok

/-- The source of a build or coding. -/
def codecSrc (x : Ctx) (d : Desc) : Eff (List Byte) := do
  let c ← get
  readMem cxUnit (sram c x.m (d.f 1 0 23)) (d.f 1 24 11 * 4096)

/-- The descriptor of a table write: its number in its chain, and the DCYC_MAX it issued with (R233). -/
structure Writer where
  id : Nat
  dcycMax : Nat
  deriving DecidableEq, Repr

/-- A slot is being written until its descriptor completes, when it becomes READY (R214, R215, log entry 147). -/
def beBuilding (x : Ctx) (w : Writer) (n : Nat) (lens : List Nat) (c : Chip) : Chip :=
  modFlightOf x.b x.k w.id (fun f => { f with builds := f.builds ++ [n] })
    (modSlot x.m n (fun t => { t with state := .building, lens := lens }) c)

/-- BUILD into a slot (R215, R219, R223). A stop leaves the slot EMPTY with its new GEN. -/
def buildTable (x : Ctx) (d : Desc) (n : Nat) : Eff (List Nat) := do
  change (modSlot x.m n (fun t => { t with state := .empty, gen := (t.gen + 1) % 256, lens := [] }))
  let bs ← codecSrc x d
  let lens := buildLens bs
  let c ← get
  if d.b 2 47 then writeMem (sram c x.m (d.f 2 24 23)) (imageOf (slotAt c x.m n).gen lens) else pure ()
  pure lens

/-- LOAD of a table image into a slot (R218). -/
def loadTable (x : Ctx) (d : Desc) (n : Nat) : Eff (List Nat) := do
  let c ← get
  change (modSlot x.m n (fun t => { t with state := .empty, lens := [] }))
  let img ← readMem cxUnit (sram c x.m (d.f 1 0 23)) 192
  change (modSlot x.m n (fun t => { t with gen := (img.getD 0 0).toNat }))
  match imageLens img with
  | none => stopWith eCxImage cxUnit
  | some (_, lens) => pure lens

/-- The SC_TAG of block `i` (R223). -/
def scTag (d : Desc) (i : Nat) : Nat :=
  if !d.b 4 41 then 0 else
    let rowB := d.f 4 24 17
    let e := 4096 * i * 8 / (fmtGet d.wFmt).bits
    ((e / (32 * rowB)) * ceilDiv rowB 8 + e % (32 * rowB) / 256) % 16

/-- What a coding has written: bytes, CODED and RAW blocks, the highest DCYC, and CODED blocks above 64 cycles. -/
structure Written where
  bytes : Nat := 0
  coded : Nat := 0
  raw : Nat := 0
  top : Nat := 0
  slow : Nat := 0
  deriving DecidableEq, Repr

/-- The blocks of a source coded and written one after another (R204, R213, R223). -/
def codeBlocks (x : Ctx) (d : Desc) (t : Slot) (n lim : Nat) (src : List Byte) : Eff Written := do
  let c ← get
  let dst := sram c x.m (d.f 2 0 23)
  ((chunks 4096 src.length src).zip (List.range (d.f 1 24 11))).foldlM (fun (w : Written) p => do
    let (hs, payload, dcyc) := codeBlock t.lens n t.gen (scTag d p.2) lim p.1
    let size := storedSize payload.length
    writeMem (dst + w.bytes) (hs.flatMap (leBytes 8) ++ payload ++ List.replicate (size - 32 - payload.length) 0)
    let coded := decide (0 < dcyc)
    pure { bytes := w.bytes + size, coded := w.coded + b2n coded, raw := w.raw + b2n (!coded), top := max w.top dcyc,
           slow := w.slow + b2n (decide (64 < dcyc)) }) {}

/-- The blocks of a coding with a slot's table: the holds are taken on completion, and the slot is kept until then. -/
def encodeBlocks (x : Ctx) (d : Desc) (w : Writer) (n : Nat) : Eff Written := do
  let c ← get
  change (modFlightOf x.b x.k w.id (fun f => { f with encode := f.encode ++ [n] }))
  let src ← codecSrc x d
  let out ← codeBlocks x d (slotAt c x.m n) n w.dcycMax src
  change (modFlightOf x.b x.k w.id (fun f => { f with holds := f.holds ++ [(n, out.coded)] }))
  pure out

/-- The result record (R224). -/
def codecResult (x : Ctx) (d : Desc) (n : Nat) (w : Written) : Eff Unit := do
  let c ← get
  let words := [n + (slotAt c x.m n).gen * 2 ^ 8 + w.coded * 2 ^ 16 + w.raw * 2 ^ 27 + w.top * 2 ^ 38, w.bytes, w.slow, 0, 0, 0, 0, 0]
  if !d.b 4 23 then pure () else writeWords (sram c x.m (d.f 4 0 23)) words

/-- The output range of a coding. -/
def codecOut (c : Chip) (x : Ctx) (d : Desc) : Nat × Nat := (sram c x.m (d.f 2 0 23), d.f 1 24 11 * 4160)

/-- ENCODE with a slot's table (R216, R223): what would pass the holds stops before any block is written; a later stop leaves the output
undefined (R226). -/
def encodeWith (x : Ctx) (d : Desc) (w : Writer) (n : Nat) : Eff Unit := do
  let c ← get
  stopIf ((slotAt c x.m n).state != .ready) eCxSlot cxUnit
  stopIf (decide (2 ^ 20 - 1 < (slotAt c x.m n).holds + d.f 1 24 11)) eCxHold cxUnit
  undefineOnStop [codecOut c x d] (do
    let out ← encodeBlocks x d w n
    codecResult x d n out)

/-- A table write on the slot it has (BUILD, BUILD_ENCODE, LOAD). -/
def tableWrite (x : Ctx) (d : Desc) (w : Writer) (n : Nat) : Eff Unit := do
  match d.f 1 40 3 with
  | 0 => do
    let lens ← buildTable x d n
    codecResult x d n {}
    change (beBuilding x w n lens)
  | 2 => do
    let lens ← buildTable x d n
    change (modSlot x.m n (fun t => { t with state := .ready, lens := lens }))
    encodeWith x d w n
    change (beBuilding x w n lens)
  | _ => do
    let lens ← loadTable x d n
    codecResult x d n {}
    change (beBuilding x w n lens)

/-- A descriptor as a writer. -/
def newWriter (c : Chip) (x : Ctx) : Writer := { id := x.id, dcycMax := getF c rCxCfg 0 8 }

/-- A table write takes its slot, or waits for it behind those that already wait (R215, R220). -/
def bodyTable (x : Ctx) (d : Desc) : Eff Unit := do
  let c ← get
  match pickSlot c x.m (d.f 3 0 5) with
  | some n => tableWrite x d (newWriter c x) n
  | none =>
    let n := c.basins[x.m].stamp
    change (fun c => modFlightOf x.b x.k x.id (fun f => { f with wait := .slot (d.f 3 0 5), since := n, dcycMax := getF c rCxCfg 0 8 })
      (modBasin x.m (fun s => { s with stamp := n + 1 }) c))

/-- ENCODE. -/
def bodyEncode (x : Ctx) (d : Desc) : Eff Unit := do
  let c ← get
  encodeWith x d (newWriter c x) (d.f 3 0 5)

/-- HOLD and RELEASE (R216). -/
def bodyHolds (x : Ctx) (d : Desc) (f : Nat → Nat → Option Nat) : Eff Unit := do
  let c ← get
  let n := d.f 3 0 5
  let t := slotAt c x.m n
  match f t.holds (d.f 3 16 20) with
  | some h =>
    if t.state = .ready ∧ t.gen = d.f 3 8 8 ∧ h < 2 ^ 20 then do
      change (modSlot x.m n (fun t => { t with holds := h }))
      codecResult x d n {}
    else stopWith eCxHold cxUnit
  | none => stopWith eCxHold cxUnit

/-- BUILD. -/
def execCxBuild (b : Fin 32) (c : Fin 16) (s : State) : Host.Outcome State Fault Refusal :=
  onChip (issue b c (fun r => r == .codec 0) bodyTable) s

/-- ENCODE. -/
def execEncode (b : Fin 32) (c : Fin 16) (s : State) : Host.Outcome State Fault Refusal :=
  onChip (issue b c (fun r => r == .codec 1) bodyEncode) s

/-- BUILD_ENCODE. -/
def execBuildEncode (b : Fin 32) (c : Fin 16) (s : State) : Host.Outcome State Fault Refusal :=
  onChip (issue b c (fun r => r == .codec 2) bodyTable) s

/-- LOAD. -/
def execCxLoad (b : Fin 32) (c : Fin 16) (s : State) : Host.Outcome State Fault Refusal :=
  onChip (issue b c (fun r => r == .codec 3) bodyTable) s

/-- HOLD. -/
def execHold (b : Fin 32) (c : Fin 16) (s : State) : Host.Outcome State Fault Refusal :=
  onChip (issue b c (fun r => r == .codec 4) (fun x d => bodyHolds x d (fun h n => some (h + n)))) s

/-- RELEASE. -/
def execCxRelease (b : Fin 32) (c : Fin 16) (s : State) : Host.Outcome State Fault Refusal :=
  onChip (issue b c (fun r => r == .codec 5) (fun x d => bodyHolds x d (fun h n => if h < n then none else some (h - n)))) s

/-- The descriptor of a chain that waits for a slot. -/
def slotWaiter (c : Chip) (b : Fin 32) (k : Fin 16) : Option (Chain × Flight × Nat) :=
  match c.basins[b].chains[k] with
  | none => none
  | some ch => ch.flight.findSome? (fun f => match f.wait with | .slot n => some (ch, f, n) | _ => none)

/-- A waiting table write takes its slot once it is free and its turn has come, in a basin that may issue (R215, R220): the cycles waited
count in TABLE_WAIT. -/
def slotAcquire (b : Fin 32) (k : Fin 16) (cycles : Nat) (c : Chip) : Chip :=
  match slotWaiter c b k with
  | none => c
  | some (ch, f, n) =>
    let x := { ctxOf b k ch with id := f.id }
    match (if enabled c b then pickSlot c x.m n (some f.since) else none) with
    | none => c
    | some s =>
      let c := bumpUnits c (rCxCtr b.val 3) 256 cycles
      let c := modChain b k (fun ch => { ch with flight := ch.flight.map (fun g => if g.id = f.id then { g with wait := .none } else g) }) c
      match runEff (tableWrite x { w := f.w } { id := f.id, dcycMax := f.dcycMax } s) c with
      | (c, .ok _) => c
      | (c, .error e) => stopFlight b k { f with wait := .none } e c

/-- A table write that waits too long stops (R215). -/
def slotTimeout (b : Fin 32) (k : Fin 16) (cycles : Nat) (c : Chip) : Chip :=
  match slotWaiter c b k with
  | none => c
  | some (_, f, _) => stopFlight b k f { code := eCxSlotWait, unit := cxUnit } (bumpUnits c (rCxCtr b.val 3) 256 cycles)

end Sys2Proof.Machine
end

