-- ==== Sys2Proof/Machine/StateOps.lean ====
section
/-! DEFINITION. State-carrying operators (R91 to R110): state objects and their header checks, STATE_CHUNK with its two kinds and three
modes, the residual lane, the renormalisation hook, and the checkpoints of STATE_CKPT. -/

namespace Sys2Proof.Machine

/-! ### Objects (R93, R94) -/

/-- A state object's header. -/
structure Header where
  mode : Nat
  sFmt : Nat
  hookEn : Bool
  pending : Bool
  d : Nat
  step : Nat
  job : Nat
  reserved : Bool
  deriving DecidableEq, Repr

/-- The header in eight words. -/
def headerOf (ws : List Nat) : Header :=
  let w := fun i => ws.getD i 0
  { mode := fld (w 0) 0 2, sFmt := fld (w 0) 2 4, hookEn := bit (w 0) 6, pending := bit (w 0) 7, d := fld (w 0) 16 17,
    step := fld (w 1) 0 48, job := fld (w 2) 0 16,
    reserved := fld (w 0) 8 8 != 0 || fld (w 0) 33 31 != 0 || fld (w 1) 48 16 != 0 || fld (w 2) 16 48 != 0 ||
      (span 3 5).any (fun i => w i != 0) }

/-- The first two words of a header. -/
def Header.word0 (h : Header) : Nat := h.mode + h.sFmt * 4 + b2n h.hookEn * 64 + b2n h.pending * 128 + h.d * 2 ^ 16

/-- Offset of a COMPACT object's scale packets from its header. -/
def compactB (d : Nat) : Nat := roundUp (64 + d) 64

/-- The size of an object (R94). -/
def objectSize (h : Header) : Nat :=
  match h.mode with
  | 0 => 64 + 6 * h.d
  | 1 => 64 + 4 * h.d
  | _ => roundUp (compactB h.d + predOff 1 (h.d / 32) + h.d / 8) 64

/-- A header that R100's row STATE_HDR stops on, whatever the descriptor: `job` is the descriptor's. DESIGN CHOICE (log entry 174), unsafe: that
row compares D with a descriptor's own, which STATE_CKPT has not; a D that is no multiple of 32 or outside 32 to 65,536 stops it all the same. -/
def headerBad0 (h : Header) (job : Nat) : Bool :=
  h.reserved || h.mode == 3 || (if h.mode ≤ 1 then h.sFmt != 4 else !(h.sFmt == 1 || h.sFmt == 2)) || h.d % 32 != 0 ||
  decide (h.d < 32 ∨ 65536 < h.d) || h.job != job

/-- A descriptor in flight, by its number in its chain. -/
def flightOf (c : Chip) (x : Ctx) : Option Flight := (c.basins[x.b].chains[x.k]).bind (fun ch => ch.flight.find? (fun f => f.id == x.id))

/-- An object that a descriptor names holds BUSY of its record until the descriptor completes or stops (R248): BUSY counts descriptors, so that
one which names an object twice counts once. -/
def holdObject (x : Ctx) (addr : Nat) (c : Chip) : Chip :=
  match recAt c addr with
  | none => c
  | some n =>
    if (flightOf c x).any (fun f => f.busy.contains n) then c
    else addBusy n true (modFlightOf x.b x.k x.id (fun f => { f with busy := f.busy ++ [n] }) c)

/-- A counter of the home basin is signalled, or the signal is kept for the return of a migrated chain (R39, R185, R186). -/
def signalCtr (b : Fin 32) (k : Fin 16) (n : Nat) (c : Chip) : Chip :=
  match c.basins[b].chains[k] with
  | none => c
  | some ch =>
    if ch.place = .migrated then setChain b k (some { ch with signals := ch.signals ++ [n] }) c
    else modBasin (ctxOf b k ch).m (fun s => { s with ctr := tabSet s.ctr n ((tabGet 0 s.ctr n + 1) % 65536) }) c

/-! ### The residual lane (R104) -/

/-- The exponent of ulp(s) of an FP32 value: ulp is 2 to it. -/
def ulpExp (code : Nat) : Int := (max (fld code 23 8) 1 : Nat) - 150

/-- One update of an element: the new state and residual, and whether the residual was held. -/
def compensate (g u : Val) (s : Val) (r : Int) : Val × Int × Bool :=
  let rho : Val := if s.isFin then (Val.ofInt r).shl (ulpExp (f32Code s) - 16) else Val.zero
  let t := ((g.mul s).add (g.mul rho)).add u
  let s' := toF32 t
  match t.add s'.neg, s' with
  | .fin neg m e, .fin _ _ _ =>
    let r' := shiftRound (if neg then -(m : Int) else (m : Int)) (e - ulpExp (f32Code s') + 16)
    if r' = 32768 then (s', 32767, true) else (s', r', false)
  | _, _ => (s', 0, false)

/-! ### STATE_CHUNK -/

/-- A stream within a descriptor: the offset of its object, its header, its state, and its residual lane. -/
structure Stream where
  off : Nat
  h : Header
  s : List Val
  r : List Int
  deriving DecidableEq, Repr

/-- The fields of a STATE_CHUNK. -/
structure Chunk where
  f : Nat
  l : Nat
  streams : Nat
  d : Nat
  dense : Bool
  nonlin : Bool
  deriving DecidableEq, Repr

/-- Those fields of a descriptor. -/
def chunkOf (d : Desc) : Chunk :=
  { f := d.f 1 24 7, l := d.f 1 32 7, streams := d.f 5 23 9, d := d.f 5 38 17, dense := d.b 5 32, nonlin := d.b 5 33 }

/-- The sequencer (FAIL_UNIT), which checks objects and their headers (log entry 20). -/
def seqUnit : Nat := 0x34

/-- The object table and the headers it names are read and checked (R100). -/
def openObjects (x : Ctx) (d : Desc) : Eff (List (Nat × Header)) := do
  let c ← get
  let k := chunkOf d
  let u := seqUnit
  let tb ← readMem u (sram c x.m (d.f 5 0 23)) (4 * k.streams)
  let es := (List.range k.streams).map (fun i => leNat ((tb.drop (4 * i)).take 4))
  stopIf (es.any (fun e => decide (2 ^ 23 ≤ e))) eDescReserved u
  stopIf (es.any (fun e => off64 e || past e 64)) eDescRange u
  let hs ← es.mapM (fun e => do
    let ws ← readWords u (sram c x.m e) 8
    pure (e, headerOf ws))
  stopIf (hs.any (fun p => headerBad0 p.2 d.job || p.2.d != k.d || (p.2.mode == 0 && (k.dense || k.nonlin)))) eStateHdr u
  stopIf (hs.any (fun p => past p.1 (objectSize p.2))) eDescRange u
  stopIf (hs.any (fun p => p.2.pending)) eStateHook u
  pure hs

/-- A stream's state is loaded (R97, R98). -/
def loadStream (x : Ctx) (p : Nat × Header) : Eff Stream := do
  let c ← get
  let a := sram c x.m p.1
  let n := p.2.d
  if p.2.mode ≤ 1 then do
    let bs ← readMem vecUnit (a + 64) (4 * n)
    let rs ← (if p.2.mode = 0 then do
      let rb ← readMem vecUnit (a + 64 + 4 * n) (2 * n)
      pure ((List.range n).map (fun i => signed 16 (leNat ((rb.drop (2 * i)).take 2))))
      else pure [])
    pure { off := p.1, h := p.2, s := (List.range n).map (fun i => valOf .fp32 (element .fp32 bs i)), r := rs }
  else do
    let f := fmtGet p.2.sFmt
    let sc ← rowScales (a + compactB n) (n / 32) 0 0 (n / 32)
    checkEcc 0x36 (a + compactB n + predOff 1 (n / 32)) (n / 8)
    let bs ← readMem vecUnit (a + 64) n
    let vs := (List.range n).map (fun i =>
      let s := sc.getD (i / 32) sc16One
      toF32 ((valOf f (element f bs i)).mul (.fin false s.mant (s.exp - 7))))
    pure { off := p.1, h := p.2, s := vs, r := [] }

/-- A row of elements of a tensor of the descriptor, widened. -/
def readRow (x : Ctx) (f : Fmt) (base pitch row n : Nat) : Eff (List Val) := do
  let cs ← readCodes x vecUnit f (base + row * pitch * 64) n
  pure (cs.map (widen f))

/-- Three lists walked together. -/
def zip3 {α β γ : Type} (xs : List α) (ys : List β) (zs : List γ) : List (α × β × γ) := xs.zip (ys.zip zs)

/-- A frame of the diagonal recurrence for one stream (R97, R98). -/
def frameDiag (x : Ctx) (d : Desc) (k : Chunk) (t i : Nat) (st : Stream) : Eff Stream := do
  let row := i * (k.f + k.l) + t
  let us ← readRow x (fmtGet d.aFmt) (d.f 1 0 23) (d.f 1 40 16) row k.d
  let gs ← readRow x (fmtGet d.wFmt) (d.f 2 0 23) (d.f 2 25 16) (if d.b 2 24 then i else row) k.d
  residueCheck x.b [vecUnit] (t * k.streams + i)
  if st.h.mode = 0 then do
    let ys := (zip3 gs us (st.s.zip st.r)).map (fun q => compensate q.1 q.2.1 q.2.2.1 q.2.2.2)
    change (fun c => bump c (rStateCtr x.b.val 2) (ys.filter (fun y => y.2.2)).length)
    pure { st with s := ys.map (·.1), r := ys.map (fun y => y.2.1) }
  else pure { st with s := (zip3 gs us st.s).map (fun q => fFma q.1 q.2.2 q.2.1) }

/-- TANH of an FP32 value (R51). -/
def tanhOf (v : Val) : Val := valOf .fp32 (sfuOf 5 (f32Code v))

/-- The fields of the product q(h) · Wh. -/
def chunkProd (c : Chip) (x : Ctx) (d : Desc) (k : Chunk) (t : Nat) : Prod :=
  { aFmt := fmtGet (d.f 5 34 4), wFmt := fmtGet d.wFmt, gang := d.gang, m := k.streams, k := k.d, n := k.d,
    unit := 0x21 + (myJets c x).headD 0, units := jetUnits (myJets c x), row0 := t * k.streams }

/-- A frame of the dense recurrence for every stream (R97): the products of a row block of all streams, then the input term. -/
def frameDense (x : Ctx) (d : Desc) (k : Chunk) (t : Nat) (ss : List Stream) : Eff (List Stream) := do
  let c ← get
  let p := chunkProd c x d k t
  let pt := portOf c x
  let qs := ss.map (fun st => st.s.map (conv p.aFmt))
  change (countConv x.b qs.flatten)
  let rows := List.range k.streams
  let held : Tab (List Nat) := rows.map (fun i => (i, ((qs.getD i []).map (·.code))))
  let nt := (tileOf p.wFmt p.gang).2
  let r ← (rowBlocks p false).foldlM (fun (o : Tab (List Cell)) rows => do
    let q ← (List.range (ceilDiv p.n nt)).foldlM (fun (s : Src × Tab (List Cell)) j => do
      let nc := min nt (p.n - j * nt)
      let st ← reduceTile p pt (some held) j (fun r _ => drainCheck x.b p r) rows
        { a := .raw 0, w := s.1, cells := rows.map (fun r => (r, List.replicate nc p.clear)) }
      pure (st.w, rows.foldl (fun o r => tabSet o r (tabGet [] o r ++ tabGet [] st.cells r)) s.2)) (srcOf (d.f 2 0 23) (d.b 2 23), o)
    pure q.2) []
  (ss.zip rows).mapM (fun q => do
    let us ← readRow x (fmtGet d.aFmt) (d.f 1 0 23) (d.f 1 40 16) (q.2 * (k.f + k.l) + t) k.d
    let xs := ((tabGet [] r q.2).zip us).map (fun y => fAdd (fltResult y.1) y.2)
    pure { q.1 with s := if k.nonlin then xs.map tanhOf else xs })

/-- Rows of Y of a frame are written, once every stream has passed it (R97). -/
def writeY (x : Ctx) (d : Desc) (k : Chunk) (t : Nat) (ss : List Stream) : Eff Unit := do
  if !d.b 3 23 then pure () else do
    let c ← get
    let f := fmtGet d.outFmt
    (ss.zip (List.range ss.length)).forM (fun q => do
      let row := q.2 * (k.f + k.l) + t
      let codes ← (if d.b 6 23 && scalesOut f then
          convScaled x.b f (sram c x.m (d.f 6 0 23)) false (k.streams * (k.f + k.l)) (k.d / 32) row 0 q.1.s
        else convPlain x.b f q.1.s)
      writeMem (sram c x.m (d.f 3 0 23) + row * d.f 3 24 16 * 64) (packCodes f codes))

/-- Frame `t` of all streams. -/
def runFrame (x : Ctx) (d : Desc) (k : Chunk) (t : Nat) (ss : List Stream) : Eff (List Stream) := do
  let out ← (if k.dense then frameDense x d k t ss
    else (ss.zip (List.range ss.length)).mapM (fun q => frameDiag x d k t q.2 q.1))
  writeY x d k t out
  pure out

/-- Does the hook of an object fire (R106). -/
def hookFires (c : Chip) (h : Header) (f : Nat) : Bool :=
  let p := 2 ^ getF c rStCfg 0 5
  h.hookEn && h.step / p != (h.step + f) / p

/-- A stream's object is written back (R98, R101, R106). -/
def writeBack (x : Ctx) (k : Chunk) (st : Stream) : Eff Bool := do
  let c ← get
  let a := sram c x.m st.off
  let n := st.h.d
  change (fun c => bump c (rStateCtr x.b.val 3) (st.s.filter (fun v => !v.isFin)).length)
  (if st.h.mode ≤ 1 then do
    writeMem (a + 64) (st.s.flatMap (fun v => leBytes 4 (f32Code v)))
    if st.h.mode = 0 then writeMem (a + 64 + 4 * n) (st.r.flatMap (fun i => leBytes 2 (unsigned 16 i))) else pure ()
  else do
    let f := fmtGet st.h.sFmt
    let codes ← convScaled x.b f (a + compactB n) true 1 (n / 32) 0 0 st.s
    writeMem (a + 64) (packCodes f codes))
  let fires := hookFires c st.h k.f
  writeWords a [({ st.h with pending := fires }).word0, (st.h.step + k.f) % 2 ^ 48]
  change (fun c => bump c (rStateCtr x.b.val 1) (b2n fires))
  pure fires

/-- STATE_CHUNK (R97 to R106). DESIGN CHOICE (log entry 173), unsafe: of a table that names one object for several streams the spec says nothing;
each of them starts from the object as it stood, the last one written back stays, and hook and STATE_NONFINITE count for each. -/
def bodyChunk (x : Ctx) (d : Desc) : Eff Unit := do
  let c ← get
  let k := chunkOf d
  let hs ← openObjects x d
  hs.forM (fun p => change (holdObject x (sram c x.m p.1)))
  let ss ← hs.mapM (loadStream x)
  let first ← (List.range k.f).foldlM (fun ss t => runFrame x d k t ss) ss
  let _ ← (span k.f k.l).foldlM (fun ss t => runFrame x d k t ss) first
  let fired ← first.mapM (writeBack x k)
  if fired.any id && d.b 7 6 then change (signalCtr x.b x.k (d.f 7 0 6)) else pure ()

/-- STATE_CHUNK. -/
def execStateChunk (b : Fin 32) (c : Fin 16) (s : State) : Host.Outcome State Fault Refusal :=
  onChip (issue b c (fun r => r == .chunk) bodyChunk) s

/-! ### STATE_CKPT (R108, R109) -/

/-- The object of a STATE_CKPT: its address and header, checked. DESIGN CHOICE (log entry 175), unsafe: a header beyond 0x5F_FFFF is found after
issue with the same code that R43 order 7 would give, and ISSUE_REJECT does not count it; the spec does not say which of the two it is. -/
def ckptObject (x : Ctx) (d : Desc) : Eff (Nat × Header) := do
  let c ← get
  let off := d.f 1 0 23
  stopIf (past off 64) eDescRange seqUnit off
  let a := sram c x.m off
  change (holdObject x a)
  let ws ← readWords seqUnit a 8
  let h := headerOf ws
  stopIf (headerBad0 h d.job) eStateHdr seqUnit off
  stopIf (past off (objectSize h)) eDescRange seqUnit off
  pure (a, h)

/-- SAVE. -/
def bodySave (x : Ctx) (d : Desc) : Eff Unit := do
  let (a, h) ← ckptObject x d
  checkPlace copyUnit (d.f 2 0 48) (objectSize h)
  let bs ← readMem copyUnit a (objectSize h)
  writeOut (d.f 2 0 48) bs

/-- RESTORE. -/
def bodyRestore (x : Ctx) (d : Desc) : Eff Unit := do
  let (a, h) ← ckptObject x d
  let ck := d.f 2 0 48
  checkPlace copyUnit ck 64
  let ws ← readWords seqUnit ck 8
  let g := headerOf ws
  stopIf (headerBad0 g d.job || g.job != h.job || g.mode != h.mode || g.sFmt != h.sFmt || g.d != h.d) eStateHdr seqUnit ck
  checkPlace copyUnit ck (objectSize h)
  let bs ← readMem copyUnit ck (objectSize h)
  writeMem a bs

/-- CLEAR_HOOK (R107). -/
def bodyClearHook (x : Ctx) (d : Desc) : Eff Unit := do
  let (a, h) ← ckptObject x d
  writeWords a [({ h with pending := false }).word0]

/-- SAVE. -/
def execSave (b : Fin 32) (c : Fin 16) (s : State) : Host.Outcome State Fault Refusal :=
  onChip (issue b c (fun r => r == .ckpt 0) bodySave) s

/-- RESTORE. -/
def execRestore (b : Fin 32) (c : Fin 16) (s : State) : Host.Outcome State Fault Refusal :=
  onChip (issue b c (fun r => r == .ckpt 1) bodyRestore) s

/-- CLEAR_HOOK. -/
def execClearHook (b : Fin 32) (c : Fin 16) (s : State) : Host.Outcome State Fault Refusal :=
  onChip (issue b c (fun r => r == .ckpt 2) bodyClearHook) s

end Sys2Proof.Machine
end

