-- ==== Sys2Proof/Machine/MsOps.lean ====
section
/-! DEFINITION. Model sets (R267 to R297), what the commands of the chapter share: the set table and bindings, the manifest, the
loading of shards and tables at the reader and at a receiver, the barrier of a replacement, and what the loss of a package
does to them. -/

namespace Sys2Proof.Machine

/-! ### The end of a load (R277 step 7) -/

/-- COMPLETE on this package (R277 step 7). -/
def completeLoad (e : Nat) (c : Chip) : Chip :=
  match tabFind c.ms.loads e with
  | none => c
  | some l =>
    let c := { c with ms := { c.ms with loads := tabDel c.ms.loads e } }
    let c := if l.member then
        if l.stage then
          putF (putF { c with ms := { c.ms with staged := tabSet c.ms.staged e (l.man, l.bias) } } (rSet e 0) 3 2 2) (rSet e 1) 0 16
            l.man.epoch.toNat
        else
          putF (putF { c with ms := { c.ms with current := tabSet c.ms.current e l.man } } (rSet e 0) 0 3 2) (rSet e 0) 16 16
            l.man.epoch.toNat
      else c
    if l.mine then finishCmdAt l.block 0 0 (bump c (rMsCtr 4)) else c

/-! ### Tables (R277 step 3) -/

/-- The table writes of a manifest in this package: basins that are not enabled are skipped. -/
def tableJobs (c : Chip) (m : Manifest) : List TableJob :=
  m.tables.flatMap (fun t => (List.finRange 32).filterMap (fun b =>
    if bit t.basins.toNat b.val && enabled c b then some { b := b, slot := t.slot.toNat, holds := t.holds.toNat, image := t.image }
    else none))

/-- One table written to its slot with its holds. -/
def writeTable (e : Nat) (t : TableJob) (c : Chip) : Chip :=
  match imageLens t.image with
  | none => c
  | some (g, lens) =>
    let c := modSlot t.b t.slot (fun s => { s with state := .ready, gen := g, lens := lens, holds := s.holds + t.holds }) c
    modLoad e (fun l => { l with holds := l.holds ++ [(t.b, t.slot, t.holds)] }) c

/-- The table writes of a load go on until one must wait for its slot (R215), behind the writes that reached it before (R220). -/
def runTables (e : Nat) : List TableJob → Chip → Chip
  | [], c => modLoad e (fun l => { l with tables := [] }) c
  | t :: r, c =>
    match pickSlot c t.b t.slot t.since with
    | some _ => runTables e r (writeTable e t c)
    | none =>
      if t.since.isSome then modLoad e (fun l => { l with tables := t :: r }) c
      else
        let n := c.basins[t.b].stamp
        modBasin t.b (fun s => { s with stamp := n + 1 }) (modLoad e (fun l => { l with tables := { t with since := some n } :: r }) c)

/-! ### The reader (R277 steps 4 to 6, R279, R280) -/

/-- The receivers that a further attempt of a shard is for (R280): the others of PEERS that have not reported it GOOD. -/
def shardFor (c : Chip) (l : Load) (i : Nat) : List Nat := l.peers.filter (fun p => p != pkg c && !fenced c p && !l.good.contains (p, i))

/-- The reader begins a read of a shard and announces it (R277 step 4), unless it is one more than the limit allows (R280). A read in hand is set
aside for it. -/
def readNow (e i : Nat) (c : Chip) : Chip :=
  match tabFind c.ms.loads e with
  | none => c
  | some l =>
    let k := tabGet 0 l.reads i
    if 1 + l.retry ≤ k then failLoad e (if l.bad.contains i then 5 else 6) c
    else
      let c := if 0 < k then bump c (rMsCtr 0) else c
      sendMsg (shardFor c l i) 0 (.announce e i) (modLoad e (fun l =>
        { l with hand := some i, paused := l.hand.toList ++ l.paused, reads := tabSet l.reads i (k + 1) }) c)

/-- The reader begins the next read: one that it had set aside goes on, then a further read, then the next shard. -/
def beginShard (e : Nat) (c : Chip) : Chip :=
  match tabFind c.ms.loads e with
  | none => c
  | some l =>
    match l.paused, l.again with
    | i :: r, _ => modLoad e (fun l => { l with hand := some i, paused := r }) c
    | [], i :: r => readNow e i (modLoad e (fun l => { l with again := r }) c)
    | [], [] =>
      if l.next < l.man.shards.length then readNow e l.next (modLoad e (fun l => { l with next := l.next + 1 }) c) else c

/-- The reader holds DONE from a receiver; with all of them it multicasts COMPLETE. -/
def loadDoneAt (e p : Nat) (c : Chip) : Chip :=
  let c := modLoad e (fun l => { l with done := insertNat p l.done }) c
  match tabFind c.ms.loads e with
  | none => c
  | some l =>
    if l.mine && l.peers.all (fun q => l.done.contains q) then completeLoad e (sendConfirmed l.peers (.loadComplete e) c) else c

/-- The reader takes a GOOD report. -/
def shardGoodAt (e p i : Nat) (c : Chip) : Chip :=
  modLoad e (fun l => if l.good.contains (p, i) then l else { l with good := (p, i) :: l.good }) c

/-- A further read of a shard is due (R280): at once where an attempt was corrupt, before the read in hand goes on (log entry 182); where it is
missing, behind the others once that read ends. -/
def readAgain (e i : Nat) (corrupt : Bool) (c : Chip) : Chip :=
  match tabFind c.ms.loads e with
  | none => c
  | some l =>
    let c := modLoad e (fun l => { l with bad := if corrupt then insertNat i l.bad else l.bad }) c
    if l.hand == some i || l.paused.contains i then c
    else if corrupt then readNow e i (modLoad e (fun l => { l with again := l.again.filter (· != i) }) c)
    else if l.again.contains i then c
    else
      let c := modLoad e (fun l => { l with again := l.again ++ [i] }) c
      if l.hand.isNone then beginShard e c else c

/-! ### A receiver (R277 step 5, R279) -/

/-- This package reports on a shard, to the reader or to itself. -/
def reportShard (e i : Nat) (good : Bool) (c : Chip) : Chip :=
  match tabFind c.ms.loads e with
  | none => c
  | some l =>
    let c := if good then shardGoodAt e (pkg c) i c else c
    if l.mine then (if good then c else readAgain e i true c)
    else sendConfirmed [l.reader.toNat] (if good then .shardGood e i else .shardBad e i) c

/-- Every table is written and every shard is GOOD here: DONE (R277 steps 3 and 6). -/
def reportLoadDone (e : Nat) (c : Chip) : Chip :=
  match tabFind c.ms.loads e with
  | none => c
  | some l =>
    if l.tables == [] && l.member && (List.range l.man.shards.length).all (fun i => l.good.contains (pkg c, i)) &&
        !l.done.contains (pkg c) then
      let c := modLoad e (fun l => { l with done := insertNat (pkg c) l.done }) c
      if l.mine then loadDoneAt e (pkg c) c else sendConfirmed [l.reader.toNat] (.loadDone e) c
    else c

/-- The tables are done where they can be; once they are, the reader begins its first shard, and a receiver whose shards are all GOOD is DONE. -/
def loadGoesOn (e : Nat) (c : Chip) : Chip :=
  match tabFind c.ms.loads e with
  | none => c
  | some l =>
    let c := runTables e l.tables c
    match tabFind c.ms.loads e with
    | some l =>
      if l.tables != [] then c
      else if l.mine && l.hand == none && l.next == 0 then beginShard e c
      else reportLoadDone e c
    | none => c

/-- An attempt of a shard is announced and received: its bytes are written over DEST + BIAS, it is missing here while any byte of the latest
announcement is (R279), and the shard is GOOD when the hash of all of them agrees
and the reader has marked the attempt good. -/
def receiveShard (e : Nat) (x : ShardRx) (c : Chip) : Chip :=
  match tabFind c.ms.loads e with
  | none => c
  | some l =>
    match l.man.shards[x.index]? with
    | none => c
    | some s =>
      if !l.member || l.good.contains (pkg c, x.index) then c
      else
        let bs := x.bytes.take s.len.toNat
        let c := putMem c (shardDest c l s) bs
        if !x.whole then modLoad e (fun l => { l with whole := l.whole.filter (· != x.index) }) c
        else
          let c := modLoad e (fun l => { l with whole := insertNat x.index l.whole }) c
          let good := x.good && bs.length == s.len.toNat && Config.sha256 bs == s.hash
          reportLoadDone e (reportShard e x.index good c)

/-- The bytes of a shard as the reader's security engine gives them, and whether the attempt is good (R274, R279): a failed flash read
or tag leaves bytes that the spec does not give (log entry 1). -/
def readShard (l : Load) (i : Nat) (s : ShardEnt) (c : Chip) : List Byte × Bool × Chip :=
  let a := pkg c * 2 ^ 44 + l.base + s.flashOff.toNat
  let c := countReads a s.len.toNat c
  let raw := flashBytes c a s.len.toNat
  let junk := (List.range s.len.toNat).map (Config.freeByte c.free)
  if flashBad c a s.len.toNat then
    (junk, false, report { code := eFlashUe, sev := sevOf eFlashUe, src := 0x24, addr := a } { c with free := c.free + 1 })
  else if s.form = 1 then (raw, Config.sha256 raw == s.hash, c)
  else
    let aad := leBytes 8 l.man.setUid.toNat ++ leBytes 8 l.man.epoch.toNat ++ leBytes 4 i
    match Config.gcmOpen (l.key.getD []) s.nonce aad s.tag raw with
    | some bs => (bs, Config.sha256 bs == s.hash, c)
    | none => (junk, false, { c with free := c.free + 1 })

/-- The bytes of a shard are multicast to its receivers (R277 step 4), coded on each link of the tree where LINK_CODE says so (R275). -/
def castShard (dsts : List Nat) (loc : Nat) (bs : List Byte) (c : Chip) : Chip :=
  let links := ((dsts.filterMap (fun p => (nextHop c p).map (·.1))).eraseDups).filterMap (bindLink c)
  sendCast dsts loc bs (links.foldl (fun c l => codeLink l 0 (sys c loc) bs c) c)

/-- The reader ends the read of the shard in hand (R277 step 4, R279, R280): its bytes go to the receivers, and whether the attempt is good.
Decrypted bytes that fail their check stay in the engine (R275, R458). -/
def shardRead (e : Nat) (c : Chip) : Chip :=
  match tabFind c.ms.loads e with
  | none => c
  | some l =>
    if !l.mine then c
    else
      match l.hand with
      | none => loadGoesOn e c
      | some i =>
        match l.man.shards[i]? with
        | none => c
        | some s =>
          let (bs, good, c) := readShard l i s c
          let c := modLoad e (fun l => { l with hand := none, bad := if good then l.bad.filter (· != i) else insertNat i l.bad }) c
          let c := if good || s.form == 1 then castShard (shardFor c l i) (s.dest.toNat + l.bias) bs c else c
          let c := sendMsg (shardFor c l i) 0 (.shardMark e i good) c
          if !good then
            let c := if l.member && s.form == 1 && !l.good.contains (pkg c, i) then putMem c (shardDest c l s) bs else c
            readNow e i c
          else
            let c := receiveShard e { index := i, bytes := bs, whole := true, good := true } c
            match tabFind c.ms.loads e with
            | some l => if l.hand.isNone then beginShard e c else c
            | none => c

/-! ### Table writes that wait (R215, R277) -/

/-- The load whose next table write waits for a slot of basin b. -/
def waitingLoad (c : Chip) (b : Fin 32) : Option Nat :=
  (c.ms.loads.find? (fun x => match x.2.tables with | t :: _ => t.b == b | [] => false)).map (·.1)

/-- CODEC_SLOT_ACQUIRE: of the descriptor of context c that waits, or else of the load that waits in the basin. -/
def execCodecSlotAcquire (b : Fin 32) (c : Fin 16) (cycles : Nat) (s : State) : Host.Outcome State Fault Refusal :=
  onChip (fun p =>
    match slotWaiter p b c, waitingLoad p b with
    | none, some e =>
      let q := loadGoesOn e p
      if waitingLoad q b = some e ∧ q = p then p else bumpUnits q (rCxCtr b.val 3) 256 cycles
    | _, _ => slotAcquire b c cycles p) s

/-- TABLE_WAIT_TIMEOUT: a descriptor stops, or a load fails with SLOT. -/
def execTableWaitTimeout (b : Fin 32) (c : Fin 16) (cycles : Nat) (s : State) : Host.Outcome State Fault Refusal :=
  onChip (fun p =>
    match slotWaiter p b c, waitingLoad p b with
    | none, some e => loadFails e 8 (bumpUnits p (rCxCtr b.val 3) 256 cycles)
    | _, _ => slotTimeout b c cycles p) s

end Sys2Proof.Machine
end

