-- ==== Sys2Proof/Machine/Posts.lean ====
section
/-! DEFINITION. Runs that are posted (R179, R250, R276), which may lie in another package and are then read before the write of COUNT is
answered, and what the answers of other packages do to queued items (R177, R180). -/

namespace Sys2Proof.Machine

/-! ### The answer to an access -/

/-- An access of the indirect window ends (R379). -/
def windowEnd (data : Option Nat) (code : Nat) (c : Chip) : Chip :=
  let c := { c with window := {} }
  let c := match data with | some v => putReg c rIwData v | none => c
  let c := setStatus 8 (putF (putF c rIwCtrl 7 1 0) rIwCtrl 16 16 code)
  if bit (getReg c rIwCtrl) 6 then
    let a := (getReg c rIwLo + getReg c rIwHi * 2 ^ 32 + 4) % 2 ^ 48
    putReg (putReg c rIwLo a) rIwHi (a / 2 ^ 32)
  else c

/-- A datagram to the host on a port of NET_UDP, by whichever link is up (R363). -/
def toHost (off typ seq : Nat) (body : List Byte) (c : Chip) : Chip :=
  sendDatagram 2 off (getReg c 0x3100C) (getF c 0x31004 0 16 + off) (udpPayload c typ 0 seq 0 body) c

/-- The answer of a host control channel is known (R367). -/
def ctlAnswer (chB : Bool) (seq data code : Nat) (c : Chip) : Chip :=
  let c := { c with ctl := c.ctl.set (b2n chB) { seq := some seq, answer := some (data, code) } (by cases chB <;> decide) }
  toHost (2 + b2n chB) 5 seq (leBytes 4 data ++ leBytes 2 code) c

/-- The code of a write whose outcome is not known yet: no error has it. -/
def eLater : Nat := 65536

/-- A report of a refused register access, at its default severity (R422). One whose outcome is not known yet makes none. -/
def reportAccess (code src : Nat) (c : Chip) : Chip :=
  if code = 0 ∨ code = eLater then c else report { code := code, sev := sevOf code, src := src } c

/-! ### Items (R176) -/

/-- The item that eight words spell, and whether a reserved bit is set, a job number above 255 included (R9). -/
def itemOf (w : List Nat) : Item :=
  let f := fun i lo n => fld (w.getD i 0) lo n
  { chain := BitVec.ofNat 23 (f 0 0 23), kind := BitVec.ofNat 2 (f 0 24 2), locality := BitVec.ofNat 3 (f 0 26 3),
    jets := BitVec.ofNat 2 (f 0 29 2), job := BitVec.ofNat 16 (f 0 32 16), key := BitVec.ofNat 16 (f 0 48 16),
    stepTag := BitVec.ofNat 32 (f 1 0 32), layerSeq := BitVec.ofNat 16 (f 1 32 16), gate := BitVec.ofNat 48 (f 2 0 48),
    gateVal := BitVec.ofNat 16 (f 2 48 16), done := BitVec.ofNat 48 (f 3 0 48), workOff := BitVec.ofNat 23 (f 4 0 23),
    workLen := BitVec.ofNat 17 (f 4 24 17), inLen := BitVec.ofNat 17 (f 4 41 17), retOff := BitVec.ofNat 23 (f 5 0 23),
    retLen := BitVec.ofNat 17 (f 5 24 17), pfChain := BitVec.ofNat 23 (f 6 0 23), pfEn := f 6 23 1 == 1, obj := BitVec.ofNat 23 (f 6 24 23),
    reserved := f 0 23 1 != 0 || f 0 31 1 != 0 || f 1 48 16 != 0 || f 3 48 16 != 0 || f 4 23 1 != 0 || f 4 58 6 != 0 || f 5 23 1 != 0 ||
      f 5 41 23 != 0 || f 6 47 17 != 0 || f 7 0 64 != 0 || decide (256 ≤ f 0 32 16) }

/-- A chunk item (KIND 2). -/
def isChunk (it : Item) : Bool := it.kind.toNat == 2

/-- The steal window (R201): its first byte and its end. -/
def windowOf (c : Chip) : Nat × Nat :=
  let base := getF c rWqWindow 0 7 * 65536
  (base, base + getF c rWqWindow 8 6 * 65536)

/-- An item that fails checks 2 to 4 of R179. -/
def itemBad (c : Chip) (it : Item) : Bool :=
  let off := fun (a : Nat) => a % 64 != 0 || decide (sramEnd ≤ a)
  let (lo, hi) := windowOf c
  let w0 := it.workOff.toNat
  let w1 := w0 + it.workLen.toNat * 64
  it.reserved || it.kind.toNat == 3 || decide (5 ≤ it.locality.toNat) || off it.chain.toNat || off it.pfChain.toNat || off it.obj.toNat ||
  (isChunk it && decide (1 < it.locality.toNat)) || (!isChunk it && it.obj.toNat != 0) ||
  (decide (2 ≤ it.locality.toNat) &&
    (it.workLen.toNat == 0 || decide (w0 < lo) || decide (hi < w1) ||
     !decide (w0 ≤ it.chain.toNat ∧ it.chain.toNat < w0 + it.inLen.toNat * 64) || decide (it.workLen.toNat < it.inLen.toNat) ||
     (it.retLen.toNat != 0 && !decide (w0 ≤ it.retOff.toNat ∧ it.retOff.toNat + it.retLen.toNat * 64 ≤ w1))))

/-- An item that the barrier of a replacement rejects (R284). -/
def itemLate (c : Chip) (it : Item) : Bool :=
  match boundSet c it.job.toNat with
  | some e =>
    setState c e == 3 && tickLe (armTick c e) (tickOf c) && tickBefore it.stepTag.toNat (armTick c e) &&
    decide (firstSeq c e ≤ it.layerSeq.toNat ∧ it.layerSeq.toNat ≤ lastSeq c e)
  | none => false

/-- The record of a chunk item's object (R248), if it has one. -/
def objectRec (c : Chip) (b : Fin 32) (it : Item) : Option Nat := if isChunk it then recAt c (sram c b it.obj.toNat) else none

/-- Is the object of a chunk item RESIDENT; an object without a record always is (R248). -/
def objectThere (c : Chip) (b : Fin 32) (it : Item) : Bool :=
  match (objectRec c b it).bind (tabFind c.recs) with
  | some r => r.state == .resident
  | none => true

/-! ### Posting (R179) -/

/-- One item enters the tail: its 64 bytes in the ring, and its state ticket (R111, R178). DESIGN CHOICE (log entry 149), unsafe: where PINS of
the record already reads 65,535, the spec names an error for PIN alone; the item enters and takes no ticket. -/
def pushItem (b : Fin 32) (p : Item × List Nat) (c : Chip) : Chip :=
  let s := c.basins[b]
  let c := putMem c (sram c b (getF c (rWqBase b.val) 0 9 * 16384 + s.tail % 256 * 64)) (p.2.flatMap (leBytes 8))
  let t := (objectRec c b p.1).bind (fun n => (tabFind c.recs n).bind (fun r => if r.pins < 65535 then some n else none))
  let c := match t with | some n => modRec n (fun r => { r with pins := r.pins + 1 }) c | none => c
  modBasin b (fun s => { s with tail := (s.tail + 1) % 256, thief := if s.thief = .backoff then .idle else s.thief,
                                queue := s.queue ++ [{ item := p.1, gateOk := p.1.gate == 0, ticket := t }] }) c

/-- A rejected post (R179). -/
def rejectPost (b : Fin 32) (code : Nat) (c : Chip) : Nat × Chip :=
  (code, putF (bump c (rWqCtr b.val 6)) (rWqStatus b.val) 16 16 code)

/-- The words of a run of items are posted, or rejected whole; `aligned` says that the run lies at a multiple of 64. -/
def postItems (b : Fin 32) (aligned : Bool) (ws : List (List Nat)) (c : Chip) : Nat × Chip :=
  let its := ws.map itemOf
  if 256 < c.basins[b].queue.length + ws.length then rejectPost b eWqFull c
  else if !aligned || its.any (itemBad c) then rejectPost b eItemFmt c
  else if its.any (itemLate c) then rejectPost b eReplPost c
  else (0, refreshHeld ((its.zip ws).foldl (fun c p => pushItem b p c) c))

/-! ### Runs (R179, R250, R276) -/

/-- The address of a post: ADDR_LO with ADDR_HI. -/
def postAddr (c : Chip) (lo hi : Nat) : Nat := getReg c lo + getF c hi 0 16 * 2 ^ 32

/-- The words of each of `n` blocks of `size` bytes. -/
def runWords (size n : Nat) (bs : List Byte) : List (List Nat) :=
  (List.range n).map (fun i => (List.range (size / 8)).map (fun j => leNat ((bs.drop (size * i + 8 * j)).take 8)))

/-- The blocks of a run that was read. -/
def runBlocks (m : Master) (a size n : Nat) (bs : List Byte) : List Block :=
  ((List.range n).zip (runWords size n bs)).map (fun p => { addr := a + size * p.1, w := p.2, master := m })

/-- The blocks of PL_STATUS.PENDING. -/
def plPending (c : Chip) : Chip := putF c rPlStatus 0 9 (c.plQueue.filter (fun x => x.origin == .posted)).length

/-- A refused post of placement requests. -/
def plRefuse (code : Nat) (c : Chip) : Nat × Chip := (code, putF c rPlStatus 16 16 code)

/-- MS_STATUS.PENDING. -/
def msPending (c : Chip) : Chip := putF c rMsStatus 0 9 (c.ms.queue.filter (fun x => x.origin == .posted)).length

/-- A refused post of command blocks. -/
def msRefuse (code : Nat) (c : Chip) : Nat × Chip := (code, putF c rMsStatus 16 16 code)

/-- Bytes to a block of a run. -/
def PostKind.size : PostKind → Nat
  | .commands => 128
  | _ => 64

/-- Who reads a run. -/
def PostKind.reader : PostKind → Master
  | .items b => basinMaster b
  | _ => hubMaster

/-- Blocks take their place in a queue: where the run that is being read has kept it, or at the end. -/
def putBlocks (place : Option Nat) (xs q : List Block) : List Block :=
  match place with
  | none => q ++ xs
  | some n => q.flatMap (fun x => if x.origin == .reading n then xs else [x])

/-- A run keeps its place in the order of arrival while it is read (R250). -/
def holdPlace (k : PostKind) (n : Nat) (c : Chip) : Chip :=
  let x : Block := { addr := 0, w := [], master := 0, origin := .reading n }
  match k with
  | .items _ => c
  | .requests => { c with plQueue := c.plQueue ++ [x] }
  | .commands => { c with ms := { c.ms with queue := c.ms.queue ++ [x] } }

/-- A run that was read is accepted: the code of its refusal, or 0. -/
def postTake (k : PostKind) (m : Master) (a n : Nat) (place : Option Nat) (bs : List Byte) (c : Chip) : Nat × Chip :=
  match k with
  | .items b => postItems b (a % 64 == 0) (runWords 64 n bs) c
  | .requests => (0, plPending { c with plQueue := putBlocks place (runBlocks m a 64 n bs) c.plQueue })
  | .commands => (0, msPending { c with ms := { c.ms with queue := putBlocks place (runBlocks m a 128 n bs) c.ms.queue } })

/-- A run that cannot be read is refused whole. -/
def postRefuse (k : PostKind) (place : Option Nat) (code : Nat) (c : Chip) : Nat × Chip :=
  match k with
  | .items b => rejectPost b code c
  | .requests => plRefuse code { c with plQueue := if place.isSome then putBlocks place [] c.plQueue else c.plQueue }
  | .commands => msRefuse code { c with ms := { c.ms with queue := if place.isSome then putBlocks place [] c.ms.queue else c.ms.queue } }

/-- A run is read whole before any block of it is looked at (R179, R250, R276): the code of its refusal, 0, or that the outcome is not known
until another package has answered. -/
def postRun (k : PostKind) (m : Master) (a n : Nat) (c : Chip) : Nat × Chip :=
  let id := c.fab.nextPost
  match runHub k.reader (.post id) (readAny 0 a (k.size * n)) c with
  | (c, .done bs) => postTake k m a n none bs c
  | (c, .stops e) => postRefuse k none e.code c
  | (c, .waits) =>
    let p : Post := { n := id, kind := k, addr := a, count := n, master := m, writer := .nobody }
    (eLater, holdPlace k id { c with fab := { c.fab with nextPost := id + 1, posts := c.fab.posts ++ [p] } })

/-- Who is told the outcome of the write of COUNT that was made last. -/
def laterBy (w : PostBy) (c : Chip) : Chip :=
  { c with fab := { c.fab with posts := c.fab.posts.map (fun p => if p.n + 1 = c.fab.nextPost then { p with writer := w } else p) } }

/-- The WRITE_ACK, or the ERR_RESP, of a WRITE from another package. -/
def ackFlit (c : Chip) (src : Pkg) (tag addr code : Nat) : Flit :=
  if code = 0 then
    { ty := 3, vc := 1, src := c.power.pkgId, dst := src, addr := BitVec.ofNat 44 addr, tag := BitVec.ofNat 16 tag }
  else errFlit c src.toNat tag code

/-- A write of COUNT is answered. -/
def answerPost (w : PostBy) (code : Nat) (c : Chip) : Chip :=
  match w with
  | .nobody => c
  | .bus m => emit (.bus m 0 code) (reportAccess code 0x24 c)
  | .window => windowEnd none code (reportAccess code 0x24 c)
  | .ctrl ch seq => ctlAnswer ch seq 0 code (reportAccess code 0x24 c)
  | .flit src tag addr => sendAnswer (ackFlit c src tag addr.toNat code) none c

/-- A run that lies in another package goes on with the answers that have come. -/
def postGoesOn (n : Nat) (c : Chip) : Chip :=
  match c.fab.posts.find? (fun p => p.n == n) with
  | none => c
  | some p =>
    let ends := fun (r : Nat × Chip) =>
      answerPost p.writer r.1 { r.2 with fab := { r.2.fab with posts := r.2.fab.posts.filter (fun q => q.n != n) } }
    match runHub p.kind.reader (.post n) (readAny 0 p.addr (p.kind.size * p.count)) c with
    | (c, .waits) => c
    | (c, .done bs) => ends (postTake p.kind p.master p.addr p.count (some n) bs c)
    | (c, .stops e) => ends (postRefuse p.kind (some n) e.code c)

/-! ### Gate words (R177, R180) -/

/-- What an item that leaves the queue without running gives back: its run-ahead copies (R191), its ticket (R111), its hold. -/
def dropItem (b : Fin 32) (q : QItem) (c : Chip) : Chip :=
  let c := match q.ticket with | some n => dropPin n c | none => c
  if q.heldSince.isSome then endHolds b (itemHold q) c else c

/-- Does an item follow its gate word: its basin is enabled (R62) and its job not contained (R425). -/
def gateLive (c : Chip) (b : Fin 32) (q : QItem) : Bool := enabled c b && !jobBlocked c b q.item.job.toNat

/-- A gate word as it was read satisfies an item, or does not. -/
def gateOkOf (q : QItem) (v : Nat) : Bool := decide ((v % 65536 + 65536 - q.item.gateVal.toNat) % 65536 < 32768)

/-- A gate word that cannot be read stops its item, which leaves the queue (log entry 56). -/
def gateStops (b : Fin 32) (i : Nat) (q : QItem) (e : Stop) (c : Chip) : Chip :=
  let c := discardCopies b (q.ahead.getD []) c
  let c := dropItem b q (modBasin b (fun s => { s with queue := s.queue.eraseIdx i }) c)
  basinError b q.item.job.toNat 0 { e with step := q.item.stepTag.toNat } (refreshHeld c)

/-- What one read of a gate word brings: its value, or an error. -/
def gateTaken (b : Fin 32) (i : Nat) (r : Except Stop Nat) (c : Chip) : Chip :=
  match c.basins[b].queue[i]? with
  | none => c
  | some q =>
    match r with
    | .error e => gateStops b i q e c
    | .ok v => modBasin b (fun s => { s with queue := s.queue.set i { q with gateOk := gateOkOf q v } }) c

/-- A gate word is read again (R177, R180). The queued items of a basin that is not enabled, and those of a contained job, are left alone
(R62, R425). One in another package brings its value as its answer comes. -/
def gateReread (b : Fin 32) (i : Nat) (c : Chip) : Chip :=
  match c.basins[b].queue[i]? with
  | none => c
  | some q =>
    let a := q.item.gate.toNat
    let read := do
      checkPlace 0x34 a 4
      readNat 0x34 a 4
    if a = 0 ∨ !gateLive c b q then c
    else
      match runHub (basinMaster b) (.gate b a) read c with
      | (c, .waits) => c
      | (c, .done v) => gateTaken b i (.ok v) c
      | (c, .stops e) => gateTaken b i (.error e) c

/-- The answer to the read of a gate word in another package: every item of the basin that waits on the word, and follows it, has it. An error
makes one report (R423). -/
def gateAnswered (b : Fin 32) (a : Nat) (r : Except Stop Nat) (c : Chip) : Chip :=
  let live := fun (c : Chip) (i : Nat) => (c.basins[b].queue[i]?).any (fun q => q.item.gate.toNat == a && gateLive c b q)
  let hits := ((List.range c.basins[b].queue.length).filter (live c)).reverse
  let tell := fun (i : Nat) => match r with | .error e => .error { e with told := hits.head? != some i } | .ok v => .ok v
  hits.foldl (fun c i => if live c i then gateTaken b i (tell i) c else c) c

end Sys2Proof.Machine
end

