-- ==== Sys2Proof/Machine/Fabric.lean ====
section
/-! DEFINITION. The Turhorn fabric as one package meets it (R310 to R326): transactions and what completes them, links that go down,
fences, and flits as they are received. -/

namespace Sys2Proof.Machine

/-! ### What a transaction completes (R314) -/

/-- The rows of a copy at an address with a pitch. -/
def copyRows (a pitch rows len : Nat) : List (Nat × Nat) := (List.range rows).map (fun i => (a + i * pitch * 64, len * 64))

/-- The destination rows of a COPY. -/
def copyDst (f : Flight) : List (Nat × Nat) :=
  copyRows (fld (f.w.getD 2 0) 0 48) (fld (f.w.getD 4 0) 24 24) (fld (f.w.getD 3 0) 0 16) (fld (f.w.getD 3 0) 16 24)

/-- Does a flight wait for a tag. -/
def waitsTag (tag : Nat) (f : Flight) : Bool := match f.wait with | .tags ts => ts.contains tag | _ => false

/-- A flight no longer waits for a tag. -/
def tagDone (tag : Nat) (f : Flight) : Flight :=
  match f.wait with
  | .tags ts => { f with wait := if ts.filter (· != tag) = [] then .none else .tags (ts.filter (· != tag)) }
  | _ => f

/-- A transaction of a copy is answered: the copy waits for the others. The copies of a migration, which are no descriptors, end so. -/
def copyAnswered (b : Fin 32) (k : Fin 16) (tag : Nat) (c : Chip) : Chip :=
  modChain b k (fun ch => { ch with flight := (ch.flight.map (tagDone tag)).filter (fun f => f.w != [] || f.wait != .none) }) c

/-- The destination rows of a COPY that its stop leaves undefined (R242): those in memory of this package. -/
def undefDst (f : Flight) (c : Chip) : Chip :=
  ((copyDst f).filter (fun r => pkgOf r.1 == pkg c && !inHub r.1 r.2)).foldl (fun c r => undefine c r.1 r.2) c

/-- A transaction of a copy failed: the copy stops, every destination byte is undefined (R242), and its other transactions are forgotten. -/
def copyFailed (b : Fin 32) (k : Fin 16) (tag : Nat) (e : Stop) (c : Chip) : Chip :=
  match (c.basins[b].chains[k]).bind (fun ch => ch.flight.find? (waitsTag tag)) with
  | none => c
  | some f =>
    let ts := match f.wait with | .tags ts => ts | _ => []
    let c := { c with fab := { c.fab with txns := c.fab.txns.filter (fun t => !ts.contains t.tag) } }
    stopFlight b k { f with wait := .none } e (undefDst f c)

/-- A transaction is forgotten. -/
def dropTxn (tag : Nat) (c : Chip) : Chip := { c with fab := { c.fab with txns := c.fab.txns.filter (fun t => t.tag != tag) } }

/-- The unit that reaches another package for a descriptor: the copy engine for a checkpoint's copy (R109), and else the page walker. -/
def farUnit (f : Flight) : Nat := if fld (f.w.getD 0 0) 0 8 = 0x41 then copyUnit else kvUnit

/-- A transaction of a walk or another unit failed: its descriptor stops with the error (R314), and its other transactions are
forgotten. -/
def walkFailed (b : Fin 32) (k : Fin 16) (tag : Nat) (e : Stop) (c : Chip) : Chip :=
  match (c.basins[b].chains[k]).bind (fun ch => ch.flight.find? (waitsTag tag)) with
  | none => c
  | some f =>
    let ts := match f.wait with | .tags ts => ts | _ => []
    let c := { c with fab := { c.fab with txns := c.fab.txns.filter (fun t => !ts.contains t.tag) } }
    stopFlight b k { f with wait := .none } { e with unit := farUnit f } c

/-- A line that a walker prefetches has come, or cannot: whichever descriptor waits on its tag goes on (R156). -/
def lineAnswered (b : Fin 32) (tag : Nat) (c : Chip) : Chip := (List.finRange 16).foldl (fun c k => copyAnswered b k tag c) c

/-- The answer to the operation of R152 at another package: the pin that it tells of stands in the descriptor that took it. -/
def noteFarPin (b : Fin 32) (k : Fin 16) (id : Nat) (t : Txn) (c : Chip) : Chip :=
  match c.fab.asked.find? (fun y => y.tag == t.tag && y.req.ty == 6 && leNat (y.req.data.take 4) == opPin) with
  | some y =>
    match pinOf y.req.addr (leNat ((y.req.data.drop 4).take 4)) t.bytes with
    | some p => notePin b k id p c
    | none => c
  | none => c

/-- A transaction of a run-ahead copy failed: the chain stops, and its destination is undefined (R189, R242). One that was discarded is no
longer there (R191). -/
def aheadFailed (b : Fin 32) (job tag : Nat) (e : Stop) (c : Chip) : Chip :=
  let s := c.basins[b]
  let xs := s.queue.map (fun q => (q.item, q.ahead.getD [])) ++ (chainsOf s).map (fun p => (p.2.item, p.2.ahead))
  match xs.find? (fun x => x.2.any (fun y => y.tags.contains tag)) with
  | none => c
  | some (it, ys) =>
    let dst := (ys.filter (fun y => y.tags.contains tag)).flatMap (·.dst)
    basinError b job 0 { e with step := it.stepTag.toNat } (dst.foldl (fun c r => undefine c r.1 r.2) c)

/-- The report of an access to another package that failed, as of one that fails here (R314). -/
def reportFar (t : Txn) (code : Nat) (c : Chip) : Chip :=
  report { code := code, sev := sevOf code, src := 0x24, addr := t.dst.toNat * 2 ^ 44 + t.addr, peer := t.dst.toNat } c

/-- A transaction completes with an error, exactly as the same error met locally (R314). -/
def failTxn (tag code : Nat) (c : Chip) : Chip :=
  match c.fab.txns.find? (fun t => t.tag == tag) with
  | none => c
  | some t =>
    let c := dropTxn tag c
    let a := t.dst.toNat * 2 ^ 44 + t.addr
    match t.who with
    | .copy b k _ _ => copyFailed b k tag { code := code, unit := copyUnit, addr := a } c
    | .walk b k _ => walkFailed b k tag { code := code, unit := kvUnit, addr := a } c
    | .line b => lineAnswered b tag (noteAnswer tag code [] c)
    | .move n => moveFailed n { code := code, addr := a } (forgetFar (.move n) c)
    | .ahead b job => aheadFailed b job tag { code := code, unit := copyUnit, addr := a } c
    | .gate b x => gateAnswered b x (.error { code := code, unit := 0x34, addr := x }) (forgetFar (.gate b x) c)
    | .post n => postGoesOn n (noteAnswer tag code [] c)
    | .request => noteAnswer tag code [] c
    | .unit _ => noteAnswer tag code [] c
    | .window => windowEnd (if t.write then none else some 0) code (reportFar t code c)
    | .bus m => emit (.bus m 0 code) (reportFar t code c)
    | .ctrl ch seq => ctlAnswer ch seq 0 code (reportFar t code c)
    | .done b job step => basinError b job 0 { code := code, unit := 0x34, addr := a, step := step } c
    | .hub => reportFar t code c

/-- A transaction completes. -/
def finishTxn (t : Txn) (c : Chip) : Chip :=
  let c := dropTxn t.tag c
  let v := leNat ((t.bytes.drop t.off).take 4)
  match t.who with
  | .copy b k _ _ => copyAnswered b k t.tag c
  | .walk b k id => copyAnswered b k t.tag (noteAnswer t.tag 0 t.bytes (noteFarPin b k id t c))
  | .line b => lineAnswered b t.tag (noteAnswer t.tag 0 t.bytes c)
  | .move _ => noteAnswer t.tag 0 t.bytes c
  | .ahead _ _ => aheadAnswered t.tag (t.dst.toNat * 2 ^ 44 + t.addr) t.bytes c
  | .gate b x => gateAnswered b x (.ok (leNat ((t.bytes.drop (x % 64)).take 4))) (forgetFar (.gate b x) c)
  | .post n => postGoesOn n (noteAnswer t.tag 0 t.bytes c)
  | .request => noteAnswer t.tag 0 t.bytes c
  | .unit _ => noteAnswer t.tag 0 t.bytes c
  | .window => windowEnd (if t.write then none else some v) 0 c
  | .bus m => emit (.bus m (if t.write then 0 else v) 0) c
  | .ctrl ch seq => ctlAnswer ch seq (if t.write then 0 else v) 0 c
  | .done _ _ _ => c
  | .hub => c

/-! ### Links that go down (R320), and fences (R321, R322) -/

/-- A flit that is given up: its requester has the error (R320, R322). -/
def giveUp (code : Nat) (f : Flit) (c : Chip) : Chip :=
  match requesterOf f with
  | none => c
  | some q => if q = pkg c then failTxn f.tag.toNat code c else sendAnswer (errFlit c q f.tag.toNat code) none c

/-- Flits of which each transaction is named once (R320). -/
def oncePerTxn (fs : List Flit) : List Flit :=
  fs.foldl (fun gs f => if (requesterOf f).isSome && gs.any (fun g => requesterOf g == requesterOf f && g.tag == f.tag) then gs else gs ++ [f]) []

/-- A flit leaves a link's queue unsent: the buffer of the link it came by is free (R313). -/
def freeOrigin (x : Queued) (c : Chip) : Chip := match x.origin with | some o => returnCredit o x.f.vc.toNat c | none => c

/-- A link leaves UP or TRAINING for DOWN, and its flits are settled (R320). Causes: 1 LANE, 2 REPLAY, 3 BEATS, 6 SOFTWARE,
7 PARTNER_FENCED, 8 MODE. -/
def dropLink (l : Fin 12) (cause lane : Nat) (c : Chip) : Chip :=
  if linkState c l = 1 ∨ linkState c l = 2 then
    let k := c.fab.links[l]
    let r := rLinkStatus l.val
    let c := bump (putF (putF (putF c r 0 3 0) r 11 4 cause) r 15 2 lane) (rLinkCtr l.val 3)
    let c := modLink l (fun _ => {}) (endWait l c)
    let c := k.waiting.foldl (fun c x => freeOrigin x c) c
    (oncePerTxn (k.replay ++ k.waiting.map (·.f))).foldl (fun c f => giveUp eFabLink f c) c
  else c

/-- Is a flit held on its way to a package. -/
def heldFor (p : Nat) (f : Flit) : Bool := f.dst.toNat == p && f.ty != 8 && f.src.toNat != p

/-- The flits held for package p leave every link: those that wait, and those not acknowledged on p's own links (R322 step 4). Flits from p
that wait leave too (step 5). The answer is the flits held for p. -/
def purgeFlits (p : Nat) (c : Chip) : List Flit × Chip :=
  let own := fun (l : Fin 12) => linkPartner c l == p
  let held := (List.finRange 12).flatMap (fun l =>
    ((if own l then c.fab.links[l].replay else []) ++ c.fab.links[l].waiting.map (·.f)).filter (heldFor p))
  let gone := fun (x : Queued) => heldFor p x.f || x.f.src.toNat == p
  let c := (List.finRange 12).foldl (fun c l =>
    let k := c.fab.links[l]
    let c := modLink l (fun k => { k with waiting := k.waiting.filter (fun x => !gone x),
                                          replay := if own l then k.replay.filter (fun f => !heldFor p f) else k.replay }) c
    let c := if c.fab.links[l].waiting = [] then endWait l c else c
    (k.waiting.filter gone).foldl (fun c x => freeOrigin x c) c) c
  (held, c)

/-- The package fences package p (R322). Causes: 1 LINKS, 2 BEATS, 3 NOTICE, 4 NO_ROUTE, 5 SOFTWARE. `by` is the sender of the notice and
the nonce it carries, which stands for p's where no link leads to p. -/
def fenceOne (p cause : Nat) (by' : Option (Nat × Nat)) (c : Chip) : Chip :=
  if p = pkg c ∨ !member c p ∨ getF c (rPartner p) 0 2 = 3 ∨ 16 ≤ p then c
  else
    let (held, c) := purgeFlits p (noteFence p cause by' c)
    let c := match pairTo (pkg c) p with | some k => (linksOf k).foldl (fun c l => dropLink l 7 0 c) c | none => c
    let mine := c.fab.txns.filter (fun t => t.dst.toNat == p)
    let c := mine.foldl (fun c t => failTxn t.tag eFabFenced c) c
    afterFence p cause by' ((oncePerTxn held).foldl (fun c f => giveUp eFabFenced f c) c)

/-- The entries of the packages that are not fenced follow the routes (R327): NOT_MEMBER, UNREACHED, or LIVE with HOPS and SECOND. -/
def refreshPartners (c : Chip) : Chip :=
  (List.range 16).foldl (fun c p =>
    let r := rPartner p
    if p = pkg c then putReg c r (if c.fab.selfFenced then 3 else 2)
    else if !member c p then putReg c r 0
    else if getF c r 0 2 = 3 then c
    else
      match nextHop c p with
      | some (h, second) => putReg c r (2 + (if h = p then 1 else 2) * 4 + b2n second * 16)
      | none => if getF c r 0 2 = 2 then c else putReg c r 1) c

/-- Packages to which no route remains are fenced, one after another (R302, R321). -/
def fenceCutOff : Nat → Chip → Chip
  | 0, c => c
  | n + 1, c =>
    match (List.range 16).find? (fun p => p != pkg c && member c p && getF c (rPartner p) 0 2 == 2 && (nextHop c p).isNone) with
    | none => c
    | some p => fenceCutOff n (fenceOne p 4 none c)

/-- What follows once links have gone down or a package has been fenced. -/
def settleRoutes (c : Chip) : Chip := refreshPartners (fenceCutOff 16 c)

/-- A fence, and what follows from it. -/
def fencePkg (p cause : Nat) (src : Option (Nat × Nat)) (c : Chip) : Chip := settleRoutes (fenceOne p cause src c)

/-- A link goes DOWN (R320): the partner is fenced if the other link of the pair is DOWN already (R321). -/
def linkDown (l : Fin 12) (cause lane : Nat) (c : Chip) : Chip :=
  if linkState c l = 1 ∨ linkState c l = 2 then
    let wasUp := linkUp c l
    let c := dropLink l cause lane c
    let q := linkPartner c l
    let c := if wasUp && (linksOf (l.val / 2)).all (fun m => linkState c m == 0) then fenceOne q (if cause = 3 then 2 else 1) none c else c
    settleRoutes c
  else c

/-- Every link goes DOWN as the package fences itself (R323): with both links of each pair its partners are fenced (R321). -/
def allLinksDown (cause : Nat) (c : Chip) : Chip :=
  let was := (List.finRange 12).filter (linkUp c)
  let c := (List.finRange 12).foldl (fun c l => dropLink l cause 0 c) c
  settleRoutes (was.foldl (fun c l => fenceOne (linkPartner c l) 1 none c) c)

/-- Every link goes DOWN as the package leaves ACTIVE (R325): its partners fence it, and it rejoins under R324, which asks no new nonce of
them. It fences no one itself: the members have no route until links are trained again, and what was outstanding ends with FAB_LINK
(log entry 79). -/
def modeLinksDown (c : Chip) : Chip :=
  let c := (List.finRange 12).foldl (fun c l => dropLink l 8 0 c) c
  let c := c.fab.txns.foldl (fun c t => failTxn t.tag eFabLink c) c
  (List.range 16).foldl (fun c p => if p ≠ pkg c ∧ getF c (rPartner p) 0 2 = 2 then putReg c (rPartner p) 1 else c) c

/-! ### Requests of this package (R302, R303, R314) -/

/-- A package that is to be reached: fenced with NO_ROUTE where no route is left. The answer is the link of the route. -/
def reach (p : Nat) (c : Chip) : Option (Fin 12) × Chip :=
  if fenced c p then (none, c)
  else
    match (nextHop c p).bind (fun h => bindLink c h.1) with
    | some l => (some l, c)
    | none => (none, fencePkg p 4 none c)

/-! ### Receiving (R310, R311) -/

/-- What a flit brings back: an acknowledgement of numbered flits, and credits (R311, R313). -/
def takeBack (l : Fin 12) (f : Flit) (c : Chip) : Chip :=
  let k := c.fab.links[l]
  let first := match k.replay with | g :: _ => g.seq.toNat | [] => k.nextSeq
  let n := (f.ack.toNat + 4096 - first) % 4096
  let c := if f.ackV ∧ 0 < n ∧ n ≤ k.replay.length then modLink l (fun k => { k with replay := k.replay.drop n, runs := 0 }) c else c
  let back := fun (us : List (Nat × Bool)) => (List.range f.crCnt.toNat).foldl (fun us _ =>
    us.eraseIdx ((findPos (fun u => u.1 == f.crVc.toNat) us 0).map (·.1) |>.getD us.length)) us
  modLink l (fun k => { k with used := back k.used }) c

/-- A replay of every unacknowledged flit, or the link goes DOWN (R311) after the REPLAY_MAX that stood as the run of replays began
(R327). -/
def replay (l : Fin 12) (c : Chip) : Chip :=
  let k := c.fab.links[l]
  if k.replay = [] then c
  else if 0 < k.runs ∧ k.runMax ≤ k.runs then linkDown l 2 0 c
  else
    let most := if k.runs = 0 then getF c rThCfg 4 4 else k.runMax
    let c := modLink l (fun k => { k with runs := k.runs + 1, runMax := most }) (bump c (rLinkCtr l.val 2))
    k.replay.foldl (fun c f => sendFlit l false f c) c

/-- A flit is discarded that is no duplicate: CRC_FAIL, and NAK once (R311). -/
def discardFlit (l : Fin 12) (c : Chip) : Chip :=
  let c := bump c (rLinkCtr l.val 1)
  if c.fab.links[l].nakSent then c else sendIdle l true (modLink l (fun k => { k with nakSent := true }) c)

/-- What a received flit is to the receiver. -/
inductive Taken where
  | discarded | accepted
  deriving DecidableEq, Repr

/-- The bytes that the FEC corrected in a flit are counted, in FEC_CE and on each lane in the millisecond at hand. A lane on which they pass
LANE_CE_LIMIT x 1,024 has failed, and takes the link DOWN (R306). -/
def countFec (l : Fin 12) (f : Flit) (c : Chip) : Chip :=
  if f.ce.sum = 0 then c
  else
    let ms := c.upNs / 1000000
    let c := modLink l (fun k => { k with ceAt := ms, ce := Vector.ofFn (fun i : Fin 4 => (if k.ceAt = ms then k.ce[i] else 0) + f.ce.getD i.val 0) })
      (bump c (rLinkCtr l.val 0) f.ce.sum)
    match (List.finRange 4).find? (fun i => decide (getF c rThCfg 8 8 * 1024 < c.fab.links[l].ce[i])) with
    | some i => linkDown l 1 i.val c
    | none => c

/-- A flit arrives on a link that is UP (R310, R311): it is accepted, or discarded. From a fenced partner only IDLE and BEAT are taken
(R324). -/
def receive (l : Fin 12) (f : Flit) (c : Chip) : Taken × Chip :=
  let c := if !linkUp c l || c.fab.selfFenced then c else countFec l f c
  let k := c.fab.links[l]
  if !linkUp c l || c.fab.selfFenced then (.discarded, c)
  else if !flitOk f then (.discarded, discardFlit l c)
  else if !numbered f.ty.toNat then
    let c := takeBack l f c
    let c := if f.ackV && f.nak then replay l c else c
    (.accepted, pump l c.fab.links[l].waiting.length c)
  else if fenced c (linkPartner c l) then (.discarded, c)
  else if f.seq.toNat = k.expect then
    let c := modLink l (fun k => { k with expect := (k.expect + 1) % 4096, nakSent := false, since := k.since + 1 }) (takeBack l f c)
    let c := if f.ackV && f.nak then replay l c else c
    let c := if 32 ≤ c.fab.links[l].since then sendIdle l false c else c
    (.accepted, pump l c.fab.links[l].waiting.length c)
  else if 2048 ≤ (f.seq.toNat + 4096 - k.expect) % 4096 then (.discarded, c)
  else (.discarded, discardFlit l c)

/-- A flit of a type arrives: what is accepted is acted on. A flit of another type is not this command, and one of a reserved type is
discarded whichever command brings it. -/
def onFlit (l : Fin 12) (ty : Nat) (f : Flit) (act : Chip → Chip) (c : Chip) : Chip :=
  if f.ty.toNat ≠ ty ∧ (vcOf f.ty.toNat).isSome then c
  else
    match receive l f c with
    | (.accepted, c) => act c
    | (.discarded, c) => c

/-- A flit that is not for this package goes on toward its destination, or is answered with FAB_FENCED (R302, R322). -/
def forward (l : Fin 12) (f : Flit) (c : Chip) : Chip :=
  let (m, c) := reach f.dst.toNat c
  match m with
  | some m => enqueue m (some l) f c
  | none => giveUp eFabFenced f (returnCredit l f.vc.toNat c)

/-- A flit from a package that is fenced is not applied (R322). -/
def fromFenced (c : Chip) (f : Flit) : Bool := fenced c f.src.toNat

/-- A request or answer: forwarded, or acted on here, its buffer then being free. -/
def deliver (l : Fin 12) (f : Flit) (act : Chip → Chip) (c : Chip) : Chip :=
  if fromFenced c f then returnCredit l f.vc.toNat c
  else if f.dst.toNat ≠ pkg c then forward l f c
  else act (returnCredit l f.vc.toNat c)

end Sys2Proof.Machine
end

