-- ==== Sys2Proof/Machine/Mbox.lean ====
section
/-! DEFINITION. Mailbox channels (R383 to R391): who is dead, the write, the read, the poll, the take, and the binding. -/

namespace Sys2Proof.Machine

/-- Are the compute dies powered, and with them the memory of the package (R397, R399, R411). -/
def memOn (c : Chip) : Bool :=
  modeOf c == 0 || c.power.boot == .dies || c.power.boot == .selftest || (modeOf c == 1 && c.power.change.any (fun x => x.target == 0))

/-- Is a master dead (R387): its domain is powered down, or its package is fenced. -/
def deadMaster (c : Chip) (m : Master) : Bool :=
  let v := m.toNat
  if v = 0 then false
  else if v ≤ 3 then !hubOn c
  else if 0x10 ≤ v ∧ v ≤ 0x2F then !memOn c
  else if v = 0x30 then modeOf c == 3
  else if 0x40 ≤ v ∧ v ≤ 0x4F then fenced c (v - 0x40)
  else false

/-- Does R375 list an identity. -/
def knownMaster (m : Master) : Bool :=
  let v := m.toNat
  decide (v ≤ 3) || decide (0x10 ≤ v ∧ v ≤ 0x30) || decide (0x40 ≤ v ∧ v ≤ 0x4F)

/-- A refused mailbox access changes MB_ERR alone (R385). -/
def mbRefused (code : Nat) (ch : Fin 64) (m : Master) (c : Chip) : Chip := putReg c rMbErr (code + ch.val * 65536 + m.toNat * 2 ^ 24)

/-- A channel changed, and its bit of MB_FULL with it. -/
def setMbox (ch : Fin 64) (x : Mbox) (c : Chip) : Chip :=
  putF { c with mbox := c.mbox.set ch.val x ch.isLt } (0x40 + 4 * (ch.val / 32)) (ch.val % 32) 1 (b2n x.full)

/-- A write of DATA (R385): the code of its refusal, or 0. -/
def mbWrite (m : Master) (ch : Fin 64) (v : BitVec 32) (c : Chip) : Nat × Chip :=
  let x := c.mbox[ch]
  if !x.valid || x.sender ≠ m then (eMbDenied, mbRefused eMbDenied ch m c)
  else if x.full then (eMbFull, mbRefused eMbFull ch m c)
  else if deadMaster c x.receiver then (eMbOff, mbRefused eMbOff ch m c)
  else (0, setMbox ch { x with data := v, full := true } c)

/-- Is a master one of a package that is fenced (R391). -/
def fencedPeer (c : Chip) (m : Master) : Bool := decide (0x40 ≤ m.toNat ∧ m.toNat ≤ 0x4F) && fenced c (m.toNat - 0x40)

/-- A read of DATA (R386): the value and the code. A word of a fenced package is kept (R391). -/
def mbRead (m : Master) (ch : Fin 64) (c : Chip) : Nat × Nat × Chip :=
  let x := c.mbox[ch]
  if !x.valid || x.receiver ≠ m then (0, eMbDenied, mbRefused eMbDenied ch m c)
  else if fencedPeer c x.sender then (0, eMbOff, mbRefused eMbOff ch m c)
  else if !x.full then (0, eMbEmpty, mbRefused eMbEmpty ch m c)
  else (x.data.toNat, 0, setMbox ch { x with full := false } c)

/-- Is the peer of a poller dead (R387). -/
def peerOff (c : Chip) (m : Master) (x : Mbox) : Bool :=
  x.valid && (if m = x.sender then deadMaster c x.receiver
    else if m = x.receiver then deadMaster c x.sender
    else deadMaster c x.sender || deadMaster c x.receiver)

/-- The status word at +0x4 (R383). -/
def mbWord (c : Chip) (m : Master) (ch : Fin 64) : Nat :=
  let x := c.mbox[ch]
  b2n x.full + b2n (peerOff c m x) * 2 + x.sender.toNat * 256 + x.receiver.toNat * 65536

/-- A status poll (R386, R387): the word, with a code where the peer is dead. -/
def mbPoll (m : Master) (ch : Fin 64) (c : Chip) : Nat × Nat × Chip :=
  let x := c.mbox[ch]
  if (x.valid && (x.sender == m || x.receiver == m)) || decide (m.toNat ≤ 1) then
    if peerOff c m x then (mbWord c m ch, eMbOff, mbRefused eMbOff ch m c) else (mbWord c m ch, 0, c)
  else (0, eMbDenied, mbRefused eMbDenied ch m c)

/-- A binding write (R384): the code of its refusal, or 0. -/
def mbBind (m : Master) (ch : Fin 64) (v : Nat) (c : Chip) : Nat × Chip :=
  let snd : Master := BitVec.ofNat 8 v
  let rcv : Master := BitVec.ofNat 8 (v / 256)
  if 1 < m.toNat then (eHubDenied, c)
  else if bit (getReg c rLock) 1 then (eMbLocked, mbRefused eMbLocked ch m c)
  else if !knownMaster snd || !knownMaster rcv || snd == rcv then (eMbBind, mbRefused eMbBind ch m c)
  else (0, setMbox ch { sender := snd, receiver := rcv, valid := bit v 16 } c)

/-- The binding entry as it reads. -/
def mbEntry (c : Chip) (ch : Fin 64) : Nat :=
  let x := c.mbox[ch]
  x.sender.toNat + x.receiver.toNat * 256 + b2n x.valid * 65536

/-- TAKE by the management port (R388): the word and the code. -/
def mbTake (ch : Fin 64) (c : Chip) : Nat × Nat × Chip :=
  let x := c.mbox[ch]
  if !x.full then (0, eMbEmpty, mbRefused eMbEmpty ch 0 c)
  else if !x.valid || x.receiver ≠ 0 then (0, eMbDenied, mbRefused eMbDenied ch 0 c)
  else if fencedPeer c x.sender then (0, eMbOff, mbRefused eMbOff ch 0 c)
  else (x.data.toNat, 0, setMbox ch { x with full := false } c)

/-- An access of a hub register by a master (R375, R380): its code, with the report of a refusal. A hub that is off answers nothing. -/
def hubAccess (m : Master) (act : Chip → Nat × Chip) (c : Chip) : Nat × Chip :=
  let r := if !hubOn c then (eIwTimeout, c) else if 3 < m.toNat then (eHubDenied, c) else act c
  (r.1, reportAccess r.1 0x24 r.2)

/-- A write of a hub register by a master on the package, answered to it, or later (R250). -/
def busWrite (m : Master) (act : Chip → Nat × Chip) (c : Chip) : Chip :=
  let r := hubAccess m act c
  if r.1 = eLater then laterBy (.bus m) r.2 else emit (.bus m 0 r.1) r.2

/-- A write that is never refused. -/
def okWrite (f : Chip → Chip) (c : Chip) : Nat × Chip := (0, f c)

/-- The channel whose 64 bytes begin at a local address. -/
def mbChannel (loc : Nat) : Option (Fin 64) :=
  if 0xF0000010000 ≤ loc ∧ loc < 0xF0000011000 ∧ loc % 64 = 0 then some ⟨(loc - 0xF0000010000) / 64 % 64, Nat.mod_lt _ (by decide)⟩
  else none

end Sys2Proof.Machine
end

