-- ==== Sys2Proof/Machine/Commit.lean ====
section
/-! DEFINITION. Commit points (R427 to R429) and what leaves the package when one passes (R365), containment notices and release
(R424, R426). -/

namespace Sys2Proof.Machine

/-! ### COMMIT datagrams (R364, R365) -/

/-- The job's entry of the destination table (R364): address, UDP port and PORTS, if it is VALID. -/
def jobDest (c : Chip) (j : Nat) : Option (Nat × Nat × Nat) :=
  let a := sys c (0xF0040614000 + 16 * j)
  let w := leNat (memReadN c.mem a 8)
  if bit w 50 then some (fld w 48 2, fld w 0 32, fld w 32 16) else none

/-- The next SEQ of a job's datagrams, and the package with it advanced (log entry 37). -/
def jobSeq (j : Nat) (c : Chip) : Nat × Chip :=
  let n := tabGet 0 c.seqs j
  (n, { c with seqs := tabSet c.seqs j ((n + 1) % 2 ^ 32) })

/-- The system address of the record at a position of the result ring (R364). -/
def resultAddr (c : Chip) (n : Nat) : Nat :=
  getReg c 0x31018 + getF c 0x3101C 0 16 * 2 ^ 32 + n % 2 ^ getF c 0x3101C 16 5 * 32

/-- The 32 bytes of a record of the result ring as they stand. -/
def resultRec (c : Chip) (n : Nat) : List Byte := memReadN c.mem (resultAddr c n) 32

/-- Does a record hold a word with an uncorrectable error (R239). -/
def resultUe (c : Chip) (n : Nat) : Bool := (eccIn c (resultAddr c n) 32).any (fun p => p.2 == .double)

/-- Does a record not tell what it holds: it lies in another package, or cannot be read. -/
def resultHidden (c : Chip) (n : Nat) : Bool := pkgOf (resultAddr c n) != pkg c || resultUe c n

/-- JOB and TICK of a record. -/
def resultJob (r : List Byte) : Nat := leNat ((r.drop 16).take 2)
def resultTick (r : List Byte) : Nat := leNat ((r.drop 12).take 4)

/-- Does the ring still hold a record of job `j` with TICK before `t` that it held when its head stood at `h`. One that does not tell counts as
such a record until it has gone (log entry 189). -/
def resultsLeft (c : Chip) (j t h : Nat) : Bool :=
  let tail := getReg c 0x31024
  let n := (h + 2 ^ 32 - tail) % 2 ^ 32
  decide (n < 2 ^ 31) && (List.range (min n (2 ^ getF c 0x3101C 16 5))).any (fun i =>
    let r := resultRec c (tail + i)
    resultHidden c (tail + i) || (resultJob r == j && !tickLe t (resultTick r)))

/-- COMMIT datagrams leave once every record that must go before them has gone (R365). A job without a destination has none. -/
def sendCommits (c : Chip) : Chip :=
  let gone := fun (x : Nat × Nat × Nat) => !resultsLeft c x.1 x.2.1 x.2.2
  let due := c.commits.filter gone
  let c := { c with commits := c.commits.filter (fun x => !gone x) }
  due.foldl (fun c x =>
    match jobDest c x.1 with
    | some (ports, ip, udp) =>
      let (n, c) := jobSeq x.1 c
      sendDatagram ports 0 ip udp (udpPayload c 1 x.1 n 0 (leBytes 4 x.2.1)) c
    | none => c) c

/-! ### Commit points (R427, R428) -/

/-- The commit interval of a job, or none (R427). -/
def intervalOf (c : Chip) (j : Nat) : Option Nat :=
  let i := getF c (rRcJob j) 0 7
  if j ≠ 0 ∧ 1 ≤ i ∧ i ≤ 100 ∧ (jobPkgs c j).contains (pkg c) then some i else none

/-- Is this package the home of a job. -/
def isHome (c : Chip) (j : Nat) : Bool := bit (getReg c (rRcJob j)) 10

/-- The job's items with a step tag before a tick that are queued in the package or running from it, wherever they run (R428). -/
def itemsBefore (c : Chip) (j t : Nat) : Nat :=
  ((List.finRange 32).map (fun b =>
    (c.basins[b].queue.filter (fun q => q.item.job.toNat == j && !tickLe t q.item.stepTag.toNat)).length +
    ((chainsOf c.basins[b]).filter (fun p => p.2.homePkg == c.power.pkgId && p.2.item.job.toNat == j &&
      !tickLe t p.2.item.stepTag.toNat && !(p.2.lastDone && p.2.place != .migrated))).length)).sum +
  (c.away.filter (fun x => x.item.job.toNat == j && !tickLe t x.item.stepTag.toNat)).length

/-- The commit points of a job that pass as `t` does (R428): those before it that wait, and `t`. -/
def passing (c : Chip) (j t : Nat) : List Nat := (jobRc c j).waiting.filter (fun x => x != t && tickLe x t) ++ [t]

/-- Commit point `t` of a job passes in this package, and with it every earlier one that waits; each has its COMMIT datagram (R365). A job with
INTERVAL 0 has no commit points (R364, R427). -/
def commitAt (j t : Nat) (c : Chip) : Chip :=
  if (intervalOf c j).isNone then c
  else
    let ts := passing c j t
    let c := modJob j (fun x => { x with passed := true, waiting := x.waiting.filter (fun w => !tickLe w t), sentReady := x.sentReady.filter (fun w => !tickLe w t), ready := x.ready.filter (fun w => !tickLe w.2 t), late := x.late.filter (fun w => !tickLe w t) }) c
    let c := bump (putReg c (rRcCommit j) t) (rRcCtr 1) ts.length
    sendCommits { c with commits := c.commits ++ ts.map (fun x => (j, x, getReg c 0x31020)) }

/-- Are ticks generated: while they are not, no commit point passes (R198). -/
def running (c : Chip) : Bool := bit (getReg c rCadStatus) 0

/-- The home passes a commit point once it holds READY of every package that is not fenced. -/
def passIfReady (j t : Nat) (c : Chip) : Chip :=
  let r := jobRc c j
  if running c && !r.contained && r.waiting.contains t &&
      (jobPkgs c j).all (fun q => fenced c q || r.ready.any (fun x => x.1.toNat == q && x.2 == t)) then
    commitAt j t (sendConfirmed (jobPkgs c j) (.commit j t) c)
  else c

/-- The home holds READY of a package. -/
def readyAt (j p t : Nat) (c : Chip) : Chip := passIfReady j t (modJob j (fun x => { x with ready := (BitVec.ofNat 4 p, t) :: x.ready }) c)

/-- This package sends READY for a commit point when its count is 0 (R428). RC_JOB_j does not name the home, so every other package of PKGS has
it (log entry 38). -/
def sendReady (j t : Nat) (c : Chip) : Chip :=
  let r := jobRc c j
  if r.contained || r.sentReady.contains t || itemsBefore c j t != 0 then c
  else
    let c := modJob j (fun x => { x with sentReady := t :: x.sentReady }) c
    if isHome c j then readyAt j (pkg c) t c else sendConfirmed (jobPkgs c j) (.ready j t) c

/-- The commit points of every job that have not passed are looked at again. -/
def pollReady (c : Chip) : Chip :=
  c.jobs.foldl (fun c x => x.2.waiting.foldl (fun c t =>
    let c := sendReady x.1 t c
    if isHome c x.1 then passIfReady x.1 t c else c) c) c

/-- Tick n takes the commit points of jobs at n (R196, R427). -/
def commitTick (n : Nat) (c : Chip) : Chip :=
  let js := (List.range 256).filter (fun j => match intervalOf c j with | some i => n % i == 0 | none => false)
  pollReady (js.foldl (fun c j => modJob j (fun x => { x with waiting := x.waiting ++ [n] }) c) c)

/-- READY_C. -/
def execReadyC (src : BitVec 4) (tag : BitVec 16) (j : Fin 256) (ct : BitVec 32) (s : State) : Host.Outcome State Fault Refusal :=
  onChip (onConfirmed src.toNat tag.toNat (fun c => if isHome c j.val then readyAt j.val src.toNat ct.toNat c else c)) s

/-- COMMIT(c) of a job arrives: one that is not later than the last commit point passed changes nothing (R428). -/
def commitMsg (j t : Nat) (c : Chip) : Chip :=
  if running c && (!(jobRc c j).passed || !tickLe t (getReg c (rRcCommit j))) then commitAt j t c else c

/-- COMMIT_C. -/
def execCommitC (src : BitVec 4) (tag : BitVec 16) (j : Fin 256) (ct : BitVec 32) (s : State) : Host.Outcome State Fault Refusal :=
  onChip (onConfirmed src.toNat tag.toNat (commitMsg j.val ct.toNat)) s

/-- A commit point is late (R429), once. -/
def commitLate (j t : Nat) (c : Chip) : Chip :=
  let r := jobRc c j
  if !r.waiting.contains t || r.late.contains t then c
  else
    let c := bump (modJob j (fun x => { x with late := t :: x.late }) c) (rRcCtr 2)
    report { code := eCommitLate, sev := sevOf eCommitLate, job := some j, src := 0x24, arg := t } c

/-- COMMIT_LATE. -/
def execCommitLate (j : Fin 256) (ct : BitVec 32) (s : State) : Host.Outcome State Fault Refusal := onChip (commitLate j.val ct.toNat) s

/-! ### Containment (R424, R426) -/

/-- A containment notice of a package (R424): one that the job's PKGS does not name contains nothing. -/
def containNotice (src job code : Nat) (c : Chip) : Chip :=
  if 256 ≤ job ∨ (jobRc c job).contained ∨ !(jobPkgs c job).contains src then c
  else contain job code (report { code := eRcRemote, sev := sevOf eRcRemote, job := some job, src := 0x24, cont := true, arg := code } c)

/-- CONTAIN_NOTICE. -/
def execContainNotice (src : BitVec 4) (tag : BitVec 16) (job : BitVec 16) (code : BitVec 16) (s : State) :
    Host.Outcome State Fault Refusal :=
  onChip (onConfirmed src.toNat tag.toNat (containNotice src.toNat job.toNat code.toNat)) s

/-- The RC_JOB_j of the jobs contained in the package are reset (R434). -/
def resetContained (c : Chip) : Chip :=
  (c.jobs.filter (fun x => x.2.contained)).foldl (fun c x => putReg (modJob x.1 (fun _ => {}) c) (rRcJob x.1) 0) c

/-- Does a descriptor of a job run in the package (R425). -/
def inflight (c : Chip) (j : Nat) : Bool :=
  (List.finRange 32).any (fun b => (chainsOf c.basins[b]).any (fun p => p.2.flight.any (fun f => f.job == j)))

/-- Containment is released, or refused (R426). -/
def releaseJob (j : Nat) (c : Chip) : Nat × Chip :=
  if inflight c j then (eRcBusy, c)
  else
    let c := modJob j (fun x => { x with contained := false, code := 0 }) c
    (0, pollReady (modBasins (fun _ s => { s with stopped := s.stopped.filter (· != j) }) c))

/-- CONTAINED_RELEASE. -/
def execContainedRelease (m : Master) (j : Fin 256) (s : State) : Host.Outcome State Fault Refusal := onChip (busWrite m (releaseJob j.val)) s

/-- A write of RC_JOB_j (R426, R427): one that is refused changes nothing. -/
def wRcJob (j v : Nat) (c : Chip) : Nat × Chip :=
  if bit v 8 then
    let r := releaseJob j (storeReg c (rRcJob j) v)
    if r.1 = 0 then r else (r.1, c)
  else (0, storeReg c (rRcJob j) v)

end Sys2Proof.Machine
end

