-- ==== Sys2Proof/Machine/KvRows.lean ====
section
/-! DEFINITION. The commands of the page tables: KV_PAGE in its six operations (R163 to R171) and the prefetch of the look-aside
buffer (R156). -/

namespace Sys2Proof.Machine

/-- PUBLISH. -/
def execPublish (b : Fin 32) (c : Fin 16) (s : State) : Host.Outcome State Fault Refusal :=
  onChip (issue b c (fun r => r == .kv 0) (fun x d => kvPublish x.m d)) s

/-- RESOLVE. -/
def execResolve (b : Fin 32) (c : Fin 16) (s : State) : Host.Outcome State Fault Refusal :=
  onChip (issue b c (fun r => r == .kv 1) (fun x d => kvResolve x.b d)) s

/-- TRIM. -/
def execTrim (b : Fin 32) (c : Fin 16) (s : State) : Host.Outcome State Fault Refusal :=
  onChip (issue b c (fun r => r == .kv 2) (fun x d => kvTrim x.b d)) s

/-- FOLD_TAIL. -/
def execFoldTail (b : Fin 32) (c : Fin 16) (s : State) : Host.Outcome State Fault Refusal :=
  onChip (issue b c (fun r => r == .kv 3) (fun x d => kvFoldTail x d)) s

/-- QUERY. -/
def execQuery (b : Fin 32) (c : Fin 16) (s : State) : Host.Outcome State Fault Refusal :=
  onChip (issue b c (fun r => r == .kv 4) (fun x d => kvQuery x.m d)) s

/-- CLEAR_PINS. -/
def execClearPins (b : Fin 32) (c : Fin 16) (s : State) : Host.Outcome State Fault Refusal :=
  onChip (issue b c (fun r => r == .kv 5) (fun x d => kvClearPins x.m d)) s

/-- LAB_PREFETCH_FILL. -/
def execLabPrefetchFill (b : Fin 32) (i : Nat) (ok : Bool) (s : State) : Host.Outcome State Fault Refusal := onChip (labFill b i ok) s

end Sys2Proof.Machine
end

