-- ==== Sys2Proof/Machine/Copy.lean ====
section
/-! DEFINITION. COPY (R240 to R243, R389): plain copies within the package, to and from other packages and the mailbox window, and the
copies that request the moves of a residency record. -/

namespace Sys2Proof.Machine

/-- The master identity of a chain: that of the basin that is its item's home (R389). -/
def homeMaster (c : Chip) (x : Ctx) : Master :=
  match c.basins[x.b].chains[x.k] with
  | some ch => BitVec.ofNat 8 (0x10 + ch.home.val)
  | none => BitVec.ofNat 8 (0x10 + x.b.val)

/-- The link toward another package for a copy, or a stop: with no route left the package is fenced (R302). -/
def copyLink (a : Nat) : Eff (Fin 12) := do
  let c ← get
  let (l, c) := reach (pkgOf a) c
  set c
  match l with
  | some l => pure l
  | none => stopWith eFabFenced copyUnit a

/-- Bytes sent to another package in WRITE flits: the tags of the transactions. -/
def copyOut (x : Ctx) (id job : Nat) (l : Fin 12) (dst : Nat) (bs : List Byte) : Eff (List Nat) := do
  change (codeLink l job dst bs)
  (pieces 256 dst bs.length).mapM (fun p => do
    let c ← get
    let (tag, c) := sendWrite l p.1 ((bs.drop (p.1 - dst)).take p.2) (homeMaster c x) (.copy x.b x.k id p.1) c
    set c
    pure tag)

/-- Bytes asked of another package in READ_REQ flits. -/
def copyIn (x : Ctx) (id : Nat) (l : Fin 12) (src dst n : Nat) : Eff (List Nat) :=
  (pieces 4096 src n).mapM (fun p => do
    let c ← get
    let (tag, c) := sendRead l p.1 p.2 (homeMaster c x) (.copy x.b x.k id (dst + (p.1 - src))) c
    set c
    pure tag)

/-- A copy to a mailbox channel (R389): bytes 0 to 3 are written as DATA. -/
def copyToMbox (x : Ctx) (id src dst : Nat) (ch : Fin 64) : Eff Unit := do
  checkPlace copyUnit src 64
  let c ← get
  if pkgOf src = pkg c then do
    let bs ← readMem copyUnit src 64
    let c ← get
    let (code, c) := mbWrite (homeMaster c x) ch (BitVec.ofNat 32 (leNat (bs.take 4))) c
    set c
    stopIf (code != 0) code copyUnit
  else do
    let l ← copyLink src
    let ts ← copyIn x id l src dst 64
    change (modFlightOf x.b x.k id (fun f => { f with wait := .tags ts, link := some l }))

/-- A copy from a mailbox channel (R389): DATA, the status word with FULL as it stood, and zeros; the receiver takes the word. A basin that
is not bound to the channel is refused, as is one that meets the word of a fenced package (R391). -/
def copyFromMbox (x : Ctx) (id job : Nat) (ch : Fin 64) (dst : Nat) : Eff Unit := do
  checkPlace copyUnit dst 64
  let c ← get
  let m := homeMaster c x
  let b := c.mbox[ch]
  if !b.valid || (b.sender != m && b.receiver != m) then do
    change (mbRefused eMbDenied ch m)
    stopWith eMbDenied copyUnit
  else if b.receiver == m && fencedPeer c b.sender then do
    change (mbRefused eMbOff ch m)
    stopWith eMbOff copyUnit
  else do
    let word := mbWord c m ch
    let v := if b.full then b.data.toNat else 0
    let image := leBytes 4 v ++ leBytes 4 word ++ List.replicate 56 0
    let take := change (fun c => if b.receiver = m then setMbox ch { b with full := false } c else c)
    if pkgOf dst = pkg c then do
      take
      writeMem dst image
    else do
      let l ← copyLink dst
      take
      let ts ← copyOut x id job l dst image
      change (modFlightOf x.b x.k id (fun f => { f with wait := .tags ts, link := some l }))

/-- The rows of a copy, moved one after another. A copy that leaves the package waits for its transactions (R242, R314). -/
def copyBody (x : Ctx) (id job : Nat) (rows : List ((Nat × Nat) × (Nat × Nat))) : Eff Unit := do
  let c ← get
  let own := pkg c
  match rows with
  | [] => pure ()
  | ((src, _), (dst, _)) :: _ =>
    if pkgOf src ≠ own then do
      let l ← copyLink src
      let ts ← rows.mapM (fun r => copyIn x id l r.1.1 r.2.1 r.1.2)
      change (modFlightOf x.b x.k id (fun f => { f with wait := .tags ts.flatten, link := some l }))
    else if pkgOf dst ≠ own then do
      let l ← copyLink dst
      let ts ← rows.mapM (fun r => do
        let bs ← readMem copyUnit r.1.1 r.1.2
        copyOut x id job l r.2.1 bs)
      change (modFlightOf x.b x.k id (fun f => { f with wait := .tags ts.flatten, link := some l }))
    else
      rows.forM (fun r => do
        let bs ← readMem copyUnit r.1.1 r.1.2
        writeMem r.2.1 bs)

/-- A PLAIN copy in its place (R241, R242): the mailbox window, or rows whose whole extent is checked before the first read. A hub range is
no memory, and a copy that it refuses leaves it as it was (R238). -/
def plainCopy (x : Ctx) (id : Nat) (d : Desc) : Eff Unit := do
  let c ← get
  let src := d.f 1 0 48
  let dst := d.f 2 0 48
  let n := d.f 3 0 16
  let len := d.f 3 16 24
  let srcs := copyRows src (d.f 4 0 24) n len
  let dsts := copyRows dst (d.f 4 24 24) n len
  let own := dsts.filter (fun r => pkgOf r.1 == pkg c && !inHub r.1 r.2)
  let here := fun (a : Nat) => if pkgOf a = pkg c ∧ n = 1 ∧ len = 1 then mbChannel (locOf a) else none
  match here src, here dst with
  | none, some ch => copyToMbox x id src dst ch
  | some ch, none => undefineOnStop (own.take 1) (copyFromMbox x id d.job ch dst)
  | _, _ => do
    undefineOnStop own (do
      (srcs ++ dsts).forM (fun r => checkPlace copyUnit r.1 r.2)
      copyBody x id d.job (srcs.zip dsts))

/-- PLAIN at issue: the copy takes a place of the copy engine, or waits for one (R243). -/
def bodyPlain (x : Ctx) (d : Desc) : Eff Unit := do
  let c ← get
  let id := x.id
  change (modBasin x.b (fun s => { s with engine := s.engine ++ [.copy x.k id] }))
  if 4 ≤ c.basins[x.b].engine.length then change (modFlightOf x.b x.k id (fun f => { f with wait := .place }))
  else plainCopy x id d

/-- An UP on a claimed record whose copy is whole already makes it RESIDENT at once (R253). Where no claim has a copy of the record's data, a
move of its own starts for the job of the request (log entry 170). -/
def upAfterClaim (n job : Nat) (c : Chip) : Chip :=
  match tabFind c.recs n with
  | none => c
  | some r =>
    if r.state = .absent ∧ r.claims > 0 ∧ r.waiters ≠ [] ∧ !claimOpen c n then
      let copies := (List.finRange 32).flatMap (fun b => (c.basins[b].queue.flatMap (fun q => q.ahead.getD [])) ++
        (chainsOf c.basins[b]).flatMap (fun p => p.2.ahead))
      match copies.find? (fun x => x.claim == some n && x.moved && !x.stale) with
      | some x => becomeResident n (clearDirty r.up (r.len64 * 64) (x.writes.foldl (fun c w => putMem c w.1 w.2) c))
      | none => startUp n job c
    else c

/-- The request that a COPY descriptor sends to the hub (R240), in the form of a block: 4 UP, 5 EVICT, 6 FORCE_EVICT. -/
def copyReq (x : Ctx) (d : Desc) (op : Nat) : Block :=
  { addr := 0, w := [op + b2n (d.b 5 18) * 16 + d.job * 65536 + d.f 5 0 14 * 2 ^ 32], master := BitVec.ofNat 8 (0x10 + x.b.val),
    origin := .copy x.b x.k x.id }

/-- A request that is refused shows its code in PL_STATUS.LAST_ERR (R265). -/
def lastErr (code : Nat) (c : Chip) : Chip := putF c rPlStatus 16 16 code

/-- UP of a MOVE_UP copy is accepted: the code of a refusal, or 0 with the copy waiting unless the record is RESIDENT. -/
def moveUpAccept (b : Fin 32) (k : Fin 16) (n job : Nat) (pin : Bool) (c : Chip) : Nat × Chip :=
  let there := isResident c n
  let r := acceptUp n job pin (some (.copy b k)) c
  if r.1 ≠ 0 then (r.1, lastErr r.1 r.2)
  else if there then (0, wakeCopy b k n r.2)
  else (0, upAfterClaim n job r.2)

/-- MOVE_UP outside a run-ahead chain (R240, R252): an UP request, which waits behind the older ones (R250), and a hold until the record is
RESIDENT (R260). -/
def bodyMoveUp (x : Ctx) (d : Desc) : Eff Unit := do
  let n := d.f 5 0 14
  let c ← get
  let cause := ((tabFind c.recs n).map (causeOf c)).getD 0
  let there := isResident c n
  let wait := fun (c : Chip) => beginHold x.b d.job (copyHold x.k n) cause (modFlightOf x.b x.k x.id (fun f => { f with wait := .move n }) c)
  if c.plQueue ≠ [] then change (fun c => wait { c with plQueue := c.plQueue ++ [copyReq x d 4] })
  else do
    let (code, c') := moveUpAccept x.b x.k n d.job (d.b 5 18) (if there then c else wait c)
    if code = 0 then set c'
    else do
      change (lastErr code)
      stopWith code copyUnit

/-- EVICT and FORCE_EVICT of a descriptor complete at acceptance (R240), which waits behind the older requests (R250). -/
def bodyEvict (op : Nat) (accept : Nat → Nat → Chip → Nat × Chip) (x : Ctx) (d : Desc) : Eff Unit := do
  let c ← get
  if c.plQueue ≠ [] then
    change (fun c => modFlightOf x.b x.k x.id (fun f => { f with wait := .request }) { c with plQueue := c.plQueue ++ [copyReq x d op] })
  else do
    let (code, c') := accept (d.f 5 0 14) d.job c
    if code = 0 then set c'
    else do
      change (lastErr code)
      stopWith code copyUnit

/-- PLAIN. -/
def execPlain (b : Fin 32) (c : Fin 16) (s : State) : Host.Outcome State Fault Refusal :=
  onChip (issue b c (fun r => r == .copy 0) bodyPlain) s

/-- MOVE_UP. -/
def execMoveUp (b : Fin 32) (c : Fin 16) (s : State) : Host.Outcome State Fault Refusal :=
  onChip (issue b c (fun r => r == .copy 1) bodyMoveUp) s

end Sys2Proof.Machine
end

