-- ==== Sys2Proof/Machine/Placement.lean ====
section
/-! DEFINITION. Placement requests (R247 to R258), the moves of records and their ends (R252, R253), late tiers (R261), and the flash
translation layer (R262, R263). -/

namespace Sys2Proof.Machine

/-! ### Posting (R250) -/

/-- A write of PL_POST_HI (R250). -/
def wPlPost (m : Master) (v : Nat) (c : Chip) : Nat × Chip :=
  let c := storeReg c rPlHi v
  let n := fld v 16 8
  let a := postAddr c rPlLo rPlHi
  if n = 0 then (0, c)
  else if a % 64 ≠ 0 then plRefuse ePlRec c
  else postRun .requests m a n c

/-- PL_POST. -/
def execPlPost (m : Master) (v : BitVec 32) (s : State) : Host.Outcome State Fault Refusal := onChip (busWrite m (wPlPost m v.toNat)) s

/-! ### Acceptance -/

/-- The fields of a request block. -/
def Block.f (x : Block) (i lo n : Nat) : Nat := fld (x.w.getD i 0) lo n
def Block.job (x : Block) : Nat := x.f 0 16 16
def Block.recNo (x : Block) : Nat := x.f 0 32 14

/-- A reserved field of a request block is nonzero (R250), a number that is no job included (R9). -/
def blockBad (x : Block) : Bool :=
  x.f 0 6 10 != 0 || x.f 0 46 18 != 0 || x.f 1 48 16 != 0 || x.f 2 49 15 != 0 || x.f 3 30 34 != 0 || x.w.getD 4 0 != 0 || x.w.getD 5 0 != 0 ||
  x.w.getD 6 0 != 0 || x.f 7 2 14 != 0 || x.f 7 38 26 != 0 || decide (256 ≤ x.job)

/-- The request of a COPY descriptor is accepted in its turn (R240, R250): the copy completes, waits for its record, or stops. -/
def acceptCopy (b : Fin 32) (k : Fin 16) (id : Nat) (x : Block) (c : Chip) : Chip :=
  match (c.basins[b].chains[k]).bind (fun ch => ch.flight.find? (fun f => f.id == id)) with
  | none => c
  | some f =>
    if x.f 0 0 4 = 4 then
      let r := moveUpAccept b k x.recNo x.job (bit (x.w.getD 0 0) 4) c
      if r.1 = 0 then r.2
      else stopFlight b k f { code := r.1, unit := copyUnit } (endHolds b (fun h => h.chain == copyHold k x.recNo) r.2)
    else
      let r := (if x.f 0 0 4 = 5 then acceptEvict else acceptForce) x.recNo x.job c
      if r.1 = 0 then modFlightOf b k id (fun f => { f with wait := .none }) r.2
      else stopFlight b k f { code := r.1, unit := copyUnit } (lastErr r.1 r.2)

/-- The request of a sequencer for a chunk item's object is accepted (R114). -/
def acceptSequencer (x : Block) (c : Chip) : Chip :=
  let r := acceptUp x.recNo x.job false (some .sequencer) c
  if r.1 = 0 then upAfterClaim x.recNo x.job r.2
  else report { code := r.1, sev := sevOf r.1, job := some x.job, src := 0x24 } (lastErr r.1 r.2)

/-- The oldest request is accepted, if it is request `op` or has a reserved OP. While the oldest run is still being read from another package,
nothing behind it is accepted (R250). -/
def acceptBlock (op : Nat) (act : Block → Chip → Chip) (c : Chip) : Chip :=
  match c.plQueue with
  | [] => c
  | x :: r =>
    if x.origin matches .reading _ then c
    else if x.f 0 0 4 = op ∨ 13 ≤ x.f 0 0 4 then
      let c := plPending { c with plQueue := r }
      match x.origin with
      | .reading _ => c
      | .copy b k id => acceptCopy b k id x c
      | .sequencer => acceptSequencer x c
      | .posted => if 13 ≤ x.f 0 0 4 || blockBad x then endRequest x.addr x.job ePlRec 0 c else act x c
    else c

/-- A sequencer asks for the object of a chunk item that it holds (R114), behind the older requests (R250). -/
def sequencerUp (n job : Nat) (c : Chip) : Chip :=
  let x : Block := { addr := 0, w := [4 + job * 65536 + n * 2 ^ 32], master := 0, origin := .sequencer }
  if c.plQueue ≠ [] then { c with plQueue := c.plQueue ++ [x] } else acceptSequencer x c

/-- A request that completes at acceptance, with its code and unit. -/
def finishReq (x : Block) (r : Nat × Nat × Chip) : Chip := endRequest x.addr x.job r.1 r.2.1 r.2.2

/-- A request that reads or writes memory (R255, R257): where that lies in another package the request stays the oldest until it has
answered (R314). -/
def memReq {α : Type} (x : Block) (act : Eff α) (next : α → Chip → Nat × Nat × Chip) (c : Chip) : Chip :=
  match runHub hubMaster .request act c with
  | (c, .waits) => plPending { c with plQueue := x :: c.plQueue }
  | (c, .done a) => finishReq x (next a c)
  | (c, .stops e) => finishReq x (e.code, 0, c)

/-- A request on the record it names, which must be VALID. -/
def onRecord (act : Nat → Rec → Block → Chip → Nat × Nat × Chip) (x : Block) (c : Chip) : Chip :=
  match tabFind c.recs x.recNo with
  | none => endRequest x.addr x.job ePlRec 0 c
  | some r => finishReq x (act x.recNo r x c)

/-- Charges of a new record (R256, R258): the first unit whose charge does not fit. -/
def chargeAll (job bytes : Nat) : List Nat → Chip → Option Nat × Chip
  | [], c => (none, c)
  | u :: r, c => if chargeFits c job u bytes then chargeAll job bytes r (addCharge job u bytes c) else (some u, c)

/-- CREATE (R247, R256). -/
def reqCreate (x : Block) (c : Chip) : Nat × Nat × Chip :=
  let up := x.f 1 0 48
  let down := x.f 2 0 48
  let flash := bit (x.w.getD 2 0) 48
  let len := x.f 3 0 24
  let n := len * 64
  let bad := (tabFind c.recs x.recNo).isSome || (recAt c up).isSome || len == 0 || up % 64 != 0 || pkgOf up != pkg c || inHub up n ||
    !backed up n ||
    (if flash then down % 4096 != 0 || (pkgOf down == pkg c && decide (locOf down + n > capacity c 40)) || decide (locOf down + n > 2 ^ 44)
     else inHub down n || !backed down n || decide (tierOf c down false ≤ tierOf c up false))
  if bad then (ePlRec, 0, c)
  else
    let r : Rec := { up := up, wbAll := bit (x.w.getD 0 0) 5, down := down, downFlash := flash, len64 := len, job := x.job }
    match chargeAll x.job n (chargedUnits c r) c with
    | (some u, _) => (ePlOver, u, c)
    | (none, c) => (0, 0, { c with recs := tabSet c.recs x.recNo r })

/-- FREE (R251, R252). -/
def reqFree (n : Nat) (r : Rec) (_ : Block) (c : Chip) : Nat × Nat × Chip :=
  if r.refs = 1 ∧ r.pins = 0 ∧ r.busy = 0 ∧ r.claims = 0 ∧ !r.evictPend ∧ !r.forcePend ∧ !r.upPend ∧
      (r.state = .absent ∨ r.state = .resident ∨ r.moveFailed) then
    (0, 0, (chargedUnits c r).foldl (fun c u => addCharge r.job u (-((r.len64 * 64 : Nat) : Int)) c) { c with recs := tabDel c.recs n })
  else (ePlState, 0, c)

/-- SHARE (R251, R252). -/
def reqShare (n : Nat) (r : Rec) (_ : Block) (c : Chip) : Nat × Nat × Chip :=
  if r.moveFailed || decide (255 ≤ r.refs) then (ePlState, 0, c) else (0, 0, modRec n (fun r => { r with refs := r.refs + 1 }) c)

/-- UNSHARE (R251, R252). -/
def reqUnshare (n : Nat) (r : Rec) (_ : Block) (c : Chip) : Nat × Nat × Chip :=
  if r.moveFailed || decide (r.refs ≤ 1) then (ePlState, 0, c) else (0, 0, modRec n (fun r => { r with refs := r.refs - 1 }) c)

/-- CANCEL_EVICT (R251). -/
def reqCancelEvict (n : Nat) (_ : Rec) (_ : Block) (c : Chip) : Nat × Nat × Chip :=
  (0, 0, modRec n (fun r => { r with evictPend := false, forcePend := false }) c)

/-- PIN (R251). -/
def reqPin (n : Nat) (r : Rec) (_ : Block) (c : Chip) : Nat × Nat × Chip :=
  if 65535 ≤ r.pins then (ePlPin, 0, c) else (0, 0, modRec n (fun r => { r with pins := r.pins + 1 }) c)

/-- UNPIN (R251, R252). -/
def reqUnpin (n : Nat) (r : Rec) (_ : Block) (c : Chip) : Nat × Nat × Chip :=
  if r.pins = 0 then (ePlPin, 0, c) else (0, 0, dropPin n c)

/-- EVICT and FORCE_EVICT of a posted block. -/
def reqEvict (accept : Nat → Nat → Chip → Nat × Chip) (n : Nat) (_ : Rec) (x : Block) (c : Chip) : Nat × Nat × Chip :=
  let r := accept n x.job c
  (r.1, 0, r.2)

/-- UP of a posted block: it completes when the record is RESIDENT (R250, R252). -/
def reqUp (x : Block) (c : Chip) : Chip :=
  let r := acceptUp x.recNo x.job (bit (x.w.getD 0 0) 4) (some (.block x.addr)) c
  if r.1 = 0 then upAfterClaim x.recNo x.job r.2 else endRequest x.addr x.job r.1 0 r.2

/-- The list of an ADMIT: unit and bytes of each entry, or none where a reserved bit is set or a unit does not exist. -/
def admitList (bs : List Byte) (n : Nat) : Option (List (Nat × Nat)) :=
  let ws := (List.range n).map (fun i => leNat ((bs.drop (8 * i)).take 8))
  if ws.any (fun w => fld w 6 2 != 0 || fld w 40 24 != 0 || decide (40 < fld w 0 6)) then none
  else some (ws.map (fun w => (fld w 0 6, fld w 8 32 * 64)))

/-- The list of an ADMIT is granted whole or not at all (R255). -/
def admitRead (x : Block) (bs : List Byte) (c : Chip) : Nat × Nat × Chip :=
  match admitList bs (x.f 3 24 6) with
  | none => (ePlRec, 0, c)
  | some xs =>
    let asked := fun u => ((xs.filter (fun p => p.1 == u)).map (·.2)).sum
    let full := xs.find? (fun p => decide (capacity c p.1 < asked p.1 + unitSum c.reserved p.1))
    let known := x.job == 0 || c.accounts.contains x.job
    match full with
    | some p => (ePlRefused, p.1, bump c (rPlCtr 4))
    | none =>
      if !known && decide (255 ≤ c.accounts.length) then (ePlRefused, 0, bump c (rPlCtr 4))
      else
        let c := if known then c else { c with accounts := insertNat x.job c.accounts }
        (0, 0, xs.foldl (fun c p => { c with reserved := tabSet c.reserved (acctKey x.job p.1) (tabGet 0 c.reserved (acctKey x.job p.1) + p.2) }) c)

/-- ADMIT (R255). -/
def reqAdmitJob (x : Block) (c : Chip) : Chip :=
  let n := x.f 3 24 6
  if bit (getReg c rPlCfg) 0 then finishReq x (ePlMode, 0, c)
  else if n = 0 ∨ 41 < n then finishReq x (ePlRec, 0, c)
  else memReq x (readAny 0 (x.f 1 0 48) (8 * n)) (admitRead x) c

/-- RELEASE_JOB (R257). -/
def reqReleaseJob (x : Block) (c : Chip) : Nat × Nat × Chip :=
  if c.charged.any (fun p => p.1 / 64 == x.job && p.2 != 0) then (ePlState, 0, c)
  else (0, 0, { c with accounts := c.accounts.filter (· != x.job), reserved := c.reserved.filter (fun p => p.1 / 64 != x.job) })

/-- QUERY_JOB (R257): word 7 follows once the table is written. -/
def reqQueryJob (x : Block) (c : Chip) : Chip :=
  let bs := (List.range 41).flatMap (fun u =>
    leBytes 8 (tabGet 0 c.reserved (acctKey x.job u)) ++ leBytes 8 (tabGet 0 c.charged (acctKey x.job u)))
  memReq x (do writeAny 0 (x.f 1 0 48) bs; syncFar 0) (fun _ c => (0, 0, c)) c

/-- CREATE. -/
def execCreate (s : State) : Host.Outcome State Fault Refusal := onChip (acceptBlock 0 (fun x c => finishReq x (reqCreate x c))) s

/-- FREE. -/
def execFree (s : State) : Host.Outcome State Fault Refusal := onChip (acceptBlock 1 (onRecord reqFree)) s

/-- SHARE. -/
def execShare (s : State) : Host.Outcome State Fault Refusal := onChip (acceptBlock 2 (onRecord reqShare)) s

/-- UNSHARE. -/
def execUnshare (s : State) : Host.Outcome State Fault Refusal := onChip (acceptBlock 3 (onRecord reqUnshare)) s

/-- UP. -/
def execUp (s : State) : Host.Outcome State Fault Refusal := onChip (acceptBlock 4 reqUp) s

/-- EVICT. -/
def execEvict (r : ReqSrc) (s : State) : Host.Outcome State Fault Refusal :=
  match r with
  | .desc b c => onChip (issue b c (fun r => r == .copy 2) (bodyEvict 5 acceptEvict)) s
  | .block => onChip (acceptBlock 5 (onRecord (reqEvict acceptEvict))) s

/-- FORCE_EVICT. -/
def execForceEvict (r : ReqSrc) (s : State) : Host.Outcome State Fault Refusal :=
  match r with
  | .desc b c => onChip (issue b c (fun r => r == .copy 3) (bodyEvict 6 acceptForce)) s
  | .block => onChip (acceptBlock 6 (onRecord (reqEvict acceptForce))) s

/-- CANCEL_EVICT. -/
def execCancelEvict (s : State) : Host.Outcome State Fault Refusal := onChip (acceptBlock 7 (onRecord reqCancelEvict)) s

/-- PIN. -/
def execPin (s : State) : Host.Outcome State Fault Refusal := onChip (acceptBlock 8 (onRecord reqPin)) s

/-- UNPIN. -/
def execUnpin (s : State) : Host.Outcome State Fault Refusal := onChip (acceptBlock 9 (onRecord reqUnpin)) s

/-- ADMIT. -/
def execAdmitJob (s : State) : Host.Outcome State Fault Refusal := onChip (acceptBlock 10 reqAdmitJob) s

/-- RELEASE_JOB. -/
def execReleaseJob (s : State) : Host.Outcome State Fault Refusal := onChip (acceptBlock 11 (fun x c => finishReq x (reqReleaseJob x c))) s

/-- QUERY_JOB. -/
def execQueryJob (s : State) : Host.Outcome State Fault Refusal := onChip (acceptBlock 12 reqQueryJob) s

/-! ### Moves (R252, R253) -/

/-- The bytes of a claim's copy wait for its items to issue (R190, R253). -/
def fillClaims (n up : Nat) (bs : List Byte) (c : Chip) : Chip :=
  let fill := fun (xs : List RunCopy) => xs.map (fun x => if waitsClaim n x then { x with moved := true, writes := [(up, bs)] } else x)
  modBasins (fun _ s => { s with queue := s.queue.map (fun q => { q with ahead := q.ahead.map fill }),
                                 chains := s.chains.map (fun o => o.map (fun ch => { ch with ahead := fill ch.ahead })) }) c

/-- A move-up, or the copy of a claim, has its data. An UP that waited for a claim which has gone goes on with a copy of its own (log entry 148). -/
def moveUpDone (n : Nat) (c : Chip) : Chip :=
  match tabFind c.recs n with
  | none => c
  | some r =>
    if r.moveFailed then c
    else if r.state = .movingUp then
      if !movePlaced n r.up c then c
      else
        match runHub hubMaster (.move n) (moveData r) c with
        | (c, .waits) => c
        | (c, .done _) => becomeResident n (legDone n c)
        | (c, .stops e) => moveFails n e c
    else if r.state = .absent ∧ (claimOpen c n ∨ r.waiters ≠ []) then
      match runHub hubMaster (.move n) (lowerBytes r) c with
      | (c, .waits) => c
      | (c, .stops e) => claimFails n e c
      | (c, .done bs) =>
        let c := fillClaims n r.up bs (legDone n c)
        if r.waiters = [] then c else becomeResident n (clearDirty r.up (r.len64 * 64) (putMem c r.up bs))
    else c

/-- A write-back has written its data. To flash it ends once every program of it is acknowledged (R262). -/
def writeBackDone (n : Nat) (c : Chip) : Chip :=
  match tabFind c.recs n with
  | none => c
  | some r =>
    if r.moveFailed || r.state != .movingDown || !movePlaced n r.up c || moveFar n c then c
    else if r.downFlash then (if c.flash.writes.any (fun w => w.1 == .move n) then c else downDone n c)
    else if pkgOf r.down ≠ pkg c then downDone n c
    else
      match runEff (backData r (wbParts c r)) c with
      | (c, .ok _) => downDone n c
      | (c, .error e) => moveFails n e c

/-- The errors that can stop a move (R252, R263). -/
def moveErrors : List Nat := [eDramUe, eSramUe, eFlashUe, eFabFenced, eFabLink, eFlashFull]

/-- A move stops on an error. -/
def moveStop (n code : Nat) (c : Chip) : Chip :=
  match tabFind c.recs n with
  | none => c
  | some r =>
    if !moveErrors.contains code || r.moveFailed then c
    else if r.state = .movingUp ∨ r.state = .movingDown then moveFails n { code := code, addr := r.down } c
    else if r.state = .absent ∧ (claimOpen c n ∨ r.waiters ≠ []) then claimFails n { code := code, addr := r.down } c
    else c

/-- MOVE_UP_DONE. -/
def execMoveUpDone (rec : Nat) (s : State) : Host.Outcome State Fault Refusal := onChip (moveUpDone rec) s

/-- WRITE_BACK_DONE. -/
def execWriteBackDone (rec : Nat) (s : State) : Host.Outcome State Fault Refusal := onChip (writeBackDone rec) s

/-- MOVE_STOP. -/
def execMoveStop (rec : Nat) (code : BitVec 16) (s : State) : Host.Outcome State Fault Refusal := onChip (moveStop rec code.toNat) s

/-! ### Late tiers and modes -/

/-- A hold of a basin is reported late, once (R261). -/
def tierLate (b : Fin 32) (i : Nat) (c : Chip) : Chip :=
  match c.basins[b].holds[i]? with
  | none => c
  | some h =>
    if h.reported then c
    else
      let c := modBasin b (fun s => { s with holds := s.holds.set i { h with reported := true } }) c
      setStatus 5 (report { code := eTierLate, sev := sevOf eTierLate, job := some h.job, src := b.val, arg := h.cause } c)

/-- TIER_LATE. -/
def execTierLate (b : Fin 32) (i : Nat) (s : State) : Host.Outcome State Fault Refusal := onChip (tierLate b i) s

/-- A write of PL_CFG (R258, R265). -/
def wPlCfg (v : Nat) (c : Chip) : Nat × Chip :=
  if bit v 0 || !bit (getReg c rPlCfg) 0 then (0, storeReg c rPlCfg v)
  else if (List.range 41).all (fun u => decide (unitSum c.charged u ≤ capacity c u)) then
    let jobs := (c.charged.filter (fun p => p.2 != 0)).map (fun p => p.1 / 64)
    (0, storeReg { c with reserved := c.charged, accounts := jobs.foldl (fun l j => if j = 0 then l else insertNat j l) c.accounts } rPlCfg v)
  else (0, putF c rPlStatus 9 1 1)

/-- PL_MODE_WRITE. -/
def execPlModeWrite (m : Master) (v : BitVec 32) (s : State) : Host.Outcome State Fault Refusal := onChip (busWrite m (wPlCfg v.toNat)) s

/-! ### The flash translation layer (R262, R263) -/

/-- Sectors to a block. DESIGN CHOICE (log entry 35), unsafe: the spec gives no size of a block. -/
def blockSectors : Nat := 1024

/-- A block that holds no sector, is not retired and takes no writes now. -/
def blockFree (f : Flash) (k : Nat) : Bool := !f.bad.contains k && !f.place.any (fun p => p.2 == k) && f.opened.map (·.1) != some k

/-- The least-erased block that satisfies a test, of those equal the lowest (R263): one never erased before those with a count. -/
def leastErased (f : Flash) (p : Nat → Bool) : Option Nat :=
  match (List.range (min f.blocks (f.erases.length + f.bad.length + f.place.length + 2))).find? (fun k => p k && (tabFind f.erases k).isNone) with
  | some k => some k
  | none => ((f.erases.filter (fun x => p x.1)).foldl (fun (best : Option (Nat × Nat)) x =>
      match best with
      | none => some x
      | some y => if x.2 < y.2 then some x else some y) none).map (·.1)

/-- A block is erased: its erase count grows, and its reads start again (R263). -/
def eraseBlock (k : Nat) (f : Flash) : Flash :=
  { f with erases := tabSet f.erases k (tabGet 0 f.erases k + 1), reads := tabSet f.reads k 0 }

/-- A sector is programmed: into the block that takes the writes, and once that is full into the least-erased free block (R263). -/
def placeSector (s : Nat) (f : Flash) : Flash :=
  let open1 := fun (f : Flash) (k u : Nat) => { f with place := tabSet f.place s k, opened := some (k, u + 1) }
  match f.opened with
  | some (k, u) =>
    if u < blockSectors ∧ !f.bad.contains k then open1 f k u
    else
      match leastErased f (blockFree f) with
      | some j => open1 (eraseBlock j f) j 0
      | none => open1 f k u
  | none =>
    match leastErased f (blockFree f) with
    | some j => open1 (eraseBlock j f) j 0
    | none => open1 f 0 0

/-- The sectors of a write are programmed, and the bytes stand in them. -/
def programmed (a : Nat) (bs : List Byte) (f : Flash) : Flash :=
  let f := { f with bytes := memWriteN f.bytes a bs }
  if bs = [] then f else (span (a / 4096) ((a + bs.length - 1) / 4096 + 1 - a / 4096)).foldl (fun f s => placeSector s f) f

/-- The data of a block moves to another. -/
def moveBlock (src dst : Nat) (f : Flash) : Flash := { f with place := f.place.map (fun p => if p.2 = src then (p.1, dst) else p) }

/-- Where the mirror of the recorder begins in the package's flash (R440). -/
def mirrorBase : Nat := 0x3000000

/-- A sector of the mirror is written, or has failed (R440): ER_MIRROR_POS passes the records it holds, or mirroring stops. -/
def mirrorEnds (next a : Nat) (err : Option Nat) (c : Chip) : Chip :=
  let c := putF c rErStatus 12 1 0
  match err with
  | some e => report { code := eErMirror, sev := sevOf eErMirror, src := 0x2A, addr := a, arg := e } (putF c rErStatus 13 1 1)
  | none => putReg c rErMirror next

/-- Whoever made a program has its outcome: 0, or an error. -/
def flashEnds (who : FlashBy) (a : Nat) (err : Option Nat) (c : Chip) : Chip :=
  match who with
  | .mirror next => mirrorEnds next a err c
  | .move n => match err with | some e => moveFails n { code := e, addr := a } c | none => c
  | .wdata => { c with flash := { c.flash with acked := c.flash.acked ++ [(a, err.getD 0)] } }
  | .sec => { c with flash := { c.flash with acked := c.flash.acked ++ [(a, err.getD 0)] } }

/-- The i-th program under way is acknowledged, or fails. A read-only flash completes it with FLASH_FULL (R263). One into another package's
flash is that package's to carry out, and only its end is met here (log entry 169). -/
def programAck (i : Nat) (err : Option Nat) (c : Chip) : Chip :=
  match c.flash.writes[i]? with
  | none => c
  | some (who, a, bs) =>
    let own := pkgOf a == pkg c
    let c := { c with flash := { c.flash with writes := c.flash.writes.eraseIdx i } }
    let err := if own && bit (getReg c rFlStatus) 15 then some eFlashFull else err
    flashEnds who a err (if err.isSome || !own then c else { c with flash := programmed a bs c.flash })

/-- How far the erase counts of the most-erased and the least-erased block lie apart (R263). -/
def wearSpread (f : Flash) : Nat :=
  let good := f.erases.filter (fun x => !f.bad.contains x.1)
  let most := (good.map (·.2)).foldl max 0
  if decide (good.length + f.bad.length < f.blocks) then most else most - (good.map (·.2)).foldl min most

/-- May the data of a block move to another: it holds data, and the other is the least-erased free block. -/
def mayMove (f : Flash) (src dst : Nat) : Bool := f.place.any (fun p => p.2 == src) && leastErased f (blockFree f) == some dst

/-- Static data of a block with the fewest erases moves (R263). -/
def wearLevel (src dst : Nat) (c : Chip) : Chip :=
  let f := c.flash
  let fewest := f.place.all (fun p => decide (tabGet 0 f.erases src ≤ tabGet 0 f.erases p.2))
  if mayMove f src dst && fewest && decide (getF c rFlCfg 8 8 * 64 < wearSpread f) then
    { c with flash := eraseBlock src (moveBlock src dst (eraseBlock dst f)) }
  else c

/-- WEAR_LEVELLING. -/
def execWearLevelling (src : Nat) (dst : Nat) (s : State) : Host.Outcome State Fault Refusal := onChip (wearLevel src dst) s

/-- A block read too often since its last erase is rewritten elsewhere (R263). -/
def refreshBlock (blk dst : Nat) (c : Chip) : Chip :=
  let f := c.flash
  if mayMove f blk dst && decide (getF c rFlCfg 0 8 * 10000 < tabGet 0 f.reads blk) then
    bump { c with flash := eraseBlock blk (moveBlock blk dst (eraseBlock dst f)) } (rPlCtr 7)
  else c

/-- READ_DISTURB_REFRESH. -/
def execReadDisturbRefresh (blk : Nat) (dst : Nat) (s : State) : Host.Outcome State Fault Refusal := onChip (refreshBlock blk dst) s

/-- A block that fails is retired, and its data is programmed again into a spare block; few spares and none are told (R263). -/
def retireBlock (k : Nat) (c : Chip) : Chip :=
  if c.flash.bad.contains k then c
  else
    let f := { c.flash with bad := insertNat k c.flash.bad, spares := c.flash.spares - 1 }
    let f := match leastErased f (blockFree f) with
      | some j => if f.place.any (fun p => p.2 == k) then moveBlock k j (eraseBlock j f) else f
      | none => f
    let c := bump { c with flash := f } (rPlCtr 8)
    let c := if c.flash.spares * 50 < c.flash.blocks ∧ !bit (getReg c rFlStatus) 14 then
        setStatus 6 (report { code := eFlashFull, sev := 1, src := 0x2A } (putF c rFlStatus 14 1 1)) else c
    if c.flash.spares = 0 ∧ !bit (getReg c rFlStatus) 15 then setStatus 6 (putF c rFlStatus 15 1 1) else c

/-- BAD_BLOCK_RETIRE. -/
def execBadBlockRetire (blk : Nat) (s : State) : Host.Outcome State Fault Refusal := onChip (retireBlock blk) s

end Sys2Proof.Machine
end

