-- ==== Sys2Proof/Machine/Complete.lean ====
section
/-! DEFINITION. The completion of a descriptor and of an item (R37, R39, R111, R177, R185, R216), and the change of ganging mode
(R35). -/

namespace Sys2Proof.Machine

/-- An error outside the descriptors of an item stops it (R45, R177, R437). -/
def itemError (b : Fin 32) (it : Item) (e : Stop) (c : Chip) : Chip := basinError b it.job.toNat 0 { e with step := it.stepTag.toNat } c

/-- The done word of an item grows by 1 (R177). An error stops the item (R54, R177). -/
def addDone (b : Fin 32) (it : Item) (c : Chip) : Chip :=
  let a := it.done.toNat
  if a = 0 then c
  else
    match runEff (checkPlace 0x34 a 4) c with
    | (c, .error e) => itemError b it e c
    | (c, .ok _) =>
      if pkgOf a = pkg c then
        match runEff (atomicAdd32 0x34 a 1) c with
        | (c, .ok _) => c
        | (c, .error e) => itemError b it e c
      else
        match reach (pkgOf a) c with
        | (some l, c) =>
          (sendAtomic l a (leBytes 4 0 ++ leBytes 4 1) (basinMaster b) (.done b it.job.toNat it.stepTag.toNat) c).2
        | (none, c) => itemError b it { code := eFabFenced, unit := 0x34, addr := a } c

/-- Does a chain hold another STATE_CHUNK from an offset on (R111). -/
def laterChunk (c : Chip) (m : Fin 32) : Nat → Nat → Bool
  | 0, _ => false
  | n + 1, pc =>
    if past pc 64 then false
    else
      let d := peekDesc c m pc
      d.opcode == 0x40 || (!d.last && laterChunk c m n (pc + 64))

/-- The holds that a coding takes on completion (R216). DESIGN CHOICE (log entry 181), unsafe: where a HOLD or another coding came between the
check of a coding and its completion, the sum may pass 2^20 - 1; the spec is silent, and the model adds without a limit. -/
def takeHolds (m : Fin 32) (hs : List (Nat × Nat)) (c : Chip) : Chip :=
  hs.foldl (fun c h => modSlot m h.1 (fun t => { t with holds := t.holds + h.2 }) c) c

/-- The tables that a table write has built are READY on its completion (R215). -/
def tablesReady (m : Fin 32) (ns : List Nat) (c : Chip) : Chip :=
  ns.foldl (fun c n => modSlot m n (fun t => if t.state = .building then { t with state := .ready } else t) c) c

/-- What a chain does when one of its descriptors has completed: the item completes with the LAST one, unless it is migrated (R177,
R185), and the context is free once nothing is in flight. -/
def afterComplete (b : Fin 32) (k : Fin 16) (d : Desc) (c : Chip) : Chip :=
  match c.basins[b].chains[k] with
  | none => c
  | some ch =>
    let c := if d.last && !ch.stopped then
        let c := setChain b k (some { ch with lastDone := true }) c
        if ch.place = .migrated then c else addDone b ch.item c
      else c
    match c.basins[b].chains[k] with
    | none => c
    | some ch =>
      if ch.lastDone ∧ ch.flight = [] ∧ ch.place ≠ .migrated then freeContext b k c else freeStopped b k c

/-- A copy that waited for a place of the copy engine moves its bytes once it has one (R243). -/
def startPlaced (b : Fin 32) (k : Fin 16) (x : Ctx) (f : Flight) (c : Chip) : Chip :=
  if f.wait ≠ .place || (c.basins[b].engine.drop 4).contains (.copy k f.id) then c
  else
    match runEff (plainCopy x f.id { w := f.w }) (modFlightOf b k f.id (fun f => { f with wait := .none }) c) with
    | (c, .ok _) => c
    | (c, .error e) => stopFlight b k f e c

/-- What a descriptor that uses the jets, or that may have to wait for other packages, does as it issues and as it goes on; a partial waits
`wait` cycles for the vector unit (R127). -/
def jetBody (wait : Nat) (x : Ctx) (d : Desc) : Eff Unit :=
  match rowOf d with
  | some .matmul => bodyMatmul x d
  | some .kvAppend => bodyAppend x d
  | some (.attn 0) => bodyForward wait x d
  | some (.attn 1) => bodyBackward (fun p _ _ => p) wait x d
  | some (.attn _) => bodyBackward (fun p dp dd => fMul p (fAdd dp dd.neg)) wait x d
  | some .window => bodyWindow x d
  | some .chunk => bodyChunk x d
  | some (.kv 0) => kvPublish x.m d
  | some (.kv 1) => kvResolve x.b d
  | some (.kv 2) => kvTrim x.b d
  | some (.kv 3) => kvFoldTail x d
  | some (.kv 4) => kvQuery x.m d
  | some (.kv _) => kvClearPins x.m d
  | some (.ckpt 0) => bodySave x d
  | some (.ckpt 1) => bodyRestore x d
  | some (.ckpt _) => bodyClearHook x d
  | _ => pure ()

/-- A descriptor whose answers from other packages are all in goes on (R314). DESIGN CHOICE (log entry 184), safe: it does so as its completion
is commanded, and completes then if it waits for nothing more. -/
def goOn (wait : Nat) (b : Fin 32) (k : Fin 16) (ch : Chain) (f : Flight) (c : Chip) : Chip :=
  if f.again && f.wait == .none then
    runFlight b k f.id ch.home (jetBody wait { ctxOf b k ch with id := f.id } { w := f.w })
      (modFlightOf b k f.id (fun x => { x with again := false }) c)
  else c

/-- Is a descriptor in flight that waits for nothing. -/
def flightDone (f : Flight) : Bool := f.wait == .none && f.w != [] && !f.again

/-- Does an item's ticket fall with a STATE_CHUNK that completes: no other is in flight, and none is still to issue (R111). -/
def lastChunk (c : Chip) (m : Fin 32) (ch : Chain) (id : Nat) : Bool :=
  !ch.flight.any (fun g => g.id != id && fld (g.w.getD 0 0) 0 8 == 0x40) && (ch.stopped || ch.lastIssued || !laterChunk c m 98304 ch.pc)

/-- The descriptor `id` of a chain completes, if it is in flight and waits for nothing. -/
def completeFlight (b : Fin 32) (k : Fin 16) (m : Fin 32) (id : Nat) (c : Chip) : Chip :=
  match c.basins[b].chains[k] with
  | none => c
  | some ch =>
    match ch.flight.find? (fun f => f.id == id) with
    | none => c
    | some f =>
      if !flightDone f then c
      else
        let d : Desc := { w := f.w }
        let c := leaveEngine b k id (setChain b k (some { ch with flight := ch.flight.filter (fun g => g.id != id) }) c)
        let c := tablesReady m f.builds (takeHolds m f.holds (forgetFlight b k id (releaseFlight b (stepOf c b k) f c)))
        let c := if d.opcode = 0x30 then bump c (rAttnCtr b.val 0) else c
        let c := if d.opcode = 0x40 && lastChunk c m ch id then releaseTicket b k c else c
        let c := if d.sigEn then signalCtr b k d.sigCtr c else c
        afterComplete b k d c

/-- The i-th descriptor in flight of a chain completes. An in-place thief's units waited `xbar` cycles for it on the crossbar (R184); a partial
that goes on with answers of other packages waits `vec` cycles for the vector unit (R127). -/
def complete (b : Fin 32) (k : Fin 16) (i xbar vec : Nat) (c : Chip) : Chip :=
  match c.basins[b].chains[k] with
  | none => c
  | some ch =>
    match ch.flight[i]? with
    | none => c
    | some f =>
      let x := ctxOf b k ch
      let c := startPlaced b k x f (goOn vec b k ch f c)
      let done := ((c.basins[b].chains[k]).bind (fun ch => ch.flight.find? (fun g => g.id == f.id))).any flightDone
      completeFlight b k x.m f.id (if done && x.crossbar then bumpUnits c (rWqCtr b.val 3) 256 xbar else c)

/-- DESCRIPTOR_COMPLETE. -/
def execDescriptorComplete (b : Fin 32) (c : Fin 16) (j : Done) (s : State) : Host.Outcome State Fault Refusal :=
  onChip (fun p => pollReady (complete b c j.i j.xbar j.vec p)) s

/-! ### The change of ganging mode (R35) -/

/-- Is a jet of the basin busy, or an accumulator held. -/
def jetsIdle (s : Basin) : Bool := (chainsOf s).all (fun p => p.2.acc.isNone && p.2.flight.all (fun f => f.jets == []))

/-- The chain that waits for a change of mode and reached its head first (R35). -/
def firstWaiting (s : Basin) : Option (Fin 16 × Chain) :=
  ((chainsOf s).filter (fun p => s.drain.contains p.1)).foldl (fun best p =>
    match best with
    | none => some p
    | some q => if p.2.stamp < q.2.stamp then some p else some q) none

/-- The basin changes ganging mode once no jet is busy and no accumulator held, and the descriptor that reached its head first issues. -/
def gangChange (b : Fin 32) (cycles wait : Nat) (c : Chip) : Chip :=
  match firstWaiting c.basins[b] with
  | none => c
  | some (k, ch) =>
    if !jetsIdle c.basins[b] then c
    else
      let gang := fun (p : Chain) (j : Fin 16) => (peekDesc c (ctxOf b j p).m p.pc).gang
      let g := gang ch k
      let stays := fun (j : Fin 16) => match c.basins[b].chains[j] with | some p => gang p j != g | none => false
      let c := bumpUnits c (rBasinCtr b.val 3) 256 cycles
      let c := modBasin b (fun s => { s with gang := g, drain := s.drain.filter stays }) c
      issue b k (fun _ => true) (jetBody wait) c

/-- GANG_MODE_CHANGE. -/
def execGangModeChange (b : Fin 32) (cycles : GangCycles) (s : State) : Host.Outcome State Fault Refusal :=
  onChip (gangChange b cycles.drain cycles.vec) s

end Sys2Proof.Machine
end

