-- ==== Sys2Proof/Machine/Queue.lean ====
section
/-! DEFINITION. Work queues (R176 to R192): posting, readiness, starts, run-ahead, stealing, migration and cancels. -/

namespace Sys2Proof.Machine

/-- A write of WQ_POST_HI_n. -/
def wWqPost (m : Master) (b : Fin 32) (v : Nat) (c : Chip) : Nat × Chip :=
  let c := storeReg c (rWqHi b.val) v
  if fld v 16 9 = 0 then (0, c) else postRun (.items b) m (postAddr c (rWqLo b.val) (rWqHi b.val)) (fld v 16 9) c

/-- WQ_POST. -/
def execWqPost (m : Master) (b : Fin 32) (v : BitVec 32) (s : State) : Host.Outcome State Fault Refusal :=
  onChip (busWrite m (wWqPost m b v.toNat)) s

/-! ### Readiness (R180, R268, R295, R425) -/

/-- Is the item at a place of a queue ready. -/
def ready (c : Chip) (b : Fin 32) (i : Nat) (q : QItem) : Bool :=
  let it := q.item
  let same := fun (x : Item) => x.job == it.job && x.key == it.key
  bit (getReg c rCadStatus) 0 && tickLe it.stepTag.toNat (tickOf c) && (it.stepTag.toNat != tickOf c || c.cad.guardDone) && q.gateOk &&
  (it.key == 0 || (!(c.basins[b].queue.take i).any (fun x => same x.item) && !(chainsOf c.basins[b]).any (fun p => same p.2.item))) &&
  setPermits c it && !jobBlocked c b it.job.toNat

/-- The items of a queue with their places. -/
def placed (c : Chip) (b : Fin 32) : List (Nat × QItem) := (List.range c.basins[b].queue.length).zip c.basins[b].queue

/-- GATE_REREAD. -/
def execGateReread (b : Fin 32) (i : Nat) (s : State) : Host.Outcome State Fault Refusal := onChip (gateReread b i) s

/-! ### Starts (R181, R190, R114) -/

/-- Has every run-ahead copy that the item names completed (R190): its chain has issued, and the copies are whole. -/
def aheadWhole (q : QItem) : Bool := match q.ahead with | some xs => xs.all (·.moved) | none => !q.item.pfEn

/-- The lowest free chain context. -/
def freeContextOf (s : Basin) : Option (Fin 16) := (List.finRange 16).find? (fun k => s.chains[k].isNone)

/-- The place of a queue is taken out. -/
def takeOut (b : Fin 32) (i : Nat) (c : Chip) : Chip := modBasin b (fun s => { s with queue := s.queue.eraseIdx i }) c

/-- Does a sequencer's request for a record stand already: it waits in the record, or to be accepted. -/
def upAsked (c : Chip) (n : Nat) (r : Rec) : Bool :=
  r.waiters.contains .sequencer || c.plQueue.any (fun x => x.origin == .sequencer && x.recNo == n)

/-- The run-ahead copies of an item that have not completed. -/
def waitingCopies (q : QItem) : List RunCopy := (q.ahead.getD []).filter (fun x => !x.moved)

/-- A ready item that its data keeps back is held (R190, R260): its hold begins, and the move-up of a chunk's object is requested under its
ticket (R114). -/
def holdItem (b : Fin 32) (i : Nat) (q : QItem) (c : Chip) : Chip :=
  let rn := objectRec c b q.item
  let cause := match rn.bind (tabFind c.recs) with
    | some r => if r.state = .resident then aheadCause c (waitingCopies q) else causeOf c r
    | none => aheadCause c (waitingCopies q)
  let first := q.heldSince.isNone
  let c := if first then
      beginHold b q.item.job.toNat q.item.chain.toNat cause (modBasin b (fun s =>
        { s with queue := s.queue.set i { q with heldSince := some c.upNs }, swapOwed := s.swapOwed || isChunk q.item }) c)
    else c
  match rn with
  | some n =>
    match tabFind c.recs n with
    | some r => if r.state ≠ .resident ∧ (first ∨ !r.moveFailed) ∧ !upAsked c n r then sequencerUp n q.item.job.toNat c else c
    | none => c
  | none => c

/-- An item starts in a context (R37, R181). -/
def startItem (b : Fin 32) (i : Nat) (q : QItem) (k : Fin 16) (c : Chip) : Chip :=
  let c := if q.heldSince.isSome then endHolds b (itemHold q) c else c
  let ch : Chain := { item := q.item, homePkg := c.power.pkgId, home := b, pc := q.item.chain.toNat, ahead := q.ahead.getD [], ticket := q.ticket }
  stampHead b k (setChain b k (some ch) (takeOut b i c))

/-! ### Run-ahead (R189, R253) -/

/-- May a run-ahead copy write a range: in the home basin's SRAM or the cistern of its die. -/
def aheadPlace (c : Chip) (b : Fin 32) (a n : Nat) : Bool :=
  pkgOf a == pkg c && backed a n &&
  (match regionOf (locOf a) with | .sram d => d == b | .cistern d => d.val == dieOf b | _ => false)

/-- Rows of another package are asked for in READ_REQ flits, whose answers bring the bytes of a run-ahead copy (R190, R242). -/
def aheadFar (b : Fin 32) (job src : Nat) (rows : List ((Nat × Nat) × (Nat × Nat))) : Eff RunCopy := do
  let l ← copyLink src
  let ts ← (rows.flatMap (fun r => pieces 4096 r.1.1 r.1.2)).mapM (fun p => do
    let c ← get
    let (tag, c) := sendRead l p.1 p.2 (basinMaster b) (.ahead b job) c
    set c
    pure tag)
  pure { moved := ts == [], dst := rows.map (·.2), tags := ts, rows := rows.map (fun r => (r.1.1, r.2.1, r.1.2)) }

/-- Rows of this package are read at once, and written once the item issues. -/
def aheadHere (rows : List ((Nat × Nat) × (Nat × Nat))) : Eff RunCopy := do
  let ws ← rows.mapM (fun r => do
    let bs ← readMem copyUnit r.1.1 r.1.2
    pure (r.2.1, bs))
  pure { moved := true, writes := ws, dst := rows.map (·.2) }

/-- A run-ahead PLAIN copy: what it will have written once its item issues. One that stops leaves its destination undefined (R242). -/
def aheadPlain (b : Fin 32) (d : Desc) : Eff RunCopy := do
  let c ← get
  let src := d.f 1 0 48
  let srcs := copyRows src (d.f 4 0 24) (d.f 3 0 16) (d.f 3 16 24)
  let dsts := copyRows (d.f 2 0 48) (d.f 4 24 24) (d.f 3 0 16) (d.f 3 16 24)
  stopIf (!dsts.all (fun r => aheadPlace c b r.1 r.2)) eItemPf 0x34
  undefineOnStop dsts (do
    srcs.forM (fun r => checkPlace copyUnit r.1 r.2)
    if pkgOf src = pkg c then aheadHere (srcs.zip dsts) else aheadFar b d.job src (srcs.zip dsts))

/-- A run-ahead MOVE_UP (R253): a claim on an ABSENT record with no pending flag; otherwise it moves nothing and counts as complete. -/
def aheadMove (b : Fin 32) (d : Desc) : Eff RunCopy := do
  let c ← get
  let n := d.f 5 0 14
  match tabFind c.recs n with
  | none => stopWith ePlRec copyUnit
  | some r => do
    stopIf (!aheadPlace c b r.up (r.len64 * 64)) eItemPf 0x34
    let pin := if d.b 5 18 then some n else none
    if r.state = .absent ∧ !r.evictPend ∧ !r.forcePend ∧ !r.upPend ∧ r.claims < 15 then do
      change (fun c => modRec n (fun r => { r with claims := r.claims + 1 }) (if claimOpen c n then c else askLower n r c))
      pure { claim := some n, pin := pin, dst := [(r.up, r.len64 * 64)] }
    else pure { moved := true, pin := pin }

/-- The copy of one run-ahead descriptor, and whether it is the last of its chain. -/
def aheadOne (b : Fin 32) (pc : Nat) : Eff (RunCopy × Bool) := do
  stopIf (past pc 64) eDescRange 0x34 pc
  let c ← get
  let d ← fetchDesc c b pc
  let checked := fun (m : Eff RunCopy) => do
    stopIf (checkDesc c none d).isSome ((checkDesc c none d).getD 0) 0x34
    m
  let x ← match rowOf d with
    | some (.copy 0) => checked (aheadPlain b d)
    | some (.copy 1) => checked (aheadMove b d)
    | _ => stopWith eItemPf 0x34
  pure (x, d.last)

/-- The copies of a run-ahead chain, one descriptor after another, and what stopped it if anything did. -/
def aheadChain (b : Fin 32) : Nat → Nat → List RunCopy → Chip → Chip × List RunCopy × Option Stop
  | 0, _, xs, c => (c, xs, none)
  | n + 1, pc, xs, c =>
    match runEff (aheadOne b pc) c with
    | (c, .error e) => (c, xs, some e)
    | (c, .ok (x, last)) => if last then (c, xs ++ [x], none) else aheadChain b n (pc + 64) (xs ++ [x]) c

/-- The least LAYER_SEQ among the running items and the first eight queued items of a job in a basin (R189). -/
def leastLayer (c : Chip) (b : Fin 32) (job : BitVec 16) : Nat :=
  let its := (chainsOf c.basins[b]).map (·.2.item) ++ (c.basins[b].queue.take 8).map (·.item)
  ((its.filter (fun x => x.job == job)).map (fun x => x.layerSeq.toNat)).foldl min 65535

/-- May the run-ahead chain of an item issue: within PF_AHEAD layers, its job not contained, the item not held at a barrier. -/
def aheadDue (c : Chip) (b : Fin 32) (q : QItem) : Bool :=
  q.item.pfEn && q.ahead.isNone && decide (q.item.layerSeq.toNat ≤ leastLayer c b q.item.job + getF c rWqCfg 12 3) &&
  !jobBlocked c b q.item.job.toNat && !itemHeld c q.item

/-- The i-th item's run-ahead chain issues, in queue order. No descriptor issues during a change of FREQ (R59), nor in a period of the weir that
holds issue (R406). -/
def runAhead (b : Fin 32) (i : Nat) (c : Chip) : Chip :=
  match c.basins[b].queue[i]? with
  | none => c
  | some q =>
    if !enabled c b || modeOf c != 0 || c.basins[b].freqPend || c.basins[b].hold || !aheadDue c b q || (c.basins[b].queue.take i).any (aheadDue c b) then c
    else
      let (c, xs, e) := aheadChain b 98304 q.item.pfChain.toNat [] c
      let c := modBasin b (fun s => { s with queue := s.queue.set i { q with ahead := some xs } }) c
      match e with
      | none => c
      | some e => itemError b q.item e c

/-- RUN_AHEAD_ISSUE. -/
def execRunAheadIssue (b : Fin 32) (i : Nat) (s : State) : Host.Outcome State Fault Refusal := onChip (runAhead b i) s

/-! ### Stealing (R182, R183) -/

/-- Is an item stealable in a circle (1 terrace, 2 die, 3 package, 4 fabric), the thief's own room apart (log entry 36). -/
def stealableIn (c : Chip) (v : Fin 32) (circle i : Nat) (q : QItem) : Bool :=
  ready c v i q && decide (circle ≤ q.item.locality.toNat) && objectThere c v q.item && (!q.item.pfEn || circle == 1)

/-- How many jets a JETS field asks for. -/
def jetsAsked (it : Item) : Nat := match it.jets.toNat with | 0 => 0 | 1 => 1 | 2 => 4 | _ => 16

/-- Free jets of a basin. -/
def freeJets (s : Basin) : Nat := ((List.range 16).filter (fun j => !(jetsTaken s none).contains j)).length

/-- The granules of an item's working range. -/
def itemGranules (it : Item) : List Nat := granules it.workOff.toNat it.workLen.toNat

/-- Is a granule in a steal window, given as the value of WQ_WINDOW. -/
def inWindow (w g : Nat) : Bool := decide (fld w 0 7 ≤ g ∧ g < fld w 0 7 + fld w 8 6)

/-- Is an item stealable by a thief with so many free jets, such a window and such an occupancy of it. -/
def stealableBy (c : Chip) (v : Fin 32) (circle free win : Nat) (occupied : List Nat) (i : Nat) (q : QItem) : Bool :=
  stealableIn c v circle i q && decide (jetsAsked q.item ≤ free) &&
  (circle == 1 || (itemGranules q.item).all (fun g => inWindow win g && !occupied.contains g))

/-- The count that a probe answers. -/
def stealCount (c : Chip) (v : Fin 32) (circle : Nat) : Nat :=
  if enabled c v then ((placed c v).filter (fun p => stealableIn c v circle p.1 p.2)).length else 0

/-- What a take finds: the stealable item nearest the tail among the last eight. -/
def takeFrom (c : Chip) (v : Fin 32) (circle free win : Nat) (occupied : List Nat) : Option (Nat × QItem) :=
  if enabled c v then
    (((placed c v).reverse.take 8).find? (fun p => stealableBy c v circle free win occupied p.1 p.2))
  else none

/-- The basin at a distance in the order of R182. -/
def basinPlus (b : Fin 32) (k : Nat) : Fin 32 := ⟨(b.val + k) % 32, Nat.mod_lt _ (by decide)⟩

/-- Does a basin lie in a circle of a thief. -/
def inCircle (b v : Fin 32) (circle : Nat) : Bool :=
  match circle with
  | 1 => v != b && terraceOf v == terraceOf b
  | 2 => terraceOf v != terraceOf b && dieOf v == dieOf b
  | _ => dieOf v != dieOf b

/-- The first victim of a circle that meets the minimum (R182), which the sweep took from WQ_CFG as it began (R201). -/
def findVictim (c : Chip) (b : Fin 32) (circle : Nat) : Option (Fin 32) :=
  let cfg := c.basins[b].sweepCfg
  let least := if circle ≤ 2 then fld cfg 4 2 + 1 else fld cfg 8 4 + 1
  ((span 1 31).map (basinPlus b)).find? (fun v => inCircle b v circle && decide (least ≤ stealCount c v circle))

/-- The thief's state changed. -/
def setThief (b : Fin 32) (t : Thief) (c : Chip) : Chip := modBasin b (fun s => { s with thief := t }) c

/-- A sweep that found nothing (R182). -/
def sweepEmpty (b : Fin 32) (c : Chip) : Chip := setThief b .backoff (bump c (rWqCtr b.val 2))

/-- The sweep from a circle on. -/
def sweepFrom (b : Fin 32) : Nat → Nat → Chip → Chip
  | 0, _, c => sweepEmpty b c
  | n + 1, circle, c =>
    let cfg := c.basins[b].sweepCfg
    let widest := if 4 < fld cfg 0 3 then 3 else fld cfg 0 3
    if widest < circle then sweepEmpty b c
    else if circle ≤ 3 then
      match findVictim c b circle with
      | some v => modBasin b (fun s => { s with thief := .taking circle v, takeWin := getReg c rWqWindow }) c
      | none => sweepFrom b n (circle + 1) c
    else
      let ps := livePartners c
      if ps = [] then sweepEmpty b c
      else ps.foldl (fun c p => sendHub p (.probe b) c) (setThief b (.probing []) c)

/-- Is a basin a thief (R182): fewer than 16 chains, none of its first eight items ready, and enabled. -/
def isThief (c : Chip) (b : Fin 32) : Bool :=
  enabled c b && modeOf c == 0 && (freeContextOf c.basins[b]).isSome && !((placed c b).take 8).any (fun p => ready c b p.1 p.2) &&
  getF c rWqCfg 0 3 != 0

/-- A thief sweeps, or goes on with its sweep after a take that found nothing, as long as its basin is enabled (R182). -/
def stealSweep (b : Fin 32) (c : Chip) : Chip :=
  match c.basins[b].thief with
  | .idle => if isThief c b then sweepFrom b 5 1 (modBasin b (fun s => { s with sweepCfg := getReg c rWqCfg }) c) else c
  | .sweeping k => if enabled c b then sweepFrom b 5 k c else setThief b .idle c
  | _ => c

/-- STEAL_SWEEP. -/
def execStealSweep (b : Fin 32) (s : State) : Host.Outcome State Fault Refusal := onChip (stealSweep b) s

/-- STEAL_BACKOFF_EXPIRE. -/
def execStealBackoffExpire (b : Fin 32) (s : State) : Host.Outcome State Fault Refusal :=
  onChip (fun c => if c.basins[b].thief = .backoff then setThief b .idle c else c) s

/-- The basin of this package that holds the most items stealable at fabric locality. -/
def fabricBest (c : Chip) : Fin 32 × Nat :=
  (List.finRange 32).foldl (fun best v => if best.2 < stealCount c v 4 then (v, stealCount c v 4) else best) (0, stealCount c 0 4)

/-- The answers of the fabric circle are in: one take goes to the victim with the most items (R182). -/
def probesIn (b : Fin 32) (xs : List (Pkg × Fin 32 × Nat)) (c : Chip) : Chip :=
  let least := fld c.basins[b].sweepCfg 8 4 + 1
  let best := xs.foldl (fun (best : Option (Pkg × Fin 32 × Nat)) x =>
    if x.2.2 < least then best
    else
      match best with
      | none => some x
      | some y => if y.2.2 < x.2.2 || (y.2.2 == x.2.2 && decide (x.1 < y.1)) then some x else best) none
  if !enabled c b then setThief b .idle c
  else
  match best with
  | none => sweepEmpty b c
  | some (p, v, _) =>
    sendConfirmed [p.toNat] (.take b v (freeJets c.basins[b]) c.basins[b].occupied) (setThief b (.takingFar p v) c)

/-- A probe is answered, or its answer taken. -/
def stealProbe (x : Probe) (c : Chip) : Chip :=
  match x with
  | .ask src tb =>
    if fenced c src.toNat || modeOf c != 0 then c else sendHub src.toNat (.probeAnswer tb (fabricBest c).1 (fabricBest c).2) c
  | .answer b src vb count =>
    match c.basins[b].thief with
    | .probing xs =>
      if fenced c src.toNat || xs.any (fun y => y.1 == src) then c
      else
        let ys := xs ++ [(src, vb, count)]
        if (livePartners c).all (fun p => ys.any (fun y => y.1.toNat == p)) then probesIn b ys c else setThief b (.probing ys) c
    | _ => c

/-- STEAL_PROBE. -/
def execStealProbe (p : Probe) (s : State) : Host.Outcome State Fault Refusal := onChip (stealProbe p) s

/-! ### Takes and migration (R183 to R187) -/

/-- The item's own range copied from its home to the thief (R185 step 2). -/
def copyRange (src dst n : Nat) : Eff Unit := do
  let bs ← readMem copyUnit src n
  writeMem dst bs

/-- A migrated item stops before its chain runs: its granules are free again (R187). -/
def startMigrated (b : Fin 32) (k : Fin 16) (c : Chip) : Chip :=
  match c.basins[b].chains[k] with
  | none => c
  | some ch =>
    let it := ch.item
    let n := it.inLen.toNat * 64
    let a := it.workOff.toNat
    if ch.homePkg = c.power.pkgId then
      match runEff (copyRange (sram c ch.home a) (sram c b a) n) c with
      | (c, .ok _) => c
      | (c, .error e) => stopChain b k it.job.toNat 0 e c
    else
      let src := ch.homePkg.toNat * 2 ^ 44 + sramLoc ch.home.val a
      match reach ch.homePkg.toNat c with
      | (none, c) => stopChain b k it.job.toNat 0 { code := eFabFenced, unit := copyUnit, addr := src } c
      | (some l, c) =>
        let (ts, c) := (pieces 4096 src n).foldl (fun (acc : List Nat × Chip) p =>
          let (t, c) := sendRead l p.1 p.2 (basinMaster b) (.copy b k ch.nextId (sram c b a + (p.1 - src))) acc.2
          (acc.1 ++ [t], c)) ([], c)
        if ts = [] then c
        else modChain b k (fun ch => { ch with nextId := ch.nextId + 1, flight := ch.flight ++ [{ id := ch.nextId, job := it.job.toNat, wait := .tags ts }] }) c

/-- An item that is stolen in place before its run-ahead chain has issued names copies that must complete all the same (R190). DESIGN CHOICE
(log entry 185), unsafe: the chain issues as the item is stolen. -/
def stolenAhead (home : Fin 32) (q : QItem) (c : Chip) : List RunCopy × Chip :=
  if !q.item.pfEn || q.ahead.isSome then (q.ahead.getD [], c)
  else
    let (c, xs, e) := aheadChain home 98304 q.item.pfChain.toNat [] c
    match e with
    | none => (xs, c)
    | some e => ([], itemError home q.item e (discardCopies home xs c))

/-- The granules of a migrated item's working range are occupied in its thief's window (R185 step 1). -/
def occupy (b : Fin 32) (it : Item) (c : Chip) : Chip :=
  modBasin b (fun s => { s with occupied := (itemGranules it).foldl (fun l g => insertNat g l) s.occupied }) c

/-- A stolen item begins on its thief (R184, R185). The hold of an item that was held at home goes on there. -/
def beginStolen (b : Fin 32) (homePkg : Pkg) (home : Fin 32) (q : QItem) (c : Chip) : Chip :=
  match freeContextOf c.basins[b] with
  | none => c
  | some k =>
    let inPlace := homePkg = c.power.pkgId ∧ terraceOf home = terraceOf b
    let (xs, c) := if inPlace then stolenAhead home q c else ([], c)
    let ch : Chain := { item := q.item, homePkg := homePkg, home := home, place := if inPlace then .inPlace else .migrated,
                        pc := q.item.chain.toNat, ahead := xs, ticket := q.ticket }
    let held := if q.heldSince.isSome then c.basins[home].holds.filter (itemHold q) else []
    let c := modBasin home (fun s => { s with holds := s.holds.filter (fun h => !held.contains h) }) c
    let c := modBasin b (fun s => { s with holds := s.holds ++ held.map (fun h => { h with chain := chainHold k }) }) c
    let c := stampHead b k (setChain b k (some ch) c)
    if inPlace then bump c (rWqCtr b.val 0)
    else startMigrated b k (occupy b q.item c)

/-- The sequencer starts the oldest of the first eight items that is ready and not held. -/
def startFirst (b : Fin 32) (k : Fin 16) : List (Nat × QItem) → Chip → Chip
  | [], c => c
  | (i, q) :: r, c =>
    if !ready c b i q then startFirst b k r c
    else if objectThere c b q.item && aheadWhole q then startItem b i q k c
    else startFirst b k r (holdItem b i q c)

/-- The cycles that chunk items have been held since they were last counted go to STATE_SWAP (R114). -/
def countSwap (b : Fin 32) (swap : Nat) (c : Chip) : Chip :=
  if !c.basins[b].swapOwed then c
  else
    let still := c.basins[b].queue.any (fun q => isChunk q.item && q.heldSince.isSome)
    bumpUnits (modBasin b (fun s => { s with swapOwed := still }) c) (rStateCtr b.val 0) 256 swap

/-- The sequencer considers its queue (R181): an item that it has stolen from another package first (R183). Queued items wait during a change
of FREQ (R59). -/
def itemStart (b : Fin 32) (swap : Nat) (c : Chip) : Chip :=
  let c := countSwap b swap c
  if !enabled c b || modeOf c != 0 || c.basins[b].freqPend then c
  else
    match freeContextOf c.basins[b] with
    | none => c
    | some k =>
      match c.basins[b].arrived with
      | (p, home, it) :: r => beginStolen b p home { item := it, gateOk := true } (modBasin b (fun s => { s with arrived := r }) c)
      | [] => startFirst b k ((placed c b).take 8) c

/-- ITEM_START. -/
def execItemStart (b : Fin 32) (swap : Nat) (s : State) : Host.Outcome State Fault Refusal := onChip (itemStart b swap) s

/-! ### Takes served (R183) -/

/-- The take that a thief has sent to a basin of this package is served. DESIGN CHOICE (log entry 180), unsafe: a take that finds an item while
the thief's 16 contexts have filled meanwhile is given up, with no item taken, no further circle and no STEAL_EMPTY; the spec is silent. -/
def serveTake (b : Fin 32) (c : Chip) : Chip :=
  match c.basins[b].thief with
  | .taking circle v =>
    if !enabled c b then setThief b .idle c
    else
    match takeFrom c v circle (freeJets c.basins[b]) c.basins[b].takeWin c.basins[b].occupied with
    | none => setThief b (.sweeping (circle + 1)) c
    | some (i, q) =>
      if (freeContextOf c.basins[b]).isNone then setThief b .idle c
      else beginStolen b c.power.pkgId v q (bump (takeOut v i (setThief b .idle c)) (rWqCtr v.val 1))
  | _ => c

/-- A take of another package's thief. The item is away until its end is told (R185, R197). WQ_WINDOW is equal on every package (R185). -/
def remoteTake (src : Pkg) (tb vb : Fin 32) (free : Nat) (occupied : List Nat) (c : Chip) : Chip :=
  match takeFrom c vb 4 free (getReg c rWqWindow) occupied with
  | none => sendConfirmed [src.toNat] (.takeAnswer tb vb none) c
  | some (i, q) =>
    let c := if q.heldSince.isSome then endHolds vb (itemHold q) c else c
    let c := bump (takeOut vb i c) (rWqCtr vb.val 1)
    sendConfirmed [src.toNat] (.takeAnswer tb vb (some q.item)) { c with away := c.away ++ [{ thief := src, home := vb, item := q.item }] }

/-- The answer to a take of another package's queue: an item for which no context is free waits for one, its granules being marked (R185). -/
def takeAnswered (b : Fin 32) (src : Pkg) (vb : Fin 32) (it : Option Item) (c : Chip) : Chip :=
  match c.basins[b].thief with
  | .takingFar p v =>
    if p ≠ src ∨ v ≠ vb then c
    else
      match it with
      | none => sweepEmpty b c
      | some it =>
        let c := setThief b .idle c
        if (freeContextOf c.basins[b]).isNone then occupy b it (modBasin b (fun s => { s with arrived := s.arrived ++ [(src, vb, it)] }) c)
        else beginStolen b src vb { item := it, gateOk := true } c
  | _ => c

/-- A take is served, at home or for another package, or answered. -/
def stealTake (t : Take) (c : Chip) : Chip :=
  match t with
  | .serve b => serveTake b c
  | .remote src tb vb free occ tag => onConfirmed src.toNat tag.toNat (remoteTake src tb vb free occ) c
  | .answer b src vb it tag => onConfirmed src.toNat tag.toNat (takeAnswered b src vb it) c

/-- STEAL_TAKE. -/
def execStealTake (t : Take) (s : State) : Host.Outcome State Fault Refusal := onChip (stealTake t) s

/-- The return of a migrated item ends (R185 steps 5 and 6). -/
def returnEnds (b : Fin 32) (k : Fin 16) (ch : Chain) (c : Chip) : Chip :=
  let c := if ch.homePkg = c.power.pkgId then
      modBasin ch.home (fun s => { s with ctr := ch.signals.foldl (fun t n => tabSet t n ((tabGet 0 t n + 1) % 65536)) s.ctr }) c
    else sendConfirmed [ch.homePkg.toNat] (.returned ch.home ch.item ch.signals false) c
  freeContext b k (addDone b ch.item c)

/-- The return range of a migrated item goes to another package, coded where LINK_CODE says so (R231): the tags of its transactions. -/
def sendReturn (b : Fin 32) (k : Fin 16) (ch : Chain) (l : Fin 12) (dst : Nat) (bs : List Byte) (c : Chip) : List Nat × Chip :=
  (pieces 256 dst bs.length).foldl (fun (acc : List Nat × Chip) p =>
    let (t, c) := sendWrite l p.1 ((bs.drop (p.1 - dst)).take p.2) (basinMaster b) (.copy b k ch.nextId p.1) acc.2
    (acc.1 ++ [t], c)) ([], codeLink l ch.item.job.toNat dst bs c)

/-- After the LAST descriptor of a migrated item: the return range is copied back, and then the item completes. A copy to another package
ends with its transactions, and the command after them completes the item. -/
def migrateReturn (b : Fin 32) (k : Fin 16) (c : Chip) : Chip :=
  match c.basins[b].chains[k] with
  | none => c
  | some ch =>
    if ch.place ≠ .migrated ∨ !ch.lastDone ∨ ch.stopped ∨ ch.flight ≠ [] then c
    else
      let it := ch.item
      let a := it.retOff.toNat
      let n := it.retLen.toNat * 64
      if ch.homePkg = c.power.pkgId then
        match runEff (copyRange (sram c b a) (sram c ch.home a) n) c with
        | (c, .ok _) => returnEnds b k ch c
        | (c, .error e) => stopChain b k it.job.toNat 0 e c
      else if !ch.returned && n != 0 then
        match runEff (readMem copyUnit (sram c b a) n) c with
        | (c, .error e) => stopChain b k it.job.toNat 0 e c
        | (c, .ok bs) =>
          let dst := ch.homePkg.toNat * 2 ^ 44 + sramLoc ch.home.val a
          match reach ch.homePkg.toNat c with
          | (none, c) => stopChain b k it.job.toNat 0 { code := eFabFenced, unit := copyUnit, addr := dst } c
          | (some l, c) =>
            let (ts, c) := sendReturn b k ch l dst bs c
            modChain b k (fun ch => { ch with returned := true, flight := [{ id := ch.nextId, job := it.job.toNat, wait := .tags ts }] }) c
      else returnEnds b k ch c

/-- Another package's thief tells the end of an item of this package (R185, R187): its counter signals reach the home basin, or its job
is contained there as well. -/
def farReturn (src : Pkg) (b : Fin 32) (it : Item) (counters : List Nat) (stopped : Bool) (c : Chip) : Chip :=
  let c := { c with away := c.away.eraseP (fun x => x.thief == src && x.home == b && x.item == it) }
  if stopped then modBasin b (fun s => { s with stopped := insertNat it.job.toNat s.stopped }) c
  else modBasin b (fun s => { s with ctr := counters.foldl (fun t n => tabSet t n ((tabGet 0 t n + 1) % 65536)) s.ctr }) c

/-- The return of a migrated item, run here or elsewhere. -/
def returnOf (b : Fin 32) (r : Returned) (c : Chip) : Chip :=
  match r with
  | .mine k => migrateReturn b k c
  | .far src it counters stopped tag => onConfirmed src.toNat tag.toNat (farReturn src b it (counters.map (·.toNat)) stopped) c

/-- MIGRATE_RETURN. -/
def execMigrateReturn (b : Fin 32) (c : Returned) (s : State) : Host.Outcome State Fault Refusal :=
  onChip (fun p => pollReady (returnOf b c p)) s

/-! ### Cancels and the queue's registers (R192, R201) -/

/-- The items that a test picks leave a queue: tickets and run-ahead copies with them. -/
def removeItems (b : Fin 32) (p : QItem → Bool) (c : Chip) : Chip :=
  let gone := c.basins[b].queue.filter p
  let c := discardAhead b p c
  let c := modBasin b (fun s => { s with queue := s.queue.filter (fun q => !p q) }) c
  gone.foldl (fun c q => dropItem b q c) c

/-- A write of WQ_CANCEL (R192); a number that is no job is ignored with an error response (R9). -/
def wWqCancel (v : Nat) (c : Chip) : Nat × Chip :=
  if 256 ≤ fld v 0 16 then (eHubDenied, c)
  else
    let c := storeReg c rWqCancel v
    if !bit v 17 then (0, c)
    else
      let tag := getReg c rWqTag
      let p := fun (q : QItem) => q.item.job.toNat == fld v 0 16 && (bit v 16 || q.item.stepTag.toNat == tag)
      (0, refreshHeld ((List.finRange 32).foldl (fun c b =>
        removeItems b p (bump c (rWqCtr b.val 5) (c.basins[b].queue.filter p).length)) c))

/-- WQ_CANCEL. -/
def execWqCancel (m : Master) (v : BitVec 32) (s : State) : Host.Outcome State Fault Refusal := onChip (fun p => pollReady (busWrite m (wWqCancel v.toNat) p)) s

/-- A write of WQ_WINDOW. DESIGN CHOICE (log entry 179), unsafe: one with SIZE_G above 32, which the spec gives no meaning, is ignored. -/
def wWqWindow (v : Nat) (c : Chip) : Nat × Chip :=
  if sramEnd < (fld v 0 7 + fld v 8 6) * 65536 ∨ 32 < fld v 8 6 ∨ (List.finRange 32).any (fun b => c.basins[b].occupied != []) then (0, c)
  else (0, storeReg c rWqWindow v)

/-- WQ_WINDOW_WRITE. -/
def execWqWindowWrite (m : Master) (v : BitVec 32) (s : State) : Host.Outcome State Fault Refusal := onChip (busWrite m (wWqWindow v.toNat)) s

/-- A write of WQ_BASE_n. DESIGN CHOICE (log entry 179), unsafe: one with RING above 383, which the spec gives no meaning, is ignored. -/
def wWqBase (b : Fin 32) (v : Nat) (c : Chip) : Nat × Chip :=
  if c.basins[b].queue ≠ [] ∨ 383 < fld v 0 9 then (0, c)
  else (0, modBasin b (fun s => { s with tail := 0 }) (storeReg c (rWqBase b.val) v))

/-- WQ_BASE_WRITE. -/
def execWqBaseWrite (m : Master) (b : Fin 32) (v : BitVec 32) (s : State) : Host.Outcome State Fault Refusal :=
  onChip (busWrite m (wWqBase b v.toNat)) s

end Sys2Proof.Machine
end

