-- ==== Sys2Proof/Machine/Basins.lean ====
section
/-! DEFINITION. Basins as a whole (R53, R55, R56, R59 to R63): corrected words and the scrubber, clocks and stretch, the enable mask and
self-tests. -/

namespace Sys2Proof.Machine

/-- The system word number of word `w` of a basin's SRAM. -/
def sramWord (c : Chip) (b : Fin 32) (w : Nat) : Nat := sram c b 0 / 8 + w

/-- A corrected word is written back (R53). -/
def writeBackWord (b : Fin 32) (w : Nat) (c : Chip) : Chip :=
  match tabFind c.ecc (sramWord c b w) with
  | some .single => { c with ecc := tabDel c.ecc (sramWord c b w) }
  | _ => c

/-- SRAM_CORRECT_WRITEBACK. -/
def execSramCorrectWriteback (b : Fin 32) (word : Nat) (s : State) : Host.Outcome State Fault Refusal := onChip (writeBackWord b word) s

/-- The scrubber reads one word with an error (R53): it counts, and an uncorrectable one is reported without a job. -/
def scrubWord (b : Fin 32) (x : Nat × EccErr) (c : Chip) : Chip :=
  match x.2 with
  | .single => bump c (rBasinCtr b.val 0)
  | .double =>
    report { code := eSramUe, sev := sevOf eSramUe, src := b.val, addr := locOf (8 * x.1) % 0x800000 }
      (bump c (rBasinCtr b.val 1))

/-- One line of every bank is read (R55): 2,048 bytes from the line's offset. -/
def scrub (b : Fin 32) (line : Nat) (c : Chip) : Chip :=
  if modeOf c ≠ 0 ∨ 3072 ≤ line then c else (eccIn c (sram c b (line * 2048)) 2048).foldl (fun c x => scrubWord b x c) c

/-- SCRUB_READ. -/
def execScrubRead (b : Fin 32) (line : Nat) (s : State) : Host.Outcome State Fault Refusal := onChip (scrub b line) s

/-- A write of BS_CLK_n (R59): a reserved FREQ and the present one change nothing (log entry 39). -/
def wBsClk (b : Fin 32) (v : Nat) (c : Chip) : Nat × Chip :=
  if 24 < fld v 0 6 ∨ (fld v 0 6 = getF c (rClk b.val) 0 6 ∧ !c.basins[b].freqPend) then (0, c)
  else (0, modBasin b (fun s => { s with freqPend := true, pllLock := false }) (putF (storeReg c (rClk b.val) v) (rClk b.val) 8 1 0))

/-- FREQ_WRITE. -/
def execFreqWrite (m : Master) (b : Fin 32) (v : BitVec 32) (s : State) : Host.Outcome State Fault Refusal :=
  onChip (busWrite m (wBsClk b v.toNat)) s

/-- Is a descriptor of the basin in flight, one of a run-ahead chain of its queued items included (R59). -/
def basinBusy (s : Basin) : Bool := (chainsOf s).any (fun p => p.2.flight != []) || s.queue.any (fun q => waitingCopies q != [])

/-- The PLL has relocked (R59), once no descriptor was in flight. -/
def pllRelock (b : Fin 32) (c : Chip) : Chip :=
  if c.basins[b].freqPend && !basinBusy c.basins[b] then
    putF (modBasin b (fun s => { s with freqPend := false, pllLock := true }) c) (rClk b.val) 8 1 1
  else c

/-- PLL_RELOCK_DONE. -/
def execPllRelockDone (b : Fin 32) (s : State) : Host.Outcome State Fault Refusal := onChip (pllRelock b) s

/-- A basin takes a new stretch (R60): it rises at once and falls by 1 (R407). -/
def applyStretch (s : Basin) : Basin := { s with stretch := if s.stretch ≤ s.grant then s.grant else s.stretch - 1 }

/-- STRETCH_APPLY. -/
def execStretchApply (b : Fin 32) (s : State) : Host.Outcome State Fault Refusal := onChip (modBasin b applyStretch) s

/-- A write of BS_ENABLE (R61, R400): a bit is set only for a basin whose self-test passed, in ACTIVE with no change under way. -/
def wBsEnable (v : Nat) (c : Chip) : Nat × Chip :=
  let may := fun (b : Fin 32) => c.basins[b].selftest == 2 && modeOf c == 0 && c.power.change.isNone
  let on := (List.finRange 32).filter (fun b => bit v b.val && (may b || enabled c b))
  (0, putReg c rEnable ((on.map (fun b => 2 ^ b.val)).sum))

/-- BS_ENABLE_WRITE. -/
def execBsEnableWrite (m : Master) (v : BitVec 32) (s : State) : Host.Outcome State Fault Refusal := onChip (busWrite m (wBsEnable v.toNat)) s

/-- A write of BS_TEST (R63, R417): BASIN is stored, and START of an enabled basin, during a test, or with the dies off is ignored. -/
def wBsTest (v : Nat) (c : Chip) : Nat × Chip :=
    let busy := bit (getReg c rTest) 9
    let c := storeReg c rTest v
    let b : Fin 32 := ⟨fld v 0 5 % 32, Nat.mod_lt _ (by decide)⟩
    if !bit v 8 || busy || enabled c b || modeOf c != 0 then (0, c)
    else (0, modBasin b (fun s => { s with selftest := 1 }) (putF c rTest 9 1 1))

/-- BS_TEST_START. -/
def execBsTestStart (m : Master) (v : BitVec 32) (s : State) : Host.Outcome State Fault Refusal := onChip (busWrite m (wBsTest v.toNat)) s

/-- The memory of a range of addresses reads 0, with valid check bits. -/
def zeroRange (lo hi : Nat) (c : Chip) : Chip :=
  { c with mem := c.mem.filter (fun x => !decide (lo ≤ x.1 ∧ x.1 < hi)), ecc := c.ecc.filter (fun x => !decide (lo ≤ 8 * x.1 ∧ 8 * x.1 < hi)) }

/-- What a self-test leaves of a basin (R56, R63, R214): its queue and chains went with its SRAM. -/
def testedBasin (s : Basin) : Basin :=
  { selftest := s.selftest, failUnit := s.failUnit, pllLock := s.pllLock, freqPend := s.freqPend, stretch := s.stretch, grant := s.grant,
    hold := s.hold, slots := s.slots.map (fun t => { gen := t.gen }), engine := s.engine.filter (fun x => match x with | .move _ => true | _ => false) }

/-- A self-test ends (R63). Passed or failed, every word of the basin's SRAM holds 0 then (R56), and no queued item of it is held (R285). -/
def selftestDone (b : Fin 32) (unit : Nat) (c : Chip) : Chip :=
  if c.basins[b].selftest ≠ 1 then c
  else
    let c := putF c rTest 9 1 0
    let c := refreshHeld (zeroRange (sram c b 0) (sram c b sramEnd) (modBasin b testedBasin c))
    if unit = 0 then modBasin b (fun s => { s with selftest := 2, failUnit := 0 }) c
    else report { code := eSelftest, sev := sevOf eSelftest, src := b.val, unit := unit } (modBasin b (fun s => { s with selftest := 3, failUnit := unit }) c)

/-- SELFTEST_DONE. -/
def execSelftestDone (b : Fin 32) (failUnit : BitVec 6) (s : State) : Host.Outcome State Fault Refusal := onChip (selftestDone b failUnit.toNat) s

/-- BS_STATUS_n (R63). -/
def basinStatus (c : Chip) (b : Fin 32) : Nat :=
  let s := c.basins[b]
  s.selftest + s.failUnit * 4 + b2n (enabled c b) * 256 + b2n (chainsOf s == []) * 512 + b2n s.pllLock * 1024 + b2n (s.stretch != 0) * 2048 +
  s.gang * 4096

end Sys2Proof.Machine
end

