-- ==== Sys2Proof/Machine/Links.lean ====
section
/-! DEFINITION. The commands of the Turhorn fabric (R300 to R326) but WRITE and READ_REQ, which can reach the hub range: training, links
that go down, flits as they are received, confirmed messages, fences, members, and link blocks (R231). -/

namespace Sys2Proof.Machine

/-! ### Training (R307) -/

/-- TRAIN: training begins unless the link is UP (R326). A package that has fenced itself takes no part (R323), nor does one whose
lanes are idle outside ACTIVE (R325). -/
def trainLink (l : Fin 12) (c : Chip) : Chip :=
  if linkUp c l || c.fab.selfFenced || modeOf c != 0 then c
  else modLink l (fun _ => {}) (putF c (rLinkStatus l.val) 0 3 1)

/-- A failed training (R307). Causes: 4 WIRING, 5 TRAIN. -/
def failTraining (l : Fin 12) (cause code : Nat) (c : Chip) : Chip :=
  let c := bump (putF (putF c (rLinkStatus l.val) 0 3 3) (rLinkStatus l.val) 11 4 cause) (rLinkCtr l.val 3)
  report { code := code, sev := sevOf code, src := 0x30 + l.val, peer := linkPartner c l, link := l.val } c

/-- What Identify notes of the partner. -/
def noteIdent (l : Fin 12) (x : Ident) (c : Chip) : Chip :=
  let c := putF (putF c (rLinkStatus l.val) 3 4 x.pkg.toNat) (rLinkStatus l.val) 7 4 x.link.toNat
  modPartner x.pkg.toNat (fun p => { p with nonce := x.nonce.toNat }) c

/-- Training ends (R307): TH_TRAIN where a stage took too long, TH_WIRING where Identify refuses, TH_TRAIN where the round trip exceeds
1.75 us, and else the link is UP. -/
def trainDone (l : Fin 12) (x : Ident) (c : Chip) : Chip :=
  if linkState c l ≠ 1 then c
  else if !x.stagesOk then failTraining l 5 eThTrain c
  else if x.pkg.toNat ≠ linkPartner c l ∨ x.link.toNat ≠ linkBack l ∨ !member c x.pkg.toNat then
    failTraining l 4 eThWiring (putF (putF c (rLinkStatus l.val) 3 4 x.pkg.toNat) (rLinkStatus l.val) 7 4 x.link.toNat)
  else
    let c := putF (noteIdent l x c) (rLinkStatus l.val) 17 8 x.rtt.toNat
    if 175 < x.rtt.toNat then failTraining l 5 eThTrain c
    else refreshPartners (modLink l (fun _ => {}) (putF c (rLinkStatus l.val) 0 3 2))

/-- A write of TH_LINK_CTRL_l (R327): TRAIN, then DOWN. -/
def wLinkCtrl (l : Fin 12) (v : Nat) (c : Chip) : Chip :=
  let c := if bit v 0 then trainLink l c else c
  if bit v 1 then linkDown l 6 0 c else c

/-- TRAIN. -/
def execTrain (m : Master) (l : Fin 12) (v : BitVec 32) (s : State) : Host.Outcome State Fault Refusal :=
  onChip (busWrite m (okWrite (wLinkCtrl l v.toNat))) s

/-- DOWN. -/
def execDown (m : Master) (l : Fin 12) (v : BitVec 32) (s : State) : Host.Outcome State Fault Refusal :=
  onChip (busWrite m (okWrite (wLinkCtrl l v.toNat))) s

/-- TRAIN_DONE. -/
def execTrainDone (l : Fin 12) (x : Ident) (s : State) : Host.Outcome State Fault Refusal := onChip (trainDone l x) s

/-- TRAIN_TIMEOUT. -/
def execTrainTimeout (l : Fin 12) (s : State) : Host.Outcome State Fault Refusal :=
  onChip (fun c => if linkState c l = 1 then failTraining l 5 eThTrain c else c) s

/-- LANE_FAIL. -/
def execLaneFail (l : Fin 12) (lane : BitVec 2) (s : State) : Host.Outcome State Fault Refusal := onChip (linkDown l 1 lane.toNat) s

/-! ### Timers of a link (R311, R319) -/

/-- REPLAY_TIMEOUT. -/
def execReplayTimeout (l : Fin 12) (s : State) : Host.Outcome State Fault Refusal := onChip (fun c => if linkUp c l then replay l c else c) s

/-- The acknowledgement due, and the credits due, are sent in IDLE flits (R311, R313). -/
def ackLink (l : Fin 12) (c : Chip) : Chip :=
  if !linkUp c l || c.fab.selfFenced then c
  else
    let c := if c.fab.links[l].since ≠ 0 then sendIdle l false c else c
    (List.range 4).foldl (fun c _ => if (List.finRange 4).any (fun v => c.fab.links[l].returns[v] != 0) then sendIdle l false c else c) c

/-- ACK_TIMER. -/
def execAckTimer (l : Fin 12) (s : State) : Host.Outcome State Fault Refusal := onChip (ackLink l) s

/-- A BEAT carries the boot nonce in word 1 bits [31:0] (R308, R319). -/
def sendBeat (l : Fin 12) (c : Chip) : Chip :=
  if !linkUp c l || c.fab.selfFenced then c
  else sendFlit l false { ty := 1, src := c.power.pkgId, dst := BitVec.ofNat 4 (linkPartner c l), addr := BitVec.ofNat 44 (getReg c rNonce) } c

/-- BEAT_SEND. -/
def execBeatSend (l : Fin 12) (s : State) : Host.Outcome State Fault Refusal := onChip (sendBeat l) s

/-- BEAT_MISS. -/
def execBeatMiss (l : Fin 12) (s : State) : Host.Outcome State Fault Refusal := onChip (fun c => if linkUp c l then linkDown l 3 0 c else c) s

/-! ### Flits that are received (R309, R314, R316) -/

/-- IDLE. -/
def execIdle (l : Fin 12) (f : Flit) (s : State) : Host.Outcome State Fault Refusal := onChip (onFlit l 0 f id) s

/-- The partner's boot nonce is noted, and whether it differs from the one recorded at its fence (R319, R324). -/
def takeBeat (l : Fin 12) (f : Flit) (c : Chip) : Chip :=
  let n := f.addr.toNat % 2 ^ 32
  modPartner (linkPartner c l) (fun p => { p with nonce := n, newNonce := p.newNonce || n != p.fenceNonce }) c

/-- BEAT. -/
def execBeat (l : Fin 12) (f : Flit) (s : State) : Host.Outcome State Fault Refusal := onChip (onFlit l 1 f (takeBeat l f)) s

/-- The transaction that an answer belongs to. -/
def txnOf (c : Chip) (f : Flit) : Option Txn := c.fab.txns.find? (fun t => t.tag == f.tag.toNat && t.dst == f.src)

/-- A WRITE_ACK completes a write. -/
def takeAck (f : Flit) (c : Chip) : Chip :=
  match txnOf c f with
  | some t => if t.write then finishTxn t c else c
  | none => c

/-- WRITE_ACK. -/
def execWriteAck (l : Fin 12) (f : Flit) (s : State) : Host.Outcome State Fault Refusal := onChip (onFlit l 3 f (deliver l f (takeAck f))) s

/-- The LEN data bytes of a flit. -/
def flitData (f : Flit) : List Byte := (f.data ++ List.replicate f.len.toNat 0).take f.len.toNat

/-- A flight of a chain by its number. -/
def flightNo (c : Chip) (b : Fin 32) (k : Fin 16) (id : Nat) : Option Flight :=
  (c.basins[b].chains[k]).bind (fun ch => ch.flight.find? (fun f => f.id == id))

/-- The link to which the WRITEs of a COPY that leaves the package again are bound (R303): that of its first transaction where it leads to their
package, and otherwise the link of the first of them, which is bound now if it is not yet (log entry 160). -/
def outLink (b : Fin 32) (k : Fin 16) (f : Flight) (a : Nat) (c : Chip) : Except Nat (Fin 12) × Chip :=
  let up := fun (l : Fin 12) => if linkUp c l then Except.ok l else .error eFabLink
  match f.link.filter (fun l => (nextHop c (pkgOf a)).any (fun h => linkPartner c l == h.1)), f.out with
  | some l, _ => (up l, c)
  | none, some l => (up l, c)
  | none, none =>
    match reach (pkgOf a) c with
    | (some l, c) => (.ok l, modFlightOf b k f.id (fun f => { f with out := some l }) c)
    | (none, c) => (.error eFabFenced, c)

/-- The identity of a chain's requests (R375, R389): its item's home basin. -/
def chainMaster (c : Chip) (b : Fin 32) (k : Fin 16) : Master :=
  match c.basins[b].chains[k] with | some ch => basinMaster ch.home | none => basinMaster b

/-- The bytes of a COPY's read are whole and go on to another package in WRITE flits, coded where LINK_CODE says so (R231): the copy waits for
those too. -/
def copyOn (b : Fin 32) (k : Fin 16) (id tag a : Nat) (bs : List Byte) (c : Chip) : Chip :=
  match flightNo c b k id with
  | none => c
  | some f =>
    match outLink b k f a c with
    | (.error code, c) => copyFailed b k tag { code := code, unit := copyUnit, addr := a } c
    | (.ok l, c) =>
      let r := (pieces 256 a bs.length).foldl (fun (r : List Nat × Chip) p =>
        let w := sendWrite l p.1 ((bs.drop (p.1 - a)).take p.2) (chainMaster c b k) (.copy b k id p.1) r.2
        (r.1 ++ [w.1], w.2)) ([], codeLink l f.job a bs c)
      modFlightOf b k id (awaitTags r.1) r.2

/-- The word that a COPY has read for a mailbox channel is written as DATA (R389). -/
def copyToChannel (b : Fin 32) (k : Fin 16) (tag : Nat) (ch : Fin 64) (bs : List Byte) (c : Chip) : Chip :=
  let r := mbWrite (chainMaster c b k) ch (BitVec.ofNat 32 (leNat (bs.take 4))) c
  if r.1 = 0 then r.2 else copyFailed b k tag { code := r.1, unit := copyUnit } r.2

/-- Bytes of a COPY's read arrive for an address: in memory of this package they are written as they come; a mailbox channel and another package
have them once they are whole. -/
def copyBytes (b : Fin 32) (k : Fin 16) (id : Nat) (t : Txn) (dst off : Nat) (bs : List Byte) (c : Chip) : Chip :=
  if pkgOf dst = pkg c ∧ !inHub dst t.len then putMem c (dst + off) bs
  else if t.got < t.len then c
  else if pkgOf dst = pkg c then
    (match mbChannel (locOf dst) with | some ch => copyToChannel b k t.tag ch t.bytes c | none => c)
  else copyOn b k id t.tag dst t.bytes c

/-- READ_DATA (R314): its ADDR is the address read. The transaction completes with its last bytes. -/
def takeData (f : Flit) (c : Chip) : Chip :=
  match txnOf c f with
  | none => c
  | some t =>
    if t.write then c
    else
      let off := f.addr.toNat - t.addr
      let bs := flitData f
      let old := (t.bytes ++ List.replicate t.len 0).take t.len
      let t := { t with got := t.got + bs.length, bytes := old.take off ++ bs ++ old.drop (off + bs.length) }
      let c := { c with fab := { c.fab with txns := c.fab.txns.map (fun u => if u.tag == t.tag then t else u) } }
      let c := match t.who with | .copy b k id dst => copyBytes b k id t dst off bs c | _ => c
      if t.len ≤ t.got && c.fab.txns.any (fun u => u.tag == t.tag) then finishTxn t c else c

/-- READ_DATA. -/
def execReadData (l : Fin 12) (f : Flit) (s : State) : Host.Outcome State Fault Refusal := onChip (onFlit l 5 f (deliver l f (takeData f))) s

/-- ATOMIC_RESP. -/
def takeResult (f : Flit) (c : Chip) : Chip :=
  match txnOf c f with
  | some t => if t.write then c else finishTxn { t with bytes := flitData f } c
  | none => c

/-- ATOMIC_RESP. -/
def execAtomicResp (l : Fin 12) (f : Flit) (s : State) : Host.Outcome State Fault Refusal := onChip (onFlit l 7 f (deliver l f (takeResult f))) s

/-- ERR_RESP: the transaction completes as if the error had been met locally. It comes from the destination, or from a hub on the way. -/
def takeError (f : Flit) (c : Chip) : Chip := failTxn f.tag.toNat f.code.toNat c

/-- ERR_RESP. -/
def execErrResp (l : Fin 12) (f : Flit) (s : State) : Host.Outcome State Fault Refusal := onChip (onFlit l 10 f (deliver l f (takeError f))) s

/-- The answer to a request flit. -/
def answerFlit (c : Chip) (f : Flit) (ty : Nat) (data : List Byte) : Flit :=
  { ty := BitVec.ofNat 4 ty, vc := 1, src := c.power.pkgId, dst := f.src, addr := f.addr, len := BitVec.ofNat 13 data.length, tag := f.tag, data := data }

/-- What stops a remote access at its home (R314): no memory, the hub range, or an uncorrectable word. -/
def remoteCheck (a n : Nat) : Eff Unit := do
  stopIf (inHub a n) eFabDenied 0x24 a
  stopIf (!backed a n) eUnbacked 0x24 a
  checkEcc 0x24 a n

/-- An addition at its home: one read-modify-write (R54), whose answer is the word as it stood. -/
def serveAdd (a n v : Nat) : Eff (List Byte) := do
  stopIf (inHub a n) eFabDenied 0x24 a
  stopIf (!backed a n) eUnbacked 0x24 a
  let c ← get
  let old := memReadN c.mem a n
  rmw 0x24 a (leBytes n (leNat old + v))
  pure old

/-- The release of a pin at the root's home (R152); the answer is the word as it stood. -/
def unpinAtHome (root slot : Nat) : Eff (List Byte) := do
  let a := pinsAddr root (slot % 4)
  let c ← get
  let old := memReadN c.mem a 4
  rmw kvUnit a (leBytes 4 (leNat old - 1))
  pure old

/-- Words of a root as operands name them: the offset and 64 bits of each. -/
def wordsNamed (xs : List Nat) : List (Nat × Nat) := (chunks 3 xs.length xs).map (fun p => (p.getD 0 0, p.getD 1 0 + p.getD 2 0 * 2 ^ 32))

/-- An operation on a root at its home (R146, R152, R163, R166, R170). -/
def serveRoot (root op : Nat) (xs : List Nat) : Eff (List Byte) := do
  let x := fun i => xs.getD i 0
  stopIf (inHub root 192) eFabDenied 0x24 root
  stopIf (!backed root 192) eUnbacked 0x24 root
  let c ← get
  stopIf (op != opUnpin && !backed root (192 + 32 * fld (leNat (memReadN c.mem root 8)) 0 9)) eKvRoot kvUnit root
  if op = opPin then pinAtHome root (x 0) (x 1)
  else if op = opUnpin then unpinAtHome root (x 0)
  else if op = opWrite then writeAtHome root (wordsNamed xs)
  else if op = opRead then readMem kvUnit root 192
  else if op = opLayers then layersAtHome root (x 0) (x 1)
  else if op = opPublish then publishAtHome root (x 0) (x 1 + x 2 * 2 ^ 32)
  else if op = opRevert then revertAtHome root (x 0 == 1) (x 1) (x 2) (x 3) (xs.drop 4)
  else foldAtHome root (x 0) (x 1) (xs.drop 2)

/-- An ATOMIC at its home (R146, R152, R177): its data name the operation, and operands of 32 bits follow (log entry 34). -/
def serveAtomic (f : Flit) (c : Chip) : Chip :=
  let a := sys c f.addr.toNat
  let xs := (chunks 4 f.len.toNat (flitData f)).map leNat
  let op := xs.getD 0 0
  let m := if op = opAdd then serveAdd a 4 (xs.getD 1 0) else if op = opAdd64 then serveAdd a 8 (xs.getD 1 0 + xs.getD 2 0 * 2 ^ 32)
    else serveRoot a op (xs.drop 1)
  match runEff m c with
  | (c, .ok old) => sendAnswer (answerFlit c f 7 old) none c
  | (c, .error e) => sendAnswer (errFlit c f.src.toNat f.tag.toNat e.code) none c

/-- ATOMIC. -/
def execAtomic (l : Fin 12) (f : Flit) (s : State) : Host.Outcome State Fault Refusal := onChip (onFlit l 6 f (deliver l f (serveAtomic f))) s

/-- The receivers beyond this package of a multicast that has come from its source (R302, R316): named in MASK, out of the source's row and
column, with this package as the intermediate that the source takes. -/
def castOn (c : Chip) (l : Fin 12) (f : Flit) : List Nat :=
  let s := f.src.toNat
  let row := bit (getReg c rThCfg) 16
  if linkPartner c l ≠ s then []
  else (List.range 16).filter (fun q =>
    bit f.mask.toNat q && q != pkg c && !fenced c q && (pairTo s q).isNone && q != s && (pairTo (pkg c) q).isSome &&
    (let a := s / 4 * 4 + q % 4
     let b := q / 4 * 4 + s % 4
     let (first, second) := if row then (b, a) else (a, b)
     first == pkg c || (second == pkg c && fenced c first)))

/-- A multicast flit at a receiver (R316, R317): an MCAST_WRITE is written where there is memory, and what MASK addresses is sent on to each
receiver beyond. Nothing is answered. A message to one package has that package as its DST. -/
def takeCast (l : Fin 12) (f : Flit) (c : Chip) : Chip :=
  if fromFenced c f then returnCredit l f.vc.toNat c
  else if f.ty = 9 ∧ f.dst ≠ f.src ∧ f.dst.toNat ≠ pkg c then forward l f c
  else
    let a := sys c f.addr.toNat
    let bs := flitData f
    let c := if f.ty == 8 && bit f.mask.toNat (pkg c) && backed a bs.length && !inHub a bs.length then putMem c a bs else c
    let outs := (castOn c l f).filterMap (fun q => bindLink c q)
    match outs with
    | [] => returnCredit l f.vc.toNat c
    | m :: r => r.foldl (fun c m => enqueue m none f c) (enqueue m (some l) f c)

/-- MCAST_WRITE. A MSG flit, which MASK addresses too and for which the table has no row, comes by this one: its link takes it as any numbered
flit, and what it says is the row of that message (log entry 2). -/
def execMcastWrite (l : Fin 12) (f : Flit) (s : State) : Host.Outcome State Fault Refusal :=
  onChip (onFlit l (if f.ty = 9 then 9 else 8) f (takeCast l f)) s

/-! ### Confirmed messages (R318) -/

/-- One receiver has confirmed a message. -/
def confirmed (p tag : Nat) (c : Chip) : Chip :=
  let cs := c.fab.confirms.map (fun x => if x.tag = tag then { x with left := x.left.filter (fun q => q.toNat != p) } else x)
  { c with fab := { c.fab with confirms := cs.filter (fun x => x.left != []) } }

/-- CONFIRM. None is taken from a fenced package (R322, R323). -/
def execConfirm (p : BitVec 4) (tag : BitVec 16) (s : State) : Host.Outcome State Fault Refusal :=
  onChip (fun c => if fenced c p.toNat then c else confirmed p.toNat tag.toNat c) s

/-- A message is sent again to each receiver that has not confirmed it. -/
def resend (tag : Nat) (c : Chip) : Chip :=
  match c.fab.confirms.find? (fun x => x.tag == tag) with
  | some x => sendMsg (x.left.map (·.toNat)) tag x.msg c
  | none => c

/-- CONFIRM_RESEND. -/
def execConfirmResend (tag : BitVec 16) (s : State) : Host.Outcome State Fault Refusal := onChip (resend tag.toNat) s

/-! ### Fences (R321 to R324) -/

/-- The package is given up by the system (R323). -/
def selfFence (c : Chip) : Chip :=
  if c.fab.selfFenced then c
  else
    let c := allLinksDown 7 { c with fab := { c.fab with selfFenced := true } }
    setStatus 2 (report { code := eSelfFenced, sev := sevOf eSelfFenced, src := 0x24, peer := pkg c } (refreshPartners c))

/-- A LOST notice, which carries p's nonce (R322, R323). -/
def lostNotice (src p nonce : Nat) (c : Chip) : Chip := if p = pkg c then selfFence c else fencePkg p 3 (some (src, nonce)) c

/-- LOST_NOTICE. -/
def execLostNotice (src : BitVec 4) (tag : BitVec 16) (p : BitVec 4) (nonce : BitVec 32) (s : State) : Host.Outcome State Fault Refusal :=
  onChip (onConfirmed src.toNat tag.toNat (lostNotice src.toNat p.toNat nonce.toNat)) s

/-- UNFENCE of a package (R324): the code of its refusal, or 0. -/
def unfence (p : Nat) (c : Chip) : Nat × Chip :=
  if p ≠ pkg c ∧ member c p ∧ getF c (rPartner p) 0 2 = 3 ∧ (partnerOf c p).newNonce ∧ (nextHop c p).isSome ∧ !c.fab.selfFenced then
    (0, settleRoutes (putReg c (rPartner p) 2))
  else (eHubDenied, c)

/-- A write of TH_FENCE (R327): PKG, then FENCE, then UNFENCE. -/
def wFence (v : Nat) (c : Chip) : Nat × Chip :=
  let c := storeReg c rFence v
  let p := fld v 0 4
  let c := if bit v 4 then fencePkg p 5 none c else c
  if bit v 5 then unfence p c else (0, c)

/-- FENCE. -/
def execFence (m : Master) (v : BitVec 32) (s : State) : Host.Outcome State Fault Refusal := onChip (busWrite m (wFence v.toNat)) s

/-- UNFENCE. -/
def execUnfence (m : Master) (v : BitVec 32) (s : State) : Host.Outcome State Fault Refusal := onChip (busWrite m (wFence v.toNat)) s

/-- A write of TH_MEMBERS, ignored while a link is UP or TRAINING (R327). -/
def wMembers (v : Nat) (c : Chip) : Chip :=
  if (List.finRange 12).any (fun l => linkState c l == 1 || linkState c l == 2) then c
  else refreshPartners (storeReg c rMembers v)

/-- TH_MEMBERS_WRITE. -/
def execThMembersWrite (m : Master) (v : BitVec 32) (s : State) : Host.Outcome State Fault Refusal :=
  onChip (busWrite m (okWrite (wMembers v.toNat))) s

/-- A write of TH_CFG (R327): ROUTE takes effect on the routes that follow. -/
def wThCfg (v : Nat) (c : Chip) : Chip := refreshPartners (storeReg c rThCfg v)

/-! ### Link blocks (R231) -/

/-- The header check of a link block of so many payload bytes fails. -/
def linkHeaderBad (ws : List Nat) (own : Nat) (final : Bool) : Bool :=
  let mode := hdr ws 0 0 2
  let clen := hdr ws 0 24 13
  let ls := lenj ws
  let rsv := hdr ws 0 6 2 != 0 || hdr ws 0 16 8 != 0 || hdr ws 0 37 3 != 0 || ws.getD 3 0 != 0 || hdr ws 0 2 4 != 0 || hdr ws 0 8 8 != 0
  rsv || (match mode with
    | 0 => hdr ws 0 40 8 != 0 || ls.any (· != 0) || 
           (if final && decide (own < 4096) then clen != own || clen % 64 != 0 || clen == 0 else clen != 4096)
    | 2 => ls.any (fun n => decide (n < 8 ∨ 96 < n)) || clen != 128 + 4 * ls.sum || decide (3840 ≤ 32 + clen) ||
           decide (hdr ws 0 40 8 < 64 ∨ 128 < hdr ws 0 40 8)
    | _ => true)

/-- The raw bytes of a link block, or the code of the first check that fails. -/
def linkBlockBytes (x : LinkBlock) : Except Nat (List Byte) :=
  let ws := (List.range 4).map (fun i => leNat ((x.bytes.drop (8 * i)).take 8))
  let clen := hdr ws 0 24 13
  let payload := (x.bytes.drop 32 ++ List.replicate clen 0).take clen
  if linkHeaderBad ws (x.bytes.length - 32) x.final then .error eSluiceHdr
  else if crc16 payload ≠ hdr ws 0 48 16 then .error eSluiceCrc
  else if hdr ws 0 0 2 = 0 then .ok payload
  else
    let lens := lensOfBytes payload
    if lens.any (· > 12) || !lensOk lens then .error eSluiceHdr
    else
      match decodeSubs lens (lenj ws) (payload.drop 128) with
      | some (raw, cyc) => if cyc = hdr ws 0 40 8 then .ok raw else .error eSluiceLen
      | none => .error eSluiceLen

/-- A link block arrives: its raw bytes are written to their destination, or the error is reported with the link number and the transfer's job
contained. A block of a copy that this package runs stops that copy. -/
def takeLinkBlock (l : Fin 12) (x : LinkBlock) (c : Chip) : Chip :=
  if !linkUp c l || c.fab.selfFenced then c
  else
    match linkBlockBytes x with
    | .ok bs => if backed x.dst.toNat bs.length && pkgOf x.dst.toNat == pkg c then putMem c x.dst.toNat bs else c
    | .error code =>
      let c := report { code := code, sev := max 2 (sevOf code), job := some x.job.toNat, src := 0x30 + l.val, cont := true, addr := x.dst.toNat,
                        peer := linkPartner c l, link := l.val } c
      let hit := (List.finRange 32).flatMap (fun b => (chainsOf c.basins[b]).flatMap (fun p =>
        (p.2.flight.filter (fun f => f.job == x.job.toNat && (copyDst f).any (fun r => decide (r.1 ≤ x.dst.toNat ∧ x.dst.toNat < r.1 + r.2)))).filterMap
          (fun f => match f.wait with | .tags (t :: _) => some (b, p.1, t) | _ => none)))
      let c := hit.foldl (fun c h => copyFailed h.1 h.2.1 h.2.2 { code := code, unit := copyUnit, addr := x.dst.toNat, told := true } c) c
      contain x.job.toNat code c

/-- LINK_BLOCK_RECEIVE. -/
def execLinkBlockReceive (l : Fin 12) (x : LinkBlock) (s : State) : Host.Outcome State Fault Refusal := onChip (takeLinkBlock l x) s

end Sys2Proof.Machine
end

