-- ==== Sys2Proof/Machine/Cadence.lean ====
section
/-! DEFINITION. The cadence tick (R193 to R200, R202): ticks, TICK_GUARD, START and RESYNC, SYNC_IN and phase notices. -/

namespace Sys2Proof.Machine

/-- The tick generator changed. -/
def modCad (f : Cadence → Cadence) (c : Chip) : Chip := { c with cad := f c.cad }

/-- The phase as a number of ns. -/
def phase (c : Chip) : Int := signed 32 (getReg c rPhase)

/-- CAD_PHASE set. -/
def setPhase (x : Int) (c : Chip) : Chip := putReg c rPhase (unsigned 32 x)

/-- Are ticks being generated. -/
def ticking (c : Chip) : Bool := bit (getReg c rCadStatus) 0

/-- Are the instants steered toward their target: without lock they run on from the oscillator (R194). -/
def steering (c : Chip) : Bool := c.cad.src == 1 || locked c

/-- CAD_STATUS.SLEWING follows the shift that is still to be steered (R194). -/
def slewing (c : Chip) : Chip := putF c rCadStatus 2 1 (b2n (ticking c && steering c && c.cad.steer != 0))

/-- The target instants move by `x` ns, later where it is positive: a step of the gPTP time, another grandmaster, lock again (R194). -/
def shiftTarget (x : Int) (c : Chip) : Chip :=
  if ticking c && c.cad.src == 0 then slewing (modCad (fun y => { y with steer := y.steer + x }) c) else c

/-- Ticks begin: the first one is still to come (R193). -/
def beginTicks (c : Chip) : Chip := putF (modCad (fun x => { x with startPend := false, fresh := true }) c) rCadStatus 0 1 1

/-- The phase that START and RESYNC take (R200, R202): this package's own where it is the cadence master; 0 where no cadence master can be
reached; otherwise the master's. A write of CAD_CTRL brings that phase, or that there is no such master; with a write that brings neither it is a free value (log
entry 1), for no message tells this package. -/
def masterPhase (phi : Option (Option (BitVec 32))) (c : Chip) : Int × Chip :=
  if bit (getReg c rCadCfg) 1 then (phase c, c)
  else if livePartners c = [] then (0, c)
  else
    match phi with
    | some x => ((x.map (fun v => signed 32 v.toNat)).getD 0, c)
    | none =>
      let (n, c) := drawNat c (2 ^ 33)
      (if n % 2 = 1 then signed 32 (n / 2) else 0, c)

/-- The settings of CAD_CFG take effect (R202). -/
def takeCadCfg (c : Chip) : Chip :=
  modCad (fun x => { x with src := getF c rCadCfg 0 1, syncEn := bit (getReg c rCadCfg) 1, syncPeriod := getF c rCadCfg 2 10 }) c

/-- START (R202). -/
def cadStart (phi : Option (Option (BitVec 32))) (c : Chip) : Chip :=
  if ticking c then c
  else
    let (p, c) := masterPhase phi c
    let c := setPhase p (takeCadCfg c)
    if c.cad.src = 1 ∨ locked c then beginTicks c else modCad (fun x => { x with startPend := true }) c

/-- RESYNC (R200): the phase is the target, and the instants are steered toward it. -/
def cadResync (phi : Option (Option (BitVec 32))) (c : Chip) : Chip :=
  let (p, c) := masterPhase phi c
  let c := modCad (fun x => { x with steer := if ticking c then x.steer + (phase c - p) else 0 }) c
  slewing (setPhase p (takeCadCfg c))

/-- A write of CAD_CTRL. -/
def wCadCtrl (phi : Option (Option (BitVec 32))) (v : Nat) (c : Chip) : Nat × Chip :=
  let c := if bit v 0 then cadStart phi c else c
  (0, if bit v 1 then cadResync phi c else c)

/-- START. -/
def execStart (m : Master) (v : CadWrite) (s : State) : Host.Outcome State Fault Refusal :=
  onChip (busWrite m (wCadCtrl (some v.phi) v.v.toNat)) s

/-- RESYNC. -/
def execResync (m : Master) (v : CadWrite) (s : State) : Host.Outcome State Fault Refusal :=
  onChip (fun c => busWrite m (wCadCtrl (some v.phi) v.v.toNat) c) s

/-- A move of the target is steered by at most 25 us at each tick (R194). -/
def clampNs (x : Int) : Int := max (-25000) (min 25000 x)

/-- A tick instant (R193, R194, R196, R200): the number, the correction named for it, of which with what is still to be steered no more than
25 us moves one instant, and the commit points. Versions in effect and ready items follow
from the number. -/
def tick (c : Chip) : Chip :=
  if !ticking c then c
  else
    let n := if c.cad.fresh then (if c.cad.src = 1 then 0 else (((c.gptpNs : Int) + phase c) / 1000000 % 4294967296).toNat)
      else (getReg c rTick + 1) % 2 ^ 32
    let corr := ((c.cad.notices.filter (fun x => x.1 == n)).map (·.2)).foldl (· + ·) 0
    let due := if steering c then c.cad.steer + corr else corr
    let c := modCad (fun x => { x with fresh := false, guardDone := false, instant := c.gptpNs, steer := x.steer + corr - clampNs due,
                                       notices := x.notices.filter (fun y => y.1 != n), moved := x.moved.filter (fun y => !tickLe y n) }) c
    commitTick n (refreshHeld (slewing (setPhase (phase c - corr) (putReg c rTick n))))

/-- CADENCE_TICK. -/
def execCadenceTick (s : State) : Host.Outcome State Fault Refusal := onChip tick s

/-- TICK_GUARD_EXPIRE. -/
def execTickGuardExpire (s : State) : Host.Outcome State Fault Refusal :=
  onChip (fun c => if ticking c then modCad (fun x => { x with guardDone := true }) c else c) s

/-- A notice to apply. -/
def addNotice (n : Nat) (corr : Int) (c : Chip) : Chip := modCad (fun x => { x with notices := x.notices ++ [(n, corr)], moved := n :: x.moved }) c

/-- The first tick at or after `n` that no correction has moved. -/
def unmoved (moved : List Nat) : Nat → Nat → Nat
  | 0, n => n
  | k + 1, n => if moved.contains n then unmoved moved k ((n + 1) % 2 ^ 32) else n

/-- The instant of the next tick, as pending corrections move it (R199). -/
def nextInstant (c : Chip) : Int :=
  let n := (getReg c rTick + 1) % 2 ^ 32
  let corr := ((c.cad.notices.filter (fun x => x.1 == n)).map (·.2)).foldl (· + ·) 0
  (c.cad.instant : Int) + 1000000 + clampNs (if steering c then c.cad.steer + corr else corr)

/-- The time of an edge minus the nearest tick instant (R199). -/
def edgeError (c : Chip) (stamp : Nat) : Int :=
  let e : Int := (stamp : Int) - c.cad.instant
  let f : Int := (stamp : Int) - nextInstant c
  if e.natAbs ≤ f.natAbs then (e + 500000) % 1000000 - 500000 else (f + 500000) % 1000000 - 500000

/-- An edge of SYNC_IN on the cadence master (R199). -/
def syncEdge (stamp : Nat) (c : Chip) : Chip :=
  let per := max 1 c.cad.syncPeriod * 1000000
  let far := match c.cad.lastEdge with
    | some t => decide (500000 < (stamp + per / 2 - t) % per - per / 2 ∨ 500000 < per / 2 - (stamp + per / 2 - t) % per)
    | none => false
  if far then putF c rCadStatus 16 16 (getF c rCadStatus 16 16 + 1)
  else
    let e := edgeError c stamp
    let c := modCad (fun x => { x with lastEdge := some stamp }) c
    let corr := clampNs e
    if corr = 0 then c
    else
      let ahead := (stamp + 200000 - c.cad.instant + 999999) / 1000000
      let n := unmoved c.cad.moved 64 ((getReg c rTick + max 1 ahead) % 2 ^ 32)
      sendConfirmed (pkgsOf (getReg c rMembers)) (.phase n corr) (addNotice n corr c)

/-- SYNC_IN_EDGE: the edge is stamped (R356), and the cadence master corrects (R199). -/
def execSyncInEdge (stamp : BitVec 64) (s : State) : Host.Outcome State Fault Refusal :=
  onChip (fun c =>
    if 1 < modeOf c then c
    else
      let c := { c with syncNs := stamp.toNat }
      if ticking c && c.cad.syncEn then syncEdge stamp.toNat c else c) s

/-- A phase notice (R200). -/
def phaseNotice (n : Nat) (corr : Int) (c : Chip) : Chip :=
  if ticking c && !c.cad.fresh && tickLe n (getReg c rTick) then
    setStatus 3 (report { code := eCadPhase, sev := sevOf eCadPhase, src := 0x24, arg := n } (putF c rCadStatus 3 1 1))
  else addNotice n corr c

/-- PHASE_NOTICE. -/
def execPhaseNotice (src : BitVec 4) (tag : BitVec 16) (tick : BitVec 32) (corr : Int) (s : State) : Host.Outcome State Fault Refusal :=
  onChip (onConfirmed src.toNat tag.toNat (phaseNotice tick.toNat corr)) s

end Sys2Proof.Machine
end

