-- ==== Sys2Proof/Machine/Weir.lean ====
section
/-! DEFINITION. The weir (R403 to R408, R416): the package limit, grants and stretches, di/dt trips, the clamp, and the thermal steps. -/

namespace Sys2Proof.Machine

/-- The weir changed. -/
def modWeir (f : Weir → Weir) (c : Chip) : Chip := { c with weir := f c.weir }

/-- SUSTAIN and PEAK in force, in credits of 0.25 W (R403, R408). -/
def sustain (c : Chip) : Nat := getF c rBudget 0 10 * 4 * c.weir.pct / 100
def peak (c : Chip) : Nat := getF c rBudget 16 10 * 4 * c.weir.pct / 100

/-- The least stretch at which a request fits its grant, and whether even the greatest does not (R406). -/
def stretchFor (r g : Nat) : Nat × Bool :=
  match (List.range 13).find? (fun s => decide (r * (16 - s) ≤ 16 * g)) with
  | some s => (s, false)
  | none => (12, true)

/-- The grants (R405): each request capped, then scaled by its terrace, its die and the package, and rounded down. Scaled sums are the caps
themselves. -/
def grants (c : Chip) (room : Nat) (req : List Nat) : List Nat :=
  let capped := fun n => min (req.getD n 0) (getF c rWrCfg 0 8 * 4)
  let tSum := fun t => ((span (4 * t) 4).map capped).sum
  let tCap := fun t => min (tSum t) (getF c (rTerrace t) 0 10 * 4)
  let dSum := fun d => tCap (2 * d) + tCap (2 * d + 1)
  let dCap := fun d => min (dSum d) (getF c (rDie d) 0 10 * 4)
  let pSum := ((List.range 4).map dCap).sum
  let pCap := min pSum room
  (List.range 32).map (fun n =>
    capped n * tCap (n / 4) * dCap (n / 8) * pCap / max 1 (tSum (n / 4) * dSum (n / 8) * pSum))

/-- Whether an excursion may run in this period, and how many of its periods are left (R404). -/
def excursionNow (c : Chip) (demand : Nat) : Option Nat :=
  let cap := (peak c - sustain c) * 1000
  match c.weir.excursion with
  | some n => if n = 0 ∨ cap ≤ c.weir.bucket ∨ demand ≤ sustain c then none else some (n - 1)
  | none => if sustain c < demand ∧ c.weir.rested ∧ c.weir.bucket < cap then some 999 else none

/-- MP_THERM.WARN follows TJ and THERM_WARN while the weir is powered, and its rising edge sets MP_STATUS.THERM (R408). A write of THERM_WARN
applies from the next period (R418). -/
def setWarn (c : Chip) : Chip :=
  if !hubOn c then c
  else
    let hot := decide (getF c rWrCfg 24 8 ≤ getF c rTherm 0 8)
    let c := if hot && !bit (getReg c rTherm) 16 then setStatus 7 c else c
    putF c rTherm 16 1 (b2n hot)

/-- A period of the weir (R403 to R406), in every mode with the hub on: basins that are switched off ask for nothing. A period counts as granted at
or below SUSTAIN where its whole demand is (log entry 190). -/
def weirPeriod (fixed : Nat) (asked : List Nat) (c : Chip) : Chip :=
  if !hubOn c then c
  else
    let req := (List.finRange 32).map (fun b => if enabled c b then asked.getD b.val 0 else 0)
    let demand := fixed + req.sum
    let exc := excursionNow c demand
    let began := exc.isSome && c.weir.excursion.isNone
    let base := if exc.isSome then peak c else sustain c
    let clamp := getF c rPower 8 8 * 16
    let limit := if clamp = 0 then base else min base clamp
    let gs := grants c (limit - fixed) req
    let st := (List.range 32).map (fun n => if limit < fixed then (12, true) else stretchFor (req.getD n 0) (gs.getD n 0))
    let floor := decide (limit < fixed) || (List.finRange 32).any (fun b => enabled c b && (st.getD b.val (0, false)).2)
    let throttle := (List.range 32).any (fun n => decide (gs.getD n 0 < req.getD n 0))
    let total := fixed + gs.sum
    let bucket := c.weir.bucket + total - sustain c
    let c := if modeOf c ≠ 0 then c else modBasins (fun b s => { s with grant := (st.getD b.val (0, false)).1, hold := (st.getD b.val (0, false)).2 && enabled c b }) c
    let c := if began then bump c (rWrCtr 0) else c
    let c := if throttle then bump c (rWrCtr 1) 10 else c
    let c := if floor then bump c (rWrCtr 2) else c
    let iv := c.recorder.iv
    let c := { c with recorder := { c.recorder with iv := { iv with excursions := iv.excursions + b2n began, throttleUs := iv.throttleUs + (if throttle then 10 else 0) } } }
    let c := modWeir (fun w => { w with excursion := exc, bucket := bucket, rested := if exc.isSome then false else w.rested || decide (demand ≤ sustain c) }) c
    let c := putReg c rWrStatus (b2n exc.isSome + b2n throttle * 2 + b2n floor * 4 + b2n (limit < base) * 8 + b2n (c.weir.pct < 100) * 16 +
      c.weir.pct * 256 + min 65535 (bucket * 25 / 10000) * 65536)
    setWarn (putReg c rWrDraw (min 1023 (fixed / 4) + min 1023 (total / 4) * 65536))

/-- WEIR_PERIOD. -/
def execWeirPeriod (fixed : Nat) (req : List Nat) (s : State) : Host.Outcome State Fault Refusal := onChip (weirPeriod fixed req) s

/-- Every basin stretches fully and holds issue until the next grants (R407, R416). -/
def fullStretch (c : Chip) : Chip := modBasins (fun _ s => { s with stretch := 12, grant := 12, hold := true }) c

/-- DIDT_TRIP. -/
def execDidtTrip (s : State) : Host.Outcome State Fault Refusal :=
  onChip (fun c => if modeOf c ≠ 0 then c else bump (fullStretch c) (rWrCtr 3)) s

/-- CLAMP_FALLBACK: under a clamp with no grant for 100 us (R416). -/
def execClampFallback (s : State) : Host.Outcome State Fault Refusal :=
  onChip (fun c => if modeOf c ≠ 0 ∨ getF c rPower 8 8 = 0 then c else fullStretch c) s

/-- A write of an island register by a master (R375, R376): the port always, the core where the hub is on, the host channels never. In
always-on reset the island does nothing (R410). -/
def islandWrite (m : Master) (act : Chip → Nat × Chip) (c : Chip) : Chip :=
  if c.power.aonHeld then c else
  let r := if 1 < m.toNat then (eHubDenied, c) else if m.toNat = 1 ∧ !hubOn c then (eIwTimeout, c) else act c
  emit (.bus m 0 r.1) (reportAccess r.1 0x27 r.2)

/-- CLAMP_WRITE. -/
def execClampWrite (m : Master) (clamp : BitVec 8) (s : State) : Host.Outcome State Fault Refusal :=
  onChip (islandWrite m (okWrite (fun c => putF c rPower 8 8 clamp.toNat))) s

/-- TJ is measured (R377): MP_THERM, its WARN, and the interval's extremes. -/
def takeTj (tj : Nat) (c : Chip) : Chip :=
  let iv := c.recorder.iv
  let c := { c with recorder := { c.recorder with iv := { iv with peak := max iv.peak tj, low := min iv.low tj } } }
  setWarn (putF (putF c rTherm 0 8 tj) rTherm 8 8 (max tj (getF c rTherm 8 8)))

/-- A thermal step (R408). -/
def thermalStep (tj : Nat) (c : Chip) : Chip :=
  let warn := getF c rWrCfg 24 8
  let c := takeTj tj c
  if !hubOn c then c
  else
    let pct := if warn ≤ tj then max 25 (c.weir.pct - 5) else if tj + 3 ≤ warn then min 100 (c.weir.pct + 5) else c.weir.pct
    putF (putF (modWeir (fun w => { w with pct := pct }) c) rWrStatus 8 8 pct) rWrStatus 4 1 (b2n (pct < 100))

/-- PEAK_CLR. -/
def execPeakClr (m : Master) (s : State) : Host.Outcome State Fault Refusal :=
  onChip (islandWrite m (okWrite (fun c => putF c rTherm 8 8 (getF c rTherm 0 8)))) s

/-- A write of WR_BUDGET or WR_CFG (R418): a field out of range is ignored with an error response (log entry 40). -/
def wBudget (v : Nat) (c : Chip) : Nat × Chip :=
  let s := fld v 0 10
  let p := fld v 16 10
  if 50 ≤ s ∧ s ≤ 450 ∧ s ≤ p ∧ p ≤ 600 then (0, storeReg c rBudget v) else (eHubDenied, c)

/-- A write of WR_CFG. -/
def wWrCfg (v : Nat) (c : Chip) : Nat × Chip :=
  let ok := fun (lo w a b : Nat) => decide (a ≤ fld v lo w ∧ fld v lo w ≤ b)
  if ok 0 8 1 40 && ok 8 4 1 15 && ok 16 8 25 200 && ok 24 8 60 105 then (0, storeReg c rWrCfg v) else (eHubDenied, c)

/-- A write of WR_DIE_d or WR_TERRACE_t. -/
def wWrCap (off v : Nat) (c : Chip) : Nat × Chip :=
  if 1 ≤ fld v 0 10 ∧ fld v 0 10 ≤ 600 then (0, storeReg c off v) else (eHubDenied, c)

end Sys2Proof.Machine
end

