-- ==== Sys2Proof/Machine/Recorder.lean ====
section
/-! DEFINITION. The event recorder's intervals and its mirror (R437, R440). -/

namespace Sys2Proof.Machine

/-- The SUMMARY record of a class (R437). -/
def writeSummary (k : Nat) (e : ErClass) (c : Chip) : Chip :=
  writeRecord 2 e.sev e.code 0xFFFF 0x27
    [e.first % 2 ^ 32, e.first / 2 ^ 32 % 2 ^ 32, e.last % 2 ^ 32, e.last / 2 ^ 32 % 2 ^ 32, e.count % 2 ^ 32,
     tabGet 0 c.recorder.totals k % 2 ^ 32, e.job] c

/-- The INTERVAL record (R437). -/
def writeInterval (iv : Interval) (c : Chip) : Chip :=
  let bytes := (List.range 24).map (fun i => tabGet 0 iv.hist i)
  let words := (List.range 6).map (fun w => ((List.range 4).map (fun i => bytes.getD (4 * w + i) 0 * 256 ^ i)).sum)
  writeRecord 3 0 0 0xFFFF 0x27 (words ++ [iv.peak + iv.low * 256, min iv.longest (2 ^ 28 - 1) + iv.longCause * 2 ^ 28, iv.throttleUs % 2 ^ 32,
    iv.excursions % 65536 + iv.severe % 65536 * 65536]) c

/-- An interval closes, and the next begins (R437). -/
def closeInterval (c : Chip) : Chip :=
  let iv := c.recorder.iv
  let c := if bit (getReg c rErCfg) 3 then (iv.classes.filter (fun p => p.2.count != 0)).foldl (fun c p => writeSummary p.1 p.2 c) c else c
  let c := if bit (getReg c rErCfg) 2 && (iv.powered || decide (modeOf c ≤ 1)) then writeInterval iv c else c
  let tj := getF c rTherm 0 8
  { c with recorder := { c.recorder with iv := { peak := tj, low := tj, powered := decide (modeOf c ≤ 1) } } }

/-- RECORDER_INTERVAL_CLOSE. -/
def execRecorderIntervalClose (s : State) : Host.Outcome State Fault Refusal :=
  onChip (fun c => if c.power.aonHeld then c else closeInterval c) s

/-- The records of the ring from a SEQ on to another, those the mirror takes, lowest SEQ first. -/
def mirrored (c : Chip) (lo hi : Nat) : List ErRec :=
  (c.recorder.ring.map (·.2)).filter (fun r => decide (lo ≤ r.seq ∧ r.seq < hi) && r.mir)

/-- A sector of the mirror is written (R440): the records from ER_MIRROR_POS on that lie in its sector, over what the sector holds (log entry 183),
one sector after another. ER_MIRROR_POS passes them once they are written; records that are not mirrored it passes at once. -/
def mirrorSector (c : Chip) : Chip :=
  let pos := getReg c rErMirror
  let next := getReg c rErSeq
  let base := pos / 64 * 64
  let hi := min next (base + 64)
  if getF c rErCfg 0 2 = 0 ∨ bit (getReg c rErStatus) 13 ∨ 1 < modeOf c ∨ next ≤ pos ∨
      c.flash.writes.any (fun w => w.1 matches .mirror _) then c
  else
    let a := pkg c * 2 ^ 44 + mirrorBase + base % 262144 * 64
    if mirrored c pos hi = [] then putReg c rErMirror hi
    else
      let old := flashBytes c a 4096
      let bytes := (mirrored c base hi).foldl (fun bs r =>
        let o := (r.seq - base) * 64
        bs.take o ++ r.w.flatMap (leBytes 4) ++ bs.drop (o + 64)) old
      putF { c with flash := { c.flash with writes := c.flash.writes ++ [(.mirror hi, a, bytes)] } } rErStatus 12 1 1

/-- MIRROR_SECTOR_WRITE. -/
def execMirrorSectorWrite (s : State) : Host.Outcome State Fault Refusal := onChip mirrorSector s

/-- A write of ER_CFG: mirroring that had stopped goes on (R440). -/
def wErCfg (v : Nat) (c : Chip) : Nat × Chip := (0, putF (storeReg c rErCfg v) rErStatus 13 1 0)

/-- The record that ER_DATA shows (R378): with WORD 0 the one that ER_PTR names, and else the latch. -/
def erLatch (c : Chip) : List Nat :=
  if getF c rErPtr 12 4 = 0 then (match tabFind c.recorder.ring (getF c rErPtr 0 12) with | some r => r.w | none => []) else c.recorder.latch

/-- A read of ER_DATA (R378): the word, and ER_PTR advanced. -/
def readErData (c : Chip) : Nat × Chip :=
  let n := getF c rErPtr 0 12
  let w := getF c rErPtr 12 4
  let latch := erLatch c
  let c := { c with recorder := { c.recorder with latch := latch } }
  let c := putF c rErPtr 12 4 (w + 1)
  (latch.getD w 0, if w = 15 then putF c rErPtr 0 12 (n + 1) else c)

end Sys2Proof.Machine
end

