-- ==== Sys2Proof/Machine/Security.lean ====
section
/-! DEFINITION. The security engine (R442 to R459): the identity, certificates and publishers, the reservation chain, and the commands of
SEC_CTRL. -/

namespace Sys2Proof.Machine

/-! ### Bytes -/

/-- `n` bytes: those given, or zeros where they are too few. -/
def fixLen (n : Nat) (bs : List Byte) : List Byte := (bs ++ List.replicate n 0).take n

/-- The bytes of an ASCII text. -/
def ascii (s : String) : List Byte := s.toList.map (fun ch => BitVec.ofNat 8 ch.toNat)

/-- The number that `n` bytes at an offset spell. -/
def numAt (bs : List Byte) (o n : Nat) : Nat := leNat ((bs.drop o).take n)

/-- `n` bytes at an offset. -/
def cut (bs : List Byte) (o n : Nat) : List Byte := (bs.drop o).take n

/-- Are `n` bytes at an offset 0. -/
def zeros (bs : List Byte) (o n : Nat) : Bool := (cut bs o n).all (· == 0)

/-- A flash address of this package. -/
def ownFlash (c : Chip) (o : Nat) : Nat := pkg c * 2 ^ 44 + o

/-! ### The identity (R443 to R446) -/

/-- What a copy of the helper data gives (R443), if a K_root that its check value accepts; `enrols` is how many times this die was enrolled. A sector
that was never written holds none; one that an ENROL of this die wrote gives the K_root drawn then (R444). -/
def copyRoot (enrols : Nat) (bs : List Byte) : Option (List Byte) :=
  if bs.all (· == 0) then none
  else
    match (List.range enrols).find? (fun n => fixLen 4096 (Config.pufEnrol n).2 == bs) with
    | some n => some (Config.pufEnrol n).1
    | none => (Config.pufRoot bs).filter (fun k => fixLen 32 (Config.hmac k (ascii "T16 CHECK")) == fixLen 32 (Config.pufCheck bs))

/-- The K_root of the helper copy at an offset; one that the flash cannot read fails (R263). -/
def copyKey (o : Nat) (d : Dev) : Option (List Byte) :=
  let a := ownFlash d.chip o
  if flashBad d.chip a 4096 then none else copyRoot d.sec.enrols (flashBytes d.chip a 4096)

/-- K_root from helper copy A, or from copy B if A fails (R443). -/
def helperRoot (d : Dev) : Option (List Byte) := (copyKey 0x2100000 d).or (copyKey 0x2101000 d)

/-- The flash with the reads of the helper data counted (R263). -/
def helperReads (d : Dev) : Dev :=
  let e := d.chipDo (fun c => countReads (ownFlash c 0x2100000) 4096 c)
  if (copyKey 0x2100000 d).isSome then e else e.chipDo (fun c => countReads (ownFlash c 0x2101000) 4096 c)

/-- The keys of R445. -/
def topSeed (root : List Byte) : List Byte := Config.hkdf root (ascii "T16 HSS TOP") 48
def subSeed (root : List Byte) (t : Nat) : List Byte := Config.hkdf root (ascii "T16 HSS SUB" ++ leBytes 4 t) 48
def kemSeed (root : List Byte) : List Byte := Config.hkdf root (ascii "T16 KEM") 64
def chainKey (root : List Byte) : List Byte := Config.hkdf root (ascii "T16 CHAIN") 32

/-- The identity record (R446). -/
def idRecord (root : List Byte) : List Byte :=
  leBytes 4 0x44493631 ++ leBytes 4 1 ++ leBytes 8 (0x7416 + 1 * 2 ^ 16) ++ fixLen 60 (Config.hssPublic (topSeed root)) ++
    List.replicate 4 0 ++ fixLen 1568 (Config.kemPublic (kemSeed root)) ++ List.replicate 16 0

/-- The identity digest, ID (R446). -/
def identity (root : List Byte) : List Byte := fixLen 32 (Config.sha256 ((idRecord root).take 1648))

/-! ### Certificates and publishers (R449, R450) -/

/-- Does a certificate verify (R449): 256 bytes of body and the signature of the vendor root. -/
def certOk (bs : List Byte) : Bool :=
  numAt bs 0 4 == 0x54524543 && numAt bs 4 4 == 1 && decide (numAt bs 16 8 < 8) && (!bit (numAt bs 16 8) 1 || bit (numAt bs 16 8) 0) &&
  zeros bs 24 40 && zeros bs 124 4 && zeros bs 192 64 && Config.hssVerify Config.vendorRoot (bs.take 256) (cut bs 256 3284)

/-- The publisher that a slot of the enrolment area enrols (R450). One that the flash cannot read enrols none (R263). -/
def slotPublisher (c : Chip) (i : Nat) : Option Publisher :=
  let a := ownFlash c (0x2200000 + 4096 * i)
  let bs := flashBytes c a 3540
  if !flashBad c a 3540 && certOk bs && bit (numAt bs 16 8) 0 then
    some { id := Config.sha256 (cut bs 64 60), key := cut bs 64 60, priv := bit (numAt bs 16 8) 1 }
  else none

/-- The publishers enrolled (R450). -/
def enrolled (c : Chip) : List Publisher := (List.range 256).filterMap (slotPublisher c)

/-- The enrolment area is read. -/
def readPubs (d : Dev) : Dev :=
  { d with sec := { d.sec with pubs := enrolled d.chip }, chip := countReads (ownFlash d.chip 0x2200000) 0x100000 d.chip }

/-! ### The reservation chain (R452 to R454) -/

/-- A record of the chain. -/
structure ChainRec where
  seq : Nat
  subtree : Nat
  block : Nat
  prev : List Byte
  hash : List Byte
  deriving DecidableEq, Repr

/-- The flash address of a sector of the chain area. -/
def chainAddr (c : Chip) (i : Nat) : Nat := ownFlash c (0x2400000 + 4096 * i)

/-- Does a sector of the chain area hold a record, valid or not. -/
def chainHeld (c : Chip) (i : Nat) : Bool := !flashBad c (chainAddr c i) 3540 && leNat (flashBytes c (chainAddr c i) 4) == 0x52565352

/-- Every SUBTREE in the chain area. -/
def chainTrees (c : Chip) : List Nat :=
  ((List.range 3072).filter (chainHeld c)).map (fun i => fld (leNat (flashBytes c (chainAddr c i + 16) 4)) 0 15)

/-- The valid record of a sector of the chain area: its MAC and ID are those of this identity, and its SEQ lies in this sector. -/
def chainRec (c : Chip) (root : List Byte) (i : Nat) : Option ChainRec :=
  let a := chainAddr c i
  if !chainHeld c i then none
  else
    let bs := flashBytes c a 3540
    if numAt bs 4 4 == 1 && numAt bs 8 4 % 3072 == i && cut bs 24 32 == identity root &&
        cut bs 224 32 == fixLen 32 (Config.hmac (chainKey root) (bs.take 224)) then
      some { seq := numAt bs 8 4, subtree := fld (numAt bs 16 4) 0 15, block := fld (numAt bs 16 4) 15 5, prev := cut bs 56 32,
             hash := fixLen 32 (Config.sha256 bs) }
    else none

/-- The valid records. -/
def chainRecs (c : Chip) (root : List Byte) : List ChainRec := (List.range 3072).filterMap (chainRec c root)

/-- F (R454): the record of highest SEQ whose PREV matches its predecessor, if that predecessor is present. -/
def findF (c : Chip) (root : List Byte) : Option ChainRec :=
  let rs := chainRecs c root
  let ok := rs.filter (fun r => match rs.find? (fun p => p.seq + 1 == r.seq) with | some p => r.prev == p.hash | none => true)
  ok.foldl (fun best r => match best with | none => some r | some q => if q.seq < r.seq then some r else best) none

/-- The head that a record gives: the first report leaf of its block comes next. -/
def ChainRec.head (r : ChainRec) : Head := { seq := r.seq, hash := r.hash, subtree := r.subtree, block := r.block }

/-- A report of the security engine. -/
def secReport (code : Nat) (c : Chip) : Chip := report { code := code, sev := sevOf code, src := 0x25 } c

/-- Has the key no block left after a block of a subtree. -/
def lastBlock (t b : Nat) : Bool := decide (32768 * 32 ≤ t * 32 + b + 1)

/-- ATT_STATE from F and the head, the chain area being read (R454). -/
def judge (d : Dev) : Dev :=
  let d := d.chipDo (fun c => countReads (chainAddr c 0) 0xC00000 c)
  match d.sec.root with
  | none => { d with sec := { d.sec with att := .noIdentity } }
  | some root =>
    match d.sec.head, findF d.chip root with
    | none, _ => { d with sec := { d.sec with att := .unanchored } }
    | some h, some f =>
      if f.seq = h.seq ∧ f.hash = h.hash then
        { d with sec := { d.sec with att := if h.exhausted && lastBlock h.subtree h.block then .spent else .ready } }
      else if f.prev = h.hash then { d with sec := { d.sec with att := .ready, head := some f.head } }
      else { d with sec := { d.sec with att := .gap }, chip := if d.sec.att = .gap then d.chip else secReport eAttestGap d.chip }
    | some _, none => { d with sec := { d.sec with att := .gap }, chip := if d.sec.att = .gap then d.chip else secReport eAttestGap d.chip }

/-- A reservation record (R453): bytes 0 to 3,539. -/
def recordBytes (root : List Byte) (seq : Nat) (moved : Bool) (t b : Nat) (prev : List Byte) : List Byte :=
  let head := leBytes 4 0x52565352 ++ leBytes 4 1 ++ leBytes 8 (seq % 2 ^ 32 + b2n moved * 2 ^ 32) ++ leBytes 8 (t + b * 2 ^ 15) ++
    identity root ++ fixLen 32 prev ++ List.replicate 136 0
  let body := head ++ fixLen 32 (Config.hmac (chainKey root) head)
  body ++ fixLen 3284 (Config.hssSign (topSeed root) (subSeed root t) t (1024 * b) body)

/-! ### Commands (R455, R456) -/

/-- The area that SEC_ADDR names. -/
def secAddr (c : Chip) : Nat := getReg c 0x40004 + getReg c 0x40008 * 2 ^ 32

/-- A command ends with a code. -/
def secEnd (code : Nat) (d : Dev) : Dev :=
  { d with sec := { d.sec with job := none, code := code }, chip := if code = 0 then d.chip else secReport code d.chip }

/-- The 48 bytes of a report on a set entry (R456). -/
def setBytes (c : Chip) (e : Nat) : List Byte :=
  let w := getReg c (rSet e 0)
  match tabFind c.ms.current e with
  | some m => leBytes 8 m.setUid.toNat ++ leBytes 2 (fld w 16 16) ++ leBytes 1 (fld w 0 3) ++ List.replicate 5 0 ++ fixLen 32 m.hash
  | none => List.replicate 8 0 ++ leBytes 2 (fld w 16 16) ++ leBytes 1 (fld w 0 3) ++ List.replicate 37 0

/-- The 1,024 bytes of a report (R456). -/
def attestation (d : Dev) (root : List Byte) (q : Nat) (nonce : List Byte) : List Byte :=
  let c := d.chip
  leBytes 4 0x54544146 ++ leBytes 4 1 ++ leBytes 8 q ++ fixLen 32 nonce ++ identity root ++ fixLen 32 d.sec.fwHash ++
    leBytes 8 (d.sec.fwVersion + d.sec.fwCopy * 2 ^ 32) ++ fixLen 32 d.sec.blobHash ++ leBytes 8 (getReg c rNonce) ++ leBytes 8 c.gptpNs ++
    leBytes 8 (b2n (locked c)) ++ leBytes 4 (getReg c rEnable) ++ leBytes 4 (getReg c rBoot) ++ List.replicate 72 0 ++
    (List.range 16).flatMap (setBytes c)

/-- Leaf q of a head (R452). -/
def Head.leaf (h : Head) : Nat := 32768 * h.subtree + 1024 * h.block + h.next

/-- The head once its next leaf is used. -/
def Head.advance (h : Head) : Head := if h.next < 1023 then { h with next := h.next + 1 } else { h with exhausted := true }

/-- A report is signed with the head's next leaf, which advances before the signature leaves (R456). -/
def signReport (a : Nat) (d : Dev) : Dev :=
  match d.sec.root, d.sec.head with
  | some root, some h =>
    match runEff (readMem 0x25 (a + 16) 32) d.chip with
    | (c, .error e) => secEnd e.code { d with chip := c }
    | (c, .ok nonce) =>
      let rep := attestation { d with chip := c } root h.leaf nonce
      let sig := fixLen 3284 (Config.hssSign (topSeed root) (subSeed root h.subtree) h.subtree (1024 * h.block + h.next) rep)
      let c := bump (putMem c a (rep ++ sig)) 0x40020
      secEnd 0 { d with chip := c, sec := { d.sec with head := some h.advance } }
  | _, _ => secEnd ePufFail d

/-- A reservation record for a block is written; the engine waits for the flash (R452, R457). -/
def reserve (root : List Byte) (seq : Nat) (moved : Bool) (t b : Nat) (prev : List Byte) (report : Option Nat) (d : Dev) : Dev :=
  let bs := recordBytes root seq moved t b prev
  let a := ownFlash d.chip (0x2400000 + 4096 * (seq % 2 ^ 32 % 3072))
  let h : Head := { seq := seq % 2 ^ 32, hash := fixLen 32 (Config.sha256 bs), subtree := t, block := b }
  { d with sec := { d.sec with job := some (.reserve a h report), tried := some (t * 32 + b) },
           chip := { d.chip with flash := { d.chip.flash with writes := d.chip.flash.writes ++ [(.sec, a, bs)] } } }

/-- The block after one, and after every block whose record was attempted (R457): counted over all subtrees. -/
def nextBlockNo (s : Sec) (t b : Nat) : Nat := max (t * 32 + b) (s.tried.getD 0) + 1

/-- The next block after the head's is reserved, for a report or without one; after the last the key is spent (R456). -/
def reserveNext (root : List Byte) (seq t b : Nat) (prev : List Byte) (report : Option Nat) (d : Dev) : Dev :=
  let n := nextBlockNo d.sec t b
  if 32768 * 32 ≤ n then secEnd eAttestSpent { d with sec := { d.sec with att := .spent } }
  else reserve root seq false (n / 32) (n % 32) prev report d

/-- ATTEST (R455, R456). -/
def attest (d : Dev) : Dev :=
  match d.sec.att with
  | .unanchored => secEnd eAttestGap d
  | .gap => secEnd eAttestGap d
  | .spent => secEnd eAttestSpent d
  | .noIdentity => secEnd ePufFail d
  | .ready =>
    let a := secAddr d.chip
    if a % 64 ≠ 0 then secEnd eSecDenied d
    else if pkgOf a ≠ pkg d.chip ∨ !backed a 8192 then secEnd eUnbacked d
    else
      match d.sec.root, d.sec.head with
      | some root, some h =>
        if h.exhausted then
          let d := judge d
          match d.sec.att, d.sec.head with
          | .ready, some h =>
            if h.exhausted then reserveNext root (h.seq + 1) h.subtree h.block h.hash (some a) d else signReport a d
          | .spent, _ => secEnd eAttestSpent d
          | _, _ => secEnd eAttestGap d
        else signReport a d
      | _, _ => secEnd ePufFail d

/-- ANCHOR (R455). Until the identity is ready no F can be found, and with a head that is held the chain is not unanchored (R454, log entry 191). -/
def anchor (d : Dev) : Dev :=
  match d.sec.att, d.sec.root with
  | .unanchored, some root =>
    if !d.sec.idReady || d.sec.head.isSome then secEnd eSecDenied d else
    let d := judge d
    match findF d.chip root with
    | none => secEnd eSecDenied d
    | some f =>
      let a := secAddr d.chip
      if a % 64 ≠ 0 ∨ pkgOf a ≠ pkg d.chip ∨ !backed a 32 then secEnd eSecDenied d
      else
        match runEff (readMem 0x25 a 32) d.chip with
        | (c, .error e) => secEnd e.code { d with chip := c }
        | (c, .ok bs) =>
          if bs = f.hash then reserveNext root (f.seq + 1) f.subtree f.block f.hash none { d with chip := c }
          else secEnd eSecDenied { d with chip := c }
  | _, _ => secEnd eSecDenied d

/-- Is a subtree one that MOVE may take (R455, R457): beyond every SUBTREE in the chain area, the head's, and every block whose record was attempted
(log entry 191). -/
def freshTree (t : Nat) (d : Dev) : Bool :=
  (chainTrees d.chip).all (fun u => decide (u < t)) && (match d.sec.head with | some h => decide (h.subtree < t) | none => true) &&
    (match d.sec.tried with | some n => decide (n < 32 * t) | none => true)

/-- MOVE (R455). The chain is judged before the reservation (R454). -/
def moveTree (d : Dev) : Dev :=
  let t := getF d.chip 0x4000C 0 15
  match d.sec.root with
  | none => secEnd eSecDenied d
  | some root =>
    if d.sec.att = .unanchored ∨ d.sec.att = .gap ∨ d.sec.att = .ready then
      if !d.sec.idReady || !freshTree t d then secEnd eSecDenied d
      else
        let d := judge d
        let f := findF d.chip root
        let top := max ((f.map (·.seq)).getD 0) ((d.sec.head.map (·.seq)).getD 0)
        let seq := if f.isNone && d.sec.head.isNone then 0 else top + 1
        reserve root seq true t 0 ((f.map (·.hash)).getD []) none d
    else secEnd eSecDenied d

/-- ENROL (R444): accepted from master 0x00 only, and only without valid helper data. -/
def enrol (m : Master) (d : Dev) : Dev :=
  if m ≠ 0 then secEnd eSecDenied d
  else if (helperRoot d).isSome then secEnd eSecDenied (helperReads d)
  else
    let d := helperReads d
    let (root, sector) := Config.pufEnrol d.sec.enrols
    let a := ownFlash d.chip 0x2100000
    let b := ownFlash d.chip 0x2101000
    let bs := fixLen 4096 sector
    { d with sec := { d.sec with job := some (.enrol [a, b] root 0), enrols := d.sec.enrols + 1 },
             chip := { d.chip with flash := { d.chip.flash with writes := d.chip.flash.writes ++ [(.sec, a, bs), (.sec, b, bs)] } } }

/-- RESCAN (R450). -/
def rescan (d : Dev) : Dev := secEnd 0 (readPubs d)

/-- A command of SEC_CTRL by a master (R375, R455): its code. While BUSY, or with a reserved OP, it is refused and CODE stays. -/
def secCommand (m : Master) (op : Nat) (d : Dev) : Nat × Dev :=
  if !hubOn d.chip then (eIwTimeout, d)
  else if 1 < m.toNat then (eHubDenied, d.chipDo (reportAccess eHubDenied 0x24))
  else if d.sec.job.isSome then (eSecDenied, d.chipDo (secReport eSecDenied))
  else if op = 1 then (0, attest d)
  else if op = 2 then (0, anchor d)
  else if op = 3 then (0, moveTree d)
  else if op = 4 then (0, enrol m d)
  else if op = 5 then (0, rescan d)
  else (eSecDenied, d.chipDo (secReport eSecDenied))

/-- A write of SEC_CTRL, answered to its master. The code of a command that the engine refuses stands in CODE. -/
def secWrite (m : Master) (op : Nat) (d : Dev) : Dev :=
  let r := secCommand m op d
  r.2.chipDo (emit (.bus m 0 r.1))

/-- ATTEST. -/
def execAttest (m : Master) (s : State) : Host.Outcome State Fault Refusal := onDev (secWrite m 1) s

/-- ANCHOR. -/
def execAnchor (m : Master) (s : State) : Host.Outcome State Fault Refusal := onDev (secWrite m 2) s

/-- MOVE. -/
def execMove (m : Master) (s : State) : Host.Outcome State Fault Refusal := onDev (secWrite m 3) s

/-- ENROL. -/
def execEnrol (m : Master) (s : State) : Host.Outcome State Fault Refusal := onDev (secWrite m 4) s

/-- RESCAN. -/
def execRescan (m : Master) (s : State) : Host.Outcome State Fault Refusal := onDev (secWrite m 5) s

/-! ### The flash answers (R454, R457) -/

/-- The code with which a write of the hub's own at an address was acknowledged, and the flash without that answer. -/
def takeAnswerOf (a : Nat) (c : Chip) : Option Nat × Chip :=
  match findPos (fun x => x.1 == a) c.flash.acked 0 with
  | some (i, x) => (some x.2, { c with flash := { c.flash with acked := c.flash.acked.eraseIdx i } })
  | none => (none, c)

/-- A new K_root is in force (R444): keys are derived, the top tree is still to be built, and ATT_STATE to be judged then (log entry 191). -/
def holdRoot (root : List Byte) (d : Dev) : Dev :=
  { d with sec := { d.sec with root := some root, helper := true, kemReady := true, idReady := false, att := .unanchored } }

/-- The engine goes on once the flash has answered one of the writes that it waits for. -/
def secGoesOn (d : Dev) : Dev :=
  match d.sec.job with
  | none => d
  | some (.reserve a h rep) =>
    match takeAnswerOf a d.chip with
    | (none, _) => d
    | (some code, c) =>
      let d := { d with chip := c }
      if code ≠ 0 then secEnd code d
      else
        let d := { d with chip := bump d.chip 0x40024, sec := { d.sec with head := some h, att := .ready } }
        match rep with
        | some a => signReport a d
        | none => secEnd 0 d
  | some (.enrol left root code) =>
    match left with
    | [] => d
    | a :: r =>
      match takeAnswerOf a d.chip with
      | (none, _) => d
      | (some k, c) =>
        let code := if code = 0 then k else code
        let d := { d with chip := c, sec := { d.sec with job := some (.enrol r root code) } }
        if r = [] then (if code = 0 then holdRoot root (secEnd 0 d) else secEnd code d) else d

/-- FLASH_PROGRAM_ACK: the write is acknowledged, and what waited for it goes on. -/
def execFlashProgramAck (i : Nat) (err : Option (BitVec 16)) (s : State) : Host.Outcome State Fault Refusal :=
  onDev (fun d => secGoesOn (secGoesOn (d.chipDo (programAck i (err.map (·.toNat)))))) s

/-! ### Start-up and switch-off (R443, R450, R458) -/

/-- The engine at the end of stage HUB: K_root from the helper data, or PUF_FAIL. ATT_STATE is judged once the identity is ready (log entry 191). -/
def secStart (d : Dev) : Dev :=
  let key := helperRoot d
  let d := helperReads d
  match key with
  | some root => { d with sec := { d.sec with root := some root, helper := true, att := .unanchored } }
  | none => { d with sec := { d.sec with root := none, helper := false, att := .noIdentity }, chip := secReport ePufFail d.chip }

/-- The top tree is built (R446): ID_READY, and ATT_STATE is judged. -/
def idBuilt (d : Dev) : Dev :=
  if d.sec.root.isSome && !d.sec.idReady && d.sec.kemReady then judge { d with sec := { d.sec with idReady := true } } else d

/-- The hub is switched off, or package reset begins (R458, R459): private storage is lost, a command is abandoned, and with it the leaf of
a report that it had not signed. The head stays. -/
def secOff (d : Dev) : Dev :=
  { d with sec := { d.sec with root := none, helper := false, kemReady := false, idReady := false, att := .unanchored, pubs := [],
                               job := none, code := 0, fwHash := [], fwVersion := 0, fwCopy := 0, blobHash := [] } }

/-- ACTIVE or IDLE is left (R459): a report that waits for its block is abandoned, and its leaf counts as spent once the block is reserved. -/
def abandonReport (d : Dev) : Dev :=
  match d.sec.job with
  | some (.reserve a h (some _)) => { d with sec := { d.sec with job := some (.reserve a h.advance none) } }
  | _ => d

/-! ### Registers -/

/-- ATT_STATE as SEC_STATUS shows it. -/
def attCode : AttState → Nat
  | .unanchored => 0 | .ready => 1 | .gap => 2 | .spent => 3 | .noIdentity => 4

/-- SEC_STATUS. -/
def secStatus (s : Sec) : Nat :=
  b2n s.root.isSome + b2n s.helper * 2 + b2n s.kemReady * 4 + b2n s.idReady * 8 + attCode s.att * 16 +
    (s.pubs.map (·.id)).eraseDups.length * 256

/-- SEC_LEAF. -/
def secLeaf (s : Sec) : Nat :=
  match s.head with
  | some h => h.subtree + h.block * 2 ^ 15 + h.next * 2 ^ 20 + b2n h.exhausted * 2 ^ 30 + 2 ^ 31
  | none => 0

/-- SEC_CTRL. -/
def secCtrl (s : Sec) : Nat := b2n s.job.isSome * 8 + s.code * 65536

/-- A word of the identity record as it reads (R446): 0 until ID_READY. -/
def idWord (s : Sec) (o : Nat) : Nat :=
  match s.root with
  | some root => if s.idReady then numAt (idRecord root) o 4 else 0
  | none => 0

end Sys2Proof.Machine
end

