-- ==== Sys2Proof/Machine/Sets.lean ====
section
/-! DEFINITION. The commands of model sets (R267 to R297): command blocks, the manifest and its checks, loads at the reader and at a
receiver, replacement in place, bindings, and adapter switches. -/

namespace Sys2Proof.Machine

/-! ### Posting and acceptance (R276) -/

/-- A write of MS_POST_HI. -/
def wMsPost (m : Master) (v : Nat) (c : Chip) : Nat × Chip :=
  let c := storeReg c rMsHi v
  let n := fld v 16 8
  let a := postAddr c rMsLo rMsHi
  if n = 0 then (0, c)
  else if a % 128 ≠ 0 then msRefuse eMsCmd c
  else postRun .commands m a n c

/-- MS_POST. -/
def execMsPost (m : Master) (v : BitVec 32) (s : State) : Host.Outcome State Fault Refusal := onChip (busWrite m (wMsPost m v.toNat)) s

/-- The set entry and the packages that a command block names. -/
def Block.set (x : Block) : Nat := x.f 0 4 4
def Block.peers (x : Block) : List Nat := pkgsOf (x.f 0 32 16)

/-- A reserved field of a directory entry is nonzero, or RANK a reserved code (R227). -/
def entryBadBits (ws : List Nat) : Bool :=
  let f := fun i lo n => fld (ws.getD i 0) lo n
  f 0 56 8 != 0 || decide (4 < f 0 48 3) || f 1 38 26 != 0 || f 2 16 48 != 0 || f 3 0 64 != 0

/-- A command block has a reserved field nonzero, a number that is no job (R9), or a field out of range (R276). A load without receivers is out
of range (log entry 41). -/
def msBad (x : Block) : Bool :=
  let op := x.f 0 0 4
  x.f 15 2 14 != 0 || x.f 15 36 28 != 0 || decide (256 ≤ x.job) || (op == 7 && entryBadBits ((x.w.drop 8).take 4)) ||
  x.f 0 8 8 != 0 || x.f 0 48 16 != 0 || x.f 1 44 20 != 0 || x.f 2 44 20 != 0 || x.f 3 39 25 != 0 || x.f 4 32 32 != 0 ||
  [5, 6, 7, 12, 13, 14].any (fun i => x.w.getD i 0 != 0) ||
  (decide (op ≤ 1) && (x.f 1 0 44 % 4096 != 0 || x.peers == [])) || (op == 1 && x.f 2 0 44 % 65536 != 0) ||
  (op == 7 && decide (x.f 3 32 7 = 0 ∨ 64 < x.f 3 32 7))

/-- The oldest posted block is accepted, if it is command `op` or has a reserved OP. -/
def acceptMs (op : Nat) (act : Block → Dev → Dev) (d : Dev) : Dev :=
  match d.chip.ms.queue with
  | [] => d
  | x :: r =>
    if x.origin matches .reading _ then d
    else if x.f 0 0 4 = op ∨ 8 ≤ x.f 0 0 4 then
      let d := d.chipDo (fun c => msPending { c with ms := { c.ms with queue := r } })
      if 8 ≤ x.f 0 0 4 || msBad x then d.chipDo (finishCmd x.addr eMsCmd 0) else act x d
    else d

/-- The same for a command that acts on the chip alone. -/
def acceptMsChip (op : Nat) (act : Block → Chip → Chip) (s : State) : Host.Outcome State Fault Refusal :=
  onDev (acceptMs op (fun x d => d.chipDo (act x))) s

/-- A command that completes at acceptance. -/
def msDone (x : Block) (r : Nat × Chip) : Chip := finishCmd x.addr r.1 0 r.2

/-! ### The manifest (R269 to R273) -/

/-- The length of the signed region (R271). -/
def signedLen (nShard nTable nLayer : Nat) : Nat := roundUp (256 + 96 * nShard) 64 + 256 * nTable + 8 * nLayer

/-- Shard entry (R270). -/
def shardAt (bs : List Byte) (i : Nat) : ShardEnt :=
  let b := cut bs (256 + 96 * i) 96
  { flashOff := BitVec.ofNat 44 (numAt b 0 8), len := BitVec.ofNat 29 (numAt b 8 4), form := BitVec.ofNat 2 (fld (numAt b 8 4) 29 2),
    dest := BitVec.ofNat 44 (numAt b 16 8), nonce := cut b 24 12, tag := cut b 48 16, hash := cut b 64 32,
    reserved := fld (numAt b 0 8) 44 20 != 0 || fld (numAt b 8 8) 31 33 != 0 || fld (numAt b 16 8) 44 20 != 0 || !zeros b 36 12 }

/-- Table record (R271). -/
def tableAt (bs : List Byte) (nShard t : Nat) : TableRec :=
  let b := cut bs (roundUp (256 + 96 * nShard) 64 + 256 * t) 256
  { slot := BitVec.ofNat 4 (numAt b 0 4), basins := BitVec.ofNat 32 (numAt b 4 4), holds := BitVec.ofNat 20 (numAt b 8 8), image := cut b 64 192,
    reserved := fld (numAt b 0 4) 4 28 != 0 || fld (numAt b 8 8) 20 44 != 0 || !zeros b 16 48 }

/-- Layer entry (R271). -/
def layerAt (bs : List Byte) (nShard nTable k : Nat) : LayerEnt :=
  let w := numAt bs (roundUp (256 + 96 * nShard) 64 + 256 * nTable + 8 * k) 8
  { seq := BitVec.ofNat 16 w, first := BitVec.ofNat 16 (fld w 16 16), count := BitVec.ofNat 16 (fld w 32 16), reserved := fld w 48 16 != 0 }

/-- The manifest at a flash address (R269). -/
def manifestAt (c : Chip) (a : Nat) : Manifest :=
  let h := flashBytes c a 256
  let n := fld (numAt h 32 8) 0 13
  let t := fld (numAt h 32 8) 13 5
  let k := fld (numAt h 24 8) 32 16
  let bs := flashBytes c a (signedLen n t k)
  { magicOk := numAt h 0 4 == 0x4D534554, formatOk := numAt h 4 2 == 1, setUid := BitVec.ofNat 64 (numAt h 8 8),
    epoch := BitVec.ofNat 16 (numAt h 16 2), kind := BitVec.ofNat 2 (numAt h 18 1), firstSeq := BitVec.ofNat 16 (numAt h 24 2),
    lastSeq := BitVec.ofNat 16 (numAt h 26 2), nShard := BitVec.ofNat 13 n, nTable := BitVec.ofNat 5 t, nLayer := BitVec.ofNat 16 k,
    total := BitVec.ofNat 64 (numAt h 40 8), sigLen := BitVec.ofNat 32 (numAt h 48 4), keyOff := BitVec.ofNat 32 (numAt h 52 4),
    pubId := cut h 64 32,
    reserved := numAt h 6 2 != 0 || fld (numAt h 16 8) 18 46 != 0 || fld (numAt h 24 8) 48 16 != 0 || fld (numAt h 32 8) 18 46 != 0 ||
      !zeros h 56 8 || !zeros h 96 160,
    shards := (List.range n).map (shardAt bs), tables := (List.range t).map (tableAt bs n), layers := (List.range k).map (layerAt bs n t),
    hash := Config.sha256 bs }

/-- Check 1 of R273 fails: MAGIC or FORMAT, or a reserved field. A reserved FORM counts as one. -/
def manBad1 (m : Manifest) : Bool :=
  !m.magicOk || !m.formatOk || m.reserved || m.shards.any (fun s => s.reserved || decide (2 ≤ s.form.toNat)) || m.tables.any (·.reserved) ||
  m.layers.any (·.reserved)

/-- In how many runs of layers a shard lies. -/
def runsOf (m : Manifest) (i : Nat) : Nat := (m.layers.filter (fun l => decide (l.first.toNat ≤ i ∧ i < l.first.toNat + l.count.toNat))).length

/-- LAYER_SEQ rises strictly. -/
def rising : List Nat → Bool
  | a :: b :: r => decide (a < b) && rising (b :: r)
  | _ => true

/-- Check 3 fails: a number out of range, TOTAL, the layers. -/
def manBad3 (m : Manifest) : Bool :=
  decide (m.nShard.toNat = 0 ∨ 4096 < m.nShard.toNat ∨ 16 < m.nTable.toNat ∨ 4096 < m.nLayer.toNat) ||
  m.shards.any (fun s => decide (s.len.toNat < 64 ∨ 268435456 < s.len.toNat ∨ s.len.toNat % 64 ≠ 0)) ||
  m.total.toNat != (m.shards.map (·.len.toNat)).sum || decide (m.lastSeq.toNat < m.firstSeq.toNat) ||
  !rising (m.layers.map (·.seq.toNat)) || m.layers.any (fun l => decide (l.seq.toNat < m.firstSeq.toNat ∨ m.lastSeq.toNat < l.seq.toNat)) ||
  (decide (m.kind.toNat ≤ 1) && (List.range m.shards.length).any (fun i => runsOf m i != 1)) || m.kind.toNat == 3

/-- The content key from the first capsule that carries this package's ID (R272, R451). A capsule that the flash cannot read does not open (R263). -/
def contentKey (c : Chip) (root : List Byte) (m : Manifest) (a : Nat) : Option (List Byte) :=
  let k := a + m.keyOff.toNat
  let h := flashBytes c k 64
  let n := numAt h 0 2
  if n = 0 ∨ 256 < n ∨ !zeros h 2 62 ∨ flashBad c k 64 then none
  else
    match (List.range n).find? (fun i => !flashBad c (k + 64 + 1664 * i) 32 && flashBytes c (k + 64 + 1664 * i) 32 == identity root) with
    | none => none
    | some i =>
      if flashBad c (k + 64 + 1664 * i) 1664 then none else
      let caps := flashBytes c (k + 64 + 1664 * i) 1664
      let info := ascii "T16 CAPSULE" ++ leBytes 8 m.setUid.toNat ++ leBytes 8 m.epoch.toNat ++ identity root
      let kek := Config.hkdf (Config.kemDecaps (kemSeed root) (cut caps 32 1568)) info 32
      Config.keyUnwrap kek (cut caps 1600 40)

/-- The checks of R273 in order: the manifest with its content key, or the cause. A manifest whose flash cannot be read fails as MANIFEST. -/
def checkManifest (d : Dev) (l : Load) : Except Nat (Manifest × Option (List Byte)) :=
  let c := d.chip
  let a := ownFlash c l.base
  let m := manifestAt c a
  let n := signedLen m.nShard.toNat m.nTable.toNat m.nLayer.toNat
  let signer := l.pubs.find? (fun p => p.1 == m.pubId)
  let sig := flashBytes c (a + roundUp n 64) 3284
  let key := match d.sec.root with | some root => contentKey c root m a | none => none
  if flashBad c a (roundUp n 64 + 3284) then .error 2
  else if manBad1 m then .error 2
  else if m.sigLen.toNat ≠ 3284 || !(match signer with | some p => Config.hssVerify p.2.1 (flashBytes c a n) sig | none => false) then .error 1
  else if manBad3 m then .error 2
  else if m.tables.any (fun t => (imageLens t.image).isNone) then .error 2
  else if m.shards.any (fun s => s.form == 1) && !l.pubs.any (fun p => p.1 == m.pubId && p.2.2) then .error 4
  else if m.shards.any (fun s => s.form == 0) && key.isNone then .error 3
  else if m.shards.any (fun s => !backedOne (sys c (s.dest.toNat + l.bias)) s.len.toNat || decide (2 ^ 44 ≤ s.dest.toNat + l.bias)) then .error 7
  else .ok (m, key)

/-- The flash with the reads of a manifest, its signature and its capsules counted (R263). -/
def manifestReads (base : Nat) (c : Chip) : Chip :=
  let a := ownFlash c base
  let m := manifestAt c a
  let n := roundUp (signedLen m.nShard.toNat m.nTable.toNat m.nLayer.toNat) 64 + 3284
  let k := a + m.keyOff.toNat
  let c := countReads a n c
  if m.shards.any (fun s => s.form == 0) then countReads k (64 + 1664 * min 256 (numAt (flashBytes c k 64) 0 2)) c else c

/-! ### LOAD and STAGE (R277) -/

/-- May a LOAD or a STAGE begin on an entry. DEDUCED (log entry 151), unsafe: an INVALID entry, whose STAGE still reads STAGED, accepts a LOAD
as a FAILED one does (R291). -/
def loadAllowed (c : Chip) (e : Nat) (stage : Bool) : Bool :=
  let free := setStage c e == 0 || setStage c e == 3
  (tabFind c.ms.loads e).isNone &&
  (if stage then setState c e == 2 && free else ((setState c e == 0 || setState c e == 4) && free) || setState c e == 5)

/-- An entry is loading. A LOAD of an INVALID entry ends what was staged for it (log entry 151). -/
def setLoading (e : Nat) (stage : Bool) (c : Chip) : Chip :=
  if stage then putF c (rSet e 0) 3 2 1
  else if setState c e = 5 then
    putF (putF { c with ms := { c.ms with staged := tabDel c.ms.staged e } } (rSet e 0) 3 2 0) (rSet e 0) 0 3 1
  else putF c (rSet e 0) 0 3 1

/-- Steps 1 to 3 at the reader: the manifest is checked and multicast, and the tables and the first shard begin. -/
def loadStep1 (e : Nat) (d : Dev) : Dev :=
  match tabFind d.chip.ms.loads e with
  | none => d
  | some l =>
    let got := checkManifest d l
    let d := d.chipDo (manifestReads l.base)
    match got with
    | .error cause => d.chipDo (endLoad e cause)
    | .ok (m, key) =>
      d.chipDo (fun c =>
        let c := modLoad e (fun l => { l with man := m, key := key, atStep1 := false, tables := if l.member then tableJobs c m else [] }) c
        let others := l.peers.filter (· != pkg c)
        if others.any (fenced c) then failLoad e 10 c
        else loadGoesOn e (sendMsg others 0 (.manifest e l.bias m) c))

/-- A LOAD or STAGE is accepted; it waits for the identity where there will be one (R446). -/
def acceptLoad (stage : Bool) (x : Block) (d : Dev) : Dev :=
  let e := x.set
  let c := d.chip
  if !loadAllowed c e stage then d.chipDo (finishCmd x.addr eMsState 0)
  else
    let member := x.peers.contains (pkg c)
    let l : Load := { stage := stage, reader := c.power.pkgId, mine := true, member := member, peers := x.peers, block := some x.addr,
                      bias := if stage then x.f 2 0 44 else 0, base := x.f 1 0 44, retry := getF c rMsCfg 0 2, atStep1 := true,
                      pubs := d.sec.pubs.map (fun p => (p.id, p.key, p.priv)) }
    let c := { c with ms := { c.ms with loads := tabSet c.ms.loads e l } }
    let d := { d with chip := if member then setLoading e stage c else c }
    if d.sec.root.isSome && !d.sec.idReady then d else loadStep1 e d

/-- A manifest reaches a receiver (R277 step 2): its entry is loading, or the reader is told that it may not. -/
def takeManifest (stage : Bool) (reader : Pkg) (e bias : Nat) (m : Manifest) (c : Chip) : Chip :=
  if fenced c reader.toNat || reader.toNat == pkg c then c
  else if !loadAllowed c e stage then sendConfirmed [reader.toNat] (.loadFail e 9) c
  else
    let l : Load := { stage := stage, reader := reader, member := true, bias := if stage then bias else 0, man := m, tables := tableJobs c m }
    loadGoesOn e (setLoading e stage { c with ms := { c.ms with loads := tabSet c.ms.loads e l } })

/-- MS_LOAD. -/
def execMsLoad (x : LoadSrc) (s : State) : Host.Outcome State Fault Refusal :=
  match x with
  | .post => onDev (acceptMs 0 (acceptLoad false)) s
  | .manifest r e bias m => onChip (takeManifest false r e.val bias.toNat m) s

/-- STAGE. -/
def execStage (x : LoadSrc) (s : State) : Host.Outcome State Fault Refusal :=
  match x with
  | .post => onDev (acceptMs 1 (acceptLoad true)) s
  | .manifest r e bias m => onChip (takeManifest true r e.val bias.toNat m) s

/-- IDENTITY_READY: the loads that waited at step 1 go on (R446). -/
def execIdentityReady (s : State) : Host.Outcome State Fault Refusal :=
  onDev (fun d =>
    let ready := d.sec.idReady
    let d := idBuilt d
    if !ready && d.sec.idReady then
      (d.chip.ms.loads.filter (fun x => x.2.atStep1 && x.2.mine)).foldl (fun d x => loadStep1 x.1 d) d
    else d) s

/-! ### Shards (R277 to R280) -/

/-- SHARD_READ_DONE. -/
def execShardReadDone (e : Fin 16) (s : State) : Host.Outcome State Fault Refusal :=
  onChip (fun c => match tabFind c.ms.loads e.val with | some l => if l.atStep1 then c else shardRead e.val c | none => c) s

/-- SHARD_ANNOUNCE. -/
def execShardAnnounce (e : Fin 16) (x : ShardRx) (s : State) : Host.Outcome State Fault Refusal :=
  onChip (fun c => match tabFind c.ms.loads e.val with | some l => if l.mine then c else receiveShard e.val x c | none => c) s

/-- What the reader of a load does with a report. -/
def atReader (e : Nat) (act : Chip → Chip) (c : Chip) : Chip :=
  match tabFind c.ms.loads e with
  | some l => if l.mine && !l.atStep1 then act c else c
  | none => c

/-- A confirmed message acts once (R318). -/
def onSent (x : Sent) (act : Chip → Chip) : Chip → Chip := onConfirmed x.src.toNat x.tag.toNat act

/-- SHARD_GOOD. -/
def execShardGood (e : Fin 16) (p : Sent) (i : Nat) (s : State) : Host.Outcome State Fault Refusal :=
  onChip (onSent p (atReader e.val (shardGoodAt e.val p.src.toNat i))) s

/-- SHARD_BAD. -/
def execShardBad (e : Fin 16) (p : Sent) (i : Nat) (s : State) : Host.Outcome State Fault Refusal :=
  onChip (onSent p (atReader e.val (readAgain e.val i true))) s

/-- A receiver asks for a shard that it has not received whole (R279). -/
def askShard (e i : Nat) (c : Chip) : Chip :=
  match tabFind c.ms.loads e with
  | none => c
  | some l =>
    if l.mine || !l.member || l.whole.contains i || decide (l.man.shards.length ≤ i) then c
    else sendConfirmed [l.reader.toNat] (.shardReq e i) (bump c (rMsCtr 1))

/-- SHARD_MISSING. -/
def execShardMissing (e : Fin 16) (i : Nat) (s : State) : Host.Outcome State Fault Refusal := onChip (askShard e.val i) s

/-- SHARD_REQUEST. -/
def execShardRequest (e : Fin 16) (p : Sent) (i : Nat) (s : State) : Host.Outcome State Fault Refusal :=
  onChip (onSent p (atReader e.val (readAgain e.val i false))) s

/-- LOAD_DONE_REPORT. -/
def execLoadDoneReport (e : Fin 16) (p : Sent) (s : State) : Host.Outcome State Fault Refusal :=
  onChip (onSent p (atReader e.val (loadDoneAt e.val p.src.toNat))) s

/-- COMPLETE. -/
def execComplete (e : SetMsg) (s : State) : Host.Outcome State Fault Refusal :=
  onChip (onSent e.sent (fun c => match tabFind c.ms.loads e.entry.val with
    | some l => if l.reader == e.sent.src && !l.mine then completeLoad e.entry.val c else c
    | none => c)) s

/-- FAIL: at the reader, the failure that another package has found; at a receiver, the end of the load (R281). -/
def execFail (e : SetMsg) (cause : BitVec 4) (s : State) : Host.Outcome State Fault Refusal :=
  onChip (onSent e.sent (fun c => match tabFind c.ms.loads e.entry.val with
    | some l =>
      if l.mine then failLoad e.entry.val cause.toNat c else if l.reader == e.sent.src then endLoad e.entry.val cause.toNat c else c
    | none => c)) s

/-! ### Replacement (R283 to R291) -/

/-- REPLACE (R283). -/
def replaceSet (x : Block) (c : Chip) : Chip :=
  let e := x.set
  let tick := x.f 3 0 32
  match setState c e == 2, setStage c e == 2, tabFind c.ms.staged e, tabFind c.ms.current e with
  | true, true, some (m, bias), some cur =>
    if 1 < m.kind.toNat ∨ m.setUid ≠ cur.setUid ∨ !x.peers.contains (pkg c) then finishCmd x.addr eMsState 0 c
    else if !tickBefore (tickOf c) tick then finishCmd x.addr eMsLate 0 c
    else
      let r : Repl := { block := x.addr, peers := x.peers, man := m, bias := bias, layers := m.layers.map (·.seq.toNat) }
      let c := { c with ms := { c.ms with repls := tabSet c.ms.repls e r } }
      putReg (putReg (putF c (rSet e 0) 0 3 3) (rSet e 2) (m.firstSeq.toNat + m.lastSeq.toNat * 65536)) (rSet e 3) tick
  | _, _, _, _ => finishCmd x.addr eMsState 0 c

/-- REPLACE. -/
def execReplace (s : State) : Host.Outcome State Fault Refusal := acceptMsChip 2 replaceSet s

/-- The barrier arms (R285): items that become held lose their run-ahead copies. -/
def armBarrier (e : Nat) (c : Chip) : Chip :=
  match tabFind c.ms.repls e with
  | none => c
  | some r =>
    if r.armed || !tickLe (armTick c e) (tickOf c) || !ticking c then c
    else
      refreshHeld (modRepl e (fun r => { r with armed := true }) c)

/-- REPL_ARM. -/
def execReplArm (e : Fin 16) (s : State) : Host.Outcome State Fault Refusal := onChip (armBarrier e.val) s

/-- The shards of a layer. -/
def layerShards (m : Manifest) (j : Nat) : List ShardEnt :=
  (m.layers.filter (fun l => l.seq.toNat == j)).flatMap (fun l => (m.shards.drop l.first.toNat).take l.count.toNat)

/-- The destinations of a layer. -/
def layerDests (c : Chip) (m : Manifest) (j : Nat) : List (Nat × Nat) := (layerShards m j).map (fun s => (sys c s.dest.toNat, s.len.toNat))

/-- Does a range meet one of a list. -/
def meets (rs : List (Nat × Nat)) (a n : Nat) : Bool := rs.any (fun r => decide (a < r.1 + r.2 ∧ r.1 < a + n))

/-- Is an item of a job bound to set e, of a step before the arming tick and of layer j, queued in the package, running in it or away from
it (R286). -/
def earlyItems (c : Chip) (e j : Nat) : Bool :=
  let early := fun (it : Item) => boundSet c it.job.toNat == some e && tickBefore it.stepTag.toNat (armTick c e) && it.layerSeq.toNat == j
  (List.finRange 32).any (fun b => c.basins[b].queue.any (fun q => early q.item) || c.basins[b].arrived.any (fun x => early x.2.2) ||
    (chainsOf c.basins[b]).any (fun p => early p.2.item && !(p.2.lastDone && p.2.place != .migrated))) ||
  c.away.any (fun x => early x.item)

/-- A record has no pending flag and nothing that holds it. -/
def recQuiet (r : Rec) : Bool := !r.evictPend && !r.forcePend && !r.upPend && r.claims == 0 && (r.state == .absent ||
  (r.state == .resident && r.pins == 0 && r.busy == 0))

/-- The copy of the next layer begins (R286). -/
def layerCopy (e : Nat) (c : Chip) : Chip :=
  match tabFind c.ms.repls e with
  | none => c
  | some r =>
    match r.armed && r.copying.isNone, r.layers with
    | true, j :: _ =>
      let ds := layerDests c r.man j
      let lower := fun (x : Rec) => !x.downFlash && meets ds x.down (x.len64 * 64)
      let upper := fun (x : Rec) => meets ds x.up (x.len64 * 64)
      if earlyItems c e j || c.recs.any (fun x => lower x.2 && !recQuiet x.2) || c.recs.any (fun x => upper x.2 && x.2.state != .resident)
      then c
      else
        let drop := (c.recs.filter (fun x => lower x.2 && x.2.state == .resident)).map (·.1)
        let c := drop.foldl (fun c n => bump (modRec n (fun r => { r with state := .absent }) c) (rMsCtr 2)) c
        modRepl e (fun r => { r with copying := some j, begun := true }) c
    | _, _ => c

/-- REPL_LAYER_COPY. -/
def execReplLayerCopy (e : Fin 16) (s : State) : Host.Outcome State Fault Refusal := onChip (layerCopy e.val) s

/-- The bytes of a layer move from DEST + BIAS to DEST. -/
def copyLayer (m : Manifest) (bias j : Nat) : Eff Unit :=
  (layerShards m j).forM (fun s => do
    let c ← get
    let bs ← readMem 0x38 (sys c (s.dest.toNat + bias)) s.len.toNat
    writeMem (sys c s.dest.toNat) bs)

/-- The copy of a layer completes; after the last one this package reports DONE (R287). An error makes the entry INVALID (R291). -/
def layerDone (e : Nat) (c : Chip) : Chip :=
  match tabFind c.ms.repls e with
  | none => c
  | some r =>
    match r.copying with
    | none => c
    | some j =>
      match runEff (copyLayer r.man r.bias j) c with
      | (c, .error _) => endRepl e eReplFail c
      | (c, .ok _) =>
        let c := modRepl e (fun r => { r with copying := none, layers := r.layers.drop 1 }) c
        if r.layers.length ≤ 1 then reportReplDone e c else c

/-- REPL_LAYER_DONE. -/
def execReplLayerDone (e : Fin 16) (s : State) : Host.Outcome State Fault Refusal := onChip (layerDone e.val) s

/-- REPL_DONE. -/
def execReplDone (e : Fin 16) (p : Sent) (s : State) : Host.Outcome State Fault Refusal :=
  onChip (onSent p (replDoneAt e.val p.src.toNat)) s

/-- REPL_RELEASE. -/
def execReplRelease (e : SetMsg) (s : State) : Host.Outcome State Fault Refusal :=
  onChip (onSent e.sent (releaseRepl e.entry.val)) s

/-- A line of a shard is copied; one that cannot be read is not, and is reported (R239). -/
def copyLine (src dst : Nat) (c : Chip) : Chip :=
  match runEff (readMem 0 src 64) c with
  | (c, .ok bs) => putMem c dst bs
  | (c, .error e) => report { code := e.code, sev := sevOf e.code, src := 0x24, addr := e.addr } c

/-- A copy of a shard is stopped at a 64-byte boundary (R291): each of its lines is copied or is not, by a free value (log entry 1). -/
def partCopy (src dst n : Nat) (c : Chip) : Chip :=
  let (which, c) := drawNat c (2 ^ (n / 64))
  (List.range (n / 64)).foldl (fun c i => if bit which i then copyLine (src + 64 * i) (dst + 64 * i) c else c) c

/-- A replacement is stopped, and with it the copy of a layer that is under way. -/
def stopRepl (e code : Nat) (c : Chip) : Chip :=
  match tabFind c.ms.repls e with
  | none => c
  | some r =>
    let c := match r.copying with
      | some j => (layerShards r.man j).foldl (fun c s => partCopy (sys c (s.dest.toNat + r.bias)) (sys c s.dest.toNat) s.len.toNat c) c
      | none => c
    endRepl e code c

/-- ABORT (R291). -/
def abortSet (x : Block) (c : Chip) : Chip :=
  let e := x.set
  if (tabFind c.ms.loads e).isSome then finishCmd x.addr 0 0 (loadFails e 11 c)
  else if (tabFind c.ms.repls e).isSome then finishCmd x.addr 0 0 (stopRepl e eReplFail c)
  else finishCmd x.addr eMsState 0 c

/-- ABORT. -/
def execAbort (s : State) : Host.Outcome State Fault Refusal := acceptMsChip 3 abortSet s

/-! ### RETIRE, BIND, UNBIND (R268, R292) -/

/-- RETIRE (R292). -/
def retireSet (x : Block) (c : Chip) : Nat × Chip :=
  let e := x.set
  if (List.range 256).any (fun j => boundSet c j == some e) || setState c e == 1 || setState c e == 3 || setStage c e == 1 ||
      (tabFind c.ms.loads e).isSome then (eMsState, c)
  else
    let c := { c with ms := { c.ms with current := tabDel c.ms.current e, staged := tabDel c.ms.staged e } }
    (0, putF (putF c (rSet e 0) 0 3 0) (rSet e 0) 3 2 0)

/-- RETIRE. -/
def execRetire (s : State) : Host.Outcome State Fault Refusal := acceptMsChip 4 (fun x c => msDone x (retireSet x c)) s

/-- BIND (R268). -/
def bindJob (x : Block) (c : Chip) : Nat × Chip :=
  if setState c x.set = 0 then (eMsState, c) else (0, refreshHeld (putReg c (rMsJob x.job) (x.set + 16)))

/-- BIND. -/
def execBind (s : State) : Host.Outcome State Fault Refusal := acceptMsChip 5 (fun x c => msDone x (bindJob x c)) s

/-- UNBIND (R268). -/
def unbindJob (x : Block) (c : Chip) : Nat × Chip := (0, refreshHeld (putReg c (rMsJob x.job) 0))

/-- UNBIND. -/
def execUnbind (s : State) : Host.Outcome State Fault Refusal := acceptMsChip 6 (fun x c => msDone x (unbindJob x c)) s

/-! ### Adapter switches (R294 to R296) -/

/-- ADAPTER_SWITCH (R294): the block's own faults are MS_CMD, then MS_STATE, and MS_LATE where only TICK fails. -/
def switchAdapter (x : Block) (c : Chip) : Chip :=
  let entry := (List.range 4).map (fun i => x.w.getD (8 + i) 0)
  let basins := x.f 4 0 32
  let tick := x.f 3 0 32
  let k := x.f 3 32 7
  if fld (entry.getD 2 0) 0 16 ≠ x.job ∨ basins = 0 then finishCmd x.addr eMsCmd 0 c
  else if (List.range 32).any (fun n => bit basins n && !bit (getReg c (rCxAdir n)) 17) ||
      c.ms.switches.any (fun w => w.job == x.job && w.adapter == k) then finishCmd x.addr eMsState 0 c
  else if !tickBefore (tickOf c) tick then finishCmd x.addr eMsLate 0 c
  else { c with ms := { c.ms with switches := c.ms.switches ++
    [{ block := x.addr, job := x.job, adapter := k, tick := tick, basins := basins, entry := entry }] } }

/-- ADAPTER_SWITCH. -/
def execAdapterSwitch (s : State) : Host.Outcome State Fault Refusal := acceptMsChip 7 switchAdapter s

/-- A switch's entry is written to the directory of every basin it names, and its command completes. -/
def writeSwitch (c : Chip) (w : Switch) : Chip :=
  let c := (List.finRange 32).foldl (fun c b =>
    if bit w.basins b.val then putMem c (sram c b (getF c (rCxAdir b.val) 0 17 * 64 + 32 * (w.adapter - 1))) (w.entry.flatMap (leBytes 8)) else c) c
  finishCmd w.block 0 0 c

/-- The job's items with a step tag before a tick that run here for another package (R295). -/
def guestsBefore (c : Chip) (j t : Nat) : Nat :=
  let early := fun (it : Item) => it.job.toNat == j && !tickLe t it.stepTag.toNat
  ((List.finRange 32).map (fun b => (c.basins[b].arrived.filter (fun x => early x.2.2)).length +
    ((chainsOf c.basins[b]).filter (fun p => p.2.homePkg != c.power.pkgId && early p.2.item)).length)).sum

/-- The switches of a job with one TICK are written together once every earlier item of the job has left (R295). -/
def applySwitch (i : Nat) (c : Chip) : Chip :=
  match c.ms.switches[i]? with
  | none => c
  | some w =>
    if !tickLe w.tick (tickOf c) || itemsBefore c w.job w.tick + guestsBefore c w.job w.tick != 0 then c
    else
      let same := fun (x : Switch) => x.job == w.job && x.tick == w.tick
      let go := c.ms.switches.filter same
      go.foldl writeSwitch { c with ms := { c.ms with switches := c.ms.switches.filter (fun x => !same x) } }

/-- ADAPTER_SWITCH_APPLY. -/
def execAdapterSwitchApply (i : Nat) (s : State) : Host.Outcome State Fault Refusal := onChip (applySwitch i) s

/-- REPL_STUCK (R290, R296), once. -/
def replStuck (x : StuckSrc) (c : Chip) : Chip :=
  match x with
  | .set e =>
    match tabFind c.ms.repls e.val with
    | some r =>
      if r.stuck || !r.armed then c
      else setStatus 5 (report { code := eReplStuck, sev := sevOf eReplStuck, src := 0x24, tag := e.val, arg := r.layers.headD 0 }
        (modRepl e.val (fun r => { r with stuck := true }) c))
    | none => c
  | .switch i =>
    match c.ms.switches[i]? with
    | some w =>
      if w.stuck || !tickLe w.tick (tickOf c) then c
      else setStatus 5 (report { code := eReplStuck, sev := sevOf eReplStuck, job := some w.job, src := 0x24, arg := w.adapter }
        { c with ms := { c.ms with switches := c.ms.switches.set i { w with stuck := true } } })
    | none => c

/-- REPL_STUCK. -/
def execReplStuck (x : StuckSrc) (s : State) : Host.Outcome State Fault Refusal := onChip (replStuck x) s

/-! ### Leaving ACTIVE (R297) -/

/-- A change to IDLE ends every load with MODE, and every replacement as an ABORT would. -/
def abandonSets (c : Chip) : Chip :=
  let c := c.ms.loads.foldl (fun c x => endLoad x.1 12 c) c
  c.ms.repls.foldl (fun c x => stopRepl x.1 eReplFail c) c

end Sys2Proof.Machine
end

