-- ==== Sys2Proof/Machine/Wellhead.lean ====
section
/-! DEFINITION. The wellhead (R329 to R348): channels, beams and frames, the wake stages with the keyword network, the pre-wake ring with its
ADPCM, fetches, the mute, and its registers. -/

namespace Sys2Proof.Machine

/-! ### Registers (R347) -/

def rFeMute : Nat := 0x30000
def rFeArray (a : Nat) : Nat := 0x30010 + 4 * a
def rFeBeam (i : Nat) : Nat := 0x30100 + 4 * i
def rWakeCfg : Nat := 0x30400
def rWakeCfg2 : Nat := 0x30404
def rVItem : Nat := 0x30408
def rVPcm : Nat := 0x3040C
def rVVerdict : Nat := 0x30410
def rWakeStatus : Nat := 0x30414
def rWakeFrame : Nat := 0x30418
def rFeOfs : Nat := 0x30420
def rRingCfg : Nat := 0x30500
def rRingSrc (j : Nat) : Nat := 0x30504 + 4 * j
def rFetch : Nat := 0x30530
def rDsp : Nat := 0x30540
/-- Wellhead counters (R347): 0 WAKE_S1, 1 WAKE_S2_PASS, 2 WAKE_S2_FAIL, 3 WAKE_S3_PASS, 4 WAKE_S3_FAIL, 5 WAKE_S3_CANCEL, 6 WAKE_EXPIRED,
7 FE_CLIP, 8 FRAME_GAP. -/
def rFeCtr (k : Nat) : Nat := 0x30600 + 4 * k

/-- Is VDD_FE up (R345, R397). -/
def feOn (c : Chip) : Bool := modeOf c != 3

/-- Are samples stopped (R344). -/
def muted (c : Chip) : Bool := bit (getReg c rFeMute) 0

/-- The wake stage in progress: 2, 3 or 4, or 0 for none (R347). -/
def stageOf (c : Chip) : Nat := getF c rWakeStatus 0 3

/-- The package with a wake stage in progress. -/
def putStage (n : Nat) (c : Chip) : Chip := putF c rWakeStatus 0 3 n

/-- The wellhead changed. -/
def modFe (f : Fe → Fe) (d : Dev) : Dev := { d with fe := f d.fe }

/-- The wake stages' state changed. -/
def modWake (f : Wake → Wake) (d : Dev) : Dev := { d with fe := { d.fe with wake := f d.fe.wake } }

/-- A report of the wellhead. -/
def feReport (code arg : Nat) (c : Chip) : Chip := report { code := code, sev := sevOf code, src := 0x26, arg := arg } c

/-- An access of a hub register that acts on the whole package, by a master (R375, R380): its code, with the report of a refusal. -/
def devAccess (m : Master) (src : Nat) (act : Dev → Nat × Dev) (d : Dev) : Nat × Dev :=
  let r := if !hubOn d.chip then (eIwTimeout, d) else if 3 < m.toNat then (eHubDenied, d) else act d
  (r.1, r.2.chipDo (reportAccess r.1 src))

/-- Such a write, answered to its master. -/
def devWrite (m : Master) (src : Nat) (act : Dev → Nat × Dev) (d : Dev) : Dev :=
  let r := devAccess m src act d
  r.2.chipDo (emit (.bus m 0 r.1))

/-! ### Arrays (R329, R331, R347) -/

/-- Fields of FE_ARRAY_a. -/
def arrOn (cfg : Nat) : Bool := bit cfg 0
def arrHigh (cfg : Nat) : Bool := bit cfg 1
def arrMics (cfg : Nat) : Nat := match fld cfg 5 2 with | 0 => 4 | 1 => 6 | _ => 8

/-- Samples of a frame, and the width of an output, on a path (R331, R334). -/
def frameLen (high : Bool) : Nat := if high then 480 else 160
def outBits (high : Bool) : Nat := if high then 24 else 16

/-- A list cut, or filled with zeros, to `n` samples. -/
def padTo (n : Nat) (xs : List Int) : List Int := (xs ++ List.replicate n 0).take n

/-- The last `n` of a list. -/
def lastN (n : Nat) (xs : List Int) : List Int := xs.drop (xs.length - n)

/-! ### Decimation (R329 to R331) -/

/-- The PDM clock of an array in kHz (R330). -/
def pdmKhz (cfg : Nat) : Nat := [1024, 1536, 2048, 3072, 4096].getD (fld cfg 2 3) 2048

/-- The order of the CIC of a path, and the ratio by which it decimates, to 64 kHz or to 384 kHz (R331). -/
def cicOrder (high : Bool) : Nat := if high then 5 else 4
def cicRatio (cfg : Nat) : Nat := if arrHigh cfg then pdmKhz cfg / 384 else pdmKhz cfg / 64

/-- The bits of a channel in a frame (R329): channel 2p of pin p follows the rising edges, channel 2p + 1 the falling ones. An undriven pin reads
0, by its pull-down (R462). -/
def pdmBits (cfg : Nat) (x : AudioIn) (ch : Nat) : List Bool :=
  let bs := match x.pins.find? (fun p => p.1 == ch / 2) with
    | some p => if ch % 2 = 0 then p.2.1 else p.2.2
    | none => []
  let n := 10 * pdmKhz cfg
  bs.take n ++ List.replicate (n - bs.length) false

/-- The integrators of a CIC take a value: each adds what the one before it has become. -/
def integrate : List Int → Int → List Int
  | [], _ => []
  | a :: r, v => (a + v) :: integrate r (a + v)

/-- The combs of a CIC take a value: each keeps it and passes its difference from the last. -/
def comb : List Int → Int → List Int × Int
  | [], v => ([], v)
  | z :: r, v =>
    let q := comb r (v - z)
    (v :: q.1, q.2)

/-- A CIC over a frame's bits, each +1 or -1: what its integrators and combs hold then, and its outputs (R331). -/
def cicRun (ratio : Nat) (held : List Int × List Int) (bits : List Bool) : (List Int × List Int) × List Int :=
  let r := (chunks ratio bits.length bits).foldl (fun (s : (List Int × List Int) × List Int) part =>
    let ints := part.foldl (fun is b => integrate is (if b then 1 else -1)) s.1.1
    let q := comb s.1.2 (ints.getLastD 0)
    ((ints, q.1), q.2 :: s.2)) (held, [])
  (r.1, r.2.reverse)

/-- A channel decimated: the wellhead with what its stages hold then, and its samples in 1/256 of the output's last place. -/
def decimated (cfg : Nat) (x : AudioIn) (ch : Nat) (fe : Fe) : Fe × List Int :=
  let zero := List.replicate (cicOrder (arrHigh cfg)) 0
  let q := cicRun (cicRatio cfg) (tabGet (zero, zero) fe.cic ch) (pdmBits cfg x ch)
  let r := Config.decimate (arrHigh cfg) (tabGet [] fe.dec ch) q.2
  ({ fe with cic := tabSet fe.cic ch q.1, dec := tabSet fe.dec ch r.1 }, padTo (frameLen (arrHigh cfg)) r.2)

/-! ### Channels and beams (R332, R333) -/

/-- A channel through the DC blocker and the left shift (R332): what the blocker holds, and the samples in 1/256 of the output's last place. -/
def channelIn (cfg : Nat) (held raw : List Int) : List Int × List Int :=
  let n := frameLen (arrHigh cfg)
  let r := if bit cfg 7 then Config.dcBlock (arrHigh cfg) held (padTo n raw) else ([], padTo n raw)
  (r.1, (padTo n r.2).map (fun v => v * ((2 ^ fld cfg 8 3 : Nat) : Int)))

/-- Samples in parts of `den` rounded to the output width (R69, R332), and how many saturated. -/
def toOutput (high : Bool) (den : Int) (xs : List Int) : List Int × Nat :=
  let r := xs.map (fun v => clampInt (outBits high) (roundInt v den))
  (r.map (·.1), (r.filter (·.2)).length)

/-- A channel at a delay of 8 + dl / 64 samples, in units of 2^-15 (R333); `line` begins 32 samples before the frame. -/
def delayed (line : List Int) (dl t : Nat) : Int :=
  ((List.range 16).map (fun j => Config.tap (dl % 64) j * line.getD (32 + t - dl / 64 - j) 0)).sum

/-- A beam of an array (R333): `regs` gives the register in force for each channel. -/
def beamOut (high : Bool) (regs : Nat → Nat) (lines : List (List Int)) : List Int × Nat :=
  let cs := (List.range lines.length).filter (fun c => fld (regs c) 16 16 != 0)
  toOutput high ((2 ^ 38 : Nat) : Int) ((List.range (frameLen high)).map (fun t =>
    (cs.map (fun c => signed 16 (fld (regs c) 16 16) * delayed (lines.getD c []) (fld (regs c) 0 10) t)).sum))

/-- The filters of an array restart from zero (R346). -/
def clearArray (a : Fin 4) (fe : Fe) : Fe :=
  { fe with dc := fe.dc.filter (fun p => p.1 / 8 != a.val), hist := fe.hist.filter (fun p => p.1 / 8 != a.val),
            cic := fe.cic.filter (fun p => p.1 / 8 != a.val), dec := fe.dec.filter (fun p => p.1 / 8 != a.val) }

/-- A frame of silence for the twelve outputs of an array. -/
def silence (high : Bool) : List (List Int × Nat) := List.replicate 12 (List.replicate (frameLen high) 0, 0)

/-- Is MUTE 1 at a time of the frame, in ns from its start (R344). -/
def muteTime (fe : Fe) (ns : Nat) : Bool := fe.mutes.foldl (fun m p => if p.1 ≤ ns then p.2 else m) fe.muteAt

/-- Is the whole frame muted, and is one of its `n` samples. -/
def allMuted (fe : Fe) : Bool := fe.muteAt && fe.mutes.all (·.2)
def anyMuted (fe : Fe) (n : Nat) : Bool :=
  if fe.mutes = [] then fe.muteAt else (List.range n).any (fun i => muteTime fe (i * 10000000 / n))

/-- Samples with those taken while MUTE is 1 at zero (R344). -/
def gate (fe : Fe) (xs : List Int) : List Int :=
  if fe.mutes = [] && !fe.muteAt then xs
  else (xs.zip (List.range xs.length)).map (fun p => if muteTime fe (p.2 * 10000000 / xs.length) then 0 else p.1)

/-- Samples with those before the last write of MUTE = 1 in the frame at zero: that write empties the ring (R344). -/
def sinceMute (fe : Fe) (xs : List Int) : List Int :=
  match (fe.mutes.filter (·.2)).getLast? with
  | none => xs
  | some m => (xs.zip (List.range xs.length)).map (fun p => if p.2 * 10000000 / xs.length < m.1 then 0 else p.1)

/-- The twelve outputs of an array in a frame, with the samples that saturated (R329, R332, R333). -/
def arrayFrame (x : AudioIn) (a : Fin 4) (fe : Fe) : Fe × List (List Int × Nat) :=
  let cfg := fe.arr[a]
  let high := arrHigh cfg
  if allMuted fe || !arrOn cfg then (clearArray a fe, silence high)
  else
    let ch := fun (i : Nat) => 8 * a.val + i
    let cs := List.range (arrMics cfg)
    let (fe, raws) := cs.foldl (fun (p : Fe × List (List Int)) i =>
      let r := decimated cfg x (ch i) p.1
      (r.1, p.2 ++ [gate p.1 r.2])) (fe, [])
    let ins := cs.map (fun i => channelIn cfg (tabGet [] fe.dc (ch i)) (raws.getD i []))
    let lines := cs.map (fun i => lastN (32 + frameLen high) (List.replicate 32 0 ++ tabGet [] fe.hist (ch i) ++ (ins.getD i ([], [])).2))
    let outs := ins.map (fun p => toOutput high 256 p.2)
    let beams := (List.range 4).map (fun b => beamOut high (fun i => tabGet 0 fe.beams (32 * a.val + 8 * b + i)) lines)
    let fe := cs.foldl (fun fe i => { fe with dc := tabSet fe.dc (ch i) (ins.getD i ([], [])).1, hist := tabSet fe.hist (ch i) (lastN 32 (lines.getD i [])) }) fe
    (fe, ((outs ++ silence high).take 8 ++ beams).map (fun p => (gate fe p.1, p.2)))

/-- The 48 outputs of a frame. -/
def frameOutputs (x : AudioIn) (fe : Fe) : Fe × List (List Int × Nat) :=
  (List.finRange 4).foldl (fun (p : Fe × List (List Int × Nat)) a =>
    let r := arrayFrame x a p.1
    (r.1, p.2 ++ r.2)) (fe, [])

/-! ### Frames (R334, R335) -/

/-- The array of an output. -/
def arrayOf (o : Nat) : Fin 4 := ⟨o / 12 % 4, Nat.mod_lt _ (by decide)⟩

/-- Is an output written: its array runs and its mask bit is set. -/
def selected (fe : Fe) (o : Nat) : Bool := arrOn fe.arr[arrayOf o] && bit fe.arr[arrayOf o] (11 + o % 12)

/-- The local address of the record of frame k of an output, and its bytes. -/
def frameAddr (high : Bool) (o k : Nat) : Nat := 0xF0040000000 + 0x10000 * o + (if high then 2048 * (k % 32) else 512 * (k % 128))

/-- The bytes of samples on a path. -/
def sampleBytes (high : Bool) (xs : List Int) : List Byte :=
  xs.flatMap (fun v => if high then leBytes 4 (unsigned 32 v) else leBytes 2 (unsigned 16 v))

/-- A record header (R334): the flags of word 0, the frame number and TIME. -/
def frameHead (w0 k time : Nat) : List Byte := leBytes 4 w0 ++ leBytes 4 k ++ leBytes 8 time ++ List.replicate 48 0

/-- The gPTP time of the first sample of the frame in hand (R334): while the audio clock is locked the frames lie on the gPTP timeline, and
otherwise the start is reckoned back from the present gPTP time. -/
def frameTime (d : Dev) : Nat :=
  if d.fe.lockAt then d.fe.start else ((d.chip.gptpNs : Int) + d.fe.startUp - (d.chip.upNs : Int)).toNat

/-- An output's frame is written, or marked as a gap outside ACTIVE and IDLE (R345). -/
def writeFrame (o : Nat) (x : List Int × Nat) (d : Dev) : Dev :=
  if !selected d.fe o then d
  else if 1 < modeOf d.chip then modFe (fun fe => { fe with gaps := insertNat o fe.gaps }) d
  else
    let high := arrHigh d.fe.arr[arrayOf o]
    let gap := d.fe.gaps.contains o
    let w0 := o + 0x40 + b2n (anyMuted d.fe (frameLen high)) * 0x80 + b2n (!d.fe.lockAt) * 0x100 + b2n (x.2 != 0) * 0x200 + b2n gap * 0x400 +
      b2n high * 0x800
    let c := putMem d.chip (sys d.chip (frameAddr high o d.fe.k)) (frameHead w0 d.fe.k (frameTime d) ++ sampleBytes high x.1)
    { d with chip := if gap then bump c (rFeCtr 8) else c, fe := { d.fe with gaps := d.fe.gaps.filter (· != o) } }

/-! ### The pre-wake ring (R342) -/

/-- The step table of IMA ADPCM. -/
def imaSteps : List Nat := [
  7, 8, 9, 10, 11, 12, 13, 14, 16, 17, 19, 21, 23, 25, 28, 31, 34, 37, 41, 45, 50, 55, 60, 66, 73, 80, 88, 97, 107, 118, 130, 143, 157,
  173, 190, 209, 230, 253, 279, 307, 337, 371, 408, 449, 494, 544, 598, 658, 724, 796, 876, 963, 1060, 1166, 1282, 1411, 1552, 1707, 1878,
  2066, 2272, 2499, 2749, 3024, 3327, 3660, 4026, 4428, 4871, 5358, 5894, 6484, 7132, 7845, 8630, 9493, 10442, 11487, 12635, 13899, 15289,
  16818, 18500, 20350, 22385, 24623, 27086, 29794, 32767]

/-- The predictor and the step index after a code. -/
def imaNext (p : Int × Nat) (code : Nat) : Int × Nat :=
  let st := imaSteps.getD p.2 32767
  let diff := st / 8 + (if bit code 2 then st else 0) + (if bit code 1 then st / 2 else 0) + (if bit code 0 then st / 4 else 0)
  let v := if bit code 3 then p.1 - (diff : Int) else p.1 + (diff : Int)
  let up := match code % 8 with | 4 => 2 | 5 => 4 | 6 => 6 | 7 => 8 | _ => 0
  ((clampInt 16 v).1, if code % 8 < 4 then p.2 - 1 else min 88 (p.2 + up))

/-- The code of a sample. -/
def imaCode (p : Int × Nat) (s : Int) : Nat :=
  let st := imaSteps.getD p.2 32767
  let x := (s - p.1).natAbs
  let b2 := decide (st ≤ x)
  let x := if b2 then x - st else x
  let b1 := decide (st / 2 ≤ x)
  let x := if b1 then x - st / 2 else x
  b2n (decide (s < p.1)) * 8 + b2n b2 * 4 + b2n b1 * 2 + b2n (decide (st / 4 ≤ x))

/-- The codes of samples, and the step index after them. -/
def imaEncode : Int × Nat → List Int → List Nat × Nat
  | p, [] => ([], p.2)
  | p, s :: r =>
    let code := imaCode p s
    let q := imaEncode (imaNext p code) r
    (code :: q.1, q.2)

/-- The samples of codes. -/
def imaDecode : Int × Nat → List Nat → List Int
  | _, [] => []
  | p, code :: r => (imaNext p code).1 :: imaDecode (imaNext p code) r

/-- Pairs of codes as bytes, the first in the low half. -/
def packNibbles : List Nat → List Byte
  | [] => []
  | [x] => [BitVec.ofNat 8 x]
  | x :: y :: r => BitVec.ofNat 8 (x + 16 * y) :: packNibbles r

/-- The 132 bytes of a channel of a block, from 256 samples and the step index; and the index after it. -/
def adpcmBlock (idx : Nat) (xs : List Int) : List Byte × Nat :=
  let xs := (padTo 256 xs).map (fun v => (clampInt 16 v).1)
  let s := xs.headD 0
  let r := imaEncode (s, idx) xs.tail
  (leBytes 4 (unsigned 16 s + idx * 65536) ++ packNibbles r.1, r.2)

/-- The 256 samples of a channel of a block. -/
def adpcmSamples (bs : List Byte) : List Int :=
  let h := leNat (bs.take 4)
  let codes := ((bs.drop 4).flatMap (fun v => [v.toNat % 16, v.toNat / 16])).take 255
  signed 16 h :: imaDecode (signed 16 h, min 88 (fld h 16 7)) codes

/-- The number of ring channels, and of the blocks that the ring holds. -/
def ringN (c : Chip) : Nat := getF c rRingCfg 1 5 + 1
def ringCap (c : Chip) : Nat := 2097152 / (132 * ringN c)

/-- The first sample that the ring holds, and the first after what it holds; none when it is empty. -/
def ringLow (fe : Fe) : Option Nat := (fe.ring.getLast?).map (·.start)
def ringHigh (fe : Fe) : Option Nat := (fe.ring.head?).map (fun b => b.start + 256)

/-- Are all samples of the frames from f on, `n` of them, in the ring. -/
def ringHolds (fe : Fe) (f n : Nat) : Bool :=
  match ringLow fe, ringHigh fe with
  | some lo, some hi => decide (lo ≤ 160 * f ∧ 160 * (f + n) ≤ hi)
  | _, _ => false

/-- `n` samples of a ring channel from sample `lo` on; what the ring does not hold is 0. -/
def ringAudio (fe : Fe) (ch lo n : Nat) : List Int :=
  let bs := (fe.ring.filter (fun b => decide (lo < b.start + 256 ∧ b.start < lo + n))).reverse
  match bs with
  | [] => List.replicate n 0
  | b :: _ => padTo n (List.replicate (b.start - lo) 0 ++ ((bs.flatMap (fun b => adpcmSamples (b.chans.getD ch []))).drop (lo - b.start)))

/-- The ring is empty, and records from the present frame on. -/
def emptyRing (fe : Fe) : Fe := { fe with ring := [], ringBuf := [], ringPos := 160 * fe.k, steps := [] }

/-- A frame number as software writes it, as the wellhead counts: the last one before the present with these 32 bits. -/
def frameNo (fe : Fe) (f : Nat) : Nat := fe.k - (fe.k + 2 ^ 32 - f % 2 ^ 32) % 2 ^ 32

/-- FE_RING_STATUS.OLDEST. -/
def ringOldest (fe : Fe) : Nat := match ringLow fe with | some lo => ceilDiv lo 160 % 2 ^ 32 | none => 0

/-- Does an output lie on the high-quality path, by the settings of its array in force (R331, R346). -/
def highOut (fe : Fe) (o : Nat) : Bool := decide (o < 48) && arrHigh fe.arr[arrayOf o]

/-- The output that a ring channel records (R342). -/
def ringSrc (c : Chip) (i : Nat) : Nat := getF c (rRingSrc (i / 4)) (8 * (i % 4)) 6

/-- The samples of a frame reach the ring channels of its low-power outputs; any other output gives zeros. -/
def ringTake (outs : List (List Int × Nat)) (d : Dev) : Dev :=
  if !bit (getReg d.chip rRingCfg) 0 then d
  else
    modFe (fun fe => { fe with ringBuf := (List.range (ringN d.chip)).foldl (fun t i =>
      let o := ringSrc d.chip i
      tabSet t i (tabGet [] t i ++ padTo 160 (if highOut fe o then [] else sinceMute fe (outs.getD o ([], 0)).1))) fe.ringBuf }) d

/-- A ring block of 256 samples of every ring channel is coded and stored, once they are there; the block being recorded takes the place of the
oldest one, so that B - 1 are retained. A pending stage 3 whose frame P has left is dropped (R340, R342). -/
def ringBlock (d : Dev) : Dev :=
  if !feOn d.chip || !bit (getReg d.chip rRingCfg) 0 || decide ((tabGet [] d.fe.ringBuf 0).length < 256) then d
  else
    let n := ringN d.chip
    let enc := (List.range n).map (fun i => adpcmBlock (tabGet 0 d.fe.steps i) ((tabGet [] d.fe.ringBuf i).take 256))
    let blk : RingBlk := { start := d.fe.ringPos, chans := enc.map (·.1) }
    let steps := (List.range n).foldl (fun t i => tabSet t i (enc.getD i ([], 0)).2) d.fe.steps
    let buf := (List.range n).foldl (fun t i => tabSet t i ((tabGet [] d.fe.ringBuf i).drop 256)) d.fe.ringBuf
    let d := modFe (fun fe => { fe with ring := (blk :: fe.ring).take (ringCap d.chip - 1), ringPos := fe.ringPos + 256, steps := steps, ringBuf := buf }) d
    match ringLow d.fe with
    | some lo => if stageOf d.chip = 3 ∧ 160 * d.fe.wake.p < lo then d.chipDo (fun c => bump (putStage 0 c) (rFeCtr 6)) else d
    | none => d

/-- RING_BLOCK. -/
def execRingBlock (_ : Unit) (s : State) : Host.Outcome State Fault Refusal := onDev ringBlock s

/-- A change of the ring's settings: the ring is empty, and a stage 2 or 3 in progress is dropped (R342, R346). -/
def ringReset (d : Dev) : Dev :=
  let d := modFe emptyRing d
  if 2 ≤ stageOf d.chip then d.chipDo (fun c => bump (putStage 0 c) (rFeCtr 6)) else d

/-- A write of FE_RING_CFG (j = 0) or FE_RING_SRC_(j-1) (R342). -/
def wRing (j v : Nat) (d : Dev) : Nat × Dev :=
  if j = 0 then (0, ringReset (d.chipDo (fun c => storeReg c rRingCfg v)))
  else if (List.range 4).any (fun i => highOut d.fe (fld v (8 * i) 6)) then (eFeConfig, d)
  else (0, ringReset (d.chipDo (fun c => storeReg c (rRingSrc (j - 1)) v)))

/-- RING_CONFIG_WRITE. -/
def execRingConfigWrite (m : Master) (j : Fin 9) (v : BitVec 32) (s : State) : Host.Outcome State Fault Refusal :=
  onDev (devWrite m 0x26 (wRing j.val v.toNat)) s

/-! ### Fetches (R343) -/

/-- Bytes that the hub or the wellhead writes at a system address: into memory of the package, or over the fabric (R237, R322). -/
def hubStore (unit a : Nat) (bs : List Byte) : Eff Unit := do
  checkPlace unit a bs.length
  let c ← get
  if pkgOf a = pkg c then writeMem a bs
  else
    match reach (pkgOf a) c with
    | (none, c) => do
      set c
      stopWith eFabFenced unit a
    | (some l, c) => set ((pieces 256 a bs.length).foldl (fun c p => (sendWrite l p.1 ((bs.drop (p.1 - a)).take p.2) 0x30 .hub c).2) c)

/-- The bytes of frames of a ring channel. -/
def fetchBytes (fe : Fe) (ch f n : Nat) : List Byte := sampleBytes false (ringAudio fe ch (160 * f) (160 * n))

/-- A fetch (R343). -/
def fetch (first dst ch n : Nat) (d : Dev) : Dev :=
  let f := frameNo d.fe first
  if n = 0 ∨ dst % 64 ≠ 0 ∨ ringN d.chip ≤ ch ∨ bit (getReg d.chip rFeMute) 1 ∨ !ringHolds d.fe f n then d.chipDo (feReport eFeFetch first)
  else
    match runEff (hubStore 0 dst (fetchBytes d.fe ch f n)) d.chip with
    | (c, .ok _) => { d with chip := c }
    | (c, .error e) => { d with chip := report { code := e.code, sev := sevOf e.code, src := 0x26, addr := e.addr } c }

/-- A write of the FE_FETCH control word. Fetches are possible in ACTIVE and IDLE; elsewhere GO does nothing (log entry 104). -/
def wFetch (v : Nat) (d : Dev) : Nat × Dev :=
  let d := d.chipDo (fun c => storeReg c (rFetch + 8) v)
  if bit v 30 && decide (modeOf d.chip ≤ 1) then (0, fetch (getReg d.chip rFetch) (getReg d.chip (rFetch + 4) + fld v 0 16 * 2 ^ 32) (fld v 16 5) (fld v 21 9) d)
  else (0, d)

/-- FE_FETCH. -/
def execFeFetch (m : Master) (v : BitVec 32) (s : State) : Host.Outcome State Fault Refusal := onDev (devWrite m 0x26 (wFetch v.toNat)) s

/-! ### The keyword network (R339) -/

/-- A layer of a keyword image. -/
structure Layer where
  kind : Nat
  taps : Nat
  relu : Bool
  ins : Nat
  outs : Nat
  mult : Nat
  shift : Nat
  wOff : Nat
  bOff : Nat
  reserved : Bool

/-- Layer j of an image. -/
def netLayer (img : List Byte) (j : Nat) : Layer :=
  let n := fun (o k : Nat) => numAt img (64 + 32 * j + o) k
  { kind := fld (n 0 2) 0 1, taps := fld (n 0 2) 1 4, relu := bit (n 0 2) 5, ins := fld (n 2 2) 0 9, outs := fld (n 4 2) 0 9, mult := n 8 4,
    shift := fld (n 12 4) 0 6, wOff := n 16 4, bOff := n 20 4,
    reserved := fld (n 0 2) 6 10 != 0 || fld (n 2 2) 9 7 != 0 || fld (n 4 4) 9 23 != 0 || fld (n 12 4) 6 26 != 0 || n 24 8 != 0 }

/-- The taps that a layer reads. -/
def Layer.depth (l : Layer) : Nat := max l.taps 1

/-- Does a layer pass the checks of R339. -/
def Layer.ok (l : Layer) (len : Nat) : Bool :=
  !l.reserved && (if l.kind = 1 then decide (1 ≤ l.taps) else l.taps == 0) && decide (1 ≤ l.ins ∧ l.ins ≤ 256 ∧ 1 ≤ l.outs ∧ l.outs ≤ 256) &&
  decide (l.wOff + l.outs * l.ins * l.depth ≤ len ∧ l.bOff + 4 * l.outs ≤ len)

/-- Does an image pass the checks of R339; `img` holds its LEN bytes. -/
def imageOk (img : List Byte) : Bool :=
  let len := numAt img 8 4
  let n := fld (numAt img 4 4) 0 4
  let ls := (List.range n).map (netLayer img)
  numAt img 0 4 == 0x4B570001 && fld (numAt img 4 4) 4 28 == 0 && decide (1 ≤ n ∧ n ≤ 8) && len % 64 == 0 && decide (64 + 32 * n ≤ len ∧ len ≤ 65536) &&
  ((img.drop 16).take 48).all (· == 0) && numAt img 12 4 == crc32c ((img.drop 64).take (len - 64)) && ls.all (fun l => l.ok len) &&
  ((ls.head?.map (·.ins)).getD 0 == 40) && ((ls.getLast?.map (·.outs)).getD 0 == 1) &&
  ((ls.zip ls.tail).all (fun p => p.2.ins == p.1.outs))

/-- One output of a layer: exact products and bias, rescaled to INT8 by R76, then ReLU. `xs` are the inputs, those of the present first. -/
def layerOut (img : List Byte) (l : Layer) (xs : List (List Int)) (o : Nat) : Int :=
  let w := fun (i t : Nat) => signed 8 (numAt img (l.wOff + (o * l.ins + i) * l.depth + t) 1)
  let acc := ((List.range l.ins).map (fun i => ((List.range l.depth).map (fun t => w i t * (xs.getD t []).getD i 0)).sum)).sum +
    signed 32 (numAt img (l.bOff + 4 * o) 4)
  let acc := if -2147483648 ≤ acc ∧ acc ≤ 2147483647 then acc else Config.overflow32 acc
  let y := (clampInt 8 (rescaleInt { mult := signed 32 l.mult, shift := l.shift } none acc)).1
  if l.relu ∧ y < 0 then 0 else y

/-- The network on the features of a frame: what the layers remember of earlier frames, and the last layer's outputs. -/
def network (img : List Byte) : List Layer → List (List (List Int)) → List Int → List (List (List Int)) × List Int
  | [], _, x => ([], x)
  | l :: ls, mem, x =>
    let xs := (x :: mem.headD []).take l.depth
    let r := network img ls mem.tail ((List.range l.outs).map (layerOut img l xs))
    (xs :: r.1, r.2)

/-- The load of an image is under way, or has ended (R347: BUSY). -/
def setImageLoad (x : Option Nat) (d : Dev) : Dev :=
  modFe (fun fe => { fe with loading := x }) (d.chipDo (fun c => putF c (rDsp + 4) 17 1 (b2n x.isSome)))

/-- An image at a system address is read, checked and put in force (R339). One in another package is waited for. -/
def loadImage (a : Nat) (d : Dev) : Dev :=
  let rd := do
    stopIf (a % 64 != 0) eFeImage 0 a
    let h ← readAny 0 a 64
    let len := numAt h 8 4
    stopIf (len < 64 || 65536 < len) eFeImage 0 a
    readAny 0 a len
  match runHub 0x30 (.unit 1) rd d.chip with
  | (c, .waits) => setImageLoad (some a) { d with chip := c }
  | (c, .stops e) => setImageLoad none { d with chip := report { code := e.code, sev := sevOf e.code, src := 0x26, addr := e.addr } c }
  | (c, .done img) =>
    if imageOk img then setImageLoad none { d with chip := putF c (rDsp + 4) 18 1 1, fe := { d.fe with image := img } }
    else setImageLoad none { d with chip := feReport eFeImage 0 c }

/-- A load that waits goes on with the answers that have come. -/
def imageGoesOn (d : Dev) : Dev := match d.fe.loading with | some a => loadImage a d | none => d

/-- A write of the FE_DSP control word. LOAD does nothing while a load is under way (log entry 104). -/
def wDsp (v : Nat) (d : Dev) : Nat × Dev :=
  let d := d.chipDo (fun c => storeReg c (rDsp + 4) v)
  (0, if bit v 16 && d.fe.loading.isNone then loadImage (getReg d.chip rDsp + getF d.chip (rDsp + 4) 0 16 * 2 ^ 32) d else d)

/-- FE_DSP_LOAD. -/
def execFeDspLoad (m : Master) (v : BitVec 32) (s : State) : Host.Outcome State Fault Refusal := onDev (devWrite m 0x26 (wDsp v.toNat)) s

/-! ### Stage 1 (R337) -/

/-- E of a frame's samples: the mean square relative to full scale, in 0.5 dB units above -96 dB, rounded by R69 and at least 0. -/
def level (xs : List Int) : Nat :=
  let s := (xs.map (fun v => v.natAbs * v.natAbs)).sum
  let full := xs.length * 2 ^ 30
  ((List.range 192).filter (fun i => decide (full ^ 40 ≤ s ^ 40 * 10 ^ (2 * (192 - (i + 1)) + 1)))).length

/-- The noise floor follows a level (R337): none before the first frame; and the frames since it last moved. -/
def noiseStep (w : Wake) (e : Nat) : Wake :=
  match w.noise with
  | none => { w with noise := some e, rise := 0 }
  | some n =>
    if e < n then { w with noise := some e, rise := 0 }
    else if w.rise + 1 = 8 then { w with noise := some (n + 1), rise := 0 }
    else { w with rise := w.rise + 1 }

/-- An onset: it is counted, and stage 2 is switched on where it may be (R337, R341), with the settings in force (R347). -/
def onset (d : Dev) : Dev :=
  let c := d.chip
  let hold := max 1 (getF c rWakeCfg 13 4)
  let f0 := d.fe.k + 1 - hold
  let d := modWake (fun w => { w with run := 0 }) (d.chipDo (fun c => bump c (rFeCtr 0)))
  if bit (getReg c rWakeStatus) 3 || !bit (getReg c rWakeCfg) 25 then d
  else if !bit (getReg c rRingCfg) 0 then d.chipDo (fun c => bump c (rFeCtr 6))
  else
    let p := f0 - getF c rWakeCfg 17 8
    modWake (fun w => { w with f0 := f0, p := p, cfg := getReg c rWakeCfg, cfg2 := getReg c rWakeCfg2, vItem := getReg c rVItem, vPcm := getReg c rVPcm, vVerdict := getReg c rVVerdict, image := d.fe.image, next := p, memory := [] })
      (d.chipDo (putStage 2))

/-- Stage 1 on the samples of its output. While a later stage runs, the noise floor is held and no onset is raised. A frame that it does not watch
ends the run of frames. -/
def stage1 (outs : List (List Int × Nat)) (d : Dev) : Dev :=
  let o := getF d.chip rWakeCfg 1 6
  if !bit (getReg d.chip rWakeCfg) 0 then modWake (fun w => { w with run := 0 }) d
  else if 2 ≤ stageOf d.chip || 48 ≤ o || arrHigh d.fe.arr[arrayOf o] then d
  else
    let e := level (outs.getD o ([], 0)).1
    let d := modWake (fun w => noiseStep w e) d
    let n := d.fe.wake.noise.getD e
    let d := modWake (fun w => { w with run := if n + getF d.chip rWakeCfg 7 6 ≤ e then w.run + 1 else 0 }) d
    if max 1 (getF d.chip rWakeCfg 13 4) ≤ d.fe.wake.run then onset d else d

/-! ### Stage 2 (R338) -/

/-- Stage 2 passes (R338, R340). -/
def stage2Pass (d : Dev) : Dev :=
  let cfg := d.fe.wake.cfg
  d.chipDo (fun c =>
    let c := putStage (if bit cfg 26 then 3 else 0) (bump c (rFeCtr 1))
    if modeOf c = 0 then c
    else if bit cfg 27 then { c with power := { c.power with wakePend := true } }
    else setStatus 4 c)

/-- The 40 INT8 features of a frame (R338). -/
def features (samples : List Int) : List Int := (List.range 40).map (fun i => (clampInt 8 (Config.feature samples i)).1)

/-- Stage 2 goes through the frames that the ring holds, at most `n` of them. -/
def stage2 : Nat → Dev → Dev
  | 0, d => d
  | n + 1, d =>
    let w := d.fe.wake
    let there := match ringHigh d.fe with | some hi => decide (160 * (w.next + 1) ≤ hi) | none => false
    if stageOf d.chip ≠ 2 || !there then d
    else
      let layers := (List.range (fld (numAt w.image 4 4) 0 4)).map (netLayer w.image)
      let r := network w.image layers w.memory (features (ringAudio d.fe 0 (160 * (w.next + 1) - 512) 512))
      let d := modWake (fun w => { w with next := w.next + 1, memory := r.1 }) d
      if w.image ≠ [] ∧ (fld w.cfg2 9 7 : Int) ≤ r.2.headD 0 then stage2Pass d
      else if w.f0 + fld w.cfg2 0 9 ≤ w.next + 1 then d.chipDo (fun c => bump (putStage 0 c) (rFeCtr 2))
      else stage2 n d

/-! ### A frame of audio -/

/-- The next frame begins: its start, and the lock and the mute as they are then (R334, R335, R344). -/
def nextFrame (d : Dev) : Dev :=
  let t := frameTime d + 10000000
  modFe (fun fe => { fe with k := fe.k + 1, start := t, startUp := (d.chip.upNs : Int) + (t : Int) - (d.chip.gptpNs : Int),
                             lockAt := bit (getReg d.chip rWakeStatus) 4, muteAt := muted d.chip, mutes := [] }) d

/-- FE_FRAME (R332 to R338): the frame of each output, then the wake stages; and the next frame begins. -/
def feFrame (x : AudioIn) (d : Dev) : Dev :=
  if !feOn d.chip then d
  else
    let d := imageGoesOn d
    let r := frameOutputs x d.fe
    let clips := (r.2.map (·.2)).sum
    let d : Dev := { d with fe := r.1, chip := bump d.chip (rFeCtr 7) clips }
    let d := (List.range 48).foldl (fun d o => writeFrame o (r.2.getD o ([], 0)) d) d
    nextFrame (stage1 r.2 (stage2 400 (ringTake r.2 d)))

/-- FE_FRAME. -/
def execFeFrame (x : AudioIn) (s : State) : Host.Outcome State Fault Refusal := onDev (feFrame x) s

/-! ### Stage 3 (R340, R341) -/

/-- The verifying basin of the phrase in hand, and the frames that it takes. -/
def vBasin (w : Wake) : Fin 32 := ⟨fld w.cfg2 16 5 % 32, Nat.mod_lt _ (by decide)⟩
def vLen (w : Wake) : Nat := fld w.vPcm 23 9

/-- A stage 3 that fails, with FE_VERIFY. -/
def verifyFail (arg : Nat) (c : Chip) : Chip := feReport eFeVerify arg (putStage 0 c)

/-- The item that stage 3 posts: the template, its STEP_TAG the next tick's, and its done word 0. -/
def stage3Item (w : Wake) (pcm : List Byte) : Eff (List Nat × Nat) := do
  let c ← get
  let base := sram c (vBasin w) 0
  writeAny 0 (base + fld w.vPcm 0 23) pcm
  let ws ← do
    let _ ← checkPlace 0 (base + fld w.vItem 0 23) 64
    readWords 0 (base + fld w.vItem 0 23) 8
  let done := fld (ws.getD 3 0) 0 48
  stopIf (done < base || base + 0x600000 < done + 4) eFeVerify 0 done
  rmw 0 done (leBytes 4 0)
  pure (ws.set 1 (setFld (ws.getD 1 0) 0 32 (tickOf c + 1)), done)

/-- Stage 3 is posted once its conditions hold. -/
def stage3Post (d : Dev) : Dev :=
  let w := d.fe.wake
  if stageOf d.chip ≠ 3 || modeOf d.chip != 0 || !enabled d.chip (vBasin w) || !ringHolds d.fe w.p (vLen w) || !ticking d.chip then d
  else
    match runEff (stage3Item w (fetchBytes d.fe 0 w.p (vLen w))) d.chip with
    | (c, .error e) => { d with chip := verifyFail e.code c }
    | (c, .ok (ws, done)) =>
      let r := postItems (vBasin w) true [ws] c
      if r.1 ≠ 0 then { d with chip := verifyFail r.1 r.2 }
      else modWake (fun w => { w with done := done }) { d with chip := putStage 4 r.2 }

/-- STAGE3_POST. -/
def execStage3Post (s : State) : Host.Outcome State Fault Refusal := onDev stage3Post s

/-- The verdict is taken (R340, R341). -/
def takeVerdict (w : Wake) (v : Nat) (c : Chip) : Chip :=
  if v = 1 then setStatus 4 (putReg (putF (bump (putStage 0 c) (rFeCtr 3)) rWakeStatus 3 1 1) rWakeFrame w.p)
  else if v = 0 then bump (putStage 0 c) (rFeCtr 4)
  else verifyFail v c

/-- The done word is read, and when it is set the verdict. -/
def stage3Poll (w : Wake) (c : Chip) : Chip :=
  if stageOf c ≠ 4 then c
  else
    match runEff (readAny 0 w.done 4) c with
    | (c, .error e) => verifyFail e.code c
    | (c, .ok bs) =>
      if leNat bs = 0 then c
      else
        match runEff (readAny 0 (sram c (vBasin w) (fld w.vVerdict 0 23)) 4) c with
        | (c, .error e) => verifyFail e.code c
        | (c, .ok bs) => takeVerdict w (leNat bs) c

/-- STAGE3_POLL. -/
def execStage3Poll (s : State) : Host.Outcome State Fault Refusal := onChip (stage3Poll s.fe.wake) s

/-- V_LIMIT passes with the done word still 0. -/
def stage3Timeout (w : Wake) (c : Chip) : Chip :=
  if stageOf c = 4 ∧ leNat (memReadN c.mem w.done 4) = 0 then bump (putStage 0 c) (rFeCtr 4) else c

/-- STAGE3_TIMEOUT. -/
def execStage3Timeout (s : State) : Host.Outcome State Fault Refusal := onChip (stage3Timeout s.fe.wake) s

/-! ### The mute (R344) -/

/-- The settings of stage 3 in force: those latched at the last onset, or before one the registers (R347). -/
def inForce (c : Chip) (w : Wake) : Wake := if vLen w = 0 then { w with cfg2 := getReg c rWakeCfg2, vPcm := getReg c rVPcm } else w

/-- Audio that the wellhead left in memory reads 0: the frame area, and V_PCM for V_LEN frames. -/
def clearAudio (w : Wake) (c : Chip) : Chip :=
  let w := inForce c w
  let c := if hubOn c then zeroRange (sys c 0xF0040000000) (sys c 0xF0040300000) c else c
  if modeOf c = 0 ∧ vLen w ≠ 0 then
    let a := sram c (vBasin w) (fld w.vPcm 0 23)
    zeroRange a (min (a + 320 * vLen w) (sram c (vBasin w) 0x600000)) c
  else c

/-- A write of FE_MUTE. -/
def wMute (v : Nat) (d : Dev) : Nat × Dev :=
  let was := muted d.chip
  let ns := ((d.chip.upNs : Int) - d.fe.startUp).toNat
  let d := modFe (fun fe => { fe with mutes := if was = bit v 0 then fe.mutes else fe.mutes ++ [(ns, bit v 0)] })
    (d.chipDo (fun c => putF c rFeMute 0 1 v))
  if bit v 0 then
    let d := d.chipDo (fun c => putF (putStage 0 (clearAudio d.fe.wake c)) rFeMute 1 1 1)
    (0, modFe emptyRing d)
  else (0, if was then modFe emptyRing d else d)

/-- MUTE. -/
def execMute (m : Master) (v : BitVec 32) (s : State) : Host.Outcome State Fault Refusal := onDev (devWrite m 0x26 (wMute v.toNat)) s

/-- The clearing ends: CLEARING falls, and the ring is empty. -/
def muteCleared (d : Dev) : Dev :=
  if bit (getReg d.chip rFeMute) 1 then modFe emptyRing (d.chipDo (fun c => putF c rFeMute 1 1 0)) else d

/-- MUTE_CLEAR_DONE. -/
def execMuteClearDone (s : State) : Host.Outcome State Fault Refusal := onDev muteCleared s

/-! ### Array settings and the clock (R330, R335, R346) -/

/-- An array setting that is refused (R330). -/
def arrayBad (v : Nat) : Bool :=
  decide (5 ≤ fld v 2 3) || fld v 5 2 == 3 || (bit v 1 && fld v 2 3 != 1 && fld v 2 3 != 3)

/-- A write of FE_ARRAY_a: it waits for the array's next frame boundary. -/
def wFeArray (a v : Nat) (d : Dev) : Nat × Dev :=
  if arrayBad v then (eFeConfig, d)
  else (0, modFe (fun fe => { fe with waiting := insertNat a fe.waiting }) (d.chipDo (fun c => storeReg c (rFeArray a) v)))

/-- A write of FE_BEAM register i, of array i / 32. -/
def wFeBeam (i v : Nat) (d : Dev) : Nat × Dev :=
  (0, modFe (fun fe => { fe with waiting := insertNat (i / 32) fe.waiting }) (d.chipDo (fun c => storeReg c (rFeBeam i) v)))

/-- The settings of an array apply: its filters restart, and its outputs' next frames carry GAP (R346). -/
def feApply (a : Fin 4) (d : Dev) : Dev :=
  if !feOn d.chip || !d.fe.waiting.contains a.val then d
  else
    modFe (fun fe =>
      let fe := clearArray a fe
      let beams := (span (32 * a.val) 32).foldl (fun t i => tabSet t i (getReg d.chip (rFeBeam i))) fe.beams
      { fe with arr := fe.arr.set a.val (getReg d.chip (rFeArray a.val)) a.isLt, beams := beams, waiting := fe.waiting.filter (· != a.val), gaps := (span (12 * a.val) 12).foldl (fun l o => insertNat o l) fe.gaps }) d

/-- FE_ARRAY_APPLY. -/
def execFeArrayApply (a : Fin 4) (s : State) : Host.Outcome State Fault Refusal := onDev (feApply a) s

/-- The audio PLL reaches its targets (R335): the frame that begins lies at the nearest multiple of 10 ms of gPTP time. -/
def feLock (d : Dev) : Dev :=
  if !hubOn d.chip || !locked d.chip || bit (getReg d.chip rWakeStatus) 4 then d
  else
    let n := roundDiv d.chip.gptpNs 10000000
    let c := putF (putF d.chip rWakeStatus 4 1 1) rWakeStatus 5 1 1
    { d with chip := putReg c rFeOfs (unsigned 32 ((d.fe.k : Int) - (n : Int))), fe := { d.fe with start := n * 10000000, lockAt := true } }

/-- FE_PLL_LOCK. -/
def execFePllLock (s : State) : Host.Outcome State Fault Refusal := onDev feLock s

/-- Lock is lost, or the package leaves the modes in which the PLL follows gPTP time (R335). -/
def feUnlock (c : Chip) : Chip := putF (putF c rWakeStatus 4 1 0) rWakeStatus 5 1 0

/-- ACTIVE is left (R345, R400): a stage 3 is cancelled, and pending again. -/
def feLeave (c : Chip) : Chip := if 3 ≤ stageOf c then bump (putStage 3 c) (rFeCtr 5) else c

/-- VDD_FE comes up (R335): the first frame takes its number from the island's count. Numbers are kept above 2^32, so that a frame before the
first one has one too. -/
def feUp (d : Dev) : Dev :=
  modFe (fun fe => emptyRing { fe with k := 2 ^ 32 + d.chip.aonNs / 10000000 % 2 ^ 32, start := d.chip.gptpNs, startUp := d.chip.upNs, lockAt := false, muteAt := muted d.chip, mutes := [] }) d

/-- FE_WAKE_STATUS as it reads (R347). -/
def wakeStatus (c : Chip) : Nat :=
  let v := getReg c rWakeStatus
  if stageOf c = 0 then v + b2n (getF c rWakeCfg 0 1 == 1) else v

end Sys2Proof.Machine
end

