-- ==== Sys2Proof/Machine/Net.lean ====
section
/-! DEFINITION. The host ports (R349 to R370): gPTP time, listener and talker streams, results, WDATA and its answers, and the links. -/

namespace Sys2Proof.Machine

/-- The registers of the ports (R369). -/
def rNetCfg : Nat := 0x31000
def rUdp : Nat := 0x31004
def rHostIp : Nat := 0x3100C
def rWwin : Nat := 0x31010
def rResHead : Nat := 0x31020
def rResTail : Nat := 0x31024
def rPort (p : Nat) : Nat := 0x31028 + 4 * p
def rGptp : Nat := 0x31030
/-- Network counters (R369): 0 AVTP_BAD, 1 AVTP_LATE, 2 AVTP_EARLY, 3 AVTP_LOSS, 4 TLK_UNDERRUN, 5 RES_DROP, 6 WDROP, 7 CTRL_DUP, 8 QCI_DROP,
9 CB_ELIM. -/
def rNetCtr (k : Nat) : Nat := 0x31100 + 4 * k

/-- The host ports changed. -/
def modNet (f : Net → Net) (d : Dev) : Dev := { d with net := f d.net }

/-! ### Frames received (R349, R350, R393)

What IEEE 802.1Qci, 802.1CB and the bandwidth profile of its flow meters leave to those standards is PRESUMED from them (log entry 153). -/

/-- The VID of a frame; 0 where it has no tag. -/
def vidOf (f : EthFrame) : Nat := match f.tags with | t :: _ => t.2.toNat | [] => 0

/-- The MAC address of a port. -/
def portMac (m : Net) (p : Fin 2) : Nat := if p = 0 then m.macA else m.macB

/-- Is a frame one that a port supports and that is for this package: at most one tag, at most 9,216 bytes, a group address or the port's own. -/
def frameOk (m : Net) (f : EthFrame) : Bool :=
  decide (f.tags.length ≤ 1) && decide (f.bytes ≤ 9216) && (f.dst.getLsbD 40 || f.dst.toNat == portMac m f.port)

/-- Is a stream gate of a port open at the time of the package. One that is not VALID is. -/
def gateOpen (c : Chip) (p g : Nat) : Bool :=
  let a := tsnBase p + 0x2000 + 128 * g
  !bit (getReg c a) 4 ||
    gateFor c p c.gptpNs 0 ((List.range (getF c a 0 4)).map (fun i => (bit (getReg c (a + 8 + 8 * i)) 0, getReg c (a + 12 + 8 * i))))

/-- The colours of a bandwidth profile. -/
inductive Colour where
  | green | yellow | red
  deriving DecidableEq, Repr

/-- One frame at a flow meter whose entry holds these words. A byte is 8,000,000 parts, so that a rate of 1 kbit/s gives one part in 1 ns. -/
def meterFrame (w0 w1 flags now bytes : Nat) (old : Option Meter) : Colour × Meter :=
  let part := 8000000
  let cbs := fld w0 32 32 * part
  let ebs := fld w1 32 32 * part
  let m := old.getD { c := cbs, e := ebs, ns := now }
  let dt := now - m.ns
  let c := m.c + fld w0 0 32 * dt
  let e := min ebs (m.e + fld w1 0 32 * dt + (if bit flags 0 then c - cbs else 0))
  let c := min cbs c
  let n := bytes * part
  if bit flags 2 && m.red then (.red, { m with c := c, e := e, ns := now })
  else if n ≤ c then (.green, { c := c - n, e := e, ns := now })
  else if n ≤ e then (.yellow, { c := c, e := e - n, ns := now })
  else (.red, { c := c, e := e, ns := now, red := true })

/-- The stream filters of a port (802.1Qci): whether a frame passes. -/
def filterFrame (f : EthFrame) (d : Dev) : Bool × Dev :=
  let p := f.port.val
  let c := d.chip
  match streamEntry c (tsnBase p + 0x1000) f.dst.toNat (vidOf f) with
  | none => (true, d)
  | some i =>
    let w := getReg c (tsnBase p + 0x1008 + 16 * i)
    let k := fld w 8 6
    if fld w 16 14 < f.sdu ∨ !gateOpen c p (fld w 0 6) then (false, d)
    else if 32 ≤ k then (true, d)
    else
      let a := tsnBase p + 0x1400 + 32 * k
      let r := meterFrame (tsnWord c a) (tsnWord c (a + 8)) (getReg c (a + 16)) c.gptpNs f.bytes (tabFind d.net.meters (32 * p + k))
      (decide (r.1 = .green) || (decide (r.1 = .yellow) && !bit (getReg c (a + 16)) 1), modNet (fun m => { m with meters := tabSet m.meters (32 * p + k) r.2 }) d)

/-- What sequence recovery makes of a frame. -/
inductive Recovered where
  | passed | duplicate | rogue
  deriving DecidableEq, Repr

/-- The vector algorithm of 802.1CB with a history of 32. -/
def recover (n : Nat) : Option Recovery → Recovered × Recovery
  | none => (.passed, { top := n, seen := true :: List.replicate 31 false })
  | some r =>
    let delta := signed 16 (unsigned 16 ((n : Int) - (r.top : Int)))
    if 32 ≤ delta.natAbs then (.rogue, r)
    else if delta ≤ 0 then
      if r.seen.getD delta.natAbs false then (.duplicate, r) else (.passed, { r with seen := r.seen.set delta.natAbs true })
    else (.passed, { top := n, seen := (true :: List.replicate (delta.natAbs - 1) false ++ r.seen).take 32 })

/-- Sequence recovery over both ports: whether a frame passes, and whether it is a duplicate. -/
def recoverFrame (f : EthFrame) (d : Dev) : Recovered × Dev :=
  match streamEntry d.chip 0x3C400 f.dst.toNat (vidOf f), f.seq with
  | none, _ => (.passed, d)
  | some _, none => (.rogue, d)
  | some i, some n =>
    let r := recover n.toNat (tabFind d.net.recovery i)
    (r.1, modNet (fun m => { m with recovery := tabSet m.recovery i r.2 }) d)

/-- A frame at its port: what it brings is acted on only where it is received, passes the filters and is no duplicate. -/
def receiveFrame (f : EthFrame) (act : Dev → Dev) (d : Dev) : Dev :=
  if !portOn d.chip f.port.val || !frameOk d.net f then d
  else
    let q := filterFrame f d
    if !q.1 then q.2.chipDo (fun c => bump c (rNetCtr 8))
    else
      let r := recoverFrame f q.2
      match r.1 with
      | .passed => act r.2
      | .duplicate => r.2.chipDo (fun c => bump c (rNetCtr 9))
      | .rogue => r.2

/-! ### gPTP time (R351) -/

/-- The gPTP time of the package is set; the target of the ticks moves with it (R194). -/
def setTime (t : Nat) (c : Chip) : Chip := shiftTarget ((c.gptpNs : Int) - t) { c with gptpNs := t, aonNs := t }

/-- The package is locked: the island takes the time (R436), and a START that waits for lock begins (R202). -/
def gptpLock (c : Chip) : Chip :=
  let c := slewing (putF { c with aonNs := c.gptpNs } rGptp 0 1 1)
  if c.cad.startPend then beginTicks c else c

/-- Lock is lost (R194, R335, R351). -/
def gptpLose (c : Chip) : Chip :=
  feUnlock (setStatus 3 (report { code := eGptpLost, sev := sevOf eGptpLost, src := 0x24 } (slewing (putF c rGptp 0 1 0))))

/-- The slave port, or none on the grandmaster (R369). -/
def slavePort (p : Option Nat) (c : Chip) : Chip := (List.range 2).foldl (fun c q => putF c (rPort q) 1 1 (b2n (p == some q))) c

/-- A Sync message: the offset estimate, the lock, and the time, which runs on from the oscillator while there is no lock. One from another
grandmaster ends this package's own part as one, and its port is the slave port. Domain 0 alone counts (R350). -/
def gptpSync (x : SyncMsg) (d : Dev) : Dev :=
  if !portOn d.chip x.port.val || x.domain != 0 then d
  else
    let good := if x.offset.natAbs ≤ 100 then min 16 (d.net.good + 1) else 0
    let was := locked d.chip
    let c := putF (putF (slavePort (some x.port.val) d.chip) rGptp 1 1 0) rGptp 8 24 (unsigned 24 (clampInt 24 x.offset).1)
    let c := if was then (if 1000 < x.offset.natAbs then gptpLose c else setTime x.time.toNat c)
      else if good = 16 then gptpLock (setTime x.time.toNat c) else c
    modNet (fun n => { n with good := good }) { d with chip := drainTx c.gptpNs c }

/-- GPTP_SYNC. -/
def execGptpSync (x : SyncMsg) (s : State) : Host.Outcome State Fault Refusal := onDev (gptpSync x) s

/-- No Sync in time: lock is lost, and a package that may be grandmaster becomes it. -/
def gptpTimeout (d : Dev) : Dev :=
  if 1 < modeOf d.chip ∨ bit (getReg d.chip rGptp) 1 then d
  else
    let c := if locked d.chip then gptpLose d.chip else d.chip
    let c := if bit (getReg c rNetCfg) 4 then gptpLock (slavePort none (putF c rGptp 1 1 1)) else c
    modNet (fun n => { n with good := 0 }) { d with chip := c }

/-- GPTP_SYNC_TIMEOUT. -/
def execGptpSyncTimeout (s : State) : Host.Outcome State Fault Refusal := onDev gptpTimeout s

/-- A port's link goes up or down (R349, R368). -/
def linkChange (p : Fin 2) (isUp : Bool) (c : Chip) : Chip :=
  if decide (1 < modeOf c) || (isUp && !bit (getReg c rNetCfg) (2 + p.val)) then c else putF c (rPort p.val) 0 1 (b2n isUp)

/-- ETH_LINK_CHANGE. -/
def execEthLinkChange (p : Fin 2) (isUp : Bool) (s : State) : Host.Outcome State Fault Refusal := onChip (linkChange p isUp) s

/-! ### Listener streams (R357 to R360) -/

/-- A table of the hub at a local address: the words of entry i. -/
def tableEntry (c : Chip) (base size i : Nat) : List Nat :=
  (List.range (size / 8)).map (fun k => leNat (memReadN c.mem (sys c (base + size * i + 8 * k)) 8))

/-- The first VALID listener entry of a stream (R358). -/
def listenerOf (c : Chip) (id : Nat) : Option (List Nat) :=
  ((List.range 512).map (tableEntry c 0xF0040600000 32)).find? (fun w => bit (w.getD 1 0) 0 && w.getD 0 0 == id)

/-- Is a packet of a stream discarded by its entry (R358). -/
def listenBad (w : List Nat) (x : AvtpPacket) : Bool :=
  let e := w.getD 1 0
  let ch := fld e 1 4
  let high := bit e 5
  fld e 6 10 != 0 || fld e 25 39 != 0 || w.getD 2 0 != 0 || w.getD 3 0 != 0 || ch == 0 || decide (8 < ch) ||
  decide (512 < fld e 16 9 + ch * (if high then 4 else 1)) || x.rate48 != some high || x.ch != ch

/-- Is a packet outside what the device supports (R357). -/
def packetBad (x : AvtpPacket) : Bool := decide (2 < x.fmt.toNat) || x.rate48.isNone || !x.tv || x.ch == 0 || decide (8 < x.ch)

/-- A sample of a packet at the width of a listener record (R359), and whether it saturated. -/
def listenerSample (fmt : Nat) (high : Bool) (v : Int) : Int × Bool :=
  clampInt (outBits high) (shiftRound v ((outBits high : Int) - (16 + 8 * (fmt : Int))))

/-- The full time of a 32-bit timestamp: within 2^31 ns of the arrival (R359). -/
def fullTime (now ts : Nat) : Nat := ((now : Int) + signed 32 (unsigned 32 ((ts : Int) - (now : Int)))).toNat

/-- What becomes of a sample: placed, ignored, late or early. -/
inductive Fate where
  | placed | late | early
  deriving DecidableEq, Repr

/-- The time at which frame k closes (R360): the end of its 10 ms plus LATENESS. -/
def closeTime (c : Chip) (k : Nat) : Nat := 10000000 * (k + 1) + 100000 * getF c rNetCfg 13 6

/-- A sample at a position of a frame of a slot (R360); `late` says whether the frame's close time has passed. -/
def placeSample (late : Bool) (k pos : Nat) (v : Int × Bool) (s : RxSlot) : RxSlot × Fate :=
  let closed := late || (match s.last with | some l => decide (k ≤ l) | none => false)
  let far := s.frames.any (fun f => decide (f.k + 7 < k))
  if closed then (s, .late)
  else if far then (s, .early)
  else
    let put := fun (f : RxFrame) => if f.k ≠ k ∨ (tabFind f.got pos).isSome then f else { f with got := tabSet f.got pos v.1, clip := f.clip || v.2 }
    let frames := if s.frames.any (fun f => f.k == k) then s.frames else s.frames ++ [{ k := k }]
    ({ s with frames := frames.map put }, .placed)

/-- The samples of a channel from sample number s0 on; whether any came too late, and too early. `closed` says of which frames the close time has
passed. -/
def placeChannel (closed : Nat → Bool) (high : Bool) (fmt s0 : Nat) (xs : List Int) (s : RxSlot) : RxSlot × Bool × Bool :=
  ((List.range xs.length).zip xs).foldl (fun (p : RxSlot × Bool × Bool) x =>
    let n := s0 + x.1
    let r := placeSample (closed (n / frameLen high)) (n / frameLen high) (n % frameLen high) (listenerSample fmt high x.2) p.1
    (r.1, p.2.1 || r.2 == .late, p.2.2 || r.2 == .early)) ({ s with rate48 := high }, false, false)

/-- The local address of the record of frame k of a slot. -/
def slotAddr (high : Bool) (slot k : Nat) : Nat := 0xF0040400000 + 0x1000 * slot + (if high then 2048 else 512) * (k % 8)

/-- Word 0 of the record of a listener frame (R360). -/
def slotWord (high : Bool) (slot flags : Nat) : Nat := 63 + b2n high * 2048 + slot * 4096 + flags

/-- The frames that a packet opened in a slot: word 0 of their records, with VALID 0. -/
def openRecords (slot : Nat) (old new : RxSlot) (c : Chip) : Chip :=
  (new.frames.filter (fun f => !old.frames.any (fun g => g.k == f.k))).foldl (fun c f =>
    putMem c (sys c (slotAddr new.rate48 slot f.k)) (leBytes 4 (slotWord new.rate48 slot 0) ++ leBytes 4 f.k)) c

/-- The samples of an accepted packet (R359, R360). -/
def placePacket (e : Nat) (x : AvtpPacket) (d : Dev) : Dev :=
  let high := bit e 5
  let s0 := roundDiv (fullTime d.chip.gptpNs x.timestamp.toNat * (if high then 48000 else 16000)) 1000000000
  let r := (List.range x.ch).foldl (fun (p : Dev × Bool × Bool) i =>
    let slot := fld e 16 9 + i * (if high then 4 else 1)
    let old := tabGet {} p.1.net.slots slot
    let q := placeChannel (fun k => decide (closeTime p.1.chip k ≤ p.1.chip.gptpNs)) high x.fmt.toNat s0 (x.samples.getD i []) old
    let d : Dev := { p.1 with chip := openRecords slot old q.1 p.1.chip }
    (modNet (fun n => { n with slots := tabSet n.slots slot q.1 }) d, p.2.1 || q.2.1, p.2.2 || q.2.2)) (d, false, false)
  r.1.chipDo (fun c => bump (bump c (rNetCtr 1) (b2n r.2.1)) (rNetCtr 2) (b2n r.2.2))

/-- A listener packet (R350, R357 to R360). -/
def avtpReceive (x : AvtpPacket) (d : Dev) : Dev :=
  receiveFrame x.frame (fun d =>
    match listenerOf d.chip x.streamId.toNat with
    | some w => if packetBad x || listenBad w x then d.chipDo (fun c => bump c (rNetCtr 0)) else placePacket (w.getD 1 0) x d
    | none => d.chipDo (fun c => bump c (rNetCtr 0))) d

/-- An ARP packet that was received (R349; RFC 826, PRESUMED, log entry 186): its sender's address is kept where it was known or the packet asks
about this package, and a request is answered. -/
def arpIn (x : ArpPacket) (d : Dev) : Dev :=
  let mine := x.targetIp.toNat == getReg d.chip 0x31008
  let ip := x.senderIp.toNat
  let keep := mine || (tabFind d.chip.tx.arp ip).isSome
  let c := if keep then { d.chip with tx := { d.chip.tx with arp := tabSet d.chip.tx.arp ip x.senderMac.toNat } } else d.chip
  let out := fun (_ : List Nat) => Emit.arp x.frame.port.val x.targetIp.toNat x.senderMac.toNat
  { d with chip := if mine && x.op == 1 then transmit [x.frame.port.val] 0 (etherBytes 0 28) c.gptpNs out c else c }

/-- An ICMP echo request that was received is answered where it came from (R349). -/
def echoIn (x : EchoRequest) (d : Dev) : Dev :=
  let c := d.chip
  let out := fun (_ : List Nat) => Emit.echo x.frame.port.val x.srcMac.toNat x.srcIp.toNat x.ident.toNat x.seq.toNat x.data
  if x.fragment || x.dstIp.toNat != getReg c 0x31008 then d
  else { d with chip := transmit [x.frame.port.val] 0 (etherBytes 0 (28 + x.data.length)) c.gptpNs out c }

/-- What a port receives: an AVTP packet, or what R349 has the device answer. -/
def netReceive : NetIn → Dev → Dev
  | .avtp x, d => avtpReceive x d
  | .arp x, d => receiveFrame x.frame (arpIn x) d
  | .echo x, d => receiveFrame x.frame (echoIn x) d

/-- AVTP_RECEIVE. -/
def execAvtpReceive (x : NetIn) (s : State) : Host.Outcome State Fault Refusal := onDev (netReceive x) s

/-- The frame that closes next in a slot, if its number has these 32 bits: the oldest open one, or an empty one after the last (R360). -/
def closing (s : RxSlot) (k : Nat) : Option RxFrame :=
  match s.frames with
  | [] =>
    match s.last with
    | some l => if s.quiet < 8 ∧ (l + 1) % 2 ^ 32 = k then some { k := l + 1 } else none
    | none => none
  | f :: fs =>
    let low := fs.foldl (fun a g => min a g.k) f.k
    let first := match s.last with | some l => if s.quiet < 8 then min low (l + 1) else low | none => low
    if first % 2 ^ 32 ≠ k then none
    else some ((s.frames.find? (fun g => g.k == first)).getD { k := first })

/-- A listener frame closes (R360). -/
def frameClose (slot k : Nat) (d : Dev) : Dev :=
  match tabFind d.net.slots slot with
  | none => d
  | some s =>
    match closing s k with
    | none => d
    | some f =>
      if 1 < modeOf d.chip then d
      else
        let n := frameLen s.rate48
        let loss := decide (f.got.length < n)
        let quiet := if f.got = [] then s.quiet + 1 else 0
        let w0 := slotWord s.rate48 slot (0x40 + b2n (!locked d.chip) * 0x100 + b2n f.clip * 0x200 + b2n s.gap * 0x400 + b2n loss * 0x400000)
        let bytes := frameHead w0 f.k (10000000 * f.k) ++ sampleBytes s.rate48 ((List.range n).map (fun i => tabGet 0 f.got i))
        let c := putMem d.chip (sys d.chip (slotAddr s.rate48 slot f.k)) bytes
        let s := { s with frames := s.frames.filter (fun g => g.k != f.k), last := some f.k, quiet := quiet, gap := decide (8 ≤ quiet) }
        modNet (fun m => { m with slots := tabSet m.slots slot s }) { d with chip := bump c (rNetCtr 3) (b2n loss) }

/-- LISTENER_FRAME_CLOSE. -/
def execListenerFrameClose (slot : Fin 512) (k : BitVec 32) (s : State) : Host.Outcome State Fault Refusal :=
  onDev (frameClose slot.val k.toNat) s

/-! ### Talker streams (R361, R362) -/

/-- A talker entry that is in use (R361). -/
def talkerOf (c : Chip) (t : Nat) : Option (List Nat) :=
  let w := tableEntry c 0xF0040604000 32 t
  let e := w.getD 1 0
  let ok := bit e 0 && decide (1 ≤ fld e 1 4 ∧ fld e 1 4 ≤ 8) && (bit e 5 || !bit e 6) && fld e 7 2 != 3 && fld e 9 2 != 3 && fld e 26 6 == 0 &&
    fld (w.getD 3 0) 0 6 == 0 && fld (w.getD 3 0) 48 16 == 0
  if ok then some w else none

/-- Samples in 20 ms of a talker's channel, and in one of its packets (R357). -/
def unitLen (e : Nat) : Nat := if bit e 5 then 960 else 320
def packetLen (e : Nat) : Nat := (if bit e 5 then 6 else 2) * (match fld e 7 2 with | 0 => 1 | 1 => 2 | _ => 8)

/-- The samples of a unit, by sample: its channels. -/
def unitSamples (e : Nat) (bs : List Byte) : List (List Int) :=
  let w := if bit e 5 then 4 else 2
  (List.range (unitLen e)).map (fun i => (List.range (fld e 1 4)).map (fun k =>
    signed (8 * w) (leNat ((bs.drop ((i * fld e 1 4 + k) * w)).take w))))

/-- The samples of a unit of zeros. -/
def zeroUnit (e : Nat) : List (List Int) := List.replicate (unitLen e) (List.replicate (fld e 1 4) 0)

/-- Is the job of a talker entry contained (R425). -/
def talkerHeld (c : Chip) (w : List Nat) : Bool := (jobRc c (fld (w.getD 2 0) 48 16)).contained

/-- A unit as it was read (R362): its number, its table entry and its bytes, none where it could not be read. What was read before of the same unit
is not sent again. -/
def takeUnit (t n full : Nat) (w : List Nat) (bs : List Byte) (d : Dev) : Dev :=
  let e := w.getD 1 0
  let bad := numAt bs 0 4 != n || !bit (numAt bs 4 4) 0 || talkerHeld d.chip w
  let xs := if bad then zeroUnit e else unitSamples e (bs.drop 64)
  let next := match tabFind d.net.units (2 * t + n % 2) with | some u => if u.n = full then u.next else 0 | none => 0
  let u : TxUnit := { n := full, zero := bad, tick := numAt bs 8 4, words := w, samples := xs, next := next }
  modNet (fun m => { m with units := tabSet m.units (2 * t + n % 2) u }) { d with chip := bump d.chip (rNetCtr 4) (b2n bad) }

/-- A unit is read (R362). One that cannot be read, is not the unit due, or is of a contained job (R425) is sent as zeros; one in another package
is waited for, and read as the command comes again (log entry 189). -/
def unitRead (t n : Nat) (d : Dev) : Dev :=
  match talkerOf d.chip t with
  | none => d
  | some w =>
    if 1 < modeOf d.chip then d
    else
      let e := w.getD 1 0
      let size := roundUp (64 + fld e 1 4 * unitLen e * (if bit e 5 then 4 else 2)) 64
      let a := fld (w.getD 3 0) 0 48 + n % 64 * size
      let now := d.chip.gptpNs / 20000000
      let full := ((now : Int) + signed 32 (unsigned 32 ((n : Int) - (now : Int)))).toNat
      match runHub hubMaster (.unit (2 + t)) (readAny 0 a size) d.chip with
      | (c, .waits) => { d with chip := c }
      | (c, .done bs) => takeUnit t n full w bs { d with chip := c }
      | (c, .stops x) => takeUnit t n full w [] { d with chip := report { code := x.code, sev := sevOf x.code, src := 0x24, addr := x.addr } c }

/-- TALKER_UNIT_READ. -/
def execTalkerUnitRead (t : Fin 2048) (n : BitVec 32) (s : State) : Host.Outcome State Fault Refusal := onDev (unitRead t.val n.toNat) s

/-- Is what was produced at a tick still tentative for a job (R29, R362, R364, R427): before its first commit point everything is. -/
def tentative (c : Chip) (j t : Nat) : Bool :=
  decide (1 ≤ j ∧ j < 256) && getF c (rRcJob j) 0 7 != 0 && (!(jobRc c j).passed || tickLe (getReg c (rRcCommit j)) t)

/-- The unit of a talker whose packet k is due: the older one that has it left. -/
def unitDue (m : Net) (t k : Nat) : Option (Nat × TxUnit) :=
  let us := ([2 * t, 2 * t + 1].filterMap (fun i => (tabFind m.units i).map (fun u => (i, u)))).filter (fun p =>
    decide (p.2.next ≤ k ∧ (k + 1) * packetLen (p.2.words.getD 1 0) ≤ p.2.samples.length))
  match us with
  | [p, q] => some (if p.2.n ≤ q.2.n then p else q)
  | p :: _ => some p
  | [] => none

/-- What is left of a unit is sent as zeros once its job is contained, and the unit counts (R425). -/
def holdUnit (u : TxUnit) (c : Chip) : TxUnit × Chip :=
  if talkerHeld c u.words && !u.zero then ({ u with zero := true, samples := zeroUnit (u.words.getD 1 0) }, bump c (rNetCtr 4)) else (u, c)

/-- The time of the first sample of packet k of a unit. -/
def packetTime (u : TxUnit) (k : Nat) : Nat :=
  let e := u.words.getD 1 0
  20000000 * u.n + k * packetLen e * 1000000000 / (if bit e 5 then 48000 else 16000)

/-- Packet k of a unit of talker t as it leaves (R357, R361, R362). -/
def packetOf (c : Chip) (t k : Nat) (u : TxUnit) (seq : Option Nat) : AvtpOut :=
  let e := u.words.getD 1 0
  let w := u.words.getD 2 0
  { talker := t, streamId := u.words.getD 0 0, mac := fld w 0 48, vid := fld e 14 12, pcp := fld e 11 3,
    fmt := if !bit e 5 then 0 else if bit e 6 then 2 else 1, rate48 := bit e 5, seq := seq, time := packetTime u k + fld e 32 32,
    mark := tentative c (fld w 48 16) u.tick, samples := (u.samples.drop (k * packetLen e)).take (packetLen e) }

/-- The bytes of its frame: headers, the 24 bytes of the AAF header, samples. -/
def packetBytes (x : AvtpOut) : Nat :=
  etherBytes (if x.seq.isSome then 10 else 4) (24 + (x.samples.map (·.length)).sum * (2 + x.fmt))

/-- A packet leaves by the ports that are up, from the queue of its PCP (R350). -/
def sendPacket (t k : Nat) (u : TxUnit) (c : Chip) : Chip :=
  let e := u.words.getD 1 0
  let ports := portsUp c (fld e 9 2)
  if ports = [] then c
  else
    let q := nextSeq (fld (u.words.getD 2 0) 0 48) (fld e 14 12) c
    let x := packetOf c t k u q.1
    transmit ports x.pcp (packetBytes x) (packetTime u k) (fun ps => .avtp ps x) q.2

/-- A talker packet is sent at the time of its first sample, and not at all once that has passed (R362). -/
def packetSend (t k : Nat) (d : Dev) : Dev :=
  match unitDue d.net t k with
  | none => d
  | some (i, u) =>
    if 1 < modeOf d.chip then d
    else
      let (u, c) := holdUnit u d.chip
      modNet (fun m => { m with units := tabSet m.units i { u with next := k + 1 } })
        { d with chip := if packetTime u k < c.gptpNs then c else sendPacket t k u c }

/-- TALKER_PACKET_SEND. -/
def execTalkerPacketSend (t : Fin 2048) (k : Nat) (s : State) : Host.Outcome State Fault Refusal := onDev (packetSend t.val k) s

/-! ### Results (R364) -/

/-- What a step answers, or what stopped it. -/
def tryEff {α : Type} (m : Eff α) : Eff (Except Stop α) := fun c =>
  match m c with
  | .ok a d => .ok (.ok a) d
  | .error e d => if e.code = 0 then .error e d else .ok (.error e) d

/-- A record of the result ring, read and checked (R239). -/
def readResult (n : Nat) : Eff (List Byte) := do
  let c ← get
  readAny 0x24 (resultAddr c n) 32

/-- The records at some places of the ring, up to the first that is not of a job or cannot be read. -/
def resultMore (j : Nat) : List Nat → Eff (List (List Byte))
  | [] => pure []
  | i :: is => do
    let r ← tryEff (readResult i)
    match r with
    | .ok r => do
      let rs ← if resultJob r = j then resultMore j is else pure []
      pure (if resultJob r = j then r :: rs else [])
    | .error _ => pure []

/-- The records at the ring's tail that belong to one job, at most 91 of the `n` there, with the job. -/
def resultRun (tail n : Nat) : Eff (Nat × List (List Byte)) := do
  let c ← get
  let is := (span (tail + 1) (min n 91 - 1)).takeWhile (fun i => !resultUe c i)
  (tail :: is).forM (fun i => wantMem (resultAddr c i) 32)
  let r ← readResult tail
  let rs ← resultMore (resultJob r) is
  pure (resultJob r, r :: rs)

/-- A record as it leaves: 16 bytes, TENTATIVE set by the device. -/
def resultOut (c : Chip) (j : Nat) (r : List Byte) : List Byte :=
  leBytes 4 (setFld (leNat (r.take 4)) 26 1 (b2n (tentative c j (resultTick r)))) ++ (r.drop 4).take 12

/-- The oldest records of the result ring leave, or are dropped: those of a job without a destination (R364) and of a contained one (R425), and one
that cannot be read (log entry 189). -/
def resultSend (c : Chip) : Chip :=
  let size := 2 ^ getF c 0x3101C 16 5
  let count := (getReg c rResHead + 2 ^ 32 - getReg c rResTail) % 2 ^ 32
  if 1 < modeOf c ∨ count = 0 then c
  else
    let tail := getReg c rResTail + (count - size)
    let gone := fun (n : Nat) (c : Chip) => putReg c rResTail ((tail + n) % 2 ^ 32)
    match runHub hubMaster (.unit 0) (resultRun tail (min count size)) c with
    | (c, .waits) => c
    | (c, .stops e) =>
      sendCommits (bump (gone 1 (report { code := e.code, sev := sevOf e.code, src := 0x24, addr := e.addr } c)) (rNetCtr 5))
    | (c, .done (j, rs)) =>
      match (if j < 256 ∧ !(jobRc c j).contained then jobDest c j else none) with
      | none => sendCommits (bump (gone rs.length c) (rNetCtr 5) rs.length)
      | some (ports, ip, udp) =>
        if portsUp c ports = [] then c
        else
          let (n, d) := jobSeq j (gone rs.length c)
          sendCommits (sendDatagram ports 0 ip udp (udpPayload c 0 j n rs.length (rs.flatMap (resultOut c j))) d)

/-- RESULT_DATAGRAM_SEND. -/
def execResultDatagramSend (s : State) : Host.Outcome State Fault Refusal := onChip resultSend s

/-! ### WDATA (R366) -/

/-- WACK. -/
def sendWack (xfer offset seq status : Nat) (c : Chip) : Chip := toHost 1 3 seq (leBytes 4 xfer ++ leBytes 8 offset ++ leBytes 2 status) c

/-- Is a datagram for the device discarded (R349, R363): a fragment, one for another address or from another host, or one with a malformed
header. One that goes to another UDP port than the one at a distance from NET_UDP.BASE is no datagram of that kind. -/
def hostBad (c : Chip) (off typ : Nat) (x : UdpIn) : Bool :=
  x.fragment || x.dstPort.toNat != getF c rUdp 0 16 + off || x.dstIp.toNat != getReg c 0x31008 || x.srcIp.toNat != getReg c rHostIp || x.magic != 0x4C45 || x.version != 1 ||
  x.typ.toNat != typ || x.pkgId != 0 || x.reserved4 != 0 || x.job != 0 || x.count != 0 || x.reserved12 != 0

/-- A WDATA refused: reported, and answered. -/
def wdataRefuse (code : Nat) (x : WDatagram) (c : Chip) : Chip :=
  sendWack x.xfer.toNat x.offset.toNat x.udp.seq.toNat code (report { code := code, sev := sevOf code, src := 0x24, addr := x.offset.toNat } c)

/-- A WDATA datagram that was received: its bytes go to the flash. -/
def wdataIn (x : WDatagram) (d : Dev) : Dev :=
  let c := d.chip
  let off := x.offset.toNat
  let len := x.data.length
  let base := getF c rWwin 0 14
  if hostBad c 1 2 x.udp || x.reserved || len % 64 != 0 || len == 0 || decide (8192 < len) || off % 64 != 0 then d
  else if 64 ≤ d.net.wdata.length then { d with chip := bump c (rNetCtr 6) }
  else if off < base * 2 ^ 30 ∨ (base + getF c rWwin 14 14) * 2 ^ 30 < off + len then { d with chip := wdataRefuse eNetWindow x c }
  else if getF c rFlStatus 0 14 * 2 ^ 30 < off + len then { d with chip := wdataRefuse eUnbacked x c }
  else if bit (getReg c rFlStatus) 15 then { d with chip := wdataRefuse eFlashFull x c }
  else
    let a := ownFlash c off
    let w : Ingest := { addr := a, xfer := x.xfer.toNat, offset := off, seq := x.udp.seq.toNat }
    modNet (fun m => { m with wdata := m.wdata ++ [w] })
      { d with chip := { c with flash := { c.flash with writes := c.flash.writes ++ [(.wdata, a, x.data)] } } }

/-- A WDATA datagram (R366). -/
def wdata (x : WDatagram) (d : Dev) : Dev := receiveFrame x.udp.frame (wdataIn x) d

/-- WDATA. -/
def execWdata (x : WDatagram) (s : State) : Host.Outcome State Fault Refusal := onDev (wdata x) s

/-- The i-th WDATA is answered once the flash has acknowledged its write. -/
def wack (i : Nat) (d : Dev) : Dev :=
  match d.net.wdata[i]? with
  | none => d
  | some w =>
    match takeAnswerOf w.addr d.chip with
    | (none, _) => d
    | (some code, c) => modNet (fun m => { m with wdata := m.wdata.eraseIdx i }) { d with chip := sendWack w.xfer w.offset w.seq code c }

/-- WACK. -/
def execWack (i : Nat) (s : State) : Host.Outcome State Fault Refusal := onDev (wack i) s

/-! ### What the hub loses (R368, R397) -/

/-- The hub is switched off: open listener frames are abandoned, and the next frame of their slots carries GAP when the change is to LISTEN. -/
def netOff (listen : Bool) (d : Dev) : Dev :=
  let open1 := d.net.slots.filter (fun p => p.2.frames != [])
  { d with net := { slots := if listen then open1.map (fun p => (p.1, ({ gap := true } : RxSlot))) else [] } }

end Sys2Proof.Machine
end

