-- ==== Sys2Proof/Machine/Power.lean ====
section
/-! DEFINITION. Power modes, switch-off and reset (R395 to R402, R410, R412, R416, R417): what each keeps and loses, requests and their
refusals, and the operations that always complete. The start-up stages stand in `Startup.lean`. -/

namespace Sys2Proof.Machine

/-! ### Pins at the boundary (R415) -/

/-- What an output pin does: `driven` is by the unit that owns it. -/
inductive PinState where
  | highZ | released | idle | low | high | driven
  deriving DecidableEq, Repr

/-- ALERT_N (R381), and MDO, which frames drive (R371). -/
def alertPin (c : Chip) : PinState := if alertN c then .low else .released
def mdoPin (c : Chip) : PinState := if c.power.aonHeld then .highZ else .driven

/-- The lanes of an Ethernet port and of the Turhorn links. -/
def etherPin (c : Chip) (p : Nat) : PinState := if modeOf c ≤ 1 ∧ bit (getReg c rNetCfg) (2 + p) then .driven else .idle
def lanePin (c : Chip) : PinState := if modeOf c = 0 then .driven else .idle

/-- PDM_CLK of an array: it runs while the array is enabled by the settings in force (R346) and VDD_FE is up, and is low else. -/
def pdmClkPin (c : Chip) (fe : Fe) (a : Fin 4) : PinState := if feOn c && arrOn fe.arr[a] then .driven else .low

/-- CE_N and WP_N of the flash. -/
def flashCePin (c : Chip) : PinState := if modeOf c ≤ 1 then .driven else .high
def flashWpPin (c : Chip) : PinState := if modeOf c ≤ 1 then .high else .low

/-! ### The power controller -/

/-- The power controller changed. -/
def modPower (f : Power → Power) (c : Chip) : Chip := { c with power := f c.power }

/-- MODE and REQ of MP_POWER set. -/
def setMode (n : Nat) (c : Chip) : Chip := putF c rPower 0 2 n
def setReq (n : Nat) (c : Chip) : Chip := putF c rPower 2 2 n

/-- A MARK record (R437): the mode entered, and whether for a reset. -/
def mark (mode : Nat) (reset : Bool) (c : Chip) : Chip := writeRecord 4 0 0 0xFFFF 0x27 [mode + b2n reset * 4] c

/-- The stages as MP_BOOT.STAGE shows them (R411). -/
def bootCode : Boot → Nat
  | .off => 0 | .hub => 1 | .firmware => 2 | .blob => 3 | .dram => 4 | .dies => 5 | .selftest => 6 | .ready => 7 | .failed => 15

/-- The package at a stage of start-up. -/
def setBoot (x : Boot) (c : Chip) : Chip := putF (modPower (fun p => { p with boot := x }) c) rBoot 0 4 (bootCode x)

/-- Is a start-up under way. -/
def booting (c : Chip) : Bool := c.power.boot == .hub || pastHub c.power.boot

/-- A report of the island. -/
def islandReport (code : Nat) (c : Chip) : Chip := report { code := code, sev := sevOf code, src := 0x27 } c

/-- A request is refused (R398). -/
def refusePower (code : Nat) (c : Chip) : Chip := setStatus 9 (islandReport code (modPower (fun p => { p with change := none }) c))

/-! ### What is lost (R397, R400, R401) -/

/-- Programs under way when the flash loses its power: each sector is written whole or not at all (R262), and the spec does not say which
(log entry 1). -/
def settleFlash (c : Chip) : Chip :=
  let c := c.flash.writes.foldl (fun c w =>
    let (n, c) := drawNat c 2
    if n = 1 ∧ pkgOf w.2.1 = pkg c then { c with flash := { c.flash with bytes := memWriteN c.flash.bytes w.2.1 w.2.2 } } else c) c
  putF { c with flash := { c.flash with writes := [], acked := [] } } rErStatus 12 1 0

/-- Items queued in the basins are lost: their tickets and claims count nothing afterwards (R400). -/
def dropQueues (c : Chip) : Chip :=
  (List.finRange 32).foldl (fun c b => c.basins[b].queue.foldl (fun c q =>
    let c := dropClaims (q.ahead.getD []) c
    match q.ticket with | some n => dropPin n c | none => c) c) c

/-- The compute and base dies are switched off: what R397 has IDLE lose. -/
def diesOff (c : Chip) : Chip :=
  let c := { dropQueues c with basins := Vector.replicate 32 {}, residue := [], away := [] }
  let c := zeroRange (sys c 0x80000000000) (sys c 0x80110000000) c
  (List.range 32).foldl (fun c b => putF c (rClk b) 8 1 0) (modWeir (fun w => { w with excursion := none }) c)

/-- ACTIVE is left (R400, R434): loads and replacements are abandoned, links go DOWN, the dies are switched off, a wake stage 3 is cancelled,
and the RC_JOB_j of contained jobs are reset. -/
def leaveActive (c : Chip) : Chip := resetContained (feLeave (diesOff (modeLinksDown (abandonSets c))))

/-- Which registers stay when the hub is switched off: the small map, and in LISTEN those of the wellhead (R397). -/
def keptReg (listen : Bool) (off : Nat) : Bool := decide (off < 0xC0) || (listen && decide (0x30000 ≤ off ∧ off < 0x31000))

/-- The hub and everything behind it is switched off: what stays is the island's, the flash's bytes, and what left the package before. -/
def chipOff (keep : Nat → Bool) (c : Chip) : Chip :=
  let c := settleFlash c
  { free := c.free, out := c.out, aonNs := c.aonNs, gptpNs := c.gptpNs, upNs := c.upNs, regs := resetRegs keep c.regs, flash := c.flash, recorder := c.recorder,
    power := c.power, mbox := c.mbox, window := c.window }

/-- The hub is switched off for LISTEN (R397). -/
def hubToListen (d : Dev) : Dev :=
  let d := netOff true (secOff d)
  { d with chip := feUnlock (chipOff (keptReg true) d.chip) }

/-- Every domain but the island is switched off (R397, R416). REQ, a change and the wake request go with it. -/
def everythingOff (d : Dev) : Dev :=
  let d := netOff false (secOff d)
  let c := modPower (fun p => { p with change := none, wakePend := false, resetRun := false }) (chipOff (keptReg false) d.chip)
  { d with chip := setBoot .off (setMode 3 c), fe := {} }

/-- A power-off (R416): MODE reads OFF and REQ is set to OFF. -/
def powerOff (d : Dev) : Dev :=
  let was := modeOf d.chip
  let d := everythingOff d
  { d with chip := let c := setReq 3 d.chip; if was = 3 then c else mark 3 false c }

/-! ### Requests (R398, R399) -/

/-- A start-up begins (R411), toward a mode. -/
def beginStart (target : Nat) (fromReset : Bool) (c : Chip) : Chip :=
  putF (setBoot .hub (modPower (fun p => { p with change := some { target := target, fromReset := fromReset } }) c)) rBoot 4 2 0

/-- The dies are switched on for a return from IDLE (R399): cisterns zeroed, PLLs locked, self-tests running. -/
def diesOn (c : Chip) : Chip :=
  let c := zeroRange (sys c 0x80000000000) (sys c 0x80010000000) (modBasins (fun _ s => { s with selftest := 1, pllLock := true }) c)
  (List.range 32).foldl (fun c b => putF c (rClk b) 8 1 1) c

/-- PWR_GOOD as it stands (R395, R398): its level where it is known. Its fall is a command of its own; whether it has risen since the level was last
known, no command tells (log entry 164). -/
def goodNow (level : Option Bool) (c : Chip) : Chip :=
  match level with
  | some g => modPower (fun p => { p with pwrGood := g }) c
  | none =>
    if c.power.pwrGood then c
    else
      let (n, c) := drawNat c 2
      modPower (fun p => { p with pwrGood := n == 1 }) c

/-- GO with a mode in REQ (R398, R399), and the level of PWR_GOOD where it is known. -/
def powerGo (level : Option Bool) (req : Nat) (c : Chip) : Chip :=
  let mode := modeOf c
  let c := setReq req c
  if c.power.change.isSome || c.power.rstLow then c
  else if req = mode then setStatus 9 c
  else if mode = 0 ∧ getReg c rEnable ≠ 0 then refusePower ePwrBasins c
  else
    let c := if req = 3 then c else goodNow level c
    if req ≠ 3 ∧ !c.power.pwrGood then refusePower ePwrGoodLow c
    else if mode = 0 then modPower (fun p => { p with change := some { target := req, draining := true } }) c
    else if req = 3 ∨ (mode = 1 ∧ req = 2) then modPower (fun p => { p with change := some { target := req } }) c
    else if mode = 1 then diesOn (modPower (fun p => { p with change := some { target := req } }) c)
    else beginStart req false c

/-- An island register's write that acts on the whole package, by a master (R375, R376): its code, with the report of a refusal. -/
def islandAct (m : Master) (act : Dev → Nat × Dev) (d : Dev) : Nat × Dev :=
  let r := if 1 < m.toNat then (if hubOn d.chip then eHubDenied else eIwTimeout, d)
    else if m.toNat = 1 ∧ !hubOn d.chip then (eIwTimeout, d)
    else act d
  (r.1, r.2.chipDo (reportAccess r.1 0x27))

/-- Such a write, answered to its master. In always-on reset the island does nothing (R410). -/
def islandDo (m : Master) (act : Dev → Nat × Dev) (d : Dev) : Dev :=
  if d.chip.power.aonHeld then d
  else
    let r := islandAct m act d
    r.2.chipDo (emit (.bus m 0 r.1))

/-- POWER_REQUEST: the level of PWR_GOOD comes with it. -/
def execPowerRequest (m : Master) (req : BitVec 2) (pwrGood : Bool) (s : State) : Host.Outcome State Fault Refusal :=
  onDev (islandDo m (fun d => (0, d.chipDo (powerGo (some pwrGood) req.toNat)))) s

/-- Do all basins read IDLE (R398). -/
def allIdle (c : Chip) : Bool := (List.finRange 32).all (fun b => chainsOf c.basins[b] == [])

/-- ACTIVE is entered, with a new boot nonce (R324). -/
def enterActive (nonce : Nat) (c : Chip) : Chip := putReg (setMode 0 c) rNonce nonce

/-- A change has completed. -/
def changeDone (mode : Nat) (c : Chip) : Chip := setStatus 9 (mark mode false (modPower (fun p => { p with change := none }) c))

/-- A change completes (R399): the drain has ended, or the dies have passed through their self-tests. A start-up completes with its last
stage. -/
def powerDone (d : Dev) : Dev :=
  match d.chip.power.change with
  | none => d
  | some x =>
    if booting d.chip || (x.draining && !allIdle d.chip) then d
    else if x.target = 0 then
      if (List.finRange 32).any (fun b => d.chip.basins[b].selftest == 1) then d
      else
        let (n, c) := drawNat d.chip (2 ^ 32)
        abandonReport { d with chip := changeDone 0 (enterActive n c) }
    else
      let d := abandonReport d
      let d := if x.draining && x.target != 3 then d.chipDo leaveActive else d
      if x.target = 1 then d.chipDo (fun c => changeDone 1 (setMode 1 c))
      else if x.target = 2 then (hubToListen d).chipDo (fun c => changeDone 2 (setMode 2 c))
      else (powerOff d).chipDo (setStatus 9)

/-- POWER_CHANGE_DONE. -/
def execPowerChangeDone (s : State) : Host.Outcome State Fault Refusal := onDev powerDone s

/-- Basins have not drained in time (R398). -/
def drainTimeout (c : Chip) : Chip :=
  match c.power.change with
  | some x => if x.draining && !allIdle c then refusePower ePwrDrain c else c
  | none => c

/-- POWER_DRAIN_TIMEOUT. -/
def execPowerDrainTimeout (s : State) : Host.Outcome State Fault Refusal := onChip drainTimeout s

/-- POWER_OFF. -/
def execPowerOff (m : Master) (s : State) : Host.Outcome State Fault Refusal := onDev (islandDo m (fun d => (0, powerOff d))) s

/-- A wake request acts as REQ = ACTIVE and GO, once no change is in progress (R402, R417). -/
def wakeRequest (c : Chip) : Chip :=
  if !c.power.wakePend || c.power.change.isSome then c
  else
    let req := getF c rPower 2 2
    let c := modPower (fun p => { p with wakePend := false }) c
    if req = 0 then c else powerGo none 0 c

/-- WAKE_REQUEST. -/
def execWakeRequest (s : State) : Host.Outcome State Fault Refusal := onChip wakeRequest s

/-! ### Operations that always complete (R396, R416) -/

/-- A thermal shutdown (R408, R416). -/
def thermalOff (d : Dev) : Dev :=
  (powerOff d).chipDo (fun c => islandReport eThermShut (setStatus 7 (putF c rTherm 17 1 1)))

/-- THERMAL_SHUTDOWN: during always-on reset it is taken at the end of that (R417). -/
def execThermalShutdown (tj : BitVec 8) (s : State) : Host.Outcome State Fault Refusal :=
  onDev (fun d =>
    if d.chip.power.aonHeld then d.chipDo (modPower (fun p => { p with shutPend := true }))
    else thermalOff (d.chipDo (takeTj tj.toNat))) s

/-- PWR_GOOD falls (R396): in OFF only while RST_N is low is there a power-off (R476). -/
def pwrFall (d : Dev) : Dev :=
  let d := d.chipDo (modPower (fun p => { p with pwrGood := false }))
  if modeOf d.chip = 3 ∧ !booting d.chip ∧ !d.chip.power.rstLow then d else (powerOff d).chipDo (islandReport ePwrLost)

/-- A thermal step (R408): at 110 degrees it is a shutdown. -/
def execThermalStep (tj : BitVec 8) (s : State) : Host.Outcome State Fault Refusal :=
  if 110 ≤ tj.toNat then execThermalShutdown tj s else onChip (fun c => if c.power.aonHeld then c else thermalStep tj.toNat c) s

/-- PWR_GOOD_FALL. -/
def execPwrGoodFall (s : State) : Host.Outcome State Fault Refusal := onDev pwrFall s

/-! ### Reset (R410, R412) -/

/-- The flash of the package keeps its bytes when the package takes another number: they are held by package and address. -/
def rehomeFlash (new : Nat) (c : Chip) : Chip :=
  if new = pkg c then c
  else
    let own := c.flash.bytes.filter (fun p => p.1 / 2 ^ 44 == pkg c)
    { c with flash := { c.flash with bytes := own.map (fun p => (new * 2 ^ 44 + locOf p.1, p.2)) } }

/-- The straps are sampled, with the level of PWR_GOOD (R412). -/
def sample (x : Straps) (c : Chip) : Chip :=
  let c := rehomeFlash x.pkgId.toNat c
  modPower (fun p => { p with pkgId := x.pkgId, bootAlt := x.bootAlt, autoOn := x.autoOn, pwrGood := x.pwrGood }) c

/-- A package reset (R384, R410): the package domain and the mailboxes are cleared; flash, recorder and the always-on domain stay. -/
def packageReset (d : Dev) : Dev :=
  let d := everythingOff d
  let c := { d.chip with regs := resetRegs (fun _ => false) d.chip.regs, mbox := Vector.replicate 64 {} }
  { d with chip := mark 3 true c }

/-- The straps are sampled at the levels they are known to have, or at free ones (R412, R472; log entry 164). -/
def sampleAt (pins : Option Straps) (c : Chip) : Chip :=
  match pins with
  | some x => sample x c
  | none =>
    let (n, c) := drawNat c 128
    sample { pkgId := BitVec.ofNat 4 n, bootAlt := bit n 4, autoOn := bit n 5, pwrGood := c.power.pwrGood || bit n 6 } c

/-- After a package reset the package starts toward REQ, or stays in OFF (R410). While PWR_GOOD is low it does not leave OFF (R395). -/
def startAfterReset (level : Option Bool) (c : Chip) : Chip :=
  let req := getF c rPower 2 2
  if req = 3 then setStatus 0 c
  else
    let c := goodNow level c
    if !c.power.pwrGood then setStatus 0 c else beginStart req true (modPower (fun p => { p with resetRun := true }) c)

/-- MP_RESET: the key, or a refusal. The straps are sampled as the reset starts (R412). -/
def wReset (v : Nat) (pins : Option Straps) (d : Dev) : Nat × Dev :=
  if v ≠ 0xC0DE then (eMpKey, d)
  else if d.chip.power.rstLow then (0, d)
  else
    (0, (packageReset d).chipDo (fun c =>
      let c := sampleAt pins c
      startAfterReset (some c.power.pwrGood) c))

/-- MP_RESET. -/
def execMpReset (m : Master) (v : RegWrite) (s : State) : Host.Outcome State Fault Refusal :=
  onDev (islandDo m (wReset v.v.toNat v.meets.pins)) s

/-- RST_N is held low. -/
def rstLow (x : Straps) (d : Dev) : Dev :=
  if d.chip.power.aonHeld then d.chipDo (modPower (fun p => { p with rstLow := true }))
  else (packageReset d).chipDo (fun c => sample x (modPower (fun p => { p with rstLow := true }) c))

/-- RST_N_LOW. -/
def execRstNLow (straps : Straps) (s : State) : Host.Outcome State Fault Refusal := onDev (rstLow straps) s

/-- RST_N is high again. -/
def rstRelease (c : Chip) : Chip :=
  if !c.power.rstLow then c
  else
    let c := modPower (fun p => { p with rstLow := false }) c
    if c.power.aonHeld then c else startAfterReset none c

/-- RST_N_RELEASE. -/
def execRstNRelease (s : State) : Host.Outcome State Fault Refusal := onChip rstRelease s

/-- Always-on reset (R410): nothing stays but what the flash holds, what left the package, and which blocks of leaves were attempted (R457). -/
def aonReset (d : Dev) : Dev :=
  let c := settleFlash d.chip
  { chip := { free := c.free, out := c.out, flash := c.flash, power := { rstLow := c.power.rstLow } }, sec := { enrols := d.sec.enrols, tried := d.sec.tried } }

/-- ALWAYS_ON_RESET. -/
def execAlwaysOnReset (s : State) : Host.Outcome State Fault Refusal := onDev aonReset s

/-- The end of always-on reset (R412, R417): straps, the MARK record, a shutdown that waited, or the start with AUTO_ON. -/
def aonEnd (x : Straps) (d : Dev) : Dev :=
  if !d.chip.power.aonHeld then d
  else
    let shut := d.chip.power.shutPend
    let c := mark 3 true (sample x (modPower (fun p => { p with aonHeld := false, shutPend := false, resetRun := true }) d.chip))
    let c := if x.autoOn then powerGo (some x.pwrGood) 0 c else c
    if shut then thermalOff { d with chip := c } else { d with chip := c }

/-- ALWAYS_ON_RESET_END. -/
def execAlwaysOnResetEnd (straps : Straps) (s : State) : Host.Outcome State Fault Refusal := onDev (aonEnd straps) s

end Sys2Proof.Machine
end

