-- ==== Sys2Proof/Machine/Bus.lean ====
section
/-! DEFINITION. Accesses to the hub range and to memory by a master (R371 to R393): the register dispatch with the rights of R375, the small
map and the management port, the indirect window, mailboxes, profiles, host control requests, and accesses that arrive over the fabric. -/

namespace Sys2Proof.Machine

/-! ### Places -/

/-- A basin, and a link, by number. -/
def basinNo (n : Nat) : Fin 32 := ⟨n % 32, Nat.mod_lt _ (by decide)⟩
def linkNo (n : Nat) : Fin 12 := ⟨n % 12, Nat.mod_lt _ (by decide)⟩
def chanNo (n : Nat) : Fin 64 := ⟨n % 64, Nat.mod_lt _ (by decide)⟩

/-- Is an offset one of `n` registers at a distance `st` from `base`. -/
def among (off base st n : Nat) : Bool := decide (base ≤ off ∧ off < base + st * n) && (off - base) % st == 0

/-- Is an offset in the hub SRAM that holds frames, listener records and the stream tables (R334, R357 to R364). DESIGN CHOICE (log entry 150),
unsafe: the hub SRAM has 8 MiB (R21), and the spec gives addresses to these areas alone; the rest answers at no offset, with ADDR_UNBACKED. -/
def hubSram (off : Nat) : Bool :=
  decide ((0x40000000 ≤ off ∧ off < 0x40300000) ∨ (0x40400000 ≤ off ∧ off < 0x40615000))

/-- Does the always-on island serve an offset itself (R380): the small map, mailboxes, and the recorder. -/
def islandServes (off : Nat) : Bool :=
  decide (off < 0x100 ∨ (0x10000 ≤ off ∧ off < 0x12000) ∨ (0x80000 ≤ off ∧ off < 0xC1000))

/-! ### Registers as they read -/

/-- A residency record as it reads (R246). -/
def recWord (c : Chip) (n w : Nat) : Nat :=
  match tabFind c.recs n with
  | none => 0
  | some r =>
    let st := match r.state with | .absent => 0 | .movingUp => 1 | .resident => 2 | .movingDown => 3
    match w with
    | 0 => r.up % 2 ^ 48 + st * 2 ^ 48 + 2 ^ 50 + b2n r.evictPend * 2 ^ 51 + b2n r.forcePend * 2 ^ 52 + b2n r.upPend * 2 ^ 53 +
        b2n r.wbAll * 2 ^ 54 + b2n r.moveFailed * 2 ^ 55
    | 1 => r.down % 2 ^ 48 + b2n r.downFlash * 2 ^ 48 + r.claims % 16 * 2 ^ 49
    | 2 => r.len64 % 2 ^ 24 + r.job % 65536 * 2 ^ 32 + r.refs % 256 * 2 ^ 48
    | _ => r.pins % 65536 + r.busy % 256 * 65536

/-- A table slot as it reads (R233). -/
def slotWordOf (c : Chip) (b : Fin 32) (s : Nat) : Nat :=
  let t := c.basins[b].slots[(⟨s % 16, Nat.mod_lt _ (by decide)⟩ : Fin 16)]
  let st := match t.state with | .empty => 0 | .ready => 1 | .building => 2
  t.gen % 256 + st * 256 + t.holds % 2 ^ 20 * 1024 + b2n (slotEncoding c b s) * 2 ^ 30 + b2n (slotDecoding c b s) * 2 ^ 31

/-- WQ_STATUS_n (R201). -/
def wqStatus (c : Chip) (b : Fin 32) : Nat :=
  let s := c.basins[b]
  let sweeping := match s.thief with | .idle => false | .backoff => false | _ => true
  s.queue.length + (chainsOf s).length * 512 + b2n sweeping * 16384 + getF c (rWqStatus b.val) 16 16 * 65536

/-- RC_JOB_j (R427). -/
def rcJobWord (c : Chip) (j : Nat) : Nat := getReg c (rRcJob j) + b2n (jobRc c j).contained * 256 + b2n (inflight c j) * 512

/-- TH_PARTNER_p (R327): the package's own entry reads LIVE, or FENCED after R323. -/
def partnerWord (c : Chip) (p : Nat) : Nat := if p = pkg c then (if c.fab.selfFenced then 3 else 2) else getReg c (rPartner p)

/-- MP_PARTNERS (R377). -/
def partnersWord (c : Chip) : Nat :=
  ((List.range 16).map (fun p =>
    let s := partnerWord c p % 4
    b2n (s == 2) * 2 ^ p + b2n (s == 3) * 2 ^ (p + 16))).sum

/-- A hub register, or a recorder register, as a read finds it: the value, and the package after it (R369: a read of a low half latches the
high one). None where no register stands. -/
def hubRead (off : Nat) (d : Dev) : Option (Nat × Dev) :=
  let c := d.chip
  let val := fun (v : Nat) => some (v, d)
  if among off 0x20100 4 32 then val (basinStatus c (basinNo ((off - 0x20100) / 4)))
  else if among off 0x20904 16 32 then val (wqStatus c (basinNo ((off - 0x20904) / 16)))
  else if off = rCadStatus then val (getReg c off + b2n (locked c) * 2)
  else if among off 0x23000 4 512 then val (slotWordOf c (basinNo ((off - 0x23000) / 64)) ((off - 0x23000) / 4 % 16))
  else if among off 0x25200 4 16 then val (partnerWord c ((off - 0x25200) / 4))
  else if among off 0x27000 8 256 then val (rcJobWord c ((off - 0x27000) / 8))
  else if off = rMsCtr 3 then some (getReg (countHold c) off, d.chipDo countHold)
  else if off = rWakeStatus then val (wakeStatus c)
  else if off = 0x3041C then val (d.fe.k % 2 ^ 32)
  else if off = 0x30524 then val (ringOldest d.fe)
  else if off = 0x31034 then some (c.gptpNs % 2 ^ 32, d.chipDo (fun c => putReg c 0x31038 (c.gptpNs / 2 ^ 32)))
  else if off = 0x3103C then some (c.syncNs % 2 ^ 32, d.chipDo (fun c => putReg c 0x31040 (c.syncNs / 2 ^ 32)))
  else if off = 0x40000 then val (secCtrl d.sec)
  else if off = 0x40010 then val (secStatus d.sec)
  else if off = 0x40014 then val (secLeaf d.sec)
  else if off = 0x40018 then val ((d.sec.head.map (·.seq)).getD 0)
  else if 0x41000 ≤ off ∧ off < 0x41680 then val (idWord d.sec (off - 0x41000))
  else if 0x80000 ≤ off ∧ off < 0xC0000 then
    val (match tabFind c.recorder.ring ((off - 0x80000) / 64) with | some r => r.w.getD (off % 64 / 4) 0 | none => 0)
  else if 0x100000 ≤ off ∧ off < 0x180000 then
    val (recWord c ((off - 0x100000) / 32) (off % 32 / 8) / 2 ^ (32 * (off / 4 % 2)) % 2 ^ 32)
  else if off < 0x100 then none
  else if (rowAt off).isSome then val (getReg c off)
  else none

/-! ### Register writes -/

/-- A write of NET_CFG (R369): a port that is not enabled has no link. -/
def wNetCfg (v : Nat) (c : Chip) : Chip :=
  (List.range 2).foldl (fun c p => if bit v (2 + p) then c else putF c (rPort p) 0 1 0) (storeReg c rNetCfg v)

/-- The first cycle start of a port after a time and not before BASE_TIME. -/
def cycleStart (c : Chip) (p : Nat) : Nat :=
  let base := tsnWord c (tsnBase p + 0x800)
  let cycle := getReg c (tsnBase p + 0x808)
  if c.gptpNs < base ∨ cycle = 0 then base else base + ((c.gptpNs - base) / cycle + 1) * cycle

/-- A write of the gate control of a port (R393): CHANGE makes the administrative list the operating one at the next cycle start. -/
def wGates (p : Fin 2) (v : Nat) (c : Chip) : Chip :=
  if !bit v 0 then c
  else
    let base := tsnBase p.val
    let n := getF c (base + 0x80C) 0 9
    let list := (List.range (min n 256)).map (fun i => (getReg c (base + 8 * i), getReg c (base + 8 * i + 4)))
    let g : GateList := { list := gatesAt c.gptpNs c.tx.gates[p], next := some (cycleStart c p.val, list) }
    { c with tx := { c.tx with gates := c.tx.gates.set p.val g p.isLt } }

/-- A write of a sequence recovery entry's word 1 (R393): RESET clears the stream's history. -/
def wRecovery (i v : Nat) (d : Dev) : Dev := if bit v 0 then modNet (fun m => { m with recovery := tabDel m.recovery i }) d else d

/-- A write of a hub register by a master: the code of its refusal, or 0 (R6). -/
def hubWrite (m : Master) (off v : Nat) (d : Dev) : Nat × Dev :=
  let onC := fun (f : Chip → Nat × Chip) =>
    let r := f d.chip
    (r.1, ({ d with chip := r.2 } : Dev))
  let ok := fun (f : Chip → Chip) => ((0 : Nat), d.chipDo f)
  if off = rEnable then onC (wBsEnable v)
  else if off = rTest then onC (wBsTest v)
  else if among off 0x20200 4 32 then onC (wBsClk (basinNo ((off - 0x20200) / 4)) v)
  else if off = rWqWindow then onC (wWqWindow v)
  else if off = rWqCancel then onC (fun c => let r := wWqCancel v c; (r.1, pollReady r.2))
  else if among off 0x20900 16 32 then onC (wWqBase (basinNo ((off - 0x20900) / 16)) v)
  else if among off 0x2090C 16 32 then onC (wWqPost m (basinNo ((off - 0x2090C) / 16)) v)
  else if off = rCadStatus then ok (fun c => if bit v 3 then putF c off 3 1 0 else c)
  else if off = 0x20C10 then onC (wCadCtrl none v)
  else if off = rPlCfg then onC (wPlCfg v)
  else if off = rPlHi then onC (wPlPost m v)
  else if off = rPlStatus then ok (fun c => if bit v 9 then putF c off 9 1 0 else c)
  else if off = rMsHi then onC (wMsPost m v)
  else if off = rThCfg then ok (wThCfg v)
  else if off = rMembers then ok (wMembers v)
  else if among off 0x25100 16 12 then ok (wLinkCtrl (linkNo ((off - 0x25100) / 16)) v)
  else if off = rFence then onC (wFence v)
  else if off = rBudget then onC (wBudget v)
  else if off = rWrCfg then onC (wWrCfg v)
  else if among off 0x26010 4 12 then onC (wWrCap off v)
  else if among off 0x27000 8 256 then onC (wRcJob ((off - 0x27000) / 8) v)
  else if off = rFeMute then wMute v d
  else if among off 0x30010 4 4 then wFeArray ((off - 0x30010) / 4) v d
  else if among off 0x30100 4 128 then wFeBeam ((off - 0x30100) / 4) v d
  else if off = rWakeStatus then ok (fun c => if bit v 3 then putF c off 3 1 0 else c)
  else if among off 0x30500 4 9 then wRing ((off - 0x30500) / 4) v d
  else if off = rFetch + 8 then wFetch v d
  else if off = rDsp + 4 then wDsp v d
  else if off = rNetCfg then ok (wNetCfg v)
  else if off = 0x34810 then ok (wGates 0 v)
  else if off = 0x38810 then ok (wGates 1 v)
  else if among off 0x3C408 16 64 then (0, wRecovery ((off - 0x3C408) / 16) v d)
  else if off = rErCfg then onC (wErCfg v)
  else if off = 0x40000 then secCommand m (fld v 0 3) d
  else if (0x80000 ≤ off ∧ off < 0xC0000) ∨ (0x100000 ≤ off ∧ off < 0x180000) then (eHubDenied, d)
  else if 0x41000 ≤ off ∧ off < 0x41680 then (0, d)
  else if off < 0x100 then (eUnbacked, d)
  else if (rowAt off).isSome then ok (fun c => storeReg c off v)
  else (eUnbacked, d)

/-! ### Profiles (R64, R90, R116, R143, R175, R203, R234, R266, R299, R328, R348, R370, R382, R419, R441) -/

/-- How many profiles each profile register has beside MANUAL. -/
def profileCount (k : Nat) : Nat := match k with | 0 => 2 | 3 => 2 | 4 => 2 | _ => 3

/-- The value of a setting in the profiles 1, 2 and 3. -/
def pick (v a b e : Nat) : Nat := match v with | 1 => a | 2 => b | _ => e

/-- BASIN_PROFILE: the basins that passed, all at one FREQ. -/
def basinProfile (freq : Nat) (c : Chip) : Chip :=
  let mask := ((List.finRange 32).map (fun b => if c.basins[b].selftest = 2 then 2 ^ b.val else 0)).sum
  (List.finRange 32).foldl (fun c b => (wBsClk b freq c).2) (wBsEnable mask c).2

/-- FABRIC_PROFILE: the links that it trains or takes down. -/
def fabricProfile (v : Nat) (c : Chip) : Chip :=
  let c := wThCfg (pick v 0x4088 0x4044 0x4088) c
  (List.finRange 12).foldl (fun c l =>
    if v = 3 then wLinkCtrl l 2 c
    else if (linkState c l = 0 ∨ linkState c l = 3) ∧ member c (linkPartner c l) then wLinkCtrl l 1 c
    else c) c

/-- FE_PROFILE: PATH, CLKSEL, DC_BLOCK and GAIN_SH of each array, and FE_WAKE_CFG but S1_SRC. -/
def feProfile (v : Nat) (d : Dev) : Dev :=
  let d := (List.range 4).foldl (fun d a =>
    let r := getReg d.chip (rFeArray a)
    let r := setFld (setFld (setFld (setFld r 1 1 (pick v 0 0 1)) 2 3 (pick v 2 2 3)) 7 1 1) 8 3 0
    (wFeArray a r d).2) d
  let wake := setFld (getReg d.chip rWakeCfg) 7 21 (24 + 3 * 2 ^ 6 + 50 * 2 ^ 10 + (if v = 1 then 0xF * 2 ^ 18 else 0))
  let d := d.chipDo (fun c => storeReg c rWakeCfg (setFld wake 0 1 (pick v 1 0 0)))
  if v = 1 ∧ !bit (getReg d.chip rRingCfg) 0 then (wRing 0 (getReg d.chip rRingCfg + 1) d).2 else d

/-- What profile `v`, 1 to 3, of profile register `k` writes. -/
def profileWrites (k v : Nat) (d : Dev) : Dev :=
  let st := fun (off x : Nat) => d.chipDo (fun c => storeReg c off x)
  match k with
  | 0 => d.chipDo (basinProfile (pick v 24 18 0))
  | 1 => d.chipDo (fun c => (List.range 32).foldl (fun c b => storeReg c (rSuCfg b) (pick v 0x23 0x31 0x14)) c)
  | 2 => st rStCfg (pick v 0x30 0x10 0x34)
  | 3 => st rAtCfg (pick v 2 1 0)
  | 4 => st rKvCfg (pick v 0x14 0x1F 0)
  | 5 => st rWqCfg (pick v 0x242714 0x242713 0x242710)
  | 6 => st rCadCfg (pick v 4 6 5)
  | 7 => st rCxCfg (pick v 0x640180 0x640150 0x640080)
  | 8 => d.chipDo (fun c => storeReg (putF c rPlCfg 8 8 (pick v 50 10 200)) rFlCfg 0x080A)
  | 9 => st rMsCfg (pick v 0x280803 0x280F03 0x640403)
  | 10 => d.chipDo (fabricProfile v)
  | 11 => feProfile v d
  | 12 => d.chipDo (wNetCfg (pick v 0x29FEE 0x29F1E 0x79FEE))
  | 13 => d.chipDo (fun c =>
      let c := storeReg c rBudget (pick v (450 + 600 * 65536) (300 + 400 * 65536) (200 + 250 * 65536))
      let ip := getF c rWrCfg 16 8 * 65536
      storeReg c rWrCfg (ip + pick v (20 + 4 * 256 + 100 * 2 ^ 24) (14 + 4 * 256 + 95 * 2 ^ 24) (9 + 8 * 256 + 90 * 2 ^ 24)))
  | _ => d.chipDo (fun c => (wErCfg (pick v 0xD 0xF 0xC) c).2)

/-- A small-map access as R373 answers it: STATUS, DATA, the error code that the alias gives (R376), and the package after it. -/
structure SmAnswer where
  status : Nat := 0
  data : Nat := 0
  code : Nat := 0
  dev : Dev

/-- A refusal with an error code (STATUS ERROR), or none where the code is 0. -/
def smError (code : Nat) (d : Dev) : SmAnswer := if code = 0 then { dev := d } else { status := 6, data := code, code := code, dev := d }

/-- UNAVAILABLE: the unit behind the register does not answer. -/
def smOff (d : Dev) : SmAnswer := { status := 5, code := eIwTimeout, dev := d }

/-- A write of a profile register (R382). The recorder's registers are served by the island; all others need the hub, which answers or does not
(R392). BUSY while an earlier profile is being applied (R373). -/
def writeProfile (k v : Nat) (x : Meets) (d : Dev) : SmAnswer :=
  let p := fld v 0 4
  let done := fun (d : Dev) => d.chipDo (fun c => putReg c (0x80 + 4 * k) p)
  if profileCount k < p then smError eMpProfile d
  else if k ≠ 14 ∧ (!hubOn d.chip ∨ x.silent) then smOff d
  else if x.applying then { status := 4, data := getReg d.chip (0x80 + 4 * k), dev := d }
  else { data := p, dev := done (if p = 0 then d else profileWrites k p d) }

/-- A write of a profile register by a master, through the small map or its alias (R376). -/
def profileBy (k : Nat) (m : Master) (v : RegWrite) (d : Dev) : Dev :=
  if d.chip.power.aonHeld then d else
  let r := if 3 < m.toNat then smError eHubDenied d else writeProfile k v.v.toNat v.meets d
  r.dev.chipDo (fun c => emit (.bus m (if r.status = 0 then r.data else 0) r.code) (reportAccess r.code 0x27 c))

/-! ### The small map (R377 to R388) -/

/-- The channel that MB_SEL names. -/
def selChannel (c : Chip) : Fin 64 := chanNo (getF c rMbSel 0 6)

/-- A small-map register as it stands, with no effect of a read. -/
def smPeek (i : Nat) (d : Dev) : Nat :=
  let c := d.chip
  match i with
  | 0 => setFld (getReg c 0) 20 4 (pkg c)
  | 8 => setFld (getReg c rPower) 5 1 (b2n c.power.change.isSome)
  | 14 => getF c rErPtr 0 16 + getF c rErStatus 0 12 * 65536
  | 15 => (erLatch c).getD (getF c rErPtr 12 4) 0
  | 18 =>
    let ch := selChannel c
    getF c rMbSel 0 6 + b2n c.mbox[ch].full * 256 + b2n (peerOff c 0 c.mbox[ch]) * 512
  | 19 => c.mbox[selChannel c].data.toNat
  | 21 => partnersWord c
  | _ => getReg c (4 * i)

/-- Is an index reserved (R377). -/
def smReserved (i : Nat) : Bool := decide ((0x17 ≤ i ∧ i < 0x20) ∨ 0x2F ≤ i)

/-- A read of the small map by the port, or through the alias as the port would read (R373, R376). -/
def smRead (i : Nat) (x : Meets) (d : Dev) : SmAnswer :=
  if smReserved i then { status := 3, code := eUnbacked, dev := d }
  else if i = 15 then
    let r := readErData d.chip
    { data := r.1, dev := { d with chip := r.2 } }
  else if i = 18 then
    let off := peerOff d.chip 0 d.chip.mbox[selChannel d.chip]
    { status := if off then 5 else 0, data := smPeek 18 d, code := if off then eMbOff else 0, dev := d }
  else if i = 21 ∧ (!hubOn d.chip ∨ x.silent) then smOff d
  else { data := smPeek i d, dev := d }

/-- A write of MP_POWER (R377): OFF, or REQ and CLAMP with GO. -/
def wPower (v : Nat) (x : Meets) (d : Dev) : Dev :=
  if bit v 16 then powerOff (d.chipDo (fun c => storeReg c rPower v))
  else
    let c := storeReg d.chip rPower v
    { d with chip := if bit v 4 then powerGo (x.pins.map (·.pwrGood)) (fld v 2 2) c else c }

/-! ### The indirect window (R379, R380) -/

/-- A 32-bit read of memory of the package: the value and the code. -/
def memLoad (a : Nat) (c : Chip) : Nat × Nat × Chip :=
  if !backed a 4 then (0, eUnbacked, c)
  else
    match runEff (readNat 0 a 4) c with
    | (c, .ok v) => (v, 0, c)
    | (c, .error e) => (0, e.code, c)

/-- The bytes of a word that enables pick, each with its place. -/
def enabledBytes (be v : Nat) : List (Nat × Byte) :=
  ((List.range 4).filter (bit be)).map (fun i => (i, BitVec.ofNat 8 (v / 256 ^ i)))

/-- A 32-bit write of memory of the package (R54): the code. -/
def memStore (a be v : Nat) (c : Chip) : Nat × Chip :=
  if !backed a 4 then (eUnbacked, c)
  else
    let w := do
      checkEcc 0 (a / 8 * 8) 8
      (enabledBytes be v).forM (fun p => change (fun c => putSub c (a + p.1) [p.2]))
    match runEff w c with
    | (c, .ok _) => (0, c)
    | (c, .error e) => (e.code, c)

/-- A 32-bit word of the hub SRAM. -/
def sramStore (a be v : Nat) (c : Chip) : Chip := (enabledBytes be v).foldl (fun c p => putMem c (a + p.1) [p.2]) c

/-- What the bytes that a write does not enable stand at: the bits that its register stores (R379). -/
def mergeReg (c : Chip) (off be v : Nat) : Nat :=
  let mask := ((List.range 4).map (fun i => if bit be i then 255 * 256 ^ i else 0)).sum
  let keep := match rowAt off with | some r => Nat.land (getReg c off) r.wmask | none => 0
  Nat.lor (Nat.land v mask) (Nat.land keep (2 ^ 32 - 1 - mask))

/-- May a master write a place of the hub range (R375, R380). -/
def mayWrite (m : Master) (off : Nat) : Bool :=
  let v := m.toNat
  ((v == 0 || v == 1) && !among off 0x10 4 4) ||
  ((v == 2 || v == 3) && !decide (0x40000 ≤ off ∧ off < 0x50000) && !decide (0x11000 ≤ off ∧ off < 0x12000) &&
    (decide (0x100 ≤ off) || off == 0x2C || among off 0x80 4 15))

/-- May a master read a place of the hub range (R375, R380). -/
def mayRead (m : Master) (off : Nat) : Bool :=
  let v := m.toNat
  ((v == 0 || v == 1) && !among off 0x10 4 4) || v == 2 || v == 3

/-- A write of a small-map register but GO (R373, R377 to R388). -/
def smWrite (i v : Nat) (x : Meets) (d : Dev) : SmAnswer :=
  let after := fun (d : Dev) => ({ data := smPeek i d, dev := d } : SmAnswer)
  let stored := after (d.chipDo (fun c => storeReg c (4 * i) v))
  let coded := fun (r : Nat × Dev) => if r.1 = 0 then after r.2 else smError r.1 r.2
  let onC := fun (r : Nat × Chip) => coded (r.1, { d with chip := r.2 })
  if smReserved i then { status := 3, code := eUnbacked, dev := d }
  else if 0x20 ≤ i then writeProfile (i - 0x20) v x d
  else if 4 ≤ i ∧ i ≤ 7 then
    if d.chip.window.busy then { status := 4, data := smPeek i d, dev := d } else stored
  else if i = 1 then after (d.chipDo (fun c => putReg c rStatus (Nat.land (getReg c rStatus) (1023 - Nat.land v 1023))))
  else if i = 8 then after (wPower v x d)
  else if i = 9 then coded (wReset v x.pins d)
  else if i = 10 then
    let d := if bit v 17 then d.chipDo (fun c => putF c rTherm 17 1 0) else d
    after (if bit v 18 then d.chipDo (fun c => putF c rTherm 8 8 (getF c rTherm 0 8)) else d)
  else if i = 13 then after (if bit v 0 then d.chipDo (fun c => putF c rLock 1 1 1) else d)
  else if i = 18 then
    if bit v 6 then
      let r := mbTake (chanNo (fld v 0 6)) d.chip
      coded (r.2.1, { d with chip := if r.2.1 = 0 then storeReg r.2.2 rMbSel v else r.2.2 })
    else stored
  else if i = 19 then onC (mbWrite 0 (selChannel d.chip) (BitVec.ofNat 32 v) d.chip)
  else if i = 21 ∧ (!hubOn d.chip ∨ x.silent) then smOff d
  else stored

/-! ### One 32-bit access of a master on this package (R375 to R380) -/

/-- What an access finds: its value, its code, or no answer (R380), and the package after it. -/
structure BusAnswer where
  data : Nat := 0
  code : Nat := 0
  silent : Bool := false
  dev : Dev

/-- A refusal, or a success with no value. -/
def busCode (code : Nat) (d : Dev) : BusAnswer := { code := code, dev := d }

/-- The unit that a refusal of an access to the hub range is reported with (R436). -/
def unitAt (off : Nat) : Nat :=
  if off < 0x12000 ∨ (0x80000 ≤ off ∧ off < 0xC1000) then 0x27 else if 0x30000 ≤ off ∧ off < 0x31000 then 0x26 else 0x24

/-- Does no unit answer a master at an offset of the hub range. -/
def noAnswer (m : Master) (off : Nat) (c : Chip) : Bool := !hubOn c && (m != 0 || !islandServes off)

/-- A read at a local address, 4-byte aligned. -/
def localRead (m : Master) (loc : Nat) (d : Dev) : BusAnswer :=
  let off := loc - hubBase
  let onC := fun (r : Nat × Nat × Chip) => ({ data := r.1, code := r.2.1, dev := { d with chip := r.2.2 } } : BusAnswer)
  if loc < hubBase then
    if 3 < m.toNat then busCode eHubDenied d
    else if !memOn d.chip then { silent := true, dev := d }
    else onC (memLoad (sys d.chip loc) d.chip)
  else if 0x10000 ≤ off ∧ off < 0x11000 then
    let ch := chanNo ((off - 0x10000) / 64)
    if off % 64 = 0 then onC (mbRead m ch d.chip) else if off % 64 = 4 then onC (mbPoll m ch d.chip) else { dev := d }
  else if noAnswer m off d.chip then { silent := true, dev := d }
  else if !mayRead m off then busCode eHubDenied d
  else if off < 0x100 then
    let a := smRead (off / 4) {} d
    { data := if a.status = 6 then 0 else a.data, code := a.code, dev := a.dev }
  else if 0x11000 ≤ off ∧ off < 0x11100 then { data := mbEntry d.chip (chanNo ((off - 0x11000) / 4)), dev := d }
  else if hubSram off then { data := leNat (memReadN d.chip.mem (sys d.chip loc) 4), dev := d }
  else
    match hubRead off d with
    | some (v, d) => { data := v, dev := d }
    | none => busCode eUnbacked d

/-- The bytes of a word with those that enables pick replaced. -/
def mergeWord (old be v : Nat) : Nat :=
  let mask := ((List.range 4).map (fun i => if bit be i then 255 * 256 ^ i else 0)).sum
  Nat.lor (Nat.land v mask) (Nat.land old (2 ^ 32 - 1 - mask))

/-- A write at a local address, 4-byte aligned, with what it meets. -/
def localWrite (m : Master) (loc be v : Nat) (x : Meets) (d : Dev) : BusAnswer :=
  let off := loc - hubBase
  let onD := fun (r : Nat × Dev) => busCode r.1 r.2
  let onC := fun (r : Nat × Chip) => busCode r.1 { d with chip := r.2 }
  if loc < hubBase then
    if 3 < m.toNat then busCode eHubDenied d
    else if !memOn d.chip then { silent := true, dev := d }
    else onC (memStore (sys d.chip loc) be v d.chip)
  else if 0x10000 ≤ off ∧ off < 0x11000 then
    let ch := chanNo ((off - 0x10000) / 64)
    if off % 64 = 0 then onC (mbWrite m ch (BitVec.ofNat 32 (mergeWord d.chip.mbox[ch].data.toNat be v)) d.chip) else { dev := d }
  else if noAnswer m off d.chip then { silent := true, dev := d }
  else if !mayWrite m off then busCode eHubDenied d
  else if off < 0x100 then
    let a := smWrite (off / 4) (mergeReg d.chip off be v) x d
    { code := a.code, dev := a.dev }
  else if 0x11000 ≤ off ∧ off < 0x11100 then
    let ch := chanNo ((off - 0x11000) / 4)
    onC (mbBind m ch (mergeWord (mbEntry d.chip ch) be v) d.chip)
  else if hubSram off then { dev := d.chipDo (sramStore (sys d.chip loc) be v) }
  else onD (hubWrite m off (mergeReg d.chip off be v) d)

/-- The address or offset that a report of an access names (R53, R54, R239): that of an uncorrectable word, an offset in a basin's SRAM. -/
def wordNamed (code loc : Nat) : Nat :=
  if code = eSramUe ∨ code = eDramUe then (match regionOf loc with | .sram _ => loc / 8 * 8 % 0x800000 | _ => loc / 8 * 8) else 0

/-- The refusal of an access is reported; the security engine reports its own. -/
def busReport (loc : Nat) (a : BusAnswer) : BusAnswer :=
  if loc = hubBase + 0x40000 ∨ a.code = 0 ∨ a.code = eLater then a
  else { a with dev := a.dev.chipDo (report { code := a.code, sev := sevOf a.code, src := unitAt (loc - hubBase), addr := wordNamed a.code loc }) }

/-- An access whose target gives no answer ends with IW_TIMEOUT (R380). -/
def busTimeout (a : BusAnswer) : BusAnswer := if a.silent then { code := eIwTimeout, dev := a.dev } else a

/-! ### Accesses that another package answers (R314, R379, R390) -/

/-- The bytes that enables pick, in runs without a gap. -/
def enabledRuns (be v : Nat) : List (Nat × List Byte) :=
  (enabledBytes be v).foldl (fun rs p =>
    match rs.getLast? with
    | some (o, bs) => if o + bs.length = p.1 then rs.dropLast ++ [(o, bs ++ [p.2])] else rs ++ [(p.1, [p.2])]
    | none => [(p.1, [p.2])]) []

/-- A 32-bit read of another package is sent: a READ_REQ asks for the aligned 64 bytes that hold the word (R308, R314). The code is FAB_FENCED
where it cannot be reached. -/
def farRead (m : Master) (who : Requester) (a : Nat) (c : Chip) : Nat × Chip :=
  match reach (pkgOf a) c with
  | (none, c) => (eFabFenced, c)
  | (some l, c) => (0, (sendRead l (a / 64 * 64) 64 m who c (a % 64)).2)

/-- A write of bytes of a word of another package is sent, one WRITE for each run of bytes; the first is the requester's. -/
def farWrite (m : Master) (who : Requester) (a be v : Nat) (c : Chip) : Nat × Chip :=
  match reach (pkgOf a) c with
  | (none, c) => (eFabFenced, c)
  | (some l, c) =>
    match enabledRuns be v with
    | [] => (0, c)
    | p :: r => (0, r.foldl (fun c p => (sendWrite l (a + p.1) p.2 m .hub c).2) (sendWrite l (a + p.1) p.2 m who c).2)

/-! ### The indirect window (R379, R380) -/

/-- An access of the window has begun and waits for its answer. -/
def windowWait (write : Bool) (c : Chip) : Chip := putF { c with window := { busy := true, write := write } } rIwCtrl 7 1 1

/-- An access of the window to this package. A read that is refused gives 0 (R237). -/
def windowLocal (write : Bool) (be loc v : Nat) (x : Meets) (d : Dev) : Dev :=
  let a : BusAnswer := if x.silent && !islandServes (loc - hubBase) then { silent := true, dev := d }
    else busReport loc (if write then localWrite 0 loc be v x d else localRead 0 loc d)
  if a.silent then a.dev.chipDo (windowWait write)
  else if a.code = eLater then a.dev.chipDo (fun c => windowWait write (laterBy .window c))
  else a.dev.chipDo (windowEnd (if write then none else some a.data) a.code)

/-- An access of the window to another package. -/
def windowFar (write : Bool) (be a v : Nat) (d : Dev) : Dev :=
  let r := if !hubOn d.chip then (0, d.chip) else if write then farWrite 0 .window a be v d.chip else farRead 0 .window a d.chip
  let d := { d with chip := windowWait write r.2 }
  if r.1 = 0 then d else d.chipDo (fun c => windowEnd none r.1 (reportAccess r.1 0x24 c))

/-- GO: the access that the IW_ registers describe. -/
def windowGo (x : Meets) (d : Dev) : Dev :=
  let c := d.chip
  let ctrl := getReg c rIwCtrl
  let a := getReg c rIwLo + fld (getReg c rIwHi) 0 16 * 2 ^ 32
  if a % 4 ≠ 0 ∨ (bit ctrl 1 ∧ fld ctrl 2 4 = 0) then d.chipDo (fun c => windowEnd none eIwAlign (reportAccess eIwAlign 0x27 c))
  else if pkgOf a = pkg c then windowLocal (bit ctrl 1) (fld ctrl 2 4) (locOf a) (getReg c rIwData) x d
  else windowFar (bit ctrl 1) (fld ctrl 2 4) a (getReg c rIwData) d

/-- A write of the small map by the port: IW_CTRL with GO starts an access. -/
def portWrite (i v : Nat) (x : Meets) (d : Dev) : SmAnswer :=
  if i = 7 ∧ bit v 0 ∧ !d.chip.window.busy then
    let d := windowGo x (smWrite 7 v x d).dev
    { data := smPeek 7 d, dev := d }
  else smWrite i v x d

/-- IW_READ: GO with WRITE 0. -/
def execIwRead (inc : Bool) (s : State) : Host.Outcome State Fault Refusal :=
  onDev (fun d => if d.chip.power.aonHeld then d
    else (portWrite 7 (setFld (setFld (getReg d.chip rIwCtrl) 0 2 1) 6 1 (b2n inc)) {} d).dev) s

/-- IW_WRITE: GO with WRITE 1. -/
def execIwWrite (be : BitVec 4) (inc : Bool) (s : State) : Host.Outcome State Fault Refusal :=
  onDev (fun d => if d.chip.power.aonHeld then d else (portWrite 7 (3 + be.toNat * 4 + b2n inc * 64) {} d).dev) s

/-- The window gives up (R380): what is under way is nobody's any more. -/
def windowTimeout (c : Chip) : Chip :=
  if !c.window.busy then c
  else
    let ts := c.fab.txns.map (fun t => if t.who = .window then { t with who := .hub } else t)
    let ps := c.fab.posts.map (fun p => if p.writer = .window then { p with writer := .nobody } else p)
    windowEnd none eIwTimeout (reportAccess eIwTimeout 0x27 { c with fab := { c.fab with txns := ts, posts := ps } })

/-- IW_TIMEOUT. -/
def execIwTimeout (s : State) : Host.Outcome State Fault Refusal := onChip windowTimeout s

/-! ### The management port (R371 to R374) -/

/-- The CRC of a frame (R372). -/
def crc8 (bs : List Nat) : Nat :=
  bs.foldl (fun x v => (List.range 8).foldl (fun x _ => if 128 ≤ x then Nat.xor (x * 2 % 256) 7 else x * 2) (Nat.xor x v)) 0xFF

/-- The bytes that a CRC covers, in wire order. -/
def frameBytes (first index data : Nat) : List Nat :=
  [first, index, data / 2 ^ 24 % 256, data / 2 ^ 16 % 256, data / 256 % 256, data % 256]

/-- A request frame is checked and served: STATUS and DATA (R373). -/
def portServe (f : PortFrame) (d : Dev) : SmAnswer :=
  let i := f.index.toNat
  if crc8 (frameBytes f.cmd.toNat i f.data.toNat) ≠ f.crc.toNat then
    { status := 1, dev := d.chipDo (fun c => putF c rCount 0 16 (getF c rCount 0 16 + 1)) }
  else if f.cmd.toNat ≠ 0xA5 ∧ f.cmd.toNat ≠ 0x5A then { status := 2, dev := d }
  else if 0x40 ≤ i then { status := 3, dev := d }
  else
    let a := if f.cmd.toNat = 0xA5 then smRead i f.meets d else portWrite i f.data.toNat f.meets d
    { a with dev := if a.status = 6 then a.dev.chipDo (reportAccess a.code 0x27) else a.dev }

/-- A whole frame: it is answered, but not in always-on reset (R415). -/
def portFrame (f : PortFrame) (d : Dev) : Dev :=
  if d.chip.power.aonHeld then d
  else
    let a := portServe f d
    a.dev.chipDo (emit (.port a.status f.index.toNat a.data (crc8 (frameBytes a.status f.index.toNat a.data))))

/-- READ. -/
def execRead (f : PortFrame) (s : State) : Host.Outcome State Fault Refusal := onDev (portFrame f) s

/-- WRITE of the port. -/
def execMpWrite (f : PortFrame) (s : State) : Host.Outcome State Fault Refusal := onDev (portFrame f) s

/-- A frame ended early (R374). -/
def abortFrame (f : PortFrame) (late : Bool) (d : Dev) : Dev :=
  if d.chip.power.aonHeld then d
  else
    let d := if late then (portServe f d).dev else d
    d.chipDo (fun c => putF c rCount 16 16 (getF c rCount 16 16 + 1))

/-- FRAME_ABORT. -/
def execFrameAbort (f : PortFrame) (late : Bool) (s : State) : Host.Outcome State Fault Refusal := onDev (abortFrame f late) s

/-- ER_DATA_READ, by the management port. -/
def execErDataRead (s : State) : Host.Outcome State Fault Refusal :=
  onChip (fun c =>
    if c.power.aonHeld then c
    else
      let r := readErData c
      emit (.bus 0 r.1 0) r.2) s

/-- LOCK. -/
def execLock (m : Master) (s : State) : Host.Outcome State Fault Refusal := onChip (islandWrite m (okWrite (fun c => putF c rLock 1 1 1))) s

/-! ### Mailboxes by any master (R384 to R388) -/

/-- BINDING_WRITE. -/
def execBindingWrite (m : Master) (ch : Fin 64) (v : BitVec 32) (s : State) : Host.Outcome State Fault Refusal :=
  onChip (islandWrite m (mbBind m ch v.toNat)) s

/-- What a mailbox access does to a channel of this package: the value, the code, and the package after it. -/
def mbAct (m : Master) (op : MbOp) (ch : Fin 64) (v : BitVec 32) (c : Chip) : Nat × Nat × Chip :=
  match op with
  | .write => (0, mbWrite m ch v c)
  | .read => mbRead m ch c
  | .poll => mbPoll m ch c

/-- An access of the management core to a channel of another package leaves as a MSG (R390): the code of its refusal, or 0. -/
def farMailbox (op : MbOp) (p : Pkg) (ch : Fin 64) (v : Nat) (c : Chip) : Nat × Chip :=
  match reach p.toNat c with
  | (none, c) => (eFabFenced, c)
  | (some _, c) => (0, sendHub p.toNat (.mailbox op ch.val v) { c with fab := { c.fab with mails := c.fab.mails ++ [(op, p, ch)] } })

/-- A mailbox access by a master (R385 to R387, R390). A dead master makes none; one that came from another package is answered by a MSG. -/
def mboxBy (m : Master) (op : MbOp) (x : MbChan) (v : BitVec 32) (c : Chip) : Chip :=
  let ends := fun (data code : Nat) (c : Chip) => emit (.bus m data code) (reportAccess code 0x27 c)
  if c.power.aonHeld then c else
  match x.via with
  | .here =>
    if deadMaster c m then (if 0x40 ≤ m.toNat then c else ends 0 eIwTimeout c)
    else
      let r := mbAct m op x.n v c
      if 0x40 ≤ m.toNat then sendHub (m.toNat - 0x40) (.mailboxAnswer op x.n.val r.1 r.2.1) r.2.2 else ends r.1 r.2.1 r.2.2
  | .out p =>
    if m ≠ 1 ∨ p.toNat = pkg c then ends 0 eHubDenied c
    else if !hubOn c then ends 0 eIwTimeout c
    else
      let r := farMailbox op p x.n v.toNat c
      if r.1 = 0 then r.2 else ends 0 r.1 r.2
  | .answer p data code =>
    if fenced c p.toNat || !c.fab.mails.contains (op, p, x.n) then c
    else ends data.toNat code.toNat { c with fab := { c.fab with mails := c.fab.mails.erase (op, p, x.n) } }

/-- MB_DATA_WRITE. -/
def execMbDataWrite (m : Master) (ch : MbChan) (v : BitVec 32) (s : State) : Host.Outcome State Fault Refusal := onChip (mboxBy m .write ch v) s

/-- MB_DATA_READ. -/
def execMbDataRead (m : Master) (ch : MbChan) (s : State) : Host.Outcome State Fault Refusal := onChip (mboxBy m .read ch 0) s

/-- STATUS_POLL. -/
def execStatusPoll (m : Master) (ch : MbChan) (s : State) : Host.Outcome State Fault Refusal := onChip (mboxBy m .poll ch 0) s

/-- A write of MB_SEL with TAKE. -/
def takeWord (ch : Fin 64) (d : Dev) : Dev :=
  if d.chip.power.aonHeld then d
  else
    let a := smWrite 18 (ch.val + 64) {} d
    a.dev.chipDo (fun c => emit (.bus 0 (if a.status = 0 then a.data else 0) a.code) (reportAccess a.code 0x27 c))

/-- TAKE. -/
def execTake (ch : Fin 64) (s : State) : Host.Outcome State Fault Refusal := onDev (takeWord ch) s

/-! ### Profiles -/

/-- BASIN_PROFILE. -/
def execBasinProfile (m : Master) (v : RegWrite) (s : State) : Host.Outcome State Fault Refusal := onDev (profileBy 0 m v) s
/-- SCALE_PROFILE. -/
def execScaleProfile (m : Master) (v : RegWrite) (s : State) : Host.Outcome State Fault Refusal := onDev (profileBy 1 m v) s
/-- STATE_PROFILE. -/
def execStateProfile (m : Master) (v : RegWrite) (s : State) : Host.Outcome State Fault Refusal := onDev (profileBy 2 m v) s
/-- ATTN_PROFILE. -/
def execAttnProfile (m : Master) (v : RegWrite) (s : State) : Host.Outcome State Fault Refusal := onDev (profileBy 3 m v) s
/-- KV_PROFILE. -/
def execKvProfile (m : Master) (v : RegWrite) (s : State) : Host.Outcome State Fault Refusal := onDev (profileBy 4 m v) s
/-- WQ_PROFILE. -/
def execWqProfile (m : Master) (v : RegWrite) (s : State) : Host.Outcome State Fault Refusal := onDev (profileBy 5 m v) s
/-- CADENCE_PROFILE. -/
def execCadenceProfile (m : Master) (v : RegWrite) (s : State) : Host.Outcome State Fault Refusal := onDev (profileBy 6 m v) s
/-- COMPRESS_PROFILE. -/
def execCompressProfile (m : Master) (v : RegWrite) (s : State) : Host.Outcome State Fault Refusal := onDev (profileBy 7 m v) s
/-- PLACE_PROFILE. -/
def execPlaceProfile (m : Master) (v : RegWrite) (s : State) : Host.Outcome State Fault Refusal := onDev (profileBy 8 m v) s
/-- MODEL_PROFILE. -/
def execModelProfile (m : Master) (v : RegWrite) (s : State) : Host.Outcome State Fault Refusal := onDev (profileBy 9 m v) s
/-- FABRIC_PROFILE. -/
def execFabricProfile (m : Master) (v : RegWrite) (s : State) : Host.Outcome State Fault Refusal := onDev (profileBy 10 m v) s
/-- FE_PROFILE. -/
def execFeProfile (m : Master) (v : RegWrite) (s : State) : Host.Outcome State Fault Refusal := onDev (profileBy 11 m v) s
/-- NET_PROFILE. -/
def execNetProfile (m : Master) (v : RegWrite) (s : State) : Host.Outcome State Fault Refusal := onDev (profileBy 12 m v) s
/-- POWER_PROFILE. -/
def execPowerProfile (m : Master) (v : RegWrite) (s : State) : Host.Outcome State Fault Refusal := onDev (profileBy 13 m v) s
/-- RECORD_PROFILE. -/
def execRecordProfile (m : Master) (v : RegWrite) (s : State) : Host.Outcome State Fault Refusal := onDev (profileBy 14 m v) s

/-! ### A register write of any master (R6, R375, R390) -/

/-- A write to another package: its answer comes later, but for a refusal. -/
def writeFar (m : Master) (a v : Nat) (c : Chip) : Chip :=
  let r := if !hubOn c then (eIwTimeout, c)
    else if 3 < m.toNat then (eHubDenied, c)
    else if m.toNat = 1 ∧ 0xF0000010000 ≤ locOf a ∧ locOf a < 0xF0000011000 then
      (if locOf a % 64 = 0 then farMailbox .write (BitVec.ofNat 4 (pkgOf a)) (chanNo ((locOf a - 0xF0000010000) / 64)) v c else (0, emit (.bus m 0 0) c))
    else farWrite m (.bus m) a 15 v c
  if r.1 = 0 then r.2 else emit (.bus m 0 r.1) (reportAccess r.1 0x24 r.2)

/-- A 32-bit write of a master at a system address. -/
def registerWrite (m : Master) (a : Nat) (v : RegWrite) (d : Dev) : Dev :=
  if d.chip.power.aonHeld then d
  else if a % 4 ≠ 0 then d.chipDo (fun c => emit (.bus m 0 eIwAlign) (reportAccess eIwAlign 0x24 c))
  else if pkgOf a = pkg d.chip then
    let r := busReport (locOf a) (busTimeout (localWrite m (locOf a) 15 v.v.toNat v.meets d))
    r.dev.chipDo (if r.code = eLater then laterBy (.bus m) else emit (.bus m r.data r.code))
  else d.chipDo (writeFar m a v.v.toNat)

/-- REGISTER_WRITE. -/
def execRegisterWrite (m : Master) (addr : BitVec 48) (v : RegWrite) (s : State) : Host.Outcome State Fault Refusal :=
  onDev (registerWrite m addr.toNat v) s

/-! ### Host control channels (R367) -/

/-- A host channel changed. -/
def setCtl (chB : Bool) (x : Ctl) (c : Chip) : Chip := { c with ctl := c.ctl.set (b2n chB) x (by cases chB <;> decide) }

/-- A host channel. -/
def ctlOf (c : Chip) (chB : Bool) : Ctl := c.ctl[b2n chB]'(by cases chB <;> decide)

/-- The access of a host's request that was received. The host channels read this package alone (R375). -/
def ctrlAccess (x : CtrlRequest) (d : Dev) : Dev :=
  let m : Master := if x.chB then 3 else 2
  let seq := x.udp.seq.toNat
  let a := x.addr.toNat
  let refuse := fun (code : Nat) (c : Chip) => ctlAnswer x.chB seq 0 code (reportAccess code 0x24 c)
  let d := d.chipDo (setCtl x.chB { seq := some seq })
  if 1 < x.op.toNat then d.chipDo (refuse eHubDenied)
  else if a % 4 ≠ 0 then d.chipDo (refuse eIwAlign)
  else if pkgOf a = pkg d.chip then
    let r := busReport (locOf a) (busTimeout (if x.op = 1 then localWrite m (locOf a) 15 x.data.toNat {} d else localRead m (locOf a) d))
    r.dev.chipDo (if r.code = eLater then laterBy (.ctrl x.chB seq) else ctlAnswer x.chB seq r.data r.code)
  else if x.op = 0 then d.chipDo (refuse eHubDenied)
  else
    let r := farWrite m (.ctrl x.chB seq) a 15 x.data.toNat d.chip
    { d with chip := if r.1 = 0 then r.2 else refuse r.1 r.2 }

/-- A request of a host that was received. One whose SEQ was served last is answered again. -/
def ctrlIn (x : CtrlRequest) (d : Dev) : Dev :=
  if hostBad d.chip (2 + b2n x.chB) 4 x.udp then d
  else if (ctlOf d.chip x.chB).seq = some x.udp.seq.toNat then
    d.chipDo (fun c =>
      let c := bump c (0x3111C)
      match (ctlOf c x.chB).answer with
      | some (data, code) => ctlAnswer x.chB x.udp.seq.toNat data code c
      | none => c)
  else ctrlAccess x d

/-- A request of a host (R367). -/
def ctrlReq (x : CtrlRequest) (d : Dev) : Dev := receiveFrame x.udp.frame (ctrlIn x) d

/-- CTRL_REQ. -/
def execCtrlReq (x : CtrlRequest) (s : State) : Host.Outcome State Fault Refusal := onDev (ctrlReq x) s

/-! ### Requests that arrive over the fabric (R314) -/

/-- A flit of a type arrives, and what is accepted is acted on by the whole package. -/
def onFlitDev (l : Fin 12) (ty : Nat) (f : Flit) (act : Dev → Dev) (d : Dev) : Dev :=
  if f.ty.toNat ≠ ty ∧ (vcOf f.ty.toNat).isSome then d
  else
    let r := receive l f d.chip
    let d := { d with chip := r.2 }
    match r.1 with
    | .accepted => act d
    | .discarded => d

/-- A request: forwarded, or served here. -/
def deliverDev (l : Fin 12) (f : Flit) (act : Dev → Dev) (d : Dev) : Dev :=
  if fromFenced d.chip f then d.chipDo (returnCredit l f.vc.toNat)
  else if f.dst.toNat ≠ pkg d.chip then d.chipDo (forward l f)
  else act (d.chipDo (returnCredit l f.vc.toNat))

/-- The code of an access that came over the fabric (R375). -/
def farCode (a : BusAnswer) : Nat := let c := (busTimeout a).code; if c = eHubDenied then eFabDenied else c

/-- The words that a range of bytes touches: the local address of each, its byte enables, and its value. -/
def touched (loc : Nat) (bs : List Byte) : List (Nat × Nat × Nat) :=
  (span (loc / 4) ((loc + bs.length + 3) / 4 - loc / 4)).map (fun w =>
    let here := (List.range 4).filter (fun i => decide (loc ≤ 4 * w + i ∧ 4 * w + i < loc + bs.length))
    (4 * w, (here.map (2 ^ ·)).sum, (here.map (fun i => (bs.getD (4 * w + i - loc) 0).toNat * 256 ^ i)).sum))

/-- Register writes of another package's master 0x00 or 0x01, in address order up to the first that is refused; a write of COUNT may be answered
later. -/
def farRegs (m : Master) : List (Nat × Nat × Nat) → Dev → Nat × Dev
  | [], d => (0, d)
  | w :: r, d =>
    let a := localWrite m w.1 w.2.1 w.2.2 {} d
    if farCode a = 0 then farRegs m r a.dev
    else if farCode a = eLater then
      let q := farRegs m r a.dev
      (if q.1 = 0 then eLater else q.1, q.2)
    else (farCode a, a.dev)

/-- Register reads of another package's master 0x00 or 0x01. -/
def farWords (m : Master) : List Nat → Dev → Except Nat (List Byte) × Dev
  | [], d => (.ok [], d)
  | loc :: r, d =>
    let a := localRead m loc d
    if farCode a ≠ 0 then (.error (farCode a), a.dev)
    else
      match farWords m r a.dev with
      | (.ok bs, d) => (.ok (leBytes 4 a.data ++ bs), d)
      | (.error e, d) => (.error e, d)

/-- Bytes of a WRITE for memory (R54, R239): a word at an end that they fill in part is read, checked once, and written whole. -/
def remoteStore (a : Nat) (bs : List Byte) : Eff Unit := do
  stopIf (!backed a bs.length) eUnbacked 0x24 a
  let parts := ((if a % 8 = 0 then [] else [a / 8]) ++ (if (a + bs.length) % 8 = 0 then [] else [(a + bs.length) / 8])).eraseDups
  parts.forM (fun w => checkEcc 0x24 (8 * w) 8)
  writeMem a bs
  change (fun c => { c with ecc := parts.foldl tabDel c.ecc })

/-- A WRITE at its home: WRITE_ACK, or ERR_RESP. -/
def serveWrite (f : Flit) (d : Dev) : Dev :=
  let a := sys d.chip f.addr.toNat
  let bs := flitData f
  let r := if inHub a bs.length then
      (if 1 < f.master.toNat then (eFabDenied, d) else farRegs f.master (touched f.addr.toNat bs) d)
    else
      match runEff (remoteStore a bs) d.chip with
      | (c, .ok _) => (0, { d with chip := c })
      | (c, .error e) => (e.code, { d with chip := c })
  if r.1 = eLater then r.2.chipDo (laterBy (.flit f.src f.tag.toNat f.addr))
  else r.2.chipDo (fun c => sendAnswer (ackFlit c f.src f.tag.toNat f.addr.toNat r.1) none c)

/-- WRITE. -/
def execWrite (l : Fin 12) (f : Flit) (s : State) : Host.Outcome State Fault Refusal := onDev (onFlitDev l 2 f (deliverDev l f (serveWrite f))) s

/-- READ_DATA flits with the bytes of a range, coded for the link where LINK_CODE says so (R231); the home does not know the job. -/
def sendData (f : Flit) (bs : List Byte) (c : Chip) : Chip :=
  let c := match routeLink f.src.toNat c with
    | some l => codeLink l 0 (sys c f.addr.toNat) bs c
    | none => c
  (pieces 256 f.addr.toNat bs.length).foldl (fun c p =>
    let g := answerFlit c f 5 ((bs.drop (p.1 - f.addr.toNat)).take p.2)
    sendAnswer { g with addr := BitVec.ofNat 44 p.1 } none c) c

/-- A READ_REQ at its home: READ_DATA, or ERR_RESP. -/
def serveRead (f : Flit) (d : Dev) : Dev :=
  let a := sys d.chip f.addr.toNat
  let n := f.len.toNat
  let r : Except Nat (List Byte) × Dev := if inHub a n then
      (if 1 < f.master.toNat then (.error eFabDenied, d)
       else farWords f.master ((List.range (ceilDiv n 4)).map (fun i => f.addr.toNat + 4 * i)) d)
    else
      match runEff (do
        remoteCheck a n
        readMem 0x24 a n) d.chip with
      | (c, .ok bs) => (.ok bs, { d with chip := c })
      | (c, .error e) => (.error e.code, { d with chip := c })
  match r with
  | (.ok bs, d) => d.chipDo (sendData f bs)
  | (.error e, d) => d.chipDo (fun c => sendAnswer (errFlit c f.src.toNat f.tag.toNat e) none c)

/-- READ_REQ. -/
def execReadReq (l : Fin 12) (f : Flit) (s : State) : Host.Outcome State Fault Refusal := onDev (onFlitDev l 4 f (deliverDev l f (serveRead f))) s

end Sys2Proof.Machine
end

