-- ==== Sys2Proof/Machine/Startup.lean ====
section
/-! DEFINITION. The stages of start-up (R411): the flash and the identity, firmware and the configuration blob (R413, R414, R447, R448),
memory, dies, self-tests, and the mode that is entered at the end. -/

namespace Sys2Proof.Machine

/-! ### Stage HUB -/

/-- The flash is mounted (R262, R263). The blocks of a flash that was never mounted, and its spares, are free values (log entry 1). -/
def mountFlash (channels rawGib : Nat) (c : Chip) : Chip :=
  let c := if c.flash.blocks ≠ 0 then c
    else
      let r := drawNat c (2 ^ 32)
      let q := drawNat r.2 (2 ^ 32)
      let blocks := r.1 + 50
      { q.2 with flash := { q.2.flash with blocks := blocks, spares := blocks / 50 + 1 + q.1 } }
  let low := decide (c.flash.spares * 50 < c.flash.blocks)
  putReg c rFlStatus (rawGib * 93 / 100 % 2 ^ 14 + b2n low * 2 ^ 14 + b2n (c.flash.spares == 0) * 2 ^ 15 + channels % 256 * 2 ^ 16)

/-- Stage HUB ends: the flash is mounted, the engine has its identity or has not (R443), and a boot nonce is drawn (R324). -/
def hubStage (x : StageIn) (d : Dev) : Dev :=
  (secStart (d.chipDo (mountFlash x.channels.toNat x.rawGib))).chipDo (fun c => setBoot .firmware (putReg c rNonce x.entropy.toNat))

/-! ### Stages FIRMWARE and BLOB -/

/-- The firmware copy at an offset, if boot ROM accepts it (R447): its VERSION and its SHA-256. -/
def firmwareAt (c : Chip) (o : Nat) : Option (Nat × List Byte) :=
  let a := ownFlash c o
  let head := flashBytes c a 256
  let len := numAt head 8 4
  if numAt head 0 4 = 0x57463631 ∧ len % 64 = 0 ∧ 64 ≤ len ∧ len ≤ 16773632 ∧ numAt head 12 4 < len ∧ zeros head 16 240 ∧
      !flashBad c a (256 + len + 3284) then
    let body := flashBytes c a (256 + len)
    if Config.hssVerify Config.vendorRoot body (flashBytes c (a + 256 + len) 3284) then some (numAt head 4 4, Config.sha256 body) else none
  else none

/-- The copy that start-up takes: A, or with BOOT_ALT B, and else the other. 0 is A. -/
def chooseFirmware (c : Chip) : Option (Nat × Nat × List Byte) :=
  let copy := fun (n : Nat) => (firmwareAt c (n * 0x1000000)).map (fun x => (n, x))
  let first := b2n c.power.bootAlt
  match copy first with
  | some x => some x
  | none => copy (1 - first)

/-- The flash with the reads of the copies counted (R263): the first, and the other where the first failed. -/
def firmwareReads (c : Chip) : Chip :=
  let read := fun (n : Nat) (c : Chip) =>
    let a := ownFlash c (n * 0x1000000)
    countReads a (256 + min 16773632 (numAt (flashBytes c a 256) 8 4) + 3284) c
  let first := b2n c.power.bootAlt
  let e := read first c
  if (firmwareAt c (first * 0x1000000)).isSome then e else read (1 - first) e

/-- Neither copy verified: FAILED, and OFF (R411). -/
def bootFailed (d : Dev) : Dev :=
  (everythingOff d).chipDo (fun c => setStatus 9 (islandReport eBootFw (putF (setBoot .failed c) rBoot 5 1 0)))

/-- Stage FIRMWARE ends. The ML-KEM keys are ready (R446). -/
def firmwareStage (d : Dev) : Dev :=
  let d := d.chipDo firmwareReads
  match chooseFirmware d.chip with
  | none => bootFailed d
  | some (n, version, hash) =>
    let sec := { d.sec with fwHash := hash, fwVersion := version, fwCopy := n, kemReady := d.sec.root.isSome }
    { d with sec := sec, chip := setBoot .blob (putF d.chip rBoot 5 1 1) }

/-- A configuration blob that verified (R413). -/
structure Blob where
  macA : Nat
  macB : Nat
  writes : List (Nat × Nat)
  hash : List Byte

/-- The blob of the package, if it passes its checks (R413, R448). -/
def blobOf (c : Chip) : Option Blob :=
  let a := ownFlash c 0x2000000
  let head := flashBytes c a 64
  let len := numAt head 8 8
  let n := numAt head 32 8
  if numAt head 0 4 = 0x464E4F43 ∧ numAt head 4 2 = 1 ∧ zeros head 6 2 ∧ n ≤ 256 ∧ len = 64 + 16 * n ∧ zeros head 40 24 ∧
      !flashBad c a (roundUp len 64 + 6824) then
    let bs := flashBytes c a (roundUp len 64 + 6824)
    let cert := cut bs (roundUp len 64) 3540
    if certOk cert && bit (numAt cert 16 8) 2 && Config.hssVerify (cut cert 64 60) (bs.take len) (cut bs (roundUp len 64 + 3540) 3284) then
      some { macA := numAt head 16 6, macB := numAt head 24 6, hash := Config.sha256 (bs.take len),
             writes := (List.range n).map (fun i => (numAt bs (64 + 16 * i) 6, numAt bs (72 + 16 * i) 4)) }
    else none
  else none

/-- The flash with the reads of the blob counted (R263). -/
def blobReads (c : Chip) : Chip :=
  let a := ownFlash c 0x2000000
  countReads a (if (blobOf c).isSome then roundUp (numAt (flashBytes c a 64) 8 8) 64 + 6824 else 64) c

/-- One write of the blob by the management core (R414): a refusal is recorded. -/
def blobWrite (d : Dev) (w : Nat × Nat) : Dev :=
  if w.1 % 4 ≠ 0 ∨ w.1 < hubBase ∨ 2 ^ 44 ≤ w.1 then d.chipDo (reportAccess eUnbacked 0x28)
  else (busReport w.1 (busTimeout (localWrite 1 w.1 15 w.2 {} d))).dev

/-! ### The end of start-up -/

/-- READY: VDD_FE comes up from OFF, the writes of a verified blob are applied, and the requested mode is entered (R411, R414). MP_STATUS.RESET tells
of a reset, and POWER of a GO (R398). -/
def readyStage (x : StageIn) (target : Nat) (d : Dev) : Dev :=
  let d := if modeOf d.chip = 3 then feUp d else d
  let ws := if bit (getReg d.chip rBoot) 4 then ((blobOf d.chip).map (·.writes)).getD [] else []
  let d := ws.foldl blobWrite d
  let d := if target = 2 then (hubToListen d).chipDo (setMode 2)
    else d.chipDo (fun c => if target = 0 then enterActive x.entropy.toNat c else setMode 1 c)
  let run := d.chip.power.resetRun
  let go := match d.chip.power.change with | some x => !x.fromReset | none => true
  let c := setBoot .ready (modPower (fun p => { p with change := none, resetRun := false }) d.chip)
  let c := { c with recorder := { c.recorder with iv := { c.recorder.iv with powered := c.recorder.iv.powered || decide (target ≤ 1) } } }
  let c := mark target false c
  let c := if run then setStatus 0 c else c
  { d with chip := if go then setStatus 9 c else c }

/-- Stage BLOB ends (R411, R448): MAC addresses and publishers, or no port. Start-up toward LISTEN is then at its end. -/
def blobStage (x : StageIn) (target : Nat) (d : Dev) : Dev :=
  let d := (readPubs d).chipDo blobReads
  let d := match blobOf d.chip with
    | some b =>
      { d with net := { d.net with macA := b.macA, macB := b.macB }, sec := { d.sec with blobHash := b.hash }, chip := putF d.chip rBoot 4 1 1 }
    | none => d.chipDo (fun c => report { code := eBootBlob, sev := sevOf eBootBlob, src := 0x28 } (wNetCfg (setFld (getReg c rNetCfg) 2 2 0) c))
  if target = 2 then readyStage x target d else d.chipDo (setBoot .dram)

/-- Stage DRAM ends: every word of the stacks and cisterns is 0. Start-up toward IDLE is then at its end. -/
def dramStage (x : StageIn) (target : Nat) (d : Dev) : Dev :=
  let d := d.chipDo (fun c => zeroRange (sys c 0) (sys c 0x80100000000) c)
  if target = 1 then readyStage x target d else d.chipDo (setBoot .dies)

/-- Stage DIES ends: the basins' PLLs are locked at FREQ 24, and their self-tests run. -/
def diesStage (c : Chip) : Chip :=
  let c := modBasins (fun _ s => { s with selftest := 1, pllLock := true }) c
  setBoot .selftest ((List.range 32).foldl (fun c b => putReg c (rClk b) (24 + 256)) c)

/-- A stage of start-up ends, and the next begins. -/
def stageDone (x : StageIn) (d : Dev) : Dev :=
  match d.chip.power.change with
  | none => d
  | some ch =>
    match d.chip.power.boot with
    | .hub => hubStage x d
    | .firmware => firmwareStage d
    | .blob => blobStage x ch.target d
    | .dram => dramStage x ch.target d
    | .dies => d.chipDo diesStage
    | .selftest => if (List.finRange 32).any (fun b => d.chip.basins[b].selftest == 1) then d else readyStage x ch.target d
    | .off => d
    | .ready => d
    | .failed => d

/-- STARTUP_STAGE_DONE. -/
def execStartupStageDone (x : StageIn) (s : State) : Host.Outcome State Fault Refusal := onDev (stageDone x) s

end Sys2Proof.Machine
end

