-- ==== Sys2Proof/Machine/Dispatch.lean ====
section
/-! DEFINITION. The dispatch: one arm for each command, one direct call of its meaning. -/

namespace Sys2Proof.Machine

def exec (i : Instr) (s : State) : Host.Outcome State Fault Refusal :=
  match i with
  | .nop b c => Sys2Proof.Machine.execNop b c s
  | .matmul b c => Sys2Proof.Machine.execMatmul b c s
  | .kvAppend b c => Sys2Proof.Machine.execKvAppend b c s
  | .add b c => Sys2Proof.Machine.execAdd b c s
  | .sub b c => Sys2Proof.Machine.execSub b c s
  | .mul b c => Sys2Proof.Machine.execMul b c s
  | .fma b c => Sys2Proof.Machine.execFma b c s
  | .max b c => Sys2Proof.Machine.execMax b c s
  | .min b c => Sys2Proof.Machine.execMin b c s
  | .scale b c => Sys2Proof.Machine.execScale b c s
  | .cvt b c => Sys2Proof.Machine.execCvt b c s
  | .iadd b c => Sys2Proof.Machine.execIadd b c s
  | .isub b c => Sys2Proof.Machine.execIsub b c s
  | .imul b c => Sys2Proof.Machine.execImul b c s
  | .imax b c => Sys2Proof.Machine.execImax b c s
  | .rowMax b c => Sys2Proof.Machine.execRowMax b c s
  | .rowSum b c => Sys2Proof.Machine.execRowSum b c s
  | .exp2 b c => Sys2Proof.Machine.execExp2 b c s
  | .recip b c => Sys2Proof.Machine.execRecip b c s
  | .rsqrt b c => Sys2Proof.Machine.execRsqrt b c s
  | .log2 b c => Sys2Proof.Machine.execLog2 b c s
  | .tanh b c => Sys2Proof.Machine.execTanh b c s
  | .descriptorComplete b c j => Sys2Proof.Machine.execDescriptorComplete b c j s
  | .gangModeChange b cycles => Sys2Proof.Machine.execGangModeChange b cycles s
  | .sramCorrectWriteback b word => Sys2Proof.Machine.execSramCorrectWriteback b word s
  | .scrubRead b line => Sys2Proof.Machine.execScrubRead b line s
  | .freqWrite m b v => Sys2Proof.Machine.execFreqWrite m b v s
  | .pllRelockDone b => Sys2Proof.Machine.execPllRelockDone b s
  | .stretchApply b => Sys2Proof.Machine.execStretchApply b s
  | .bsEnableWrite m v => Sys2Proof.Machine.execBsEnableWrite m v s
  | .bsTestStart m v => Sys2Proof.Machine.execBsTestStart m v s
  | .selftestDone b failUnit => Sys2Proof.Machine.execSelftestDone b failUnit s
  | .stateChunk b c => Sys2Proof.Machine.execStateChunk b c s
  | .save b c => Sys2Proof.Machine.execSave b c s
  | .restore b c => Sys2Proof.Machine.execRestore b c s
  | .clearHook b c => Sys2Proof.Machine.execClearHook b c s
  | .attnPartialForward b c wait => Sys2Proof.Machine.execAttnPartialForward b c wait s
  | .attnBackwardP b c wait => Sys2Proof.Machine.execAttnBackwardP b c wait s
  | .attnBackwardDs b c wait => Sys2Proof.Machine.execAttnBackwardDs b c wait s
  | .attnMerge b c => Sys2Proof.Machine.execAttnMerge b c s
  | .attnWindow b c => Sys2Proof.Machine.execAttnWindow b c s
  | .labPrefetchFill b j ok => Sys2Proof.Machine.execLabPrefetchFill b j ok s
  | .publish b c => Sys2Proof.Machine.execPublish b c s
  | .resolve b c => Sys2Proof.Machine.execResolve b c s
  | .trim b c => Sys2Proof.Machine.execTrim b c s
  | .foldTail b c => Sys2Proof.Machine.execFoldTail b c s
  | .query b c => Sys2Proof.Machine.execQuery b c s
  | .clearPins b c => Sys2Proof.Machine.execClearPins b c s
  | .wqPost m b v => Sys2Proof.Machine.execWqPost m b v s
  | .itemStart b swap => Sys2Proof.Machine.execItemStart b swap s
  | .gateReread b j => Sys2Proof.Machine.execGateReread b j s
  | .stealSweep b => Sys2Proof.Machine.execStealSweep b s
  | .stealBackoffExpire b => Sys2Proof.Machine.execStealBackoffExpire b s
  | .stealProbe p => Sys2Proof.Machine.execStealProbe p s
  | .stealTake t => Sys2Proof.Machine.execStealTake t s
  | .migrateReturn b c => Sys2Proof.Machine.execMigrateReturn b c s
  | .runAheadIssue b j => Sys2Proof.Machine.execRunAheadIssue b j s
  | .wqCancel m v => Sys2Proof.Machine.execWqCancel m v s
  | .cadenceTick => Sys2Proof.Machine.execCadenceTick s
  | .tickGuardExpire => Sys2Proof.Machine.execTickGuardExpire s
  | .start m v => Sys2Proof.Machine.execStart m v s
  | .resync m v => Sys2Proof.Machine.execResync m v s
  | .syncInEdge stamp => Sys2Proof.Machine.execSyncInEdge stamp s
  | .phaseNotice src tag tick corr => Sys2Proof.Machine.execPhaseNotice src tag tick corr s
  | .wqWindowWrite m v => Sys2Proof.Machine.execWqWindowWrite m v s
  | .wqBaseWrite m b v => Sys2Proof.Machine.execWqBaseWrite m b v s
  | .cxBuild b c => Sys2Proof.Machine.execCxBuild b c s
  | .encode b c => Sys2Proof.Machine.execEncode b c s
  | .buildEncode b c => Sys2Proof.Machine.execBuildEncode b c s
  | .cxLoad b c => Sys2Proof.Machine.execCxLoad b c s
  | .hold b c => Sys2Proof.Machine.execHold b c s
  | .cxRelease b c => Sys2Proof.Machine.execCxRelease b c s
  | .codecSlotAcquire b c cycles => Sys2Proof.Machine.execCodecSlotAcquire b c cycles s
  | .tableWaitTimeout b c cycles => Sys2Proof.Machine.execTableWaitTimeout b c cycles s
  | .linkBlockReceive l x => Sys2Proof.Machine.execLinkBlockReceive l x s
  | .plain b c => Sys2Proof.Machine.execPlain b c s
  | .moveUp b c => Sys2Proof.Machine.execMoveUp b c s
  | .evict r => Sys2Proof.Machine.execEvict r s
  | .forceEvict r => Sys2Proof.Machine.execForceEvict r s
  | .plPost m v => Sys2Proof.Machine.execPlPost m v s
  | .create => Sys2Proof.Machine.execCreate s
  | .free => Sys2Proof.Machine.execFree s
  | .share => Sys2Proof.Machine.execShare s
  | .unshare => Sys2Proof.Machine.execUnshare s
  | .up => Sys2Proof.Machine.execUp s
  | .cancelEvict => Sys2Proof.Machine.execCancelEvict s
  | .pin => Sys2Proof.Machine.execPin s
  | .unpin => Sys2Proof.Machine.execUnpin s
  | .admitJob => Sys2Proof.Machine.execAdmitJob s
  | .releaseJob => Sys2Proof.Machine.execReleaseJob s
  | .queryJob => Sys2Proof.Machine.execQueryJob s
  | .moveUpDone rec => Sys2Proof.Machine.execMoveUpDone rec s
  | .writeBackDone rec => Sys2Proof.Machine.execWriteBackDone rec s
  | .moveStop rec code => Sys2Proof.Machine.execMoveStop rec code s
  | .tierLate b j => Sys2Proof.Machine.execTierLate b j s
  | .plModeWrite m v => Sys2Proof.Machine.execPlModeWrite m v s
  | .flashProgramAck j err => Sys2Proof.Machine.execFlashProgramAck j err s
  | .wearLevelling src dst => Sys2Proof.Machine.execWearLevelling src dst s
  | .readDisturbRefresh blk dst => Sys2Proof.Machine.execReadDisturbRefresh blk dst s
  | .badBlockRetire blk => Sys2Proof.Machine.execBadBlockRetire blk s
  | .msPost m v => Sys2Proof.Machine.execMsPost m v s
  | .msLoad x => Sys2Proof.Machine.execMsLoad x s
  | .stage x => Sys2Proof.Machine.execStage x s
  | .replace => Sys2Proof.Machine.execReplace s
  | .abort => Sys2Proof.Machine.execAbort s
  | .retire => Sys2Proof.Machine.execRetire s
  | .bind => Sys2Proof.Machine.execBind s
  | .unbind => Sys2Proof.Machine.execUnbind s
  | .adapterSwitch => Sys2Proof.Machine.execAdapterSwitch s
  | .adapterSwitchApply j => Sys2Proof.Machine.execAdapterSwitchApply j s
  | .shardReadDone e => Sys2Proof.Machine.execShardReadDone e s
  | .shardAnnounce e x => Sys2Proof.Machine.execShardAnnounce e x s
  | .shardGood e p j => Sys2Proof.Machine.execShardGood e p j s
  | .shardBad e p j => Sys2Proof.Machine.execShardBad e p j s
  | .shardMissing e j => Sys2Proof.Machine.execShardMissing e j s
  | .shardRequest e p j => Sys2Proof.Machine.execShardRequest e p j s
  | .loadDoneReport e p => Sys2Proof.Machine.execLoadDoneReport e p s
  | .complete e => Sys2Proof.Machine.execComplete e s
  | .fail e cause => Sys2Proof.Machine.execFail e cause s
  | .replArm e => Sys2Proof.Machine.execReplArm e s
  | .replLayerCopy e => Sys2Proof.Machine.execReplLayerCopy e s
  | .replLayerDone e => Sys2Proof.Machine.execReplLayerDone e s
  | .replDone e p => Sys2Proof.Machine.execReplDone e p s
  | .replRelease e => Sys2Proof.Machine.execReplRelease e s
  | .replStuck x => Sys2Proof.Machine.execReplStuck x s
  | .train m l v => Sys2Proof.Machine.execTrain m l v s
  | .trainDone l x => Sys2Proof.Machine.execTrainDone l x s
  | .trainTimeout l => Sys2Proof.Machine.execTrainTimeout l s
  | .down m l v => Sys2Proof.Machine.execDown m l v s
  | .laneFail l lane => Sys2Proof.Machine.execLaneFail l lane s
  | .idle l f => Sys2Proof.Machine.execIdle l f s
  | .beat l f => Sys2Proof.Machine.execBeat l f s
  | .write l f => Sys2Proof.Machine.execWrite l f s
  | .writeAck l f => Sys2Proof.Machine.execWriteAck l f s
  | .readReq l f => Sys2Proof.Machine.execReadReq l f s
  | .readData l f => Sys2Proof.Machine.execReadData l f s
  | .atomic l f => Sys2Proof.Machine.execAtomic l f s
  | .atomicResp l f => Sys2Proof.Machine.execAtomicResp l f s
  | .mcastWrite l f => Sys2Proof.Machine.execMcastWrite l f s
  | .errResp l f => Sys2Proof.Machine.execErrResp l f s
  | .confirm p tag => Sys2Proof.Machine.execConfirm p tag s
  | .confirmResend tag => Sys2Proof.Machine.execConfirmResend tag s
  | .replayTimeout l => Sys2Proof.Machine.execReplayTimeout l s
  | .ackTimer l => Sys2Proof.Machine.execAckTimer l s
  | .beatSend l => Sys2Proof.Machine.execBeatSend l s
  | .beatMiss l => Sys2Proof.Machine.execBeatMiss l s
  | .fence m v => Sys2Proof.Machine.execFence m v s
  | .lostNotice src tag p nonce => Sys2Proof.Machine.execLostNotice src tag p nonce s
  | .unfence m v => Sys2Proof.Machine.execUnfence m v s
  | .thMembersWrite m v => Sys2Proof.Machine.execThMembersWrite m v s
  | .feFrame x => Sys2Proof.Machine.execFeFrame x s
  | .wakeRequest => Sys2Proof.Machine.execWakeRequest s
  | .stage3Post => Sys2Proof.Machine.execStage3Post s
  | .stage3Poll => Sys2Proof.Machine.execStage3Poll s
  | .stage3Timeout => Sys2Proof.Machine.execStage3Timeout s
  | .ringBlock x => Sys2Proof.Machine.execRingBlock x s
  | .feFetch m v => Sys2Proof.Machine.execFeFetch m v s
  | .feDspLoad m v => Sys2Proof.Machine.execFeDspLoad m v s
  | .mute m v => Sys2Proof.Machine.execMute m v s
  | .muteClearDone => Sys2Proof.Machine.execMuteClearDone s
  | .ringConfigWrite m j v => Sys2Proof.Machine.execRingConfigWrite m j v s
  | .feArrayApply a => Sys2Proof.Machine.execFeArrayApply a s
  | .fePllLock => Sys2Proof.Machine.execFePllLock s
  | .avtpReceive x => Sys2Proof.Machine.execAvtpReceive x s
  | .listenerFrameClose slot k => Sys2Proof.Machine.execListenerFrameClose slot k s
  | .talkerUnitRead t n => Sys2Proof.Machine.execTalkerUnitRead t n s
  | .talkerPacketSend t k => Sys2Proof.Machine.execTalkerPacketSend t k s
  | .resultDatagramSend => Sys2Proof.Machine.execResultDatagramSend s
  | .wdata x => Sys2Proof.Machine.execWdata x s
  | .wack j => Sys2Proof.Machine.execWack j s
  | .ctrlReq x => Sys2Proof.Machine.execCtrlReq x s
  | .gptpSync x => Sys2Proof.Machine.execGptpSync x s
  | .gptpSyncTimeout => Sys2Proof.Machine.execGptpSyncTimeout s
  | .ethLinkChange p isUp => Sys2Proof.Machine.execEthLinkChange p isUp s
  | .read f => Sys2Proof.Machine.execRead f s
  | .mpWrite f => Sys2Proof.Machine.execMpWrite f s
  | .frameAbort f late => Sys2Proof.Machine.execFrameAbort f late s
  | .iwRead inc => Sys2Proof.Machine.execIwRead inc s
  | .iwWrite be inc => Sys2Proof.Machine.execIwWrite be inc s
  | .iwTimeout => Sys2Proof.Machine.execIwTimeout s
  | .erDataRead => Sys2Proof.Machine.execErDataRead s
  | .mpReset m v => Sys2Proof.Machine.execMpReset m v s
  | .peakClr m => Sys2Proof.Machine.execPeakClr m s
  | .lock m => Sys2Proof.Machine.execLock m s
  | .bindingWrite m ch v => Sys2Proof.Machine.execBindingWrite m ch v s
  | .mbDataWrite m ch v => Sys2Proof.Machine.execMbDataWrite m ch v s
  | .mbDataRead m ch => Sys2Proof.Machine.execMbDataRead m ch s
  | .statusPoll m ch => Sys2Proof.Machine.execStatusPoll m ch s
  | .take ch => Sys2Proof.Machine.execTake ch s
  | .basinProfile m v => Sys2Proof.Machine.execBasinProfile m v s
  | .scaleProfile m v => Sys2Proof.Machine.execScaleProfile m v s
  | .stateProfile m v => Sys2Proof.Machine.execStateProfile m v s
  | .attnProfile m v => Sys2Proof.Machine.execAttnProfile m v s
  | .kvProfile m v => Sys2Proof.Machine.execKvProfile m v s
  | .wqProfile m v => Sys2Proof.Machine.execWqProfile m v s
  | .cadenceProfile m v => Sys2Proof.Machine.execCadenceProfile m v s
  | .compressProfile m v => Sys2Proof.Machine.execCompressProfile m v s
  | .placeProfile m v => Sys2Proof.Machine.execPlaceProfile m v s
  | .modelProfile m v => Sys2Proof.Machine.execModelProfile m v s
  | .fabricProfile m v => Sys2Proof.Machine.execFabricProfile m v s
  | .feProfile m v => Sys2Proof.Machine.execFeProfile m v s
  | .netProfile m v => Sys2Proof.Machine.execNetProfile m v s
  | .powerProfile m v => Sys2Proof.Machine.execPowerProfile m v s
  | .recordProfile m v => Sys2Proof.Machine.execRecordProfile m v s
  | .registerWrite m addr v => Sys2Proof.Machine.execRegisterWrite m addr v s
  | .powerRequest m req pwrGood => Sys2Proof.Machine.execPowerRequest m req pwrGood s
  | .powerChangeDone => Sys2Proof.Machine.execPowerChangeDone s
  | .powerDrainTimeout => Sys2Proof.Machine.execPowerDrainTimeout s
  | .powerOff m => Sys2Proof.Machine.execPowerOff m s
  | .clampWrite m clamp => Sys2Proof.Machine.execClampWrite m clamp s
  | .clampFallback => Sys2Proof.Machine.execClampFallback s
  | .weirPeriod fixed req => Sys2Proof.Machine.execWeirPeriod fixed req s
  | .didtTrip => Sys2Proof.Machine.execDidtTrip s
  | .thermalStep tj => Sys2Proof.Machine.execThermalStep tj s
  | .thermalShutdown tj => Sys2Proof.Machine.execThermalShutdown tj s
  | .pwrGoodFall => Sys2Proof.Machine.execPwrGoodFall s
  | .rstNLow straps => Sys2Proof.Machine.execRstNLow straps s
  | .alwaysOnReset => Sys2Proof.Machine.execAlwaysOnReset s
  | .startupStageDone x => Sys2Proof.Machine.execStartupStageDone x s
  | .containNotice src tag job code => Sys2Proof.Machine.execContainNotice src tag job code s
  | .containedRelease m j => Sys2Proof.Machine.execContainedRelease m j s
  | .readyC src tag j ct => Sys2Proof.Machine.execReadyC src tag j ct s
  | .commitC src tag j ct => Sys2Proof.Machine.execCommitC src tag j ct s
  | .commitLate j ct => Sys2Proof.Machine.execCommitLate j ct s
  | .recorderIntervalClose => Sys2Proof.Machine.execRecorderIntervalClose s
  | .mirrorSectorWrite => Sys2Proof.Machine.execMirrorSectorWrite s
  | .attest m => Sys2Proof.Machine.execAttest m s
  | .anchor m => Sys2Proof.Machine.execAnchor m s
  | .move m => Sys2Proof.Machine.execMove m s
  | .enrol m => Sys2Proof.Machine.execEnrol m s
  | .rescan m => Sys2Proof.Machine.execRescan m s
  | .rstNRelease => Sys2Proof.Machine.execRstNRelease s
  | .alwaysOnResetEnd straps => Sys2Proof.Machine.execAlwaysOnResetEnd straps s
  | .identityReady => Sys2Proof.Machine.execIdentityReady s

end Sys2Proof.Machine
end

