-- ==== Sys2Proof/Machine/Step.lean ====
section
/-! DEFINITION. One step: the command at the front of the queue runs on the state with the queue's rest. On an empty queue the
block idles, and its two clocks advance by 1 ns (log entry 3). -/

namespace Sys2Proof.Machine

/-- The clocks advance by 1 ns. -/
def tickNs (s : State) : State := { s with chip := { s.chip with aonNs := s.chip.aonNs + 1, gptpNs := s.chip.gptpNs + 1, upNs := s.chip.upNs + 1 } }

/-- One step of the block. -/
def step (s : State) : Host.Outcome State Fault Refusal :=
  match s.pending with
  | [] => .next (tickNs s)
  | i :: rest => exec i { s with pending := rest }

/-- The state with the command that a table word spells at the front of its queue. No row of the table has bits, so no word
spells a command and the state is unchanged (log entry 7). -/
def State.withFetchWord (s : State) (nbits w : Nat) : State :=
  match decodeTableWord nbits w with
  | some i => { s with pending := i :: s.pending }
  | none => s

end Sys2Proof.Machine
end

