-- ==== Sys2Proof/Safety.lean ====
section
/-! DEFINITION. What counts as a safe run, and the terms in which claims are made: every step answers a next state (the spec gives every
command an effect, so none faults or is refused); when the head of a chain issues; and what a statement about registers, memory and the
rest of the state says. -/

namespace Sys2Proof.Machine

/-- The outcome is a next state. -/
def goesOn (o : Host.Outcome State Fault Refusal) : Bool := match o with | .next _ => true | _ => false

/-- The first `n` steps from a state all answer a next state. -/
def safeRun : Nat → State → Bool
  | 0, _ => true
  | n + 1, s => match step s with | .next t => safeRun n t | _ => false

/-- The state with another chip and everything else as it was. -/
abbrev State.withChip (s : State) (c : Chip) : State := { s with chip := c }

/-- Two states agree in everything but the chip: the queue, the security engine, the wellhead and the host ports. -/
def sameRest (s t : State) : Prop := t.pending = s.pending ∧ t.sec = s.sec ∧ t.fe = s.fe ∧ t.net = s.net

/-- The head of chain `k` of basin `b` is descriptor `d` and may issue now to the jets `js` (R34 to R37, R43, R45, R186, R190, R217): `c` is
the package after the fetch. -/
structure HeadReady (s : State) (b : Fin 32) (k : Fin 16) (ch : Chain) (d : Desc) (js : List Nat) (c : Chip) : Prop where
  chain : s.chip.basins[b].chains[k] = some ch
  may : mayIssue s.chip b ch = true
  whole : ch.begun = true ∨ ch.ahead.all (·.moved) = true
  room : past ch.pc 64 = false
  fetch : runEff (fetchDesc s.chip (ctxOf b k ch).m ch.pc) s.chip = (c, .ok d)
  order : orderOk ch d = true
  job : jobBlocked s.chip b d.job = false
  legal : checkDesc s.chip ch.acc d = none
  remote : migratedBad ch d = none
  waits : waitOk s.chip (ctxOf b k ch).m d = true
  jets : grantJets c b k ch d = (some js, c)

/-- Where the head runs: its context, with the number that it gets as a descriptor in flight. -/
def headCtx (b : Fin 32) (k : Fin 16) (ch : Chain) : Ctx := { ctxOf b k ch with id := ch.nextId }

/-- The package once the head has issued, before its own effect: what the effect asks of other packages is asked for the head. -/
def launched (b : Fin 32) (k : Fin 16) (ch : Chain) (d : Desc) (js : List Nat) (c : Chip) : Chip :=
  beginFar (.walk b k ch.nextId)
    (launch b k ch d js (if ch.begun then c else applyAhead ch.ahead (endHolds b (fun h => h.chain == chainHold k) c)))

/-- The package once the head's effect has run to its end with nothing asked of another package. -/
def settled (c : Chip) : Chip := beginFar .hub c

/-- A command of the table that issues a descriptor: its basin, its context, the row, and what the descriptor does (R42, R49). -/
def descCommand : Instr → Option (Fin 32 × Fin 16 × RowId × (Ctx → Desc → Eff Unit))
  | .nop b k => some (b, k, .nop, bodyNop)
  | .matmul b k => some (b, k, .matmul, bodyMatmul)
  | .kvAppend b k => some (b, k, .kvAppend, bodyAppend)
  | .add b k => some (b, k, .vec 0x10 1, bodyFloat true false (fun _ x y => fAdd x y))
  | .sub b k => some (b, k, .vec 0x10 2, bodyFloat true false (fun _ x y => fAdd x y.neg))
  | .mul b k => some (b, k, .vec 0x10 3, bodyFloat true true (fun _ x y => fMul x y))
  | .fma b k => some (b, k, .vec 0x10 4, bodyFloat true true (fun d x y => fFma x y (immVal d)))
  | .max b k => some (b, k, .vec 0x10 5, bodyFloat true false (fun _ x y => Val.max x y))
  | .min b k => some (b, k, .vec 0x10 6, bodyFloat true false (fun _ x y => Val.min x y))
  | .scale b k => some (b, k, .vec 0x10 7, bodyFloat false true (fun d x _ => fMul x (immVal d)))
  | .cvt b k => some (b, k, .vec 0x10 8, bodyFloat false false (fun _ x _ => x))
  | .iadd b k => some (b, k, .vec 0x10 0x10, bodyInt true (fun _ x y => wrap32 (x + y)))
  | .isub b k => some (b, k, .vec 0x10 0x11, bodyInt true (fun _ x y => wrap32 (x - y)))
  | .imul b k => some (b, k, .vec 0x10 0x12, bodyInt true imulOp)
  | .imax b k => some (b, k, .vec 0x10 0x13, bodyInt false (fun _ x y => if x < y then y else x))
  | .rowMax b k => some (b, k, .vec 0x11 1, bodyRow rowMaxOf)
  | .rowSum b k => some (b, k, .vec 0x11 2, bodyRow rowSumOf)
  | .exp2 b k => some (b, k, .vec 0x12 1, bodySfu 1)
  | .recip b k => some (b, k, .vec 0x12 2, bodySfu 2)
  | .rsqrt b k => some (b, k, .vec 0x12 3, bodySfu 3)
  | .log2 b k => some (b, k, .vec 0x12 4, bodySfu 4)
  | .tanh b k => some (b, k, .vec 0x12 5, bodySfu 5)
  | .plain b k => some (b, k, .copy 0, bodyPlain)
  | .moveUp b k => some (b, k, .copy 1, bodyMoveUp)
  | .cxBuild b k => some (b, k, .codec 0, bodyTable)
  | .encode b k => some (b, k, .codec 1, bodyEncode)
  | .buildEncode b k => some (b, k, .codec 2, bodyTable)
  | .cxLoad b k => some (b, k, .codec 3, bodyTable)
  | .hold b k => some (b, k, .codec 4, fun x d => bodyHolds x d (fun h n => some (h + n)))
  | .cxRelease b k => some (b, k, .codec 5, fun x d => bodyHolds x d (fun h n => if h < n then none else some (h - n)))
  | .attnPartialForward b k w => some (b, k, .attn 0, bodyForward w)
  | .attnBackwardP b k w => some (b, k, .attn 1, bodyBackward (fun p _ _ => p) w)
  | .attnBackwardDs b k w => some (b, k, .attn 2, bodyBackward (fun p dp dd => fMul p (fAdd dp dd.neg)) w)
  | .attnMerge b k => some (b, k, .merge, bodyMerge)
  | .attnWindow b k => some (b, k, .window, bodyWindow)
  | .publish b k => some (b, k, .kv 0, fun x d => kvPublish x.m d)
  | .resolve b k => some (b, k, .kv 1, fun x d => kvResolve x.b d)
  | .trim b k => some (b, k, .kv 2, fun x d => kvTrim x.b d)
  | .foldTail b k => some (b, k, .kv 3, kvFoldTail)
  | .query b k => some (b, k, .kv 4, fun x d => kvQuery x.m d)
  | .clearPins b k => some (b, k, .kv 5, fun x d => kvClearPins x.m d)
  | .stateChunk b k => some (b, k, .chunk, bodyChunk)
  | .save b k => some (b, k, .ckpt 0, bodySave)
  | .restore b k => some (b, k, .ckpt 1, bodyRestore)
  | .clearHook b k => some (b, k, .ckpt 2, bodyClearHook)
  | .evict (.desc b k) => some (b, k, .copy 2, bodyEvict 5 acceptEvict)
  | .forceEvict (.desc b k) => some (b, k, .copy 3, bodyEvict 6 acceptForce)
  | _ => none

end Sys2Proof.Machine
end

