-- ==== Sys2Proof/Certificates/Slice0/Obligations.lean ====
section
/-! DEFINITION. The statements for the provers. Each docstring names the rules of the spec that it formalises, and says where a clause is
the model's own choice. -/

open Sys2Proof Sys2Proof.Machine

/-! ### The step and the queue -/

/-- A step with a command at the front of the queue runs that command on the state with the queue's rest. The queue is the model's own. -/
def Obligations.StepRunsFrontCommand : Prop :=
  ∀ (s : State) (i : Instr) (rest : List Instr), step { s with pending := i :: rest } = exec i { s with pending := rest }

/-- A step on an empty queue only lets 1 ns pass, for the island's time count, the gPTP time and the time since power-on; that is the
model's choice (log entry 3). -/
def Obligations.EmptyQueueOnlyPassesTime : Prop :=
  ∀ s : State, s.pending = [] → ∃ t, step s = .next t ∧ t.pending = [] ∧ t.sec = s.sec ∧ t.fe = s.fe ∧ t.net = s.net ∧
    t.chip = { s.chip with aonNs := s.chip.aonNs + 1, gptpNs := s.chip.gptpNs + 1, upNs := s.chip.upNs + 1 }

/-- No command faults, none is refused, and none touches the queue of commands: the spec gives every command an effect. -/
def Obligations.EveryCommandAnswersAndKeepsQueue : Prop :=
  ∀ (i : Instr) (s : State), ∃ t, exec i s = .next t ∧ t.pending = s.pending

/-- The commands whose effect may reach the security engine, the wellhead or the host ports. -/
def wholePackage : Instr → Bool
  | .flashProgramAck _ _ | .msLoad _ | .stage _ | .write _ _ | .readReq _ _ | .feFrame _ | .stage3Post | .ringBlock _
  | .feFetch _ _ | .feDspLoad _ _ | .mute _ _ | .muteClearDone | .ringConfigWrite _ _ _ | .feArrayApply _ | .fePllLock
  | .avtpReceive _ | .listenerFrameClose _ _ | .talkerUnitRead _ _ | .talkerPacketSend _ _ | .wdata _ | .wack _
  | .ctrlReq _ | .gptpSync _ | .gptpSyncTimeout | .read _ | .mpWrite _ | .frameAbort _ _ | .iwRead _ | .iwWrite _ _
  | .mpReset _ _ | .take _ | .basinProfile _ _ | .scaleProfile _ _ | .stateProfile _ _ | .attnProfile _ _
  | .kvProfile _ _ | .wqProfile _ _ | .cadenceProfile _ _ | .compressProfile _ _ | .placeProfile _ _ | .modelProfile _ _
  | .fabricProfile _ _ | .feProfile _ _ | .netProfile _ _ | .powerProfile _ _ | .recordProfile _ _
  | .registerWrite _ _ _ | .powerRequest _ _ _ | .powerChangeDone | .powerOff _ | .thermalShutdown _ | .thermalStep _ | .pwrGoodFall
  | .rstNLow _ | .alwaysOnReset | .startupStageDone _ | .attest _ | .anchor _ | .move _ | .enrol _ | .rescan _
  | .alwaysOnResetEnd _ | .identityReady => true
  | _ => false

/-- Every other command leaves the security engine, the wellhead and the host ports as they were. -/
def Obligations.ChipCommandsLeaveTheRest : Prop :=
  ∀ (i : Instr) (s t : State), wholePackage i = false → exec i s = .next t → sameRest s t


/-! ### Descriptors at the head of a chain -/

/-- Every command that issues a descriptor (R37, R42, R49, R477): where the head of the chain is that row and may issue, the next state is
that of the launch (R37) followed by what the descriptor does, where nothing stops it, and by the sending of what it asks of other
packages, for which the descriptor then waits (R314); where an error stops it, or a package that it needs cannot be reached (R302), that of its stop. That a descriptor which needs what another
package holds runs again once the answers are there is the model's choice (log entries 12 and 184). -/
def HeadDescriptorIssuesAndRuns : Prop :=
  ∀ (i : Instr) (b : Fin 32) (k : Fin 16) (row : RowId) (body : Ctx → Desc → Eff Unit) (s : State) (ch : Chain) (d : Desc)
    (js : List Nat) (c c2 : Chip),
    descCommand i = some (b, k, row, body) → HeadReady s b k ch d js c → rowOf d = some row →
    (runEff (body (headCtx b k ch) d) (launched b k ch d js c) = (c2, .ok ()) →
      (c2.fab.far = [] → exec i s = .next (s.withChip (settled c2))) ∧
      (∀ (ts : List Nat) (c3 : Chip), flushFar (basinMaster ch.home) (.walk b k ch.nextId) c2 = ((ts, none), c3) → ts ≠ [] →
        exec i s = .next (s.withChip (modFlightOf b k ch.nextId (awaitTags ts) c3))) ∧
      (∀ c3 : Chip, flushFar (basinMaster ch.home) (.walk b k ch.nextId) c2 = (([], none), c3) → exec i s = .next (s.withChip c3)) ∧
      (∀ (ts : List Nat) (a : Nat) (c3 : Chip), flushFar (basinMaster ch.home) (.walk b k ch.nextId) c2 = ((ts, some a), c3) →
        exec i s = .next (s.withChip (stopNumber b k ch.nextId { code := eFabFenced, unit := kvUnit, addr := a } c3)))) ∧
    (∀ e : Stop, runEff (body (headCtx b k ch) d) (launched b k ch d js c) = (c2, .error e) → e.code ≠ 0 →
      exec i s = .next (s.withChip (stopNumber b k ch.nextId e
        (flushFar (basinMaster ch.home) (.walk b k ch.nextId) (keepWrites c2)).2))) ∧
    (∀ (e : Stop) (ts : List Nat) (c3 : Chip), runEff (body (headCtx b k ch) d) (launched b k ch d js c) = (c2, .error e) → e.code = 0 →
      flushFar (basinMaster ch.home) (.walk b k ch.nextId) (keepHeld b k ch.nextId c2 (launched b k ch d js c)) = ((ts, none), c3) →
      exec i s = .next (s.withChip (modFlightOf b k ch.nextId (fun f => { awaitTags ts f with again := true }) c3)))

/-- NOP (R477, R37): the chain moves on to its next descriptor, 64 bytes on, with the NOP in flight; it computes nothing, so memory and
registers stay, and so do the event counters. The hypotheses leave out run-ahead copies, a hold of the chain that would end here, and words
with an error. -/
def NopMovesChainOnAlone : Prop :=
  ∀ (b : Fin 32) (k : Fin 16) (s : State) (ch : Chain) (d : Desc) (js : List Nat) (c : Chip),
    HeadReady s b k ch d js c → rowOf d = some .nop → ch.ahead = [] → s.chip.ecc = [] →
    (∀ h ∈ s.chip.basins[b].holds, h.chain ≠ chainHold k) →
    ∃ t, exec (.nop b k) s = .next t ∧ sameRest s t ∧ t.chip.mem = s.chip.mem ∧ t.chip.regs = s.chip.regs ∧
      t.chip.basins[b].ctr = s.chip.basins[b].ctr ∧
      ∃ x, t.chip.basins[b].chains[k] = some x ∧ x.pc = ch.pc + 64 ∧ x.lastIssued = d.last ∧ x.nextId = ch.nextId + 1 ∧
        x.flight = ch.flight ++ [{ id := ch.nextId, w := d.w, job := d.job, jets := js }]

/-- A head that may issue issues and runs, for every row of descriptors (R37, R42, R49, R477). -/
def Obligations.DescriptorsIssue : Prop := HeadDescriptorIssuesAndRuns ∧ NopMovesChainOnAlone

/-- No run-ahead copy waits for its item (R190). -/
def NoRunAhead (c : Chip) : Prop :=
  ∀ a : Fin 32, (∀ q ∈ c.basins[a].queue, q.ahead.getD [] = []) ∧ ∀ p ∈ chainsOf c.basins[a], p.2.ahead = []

/-- A descriptor that fails a check at issue (R45): nothing is written to memory, no event counter is signalled, BS_ERR_n and BS_ERRID_n
hold the error and its SEQ and JOB, the basin issues nothing more of the job, and ISSUE_REJECT counts it. The hypotheses leave out run-ahead
copies, whose destinations a stop leaves undefined (R191). The UNIT of a rejection, 0x34, the sequencer, is the model's choice (log
entry 44). -/
def Obligations.RejectedDescriptorStopsItsJob : Prop :=
  ∀ (i : Instr) (b : Fin 32) (k : Fin 16) (row : RowId) (body : Ctx → Desc → Eff Unit) (s : State) (ch : Chain) (d : Desc) (code : Nat),
    descCommand i = some (b, k, row, body) → s.chip.basins[b].chains[k] = some ch → mayIssue s.chip b ch = true → past ch.pc 64 = false →
    runEff (fetchDesc s.chip (ctxOf b k ch).m ch.pc) s.chip = (s.chip, .ok d) → (∀ r, rowOf d = some r → r = row) →
    orderOk ch d = true → jobBlocked s.chip b d.job = false → checkDesc s.chip ch.acc d = some code → ch.ticket = none →
    (ch.begun = true ∨ ch.ahead.all (·.moved) = true) →
    NoRunAhead s.chip →
    ∃ t, exec i s = .next t ∧ sameRest s t ∧ t.chip.mem = s.chip.mem ∧ t.chip.basins[b].ctr = s.chip.basins[b].ctr ∧
      d.job ∈ t.chip.basins[b].stopped ∧
      getReg t.chip (rErr b.val) = (code + 0x34 * 65536) % 2 ^ 32 ∧
      getReg t.chip (rErrId b.val) = (d.seq + d.job * 65536) % 2 ^ 32 ∧
      getReg t.chip (rBasinCtr b.val 4) = (getReg s.chip (rBasinCtr b.val 4) + 1) % 2 ^ 32

/-- A head that may not issue yet changes nothing (R37, R39, R61): its basin is not enabled, its predecessor has not completed and it does
not overlap it, or the counter that it waits on has not come far enough. -/
def Obligations.WaitingHeadChangesNothing : Prop :=
  ∀ (i : Instr) (b : Fin 32) (k : Fin 16) (row : RowId) (body : Ctx → Desc → Eff Unit) (s : State) (ch : Chain) (d : Desc),
    descCommand i = some (b, k, row, body) → s.chip.basins[b].chains[k] = some ch → past ch.pc 64 = false →
    runEff (fetchDesc s.chip (ctxOf b k ch).m ch.pc) s.chip = (s.chip, .ok d) → rowOf d = some row →
    checkDesc s.chip ch.acc d = none → migratedBad ch d = none → (ch.begun = true ∨ ch.ahead.all (·.moved) = true) →
    (bit (getReg s.chip rEnable) b.val = false ∨
      (d.overlap = false ∧ ch.flight.any (fun f => f.id + 1 == ch.nextId) = true) ∨
      (d.waitEn = true ∧ 32768 ≤ (tabGet 0 s.chip.basins[(ctxOf b k ch).m].ctr d.waitCtr + 65536 - d.waitVal) % 65536)) →
    exec i s = .next s

/-! ### The vector unit -/

/-- The codes of `n` elements of a format at an offset of a basin's SRAM. -/
def vecCodes (c : Chip) (m : Fin 32) (f : Fmt) (off n : Nat) : List Nat :=
  (List.range n).map (element f (memReadN c.mem (sram c m off) (f.bytes n)))

/-- The two operands of a vector descriptor, element by element (R48). -/
def vecPairs (c : Chip) (m : Fin 32) (d : Desc) : List (Nat × Nat) :=
  (vecCodes c m (fmtGet d.aFmt) (d.f 1 0 23) (d.f 1 24 20)).zip (vecCodes c m (fmtGet d.wFmt) (d.f 2 0 23) (d.f 1 24 20))

/-- The integer operations of the vector unit and what each makes of two integers (R49); IMUL without a rescale. -/
def intVecCommand : Instr → Option (Fin 32 × Fin 16 × Nat × (Int → Int → Int))
  | .iadd b k => some (b, k, 0x10, fun x y => x + y)
  | .isub b k => some (b, k, 0x11, fun x y => x - y)
  | .imul b k => some (b, k, 0x12, fun x y => x * y)
  | .imax b k => some (b, k, 0x13, max)
  | _ => none

/-- IADD, ISUB, IMUL without a rescale and IMAX with a result in INT32 (R49, R73): each result is the exact one modulo 2^32, written to DST,
and nothing else changes beside the launch. No operand word has an error and no residue check fails. -/
def Obligations.IntegerVectorResults : Prop :=
  ∀ (i : Instr) (b : Fin 32) (k : Fin 16) (vop : Nat) (op : Int → Int → Int) (s : State) (ch : Chain) (d : Desc) (js : List Nat)
    (c c0 : Chip),
    intVecCommand i = some (b, k, vop, op) → HeadReady s b k ch d js c → rowOf d = some (.vec 0x10 vop) →
    c0 = launched b k ch d js c → c0.ecc = [] → c0.residue = [] → fmtOf d.outFmt = some .int32 → d.b 6 23 = false → d.b 4 39 = false →
    exec i s = .next (s.withChip (settled (putMem c0 (sram c0 (headCtx b k ch).m (d.f 3 0 23))
      (((vecPairs c0 (headCtx b k ch).m d).map (fun p =>
        unsigned 32 (op (intOf (fmtGet d.aFmt) p.1) (intOf (fmtGet d.wFmt) p.2)))).flatMap (leBytes 4)))))

/-- The float operations of the vector unit and what each makes of a descriptor and two values (R49, R73). -/
def floatVecCommand : Instr → Option (Fin 32 × Fin 16 × Nat × (Desc → Val → Val → Val))
  | .add b k => some (b, k, 1, fun _ x y => fAdd x y)
  | .sub b k => some (b, k, 2, fun _ x y => fAdd x y.neg)
  | .mul b k => some (b, k, 3, fun _ x y => fMul x y)
  | .fma b k => some (b, k, 4, fun d x y => fFma x y (immVal d))
  | .max b k => some (b, k, 5, fun _ x y => Val.max x y)
  | .min b k => some (b, k, 6, fun _ x y => Val.min x y)
  | _ => none

/-- ADD, SUB, MUL, FMA, MAX and MIN with a result in FP32 (R49, R73): operands widened to FP32, each result rounded once and written to DST;
nothing else changes beside the launch. -/
def FloatVectorResults : Prop :=
  ∀ (i : Instr) (b : Fin 32) (k : Fin 16) (vop : Nat) (op : Desc → Val → Val → Val) (s : State) (ch : Chain) (d : Desc)
    (js : List Nat) (c c0 : Chip),
    floatVecCommand i = some (b, k, vop, op) → HeadReady s b k ch d js c → rowOf d = some (.vec 0x10 vop) →
    c0 = launched b k ch d js c → c0.ecc = [] → c0.residue = [] → fmtOf d.outFmt = some .fp32 →
    exec i s = .next (s.withChip (settled (putMem c0 (sram c0 (headCtx b k ch).m (d.f 3 0 23))
      (((vecPairs c0 (headCtx b k ch).m d).map (fun p =>
        f32Code (op d (widen (fmtGet d.aFmt) p.1) (widen (fmtGet d.wFmt) p.2)))).flatMap (leBytes 4)))))

/-- The vector operations of one operand: SCALE and CVT element by element (R49), the row operations (R479), the special functions (R51). -/
def unaryVecCommand : Instr → Option (Fin 32 × Fin 16 × Nat × Nat × (Desc → List Nat → List Val))
  | .scale b k => some (b, k, 0x10, 7, fun d as => as.map (fun a => fMul (widen (fmtGet d.aFmt) a) (immVal d)))
  | .cvt b k => some (b, k, 0x10, 8, fun d as => as.map (fun a => widen (fmtGet d.aFmt) a))
  | .rowMax b k => some (b, k, 0x11, 1, fun d as => (chunks (d.f 2 24 20) (d.f 1 24 20) as).map (fun r => rowMaxOf (r.map (widen (fmtGet d.aFmt)))))
  | .rowSum b k => some (b, k, 0x11, 2, fun d as => (chunks (d.f 2 24 20) (d.f 1 24 20) as).map (fun r => rowSumOf (r.map (widen (fmtGet d.aFmt)))))
  | .exp2 b k => some (b, k, 0x12, 1, fun d as => as.map (fun a => valOf .fp32 (sfuOf 1 (widenCode (fmtGet d.aFmt) a))))
  | .recip b k => some (b, k, 0x12, 2, fun d as => as.map (fun a => valOf .fp32 (sfuOf 2 (widenCode (fmtGet d.aFmt) a))))
  | .rsqrt b k => some (b, k, 0x12, 3, fun d as => as.map (fun a => valOf .fp32 (sfuOf 3 (widenCode (fmtGet d.aFmt) a))))
  | .log2 b k => some (b, k, 0x12, 4, fun d as => as.map (fun a => valOf .fp32 (sfuOf 4 (widenCode (fmtGet d.aFmt) a))))
  | .tanh b k => some (b, k, 0x12, 5, fun d as => as.map (fun a => valOf .fp32 (sfuOf 5 (widenCode (fmtGet d.aFmt) a))))
  | _ => none

/-- SCALE, CVT, ROW_MAX, ROW_SUM and the special functions with a result in FP32 (R49, R51, R479). The values of the special functions are
those of the model's free function, held to the accuracy of R51 (log entry 5). -/
def UnaryVectorResults : Prop :=
  ∀ (i : Instr) (b : Fin 32) (k : Fin 16) (op vop : Nat) (g : Desc → List Nat → List Val) (s : State) (ch : Chain) (d : Desc)
    (js : List Nat) (c c0 : Chip),
    unaryVecCommand i = some (b, k, op, vop, g) → HeadReady s b k ch d js c → rowOf d = some (.vec op vop) →
    c0 = launched b k ch d js c → c0.ecc = [] → c0.residue = [] → fmtOf d.outFmt = some .fp32 →
    exec i s = .next (s.withChip (settled (putMem c0 (sram c0 (headCtx b k ch).m (d.f 3 0 23))
      (((g d (vecCodes c0 (headCtx b k ch).m (fmtGet d.aFmt) (d.f 1 0 23) (d.f 1 24 20))).map f32Code).flatMap (leBytes 4)))))

/-- The vector unit writes the results of its float operations (R49, R51, R73, R479). -/
def Obligations.FloatVectorOperations : Prop := FloatVectorResults ∧ UnaryVectorResults

/-- The special cases of the special-function unit (R51): a NaN argument gives NaN in every function; EXP2 of minus infinity is +0; RECIP
of a zero is the infinity of its sign and of an infinity the zero of its sign; RSQRT of +0, of -0, of plus infinity, and of negative
nonzero values; LOG2 of 1, of zeros, of plus infinity, and of negative nonzero values; TANH of zeros and of every magnitude from 9.5. -/
def Obligations.SpecialFunctionSpecialCases : Prop :=
  (∀ op arg, valOf .fp32 arg = .nan → sfuOf op arg = 0x7FC00000) ∧
  sfuOf 1 0xFF800000 = 0 ∧
  sfuOf 2 0 = 0x7F800000 ∧ sfuOf 2 0x80000000 = 0xFF800000 ∧ sfuOf 2 0x7F800000 = 0 ∧ sfuOf 2 0xFF800000 = 0x80000000 ∧
  sfuOf 3 0 = 0x7F800000 ∧ sfuOf 3 0x80000000 = 0xFF800000 ∧ sfuOf 3 0x7F800000 = 0 ∧
  (∀ arg, 0x80000000 < arg → arg ≤ 0xFF800000 → sfuOf 3 arg = 0x7FC00000 ∧ sfuOf 4 arg = 0x7FC00000) ∧
  sfuOf 4 0x3F800000 = 0 ∧ sfuOf 4 0 = 0xFF800000 ∧ sfuOf 4 0x80000000 = 0xFF800000 ∧ sfuOf 4 0x7F800000 = 0x7F800000 ∧
  sfuOf 5 0 = 0 ∧ sfuOf 5 0x80000000 = 0x80000000 ∧
  (∀ arg, 0x41180000 ≤ arg → arg ≤ 0x7F800000 → sfuOf 5 arg = 0x3F800000 ∧ sfuOf 5 (arg + 0x80000000) = 0xBF800000)


/-! ### The jets -/

/-- The sums of row `r` of an INT8 operand against the columns of an INT8 weight tile `w` of `nt` columns, as INT32 (R31, R74). -/
def tileRow (c : Chip) (m : Fin 32) (d : Desc) (w : List Byte) (nt r : Nat) : List Byte :=
  let as := vecCodes c m .int8 (d.f 1 0 23 + r * d.f 1 40 16 * 64) (d.f 2 24 20)
  (List.range (d.f 2 44 16)).flatMap (fun x => leBytes 4 (unsigned 32
    ((List.range (d.f 2 24 20)).map (fun y => intOf .int8 (as.getD y 0) * intOf .int8 (element .int8 w (y * nt + x)))).sum))

/-- MATMUL of INT8 by INT8 into INT32 over one raw weight tile (R31, R47, R74, R478): fresh accumulators, no scales, no rescale and no adapter.
Each row of the result is its exact sums, written before the next row enters; nothing else changes beside the launch, and the chain holds
no accumulators. -/
def Obligations.IntegerMatmulResults : Prop :=
  ∀ (b : Fin 32) (k : Fin 16) (s : State) (ch : Chain) (d : Desc) (js : List Nat) (c c0 : Chip) (w : List Byte) (kt nt : Nat),
    HeadReady s b k ch d js c → rowOf d = some .matmul → c0 = launched b k ch d js c → c0.ecc = [] → c0.residue = [] →
    fmtOf d.aFmt = some .int8 → fmtOf d.wFmt = some .int8 → fmtOf d.outFmt = some .int32 → d.accClear = true → d.acc48 = false →
    d.b 5 23 = false → d.b 5 47 = false → d.b 4 39 = false → d.b 6 23 = false → d.f 7 0 7 = 0 → d.b 1 23 = false → d.b 2 23 = false →
    d.f 3 23 2 = 0 → (kt, nt) = tileOf .int8 d.gang → d.f 2 24 20 ≤ kt → 1 ≤ d.f 2 24 20 → d.f 2 44 16 ≤ nt → 1 ≤ d.f 2 44 16 →
    w = memReadN c0.mem (sram c0 (headCtx b k ch).m (d.f 2 0 23)) (kt * nt) →
    exec (.matmul b k) s = .next (s.withChip (settled (modChain b k (fun x => { x with acc := none })
      ((List.range (d.f 1 24 16)).foldl (fun e r => putMem e (sram e (headCtx b k ch).m (d.f 3 0 23) + r * d.f 3 25 16 * 64)
        (tileRow e (headCtx b k ch).m d w nt r)) c0))))


/-! ### Copies, coder tables, versions -/

/-- The rows of a copy moved one after another. -/
def rowsMoved (rows : List ((Nat × Nat) × (Nat × Nat))) (c : Chip) : Chip :=
  rows.foldl (fun c r => putMem c r.2.1 (memReadN c.mem r.1.1 r.1.2)) c

/-- A package in which the newest descriptor of a chain holds, or waits for, a place of its basin's copy engine (R243). -/
def engineTaken (b : Fin 32) (k : Fin 16) (id : Nat) (c : Chip) : Chip :=
  modBasin b (fun x => { x with engine := x.engine ++ [.copy k id] }) c

/-- PLAIN within the package (R240, R241, R243): with a place of the copy engine free, each row of the source is written to its row of the
destination, in order, and nothing else changes beside the launch and the place; with its four places taken the copy only waits for one.
Every row lies in backed memory of the package, and no word has an error. -/
def Obligations.PlainCopyMovesRows : Prop :=
  ∀ (b : Fin 32) (k : Fin 16) (s : State) (ch : Chain) (d : Desc) (js : List Nat) (c c0 : Chip) (srcs dsts : List (Nat × Nat)),
    HeadReady s b k ch d js c → rowOf d = some (.copy 0) → c0 = launched b k ch d js c → c0.ecc = [] →
    srcs = copyRows (d.f 1 0 48) (d.f 4 0 24) (d.f 3 0 16) (d.f 3 16 24) →
    dsts = copyRows (d.f 2 0 48) (d.f 4 24 24) (d.f 3 0 16) (d.f 3 16 24) →
    (∀ r ∈ srcs ++ dsts, pkgOf r.1 = pkg c0 ∧ inHub r.1 r.2 = false ∧ backed r.1 r.2 = true) → 1 ≤ d.f 3 0 16 →
    (c0.basins[b].engine.length < 4 → exec (.plain b k) s = .next (s.withChip (settled (rowsMoved (srcs.zip dsts) (engineTaken b k ch.nextId c0))))) ∧
    (4 ≤ c0.basins[b].engine.length → exec (.plain b k) s =
      .next (s.withChip (settled (modFlightOf b k ch.nextId (fun f => { f with wait := .place }) (engineTaken b k ch.nextId c0)))))

/-- HOLD and RELEASE (R216): HOLDS of a READY slot whose GEN is the one named grows or falls by the number given; nothing else changes
beside the launch where the descriptor asks for no result words. -/
def HoldAndReleaseCountHolds : Prop :=
  ∀ (b : Fin 32) (k : Fin 16) (s : State) (ch : Chain) (d : Desc) (js : List Nat) (c c0 : Chip) (h : Nat),
    HeadReady s b k ch d js c → c0 = launched b k ch d js c → d.b 4 23 = false →
    (slotAt c0 (headCtx b k ch).m (d.f 3 0 5)).state = .ready → (slotAt c0 (headCtx b k ch).m (d.f 3 0 5)).gen = d.f 3 8 8 →
    h = (slotAt c0 (headCtx b k ch).m (d.f 3 0 5)).holds →
    (rowOf d = some (.codec 4) → h + d.f 3 16 20 < 2 ^ 20 → exec (.hold b k) s =
      .next (s.withChip (settled (modSlot (headCtx b k ch).m (d.f 3 0 5) (fun t => { t with holds := h + d.f 3 16 20 }) c0)))) ∧
    (rowOf d = some (.codec 5) → d.f 3 16 20 ≤ h → h < 2 ^ 20 → exec (.cxRelease b k) s =
      .next (s.withChip (settled (modSlot (headCtx b k ch).m (d.f 3 0 5) (fun t => { t with holds := h - d.f 3 16 20 }) c0))))

/-- How far tick `a` lies before tick `t`, in the serial order of 32-bit ticks. -/
def ticksBefore (t a : Nat) : Nat := (t + 2 ^ 32 - a % 2 ^ 32) % 2 ^ 32

/-- The version in effect at a tick (R152): a LIVE slot not after it, and no LIVE slot not after it is later. Where nothing is found, every
LIVE slot is after the tick. The ticks lie less than half the range apart, where the serial order is one. -/
def Obligations.VersionInEffectIsLatest : Prop :=
  ∀ (vs : List Version) (t : Nat), t < 2 ^ 32 →
    (∀ v ∈ vs, v.tick < 2 ^ 32 ∧ ticksBefore t v.tick ≠ 2 ^ 31) →
    (∀ v, versionAt vs t = some v → v ∈ vs ∧ v.live = true ∧ ticksBefore t v.tick < 2 ^ 31 ∧
      ∀ w ∈ vs, w.live = true → ticksBefore t w.tick < 2 ^ 31 → ticksBefore t v.tick ≤ ticksBefore t w.tick) ∧
    (versionAt vs t = none → ∀ w ∈ vs, w.live = true → 2 ^ 31 ≤ ticksBefore t w.tick)


/-! ### Coder tables -/

/-- A block as the coder stores it with a table: header words, payload, and zeros up to its stored size (R204 to R206, R223). -/
def storedBlock (lens : List Nat) (slot gen tag lim : Nat) (raw : List Byte) : List Byte :=
  let x := codeBlock lens slot gen tag lim raw
  x.1.flatMap (leBytes 8) ++ x.2.1 ++ List.replicate (storedSize x.2.1.length - 32 - x.2.1.length) 0

/-- Tables and coding (R215, R218, R219, R223). Each clause is one command, without a table image and a result record to write: BUILD into a slot that is
free gives it the lengths that its source gives and the next GEN, and LOAD the lengths and GEN of the image; ENCODE and BUILD_ENCODE of one
block write it as its table stores it. That the slot of BUILD, LOAD and BUILD_ENCODE is BUILDING until the descriptor completes is the
model's reading (log entry 147). -/
def TablesAreBuiltAndCode : Prop :=
  ∀ (b : Fin 32) (k : Fin 16) (s : State) (ch : Chain) (d : Desc) (js : List Nat) (c c0 : Chip) (m : Fin 32) (n lim : Nat) (src : List Byte),
    HeadReady s b k ch d js c → c0 = launched b k ch d js c → c0.ecc = [] → m = (headCtx b k ch).m → d.b 4 23 = false → n < 16 →
    lim = getF c0 rCxCfg 0 8 →
    (rowOf d = some (.codec 0) → pickSlot c0 m (d.f 3 0 5) = some n → d.b 2 47 = false →
      src = memReadN c0.mem (sram c0 m (d.f 1 0 23)) (d.f 1 24 11 * 4096) →
      exec (.cxBuild b k) s = .next (s.withChip (settled (modFlightOf b k ch.nextId (fun f => { f with builds := f.builds ++ [n] }) (modSlot m n
        (fun t => { t with state := .building, gen := (t.gen + 1) % 256, lens := buildLens src }) c0))))) ∧
    (∀ (g : Nat) (lens : List Nat), rowOf d = some (.codec 3) → pickSlot c0 m (d.f 3 0 5) = some n →
      src = memReadN c0.mem (sram c0 m (d.f 1 0 23)) 192 → imageLens src = some (g, lens) →
      exec (.cxLoad b k) s = .next (s.withChip (settled (modFlightOf b k ch.nextId (fun f => { f with builds := f.builds ++ [n] })
        (modSlot m n (fun t => { t with state := .building, gen := g, lens := lens }) c0))))) ∧
    (rowOf d = some (.codec 1) → n = d.f 3 0 5 → d.f 1 24 11 = 1 → (slotAt c0 m n).state = .ready → (slotAt c0 m n).holds + 1 < 2 ^ 20 →
      src = memReadN c0.mem (sram c0 m (d.f 1 0 23)) 4096 →
      ∃ t, exec (.encode b k) s = .next t ∧ sameRest s t ∧ t.chip.basins[m].slots = c0.basins[m].slots ∧ t.chip.regs = c0.regs ∧
        t.chip.mem = memWriteN c0.mem (sram c0 m (d.f 2 0 23))
          (storedBlock (slotAt c0 m n).lens n (slotAt c0 m n).gen (scTag d 0) lim src)) ∧
    (rowOf d = some (.codec 2) → pickSlot c0 m (d.f 3 0 5) = some n → d.b 2 47 = false → d.f 1 24 11 = 1 →
      src = memReadN c0.mem (sram c0 m (d.f 1 0 23)) 4096 →
      ∃ t, exec (.buildEncode b k) s = .next t ∧ sameRest s t ∧ (slotAt t.chip m n).state = .building ∧
        (slotAt t.chip m n).lens = buildLens src ∧ (slotAt t.chip m n).gen = ((slotAt c0 m n).gen + 1) % 256 ∧ t.chip.regs = c0.regs ∧
        t.chip.mem = memWriteN c0.mem (sram c0 m (d.f 2 0 23))
          (storedBlock (buildLens src) n (((slotAt c0 m n).gen + 1) % 256) (scTag d 0) lim src))

/-- The slots of coder tables: holds, table writes and coding (R215, R216, R218, R219, R223). -/
def Obligations.SlotsAndTables : Prop := HoldAndReleaseCountHolds ∧ TablesAreBuiltAndCode


/-! ### Copies that request moves -/

/-- MOVE_UP, EVICT and FORCE_EVICT of a descriptor (R240, R252), on a record whose last move did not fail: MOVE_UP of a RESIDENT record
ends at once and one of an ABSENT record starts the move and waits for it; EVICT of a RESIDENT record that nothing holds and that has no
dirty granule makes it ABSENT, and FORCE_EVICT does so with FORCE_EN despite its pins. Behind older requests (R250) each only puts its own
at the end of their queue. -/
def MoveDescriptorsAct : Prop :=
  ∀ (b : Fin 32) (k : Fin 16) (s : State) (ch : Chain) (d : Desc) (js : List Nat) (c c0 : Chip) (n : Nat) (r : Rec),
    HeadReady s b k ch d js c → c0 = launched b k ch d js c → n = d.f 5 0 14 → tabFind c0.recs n = some r → r.moveFailed = false →
    r.upPend = false → r.evictPend = false → r.forcePend = false → (∀ f ∈ ch.flight, f.wait ≠ .move n) →
    (∀ h ∈ c0.basins[b].holds, h.chain ≠ copyHold k n) →
    (∀ (i : Instr) (op : Nat), c0.plQueue ≠ [] → (i = .moveUp b k ∧ rowOf d = some (.copy 1) ∧ op = 4) ∨
        (i = .evict (.desc b k) ∧ rowOf d = some (.copy 2) ∧ op = 5) ∨ (i = .forceEvict (.desc b k) ∧ rowOf d = some (.copy 3) ∧ op = 6) →
      ∃ t, exec i s = .next t ∧ sameRest s t ∧ t.chip.mem = c0.mem ∧ t.chip.recs = c0.recs ∧
        t.chip.plQueue = c0.plQueue ++ [copyReq (headCtx b k ch) d op]) ∧
    (c0.plQueue = [] → rowOf d = some (.copy 1) → d.b 5 18 = false → r.state = .resident → exec (.moveUp b k) s = .next (s.withChip (settled c0))) ∧
    (c0.plQueue = [] → rowOf d = some (.copy 1) → d.b 5 18 = false → r.state = .absent → r.claims = 0 → ∃ t, exec (.moveUp b k) s = .next t ∧ sameRest s t ∧
      t.chip.mem = c0.mem ∧ t.chip.recs = tabSet c0.recs n { r with state := .movingUp, moveJob := d.job, waiters := r.waiters ++ [.copy b k] } ∧
      t.chip.basins[b].holds.length = c0.basins[b].holds.length + 1) ∧
    (c0.plQueue = [] → rowOf d = some (.copy 2) → r.state = .resident → r.pins = 0 → r.busy = 0 → wbParts c0 r = [] →
      ∃ t, exec (.evict (.desc b k)) s = .next t ∧ sameRest s t ∧ t.chip.mem = c0.mem ∧
        t.chip.recs = tabSet c0.recs n { r with state := .absent, moveJob := d.job }) ∧
    (c0.plQueue = [] → rowOf d = some (.copy 3) → r.state = .resident → r.busy = 0 → bit (getReg c0 rStCfg) 5 = true → wbParts c0 r = [] →
      ∃ t, exec (.forceEvict (.desc b k)) s = .next t ∧ sameRest s t ∧ t.chip.mem = c0.mem ∧
        t.chip.recs = tabSet c0.recs n { r with state := .absent, moveJob := d.job })


/-! ### Attention -/

/-- The package after reads that met no error and stayed within it: no word with an error, no failing residue check, nothing asked of
another package, and the same package (R53, R57, R314). -/
def Steady (c e : Chip) : Prop := e.ecc = [] ∧ e.residue = [] ∧ (∀ q ∈ e.fab.far, pkgOf q.addr = pkg e) ∧ e.power.pkgId = c.power.pkgId

/-- A row of a partial record as the merge reads it (R126, R128). -/
def recordRow (c : Chip) (a rows width r : Nat) : ARow :=
  let f := fun (x : Nat) => valOf .fp32 (leNat (memReadN c.mem x 4))
  let o := (List.range width).map (fun i => f (a + roundUp (64 + 16 * rows) 64 + r * roundUp (4 * width) 64 + 4 * i))
  { m := f (a + 64 + 16 * r), l := f (a + 68 + 16 * r), o := o,
    nan := (f (a + 64 + 16 * r)).isNan || (f (a + 68 + 16 * r)).isNan || o.any Val.isNan }

/-- FP32 rows written one after another, `pitch` bytes apart. -/
def rowsWritten (m : Memory) (a pitch : Nat) (rows : List (List Val)) : Memory :=
  (rows.zip (List.range rows.length)).foldl (fun m p => memWriteN m (a + p.2 * pitch) (p.1.flatMap (fun v => leBytes 4 (f32Code v)))) m

/-- What a backward pass writes for row `i` from its query (R139): for each token seen, what `val` makes of p, dP and D, and 0 for the others. Its
inputs stand in memory `mem`. -/
def backwardRow (mem : Memory) (a : Part) (w : Walk) (f : Fmt) (val : Val → Val → Val → Val) (toks : List Tok) (inp : Nat) (q : SRow)
    (i : Nat) : List Byte :=
  let word := fun (j : Nat) => valOf .fp32 (leNat (memReadN mem (inp + 16 * i + 4 * j) 4))
  let dp := fun (n : Nat) => valOf .fp32 (leNat (memReadN mem (inp + roundUp (16 * (a.heads * a.qpos)) 64 + i * (64 * a.count) + 4 * n) 4))
  (List.range (16 * a.count)).flatMap (fun n => leBytes 4 (f32Code
    (match ((toks.zip (rowScores a w f q i toks).1).find? (fun z => z.1.pos == 16 * a.first + n)).bind (·.2) with
    | none => Val.zero
    | some e => if isZero (word 1) then Val.zero else val (fMul (exp2Of (fAdd e (word 0).neg)) (recipOf (word 1))) (dp n) (word 2))))

/-- The attention engine with FP32 results (R123 to R132, R134, R139, R140), where its operands can be read. Each clause is one command or a
form of one: the merge folds each row of its records from the start of a row and writes its final output, and its statistics where they are
asked for; a forward partial writes its record with the header last, and one that finalises its rows (R134) their final output instead; the
backward passes write, for each row in turn, p or p · (dP − D) for the tokens seen and 0 for the others; the windowed mode, of one head and
one frame, writes its row. That the scratch area of a forward partial and of the windowed mode is left
undefined is the model's reading (log entry 28). -/
def Obligations.AttentionWritesRows : Prop :=
  ∀ (b : Fin 32) (k : Fin 16) (wait : Nat) (s : State) (ch : Chain) (d : Desc) (js : List Nat) (c c0 : Chip) (x : Ctx) (m : Fin 32),
    HeadReady s b k ch d js c → c0 = launched b k ch d js c → c0.ecc = [] → c0.residue = [] → x = headCtx b k ch → m = x.m →
    (∀ (rows width : Nat) (as : List Nat) (out : List ARow), rowOf d = some .merge → fmtOf d.outFmt = some .fp32 → rows = d.f 1 48 11 →
      width = d.f 2 24 10 → as = (List.range (d.f 1 40 6)).map (fun i => sram c0 m (d.f 1 0 23 + i * d.f 1 24 16 * 64)) →
      (∀ i, i < as.length → recordSkew d i ((List.range 8).map (fun j => leNat (memReadN c0.mem (as.getD i 0 + 8 * j) 8))) = false) →
      out = (List.range rows).map (fun r => as.foldl (fun y a => combine y (recordRow c0 a rows width r)) (ARow.start width)) →
      ∃ t, exec (.attnMerge b k) s = .next t ∧ sameRest s t ∧
        t.chip.mem = (let q := rowsWritten c0.mem (sram c0 m (d.f 2 0 23)) (roundUp (4 * width) 64) (out.map (fun y => (finalRow y).1))
          if d.b 3 23 then memWriteN q (sram c0 m (d.f 3 0 23)) (out.flatMap statBytes) else q) ∧
        getReg t.chip (rAttnCtr b.val 1) = (getReg c0 (rAttnCtr b.val 1) + (out.filter (fun y => (finalRow y).2)).length) % 2 ^ 32) ∧
    (∀ (a : Part) (w : Walk) (qs : List SRow) (rows out : List ARow) (c1 c2 c3 : Chip) (base : Nat), rowOf d = some (.attn 0) →
      a = partOf d → base = sram c0 m (d.f 3 0 23) →
      runEff (partWalk x d a) (bumpUnits c0 (rAttnCtr b.val 3) 256 wait) = (c1, .ok w) → runEff (queryRows x d a) c1 = (c2, .ok qs) →
      runEff (forwardRows x d a w qs) c2 = (c3, .ok rows) → Steady c0 c3 →
      (d.b 7 21 = false →
        out = rows.map (fun y => if y.nan || y.m.isNan || y.l.isNan then { m := .nan, l := .nan, o := y.o.map (fun _ => .nan), nan := true } else y) →
        ∃ t, exec (.attnPartialForward b k wait) s = .next t ∧ sameRest s t ∧
          t.chip.mem = memWriteN (memWriteN (rowsWritten (memWriteN c3.mem (base + 64) (out.flatMap statBytes))
              (base + roundUp (64 + 16 * rows.length) 64) (roundUp (4 * a.width) 64) (out.map (·.o))) base
              (([d.job + d.f 5 56 5 * 2 ^ 16 + d.f 3 55 6 * 2 ^ 21 + rows.length * 2 ^ 27 + a.width * 2 ^ 38, d.f 7 32 32, 0, 0, 0, 0, 0, 0] :
                List Nat).flatMap (leBytes 8)))
            (scratchOf c0 x d a).1 ((List.range (scratchOf c0 x d a).2).map (Config.freeByte c3.free))) ∧
      (d.b 7 21 = true → fmtOf d.outFmt = some .fp32 →
        out = rows.map (fun y => combine (ARow.start a.width) { y with nan := y.nan || y.m.isNan || y.l.isNan || y.o.any Val.isNan }) →
        ∃ t, exec (.attnPartialForward b k wait) s = .next t ∧ sameRest s t ∧
          t.chip.mem = memWriteN (rowsWritten c3.mem base (roundUp (4 * a.width) 64) (out.map (fun y => (finalRow y).1)))
            (scratchOf c0 x d a).1 ((List.range (scratchOf c0 x d a).2).map (Config.freeByte c3.free)))) ∧
    (∀ (i : Instr) (val : Val → Val → Val → Val) (pass : Nat) (a : Part) (w : Walk) (qs : List SRow) (fmt : Option Nat) (toks : List Tok)
      (c1 c2 c3 : Chip) (inp out len : Nat),
      ((i, pass) = (.attnBackwardP b k wait, 1) ∧ val = fun p _ _ => p) ∨
        ((i, pass) = (.attnBackwardDs b k wait, 2) ∧ val = fun p dp e => fMul p (fAdd dp e.neg)) →
      rowOf d = some (.attn pass) → d.f 3 48 2 = pass → a = partOf d → len = 64 * a.count →
      out = sram c0 m (d.f 3 0 23) → inp = sram c0 m (d.f 3 24 23) →
      runEff (partWalk x d a) (bumpUnits c0 (rAttnCtr b.val 3) 256 wait) = (c1, .ok w) → runEff (queryRows x d a) c1 = (c2, .ok qs) →
      runEff (readPages x d a w none (span a.first a.count)) c2 = (c3, .ok (fmt, toks)) → Steady c0 c3 →
      ∃ t, exec i s = .next t ∧ sameRest s t ∧
        t.chip.mem = (qs.zip (List.range (a.heads * a.qpos))).foldl (fun e p =>
          memWriteN e (out + p.2 * len) (backwardRow e a w (fmtGet (fmt.getD 1)) val toks inp p.1 p.2)) c3.mem) ∧
    (∀ (f g pf : Fmt) (hd base u : Nat) (q kr v : SRow) (o : List Val) (c1 : Chip), rowOf d = some .window → fmtOf d.outFmt = some .fp32 →
      d.f 1 40 7 = 1 → d.f 1 48 12 = 1 → f = fmtGet d.aFmt → g = fmtGet d.wFmt → pf = fmtGet (d.f 3 50 4) → hd = hdimOf (d.f 3 48 2) →
      base = sram c0 m (d.f 3 24 23) → u = 0x21 + (myJets c0 x).headD 0 →
      runEff (tensorRow x u g (d.f 2 0 23) 1 (d.f 1 24 16) hd 0) c0 = (c0, .ok kr) →
      runEff (tensorRow x u g (d.f 2 24 23) 1 (d.f 1 24 16) hd 0) c0 = (c0, .ok v) →
      runEff (tensorRow x u f (d.f 1 0 23) 1 (d.f 1 24 16) hd 0) c0 = (c0, .ok q) →
      runEff (windowRow x pf f g (valOf .fp32 (d.f 4 0 32)) q [(true, kr)] [v.vals g] hd) c0 = (c1, .ok o) → Steady c0 c1 →
      ∃ t, exec (.attnWindow b k) s = .next t ∧ sameRest s t ∧
        t.chip.mem = memWriteN (memWriteN c0.mem (sram c0 m (d.f 3 0 23)) (o.flatMap (fun y => leBytes 4 (f32Code y)))) base
          ((List.range (2 * 4096 * ceilDiv (d.f 2 48 8 + d.f 2 56 8 + 32) 32)).map (Config.freeByte c1.free)))


/-! ### The key-value cache -/

/-- The root that stands at an address (R146, R147). -/
def rootAt (c : Chip) (a : Nat) : Root := rootOf a ((List.range 24).map (fun i => leNat (memReadN c.mem (a + 8 * i) 8)))

/-- The four words of the record of a layer of a root (R147). -/
def layerAt (c : Chip) (a l : Nat) : List Nat := (List.range 4).map (fun i => leNat (memReadN c.mem (a + 192 + 32 * l + 8 * i) 8))

/-- The result record of a KV_PAGE (R169): for each version slot its generation, status, tick and pins, and what was written. -/
def resultBytes (c : Chip) (r : Root) (wrote : Option (Nat × Bool)) : List Byte :=
  (r.vs.flatMap (fun v => [v.gen + versionStatus (getF c rKvCfg 0 4) (tickOf c) r.vs v * 2 ^ 16 + v.tick * 2 ^ 32,
    v.pins + (match wrote with | some (n, rep) => if n = v.slot then 2 ^ 32 + b2n rep * 2 ^ 33 else 0 | none => 0)])).flatMap (leBytes 8)

/-- A root of this package that a descriptor may name: backed, whole, of its job, with no reserved field set (R152, R153). -/
structure RootGood (c : Chip) (d : Desc) (a : Nat) (r : Root) : Prop where
  here : pkgOf a = pkg c
  clean : c.ecc = []
  placed : a % 64 = 0 ∧ backed a 192 = true ∧ backed a (192 + 32 * r.layers) = true
  read : r = rootAt c a
  good : r.bad = false
  job : r.job = d.job

/-- Operations of KV_PAGE on a root (R163, R166, R169, R170, R171). Each clause is one command or one case of it: QUERY writes the result
record alone; CLEAR_PINS writes 0 to the pins of its slot, then the record; PUBLISH for a tick that has a version replaces its body, and
otherwise takes a slot that is not LIVE, the first of them (which one is the model's choice, log entry 192), with the next generation;
RESOLVE and TRIM of one layer without tails move LEN and ACC_LEN and count the tokens dropped; FOLD_TAIL drops a tail entry that is not
tentative and that the body holds. That words 1 to 3 of a layer record without tails are written 0 is the model's choice (log entry 137). -/
def KvPageOperations : Prop :=
  ∀ (b : Fin 32) (k : Fin 16) (s : State) (ch : Chain) (d : Desc) (js : List Nat) (c c0 : Chip) (m : Fin 32) (a out next : Nat) (r : Root),
    HeadReady s b k ch d js c → c0 = launched b k ch d js c → m = (headCtx b k ch).m → a = d.f 1 0 48 → RootGood c0 d a r →
    out = sram c0 m (d.f 3 0 23) → next = (tickOf c0 + 1) % 2 ^ 32 →
    (rowOf d = some (.kv 4) → exec (.query b k) s = .next (s.withChip (settled (putMem c0 out (resultBytes c0 r none))))) ∧
    (∀ e : Chip, rowOf d = some (.kv 5) → e = putMem c0 (pinsAddr a (d.f 4 38 2)) (leBytes 4 0) →
      exec (.clearPins b k) s = .next (s.withChip (settled (putMem e out (resultBytes e (rootAt e a) none))))) ∧
    (∀ (v : Version) (e : Chip), rowOf d = some (.kv 0) → r.vs.find? (fun v => v.live && v.tick == next) = some v →
      e = putMem c0 (a + 64 + 32 * v.slot + 8) (leBytes 8 (d.f 2 0 48)) →
      exec (.publish b k) s = .next (s.withChip (settled (putMem e out (resultBytes e (rootAt e a) (some (v.slot, true))))))) ∧
    (∀ (v x : Version) (e : Chip), rowOf d = some (.kv 0) → r.vs.find? (fun v => v.live && v.tick == next) = none →
      r.vs.find? (fun v => !v.live) = some v → x ∈ r.vs → x.live = true → (∀ y ∈ r.vs, y.live = true → y.gen ≤ x.gen) →
      e = putMem (putMem (putMem c0 (a + 64 + 32 * v.slot + 8) (leBytes 8 (d.f 2 0 48))) (a + 64 + 32 * v.slot + 16) (leBytes 8 0))
        (a + 64 + 32 * v.slot) (leBytes 8 ((x.gen + 1) % 2 ^ 16 + 2 ^ 16 + next * 2 ^ 32)) →
      exec (.publish b k) s = .next (s.withChip (settled (putMem e out (resultBytes e (rootAt e a) (some (v.slot, false))))))) ∧
    (∀ (l len acc n : Nat) (w : List Nat), l = d.f 4 0 8 → d.f 4 8 9 = 1 → l < r.layers → w = layerAt c0 a l →
      fld (w.getD 0 0) 42 22 = 0 → fld (w.getD 3 0) 32 32 = 0 → len = fld (w.getD 0 0) 0 21 → acc = fld (w.getD 0 0) 21 21 → n = d.f 4 17 21 →
      (rowOf d = some (.kv 1) → n ≤ len - acc → exec (.resolve b k) s = .next (s.withChip (settled
        (bump (putMem c0 (a + 192 + 32 * l) (([acc + n + (acc + n) * 2 ^ 21, 0, 0, 0] : List Nat).flatMap (leBytes 8)))
          (rKvCtr b.val 3) (len - (acc + n)))))) ∧
      (rowOf d = some (.kv 2) → n ≤ acc → exec (.trim b k) s = .next (s.withChip (settled
        (bump (putMem c0 (a + 192 + 32 * l) (([n + n * 2 ^ 21, 0, 0, 0] : List Nat).flatMap (leBytes 8))) (rKvCtr b.val 3) (len - n)))))) ∧
    (∀ (l e i : Nat) (x : LayerRec) (w w2 : Walk) (c1 c2 : Chip), rowOf d = some (.kv 3) → l = d.f 4 0 8 → d.f 4 8 9 = 1 →
      runEff (kvPin (headCtx b k ch) a (d.f 5 0 32) l) c0 = (c1, .ok w) →
      runEff (kvCheck d.job none (fun _ _ => false) w) c1 = (c1, .ok w2) → runEff (readLayers a l 1) c1 = (c1, .ok [(x, false)]) →
      x.tails = [(0, i, e)] → entTent e = false → i < w2.pages → runEff (kvEntry b w2 l [] i) c1 = (c2, .ok (e, true)) → (∀ q ∈ c2.fab.far, pkgOf q.addr = pkg c2) →
      pkgOf a = pkg c2 → runEff (readLayers a l 1) c2 = (c2, .ok [(x, false)]) → entV e = true → entCow e = false →
      exec (.foldTail b k) s = .next (s.withChip (settled
        (putMem c2 (a + 192 + 32 * l) (([x.len + x.acc * 2 ^ 21, 0, 0, 0] : List Nat).flatMap (leBytes 8))))))

/-- KV_APPEND of one BF16 latent to one root of this package, in the open (R157 to R162): where the root is found, its page is ready and the
accumulators are complete, the row of the latent is written to its slot, LEN and ACC_LEN grow by 1, and no share counter changes. That
words 1 to 3 of a layer record without tails are written 0 is the model's choice (log entry 137). -/
def AppendWritesRows : Prop :=
  ∀ (b : Fin 32) (k : Fin 16) (s : State) (ch : Chain) (d : Desc) (js : List Nat) (c c0 c1 c2 c3 : Chip) (x : Ctx) (p : Prod)
    (as : List Append) (a : Append) (frame : Nat) (cells : Tab (List Cell)),
    HeadReady s b k ch d js c → rowOf d = some .kvAppend → c0 = launched b k ch d js c → x = headCtx b k ch → d.b 7 21 = false → d.f 7 0 7 = 0 →
    p = prodOf c0 x d (c0.basins[b].chains[k].bind (·.acc)) → p.m = 1 → d.accClear = true → p.isInt = false → d.b 4 39 = false → d.outFmt = 3 →
    runEff (appendOpen x d p.m p.n) c0 = (c1, .ok as) → runEff (appendPlan b 3 false as) c1 = (c2, .ok [a]) → a.rows = 1 → a.first = 0 →
    a.tails = [] → a.shares = [] → c2.residue = [] →
    runEff (multiply x p (srcOf (d.f 1 0 23) (d.b 1 23)) (srcOf (d.f 2 0 23) (d.b 2 23)) none none (fun _ _ _ => pure ())) c2 =
      (c3, .ok cells) → Steady c0 c3 →
    frame = frameOf (((a.pages.find? (fun q => q.1 == a.w.lrec.len / 16)).map (·.2)).getD 0) + a.w.lrec.len % 16 * (32 * a.w.rank32) * 2 →
    pkgOf frame = pkg c3 → pkgOf a.w.root.addr = pkg c3 → inHub frame (2 * (tabGet [] cells 0).length) = false → backed frame (2 * (tabGet [] cells 0).length) = true →
    ∃ t, exec (.kvAppend b k) s = .next t ∧ sameRest s t ∧
      t.chip.mem = memWriteN (memWriteN (memWriteN c3.mem frame
          ((tabGet [] cells 0).flatMap (fun v => leBytes 2 (conv .bf16 (fltResult v)).code)))
        (a.w.root.addr + 192 + 32 * a.w.layer)
          (([a.w.lrec.len + 1 + (a.w.lrec.len + 1) * 2 ^ 21, 0, 0, 0] : List Nat).flatMap (leBytes 8)))
        (a.w.root.addr + 24) (leBytes 2 a.freeCnt)

/-- The roots and pages of the key-value cache: KV_PAGE and KV_APPEND (R157 to R163, R166, R169 to R171). -/
def Obligations.PagesOfTheCache : Prop := KvPageOperations ∧ AppendWritesRows


/-! ### State-carrying operators -/

/-- The header of the object at an address (R93). -/
def headerAt (c : Chip) (a : Nat) : Header := headerOf ((List.range 8).map (fun i => leNat (memReadN c.mem (a + 8 * i) 8)))

/-- State objects (R97, R98, R101, R107 to R109). Each clause is one command: SAVE copies an object whole to its checkpoint, which at another
package is asked of it in WRITE requests; RESTORE copies back a
checkpoint of the object's job, mode, format and size; CLEAR_HOOK writes the header's first word with PENDING 0; and one frame of the
diagonal recurrence of one FP32 object without a residual lane makes each element g · s + u, rounded once, adds 1 to STEP, and sets
PENDING where the hook fires. -/
def Obligations.StateOperatorsWriteObjects : Prop :=
  ∀ (b : Fin 32) (k : Fin 16) (s : State) (ch : Chain) (d : Desc) (js : List Nat) (c c0 c1 : Chip) (m : Fin 32) (a ck n : Nat) (h : Header),
    HeadReady s b k ch d js c → c0 = launched b k ch d js c → c0.ecc = [] → m = (headCtx b k ch).m →
    (a = sram c0 m (d.f 1 0 23) → ck = d.f 2 0 48 → c1 = holdObject (headCtx b k ch) a c0 → past (d.f 1 0 23) 64 = false → h = headerAt c0 a →
      headerBad0 h d.job = false → n = objectSize h → past (d.f 1 0 23) n = false →
      (rowOf d = some (.ckpt 0) → fenced c0 (pkgOf ck) = false → inHub ck n = false → backed ck n = true →
        (pkgOf ck = pkg c0 → exec (.save b k) s = .next (s.withChip (settled (putMem c1 ck (memReadN c0.mem a n))))) ∧
        (∀ (ts : List Nat) (c2 : Chip), pkgOf ck ≠ pkg c0 → ts ≠ [] →
          flushFar (basinMaster ch.home) (.walk b k ch.nextId) (askWrite ck (memReadN c0.mem a n) c1) = ((ts, none), c2) →
          exec (.save b k) s = .next (s.withChip (modFlightOf b k ch.nextId (awaitTags ts) c2)))) ∧
      (rowOf d = some (.ckpt 1) → pkgOf ck = pkg c0 → inHub ck 64 = false → backed ck 64 = true → inHub ck n = false → backed ck n = true →
        headerBad0 (headerAt c0 ck) d.job = false → (headerAt c0 ck).mode = h.mode → (headerAt c0 ck).sFmt = h.sFmt →
        (headerAt c0 ck).d = h.d → exec (.restore b k) s = .next (s.withChip (settled (putMem c1 a (memReadN c0.mem ck n))))) ∧
      (rowOf d = some (.ckpt 2) → exec (.clearHook b k) s =
        .next (s.withChip (settled (putMem c1 a (leBytes 8 ({ h with pending := false } : Header).word0)))))) ∧
    (∀ (off : Nat) (us gs ss : List Val) (out : List Val), rowOf d = some .chunk → c0.residue = [] → d.f 5 23 9 = 1 → d.f 1 24 7 = 1 → d.f 1 32 7 = 0 →
      d.b 5 32 = false → d.b 3 23 = false → d.b 2 24 = false → off = leNat (memReadN c0.mem (sram c0 m (d.f 5 0 23)) 4) → off % 64 = 0 →
      off < 0x600000 → past off 64 = false → a = sram c0 m off → h = headerAt c0 a → headerBad0 h d.job = false → h.mode = 1 → n = h.d → n = d.f 5 38 17 →
      past off (objectSize h) = false → h.pending = false →
      us = (vecCodes c0 m (fmtGet d.aFmt) (d.f 1 0 23) n).map (widen (fmtGet d.aFmt)) →
      gs = (vecCodes c0 m (fmtGet d.wFmt) (d.f 2 0 23) n).map (widen (fmtGet d.wFmt)) →
      ss = (List.range n).map (fun i => valOf .fp32 (leNat (memReadN c0.mem (a + 64 + 4 * i) 4))) →
      out = (zip3 gs us ss).map (fun q => fFma q.1 q.2.2 q.2.1) →
      ∃ t, exec (.stateChunk b k) s = .next t ∧ sameRest s t ∧
        t.chip.mem = memWriteN (memWriteN c0.mem (a + 64) (out.flatMap (fun v => leBytes 4 (f32Code v)))) a
          (leBytes 8 ({ h with pending := hookFires c0 h 1 } : Header).word0 ++ leBytes 8 ((h.step + 1) % 2 ^ 48)) ∧
        getReg t.chip (rStateCtr b.val 3) = (getReg c0 (rStateCtr b.val 3) + (out.filter (fun v => !v.isFin)).length) % 2 ^ 32)


/-! ### Completion, ganging, basins -/

/-- The completion of a descriptor (R39, R37, R177): with SIG_EN its counter grows by 1 modulo 2^16; it leaves its chain; and the chain ends
and frees its context with a LAST descriptor that leaves none in flight; the tables that it built are READY, and the holds that its coding
takes are counted (R215, R216). When the tables of a descriptor in flight become READY is the model's reading (log entry 147). The
hypotheses leave out what some descriptors hold (pins, BUSY, tickets) and done words; the context of a chain whose LAST descriptor completes
before one that it overlaps is the model's choice (log entry 193), and the statement leaves it open. -/
def Obligations.CompletionSignalsAndEndsChain : Prop :=
  ∀ (b : Fin 32) (k : Fin 16) (j : Done) (s : State) (ch : Chain) (f : Flight) (d : Desc),
    s.chip.basins[b].chains[k] = some ch → ch.place = .home → ch.stopped = false → ch.ticket = none → ch.lastDone = false →
    ch.item.done = 0 → ch.flight[j.i]? = some f → f.wait = .none → f.again = false → f.w ≠ [] → f.pins = [] → f.busy = [] →
    ch.flight.find? (fun g => g.id == f.id) = some f → d = { w := f.w } → s.chip.jobs = [] →
    (∀ n ∈ f.builds, n < 16) → (∀ h ∈ f.holds, h.1 < 16) →
    ∃ t, exec (.descriptorComplete b k j) s = .next t ∧ sameRest s t ∧ t.chip.mem = s.chip.mem ∧
      t.chip.basins[b].ctr = (if d.sigEn then tabSet s.chip.basins[b].ctr d.sigCtr ((tabGet 0 s.chip.basins[b].ctr d.sigCtr + 1) % 65536)
        else s.chip.basins[b].ctr) ∧
      (d.last = true → ch.flight.filter (fun g => g.id != f.id) = [] → t.chip.basins[b].chains[k] = none) ∧
      (d.last = false → ∃ x, t.chip.basins[b].chains[k] = some x ∧ x.flight = ch.flight.filter (fun g => g.id != f.id) ∧ x.pc = ch.pc) ∧
      (∀ n, n < 16 → (slotAt t.chip b n).state =
        (if n ∈ f.builds ∧ (slotAt s.chip b n).state = .building then .ready else (slotAt s.chip b n).state)) ∧
      (∀ n, n < 16 → (slotAt t.chip b n).holds = (slotAt s.chip b n).holds + ((f.holds.filter (fun h => h.1 == n)).map (·.2)).sum)

/-- The ganging mode that the head of a chain wants, as its descriptor stands in SRAM (R35). -/
def headGang (c : Chip) (b : Fin 32) (k : Fin 16) (ch : Chain) : Nat := (peekDesc c (ctxOf b k ch).m ch.pc).gang

/-- The change of ganging mode (R35): once no jet is busy and no accumulator is held, the basin takes the mode of the waiting descriptor that
reached the head of its chain first, GANG_DRAIN counts the cycles lost in units of 256, no chain whose head wants that mode waits any more,
every other one waits on, and that descriptor is taken up. Where a jet is busy or an accumulator held, or no chain waits, nothing
happens. -/
def Obligations.GangModeChangesForFirstWaiter : Prop :=
  (∀ (b : Fin 32) (j : GangCycles) (s : State) (k : Fin 16) (ch : Chain),
    s.chip.basins[b].chains[k] = some ch → s.chip.basins[b].drain.contains k = true → jetsIdle s.chip.basins[b] = true →
    (∀ p ∈ chainsOf s.chip.basins[b], s.chip.basins[b].drain.contains p.1 = true → p.1 ≠ k → ch.stamp < p.2.stamp) →
    ∃ c, exec (.gangModeChange b j) s = .next (s.withChip (issue b k (fun _ => true) (jetBody j.vec) c)) ∧
      c.basins[b].gang = headGang s.chip b k ch ∧ c.mem = s.chip.mem ∧ c.basins[b].chains = s.chip.basins[b].chains ∧
      (∀ (i : Fin 16) (x : Chain), s.chip.basins[b].chains[i] = some x →
        (i ∈ c.basins[b].drain ↔ i ∈ s.chip.basins[b].drain ∧ headGang s.chip b i x ≠ headGang s.chip b k ch)) ∧
      getReg c (rBasinCtr b.val 3) =
        (getReg s.chip (rBasinCtr b.val 3) + (tabGet 0 s.chip.rems (rBasinCtr b.val 3) + j.drain) / 256) % 2 ^ 32) ∧
  (∀ (b : Fin 32) (j : GangCycles) (s : State), (jetsIdle s.chip.basins[b] = false ∨
      ∀ p ∈ chainsOf s.chip.basins[b], s.chip.basins[b].drain.contains p.1 = false) →
    exec (.gangModeChange b j) s = .next s)

/-- BS_ENABLE (R61, R400): in ACTIVE with no mode change under way a write sets the bits of the basins whose self-test passed or that were
enabled before, and clears the others; the write is answered without an error and changes no other register. -/
def EnableWriteSetsPassedBasins : Prop :=
  ∀ (m : Master) (v : BitVec 32) (s : State), m.toNat ≤ 3 → modeOf s.chip = 0 → s.chip.power.change = none →
    ∃ t, exec (.bsEnableWrite m v) s = .next t ∧ sameRest s t ∧ t.chip.mem = s.chip.mem ∧ t.chip.basins = s.chip.basins ∧
      (∀ b : Fin 32, enabled t.chip b = (v.getLsbD b.val && (s.chip.basins[b].selftest == 2 || enabled s.chip b))) ∧
      (∀ off, off ≠ rEnable → getReg t.chip off = getReg s.chip off) ∧ t.chip.out = .bus m 0 0 :: s.chip.out

/-- BS_TEST, FREQ, the PLL, the stretch and the words with an error. Each clause is one command:
BS_TEST with START starts the self-test of a basin that is not enabled, and BUSY reads 1 (R63);
a self-test that ends leaves SELFTEST 0b10 if it passed and 0b11 with the unit that failed, BUSY 0, and the basin's SRAM all zeros (R56, R63);
a write of a new FREQ holds issue until the PLL has relocked, and the relock, once no descriptor is in flight, lets it go on (R59);
a grant above the present stretch takes effect at once and a lower one lets it fall by 1 (R60, R407);
a corrected word is written back and has no error afterwards (R53); a scrub of a basin without errors changes nothing (R55). -/
def BasinUpkeep : Prop :=
  (∀ (m : Master) (v : BitVec 32) (b : Fin 32) (s : State), m.toNat ≤ 3 → modeOf s.chip = 0 → v.toNat % 32 = b.val → v.getLsbD 8 = true →
    enabled s.chip b = false → bit (getReg s.chip rTest) 9 = false →
    ∃ t, exec (.bsTestStart m v) s = .next t ∧ sameRest s t ∧ bit (getReg t.chip rTest) 9 = true ∧ t.chip.basins[b].selftest = 1 ∧
      t.chip.mem = s.chip.mem) ∧
  (∀ (b : Fin 32) (u : BitVec 6) (s : State), s.chip.basins[b].selftest = 1 →
    ∃ t, exec (.selftestDone b u) s = .next t ∧ sameRest s t ∧ bit (getReg t.chip rTest) 9 = false ∧
      t.chip.basins[b].selftest = (if u = 0 then 2 else 3) ∧ t.chip.basins[b].failUnit = u.toNat ∧
      (∀ off, off < 0x600000 → memRead t.chip.mem (sram s.chip b off) = 0)) ∧
  (∀ (m : Master) (v : BitVec 32) (b : Fin 32) (s : State), m.toNat ≤ 3 → hubOn s.chip = true → v.toNat % 64 ≤ 24 →
    v.toNat % 64 ≠ getF s.chip (rClk b.val) 0 6 →
    ∃ t, exec (.freqWrite m b v) s = .next t ∧ sameRest s t ∧ getF t.chip (rClk b.val) 0 6 = v.toNat % 64 ∧
      t.chip.basins[b].freqPend = true ∧ t.chip.mem = s.chip.mem) ∧
  (∀ (b : Fin 32) (s : State), s.chip.basins[b].freqPend = true → basinBusy s.chip.basins[b] = false →
    ∃ t, exec (.pllRelockDone b) s = .next t ∧ sameRest s t ∧ t.chip.basins[b].freqPend = false ∧ bit (getReg t.chip (rClk b.val)) 8 = true ∧
      t.chip.mem = s.chip.mem) ∧
  (∀ (b : Fin 32) (s : State), ∃ t, exec (.stretchApply b) s = .next t ∧ sameRest s t ∧ t.chip.regs = s.chip.regs ∧ t.chip.mem = s.chip.mem ∧
      t.chip.basins[b].stretch = (if s.chip.basins[b].stretch ≤ s.chip.basins[b].grant then s.chip.basins[b].grant
        else s.chip.basins[b].stretch - 1)) ∧
  (∀ (b : Fin 32) (w : Nat) (s : State), tabFind s.chip.ecc (sramWord s.chip b w) = some .single →
    ∃ t, exec (.sramCorrectWriteback b w) s = .next t ∧ sameRest s t ∧ t.chip.ecc = tabDel s.chip.ecc (sramWord s.chip b w) ∧
      t.chip.mem = s.chip.mem ∧ t.chip.regs = s.chip.regs) ∧
  (∀ (b : Fin 32) (line : Nat) (s : State), modeOf s.chip = 0 → line < 3072 → s.chip.ecc = [] → exec (.scrubRead b line) s = .next s)

/-- SRAM errors met by the scrubber (R53, R55): one word with one wrong bit in the line adds 1 to SRAM_CE, an uncorrectable one adds 1 to
SRAM_UE and is reported with code 0x0201. -/
def ScrubCountsErrors : Prop :=
  ∀ (b : Fin 32) (line w : Nat) (s : State), modeOf s.chip = 0 → line < 3072 → w < 256 →
    (s.chip.ecc = [(sramWord s.chip b (256 * line + w), .single)] →
      ∃ t, exec (.scrubRead b line) s = .next t ∧ sameRest s t ∧
        getReg t.chip (rBasinCtr b.val 0) = (getReg s.chip (rBasinCtr b.val 0) + 1) % 2 ^ 32) ∧
    (s.chip.ecc = [(sramWord s.chip b (256 * line + w), .double)] →
      ∃ t, exec (.scrubRead b line) s = .next t ∧ sameRest s t ∧
        getReg t.chip (rBasinCtr b.val 1) = (getReg s.chip (rBasinCtr b.val 1) + 1) % 2 ^ 32 ∧
        getReg t.chip rErrLast = 0x0201 + 2 * 65536)

/-- The registers of the basins, their self-tests, clocks and words with an error (R53, R55, R56, R59, R60, R61, R63). -/
def Obligations.BasinsAreKept : Prop := EnableWriteSetsPassedBasins ∧ BasinUpkeep ∧ ScrubCountsErrors


/-! ### Work queues -/

/-- The items that a run of words posts, as they stand in a queue: with no gate an item counts its gate as satisfied (R177, R178). -/
def queuedItems (ws : List (List Nat)) : List QItem := ws.map (fun w => { item := itemOf w, gateOk := (itemOf w).gate == 0 })

/-- A range of this package's memory that can be read and written without an error (R53, R237, R238). -/
abbrev PlainRange (c : Chip) (a n : Nat) : Prop :=
  pkgOf a = pkg c ∧ fenced c (pkg c) = false ∧ inHub a n = false ∧ backed a n = true ∧ c.ecc = []

/-- WQ_POST (R179): a run of items of this package's memory that passes every check enters the tail in order, its items being written to the
ring (R178), and no byte outside the ring changes. A run that does not fit in the 256 places is refused whole: the queue stays, POST_REJECT
grows by 1, and WQ_STATUS_n names WQ_FULL. The items name no state object with a record. -/
def PostEntersTailOrIsRefusedWhole : Prop :=
  ∀ (m : Master) (b : Fin 32) (v : BitVec 32) (s : State) (c : Chip) (a n : Nat) (ws : List (List Nat)),
    m.toNat ≤ 3 → hubOn s.chip = true → c = storeReg s.chip (rWqHi b.val) v.toNat → a = postAddr c (rWqLo b.val) (rWqHi b.val) →
    n = fld v.toNat 16 9 → n ≠ 0 → PlainRange s.chip a (64 * n) → ws = runWords 64 n (memReadN s.chip.mem a (64 * n)) →
    (s.chip.basins[b].queue.length + n ≤ 256 → a % 64 = 0 →
      (∀ w ∈ ws, itemBad c (itemOf w) = false ∧ itemLate c (itemOf w) = false ∧ (itemOf w).kind ≠ 2) →
      ∃ t, exec (.wqPost m b v) s = .next t ∧ sameRest s t ∧ t.chip.basins[b].queue = s.chip.basins[b].queue ++ queuedItems ws ∧
        t.chip.out = .bus m 0 0 :: s.chip.out ∧
        ∀ i, i < sram s.chip b (getF s.chip (rWqBase b.val) 0 9 * 16384) ∨ sram s.chip b (getF s.chip (rWqBase b.val) 0 9 * 16384) + 16384 ≤ i →
          memRead t.chip.mem i = memRead s.chip.mem i) ∧
    (256 < s.chip.basins[b].queue.length + n →
      ∃ t, exec (.wqPost m b v) s = .next t ∧ sameRest s t ∧ t.chip.basins = s.chip.basins ∧ t.chip.mem = s.chip.mem ∧
        getReg t.chip (rWqCtr b.val 6) = (getReg s.chip (rWqCtr b.val 6) + 1) % 2 ^ 32 ∧ getF t.chip (rWqStatus b.val) 16 16 = 0x0702)

/-- ITEM_START (R59, R181): the oldest of the first eight items that is ready, with its data in place, starts in the lowest free context: its
chain begins at CHAIN and it leaves the queue; while a change of FREQ is under way none starts. No stolen item waits for a context, and no
chunk item has been held since STATE_SWAP last counted. -/
def OldestReadyItemStarts : Prop :=
  ∀ (b : Fin 32) (swap i : Nat) (s : State) (k : Fin 16) (q : QItem),
    enabled s.chip b = true → modeOf s.chip = 0 → freeContextOf s.chip.basins[b] = some k → i < 8 → s.chip.basins[b].queue[i]? = some q →
    ready s.chip b i q = true → objectThere s.chip b q.item = true → aheadWhole q = true → q.heldSince = none →
    s.chip.basins[b].freqPend = false → s.chip.basins[b].arrived = [] → s.chip.basins[b].swapOwed = false →
    (∀ j p, j < i → s.chip.basins[b].queue[j]? = some p → ready s.chip b j p = false) →
    ∃ t, exec (.itemStart b swap) s = .next t ∧ sameRest s t ∧ t.chip.mem = s.chip.mem ∧ t.chip.regs = s.chip.regs ∧
      t.chip.basins[b].queue = s.chip.basins[b].queue.eraseIdx i ∧
      ∃ ch, t.chip.basins[b].chains[k] = some ch ∧ ch.item = q.item ∧ ch.pc = q.item.chain.toNat ∧ ch.place = .home ∧ ch.home = b ∧
        ch.flight = [] ∧ ch.lastIssued = false ∧ ch.ahead = q.ahead.getD []

/-- A change of FREQ holds the queue (R59): nothing starts, and nothing else changes, until the PLL has relocked. -/
def FreqChangeHoldsStarts : Prop :=
  ∀ (b : Fin 32) (swap : Nat) (s : State), s.chip.basins[b].freqPend = true → s.chip.basins[b].swapOwed = false → exec (.itemStart b swap) s = .next s

/-- GATE_REREAD (R177, R180): the gate of an item, which lies in this package, is satisfied exactly where the low 16 bits of its gate word
have come to GATE_VAL in the serial order; nothing else changes. The queued items of a basin that is not enabled (R62), and those of a
contained job (R425), are left alone. -/
def GateRereadComparesSerially : Prop :=
  ∀ (b : Fin 32) (i : Nat) (s : State) (q : QItem), s.chip.basins[b].queue[i]? = some q → q.item.gate ≠ 0 →
    (gateLive s.chip b q = true → PlainRange s.chip q.item.gate.toNat 4 →
      ∃ t, exec (.gateReread b i) s = .next t ∧ sameRest s t ∧ t.chip.mem = s.chip.mem ∧ t.chip.regs = s.chip.regs ∧
        t.chip.basins[b].queue = s.chip.basins[b].queue.set i { q with gateOk := decide ((leNat (memReadN s.chip.mem q.item.gate.toNat 4) % 65536 + 65536 - q.item.gateVal.toNat) % 65536 < 32768) }) ∧
    (gateLive s.chip b q = false → exec (.gateReread b i) s = .next s)

/-- Work queues: posts, starts and gates (R59, R177 to R181). -/
def Obligations.QueuesFillAndStart : Prop := PostEntersTailOrIsRefusedWhole ∧ OldestReadyItemStarts ∧ FreqChangeHoldsStarts ∧ GateRereadComparesSerially

/-- A sweep of a basin begins with WQ_CFG as it stands (R201). -/
def sweepBegun (b : Fin 32) (c : Chip) : Chip := modBasin b (fun x => { x with sweepCfg := getReg c rWqCfg }) c

/-- Stealing (R182 to R184). Each clause is one command or one case of it: a thief that finds a victim in its terrace sends it a take with
the window as it stands; one that finds no victim in a widest circle of the terrace counts STEAL_EMPTY and backs off; a sweep of an idle
basin that is no thief changes nothing, and neither does one of a basin that backs off or has a take or probes under way; the back-off ends;
a probe is answered with the best victim of this package; a take in the terrace moves the item: out of the victim's queue, into the thief's
free context where it runs in place, counted in STEAL_OUT and STEAL_IN. When STEAL_IN counts an item (log entry 52), and which of the
conditions on an item a victim's count leaves to the take (log entry 36), is the model's reading. -/
def StealingMovesItems : Prop :=
  (∀ (b v : Fin 32) (s : State), s.chip.basins[b].thief = .idle → isThief s.chip b = true → findVictim (sweepBegun b s.chip) b 1 = some v →
    exec (.stealSweep b) s = .next (s.withChip (modBasin b (fun x => { x with thief := .taking 1 v, takeWin := getReg s.chip rWqWindow })
      (sweepBegun b s.chip)))) ∧
  (∀ (b : Fin 32) (s : State), s.chip.basins[b].thief = .idle → isThief s.chip b = true → findVictim (sweepBegun b s.chip) b 1 = none →
    getF s.chip rWqCfg 0 3 = 1 →
    ∃ t, exec (.stealSweep b) s = .next t ∧ sameRest s t ∧ t.chip.basins[b].thief = .backoff ∧ t.chip.mem = s.chip.mem ∧
      getReg t.chip (rWqCtr b.val 2) = (getReg s.chip (rWqCtr b.val 2) + 1) % 2 ^ 32) ∧
  (∀ (b : Fin 32) (s : State), s.chip.basins[b].thief = .idle → isThief s.chip b = false → exec (.stealSweep b) s = .next s) ∧
  (∀ (b : Fin 32) (s : State), (s.chip.basins[b].thief = .backoff ∨ (∃ n v, s.chip.basins[b].thief = .taking n v) ∨
      (∃ xs, s.chip.basins[b].thief = .probing xs) ∨ ∃ p v, s.chip.basins[b].thief = .takingFar p v) → exec (.stealSweep b) s = .next s) ∧
  (∀ (b : Fin 32) (s : State), s.chip.basins[b].thief = .backoff →
    ∃ t, exec (.stealBackoffExpire b) s = .next t ∧ sameRest s t ∧ t.chip.basins[b].thief = .idle ∧ t.chip.regs = s.chip.regs ∧
      t.chip.mem = s.chip.mem) ∧
  (∀ (src : Pkg) (tb : Fin 32) (s : State), fenced s.chip src.toNat = false → src ≠ s.chip.power.pkgId → modeOf s.chip = 0 →
    ∃ t, exec (.stealProbe (.ask src tb)) s = .next t ∧ sameRest s t ∧ t.chip.mem = s.chip.mem ∧ t.chip.basins = s.chip.basins ∧
      .hub src 0 (.probeAnswer tb (fabricBest s.chip).1 (fabricBest s.chip).2) ∈ t.chip.out) ∧
  (∀ (b v : Fin 32) (i : Nat) (q : QItem) (k : Fin 16) (s : State), s.chip.basins[b].thief = .taking 1 v → v ≠ b →
    terraceOf v = terraceOf b → enabled s.chip b = true →
    takeFrom s.chip v 1 (freeJets s.chip.basins[b]) s.chip.basins[b].takeWin s.chip.basins[b].occupied = some (i, q) →
    freeContextOf s.chip.basins[b] = some k → (q.item.pfEn = false ∨ q.ahead.isSome = true) →
    ∃ t, exec (.stealTake (.serve b)) s = .next t ∧ sameRest s t ∧ t.chip.mem = s.chip.mem ∧
      t.chip.basins[v].queue = s.chip.basins[v].queue.eraseIdx i ∧ t.chip.basins[b].thief = .idle ∧
      getReg t.chip (rWqCtr v.val 1) = (getReg s.chip (rWqCtr v.val 1) + 1) % 2 ^ 32 ∧
      getReg t.chip (rWqCtr b.val 0) = (getReg s.chip (rWqCtr b.val 0) + 1) % 2 ^ 32 ∧
      ∃ ch, t.chip.basins[b].chains[k] = some ch ∧ ch.item = q.item ∧ ch.place = .inPlace ∧ ch.home = v ∧ ch.pc = q.item.chain.toNat ∧
        ch.ahead = q.ahead.getD [])

/-- MIGRATE_RETURN within the package (R185, R187): the return range is copied from the thief's SRAM to the home's, the signals that the
chain withheld are added to the home's event counters, STEAL_IN counts the item, and the context is free. -/
def MigratedItemReturns : Prop :=
  ∀ (b : Fin 32) (k : Fin 16) (s : State) (ch : Chain),
    s.chip.basins[b].chains[k] = some ch → ch.place = .migrated → ch.lastDone = true → ch.stopped = false → ch.flight = [] →
    ch.homePkg = s.chip.power.pkgId → ch.ticket = none → ch.item.done = 0 → s.chip.ecc = [] → s.chip.jobs = [] →
    ∃ t, exec (.migrateReturn b (.mine k)) s = .next t ∧ sameRest s t ∧
      t.chip.mem = memWriteN s.chip.mem (sram s.chip ch.home ch.item.retOff.toNat)
        (memReadN s.chip.mem (sram s.chip b ch.item.retOff.toNat) (ch.item.retLen.toNat * 64)) ∧
      t.chip.basins[b].chains[k] = none ∧
      t.chip.basins[ch.home].ctr = ch.signals.foldl (fun x n => tabSet x n ((tabGet 0 x n + 1) % 65536)) s.chip.basins[ch.home].ctr ∧
      getReg t.chip (rWqCtr b.val 0) = (getReg s.chip (rWqCtr b.val 0) + 1) % 2 ^ 32

/-- Stealing and the return of migrated items (R182 to R187). -/
def Obligations.ItemsMoveAndReturn : Prop := StealingMovesItems ∧ MigratedItemReturns

/-- A run-ahead chain of one PLAIN descriptor `e`, which copies the rows `srcs` of this package to the rows `dsts` that run-ahead may write,
may be read and passes its checks (R43, R189, R190). -/
structure AheadOne (c : Chip) (b : Fin 32) (q : QItem) (e : Desc) (srcs dsts : List (Nat × Nat)) : Prop where
  fetch : runEff (fetchDesc c b q.item.pfChain.toNat) c = (c, .ok e)
  room : past q.item.pfChain.toNat 64 = false
  legal : checkDesc c none e = none
  row : rowOf e = some (.copy 0) ∧ e.last = true
  rows : srcs = copyRows (e.f 1 0 48) (e.f 4 0 24) (e.f 3 0 16) (e.f 3 16 24) ∧ dsts = copyRows (e.f 2 0 48) (e.f 4 24 24) (e.f 3 0 16) (e.f 3 16 24)
  here : pkgOf (e.f 1 0 48) = pkg c ∧ ∀ r ∈ srcs, PlainRange c r.1 r.2
  there : ∀ r ∈ dsts, aheadPlace c b r.1 r.2 = true

/-- Run-ahead, cancels and the queue's registers. Each clause is one command: the copies of a run-ahead chain that no rule stops are kept
with their item (R189); of one PLAIN copy within the package the state but the queue is as it was, memory and destination included; where
none is due nothing happens, as during a change of FREQ (R59) or a hold by the weir (R406); WQ_CANCEL with GO and ALL takes every queued item of
the job out of every queue (R192); WQ_WINDOW is written where no granule is occupied and the window lies in SRAM (R201); WQ_BASE_n is
written while the queue is empty (R201). That the copies are written as their item issues, and not before, is the model's reading (log
entry 47). -/
def Obligations.RunAheadCancelAndQueueRegisters : Prop :=
  (∀ (b : Fin 32) (i : Nat) (s : State) (q : QItem), s.chip.basins[b].queue[i]? = some q → enabled s.chip b = true → modeOf s.chip = 0 →
    s.chip.basins[b].freqPend = false → s.chip.basins[b].hold = false → aheadDue s.chip b q = true →
    (s.chip.basins[b].queue.take i).any (aheadDue s.chip b) = false →
    (∀ (d : Chip) (xs : List RunCopy), aheadChain b 98304 q.item.pfChain.toNat [] s.chip = (d, xs, none) →
      ∃ t, exec (.runAheadIssue b i) s = .next t ∧ sameRest s t ∧ t.chip.mem = d.mem ∧ t.chip.regs = d.regs ∧
        t.chip.basins[b].queue = d.basins[b].queue.set i { q with ahead := some xs }) ∧
    (∀ (e : Desc) (srcs dsts : List (Nat × Nat)), AheadOne s.chip b q e srcs dsts →
      exec (.runAheadIssue b i) s = .next (s.withChip (modBasin b (fun x => { x with queue := x.queue.set i { q with ahead := some [{ moved := true, writes := (srcs.zip dsts).map (fun r => (r.2.1, memReadN s.chip.mem r.1.1 r.1.2)), dst := (srcs.zip dsts).map (·.2) }] } }) s.chip)))) ∧
  (∀ (b : Fin 32) (i : Nat) (s : State) (q : QItem), s.chip.basins[b].queue[i]? = some q →
    (aheadDue s.chip b q = false ∨ s.chip.basins[b].freqPend = true ∨ s.chip.basins[b].hold = true ∨ enabled s.chip b = false) →
    exec (.runAheadIssue b i) s = .next s) ∧
  (∀ (m : Master) (v : BitVec 32) (s : State), m.toNat ≤ 3 → hubOn s.chip = true → fld v.toNat 0 16 < 256 → v.getLsbD 17 = true →
    v.getLsbD 16 = true →
    ∃ t, exec (.wqCancel m v) s = .next t ∧ sameRest s t ∧
      ∀ b : Fin 32, ∀ q ∈ t.chip.basins[b].queue, q.item.job.toNat ≠ fld v.toNat 0 16) ∧
  (∀ (m : Master) (v : BitVec 32) (s : State), m.toNat ≤ 3 → hubOn s.chip = true → (∀ b : Fin 32, s.chip.basins[b].occupied = []) →
    fld v.toNat 8 6 ≤ 32 → (fld v.toNat 0 7 + fld v.toNat 8 6) * 65536 ≤ 0x600000 →
    ∃ t, exec (.wqWindowWrite m v) s = .next t ∧ sameRest s t ∧ getF t.chip rWqWindow 0 7 = fld v.toNat 0 7 ∧
      getF t.chip rWqWindow 8 6 = fld v.toNat 8 6 ∧ (∀ off, off ≠ rWqWindow → getReg t.chip off = getReg s.chip off)) ∧
  (∀ (m : Master) (b : Fin 32) (v : BitVec 32) (s : State), m.toNat ≤ 3 → hubOn s.chip = true → s.chip.basins[b].queue = [] →
    fld v.toNat 0 9 ≤ 383 →
    ∃ t, exec (.wqBaseWrite m b v) s = .next t ∧ sameRest s t ∧ getF t.chip (rWqBase b.val) 0 9 = fld v.toNat 0 9 ∧
      (∀ off, off ≠ rWqBase b.val → getReg t.chip off = getReg s.chip off) ∧ t.chip.basins[b].queue = [])


/-! ### Cadence -/

/-- A tick instant (R193, R194, R196): the tick number grows by 1 modulo 2^32, TICK_GUARD begins again, and of what is still to be steered at
most 25 us moves the instant; nothing else of memory or registers changes but CAD_PHASE and CAD_STATUS. The package has no commit interval,
no notice to apply, no set under replacement, and the ticks are not fresh. -/
def CadenceTickAdvances : Prop :=
  ∀ s : State, ticking s.chip = true → s.chip.cad.fresh = false → s.chip.cad.notices = [] → s.chip.jobs = [] →
    (∀ j, j < 256 → intervalOf s.chip j = none) → (∀ e, e < 16 → setState s.chip e ≠ 3) → s.chip.ms.heldSince = none →
    ∃ t, exec .cadenceTick s = .next t ∧ sameRest s t ∧ getReg t.chip rTick = (getReg s.chip rTick + 1) % 2 ^ 32 ∧
      t.chip.cad.guardDone = false ∧ t.chip.cad.instant = s.chip.gptpNs ∧
      t.chip.cad.steer = s.chip.cad.steer - (if steering s.chip then max (-25000) (min 25000 s.chip.cad.steer) else 0) ∧ t.chip.mem = s.chip.mem ∧ t.chip.basins = s.chip.basins ∧
      ∀ off, off ≠ rTick → off ≠ rPhase → off ≠ rCadStatus → getReg t.chip off = getReg s.chip off

/-- TICK_GUARD, START, RESYNC, SYNC_IN and phase notices. Each clause is one command: TICK_GUARD ends (R180); START with its own clock begins
ticks at once (R202); RESYNC takes the phase of the cadence master that it names, or 0 where none is reachable, and steers what it was off
(R200); an edge of SYNC_IN is stamped in ACTIVE and IDLE, and ignored in the other modes (R356), and with SYNC_PERIOD 2 one more than 500 us off every expected time is ignored and counted in SYNC_MISS (R199); a notice for
a tick to come is kept and confirmed (R200, R318); one for a tick past sets CAD_STATUS.PHASE_LATE and reports 0x0C01 (R200). That a free-running
START ticks at once, and that RESYNC acts on the settings then in force, is the model's reading (log entry 15); so is that an edge is compared
with the multiples of the period after the last edge taken (log entry 59). -/
def CadenceControl : Prop :=
  (∀ s : State, ticking s.chip = true →
    exec .tickGuardExpire s = .next (s.withChip { s.chip with cad := { s.chip.cad with guardDone := true } })) ∧
  (∀ (m : Master) (w : CadWrite) (s : State), m.toNat ≤ 3 → hubOn s.chip = true → w.v.getLsbD 0 = true → w.v.getLsbD 1 = false →
    ticking s.chip = false → bit (getReg s.chip rCadCfg) 0 = true → bit (getReg s.chip rCadCfg) 1 = true →
    ∃ t, exec (.start m w) s = .next t ∧ sameRest s t ∧ ticking t.chip = true ∧ t.chip.cad.fresh = true ∧ t.chip.mem = s.chip.mem ∧
      t.chip.basins = s.chip.basins ∧ getReg t.chip rPhase = getReg s.chip rPhase) ∧
  (∀ (m : Master) (w : CadWrite) (phi : Int) (s : State), m.toNat ≤ 3 → hubOn s.chip = true → w.v.getLsbD 0 = false → w.v.getLsbD 1 = true →
    ticking s.chip = true → bit (getReg s.chip rCadCfg) 1 = false →
    phi = (if livePartners s.chip = [] then 0 else (w.phi.map (fun x => signed 32 x.toNat)).getD 0) →
    ∃ t, exec (.resync m w) s = .next t ∧ sameRest s t ∧ getReg t.chip rPhase = unsigned 32 phi ∧
      t.chip.cad.steer = s.chip.cad.steer + (signed 32 (getReg s.chip rPhase) - phi) ∧ t.chip.mem = s.chip.mem ∧
      t.chip.basins = s.chip.basins) ∧
  (∀ (stamp : BitVec 64) (s : State), modeOf s.chip ≤ 1 → (ticking s.chip && s.chip.cad.syncEn) = false →
    exec (.syncInEdge stamp) s = .next (s.withChip { s.chip with syncNs := stamp.toNat })) ∧
  (∀ (stamp : BitVec 64) (s : State), 1 < modeOf s.chip → exec (.syncInEdge stamp) s = .next s) ∧
  (∀ (stamp : BitVec 64) (last n off : Nat) (s : State), modeOf s.chip ≤ 1 → ticking s.chip = true → s.chip.cad.syncEn = true →
    s.chip.cad.syncPeriod = 2 → s.chip.cad.lastEdge = some last → stamp.toNat = last + 2000000 * n + off → 500000 < off → off < 1500000 →
    ∃ t, exec (.syncInEdge stamp) s = .next t ∧ sameRest s t ∧ t.chip.cad = s.chip.cad ∧ t.chip.syncNs = stamp.toNat ∧
      getF t.chip rCadStatus 16 16 = (getF s.chip rCadStatus 16 16 + 1) % 65536) ∧
  (∀ (src : BitVec 4) (tag : BitVec 16) (tick : BitVec 32) (corr : Int) (s : State), fenced s.chip src.toNat = false →
    tag.toNat ∉ tabGet [] s.chip.fab.seen src.toNat →
    (tickLe tick.toNat (getReg s.chip rTick) = false →
      ∃ t, exec (.phaseNotice src tag tick corr) s = .next t ∧ sameRest s t ∧ t.chip.cad.notices = s.chip.cad.notices ++ [(tick.toNat, corr)] ∧
        .confirm src tag.toNat ∈ t.chip.out ∧ getReg t.chip rPhase = getReg s.chip rPhase ∧ t.chip.mem = s.chip.mem) ∧
    (ticking s.chip = true → s.chip.cad.fresh = false → tickLe tick.toNat (getReg s.chip rTick) = true →
      ∃ t, exec (.phaseNotice src tag tick corr) s = .next t ∧ sameRest s t ∧ bit (getReg t.chip rCadStatus) 3 = true ∧
        getReg t.chip rErrLast = 0x0C01 + 2 * 65536 ∧ bit (getReg t.chip rStatus) 3 = true ∧ t.chip.cad = s.chip.cad))

/-- The cadence: its ticks and what controls them (R180, R193, R196, R199, R200, R202, R318, R356). -/
def Obligations.CadenceRuns : Prop := CadenceTickAdvances ∧ CadenceControl


/-! ### The look-aside buffer, the coder, link blocks -/

/-- The basin with its fetch number i over: the entry is out of labFetch, and what its read had asked of another package is forgotten. -/
def fetchOver (b : Fin 32) (i : Nat) (x : LabFetch) (c : Chip) : Chip :=
  modBasin b (fun y => { y with labFetch := y.labFetch.eraseIdx i })
    { c with fab := { c.fab with asked := c.fab.asked.filter (fun y => !(y.who == .line b && y.req.addr == x.addr / 64 * 64)) } }

/-- Some descriptor in flight in basin b holds a pin of the version this fetch reads a line of. -/
def fetchPinned (b : Fin 32) (x : LabFetch) (c : Chip) : Bool :=
  (chainsOf c.basins[b]).any (fun y => y.2.flight.any (fun f => f.pins.any (fun p => p.root == x.root && p.gen == x.gen)))

/-- A prefetch read ends (R155, R156): it is no longer in flight. A read that failed, or whose version no pin holds any more, installs
nothing; one of this package whose version a pin holds installs the entries of its line, newest first, at most 64 of the table. -/
def PrefetchFillEndsItsRead : Prop :=
  ∀ (b : Fin 32) (i : Nat) (s : State) (x : LabFetch), s.chip.basins[b].labFetch[i]? = some x →
    exec (.labPrefetchFill b i false) s = .next (s.withChip (fetchOver b i x s.chip)) ∧
    (∀ ok : Bool, fetchPinned b x s.chip = false → exec (.labPrefetchFill b i ok) s = .next (s.withChip (fetchOver b i x s.chip))) ∧
    (∀ (c : Chip) (es : List LabLine), fetchPinned b x s.chip = true → fenced s.chip (pkgOf x.addr) = false → pkgOf x.addr = pkg s.chip →
      pkgOf (x.addr / 64 * 64) = pkg s.chip → runEff (readLine x.root x.gen x.layer x.page x.count x.addr) s.chip = (c, .ok es) →
      exec (.labPrefetchFill b i true) s = .next (s.withChip (labInstall b es (fetchOver b i x c))))

/-- A table write that waits (R215, R220): once a slot is free and its turn has come it takes it, the cycles waited count in TABLE_WAIT in units
of 256, and the write goes on with the DCYC_MAX it issued with (R233); a wait that ends at its limit stops the descriptor with CX_SLOT_WAIT. -/
def TableWaitEndsOneWayOrTheOther : Prop :=
  ∀ (b : Fin 32) (k : Fin 16) (cycles : Nat) (s : State) (ch : Chain) (f : Flight) (n : Nat), slotWaiter s.chip b k = some (ch, f, n) →
    (∀ (slot : Nat) (c1 c2 : Chip), enabled s.chip b = true → pickSlot s.chip (ctxOf b k ch).m n (some f.since) = some slot →
      c1 = modChain b k (fun x => { x with flight := x.flight.map (fun g => if g.id = f.id then { g with wait := .none } else g) })
        (bumpUnits s.chip (rCxCtr b.val 3) 256 cycles) →
      runEff (tableWrite { ctxOf b k ch with id := f.id } { w := f.w } { id := f.id, dcycMax := f.dcycMax } slot) c1 = (c2, .ok ()) →
      exec (.codecSlotAcquire b k cycles) s = .next (s.withChip c2)) ∧
    exec (.tableWaitTimeout b k cycles) s = .next (s.withChip
      (stopFlight b k f { code := 0x0806, unit := cxUnit } (bumpUnits s.chip (rCxCtr b.val 3) 256 cycles)))

/-- A link block that arrives intact on a link that is up (R231): its raw bytes are written to its destination, and nothing else
changes. -/
def IntactLinkBlockWritesRawBytes : Prop :=
  ∀ (l : Fin 12) (x : LinkBlock) (s : State) (bs : List Byte), linkUp s.chip l = true → s.chip.fab.selfFenced = false →
    linkBlockBytes x = .ok bs → backed x.dst.toNat bs.length = true → pkgOf x.dst.toNat = pkg s.chip →
    exec (.linkBlockReceive l x) s = .next (s.withChip (putMem s.chip x.dst.toNat bs))

/-- Prefetch reads, waits for a table slot, and link blocks end (R155, R156, R215, R231). -/
def Obligations.WaitsAndBlocksEnd : Prop := PrefetchFillEndsItsRead ∧ TableWaitEndsOneWayOrTheOther ∧ IntactLinkBlockWritesRawBytes


/-! ### Placement requests and moves -/

/-- The oldest posted placement block is request `op`, with its reserved fields 0, and was posted from this package's memory (R250). -/
def OldestBlock (s : State) (op : Nat) (x : Block) (rest : List Block) : Prop :=
  s.chip.plQueue = x :: rest ∧ x.f 0 0 4 = op ∧ blockBad x = false ∧ x.origin = .posted ∧ pkgOf (x.addr + 56) = pkg s.chip

/-- A request has completed with DONE and OK in word 7 of its block, and only that word of memory was written (R250). -/
def AnsweredOk (s t : State) (x : Block) (rest : List Block) : Prop :=
  sameRest s t ∧ t.chip.plQueue = rest ∧ t.chip.mem = memWriteN s.chip.mem (x.addr + 56) (leBytes 8 3) ∧
    getF t.chip rPlStatus 0 9 = (rest.filter (fun y => y.origin == .posted)).length % 512

/-- What a unit of the hub has asked of other packages is done with: nothing is left to send, and no answer is kept for it. -/
def requestOver (who : Requester) (c : Chip) : Chip := forgetFar who (settled c)

/-- PL_POST (R250): the blocks of a run of this package's memory that lies at a multiple of 64 and can be read enter the queue in order; a
run that does not lie so is refused with PL_REC, and none of it enters. -/
def PostedBlocksEnterQueue : Prop :=
  ∀ (m : Master) (v : BitVec 32) (s : State) (c : Chip) (a n : Nat), m.toNat ≤ 3 → hubOn s.chip = true → n = fld v.toNat 16 8 → n ≠ 0 →
    c = storeReg s.chip rPlHi v.toNat → a = postAddr c rPlLo rPlHi →
    (a % 64 = 0 → PlainRange s.chip a (64 * n) →
      ∃ t, exec (.plPost m v) s = .next t ∧ sameRest s t ∧ t.chip.mem = s.chip.mem ∧ t.chip.out = .bus m 0 0 :: s.chip.out ∧
        t.chip.plQueue = s.chip.plQueue ++ runBlocks m a 64 n (memReadN s.chip.mem a (64 * n))) ∧
    (a % 64 ≠ 0 → ∃ t, exec (.plPost m v) s = .next t ∧ sameRest s t ∧ t.chip.mem = s.chip.mem ∧ t.chip.plQueue = s.chip.plQueue ∧
      getF t.chip rPlStatus 16 16 = 0x0902)

/-- Requests on a VALID record that complete at acceptance (R251, R252): SHARE and UNSHARE move REFS by 1, PIN and UNPIN move PINS by 1,
CANCEL_EVICT clears both pending flags, and FREE of a record at rest ends it. -/
def RecordRequestsChangeTheirRecord : Prop :=
  ∀ (s : State) (x : Block) (rest : List Block) (n : Nat) (r : Rec), n = x.recNo → tabFind s.chip.recs n = some r →
    r.evictPend = false → r.forcePend = false →
    (OldestBlock s 2 x rest → r.moveFailed = false → r.refs < 255 → ∃ t, exec .share s = .next t ∧ AnsweredOk s t x rest ∧
      t.chip.recs = tabSet s.chip.recs n { r with refs := r.refs + 1 }) ∧
    (OldestBlock s 3 x rest → r.moveFailed = false → 1 < r.refs → ∃ t, exec .unshare s = .next t ∧ AnsweredOk s t x rest ∧
      t.chip.recs = tabSet s.chip.recs n { r with refs := r.refs - 1 }) ∧
    (OldestBlock s 8 x rest → r.pins < 65535 → ∃ t, exec .pin s = .next t ∧ AnsweredOk s t x rest ∧
      t.chip.recs = tabSet s.chip.recs n { r with pins := r.pins + 1 }) ∧
    (OldestBlock s 9 x rest → r.pins ≠ 0 → ∃ t, exec .unpin s = .next t ∧ AnsweredOk s t x rest ∧
      t.chip.recs = tabSet s.chip.recs n { r with pins := r.pins - 1 }) ∧
    (OldestBlock s 1 x rest → r.refs = 1 → r.pins = 0 → r.busy = 0 → r.claims = 0 → r.upPend = false → r.state = .resident →
      ∃ t, exec .free s = .next t ∧ AnsweredOk s t x rest ∧ t.chip.recs = tabDel s.chip.recs n)

/-- CANCEL_EVICT clears the pending flags of its record (R251). -/
def CancelEvictClearsPendingFlags : Prop :=
  ∀ (s : State) (x : Block) (rest : List Block) (r : Rec), OldestBlock s 7 x rest → tabFind s.chip.recs x.recNo = some r →
    ∃ t, exec .cancelEvict s = .next t ∧ AnsweredOk s t x rest ∧
      t.chip.recs = tabSet s.chip.recs x.recNo { r with evictPend := false, forcePend := false }

/-- CREATE in QUOTA mode (R247, R256, R258): a record at a free number with both places backed, the lower one in a lower tier of this
package's memory, begins ABSENT with REFS 1 and is charged to its job on both units. A number that is VALID already is refused, and the table stays; that the refusal's code is PL_REC is the
model's reading (log entry 65). -/
def CreateMakesAbsentRecord : Prop :=
  ∀ (s : State) (x : Block) (rest : List Block) (u l : Nat), OldestBlock s 0 x rest →
    (tabFind s.chip.recs x.recNo = none → bit (getReg s.chip rPlCfg) 0 = true → bit (x.w.getD 2 0) 48 = false → recAt s.chip (x.f 1 0 48) = none →
      x.f 3 0 24 ≠ 0 → x.f 1 0 48 % 64 = 0 → pkgOf (x.f 1 0 48) = pkg s.chip → pkgOf (x.f 2 0 48) = pkg s.chip →
      inHub (x.f 1 0 48) (x.f 3 0 24 * 64) = false → inHub (x.f 2 0 48) (x.f 3 0 24 * 64) = false →
      backed (x.f 1 0 48) (x.f 3 0 24 * 64) = true → backed (x.f 2 0 48) (x.f 3 0 24 * 64) = true →
      tierOf s.chip (x.f 1 0 48) false < tierOf s.chip (x.f 2 0 48) false →
      unitOf (locOf (x.f 1 0 48)) = some u → unitOf (locOf (x.f 2 0 48)) = some l → s.chip.charged = [] →
      x.f 3 0 24 * 64 ≤ getReg s.chip (rQuota (quotaTier u)) * 65536 → x.f 3 0 24 * 64 ≤ getReg s.chip (rQuota (quotaTier l)) * 65536 →
      ∃ t, exec .create s = .next t ∧ AnsweredOk s t x rest ∧
        t.chip.recs = tabSet s.chip.recs x.recNo
          { up := x.f 1 0 48, wbAll := bit (x.w.getD 0 0) 5, down := x.f 2 0 48, len64 := x.f 3 0 24, job := x.job } ∧
        tabGet 0 t.chip.charged (acctKey x.job u) = x.f 3 0 24 * 64 ∧ tabGet 0 t.chip.charged (acctKey x.job l) = x.f 3 0 24 * 64) ∧
    ((tabFind s.chip.recs x.recNo).isSome = true →
      ∃ t, exec .create s = .next t ∧ sameRest s t ∧ t.chip.recs = s.chip.recs ∧ t.chip.charged = s.chip.charged ∧
        t.chip.mem = memWriteN s.chip.mem (x.addr + 56) (leBytes 8 (1 + 0x0902 * 65536)) ∧ getF t.chip rPlStatus 16 16 = 0x0902)

/-- Requests on residency records that complete at acceptance (R247, R250, R251, R256, R258). -/
def Obligations.RecordsFollowRequests : Prop := RecordRequestsChangeTheirRecord ∧ CancelEvictClearsPendingFlags ∧ CreateMakesAbsentRecord

/-- Moves (R252). Each clause is one command: UP of an ABSENT record begins a move-up, counted in PL_UP, and its block waits on it; UP of a
RESIDENT record is answered at once; a move-up that is done places the lower bytes at the upper place, makes the record RESIDENT and answers
the block that waits, once it holds a place of its mover (R243); EVICT of a RESIDENT record that nothing holds, with no dirty granule, makes it ABSENT at once and counts in PL_DOWN,
and one that a pin holds waits with EVICT_PEND, counted in PL_EVICT_QUEUED; FORCE_EVICT with FORCE_EN does not wait for a pin; a write-back
that is done copies the dirty granules to the lower place and makes the record ABSENT. -/
def MovesFollowTheRecord : Prop :=
  ∀ (s : State) (x : Block) (rest : List Block) (n : Nat) (r : Rec), n = x.recNo → tabFind s.chip.recs n = some r → r.moveFailed = false →
    r.evictPend = false → r.forcePend = false → r.upPend = false →
    (OldestBlock s 4 x rest → bit (x.w.getD 0 0) 4 = false → r.state = .absent → r.claims = 0 →
      ∃ t, exec .up s = .next t ∧ sameRest s t ∧ t.chip.plQueue = rest ∧ t.chip.mem = s.chip.mem ∧
        t.chip.recs = tabSet s.chip.recs n { r with state := .movingUp, moveJob := x.job, waiters := r.waiters ++ [.block x.addr] } ∧
        getReg t.chip (rPlCtr 0) = (getReg s.chip (rPlCtr 0) + 1) % 2 ^ 32) ∧
    (OldestBlock s 4 x rest → bit (x.w.getD 0 0) 4 = false → r.state = .resident →
      ∃ t, exec .up s = .next t ∧ AnsweredOk s t x rest ∧ t.chip.recs = s.chip.recs) ∧
    (r.state = .movingUp → r.downFlash = false → pkgOf r.down = pkg s.chip → s.chip.ecc = [] → movePlaced n r.up s.chip = true →
      (∃ a, r.waiters = [.block a] ∧ pkgOf (a + 56) = pkg s.chip) →
      ∃ t, exec (.moveUpDone n) s = .next t ∧ sameRest s t ∧
        (∀ a, r.waiters = [.block a] → t.chip.mem = memWriteN (memWriteN s.chip.mem r.up (memReadN s.chip.mem r.down (r.len64 * 64)))
          (a + 56) (leBytes 8 3)) ∧
        t.chip.recs = tabSet s.chip.recs n { r with state := .resident, waiters := [] }) ∧
    (OldestBlock s 5 x rest → r.state = .resident → r.pins = 0 → r.busy = 0 → wbParts s.chip r = [] →
      ∃ t, exec (.evict .block) s = .next t ∧ AnsweredOk s t x rest ∧
        t.chip.recs = tabSet s.chip.recs n { r with state := .absent, moveJob := x.job } ∧
        getReg t.chip (rPlCtr 1) = (getReg s.chip (rPlCtr 1) + 1) % 2 ^ 32) ∧
    (OldestBlock s 5 x rest → r.state = .resident → r.pins ≠ 0 →
      ∃ t, exec (.evict .block) s = .next t ∧ AnsweredOk s t x rest ∧
        t.chip.recs = tabSet s.chip.recs n { r with evictPend := true, evictJob := x.job } ∧
        getReg t.chip (rPlCtr 2) = (getReg s.chip (rPlCtr 2) + 1) % 2 ^ 32) ∧
    (OldestBlock s 6 x rest → r.state = .resident → r.pins ≠ 0 → r.busy = 0 → bit (getReg s.chip rStCfg) 5 = true → wbParts s.chip r = [] →
      ∃ t, exec (.forceEvict .block) s = .next t ∧ AnsweredOk s t x rest ∧
        t.chip.recs = tabSet s.chip.recs n { r with state := .absent, moveJob := x.job }) ∧
    (r.state = .movingDown → r.downFlash = false → s.chip.ecc = [] → pkgOf r.down = pkg s.chip → movePlaced n r.up s.chip = true →
      moveFar n s.chip = false →
      (∀ p ∈ wbParts s.chip r, pkgOf p.1 = pkg s.chip) →
      ∃ t, exec (.writeBackDone n) s = .next t ∧ sameRest s t ∧ t.chip.recs = tabSet s.chip.recs n { r with state := .absent } ∧
        t.chip.mem = (wbParts s.chip r).foldl (fun m p => memWriteN m (r.down + (p.1 - r.up)) (memReadN m p.1 p.2)) s.chip.mem)

/-- Moves that blocks and descriptors ask for (R240, R252). -/
def Obligations.MovesRun : Prop := MovesFollowTheRecord ∧ MoveDescriptorsAct

/-- Jobs and their accounts (R255, R257), stops of moves (R252), late tiers (R261) and the mode of PL_CFG (R258). Each clause is one command:
RELEASE of a job without charges takes its reservations away; QUERY writes 41 pairs of reserved and charged amounts; ADMIT in SERVICE mode
of one unit within its capacity reserves it; a move that an error stops sets MOVE_FAILED and contains the job that started it; a late hold
is reported once, with 0x0908, and sets MP_STATUS.TIER; PL_CFG to QUOTA mode is taken at any time. When a move stops and when a hold is late
are events of the environment (log entry 4). -/
def Obligations.AccountsAndLateTiers : Prop :=
  (∀ (s : State) (x : Block) (rest : List Block), OldestBlock s 11 x rest →
    s.chip.charged.any (fun p => p.1 / 64 == x.job && p.2 != 0) = false →
    ∃ t, exec .releaseJob s = .next t ∧ AnsweredOk s t x rest ∧ x.job ∉ t.chip.accounts ∧
      (∀ p ∈ t.chip.reserved, p.1 / 64 ≠ x.job) ∧ t.chip.charged = s.chip.charged) ∧
  (∀ (s : State) (x : Block) (rest : List Block), OldestBlock s 12 x rest → fenced s.chip (pkgOf (x.f 1 0 48)) = false →
    pkgOf (x.f 1 0 48) = pkg s.chip → inHub (x.f 1 0 48) 656 = false → backed (x.f 1 0 48) 656 = true →
    ∃ t, exec .queryJob s = .next t ∧ sameRest s t ∧ t.chip.plQueue = rest ∧ t.chip.reserved = s.chip.reserved ∧
      t.chip.charged = s.chip.charged ∧
      t.chip.mem = memWriteN (memWriteN s.chip.mem (x.f 1 0 48) ((List.range 41).flatMap (fun u =>
        leBytes 8 (tabGet 0 s.chip.reserved (acctKey x.job u)) ++ leBytes 8 (tabGet 0 s.chip.charged (acctKey x.job u)))))
        (x.addr + 56) (leBytes 8 3)) ∧
  (∀ (s : State) (x : Block) (rest : List Block) (u : Nat), OldestBlock s 10 x rest → bit (getReg s.chip rPlCfg) 0 = false →
    x.f 3 24 6 = 1 → u ≤ 40 → s.chip.reserved = [] → s.chip.accounts = [] →
    (∃ n, PlainRange s.chip (x.f 1 0 48) 8 ∧ admitList (memReadN s.chip.mem (x.f 1 0 48) 8) 1 = some [(u, n)] ∧ n ≤ capacity s.chip u) →
    ∃ t n, exec .admitJob s = .next t ∧ AnsweredOk s t x rest ∧ t.chip.reserved = [(acctKey x.job u, n)] ∧ n ≤ capacity s.chip u) ∧
  (∀ (s : State) (n : Nat) (r : Rec) (code : BitVec 16), tabFind s.chip.recs n = some r → r.moveFailed = false → r.waiters = [] →
    (r.state = .movingUp ∨ r.state = .movingDown) → code.toNat ∈ moveErrors → r.moveJob < 256 → NoRunAhead s.chip →
    ∃ t, exec (.moveStop n code) s = .next t ∧ sameRest s t ∧ t.chip.mem = s.chip.mem ∧ (jobRc t.chip r.moveJob).contained = true ∧
      ∃ y, tabFind t.chip.recs n = some y ∧ y.moveFailed = true ∧ y.state = r.state) ∧
  (∀ (s : State) (b : Fin 32) (i : Nat) (h : Hold), s.chip.basins[b].holds[i]? = some h → h.reported = false →
    ∃ t, exec (.tierLate b i) s = .next t ∧ sameRest s t ∧ t.chip.mem = s.chip.mem ∧ bit (getReg t.chip rStatus) 5 = true ∧
      getReg t.chip rErrLast = 0x0908 + 65536 ∧ t.chip.basins[b].holds = s.chip.basins[b].holds.set i { h with reported := true }) ∧
  (∀ (m : Master) (v : BitVec 32) (s : State), m.toNat ≤ 3 → hubOn s.chip = true → v.getLsbD 0 = true →
    ∃ t, exec (.plModeWrite m v) s = .next t ∧ sameRest s t ∧ bit (getReg t.chip rPlCfg) 0 = true ∧
      getF t.chip rPlCfg 8 8 = fld v.toNat 8 8 ∧ (∀ off, off ≠ rPlCfg → getReg t.chip off = getReg s.chip off) ∧ t.chip.mem = s.chip.mem)

/-- The bytes that QUERY writes (R257): for each of the 41 units the reserved and the charged amount of a job. -/
def accountBytes (c : Chip) (j : Nat) : List Byte :=
  (List.range 41).flatMap (fun u => leBytes 8 (tabGet 0 c.reserved (acctKey j u)) ++ leBytes 8 (tabGet 0 c.charged (acctKey j u)))

/-- The six commands of accounts, stopped moves, late tiers and PL_CFG, each with the next state in full or what it holds:
RELEASE of a job to which nothing is charged closes its account and returns its reservations (R257);
QUERY writes the job's amounts (R257);
ADMIT in SERVICE mode of 1 to 41 entries, each unit's sum with everything reserved on it within its capacity and an account free for a new
job, adds every amount to the job's reservations (R255);
a move that stops leaves its record in its MOVING state with MOVE_FAILED and no pending flag, reports the error, and contains the job whose request started
it (R252, R424); a stop of a record that MOVE_FAILED marks already, or of one that does not move and for which nothing waits, changes nothing;
a late hold that was not reported yet is reported with its job, basin and cause, and goes on; one already reported changes nothing (R261);
PL_CFG to MODE 1, or to MODE 0 in SERVICE mode, stores its fields; to MODE 0 in QUOTA mode, where the charges fit every unit, it makes each reserved amount the
charged one, and where they do not it is ignored and sets MODE_REFUSED (R258, R265).
When a move stops and when a hold is late are events of the environment (log entry 4). -/
def Obligations.AccountsMovesAndModesComplete : Prop :=
  (∀ (s : State) (x : Block) (rest : List Block), OldestBlock s 11 x rest →
    s.chip.charged.any (fun p => p.1 / 64 == x.job && p.2 != 0) = false →
    exec .releaseJob s = .next (s.withChip (finishBlock x.addr 0 0 { plPending { s.chip with plQueue := rest } with
      accounts := s.chip.accounts.filter (· != x.job), reserved := s.chip.reserved.filter (fun p => p.1 / 64 != x.job) }))) ∧
  (∀ (s : State) (x : Block) (rest : List Block), OldestBlock s 12 x rest → pkgOf (x.f 1 0 48) = pkg s.chip →
    inHub (x.f 1 0 48) 656 = false → backed (x.f 1 0 48) 656 = true →
    exec .queryJob s = .next (s.withChip (finishBlock x.addr 0 0 (requestOver .request
      (putMem (plPending { s.chip with plQueue := rest }) (x.f 1 0 48) (accountBytes s.chip x.job)))))) ∧
  (∀ (s : State) (x : Block) (rest : List Block) (n : Nat) (xs : List (Nat × Nat)), OldestBlock s 10 x rest →
    bit (getReg s.chip rPlCfg) 0 = false → n = x.f 3 24 6 → 1 ≤ n → n ≤ 41 → pkgOf (x.f 1 0 48) = pkg s.chip → s.chip.ecc = [] →
    inHub (x.f 1 0 48) (8 * n) = false → backed (x.f 1 0 48) (8 * n) = true →
    admitList (memReadN s.chip.mem (x.f 1 0 48) (8 * n)) n = some xs →
    (∀ p ∈ xs, ((xs.filter (fun q => q.1 == p.1)).map (·.2)).sum + unitSum s.chip.reserved p.1 ≤ capacity s.chip p.1) →
    (x.job = 0 ∨ x.job ∈ s.chip.accounts ∨ s.chip.accounts.length < 255) →
    exec .admitJob s = .next (s.withChip (finishBlock x.addr 0 0 { requestOver .request (plPending { s.chip with plQueue := rest }) with
      accounts := if x.job = 0 ∨ x.job ∈ s.chip.accounts then s.chip.accounts else insertNat x.job s.chip.accounts,
      reserved := xs.foldl (fun t p => tabSet t (acctKey x.job p.1) (tabGet 0 t (acctKey x.job p.1) + p.2)) s.chip.reserved }))) ∧
  (∀ (s : State) (n : Nat) (r : Rec) (code : BitVec 16), tabFind s.chip.recs n = some r →
    (r.moveFailed = false → r.waiters = [] → (r.state = .movingUp ∨ r.state = .movingDown) → code.toNat ∈ moveErrors → r.moveJob < 256 →
      ∃ t, exec (.moveStop n code) s = .next t ∧ sameRest s t ∧ (jobRc t.chip r.moveJob).contained = true ∧
        getReg t.chip rErrLast = code.toNat + max 2 (sevOf code.toNat) * 65536 ∧
        tabFind t.chip.recs n = some { r with moveFailed := true, evictPend := false, forcePend := false, upPend := false, claims :=
          ((tabFind t.chip.recs n).map (·.claims)).getD 0 }) ∧
    ((r.moveFailed = true ∨ r.state = .resident ∨ (r.state = .absent ∧ r.waiters = [] ∧ claimOpen s.chip n = false)) →
      exec (.moveStop n code) s = .next s)) ∧
  (∀ (s : State) (b : Fin 32) (i : Nat) (h : Hold), s.chip.basins[b].holds[i]? = some h →
    (h.reported = false → exec (.tierLate b i) s = .next (s.withChip (setStatus 5
      (report { code := 0x0908, sev := 1, job := some h.job, src := b.val, arg := h.cause }
        (modBasin b (fun y => { y with holds := y.holds.set i { h with reported := true } }) s.chip))))) ∧
    (h.reported = true → exec (.tierLate b i) s = .next s)) ∧
  (∀ (m : Master) (v : BitVec 32) (s : State), m.toNat ≤ 3 → hubOn s.chip = true →
    (v.getLsbD 0 = true ∨ bit (getReg s.chip rPlCfg) 0 = false →
      exec (.plModeWrite m v) s = .next (s.withChip (emit (.bus m 0 0) (storeReg s.chip rPlCfg v.toNat)))) ∧
    (v.getLsbD 0 = false → bit (getReg s.chip rPlCfg) 0 = true → (∀ u, u ≤ 40 → unitSum s.chip.charged u ≤ capacity s.chip u) →
      ∃ t, exec (.plModeWrite m v) s = .next t ∧ sameRest s t ∧ t.chip.mem = s.chip.mem ∧ t.chip.reserved = s.chip.charged ∧
        t.chip.charged = s.chip.charged ∧ bit (getReg t.chip rPlCfg) 0 = false ∧ getF t.chip rPlCfg 8 8 = fld v.toNat 8 8) ∧
    (v.getLsbD 0 = false → bit (getReg s.chip rPlCfg) 0 = true → (∃ u, u ≤ 40 ∧ capacity s.chip u < unitSum s.chip.charged u) →
      exec (.plModeWrite m v) s = .next (s.withChip (emit (.bus m 0 0) (putF s.chip rPlStatus 9 1 1)))))


/-! ### Flash -/

/-- The flash translation layer (R262, R263). Each clause is one command: a program into this package's flash that is acknowledged without an error
stores its bytes, and one that fails stores none, each told to whoever made it; wear levelling past WEAR_SPREAD x 64 moves the data of a block with the fewest erases to the least-erased
free block, and a refresh past RD_LIMIT x 10,000 reads rewrites a block elsewhere and counts it in FL_REFRESH, each leaving the old block erased; short of those limits neither
does anything; a retired block takes a spare, counted in FL_BAD. No byte that the flash holds changes in the last three. When a program is acknowledged
and when a block moves or fails are events of the environment (log entry 4); which blocks there are and which block the moves begin from is the
model's choice (log entry 35). -/
def Obligations.FlashPrograms : Prop :=
  (∀ (s : State) (i a : Nat) (bs : List Byte) (who : FlashBy), s.chip.flash.writes[i]? = some (who, a, bs) →
    bit (getReg s.chip rFlStatus) 15 = false → pkgOf a = pkg s.chip → s.sec.job = none →
    (∃ t, exec (.flashProgramAck i none) s = .next t ∧ t.pending = s.pending ∧ t.sec = s.sec ∧
      t.chip.flash.bytes = memWriteN s.chip.flash.bytes a bs ∧ t.chip.flash.writes = s.chip.flash.writes.eraseIdx i ∧
      t.chip.mem = s.chip.mem ∧ (who = .wdata → t.chip.flash.acked = s.chip.flash.acked ++ [(a, 0)]) ∧
      ∀ next, who = .mirror next → next < 2 ^ 32 → getReg t.chip rErMirror = next) ∧
    (∀ e : BitVec 16, who = .wdata → ∃ t, exec (.flashProgramAck i (some e)) s = .next t ∧ t.chip.flash.bytes = s.chip.flash.bytes ∧
      t.chip.flash.writes = s.chip.flash.writes.eraseIdx i ∧ t.chip.flash.acked = s.chip.flash.acked ++ [(a, e.toNat)])) ∧
  (∀ (s : State) (src dst : Nat), mayMove s.chip.flash src dst = true →
    (getF s.chip rFlCfg 8 8 * 64 < wearSpread s.chip.flash →
      (∀ p ∈ s.chip.flash.place, tabGet 0 s.chip.flash.erases src ≤ tabGet 0 s.chip.flash.erases p.2) →
      ∃ t, exec (.wearLevelling src dst) s = .next t ∧ sameRest s t ∧ t.chip.flash.bytes = s.chip.flash.bytes ∧ t.chip.regs = s.chip.regs ∧
        (∀ p ∈ t.chip.flash.place, p.2 ≠ src) ∧
        tabGet 0 t.chip.flash.erases src = tabGet 0 s.chip.flash.erases src + 1 ∧ tabGet 0 t.chip.flash.reads src = 0) ∧
    (wearSpread s.chip.flash ≤ getF s.chip rFlCfg 8 8 * 64 → exec (.wearLevelling src dst) s = .next s) ∧
    (getF s.chip rFlCfg 0 8 * 10000 < tabGet 0 s.chip.flash.reads src →
      ∃ t, exec (.readDisturbRefresh src dst) s = .next t ∧ sameRest s t ∧ t.chip.flash.bytes = s.chip.flash.bytes ∧
        (∀ p ∈ t.chip.flash.place, p.2 ≠ src) ∧
        tabGet 0 t.chip.flash.reads src = 0 ∧ getReg t.chip (rPlCtr 7) = (getReg s.chip (rPlCtr 7) + 1) % 2 ^ 32) ∧
    (tabGet 0 s.chip.flash.reads src ≤ getF s.chip rFlCfg 0 8 * 10000 → exec (.readDisturbRefresh src dst) s = .next s)) ∧
  (∀ (s : State) (k : Nat), k ∉ s.chip.flash.bad →
    ∃ t, exec (.badBlockRetire k) s = .next t ∧ sameRest s t ∧ k ∈ t.chip.flash.bad ∧ t.chip.flash.spares = s.chip.flash.spares - 1 ∧
      t.chip.flash.bytes = s.chip.flash.bytes ∧ getReg t.chip (rPlCtr 8) = (getReg s.chip (rPlCtr 8) + 1) % 2 ^ 32 ∧
      (s.chip.flash.spares = 1 → bit (getReg t.chip rFlStatus) 15 = true))

/-! ### Model sets, loads and replacements -/

/-- The oldest posted command block is command `op`, with its reserved fields 0 and its fields in range, posted from this package's memory
(R276). -/
def OldestCommand (s : State) (op : Nat) (x : Block) (rest : List Block) : Prop :=
  s.chip.ms.queue = x :: rest ∧ x.f 0 0 4 = op ∧ msBad x = false ∧ x.origin = .posted ∧ pkgOf (x.addr + 120) = pkg s.chip

/-- A command block has been accepted: it has left the queue, and the rest of the package is untouched (R276). -/
def CommandTaken (s t : State) (rest : List Block) : Prop :=
  sameRest s t ∧ t.chip.ms.queue = rest ∧ getF t.chip rMsStatus 0 9 = (rest.filter (fun y => y.origin == .posted)).length % 512

/-- Word 15 of a command block with DONE and a code; OK stands with code 0 (R276). -/
def commandAnswer (m : Memory) (addr code : Nat) : Memory :=
  memWriteN m (addr + 120) (leBytes 8 (if code = 0 then 3 else 1 + code * 65536))

/-- MS_POST (R276): the blocks of a run of this package's memory that lies at a multiple of 128 and can be read enter the queue in order; a
run that does not lie so is refused with MS_CMD, and nothing enters. -/
def PostedCommandsEnterQueue : Prop :=
  ∀ (m : Master) (v : BitVec 32) (s : State) (c : Chip), m.toNat ≤ 3 → hubOn s.chip = true → fld v.toNat 16 8 ≠ 0 →
    c = storeReg s.chip rMsHi v.toNat →
    (∀ a n : Nat, a = postAddr c rMsLo rMsHi → n = fld v.toNat 16 8 → a % 128 = 0 → PlainRange s.chip a (128 * n) →
      ∃ t, exec (.msPost m v) s = .next t ∧ sameRest s t ∧ t.chip.mem = s.chip.mem ∧ t.chip.out = .bus m 0 0 :: s.chip.out ∧
        t.chip.ms.queue = s.chip.ms.queue ++ runBlocks m a 128 n (memReadN s.chip.mem a (128 * n))) ∧
    (postAddr c rMsLo rMsHi % 128 ≠ 0 →
      ∃ t, exec (.msPost m v) s = .next t ∧ sameRest s t ∧ t.chip.mem = s.chip.mem ∧ t.chip.ms = s.chip.ms ∧
        getF t.chip rMsStatus 16 16 = 0x0A02)

/-- Posted placement blocks and model-set commands enter their queues (R250, R276). -/
def Obligations.PostsEnterQueues : Prop := PostedBlocksEnterQueue ∧ PostedCommandsEnterQueue

/-- BIND, UNBIND and RETIRE (R268, R292), with no run-ahead copy that a barrier would discard: a job is bound to a set that is not EMPTY, or to none; an entry that no job is bound to and that
nothing works on becomes EMPTY; one that a job is bound to is refused with MS_STATE and stays. -/
def BindUnbindRetire : Prop :=
  ∀ (s : State) (x : Block) (rest : List Block),
    (OldestCommand s 5 x rest → setState s.chip x.set ≠ 0 → NoRunAhead s.chip → ∃ t, exec .bind s = .next t ∧ CommandTaken s t rest ∧
      t.chip.mem = commandAnswer s.chip.mem x.addr 0 ∧ boundSet t.chip x.job = some x.set ∧
      ∀ j, j < 256 → j ≠ x.job → boundSet t.chip j = boundSet s.chip j) ∧
    (OldestCommand s 6 x rest → NoRunAhead s.chip → ∃ t, exec .unbind s = .next t ∧ CommandTaken s t rest ∧
      t.chip.mem = commandAnswer s.chip.mem x.addr 0 ∧ boundSet t.chip x.job = none ∧
      ∀ j, j < 256 → j ≠ x.job → boundSet t.chip j = boundSet s.chip j) ∧
    (OldestCommand s 4 x rest → (∀ j, j < 256 → boundSet s.chip j ≠ some x.set) → setState s.chip x.set ≠ 1 → setState s.chip x.set ≠ 3 →
      setStage s.chip x.set ≠ 1 → tabFind s.chip.ms.loads x.set = none →
      ∃ t, exec .retire s = .next t ∧ CommandTaken s t rest ∧ t.chip.mem = commandAnswer s.chip.mem x.addr 0 ∧
        setState t.chip x.set = 0 ∧ setStage t.chip x.set = 0 ∧ t.chip.ms.current = tabDel s.chip.ms.current x.set ∧
        t.chip.ms.staged = tabDel s.chip.ms.staged x.set ∧
        ∀ e, e < 16 → e ≠ x.set → setState t.chip e = setState s.chip e ∧ setStage t.chip e = setStage s.chip e) ∧
    (OldestCommand s 4 x rest → (∃ j, j < 256 ∧ boundSet s.chip j = some x.set) →
      ∃ t, exec .retire s = .next t ∧ CommandTaken s t rest ∧ t.chip.mem = commandAnswer s.chip.mem x.addr 0x0A03 ∧
        setState t.chip x.set = setState s.chip x.set ∧ setStage t.chip x.set = setStage s.chip x.set)

/-- A command of the model sets that is not allowed now (R276): LOAD of an entry that may not load and REPLACE of a set that is not READY
with an epoch STAGED are refused with MS_STATE, and every entry, load and replacement stays as it was. -/
def CommandOutOfStateRefused : Prop :=
  ∀ (s : State) (x : Block) (rest : List Block),
    ((OldestCommand s 0 x rest ∧ loadAllowed s.chip x.set false = false) →
      ∃ t, exec (.msLoad .post) s = .next t ∧ CommandTaken s t rest ∧ t.chip.mem = commandAnswer s.chip.mem x.addr 0x0A03 ∧
        getF t.chip rMsStatus 16 16 = 0x0A03 ∧ (∀ e, e < 16 → setState t.chip e = setState s.chip e) ∧ t.chip.ms.loads = s.chip.ms.loads) ∧
    ((OldestCommand s 2 x rest ∧ (setState s.chip x.set ≠ 2 ∨ setStage s.chip x.set ≠ 2)) →
      ∃ t, exec .replace s = .next t ∧ CommandTaken s t rest ∧ t.chip.mem = commandAnswer s.chip.mem x.addr 0x0A03 ∧
        getF t.chip rMsStatus 16 16 = 0x0A03 ∧ (∀ e, e < 16 → setState t.chip e = setState s.chip e) ∧ t.chip.ms.repls = s.chip.ms.repls)

/-- Commands of the model sets that end at once (R268, R276, R292). -/
def Obligations.SetsAreBound : Prop := BindUnbindRetire ∧ CommandOutOfStateRefused

/-- LOAD and STAGE begin (R277). Posted, a package that is a receiver too takes its entry LOADING, and the load waits at step 1 while an
identity is still to be built (R446). From a manifest, an entry that may load takes it LOADING with the manifest that came. -/
def LoadsBegin : Prop :=
  (∀ (s : State) (x : Block) (rest : List Block), OldestCommand s 0 x rest → loadAllowed s.chip x.set false = true →
    x.peers.contains (pkg s.chip) = true → s.sec.root.isSome = true → s.sec.idReady = false →
    ∃ t l, exec (.msLoad .post) s = .next t ∧ CommandTaken s t rest ∧ t.chip.mem = s.chip.mem ∧ setState t.chip x.set = 1 ∧
      tabFind t.chip.ms.loads x.set = some l ∧ l.mine = true ∧ l.stage = false ∧ l.atStep1 = true ∧ l.peers = x.peers ∧
      l.base = x.f 1 0 44 ∧ l.block = some x.addr ∧ l.bias = 0) ∧
  (∀ (s : State) (x : Block) (rest : List Block), OldestCommand s 1 x rest → loadAllowed s.chip x.set true = true →
    x.peers.contains (pkg s.chip) = true → s.sec.root.isSome = true → s.sec.idReady = false →
    ∃ t l, exec (.stage .post) s = .next t ∧ CommandTaken s t rest ∧ t.chip.mem = s.chip.mem ∧ setStage t.chip x.set = 1 ∧
      setState t.chip x.set = 2 ∧ tabFind t.chip.ms.loads x.set = some l ∧ l.mine = true ∧ l.stage = true ∧ l.atStep1 = true ∧
      l.peers = x.peers ∧ l.base = x.f 1 0 44 ∧ l.block = some x.addr ∧ l.bias = x.f 2 0 44) ∧
  (∀ (s : State) (r : Pkg) (e : Fin 16) (bias : BitVec 44) (m : Manifest), fenced s.chip r.toNat = false → r.toNat ≠ pkg s.chip →
    loadAllowed s.chip e.val false = true → m.tables = [] →
    ∃ t l, exec (.msLoad (.manifest r e bias m)) s = .next t ∧ sameRest s t ∧ t.chip.mem = s.chip.mem ∧ setState t.chip e.val = 1 ∧
      tabFind t.chip.ms.loads e.val = some l ∧ l.man = m ∧ l.mine = false ∧ l.reader = r ∧ l.stage = false ∧ l.bias = 0) ∧
  (∀ (s : State) (r : Pkg) (e : Fin 16) (bias : BitVec 44) (m : Manifest), fenced s.chip r.toNat = false → r.toNat ≠ pkg s.chip →
    loadAllowed s.chip e.val true = true → m.tables = [] →
    ∃ t l, exec (.stage (.manifest r e bias m)) s = .next t ∧ sameRest s t ∧ t.chip.mem = s.chip.mem ∧ setStage t.chip e.val = 1 ∧
      tabFind t.chip.ms.loads e.val = some l ∧ l.man = m ∧ l.mine = false ∧ l.reader = r ∧ l.stage = true ∧ l.bias = bias.toNat)

/-- A confirmed message of a package reaches this one for the first time: its sender is not fenced, and its tag is new (R318). -/
def FirstCopy (c : Chip) (p : BitVec 4) (tag : BitVec 16) : Prop := fenced c p.toNat = false ∧ tag.toNat ∉ tabGet [] c.fab.seen p.toNat

/-- Shards at the reader (R277, R279, R280): a plain shard whose hash agrees is written to its destination, is GOOD here, and the next read
begins; a GOOD report is kept; a corrupt attempt is read again at once, its read counted in LOAD_REREAD and the read in hand set aside for
it, and a missing one after the others. That the announcement of an attempt, its bytes and the mark that says whether it was good are messages
of their own is the model's reading (log entry 73), and so is what becomes of the read in hand (log entry 182). -/
def ReaderServesShards : Prop :=
  ∀ (s : State) (e : Fin 16) (l : Load), tabFind s.chip.ms.loads e.val = some l → l.mine = true → l.atStep1 = false →
    (∀ (i j : Nat) (x : ShardEnt), l.hand = some i → l.man.shards[i]? = some x → x.form = 1 → l.member = true → l.peers = [pkg s.chip] →
      l.again = [] → l.paused = [] → l.next < l.man.shards.length → tabGet 0 l.reads l.next = 0 → l.good.contains (pkg s.chip, i) = false → j ≠ i →
      j < l.man.shards.length → l.good.contains (pkg s.chip, j) = false →
      flashBad s.chip (pkg s.chip * 2 ^ 44 + l.base + x.flashOff.toNat) x.len.toNat = false →
      Config.sha256 (flashBytes s.chip (pkg s.chip * 2 ^ 44 + l.base + x.flashOff.toNat) x.len.toNat) = x.hash →
      ∃ t k, exec (.shardReadDone e) s = .next t ∧ sameRest s t ∧
        t.chip.mem = memWriteN s.chip.mem (shardDest s.chip l x)
          (flashBytes s.chip (pkg s.chip * 2 ^ 44 + l.base + x.flashOff.toNat) x.len.toNat) ∧
        tabFind t.chip.ms.loads e.val = some k ∧ k.good = (pkg s.chip, i) :: l.good ∧ k.hand = some l.next ∧ k.next = l.next + 1) ∧
    (∀ (p : BitVec 4) (tag : BitVec 16) (i : Nat), FirstCopy s.chip p tag → l.good.contains (p.toNat, i) = false → ∃ t, exec (.shardGood e ⟨p, tag⟩ i) s = .next t ∧ sameRest s t ∧
      t.chip.mem = s.chip.mem ∧ tabFind t.chip.ms.loads e.val = some { l with good := (p.toNat, i) :: l.good }) ∧
    (∀ (p : BitVec 4) (tag : BitVec 16) (i k n : Nat), FirstCopy s.chip p tag → l.paused.contains i = false → l.hand = some k → k ≠ i →
      n = tabGet 0 l.reads i → n < 1 + l.retry →
      ∃ t, exec (.shardBad e ⟨p, tag⟩ i) s = .next t ∧ sameRest s t ∧ t.chip.mem = s.chip.mem ∧
        tabFind t.chip.ms.loads e.val = some { l with bad := insertNat i l.bad, again := l.again.filter (· != i), hand := some i, paused := k :: l.paused, reads := tabSet l.reads i (n + 1) } ∧
        (0 < n → getReg t.chip (rMsCtr 0) = (getReg s.chip (rMsCtr 0) + 1) % 2 ^ 32)) ∧
    (∀ (p : BitVec 4) (tag : BitVec 16) (i k : Nat), FirstCopy s.chip p tag → l.again.contains i = false → l.paused.contains i = false →
      l.hand = some k → k ≠ i →
      ∃ t, exec (.shardRequest e ⟨p, tag⟩ i) s = .next t ∧ sameRest s t ∧ t.chip.mem = s.chip.mem ∧
        tabFind t.chip.ms.loads e.val = some { l with again := l.again ++ [i] })

/-- Shards at a receiver (R277, R279): the bytes of an attempt are written over DEST + BIAS; a whole attempt whose hash agrees and that the
reader has marked good makes the shard GOOD; one announced and not received whole is missing, whatever came before; a shard not received whole
is asked for with a confirmed message, counted in LOAD_REQ. That one command brings what a receiver has received of an attempt, with the
reader's mark, is the model's reading (log entry 73). -/
def ReceiverTakesShards : Prop :=
  ∀ (s : State) (e : Fin 16) (l : Load), tabFind s.chip.ms.loads e.val = some l → l.mine = false → l.member = true →
    (∀ (x : ShardRx) (y : ShardEnt), l.man.shards[x.index]? = some y → l.good.contains (pkg s.chip, x.index) = false →
      ∃ t k, exec (.shardAnnounce e x) s = .next t ∧ sameRest s t ∧
        t.chip.mem = memWriteN s.chip.mem (shardDest s.chip l y) (x.bytes.take y.len.toNat) ∧
        tabFind t.chip.ms.loads e.val = some k ∧ (x.whole = false → k = { l with whole := l.whole.filter (· != x.index) }) ∧
        (x.whole = true → k.whole = insertNat x.index l.whole) ∧
        (k.good.contains (pkg s.chip, x.index) = true ↔ x.whole = true ∧ x.good = true ∧ (x.bytes.take y.len.toNat).length = y.len.toNat ∧
          Config.sha256 (x.bytes.take y.len.toNat) = y.hash)) ∧
    (∀ i : Nat, l.whole.contains i = false → i < l.man.shards.length → fenced s.chip l.reader.toNat = false → l.reader.toNat ≠ pkg s.chip →
      ∃ t, exec (.shardMissing e i) s = .next t ∧ sameRest s t ∧ t.chip.mem = s.chip.mem ∧ t.chip.ms = s.chip.ms ∧
        getReg t.chip (rMsCtr 1) = (getReg s.chip (rMsCtr 1) + 1) % 2 ^ 32 ∧
        t.chip.fab.confirms = s.chip.fab.confirms ++ [{ tag := (takeTag s.chip).1, left := [l.reader], msg := .shardReq e.val i }])

/-- Shards at the reader and at a receiver of a load (R277, R279, R280). -/
def Obligations.ShardsTravel : Prop := ReaderServesShards ∧ ReceiverTakesShards

/-- A load ends (R277, R281): at the reader with the last report, COMPLETE goes out, the entry is READY with the epoch of its manifest, and
the command is answered; at a receiver COMPLETE makes the entry READY, and FAIL makes it FAILED with the cause. -/
def LoadsEnd : Prop :=
  ∀ (s : State) (e : Fin 16) (l : Load), tabFind s.chip.ms.loads e.val = some l → l.stage = false → l.member = true →
    (∀ (p : BitVec 4) (tag : BitVec 16) (a : Nat), FirstCopy s.chip p tag → l.mine = true → l.atStep1 = false → l.block = some a →
      pkgOf (a + 120) = pkg s.chip → (∀ q ∈ l.peers, q = p.toNat ∨ q ∈ l.done) →
      ∃ t, exec (.loadDoneReport e ⟨p, tag⟩) s = .next t ∧ sameRest s t ∧ t.chip.mem = commandAnswer s.chip.mem a 0 ∧
        setState t.chip e.val = 2 ∧ getF t.chip (rSet e.val 0) 16 16 = l.man.epoch.toNat ∧
        t.chip.ms.loads = tabDel (tabSet s.chip.ms.loads e.val { l with done := insertNat p.toNat l.done }) e.val ∧
        tabFind t.chip.ms.current e.val = some l.man) ∧
    (∀ tag : BitVec 16, FirstCopy s.chip l.reader tag → l.mine = false → ∃ t, exec (.complete ⟨e, l.reader, tag⟩) s = .next t ∧ sameRest s t ∧ t.chip.mem = s.chip.mem ∧ setState t.chip e.val = 2 ∧
      getF t.chip (rSet e.val 0) 16 16 = l.man.epoch.toNat ∧ t.chip.ms.loads = tabDel s.chip.ms.loads e.val ∧
      tabFind t.chip.ms.current e.val = some l.man) ∧
    (∀ (cause : BitVec 4) (tag : BitVec 16), FirstCopy s.chip l.reader tag → l.mine = false → ∃ t, exec (.fail ⟨e, l.reader, tag⟩ cause) s = .next t ∧ sameRest s t ∧ setState t.chip e.val = 4 ∧
      getF t.chip (rSet e.val 0) 8 4 = cause.toNat ∧ t.chip.ms.loads = tabDel s.chip.ms.loads e.val ∧
      (∀ d, d ≠ e.val → d < 16 → setState t.chip d = setState s.chip d))

/-- Loads and stages begin and end (R277, R281, R446). -/
def Obligations.LoadsRun : Prop := LoadsBegin ∧ LoadsEnd

/-- REPLACE, and ABORT of a replacement before its first copy (R283, R291): REPLACE makes the set REPLACING with the range of the staged
manifest and its arming tick; one whose tick is not ahead is refused with MS_LATE; ABORT makes the set READY again with the epoch still
staged, and both blocks are answered. That the REPLACE that ABORT ends is answered with REPL_FAIL is the model's reading (log entry 77). -/
def ReplaceArmsAndAborts : Prop :=
  ∀ (s : State) (x : Block) (rest : List Block),
    (∀ (m cur : Manifest) (bias : Nat), OldestCommand s 2 x rest → setState s.chip x.set = 2 → setStage s.chip x.set = 2 →
      tabFind s.chip.ms.staged x.set = some (m, bias) → tabFind s.chip.ms.current x.set = some cur → m.kind.toNat ≤ 1 →
      m.setUid = cur.setUid → x.peers.contains (pkg s.chip) = true →
      (tickBefore (tickOf s.chip) (x.f 3 0 32) = true → ∃ t r, exec .replace s = .next t ∧ CommandTaken s t rest ∧
        t.chip.mem = s.chip.mem ∧ setState t.chip x.set = 3 ∧ firstSeq t.chip x.set = m.firstSeq.toNat ∧
        lastSeq t.chip x.set = m.lastSeq.toNat ∧ armTick t.chip x.set = x.f 3 0 32 ∧ tabFind t.chip.ms.repls x.set = some r ∧
        r.block = x.addr ∧ r.peers = x.peers ∧ r.man = m ∧ r.bias = bias ∧ r.armed = false ∧ r.layers = m.layers.map (·.seq.toNat)) ∧
      (tickBefore (tickOf s.chip) (x.f 3 0 32) = false → ∃ t, exec .replace s = .next t ∧ CommandTaken s t rest ∧
        t.chip.mem = commandAnswer s.chip.mem x.addr 0x0A04 ∧ setState t.chip x.set = 2 ∧ t.chip.ms.repls = s.chip.ms.repls)) ∧
    (∀ r : Repl, OldestCommand s 3 x rest → tabFind s.chip.ms.loads x.set = none → tabFind s.chip.ms.repls x.set = some r →
      r.copying = none → r.begun = false → pkgOf (r.block + 120) = pkg s.chip → NoRunAhead s.chip → ∃ t, exec .abort s = .next t ∧ CommandTaken s t rest ∧
        t.chip.mem = commandAnswer (commandAnswer s.chip.mem r.block 0x0A07) x.addr 0 ∧ setState t.chip x.set = 2 ∧
        t.chip.ms.repls = tabDel s.chip.ms.repls x.set ∧ t.chip.ms.staged = s.chip.ms.staged)

/-- A replacement runs and ends (R285 to R287, R290): the barrier arms at its tick; the copy of a layer begins once no earlier item of that layer
is left; a layer that is done has its bytes at DEST; the coordinator's last report, and RELEASE elsewhere, make the set READY with the new
epoch; a replacement that is armed too long is reported once. The REPLACE block lies in this package's memory, and no run-ahead copy waits that a barrier would discard. -/
def ReplacementRuns : Prop :=
  ∀ (s : State) (e : Fin 16) (r : Repl), tabFind s.chip.ms.repls e.val = some r → pkgOf (r.block + 120) = pkg s.chip →
    (r.armed = false → tickLe (armTick s.chip e.val) (tickOf s.chip) = true → ticking s.chip = true → NoRunAhead s.chip →
      ∃ t, exec (.replArm e) s = .next t ∧ sameRest s t ∧ t.chip.mem = s.chip.mem ∧
        tabFind t.chip.ms.repls e.val = some { r with armed := true }) ∧
    (∀ (j : Nat) (js : List Nat), r.armed = true → r.copying = none → r.layers = j :: js → earlyItems s.chip e.val j = false →
      (∀ p ∈ s.chip.recs, meets (layerDests s.chip r.man j) p.2.down (p.2.len64 * 64) = false ∧
        meets (layerDests s.chip r.man j) p.2.up (p.2.len64 * 64) = false) →
      ∃ t, exec (.replLayerCopy e) s = .next t ∧ sameRest s t ∧ t.chip.mem = s.chip.mem ∧ t.chip.recs = s.chip.recs ∧
        tabFind t.chip.ms.repls e.val = some { r with copying := some j, begun := true }) ∧
    (∀ (j : Nat), r.copying = some j → 1 < r.layers.length → s.chip.ecc = [] →
      (∀ x ∈ layerShards r.man j, pkgOf (sys s.chip (x.dest.toNat + r.bias)) = pkg s.chip) →
      ∃ t, exec (.replLayerDone e) s = .next t ∧ sameRest s t ∧
        t.chip.mem = (layerShards r.man j).foldl (fun m x =>
          memWriteN m (sys s.chip x.dest.toNat) (memReadN m (sys s.chip (x.dest.toNat + r.bias)) x.len.toNat)) s.chip.mem ∧
        tabFind t.chip.ms.repls e.val = some { r with copying := none, layers := r.layers.drop 1 }) ∧
    (∀ (p : BitVec 4) (tag : BitVec 16), FirstCopy s.chip p tag → NoRunAhead s.chip → coordinator s.chip r = some (pkg s.chip) → (∀ q ∈ r.peers, fenced s.chip q = true ∨ q = p.toNat ∨ q ∈ r.dones) →
      ∃ t, exec (.replDone e ⟨p, tag⟩) s = .next t ∧ sameRest s t ∧ t.chip.mem = commandAnswer s.chip.mem r.block 0 ∧ setState t.chip e.val = 2 ∧
        setStage t.chip e.val = 0 ∧ getF t.chip (rSet e.val 0) 16 16 = getF s.chip (rSet e.val 1) 0 16 ∧
        t.chip.ms.repls = tabDel (tabSet s.chip.ms.repls e.val { r with dones := insertNat p.toNat r.dones }) e.val ∧
        tabFind t.chip.ms.current e.val = some r.man) ∧
    (∀ (p : BitVec 4) (tag : BitVec 16), FirstCopy s.chip p tag → NoRunAhead s.chip →
      ∃ t, exec (.replRelease ⟨e, p, tag⟩) s = .next t ∧ sameRest s t ∧ t.chip.mem = commandAnswer s.chip.mem r.block 0 ∧ setState t.chip e.val = 2 ∧
      setStage t.chip e.val = 0 ∧ getF t.chip (rSet e.val 0) 16 16 = getF s.chip (rSet e.val 1) 0 16 ∧
      t.chip.ms.repls = tabDel s.chip.ms.repls e.val ∧ tabFind t.chip.ms.current e.val = some r.man) ∧
    (r.armed = true → r.stuck = false → ∃ t, exec (.replStuck (.set e)) s = .next t ∧ sameRest s t ∧ t.chip.mem = s.chip.mem ∧
      bit (getReg t.chip rStatus) 5 = true ∧ getReg t.chip rErrLast = 0x0A06 + 65536 ∧
      tabFind t.chip.ms.repls e.val = some { r with stuck := true })

/-- Replacements are armed, run, end and are aborted (R283, R285 to R287, R290, R291). -/
def Obligations.ReplacementsRun : Prop := ReplaceArmsAndAborts ∧ ReplacementRuns

/-- Adapter switches (R294, R295): a switch that is allowed waits with its entry; at its tick, once no earlier item of its job is left here or away, the
entry is written to the directory of each basin it names, and its command is answered. -/
def Obligations.AdapterSwitches : Prop :=
  (∀ (s : State) (x : Block) (rest : List Block), OldestCommand s 7 x rest → fld (x.w.getD 10 0) 0 16 = x.job → x.f 4 0 32 ≠ 0 →
    (∀ n, n < 32 → bit (x.f 4 0 32) n = true → bit (getReg s.chip (rCxAdir n)) 17 = true) →
    (∀ w ∈ s.chip.ms.switches, w.job ≠ x.job ∨ w.adapter ≠ x.f 3 32 7) → tickBefore (tickOf s.chip) (x.f 3 0 32) = true →
    ∃ t w, exec .adapterSwitch s = .next t ∧ CommandTaken s t rest ∧ t.chip.mem = s.chip.mem ∧
      t.chip.ms.switches = s.chip.ms.switches ++ [w] ∧ w.block = x.addr ∧ w.job = x.job ∧ w.adapter = x.f 3 32 7 ∧
      w.tick = x.f 3 0 32 ∧ w.basins = x.f 4 0 32 ∧ w.entry = [x.w.getD 8 0, x.w.getD 9 0, x.w.getD 10 0, x.w.getD 11 0]) ∧
  (∀ (s : State) (i : Nat) (w : Switch), s.chip.ms.switches[i]? = some w → pkgOf (w.block + 120) = pkg s.chip → tickLe w.tick (tickOf s.chip) = true →
    itemsBefore s.chip w.job w.tick = 0 → guestsBefore s.chip w.job w.tick = 0 → s.chip.ms.switches.filter (fun y => y.job == w.job && y.tick == w.tick) = [w] →
    ∃ t, exec (.adapterSwitchApply i) s = .next t ∧ sameRest s t ∧
      t.chip.mem = commandAnswer ((List.finRange 32).foldl (fun m b => if bit w.basins b.val then
        memWriteN m (sram s.chip b (getF s.chip (rCxAdir b.val) 0 17 * 64 + 32 * (w.adapter - 1))) (w.entry.flatMap (leBytes 8)) else m)
          s.chip.mem) w.block 0 ∧
      t.chip.ms.switches = s.chip.ms.switches.filter (fun y => !(y.job == w.job && y.tick == w.tick)))

/-! ### The fabric -/

/-- Training (R307, R327): TRAIN starts a link that is not UP; it ends UP with the partner's nonce noted, FAILED with WIRING where the partner is
not the one that R300 wires, or FAILED with TRAIN where a stage takes too long. A failure is reported and counted in LINK_DOWN. -/
def TrainingStartsAndEnds : Prop :=
  (∀ (m : Master) (l : Fin 12) (v : BitVec 32) (s : State), m.toNat ≤ 3 → hubOn s.chip = true → bit v.toNat 0 = true → bit v.toNat 1 = false →
    linkState s.chip l ≠ 2 → s.chip.fab.selfFenced = false → modeOf s.chip = 0 →
    ∃ t, exec (.train m l v) s = .next t ∧ sameRest s t ∧ linkState t.chip l = 1 ∧ t.chip.fab.links[l] = {} ∧ t.chip.mem = s.chip.mem) ∧
  (∀ (l : Fin 12) (x : Ident) (s : State), linkState s.chip l = 1 → x.stagesOk = true → x.pkg.toNat = linkPartner s.chip l →
    x.link.toNat = linkBack l → member s.chip x.pkg.toNat = true → x.rtt.toNat ≤ 175 →
    ∃ t, exec (.trainDone l x) s = .next t ∧ sameRest s t ∧ linkState t.chip l = 2 ∧ getF t.chip (rLinkStatus l.val) 3 4 = x.pkg.toNat ∧
      getF t.chip (rLinkStatus l.val) 7 4 = x.link.toNat ∧ getF t.chip (rLinkStatus l.val) 17 8 = x.rtt.toNat ∧
      (partnerOf t.chip x.pkg.toNat).nonce = x.nonce.toNat ∧ t.chip.mem = s.chip.mem) ∧
  (∀ (l : Fin 12) (x : Ident) (s : State), linkState s.chip l = 1 → x.stagesOk = true →
    (x.pkg.toNat ≠ linkPartner s.chip l ∨ x.link.toNat ≠ linkBack l) →
    ∃ t, exec (.trainDone l x) s = .next t ∧ sameRest s t ∧ linkState t.chip l = 3 ∧ getF t.chip (rLinkStatus l.val) 11 4 = 4 ∧
      getReg t.chip rErrLast = 0x0B04 + 2 * 65536 ∧ getReg t.chip (rLinkCtr l.val 3) = (getReg s.chip (rLinkCtr l.val 3) + 1) % 2 ^ 32) ∧
  (∀ (l : Fin 12) (s : State), linkState s.chip l = 1 →
    ∃ t, exec (.trainTimeout l) s = .next t ∧ sameRest s t ∧ linkState t.chip l = 3 ∧ getF t.chip (rLinkStatus l.val) 11 4 = 5 ∧
      getReg t.chip rErrLast = 0x0B05 + 65536 ∧ getReg t.chip (rLinkCtr l.val 3) = (getReg s.chip (rLinkCtr l.val 3) + 1) % 2 ^ 32)

/-- Every other package that counts as LIVE can be reached. -/
def RoutesHold (c : Chip) : Prop :=
  ∀ p, p < 16 → p ≠ pkg c → member c p = true → getF c (rPartner p) 0 2 = 2 → (nextHop c p).isSome = true

/-- A link in TRAINING, or UP with the other link of its pair UP too, that holds no flit. -/
def SpareLink (c : Chip) (l : Fin 12) : Prop :=
  (linkState c l = 1 ∨ (linkState c l = 2 ∧ ∃ m ∈ linksOf (l.val / 2), m ≠ l ∧ linkState c m = 2)) ∧
    c.fab.links[l].replay = [] ∧ c.fab.links[l].waiting = []

/-- A link has gone DOWN with a cause and the lane named, counted in LINK_DOWN, and memory is as it was. -/
def WentDown (s t : State) (l : Fin 12) (cause lane : Nat) : Prop :=
  sameRest s t ∧ linkState t.chip l = 0 ∧ getF t.chip (rLinkStatus l.val) 11 4 = cause ∧ getF t.chip (rLinkStatus l.val) 15 2 = lane ∧
    getReg t.chip (rLinkCtr l.val 3) = (getReg s.chip (rLinkCtr l.val 3) + 1) % 2 ^ 32 ∧ t.chip.mem = s.chip.mem

/-- A link that can be spared goes DOWN (R306, R319, R320): by software, with a lane, or for want of BEATs. -/
def SpareLinksGoDown : Prop :=
  ∀ (s : State) (l : Fin 12), SpareLink s.chip l → RoutesHold s.chip →
    (∀ (m : Master) (v : BitVec 32), m.toNat ≤ 3 → hubOn s.chip = true → bit v.toNat 0 = false → bit v.toNat 1 = true →
      ∃ t, exec (.down m l v) s = .next t ∧ WentDown s t l 6 0) ∧
    (∀ lane : BitVec 2, ∃ t, exec (.laneFail l lane) s = .next t ∧ WentDown s t l 1 lane.toNat) ∧
    (linkState s.chip l = 2 → ∃ t, exec (.beatMiss l) s = .next t ∧ WentDown s t l 3 0)

/-- Links train and go down. -/
def Obligations.LinksComeAndGo : Prop := TrainingStartsAndEnds ∧ SpareLinksGoDown

/-- The timers of a link and of confirmed messages (R311, R318, R319, R327): a replay keeps the unacknowledged flits and counts in REPLAY, under the
REPLAY_MAX that stood as the run of replays began; an acknowledgement due leaves
in an IDLE flit with the number expected; a BEAT carries the boot nonce; a message is sent again to those that are not fenced and have not confirmed it; a
confirmation takes its sender off the message of that tag and off no other, and one from a fenced package changes nothing. -/
def LinkTimersAndConfirmations : Prop :=
  (∀ (l : Fin 12) (s : State), linkState s.chip l = 2 → s.chip.fab.links[l].replay ≠ [] →
    (s.chip.fab.links[l].runs = 0 ∨ s.chip.fab.links[l].runs < s.chip.fab.links[l].runMax) →
    ∃ t, exec (.replayTimeout l) s = .next t ∧ sameRest s t ∧ t.chip.mem = s.chip.mem ∧
      getReg t.chip (rLinkCtr l.val 2) = (getReg s.chip (rLinkCtr l.val 2) + 1) % 2 ^ 32 ∧
      t.chip.fab.links[l].replay = s.chip.fab.links[l].replay ∧ t.chip.fab.links[l].runs = s.chip.fab.links[l].runs + 1 ∧
      t.chip.fab.links[l].runMax = (if s.chip.fab.links[l].runs = 0 then getF s.chip rThCfg 4 4 else s.chip.fab.links[l].runMax) ∧
      t.chip.out.length = s.chip.out.length + s.chip.fab.links[l].replay.length) ∧
  (∀ (l : Fin 12) (s : State), linkState s.chip l = 2 → s.chip.fab.selfFenced = false → s.chip.fab.links[l].since ≠ 0 →
    s.chip.fab.links[l].returns = Vector.replicate 4 0 →
    ∃ t g, exec (.ackTimer l) s = .next t ∧ sameRest s t ∧ t.chip.out = .flit l g :: s.chip.out ∧ g.ty = 0 ∧ g.ackV = true ∧ g.nak = false ∧
      g.ack.toNat = s.chip.fab.links[l].expect % 4096 ∧ t.chip.fab.links[l].since = 0 ∧ t.chip.regs = s.chip.regs ∧ t.chip.mem = s.chip.mem) ∧
  (∀ (l : Fin 12) (s : State), linkState s.chip l = 2 → s.chip.fab.selfFenced = false →
    ∃ t g, exec (.beatSend l) s = .next t ∧ sameRest s t ∧ t.chip.out = .flit l g :: s.chip.out ∧ g.ty = 1 ∧ g.src = s.chip.power.pkgId ∧
      g.addr.toNat = getReg s.chip rNonce ∧ g.crc.toNat = flitCrc g ∧ t.chip.regs = s.chip.regs ∧ t.chip.mem = s.chip.mem) ∧
  (∀ (p : BitVec 4) (tag : BitVec 16) (s : State), fenced s.chip p.toNat = true → exec (.confirm p tag) s = .next s) ∧
  (∀ (p : BitVec 4) (tag : BitVec 16) (s : State), fenced s.chip p.toNat = false → ∃ t, exec (.confirm p tag) s = .next t ∧ sameRest s t ∧ t.chip.regs = s.chip.regs ∧
    t.chip.mem = s.chip.mem ∧ (∀ x ∈ t.chip.fab.confirms, x.left ≠ [] ∧ (x.tag = tag.toNat → p ∉ x.left)) ∧
    (∀ x ∈ s.chip.fab.confirms, x.tag ≠ tag.toNat → x.left ≠ [] → x ∈ t.chip.fab.confirms)) ∧
  (∀ (tag : BitVec 16) (x : Confirmed) (s : State), s.chip.fab.confirms.find? (fun y => y.tag == tag.toNat) = some x →
    ∃ t, exec (.confirmResend tag) s = .next t ∧ sameRest s t ∧
      (∀ p ∈ x.left, fenced s.chip p.toNat = false → p.toNat ≠ pkg s.chip → Emit.hub p tag.toNat x.msg ∈ t.chip.out) ∧
      t.chip.fab.confirms = s.chip.fab.confirms ∧ t.chip.basins = s.chip.basins ∧ t.chip.mem = s.chip.mem)

/-- A flit of a type that this package accepts and that is meant for it; in `c` its buffer is free (R311, R313, R322). -/
def Delivered (s : State) (l : Fin 12) (ty : Nat) (f : Flit) (c : Chip) : Prop :=
  ∃ d, receive l f s.chip = (.accepted, d) ∧ f.ty.toNat = ty ∧ fenced d f.src.toNat = false ∧ f.dst.toNat = pkg d ∧
    c = returnCredit l f.vc.toNat d

/-- Numbered flits (R310, R311): the one expected is accepted and the number moves on; a flit that is not whole is discarded, counted in
CRC_FAIL and answered with one NAK; a duplicate changes nothing. The bytes that the FEC corrects are counted in FEC_CE and on their lane, in the
millisecond at hand, and a lane on which they pass LANE_CE_LIMIT takes its link DOWN with cause LANE (R306). -/
def FlitsAreNumbered : Prop :=
  (∀ (l : Fin 12) (f : Flit) (s : State), linkState s.chip l = 2 → s.chip.fab.selfFenced = false → f.ce.sum ≠ 0 → flitOk f = true → f.ty = 0 →
    f.ackV = false → s.chip.fab.links[l].waiting = [] → (∀ i : Fin 4,
      (if s.chip.fab.links[l].ceAt = s.chip.upNs / 1000000 then s.chip.fab.links[l].ce[i] else 0) + f.ce.getD i.val 0 ≤
        getF s.chip rThCfg 8 8 * 1024) →
    ∃ t, exec (.idle l f) s = .next t ∧ sameRest s t ∧ t.chip.mem = s.chip.mem ∧ linkState t.chip l = 2 ∧
      getReg t.chip (rLinkCtr l.val 0) = (getReg s.chip (rLinkCtr l.val 0) + f.ce.sum) % 2 ^ 32 ∧
      t.chip.fab.links[l].ceAt = s.chip.upNs / 1000000 ∧ ∀ i : Fin 4, t.chip.fab.links[l].ce[i] =
        (if s.chip.fab.links[l].ceAt = s.chip.upNs / 1000000 then s.chip.fab.links[l].ce[i] else 0) + f.ce.getD i.val 0) ∧
  (∀ (l : Fin 12) (f : Flit) (s : State) (i : Fin 4), SpareLink s.chip l → RoutesHold s.chip → linkState s.chip l = 2 →
    s.chip.fab.selfFenced = false → f.ce.sum ≠ 0 → f.ty = 0 → s.chip.fab.links[l].ceAt = s.chip.upNs / 1000000 →
    getF s.chip rThCfg 8 8 * 1024 < s.chip.fab.links[l].ce[i] + f.ce.getD i.val 0 →
    (∀ j : Fin 4, j < i → s.chip.fab.links[l].ce[j] + f.ce.getD j.val 0 ≤ getF s.chip rThCfg 8 8 * 1024) →
    ∃ t, exec (.idle l f) s = .next t ∧ WentDown s t l 1 i.val) ∧
  (∀ (l : Fin 12) (f : Flit) (s : State), linkState s.chip l = 2 → s.chip.fab.selfFenced = false → f.ce.sum = 0 →
    (flitOk f = true → 2 ≤ f.ty.toNat → fenced s.chip (linkPartner s.chip l) = false → f.seq.toNat = s.chip.fab.links[l].expect →
      f.nak = false → s.chip.fab.links[l].waiting = [] →
      ∃ c, receive l f s.chip = (.accepted, c) ∧ c.fab.links[l].expect = (s.chip.fab.links[l].expect + 1) % 4096 ∧
        c.mem = s.chip.mem ∧ c.regs = s.chip.regs ∧ c.basins = s.chip.basins) ∧
    (flitOk f = false → f.ty = 0 → ∃ t, exec (.idle l f) s = .next t ∧ sameRest s t ∧ t.chip.mem = s.chip.mem ∧
      getReg t.chip (rLinkCtr l.val 1) = (getReg s.chip (rLinkCtr l.val 1) + 1) % 2 ^ 32 ∧ t.chip.fab.links[l].nakSent = true ∧
      t.chip.fab.links[l].expect = s.chip.fab.links[l].expect ∧
      (s.chip.fab.links[l].nakSent = true → t.chip.out = s.chip.out) ∧
      (s.chip.fab.links[l].nakSent = false → ∃ g, t.chip.out = .flit l g :: s.chip.out ∧ g.nak = true)) ∧
    (flitOk f = true → f.ty = 3 → fenced s.chip (linkPartner s.chip l) = false → f.seq.toNat ≠ s.chip.fab.links[l].expect →
      2048 ≤ (f.seq.toNat + 4096 - s.chip.fab.links[l].expect) % 4096 → exec (.writeAck l f) s = .next s))

/-- Link timers, confirmations, and the numbering of flits. -/
def Obligations.LinksKeepOrder : Prop := LinkTimersAndConfirmations ∧ FlitsAreNumbered

/-- An access of the indirect window has ended with a code (R379). -/
def WindowEnded (c d : Chip) (code : Nat) : Prop :=
  d.window = {} ∧ bit (getReg d rIwCtrl) 7 = false ∧ getF d rIwCtrl 16 16 = code ∧ bit (getReg d rStatus) 8 = true ∧ d.mem = c.mem

/-- Answers, and flits that carry none (R309, R314, R319): an IDLE flit acts only on its link, a BEAT gives the partner's nonce, and an answer
completes the transaction of its tag: a write or a read of the indirect window with its value, an addition to a done word, or an error. That
a read of the window that fails leaves IW_DATA 0 is the model's reading (log entry 128). -/
def AnswersCompleteTransactions : Prop :=
  ∀ (l : Fin 12) (f : Flit) (s : State) (c : Chip),
    (receive l f s.chip = (.accepted, c) → f.ty.toNat = 0 → exec (.idle l f) s = .next (s.withChip c)) ∧
    (receive l f s.chip = (.accepted, c) → f.ty.toNat = 1 → ∃ t, exec (.beat l f) s = .next t ∧ sameRest s t ∧
      (partnerOf t.chip (linkPartner c l)).nonce = f.addr.toNat % 2 ^ 32 ∧ t.chip.mem = c.mem ∧ t.chip.regs = c.regs) ∧
    (∀ x : Txn, Delivered s l 3 f c → txnOf c f = some x → x.write = true → x.who = .window →
      ∃ t, exec (.writeAck l f) s = .next t ∧ sameRest s t ∧ WindowEnded c t.chip 0 ∧ ∀ y ∈ t.chip.fab.txns, y.tag ≠ x.tag) ∧
    (∀ x : Txn, Delivered s l 5 f c → txnOf c f = some x → x.write = false → x.who = .window → x.got = 0 → x.bytes = [] →
      f.len.toNat = x.len → f.addr.toNat = x.addr →
      ∃ t, exec (.readData l f) s = .next t ∧ sameRest s t ∧ WindowEnded c t.chip 0 ∧
        getReg t.chip rIwData = leNat (((flitData f).drop x.off).take 4) ∧
        ∀ y ∈ t.chip.fab.txns, y.tag ≠ x.tag) ∧
    (∀ (x : Txn) (b : Fin 32) (j step : Nat), Delivered s l 7 f c → txnOf c f = some x → x.write = false → x.who = .done b j step →
      ∃ t, exec (.atomicResp l f) s = .next t ∧ sameRest s t ∧ t.chip.mem = c.mem ∧ t.chip.regs = c.regs ∧ t.chip.basins = c.basins ∧
        ∀ y ∈ t.chip.fab.txns, y.tag ≠ x.tag) ∧
    (∀ x : Txn, Delivered s l 10 f c → c.fab.txns.find? (fun y => y.tag == f.tag.toNat) = some x → x.who = .window →
      ∃ t, exec (.errResp l f) s = .next t ∧ sameRest s t ∧ WindowEnded c t.chip f.code.toNat ∧
        (x.write = false → getReg t.chip rIwData = 0) ∧ ∀ y ∈ t.chip.fab.txns, y.tag ≠ x.tag)

/-- Requests served at their home (R314, R316): WRITE and a multicast write store the LEN bytes of the flit at its address; READ_REQ sends
the bytes that stand there; ATOMIC adds its operand to a word of 32 or 64 bits, releases a pin of a root or reads a root, operations whose numbers and places in the flit
are the model's own (log entry 34). -/
def RequestsAreServed : Prop :=
  ∀ (l : Fin 12) (f : Flit) (s : State) (c : Chip),
    (Delivered s l 2 f c → inHub (sys c f.addr.toNat) f.len.toNat = false → backed (sys c f.addr.toNat) f.len.toNat = true → c.ecc = [] →
      ∃ t, exec (.write l f) s = .next t ∧ sameRest s t ∧ t.chip.mem = memWriteN c.mem (sys c f.addr.toNat) (flitData f)) ∧
    (Delivered s l 4 f c → inHub (sys c f.addr.toNat) f.len.toNat = false → backed (sys c f.addr.toNat) f.len.toNat = true → c.ecc = [] →
      exec (.readReq l f) s = .next (s.withChip (sendData f (memReadN c.mem (sys c f.addr.toNat) f.len.toNat) c))) ∧
    (∀ n : Nat, Delivered s l 6 f c → (leNat ((flitData f).take 4) = opAdd ∧ n = 4 ∨ leNat ((flitData f).take 4) = opAdd64 ∧ n = 8) →
      inHub (sys c f.addr.toNat) n = false → backed (sys c f.addr.toNat) n = true → c.ecc = [] →
      ∃ t, exec (.atomic l f) s = .next t ∧ sameRest s t ∧ t.chip.mem = memWriteN c.mem (sys c f.addr.toNat)
        (leBytes n (leNat (memReadN c.mem (sys c f.addr.toNat) n) + leNat (((flitData f).drop 4).take n)))) ∧
    (∀ a : Nat, Delivered s l 6 f c → a = sys c f.addr.toNat → inHub a 192 = false → backed a 192 = true → c.ecc = [] →
      (leNat ((flitData f).take 4) = opRead → backed a (192 + 32 * fld (leNat (memReadN c.mem a 8)) 0 9) = true →
        exec (.atomic l f) s = .next (s.withChip (sendAnswer (answerFlit c f 7 (memReadN c.mem a 192)) none c))) ∧
      (∀ p : Nat, leNat ((flitData f).take 4) = opUnpin → p = pinsAddr a (leNat (((flitData f).drop 4).take 4) % 4) →
        ∃ t, exec (.atomic l f) s = .next t ∧ sameRest s t ∧
          t.chip.mem = memWriteN c.mem p (leBytes 4 (leNat (memReadN c.mem p 4) - 1)))) ∧
    (receive l f s.chip = (.accepted, c) → f.ty.toNat = 8 → fenced c f.src.toNat = false → bit f.mask.toNat (pkg c) = true →
      inHub (sys c f.addr.toNat) f.len.toNat = false → backed (sys c f.addr.toNat) f.len.toNat = true →
      ∃ t, exec (.mcastWrite l f) s = .next t ∧ sameRest s t ∧ t.chip.mem = memWriteN c.mem (sys c f.addr.toNat) (flitData f))

/-- Flits that answer and flits that ask. -/
def Obligations.FlitsAreServed : Prop := AnswersCompleteTransactions ∧ RequestsAreServed

/-- Package `p` is a member that is not fenced and that this package has no business with: no link to it is UP or TRAINING, and no flit, message,
load, replacement or job names it; and no other package is LIVE. -/
def QuietPartner (c : Chip) (p : Nat) : Prop :=
  p < 16 ∧ p ≠ pkg c ∧ member c p = true ∧ getF c (rPartner p) 0 2 ≠ 3 ∧ (∀ l : Fin 12, c.fab.links[l].waiting = []) ∧
    c.fab.txns = [] ∧ c.fab.confirms = [] ∧ c.ms.loads = [] ∧ c.ms.repls = [] ∧ (∀ j, j < 256 → p ∉ jobPkgs c j) ∧
    (∀ l : Fin 12, linkState c l ≠ 1 ∧ linkState c l ≠ 2) ∧ (∀ q, q < 16 → q ≠ p → q ≠ pkg c → getF c (rPartner q) 0 2 ≠ 2)

/-- Fences and members (R322, R324, R327): a FENCE write and the first LOST notice of a package fence it with their cause, report PARTNER_LOST and
set MP_STATUS.PARTNER; UNFENCE makes a fenced package with a new nonce and a route LIVE; TH_MEMBERS is written while no link is UP or
TRAINING, and the entry of a package that is no member reads 0. -/
def Obligations.FencesAndMembers : Prop :=
  (∀ (s : State) (p : Nat), QuietPartner s.chip p →
    (∀ (m : Master) (v : BitVec 32), m.toNat ≤ 3 → hubOn s.chip = true → fld v.toNat 0 4 = p → bit v.toNat 4 = true → bit v.toNat 5 = false →
      ∃ t, exec (.fence m v) s = .next t ∧ sameRest s t ∧ getF t.chip (rPartner p) 0 2 = 3 ∧ getF t.chip (rPartner p) 5 4 = 5 ∧
        bit (getReg t.chip rStatus) 2 = true ∧ getReg t.chip rErrLast = 0x0B06 + 2 * 65536 ∧ t.chip.mem = s.chip.mem) ∧
    (∀ (src : BitVec 4) (tag : BitVec 16) (q : BitVec 4) (nonce : BitVec 32), fenced s.chip src.toNat = false → q.toNat = p →
      (tabGet [] s.chip.fab.seen src.toNat).contains tag.toNat = false →
      ∃ t, exec (.lostNotice src tag q nonce) s = .next t ∧ sameRest s t ∧ getF t.chip (rPartner p) 0 2 = 3 ∧ getF t.chip (rPartner p) 5 4 = 3 ∧
        bit (getReg t.chip rStatus) 2 = true ∧ getReg t.chip rErrLast = 0x0B06 + 2 * 65536 ∧ t.chip.mem = s.chip.mem)) ∧
  (∀ (m : Master) (v : BitVec 32) (s : State), m.toNat ≤ 3 → hubOn s.chip = true → bit v.toNat 4 = false → bit v.toNat 5 = true →
    fld v.toNat 0 4 ≠ pkg s.chip → member s.chip (fld v.toNat 0 4) = true → getF s.chip (rPartner (fld v.toNat 0 4)) 0 2 = 3 →
    (partnerOf s.chip (fld v.toNat 0 4)).newNonce = true → (nextHop s.chip (fld v.toNat 0 4)).isSome = true → s.chip.fab.selfFenced = false →
    (∀ q, q < 16 → q ≠ fld v.toNat 0 4 → q ≠ pkg s.chip → getF s.chip (rPartner q) 0 2 ≠ 2) →
    ∃ t, exec (.unfence m v) s = .next t ∧ sameRest s t ∧ getF t.chip (rPartner (fld v.toNat 0 4)) 0 2 = 2 ∧ t.chip.mem = s.chip.mem) ∧
  (∀ (m : Master) (v : BitVec 32) (s : State), m.toNat ≤ 3 → hubOn s.chip = true → (∀ l : Fin 12, linkState s.chip l ≠ 1 ∧ linkState s.chip l ≠ 2) →
    ∃ t, exec (.thMembersWrite m v) s = .next t ∧ sameRest s t ∧ getF t.chip rMembers 0 16 = v.toNat % 65536 ∧ t.chip.mem = s.chip.mem ∧
      ∀ p, p < 16 → p ≠ pkg s.chip → bit v.toNat p = false → getReg t.chip (rPartner p) = 0) ∧
  (∀ (m : Master) (v : BitVec 32) (s : State), m.toNat ≤ 3 → hubOn s.chip = true → (∃ l : Fin 12, linkState s.chip l = 1 ∨ linkState s.chip l = 2) →
    ∃ t, exec (.thMembersWrite m v) s = .next t ∧ sameRest s t ∧ t.chip.regs = s.chip.regs ∧ t.chip.fab = s.chip.fab ∧ t.chip.mem = s.chip.mem)

/-! ### The wellhead -/

/-- A frame (R334, R344, R345): every frame moves the frame number by 1 and its start by 10 ms of gPTP time, the next one's lock and mute being
those of its start; while the mute is on, the record of the one output that is selected holds silence under its number, its time and the MUTED
flag in ACTIVE and IDLE, and in LISTEN nothing is written and its next frame carries GAP. -/
def FramesAreWritten : Prop :=
  ∀ (x : AudioIn) (s : State), feOn s.chip = true →
    (∃ t, exec (.feFrame x) s = .next t ∧ t.pending = s.pending ∧ t.sec = s.sec ∧ t.net = s.net ∧ t.fe.k = s.fe.k + 1 ∧
      t.fe.start = frameTime s.dev + 10000000 ∧
      (s.fe.lockAt = true → t.fe.start = s.fe.start + 10000000) ∧ t.fe.lockAt = bit (getReg t.chip rWakeStatus) 4 ∧
      t.fe.muteAt = muted s.chip ∧ t.fe.mutes = []) ∧
    (∀ (o : Nat) (high : Bool), o < 48 → (∀ q, q < 48 → selected s.fe q = decide (q = o)) → high = arrHigh s.fe.arr[arrayOf o] →
      s.fe.muteAt = true → s.fe.mutes = [] → bit (getReg s.chip rWakeCfg) 0 = false → stageOf s.chip = 0 →
      (modeOf s.chip ≤ 1 → ∃ t, exec (.feFrame x) s = .next t ∧
        t.chip.mem = memWriteN s.chip.mem (sys s.chip (frameAddr high o s.fe.k))
          (frameHead (o + 0x40 + 0x80 + b2n (!s.fe.lockAt) * 0x100 + b2n (s.fe.gaps.contains o) * 0x400 + b2n high * 0x800)
            s.fe.k (frameTime s.dev) ++
              sampleBytes high (List.replicate (frameLen high) 0)) ∧
        t.fe.gaps.contains o = false) ∧
      (modeOf s.chip = 2 → ∃ t, exec (.feFrame x) s = .next t ∧ t.chip.mem = s.chip.mem ∧ t.fe.gaps.contains o = true))

/-- The pre-wake ring (R342, R343): a block takes the first 256 samples that its output has left in each ring channel, coded, and nothing happens
before they are there; the oldest block leaves as the next one is recorded in its place; a fetch
of frames that the ring holds writes their PCM in ACTIVE and IDLE; a write of the ring's settings empties it, and one that names an output of the
high-quality path is refused. -/
def RingRecordsAndFetches : Prop :=
  (∀ s : State, feOn s.chip = true → bit (getReg s.chip rRingCfg) 0 = true →
    ((tabGet [] s.fe.ringBuf 0).length < 256 → exec (.ringBlock ()) s = .next s) ∧
    (256 ≤ (tabGet [] s.fe.ringBuf 0).length → stageOf s.chip ≠ 3 →
      ∃ t b, exec (.ringBlock ()) s = .next t ∧ t.pending = s.pending ∧ t.sec = s.sec ∧ t.net = s.net ∧ t.chip = s.chip ∧
        t.fe.ring = (b :: s.fe.ring).take (ringCap s.chip - 1) ∧ b.start = s.fe.ringPos ∧ t.fe.ringPos = s.fe.ringPos + 256 ∧
        b.chans = (List.range (ringN s.chip)).map
          (fun i => (adpcmBlock (tabGet 0 s.fe.steps i) ((tabGet [] s.fe.ringBuf i).take 256)).1) ∧
        ∀ i, i < ringN s.chip → tabGet [] t.fe.ringBuf i = (tabGet [] s.fe.ringBuf i).drop 256)) ∧
  (∀ (m : Master) (v : BitVec 32) (s : State) (f a ch n : Nat), m.toNat ≤ 3 → hubOn s.chip = true → modeOf s.chip ≤ 1 →
    bit v.toNat 30 = true → f = frameNo s.fe (getReg s.chip rFetch) → a = getReg s.chip (rFetch + 4) + fld v.toNat 0 16 * 2 ^ 32 → ch = fld v.toNat 16 5 →
    n = fld v.toNat 21 9 → n ≠ 0 → a % 64 = 0 → ch < ringN s.chip → bit (getReg s.chip rFeMute) 1 = false → ringHolds s.fe f n = true →
    pkgOf a = pkg s.chip → inHub a (320 * n) = false → backed a (320 * n) = true →
    ∃ t, exec (.feFetch m v) s = .next t ∧ sameRest s t ∧ t.chip.mem = memWriteN s.chip.mem a (fetchBytes s.fe ch f n)) ∧
  (∀ (m : Master) (j : Fin 9) (v : BitVec 32) (s : State), m.toNat ≤ 3 → hubOn s.chip = true →
    (j.val = 0 → ∃ t, exec (.ringConfigWrite m j v) s = .next t ∧ t.pending = s.pending ∧ t.sec = s.sec ∧ t.net = s.net ∧ t.fe.ring = [] ∧
      getF t.chip rRingCfg 0 6 = v.toNat % 64 ∧ t.chip.mem = s.chip.mem) ∧
    (j.val ≠ 0 → (∀ i, i < 4 → highOut s.fe (fld v.toNat (8 * i) 6) = false) →
      ∃ t, exec (.ringConfigWrite m j v) s = .next t ∧ t.pending = s.pending ∧ t.sec = s.sec ∧ t.net = s.net ∧ t.fe.ring = [] ∧
        (∀ i, i < 4 → getF t.chip (rRingSrc (j.val - 1)) (8 * i) 6 = fld v.toNat (8 * i) 6) ∧ t.chip.mem = s.chip.mem) ∧
    (j.val ≠ 0 → (∃ i, i < 4 ∧ highOut s.fe (fld v.toNat (8 * i) 6) = true) →
      ∃ t, exec (.ringConfigWrite m j v) s = .next t ∧ sameRest s t ∧ t.chip.mem = s.chip.mem ∧
        t.chip.out.head? = some (.bus m 0 0x0D01) ∧ getReg t.chip (rRingSrc (j.val - 1)) = getReg s.chip (rRingSrc (j.val - 1))))

/-- Stage 3 (R340, R341): posting its item makes it stage 4; with the done word set, verdict 1 sets WAKE and names frame P, verdict 0 does not;
V_LIMIT with the done word 0 ends it. -/
def StageThreeRuns : Prop :=
  ∀ (s : State),
    (∀ (ws : List Nat) (done : Nat) (c d : Chip), stageOf s.chip = 3 → modeOf s.chip = 0 → enabled s.chip (vBasin s.fe.wake) = true →
      ringHolds s.fe s.fe.wake.p (vLen s.fe.wake) = true → ticking s.chip = true →
      runEff (stage3Item s.fe.wake (fetchBytes s.fe 0 s.fe.wake.p (vLen s.fe.wake))) s.chip = (c, .ok (ws, done)) →
      postItems (vBasin s.fe.wake) true [ws] c = (0, d) →
      ∃ t, exec .stage3Post s = .next t ∧ t.pending = s.pending ∧ t.sec = s.sec ∧ t.net = s.net ∧ t.fe.wake.done = done ∧
        stageOf t.chip = 4 ∧ t.chip.basins = d.basins ∧ t.chip.mem = d.mem) ∧
    (∀ (b v : List Byte), stageOf s.chip = 4 → runEff (readAny 0 s.fe.wake.done 4) s.chip = (s.chip, .ok b) → leNat b ≠ 0 →
      runEff (readAny 0 (sram s.chip (vBasin s.fe.wake) (fld s.fe.wake.vVerdict 0 23)) 4) s.chip = (s.chip, .ok v) →
      (leNat v = 1 → ∃ t, exec .stage3Poll s = .next t ∧ sameRest s t ∧ stageOf t.chip = 0 ∧ bit (getReg t.chip rWakeStatus) 3 = true ∧
        getReg t.chip rWakeFrame = s.fe.wake.p % 2 ^ 32 ∧ bit (getReg t.chip rStatus) 4 = true ∧
        getReg t.chip (rFeCtr 3) = (getReg s.chip (rFeCtr 3) + 1) % 2 ^ 32 ∧ t.chip.mem = s.chip.mem) ∧
      (leNat v = 0 → ∃ t, exec .stage3Poll s = .next t ∧ sameRest s t ∧ stageOf t.chip = 0 ∧
        bit (getReg t.chip rWakeStatus) 3 = bit (getReg s.chip rWakeStatus) 3 ∧ getReg t.chip rStatus = getReg s.chip rStatus ∧
        getReg t.chip (rFeCtr 4) = (getReg s.chip (rFeCtr 4) + 1) % 2 ^ 32 ∧ t.chip.mem = s.chip.mem)) ∧
    (stageOf s.chip = 4 → leNat (memReadN s.chip.mem s.fe.wake.done 4) = 0 → ∃ t, exec .stage3Timeout s = .next t ∧ sameRest s t ∧
      stageOf t.chip = 0 ∧ getReg t.chip (rFeCtr 4) = (getReg s.chip (rFeCtr 4) + 1) % 2 ^ 32 ∧ t.chip.mem = s.chip.mem)

/-- Frames of the wellhead, the pre-wake ring, and the last wake stage (R334, R340 to R344). -/
def Obligations.WellheadRecordsAndWakes : Prop := FramesAreWritten ∧ RingRecordsAndFetches ∧ StageThreeRuns

/-- The mute (R344): setting it stops samples, starts clearing, empties the ring, drops a wake stage and leaves the frame area zero; clearing ends with CLEARING 0
and the ring empty; taking the mute off empties the ring. -/
def MuteStopsSamples : Prop :=
  (∀ (m : Master) (v : BitVec 32) (s : State), m.toNat ≤ 3 → hubOn s.chip = true →
    (bit v.toNat 0 = true → ∃ t, exec (.mute m v) s = .next t ∧ t.pending = s.pending ∧ t.sec = s.sec ∧ t.net = s.net ∧ muted t.chip = true ∧
      bit (getReg t.chip rFeMute) 1 = true ∧ stageOf t.chip = 0 ∧ t.fe.ring = [] ∧
      ∀ off, off < 0x300000 → memRead t.chip.mem (sys s.chip (0xF0040000000 + off)) = 0) ∧
    (bit v.toNat 0 = false → muted s.chip = true → ∃ t, exec (.mute m v) s = .next t ∧ t.pending = s.pending ∧ t.sec = s.sec ∧
      t.net = s.net ∧ muted t.chip = false ∧ t.fe.ring = [] ∧ t.chip.mem = s.chip.mem)) ∧
  (∀ s : State, bit (getReg s.chip rFeMute) 1 = true → ∃ t, exec .muteClearDone s = .next t ∧ t.pending = s.pending ∧ t.sec = s.sec ∧
    t.net = s.net ∧ bit (getReg t.chip rFeMute) 1 = false ∧ muted t.chip = muted s.chip ∧ t.fe.ring = [] ∧ t.chip.mem = s.chip.mem)

/-- The wellhead's settings (R335, R339, R346): an image of this package's memory that passes its checks goes in force and one that does not is reported and leaves the old
one; a setting of an array that waits applies at its frame boundary and marks the array's outputs with GAP; lock gives the frame in hand
its start at the nearest multiple of 10 ms. -/
def WellheadSettingsApply : Prop :=
  (∀ (m : Master) (v : BitVec 32) (s : State) (c : Chip) (a len : Nat) (img : List Byte), m.toNat ≤ 3 → hubOn s.chip = true →
    bit v.toNat 16 = true → s.fe.loading = none → c = storeReg s.chip (rDsp + 4) v.toNat → a = getReg c rDsp + getF c (rDsp + 4) 0 16 * 2 ^ 32 → a % 64 = 0 →
    len = numAt (memReadN s.chip.mem a 64) 8 4 → 64 ≤ len → len ≤ 65536 → PlainRange s.chip a 64 → PlainRange s.chip a len →
    img = memReadN s.chip.mem a len →
    (imageOk img = true → ∃ t, exec (.feDspLoad m v) s = .next t ∧ t.pending = s.pending ∧ t.sec = s.sec ∧ t.net = s.net ∧
      t.fe.image = img ∧ bit (getReg t.chip (rDsp + 4)) 18 = true ∧ t.chip.mem = s.chip.mem) ∧
    (imageOk img = false → ∃ t, exec (.feDspLoad m v) s = .next t ∧ sameRest s t ∧ getReg t.chip rErrLast = 0x0D02 + 65536 ∧
      t.chip.mem = s.chip.mem)) ∧
  (∀ (a : Fin 4) (s : State), feOn s.chip = true → a.val ∈ s.fe.waiting → ∃ t, exec (.feArrayApply a) s = .next t ∧ t.pending = s.pending ∧
    t.sec = s.sec ∧ t.net = s.net ∧ t.chip = s.chip ∧ t.fe.arr[a] = getReg s.chip (rFeArray a.val) ∧ a.val ∉ t.fe.waiting ∧
    (∀ i, i < 12 → 12 * a.val + i ∈ t.fe.gaps) ∧ (∀ b : Fin 4, b ≠ a → t.fe.arr[b] = s.fe.arr[b])) ∧
  (∀ s : State, hubOn s.chip = true → locked s.chip = true → bit (getReg s.chip rWakeStatus) 4 = false →
    ∃ t, exec .fePllLock s = .next t ∧ t.pending = s.pending ∧ t.sec = s.sec ∧ t.net = s.net ∧ bit (getReg t.chip rWakeStatus) 4 = true ∧
      bit (getReg t.chip rWakeStatus) 5 = true ∧ t.fe.start % 10000000 = 0 ∧
      ((t.fe.start : Int) - (s.chip.gptpNs : Int)).natAbs ≤ 5000000 ∧ t.fe.k = s.fe.k ∧ t.chip.mem = s.chip.mem)

/-- The mute and the settings of the wellhead (R335, R339, R344, R346). -/
def Obligations.MuteAndSettings : Prop := MuteStopsSamples ∧ WellheadSettingsApply

/-! ### The host ports -/

/-- No frame waits at the host ports, and one of so many bytes may start at a time from a queue of each of these: the gate of its queue stays open
for it, and its shaper has credit (R350; what the standards are left to say is presumed, log entry 187). -/
abbrev TxFree (c : Chip) (ports : List Nat) (queue bytes now : Nat) : Prop :=
  c.tx.waiting = [] ∧ ports ≠ [] ∧ ∀ p ∈ ports, maySend c p queue bytes now false = true

/-- A datagram of the device (R363) from the UDP port at a distance from NET_UDP.BASE, with the 802.1CB sequence number of its stream (R350). -/
def hostDatagram (c : Chip) (off ip udp : Nat) (payload : List Byte) : Datagram :=
  { src := getF c rUdp 0 16 + off, ip := ip, udp := udp, mac := macOf c ip, seq := (nextSeq (macOf c ip) 0 c).1, payload := payload }

/-- A datagram may leave at once by the ports of PORTS that are up. -/
abbrev DatagramFree (c : Chip) (ports : Nat) (x : Datagram) : Prop :=
  TxFree c (portsUp c ports) 0 (etherBytes (if x.seq.isSome then 6 else 0) (28 + x.payload.length)) c.gptpNs

/-- gPTP time and links (R351, R368): a Sync in lock sets the time of the package and of the island; the sixteenth in a row within 100 ns gives lock;
one more than 1 us off, and none in time, lose it with GPTP_LOST and MP_STATUS.GPTP, unless the package becomes grandmaster; one of another
domain, or at a port that is not up, is discarded; a port's link follows its level while the port is enabled. -/
def Obligations.GptpTimeAndLinks : Prop :=
  (∀ (x : SyncMsg) (s : State), portOn s.chip x.port.val = false ∨ x.domain ≠ 0 → exec (.gptpSync x) s = .next s) ∧
  (∀ (x : SyncMsg) (s : State), portOn s.chip x.port.val = true → x.domain = 0 →
    (locked s.chip = true → x.offset.natAbs ≤ 1000 → ∃ t, exec (.gptpSync x) s = .next t ∧ t.pending = s.pending ∧ t.sec = s.sec ∧ t.fe = s.fe ∧
      locked t.chip = true ∧ bit (getReg t.chip rGptp) 1 = false ∧ bit (getReg t.chip (rPort x.port.val)) 1 = true ∧ t.chip.gptpNs = x.time.toNat ∧ t.chip.aonNs = x.time.toNat ∧ t.chip.mem = s.chip.mem) ∧
    (locked s.chip = false → x.offset.natAbs ≤ 100 → s.net.good = 15 → ∃ t, exec (.gptpSync x) s = .next t ∧ t.pending = s.pending ∧
      t.sec = s.sec ∧ t.fe = s.fe ∧ locked t.chip = true ∧ t.chip.gptpNs = x.time.toNat ∧ t.chip.aonNs = x.time.toNat ∧
      t.net.good = 16 ∧ t.chip.mem = s.chip.mem) ∧
    (locked s.chip = true → 1000 < x.offset.natAbs → ∃ t, exec (.gptpSync x) s = .next t ∧ t.pending = s.pending ∧ t.sec = s.sec ∧ t.fe = s.fe ∧
      locked t.chip = false ∧ bit (getReg t.chip rStatus) 3 = true ∧ getReg t.chip rErrLast = 0x0C02 + 65536 ∧ t.net.good = 0 ∧
      t.chip.mem = s.chip.mem)) ∧
  (∀ s : State, modeOf s.chip ≤ 1 → bit (getReg s.chip rGptp) 1 = false →
    (bit (getReg s.chip rNetCfg) 4 = false → locked s.chip = true → ∃ t, exec .gptpSyncTimeout s = .next t ∧ t.pending = s.pending ∧
      t.sec = s.sec ∧ t.fe = s.fe ∧ locked t.chip = false ∧ bit (getReg t.chip rStatus) 3 = true ∧
      getReg t.chip rErrLast = 0x0C02 + 65536 ∧ t.chip.mem = s.chip.mem) ∧
    (bit (getReg s.chip rNetCfg) 4 = true → ∃ t, exec .gptpSyncTimeout s = .next t ∧ t.pending = s.pending ∧ t.sec = s.sec ∧ t.fe = s.fe ∧
      locked t.chip = true ∧ bit (getReg t.chip rGptp) 1 = true ∧ t.chip.mem = s.chip.mem)) ∧
  (∀ (p : Fin 2) (up : Bool) (s : State), modeOf s.chip ≤ 1 → (up = true → bit (getReg s.chip rNetCfg) (2 + p.val) = true) →
    ∃ t, exec (.ethLinkChange p up) s = .next t ∧ sameRest s t ∧ getF t.chip (rPort p.val) 0 1 = b2n up ∧ t.chip.mem = s.chip.mem ∧
      (∀ off, off ≠ rPort p.val → getReg t.chip off = getReg s.chip off))

/-- A frame that its port takes for this package and that neither the stream filters nor sequence recovery discard (R349, R350); what the tables
mean beyond the spec's words is presumed from the standards (log entry 153). -/
def Accepted (f : EthFrame) (s : State) : Prop :=
  portOn s.chip f.port.val = true ∧ frameOk s.net f = true ∧ (filterFrame f s.dev).1 = true ∧
    (recoverFrame f (filterFrame f s.dev).2).1 = .passed

/-- Queue, security engine and wellhead are as they were. -/
def SamePorts (s t : State) : Prop := t.pending = s.pending ∧ t.sec = s.sec ∧ t.fe = s.fe

/-- Listener streams (R349, R350, R358 to R360): a frame that is not for this package, or comes where the port is not up, is discarded; a packet that
the stream filters drop (a service data unit above the entry's limit, a closed gate, a meter's mark), a replica that is eliminated, and one of a stream
without an entry are counted; an accepted one of one channel and one sample opens the frame of its presentation time, whose record begins with VALID 0, and is counted in
AVTP_LATE where that frame's close time has passed; a frame that closes has its header and samples written, and a sample that never came counts as
LOSS. An ARP request for this package's address and an ICMP echo request to it, accepted, are answered at their port, and ARP's sender is kept; what
those packets hold is presumed from RFC 826 and RFC 792 (log entry 186). -/
def ListenerFrames : Prop :=
  (∀ (x : AvtpPacket) (s : State),
    (portOn s.chip x.frame.port.val = false ∨ frameOk s.net x.frame = false → exec (.avtpReceive (.avtp x)) s = .next s) ∧
    (∀ i w : Nat, portOn s.chip x.frame.port.val = true → frameOk s.net x.frame = true →
      streamEntry s.chip (tsnBase x.frame.port.val + 0x1000) x.frame.dst.toNat (vidOf x.frame) = some i →
      w = getReg s.chip (tsnBase x.frame.port.val + 0x1008 + 16 * i) →
      (fld w 16 14 < x.frame.sdu ∨ gateOpen s.chip x.frame.port.val (fld w 0 6) = false ∨
        (fld w 8 6 < 32 ∧ ∃ y m, meterFrame (tsnWord s.chip (tsnBase x.frame.port.val + 0x1400 + 32 * fld w 8 6))
          (tsnWord s.chip (tsnBase x.frame.port.val + 0x1408 + 32 * fld w 8 6)) (getReg s.chip (tsnBase x.frame.port.val + 0x1410 + 32 * fld w 8 6))
          s.chip.gptpNs x.frame.bytes (tabFind s.net.meters (32 * x.frame.port.val + fld w 8 6)) = (y, m) ∧
          (y = .red ∨ (y = .yellow ∧ bit (getReg s.chip (tsnBase x.frame.port.val + 0x1410 + 32 * fld w 8 6)) 1 = true)))) →
      ∃ t, exec (.avtpReceive (.avtp x)) s = .next t ∧ SamePorts s t ∧ t.net.slots = s.net.slots ∧ t.chip.mem = s.chip.mem ∧
        getReg t.chip (rNetCtr 8) = (getReg s.chip (rNetCtr 8) + 1) % 2 ^ 32) ∧
    (∀ (i : Nat) (n : BitVec 16) (r : Recovery), portOn s.chip x.frame.port.val = true → frameOk s.net x.frame = true →
      (filterFrame x.frame s.dev).1 = true → streamEntry s.chip 0x3C400 x.frame.dst.toNat (vidOf x.frame) = some i → x.frame.seq = some n →
      tabFind s.net.recovery i = some r → n.toNat ≤ r.top → r.top < n.toNat + 32 → r.top < 2 ^ 16 → r.seen.getD (r.top - n.toNat) false = true →
      ∃ t, exec (.avtpReceive (.avtp x)) s = .next t ∧ SamePorts s t ∧ t.net.slots = s.net.slots ∧ t.chip.mem = s.chip.mem ∧
        getReg t.chip (rNetCtr 9) = (getReg s.chip (rNetCtr 9) + 1) % 2 ^ 32) ∧
    (Accepted x.frame s → (listenerOf s.chip x.streamId.toNat = none ∨
        ∃ w, listenerOf s.chip x.streamId.toNat = some w ∧ (packetBad x = true ∨ listenBad w x = true)) →
      ∃ t, exec (.avtpReceive (.avtp x)) s = .next t ∧ SamePorts s t ∧ t.net.slots = s.net.slots ∧
        t.chip.mem = s.chip.mem ∧ getReg t.chip (rNetCtr 0) = (getReg s.chip (rNetCtr 0) + 1) % 2 ^ 32) ∧
    (∀ (w : List Nat) (v : Int) (slot n k : Nat) (high : Bool), Accepted x.frame s → listenerOf s.chip x.streamId.toNat = some w →
      packetBad x = false → listenBad w x = false → x.ch = 1 → x.samples = [[v]] → slot = fld (w.getD 1 0) 16 9 →
      high = bit (w.getD 1 0) 5 → tabFind s.net.slots slot = none →
      n = roundDiv (fullTime s.chip.gptpNs x.timestamp.toNat * (if high then 48000 else 16000)) 1000000000 → k = n / frameLen high →
      (10000000 * (k + 1) + 100000 * getF s.chip rNetCfg 13 6 ≤ s.chip.gptpNs →
        ∃ t, exec (.avtpReceive (.avtp x)) s = .next t ∧ SamePorts s t ∧ t.chip.mem = s.chip.mem ∧
          getReg t.chip (rNetCtr 1) = (getReg s.chip (rNetCtr 1) + 1) % 2 ^ 32) ∧
      (s.chip.gptpNs < 10000000 * (k + 1) + 100000 * getF s.chip rNetCfg 13 6 → ∃ t q, exec (.avtpReceive (.avtp x)) s = .next t ∧ t.pending = s.pending ∧ t.sec = s.sec ∧ t.fe = s.fe ∧ tabFind t.net.slots slot = some q ∧
        q.rate48 = high ∧ q.frames =
          [{ k := k, got := [(n % frameLen high, (listenerSample x.fmt.toNat high v).1)], clip := (listenerSample x.fmt.toNat high v).2 }] ∧
        t.chip.mem = memWriteN s.chip.mem (sys s.chip (slotAddr high slot k)) (leBytes 4 (slotWord high slot 0) ++ leBytes 4 k)))) ∧
  (∀ (x : ArpPacket) (s : State), Accepted x.frame s → x.op = 1 → x.targetIp.toNat = getReg s.chip 0x31008 →
    TxFree s.chip [x.frame.port.val] 0 64 s.chip.gptpNs →
    ∃ t, exec (.avtpReceive (.arp x)) s = .next t ∧ SamePorts s t ∧ t.chip.mem = s.chip.mem ∧ t.chip.regs = s.chip.regs ∧
      t.chip.out = .arp x.frame.port.val x.targetIp.toNat x.senderMac.toNat :: s.chip.out ∧ macOf t.chip x.senderIp.toNat = x.senderMac.toNat) ∧
  (∀ (x : EchoRequest) (s : State), Accepted x.frame s → x.fragment = false → x.dstIp.toNat = getReg s.chip 0x31008 →
    TxFree s.chip [x.frame.port.val] 0 (etherBytes 0 (28 + x.data.length)) s.chip.gptpNs →
    ∃ t, exec (.avtpReceive (.echo x)) s = .next t ∧ SamePorts s t ∧ t.chip.mem = s.chip.mem ∧ t.chip.regs = s.chip.regs ∧
      t.chip.out = .echo x.frame.port.val x.srcMac.toNat x.srcIp.toNat x.ident.toNat x.seq.toNat x.data :: s.chip.out) ∧
  (∀ (slot : Fin 512) (k : BitVec 32) (s : State) (q : RxSlot) (f : RxFrame), modeOf s.chip ≤ 1 → tabFind s.net.slots slot.val = some q →
    closing q k.toNat = some f → ∃ t r, exec (.listenerFrameClose slot k) s = .next t ∧ t.pending = s.pending ∧ t.sec = s.sec ∧ t.fe = s.fe ∧
      tabFind t.net.slots slot.val = some r ∧ r.last = some f.k ∧ (∀ g ∈ r.frames, g.k ≠ f.k) ∧
      t.chip.mem = memWriteN s.chip.mem (sys s.chip (slotAddr q.rate48 slot.val f.k))
        (frameHead (slotWord q.rate48 slot.val (0x40 + b2n (!locked s.chip) * 0x100 + b2n f.clip * 0x200 + b2n q.gap * 0x400 +
          b2n (decide (f.got.length < frameLen q.rate48)) * 0x400000)) f.k (10000000 * f.k) ++
          sampleBytes q.rate48 ((List.range (frameLen q.rate48)).map (fun i => tabGet 0 f.got i))) ∧
      getReg t.chip (rNetCtr 3) = (getReg s.chip (rNetCtr 3) + b2n (decide (f.got.length < frameLen q.rate48))) % 2 ^ 32)

/-- Talkers and results (R350, R361, R362, R364, R425): a unit that is the one due is kept with its samples, and one that is not, or is of a contained
job, is sent as zeros and counted; a packet leaves at its first sample's time on the ports that are up, with its stream's identity, format and time, marked while its tick is
tentative, and not at all once that time has passed, what is left of a unit being sent as zeros once its job is contained; the records of one job at the ring's tail leave in one RESULT datagram and the tail moves
past them, and those of a contained job are dropped and counted. -/
def TalkersAndResultsLeave : Prop :=
  (∀ (a : Fin 2048) (n : BitVec 32) (s : State) (w : List Nat) (c : Chip) (bs : List Byte) (e size : Nat), modeOf s.chip ≤ 1 →
    talkerOf s.chip a.val = some w → e = w.getD 1 0 → size = roundUp (64 + fld e 1 4 * unitLen e * (if bit e 5 then 4 else 2)) 64 →
    runHub hubMaster (.unit (2 + a.val)) (readAny 0 (fld (w.getD 3 0) 0 48 + n.toNat % 64 * size) size) s.chip = (c, .done bs) →
    (numAt bs 0 4 = n.toNat → bit (numAt bs 4 4) 0 = true → talkerHeld c w = false → ∃ t u, exec (.talkerUnitRead a n) s = .next t ∧ t.pending = s.pending ∧
      t.sec = s.sec ∧ t.fe = s.fe ∧ t.chip.mem = c.mem ∧ t.chip.out = c.out ∧ getReg t.chip (rNetCtr 4) = getReg c (rNetCtr 4) ∧
      tabFind t.net.units (2 * a.val + n.toNat % 2) = some u ∧ u.zero = false ∧
      u.tick = numAt bs 8 4 ∧ u.words = w ∧ u.samples = unitSamples e (bs.drop 64) ∧
      (tabFind s.net.units (2 * a.val + n.toNat % 2) = none → u.next = 0) ∧
      (∀ v, tabFind s.net.units (2 * a.val + n.toNat % 2) = some v → v.n = u.n → u.next = v.next)) ∧
    (numAt bs 0 4 ≠ n.toNat ∨ bit (numAt bs 4 4) 0 = false ∨ talkerHeld c w = true → ∃ t u, exec (.talkerUnitRead a n) s = .next t ∧ t.pending = s.pending ∧ t.sec = s.sec ∧ t.fe = s.fe ∧
      t.chip.mem = c.mem ∧ getReg t.chip (rNetCtr 4) = (getReg c (rNetCtr 4) + 1) % 2 ^ 32 ∧
      tabFind t.net.units (2 * a.val + n.toNat % 2) = some u ∧ u.zero = true ∧
      u.samples = List.replicate (unitLen e) (List.replicate (fld e 1 4) 0))) ∧
  (∀ (a : Fin 2048) (k i e len : Nat) (s : State) (u : TxUnit) (ports : List Nat) (seq : Option Nat), modeOf s.chip ≤ 1 →
    unitDue s.net a.val k = some (i, u) → e = u.words.getD 1 0 → len = packetLen e → ports = portsUp s.chip (fld e 9 2) →
    seq = (nextSeq (fld (u.words.getD 2 0) 0 48) (fld e 14 12) s.chip).1 →
    (packetTime u k < s.chip.gptpNs → talkerHeld s.chip u.words = false ∨ u.zero = true →
      exec (.talkerPacketSend a k) s = .next { s with net := { s.net with units := tabSet s.net.units i { u with next := k + 1 } } }) ∧
    (s.chip.gptpNs ≤ packetTime u k → TxFree s.chip ports (fld e 11 3)
        (etherBytes (if seq.isSome then 10 else 4) (24 + len * fld e 1 4 * (if bit e 5 then (if bit e 6 then 4 else 3) else 2))) (packetTime u k) →
      (∀ y ∈ u.samples, y.length = fld e 1 4) →
      (talkerHeld s.chip u.words = true → u.zero = false → u.samples.length = unitLen e →
        ∃ t x, exec (.talkerPacketSend a k) s = .next t ∧ SamePorts s t ∧ t.chip.mem = s.chip.mem ∧
          getReg t.chip (rNetCtr 4) = (getReg s.chip (rNetCtr 4) + 1) % 2 ^ 32 ∧ t.chip.out = .avtp ports x :: s.chip.out ∧
          x.samples = List.replicate len (List.replicate (fld e 1 4) 0) ∧
          t.net.units = tabSet s.net.units i { u with zero := true, samples := zeroUnit e, next := k + 1 }) ∧
      (talkerHeld s.chip u.words = false ∨ u.zero = true →
        ∃ t x, exec (.talkerPacketSend a k) s = .next t ∧ SamePorts s t ∧ t.chip.mem = s.chip.mem ∧ t.chip.regs = s.chip.regs ∧
          t.chip.out = .avtp ports x :: s.chip.out ∧ x.talker = a.val ∧ x.streamId = u.words.getD 0 0 ∧ x.mac = fld (u.words.getD 2 0) 0 48 ∧
          x.vid = fld e 14 12 ∧ x.pcp = fld e 11 3 ∧ x.fmt = (if bit e 5 then (if bit e 6 then 2 else 1) else 0) ∧ x.rate48 = bit e 5 ∧ x.seq = seq ∧
          x.time = 20000000 * u.n + k * len * 1000000000 / (if bit e 5 then 48000 else 16000) + fld e 32 32 ∧
          x.mark = tentative s.chip (fld (u.words.getD 2 0) 48 16) u.tick ∧ x.samples = (u.samples.drop (k * len)).take len ∧
          t.net.units = tabSet s.net.units i { u with next := k + 1 }))) ∧
  (∀ (s : State) (tail size count j : Nat) (rs : List (List Byte)) (c : Chip), modeOf s.chip ≤ 1 →
    size = 2 ^ getF s.chip 0x3101C 16 5 → count = (getReg s.chip rResHead + 2 ^ 32 - getReg s.chip rResTail) % 2 ^ 32 → count ≠ 0 →
    tail = getReg s.chip rResTail + (count - size) →
    runHub hubMaster (.unit 0) (resultRun tail (min count size)) s.chip = (c, .done (j, rs)) → c.commits = [] → j < 256 →
    (∀ (ports ip udp : Nat) (x : Datagram), (jobRc c j).contained = false → jobDest c j = some (ports, ip, udp) →
      x = hostDatagram c 0 ip udp (udpPayload c 0 j (tabGet 0 c.seqs j) rs.length (rs.flatMap (resultOut c j))) → DatagramFree c ports x →
      ∃ t, exec .resultDatagramSend s = .next t ∧ sameRest s t ∧ t.chip.mem = c.mem ∧
        t.chip.out = .datagram (portsUp c ports) x :: c.out ∧ getReg t.chip rResTail = (tail + rs.length) % 2 ^ 32) ∧
    ((jobRc c j).contained = true ∨ jobDest c j = none →
      ∃ t, exec .resultDatagramSend s = .next t ∧ sameRest s t ∧ t.chip.mem = c.mem ∧ t.chip.out = c.out ∧
        getReg t.chip (rNetCtr 5) = (getReg c (rNetCtr 5) + rs.length) % 2 ^ 32 ∧ getReg t.chip rResTail = (tail + rs.length) % 2 ^ 32))

/-- Listener streams, talkers and results (R350, R358 to R362, R364). -/
def Obligations.StreamsAndResults : Prop := ListenerFrames ∧ TalkersAndResultsLeave

/-- WDATA and WACK (R349, R363, R366): bytes in the window that fit the flash are given to it and wait for its answer; bytes outside the window are
refused with NET_WINDOW in a WACK; a datagram that the port does not take changes nothing, and one that is a fragment, is from or for another address
or has a malformed header changes nothing beyond the port's filters; once the flash has answered, the WACK carries its code. -/
def IngestAnswersEachDatagram : Prop :=
  (∀ (x : WDatagram) (s : State), (portOn s.chip x.udp.frame.port.val = false ∨ frameOk s.net x.udp.frame = false) → exec (.wdata x) s = .next s) ∧
  (∀ (x : WDatagram) (s : State), Accepted x.udp.frame s → hostBad s.chip 1 2 x.udp = true →
    ∃ t, exec (.wdata x) s = .next t ∧ SamePorts s t ∧ t.chip = s.chip ∧ t.net.wdata = s.net.wdata) ∧
  (∀ (x : WDatagram) (s : State), Accepted x.udp.frame s → hostBad s.chip 1 2 x.udp = false → x.reserved = false → x.data.length % 64 = 0 →
    0 < x.data.length → x.data.length ≤ 8192 → x.offset.toNat % 64 = 0 → s.net.wdata.length < 64 →
    (getF s.chip rWwin 0 14 * 2 ^ 30 ≤ x.offset.toNat →
      x.offset.toNat + x.data.length ≤ (getF s.chip rWwin 0 14 + getF s.chip rWwin 14 14) * 2 ^ 30 →
      x.offset.toNat + x.data.length ≤ getF s.chip rFlStatus 0 14 * 2 ^ 30 → bit (getReg s.chip rFlStatus) 15 = false →
      ∃ t, exec (.wdata x) s = .next t ∧ t.pending = s.pending ∧ t.sec = s.sec ∧ t.fe = s.fe ∧ t.chip.mem = s.chip.mem ∧
        t.chip.regs = s.chip.regs ∧ t.chip.flash.bytes = s.chip.flash.bytes ∧
        t.chip.flash.writes = s.chip.flash.writes ++ [(.wdata, pkg s.chip * 2 ^ 44 + x.offset.toNat, x.data)] ∧
        t.net.wdata = s.net.wdata ++
          [{ addr := pkg s.chip * 2 ^ 44 + x.offset.toNat, xfer := x.xfer.toNat, offset := x.offset.toNat, seq := x.udp.seq.toNat }]) ∧
    (∀ y : Datagram, x.offset.toNat < getF s.chip rWwin 0 14 * 2 ^ 30 →
      y = hostDatagram s.chip 1 (getReg s.chip rHostIp) (getF s.chip rUdp 0 16 + 1) (udpPayload s.chip 3 0 x.udp.seq.toNat 0
        (leBytes 4 x.xfer.toNat ++ leBytes 8 x.offset.toNat ++ leBytes 2 0x0D05)) → DatagramFree s.chip 2 y →
      ∃ t, exec (.wdata x) s = .next t ∧ SamePorts s t ∧ t.chip.mem = s.chip.mem ∧ t.chip.flash = s.chip.flash ∧ t.net.wdata = s.net.wdata ∧
        getReg t.chip rErrLast = 0x0D05 + 65536 ∧ t.chip.out = .datagram (portsUp s.chip 2) y :: s.chip.out)) ∧
  (∀ (i code : Nat) (s : State) (w : Ingest) (c : Chip) (y : Datagram), s.net.wdata[i]? = some w → takeAnswerOf w.addr s.chip = (some code, c) →
    y = hostDatagram s.chip 1 (getReg s.chip rHostIp) (getF s.chip rUdp 0 16 + 1) (udpPayload s.chip 3 0 w.seq 0
      (leBytes 4 w.xfer ++ leBytes 8 w.offset ++ leBytes 2 code)) → DatagramFree s.chip 2 y →
    ∃ t, exec (.wack i) s = .next t ∧ t.pending = s.pending ∧ t.sec = s.sec ∧ t.fe = s.fe ∧ t.net.wdata = s.net.wdata.eraseIdx i ∧
      t.chip.mem = s.chip.mem ∧ t.chip.regs = s.chip.regs ∧
      t.chip.out = .datagram (portsUp s.chip 2) y :: s.chip.out)

/-- The datagram that answers a control request (R367). -/
def ctrlAnswer (c : Chip) (x : CtrlRequest) (data code : Nat) : Datagram :=
  hostDatagram c (2 + b2n x.chB) (getReg c rHostIp) (getF c rUdp 0 16 + (2 + b2n x.chB))
    (udpPayload c 5 0 x.udp.seq.toNat 0 (leBytes 4 data ++ leBytes 2 code))

/-- Control requests (R363, R367): a read of a register of the hub's tables answers its value; a request with the SEQ served last is
counted in CTRL_DUP and answered as before, with no access; one with a reserved operation, or an address that is not a multiple of 4, is refused; and
one that the port does not take, or whose datagram is not for the device, gets no answer (R349). -/
def ControlRequestsAreAnswered : Prop :=
  (∀ (x : CtrlRequest) (s : State), (portOn s.chip x.udp.frame.port.val = false ∨ frameOk s.net x.udp.frame = false) →
    exec (.ctrlReq x) s = .next s) ∧
  (∀ (x : CtrlRequest) (s : State), Accepted x.udp.frame s → hostBad s.chip (2 + b2n x.chB) 4 x.udp = true →
    ∃ t, exec (.ctrlReq x) s = .next t ∧ SamePorts s t ∧ t.chip = s.chip) ∧
  (∀ (x : CtrlRequest) (s : State), Accepted x.udp.frame s → hostBad s.chip (2 + b2n x.chB) 4 x.udp = false →
    DatagramFree s.chip 2 (ctrlAnswer s.chip x 0 0) →
    (∀ off : Nat, (ctlOf s.chip x.chB).seq ≠ some x.udp.seq.toNat → x.op = 0 → x.addr.toNat = sys s.chip (hubBase + off) →
      (off = rCxCfg ∨ off = rThCfg ∨ off = rBudget ∨ off = rNetCfg) →
      ∃ t, exec (.ctrlReq x) s = .next t ∧ SamePorts s t ∧ t.chip.mem = s.chip.mem ∧ t.chip.regs = s.chip.regs ∧
        t.chip.out = .datagram (portsUp s.chip 2) (ctrlAnswer s.chip x (getReg s.chip off) 0) :: s.chip.out ∧ (ctlOf t.chip x.chB).seq = some x.udp.seq.toNat) ∧
    (∀ data code : Nat, ctlOf s.chip x.chB = { seq := some x.udp.seq.toNat, answer := some (data, code) } →
      ∃ t, exec (.ctrlReq x) s = .next t ∧ SamePorts s t ∧ t.chip.mem = s.chip.mem ∧
        getReg t.chip (rNetCtr 7) = (getReg s.chip (rNetCtr 7) + 1) % 2 ^ 32 ∧ t.chip.out = .datagram (portsUp s.chip 2) (ctrlAnswer s.chip x data code) :: s.chip.out) ∧
    ((ctlOf s.chip x.chB).seq ≠ some x.udp.seq.toNat → 1 < x.op.toNat →
      ∃ t, exec (.ctrlReq x) s = .next t ∧ SamePorts s t ∧ t.chip.mem = s.chip.mem ∧ t.chip.out = .datagram (portsUp s.chip 2) (ctrlAnswer s.chip x 0 0x0E07) :: s.chip.out) ∧
    ((ctlOf s.chip x.chB).seq ≠ some x.udp.seq.toNat → x.op.toNat ≤ 1 → x.addr.toNat % 4 ≠ 0 →
      ∃ t, exec (.ctrlReq x) s = .next t ∧ SamePorts s t ∧ t.chip.mem = s.chip.mem ∧ t.chip.out = .datagram (portsUp s.chip 2) (ctrlAnswer s.chip x 0 0x0E08) :: s.chip.out))

/-- Ingest and control datagrams of the host (R363, R366, R367). -/
def Obligations.DatagramsAreAnswered : Prop := IngestAnswersEachDatagram ∧ ControlRequestsAreAnswered

/-! ### The management port, the indirect window and the mailboxes -/

/-- The response of the management port (R372, R373). -/
def portAnswer (status index data : Nat) : Emit := .port status index data (crc8 (frameBytes status index data))

/-- The management port (R371 to R374, R378). Outside always-on reset, a frame whose CRC matches is served: MP_SCRATCH reads back what was written, a
reserved command answers CMD and a reserved index INDEX; a frame whose CRC does not match answers CRC, is counted and does nothing; a
frame that ends early is counted. ER_DATA gives the words of a record in turn. That the port is silent in always-on reset is the model's
reading (log entry 130). -/
def PortAnswersFrames : Prop :=
  (∀ (f : PortFrame) (s : State), s.chip.power.aonHeld = false →
    (crc8 (frameBytes f.cmd.toNat f.index.toNat f.data.toNat) = f.crc.toNat →
      (f.cmd = 0xA5 → f.index = 11 →
        exec (.read f) s = .next (s.withChip (emit (portAnswer 0 11 (getReg s.chip 0x2C)) s.chip))) ∧
      (f.cmd = 0x5A → f.index = 11 → ∃ t, exec (.mpWrite f) s = .next t ∧ sameRest s t ∧ getReg t.chip 0x2C = f.data.toNat ∧
        t.chip.out = portAnswer 0 11 f.data.toNat :: s.chip.out ∧ t.chip.mem = s.chip.mem ∧
        (∀ off, off ≠ 0x2C → getReg t.chip off = getReg s.chip off)) ∧
      (f.cmd ≠ 0xA5 → f.cmd ≠ 0x5A →
        exec (.mpWrite f) s = .next (s.withChip (emit (portAnswer 2 f.index.toNat 0) s.chip))) ∧
      (f.cmd = 0xA5 → 0x40 ≤ f.index.toNat → exec (.read f) s = .next (s.withChip (emit (portAnswer 3 f.index.toNat 0) s.chip)))) ∧
    (crc8 (frameBytes f.cmd.toNat f.index.toNat f.data.toNat) ≠ f.crc.toNat →
      ∃ t, exec (.mpWrite f) s = .next t ∧ sameRest s t ∧ t.chip.out = portAnswer 1 f.index.toNat 0 :: s.chip.out ∧ t.chip.mem = s.chip.mem ∧
        getF t.chip rCount 0 16 = (getF s.chip rCount 0 16 + 1) % 65536 ∧ (∀ off, off ≠ rCount → getReg t.chip off = getReg s.chip off)) ∧
    (∃ t, exec (.frameAbort f false) s = .next t ∧ sameRest s t ∧ t.chip.out = s.chip.out ∧ t.chip.mem = s.chip.mem ∧
      getF t.chip rCount 16 16 = (getF s.chip rCount 16 16 + 1) % 65536 ∧ (∀ off, off ≠ rCount → getReg t.chip off = getReg s.chip off))) ∧
  (∀ (f : PortFrame) (s : State), s.chip.power.aonHeld = true → exec (.read f) s = .next s ∧ exec (.mpWrite f) s = .next s) ∧
  (∀ (s : State) (n w : Nat) (latch : List Nat), s.chip.power.aonHeld = false → n = getF s.chip rErPtr 0 12 → w = getF s.chip rErPtr 12 4 →
    latch = (if w = 0 then ((tabFind s.chip.recorder.ring n).map (·.w)).getD [] else s.chip.recorder.latch) →
    ∃ t, exec .erDataRead s = .next t ∧ sameRest s t ∧ t.chip.out = .bus 0 (latch.getD w 0) 0 :: s.chip.out ∧ t.chip.recorder.latch = latch ∧
      getF t.chip rErPtr 12 4 = (w + 1) % 16 ∧ getF t.chip rErPtr 0 12 = (n + w / 15) % 4096 ∧ t.chip.recorder.ring = s.chip.recorder.ring ∧
      t.chip.mem = s.chip.mem)

/-- The address that the indirect window names. -/
def windowAddr (c : Chip) : Nat := getReg c rIwLo + fld (getReg c rIwHi) 0 16 * 2 ^ 32

/-- The indirect window (R379, R380). An access of powered memory of this package that holds no error ends at once: a read gives its word in IW_DATA, a
write stores the bytes enabled, and with INC the address moves on by 4. An address that is not a multiple of 4 is refused with IW_ALIGN; an
access under way that gets no answer ends with IW_TIMEOUT. -/
def WindowAccessesMemory : Prop :=
  (∀ (inc : Bool) (s : State) (a : Nat), s.chip.power.aonHeld = false → s.chip.window.busy = false → a = windowAddr s.chip →
    (a % 4 = 0 → pkgOf a = pkg s.chip → locOf a < hubBase → memOn s.chip = true → backed a 4 = true → s.chip.ecc = [] →
      (∃ t, exec (.iwRead inc) s = .next t ∧ sameRest s t ∧ WindowEnded s.chip t.chip 0 ∧
        getReg t.chip rIwData = leNat (memReadN s.chip.mem a 4) ∧ windowAddr t.chip = (if inc then (a + 4) % 2 ^ 48 else a)) ∧
      (∀ be : BitVec 4, be ≠ 0 → ∃ t, exec (.iwWrite be inc) s = .next t ∧ sameRest s t ∧ t.chip.window = {} ∧
        getF t.chip rIwCtrl 16 16 = 0 ∧ bit (getReg t.chip rStatus) 8 = true ∧ getReg t.chip rIwData = getReg s.chip rIwData ∧
        t.chip.mem = (enabledBytes be.toNat (getReg s.chip rIwData)).foldl (fun m p => memWriteN m (a + p.1) [p.2]) s.chip.mem ∧
        windowAddr t.chip = (if inc then (a + 4) % 2 ^ 48 else a))) ∧
    (a % 4 ≠ 0 → ∃ t, exec (.iwRead inc) s = .next t ∧ sameRest s t ∧ WindowEnded s.chip t.chip 0x0E08 ∧
      getReg t.chip rIwData = getReg s.chip rIwData)) ∧
  (∀ s : State, s.chip.window.busy = true → ∃ t, exec .iwTimeout s = .next t ∧ sameRest s t ∧ WindowEnded s.chip t.chip 0x0E09 ∧
    getReg t.chip rIwData = getReg s.chip rIwData)

/-- The management port and the indirect window (R371 to R374, R378 to R380). -/
def Obligations.PortAndWindow : Prop := PortAnswersFrames ∧ WindowAccessesMemory

/-- MB_FULL of a channel (R383). -/
def fullBit (c : Chip) (ch : Fin 64) : Bool := bit (getReg c (0x40 + 4 * (ch.val / 32))) (ch.val % 32)

/-- The answer to a mailbox access of `m` (R385, R386, R390): its value and its code go to the master, a refusal with its report, or to the
package of master 0x40 + p in a MSG. -/
def mboxReply (m : Master) (op : MbOp) (ch : Fin 64) (data code : Nat) (c : Chip) : Chip :=
  if 0x40 ≤ m.toNat then sendHub (m.toNat - 0x40) (.mailboxAnswer op ch.val data code) c
  else emit (.bus m data code) (reportAccess code 0x27 c)

/-- A mailbox access of `m` is refused with a code: it returns 0, and nothing changes but MB_ERR, which names the access, and what the
answer and the report of the refusal write (R385, R423). -/
def mboxRefusal (s : State) (m : Master) (op : MbOp) (ch : Fin 64) (code : Nat) : State :=
  s.withChip (mboxReply m op ch 0 code (putReg s.chip rMbErr (code + ch.val * 65536 + m.toNat * 2 ^ 24)))

/-- Channel `ch` has become `x`, its bit of MB_FULL with it, and nothing else of the package has changed. -/
abbrev ChannelBecame (c d : Chip) (ch : Fin 64) (x : Mbox) : Prop :=
  d.mbox[ch] = x ∧ fullBit d ch = x.full ∧ d.out = c.out ∧ d.mem = c.mem ∧ d.basins = c.basins ∧
    (∀ off, off ≠ 0x40 + 4 * (ch.val / 32) → getReg d off = getReg c off) ∧
    ∀ n : Fin 64, n ≠ ch → d.mbox[n] = c.mbox[n] ∧ fullBit d n = fullBit c n

/-- A write of DATA by a master that is not dead itself, outside always-on reset (R385): in this order, MB_DENIED where the channel is not VALID
or the master is not its SENDER, MB_FULL, MB_DOMAIN_OFF, and otherwise DATA takes the word and FULL becomes 1. A refused write changes nothing
but MB_ERR. -/
def Obligations.MailboxWriteFollowsChecks : Prop :=
  ∀ (m : Master) (ch : Fin 64) (v : BitVec 32) (s : State) (x : Mbox), s.chip.mbox[ch] = x → deadMaster s.chip m = false →
    s.chip.power.aonHeld = false →
    ((x.valid = false ∨ x.sender ≠ m) → exec (.mbDataWrite m ⟨ch, .here⟩ v) s = .next (mboxRefusal s m .write ch 0x0E03)) ∧
    (x.valid = true → x.sender = m → x.full = true → exec (.mbDataWrite m ⟨ch, .here⟩ v) s = .next (mboxRefusal s m .write ch 0x0E01)) ∧
    (x.valid = true → x.sender = m → x.full = false → deadMaster s.chip x.receiver = true →
      exec (.mbDataWrite m ⟨ch, .here⟩ v) s = .next (mboxRefusal s m .write ch 0x0E02)) ∧
    (x.valid = true → x.sender = m → x.full = false → deadMaster s.chip x.receiver = false →
      ∃ c, exec (.mbDataWrite m ⟨ch, .here⟩ v) s = .next (s.withChip (mboxReply m .write ch 0 0 c)) ∧
        ChannelBecame s.chip c ch { x with data := v, full := true })

/-- A read of DATA, and who may poll (R386), for a master that is not dead itself, outside always-on reset: the receiver of a full channel gets
its word and empties it; of an empty one it is refused with MB_EMPTY, returns 0 and changes nothing; any other master is refused with
MB_DENIED. A word of a fenced package stays and is refused with MB_DOMAIN_OFF (R391). A bound master's poll of its channel, and any poll of
masters 0x00 and 0x01, returns the channel's status word. -/
def Obligations.MailboxReadTakesWord : Prop :=
  ∀ (m : Master) (ch : Fin 64) (s : State) (x : Mbox), s.chip.mbox[ch] = x → deadMaster s.chip m = false → s.chip.power.aonHeld = false →
    (x.valid = true → x.receiver = m → fencedPeer s.chip x.sender = false → x.full = true →
      ∃ c, exec (.mbDataRead m ⟨ch, .here⟩) s = .next (s.withChip (mboxReply m .read ch x.data.toNat 0 c)) ∧
        ChannelBecame s.chip c ch { x with full := false }) ∧
    (x.valid = true → x.receiver = m → fencedPeer s.chip x.sender = false → x.full = false →
      exec (.mbDataRead m ⟨ch, .here⟩) s = .next (mboxRefusal s m .read ch 0x0E04)) ∧
    (x.valid = true → x.receiver = m → fencedPeer s.chip x.sender = true →
      exec (.mbDataRead m ⟨ch, .here⟩) s = .next (mboxRefusal s m .read ch 0x0E02)) ∧
    ((x.valid = false ∨ x.receiver ≠ m) → exec (.mbDataRead m ⟨ch, .here⟩) s = .next (mboxRefusal s m .read ch 0x0E03)) ∧
    ((x.valid = true ∧ (x.sender = m ∨ x.receiver = m)) ∨ m.toNat ≤ 1 →
      ∃ code c, code ≠ 0x0E03 ∧ exec (.statusPoll m ⟨ch, .here⟩) s = .next (s.withChip (mboxReply m .poll ch (mbWord s.chip m ch) code c)) ∧
        c.mbox = s.chip.mbox ∧ c.mem = s.chip.mem)

/-- Polls and TAKE (R387, R388): the poll of a bound master whose peer lives only answers; one whose peer is dead answers the word with
MB_DOMAIN_OFF; TAKE empties a channel whose receiver is the management port and selects it. -/
def PollsAndTake : Prop :=
  ∀ (m : Master) (ch : Fin 64) (s : State) (x : Mbox), s.chip.mbox[ch] = x → x.valid = true → deadMaster s.chip m = false →
    s.chip.power.aonHeld = false →
    (x.sender = m → deadMaster s.chip x.receiver = false →
      exec (.statusPoll m ⟨ch, .here⟩) s = .next (s.withChip (mboxReply m .poll ch (mbWord s.chip m ch) 0 s.chip))) ∧
    (x.sender = m → deadMaster s.chip x.receiver = true →
      exec (.statusPoll m ⟨ch, .here⟩) s = .next (s.withChip (mboxReply m .poll ch (mbWord s.chip m ch) 0x0E02
        (putReg s.chip rMbErr (0x0E02 + ch.val * 65536 + m.toNat * 2 ^ 24))))) ∧
    (x.receiver = 0 → x.full = true → fencedPeer s.chip x.sender = false → ∃ t, exec (.take ch) s = .next t ∧ sameRest s t ∧
      t.chip.mbox[ch] = { x with full := false } ∧ fullBit t.chip ch = false ∧ getF t.chip rMbSel 0 6 = ch.val ∧ t.chip.mem = s.chip.mem)

/-- The row of a mailbox access: write, read or poll. -/
def mbRow (op : MbOp) (m : Master) (x : MbChan) (v : BitVec 32) : Instr :=
  match op with
  | .write => .mbDataWrite m x v
  | .read => .mbDataRead m x
  | .poll => .statusPoll m x

/-- Mailbox channels of other packages (R390). An access of the management core to a channel of another package that can be reached leaves in a
MSG, and the MSG that answers it gives its master the word and the code; where that package is fenced it ends with FAB_FENCED, and an access of
any other master is refused with HUB_DENIED. A MSG that answers no access under way changes nothing. -/
def FarMailboxes : Prop :=
  ∀ (op : MbOp) (p : Pkg) (ch : Fin 64) (v : BitVec 32) (s : State), s.chip.power.aonHeld = false →
    (op ≠ .write → v = 0) →
    (∀ l : Fin 12, p.toNat ≠ pkg s.chip → hubOn s.chip = true → fenced s.chip p.toNat = false →
      (nextHop s.chip p.toNat).bind (fun h => bindLink s.chip h.1) = some l →
      exec (mbRow op 1 ⟨ch, .out p⟩ v) s = .next (s.withChip (sendHub p.toNat (.mailbox op ch.val v.toNat)
        { s.chip with fab := { s.chip.fab with mails := s.chip.fab.mails ++ [(op, p, ch)] } }))) ∧
    (p.toNat ≠ pkg s.chip → hubOn s.chip = true → fenced s.chip p.toNat = true →
      exec (mbRow op 1 ⟨ch, .out p⟩ v) s = .next (s.withChip (emit (.bus 1 0 0x0B01) (reportAccess 0x0B01 0x27 s.chip)))) ∧
    (∀ m : Master, m ≠ 1 →
      exec (mbRow op m ⟨ch, .out p⟩ v) s = .next (s.withChip (emit (.bus m 0 0x0E07) (reportAccess 0x0E07 0x27 s.chip)))) ∧
    (∀ (m : Master) (data : BitVec 32) (code : BitVec 16), fenced s.chip p.toNat = false → (op, p, ch) ∈ s.chip.fab.mails →
      exec (mbRow op m ⟨ch, .answer p data code⟩ v) s = .next (s.withChip (emit (.bus m data.toNat code.toNat) (reportAccess code.toNat 0x27
        { s.chip with fab := { s.chip.fab with mails := s.chip.fab.mails.erase (op, p, ch) } })))) ∧
    (∀ (m : Master) (data : BitVec 32) (code : BitVec 16), (op, p, ch) ∉ s.chip.fab.mails →
      exec (mbRow op m ⟨ch, .answer p data code⟩ v) s = .next s)

/-- A mailbox access was refused with a code: MB_ERR names it, and no channel changed (R385). -/
def MboxRefused (s t : State) (m : Master) (ch : Fin 64) (code : Nat) : Prop :=
  sameRest s t ∧ t.chip.mbox = s.chip.mbox ∧ t.chip.mem = s.chip.mem ∧ t.chip.out.head? = some (.bus m 0 code) ∧
    getReg t.chip rMbErr = code + ch.val * 65536 + m.toNat * 2 ^ 24

/-- Bindings and the small map's commands (R377, R384, R410): a binding write binds a channel to two different masters and empties it, until MP_LOCK
locks the table; PEAK_CLR takes TJ as the peak; a write of MP_RESET without the key is refused with MP_KEY. -/
def BindingsAndLock : Prop :=
  ∀ (m : Master) (s : State), (m.toNat = 0 ∨ (m.toNat = 1 ∧ hubOn s.chip = true)) → s.chip.power.aonHeld = false →
    (∀ (ch : Fin 64) (v : BitVec 32),
      (bit (getReg s.chip rLock) 1 = false → knownMaster (BitVec.ofNat 8 v.toNat) = true → knownMaster (BitVec.ofNat 8 (v.toNat / 256)) = true →
        v.toNat % 256 ≠ v.toNat / 256 % 256 →
        ∃ t, exec (.bindingWrite m ch v) s = .next t ∧ sameRest s t ∧ t.chip.mbox[ch].sender.toNat = v.toNat % 256 ∧
          t.chip.mbox[ch].receiver.toNat = v.toNat / 256 % 256 ∧ t.chip.mbox[ch].valid = v.getLsbD 16 ∧ t.chip.mbox[ch].full = false ∧
          fullBit t.chip ch = false ∧ t.chip.mem = s.chip.mem ∧ ∀ d : Fin 64, d ≠ ch → t.chip.mbox[d] = s.chip.mbox[d]) ∧
      (bit (getReg s.chip rLock) 1 = true → ∃ t, exec (.bindingWrite m ch v) s = .next t ∧ MboxRefused s t m ch 0x0E05)) ∧
    (∃ t, exec (.lock m) s = .next t ∧ sameRest s t ∧ bit (getReg t.chip rLock) 1 = true ∧ t.chip.mbox = s.chip.mbox ∧
      t.chip.mem = s.chip.mem ∧ (∀ off, off ≠ rLock → getReg t.chip off = getReg s.chip off)) ∧
    (∃ t, exec (.peakClr m) s = .next t ∧ sameRest s t ∧ getF t.chip rTherm 8 8 = getF s.chip rTherm 0 8 ∧
      getF t.chip rTherm 0 8 = getF s.chip rTherm 0 8 ∧ t.chip.mem = s.chip.mem ∧
      (∀ off, off ≠ rTherm → getReg t.chip off = getReg s.chip off)) ∧
    (∀ v : RegWrite, v.v.toNat ≠ 0xC0DE → ∃ t, exec (.mpReset m v) s = .next t ∧ sameRest s t ∧ t.chip.mem = s.chip.mem ∧
      t.chip.basins = s.chip.basins ∧ t.chip.out = .bus m 0 0x0E0B :: s.chip.out)

/-- Mailbox polls, TAKE, channels of other packages, binding entries and the small map (R377, R384, R387, R388, R390, R410). -/
def Obligations.BindingsPollsAndLock : Prop := PollsAndTake ∧ FarMailboxes ∧ BindingsAndLock

/-! ### Profiles and register writes -/

/-- The bits of a register that a write stores hold those of a value. -/
def holdsBits (c : Chip) (off v : Nat) : Prop := ∃ r, rowAt off = some r ∧ Nat.land (getReg c off) r.wmask = Nat.land v r.wmask

/-- A profile command that writes one register: its index, its master, what it writes, the register, and its value in profiles 1, 2 and so on. -/
def oneRegister : Instr → Option (Nat × Master × RegWrite × Nat × List Nat)
  | .stateProfile m v => some (2, m, v, rStCfg, [0x30, 0x10, 0x34])
  | .attnProfile m v => some (3, m, v, rAtCfg, [2, 1])
  | .kvProfile m v => some (4, m, v, rKvCfg, [0x14, 0x1F])
  | .wqProfile m v => some (5, m, v, rWqCfg, [0x242714, 0x242713, 0x242710])
  | .cadenceProfile m v => some (6, m, v, rCadCfg, [4, 6, 5])
  | .compressProfile m v => some (7, m, v, rCxCfg, [0x640180, 0x640150, 0x640080])
  | .modelProfile m v => some (9, m, v, rMsCfg, [0x280803, 0x280F03, 0x640403])
  | _ => none

/-- Profile registers of one register (R116, R143, R175, R203, R234, R299, R373, R382, R392): a profile writes its register and no other but its
own, which reads the profile; MANUAL writes nothing else; a value without a profile is refused with MP_PROFILE and changes no register but
the port's. While an earlier profile is being applied, nothing is written; a hub that is powered and does not answer ends the write with
IW_TIMEOUT. -/
def ProfilesOfOneRegister : Prop :=
  ∀ (i : Instr) (k : Nat) (m : Master) (v : RegWrite) (p off : Nat) (xs : List Nat) (s : State), oneRegister i = some (k, m, v, off, xs) →
    m.toNat ≤ 3 → hubOn s.chip = true → s.chip.power.aonHeld = false → p = v.v.toNat % 16 →
    (p ≤ xs.length → v.meets.silent = false → v.meets.applying = false → ∃ t, exec i s = .next t ∧ sameRest s t ∧
      getReg t.chip (0x80 + 4 * k) = p ∧ (p ≠ 0 → holdsBits t.chip off (xs.getD (p - 1) 0)) ∧ t.chip.out = .bus m p 0 :: s.chip.out ∧
      t.chip.mem = s.chip.mem ∧
      (∀ o, o ≠ 0x80 + 4 * k → (o ≠ off ∨ p = 0) → getReg t.chip o = getReg s.chip o)) ∧
    (p ≤ xs.length → v.meets.silent = false → v.meets.applying = true → exec i s = .next (s.withChip (emit (.bus m 0 0) s.chip))) ∧
    (p ≤ xs.length → v.meets.silent = true →
      exec i s = .next (s.withChip (emit (.bus m 0 0x0E09) (reportAccess 0x0E09 0x27 s.chip)))) ∧
    (xs.length < p → ∃ t, exec i s = .next t ∧ sameRest s t ∧ t.chip.out = .bus m 0 0x0E0A :: s.chip.out ∧
      t.chip.mem = s.chip.mem ∧ getReg t.chip (0x80 + 4 * k) = getReg s.chip (0x80 + 4 * k) ∧ getReg t.chip off = getReg s.chip off)

/-- A profile command has taken profile `p`: its register, number `k`, reads it, and its master is answered. -/
def ProfileTaken (s t : State) (k : Nat) (m : Master) (p : Nat) : Prop :=
  t.pending = s.pending ∧ t.sec = s.sec ∧ t.net = s.net ∧ t.chip.mem = s.chip.mem ∧ getReg t.chip (0x80 + 4 * k) = p ∧
    t.chip.out = .bus m p 0 :: s.chip.out

/-- The other profile registers of a hub that answers, with no earlier profile being applied (R64, R90, R266, R328, R348, R370, R382, R419, R441), each in its profiles: the basins that passed are enabled at one FREQ;
every SU_CFG; LATE_LIMIT and FL_CFG; TH_CFG with the links trained; the arrays' path and the wake stage; NET_CFG; WR_BUDGET and WR_CFG
without the cap per island; ER_CFG, which the island takes even with the hub off. -/
def ProfilesOfManyRegisters : Prop :=
  ∀ (m : Master) (v : RegWrite) (s : State) (p : Nat), m.toNat ≤ 3 → s.chip.power.aonHeld = false → v.meets.silent = false →
    v.meets.applying = false → p = v.v.toNat % 16 → 1 ≤ p →
    (p ≤ 2 → modeOf s.chip = 0 → s.chip.power.change = none → ∃ t, exec (.basinProfile m v) s = .next t ∧ ProfileTaken s t 0 m p ∧
      ∀ b : Fin 32, enabled t.chip b = (s.chip.basins[b].selftest == 2) ∧ getF t.chip (rClk b.val) 0 6 = (if p = 1 then 24 else 18)) ∧
    (p ≤ 3 → hubOn s.chip = true → ∃ t, exec (.scaleProfile m v) s = .next t ∧ ProfileTaken s t 1 m p ∧
      ∀ b, b < 32 → holdsBits t.chip (rSuCfg b) (pick p 0x23 0x31 0x14)) ∧
    (p ≤ 3 → hubOn s.chip = true → ∃ t, exec (.placeProfile m v) s = .next t ∧ ProfileTaken s t 8 m p ∧
      getF t.chip rPlCfg 8 8 = pick p 50 10 200 ∧ getF t.chip rPlCfg 0 1 = getF s.chip rPlCfg 0 1 ∧ holdsBits t.chip rFlCfg 0x080A) ∧
    (p ≤ 2 → modeOf s.chip = 0 → s.chip.fab.selfFenced = false → ∃ t, exec (.fabricProfile m v) s = .next t ∧ ProfileTaken s t 10 m p ∧
      holdsBits t.chip rThCfg (pick p 0x4088 0x4044 0x4088) ∧
      ∀ l : Fin 12, linkState t.chip l = (if (linkState s.chip l = 0 ∨ linkState s.chip l = 3) ∧ member s.chip (linkPartner s.chip l) = true
        then 1 else linkState s.chip l)) ∧
    (p ≤ 3 → hubOn s.chip = true → (∀ a, a < 4 → getF s.chip (rFeArray a) 5 2 ≠ 3) →
      ∃ t, exec (.feProfile m v) s = .next t ∧ ProfileTaken s t 11 m p ∧ getF t.chip rWakeCfg 0 1 = pick p 1 0 0 ∧
        ∀ a, a < 4 → a ∈ t.fe.waiting ∧ getF t.chip (rFeArray a) 1 1 = pick p 0 0 1 ∧ getF t.chip (rFeArray a) 2 3 = pick p 2 2 3 ∧
          getF t.chip (rFeArray a) 7 1 = 1 ∧ getF t.chip (rFeArray a) 8 3 = 0) ∧
    (p ≤ 3 → hubOn s.chip = true → ∃ t, exec (.netProfile m v) s = .next t ∧ ProfileTaken s t 12 m p ∧
      holdsBits t.chip rNetCfg (pick p 0x29FEE 0x29F1E 0x79FEE)) ∧
    (p ≤ 3 → hubOn s.chip = true → ∃ t, exec (.powerProfile m v) s = .next t ∧ ProfileTaken s t 13 m p ∧
      getF t.chip rBudget 0 10 = pick p 450 300 200 ∧ getF t.chip rBudget 16 10 = pick p 600 400 250 ∧
      getF t.chip rWrCfg 0 8 = pick p 20 14 9 ∧ getF t.chip rWrCfg 8 4 = pick p 4 4 8 ∧ getF t.chip rWrCfg 24 8 = pick p 100 95 90 ∧
      getF t.chip rWrCfg 16 8 = getF s.chip rWrCfg 16 8) ∧
    (p ≤ 3 → ∃ t, exec (.recordProfile m v) s = .next t ∧ ProfileTaken s t 14 m p ∧ holdsBits t.chip rErCfg (pick p 0xD 0xF 0xC) ∧
      getF t.chip rErStatus 13 1 = 0)

/-- The profile registers (R64, R90, R116, R143, R175, R203, R234, R266, R299, R328, R348, R382). -/
def Obligations.ProfilesWriteRegisters : Prop := ProfilesOfOneRegister ∧ ProfilesOfManyRegisters

/-- Register writes (R6, R375, R380): a word of powered memory takes all four bytes; a register of the hub's tables takes the bits that its row stores
and no other register changes; an identity that may not write is refused with HUB_DENIED, and an address that is not a multiple of 4
with IW_ALIGN, and nothing is written. -/
def Obligations.RegisterWritesStoreTheirBits : Prop :=
  ∀ (m : Master) (a : BitVec 48) (v : RegWrite) (s : State), s.chip.power.aonHeld = false →
    (m.toNat ≤ 3 → a.toNat % 4 = 0 → pkgOf a.toNat = pkg s.chip → locOf a.toNat < hubBase → memOn s.chip = true →
      backed a.toNat 4 = true → s.chip.ecc = [] → ∃ t, exec (.registerWrite m a v) s = .next t ∧ sameRest s t ∧
        t.chip.mem = memWriteN s.chip.mem a.toNat (leBytes 4 v.v.toNat) ∧ t.chip.regs = s.chip.regs ∧ t.chip.out = .bus m 0 0 :: s.chip.out) ∧
    (∀ off : Nat, m.toNat ≤ 3 → hubOn s.chip = true → a.toNat = sys s.chip (hubBase + off) →
      (off = rStCfg ∨ off = rAtCfg ∨ off = rKvCfg ∨ off = rCadCfg ∨ off = rCxCfg ∨ off = rFlCfg ∨ off = rMsCfg ∨ off = rRcCfg) →
      ∃ t, exec (.registerWrite m a v) s = .next t ∧ sameRest s t ∧ holdsBits t.chip off v.v.toNat ∧
        (∀ o, o ≠ off → getReg t.chip o = getReg s.chip o) ∧ t.chip.mem = s.chip.mem ∧ t.chip.out = .bus m 0 0 :: s.chip.out) ∧
    (3 < m.toNat → a.toNat % 4 = 0 → pkgOf a.toNat = pkg s.chip → locOf a.toNat < hubBase → ∃ t, exec (.registerWrite m a v) s = .next t ∧
      sameRest s t ∧ t.chip.mem = s.chip.mem ∧ t.chip.basins = s.chip.basins ∧ t.chip.out = .bus m 0 0x0E07 :: s.chip.out) ∧
    (a.toNat % 4 ≠ 0 → ∃ t, exec (.registerWrite m a v) s = .next t ∧ sameRest s t ∧ t.chip.mem = s.chip.mem ∧
      t.chip.basins = s.chip.basins ∧ t.chip.out = .bus m 0 0x0E08 :: s.chip.out)

/-! ### Power, the weir, reset and start-up -/

/-- Requests for a mode (R395, R398, R402, R410, R417): GO from ACTIVE with every basin disabled drains the basins; from OFF with PWR_GOOD high it begins a
start-up, and with PWR_GOOD low it is refused with PWR_GOOD_LOW; with a basin enabled it is refused with PWR_BASINS and PWR.DONE; in always-on reset
the island does nothing; a wake request acts as GO toward ACTIVE; a drain that
lasts too long is refused with PWR_DRAIN. -/
def PowerRequestsAreTaken : Prop :=
  (∀ (m : Master) (req : BitVec 2) (good : Bool) (s : State), s.chip.power.aonHeld = true → exec (.powerRequest m req good) s = .next s) ∧
  (∀ (m : Master) (req : BitVec 2) (good : Bool) (s : State), (m.toNat = 0 ∨ (m.toNat = 1 ∧ hubOn s.chip = true)) →
    s.chip.power.aonHeld = false → s.chip.power.change = none → s.chip.power.rstLow = false → req.toNat ≠ modeOf s.chip → (req = 3 ∨ good = true) →
    (modeOf s.chip = 0 → getReg s.chip rEnable = 0 → ∃ t, exec (.powerRequest m req good) s = .next t ∧ sameRest s t ∧
      t.chip.power.change = some { target := req.toNat, draining := true } ∧ getF t.chip rPower 2 2 = req.toNat ∧ modeOf t.chip = 0 ∧
      t.chip.basins = s.chip.basins ∧ t.chip.mem = s.chip.mem) ∧
    (modeOf s.chip = 0 → getReg s.chip rEnable ≠ 0 → ∃ t, exec (.powerRequest m req good) s = .next t ∧ sameRest s t ∧
      t.chip.power.change = none ∧ modeOf t.chip = 0 ∧ getReg t.chip rErrLast = 0x0F01 + 65536 ∧ bit (getReg t.chip rStatus) 9 = true ∧
      t.chip.basins = s.chip.basins ∧ t.chip.mem = s.chip.mem) ∧
    (modeOf s.chip = 3 → ∃ t, exec (.powerRequest m req good) s = .next t ∧ sameRest s t ∧ t.chip.power.boot = .hub ∧
      getF t.chip rBoot 0 4 = 1 ∧ t.chip.power.change = some { target := req.toNat } ∧ modeOf t.chip = 3 ∧ t.chip.mem = s.chip.mem)) ∧
  (∀ (m : Master) (req : BitVec 2) (s : State), m.toNat = 0 → s.chip.power.aonHeld = false → s.chip.power.change = none →
    s.chip.power.rstLow = false → req.toNat ≠ modeOf s.chip → req ≠ 3 → (modeOf s.chip ≠ 0 ∨ getReg s.chip rEnable = 0) →
    ∃ t, exec (.powerRequest m req false) s = .next t ∧ sameRest s t ∧ t.chip.power.change = none ∧ modeOf t.chip = modeOf s.chip ∧
      getReg t.chip rErrLast = 0x0F03 + 65536 ∧ bit (getReg t.chip rStatus) 9 = true ∧ t.chip.basins = s.chip.basins ∧
      t.chip.mem = s.chip.mem) ∧
  (∀ s : State, s.chip.power.wakePend = true → s.chip.power.change = none → s.chip.power.rstLow = false → s.chip.power.pwrGood = true →
    getF s.chip rPower 2 2 ≠ 0 → modeOf s.chip = 2 → ∃ t, exec .wakeRequest s = .next t ∧ sameRest s t ∧ t.chip.power.wakePend = false ∧
      t.chip.power.boot = .hub ∧ t.chip.power.change = some { target := 0 } ∧ getF t.chip rPower 2 2 = 0 ∧ t.chip.mem = s.chip.mem) ∧
  (∀ (s : State) (x : Change), s.chip.power.change = some x → x.draining = true → allIdle s.chip = false →
    ∃ t, exec .powerDrainTimeout s = .next t ∧ sameRest s t ∧ t.chip.power.change = none ∧ getReg t.chip rErrLast = 0x0F02 + 65536 ∧
      bit (getReg t.chip rStatus) 9 = true ∧ modeOf t.chip = modeOf s.chip ∧ t.chip.basins = s.chip.basins ∧ t.chip.mem = s.chip.mem)

/-- A report that waits for its block is abandoned, its leaf spent (R459); the engine is otherwise as it was. -/
def ReportAbandoned (s t : State) : Prop :=
  t.pending = s.pending ∧ t.fe = s.fe ∧ t.net = s.net ∧
    (∀ (a r : Nat) (h : Head), s.sec.job = some (.reserve a h (some r)) → t.sec = { s.sec with job := some (.reserve a h.advance none) }) ∧
    ((∀ (a r : Nat) (h : Head), s.sec.job ≠ some (.reserve a h (some r))) → t.sec = s.sec)

/-- Changes of mode complete (R325, R397, R399, R400, R434, R459): from IDLE to ACTIVE once the self-tests are over; from IDLE to LISTEN, which switches the hub off and
leaves no memory and no basin; from ACTIVE to IDLE once the basins have drained, with no load, replacement or link left to end, which
leaves the basins as the dies come up, RC_JOB of contained jobs at 0, and the members that were LIVE without a route. PWR.DONE is set. -/
def ModeChangesComplete : Prop :=
  ∀ (s : State) (x : Change), s.chip.power.change = some x → booting s.chip = false →
    (x.draining = false → x.target = 0 → (∀ b : Fin 32, s.chip.basins[b].selftest ≠ 1) → ∃ t, exec .powerChangeDone s = .next t ∧
      ReportAbandoned s t ∧ modeOf t.chip = 0 ∧ t.chip.power.change = none ∧ bit (getReg t.chip rStatus) 9 = true ∧
      t.chip.basins = s.chip.basins ∧ t.chip.mem = s.chip.mem) ∧
    (x.draining = false → x.target = 2 → s.chip.flash.writes = [] → ∃ t, exec .powerChangeDone s = .next t ∧ t.pending = s.pending ∧
      t.fe = s.fe ∧ modeOf t.chip = 2 ∧ t.chip.power.change = none ∧ bit (getReg t.chip rStatus) 9 = true ∧
      t.chip.basins = Vector.replicate 32 {} ∧ t.chip.mem = [] ∧ t.sec.root = none ∧ t.sec.head = s.sec.head ∧
      t.chip.flash.bytes = s.chip.flash.bytes) ∧
    (x.draining = true → x.target = 1 → allIdle s.chip = true → s.chip.ms.loads = [] → s.chip.ms.repls = [] →
      (∀ l : Fin 12, linkState s.chip l ≠ 1 ∧ linkState s.chip l ≠ 2) → ∃ t, exec .powerChangeDone s = .next t ∧
        ReportAbandoned s t ∧ modeOf t.chip = 1 ∧ t.chip.power.change = none ∧ bit (getReg t.chip rStatus) 9 = true ∧
        t.chip.basins = Vector.replicate 32 {} ∧
        (∀ j, j < 256 → (jobRc s.chip j).contained = true → getReg t.chip (rRcJob j) = 0) ∧
        (∀ q, q < 16 → q ≠ pkg s.chip → getF t.chip (rPartner q) 0 2 =
          (if getF s.chip (rPartner q) 0 2 = 2 then 1 else getF s.chip (rPartner q) 0 2)) ∧
        (∀ (b : Fin 32) (off : Nat), off < 0x600000 → memRead t.chip.mem (sram s.chip b off) = 0))

/-- Changes of power mode begin and complete (R395, R397 to R400, R402, R417, R434, R459). -/
def Obligations.PowerModesChange : Prop := PowerRequestsAreTaken ∧ ModeChangesComplete

/-- The package is switched off but for the island: MODE reads OFF, and no memory, basin or identity is left. -/
def SwitchedOff (s t : State) : Prop :=
  t.pending = s.pending ∧ modeOf t.chip = 3 ∧ t.chip.mem = [] ∧ t.chip.basins = Vector.replicate 32 {} ∧ t.fe = {} ∧ t.sec.root = none ∧
    t.sec.head = s.sec.head ∧ t.chip.power.change = none ∧ t.chip.power.boot = .off

/-- Operations that always complete (R396, R408, R416, R476): OFF, a thermal shutdown, a thermal step at 110 degrees or more, and the fall of PWR_GOOD
outside OFF or with RST_N low switch the package off whatever it does; a shutdown during always-on reset waits for its end (R417), when OFF does nothing
(R410). -/
def SwitchingOffAlwaysCompletes : Prop :=
  (∀ (m : Master) (s : State), s.chip.power.aonHeld = true → exec (.powerOff m) s = .next s) ∧
  (∀ (m : Master) (s : State), (m.toNat = 0 ∨ (m.toNat = 1 ∧ hubOn s.chip = true)) → s.chip.power.aonHeld = false →
    ∃ t, exec (.powerOff m) s = .next t ∧ SwitchedOff s t ∧ getF t.chip rPower 2 2 = 3) ∧
  (∀ (tj : BitVec 8) (s : State), s.chip.power.aonHeld = false → ∃ t, exec (.thermalShutdown tj) s = .next t ∧ SwitchedOff s t ∧
    bit (getReg t.chip rTherm) 17 = true ∧ bit (getReg t.chip rStatus) 7 = true ∧ getReg t.chip rErrLast = 0x0F07 + 3 * 65536) ∧
  (∀ (tj : BitVec 8) (s : State), s.chip.power.aonHeld = true → ∃ t, exec (.thermalShutdown tj) s = .next t ∧ sameRest s t ∧
    t.chip.power.shutPend = true ∧ t.chip.regs = s.chip.regs ∧ t.chip.mem = s.chip.mem) ∧
  (∀ (tj : BitVec 8) (s : State), s.chip.power.aonHeld = false → 110 ≤ tj.toNat → ∃ t, exec (.thermalStep tj) s = .next t ∧ SwitchedOff s t ∧
    bit (getReg t.chip rTherm) 17 = true ∧ getReg t.chip rErrLast = 0x0F07 + 3 * 65536) ∧
  (∀ s : State, modeOf s.chip ≠ 3 → ∃ t, exec .pwrGoodFall s = .next t ∧ SwitchedOff s t ∧ t.chip.power.pwrGood = false ∧
    getF t.chip rPower 2 2 = 3 ∧ getReg t.chip rErrLast = 0x0F04 + 3 * 65536) ∧
  (∀ s : State, s.chip.power.rstLow = true → ∃ t, exec .pwrGoodFall s = .next t ∧ SwitchedOff s t ∧ t.chip.power.pwrGood = false ∧
    getF t.chip rPower 2 2 = 3 ∧ getReg t.chip rErrLast = 0x0F04 + 3 * 65536)

/-- Every basin stretches fully and holds issue (R407, R416). -/
def FullyStretched (t : State) : Prop := ∀ b : Fin 32, t.chip.basins[b].stretch = 12 ∧ t.chip.basins[b].grant = 12 ∧ t.chip.basins[b].hold = true

/-- The weir (R403 to R408, R416): a period with no basin enabled and a fixed draw within SUSTAIN grants every basin full speed and drains the bucket by the
difference; a demand over SUSTAIN with credit left, and a period granted since the last excursion, begins an excursion of at most 1,000 periods
(a period counts as granted at or below SUSTAIN where its whole demand is: log entry 190); a fixed draw above the clamp puts every basin at stretch 12, holds the enabled ones and counts in FLOOR_PERIODS; a di/dt trip
and the loss of grants under a clamp stretch every basin fully; CLAMP is stored at once; a thermal step at or above THERM_WARN takes
5 points from the budgets, one 3 degrees or more below it gives them back. -/
def Obligations.WeirGrantsAndLimits : Prop :=
  (∀ (fixed : Nat) (req : List Nat) (s : State), modeOf s.chip = 0 →
    ((∀ b : Fin 32, enabled s.chip b = false) → getF s.chip rPower 8 8 = 0 → s.chip.weir.excursion = none → fixed ≤ sustain s.chip →
      ∃ t, exec (.weirPeriod fixed req) s = .next t ∧ sameRest s t ∧ t.chip.mem = s.chip.mem ∧
        (∀ b : Fin 32, t.chip.basins[b].grant = 0 ∧ t.chip.basins[b].hold = false) ∧
        t.chip.weir.bucket = s.chip.weir.bucket + fixed - sustain s.chip ∧ t.chip.weir.excursion = none ∧ t.chip.weir.rested = true) ∧
    ((∀ b : Fin 32, enabled s.chip b = false) → getF s.chip rPower 8 8 = 0 → s.chip.weir.excursion = none → s.chip.weir.rested = true →
      sustain s.chip < fixed → fixed ≤ peak s.chip → s.chip.weir.bucket < (peak s.chip - sustain s.chip) * 1000 →
      ∃ t, exec (.weirPeriod fixed req) s = .next t ∧ sameRest s t ∧ t.chip.mem = s.chip.mem ∧ t.chip.weir.excursion = some 999 ∧
        t.chip.weir.rested = false ∧ getReg t.chip (rWrCtr 0) = (getReg s.chip (rWrCtr 0) + 1) % 2 ^ 32) ∧
    (getF s.chip rPower 8 8 ≠ 0 → getF s.chip rPower 8 8 * 16 < fixed → ∃ t, exec (.weirPeriod fixed req) s = .next t ∧ sameRest s t ∧
      t.chip.mem = s.chip.mem ∧ (∀ b : Fin 32, t.chip.basins[b].grant = 12 ∧ t.chip.basins[b].hold = enabled s.chip b) ∧
      getReg t.chip (rWrCtr 2) = (getReg s.chip (rWrCtr 2) + 1) % 2 ^ 32)) ∧
  (∀ s : State, modeOf s.chip = 0 → ∃ t, exec .didtTrip s = .next t ∧ sameRest s t ∧ FullyStretched t ∧
    getReg t.chip (rWrCtr 3) = (getReg s.chip (rWrCtr 3) + 1) % 2 ^ 32 ∧ t.chip.mem = s.chip.mem) ∧
  (∀ s : State, modeOf s.chip = 0 → getF s.chip rPower 8 8 ≠ 0 → ∃ t, exec .clampFallback s = .next t ∧ sameRest s t ∧ FullyStretched t ∧
    t.chip.regs = s.chip.regs ∧ t.chip.mem = s.chip.mem) ∧
  (∀ (m : Master) (clamp : BitVec 8) (s : State), (m.toNat = 0 ∨ (m.toNat = 1 ∧ hubOn s.chip = true)) → s.chip.power.aonHeld = false →
    ∃ t, exec (.clampWrite m clamp) s = .next t ∧ sameRest s t ∧ getF t.chip rPower 8 8 = clamp.toNat ∧ modeOf t.chip = modeOf s.chip ∧
      (∀ off, off ≠ rPower → getReg t.chip off = getReg s.chip off) ∧ t.chip.mem = s.chip.mem) ∧
  (∀ (tj : BitVec 8) (s : State), s.chip.power.aonHeld = false → hubOn s.chip = true → tj.toNat < 110 →
    ∃ t, exec (.thermalStep tj) s = .next t ∧ sameRest s t ∧ getF t.chip rTherm 0 8 = tj.toNat ∧
      getF t.chip rTherm 8 8 = max tj.toNat (getF s.chip rTherm 8 8) ∧
      bit (getReg t.chip rTherm) 16 = decide (getF s.chip rWrCfg 24 8 ≤ tj.toNat) ∧
      t.chip.weir.pct = (if getF s.chip rWrCfg 24 8 ≤ tj.toNat then max 25 (s.chip.weir.pct - 5)
        else if tj.toNat + 3 ≤ getF s.chip rWrCfg 24 8 then min 100 (s.chip.weir.pct + 5) else s.chip.weir.pct) ∧ t.chip.mem = s.chip.mem)

/-- Resets (R384, R410 to R412, R417, R457, R472): the key, or RST_N low, samples the straps, clears the package domain and the mailboxes, and the package then starts toward REQ or stays in
OFF; what the flash holds stays. With RST_N low the key does nothing more. Always-on reset leaves nothing else but which blocks of leaves were
attempted, and its end samples the straps, writes a record, and with AUTO_ON starts toward ACTIVE. RST_N high again lets the package start. -/
def ResetsClear : Prop :=
  (∀ (m : Master) (v : RegWrite) (x : Straps) (s : State), (m.toNat = 0 ∨ (m.toNat = 1 ∧ hubOn s.chip = true)) → v.v.toNat = 0xC0DE →
    v.meets.pins = some x → x.pkgId = s.chip.power.pkgId → s.chip.power.aonHeld = false → s.chip.power.rstLow = false →
    s.chip.flash.writes = [] →
    ∃ t, exec (.mpReset m v) s = .next t ∧ t.pending = s.pending ∧ modeOf t.chip = 3 ∧ t.chip.mem = [] ∧
      t.chip.basins = Vector.replicate 32 {} ∧ t.chip.mbox = Vector.replicate 64 {} ∧ t.chip.flash.bytes = s.chip.flash.bytes ∧ t.fe = {} ∧
      t.chip.power.bootAlt = x.bootAlt ∧ t.chip.power.autoOn = x.autoOn ∧ t.chip.power.pwrGood = x.pwrGood ∧
      (getF s.chip rPower 2 2 = 3 ∨ x.pwrGood = false → t.chip.power.boot = .off ∧ bit (getReg t.chip rStatus) 0 = true) ∧
      (getF s.chip rPower 2 2 ≠ 3 → x.pwrGood = true → t.chip.power.boot = .hub ∧
        t.chip.power.change = some { target := getF s.chip rPower 2 2, fromReset := true })) ∧
  (∀ (m : Master) (v : RegWrite) (s : State), (m.toNat = 0 ∨ (m.toNat = 1 ∧ hubOn s.chip = true)) → v.v.toNat = 0xC0DE →
    s.chip.power.aonHeld = false → s.chip.power.rstLow = true → ∃ t, exec (.mpReset m v) s = .next t ∧ sameRest s t ∧
      t.chip.regs = s.chip.regs ∧ t.chip.power = s.chip.power ∧ t.chip.mem = s.chip.mem) ∧
  (∀ (x : Straps) (s : State), s.chip.power.aonHeld = false → s.chip.flash.writes = [] → x.pkgId = s.chip.power.pkgId →
    ∃ t, exec (.rstNLow x) s = .next t ∧ t.pending = s.pending ∧ modeOf t.chip = 3 ∧ t.chip.mem = [] ∧
      t.chip.basins = Vector.replicate 32 {} ∧ t.chip.mbox = Vector.replicate 64 {} ∧ t.chip.flash.bytes = s.chip.flash.bytes ∧
      t.chip.power.rstLow = true ∧ t.chip.power.bootAlt = x.bootAlt ∧ t.chip.power.autoOn = x.autoOn ∧ t.chip.power.pwrGood = x.pwrGood) ∧
  (∀ s : State, s.chip.flash.writes = [] → ∃ t, exec .alwaysOnReset s = .next t ∧ t.pending = s.pending ∧ t.chip.power.aonHeld = true ∧
    t.chip.regs = [] ∧ t.chip.mem = [] ∧ t.chip.recorder = {} ∧ t.fe = {} ∧ t.net = {} ∧ t.sec.head = none ∧ t.sec.tried = s.sec.tried ∧ t.chip.power.boot = .off ∧
    t.chip.flash.bytes = s.chip.flash.bytes) ∧
  (∀ (x : Straps) (s : State), s.chip.power.aonHeld = true → x.autoOn = false → s.chip.power.shutPend = false → s.chip.recorder.ring = [] →
    ∃ t r, exec (.alwaysOnResetEnd x) s = .next t ∧ sameRest s t ∧ t.chip.power.aonHeld = false ∧ t.chip.power.pkgId = x.pkgId ∧
      t.chip.recorder.ring = [(0, r)] ∧ r.w.headD 0 % 256 = 4 ∧ modeOf t.chip = modeOf s.chip ∧ t.chip.power.resetRun = true ∧
      t.chip.mem = s.chip.mem) ∧
  (∀ (x : Straps) (s : State), s.chip.power.aonHeld = true → x.autoOn = true → x.pwrGood = true → s.chip.power.shutPend = false →
    s.chip.power.rstLow = false → s.chip.power.change = none → modeOf s.chip = 3 →
    ∃ t, exec (.alwaysOnResetEnd x) s = .next t ∧ sameRest s t ∧ t.chip.power.aonHeld = false ∧ getF t.chip rPower 2 2 = 0 ∧
      t.chip.power.boot = .hub ∧ t.chip.power.change = some { target := 0 } ∧ t.chip.power.resetRun = true ∧ t.chip.mem = s.chip.mem) ∧
  (∀ s : State, s.chip.power.rstLow = true → s.chip.power.aonHeld = false →
    (getF s.chip rPower 2 2 = 3 → ∃ t, exec .rstNRelease s = .next t ∧ sameRest s t ∧ t.chip.power.rstLow = false ∧
      t.chip.power.boot = s.chip.power.boot ∧ bit (getReg t.chip rStatus) 0 = true ∧ t.chip.mem = s.chip.mem) ∧
    (getF s.chip rPower 2 2 ≠ 3 → s.chip.power.pwrGood = true → ∃ t, exec .rstNRelease s = .next t ∧ sameRest s t ∧
      t.chip.power.rstLow = false ∧ t.chip.power.boot = .hub ∧ t.chip.mem = s.chip.mem ∧
      t.chip.power.change = some { target := getF s.chip rPower 2 2, fromReset := true }))

/-- Operations that always complete, and resets (R384, R396, R408, R410, R412, R416, R417, R476). -/
def Obligations.SwitchOffAndReset : Prop := SwitchingOffAlwaysCompletes ∧ ResetsClear

/-- Start-up (R398, R411, R443, R446, R454): stage HUB ends with a boot nonce drawn and K_root from helper copy A, or else B; stage DIES with every self-test running; the last one, with no blob to apply,
enters ACTIVE with READY and a new nonce, and tells of a reset in RESET and of a GO in POWER; when the top tree is built, ID_READY is set, and an engine without a head is UNANCHORED. -/
def Obligations.StartUpStages : Prop :=
  (∀ (x : StageIn) (s : State) (ch : Change), s.chip.power.change = some ch →
    (s.chip.power.boot = .hub → ∃ t, exec (.startupStageDone x) s = .next t ∧ t.pending = s.pending ∧ t.fe = s.fe ∧ t.net = s.net ∧
      t.chip.power.boot = .firmware ∧ getF t.chip rBoot 0 4 = 2 ∧ getReg t.chip rNonce = x.entropy.toNat ∧ t.chip.mem = s.chip.mem ∧
      t.sec.root = helperRoot s.dev ∧ t.sec.head = s.sec.head) ∧
    (s.chip.power.boot = .dies → ∃ t, exec (.startupStageDone x) s = .next t ∧ sameRest s t ∧ t.chip.power.boot = .selftest ∧
      getF t.chip rBoot 0 4 = 6 ∧ (∀ b : Fin 32, t.chip.basins[b].selftest = 1 ∧ t.chip.basins[b].pllLock = true ∧
        getF t.chip (rClk b.val) 0 6 = 24) ∧ t.chip.mem = s.chip.mem) ∧
    (s.chip.power.boot = .selftest → ch.target = 0 → (∀ b : Fin 32, s.chip.basins[b].selftest ≠ 1) → bit (getReg s.chip rBoot) 4 = false →
      ∃ t, exec (.startupStageDone x) s = .next t ∧ t.pending = s.pending ∧ t.sec = s.sec ∧ t.net = s.net ∧ modeOf t.chip = 0 ∧
        t.chip.power.boot = .ready ∧ getF t.chip rBoot 0 4 = 7 ∧ t.chip.power.change = none ∧ getReg t.chip rNonce = x.entropy.toNat ∧
        (s.chip.power.resetRun = true → bit (getReg t.chip rStatus) 0 = true) ∧
        (ch.fromReset = false → bit (getReg t.chip rStatus) 9 = true) ∧ t.chip.basins = s.chip.basins ∧
        t.chip.mem = s.chip.mem)) ∧
  (∀ s : State, s.sec.root.isSome = true → s.sec.idReady = false → s.sec.kemReady = true → s.sec.head = none → s.chip.ms.loads = [] →
    ∃ t, exec .identityReady s = .next t ∧ t.pending = s.pending ∧ t.fe = s.fe ∧ t.net = s.net ∧ t.sec.idReady = true ∧
      t.sec.att = .unanchored ∧ t.chip.mem = s.chip.mem ∧ t.chip.regs = s.chip.regs ∧ t.chip.flash.bytes = s.chip.flash.bytes)

/-! ### Containment, commit and the recorder -/

/-- A confirmed message from `src` that is to be acted on (R318): its sender is not fenced and its tag is new. -/
def FreshMessage (c : Chip) (src : BitVec 4) (tag : BitVec 16) : Prop :=
  fenced c src.toNat = false ∧ (tabGet [] c.fab.seen src.toNat).contains tag.toNat = false

/-- Containment (R424 to R426): a notice of a package of its job's PKGS contains the job here, reported with RC_REMOTE and counted, and one of any other
package contains nothing; the release takes the containment and every stop of
the job away, unless a descriptor of the job is in flight, when it is refused with RC_BUSY. -/
def ContainmentBeginsAndEnds : Prop :=
  (∀ (src : BitVec 4) (tag job code : BitVec 16) (s : State), FreshMessage s.chip src tag → job.toNat < 256 →
    src.toNat ∈ jobPkgs s.chip job.toNat → (jobRc s.chip job.toNat).contained = false → NoRunAhead s.chip → ∃ t, exec (.containNotice src tag job code) s = .next t ∧ sameRest s t ∧
      (jobRc t.chip job.toNat).contained = true ∧ (jobRc t.chip job.toNat).code = code.toNat ∧
      getReg t.chip (rRcCtr 0) = (getReg s.chip (rRcCtr 0) + 1) % 2 ^ 32 ∧ getReg t.chip rErrLast = 0x1101 + 2 * 65536 ∧
      (∀ b : Fin 32, jobBlocked t.chip b job.toNat = true) ∧ t.chip.mem = s.chip.mem) ∧
  (∀ (src : BitVec 4) (tag job code : BitVec 16) (s : State), FreshMessage s.chip src tag → src.toNat ∉ jobPkgs s.chip job.toNat →
    ∃ t, exec (.containNotice src tag job code) s = .next t ∧ sameRest s t ∧ t.chip.jobs = s.chip.jobs ∧ t.chip.regs = s.chip.regs ∧
      t.chip.basins = s.chip.basins ∧ t.chip.mem = s.chip.mem) ∧
  (∀ (m : Master) (j : Fin 256) (s : State), m.toNat ≤ 3 → hubOn s.chip = true →
    (inflight s.chip j.val = false → (∀ p ∈ s.chip.jobs, p.2.waiting = []) → ∃ t, exec (.containedRelease m j) s = .next t ∧ sameRest s t ∧
      (jobRc t.chip j.val).contained = false ∧ (∀ b : Fin 32, jobBlocked t.chip b j.val = false) ∧ t.chip.mem = s.chip.mem ∧
      t.chip.regs = s.chip.regs ∧ t.chip.out = .bus m 0 0 :: s.chip.out) ∧
    (inflight s.chip j.val = true → ∃ t, exec (.containedRelease m j) s = .next t ∧ sameRest s t ∧ t.chip.jobs = s.chip.jobs ∧
      t.chip.basins = s.chip.basins ∧ t.chip.mem = s.chip.mem ∧ t.chip.out = .bus m 0 0x1103 :: s.chip.out))

/-- Commit points (R198, R365, R427 to R429): while ticks are generated, the home passes a point with the last READY and tells the others, and COMMIT makes a
package pass it, but for one not later than the last that passed (log entry 154); every earlier point that waits passes with it, and each counts. A job
without an interval passes none. A point that has not passed is reported once as late. -/
def CommitPointsPass : Prop :=
  ∀ (j : Fin 256) (ct : BitVec 32) (s : State),
    (∀ (src : BitVec 4) (tag : BitVec 16), FreshMessage s.chip src tag → isHome s.chip j.val = true → running s.chip = true →
      intervalOf s.chip j.val ≠ none →
      (jobRc s.chip j.val).contained = false → ct.toNat ∈ (jobRc s.chip j.val).waiting →
      (∀ q ∈ jobPkgs s.chip j.val, fenced s.chip q = true ∨ q = src.toNat ∨
        ∃ x ∈ (jobRc s.chip j.val).ready, x.1.toNat = q ∧ x.2 = ct.toNat) →
      ∃ t, exec (.readyC src tag j ct) s = .next t ∧ sameRest s t ∧ getReg t.chip (rRcCommit j.val) = ct.toNat ∧
        ct.toNat ∉ (jobRc t.chip j.val).waiting ∧ (jobRc t.chip j.val).passed = true ∧
        getReg t.chip (rRcCtr 1) = (getReg s.chip (rRcCtr 1) + (passing s.chip j.val ct.toNat).length) % 2 ^ 32 ∧ t.chip.mem = s.chip.mem) ∧
    (∀ (src : BitVec 4) (tag : BitVec 16), FreshMessage s.chip src tag →
      (running s.chip = true → intervalOf s.chip j.val ≠ none →
        ((jobRc s.chip j.val).passed = false ∨ tickLe ct.toNat (getReg s.chip (rRcCommit j.val)) = false) →
        ∃ t, exec (.commitC src tag j ct) s = .next t ∧ sameRest s t ∧ getReg t.chip (rRcCommit j.val) = ct.toNat ∧
          ct.toNat ∉ (jobRc t.chip j.val).waiting ∧ (jobRc t.chip j.val).passed = true ∧
          getReg t.chip (rRcCtr 1) = (getReg s.chip (rRcCtr 1) + (passing s.chip j.val ct.toNat).length) % 2 ^ 32 ∧ t.chip.mem = s.chip.mem) ∧
      ((running s.chip = false ∨ intervalOf s.chip j.val = none ∨ ((jobRc s.chip j.val).passed = true ∧ tickLe ct.toNat (getReg s.chip (rRcCommit j.val)) = true)) →
        ∃ t, exec (.commitC src tag j ct) s = .next t ∧ sameRest s t ∧ getReg t.chip (rRcCommit j.val) = getReg s.chip (rRcCommit j.val) ∧
          t.chip.jobs = s.chip.jobs ∧ t.chip.mem = s.chip.mem)) ∧
    (ct.toNat ∈ (jobRc s.chip j.val).waiting → ct.toNat ∉ (jobRc s.chip j.val).late →
      ∃ t, exec (.commitLate j ct) s = .next t ∧ sameRest s t ∧ ct.toNat ∈ (jobRc t.chip j.val).late ∧
        (jobRc t.chip j.val).waiting = (jobRc s.chip j.val).waiting ∧ getReg t.chip rErrLast = 0x1102 + 65536 ∧
        getReg t.chip (rRcCtr 2) = (getReg s.chip (rRcCtr 2) + 1) % 2 ^ 32 ∧ t.chip.mem = s.chip.mem)

/-- Containment and commit points (R424 to R426, R428, R429). -/
def Obligations.JobsAreContainedAndCommit : Prop := ContainmentBeginsAndEnds ∧ CommitPointsPass

/-- The recorder (R437, R438, R440): an interval closes with an INTERVAL record in an empty ring where the settings ask for one, and the next begins at the
present temperature; a sector of the mirror that has records to take is given to the flash, with the position as it was until the flash has written it,
and one without moves the position alone. -/
def Obligations.RecorderClosesAndMirrors : Prop :=
  (∀ s : State, s.chip.power.aonHeld = false → bit (getReg s.chip rErCfg) 3 = false →
    (bit (getReg s.chip rErCfg) 2 = false → ∃ t, exec .recorderIntervalClose s = .next t ∧ sameRest s t ∧ t.chip.mem = s.chip.mem ∧
      t.chip.regs = s.chip.regs ∧ t.chip.recorder.ring = s.chip.recorder.ring ∧ t.chip.recorder.iv.classes = [] ∧
      t.chip.recorder.iv.pairs = [] ∧ t.chip.recorder.iv.peak = getF s.chip rTherm 0 8 ∧ t.chip.recorder.iv.low = getF s.chip rTherm 0 8) ∧
    (bit (getReg s.chip rErCfg) 2 = true → (s.chip.recorder.iv.powered = true ∨ modeOf s.chip ≤ 1) → s.chip.recorder.ring = [] →
      ∃ t r, exec .recorderIntervalClose s = .next t ∧ sameRest s t ∧ t.chip.mem = s.chip.mem ∧ t.chip.recorder.ring = [(0, r)] ∧
        r.w.headD 0 = 3 ∧ r.seq = getReg s.chip rErSeq ∧ getReg t.chip rErSeq = (getReg s.chip rErSeq + 1) % 2 ^ 32 ∧
        t.chip.recorder.iv.classes = [] ∧ t.chip.recorder.iv.pairs = [])) ∧
  (∀ (s : State) (pos base hi : Nat), pos = getReg s.chip rErMirror → base = pos / 64 * 64 → hi = min (getReg s.chip rErSeq) (base + 64) →
    (∀ w ∈ s.chip.flash.writes, ∀ n, w.1 ≠ .mirror n) → getF s.chip rErCfg 0 2 ≠ 0 → bit (getReg s.chip rErStatus) 13 = false → modeOf s.chip ≤ 1 → pos < getReg s.chip rErSeq →
    (mirrored s.chip pos hi ≠ [] → ∃ t bs, exec .mirrorSectorWrite s = .next t ∧ sameRest s t ∧ t.chip.mem = s.chip.mem ∧
      t.chip.flash.writes = s.chip.flash.writes ++ [(.mirror hi, pkg s.chip * 2 ^ 44 + mirrorBase + base % 262144 * 64, bs)] ∧
      t.chip.flash.bytes = s.chip.flash.bytes ∧ getReg t.chip rErMirror = pos ∧ bit (getReg t.chip rErStatus) 12 = true) ∧
    (mirrored s.chip pos hi = [] → ∃ t, exec .mirrorSectorWrite s = .next t ∧ sameRest s t ∧ t.chip.mem = s.chip.mem ∧
      t.chip.flash = s.chip.flash ∧ getReg t.chip rErMirror = hi % 2 ^ 32))

/-! ### The security engine -/

/-- The five commands of SEC_CTRL. -/
def secCommands (m : Master) : List Instr := [.attest m, .anchor m, .move m, .enrol m, .rescan m]

/-- The commands of the engine (R375, R444, R450, R452, R455 to R457), for a master that may give them and an engine that is not busy. ATTEST of a
READY engine whose block has a leaf left signs a report with the head's next leaf, under the head's subtree, stores both at the address, and the head
advances; without an anchor, or in GAP, it ends with ATTEST_GAP. ANCHOR with the hash of F, and MOVE to a subtree above all used ones, give a reservation record for their
block to the flash and wait for it, MOVE after the chain is judged; ANCHOR with a head held, or before the identity is ready, is denied, which is
the model's choice (log entry 191). ENROL without helper data gives both copies to the flash. RESCAN enrols the publishers that the flash holds. -/
def SecurityCommandsRun : Prop :=
  ∀ (m : Master) (s : State) (a : Nat), m.toNat ≤ 1 → hubOn s.chip = true → s.sec.job = none → a = secAddr s.chip → s.chip.ecc = [] →
    (∀ (root rep : List Byte) (h : Head), s.sec.att = .ready → s.sec.root = some root → s.sec.head = some h → h.exhausted = false →
      a % 64 = 0 → pkgOf a = pkg s.chip → backed a 8192 = true →
      rep = attestation s.dev root h.leaf (memReadN s.chip.mem (a + 16) 32) →
      ∃ t, exec (.attest m) s = .next t ∧ t.pending = s.pending ∧ t.fe = s.fe ∧ t.net = s.net ∧
        t.chip.mem = memWriteN s.chip.mem a
          (rep ++ fixLen 3284 (Config.hssSign (topSeed root) (subSeed root h.subtree) h.subtree (1024 * h.block + h.next) rep)) ∧
        t.sec.head = some h.advance ∧ t.sec.code = 0 ∧ t.sec.att = .ready ∧
        getReg t.chip 0x40020 = (getReg s.chip 0x40020 + 1) % 2 ^ 32) ∧
    ((s.sec.att = .unanchored ∨ s.sec.att = .gap) → ∃ t, exec (.attest m) s = .next t ∧ t.pending = s.pending ∧ t.fe = s.fe ∧ t.net = s.net ∧
      t.chip.mem = s.chip.mem ∧ t.sec.code = 0x1003 ∧ t.sec.head = s.sec.head) ∧
    (∀ (root : List Byte) (f : ChainRec) (n : Nat), s.sec.att = .unanchored → s.sec.root = some root → s.sec.idReady = true → s.sec.head = none →
      findF s.chip root = some f →
      a % 64 = 0 → pkgOf a = pkg s.chip → backed a 32 = true → memReadN s.chip.mem a 32 = f.hash →
      n = max (f.subtree * 32 + f.block) (s.sec.tried.getD 0) + 1 → n < 32768 * 32 →
      ∃ t, exec (.anchor m) s = .next t ∧ t.pending = s.pending ∧ t.fe = s.fe ∧ t.net = s.net ∧ t.chip.mem = s.chip.mem ∧
        t.sec.tried = some n ∧ t.sec.head = s.sec.head ∧ (∃ x h, t.sec.job = some (.reserve x h none) ∧ h.subtree = n / 32 ∧ h.block = n % 32 ∧
          h.next = 1 ∧ h.seq = (f.seq + 1) % 2 ^ 32) ∧
        t.chip.flash.writes = s.chip.flash.writes ++ [(.sec, pkg s.chip * 2 ^ 44 + (0x2400000 + 4096 * ((f.seq + 1) % 2 ^ 32 % 3072)),
          recordBytes root (f.seq + 1) false (n / 32) (n % 32) f.hash)]) ∧
    (s.sec.att = .unanchored → (s.sec.idReady = false ∨ s.sec.head ≠ none) → ∃ t, exec (.anchor m) s = .next t ∧ t.pending = s.pending ∧
      t.fe = s.fe ∧ t.net = s.net ∧ t.chip.mem = s.chip.mem ∧ t.sec.code = 0x1001 ∧ t.sec.head = s.sec.head ∧ t.chip.flash = s.chip.flash) ∧
    (∀ (root : List Byte) (k : Nat), (s.sec.att = .unanchored ∨ s.sec.att = .gap ∨ s.sec.att = .ready) → s.sec.root = some root →
      s.sec.idReady = true → k = getF s.chip 0x4000C 0 15 → (∀ u ∈ chainTrees s.chip, u < k) →
      (∀ h, s.sec.head = some h → h.subtree < k) → (∀ n, s.sec.tried = some n → n < 32 * k) →
      ∃ t, exec (.move m) s = .next t ∧ t.pending = s.pending ∧ t.fe = s.fe ∧ t.net = s.net ∧ t.chip.mem = s.chip.mem ∧
        t.sec.tried = some (k * 32) ∧ t.sec.head = (judge s.dev).sec.head ∧ t.sec.att = (judge s.dev).sec.att ∧
        (∃ x h, t.sec.job = some (.reserve x h none) ∧ h.subtree = k ∧ h.block = 0 ∧ h.next = 1) ∧
        t.chip.flash.writes.length = s.chip.flash.writes.length + 1) ∧
    (m = 0 → helperRoot s.dev = none → ∃ t, exec (.enrol m) s = .next t ∧ t.pending = s.pending ∧ t.fe = s.fe ∧ t.net = s.net ∧
      t.chip.mem = s.chip.mem ∧ t.sec.enrols = s.sec.enrols + 1 ∧ t.sec.root = s.sec.root ∧
      (∃ bs, bs.length = 4096 ∧ t.chip.flash.writes = s.chip.flash.writes ++
        [(.sec, pkg s.chip * 2 ^ 44 + 0x2100000, bs), (.sec, pkg s.chip * 2 ^ 44 + 0x2101000, bs)])) ∧
    (∃ t, exec (.rescan m) s = .next t ∧ t.pending = s.pending ∧ t.fe = s.fe ∧ t.net = s.net ∧ t.chip.mem = s.chip.mem ∧
      t.chip.regs = s.chip.regs ∧ t.sec.pubs = enrolled s.chip ∧ t.sec.code = 0 ∧ t.sec.head = s.sec.head)

/-- Refusals of the engine (R375, R455): a master other than 0x00 and 0x01 is refused with HUB_DENIED, and while the engine is BUSY every command is
refused with SEC_DENIED; the engine, and the flash, stay as they were. -/
def SecurityCommandsRefused : Prop :=
  ∀ (m : Master) (i : Instr) (s : State), i ∈ secCommands m → hubOn s.chip = true →
    (1 < m.toNat → ∃ t, exec i s = .next t ∧ sameRest s t ∧ t.chip.mem = s.chip.mem ∧ t.chip.flash = s.chip.flash ∧
      t.chip.out = .bus m 0 0x0E07 :: s.chip.out) ∧
    (m.toNat ≤ 1 → s.sec.job.isSome = true → ∃ t, exec i s = .next t ∧ sameRest s t ∧ t.chip.mem = s.chip.mem ∧
      t.chip.flash = s.chip.flash ∧ t.chip.out = .bus m 0 0x1001 :: s.chip.out)

/-- The commands of the security engine, and their refusals (R375, R444, R450, R452, R455 to R457). -/
def Obligations.SecurityEngineAnswers : Prop := SecurityCommandsRun ∧ SecurityCommandsRefused

/-! ### Reset and invariants -/

/-- A head that R452 and R453 allow: a report leaf 1 to 1,023 of a block of a subtree. -/
def HeadInRange (h : Head) : Prop := 1 ≤ h.next ∧ h.next ≤ 1023 ∧ h.block < 32 ∧ h.subtree < 32768

/-- The head of the chain, and the one that a reservation in progress will give, are in range. -/
def ChainInRange (s : State) : Prop :=
  (∀ h, s.sec.head = some h → HeadInRange h) ∧ (∀ a h r, s.sec.job = some (.reserve a h r) → HeadInRange h)

/-- No step brings the reservation chain out of range: leaf 0 of a block, which signs its record, never comes up for a report, and no leaf beyond the
key exists (R452, R453, R456). -/
def Obligations.ChainStaysInRange : Prop := ∀ s t : State, ChainInRange s → step s = .next t → ChainInRange t

/-- The chain is in range after power-on. -/
def ChainInRangeAtReset : Prop := ChainInRange State.reset

/-- After power-on (R377, R410): the island is in always-on reset and MODE is OFF, nothing waits, no memory is listed, and the registers hold the reset
values of their tables; those named here are MP_ID, MP_STATUS, MP_ALERT_EN, MP_POWER, BS_CLK, SU_CFG, WQ_CFG, CX_CFG, TH_CFG, WR_BUDGET,
WR_CFG, FE_ARRAY, NET_CFG and ER_CFG. -/
def ResetValues : Prop :=
  State.reset.pending = [] ∧ State.reset.chip.power.aonHeld = true ∧ modeOf State.reset.chip = 3 ∧ State.reset.chip.mem = [] ∧
    getReg State.reset.chip 0x00 = 0x00017416 ∧ getReg State.reset.chip rStatus = 1 ∧ getReg State.reset.chip rAlertEn = 0x2FF ∧
    getReg State.reset.chip rPower = 0xF ∧ (∀ b : Fin 32, getF State.reset.chip (rClk b.val) 0 6 = 24) ∧
    getReg State.reset.chip (rSuCfg 0) = 0x23 ∧ getReg State.reset.chip rWqCfg = 0x242714 ∧ getReg State.reset.chip rCxCfg = 0x640180 ∧
    getReg State.reset.chip rThCfg = 0x4088 ∧ getReg State.reset.chip rBudget = 0x025801C2 ∧ getReg State.reset.chip rWrCfg = 0x64960414 ∧
    getReg State.reset.chip (rFeArray 0) = 0xC8 ∧ getReg State.reset.chip rNetCfg = 0x29FEE ∧ getReg State.reset.chip rErCfg = 0xD

/-- What power-on leaves (R377, R410, R452). -/
def Obligations.ResetLeaves : Prop := ChainInRangeAtReset ∧ ResetValues
end

