-- ==== Sys2Proof/Laws/Tab.lean ====
section
/-! SUPPORT. Laws of sorted tables: an entry set is found, every other entry stays, and the keys keep rising. -/

namespace Sys2Proof.Machine

theorem tabFind_tabSet_self {α : Type} (m : Tab α) (n : Nat) (v : α) : tabFind (tabSet m n v) n = some v := by
  induction m with
  | nil => simp [tabSet, tabFind]
  | cons p r ih =>
    obtain ⟨k, w⟩ := p
    by_cases h : n < k
    · simp [tabSet, tabFind, h]
    · by_cases e : n = k
      · simp [tabSet, tabFind, e]
      · simp [tabSet, tabFind, h, e, Ne.symm e, ih]

theorem tabFind_tabSet_ne {α : Type} (m : Tab α) {n j : Nat} (v : α) (h : j ≠ n) :
    tabFind (tabSet m n v) j = tabFind m j := by
  induction m with
  | nil => simp [tabSet, tabFind, h.symm]
  | cons p r ih =>
    obtain ⟨k, w⟩ := p
    by_cases l : n < k
    · simp [tabSet, tabFind, l, h.symm]
    · by_cases e : n = k
      · subst e; simp [tabSet, tabFind, h.symm]
      · by_cases f : k = j
        · subst f; simp [tabSet, tabFind, l, e]
        · simp [tabSet, tabFind, l, e, f, ih]

theorem tabFind_tabSet {α : Type} (m : Tab α) (n j : Nat) (v : α) :
    tabFind (tabSet m n v) j = if j = n then some v else tabFind m j := by
  split
  · next h => rw [h, tabFind_tabSet_self]
  · next h => rw [tabFind_tabSet_ne m v h]

theorem tabFind_tabDel_ne {α : Type} (m : Tab α) {n j : Nat} (h : j ≠ n) : tabFind (tabDel m n) j = tabFind m j := by
  induction m with
  | nil => rfl
  | cons p r ih =>
    obtain ⟨k, w⟩ := p
    by_cases l : n < k
    · simp [tabDel, l]
    · by_cases e : n = k
      · subst e; simp [tabDel, tabFind, h.symm]
      · by_cases f : k = j
        · subst f; simp [tabDel, tabFind, l, e]
        · simp [tabDel, tabFind, l, e, f, ih]

/-- A table whose keys all lie above `n` does not list `n`. -/
theorem tabFind_none_of_sorted {α : Type} (m : Tab α) (lo n : Nat) (h : tabSorted (some lo) m = true) (l : n ≤ lo) :
    tabFind m n = none := by
  induction m generalizing lo with
  | nil => rfl
  | cons p r ih =>
    obtain ⟨k, w⟩ := p
    simp only [tabSorted, Bool.and_eq_true, decide_eq_true_eq] at h
    have : k ≠ n := by omega
    simp [tabFind, this, ih k h.2 (by omega)]

theorem tabSorted_weaken {α : Type} (m : Tab α) (lo : Nat) (h : tabSorted (some lo) m = true) : tabSorted none m = true := by
  cases m with
  | nil => rfl
  | cons p r => simp only [tabSorted, Bool.and_eq_true] at h; simpa [tabSorted] using h.2

theorem tabFind_tabDel_self {α : Type} (m : Tab α) (n : Nat) (h : tabSorted none m = true) : tabFind (tabDel m n) n = none := by
  induction m with
  | nil => rfl
  | cons p r ih =>
    obtain ⟨k, w⟩ := p
    have hr : tabSorted (some k) r = true := by simpa [tabSorted] using h
    by_cases l : n < k
    · have : k ≠ n := by omega
      simp [tabDel, l, tabFind, this, tabFind_none_of_sorted r k n hr (by omega)]
    · by_cases e : n = k
      · subst e; simp [tabDel, tabFind_none_of_sorted r n n hr (by omega)]
      · have f : k ≠ n := fun x => e x.symm
        simp [tabDel, tabFind, l, e, f, ih (tabSorted_weaken r k hr)]

theorem tabSorted_cons {α : Type} (lo : Option Nat) (k : Nat) (w : α) (r : Tab α) :
    tabSorted lo ((k, w) :: r) = true ↔ (∀ l, lo = some l → l < k) ∧ tabSorted (some k) r = true := by
  cases lo <;> simp [tabSorted]

theorem tabSorted_tabSet {α : Type} (m : Tab α) (n : Nat) (v : α) (lo : Option Nat) (h : tabSorted lo m = true)
    (hl : ∀ l, lo = some l → l < n) : tabSorted lo (tabSet m n v) = true := by
  induction m generalizing lo with
  | nil => exact (tabSorted_cons lo n v []).mpr ⟨hl, rfl⟩
  | cons p r ih =>
    obtain ⟨k, w⟩ := p
    rw [tabSorted_cons] at h
    by_cases l : n < k
    · simp only [tabSet, l, if_true]
      exact (tabSorted_cons lo n v _).mpr ⟨hl, (tabSorted_cons (some n) k w r).mpr ⟨fun x hx => by injection hx with hx; omega, h.2⟩⟩
    · by_cases e : n = k
      · subst e
        simp only [tabSet, lt_irrefl, if_false, if_true]
        exact (tabSorted_cons lo n v r).mpr ⟨hl, h.2⟩
      · simp only [tabSet, l, e, if_false]
        exact (tabSorted_cons lo k w _).mpr ⟨h.1, ih (some k) h.2 (fun x hx => by injection hx with hx; omega)⟩

theorem tabSorted_mono {α : Type} (m : Tab α) (lo k : Nat) (h : tabSorted (some k) m = true) (l : lo ≤ k) :
    tabSorted (some lo) m = true := by
  cases m with
  | nil => rfl
  | cons p r =>
    simp only [tabSorted, Bool.and_eq_true, decide_eq_true_eq] at h ⊢
    exact ⟨by omega, h.2⟩

theorem tabSorted_of_gap {α : Type} (m : Tab α) (lo : Option Nat) (k : Nat) (h : tabSorted (some k) m = true)
    (hl : ∀ l, lo = some l → l ≤ k) : tabSorted lo m = true := by
  cases lo with
  | none => exact tabSorted_weaken m k h
  | some l => exact tabSorted_mono m l k h (hl l rfl)

theorem tabSorted_tabDel {α : Type} (m : Tab α) (n : Nat) (lo : Option Nat) (h : tabSorted lo m = true) :
    tabSorted lo (tabDel m n) = true := by
  induction m generalizing lo with
  | nil => exact h
  | cons p r ih =>
    obtain ⟨k, w⟩ := p
    by_cases l : n < k
    · simpa [tabDel, l] using h
    · by_cases e : n = k
      · simp only [tabDel, e, if_false, if_true, lt_irrefl]
        simp only [tabSorted, Bool.and_eq_true] at h
        refine tabSorted_of_gap r lo k h.2 (fun x hx => ?_)
        subst hx
        have := h.1
        simp only [decide_eq_true_eq] at this
        omega
      · simp only [tabSorted, Bool.and_eq_true] at h
        simp only [tabDel, l, e, if_false, tabSorted, h.1, Bool.true_and]
        exact ih (some k) h.2

/-- Every entry of a table with one entry set is that entry or an entry of the table. -/
theorem mem_tabSet {α : Type} (m : Tab α) (n : Nat) (v : α) (x : Nat × α) (h : x ∈ tabSet m n v) : x = (n, v) ∨ x ∈ m := by
  induction m with
  | nil => left; simpa [tabSet] using h
  | cons p r ih =>
    obtain ⟨k, w⟩ := p
    simp only [tabSet] at h
    split at h
    · simpa using h
    · split at h
      · rcases List.mem_cons.mp h with h | h
        · exact .inl h
        · exact .inr (List.mem_cons_of_mem _ h)
      · rcases List.mem_cons.mp h with h | h
        · exact .inr (h ▸ List.mem_cons_self)
        · exact (ih h).imp id (List.mem_cons_of_mem _)

theorem mem_tabDel {α : Type} (m : Tab α) (n : Nat) (x : Nat × α) (h : x ∈ tabDel m n) : x ∈ m := by
  induction m with
  | nil => exact h
  | cons p r ih =>
    obtain ⟨k, w⟩ := p
    simp only [tabDel] at h
    split at h
    · exact h
    · split at h
      · exact List.mem_cons_of_mem _ h
      · rcases List.mem_cons.mp h with h | h
        · exact h ▸ List.mem_cons_self
        · exact List.mem_cons_of_mem _ (ih h)

theorem tabSorted_filter {α : Type} (m : Tab α) (p : Nat × α → Bool) (lo : Option Nat) (h : tabSorted lo m = true) :
    tabSorted lo (m.filter p) = true := by
  induction m generalizing lo with
  | nil => exact h
  | cons x r ih =>
    obtain ⟨k, w⟩ := x
    simp only [tabSorted, Bool.and_eq_true] at h
    by_cases hp : p (k, w) = true
    · simp only [List.filter_cons, hp, if_true, tabSorted, h.1, Bool.true_and]
      exact ih (some k) h.2
    · simp only [List.filter_cons, hp, Bool.false_eq_true, if_false]
      refine tabSorted_of_gap _ lo k (ih (some k) h.2) (fun l hl => ?_)
      subst hl
      have := h.1
      simp only [decide_eq_true_eq] at this
      omega

end Sys2Proof.Machine
end

