-- ==== Sys2Proof/Laws/Memory.lean ====
section
/-! SUPPORT. Laws of memory: what was written is read, every other byte stays, and every operation keeps the canonical form. -/

namespace Sys2Proof.Machine

theorem memory_wf_iff (m : Memory) : m.wf = true ↔ tabSorted none m = true ∧ ∀ x ∈ m, x.2 ≠ 0 := by
  simp [Memory.wf]

theorem memory_wf_nil : Memory.wf [] = true := rfl

theorem memRead_nil (a : Nat) : memRead [] a = 0 := rfl

/-- A write keeps the canonical form. -/
theorem memWrite_wf (m : Memory) (a : Nat) (v : Byte) (h : m.wf = true) : (memWrite m a v).wf = true := by
  rw [memory_wf_iff] at h ⊢
  unfold memWrite
  split
  · exact ⟨tabSorted_tabDel m a none h.1, fun x hx => h.2 x (mem_tabDel m a x hx)⟩
  · next hv =>
    refine ⟨tabSorted_tabSet m a v none h.1 (by simp), fun x hx => ?_⟩
    rcases mem_tabSet m a v x hx with e | e
    · rw [e]; exact hv
    · exact h.2 x e

theorem memWriteN_wf (m : Memory) (a : Nat) (bs : List Byte) (h : m.wf = true) : (memWriteN m a bs).wf = true := by
  induction bs generalizing m a with
  | nil => exact h
  | cons v vs ih => exact ih _ _ (memWrite_wf m a v h)

theorem memory_filter_wf (m : Memory) (p : Host.Cell → Bool) (h : m.wf = true) : Memory.wf (m.filter p) = true := by
  rw [memory_wf_iff] at h ⊢
  exact ⟨tabSorted_filter m p none h.1, fun x hx => h.2 x (List.mem_of_mem_filter hx)⟩

/-- A read of the byte just written. -/
theorem memRead_memWrite_self (m : Memory) (a : Nat) (v : Byte) (h : m.wf = true) : memRead (memWrite m a v) a = v := by
  rw [memory_wf_iff] at h
  unfold memRead tabGet memWrite
  split
  · next hv => rw [tabFind_tabDel_self m a h.1, hv]; rfl
  · rw [tabFind_tabSet_self]; rfl

/-- A write leaves every other byte. -/
theorem memRead_memWrite_ne (m : Memory) {a j : Nat} (v : Byte) (h : j ≠ a) : memRead (memWrite m a v) j = memRead m j := by
  unfold memRead tabGet memWrite
  split
  · rw [tabFind_tabDel_ne m h]
  · rw [tabFind_tabSet_ne m v h]

/-- Bytes outside what was written stay. -/
theorem memRead_memWriteN_out (m : Memory) (a j : Nat) (bs : List Byte) (h : j < a ∨ a + bs.length ≤ j) :
    memRead (memWriteN m a bs) j = memRead m j := by
  induction bs generalizing m a with
  | nil => rfl
  | cons v vs ih =>
    simp only [List.length_cons] at h
    rw [memWriteN, ih _ _ (by omega), memRead_memWrite_ne m v (by omega)]

/-- The bytes written are read. -/
theorem memRead_memWriteN_in (m : Memory) (a i : Nat) (bs : List Byte) (h : m.wf = true) (hi : i < bs.length) :
    memRead (memWriteN m a bs) (a + i) = bs[i] := by
  induction bs generalizing m a i with
  | nil => simp at hi
  | cons v vs ih =>
    cases i with
    | zero => rw [memWriteN, memRead_memWriteN_out _ _ _ _ (by omega)]; exact memRead_memWrite_self m a v h
    | succ i =>
      have := ih (memWrite m a v) (a + 1) i (memWrite_wf m a v h) (by simpa using hi)
      rw [memWriteN, show a + (i + 1) = a + 1 + i by omega, this]; rfl

theorem memReadN_length (m : Memory) (a n : Nat) : (memReadN m a n).length = n := by
  induction n generalizing a with
  | zero => rfl
  | succ n ih => simp [memReadN, ih]

theorem memReadN_getElem (m : Memory) (a n i : Nat) (h : i < (memReadN m a n).length) : (memReadN m a n)[i] = memRead m (a + i) := by
  induction n generalizing a i with
  | zero => simp [memReadN] at h
  | succ n ih =>
    cases i with
    | zero => rfl
    | succ i =>
      have hi : i < (memReadN m (a + 1) n).length := by simpa [memReadN] using h
      simp only [memReadN, List.getElem_cons_succ]
      rw [ih (a + 1) i hi]; congr 1; omega

/-- A read of the whole range just written gives the bytes written. -/
theorem memReadN_memWriteN (m : Memory) (a : Nat) (bs : List Byte) (h : m.wf = true) : memReadN (memWriteN m a bs) a bs.length = bs := by
  apply List.ext_getElem (memReadN_length _ _ _)
  intro i h1 h2
  rw [memReadN_getElem, memRead_memWriteN_in m a i bs h h2]

theorem leBytes_length (n x : Nat) : (leBytes n x).length = n := by
  induction n generalizing x with
  | zero => rfl
  | succ n ih => simp [leBytes, ih]

theorem leNat_leBytes (n x : Nat) : leNat (leBytes n x) = x % 256 ^ n := by
  induction n generalizing x with
  | zero => simp [leBytes, leNat, Nat.mod_one]
  | succ n ih =>
    simp only [leBytes, leNat, ih, BitVec.toNat_ofNat]
    rw [show 256 ^ (n + 1) = 256 * 256 ^ n by rw [pow_succ, mul_comm], Nat.mod_mul]

end Sys2Proof.Machine
end

