-- ==== Sys2Proof/Laws/Ops.lean ====
section
/-! SUPPORT. What each shared operation over registers, memory and effects can do, once: registers read after a write, memory of the
package read where no word has an error, writes of bytes, and the steps of an effect. -/

namespace Sys2Proof.Machine

/-! ### Registers -/

theorem getReg_putReg_self (c : Chip) (o v : Nat) : getReg (putReg c o v) o = v % 2 ^ 32 := by
  simp [getReg, putReg, tabFind_tabSet_self]

theorem getReg_putReg_ne (c : Chip) {o p : Nat} (v : Nat) (h : p ≠ o) : getReg (putReg c o v) p = getReg c p := by
  simp [getReg, putReg, tabFind_tabSet_ne _ _ h]

theorem getReg_putReg (c : Chip) (o p v : Nat) : getReg (putReg c o v) p = if p = o then v % 2 ^ 32 else getReg c p := by
  split
  · next h => rw [h, getReg_putReg_self]
  · next h => exact getReg_putReg_ne c v h

theorem getReg_putF_ne (c : Chip) {o p : Nat} (lo w v : Nat) (h : p ≠ o) : getReg (putF c o lo w v) p = getReg c p :=
  getReg_putReg_ne c _ h

theorem getReg_bump_ne (c : Chip) {o p : Nat} (n : Nat) (h : p ≠ o) : getReg (bump c o n) p = getReg c p := by
  unfold bump; split
  · rfl
  · exact getReg_putReg_ne c _ h

theorem bump_zero (c : Chip) (o : Nat) : bump c o 0 = c := rfl

/-- A register lies within 32 bits once it has been written. -/
theorem getReg_putReg_lt (c : Chip) (o v : Nat) : getReg (putReg c o v) o < 2 ^ 32 := by
  rw [getReg_putReg_self]; exact Nat.mod_lt _ (by norm_num)

/-- A field that fits reads back as it was set, whatever stood beside it. -/
theorem fld_setFld_self (x lo w v : Nat) : fld (setFld x lo w v) lo w = v % 2 ^ w := by
  unfold setFld fld
  have hp : 0 < 2 ^ lo := Nat.pow_pos (by norm_num)
  have hle : x / 2 ^ lo % 2 ^ w * 2 ^ lo ≤ x :=
    le_trans (Nat.mul_le_mul_right _ (Nat.mod_le _ _)) (Nat.div_mul_le_self x (2 ^ lo))
  have key : x - x / 2 ^ lo % 2 ^ w * 2 ^ lo = x % 2 ^ lo + (x / 2 ^ lo / 2 ^ w * 2 ^ w) * 2 ^ lo := by
    have h1 := Nat.div_add_mod x (2 ^ lo)
    have h2 := Nat.div_add_mod (x / 2 ^ lo) (2 ^ w)
    have h3 : x / 2 ^ lo * 2 ^ lo = (x / 2 ^ lo / 2 ^ w * 2 ^ w) * 2 ^ lo + x / 2 ^ lo % 2 ^ w * 2 ^ lo := by
      rw [← Nat.add_mul]; congr 1; rw [Nat.mul_comm _ (2 ^ w)]; exact h2.symm
    rw [Nat.mul_comm] at h1
    omega
  rw [key, Nat.add_assoc, ← Nat.add_mul, Nat.add_mul_div_right _ _ hp, Nat.div_eq_of_lt (Nat.mod_lt _ hp), Nat.zero_add,
    Nat.add_comm, Nat.add_mul_mod_self_right, Nat.mod_mod]

/-! ### Addresses -/

/-- The SRAM of a basin of this package lies in this package. -/
theorem pkgOf_sram (c : Chip) (b : Fin 32) (off : Nat) (h : off < 0x800000) : pkgOf (sram c b off) = pkg c := by
  unfold pkgOf sram sys sramLoc pkg
  have h1 := b.isLt
  have h2 : c.power.pkgId.toNat < 2 ^ 4 := c.power.pkgId.isLt
  omega

theorem fld_lt (x lo w : Nat) : fld x lo w < 2 ^ w := Nat.mod_lt _ (Nat.pow_pos (by norm_num))

/-- Every 23-bit offset of a descriptor lies within the window of a basin. -/
theorem pkgOf_sram_field (c : Chip) (b : Fin 32) (x lo : Nat) : pkgOf (sram c b (fld x lo 23)) = pkg c :=
  pkgOf_sram c b _ (fld_lt x lo 23)

/-! ### Effects -/

theorem runEff_eq_ok {α : Type} (m : Eff α) (c d : Chip) (a : α) : runEff m c = (d, .ok a) ↔ m c = .ok a d := by
  unfold runEff; split <;> simp_all [and_comm]

theorem bind_ok {α β : Type} {m : Eff α} {f : α → Eff β} {c d : Chip} {a : α} (h : m c = .ok a d) : (m >>= f) c = f a d := by
  show EStateM.bind m f c = _
  simp [EStateM.bind, h]

theorem bind_error {α β : Type} {m : Eff α} {f : α → Eff β} {c d : Chip} {e : Stop} (h : m c = .error e d) :
    (m >>= f) c = .error e d := by
  show EStateM.bind m f c = _
  simp [EStateM.bind, h]

theorem pure_ok {α : Type} (a : α) (c : Chip) : (pure a : Eff α) c = .ok a c := rfl

theorem get_ok (c : Chip) : (get : Eff Chip) c = .ok c c := rfl

theorem change_ok (f : Chip → Chip) (c : Chip) : change f c = .ok () (f c) := rfl

theorem writeMem_ok (a : Nat) (bs : List Byte) (c : Chip) : writeMem a bs c = .ok () (putMem c a bs) := rfl

theorem stopIf_false (code unit addr : Nat) (c : Chip) : stopIf false code unit addr c = .ok () c := rfl

theorem stopIf_true (code unit addr : Nat) (c : Chip) :
    stopIf true code unit addr c = .error { code := code, unit := unit, addr := addr } c := rfl

/-- Where no word has an error, the check of a range changes nothing (R53). -/
theorem checkEcc_clean (unit a n : Nat) (c : Chip) (h : c.ecc = []) : checkEcc unit a n c = .ok () c := by
  have hin : eccIn c a n = [] := by simp [eccIn, h]
  unfold checkEcc
  rw [bind_ok (get_ok c)]
  simp only [hin, countEcc]
  rw [bind_ok (show (set c : Eff Unit) c = .ok () c from rfl)]
  rfl

/-- A read of this package's memory where no word has an error gives the bytes and changes nothing. -/
theorem readMem_clean (unit a n : Nat) (c : Chip) (h : c.ecc = []) (hp : pkgOf a = pkg c) :
    readMem unit a n c = .ok (memReadN c.mem a n) c := by
  unfold readMem
  rw [bind_ok (get_ok c)]
  simp only [hp, if_true]
  rw [bind_ok (checkEcc_clean unit a n c h), bind_ok (get_ok c)]
  rfl

theorem readNat_clean (unit a n : Nat) (c : Chip) (h : c.ecc = []) (hp : pkgOf a = pkg c) :
    readNat unit a n c = .ok (leNat (memReadN c.mem a n)) c := by
  unfold readNat
  rw [bind_ok (readMem_clean unit a n c h hp)]; rfl

/-! ### Writing memory -/

/-- Bytes written outside a range leave the range, and the fields beside memory that no write touches. -/
theorem putMem_mem (c : Chip) (a : Nat) (bs : List Byte) : (putMem c a bs).mem = memWriteN c.mem a bs := by
  unfold putMem; split
  · next h => rw [h]; rfl
  · rfl

theorem putMem_wf (c : Chip) (a : Nat) (bs : List Byte) (h : c.mem.wf = true) : (putMem c a bs).mem.wf = true := by
  rw [putMem_mem]; exact memWriteN_wf _ _ _ h

theorem putMem_regs (c : Chip) (a : Nat) (bs : List Byte) : (putMem c a bs).regs = c.regs := by unfold putMem; split <;> rfl
theorem putMem_basins (c : Chip) (a : Nat) (bs : List Byte) : (putMem c a bs).basins = c.basins := by unfold putMem; split <;> rfl
theorem putMem_recs (c : Chip) (a : Nat) (bs : List Byte) : (putMem c a bs).recs = c.recs := by unfold putMem; split <;> rfl
theorem putMem_power (c : Chip) (a : Nat) (bs : List Byte) : (putMem c a bs).power = c.power := by unfold putMem; split <;> rfl
theorem putMem_flash (c : Chip) (a : Nat) (bs : List Byte) : (putMem c a bs).flash = c.flash := by unfold putMem; split <;> rfl
theorem putMem_out (c : Chip) (a : Nat) (bs : List Byte) : (putMem c a bs).out = c.out := by unfold putMem; split <;> rfl

theorem getReg_putMem (c : Chip) (a : Nat) (bs : List Byte) (o : Nat) : getReg (putMem c a bs) o = getReg c o := by
  simp [getReg, putMem_regs]

/-- Bytes outside what was written read as before. -/
theorem memRead_putMem_out (c : Chip) (a j : Nat) (bs : List Byte) (h : j < a ∨ a + bs.length ≤ j) :
    memRead (putMem c a bs).mem j = memRead c.mem j := by
  rw [putMem_mem]; exact memRead_memWriteN_out _ _ _ _ h

theorem undefine_wf (c : Chip) (a n : Nat) (h : c.mem.wf = true) : (undefine c a n).mem.wf = true := putMem_wf _ _ _ h

end Sys2Proof.Machine
end

