-- ==== Sys2Proof/Laws/State.lean ====
section
/-! SUPPORT. One lemma for each field and each update of a part of the state, true by definition, so that no later proof unfolds a record
update; and the canonical form of the reset memory. -/

namespace Sys2Proof.Machine

/-- The memory right after reset lists nothing, so it has the canonical form. -/
theorem reset_mem_wf : State.reset.chip.mem.wf = true := rfl

/-! ### `putReg` -/

@[simp] theorem putReg_free (c : Chip) (off v : Nat) : (putReg c off v).free = c.free := rfl
@[simp] theorem putReg_out (c : Chip) (off v : Nat) : (putReg c off v).out = c.out := rfl
@[simp] theorem putReg_aonNs (c : Chip) (off v : Nat) : (putReg c off v).aonNs = c.aonNs := rfl
@[simp] theorem putReg_gptpNs (c : Chip) (off v : Nat) : (putReg c off v).gptpNs = c.gptpNs := rfl
@[simp] theorem putReg_upNs (c : Chip) (off v : Nat) : (putReg c off v).upNs = c.upNs := rfl
@[simp] theorem putReg_syncNs (c : Chip) (off v : Nat) : (putReg c off v).syncNs = c.syncNs := rfl
@[simp] theorem putReg_mem (c : Chip) (off v : Nat) : (putReg c off v).mem = c.mem := rfl
@[simp] theorem putReg_ecc (c : Chip) (off v : Nat) : (putReg c off v).ecc = c.ecc := rfl
@[simp] theorem putReg_residue (c : Chip) (off v : Nat) : (putReg c off v).residue = c.residue := rfl
@[simp] theorem putReg_dirty (c : Chip) (off v : Nat) : (putReg c off v).dirty = c.dirty := rfl
@[simp] theorem putReg_regs (c : Chip) (off v : Nat) : (putReg c off v).regs = tabSet c.regs off (BitVec.ofNat 32 v) := rfl
@[simp] theorem putReg_rems (c : Chip) (off v : Nat) : (putReg c off v).rems = c.rems := rfl
@[simp] theorem putReg_basins (c : Chip) (off v : Nat) : (putReg c off v).basins = c.basins := rfl
@[simp] theorem putReg_recs (c : Chip) (off v : Nat) : (putReg c off v).recs = c.recs := rfl
@[simp] theorem putReg_movers (c : Chip) (off v : Nat) : (putReg c off v).movers = c.movers := rfl
@[simp] theorem putReg_plQueue (c : Chip) (off v : Nat) : (putReg c off v).plQueue = c.plQueue := rfl
@[simp] theorem putReg_away (c : Chip) (off v : Nat) : (putReg c off v).away = c.away := rfl
@[simp] theorem putReg_flash (c : Chip) (off v : Nat) : (putReg c off v).flash = c.flash := rfl
@[simp] theorem putReg_accounts (c : Chip) (off v : Nat) : (putReg c off v).accounts = c.accounts := rfl
@[simp] theorem putReg_reserved (c : Chip) (off v : Nat) : (putReg c off v).reserved = c.reserved := rfl
@[simp] theorem putReg_charged (c : Chip) (off v : Nat) : (putReg c off v).charged = c.charged := rfl
@[simp] theorem putReg_jobs (c : Chip) (off v : Nat) : (putReg c off v).jobs = c.jobs := rfl
@[simp] theorem putReg_seqs (c : Chip) (off v : Nat) : (putReg c off v).seqs = c.seqs := rfl
@[simp] theorem putReg_commits (c : Chip) (off v : Nat) : (putReg c off v).commits = c.commits := rfl
@[simp] theorem putReg_cad (c : Chip) (off v : Nat) : (putReg c off v).cad = c.cad := rfl
@[simp] theorem putReg_recorder (c : Chip) (off v : Nat) : (putReg c off v).recorder = c.recorder := rfl
@[simp] theorem putReg_power (c : Chip) (off v : Nat) : (putReg c off v).power = c.power := rfl
@[simp] theorem putReg_weir (c : Chip) (off v : Nat) : (putReg c off v).weir = c.weir := rfl
@[simp] theorem putReg_mbox (c : Chip) (off v : Nat) : (putReg c off v).mbox = c.mbox := rfl
@[simp] theorem putReg_window (c : Chip) (off v : Nat) : (putReg c off v).window = c.window := rfl
@[simp] theorem putReg_fab (c : Chip) (off v : Nat) : (putReg c off v).fab = c.fab := rfl
@[simp] theorem putReg_ms (c : Chip) (off v : Nat) : (putReg c off v).ms = c.ms := rfl
@[simp] theorem putReg_ctl (c : Chip) (off v : Nat) : (putReg c off v).ctl = c.ctl := rfl

/-! ### `putF` -/

@[simp] theorem putF_free (c : Chip) (off lo w v : Nat) : (putF c off lo w v).free = c.free := rfl
@[simp] theorem putF_out (c : Chip) (off lo w v : Nat) : (putF c off lo w v).out = c.out := rfl
@[simp] theorem putF_aonNs (c : Chip) (off lo w v : Nat) : (putF c off lo w v).aonNs = c.aonNs := rfl
@[simp] theorem putF_gptpNs (c : Chip) (off lo w v : Nat) : (putF c off lo w v).gptpNs = c.gptpNs := rfl
@[simp] theorem putF_upNs (c : Chip) (off lo w v : Nat) : (putF c off lo w v).upNs = c.upNs := rfl
@[simp] theorem putF_syncNs (c : Chip) (off lo w v : Nat) : (putF c off lo w v).syncNs = c.syncNs := rfl
@[simp] theorem putF_mem (c : Chip) (off lo w v : Nat) : (putF c off lo w v).mem = c.mem := rfl
@[simp] theorem putF_ecc (c : Chip) (off lo w v : Nat) : (putF c off lo w v).ecc = c.ecc := rfl
@[simp] theorem putF_residue (c : Chip) (off lo w v : Nat) : (putF c off lo w v).residue = c.residue := rfl
@[simp] theorem putF_dirty (c : Chip) (off lo w v : Nat) : (putF c off lo w v).dirty = c.dirty := rfl
@[simp] theorem putF_rems (c : Chip) (off lo w v : Nat) : (putF c off lo w v).rems = c.rems := rfl
@[simp] theorem putF_basins (c : Chip) (off lo w v : Nat) : (putF c off lo w v).basins = c.basins := rfl
@[simp] theorem putF_recs (c : Chip) (off lo w v : Nat) : (putF c off lo w v).recs = c.recs := rfl
@[simp] theorem putF_movers (c : Chip) (off lo w v : Nat) : (putF c off lo w v).movers = c.movers := rfl
@[simp] theorem putF_plQueue (c : Chip) (off lo w v : Nat) : (putF c off lo w v).plQueue = c.plQueue := rfl
@[simp] theorem putF_away (c : Chip) (off lo w v : Nat) : (putF c off lo w v).away = c.away := rfl
@[simp] theorem putF_flash (c : Chip) (off lo w v : Nat) : (putF c off lo w v).flash = c.flash := rfl
@[simp] theorem putF_accounts (c : Chip) (off lo w v : Nat) : (putF c off lo w v).accounts = c.accounts := rfl
@[simp] theorem putF_reserved (c : Chip) (off lo w v : Nat) : (putF c off lo w v).reserved = c.reserved := rfl
@[simp] theorem putF_charged (c : Chip) (off lo w v : Nat) : (putF c off lo w v).charged = c.charged := rfl
@[simp] theorem putF_jobs (c : Chip) (off lo w v : Nat) : (putF c off lo w v).jobs = c.jobs := rfl
@[simp] theorem putF_seqs (c : Chip) (off lo w v : Nat) : (putF c off lo w v).seqs = c.seqs := rfl
@[simp] theorem putF_commits (c : Chip) (off lo w v : Nat) : (putF c off lo w v).commits = c.commits := rfl
@[simp] theorem putF_cad (c : Chip) (off lo w v : Nat) : (putF c off lo w v).cad = c.cad := rfl
@[simp] theorem putF_recorder (c : Chip) (off lo w v : Nat) : (putF c off lo w v).recorder = c.recorder := rfl
@[simp] theorem putF_power (c : Chip) (off lo w v : Nat) : (putF c off lo w v).power = c.power := rfl
@[simp] theorem putF_weir (c : Chip) (off lo w v : Nat) : (putF c off lo w v).weir = c.weir := rfl
@[simp] theorem putF_mbox (c : Chip) (off lo w v : Nat) : (putF c off lo w v).mbox = c.mbox := rfl
@[simp] theorem putF_window (c : Chip) (off lo w v : Nat) : (putF c off lo w v).window = c.window := rfl
@[simp] theorem putF_fab (c : Chip) (off lo w v : Nat) : (putF c off lo w v).fab = c.fab := rfl
@[simp] theorem putF_ms (c : Chip) (off lo w v : Nat) : (putF c off lo w v).ms = c.ms := rfl
@[simp] theorem putF_ctl (c : Chip) (off lo w v : Nat) : (putF c off lo w v).ctl = c.ctl := rfl

/-! ### `emit` -/

@[simp] theorem emit_free (x : Emit) (c : Chip) : (emit x c).free = c.free := rfl
@[simp] theorem emit_out (x : Emit) (c : Chip) : (emit x c).out = x :: c.out := rfl
@[simp] theorem emit_aonNs (x : Emit) (c : Chip) : (emit x c).aonNs = c.aonNs := rfl
@[simp] theorem emit_gptpNs (x : Emit) (c : Chip) : (emit x c).gptpNs = c.gptpNs := rfl
@[simp] theorem emit_upNs (x : Emit) (c : Chip) : (emit x c).upNs = c.upNs := rfl
@[simp] theorem emit_syncNs (x : Emit) (c : Chip) : (emit x c).syncNs = c.syncNs := rfl
@[simp] theorem emit_mem (x : Emit) (c : Chip) : (emit x c).mem = c.mem := rfl
@[simp] theorem emit_ecc (x : Emit) (c : Chip) : (emit x c).ecc = c.ecc := rfl
@[simp] theorem emit_residue (x : Emit) (c : Chip) : (emit x c).residue = c.residue := rfl
@[simp] theorem emit_dirty (x : Emit) (c : Chip) : (emit x c).dirty = c.dirty := rfl
@[simp] theorem emit_regs (x : Emit) (c : Chip) : (emit x c).regs = c.regs := rfl
@[simp] theorem emit_rems (x : Emit) (c : Chip) : (emit x c).rems = c.rems := rfl
@[simp] theorem emit_basins (x : Emit) (c : Chip) : (emit x c).basins = c.basins := rfl
@[simp] theorem emit_recs (x : Emit) (c : Chip) : (emit x c).recs = c.recs := rfl
@[simp] theorem emit_movers (x : Emit) (c : Chip) : (emit x c).movers = c.movers := rfl
@[simp] theorem emit_plQueue (x : Emit) (c : Chip) : (emit x c).plQueue = c.plQueue := rfl
@[simp] theorem emit_away (x : Emit) (c : Chip) : (emit x c).away = c.away := rfl
@[simp] theorem emit_flash (x : Emit) (c : Chip) : (emit x c).flash = c.flash := rfl
@[simp] theorem emit_accounts (x : Emit) (c : Chip) : (emit x c).accounts = c.accounts := rfl
@[simp] theorem emit_reserved (x : Emit) (c : Chip) : (emit x c).reserved = c.reserved := rfl
@[simp] theorem emit_charged (x : Emit) (c : Chip) : (emit x c).charged = c.charged := rfl
@[simp] theorem emit_jobs (x : Emit) (c : Chip) : (emit x c).jobs = c.jobs := rfl
@[simp] theorem emit_seqs (x : Emit) (c : Chip) : (emit x c).seqs = c.seqs := rfl
@[simp] theorem emit_commits (x : Emit) (c : Chip) : (emit x c).commits = c.commits := rfl
@[simp] theorem emit_cad (x : Emit) (c : Chip) : (emit x c).cad = c.cad := rfl
@[simp] theorem emit_recorder (x : Emit) (c : Chip) : (emit x c).recorder = c.recorder := rfl
@[simp] theorem emit_power (x : Emit) (c : Chip) : (emit x c).power = c.power := rfl
@[simp] theorem emit_weir (x : Emit) (c : Chip) : (emit x c).weir = c.weir := rfl
@[simp] theorem emit_mbox (x : Emit) (c : Chip) : (emit x c).mbox = c.mbox := rfl
@[simp] theorem emit_window (x : Emit) (c : Chip) : (emit x c).window = c.window := rfl
@[simp] theorem emit_fab (x : Emit) (c : Chip) : (emit x c).fab = c.fab := rfl
@[simp] theorem emit_ms (x : Emit) (c : Chip) : (emit x c).ms = c.ms := rfl
@[simp] theorem emit_ctl (x : Emit) (c : Chip) : (emit x c).ctl = c.ctl := rfl

/-! ### `modBasin` -/

@[simp] theorem modBasin_free (b : Fin 32) (f : Basin → Basin) (c : Chip) : (modBasin b f c).free = c.free := rfl
@[simp] theorem modBasin_out (b : Fin 32) (f : Basin → Basin) (c : Chip) : (modBasin b f c).out = c.out := rfl
@[simp] theorem modBasin_aonNs (b : Fin 32) (f : Basin → Basin) (c : Chip) : (modBasin b f c).aonNs = c.aonNs := rfl
@[simp] theorem modBasin_gptpNs (b : Fin 32) (f : Basin → Basin) (c : Chip) : (modBasin b f c).gptpNs = c.gptpNs := rfl
@[simp] theorem modBasin_upNs (b : Fin 32) (f : Basin → Basin) (c : Chip) : (modBasin b f c).upNs = c.upNs := rfl
@[simp] theorem modBasin_syncNs (b : Fin 32) (f : Basin → Basin) (c : Chip) : (modBasin b f c).syncNs = c.syncNs := rfl
@[simp] theorem modBasin_mem (b : Fin 32) (f : Basin → Basin) (c : Chip) : (modBasin b f c).mem = c.mem := rfl
@[simp] theorem modBasin_ecc (b : Fin 32) (f : Basin → Basin) (c : Chip) : (modBasin b f c).ecc = c.ecc := rfl
@[simp] theorem modBasin_residue (b : Fin 32) (f : Basin → Basin) (c : Chip) : (modBasin b f c).residue = c.residue := rfl
@[simp] theorem modBasin_dirty (b : Fin 32) (f : Basin → Basin) (c : Chip) : (modBasin b f c).dirty = c.dirty := rfl
@[simp] theorem modBasin_regs (b : Fin 32) (f : Basin → Basin) (c : Chip) : (modBasin b f c).regs = c.regs := rfl
@[simp] theorem modBasin_rems (b : Fin 32) (f : Basin → Basin) (c : Chip) : (modBasin b f c).rems = c.rems := rfl
@[simp] theorem modBasin_basins (b : Fin 32) (f : Basin → Basin) (c : Chip) : (modBasin b f c).basins = c.basins.set b.val (f c.basins[b]) b.isLt := rfl
@[simp] theorem modBasin_recs (b : Fin 32) (f : Basin → Basin) (c : Chip) : (modBasin b f c).recs = c.recs := rfl
@[simp] theorem modBasin_movers (b : Fin 32) (f : Basin → Basin) (c : Chip) : (modBasin b f c).movers = c.movers := rfl
@[simp] theorem modBasin_plQueue (b : Fin 32) (f : Basin → Basin) (c : Chip) : (modBasin b f c).plQueue = c.plQueue := rfl
@[simp] theorem modBasin_away (b : Fin 32) (f : Basin → Basin) (c : Chip) : (modBasin b f c).away = c.away := rfl
@[simp] theorem modBasin_flash (b : Fin 32) (f : Basin → Basin) (c : Chip) : (modBasin b f c).flash = c.flash := rfl
@[simp] theorem modBasin_accounts (b : Fin 32) (f : Basin → Basin) (c : Chip) : (modBasin b f c).accounts = c.accounts := rfl
@[simp] theorem modBasin_reserved (b : Fin 32) (f : Basin → Basin) (c : Chip) : (modBasin b f c).reserved = c.reserved := rfl
@[simp] theorem modBasin_charged (b : Fin 32) (f : Basin → Basin) (c : Chip) : (modBasin b f c).charged = c.charged := rfl
@[simp] theorem modBasin_jobs (b : Fin 32) (f : Basin → Basin) (c : Chip) : (modBasin b f c).jobs = c.jobs := rfl
@[simp] theorem modBasin_seqs (b : Fin 32) (f : Basin → Basin) (c : Chip) : (modBasin b f c).seqs = c.seqs := rfl
@[simp] theorem modBasin_commits (b : Fin 32) (f : Basin → Basin) (c : Chip) : (modBasin b f c).commits = c.commits := rfl
@[simp] theorem modBasin_cad (b : Fin 32) (f : Basin → Basin) (c : Chip) : (modBasin b f c).cad = c.cad := rfl
@[simp] theorem modBasin_recorder (b : Fin 32) (f : Basin → Basin) (c : Chip) : (modBasin b f c).recorder = c.recorder := rfl
@[simp] theorem modBasin_power (b : Fin 32) (f : Basin → Basin) (c : Chip) : (modBasin b f c).power = c.power := rfl
@[simp] theorem modBasin_weir (b : Fin 32) (f : Basin → Basin) (c : Chip) : (modBasin b f c).weir = c.weir := rfl
@[simp] theorem modBasin_mbox (b : Fin 32) (f : Basin → Basin) (c : Chip) : (modBasin b f c).mbox = c.mbox := rfl
@[simp] theorem modBasin_window (b : Fin 32) (f : Basin → Basin) (c : Chip) : (modBasin b f c).window = c.window := rfl
@[simp] theorem modBasin_fab (b : Fin 32) (f : Basin → Basin) (c : Chip) : (modBasin b f c).fab = c.fab := rfl
@[simp] theorem modBasin_ms (b : Fin 32) (f : Basin → Basin) (c : Chip) : (modBasin b f c).ms = c.ms := rfl
@[simp] theorem modBasin_ctl (b : Fin 32) (f : Basin → Basin) (c : Chip) : (modBasin b f c).ctl = c.ctl := rfl

/-! ### `modBasins` -/

@[simp] theorem modBasins_free (f : Fin 32 → Basin → Basin) (c : Chip) : (modBasins f c).free = c.free := by unfold modBasins; exact rfl
@[simp] theorem modBasins_out (f : Fin 32 → Basin → Basin) (c : Chip) : (modBasins f c).out = c.out := by unfold modBasins; exact rfl
@[simp] theorem modBasins_aonNs (f : Fin 32 → Basin → Basin) (c : Chip) : (modBasins f c).aonNs = c.aonNs := by unfold modBasins; exact rfl
@[simp] theorem modBasins_gptpNs (f : Fin 32 → Basin → Basin) (c : Chip) : (modBasins f c).gptpNs = c.gptpNs := by unfold modBasins; exact rfl
@[simp] theorem modBasins_upNs (f : Fin 32 → Basin → Basin) (c : Chip) : (modBasins f c).upNs = c.upNs := by unfold modBasins; exact rfl
@[simp] theorem modBasins_syncNs (f : Fin 32 → Basin → Basin) (c : Chip) : (modBasins f c).syncNs = c.syncNs := by unfold modBasins; exact rfl
@[simp] theorem modBasins_mem (f : Fin 32 → Basin → Basin) (c : Chip) : (modBasins f c).mem = c.mem := by unfold modBasins; exact rfl
@[simp] theorem modBasins_ecc (f : Fin 32 → Basin → Basin) (c : Chip) : (modBasins f c).ecc = c.ecc := by unfold modBasins; exact rfl
@[simp] theorem modBasins_residue (f : Fin 32 → Basin → Basin) (c : Chip) : (modBasins f c).residue = c.residue := by unfold modBasins; exact rfl
@[simp] theorem modBasins_dirty (f : Fin 32 → Basin → Basin) (c : Chip) : (modBasins f c).dirty = c.dirty := by unfold modBasins; exact rfl
@[simp] theorem modBasins_regs (f : Fin 32 → Basin → Basin) (c : Chip) : (modBasins f c).regs = c.regs := by unfold modBasins; exact rfl
@[simp] theorem modBasins_rems (f : Fin 32 → Basin → Basin) (c : Chip) : (modBasins f c).rems = c.rems := by unfold modBasins; exact rfl
@[simp] theorem modBasins_basins (f : Fin 32 → Basin → Basin) (c : Chip) : (modBasins f c).basins = Vector.ofFn (fun i => f i c.basins[i]) := rfl
@[simp] theorem modBasins_recs (f : Fin 32 → Basin → Basin) (c : Chip) : (modBasins f c).recs = c.recs := by unfold modBasins; exact rfl
@[simp] theorem modBasins_movers (f : Fin 32 → Basin → Basin) (c : Chip) : (modBasins f c).movers = c.movers := by unfold modBasins; exact rfl
@[simp] theorem modBasins_plQueue (f : Fin 32 → Basin → Basin) (c : Chip) : (modBasins f c).plQueue = c.plQueue := by unfold modBasins; exact rfl
@[simp] theorem modBasins_away (f : Fin 32 → Basin → Basin) (c : Chip) : (modBasins f c).away = c.away := by unfold modBasins; exact rfl
@[simp] theorem modBasins_flash (f : Fin 32 → Basin → Basin) (c : Chip) : (modBasins f c).flash = c.flash := by unfold modBasins; exact rfl
@[simp] theorem modBasins_accounts (f : Fin 32 → Basin → Basin) (c : Chip) : (modBasins f c).accounts = c.accounts := by unfold modBasins; exact rfl
@[simp] theorem modBasins_reserved (f : Fin 32 → Basin → Basin) (c : Chip) : (modBasins f c).reserved = c.reserved := by unfold modBasins; exact rfl
@[simp] theorem modBasins_charged (f : Fin 32 → Basin → Basin) (c : Chip) : (modBasins f c).charged = c.charged := by unfold modBasins; exact rfl
@[simp] theorem modBasins_jobs (f : Fin 32 → Basin → Basin) (c : Chip) : (modBasins f c).jobs = c.jobs := by unfold modBasins; exact rfl
@[simp] theorem modBasins_seqs (f : Fin 32 → Basin → Basin) (c : Chip) : (modBasins f c).seqs = c.seqs := by unfold modBasins; exact rfl
@[simp] theorem modBasins_commits (f : Fin 32 → Basin → Basin) (c : Chip) : (modBasins f c).commits = c.commits := by unfold modBasins; exact rfl
@[simp] theorem modBasins_cad (f : Fin 32 → Basin → Basin) (c : Chip) : (modBasins f c).cad = c.cad := by unfold modBasins; exact rfl
@[simp] theorem modBasins_recorder (f : Fin 32 → Basin → Basin) (c : Chip) : (modBasins f c).recorder = c.recorder := by unfold modBasins; exact rfl
@[simp] theorem modBasins_power (f : Fin 32 → Basin → Basin) (c : Chip) : (modBasins f c).power = c.power := by unfold modBasins; exact rfl
@[simp] theorem modBasins_weir (f : Fin 32 → Basin → Basin) (c : Chip) : (modBasins f c).weir = c.weir := by unfold modBasins; exact rfl
@[simp] theorem modBasins_mbox (f : Fin 32 → Basin → Basin) (c : Chip) : (modBasins f c).mbox = c.mbox := by unfold modBasins; exact rfl
@[simp] theorem modBasins_window (f : Fin 32 → Basin → Basin) (c : Chip) : (modBasins f c).window = c.window := by unfold modBasins; exact rfl
@[simp] theorem modBasins_fab (f : Fin 32 → Basin → Basin) (c : Chip) : (modBasins f c).fab = c.fab := by unfold modBasins; exact rfl
@[simp] theorem modBasins_ms (f : Fin 32 → Basin → Basin) (c : Chip) : (modBasins f c).ms = c.ms := by unfold modBasins; exact rfl
@[simp] theorem modBasins_ctl (f : Fin 32 → Basin → Basin) (c : Chip) : (modBasins f c).ctl = c.ctl := by unfold modBasins; exact rfl

/-! ### `modJob` -/

@[simp] theorem modJob_free (j : Nat) (f : JobRc → JobRc) (c : Chip) : (modJob j f c).free = c.free := rfl
@[simp] theorem modJob_out (j : Nat) (f : JobRc → JobRc) (c : Chip) : (modJob j f c).out = c.out := rfl
@[simp] theorem modJob_aonNs (j : Nat) (f : JobRc → JobRc) (c : Chip) : (modJob j f c).aonNs = c.aonNs := rfl
@[simp] theorem modJob_gptpNs (j : Nat) (f : JobRc → JobRc) (c : Chip) : (modJob j f c).gptpNs = c.gptpNs := rfl
@[simp] theorem modJob_upNs (j : Nat) (f : JobRc → JobRc) (c : Chip) : (modJob j f c).upNs = c.upNs := rfl
@[simp] theorem modJob_syncNs (j : Nat) (f : JobRc → JobRc) (c : Chip) : (modJob j f c).syncNs = c.syncNs := rfl
@[simp] theorem modJob_mem (j : Nat) (f : JobRc → JobRc) (c : Chip) : (modJob j f c).mem = c.mem := rfl
@[simp] theorem modJob_ecc (j : Nat) (f : JobRc → JobRc) (c : Chip) : (modJob j f c).ecc = c.ecc := rfl
@[simp] theorem modJob_residue (j : Nat) (f : JobRc → JobRc) (c : Chip) : (modJob j f c).residue = c.residue := rfl
@[simp] theorem modJob_dirty (j : Nat) (f : JobRc → JobRc) (c : Chip) : (modJob j f c).dirty = c.dirty := rfl
@[simp] theorem modJob_regs (j : Nat) (f : JobRc → JobRc) (c : Chip) : (modJob j f c).regs = c.regs := rfl
@[simp] theorem modJob_rems (j : Nat) (f : JobRc → JobRc) (c : Chip) : (modJob j f c).rems = c.rems := rfl
@[simp] theorem modJob_basins (j : Nat) (f : JobRc → JobRc) (c : Chip) : (modJob j f c).basins = c.basins := rfl
@[simp] theorem modJob_recs (j : Nat) (f : JobRc → JobRc) (c : Chip) : (modJob j f c).recs = c.recs := rfl
@[simp] theorem modJob_movers (j : Nat) (f : JobRc → JobRc) (c : Chip) : (modJob j f c).movers = c.movers := rfl
@[simp] theorem modJob_plQueue (j : Nat) (f : JobRc → JobRc) (c : Chip) : (modJob j f c).plQueue = c.plQueue := rfl
@[simp] theorem modJob_away (j : Nat) (f : JobRc → JobRc) (c : Chip) : (modJob j f c).away = c.away := rfl
@[simp] theorem modJob_flash (j : Nat) (f : JobRc → JobRc) (c : Chip) : (modJob j f c).flash = c.flash := rfl
@[simp] theorem modJob_accounts (j : Nat) (f : JobRc → JobRc) (c : Chip) : (modJob j f c).accounts = c.accounts := rfl
@[simp] theorem modJob_reserved (j : Nat) (f : JobRc → JobRc) (c : Chip) : (modJob j f c).reserved = c.reserved := rfl
@[simp] theorem modJob_charged (j : Nat) (f : JobRc → JobRc) (c : Chip) : (modJob j f c).charged = c.charged := rfl
@[simp] theorem modJob_jobs (j : Nat) (f : JobRc → JobRc) (c : Chip) : (modJob j f c).jobs = tabSet c.jobs j (f (jobRc c j)) := rfl
@[simp] theorem modJob_seqs (j : Nat) (f : JobRc → JobRc) (c : Chip) : (modJob j f c).seqs = c.seqs := rfl
@[simp] theorem modJob_commits (j : Nat) (f : JobRc → JobRc) (c : Chip) : (modJob j f c).commits = c.commits := rfl
@[simp] theorem modJob_cad (j : Nat) (f : JobRc → JobRc) (c : Chip) : (modJob j f c).cad = c.cad := rfl
@[simp] theorem modJob_recorder (j : Nat) (f : JobRc → JobRc) (c : Chip) : (modJob j f c).recorder = c.recorder := rfl
@[simp] theorem modJob_power (j : Nat) (f : JobRc → JobRc) (c : Chip) : (modJob j f c).power = c.power := rfl
@[simp] theorem modJob_weir (j : Nat) (f : JobRc → JobRc) (c : Chip) : (modJob j f c).weir = c.weir := rfl
@[simp] theorem modJob_mbox (j : Nat) (f : JobRc → JobRc) (c : Chip) : (modJob j f c).mbox = c.mbox := rfl
@[simp] theorem modJob_window (j : Nat) (f : JobRc → JobRc) (c : Chip) : (modJob j f c).window = c.window := rfl
@[simp] theorem modJob_fab (j : Nat) (f : JobRc → JobRc) (c : Chip) : (modJob j f c).fab = c.fab := rfl
@[simp] theorem modJob_ms (j : Nat) (f : JobRc → JobRc) (c : Chip) : (modJob j f c).ms = c.ms := rfl
@[simp] theorem modJob_ctl (j : Nat) (f : JobRc → JobRc) (c : Chip) : (modJob j f c).ctl = c.ctl := rfl

/-! ### `modCad` -/

@[simp] theorem modCad_free (f : Cadence → Cadence) (c : Chip) : (modCad f c).free = c.free := rfl
@[simp] theorem modCad_out (f : Cadence → Cadence) (c : Chip) : (modCad f c).out = c.out := rfl
@[simp] theorem modCad_aonNs (f : Cadence → Cadence) (c : Chip) : (modCad f c).aonNs = c.aonNs := rfl
@[simp] theorem modCad_gptpNs (f : Cadence → Cadence) (c : Chip) : (modCad f c).gptpNs = c.gptpNs := rfl
@[simp] theorem modCad_upNs (f : Cadence → Cadence) (c : Chip) : (modCad f c).upNs = c.upNs := rfl
@[simp] theorem modCad_syncNs (f : Cadence → Cadence) (c : Chip) : (modCad f c).syncNs = c.syncNs := rfl
@[simp] theorem modCad_mem (f : Cadence → Cadence) (c : Chip) : (modCad f c).mem = c.mem := rfl
@[simp] theorem modCad_ecc (f : Cadence → Cadence) (c : Chip) : (modCad f c).ecc = c.ecc := rfl
@[simp] theorem modCad_residue (f : Cadence → Cadence) (c : Chip) : (modCad f c).residue = c.residue := rfl
@[simp] theorem modCad_dirty (f : Cadence → Cadence) (c : Chip) : (modCad f c).dirty = c.dirty := rfl
@[simp] theorem modCad_regs (f : Cadence → Cadence) (c : Chip) : (modCad f c).regs = c.regs := rfl
@[simp] theorem modCad_rems (f : Cadence → Cadence) (c : Chip) : (modCad f c).rems = c.rems := rfl
@[simp] theorem modCad_basins (f : Cadence → Cadence) (c : Chip) : (modCad f c).basins = c.basins := rfl
@[simp] theorem modCad_recs (f : Cadence → Cadence) (c : Chip) : (modCad f c).recs = c.recs := rfl
@[simp] theorem modCad_movers (f : Cadence → Cadence) (c : Chip) : (modCad f c).movers = c.movers := rfl
@[simp] theorem modCad_plQueue (f : Cadence → Cadence) (c : Chip) : (modCad f c).plQueue = c.plQueue := rfl
@[simp] theorem modCad_away (f : Cadence → Cadence) (c : Chip) : (modCad f c).away = c.away := rfl
@[simp] theorem modCad_flash (f : Cadence → Cadence) (c : Chip) : (modCad f c).flash = c.flash := rfl
@[simp] theorem modCad_accounts (f : Cadence → Cadence) (c : Chip) : (modCad f c).accounts = c.accounts := rfl
@[simp] theorem modCad_reserved (f : Cadence → Cadence) (c : Chip) : (modCad f c).reserved = c.reserved := rfl
@[simp] theorem modCad_charged (f : Cadence → Cadence) (c : Chip) : (modCad f c).charged = c.charged := rfl
@[simp] theorem modCad_jobs (f : Cadence → Cadence) (c : Chip) : (modCad f c).jobs = c.jobs := rfl
@[simp] theorem modCad_seqs (f : Cadence → Cadence) (c : Chip) : (modCad f c).seqs = c.seqs := rfl
@[simp] theorem modCad_commits (f : Cadence → Cadence) (c : Chip) : (modCad f c).commits = c.commits := rfl
@[simp] theorem modCad_cad (f : Cadence → Cadence) (c : Chip) : (modCad f c).cad = f c.cad := rfl
@[simp] theorem modCad_recorder (f : Cadence → Cadence) (c : Chip) : (modCad f c).recorder = c.recorder := rfl
@[simp] theorem modCad_power (f : Cadence → Cadence) (c : Chip) : (modCad f c).power = c.power := rfl
@[simp] theorem modCad_weir (f : Cadence → Cadence) (c : Chip) : (modCad f c).weir = c.weir := rfl
@[simp] theorem modCad_mbox (f : Cadence → Cadence) (c : Chip) : (modCad f c).mbox = c.mbox := rfl
@[simp] theorem modCad_window (f : Cadence → Cadence) (c : Chip) : (modCad f c).window = c.window := rfl
@[simp] theorem modCad_fab (f : Cadence → Cadence) (c : Chip) : (modCad f c).fab = c.fab := rfl
@[simp] theorem modCad_ms (f : Cadence → Cadence) (c : Chip) : (modCad f c).ms = c.ms := rfl
@[simp] theorem modCad_ctl (f : Cadence → Cadence) (c : Chip) : (modCad f c).ctl = c.ctl := rfl

/-! ### `modWeir` -/

@[simp] theorem modWeir_free (f : Weir → Weir) (c : Chip) : (modWeir f c).free = c.free := rfl
@[simp] theorem modWeir_out (f : Weir → Weir) (c : Chip) : (modWeir f c).out = c.out := rfl
@[simp] theorem modWeir_aonNs (f : Weir → Weir) (c : Chip) : (modWeir f c).aonNs = c.aonNs := rfl
@[simp] theorem modWeir_gptpNs (f : Weir → Weir) (c : Chip) : (modWeir f c).gptpNs = c.gptpNs := rfl
@[simp] theorem modWeir_upNs (f : Weir → Weir) (c : Chip) : (modWeir f c).upNs = c.upNs := rfl
@[simp] theorem modWeir_syncNs (f : Weir → Weir) (c : Chip) : (modWeir f c).syncNs = c.syncNs := rfl
@[simp] theorem modWeir_mem (f : Weir → Weir) (c : Chip) : (modWeir f c).mem = c.mem := rfl
@[simp] theorem modWeir_ecc (f : Weir → Weir) (c : Chip) : (modWeir f c).ecc = c.ecc := rfl
@[simp] theorem modWeir_residue (f : Weir → Weir) (c : Chip) : (modWeir f c).residue = c.residue := rfl
@[simp] theorem modWeir_dirty (f : Weir → Weir) (c : Chip) : (modWeir f c).dirty = c.dirty := rfl
@[simp] theorem modWeir_regs (f : Weir → Weir) (c : Chip) : (modWeir f c).regs = c.regs := rfl
@[simp] theorem modWeir_rems (f : Weir → Weir) (c : Chip) : (modWeir f c).rems = c.rems := rfl
@[simp] theorem modWeir_basins (f : Weir → Weir) (c : Chip) : (modWeir f c).basins = c.basins := rfl
@[simp] theorem modWeir_recs (f : Weir → Weir) (c : Chip) : (modWeir f c).recs = c.recs := rfl
@[simp] theorem modWeir_movers (f : Weir → Weir) (c : Chip) : (modWeir f c).movers = c.movers := rfl
@[simp] theorem modWeir_plQueue (f : Weir → Weir) (c : Chip) : (modWeir f c).plQueue = c.plQueue := rfl
@[simp] theorem modWeir_away (f : Weir → Weir) (c : Chip) : (modWeir f c).away = c.away := rfl
@[simp] theorem modWeir_flash (f : Weir → Weir) (c : Chip) : (modWeir f c).flash = c.flash := rfl
@[simp] theorem modWeir_accounts (f : Weir → Weir) (c : Chip) : (modWeir f c).accounts = c.accounts := rfl
@[simp] theorem modWeir_reserved (f : Weir → Weir) (c : Chip) : (modWeir f c).reserved = c.reserved := rfl
@[simp] theorem modWeir_charged (f : Weir → Weir) (c : Chip) : (modWeir f c).charged = c.charged := rfl
@[simp] theorem modWeir_jobs (f : Weir → Weir) (c : Chip) : (modWeir f c).jobs = c.jobs := rfl
@[simp] theorem modWeir_seqs (f : Weir → Weir) (c : Chip) : (modWeir f c).seqs = c.seqs := rfl
@[simp] theorem modWeir_commits (f : Weir → Weir) (c : Chip) : (modWeir f c).commits = c.commits := rfl
@[simp] theorem modWeir_cad (f : Weir → Weir) (c : Chip) : (modWeir f c).cad = c.cad := rfl
@[simp] theorem modWeir_recorder (f : Weir → Weir) (c : Chip) : (modWeir f c).recorder = c.recorder := rfl
@[simp] theorem modWeir_power (f : Weir → Weir) (c : Chip) : (modWeir f c).power = c.power := rfl
@[simp] theorem modWeir_weir (f : Weir → Weir) (c : Chip) : (modWeir f c).weir = f c.weir := rfl
@[simp] theorem modWeir_mbox (f : Weir → Weir) (c : Chip) : (modWeir f c).mbox = c.mbox := rfl
@[simp] theorem modWeir_window (f : Weir → Weir) (c : Chip) : (modWeir f c).window = c.window := rfl
@[simp] theorem modWeir_fab (f : Weir → Weir) (c : Chip) : (modWeir f c).fab = c.fab := rfl
@[simp] theorem modWeir_ms (f : Weir → Weir) (c : Chip) : (modWeir f c).ms = c.ms := rfl
@[simp] theorem modWeir_ctl (f : Weir → Weir) (c : Chip) : (modWeir f c).ctl = c.ctl := rfl

/-! ### `modPower` -/

@[simp] theorem modPower_free (f : Power → Power) (c : Chip) : (modPower f c).free = c.free := rfl
@[simp] theorem modPower_out (f : Power → Power) (c : Chip) : (modPower f c).out = c.out := rfl
@[simp] theorem modPower_aonNs (f : Power → Power) (c : Chip) : (modPower f c).aonNs = c.aonNs := rfl
@[simp] theorem modPower_gptpNs (f : Power → Power) (c : Chip) : (modPower f c).gptpNs = c.gptpNs := rfl
@[simp] theorem modPower_upNs (f : Power → Power) (c : Chip) : (modPower f c).upNs = c.upNs := rfl
@[simp] theorem modPower_syncNs (f : Power → Power) (c : Chip) : (modPower f c).syncNs = c.syncNs := rfl
@[simp] theorem modPower_mem (f : Power → Power) (c : Chip) : (modPower f c).mem = c.mem := rfl
@[simp] theorem modPower_ecc (f : Power → Power) (c : Chip) : (modPower f c).ecc = c.ecc := rfl
@[simp] theorem modPower_residue (f : Power → Power) (c : Chip) : (modPower f c).residue = c.residue := rfl
@[simp] theorem modPower_dirty (f : Power → Power) (c : Chip) : (modPower f c).dirty = c.dirty := rfl
@[simp] theorem modPower_regs (f : Power → Power) (c : Chip) : (modPower f c).regs = c.regs := rfl
@[simp] theorem modPower_rems (f : Power → Power) (c : Chip) : (modPower f c).rems = c.rems := rfl
@[simp] theorem modPower_basins (f : Power → Power) (c : Chip) : (modPower f c).basins = c.basins := rfl
@[simp] theorem modPower_recs (f : Power → Power) (c : Chip) : (modPower f c).recs = c.recs := rfl
@[simp] theorem modPower_movers (f : Power → Power) (c : Chip) : (modPower f c).movers = c.movers := rfl
@[simp] theorem modPower_plQueue (f : Power → Power) (c : Chip) : (modPower f c).plQueue = c.plQueue := rfl
@[simp] theorem modPower_away (f : Power → Power) (c : Chip) : (modPower f c).away = c.away := rfl
@[simp] theorem modPower_flash (f : Power → Power) (c : Chip) : (modPower f c).flash = c.flash := rfl
@[simp] theorem modPower_accounts (f : Power → Power) (c : Chip) : (modPower f c).accounts = c.accounts := rfl
@[simp] theorem modPower_reserved (f : Power → Power) (c : Chip) : (modPower f c).reserved = c.reserved := rfl
@[simp] theorem modPower_charged (f : Power → Power) (c : Chip) : (modPower f c).charged = c.charged := rfl
@[simp] theorem modPower_jobs (f : Power → Power) (c : Chip) : (modPower f c).jobs = c.jobs := rfl
@[simp] theorem modPower_seqs (f : Power → Power) (c : Chip) : (modPower f c).seqs = c.seqs := rfl
@[simp] theorem modPower_commits (f : Power → Power) (c : Chip) : (modPower f c).commits = c.commits := rfl
@[simp] theorem modPower_cad (f : Power → Power) (c : Chip) : (modPower f c).cad = c.cad := rfl
@[simp] theorem modPower_recorder (f : Power → Power) (c : Chip) : (modPower f c).recorder = c.recorder := rfl
@[simp] theorem modPower_power (f : Power → Power) (c : Chip) : (modPower f c).power = f c.power := rfl
@[simp] theorem modPower_weir (f : Power → Power) (c : Chip) : (modPower f c).weir = c.weir := rfl
@[simp] theorem modPower_mbox (f : Power → Power) (c : Chip) : (modPower f c).mbox = c.mbox := rfl
@[simp] theorem modPower_window (f : Power → Power) (c : Chip) : (modPower f c).window = c.window := rfl
@[simp] theorem modPower_fab (f : Power → Power) (c : Chip) : (modPower f c).fab = c.fab := rfl
@[simp] theorem modPower_ms (f : Power → Power) (c : Chip) : (modPower f c).ms = c.ms := rfl
@[simp] theorem modPower_ctl (f : Power → Power) (c : Chip) : (modPower f c).ctl = c.ctl := rfl

/-! ### `modLink` -/

@[simp] theorem modLink_free (l : Fin 12) (f : Link → Link) (c : Chip) : (modLink l f c).free = c.free := rfl
@[simp] theorem modLink_out (l : Fin 12) (f : Link → Link) (c : Chip) : (modLink l f c).out = c.out := rfl
@[simp] theorem modLink_aonNs (l : Fin 12) (f : Link → Link) (c : Chip) : (modLink l f c).aonNs = c.aonNs := rfl
@[simp] theorem modLink_gptpNs (l : Fin 12) (f : Link → Link) (c : Chip) : (modLink l f c).gptpNs = c.gptpNs := rfl
@[simp] theorem modLink_upNs (l : Fin 12) (f : Link → Link) (c : Chip) : (modLink l f c).upNs = c.upNs := rfl
@[simp] theorem modLink_syncNs (l : Fin 12) (f : Link → Link) (c : Chip) : (modLink l f c).syncNs = c.syncNs := rfl
@[simp] theorem modLink_mem (l : Fin 12) (f : Link → Link) (c : Chip) : (modLink l f c).mem = c.mem := rfl
@[simp] theorem modLink_ecc (l : Fin 12) (f : Link → Link) (c : Chip) : (modLink l f c).ecc = c.ecc := rfl
@[simp] theorem modLink_residue (l : Fin 12) (f : Link → Link) (c : Chip) : (modLink l f c).residue = c.residue := rfl
@[simp] theorem modLink_dirty (l : Fin 12) (f : Link → Link) (c : Chip) : (modLink l f c).dirty = c.dirty := rfl
@[simp] theorem modLink_regs (l : Fin 12) (f : Link → Link) (c : Chip) : (modLink l f c).regs = c.regs := rfl
@[simp] theorem modLink_rems (l : Fin 12) (f : Link → Link) (c : Chip) : (modLink l f c).rems = c.rems := rfl
@[simp] theorem modLink_basins (l : Fin 12) (f : Link → Link) (c : Chip) : (modLink l f c).basins = c.basins := rfl
@[simp] theorem modLink_recs (l : Fin 12) (f : Link → Link) (c : Chip) : (modLink l f c).recs = c.recs := rfl
@[simp] theorem modLink_movers (l : Fin 12) (f : Link → Link) (c : Chip) : (modLink l f c).movers = c.movers := rfl
@[simp] theorem modLink_plQueue (l : Fin 12) (f : Link → Link) (c : Chip) : (modLink l f c).plQueue = c.plQueue := rfl
@[simp] theorem modLink_away (l : Fin 12) (f : Link → Link) (c : Chip) : (modLink l f c).away = c.away := rfl
@[simp] theorem modLink_flash (l : Fin 12) (f : Link → Link) (c : Chip) : (modLink l f c).flash = c.flash := rfl
@[simp] theorem modLink_accounts (l : Fin 12) (f : Link → Link) (c : Chip) : (modLink l f c).accounts = c.accounts := rfl
@[simp] theorem modLink_reserved (l : Fin 12) (f : Link → Link) (c : Chip) : (modLink l f c).reserved = c.reserved := rfl
@[simp] theorem modLink_charged (l : Fin 12) (f : Link → Link) (c : Chip) : (modLink l f c).charged = c.charged := rfl
@[simp] theorem modLink_jobs (l : Fin 12) (f : Link → Link) (c : Chip) : (modLink l f c).jobs = c.jobs := rfl
@[simp] theorem modLink_seqs (l : Fin 12) (f : Link → Link) (c : Chip) : (modLink l f c).seqs = c.seqs := rfl
@[simp] theorem modLink_commits (l : Fin 12) (f : Link → Link) (c : Chip) : (modLink l f c).commits = c.commits := rfl
@[simp] theorem modLink_cad (l : Fin 12) (f : Link → Link) (c : Chip) : (modLink l f c).cad = c.cad := rfl
@[simp] theorem modLink_recorder (l : Fin 12) (f : Link → Link) (c : Chip) : (modLink l f c).recorder = c.recorder := rfl
@[simp] theorem modLink_power (l : Fin 12) (f : Link → Link) (c : Chip) : (modLink l f c).power = c.power := rfl
@[simp] theorem modLink_weir (l : Fin 12) (f : Link → Link) (c : Chip) : (modLink l f c).weir = c.weir := rfl
@[simp] theorem modLink_mbox (l : Fin 12) (f : Link → Link) (c : Chip) : (modLink l f c).mbox = c.mbox := rfl
@[simp] theorem modLink_window (l : Fin 12) (f : Link → Link) (c : Chip) : (modLink l f c).window = c.window := rfl
@[simp] theorem modLink_ms (l : Fin 12) (f : Link → Link) (c : Chip) : (modLink l f c).ms = c.ms := rfl
@[simp] theorem modLink_ctl (l : Fin 12) (f : Link → Link) (c : Chip) : (modLink l f c).ctl = c.ctl := rfl

/-! ### `modPartner` -/

@[simp] theorem modPartner_free (p : Nat) (f : Partner → Partner) (c : Chip) : (modPartner p f c).free = c.free := rfl
@[simp] theorem modPartner_out (p : Nat) (f : Partner → Partner) (c : Chip) : (modPartner p f c).out = c.out := rfl
@[simp] theorem modPartner_aonNs (p : Nat) (f : Partner → Partner) (c : Chip) : (modPartner p f c).aonNs = c.aonNs := rfl
@[simp] theorem modPartner_gptpNs (p : Nat) (f : Partner → Partner) (c : Chip) : (modPartner p f c).gptpNs = c.gptpNs := rfl
@[simp] theorem modPartner_upNs (p : Nat) (f : Partner → Partner) (c : Chip) : (modPartner p f c).upNs = c.upNs := rfl
@[simp] theorem modPartner_syncNs (p : Nat) (f : Partner → Partner) (c : Chip) : (modPartner p f c).syncNs = c.syncNs := rfl
@[simp] theorem modPartner_mem (p : Nat) (f : Partner → Partner) (c : Chip) : (modPartner p f c).mem = c.mem := rfl
@[simp] theorem modPartner_ecc (p : Nat) (f : Partner → Partner) (c : Chip) : (modPartner p f c).ecc = c.ecc := rfl
@[simp] theorem modPartner_residue (p : Nat) (f : Partner → Partner) (c : Chip) : (modPartner p f c).residue = c.residue := rfl
@[simp] theorem modPartner_dirty (p : Nat) (f : Partner → Partner) (c : Chip) : (modPartner p f c).dirty = c.dirty := rfl
@[simp] theorem modPartner_regs (p : Nat) (f : Partner → Partner) (c : Chip) : (modPartner p f c).regs = c.regs := rfl
@[simp] theorem modPartner_rems (p : Nat) (f : Partner → Partner) (c : Chip) : (modPartner p f c).rems = c.rems := rfl
@[simp] theorem modPartner_basins (p : Nat) (f : Partner → Partner) (c : Chip) : (modPartner p f c).basins = c.basins := rfl
@[simp] theorem modPartner_recs (p : Nat) (f : Partner → Partner) (c : Chip) : (modPartner p f c).recs = c.recs := rfl
@[simp] theorem modPartner_movers (p : Nat) (f : Partner → Partner) (c : Chip) : (modPartner p f c).movers = c.movers := rfl
@[simp] theorem modPartner_plQueue (p : Nat) (f : Partner → Partner) (c : Chip) : (modPartner p f c).plQueue = c.plQueue := rfl
@[simp] theorem modPartner_away (p : Nat) (f : Partner → Partner) (c : Chip) : (modPartner p f c).away = c.away := rfl
@[simp] theorem modPartner_flash (p : Nat) (f : Partner → Partner) (c : Chip) : (modPartner p f c).flash = c.flash := rfl
@[simp] theorem modPartner_accounts (p : Nat) (f : Partner → Partner) (c : Chip) : (modPartner p f c).accounts = c.accounts := rfl
@[simp] theorem modPartner_reserved (p : Nat) (f : Partner → Partner) (c : Chip) : (modPartner p f c).reserved = c.reserved := rfl
@[simp] theorem modPartner_charged (p : Nat) (f : Partner → Partner) (c : Chip) : (modPartner p f c).charged = c.charged := rfl
@[simp] theorem modPartner_jobs (p : Nat) (f : Partner → Partner) (c : Chip) : (modPartner p f c).jobs = c.jobs := rfl
@[simp] theorem modPartner_seqs (p : Nat) (f : Partner → Partner) (c : Chip) : (modPartner p f c).seqs = c.seqs := rfl
@[simp] theorem modPartner_commits (p : Nat) (f : Partner → Partner) (c : Chip) : (modPartner p f c).commits = c.commits := rfl
@[simp] theorem modPartner_cad (p : Nat) (f : Partner → Partner) (c : Chip) : (modPartner p f c).cad = c.cad := rfl
@[simp] theorem modPartner_recorder (p : Nat) (f : Partner → Partner) (c : Chip) : (modPartner p f c).recorder = c.recorder := rfl
@[simp] theorem modPartner_power (p : Nat) (f : Partner → Partner) (c : Chip) : (modPartner p f c).power = c.power := rfl
@[simp] theorem modPartner_weir (p : Nat) (f : Partner → Partner) (c : Chip) : (modPartner p f c).weir = c.weir := rfl
@[simp] theorem modPartner_mbox (p : Nat) (f : Partner → Partner) (c : Chip) : (modPartner p f c).mbox = c.mbox := rfl
@[simp] theorem modPartner_window (p : Nat) (f : Partner → Partner) (c : Chip) : (modPartner p f c).window = c.window := rfl
@[simp] theorem modPartner_ms (p : Nat) (f : Partner → Partner) (c : Chip) : (modPartner p f c).ms = c.ms := rfl
@[simp] theorem modPartner_ctl (p : Nat) (f : Partner → Partner) (c : Chip) : (modPartner p f c).ctl = c.ctl := rfl

/-! ### `setMbox` -/

@[simp] theorem setMbox_free (ch : Fin 64) (x : Mbox) (c : Chip) : (setMbox ch x c).free = c.free := rfl
@[simp] theorem setMbox_out (ch : Fin 64) (x : Mbox) (c : Chip) : (setMbox ch x c).out = c.out := rfl
@[simp] theorem setMbox_aonNs (ch : Fin 64) (x : Mbox) (c : Chip) : (setMbox ch x c).aonNs = c.aonNs := rfl
@[simp] theorem setMbox_gptpNs (ch : Fin 64) (x : Mbox) (c : Chip) : (setMbox ch x c).gptpNs = c.gptpNs := rfl
@[simp] theorem setMbox_upNs (ch : Fin 64) (x : Mbox) (c : Chip) : (setMbox ch x c).upNs = c.upNs := rfl
@[simp] theorem setMbox_syncNs (ch : Fin 64) (x : Mbox) (c : Chip) : (setMbox ch x c).syncNs = c.syncNs := rfl
@[simp] theorem setMbox_mem (ch : Fin 64) (x : Mbox) (c : Chip) : (setMbox ch x c).mem = c.mem := rfl
@[simp] theorem setMbox_ecc (ch : Fin 64) (x : Mbox) (c : Chip) : (setMbox ch x c).ecc = c.ecc := rfl
@[simp] theorem setMbox_residue (ch : Fin 64) (x : Mbox) (c : Chip) : (setMbox ch x c).residue = c.residue := rfl
@[simp] theorem setMbox_dirty (ch : Fin 64) (x : Mbox) (c : Chip) : (setMbox ch x c).dirty = c.dirty := rfl
@[simp] theorem setMbox_rems (ch : Fin 64) (x : Mbox) (c : Chip) : (setMbox ch x c).rems = c.rems := rfl
@[simp] theorem setMbox_basins (ch : Fin 64) (x : Mbox) (c : Chip) : (setMbox ch x c).basins = c.basins := rfl
@[simp] theorem setMbox_recs (ch : Fin 64) (x : Mbox) (c : Chip) : (setMbox ch x c).recs = c.recs := rfl
@[simp] theorem setMbox_movers (ch : Fin 64) (x : Mbox) (c : Chip) : (setMbox ch x c).movers = c.movers := rfl
@[simp] theorem setMbox_plQueue (ch : Fin 64) (x : Mbox) (c : Chip) : (setMbox ch x c).plQueue = c.plQueue := rfl
@[simp] theorem setMbox_away (ch : Fin 64) (x : Mbox) (c : Chip) : (setMbox ch x c).away = c.away := rfl
@[simp] theorem setMbox_flash (ch : Fin 64) (x : Mbox) (c : Chip) : (setMbox ch x c).flash = c.flash := rfl
@[simp] theorem setMbox_accounts (ch : Fin 64) (x : Mbox) (c : Chip) : (setMbox ch x c).accounts = c.accounts := rfl
@[simp] theorem setMbox_reserved (ch : Fin 64) (x : Mbox) (c : Chip) : (setMbox ch x c).reserved = c.reserved := rfl
@[simp] theorem setMbox_charged (ch : Fin 64) (x : Mbox) (c : Chip) : (setMbox ch x c).charged = c.charged := rfl
@[simp] theorem setMbox_jobs (ch : Fin 64) (x : Mbox) (c : Chip) : (setMbox ch x c).jobs = c.jobs := rfl
@[simp] theorem setMbox_seqs (ch : Fin 64) (x : Mbox) (c : Chip) : (setMbox ch x c).seqs = c.seqs := rfl
@[simp] theorem setMbox_commits (ch : Fin 64) (x : Mbox) (c : Chip) : (setMbox ch x c).commits = c.commits := rfl
@[simp] theorem setMbox_cad (ch : Fin 64) (x : Mbox) (c : Chip) : (setMbox ch x c).cad = c.cad := rfl
@[simp] theorem setMbox_recorder (ch : Fin 64) (x : Mbox) (c : Chip) : (setMbox ch x c).recorder = c.recorder := rfl
@[simp] theorem setMbox_power (ch : Fin 64) (x : Mbox) (c : Chip) : (setMbox ch x c).power = c.power := rfl
@[simp] theorem setMbox_weir (ch : Fin 64) (x : Mbox) (c : Chip) : (setMbox ch x c).weir = c.weir := rfl
@[simp] theorem setMbox_window (ch : Fin 64) (x : Mbox) (c : Chip) : (setMbox ch x c).window = c.window := rfl
@[simp] theorem setMbox_fab (ch : Fin 64) (x : Mbox) (c : Chip) : (setMbox ch x c).fab = c.fab := rfl
@[simp] theorem setMbox_ms (ch : Fin 64) (x : Mbox) (c : Chip) : (setMbox ch x c).ms = c.ms := rfl
@[simp] theorem setMbox_ctl (ch : Fin 64) (x : Mbox) (c : Chip) : (setMbox ch x c).ctl = c.ctl := rfl

/-! ### `setCtl` -/

@[simp] theorem setCtl_free (chB : Bool) (x : Ctl) (c : Chip) : (setCtl chB x c).free = c.free := rfl
@[simp] theorem setCtl_out (chB : Bool) (x : Ctl) (c : Chip) : (setCtl chB x c).out = c.out := rfl
@[simp] theorem setCtl_aonNs (chB : Bool) (x : Ctl) (c : Chip) : (setCtl chB x c).aonNs = c.aonNs := rfl
@[simp] theorem setCtl_gptpNs (chB : Bool) (x : Ctl) (c : Chip) : (setCtl chB x c).gptpNs = c.gptpNs := rfl
@[simp] theorem setCtl_upNs (chB : Bool) (x : Ctl) (c : Chip) : (setCtl chB x c).upNs = c.upNs := rfl
@[simp] theorem setCtl_syncNs (chB : Bool) (x : Ctl) (c : Chip) : (setCtl chB x c).syncNs = c.syncNs := rfl
@[simp] theorem setCtl_mem (chB : Bool) (x : Ctl) (c : Chip) : (setCtl chB x c).mem = c.mem := rfl
@[simp] theorem setCtl_ecc (chB : Bool) (x : Ctl) (c : Chip) : (setCtl chB x c).ecc = c.ecc := rfl
@[simp] theorem setCtl_residue (chB : Bool) (x : Ctl) (c : Chip) : (setCtl chB x c).residue = c.residue := rfl
@[simp] theorem setCtl_dirty (chB : Bool) (x : Ctl) (c : Chip) : (setCtl chB x c).dirty = c.dirty := rfl
@[simp] theorem setCtl_regs (chB : Bool) (x : Ctl) (c : Chip) : (setCtl chB x c).regs = c.regs := rfl
@[simp] theorem setCtl_rems (chB : Bool) (x : Ctl) (c : Chip) : (setCtl chB x c).rems = c.rems := rfl
@[simp] theorem setCtl_basins (chB : Bool) (x : Ctl) (c : Chip) : (setCtl chB x c).basins = c.basins := rfl
@[simp] theorem setCtl_recs (chB : Bool) (x : Ctl) (c : Chip) : (setCtl chB x c).recs = c.recs := rfl
@[simp] theorem setCtl_movers (chB : Bool) (x : Ctl) (c : Chip) : (setCtl chB x c).movers = c.movers := rfl
@[simp] theorem setCtl_plQueue (chB : Bool) (x : Ctl) (c : Chip) : (setCtl chB x c).plQueue = c.plQueue := rfl
@[simp] theorem setCtl_away (chB : Bool) (x : Ctl) (c : Chip) : (setCtl chB x c).away = c.away := rfl
@[simp] theorem setCtl_flash (chB : Bool) (x : Ctl) (c : Chip) : (setCtl chB x c).flash = c.flash := rfl
@[simp] theorem setCtl_accounts (chB : Bool) (x : Ctl) (c : Chip) : (setCtl chB x c).accounts = c.accounts := rfl
@[simp] theorem setCtl_reserved (chB : Bool) (x : Ctl) (c : Chip) : (setCtl chB x c).reserved = c.reserved := rfl
@[simp] theorem setCtl_charged (chB : Bool) (x : Ctl) (c : Chip) : (setCtl chB x c).charged = c.charged := rfl
@[simp] theorem setCtl_jobs (chB : Bool) (x : Ctl) (c : Chip) : (setCtl chB x c).jobs = c.jobs := rfl
@[simp] theorem setCtl_seqs (chB : Bool) (x : Ctl) (c : Chip) : (setCtl chB x c).seqs = c.seqs := rfl
@[simp] theorem setCtl_commits (chB : Bool) (x : Ctl) (c : Chip) : (setCtl chB x c).commits = c.commits := rfl
@[simp] theorem setCtl_cad (chB : Bool) (x : Ctl) (c : Chip) : (setCtl chB x c).cad = c.cad := rfl
@[simp] theorem setCtl_recorder (chB : Bool) (x : Ctl) (c : Chip) : (setCtl chB x c).recorder = c.recorder := rfl
@[simp] theorem setCtl_power (chB : Bool) (x : Ctl) (c : Chip) : (setCtl chB x c).power = c.power := rfl
@[simp] theorem setCtl_weir (chB : Bool) (x : Ctl) (c : Chip) : (setCtl chB x c).weir = c.weir := rfl
@[simp] theorem setCtl_mbox (chB : Bool) (x : Ctl) (c : Chip) : (setCtl chB x c).mbox = c.mbox := rfl
@[simp] theorem setCtl_window (chB : Bool) (x : Ctl) (c : Chip) : (setCtl chB x c).window = c.window := rfl
@[simp] theorem setCtl_fab (chB : Bool) (x : Ctl) (c : Chip) : (setCtl chB x c).fab = c.fab := rfl
@[simp] theorem setCtl_ms (chB : Bool) (x : Ctl) (c : Chip) : (setCtl chB x c).ms = c.ms := rfl

/-! ### `chipDo` -/

@[simp] theorem chipDo_chip (f : Chip → Chip) (d : Dev) : (d.chipDo f).chip = f d.chip := rfl
@[simp] theorem chipDo_sec (f : Chip → Chip) (d : Dev) : (d.chipDo f).sec = d.sec := rfl
@[simp] theorem chipDo_fe (f : Chip → Chip) (d : Dev) : (d.chipDo f).fe = d.fe := rfl
@[simp] theorem chipDo_net (f : Chip → Chip) (d : Dev) : (d.chipDo f).net = d.net := rfl

/-! ### `modFe` -/

@[simp] theorem modFe_chip (f : Fe → Fe) (d : Dev) : (modFe f d).chip = d.chip := rfl
@[simp] theorem modFe_sec (f : Fe → Fe) (d : Dev) : (modFe f d).sec = d.sec := rfl
@[simp] theorem modFe_fe (f : Fe → Fe) (d : Dev) : (modFe f d).fe = f d.fe := rfl
@[simp] theorem modFe_net (f : Fe → Fe) (d : Dev) : (modFe f d).net = d.net := rfl

/-! ### `modNet` -/

@[simp] theorem modNet_chip (f : Net → Net) (d : Dev) : (modNet f d).chip = d.chip := rfl
@[simp] theorem modNet_sec (f : Net → Net) (d : Dev) : (modNet f d).sec = d.sec := rfl
@[simp] theorem modNet_fe (f : Net → Net) (d : Dev) : (modNet f d).fe = d.fe := rfl
@[simp] theorem modNet_net (f : Net → Net) (d : Dev) : (modNet f d).net = f d.net := rfl

/-! ### `withChip` -/

@[simp] theorem withChip_pending (s : State) (c : Chip) : (s.withChip c).pending = s.pending := rfl
@[simp] theorem withChip_chip (s : State) (c : Chip) : (s.withChip c).chip = c := rfl
@[simp] theorem withChip_sec (s : State) (c : Chip) : (s.withChip c).sec = s.sec := rfl
@[simp] theorem withChip_fe (s : State) (c : Chip) : (s.withChip c).fe = s.fe := rfl
@[simp] theorem withChip_net (s : State) (c : Chip) : (s.withChip c).net = s.net := rfl

/-! ### `tickNs` -/

@[simp] theorem tickNs_pending (s : State) : (tickNs s).pending = s.pending := rfl
@[simp] theorem tickNs_sec (s : State) : (tickNs s).sec = s.sec := rfl
@[simp] theorem tickNs_fe (s : State) : (tickNs s).fe = s.fe := rfl
@[simp] theorem tickNs_net (s : State) : (tickNs s).net = s.net := rfl

/-! ### Steps -/

/-- On an empty queue the block idles. -/
theorem step_idle (s : State) (h : s.pending = []) : step s = .next (tickNs s) := by unfold step; rw [h]

end Sys2Proof.Machine
end

