-- ==== Sys2Proof/Laws/Reports.lean ====
section
/-! SUPPORT. What reports, messages and containment can change, once: each is an equation with the package as it was but for the parts
named, and for a report the registers that may differ. -/

namespace Sys2Proof.Machine

/-! ### Reports (R423, R436 to R439) -/

theorem bump_eq (c : Chip) (off n : Nat) : ∃ rg, bump c off n = { c with regs := rg } := by
  unfold bump; split
  · exact ⟨c.regs, rfl⟩
  · exact ⟨_, rfl⟩

theorem bumpIf_eq (p : Bool) (c : Chip) (off : Nat) : ∃ rg, (if p then bump c off else c) = { c with regs := rg } := by
  cases p
  · exact ⟨c.regs, rfl⟩
  · exact bump_eq c off 1

theorem writeRecord_eq (typ sev code job src : Nat) (pl : List Nat) (c : Chip) :
    ∃ rg rc, writeRecord typ sev code job src pl c = { c with regs := rg, recorder := rc } := by
  unfold writeRecord
  split
  · obtain ⟨rg, h⟩ := bump_eq c (rErDrop sev) 1
    exact ⟨rg, c.recorder, h⟩
  · next i hi =>
    dsimp only
    have key : ∀ (p : Bool), ∃ rg rc, putF (putReg { (if p then bump c rMirrorLost else c) with
        recorder := { (if p then bump c rMirrorLost else c).recorder with
          ring := tabSet (if p then bump c rMirrorLost else c).recorder.ring i { seq := getReg c rErSeq, sev := sev, w := recordWords c typ sev code job src pl, mir := mirrors (if p then bump c rMirrorLost else c) sev } } }
        rErSeq (getReg c rErSeq + 1)) rErStatus 0 12 i = { c with regs := rg, recorder := rc } := by
      intro p
      obtain ⟨rg, h⟩ := bumpIf_eq p c rMirrorLost
      rw [h]; exact ⟨_, _, rfl⟩
    exact key _

theorem countReport_eq (c : Chip) (r : Report) : ∃ rc, countReport c r = { c with recorder := rc } := ⟨_, rfl⟩

/-- A report changes registers and the recorder, and nothing else. -/
theorem report_eq (r : Report) (c : Chip) : ∃ rg rc, report r c = { c with regs := rg, recorder := rc } := by
  unfold report
  obtain ⟨rc, h⟩ := countReport_eq c r
  rw [h]
  dsimp only
  split
  · exact ⟨c.regs, rc, rfl⟩
  · split <;> split
    · exact ⟨_, _, rfl⟩
    · obtain ⟨a, b, h⟩ := writeRecord_eq 1 r.sev r.code (r.job.getD 0xFFFF) r.src
        [r.seq + r.unit * 65536 + b2n r.cont * 4194304, r.addr % 2 ^ 32, r.addr / 2 ^ 32 % 65536, r.tag, r.peer + r.link * 16, r.arg] _
      rw [h]; exact ⟨a, b, rfl⟩
    · exact ⟨_, _, rfl⟩
    · obtain ⟨a, b, h⟩ := writeRecord_eq 1 r.sev r.code (r.job.getD 0xFFFF) r.src
        [r.seq + r.unit * 65536 + b2n r.cont * 4194304, r.addr % 2 ^ 32, r.addr / 2 ^ 32 % 65536, r.tag, r.peer + r.link * 16, r.arg] _
      rw [h]; exact ⟨a, b, rfl⟩

theorem getReg_writeRecord (typ sev code job src : Nat) (pl : List Nat) (c : Chip) (off : Nat)
    (h1 : off ≠ rErDrop sev) (h2 : off ≠ rMirrorLost) (h3 : off ≠ rErSeq) (h4 : off ≠ rErStatus) :
    getReg (writeRecord typ sev code job src pl c) off = getReg c off := by
  unfold writeRecord
  split
  · exact getReg_bump_ne c 1 h1
  · dsimp only
    rw [getReg_putF_ne _ _ _ _ h4, getReg_putReg_ne _ _ h3]
    have key : ∀ (p : Bool) (rc : Recorder), getReg { (if p then bump c rMirrorLost else c) with recorder := rc } off = getReg c off := by
      intro p rc
      cases p
      · rfl
      · exact getReg_bump_ne c 1 h2
    exact key _ _

/-- The registers that a report leaves alone: all but MP_ERR_LAST, MP_STATUS and the recorder's own. -/
theorem getReg_report (r : Report) (c : Chip) (off : Nat) (h1 : off ≠ rErrLast) (h2 : off ≠ rStatus) (h3 : off ≠ rErDrop r.sev)
    (h4 : off ≠ rMirrorLost) (h5 : off ≠ rErSeq) (h6 : off ≠ rErStatus) : getReg (report r c) off = getReg c off := by
  have h0 : getReg (countReport c r) off = getReg c off := rfl
  have h7 : ∀ v, getReg (putReg (countReport c r) rErrLast v) off = getReg c off := fun v => (getReg_putReg_ne _ _ h1).trans h0
  unfold report
  dsimp only
  split
  · exact h0
  · split <;> split
    · rw [getReg_putF_ne _ _ _ _ h2]; exact h7 _
    · rw [getReg_writeRecord _ _ _ _ _ _ _ _ h3 h4 h5 h6]
      exact (getReg_putF_ne _ _ _ _ h2).trans (h7 _)
    · exact h7 _
    · rw [getReg_writeRecord _ _ _ _ _ _ _ _ h3 h4 h5 h6]; exact h7 _

/-! ### What the links change (R311 to R318) -/

/-- `d` is `c` but for the log, the fabric, the registers and the parts that counters carry. -/
def WireOnly (c d : Chip) : Prop := ∃ o f rg rm, d = { c with out := o, fab := f, regs := rg, rems := rm }

theorem WireOnly.refl (c : Chip) : WireOnly c c := ⟨c.out, c.fab, c.regs, c.rems, rfl⟩

theorem WireOnly.trans {c d e : Chip} (h : WireOnly c d) (k : WireOnly d e) : WireOnly c e := by
  obtain ⟨_, _, _, _, rfl⟩ := h
  obtain ⟨_, _, _, _, rfl⟩ := k
  exact ⟨_, _, _, _, rfl⟩

theorem WireOnly.foldl {α : Type} {f : Chip → α → Chip} (h : ∀ c x, WireOnly c (f c x)) (xs : List α) (c : Chip) :
    WireOnly c (xs.foldl f c) := by
  induction xs generalizing c with
  | nil => exact .refl c
  | cons x xs ih => exact (h c x).trans (ih _)

theorem emit_wire (x : Emit) (c : Chip) : WireOnly c (emit x c) := ⟨_, _, _, _, rfl⟩

theorem modLink_wire (l : Fin 12) (f : Link → Link) (c : Chip) : WireOnly c (modLink l f c) := ⟨_, _, _, _, rfl⟩

theorem bump_wire (c : Chip) (off n : Nat) : WireOnly c (bump c off n) := by
  obtain ⟨rg, h⟩ := bump_eq c off n
  exact ⟨c.out, c.fab, rg, c.rems, h⟩

theorem bumpUnits_wire (c : Chip) (off unit n : Nat) : WireOnly c (bumpUnits c off unit n) := by
  unfold bumpUnits
  exact WireOnly.trans ⟨_, _, _, _, rfl⟩ (bump_wire _ _ _)

theorem sendFlit_wire (l : Fin 12) (nak : Bool) (f : Flit) (c : Chip) : WireOnly c (sendFlit l nak f c) :=
  (modLink_wire _ _ _).trans (emit_wire _ _)

theorem creditBack_wire (o : Option (Fin 12)) (v : Nat) {c d : Chip} (h : WireOnly c d) :
    WireOnly c (match o with | some o => returnCredit o v d | none => d) := by
  cases o
  · exact h
  · exact h.trans (modLink_wire _ _ _)

theorem endWait_wire (l : Fin 12) (c : Chip) : WireOnly c (endWait l c) := by
  unfold endWait
  split
  · exact (bumpUnits_wire _ _ _ _).trans (modLink_wire _ _ _)
  · exact .refl c

theorem pump_wire (l : Fin 12) (n : Nat) (c : Chip) : WireOnly c (pump l n c) := by
  induction n generalizing c with
  | zero => exact .refl c
  | succ n ih =>
    unfold pump
    dsimp only
    split
    · exact .refl c
    · split
      · split
        · exact modLink_wire _ _ _
        · exact .refl c
      · refine WireOnly.trans ?_ (ih _)
        exact creditBack_wire _ _ ((endWait_wire _ _).trans ((modLink_wire _ _ _).trans (sendFlit_wire _ _ _ _)))

theorem enqueue_wire (l : Fin 12) (o : Option (Fin 12)) (f : Flit) (c : Chip) : WireOnly c (enqueue l o f c) :=
  (modLink_wire _ _ _).trans (pump_wire _ _ _)

theorem sendTree_wire (ds : List Nat) (f : Flit) (c : Chip) : WireOnly c (sendTree ds f c) := by
  unfold sendTree
  refine WireOnly.foldl (fun c h => ?_) _ c
  split
  · exact enqueue_wire _ _ _ _
  · exact .refl c

theorem sendMsg_wire (ds : List Nat) (tag : Nat) (x : HubMsg) (c : Chip) : WireOnly c (sendMsg ds tag x c) := by
  unfold sendMsg
  dsimp only
  split
  · exact .refl c
  · exact (WireOnly.foldl (fun c p => emit_wire _ c) _ c).trans (sendTree_wire _ _ _)

/-- A message to other hubs changes the log, the fabric and its counters, and nothing else. -/
theorem sendConfirmed_wire (ds : List Nat) (x : HubMsg) (c : Chip) : WireOnly c (sendConfirmed ds x c) := by
  unfold sendConfirmed
  dsimp only
  split
  · exact .refl c
  · exact WireOnly.trans ⟨_, _, _, _, rfl⟩ (sendMsg_wire _ _ _ _)

/-! ### Containment (R424, R425) -/

/-- `d` is `c` but for what a containment changes: jobs, records, basins, registers, the log and the fabric, and the destinations of discarded
run-ahead copies. -/
def ContainOnly (c d : Chip) : Prop :=
  ∃ js rs rg rm bs o f fr me ec di, d = { c with jobs := js, recs := rs, regs := rg, rems := rm, basins := bs, out := o, fab := f, free := fr,
                                                 mem := me, ecc := ec, dirty := di }

theorem ContainOnly.refl (c : Chip) : ContainOnly c c :=
  ⟨c.jobs, c.recs, c.regs, c.rems, c.basins, c.out, c.fab, c.free, c.mem, c.ecc, c.dirty, rfl⟩

theorem ContainOnly.trans {c d e : Chip} (h : ContainOnly c d) (k : ContainOnly d e) : ContainOnly c e := by
  obtain ⟨_, _, _, _, _, _, _, _, _, _, _, rfl⟩ := h
  obtain ⟨_, _, _, _, _, _, _, _, _, _, _, rfl⟩ := k
  exact ⟨_, _, _, _, _, _, _, _, _, _, _, rfl⟩

theorem ContainOnly.foldl {α : Type} {f : Chip → α → Chip} (h : ∀ c x, ContainOnly c (f c x)) (xs : List α) (c : Chip) :
    ContainOnly c (xs.foldl f c) := by
  induction xs generalizing c with
  | nil => exact .refl c
  | cons x xs ih => exact (h c x).trans (ih _)

theorem WireOnly.contain {c d : Chip} (h : WireOnly c d) : ContainOnly c d := by
  obtain ⟨o, f, rg, rm, rfl⟩ := h
  exact ⟨c.jobs, c.recs, rg, rm, c.basins, o, f, c.free, c.mem, c.ecc, c.dirty, rfl⟩

theorem modRec_contain (n : Nat) (f : Rec → Rec) (c : Chip) : ContainOnly c (modRec n f c) := by
  unfold modRec; split
  · exact ⟨c.jobs, _, c.regs, c.rems, c.basins, c.out, c.fab, c.free, c.mem, c.ecc, c.dirty, rfl⟩
  · exact .refl c

theorem dropClaims_contain (xs : List RunCopy) (c : Chip) : ContainOnly c (dropClaims xs c) := by
  unfold dropClaims
  refine ContainOnly.foldl (fun c x => ?_) xs c
  split
  · exact modRec_contain _ _ _
  · exact .refl c

theorem putMem_contain (c : Chip) (a : Nat) (bs : List Byte) : ContainOnly c (putMem c a bs) := by
  unfold putMem; split
  · exact .refl c
  · exact ⟨c.jobs, c.recs, c.regs, c.rems, c.basins, c.out, c.fab, c.free, _, _, _, rfl⟩

theorem undefine_contain (c : Chip) (a n : Nat) : ContainOnly c (undefine c a n) :=
  ContainOnly.trans ⟨c.jobs, c.recs, c.regs, c.rems, c.basins, c.out, c.fab, c.free + 1, c.mem, c.ecc, c.dirty, rfl⟩ (putMem_contain _ _ _)

theorem undefineAll_contain (xs : List (Nat × Nat)) (c : Chip) : ContainOnly c (xs.foldl (fun c d => undefine c d.1 d.2) c) :=
  ContainOnly.foldl (fun c d => undefine_contain c d.1 d.2) xs c

theorem modBasin_contain (b : Fin 32) (f : Basin → Basin) (c : Chip) : ContainOnly c (modBasin b f c) :=
  ⟨c.jobs, c.recs, c.regs, c.rems, _, c.out, c.fab, c.free, c.mem, c.ecc, c.dirty, rfl⟩

theorem discardCopies_contain (b : Fin 32) (xs : List RunCopy) (c : Chip) : ContainOnly c (discardCopies b xs c) := by
  unfold discardCopies
  refine ContainOnly.trans (ContainOnly.foldl (fun c x => ?_) xs c) ((dropClaims_contain xs _).trans (bump_wire _ _ _).contain)
  split
  · split
    · exact undefineAll_contain _ c
    · exact .refl c
  · exact undefineAll_contain _ c

theorem discardAhead_contain (b : Fin 32) (p : QItem → Bool) (c : Chip) : ContainOnly c (discardAhead b p c) := by
  unfold discardAhead
  exact (ContainOnly.foldl (fun c xs => discardCopies_contain b xs c) _ c).trans (modBasin_contain _ _ _)

theorem discardBegun_contain (b : Fin 32) (j : Nat) (c : Chip) : ContainOnly c (discardBegun b j c) := by
  unfold discardBegun
  refine ContainOnly.foldl (fun c p => ?_) _ c
  split
  · exact .refl c
  · exact (discardCopies_contain _ _ _).trans (modBasin_contain _ _ _)

/-- What a containment changes. -/
theorem contain_contain (j code : Nat) (c : Chip) : ContainOnly c (contain j code c) := by
  unfold contain
  split
  · exact .refl c
  · refine ContainOnly.trans ?_ (sendConfirmed_wire _ _ _).contain
    refine ContainOnly.trans ?_ (ContainOnly.foldl (fun c b => (discardAhead_contain b _ c).trans (discardBegun_contain b j _)) _ _)
    exact ContainOnly.trans ⟨_, c.recs, c.regs, c.rems, c.basins, c.out, c.fab, c.free, c.mem, c.ecc, c.dirty, rfl⟩ (bump_wire _ _ _).contain

/-- A job already contained is not contained again. -/
theorem contain_again {j : Nat} (code : Nat) {c : Chip} (h : (jobRc c j).contained = true) : contain j code c = c := by
  unfold contain; rw [if_pos (.inr h)]

theorem report_contain (r : Report) (c : Chip) : ∃ rc, ContainOnly { c with recorder := rc } (report r c) := by
  obtain ⟨rg, rc, h⟩ := report_eq r c
  exact ⟨rc, by rw [h]; exact ⟨c.jobs, c.recs, rg, c.rems, c.basins, c.out, c.fab, c.free, c.mem, c.ecc, c.dirty, rfl⟩⟩

/-- An error in a basin changes what a report and a containment change, and nothing else. -/
theorem basinError_eq (b : Fin 32) (job seq : Nat) (e : Stop) (c : Chip) : ∃ rc, ContainOnly { c with recorder := rc } (basinError b job seq e c) := by
  unfold basinError
  dsimp only
  generalize hr : Report.mk _ _ _ _ _ _ _ _ _ _ _ _ = r
  cases e.told
  · obtain ⟨rc, h⟩ := report_contain r (modBasin b (fun s => { s with stopped := insertNat job s.stopped }) (putReg (putReg c (rErr b.val) (e.code + e.unit * 65536)) (rErrId b.val) (seq + job * 65536)))
    refine ⟨rc, ContainOnly.trans ?_ (h.trans (contain_contain job e.code _))⟩
    exact ⟨c.jobs, c.recs, _, c.rems, _, c.out, c.fab, c.free, c.mem, c.ecc, c.dirty, rfl⟩
  · refine ⟨c.recorder, ContainOnly.trans ?_ (contain_contain job e.code _)⟩
    exact ⟨c.jobs, c.recs, _, c.rems, _, c.out, c.fab, c.free, c.mem, c.ecc, c.dirty, rfl⟩

/-- The same of an error against the hub. -/
theorem hubError_eq (job : Nat) (e : Stop) (c : Chip) : ∃ rc, ContainOnly { c with recorder := rc } (hubError job e c) := by
  unfold hubError
  generalize hr : Report.mk _ _ _ _ _ _ _ _ _ _ _ _ = r
  obtain ⟨rg, rc, h1⟩ := report_eq r c
  refine ⟨rc, ContainOnly.trans ?_ (contain_contain job e.code _)⟩
  rw [h1]
  exact ⟨c.jobs, c.recs, rg, c.rems, c.basins, c.out, c.fab, c.free, c.mem, c.ecc, c.dirty, rfl⟩

end Sys2Proof.Machine
end

