-- ==== Sys2Proof/Laws/Bus.lean ====
section
/-! SUPPORT. An access of a hub register by a master on the package (R375, R380): answered, refused to a master that has no right, and not
answered while the hub is off; and what a register stores. -/

namespace Sys2Proof.Machine

theorem reportAccess_zero (src : Nat) (c : Chip) : reportAccess 0 src c = c := rfl

theorem reportAccess_eq (code src : Nat) (c : Chip) : ∃ rg rc, reportAccess code src c = { c with regs := rg, recorder := rc } := by
  unfold reportAccess; split
  · exact ⟨c.regs, c.recorder, rfl⟩
  · exact report_eq _ c

/-- A master that may access the hub has its access made. -/
theorem hubAccess_on {m : Master} {c : Chip} (act : Chip → Nat × Chip) (h : hubOn c = true) (hm : m.toNat ≤ 3) :
    hubAccess m act c = ((act c).1, reportAccess (act c).1 0x24 (act c).2) := by
  unfold hubAccess
  rw [if_neg (by rw [h]; decide), if_neg (by omega)]

theorem hubAccess_foreign {m : Master} {c : Chip} (act : Chip → Nat × Chip) (h : hubOn c = true) (hm : 3 < m.toNat) :
    hubAccess m act c = (eHubDenied, reportAccess eHubDenied 0x24 c) := by
  unfold hubAccess
  rw [if_neg (by rw [h]; decide), if_pos hm]

theorem hubAccess_off {m : Master} {c : Chip} (act : Chip → Nat × Chip) (h : hubOn c = false) :
    hubAccess m act c = (eIwTimeout, reportAccess eIwTimeout 0x24 c) := by
  unfold hubAccess
  rw [if_pos (by rw [h]; decide)]

/-- A write that is not refused is answered with code 0. -/
theorem busWrite_ok {m : Master} {c d : Chip} {act : Chip → Nat × Chip} (h : hubOn c = true) (hm : m.toNat ≤ 3) (ha : act c = (0, d)) :
    busWrite m act c = emit (.bus m 0 0) d := by
  unfold busWrite
  rw [hubAccess_on act h hm, ha]; rfl

/-- A write that is refused is answered with its code, and reported. -/
theorem busWrite_refused {m : Master} {c d : Chip} {act : Chip → Nat × Chip} {code : Nat} (h : hubOn c = true) (hm : m.toNat ≤ 3)
    (ha : act c = (code, d)) (hl : code ≠ eLater) : busWrite m act c = emit (.bus m 0 code) (reportAccess code 0x24 d) := by
  unfold busWrite
  rw [hubAccess_on act h hm, ha]
  exact if_neg hl

theorem getReg_storeReg_ne (c : Chip) {off p : Nat} (v : Nat) (h : p ≠ off) : getReg (storeReg c off v) p = getReg c p := by
  unfold storeReg; split
  · exact getReg_putReg_ne c _ h
  · rfl

theorem getReg_storeReg_self {c : Chip} {off : Nat} {r : RegRow} (v : Nat) (h : rowAt off = some r) :
    getReg (storeReg c off v) off = Nat.lor (Nat.land (getReg c off) (2 ^ 32 - 1 - r.wmask)) (Nat.land v r.wmask) % 2 ^ 32 := by
  unfold storeReg; rw [h]; exact getReg_putReg_self c off _

/-- A register write stores into one register and nothing else. -/
theorem storeReg_eq (c : Chip) (off v : Nat) : ∃ rg, storeReg c off v = { c with regs := rg } := by
  unfold storeReg; split
  · exact ⟨_, rfl⟩
  · exact ⟨c.regs, rfl⟩

end Sys2Proof.Machine
end

