-- ==== Sys2Proof/Laws/Issue.lean ====
section
/-! SUPPORT. How a command that issues a descriptor runs, once: `exec` of it is `issue` with its row and its body, a head that may issue
runs after the launch, and where the body ends without a stop its state is the package's. -/

namespace Sys2Proof.Machine

/-- A command that issues a descriptor is `issue` of its row and its body. -/
theorem exec_descCommand {i : Instr} {b : Fin 32} {k : Fin 16} {row : RowId} {body : Ctx → Desc → Eff Unit}
    (h : descCommand i = some (b, k, row, body)) (s : State) : exec i s = onChip (issue b k (fun r => r == row) body) s := by
  cases i with
  | evict r => cases r <;> simp [descCommand] at h <;> (obtain ⟨rfl, rfl, rfl, rfl⟩ := h; rfl)
  | forceEvict r => cases r <;> simp [descCommand] at h <;> (obtain ⟨rfl, rfl, rfl, rfl⟩ := h; rfl)
  | _ => first | (simp [descCommand] at h; done) | (simp [descCommand] at h; obtain ⟨rfl, rfl, rfl, rfl⟩ := h; rfl)

/-- A head that may issue, and is the descriptor asked for, runs. -/
theorem issue_headReady {s : State} {b : Fin 32} {k : Fin 16} {ch : Chain} {d : Desc} {js : List Nat} {c : Chip} {row : RowId}
    {body : Ctx → Desc → Eff Unit} (h : HeadReady s b k ch d js c) (hr : rowOf d = some row) :
    issue b k (fun r => r == row) body s.chip = runHead b k ch d js body c := by
  unfold issue
  rw [h.chain]
  have hw : (!ch.begun && !ch.ahead.all (·.moved)) = false := by rcases h.whole with w | w <;> rw [w] <;> simp
  simp only [h.may, hw, h.room, h.fetch, hr, h.order, h.job, h.legal, h.remote, h.waits, h.jets]
  simp

/-- Nothing asked of another package is nothing sent. -/
theorem flushFar_none {c : Chip} (m : Master) (who : Requester) (h : c.fab.far = []) :
    flushFar m who c = (([], none), beginFar .hub c) := by
  unfold flushFar codeWrites
  rw [h]; rfl

/-- A body that ends without a stop, and asks nothing of another package, leaves its own state. -/
theorem runHead_ok {b : Fin 32} {k : Fin 16} {ch : Chain} {d : Desc} {js : List Nat} {c c' : Chip} {body : Ctx → Desc → Eff Unit}
    (h : runEff (body (headCtx b k ch) d) (launched b k ch d js c) = (c', .ok ())) (hf : c'.fab.far = []) :
    runHead b k ch d js body c = settled c' := by
  unfold runHead runFlight
  dsimp only [launched, headCtx] at h ⊢
  rw [h]
  simp only [flushFar_none _ _ hf, if_true]
  rfl

theorem issue_no_chain {b : Fin 32} {k : Fin 16} {c : Chip} (want : RowId → Bool) (body : Ctx → Desc → Eff Unit)
    (h : c.basins[b].chains[k] = none) : issue b k want body c = c := by unfold issue; rw [h]

theorem onChip_eq (f : Chip → Chip) (s : State) : onChip f s = .next (s.withChip (f s.chip)) := rfl

theorem onDev_eq (f : Dev → Dev) (s : State) :
    onDev f s = .next { s with chip := (f s.dev).chip, sec := (f s.dev).sec, fe := (f s.dev).fe, net := (f s.dev).net } := rfl

theorem sameRest_withChip (s : State) (c : Chip) : sameRest s (s.withChip c) := ⟨rfl, rfl, rfl, rfl⟩

end Sys2Proof.Machine
end

