-- ==== Sys2Proof/Laws/Vec.lean ====
section
/-! SUPPORT. The operands and the results of the vector unit: codes read where no word has an error, results written where no residue
fault is injected and no output scales are made, and conversions that neither saturate nor meet a NaN. -/

namespace Sys2Proof.Machine

variable {x : Ctx} {d : Desc} {c : Chip}


theorem readCodes_clean (u : Nat) (f : Fmt) (d : Desc) (i lo n : Nat) (h : c.ecc = []) :
    readCodes x u f (d.f i lo 23) n c = .ok ((List.range n).map (element f (memReadN c.mem (sram c x.m (d.f i lo 23)) (f.bytes n)))) c := by
  unfold readCodes
  rw [bind_ok (get_ok c), bind_ok (readMem_clean u (sram c x.m (d.f i lo 23)) _ c h (pkgOf_sram_field c x.m (d.word i) lo))]; rfl

theorem countConv_none (b : Fin 32) (cs : List Conv) (c : Chip) (h : ∀ q ∈ cs, q.sat = false ∧ q.nanc = false) : countConv b cs c = c := by
  unfold countConv
  have h1 : cs.filter (·.sat) = [] := by simp [List.filter_eq_nil_iff]; intro q hq; simp [(h q hq).1]
  have h2 : cs.filter (·.nanc) = [] := by simp [List.filter_eq_nil_iff]; intro q hq; simp [(h q hq).2]
  rw [h1, h2]; rfl

theorem conv32_flags (v : Val) : (conv .fp32 v).sat = false ∧ (conv .fp32 v).nanc = false := by
  cases v <;> simp [conv, convRat]

theorem writeResults_plain (cov : Bool) (vs : List Val) (hr : c.residue = []) (f : Fmt) (hf : fmtGet d.outFmt = f)
   (hs : (d.b 6 23 && scalesOut f) = false) (hc : ∀ v ∈ vs, (conv f v).sat = false ∧ (conv f v).nanc = false) :
   writeResults x d cov vs c = .ok () (putMem c (sram c x.m (d.f 3 0 23)) (packCodes f (vs.map (fun v => (conv f v).code)))) := by
  unfold writeResults
  rw [bind_ok (get_ok c)]
  have hb : (if cov then firstResidue c x.b vs.length else none) = none := by
    split
    · simp [firstResidue, hr]
    · rfl
  have hk : vs.take (keptCount c x d cov vs.length) = vs := by simp only [keptCount, hb, List.take_length]
  simp only [hf, hb, hs, Bool.false_eq_true, if_false, hk]
  have : convPlain x.b f vs c = .ok (vs.map (fun v => (conv f v).code)) c := by
    unfold convPlain
    have h0 : change (countConv x.b (vs.map (conv f))) c = .ok () c := by
      rw [change_ok, countConv_none]; intro q hq; obtain ⟨v, hv, rfl⟩ := List.mem_map.mp hq; exact hc v hv
    show ((change (countConv x.b (vs.map (conv f)))) >>= fun _ => pure _) c = _
    rw [bind_ok h0]; simp [pure_ok]
  rw [bind_ok this, bind_ok (writeMem_ok _ _ c)]; rfl

theorem conv_int (i : Int) (h1 : -(2^31) ≤ i) (h2 : i < 2^31) : conv .int32 (Val.ofInt i) = { code := unsigned 32 i } := by
  simp only [conv, Val.ofInt, convRat, Fmt.bits]
  have hs : scaled i.natAbs 1 0 = (i.natAbs, 1) := by simp [scaled]
  have hrd : roundDiv i.natAbs 1 = i.natAbs := by simp [roundDiv]; omega
  simp only [hs, hrd]
  by_cases hn : i < 0
  · simp only [hn, decide_true, if_true]
    rw [if_pos (by norm_num; omega)]
    congr 2; omega
  · simp only [hn, decide_false, Bool.false_eq_true, if_false]
    rw [if_pos (by norm_num; omega)]
    congr 2; omega

theorem signed_range (w x : Nat) (hw : w = 4 ∨ w = 8 ∨ w = 32) : -(2^31) ≤ signed w x ∧ signed w x < 2^31 := by
  unfold signed
  rcases hw with rfl | rfl | rfl <;> norm_num <;> split <;> omega

theorem unsigned_wrap (i : Int) : unsigned 32 (wrap32 i) = unsigned 32 i := by
  unfold wrap32 unsigned signed
  norm_num
  split <;> omega

theorem wrap_range (i : Int) : -(2^31) ≤ wrap32 i ∧ wrap32 i < 2^31 := signed_range 32 _ (by norm_num)

theorem intOf_range (f : Fmt) (x : Nat) : -(2^31) ≤ intOf f x ∧ intOf f x < 2^31 := by
  cases f <;> simp only [intOf] <;> exact signed_range _ _ (by norm_num)

end Sys2Proof.Machine
end

