-- ==== Sys2Proof/WellFormed.lean ====
section
/-! DEFINITION. Which commands are well formed: operands whose fields have a range narrower than their Lean type are within
it. The machine itself accepts every command; an operand out of range is the environment's mistake, not the block's. -/

namespace Sys2Proof

/-- A flit's data is no longer than its LEN, and at most 256 bytes (R308). -/
def Flit.wf (f : Flit) : Bool := decide (f.data.length ≤ 256) && decide (f.data.length ≤ f.len.toNat)

/-- The 48-bit address of a register access names the hub range (R10). -/
def hubAddr (a : BitVec 48) : Bool := decide (0xF0000000000 ≤ a.toNat % 2 ^ 44)

/-- The data pins are 0 to 15, each once at most (R329). -/
def AudioIn.wf (x : AudioIn) : Bool := x.pins.all (fun p => decide (p.1 < 16)) && decide ((x.pins.map (·.1)).Nodup)

/-- A manifest lists as many shards, tables and layers as it says, with keys and hashes of 32 bytes (R269 to R271). -/
def Manifest.wf (m : Manifest) : Bool :=
  decide (m.shards.length = m.nShard.toNat) && decide (m.tables.length = m.nTable.toNat) &&
  decide (m.layers.length = m.nLayer.toNat) && m.shards.all (fun s => decide (s.hash.length = 32)) &&
  m.tables.all (fun t => decide (t.image.length = 192))

/-- A weir period brings one request for each basin (R403). -/
def requestsWf (r : List Nat) : Bool := decide (r.length = 32)

/-- A command is well formed. -/
def Instr.wf : Instr → Bool
  | .idle _ f => f.wf
  | .beat _ f => f.wf
  | .write _ f => f.wf
  | .writeAck _ f => f.wf
  | .readReq _ f => f.wf
  | .readData _ f => f.wf
  | .atomic _ f => f.wf
  | .atomicResp _ f => f.wf
  | .mcastWrite _ f => f.wf
  | .errResp _ f => f.wf
  | .registerWrite _ a _ => hubAddr a
  | .feFrame x => x.wf
  | .msLoad (.manifest _ _ _ m) => m.wf
  | .stage (.manifest _ _ _ m) => m.wf
  | .weirPeriod _ r => requestsWf r
  | .scrubRead _ line => decide (line < 3072)
  | .sramCorrectWriteback _ w => decide (w < 0xC0000)
  | .moveUpDone r => decide (r < 16384)
  | .writeBackDone r => decide (r < 16384)
  | .moveStop r _ => decide (r < 16384)
  | _ => true

end Sys2Proof
end

