-- ==== Sys2Proof/Tests/Slice0.lean ====
section
/-! SUPPORT. Tests: commands that are not well formed, worked examples of the spec, and, for every clause of every statement that has
hypotheses, a concrete state and operands that meet all of them (`wit_<statement><clause>`, in the statements' order). -/

namespace Sys2Proof.Tests

open Sys2Proof.Machine

set_option Elab.async false

/-! ### Helpers -/

/-- A package with registers set. -/
def chipOf (regs : List (Nat × Nat)) (c : Chip) : Chip := regs.foldl (fun c p => putReg c p.1 p.2) c

/-- ACTIVE, with basin 0 enabled. -/
def on : Chip := { regs := [(0x20, 0), (0x20000, 1)], power := { State.reset.chip.power with aonHeld := false, boot := .ready } }

/-- A state with a package. -/
def st (c : Chip) : State := { State.reset with chip := c }

/-- Bytes stored from offset `off` of the SRAM of basin 0. -/
def at0 (off : Nat) (bs : List Byte) (m : Memory) : Memory := memWriteN m (0x80100000000 + off) bs

/-- The nonzero bytes of `bs` as they are listed from offset `off` of the SRAM of basin 0. -/
def listed (off : Nat) (bs : List Byte) : Memory :=
  (((List.range bs.length).map (fun i => 0x80100000000 + off + i)).zip bs).filter (fun p => p.2 != 0)

/-- The eight words of a descriptor, the later ones zero. -/
def dw (ws : List Nat) : List Nat := (ws ++ List.replicate 8 0).take 8

/-- Basin 0 with one chain, in context 0. -/
def basin0 (ch : Chain) (c : Chip) : Chip := { c with basins := c.basins.set 0 { c.basins[0] with chains := (Vector.replicate 16 none).set 0 (some ch) } }

/-- A package whose basin 0 has one chain, its descriptor at offset 0. -/
def atHead (ws : List Nat) (c : Chip) : Chip := basin0 {} { c with mem := at0 0 ((dw ws).flatMap (leBytes 8)) c.mem }

/-- The descriptor of some words. -/
def ds (ws : List Nat) : Desc := { w := dw ws }

/-- The parts of `HeadReady`, decided. -/
def headOk (s : State) (b : Fin 32) (k : Fin 16) (ch : Chain) (d : Desc) (js : List Nat) (c : Chip) : Bool :=
  decide (s.chip.basins[b].chains[k] = some ch) && mayIssue s.chip b ch && (ch.begun || ch.ahead.all (·.moved)) && !past ch.pc 64 &&
  decide (runEff (fetchDesc s.chip (ctxOf b k ch).m ch.pc) s.chip = (c, .ok d)) && orderOk ch d && !jobBlocked s.chip b d.job &&
  decide (checkDesc s.chip ch.acc d = none) && decide (migratedBad ch d = none) && waitOk s.chip (ctxOf b k ch).m d &&
  decide (grantJets c b k ch d = (some js, c))

theorem headReady_of {s : State} {b : Fin 32} {k : Fin 16} {ch : Chain} {d : Desc} {js : List Nat} {c : Chip}
    (h : headOk s b k ch d js c = true) : HeadReady s b k ch d js c := by
  simp only [headOk, Bool.and_eq_true, Bool.or_eq_true, decide_eq_true_eq, Bool.not_eq_true'] at h
  obtain ⟨⟨⟨⟨⟨⟨⟨⟨⟨⟨h1, h2⟩, h11⟩, h3⟩, h4⟩, h5⟩, h6⟩, h7⟩, h8⟩, h9⟩, h10⟩ := h
  exact ⟨h1, h2, h11, h3, h4, h5, h6, h7, h8, h9, h10⟩

/-- A number worked out before it is used. -/
def strictly (n : Nat) (k : Nat → Nat) : Nat := match n with | 0 => k 0 | m + 1 => k (m + 1)

theorem strictly_eq (n : Nat) (k : Nat → Nat) : strictly n k = k n := by cases n <;> rfl

/-- The fold of a CRC, byte by byte. -/
def crcBytes (poly : Nat) : List Byte → Nat → Nat
  | [], x => x
  | v :: r, x => strictly (crc32Step poly 8 (Nat.xor x v.toNat)) (crcBytes poly r)

theorem crcBytes_eq (poly : Nat) (bs : List Byte) (x : Nat) :
    crcBytes poly bs x = bs.foldl (fun x v => crc32Step poly 8 (Nat.xor x v.toNat)) x := by
  induction bs generalizing x with
  | nil => rfl
  | cons v r h => rw [crcBytes, strictly_eq, h]; rfl

/-- The CRC of a flit, worked out byte by byte. -/
def flitSum (f : Flit) : Nat :=
  Nat.xor 0xFFFFFFFF (crcBytes 0xEDB88320 ((flitWords f).flatMap (leBytes 8) ++ (f.data ++ List.replicate 256 0).take 256) 0xFFFFFFFF)

theorem flitSum_eq (f : Flit) : flitSum f = flitCrc f := by rw [flitSum, crcBytes_eq]; rfl

/-- A flit with its CRC. -/
def sealed (f : Flit) : Flit := { f with crc := BitVec.ofNat 32 (flitSum f) }

/-- `flitOk`, decided. -/
def wholeOk (f : Flit) : Bool := f.fecOk && !f.reserved && f.crc.toNat == flitSum f &&
  (match vcOf f.ty.toNat with | some v => !numbered f.ty.toNat || f.vc.toNat == v | none => false)

theorem flitOk_of {f : Flit} (h : wholeOk f = true) : flitOk f = true := by rw [wholeOk, flitSum_eq] at h; exact h

/-- What `receive` makes of a whole flit on a link that is up. -/
def receiveWhole (l : Fin 12) (f : Flit) (c : Chip) : Taken × Chip :=
  if !numbered f.ty.toNat then
    let c := takeBack l f c
    let c := if f.ackV && f.nak then replay l c else c
    (.accepted, pump l c.fab.links[l].waiting.length c)
  else
    let c := modLink l (fun k => { k with expect := (k.expect + 1) % 4096, nakSent := false, since := k.since + 1 }) (takeBack l f c)
    let c := if f.ackV && f.nak then replay l c else c
    let c := if 32 ≤ c.fab.links[l].since then sendIdle l false c else c
    (.accepted, pump l c.fab.links[l].waiting.length c)

/-- Where `receive` takes a whole flit. -/
def takes (l : Fin 12) (f : Flit) (c : Chip) : Bool :=
  linkUp c l && !c.fab.selfFenced && f.ce.sum == 0 && (!numbered f.ty.toNat || (!fenced c (linkPartner c l) && f.seq.toNat == c.fab.links[l].expect))

theorem receive_of {l : Fin 12} {f : Flit} {c : Chip} (hf : wholeOk f = true) (h : takes l f c = true) :
    receive l f c = (.accepted, (receiveWhole l f c).2) := by
  have hok := flitOk_of hf
  simp only [takes, Bool.and_eq_true, Bool.or_eq_true, Bool.not_eq_true', beq_iff_eq] at h
  obtain ⟨⟨⟨h1, h2⟩, h4⟩, h3⟩ := h
  have hc : countFec l f c = c := by simp [countFec, h4]
  unfold receive receiveWhole
  simp only [h1, h2, hok, hc]
  cases hn : numbered f.ty.toNat <;> simp_all

/-- `Delivered`, decided. -/
def deliveredOk (s : State) (l : Fin 12) (ty : Nat) (f : Flit) (c : Chip) : Bool :=
  let d := (receiveWhole l f s.chip).2
  wholeOk f && takes l f s.chip && f.ty.toNat == ty && !fenced d f.src.toNat && f.dst.toNat == pkg d &&
  decide (c = returnCredit l f.vc.toNat d)

theorem delivered_of {s : State} {l : Fin 12} {ty : Nat} {f : Flit} {c : Chip} (h : deliveredOk s l ty f c = true) : Delivered s l ty f c := by
  simp only [deliveredOk, Bool.and_eq_true, decide_eq_true_eq, Bool.not_eq_true', beq_iff_eq] at h
  exact ⟨_, receive_of h.1.1.1.1.1 h.1.1.1.1.2, h.1.1.1.2, h.1.1.2, h.1.2, h.2⟩

theorem pair_of {α β : Type} {x : α × β} {a : α} {b : β} (h : x.1 = a) (k : x.2 = b) : x = (a, b) := by cases x; cases h; cases k; rfl

/-- Did an effect end without a stop. -/
def ended {α : Type} (r : Except Stop α) : Bool := match r with | .ok _ => true | .error _ => false

/-- What an effect that did not stop gives. -/
def got {α : Type} : (r : Except Stop α) → ended r = true → α
  | .ok a, _ => a

theorem ran {α : Type} (r : Chip × Except Stop α) (h : ended r.2 = true) : r = (r.1, .ok (got r.2 h)) := by
  obtain ⟨c, r⟩ := r
  cases r with
  | ok a => rfl
  | error e => simp [ended] at h

/-- The state after a step. -/
def nextOf (o : Host.Outcome State Fault Refusal) (s : State) : State := match o with | .next t => t | _ => s

theorem next_of {o : Host.Outcome State Fault Refusal} {s : State} (h : goesOn o = true) : o = .next (nextOf o s) := by
  cases o <;> simp_all [goesOn, nextOf]

/-- `RootGood`, decided. -/
def rootGoodOk (c : Chip) (d : Desc) (a : Nat) (r : Root) : Bool :=
  decide (pkgOf a = pkg c ∧ c.ecc = [] ∧ (a % 64 = 0 ∧ backed a 192 = true ∧ backed a (192 + 32 * r.layers) = true) ∧ r = rootAt c a ∧
    r.bad = false ∧ r.job = d.job)

theorem rootGood_of {c : Chip} {d : Desc} {a : Nat} {r : Root} (h : rootGoodOk c d a r = true) : RootGood c d a r := by
  obtain ⟨h1, h2, h3, h4, h5, h6⟩ := of_decide_eq_true h
  exact ⟨h1, h2, h3, h4, h5, h6⟩

theorem one_of {α : Type} {l : List α} (h : l.length = 1) (k : l ≠ []) : l = [l.head k] := by
  match l, h with
  | [a], _ => rfl

theorem ran2 {α β : Type} (r : Chip × Except Stop (α × β)) (h : ended r.2 = true) : r = (r.1, .ok ((got r.2 h).1, (got r.2 h).2)) := ran r h

/-- A pair from its second part. -/
theorem paired {α β : Type} (x : α × β) (b : β) (h : x.2 = b) : x = (x.1, b) := by cases x; cases h; rfl

/-- A pair of a pair from the middle part. -/
theorem paired2 {α β γ : Type} (x : (α × β) × γ) (b : β) (h : x.1.2 = b) : x = ((x.1.1, b), x.2) := by
  obtain ⟨⟨_, _⟩, _⟩ := x; cases h; rfl

/-- A pair from its first part. -/
theorem paired3 {α β : Type} (x : α × β) (b : α) (h : x.1 = b) : x = (b, x.2) := by cases x; cases h; rfl

/-! ### Commands that are not well formed

One ill-formed term for each check of `Instr.wf`, which the check refuses. -/

theorem test_wf_flit_long : (Instr.write 0 { len := 2, data := [1, 2, 3] }).wf = false := by decide
theorem test_wf_flit_over : (Instr.beat 0 { len := 300, data := List.replicate 257 0 }).wf = false := by decide +kernel
theorem test_wf_flit_each : ([Instr.idle 0 { data := [1] }, .beat 0 { data := [1] }, .write 0 { data := [1] }, .writeAck 0 { data := [1] },
    .readReq 0 { data := [1] }, .readData 0 { data := [1] }, .atomic 0 { data := [1] }, .atomicResp 0 { data := [1] },
    .mcastWrite 0 { data := [1] }, .errResp 0 { data := [1] }].all (fun i => !i.wf)) = true := by decide
theorem test_wf_register_address : (Instr.registerWrite 0 0x100 ⟨0, {}⟩).wf = false := by decide
theorem test_wf_audio_channel : (Instr.feFrame { pins := [(32, [], [])] }).wf = false := by decide
theorem test_wf_audio_twice : (Instr.feFrame { pins := [(3, [], []), (3, [true], [])] }).wf = false := by decide
theorem test_wf_manifest_load : (Instr.msLoad (.manifest 0 0 0 { nShard := 1 })).wf = false := by decide
theorem test_wf_manifest_stage : (Instr.stage (.manifest 0 0 0 { nTable := 1 })).wf = false := by decide
theorem test_wf_requests : (Instr.weirPeriod 0 [1, 2, 3]).wf = false := by decide
theorem test_wf_scrub_line : (Instr.scrubRead 0 3072).wf = false := by decide
theorem test_wf_sram_word : (Instr.sramCorrectWriteback 0 0xC0000).wf = false := by decide
theorem test_wf_records : ([Instr.moveUpDone 16384, .writeBackDone 16384, .moveStop 16384 1].all (fun i => !i.wf)) = true := by decide
theorem test_wf_accepts : ([Instr.write 0 { len := 3, data := [1, 2, 3] }, .registerWrite 0 0xF0000000020 ⟨1, {}⟩, .scrubRead 0 3071, .moveUpDone 16383,
    .cadenceTick].all Instr.wf) = true := by decide

/-! ### Worked examples of the spec

The expected values are those of the examples of `spec/`, named by file. -/

/-- 02, "encoding a descriptor": the eight words are the MATMUL of the table. -/
def encoded : Desc := { w := [0x00120007A1010201, 0x0000020100100000, 0x0008000100A00000, 0x0000000004300000, 0x0000008840000000, 0, 0, 0] }

theorem test_encoded_row : rowOf encoded = some .matmul ∧ encoded.job = 7 ∧ encoded.seq = 0x12 ∧ encoded.gang = 2 ∧ encoded.last = true := by decide
theorem test_encoded_passes : checkDesc on none encoded = none := by decide +kernel
theorem test_encoded_fields : encoded.rescale = { mult := 0x40000000, shift := 8 } ∧ encoded.f 1 0 23 = 0x100000 ∧ encoded.f 2 0 23 = 0x200000 ∧
    encoded.f 3 0 23 = 0x300000 := by decide
/-- 02 R39, R43: another descriptor of the example with GANG 3 stops at order 2 of the checks. -/
theorem test_encoded_gang : checkDesc on none { w := encoded.w.set 0 0x00120007A1010301 } ≠ none := by decide +kernel

/-- 00, "reading a system address": byte 0x100 of basin 3 of package 5. -/
theorem test_address : pkgOf 0x580101800100 = 5 ∧ regionOf (locOf 0x580101800100) = .sram 3 := by decide

/-- 03 R70, the table of conversions. -/
theorem test_convert_bf16 : conv .bf16 (valOf .fp32 0x3F808000) = { code := 0x3F81 } := by decide +kernel
theorem test_convert_fp8 : conv .fp8 (valOf .fp32 0x3F880000) = { code := 0x39 } ∧ conv .fp8 (valOf .fp32 0x3A800000) = { code := 0x01 } ∧
    conv .fp8 (valOf .fp32 0x43FA0000) = { code := 0x7E, sat := true } ∧ conv .fp8 (valOf .fp32 0x80000000) = { code := 0x80 } := by decide +kernel
theorem test_convert_int8 : conv .int8 (valOf .fp32 0xC0200000) = { code := 0xFD } := by decide +kernel

/-- 03, "one block of an FP32 result written as INT8": the largest magnitude is 10.0. -/
theorem test_scale_found : sc16Code (sc16Found .int8 (valOf .fp32 0x41200000)) = 0xFCA2 := by decide +kernel
theorem test_scaled_elements : [0xC1200000, 0x40533333, 0x3D220000, 0xBDCCCCCD].map (fun x => (quant .int8 (sc16Of 0xFCA2) (valOf .fp32 x)).code) =
    [0x82, 0x2A, 0x01, 0xFF] := by decide +kernel

/-- 03, "a refit and the step after it": A 8.0 and X 11.2 clip; A 11.2 and X 9.0 do not, and A becomes 10.925. -/
theorem test_refit : blockScale .int8 3 10 (some 0x41000000) [valOf .fp32 0x41333333] = (sc16Of 0xFCB5, some 0x41333333, true) := by decide +kernel
theorem test_predicted : blockScale .int8 3 10 (some 0x41333333) [valOf .fp32 0x41100000] = (sc16Of 0xFCE2, some 0x412ECCCD, false) := by decide +kernel

/-- 04, "an increment of a quarter ulp": the four frames. -/
theorem test_compensate : compensate (valOf .fp32 0x3F800000) (valOf .fp32 0x33000000) (valOf .fp32 0x3F800000) 0 = (toF32 (valOf .fp32 0x3F800000), 16384, false) ∧
    compensate (valOf .fp32 0x3F800000) (valOf .fp32 0x33000000) (valOf .fp32 0x3F800000) 16384 = (valOf .fp32 0x3F800001, -32768, false) ∧
    compensate (valOf .fp32 0x3F800000) (valOf .fp32 0x33000000) (valOf .fp32 0x3F800001) (-32768) = (valOf .fp32 0x3F800001, -16384, false) ∧
    compensate (valOf .fp32 0x3F800000) (valOf .fp32 0x33000000) (valOf .fp32 0x3F800001) (-16384) = (valOf .fp32 0x3F800001, 0, false) := by decide +kernel

/-- 07, "a pulse 60 us late": a move is cut to 25 us. -/
theorem test_phase_cut : clampNs 60000 = 25000 ∧ clampNs 35000 = 25000 ∧ clampNs 10000 = 10000 ∧ clampNs (-60000) = -25000 := by decide

/-- 08, "a weight tile with near-raw blocks": the header of block 1. -/
theorem test_block_header : let w := 0x9B314E0E28052C0D
    fld w 0 2 = 1 ∧ fld w 2 4 = 3 ∧ fld w 8 8 = 0x2C ∧ fld w 16 4 = 5 ∧ fld w 24 13 = 3624 ∧ fld w 40 8 = 78 := by decide

/-- 14, "selecting the standard fabric profile": the CRCs of the request and the answer. -/
theorem test_port_crc : crc8 [0x5A, 0x2A, 0, 0, 0, 1] = 0xE4 ∧ crc8 [0x00, 0x2A, 0, 0, 0, 1] = 0x11 := by decide +kernel

/-- No word spells a command, and on an empty queue the block idles while its clocks advance. -/
theorem test_no_word (n w : Nat) : decodeTableWord n w = none := rfl
theorem test_idle : step State.reset = .next (tickNs State.reset) := rfl

/-! ### Witnesses shown by a proof -/

theorem cut_left (a b : List Byte) (o n : Nat) (h : o + n ≤ a.length) : cut (a ++ b) o n = cut a o n := by
  unfold cut; rw [List.drop_append_of_le_length (by omega), List.take_append_of_le_length (by rw [List.length_drop]; omega)]

theorem cut_right (a b : List Byte) (o n m : Nat) (h : a.length = m) (k : m ≤ o) : cut (a ++ b) o n = cut b (o - m) n := by
  subst h; unfold cut; rw [List.drop_append, List.drop_of_length_le k, List.nil_append]

theorem cut_all (a : List Byte) (n : Nat) (h : a.length = n) : cut a 0 n = a := by subst h; simp [cut]

theorem fixLen_length (n : Nat) (bs : List Byte) : (fixLen n bs).length = n := by simp [fixLen]

/-- A record of the chain: SEQ 0, subtree 5, block 2. -/
def record0 : List Byte := recordBytes [] 0 false 5 2 []

theorem record0_length : record0.length = 3540 := by
  unfold record0 recordBytes; simp only [List.length_append, leBytes_length, fixLen_length, List.length_replicate, identity]

theorem record0_seq : numAt record0 8 4 = 0 ∧ numAt record0 4 4 = 1 ∧ numAt record0 16 4 = 65541 ∧ leNat (record0.take 4) = 0x52565352 := by
  refine ⟨?_, ?_, ?_, ?_⟩ <;> rfl

theorem record0_id : cut record0 24 32 = identity [] := by
  unfold record0 recordBytes
  simp only [List.append_assoc]
  rw [cut_right _ _ _ _ 4 (leBytes_length _ _) (by decide), cut_right _ _ _ _ 4 (leBytes_length _ _) (by decide),
    cut_right _ _ _ _ 8 (leBytes_length _ _) (by decide), cut_right _ _ _ _ 8 (leBytes_length _ _) (by decide),
    cut_left _ _ _ _ (by rw [identity, fixLen_length])]
  exact cut_all _ _ (fixLen_length _ _)

theorem record0_mac : cut record0 224 32 = fixLen 32 (Config.hmac (chainKey []) (record0.take 224)) := by
  have hh : ∀ (h x y : List Byte), h.length = 224 → x.length = 32 → cut (h ++ x ++ y) 224 32 = x ∧ (h ++ x ++ y).take 224 = h := by
    intro h x y h1 h2
    rw [List.append_assoc]
    refine ⟨?_, by rw [List.take_append_of_le_length (by omega), List.take_of_length_le (by omega)]⟩
    rw [cut_right _ _ _ _ 224 h1 (by decide), cut_left _ _ _ _ (by omega)]
    exact cut_all _ _ h2
  unfold record0 recordBytes
  have hl : ∀ m, (leBytes 4 0x52565352 ++ leBytes 4 1 ++ leBytes 8 m ++ leBytes 8 (5 + 2 * 2 ^ 15) ++
    identity [] ++ fixLen 32 [] ++ List.replicate 136 0).length = 224 := by
    intro m; simp only [List.length_append, leBytes_length, fixLen_length, List.length_replicate, identity]
  obtain ⟨h1, h2⟩ := hh _ _ _ (hl _) (fixLen_length 32 _)
  rw [h1, h2]

/-- The flash with some bytes in the first sector of the chain area. -/
def flashWith (bs : List Byte) : Chip := { on with flash := { on.flash with bytes := memWriteN [] 0x2400000 bs } }

theorem ownFlash_flashWith (bs : List Byte) (o : Nat) : ownFlash (flashWith bs) o = o := by
  have h : pkg on = 0 := by decide
  have : pkg (flashWith bs) = 0 := h
  simp [ownFlash, this]

theorem chainAddr_flashWith (bs : List Byte) (i : Nat) : chainAddr (flashWith bs) i = 0x2400000 + 4096 * i := by
  rw [chainAddr, ownFlash_flashWith]

theorem memReadN_take (m : Memory) (a n k : Nat) (h : k ≤ n) : memReadN m a k = (memReadN m a n).take k := by
  induction k generalizing a n with
  | zero => simp [memReadN]
  | succ k ih => obtain ⟨n, rfl⟩ : ∃ p, n = p + 1 := ⟨n - 1, by omega⟩; simp only [memReadN, List.take_succ_cons, ih (a + 1) n (by omega)]

theorem flash_record (bs : List Byte) (h : bs.length = 3540) : flashBytes (flashWith bs) 0x2400000 3540 = bs := by
  have k := memReadN_memWriteN [] 0x2400000 bs rfl
  rw [h] at k; exact k

theorem flash_sector (bs : List Byte) (h : bs.length = 3540) (i : Nat) (hi : 0 < i) :
    leNat (flashBytes (flashWith bs) (0x2400000 + 4096 * i) 4) = 0 := by
  have h0 : ∀ j, 0x2400000 + 3540 ≤ j → memRead (flashWith bs).flash.bytes j = 0 := by
    intro j hj
    rw [show (flashWith bs).flash.bytes = memWriteN [] 0x2400000 bs from rfl,
      memRead_memWriteN_out _ _ _ _ (.inr (by rw [h]; exact hj))]
    exact memRead_nil j
  simp only [flashBytes, memReadN, leNat]
  rw [h0 _ (by omega), h0 _ (by omega), h0 _ (by omega), h0 _ (by omega)]; rfl

/-- The flash with that record. -/
def chained : Chip := flashWith record0

/-- F of that flash. -/
def recordF : ChainRec := { seq := 0, subtree := 5, block := 2, prev := cut record0 56 32, hash := fixLen 32 (Config.sha256 record0) }

theorem chainRecs_of (bs : List Byte) (h : bs.length = 3540) (hs : numAt bs 8 4 = 0 ∧ numAt bs 4 4 = 1 ∧ numAt bs 16 4 = 65541 ∧
    leNat (bs.take 4) = 0x52565352) (hi : cut bs 24 32 = identity [])
    (hm : cut bs 224 32 = fixLen 32 (Config.hmac (chainKey []) (bs.take 224))) :
    chainRecs (flashWith bs) [] = [{ seq := 0, subtree := 5, block := 2, prev := cut bs 56 32, hash := fixLen 32 (Config.sha256 bs) }] := by
  have h0 : chainRec (flashWith bs) [] 0 =
      some { seq := 0, subtree := 5, block := 2, prev := cut bs 56 32, hash := fixLen 32 (Config.sha256 bs) } := by
    have h4 : flashBytes (flashWith bs) (0x2400000 + 4096 * 0) 4 = bs.take 4 := by
      exact (memReadN_take _ _ 3540 4 (by decide)).trans (congrArg (List.take 4) (flash_record bs h))
    obtain ⟨h1, h2, h3, h5⟩ := hs
    have hb : flashBad (flashWith bs) (0x2400000 + 4096 * 0) 3540 = false := by
      simp [flashBad, flashWith, on]
    have hh : chainHeld (flashWith bs) 0 = true := by
      unfold chainHeld; rw [chainAddr_flashWith, hb, h4, h5]; rfl
    unfold chainRec
    rw [chainAddr_flashWith, hh]
    simp [flash_record bs h, h1, h2, h3, hi, hm, fld]
  have hn : ∀ i, 0 < i → chainRec (flashWith bs) [] i = none := by
    intro i hi
    have hh : chainHeld (flashWith bs) i = false := by
      unfold chainHeld; rw [chainAddr_flashWith, flash_sector bs h i hi]; simp
    unfold chainRec
    rw [hh]; rfl
  unfold chainRecs
  rw [show (3072 : Nat) = 3071 + 1 from rfl, List.range_succ_eq_map, List.filterMap_cons, h0]
  simp only [List.cons.injEq, true_and, List.filterMap_eq_nil_iff, List.mem_map]
  rintro i ⟨j, -, rfl⟩
  exact hn _ (by omega)

theorem chainRecs_chained : chainRecs chained [] = [recordF] :=
  chainRecs_of record0 record0_length record0_seq record0_id record0_mac

/-- A package whose engine is UNANCHORED, its flash holding that record, with the hash of F at SEC_ADDR. -/
def anchoring : State :=
  { st { chipOf [(0x40004, 64)] chained with mem := memWriteN [] 64 recordF.hash } with sec := { root := some [], att := .unanchored, idReady := true } }

theorem wit_securityCommandsRun_anchor : (1 : Master).toNat ≤ 1 ∧ hubOn anchoring.chip = true ∧ anchoring.sec.job = none ∧
    secAddr anchoring.chip = 64 ∧ anchoring.chip.ecc = [] ∧ anchoring.sec.att = .unanchored ∧ anchoring.sec.root = some [] ∧
    anchoring.sec.idReady = true ∧ anchoring.sec.head = none ∧ findF anchoring.chip [] = some recordF ∧ 64 % 64 = 0 ∧ pkgOf 64 = pkg anchoring.chip ∧ backed 64 32 = true ∧
    memReadN anchoring.chip.mem 64 32 = recordF.hash ∧
    max (recordF.subtree * 32 + recordF.block) (anchoring.sec.tried.getD 0) + 1 = 163 ∧ 163 < 32768 * 32 := by
  have hf : findF anchoring.chip [] = some recordF := by
    have hc : chainRecs anchoring.chip [] = [recordF] := chainRecs_chained
    unfold findF; rw [hc]; rfl
  have hm : memReadN anchoring.chip.mem 64 32 = recordF.hash := by
    have h := memReadN_memWriteN [] 64 recordF.hash rfl
    have hl : recordF.hash.length = 32 := fixLen_length _ _
    rw [hl] at h; exact h
  exact ⟨by decide, by decide, rfl, by decide, rfl, rfl, rfl, rfl, rfl, hf, rfl, by decide, by decide, hm, rfl, by decide⟩

theorem wit_versionInEffectIsLatest1 :
    (let vs : List Version := [{ live := true, tick := 9, slot := 0, gen := 1, body := 0, pins := 0 }, { live := true, tick := 3, slot := 1, gen := 1, body := 0, pins := 0 }]
     (∀ v ∈ vs, v.tick < 2 ^ 32 ∧ ticksBefore 10 v.tick ≠ 2 ^ 31) ∧ (versionAt vs 10).isSome = true ∧ (versionAt vs 10).map (·.slot) = some 0 ∧
     (versionAt vs 2).isNone = true) := by decide +kernel

/-! ### Witnesses -/

/-! Obligations.EmptyQueueOnlyPassesTime -/

theorem wit_emptyQueueOnlyPassesTime1 :
    (State.reset : State).pending = [] :=
  by decide +kernel

/-! Obligations.ChipCommandsLeaveTheRest -/

theorem wit_chipCommandsLeaveTheRest1 :
    wholePackage (.nop 0 0 : Instr) = false ∧
    exec (.nop 0 0 : Instr) (State.reset : State) = .next (State.reset : State) :=
  ⟨by decide +kernel, rfl⟩

/-! HeadDescriptorIssuesAndRuns, in Obligations.DescriptorsIssue -/

def headDescriptorIssuesAndRuns1_s : State := st (atHead [0x1000580000000] on)
def headDescriptorIssuesAndRuns1_d : Desc := ds [0x1000580000000]
def headDescriptorIssuesAndRuns1_c : Chip := atHead [0x1000580000000] on
def headDescriptorIssuesAndRuns1_c2 : Chip := (runEff ((bodyNop : Ctx → Desc → Eff Unit) (headCtx (0 : Fin 32) (0 : Fin 16) ({} : Chain)) headDescriptorIssuesAndRuns1_d) (launched (0 : Fin 32) (0 : Fin 16) ({} : Chain) headDescriptorIssuesAndRuns1_d ([] : List Nat) headDescriptorIssuesAndRuns1_c)).1
theorem wit_headDescriptorIssuesAndRuns1 :
    (rowOf headDescriptorIssuesAndRuns1_d = some (.nop : RowId) ∧
    (runEff ((bodyNop : Ctx → Desc → Eff Unit) (headCtx (0 : Fin 32) (0 : Fin 16) ({} : Chain)) headDescriptorIssuesAndRuns1_d) (launched (0 : Fin 32) (0 : Fin 16) ({} : Chain) headDescriptorIssuesAndRuns1_d ([] : List Nat) headDescriptorIssuesAndRuns1_c) = (headDescriptorIssuesAndRuns1_c2, .ok ())) ∧
    headDescriptorIssuesAndRuns1_c2.fab.far = []) ∧
    (descCommand (.nop 0 0 : Instr) = some ((0 : Fin 32), (0 : Fin 16), (.nop : RowId), (bodyNop : Ctx → Desc → Eff Unit))) ∧
    HeadReady headDescriptorIssuesAndRuns1_s (0 : Fin 32) (0 : Fin 16) ({} : Chain) headDescriptorIssuesAndRuns1_d ([] : List Nat) headDescriptorIssuesAndRuns1_c :=
  ⟨by decide +kernel, rfl, headReady_of (by decide +kernel)⟩

def headDescriptorIssuesAndRuns2_s : State := st (atHead [0x1000580000041, 0x4000, 0x100000004000] ({ (chipOf [(rMembers, 3), (rLinkStatus 0, 2), (rPartner 1, 2)] on) with mem := listed 0x4000 [17, 0, 32, 0, 0, 0, 0, 0, 9, 0, 0, 0, 0, 0, 0, 0, 5] }))
def headDescriptorIssuesAndRuns2_d : Desc := ds [0x1000580000041, 0x4000, 0x100000004000]
def headDescriptorIssuesAndRuns2_c : Chip := atHead [0x1000580000041, 0x4000, 0x100000004000] ({ (chipOf [(rMembers, 3), (rLinkStatus 0, 2), (rPartner 1, 2)] on) with mem := listed 0x4000 [17, 0, 32, 0, 0, 0, 0, 0, 9, 0, 0, 0, 0, 0, 0, 0, 5] })
def headDescriptorIssuesAndRuns2_c2 : Chip := (runEff ((bodySave : Ctx → Desc → Eff Unit) (headCtx (0 : Fin 32) (0 : Fin 16) ({} : Chain)) headDescriptorIssuesAndRuns2_d) (launched (0 : Fin 32) (0 : Fin 16) ({} : Chain) headDescriptorIssuesAndRuns2_d ([] : List Nat) headDescriptorIssuesAndRuns2_c)).1
theorem wit_headDescriptorIssuesAndRuns2 :
    (rowOf headDescriptorIssuesAndRuns2_d = some (.ckpt 0 : RowId) ∧
    ((flushFar (basinMaster ({} : Chain).home) (.walk (0 : Fin 32) (0 : Fin 16) ({} : Chain).nextId) headDescriptorIssuesAndRuns2_c2).1.1 : List Nat) ≠ []) ∧
    (descCommand (.save 0 0 : Instr) = some ((0 : Fin 32), (0 : Fin 16), (.ckpt 0 : RowId), (bodySave : Ctx → Desc → Eff Unit))) ∧
    HeadReady headDescriptorIssuesAndRuns2_s (0 : Fin 32) (0 : Fin 16) ({} : Chain) headDescriptorIssuesAndRuns2_d ([] : List Nat) headDescriptorIssuesAndRuns2_c ∧
    (runEff ((bodySave : Ctx → Desc → Eff Unit) (headCtx (0 : Fin 32) (0 : Fin 16) ({} : Chain)) headDescriptorIssuesAndRuns2_d) (launched (0 : Fin 32) (0 : Fin 16) ({} : Chain) headDescriptorIssuesAndRuns2_d ([] : List Nat) headDescriptorIssuesAndRuns2_c) = (headDescriptorIssuesAndRuns2_c2, .ok ())) ∧
    flushFar (basinMaster ({} : Chain).home) (.walk (0 : Fin 32) (0 : Fin 16) ({} : Chain).nextId) headDescriptorIssuesAndRuns2_c2 = ((((flushFar (basinMaster ({} : Chain).home) (.walk (0 : Fin 32) (0 : Fin 16) ({} : Chain).nextId) headDescriptorIssuesAndRuns2_c2).1.1 : List Nat), none), ((flushFar (basinMaster ({} : Chain).home) (.walk (0 : Fin 32) (0 : Fin 16) ({} : Chain).nextId) headDescriptorIssuesAndRuns2_c2).2 : Chip)) :=
  ⟨by decide +kernel, rfl, headReady_of (by decide +kernel), by delta headDescriptorIssuesAndRuns2_c2; exact paired _ _ (by decide +kernel), paired2 _ _ (by decide +kernel)⟩

def headDescriptorIssuesAndRuns3_s : State := st (atHead [0x1000580000038, 0x4080100004000, 0x0, 0x9000] ({ on with mem := listed 0x4000 [1, 0, 5, 0, 0, 0, 0, 0, 0, 0, 0, 0, 0, 0, 0, 0, 0, 0, 0, 0, 0, 0, 0, 0, 0, 0, 0, 0, 0, 0, 0, 0, 0] }))
def headDescriptorIssuesAndRuns3_d : Desc := ds [0x1000580000038, 0x4080100004000, 0x0, 0x9000]
def headDescriptorIssuesAndRuns3_c : Chip := atHead [0x1000580000038, 0x4080100004000, 0x0, 0x9000] ({ on with mem := listed 0x4000 [1, 0, 5, 0, 0, 0, 0, 0, 0, 0, 0, 0, 0, 0, 0, 0, 0, 0, 0, 0, 0, 0, 0, 0, 0, 0, 0, 0, 0, 0, 0, 0, 0] })
def headDescriptorIssuesAndRuns3_c2 : Chip := (runEff ((fun x d => kvQuery x.m d : Ctx → Desc → Eff Unit) (headCtx (0 : Fin 32) (0 : Fin 16) ({} : Chain)) headDescriptorIssuesAndRuns3_d) (launched (0 : Fin 32) (0 : Fin 16) ({} : Chain) headDescriptorIssuesAndRuns3_d ([] : List Nat) headDescriptorIssuesAndRuns3_c)).1
theorem wit_headDescriptorIssuesAndRuns3 :
    rowOf headDescriptorIssuesAndRuns3_d = some (.kv 4 : RowId) ∧
    (descCommand (.query 0 0 : Instr) = some ((0 : Fin 32), (0 : Fin 16), (.kv 4 : RowId), (fun x d => kvQuery x.m d : Ctx → Desc → Eff Unit))) ∧
    HeadReady headDescriptorIssuesAndRuns3_s (0 : Fin 32) (0 : Fin 16) ({} : Chain) headDescriptorIssuesAndRuns3_d ([] : List Nat) headDescriptorIssuesAndRuns3_c ∧
    (runEff ((fun x d => kvQuery x.m d : Ctx → Desc → Eff Unit) (headCtx (0 : Fin 32) (0 : Fin 16) ({} : Chain)) headDescriptorIssuesAndRuns3_d) (launched (0 : Fin 32) (0 : Fin 16) ({} : Chain) headDescriptorIssuesAndRuns3_d ([] : List Nat) headDescriptorIssuesAndRuns3_c) = (headDescriptorIssuesAndRuns3_c2, .ok ())) ∧
    flushFar (basinMaster ({} : Chain).home) (.walk (0 : Fin 32) (0 : Fin 16) ({} : Chain).nextId) headDescriptorIssuesAndRuns3_c2 = (([], none), ((flushFar (basinMaster ({} : Chain).home) (.walk (0 : Fin 32) (0 : Fin 16) ({} : Chain).nextId) headDescriptorIssuesAndRuns3_c2).2 : Chip)) :=
  ⟨by decide +kernel, rfl, headReady_of (by decide +kernel), by delta headDescriptorIssuesAndRuns3_c2; exact paired _ _ (by decide +kernel), paired3 _ _ (by decide +kernel)⟩

def headDescriptorIssuesAndRuns4_s : State := st (atHead [0x1000580000041, 0x4000, 0x100000004000] ({ (chipOf [(rMembers, 3), (rPartner 1, 2)] on) with mem := listed 0x4000 [17, 0, 32, 0, 0, 0, 0, 0, 9, 0, 0, 0, 0, 0, 0, 0, 5] }))
def headDescriptorIssuesAndRuns4_d : Desc := ds [0x1000580000041, 0x4000, 0x100000004000]
def headDescriptorIssuesAndRuns4_c : Chip := atHead [0x1000580000041, 0x4000, 0x100000004000] ({ (chipOf [(rMembers, 3), (rPartner 1, 2)] on) with mem := listed 0x4000 [17, 0, 32, 0, 0, 0, 0, 0, 9, 0, 0, 0, 0, 0, 0, 0, 5] })
def headDescriptorIssuesAndRuns4_c2 : Chip := (runEff ((bodySave : Ctx → Desc → Eff Unit) (headCtx (0 : Fin 32) (0 : Fin 16) ({} : Chain)) headDescriptorIssuesAndRuns4_d) (launched (0 : Fin 32) (0 : Fin 16) ({} : Chain) headDescriptorIssuesAndRuns4_d ([] : List Nat) headDescriptorIssuesAndRuns4_c)).1
theorem wit_headDescriptorIssuesAndRuns4 :
    rowOf headDescriptorIssuesAndRuns4_d = some (.ckpt 0 : RowId) ∧
    (descCommand (.save 0 0 : Instr) = some ((0 : Fin 32), (0 : Fin 16), (.ckpt 0 : RowId), (bodySave : Ctx → Desc → Eff Unit))) ∧
    HeadReady headDescriptorIssuesAndRuns4_s (0 : Fin 32) (0 : Fin 16) ({} : Chain) headDescriptorIssuesAndRuns4_d ([] : List Nat) headDescriptorIssuesAndRuns4_c ∧
    (runEff ((bodySave : Ctx → Desc → Eff Unit) (headCtx (0 : Fin 32) (0 : Fin 16) ({} : Chain)) headDescriptorIssuesAndRuns4_d) (launched (0 : Fin 32) (0 : Fin 16) ({} : Chain) headDescriptorIssuesAndRuns4_d ([] : List Nat) headDescriptorIssuesAndRuns4_c) = (headDescriptorIssuesAndRuns4_c2, .ok ())) ∧
    flushFar (basinMaster ({} : Chain).home) (.walk (0 : Fin 32) (0 : Fin 16) ({} : Chain).nextId) headDescriptorIssuesAndRuns4_c2 = ((((flushFar (basinMaster ({} : Chain).home) (.walk (0 : Fin 32) (0 : Fin 16) ({} : Chain).nextId) headDescriptorIssuesAndRuns4_c2).1.1 : List Nat), some (0x100000004000 : Nat)), ((flushFar (basinMaster ({} : Chain).home) (.walk (0 : Fin 32) (0 : Fin 16) ({} : Chain).nextId) headDescriptorIssuesAndRuns4_c2).2 : Chip)) :=
  ⟨by decide +kernel, rfl, headReady_of (by decide +kernel), by delta headDescriptorIssuesAndRuns4_c2; exact paired _ _ (by decide +kernel), paired2 _ _ (by decide +kernel)⟩

def headDescriptorIssuesAndRuns5_s : State := st (atHead [0x1000584440010, 0x3001000, 0x2000, 0x3000, 0x0, 0x0, 0x0, 0x1] ({ on with mem := at0 0x1000 [1] [], ecc := [(0x10020000200, .double)] }))
def headDescriptorIssuesAndRuns5_d : Desc := ds [0x1000584440010, 0x3001000, 0x2000, 0x3000, 0x0, 0x0, 0x0, 0x1]
def headDescriptorIssuesAndRuns5_c : Chip := atHead [0x1000584440010, 0x3001000, 0x2000, 0x3000, 0x0, 0x0, 0x0, 0x1] ({ on with mem := at0 0x1000 [1] [], ecc := [(0x10020000200, .double)] })
def headDescriptorIssuesAndRuns5_c2 : Chip := (runEff ((bodyFloat true false (fun _ x y => fAdd x y) : Ctx → Desc → Eff Unit) (headCtx (0 : Fin 32) (0 : Fin 16) ({} : Chain)) headDescriptorIssuesAndRuns5_d) (launched (0 : Fin 32) (0 : Fin 16) ({} : Chain) headDescriptorIssuesAndRuns5_d ([] : List Nat) headDescriptorIssuesAndRuns5_c)).1
theorem wit_headDescriptorIssuesAndRuns5 :
    (rowOf headDescriptorIssuesAndRuns5_d = some (.vec 0x10 1 : RowId) ∧
    ({ code := 0x201, unit := 49, addr := 0x80100001000 } : Stop).code ≠ 0) ∧
    (descCommand (.add 0 0 : Instr) = some ((0 : Fin 32), (0 : Fin 16), (.vec 0x10 1 : RowId), (bodyFloat true false (fun _ x y => fAdd x y) : Ctx → Desc → Eff Unit))) ∧
    HeadReady headDescriptorIssuesAndRuns5_s (0 : Fin 32) (0 : Fin 16) ({} : Chain) headDescriptorIssuesAndRuns5_d ([] : List Nat) headDescriptorIssuesAndRuns5_c ∧
    (runEff ((bodyFloat true false (fun _ x y => fAdd x y) : Ctx → Desc → Eff Unit) (headCtx (0 : Fin 32) (0 : Fin 16) ({} : Chain)) headDescriptorIssuesAndRuns5_d) (launched (0 : Fin 32) (0 : Fin 16) ({} : Chain) headDescriptorIssuesAndRuns5_d ([] : List Nat) headDescriptorIssuesAndRuns5_c) = (headDescriptorIssuesAndRuns5_c2, .error ({ code := 0x201, unit := 49, addr := 0x80100001000 } : Stop))) :=
  ⟨by decide +kernel, rfl, headReady_of (by decide +kernel), by delta headDescriptorIssuesAndRuns5_c2; exact paired _ _ (by decide +kernel)⟩

def headDescriptorIssuesAndRuns6_s : State := st (atHead [0x1000580000038, 0x4100000004000, 0x0, 0x9000] (chipOf [(rMembers, 3), (rLinkStatus 0, 2), (rPartner 1, 2)] on))
def headDescriptorIssuesAndRuns6_d : Desc := ds [0x1000580000038, 0x4100000004000, 0x0, 0x9000]
def headDescriptorIssuesAndRuns6_c : Chip := atHead [0x1000580000038, 0x4100000004000, 0x0, 0x9000] (chipOf [(rMembers, 3), (rLinkStatus 0, 2), (rPartner 1, 2)] on)
def headDescriptorIssuesAndRuns6_c2 : Chip := (runEff ((fun x d => kvQuery x.m d : Ctx → Desc → Eff Unit) (headCtx (0 : Fin 32) (0 : Fin 16) ({} : Chain)) headDescriptorIssuesAndRuns6_d) (launched (0 : Fin 32) (0 : Fin 16) ({} : Chain) headDescriptorIssuesAndRuns6_d ([] : List Nat) headDescriptorIssuesAndRuns6_c)).1
theorem wit_headDescriptorIssuesAndRuns6 :
    (rowOf headDescriptorIssuesAndRuns6_d = some (.kv 4 : RowId) ∧
    ({ code := 0 } : Stop).code = 0) ∧
    (descCommand (.query 0 0 : Instr) = some ((0 : Fin 32), (0 : Fin 16), (.kv 4 : RowId), (fun x d => kvQuery x.m d : Ctx → Desc → Eff Unit))) ∧
    HeadReady headDescriptorIssuesAndRuns6_s (0 : Fin 32) (0 : Fin 16) ({} : Chain) headDescriptorIssuesAndRuns6_d ([] : List Nat) headDescriptorIssuesAndRuns6_c ∧
    (runEff ((fun x d => kvQuery x.m d : Ctx → Desc → Eff Unit) (headCtx (0 : Fin 32) (0 : Fin 16) ({} : Chain)) headDescriptorIssuesAndRuns6_d) (launched (0 : Fin 32) (0 : Fin 16) ({} : Chain) headDescriptorIssuesAndRuns6_d ([] : List Nat) headDescriptorIssuesAndRuns6_c) = (headDescriptorIssuesAndRuns6_c2, .error ({ code := 0 } : Stop))) ∧
    flushFar (basinMaster ({} : Chain).home) (.walk (0 : Fin 32) (0 : Fin 16) ({} : Chain).nextId) (keepHeld (0 : Fin 32) (0 : Fin 16) ({} : Chain).nextId headDescriptorIssuesAndRuns6_c2 (launched (0 : Fin 32) (0 : Fin 16) ({} : Chain) headDescriptorIssuesAndRuns6_d ([] : List Nat) headDescriptorIssuesAndRuns6_c)) = ((((flushFar (basinMaster ({} : Chain).home) (.walk (0 : Fin 32) (0 : Fin 16) ({} : Chain).nextId) (keepHeld (0 : Fin 32) (0 : Fin 16) ({} : Chain).nextId headDescriptorIssuesAndRuns6_c2 (launched (0 : Fin 32) (0 : Fin 16) ({} : Chain) headDescriptorIssuesAndRuns6_d ([] : List Nat) headDescriptorIssuesAndRuns6_c))).1.1 : List Nat), none), ((flushFar (basinMaster ({} : Chain).home) (.walk (0 : Fin 32) (0 : Fin 16) ({} : Chain).nextId) (keepHeld (0 : Fin 32) (0 : Fin 16) ({} : Chain).nextId headDescriptorIssuesAndRuns6_c2 (launched (0 : Fin 32) (0 : Fin 16) ({} : Chain) headDescriptorIssuesAndRuns6_d ([] : List Nat) headDescriptorIssuesAndRuns6_c))).2 : Chip)) :=
  ⟨by decide +kernel, rfl, headReady_of (by decide +kernel), by delta headDescriptorIssuesAndRuns6_c2; exact paired _ _ (by decide +kernel), paired2 _ _ (by decide +kernel)⟩

/-! NopMovesChainOnAlone, in Obligations.DescriptorsIssue -/

def nopMovesChainOnAlone1_s : State := st (atHead [0x1000580000000] on)
def nopMovesChainOnAlone1_d : Desc := ds [0x1000580000000]
def nopMovesChainOnAlone1_c : Chip := atHead [0x1000580000000] on
theorem wit_nopMovesChainOnAlone1 :
    (rowOf nopMovesChainOnAlone1_d = some .nop ∧
    ({} : Chain).ahead = [] ∧
    nopMovesChainOnAlone1_s.chip.ecc = [] ∧
    (∀ h ∈ nopMovesChainOnAlone1_s.chip.basins[(0 : Fin 32)].holds, h.chain ≠ chainHold (0 : Fin 16))) ∧
    HeadReady nopMovesChainOnAlone1_s (0 : Fin 32) (0 : Fin 16) ({} : Chain) nopMovesChainOnAlone1_d ([] : List Nat) nopMovesChainOnAlone1_c :=
  ⟨by decide +kernel, headReady_of (by decide +kernel)⟩

/-! Obligations.RejectedDescriptorStopsItsJob -/

def rejectedDescriptorStopsItsJob1_s : State := st (atHead [0x1000581000000] on)
def rejectedDescriptorStopsItsJob1_d : Desc := ds [0x1000581000000]
theorem wit_rejectedDescriptorStopsItsJob1 :
    (rejectedDescriptorStopsItsJob1_s.chip.basins[(0 : Fin 32)].chains[(0 : Fin 16)] = some ({} : Chain) ∧
    mayIssue rejectedDescriptorStopsItsJob1_s.chip (0 : Fin 32) ({} : Chain) = true ∧
    past ({} : Chain).pc 64 = false ∧
    runEff (fetchDesc rejectedDescriptorStopsItsJob1_s.chip (ctxOf (0 : Fin 32) (0 : Fin 16) ({} : Chain)).m ({} : Chain).pc) rejectedDescriptorStopsItsJob1_s.chip = (rejectedDescriptorStopsItsJob1_s.chip, .ok rejectedDescriptorStopsItsJob1_d) ∧
    orderOk ({} : Chain) rejectedDescriptorStopsItsJob1_d = true ∧
    jobBlocked rejectedDescriptorStopsItsJob1_s.chip (0 : Fin 32) rejectedDescriptorStopsItsJob1_d.job = false ∧
    checkDesc rejectedDescriptorStopsItsJob1_s.chip ({} : Chain).acc rejectedDescriptorStopsItsJob1_d = some (0x104 : Nat) ∧
    ({} : Chain).ticket = none ∧
    (({} : Chain).begun = true ∨ ({} : Chain).ahead.all (·.moved) = true)) ∧
    (descCommand (.nop 0 0 : Instr) = some ((0 : Fin 32), (0 : Fin 16), (.nop : RowId), (bodyNop : Ctx → Desc → Eff Unit))) ∧
    (∀ r, rowOf rejectedDescriptorStopsItsJob1_d = some r → r = (.nop : RowId)) ∧
    NoRunAhead rejectedDescriptorStopsItsJob1_s.chip :=
  ⟨by decide +kernel, rfl, by intro r h; cases h; rfl, by unfold NoRunAhead; decide +kernel⟩

/-! Obligations.WaitingHeadChangesNothing -/

def waitingHeadChangesNothing1_s : State := st (atHead [0x1000580000000] (putReg on 0x20000 0))
def waitingHeadChangesNothing1_d : Desc := ds [0x1000580000000]
theorem wit_waitingHeadChangesNothing1 :
    (waitingHeadChangesNothing1_s.chip.basins[(0 : Fin 32)].chains[(0 : Fin 16)] = some ({} : Chain) ∧
    past ({} : Chain).pc 64 = false ∧
    runEff (fetchDesc waitingHeadChangesNothing1_s.chip (ctxOf (0 : Fin 32) (0 : Fin 16) ({} : Chain)).m ({} : Chain).pc) waitingHeadChangesNothing1_s.chip = (waitingHeadChangesNothing1_s.chip, .ok waitingHeadChangesNothing1_d) ∧
    rowOf waitingHeadChangesNothing1_d = some (.nop : RowId) ∧
    checkDesc waitingHeadChangesNothing1_s.chip ({} : Chain).acc waitingHeadChangesNothing1_d = none ∧
    migratedBad ({} : Chain) waitingHeadChangesNothing1_d = none ∧
    (({} : Chain).begun = true ∨ ({} : Chain).ahead.all (·.moved) = true) ∧
    (bit (getReg waitingHeadChangesNothing1_s.chip rEnable) (0 : Fin 32).val = false ∨ (waitingHeadChangesNothing1_d.overlap = false ∧ ({} : Chain).flight.any (fun f => f.id + 1 == ({} : Chain).nextId) = true) ∨ (waitingHeadChangesNothing1_d.waitEn = true ∧ 32768 ≤ (tabGet 0 waitingHeadChangesNothing1_s.chip.basins[(ctxOf (0 : Fin 32) (0 : Fin 16) ({} : Chain)).m].ctr waitingHeadChangesNothing1_d.waitCtr + 65536 - waitingHeadChangesNothing1_d.waitVal) % 65536))) ∧
    (descCommand (.nop 0 0 : Instr) = some ((0 : Fin 32), (0 : Fin 16), (.nop : RowId), (bodyNop : Ctx → Desc → Eff Unit))) :=
  ⟨by decide +kernel, rfl⟩

/-! Obligations.IntegerVectorResults -/

def integerVectorResults1_s : State := st (atHead [0x1000585550010, 0x3001000, 0x2000, 0x3000, 0x0, 0x0, 0x0, 0x10] ({ on with mem := listed 0x1000 [5, 0, 0, 0, 249, 255, 255, 255, 255, 255, 255, 127] ++ listed 0x2000 [3, 0, 0, 0, 247, 255, 255, 255, 2] }))
def integerVectorResults1_d : Desc := ds [0x1000585550010, 0x3001000, 0x2000, 0x3000, 0x0, 0x0, 0x0, 0x10]
def integerVectorResults1_c : Chip := atHead [0x1000585550010, 0x3001000, 0x2000, 0x3000, 0x0, 0x0, 0x0, 0x10] ({ on with mem := listed 0x1000 [5, 0, 0, 0, 249, 255, 255, 255, 255, 255, 255, 127] ++ listed 0x2000 [3, 0, 0, 0, 247, 255, 255, 255, 2] })
def integerVectorResults1_c0 : Chip := launched (0 : Fin 32) (0 : Fin 16) ({} : Chain) integerVectorResults1_d ([] : List Nat) integerVectorResults1_c
theorem wit_integerVectorResults1 :
    (rowOf integerVectorResults1_d = some (.vec 0x10 (16 : Nat)) ∧
    integerVectorResults1_c0.ecc = [] ∧
    integerVectorResults1_c0.residue = [] ∧
    fmtOf integerVectorResults1_d.outFmt = some .int32 ∧
    integerVectorResults1_d.b 6 23 = false ∧
    integerVectorResults1_d.b 4 39 = false) ∧
    (intVecCommand (.iadd 0 0 : Instr) = some ((0 : Fin 32), (0 : Fin 16), (16 : Nat), (fun x y => x + y : Int → Int → Int))) ∧
    HeadReady integerVectorResults1_s (0 : Fin 32) (0 : Fin 16) ({} : Chain) integerVectorResults1_d ([] : List Nat) integerVectorResults1_c :=
  ⟨by decide +kernel, rfl, headReady_of (by decide +kernel)⟩

/-! FloatVectorResults, in Obligations.FloatVectorOperations -/

def floatVectorResults1_s : State := st (atHead [0x1000584440010, 0x3001000, 0x2000, 0x3000, 0x0, 0x0, 0x0, 0x3dcccccd00000001] ({ on with mem := listed 0x1000 [0, 0, 192, 63, 0, 0, 16, 192, 0, 0, 128, 127] ++ listed 0x2000 [111, 18, 131, 58, 0, 0, 224, 64, 0, 0, 128, 191] }))
def floatVectorResults1_d : Desc := ds [0x1000584440010, 0x3001000, 0x2000, 0x3000, 0x0, 0x0, 0x0, 0x3dcccccd00000001]
def floatVectorResults1_c : Chip := atHead [0x1000584440010, 0x3001000, 0x2000, 0x3000, 0x0, 0x0, 0x0, 0x3dcccccd00000001] ({ on with mem := listed 0x1000 [0, 0, 192, 63, 0, 0, 16, 192, 0, 0, 128, 127] ++ listed 0x2000 [111, 18, 131, 58, 0, 0, 224, 64, 0, 0, 128, 191] })
def floatVectorResults1_c0 : Chip := launched (0 : Fin 32) (0 : Fin 16) ({} : Chain) floatVectorResults1_d ([] : List Nat) floatVectorResults1_c
theorem wit_floatVectorResults1 :
    (rowOf floatVectorResults1_d = some (.vec 0x10 (1 : Nat)) ∧
    floatVectorResults1_c0.ecc = [] ∧
    floatVectorResults1_c0.residue = [] ∧
    fmtOf floatVectorResults1_d.outFmt = some .fp32) ∧
    (floatVecCommand (.add 0 0 : Instr) = some ((0 : Fin 32), (0 : Fin 16), (1 : Nat), (fun _ x y => fAdd x y : Desc → Val → Val → Val))) ∧
    HeadReady floatVectorResults1_s (0 : Fin 32) (0 : Fin 16) ({} : Chain) floatVectorResults1_d ([] : List Nat) floatVectorResults1_c :=
  ⟨by decide +kernel, rfl, headReady_of (by decide +kernel)⟩

/-! UnaryVectorResults, in Obligations.FloatVectorOperations -/

def unaryVectorResults1_s : State := st (atHead [0x1000584040010, 0x3001000, 0x2000, 0x3000, 0x0, 0x0, 0x0, 0x3dcccccd00000007] ({ on with mem := listed 0x1000 [0, 0, 192, 63, 0, 0, 16, 192, 0, 0, 64, 64] }))
def unaryVectorResults1_d : Desc := ds [0x1000584040010, 0x3001000, 0x2000, 0x3000, 0x0, 0x0, 0x0, 0x3dcccccd00000007]
def unaryVectorResults1_c : Chip := atHead [0x1000584040010, 0x3001000, 0x2000, 0x3000, 0x0, 0x0, 0x0, 0x3dcccccd00000007] ({ on with mem := listed 0x1000 [0, 0, 192, 63, 0, 0, 16, 192, 0, 0, 64, 64] })
def unaryVectorResults1_c0 : Chip := launched (0 : Fin 32) (0 : Fin 16) ({} : Chain) unaryVectorResults1_d ([] : List Nat) unaryVectorResults1_c
theorem wit_unaryVectorResults1 :
    (rowOf unaryVectorResults1_d = some (.vec (0x10 : Nat) (7 : Nat)) ∧
    unaryVectorResults1_c0.ecc = [] ∧
    unaryVectorResults1_c0.residue = [] ∧
    fmtOf unaryVectorResults1_d.outFmt = some .fp32) ∧
    (unaryVecCommand (.scale 0 0 : Instr) = some ((0 : Fin 32), (0 : Fin 16), (0x10 : Nat), (7 : Nat), (fun d as => as.map (fun a => fMul (widen (fmtGet d.aFmt) a) (immVal d)) : Desc → List Nat → List Val))) ∧
    HeadReady unaryVectorResults1_s (0 : Fin 32) (0 : Fin 16) ({} : Chain) unaryVectorResults1_d ([] : List Nat) unaryVectorResults1_c :=
  ⟨by decide +kernel, rfl, headReady_of (by decide +kernel)⟩

/-! Obligations.PlainCopyMovesRows -/

def plainCopyMovesRows1_s : State := st (atHead [0x1000580000020, 0x80100001000, 0x80100002000, 0x10002, 0x4000002] ({ on with mem := listed 0x1000 [0, 1, 2, 3, 4, 5, 6, 7, 8, 9, 10, 11, 12, 13, 14, 15, 16, 17, 18, 19, 20, 21, 22, 23, 24, 25, 26, 27, 28, 29, 30, 31, 32, 33, 34, 35, 36, 37, 38, 39, 40, 41, 42, 43, 44, 45, 46, 47, 48, 49, 50, 51, 52, 53, 54, 55, 56, 57, 58, 59, 60, 61, 62, 63, 64, 65, 66, 67, 68, 69, 70, 71, 72, 73, 74, 75, 76, 77, 78, 79, 80, 81, 82, 83, 84, 85, 86, 87, 88, 89, 90, 91, 92, 93, 94, 95, 96, 97, 98, 99, 100, 101, 102, 103, 104, 105, 106, 107, 108, 109, 110, 111, 112, 113, 114, 115, 116, 117, 118, 119, 120, 121, 122, 123, 124, 125, 126, 127, 128, 129, 130, 131, 132, 133, 134, 135, 136, 137, 138, 139, 140, 141, 142, 143, 144, 145, 146, 147, 148, 149, 150, 151, 152, 153, 154, 155, 156, 157, 158, 159, 160, 161, 162, 163, 164, 165, 166, 167, 168, 169, 170, 171, 172, 173, 174, 175, 176, 177, 178, 179, 180, 181, 182, 183, 184, 185, 186, 187, 188, 189, 190, 191] }))
def plainCopyMovesRows1_d : Desc := ds [0x1000580000020, 0x80100001000, 0x80100002000, 0x10002, 0x4000002]
def plainCopyMovesRows1_c : Chip := atHead [0x1000580000020, 0x80100001000, 0x80100002000, 0x10002, 0x4000002] ({ on with mem := listed 0x1000 [0, 1, 2, 3, 4, 5, 6, 7, 8, 9, 10, 11, 12, 13, 14, 15, 16, 17, 18, 19, 20, 21, 22, 23, 24, 25, 26, 27, 28, 29, 30, 31, 32, 33, 34, 35, 36, 37, 38, 39, 40, 41, 42, 43, 44, 45, 46, 47, 48, 49, 50, 51, 52, 53, 54, 55, 56, 57, 58, 59, 60, 61, 62, 63, 64, 65, 66, 67, 68, 69, 70, 71, 72, 73, 74, 75, 76, 77, 78, 79, 80, 81, 82, 83, 84, 85, 86, 87, 88, 89, 90, 91, 92, 93, 94, 95, 96, 97, 98, 99, 100, 101, 102, 103, 104, 105, 106, 107, 108, 109, 110, 111, 112, 113, 114, 115, 116, 117, 118, 119, 120, 121, 122, 123, 124, 125, 126, 127, 128, 129, 130, 131, 132, 133, 134, 135, 136, 137, 138, 139, 140, 141, 142, 143, 144, 145, 146, 147, 148, 149, 150, 151, 152, 153, 154, 155, 156, 157, 158, 159, 160, 161, 162, 163, 164, 165, 166, 167, 168, 169, 170, 171, 172, 173, 174, 175, 176, 177, 178, 179, 180, 181, 182, 183, 184, 185, 186, 187, 188, 189, 190, 191] })
def plainCopyMovesRows1_c0 : Chip := launched (0 : Fin 32) (0 : Fin 16) ({} : Chain) plainCopyMovesRows1_d ([] : List Nat) plainCopyMovesRows1_c
theorem wit_plainCopyMovesRows1 :
    (rowOf plainCopyMovesRows1_d = some (.copy 0) ∧
    plainCopyMovesRows1_c0.ecc = [] ∧
    (∀ r ∈ (copyRows (plainCopyMovesRows1_d.f 1 0 48) (plainCopyMovesRows1_d.f 4 0 24) (plainCopyMovesRows1_d.f 3 0 16) (plainCopyMovesRows1_d.f 3 16 24) : List (Nat × Nat)) ++ (copyRows (plainCopyMovesRows1_d.f 2 0 48) (plainCopyMovesRows1_d.f 4 24 24) (plainCopyMovesRows1_d.f 3 0 16) (plainCopyMovesRows1_d.f 3 16 24) : List (Nat × Nat)), pkgOf r.1 = pkg plainCopyMovesRows1_c0 ∧ inHub r.1 r.2 = false ∧ backed r.1 r.2 = true) ∧
    1 ≤ plainCopyMovesRows1_d.f 3 0 16 ∧
    plainCopyMovesRows1_c0.basins[(0 : Fin 32)].engine.length < 4) ∧
    HeadReady plainCopyMovesRows1_s (0 : Fin 32) (0 : Fin 16) ({} : Chain) plainCopyMovesRows1_d ([] : List Nat) plainCopyMovesRows1_c :=
  ⟨by decide +kernel, headReady_of (by decide +kernel)⟩

def plainCopyMovesRows2_s : State := st (atHead [0x1000580000020, 0x80100001000, 0x80100002000, 0x10002, 0x4000002] ({ { on with mem := listed 0x1000 [0, 1, 2, 3, 4, 5, 6, 7, 8, 9, 10, 11, 12, 13, 14, 15, 16, 17, 18, 19, 20, 21, 22, 23, 24, 25, 26, 27, 28, 29, 30, 31, 32, 33, 34, 35, 36, 37, 38, 39, 40, 41, 42, 43, 44, 45, 46, 47, 48, 49, 50, 51, 52, 53, 54, 55, 56, 57, 58, 59, 60, 61, 62, 63, 64, 65, 66, 67, 68, 69, 70, 71, 72, 73, 74, 75, 76, 77, 78, 79, 80, 81, 82, 83, 84, 85, 86, 87, 88, 89, 90, 91, 92, 93, 94, 95, 96, 97, 98, 99, 100, 101, 102, 103, 104, 105, 106, 107, 108, 109, 110, 111, 112, 113, 114, 115, 116, 117, 118, 119, 120, 121, 122, 123, 124, 125, 126, 127, 128, 129, 130, 131, 132, 133, 134, 135, 136, 137, 138, 139, 140, 141, 142, 143, 144, 145, 146, 147, 148, 149, 150, 151, 152, 153, 154, 155, 156, 157, 158, 159, 160, 161, 162, 163, 164, 165, 166, 167, 168, 169, 170, 171, 172, 173, 174, 175, 176, 177, 178, 179, 180, 181, 182, 183, 184, 185, 186, 187, 188, 189, 190, 191] } with basins := on.basins.set 0 { engine := List.replicate 4 (.copy 3 1) } }))
def plainCopyMovesRows2_d : Desc := ds [0x1000580000020, 0x80100001000, 0x80100002000, 0x10002, 0x4000002]
def plainCopyMovesRows2_c : Chip := atHead [0x1000580000020, 0x80100001000, 0x80100002000, 0x10002, 0x4000002] ({ { on with mem := listed 0x1000 [0, 1, 2, 3, 4, 5, 6, 7, 8, 9, 10, 11, 12, 13, 14, 15, 16, 17, 18, 19, 20, 21, 22, 23, 24, 25, 26, 27, 28, 29, 30, 31, 32, 33, 34, 35, 36, 37, 38, 39, 40, 41, 42, 43, 44, 45, 46, 47, 48, 49, 50, 51, 52, 53, 54, 55, 56, 57, 58, 59, 60, 61, 62, 63, 64, 65, 66, 67, 68, 69, 70, 71, 72, 73, 74, 75, 76, 77, 78, 79, 80, 81, 82, 83, 84, 85, 86, 87, 88, 89, 90, 91, 92, 93, 94, 95, 96, 97, 98, 99, 100, 101, 102, 103, 104, 105, 106, 107, 108, 109, 110, 111, 112, 113, 114, 115, 116, 117, 118, 119, 120, 121, 122, 123, 124, 125, 126, 127, 128, 129, 130, 131, 132, 133, 134, 135, 136, 137, 138, 139, 140, 141, 142, 143, 144, 145, 146, 147, 148, 149, 150, 151, 152, 153, 154, 155, 156, 157, 158, 159, 160, 161, 162, 163, 164, 165, 166, 167, 168, 169, 170, 171, 172, 173, 174, 175, 176, 177, 178, 179, 180, 181, 182, 183, 184, 185, 186, 187, 188, 189, 190, 191] } with basins := on.basins.set 0 { engine := List.replicate 4 (.copy 3 1) } })
def plainCopyMovesRows2_c0 : Chip := launched (0 : Fin 32) (0 : Fin 16) ({} : Chain) plainCopyMovesRows2_d ([] : List Nat) plainCopyMovesRows2_c
theorem wit_plainCopyMovesRows2 :
    (rowOf plainCopyMovesRows2_d = some (.copy 0) ∧
    plainCopyMovesRows2_c0.ecc = [] ∧
    (∀ r ∈ (copyRows (plainCopyMovesRows2_d.f 1 0 48) (plainCopyMovesRows2_d.f 4 0 24) (plainCopyMovesRows2_d.f 3 0 16) (plainCopyMovesRows2_d.f 3 16 24) : List (Nat × Nat)) ++ (copyRows (plainCopyMovesRows2_d.f 2 0 48) (plainCopyMovesRows2_d.f 4 24 24) (plainCopyMovesRows2_d.f 3 0 16) (plainCopyMovesRows2_d.f 3 16 24) : List (Nat × Nat)), pkgOf r.1 = pkg plainCopyMovesRows2_c0 ∧ inHub r.1 r.2 = false ∧ backed r.1 r.2 = true) ∧
    1 ≤ plainCopyMovesRows2_d.f 3 0 16 ∧
    4 ≤ plainCopyMovesRows2_c0.basins[(0 : Fin 32)].engine.length) ∧
    HeadReady plainCopyMovesRows2_s (0 : Fin 32) (0 : Fin 16) ({} : Chain) plainCopyMovesRows2_d ([] : List Nat) plainCopyMovesRows2_c :=
  ⟨by decide +kernel, headReady_of (by decide +kernel)⟩

/-! HoldAndReleaseCountHolds, in Obligations.SlotsAndTables -/

def holdAndReleaseCountHolds1_s : State := st (atHead [0x1000580000022, 0x40000000000, 0x0, 0x50703] ({ on with basins := on.basins.set 0 { slots := (Vector.replicate 16 ({} : Slot)).set 3 { state := .ready, gen := 7, holds := 0 } } }))
def holdAndReleaseCountHolds1_d : Desc := ds [0x1000580000022, 0x40000000000, 0x0, 0x50703]
def holdAndReleaseCountHolds1_c : Chip := atHead [0x1000580000022, 0x40000000000, 0x0, 0x50703] ({ on with basins := on.basins.set 0 { slots := (Vector.replicate 16 ({} : Slot)).set 3 { state := .ready, gen := 7, holds := 0 } } })
def holdAndReleaseCountHolds1_c0 : Chip := launched (0 : Fin 32) (0 : Fin 16) ({} : Chain) holdAndReleaseCountHolds1_d ([] : List Nat) holdAndReleaseCountHolds1_c
theorem wit_holdAndReleaseCountHolds1 :
    (holdAndReleaseCountHolds1_d.b 4 23 = false ∧
    (slotAt holdAndReleaseCountHolds1_c0 (headCtx (0 : Fin 32) (0 : Fin 16) ({} : Chain)).m (holdAndReleaseCountHolds1_d.f 3 0 5)).state = .ready ∧
    (slotAt holdAndReleaseCountHolds1_c0 (headCtx (0 : Fin 32) (0 : Fin 16) ({} : Chain)).m (holdAndReleaseCountHolds1_d.f 3 0 5)).gen = holdAndReleaseCountHolds1_d.f 3 8 8 ∧
    rowOf holdAndReleaseCountHolds1_d = some (.codec 4) ∧
    ((slotAt holdAndReleaseCountHolds1_c0 (headCtx (0 : Fin 32) (0 : Fin 16) ({} : Chain)).m (holdAndReleaseCountHolds1_d.f 3 0 5)).holds : Nat) + holdAndReleaseCountHolds1_d.f 3 16 20 < 2 ^ 20) ∧
    HeadReady holdAndReleaseCountHolds1_s (0 : Fin 32) (0 : Fin 16) ({} : Chain) holdAndReleaseCountHolds1_d ([] : List Nat) holdAndReleaseCountHolds1_c :=
  ⟨by decide +kernel, headReady_of (by decide +kernel)⟩

def holdAndReleaseCountHolds2_s : State := st (atHead [0x1000580000022, 0x50000000000, 0x0, 0x50703] ({ on with basins := on.basins.set 0 { slots := (Vector.replicate 16 ({} : Slot)).set 3 { state := .ready, gen := 7, holds := 5 } } }))
def holdAndReleaseCountHolds2_d : Desc := ds [0x1000580000022, 0x50000000000, 0x0, 0x50703]
def holdAndReleaseCountHolds2_c : Chip := atHead [0x1000580000022, 0x50000000000, 0x0, 0x50703] ({ on with basins := on.basins.set 0 { slots := (Vector.replicate 16 ({} : Slot)).set 3 { state := .ready, gen := 7, holds := 5 } } })
def holdAndReleaseCountHolds2_c0 : Chip := launched (0 : Fin 32) (0 : Fin 16) ({} : Chain) holdAndReleaseCountHolds2_d ([] : List Nat) holdAndReleaseCountHolds2_c
theorem wit_holdAndReleaseCountHolds2 :
    (holdAndReleaseCountHolds2_d.b 4 23 = false ∧
    (slotAt holdAndReleaseCountHolds2_c0 (headCtx (0 : Fin 32) (0 : Fin 16) ({} : Chain)).m (holdAndReleaseCountHolds2_d.f 3 0 5)).state = .ready ∧
    (slotAt holdAndReleaseCountHolds2_c0 (headCtx (0 : Fin 32) (0 : Fin 16) ({} : Chain)).m (holdAndReleaseCountHolds2_d.f 3 0 5)).gen = holdAndReleaseCountHolds2_d.f 3 8 8 ∧
    rowOf holdAndReleaseCountHolds2_d = some (.codec 5) ∧
    holdAndReleaseCountHolds2_d.f 3 16 20 ≤ ((slotAt holdAndReleaseCountHolds2_c0 (headCtx (0 : Fin 32) (0 : Fin 16) ({} : Chain)).m (holdAndReleaseCountHolds2_d.f 3 0 5)).holds : Nat) ∧
    ((slotAt holdAndReleaseCountHolds2_c0 (headCtx (0 : Fin 32) (0 : Fin 16) ({} : Chain)).m (holdAndReleaseCountHolds2_d.f 3 0 5)).holds : Nat) < 2 ^ 20) ∧
    HeadReady holdAndReleaseCountHolds2_s (0 : Fin 32) (0 : Fin 16) ({} : Chain) holdAndReleaseCountHolds2_d ([] : List Nat) holdAndReleaseCountHolds2_c :=
  ⟨by decide +kernel, headReady_of (by decide +kernel)⟩

/-! Obligations.VersionInEffectIsLatest -/

theorem wit_versionInEffectIsLatest2 :
    (5 : Nat) < 2 ^ 32 ∧
    (∀ v ∈ ([{ live := true, tick := 9, slot := 0, gen := 1, body := 0, pins := 0 }, { live := false, tick := 3, slot := 1, gen := 1, body := 0, pins := 0 }] : List Version), v.tick < 2 ^ 32 ∧ ticksBefore (5 : Nat) v.tick ≠ 2 ^ 31) ∧
    versionAt ([{ live := true, tick := 9, slot := 0, gen := 1, body := 0, pins := 0 }, { live := false, tick := 3, slot := 1, gen := 1, body := 0, pins := 0 }] : List Version) (5 : Nat) = none :=
  by decide +kernel

/-! Obligations.CompletionSignalsAndEndsChain -/

def completionSignalsAndEndsChain1_s : State := st (basin0 { flight := [{ id := 0, w := dw [0x1000580000000], job := 5 }] } on)
def completionSignalsAndEndsChain1_d : Desc := ds [0x1000580000000]
theorem wit_completionSignalsAndEndsChain1 :
    completionSignalsAndEndsChain1_s.chip.basins[(0 : Fin 32)].chains[(0 : Fin 16)] = some ({ flight := [{ id := 0, w := dw [0x1000580000000], job := 5 }] } : Chain) ∧
    ({ flight := [{ id := 0, w := dw [0x1000580000000], job := 5 }] } : Chain).place = .home ∧
    ({ flight := [{ id := 0, w := dw [0x1000580000000], job := 5 }] } : Chain).stopped = false ∧
    ({ flight := [{ id := 0, w := dw [0x1000580000000], job := 5 }] } : Chain).ticket = none ∧
    ({ flight := [{ id := 0, w := dw [0x1000580000000], job := 5 }] } : Chain).lastDone = false ∧
    ({ flight := [{ id := 0, w := dw [0x1000580000000], job := 5 }] } : Chain).item.done = 0 ∧
    ({ flight := [{ id := 0, w := dw [0x1000580000000], job := 5 }] } : Chain).flight[(⟨0, 0, 0⟩ : Done).i]? = some ({ id := 0, w := dw [0x1000580000000], job := 5 } : Flight) ∧
    ({ id := 0, w := dw [0x1000580000000], job := 5 } : Flight).wait = .none ∧
    ({ id := 0, w := dw [0x1000580000000], job := 5 } : Flight).again = false ∧
    ({ id := 0, w := dw [0x1000580000000], job := 5 } : Flight).w ≠ [] ∧
    ({ id := 0, w := dw [0x1000580000000], job := 5 } : Flight).pins = [] ∧
    ({ id := 0, w := dw [0x1000580000000], job := 5 } : Flight).busy = [] ∧
    ({ flight := [{ id := 0, w := dw [0x1000580000000], job := 5 }] } : Chain).flight.find? (fun g => g.id == ({ id := 0, w := dw [0x1000580000000], job := 5 } : Flight).id) = some ({ id := 0, w := dw [0x1000580000000], job := 5 } : Flight) ∧
    completionSignalsAndEndsChain1_d = { w := ({ id := 0, w := dw [0x1000580000000], job := 5 } : Flight).w } ∧
    completionSignalsAndEndsChain1_s.chip.jobs = [] ∧
    (∀ n ∈ ({ id := 0, w := dw [0x1000580000000], job := 5 } : Flight).builds, n < 16) ∧
    (∀ h ∈ ({ id := 0, w := dw [0x1000580000000], job := 5 } : Flight).holds, h.1 < 16) :=
  by decide +kernel

/-! Obligations.GangModeChangesForFirstWaiter -/

def gangModeChangesForFirstWaiter1_s : State := st (basin0 {} { on with mem := at0 0 ((dw [0x1000585110101]).flatMap (leBytes 8)) [], basins := on.basins.set 0 { drain := [0] } })
theorem wit_gangModeChangesForFirstWaiter1 :
    gangModeChangesForFirstWaiter1_s.chip.basins[(0 : Fin 32)].chains[(0 : Fin 16)] = some ({} : Chain) ∧
    gangModeChangesForFirstWaiter1_s.chip.basins[(0 : Fin 32)].drain.contains (0 : Fin 16) = true ∧
    jetsIdle gangModeChangesForFirstWaiter1_s.chip.basins[(0 : Fin 32)] = true ∧
    (∀ p ∈ chainsOf gangModeChangesForFirstWaiter1_s.chip.basins[(0 : Fin 32)], gangModeChangesForFirstWaiter1_s.chip.basins[(0 : Fin 32)].drain.contains p.1 = true → p.1 ≠ (0 : Fin 16) → ({} : Chain).stamp < p.2.stamp) :=
  by decide +kernel

def gangModeChangesForFirstWaiter2_s : State := st on
theorem wit_gangModeChangesForFirstWaiter2 :
    jetsIdle gangModeChangesForFirstWaiter2_s.chip.basins[(0 : Fin 32)] = false ∨ ∀ p ∈ chainsOf gangModeChangesForFirstWaiter2_s.chip.basins[(0 : Fin 32)], gangModeChangesForFirstWaiter2_s.chip.basins[(0 : Fin 32)].drain.contains p.1 = false :=
  by decide +kernel

/-! EnableWriteSetsPassedBasins, in Obligations.BasinsAreKept -/

def enableWriteSetsPassedBasins1_s : State := st ({ on with basins := on.basins.set 0 { selftest := 2 } })
theorem wit_enableWriteSetsPassedBasins1 :
    (1 : Master).toNat ≤ 3 ∧
    modeOf enableWriteSetsPassedBasins1_s.chip = 0 ∧
    enableWriteSetsPassedBasins1_s.chip.power.change = none :=
  by decide +kernel

/-! BasinUpkeep, in Obligations.BasinsAreKept -/

def basinUpkeep1_s : State := st on
theorem wit_basinUpkeep1 :
    (1 : Master).toNat ≤ 3 ∧
    modeOf basinUpkeep1_s.chip = 0 ∧
    (0x101 : BitVec 32).toNat % 32 = (1 : Fin 32).val ∧
    (0x101 : BitVec 32).getLsbD 8 = true ∧
    enabled basinUpkeep1_s.chip (1 : Fin 32) = false ∧
    bit (getReg basinUpkeep1_s.chip rTest) 9 = false :=
  by decide +kernel

def basinUpkeep2_s : State := st ({ on with basins := on.basins.set 0 { selftest := 1 } })
theorem wit_basinUpkeep2 :
    basinUpkeep2_s.chip.basins[(0 : Fin 32)].selftest = 1 :=
  by decide +kernel

def basinUpkeep3_s : State := st on
theorem wit_basinUpkeep3 :
    (1 : Master).toNat ≤ 3 ∧
    hubOn basinUpkeep3_s.chip = true ∧
    (3 : BitVec 32).toNat % 64 ≤ 24 ∧
    (3 : BitVec 32).toNat % 64 ≠ getF basinUpkeep3_s.chip (rClk (3 : Fin 32).val) 0 6 :=
  by decide +kernel

def basinUpkeep4_s : State := st ({ on with basins := on.basins.set 0 { freqPend := true } })
theorem wit_basinUpkeep4 :
    basinUpkeep4_s.chip.basins[(0 : Fin 32)].freqPend = true ∧
    basinBusy basinUpkeep4_s.chip.basins[(0 : Fin 32)] = false :=
  by decide +kernel

def basinUpkeep6_s : State := st { on with ecc := [(sramWord on 0 3, .single)] }
theorem wit_basinUpkeep6 :
    tabFind basinUpkeep6_s.chip.ecc (sramWord basinUpkeep6_s.chip (0 : Fin 32) (3 : Nat)) = some .single :=
  by decide +kernel

def basinUpkeep7_s : State := st on
theorem wit_basinUpkeep7 :
    modeOf basinUpkeep7_s.chip = 0 ∧
    (3071 : Nat) < 3072 ∧
    basinUpkeep7_s.chip.ecc = [] :=
  by decide +kernel

/-! ScrubCountsErrors, in Obligations.BasinsAreKept -/

def scrubCountsErrors1_s : State := st { on with ecc := [(sramWord on 0 786431, .single)] }
theorem wit_scrubCountsErrors1 :
    modeOf scrubCountsErrors1_s.chip = 0 ∧
    (3071 : Nat) < 3072 ∧
    (255 : Nat) < 256 ∧
    scrubCountsErrors1_s.chip.ecc = [(sramWord scrubCountsErrors1_s.chip (0 : Fin 32) (256 * (3071 : Nat) + (255 : Nat)), .single)] :=
  by decide +kernel

def scrubCountsErrors2_s : State := st { on with ecc := [(sramWord on 0 512, .double)] }
theorem wit_scrubCountsErrors2 :
    modeOf scrubCountsErrors2_s.chip = 0 ∧
    (2 : Nat) < 3072 ∧
    (0 : Nat) < 256 ∧
    scrubCountsErrors2_s.chip.ecc = [(sramWord scrubCountsErrors2_s.chip (0 : Fin 32) (256 * (2 : Nat) + (0 : Nat)), .double)] :=
  by decide +kernel

/-! PostEntersTailOrIsRefusedWhole, in Obligations.QueuesFillAndStart -/

def postEntersTailOrIsRefusedWhole1_s : State := st (chipOf [(rWqLo 0, 0x1000)] ({ on with mem := at0 0x1000 (([0x500000100, 0x0, 0x0, 0x0, 0x0, 0x0, 0x0, 0x0] : List Nat).flatMap (leBytes 8)) [] }))
def postEntersTailOrIsRefusedWhole1_c : Chip := storeReg postEntersTailOrIsRefusedWhole1_s.chip (rWqHi (0 : Fin 32).val) (0x10801 : BitVec 32).toNat
theorem wit_postEntersTailOrIsRefusedWhole1 :
    (1 : Master).toNat ≤ 3 ∧
    hubOn postEntersTailOrIsRefusedWhole1_s.chip = true ∧
    (fld (0x10801 : BitVec 32).toNat 16 9 : Nat) ≠ 0 ∧
    PlainRange postEntersTailOrIsRefusedWhole1_s.chip (postAddr postEntersTailOrIsRefusedWhole1_c (rWqLo (0 : Fin 32).val) (rWqHi (0 : Fin 32).val) : Nat) (64 * (fld (0x10801 : BitVec 32).toNat 16 9 : Nat)) ∧
    ([[0x500000100, 0x0, 0x0, 0x0, 0x0, 0x0, 0x0, 0x0]] : List (List Nat)) = runWords 64 (fld (0x10801 : BitVec 32).toNat 16 9 : Nat) (memReadN postEntersTailOrIsRefusedWhole1_s.chip.mem (postAddr postEntersTailOrIsRefusedWhole1_c (rWqLo (0 : Fin 32).val) (rWqHi (0 : Fin 32).val) : Nat) (64 * (fld (0x10801 : BitVec 32).toNat 16 9 : Nat))) ∧
    postEntersTailOrIsRefusedWhole1_s.chip.basins[(0 : Fin 32)].queue.length + (fld (0x10801 : BitVec 32).toNat 16 9 : Nat) ≤ 256 ∧
    (postAddr postEntersTailOrIsRefusedWhole1_c (rWqLo (0 : Fin 32).val) (rWqHi (0 : Fin 32).val) : Nat) % 64 = 0 ∧
    (∀ w ∈ ([[0x500000100, 0x0, 0x0, 0x0, 0x0, 0x0, 0x0, 0x0]] : List (List Nat)), itemBad postEntersTailOrIsRefusedWhole1_c (itemOf w) = false ∧ itemLate postEntersTailOrIsRefusedWhole1_c (itemOf w) = false ∧ (itemOf w).kind ≠ 2) :=
  by decide +kernel

def postEntersTailOrIsRefusedWhole2_s : State := st (chipOf [(rWqLo 0, 0x1000)] ({ on with basins := on.basins.set 0 { queue := List.replicate 255 {} } }))
def postEntersTailOrIsRefusedWhole2_c : Chip := storeReg postEntersTailOrIsRefusedWhole2_s.chip (rWqHi (0 : Fin 32).val) (0x20801 : BitVec 32).toNat
theorem wit_postEntersTailOrIsRefusedWhole2 :
    (1 : Master).toNat ≤ 3 ∧
    hubOn postEntersTailOrIsRefusedWhole2_s.chip = true ∧
    (fld (0x20801 : BitVec 32).toNat 16 9 : Nat) ≠ 0 ∧
    PlainRange postEntersTailOrIsRefusedWhole2_s.chip (postAddr postEntersTailOrIsRefusedWhole2_c (rWqLo (0 : Fin 32).val) (rWqHi (0 : Fin 32).val) : Nat) (64 * (fld (0x20801 : BitVec 32).toNat 16 9 : Nat)) ∧
    (List.replicate 2 (List.replicate 8 0) : List (List Nat)) = runWords 64 (fld (0x20801 : BitVec 32).toNat 16 9 : Nat) (memReadN postEntersTailOrIsRefusedWhole2_s.chip.mem (postAddr postEntersTailOrIsRefusedWhole2_c (rWqLo (0 : Fin 32).val) (rWqHi (0 : Fin 32).val) : Nat) (64 * (fld (0x20801 : BitVec 32).toNat 16 9 : Nat))) ∧
    256 < postEntersTailOrIsRefusedWhole2_s.chip.basins[(0 : Fin 32)].queue.length + (fld (0x20801 : BitVec 32).toNat 16 9 : Nat) :=
  by decide +kernel

/-! OldestReadyItemStarts, in Obligations.QueuesFillAndStart -/

def oldestReadyItemStarts1_s : State := st (chipOf [(0x20C0C, 1)] { on with cad := { on.cad with guardDone := true }, basins := on.basins.set 0 { queue := [{ item := { job := 5 }, gateOk := false }, { item := { job := 5, chain := 0x100 }, gateOk := true }] } })
theorem wit_oldestReadyItemStarts1 :
    (enabled oldestReadyItemStarts1_s.chip (0 : Fin 32) = true ∧
    modeOf oldestReadyItemStarts1_s.chip = 0 ∧
    freeContextOf oldestReadyItemStarts1_s.chip.basins[(0 : Fin 32)] = some (0 : Fin 16) ∧
    (1 : Nat) < 8 ∧
    oldestReadyItemStarts1_s.chip.basins[(0 : Fin 32)].queue[(1 : Nat)]? = some ({ item := { job := 5, chain := 0x100 }, gateOk := true } : QItem) ∧
    ready oldestReadyItemStarts1_s.chip (0 : Fin 32) (1 : Nat) ({ item := { job := 5, chain := 0x100 }, gateOk := true } : QItem) = true ∧
    objectThere oldestReadyItemStarts1_s.chip (0 : Fin 32) ({ item := { job := 5, chain := 0x100 }, gateOk := true } : QItem).item = true ∧
    aheadWhole ({ item := { job := 5, chain := 0x100 }, gateOk := true } : QItem) = true ∧
    ({ item := { job := 5, chain := 0x100 }, gateOk := true } : QItem).heldSince = none ∧
    oldestReadyItemStarts1_s.chip.basins[(0 : Fin 32)].freqPend = false ∧
    oldestReadyItemStarts1_s.chip.basins[(0 : Fin 32)].arrived = [] ∧
    oldestReadyItemStarts1_s.chip.basins[(0 : Fin 32)].swapOwed = false) ∧
    (∀ j p, j < (1 : Nat) → oldestReadyItemStarts1_s.chip.basins[(0 : Fin 32)].queue[j]? = some p → ready oldestReadyItemStarts1_s.chip (0 : Fin 32) j p = false) :=
  ⟨by decide +kernel, by intro j p hj hp; obtain rfl : j = 0 := (by omega); obtain rfl := Option.some.inj hp; decide +kernel⟩

/-! FreqChangeHoldsStarts, in Obligations.QueuesFillAndStart -/

def freqChangeHoldsStarts1_s : State := st { on with basins := on.basins.set 0 { freqPend := true, queue := [{ item := { job := 5 }, gateOk := true }] } }
theorem wit_freqChangeHoldsStarts1 :
    freqChangeHoldsStarts1_s.chip.basins[(0 : Fin 32)].freqPend = true ∧
    freqChangeHoldsStarts1_s.chip.basins[(0 : Fin 32)].swapOwed = false :=
  by decide +kernel

/-! GateRereadComparesSerially, in Obligations.QueuesFillAndStart -/

def gateRereadComparesSerially1_s : State := st { on with mem := at0 0x100 (leBytes 8 7) [], basins := on.basins.set 0 { queue := [{ item := { job := 5, gate := 0x80100000100, gateVal := 7 }, gateOk := false }] } }
theorem wit_gateRereadComparesSerially1 :
    gateRereadComparesSerially1_s.chip.basins[(0 : Fin 32)].queue[(0 : Nat)]? = some ({ item := { job := 5, gate := 0x80100000100, gateVal := 7 }, gateOk := false } : QItem) ∧
    ({ item := { job := 5, gate := 0x80100000100, gateVal := 7 }, gateOk := false } : QItem).item.gate ≠ 0 ∧
    gateLive gateRereadComparesSerially1_s.chip (0 : Fin 32) ({ item := { job := 5, gate := 0x80100000100, gateVal := 7 }, gateOk := false } : QItem) = true ∧
    PlainRange gateRereadComparesSerially1_s.chip ({ item := { job := 5, gate := 0x80100000100, gateVal := 7 }, gateOk := false } : QItem).item.gate.toNat 4 :=
  by decide +kernel

def gateRereadComparesSerially2_s : State := st (chipOf [(0x20000, 0)] { on with basins := on.basins.set 0 { queue := [{ item := { job := 5, gate := 0x80100000100, gateVal := 7 }, gateOk := false }] } })
theorem wit_gateRereadComparesSerially2 :
    gateRereadComparesSerially2_s.chip.basins[(0 : Fin 32)].queue[(0 : Nat)]? = some ({ item := { job := 5, gate := 0x80100000100, gateVal := 7 }, gateOk := false } : QItem) ∧
    ({ item := { job := 5, gate := 0x80100000100, gateVal := 7 }, gateOk := false } : QItem).item.gate ≠ 0 ∧
    gateLive gateRereadComparesSerially2_s.chip (0 : Fin 32) ({ item := { job := 5, gate := 0x80100000100, gateVal := 7 }, gateOk := false } : QItem) = false :=
  by decide +kernel

/-! StealingMovesItems, in Obligations.ItemsMoveAndReturn -/

def stealingMovesItems1_s : State := st (chipOf [(0x20000, 3), (0x20800, 1), (0x20C0C, 1)] { on with cad := { on.cad with guardDone := true }, basins := (on.basins.set 0 {  }).set 1 { queue := [{ item := { job := 5, locality := 1 }, gateOk := true }, { item := { job := 5, locality := 1 }, gateOk := true }] } })
theorem wit_stealingMovesItems1 :
    stealingMovesItems1_s.chip.basins[(0 : Fin 32)].thief = .idle ∧
    isThief stealingMovesItems1_s.chip (0 : Fin 32) = true ∧
    findVictim (sweepBegun (0 : Fin 32) stealingMovesItems1_s.chip) (0 : Fin 32) 1 = some (1 : Fin 32) :=
  by decide +kernel

def stealingMovesItems2_s : State := st (chipOf [(0x20000, 3), (0x20800, 1), (0x20C0C, 1)] { on with cad := { on.cad with guardDone := true }, basins := (on.basins.set 0 {  }).set 1 {  } })
theorem wit_stealingMovesItems2 :
    stealingMovesItems2_s.chip.basins[(0 : Fin 32)].thief = .idle ∧
    isThief stealingMovesItems2_s.chip (0 : Fin 32) = true ∧
    findVictim (sweepBegun (0 : Fin 32) stealingMovesItems2_s.chip) (0 : Fin 32) 1 = none ∧
    getF stealingMovesItems2_s.chip rWqCfg 0 3 = 1 :=
  by decide +kernel

def stealingMovesItems3_s : State := st (chipOf [(0x20000, 0)] on)
theorem wit_stealingMovesItems3 :
    stealingMovesItems3_s.chip.basins[(0 : Fin 32)].thief = .idle ∧
    isThief stealingMovesItems3_s.chip (0 : Fin 32) = false :=
  by decide +kernel

def stealingMovesItems4_s : State := st (chipOf [(0x20000, 3), (0x20800, 1), (0x20C0C, 1)] { on with cad := { on.cad with guardDone := true }, basins := (on.basins.set 0 { thief := .backoff }).set 1 {  } })
theorem wit_stealingMovesItems4 :
    stealingMovesItems4_s.chip.basins[(0 : Fin 32)].thief = .backoff ∨ (∃ n v, stealingMovesItems4_s.chip.basins[(0 : Fin 32)].thief = .taking n v) ∨ (∃ xs, stealingMovesItems4_s.chip.basins[(0 : Fin 32)].thief = .probing xs) ∨ ∃ p v, stealingMovesItems4_s.chip.basins[(0 : Fin 32)].thief = .takingFar p v :=
  .inl (by decide +kernel)

def stealingMovesItems5_s : State := st (chipOf [(0x20000, 3), (0x20800, 1), (0x20C0C, 1)] { on with cad := { on.cad with guardDone := true }, basins := (on.basins.set 0 { thief := .backoff }).set 1 {  } })
theorem wit_stealingMovesItems5 :
    stealingMovesItems5_s.chip.basins[(0 : Fin 32)].thief = .backoff :=
  by decide +kernel

def stealingMovesItems6_s : State := st (chipOf [(rMembers, 3)] on)
theorem wit_stealingMovesItems6 :
    fenced stealingMovesItems6_s.chip (1 : Pkg).toNat = false ∧
    (1 : Pkg) ≠ stealingMovesItems6_s.chip.power.pkgId ∧
    modeOf stealingMovesItems6_s.chip = 0 :=
  by decide +kernel

def stealingMovesItems7_s : State := st (chipOf [(0x20000, 3), (0x20800, 1), (0x20C0C, 1)] { on with cad := { on.cad with guardDone := true }, basins := (on.basins.set 0 { thief := .taking 1 1, takeWin := 0x2000 }).set 1 { queue := [{ item := { job := 5, locality := 1 }, gateOk := true }, { item := { job := 5, locality := 1 }, gateOk := true }] } })
theorem wit_stealingMovesItems7 :
    stealingMovesItems7_s.chip.basins[(0 : Fin 32)].thief = .taking 1 (1 : Fin 32) ∧
    (1 : Fin 32) ≠ (0 : Fin 32) ∧
    terraceOf (1 : Fin 32) = terraceOf (0 : Fin 32) ∧
    enabled stealingMovesItems7_s.chip (0 : Fin 32) = true ∧
    takeFrom stealingMovesItems7_s.chip (1 : Fin 32) 1 (freeJets stealingMovesItems7_s.chip.basins[(0 : Fin 32)]) stealingMovesItems7_s.chip.basins[(0 : Fin 32)].takeWin stealingMovesItems7_s.chip.basins[(0 : Fin 32)].occupied = some ((1 : Nat), ({ item := { job := 5, locality := 1 }, gateOk := true } : QItem)) ∧
    freeContextOf stealingMovesItems7_s.chip.basins[(0 : Fin 32)] = some (0 : Fin 16) ∧
    (({ item := { job := 5, locality := 1 }, gateOk := true } : QItem).item.pfEn = false ∨ ({ item := { job := 5, locality := 1 }, gateOk := true } : QItem).ahead.isSome = true) :=
  by decide +kernel

/-! MigratedItemReturns, in Obligations.ItemsMoveAndReturn -/

def migratedItemReturns1_s : State := st (basin0 { item := { job := 5, retOff := 0x40, retLen := 1 }, home := 1, place := .migrated, lastDone := true, signals := [3, 3] } { on with mem := at0 0x40 [7, 9] [] })
theorem wit_migratedItemReturns1 :
    migratedItemReturns1_s.chip.basins[(0 : Fin 32)].chains[(0 : Fin 16)] = some ({ item := { job := 5, retOff := 0x40, retLen := 1 }, home := 1, place := .migrated, lastDone := true, signals := [3, 3] } : Chain) ∧
    ({ item := { job := 5, retOff := 0x40, retLen := 1 }, home := 1, place := .migrated, lastDone := true, signals := [3, 3] } : Chain).place = .migrated ∧
    ({ item := { job := 5, retOff := 0x40, retLen := 1 }, home := 1, place := .migrated, lastDone := true, signals := [3, 3] } : Chain).lastDone = true ∧
    ({ item := { job := 5, retOff := 0x40, retLen := 1 }, home := 1, place := .migrated, lastDone := true, signals := [3, 3] } : Chain).stopped = false ∧
    ({ item := { job := 5, retOff := 0x40, retLen := 1 }, home := 1, place := .migrated, lastDone := true, signals := [3, 3] } : Chain).flight = [] ∧
    ({ item := { job := 5, retOff := 0x40, retLen := 1 }, home := 1, place := .migrated, lastDone := true, signals := [3, 3] } : Chain).homePkg = migratedItemReturns1_s.chip.power.pkgId ∧
    ({ item := { job := 5, retOff := 0x40, retLen := 1 }, home := 1, place := .migrated, lastDone := true, signals := [3, 3] } : Chain).ticket = none ∧
    ({ item := { job := 5, retOff := 0x40, retLen := 1 }, home := 1, place := .migrated, lastDone := true, signals := [3, 3] } : Chain).item.done = 0 ∧
    migratedItemReturns1_s.chip.ecc = [] ∧
    migratedItemReturns1_s.chip.jobs = [] :=
  by decide +kernel

/-! Obligations.RunAheadCancelAndQueueRegisters -/

def runAheadCancelAndQueueRegisters1_s : State := { st (chipOf [(rWqWindow, 0x2000)] { on with mem := at0 0 ((dw [0x1000580000020, 0x80100001000, 0x80100002000, 0x10001, 0x1000001]).flatMap (leBytes 8)) (at0 0x1000 [5] []), basins := on.basins.set 0 { queue := [{ item := { job := 5, pfEn := true, pfChain := 0, locality := 0, retLen := 0 }, gateOk := true }] } }) with pending := [] }
theorem wit_runAheadCancelAndQueueRegisters1 :
    runAheadCancelAndQueueRegisters1_s.chip.basins[(0 : Fin 32)].queue[(0 : Nat)]? = some ({ item := { job := 5, pfEn := true, pfChain := 0, locality := 0, retLen := 0 }, gateOk := true } : QItem) ∧
    enabled runAheadCancelAndQueueRegisters1_s.chip (0 : Fin 32) = true ∧
    modeOf runAheadCancelAndQueueRegisters1_s.chip = 0 ∧
    runAheadCancelAndQueueRegisters1_s.chip.basins[(0 : Fin 32)].freqPend = false ∧
    runAheadCancelAndQueueRegisters1_s.chip.basins[(0 : Fin 32)].hold = false ∧
    aheadDue runAheadCancelAndQueueRegisters1_s.chip (0 : Fin 32) ({ item := { job := 5, pfEn := true, pfChain := 0, locality := 0, retLen := 0 }, gateOk := true } : QItem) = true ∧
    (runAheadCancelAndQueueRegisters1_s.chip.basins[(0 : Fin 32)].queue.take (0 : Nat)).any (aheadDue runAheadCancelAndQueueRegisters1_s.chip (0 : Fin 32)) = false ∧
    aheadChain (0 : Fin 32) 98304 ({ item := { job := 5, pfEn := true, pfChain := 0, locality := 0, retLen := 0 }, gateOk := true } : QItem).item.pfChain.toNat [] runAheadCancelAndQueueRegisters1_s.chip = ((runAheadCancelAndQueueRegisters1_s.chip : Chip), ([{ dst := [(0x80100002000, 64)], moved := true, writes := [(0x80100002000, 5 :: List.replicate 63 0)] }] : List RunCopy), none) :=
  by decide +kernel

def runAheadCancelAndQueueRegisters2_s : State := { st (chipOf [(rWqWindow, 0x2000)] { on with mem := at0 0 ((dw [0x1000580000020, 0x80100001000, 0x80100002000, 0x10001, 0x1000001]).flatMap (leBytes 8)) (at0 0x1000 [5] []), basins := on.basins.set 0 { queue := [{ item := { job := 5, pfEn := true, pfChain := 0, locality := 0, retLen := 0 }, gateOk := true }] } }) with pending := [] }
def runAheadCancelAndQueueRegisters2_e : Desc := ds [0x1000580000020, 0x80100001000, 0x80100002000, 0x10001, 0x1000001]
theorem wit_runAheadCancelAndQueueRegisters2 :
    (runAheadCancelAndQueueRegisters2_s.chip.basins[(0 : Fin 32)].queue[(0 : Nat)]? = some ({ item := { job := 5, pfEn := true, pfChain := 0, locality := 0, retLen := 0 }, gateOk := true } : QItem) ∧
    enabled runAheadCancelAndQueueRegisters2_s.chip (0 : Fin 32) = true ∧
    modeOf runAheadCancelAndQueueRegisters2_s.chip = 0 ∧
    runAheadCancelAndQueueRegisters2_s.chip.basins[(0 : Fin 32)].freqPend = false ∧
    runAheadCancelAndQueueRegisters2_s.chip.basins[(0 : Fin 32)].hold = false ∧
    aheadDue runAheadCancelAndQueueRegisters2_s.chip (0 : Fin 32) ({ item := { job := 5, pfEn := true, pfChain := 0, locality := 0, retLen := 0 }, gateOk := true } : QItem) = true ∧
    (runAheadCancelAndQueueRegisters2_s.chip.basins[(0 : Fin 32)].queue.take (0 : Nat)).any (aheadDue runAheadCancelAndQueueRegisters2_s.chip (0 : Fin 32)) = false) ∧
    AheadOne runAheadCancelAndQueueRegisters2_s.chip (0 : Fin 32) ({ item := { job := 5, pfEn := true, pfChain := 0, locality := 0, retLen := 0 }, gateOk := true } : QItem) runAheadCancelAndQueueRegisters2_e ([(0x80100001000, 64)] : List (Nat × Nat)) ([(0x80100002000, 64)] : List (Nat × Nat)) :=
  ⟨by decide +kernel, ⟨by decide +kernel, by decide +kernel, by decide +kernel, ⟨by decide +kernel, by decide +kernel⟩, ⟨by decide +kernel, by decide +kernel⟩, ⟨by decide +kernel, by decide +kernel⟩, by decide +kernel⟩⟩

def runAheadCancelAndQueueRegisters3_s : State := { st (chipOf [(rWqWindow, 0x2000)] { on with mem := at0 0 ((dw [0x1000580000020, 0x80100001000, 0x80100002000, 0x10001, 0x1000001]).flatMap (leBytes 8)) (at0 0x1000 [5] []), basins := on.basins.set 0 { queue := [{ item := { job := 5, pfChain := 0, locality := 0, retLen := 0 }, gateOk := true }] } }) with pending := [] }
theorem wit_runAheadCancelAndQueueRegisters3 :
    runAheadCancelAndQueueRegisters3_s.chip.basins[(0 : Fin 32)].queue[(0 : Nat)]? = some ({ item := { job := 5, pfChain := 0, locality := 0, retLen := 0 }, gateOk := true } : QItem) ∧
    (aheadDue runAheadCancelAndQueueRegisters3_s.chip (0 : Fin 32) ({ item := { job := 5, pfChain := 0, locality := 0, retLen := 0 }, gateOk := true } : QItem) = false ∨ runAheadCancelAndQueueRegisters3_s.chip.basins[(0 : Fin 32)].freqPend = true ∨ runAheadCancelAndQueueRegisters3_s.chip.basins[(0 : Fin 32)].hold = true ∨ enabled runAheadCancelAndQueueRegisters3_s.chip (0 : Fin 32) = false) :=
  by decide +kernel

def runAheadCancelAndQueueRegisters4_s : State := st (chipOf [(0x20C0C, 1)] { on with cad := { on.cad with guardDone := true }, basins := on.basins.set 0 { queue := [{ item := { job := 5, pfEn := true, pfChain := 0, locality := 0, retLen := 0 }, gateOk := true }, { item := { job := 5 }, gateOk := true }] } })
theorem wit_runAheadCancelAndQueueRegisters4 :
    (1 : Master).toNat ≤ 3 ∧
    hubOn runAheadCancelAndQueueRegisters4_s.chip = true ∧
    fld (0x30005 : BitVec 32).toNat 0 16 < 256 ∧
    (0x30005 : BitVec 32).getLsbD 17 = true ∧
    (0x30005 : BitVec 32).getLsbD 16 = true :=
  by decide +kernel

def runAheadCancelAndQueueRegisters5_s : State := st on
theorem wit_runAheadCancelAndQueueRegisters5 :
    (1 : Master).toNat ≤ 3 ∧
    hubOn runAheadCancelAndQueueRegisters5_s.chip = true ∧
    (∀ b : Fin 32, runAheadCancelAndQueueRegisters5_s.chip.basins[b].occupied = []) ∧
    fld (0x2001 : BitVec 32).toNat 8 6 ≤ 32 ∧
    (fld (0x2001 : BitVec 32).toNat 0 7 + fld (0x2001 : BitVec 32).toNat 8 6) * 65536 ≤ 0x600000 :=
  by decide +kernel

def runAheadCancelAndQueueRegisters6_s : State := st on
theorem wit_runAheadCancelAndQueueRegisters6 :
    (1 : Master).toNat ≤ 3 ∧
    hubOn runAheadCancelAndQueueRegisters6_s.chip = true ∧
    runAheadCancelAndQueueRegisters6_s.chip.basins[(3 : Fin 32)].queue = [] ∧
    fld (383 : BitVec 32).toNat 0 9 ≤ 383 :=
  by decide +kernel

/-! CadenceTickAdvances, in Obligations.CadenceRuns -/

def cadenceTickAdvances1_s : State := st (chipOf [(0x20C0C, 1)] on)
theorem wit_cadenceTickAdvances1 :
    ticking cadenceTickAdvances1_s.chip = true ∧
    cadenceTickAdvances1_s.chip.cad.fresh = false ∧
    cadenceTickAdvances1_s.chip.cad.notices = [] ∧
    cadenceTickAdvances1_s.chip.jobs = [] ∧
    (∀ j, j < 256 → intervalOf cadenceTickAdvances1_s.chip j = none) ∧
    (∀ e, e < 16 → setState cadenceTickAdvances1_s.chip e ≠ 3) ∧
    cadenceTickAdvances1_s.chip.ms.heldSince = none :=
  by decide +kernel

/-! CadenceControl, in Obligations.CadenceRuns -/

def cadenceControl1_s : State := st (chipOf [(0x20C0C, 1)] on)
theorem wit_cadenceControl1 :
    ticking cadenceControl1_s.chip = true :=
  by decide +kernel

def cadenceControl2_s : State := st (chipOf [(rCadCfg, 3), (rPhase, 5)] on)
theorem wit_cadenceControl2 :
    (1 : Master).toNat ≤ 3 ∧
    hubOn cadenceControl2_s.chip = true ∧
    (⟨1, none⟩ : CadWrite).v.getLsbD 0 = true ∧
    (⟨1, none⟩ : CadWrite).v.getLsbD 1 = false ∧
    ticking cadenceControl2_s.chip = false ∧
    bit (getReg cadenceControl2_s.chip rCadCfg) 0 = true ∧
    bit (getReg cadenceControl2_s.chip rCadCfg) 1 = true :=
  by decide +kernel

def cadenceControl3_s : State := st (chipOf [(0x20C0C, 1), (rPhase, 5), (rMembers, 3), (rLinkStatus 0, 2), (rPartner 1, 2)] on)
theorem wit_cadenceControl3 :
    (1 : Master).toNat ≤ 3 ∧
    hubOn cadenceControl3_s.chip = true ∧
    (⟨2, some 0xFFFFFF00⟩ : CadWrite).v.getLsbD 0 = false ∧
    (⟨2, some 0xFFFFFF00⟩ : CadWrite).v.getLsbD 1 = true ∧
    ticking cadenceControl3_s.chip = true ∧
    bit (getReg cadenceControl3_s.chip rCadCfg) 1 = false :=
  by decide +kernel

def cadenceControl4_s : State := st on
theorem wit_cadenceControl4 :
    modeOf cadenceControl4_s.chip ≤ 1 ∧
    (ticking cadenceControl4_s.chip && cadenceControl4_s.chip.cad.syncEn) = false :=
  by decide +kernel

def cadenceControl5_s : State := st (putReg on rPower 2)
theorem wit_cadenceControl5 :
    1 < modeOf cadenceControl5_s.chip :=
  by decide +kernel

def cadenceControl6_s : State := st (chipOf [(0x20C0C, 1), (rCadStatus, 0xFFFF0001)] { on with cad := { on.cad with syncEn := true, syncPeriod := 2, lastEdge := some 10 } })
theorem wit_cadenceControl6 :
    modeOf cadenceControl6_s.chip ≤ 1 ∧
    ticking cadenceControl6_s.chip = true ∧
    cadenceControl6_s.chip.cad.syncEn = true ∧
    cadenceControl6_s.chip.cad.syncPeriod = 2 ∧
    cadenceControl6_s.chip.cad.lastEdge = some (10 : Nat) ∧
    (500011 : BitVec 64).toNat = (10 : Nat) + 2000000 * (0 : Nat) + (500001 : Nat) ∧
    500000 < (500001 : Nat) ∧
    (500001 : Nat) < 1500000 :=
  by decide +kernel

def cadenceControl7_s : State := st (chipOf [(0x20C0C, 1), (rTick, 100), (rMembers, 3)] on)
theorem wit_cadenceControl7 :
    fenced cadenceControl7_s.chip (1 : BitVec 4).toNat = false ∧
    (3 : BitVec 16).toNat ∉ tabGet [] cadenceControl7_s.chip.fab.seen (1 : BitVec 4).toNat ∧
    tickLe (101 : BitVec 32).toNat (getReg cadenceControl7_s.chip rTick) = false :=
  by decide +kernel

def cadenceControl8_s : State := st (chipOf [(0x20C0C, 1), (rTick, 100), (rMembers, 3)] on)
theorem wit_cadenceControl8 :
    fenced cadenceControl8_s.chip (1 : BitVec 4).toNat = false ∧
    (3 : BitVec 16).toNat ∉ tabGet [] cadenceControl8_s.chip.fab.seen (1 : BitVec 4).toNat ∧
    ticking cadenceControl8_s.chip = true ∧
    cadenceControl8_s.chip.cad.fresh = false ∧
    tickLe (100 : BitVec 32).toNat (getReg cadenceControl8_s.chip rTick) = true :=
  by decide +kernel

/-! PrefetchFillEndsItsRead, in Obligations.WaitsAndBlocksEnd -/

def prefetchFillEndsItsRead1_s : State := st (basin0 { flight := [{ w := [1], pins := [{ root := 0x80100000400, slot := 0, gen := 1 }] }] } { on with mem := at0 0x500 (leBytes 8 7) [], basins := on.basins.set 0 { labFetch := [{ root := 0x80100000400, gen := 1, layer := 0, page := 4, count := 2, addr := 0x80100000500 }] } })
theorem wit_prefetchFillEndsItsRead1 :
    prefetchFillEndsItsRead1_s.chip.basins[(0 : Fin 32)].labFetch[(0 : Nat)]? = some ({ root := 0x80100000400, gen := 1, layer := 0, page := 4, count := 2, addr := 0x80100000500 } : LabFetch) :=
  by decide +kernel

def prefetchFillEndsItsRead2_s : State := st (basin0 { flight := [{ w := [1], pins := [] }] } { on with mem := at0 0x500 (leBytes 8 7) [], basins := on.basins.set 0 { labFetch := [{ root := 0x80100000400, gen := 1, layer := 0, page := 4, count := 2, addr := 0x80100000500 }] } })
theorem wit_prefetchFillEndsItsRead2 :
    prefetchFillEndsItsRead2_s.chip.basins[(0 : Fin 32)].labFetch[(0 : Nat)]? = some ({ root := 0x80100000400, gen := 1, layer := 0, page := 4, count := 2, addr := 0x80100000500 } : LabFetch) ∧
    fetchPinned (0 : Fin 32) ({ root := 0x80100000400, gen := 1, layer := 0, page := 4, count := 2, addr := 0x80100000500 } : LabFetch) prefetchFillEndsItsRead2_s.chip = false :=
  by decide +kernel

def prefetchFillEndsItsRead3_s : State := st (basin0 { flight := [{ w := [1], pins := [{ root := 0x80100000400, slot := 0, gen := 1 }] }] } { on with mem := at0 0x500 (leBytes 8 7) [], basins := on.basins.set 0 { labFetch := [{ root := 0x80100000400, gen := 1, layer := 0, page := 4, count := 2, addr := 0x80100000500 }] } })
theorem wit_prefetchFillEndsItsRead3 :
    (prefetchFillEndsItsRead3_s.chip.basins[(0 : Fin 32)].labFetch[(0 : Nat)]? = some ({ root := 0x80100000400, gen := 1, layer := 0, page := 4, count := 2, addr := 0x80100000500 } : LabFetch) ∧
    fetchPinned (0 : Fin 32) ({ root := 0x80100000400, gen := 1, layer := 0, page := 4, count := 2, addr := 0x80100000500 } : LabFetch) prefetchFillEndsItsRead3_s.chip = true ∧
    fenced prefetchFillEndsItsRead3_s.chip (pkgOf ({ root := 0x80100000400, gen := 1, layer := 0, page := 4, count := 2, addr := 0x80100000500 } : LabFetch).addr) = false ∧
    pkgOf ({ root := 0x80100000400, gen := 1, layer := 0, page := 4, count := 2, addr := 0x80100000500 } : LabFetch).addr = pkg prefetchFillEndsItsRead3_s.chip ∧
    pkgOf (({ root := 0x80100000400, gen := 1, layer := 0, page := 4, count := 2, addr := 0x80100000500 } : LabFetch).addr / 64 * 64) = pkg prefetchFillEndsItsRead3_s.chip) ∧
    runEff (readLine ({ root := 0x80100000400, gen := 1, layer := 0, page := 4, count := 2, addr := 0x80100000500 } : LabFetch).root ({ root := 0x80100000400, gen := 1, layer := 0, page := 4, count := 2, addr := 0x80100000500 } : LabFetch).gen ({ root := 0x80100000400, gen := 1, layer := 0, page := 4, count := 2, addr := 0x80100000500 } : LabFetch).layer ({ root := 0x80100000400, gen := 1, layer := 0, page := 4, count := 2, addr := 0x80100000500 } : LabFetch).page ({ root := 0x80100000400, gen := 1, layer := 0, page := 4, count := 2, addr := 0x80100000500 } : LabFetch).count ({ root := 0x80100000400, gen := 1, layer := 0, page := 4, count := 2, addr := 0x80100000500 } : LabFetch).addr) prefetchFillEndsItsRead3_s.chip = (((runEff (readLine ({ root := 0x80100000400, gen := 1, layer := 0, page := 4, count := 2, addr := 0x80100000500 } : LabFetch).root ({ root := 0x80100000400, gen := 1, layer := 0, page := 4, count := 2, addr := 0x80100000500 } : LabFetch).gen ({ root := 0x80100000400, gen := 1, layer := 0, page := 4, count := 2, addr := 0x80100000500 } : LabFetch).layer ({ root := 0x80100000400, gen := 1, layer := 0, page := 4, count := 2, addr := 0x80100000500 } : LabFetch).page ({ root := 0x80100000400, gen := 1, layer := 0, page := 4, count := 2, addr := 0x80100000500 } : LabFetch).count ({ root := 0x80100000400, gen := 1, layer := 0, page := 4, count := 2, addr := 0x80100000500 } : LabFetch).addr) prefetchFillEndsItsRead3_s.chip).1 : Chip), .ok ([{ root := 0x80100000400, gen := 1, layer := 0, page := 4, entry := 7 }, { root := 0x80100000400, gen := 1, layer := 0, page := 5, entry := 0 }] : List LabLine)) :=
  ⟨by decide +kernel, paired _ _ (by decide +kernel)⟩

/-! TableWaitEndsOneWayOrTheOther, in Obligations.WaitsAndBlocksEnd -/

def tableWaitEndsOneWayOrTheOther1_s : State := st (basin0 { flight := [{ id := 0, w := dw [0x1000580000022, 0x30000001000, 0x0, 0x3], job := 5, wait := .slot 3 }] } { on with mem := at0 0x1000 [9, 1, 2, 0, 0, 0, 0, 0, 230, 218, 0, 0, 0, 0, 0, 0, 0, 0, 0, 0, 0, 0, 0, 0, 0, 0, 0, 0, 0, 0, 0, 0, 0, 0, 0, 0, 0, 0, 0, 0, 0, 0, 0, 0, 0, 0, 0, 0, 0, 0, 0, 0, 0, 0, 0, 0, 0, 0, 0, 0, 0, 0, 0, 0, 17, 0, 0, 0, 0, 0, 0, 0, 0, 0, 0, 0, 0, 0, 0, 0, 0, 0, 0, 0, 0, 0, 0, 0, 0, 0, 0, 0, 0, 0, 0, 0, 0, 0, 0, 0, 0, 0, 0, 0, 0, 0, 0, 0, 0, 0, 0, 0, 0, 0, 0, 0, 0, 0, 0, 0, 0, 0, 0, 0, 0, 0, 0, 0, 0, 0, 0, 0, 0, 0, 0, 0, 0, 0, 0, 0, 0, 0, 0, 0, 0, 0, 0, 0, 0, 0, 0, 0, 0, 0, 0, 0, 0, 0, 0, 0, 0, 0, 0, 0, 0, 0, 0, 0, 0, 0, 0, 0, 0, 0, 0, 0, 0, 0, 0, 0, 0, 0, 0, 0, 0, 0, 0, 0, 0, 0, 0, 0] [] })
theorem wit_tableWaitEndsOneWayOrTheOther1 :
    slotWaiter tableWaitEndsOneWayOrTheOther1_s.chip (0 : Fin 32) (0 : Fin 16) = some (({ flight := [{ id := 0, w := dw [0x1000580000022, 0x30000001000, 0x0, 0x3], job := 5, wait := .slot 3 }] } : Chain), ({ id := 0, w := dw [0x1000580000022, 0x30000001000, 0x0, 0x3], job := 5, wait := .slot 3 } : Flight), (3 : Nat)) :=
  by decide +kernel

def tableWaitEndsOneWayOrTheOther2_s : State := st (basin0 { flight := [{ id := 0, w := dw [0x1000580000022, 0x30000001000, 0x0, 0x3], job := 5, wait := .slot 3 }] } { on with mem := at0 0x1000 [9, 1, 2, 0, 0, 0, 0, 0, 230, 218, 0, 0, 0, 0, 0, 0, 0, 0, 0, 0, 0, 0, 0, 0, 0, 0, 0, 0, 0, 0, 0, 0, 0, 0, 0, 0, 0, 0, 0, 0, 0, 0, 0, 0, 0, 0, 0, 0, 0, 0, 0, 0, 0, 0, 0, 0, 0, 0, 0, 0, 0, 0, 0, 0, 17, 0, 0, 0, 0, 0, 0, 0, 0, 0, 0, 0, 0, 0, 0, 0, 0, 0, 0, 0, 0, 0, 0, 0, 0, 0, 0, 0, 0, 0, 0, 0, 0, 0, 0, 0, 0, 0, 0, 0, 0, 0, 0, 0, 0, 0, 0, 0, 0, 0, 0, 0, 0, 0, 0, 0, 0, 0, 0, 0, 0, 0, 0, 0, 0, 0, 0, 0, 0, 0, 0, 0, 0, 0, 0, 0, 0, 0, 0, 0, 0, 0, 0, 0, 0, 0, 0, 0, 0, 0, 0, 0, 0, 0, 0, 0, 0, 0, 0, 0, 0, 0, 0, 0, 0, 0, 0, 0, 0, 0, 0, 0, 0, 0, 0, 0, 0, 0, 0, 0, 0, 0, 0, 0, 0, 0, 0, 0] [] })
def tableWaitEndsOneWayOrTheOther2_c1 : Chip := modChain (0 : Fin 32) (0 : Fin 16) (fun x => { x with flight := x.flight.map (fun g => if g.id = ({ id := 0, w := dw [0x1000580000022, 0x30000001000, 0x0, 0x3], job := 5, wait := .slot 3 } : Flight).id then { g with wait := .none } else g) }) (bumpUnits tableWaitEndsOneWayOrTheOther2_s.chip (rCxCtr (0 : Fin 32).val 3) 256 (700 : Nat))
def tableWaitEndsOneWayOrTheOther2_c2 : Chip := (runEff (tableWrite (ctxOf (0 : Fin 32) (0 : Fin 16) ({ flight := [{ id := 0, w := dw [0x1000580000022, 0x30000001000, 0x0, 0x3], job := 5, wait := .slot 3 }] } : Chain)) { w := ({ id := 0, w := dw [0x1000580000022, 0x30000001000, 0x0, 0x3], job := 5, wait := .slot 3 } : Flight).w } { id := ({ id := 0, w := dw [0x1000580000022, 0x30000001000, 0x0, 0x3], job := 5, wait := .slot 3 } : Flight).id, dcycMax := ({ id := 0, w := dw [0x1000580000022, 0x30000001000, 0x0, 0x3], job := 5, wait := .slot 3 } : Flight).dcycMax } (3 : Nat)) tableWaitEndsOneWayOrTheOther2_c1).1
theorem wit_tableWaitEndsOneWayOrTheOther2 :
    slotWaiter tableWaitEndsOneWayOrTheOther2_s.chip (0 : Fin 32) (0 : Fin 16) = some (({ flight := [{ id := 0, w := dw [0x1000580000022, 0x30000001000, 0x0, 0x3], job := 5, wait := .slot 3 }] } : Chain), ({ id := 0, w := dw [0x1000580000022, 0x30000001000, 0x0, 0x3], job := 5, wait := .slot 3 } : Flight), (3 : Nat)) ∧
    enabled tableWaitEndsOneWayOrTheOther2_s.chip (0 : Fin 32) = true ∧
    pickSlot tableWaitEndsOneWayOrTheOther2_s.chip (ctxOf (0 : Fin 32) (0 : Fin 16) ({ flight := [{ id := 0, w := dw [0x1000580000022, 0x30000001000, 0x0, 0x3], job := 5, wait := .slot 3 }] } : Chain)).m (3 : Nat) (some ({ id := 0, w := dw [0x1000580000022, 0x30000001000, 0x0, 0x3], job := 5, wait := .slot 3 } : Flight).since) = some (3 : Nat) ∧
    runEff (tableWrite { ctxOf (0 : Fin 32) (0 : Fin 16) ({ flight := [{ id := 0, w := dw [0x1000580000022, 0x30000001000, 0x0, 0x3], job := 5, wait := .slot 3 }] } : Chain) with id := ({ id := 0, w := dw [0x1000580000022, 0x30000001000, 0x0, 0x3], job := 5, wait := .slot 3 } : Flight).id } { w := ({ id := 0, w := dw [0x1000580000022, 0x30000001000, 0x0, 0x3], job := 5, wait := .slot 3 } : Flight).w } { id := ({ id := 0, w := dw [0x1000580000022, 0x30000001000, 0x0, 0x3], job := 5, wait := .slot 3 } : Flight).id, dcycMax := ({ id := 0, w := dw [0x1000580000022, 0x30000001000, 0x0, 0x3], job := 5, wait := .slot 3 } : Flight).dcycMax } (3 : Nat)) tableWaitEndsOneWayOrTheOther2_c1 = (tableWaitEndsOneWayOrTheOther2_c2, .ok ()) :=
  by decide +kernel

/-! IntactLinkBlockWritesRawBytes, in Obligations.WaitsAndBlocksEnd -/

def intactLinkBlockWritesRawBytes1_s : State := st (chipOf [(rLinkStatus 3, 2)] { on with mem := at0 0x40 [1, 2] [] })
theorem wit_intactLinkBlockWritesRawBytes1 :
    linkUp intactLinkBlockWritesRawBytes1_s.chip (3 : Fin 12) = true ∧
    intactLinkBlockWritesRawBytes1_s.chip.fab.selfFenced = false ∧
    linkBlockBytes ({ bytes := (leBytes 8 15481686670113243136) ++ List.replicate 88 0, dst := 0x80100000040, job := 5, final := true } : LinkBlock) = .ok (List.replicate 64 0 : List Byte) ∧
    backed ({ bytes := (leBytes 8 15481686670113243136) ++ List.replicate 88 0, dst := 0x80100000040, job := 5, final := true } : LinkBlock).dst.toNat (List.replicate 64 0 : List Byte).length = true ∧
    pkgOf ({ bytes := (leBytes 8 15481686670113243136) ++ List.replicate 88 0, dst := 0x80100000040, job := 5, final := true } : LinkBlock).dst.toNat = pkg intactLinkBlockWritesRawBytes1_s.chip :=
  by decide +kernel

/-! PostedBlocksEnterQueue, in Obligations.PostsEnterQueues -/

def postedBlocksEnterQueue1_s : State := st (chipOf [(rPlLo, 0x1000)] ({ on with mem := at0 0x1000 (([0x1, 0x2] : List Nat).flatMap (leBytes 8)) [] }))
def postedBlocksEnterQueue1_c : Chip := storeReg postedBlocksEnterQueue1_s.chip rPlHi (0x20801 : BitVec 32).toNat
theorem wit_postedBlocksEnterQueue1 :
    (1 : Master).toNat ≤ 3 ∧
    hubOn postedBlocksEnterQueue1_s.chip = true ∧
    (fld (0x20801 : BitVec 32).toNat 16 8 : Nat) ≠ 0 ∧
    (postAddr postedBlocksEnterQueue1_c rPlLo rPlHi : Nat) % 64 = 0 ∧
    PlainRange postedBlocksEnterQueue1_s.chip (postAddr postedBlocksEnterQueue1_c rPlLo rPlHi : Nat) (64 * (fld (0x20801 : BitVec 32).toNat 16 8 : Nat)) :=
  by decide +kernel

def postedBlocksEnterQueue2_s : State := st (chipOf [(0x20C0C, 0), (rPlLo, 0x1020)] on)
def postedBlocksEnterQueue2_c : Chip := storeReg postedBlocksEnterQueue2_s.chip rPlHi (0x20801 : BitVec 32).toNat
theorem wit_postedBlocksEnterQueue2 :
    (1 : Master).toNat ≤ 3 ∧
    hubOn postedBlocksEnterQueue2_s.chip = true ∧
    (fld (0x20801 : BitVec 32).toNat 16 8 : Nat) ≠ 0 ∧
    (postAddr postedBlocksEnterQueue2_c rPlLo rPlHi : Nat) % 64 ≠ 0 :=
  by decide +kernel

/-! RecordRequestsChangeTheirRecord, in Obligations.RecordsFollowRequests -/

def recordRequestsChangeTheirRecord1_s : State := st (chipOf [(0x20C0C, 0)] { on with plQueue := [{ addr := 0x80100000400, w := dw [0x700050002, 0x0, 0x0, 0x0], master := 1 }], recs := [(7, { refs := 254 })] })
theorem wit_recordRequestsChangeTheirRecord1 :
    ((7 : Nat) = ({ addr := 0x80100000400, w := dw [0x700050002, 0x0, 0x0, 0x0], master := 1 } : Block).recNo ∧
    tabFind recordRequestsChangeTheirRecord1_s.chip.recs (7 : Nat) = some ({ refs := 254 } : Rec) ∧
    ({ refs := 254 } : Rec).evictPend = false ∧
    ({ refs := 254 } : Rec).forcePend = false ∧
    ({ refs := 254 } : Rec).moveFailed = false ∧
    ({ refs := 254 } : Rec).refs < 255) ∧
    OldestBlock recordRequestsChangeTheirRecord1_s 2 ({ addr := 0x80100000400, w := dw [0x700050002, 0x0, 0x0, 0x0], master := 1 } : Block) ([] : List Block) :=
  ⟨by decide +kernel, by unfold OldestBlock; decide +kernel⟩

def recordRequestsChangeTheirRecord2_s : State := st (chipOf [(0x20C0C, 0)] { on with plQueue := [{ addr := 0x80100000400, w := dw [0x700050003, 0x0, 0x0, 0x0], master := 1 }], recs := [(7, { refs := 2 })] })
theorem wit_recordRequestsChangeTheirRecord2 :
    ((7 : Nat) = ({ addr := 0x80100000400, w := dw [0x700050003, 0x0, 0x0, 0x0], master := 1 } : Block).recNo ∧
    tabFind recordRequestsChangeTheirRecord2_s.chip.recs (7 : Nat) = some ({ refs := 2 } : Rec) ∧
    ({ refs := 2 } : Rec).evictPend = false ∧
    ({ refs := 2 } : Rec).forcePend = false ∧
    ({ refs := 2 } : Rec).moveFailed = false ∧
    1 < ({ refs := 2 } : Rec).refs) ∧
    OldestBlock recordRequestsChangeTheirRecord2_s 3 ({ addr := 0x80100000400, w := dw [0x700050003, 0x0, 0x0, 0x0], master := 1 } : Block) ([] : List Block) :=
  ⟨by decide +kernel, by unfold OldestBlock; decide +kernel⟩

def recordRequestsChangeTheirRecord3_s : State := st (chipOf [(0x20C0C, 0)] { on with plQueue := [{ addr := 0x80100000400, w := dw [0x700050008, 0x0, 0x0, 0x0], master := 1 }], recs := [(7, { pins := 65534 })] })
theorem wit_recordRequestsChangeTheirRecord3 :
    ((7 : Nat) = ({ addr := 0x80100000400, w := dw [0x700050008, 0x0, 0x0, 0x0], master := 1 } : Block).recNo ∧
    tabFind recordRequestsChangeTheirRecord3_s.chip.recs (7 : Nat) = some ({ pins := 65534 } : Rec) ∧
    ({ pins := 65534 } : Rec).evictPend = false ∧
    ({ pins := 65534 } : Rec).forcePend = false ∧
    ({ pins := 65534 } : Rec).pins < 65535) ∧
    OldestBlock recordRequestsChangeTheirRecord3_s 8 ({ addr := 0x80100000400, w := dw [0x700050008, 0x0, 0x0, 0x0], master := 1 } : Block) ([] : List Block) :=
  ⟨by decide +kernel, by unfold OldestBlock; decide +kernel⟩

def recordRequestsChangeTheirRecord4_s : State := st (chipOf [(0x20C0C, 0)] { on with plQueue := [{ addr := 0x80100000400, w := dw [0x700050009, 0x0, 0x0, 0x0], master := 1 }], recs := [(7, { pins := 1 })] })
theorem wit_recordRequestsChangeTheirRecord4 :
    ((7 : Nat) = ({ addr := 0x80100000400, w := dw [0x700050009, 0x0, 0x0, 0x0], master := 1 } : Block).recNo ∧
    tabFind recordRequestsChangeTheirRecord4_s.chip.recs (7 : Nat) = some ({ pins := 1 } : Rec) ∧
    ({ pins := 1 } : Rec).evictPend = false ∧
    ({ pins := 1 } : Rec).forcePend = false ∧
    ({ pins := 1 } : Rec).pins ≠ 0) ∧
    OldestBlock recordRequestsChangeTheirRecord4_s 9 ({ addr := 0x80100000400, w := dw [0x700050009, 0x0, 0x0, 0x0], master := 1 } : Block) ([] : List Block) :=
  ⟨by decide +kernel, by unfold OldestBlock; decide +kernel⟩

def recordRequestsChangeTheirRecord5_s : State := st (chipOf [(0x20C0C, 0)] { on with plQueue := [{ addr := 0x80100000400, w := dw [0x700050001, 0x0, 0x0, 0x0], master := 1 }], recs := [(7, { state := .resident, up := 0x80100000000, down := 0x1000, len64 := 1, job := 5 })] })
theorem wit_recordRequestsChangeTheirRecord5 :
    ((7 : Nat) = ({ addr := 0x80100000400, w := dw [0x700050001, 0x0, 0x0, 0x0], master := 1 } : Block).recNo ∧
    tabFind recordRequestsChangeTheirRecord5_s.chip.recs (7 : Nat) = some ({ state := .resident, up := 0x80100000000, down := 0x1000, len64 := 1, job := 5 } : Rec) ∧
    ({ state := .resident, up := 0x80100000000, down := 0x1000, len64 := 1, job := 5 } : Rec).evictPend = false ∧
    ({ state := .resident, up := 0x80100000000, down := 0x1000, len64 := 1, job := 5 } : Rec).forcePend = false ∧
    ({ state := .resident, up := 0x80100000000, down := 0x1000, len64 := 1, job := 5 } : Rec).refs = 1 ∧
    ({ state := .resident, up := 0x80100000000, down := 0x1000, len64 := 1, job := 5 } : Rec).pins = 0 ∧
    ({ state := .resident, up := 0x80100000000, down := 0x1000, len64 := 1, job := 5 } : Rec).busy = 0 ∧
    ({ state := .resident, up := 0x80100000000, down := 0x1000, len64 := 1, job := 5 } : Rec).claims = 0 ∧
    ({ state := .resident, up := 0x80100000000, down := 0x1000, len64 := 1, job := 5 } : Rec).upPend = false ∧
    ({ state := .resident, up := 0x80100000000, down := 0x1000, len64 := 1, job := 5 } : Rec).state = .resident) ∧
    OldestBlock recordRequestsChangeTheirRecord5_s 1 ({ addr := 0x80100000400, w := dw [0x700050001, 0x0, 0x0, 0x0], master := 1 } : Block) ([] : List Block) :=
  ⟨by decide +kernel, by unfold OldestBlock; decide +kernel⟩

/-! CancelEvictClearsPendingFlags, in Obligations.RecordsFollowRequests -/

def cancelEvictClearsPendingFlags1_s : State := st (chipOf [(0x20C0C, 0)] { on with plQueue := [{ addr := 0x80100000400, w := dw [0x700050007, 0x0, 0x0, 0x0], master := 1 }], recs := [(7, { evictPend := true, forcePend := true, pins := 1, state := .resident })] })
theorem wit_cancelEvictClearsPendingFlags1 :
    tabFind cancelEvictClearsPendingFlags1_s.chip.recs ({ addr := 0x80100000400, w := dw [0x700050007, 0x0, 0x0, 0x0], master := 1 } : Block).recNo = some ({ evictPend := true, forcePend := true, pins := 1, state := .resident } : Rec) ∧
    OldestBlock cancelEvictClearsPendingFlags1_s 7 ({ addr := 0x80100000400, w := dw [0x700050007, 0x0, 0x0, 0x0], master := 1 } : Block) ([] : List Block) :=
  ⟨by decide +kernel, by unfold OldestBlock; decide +kernel⟩

/-! CreateMakesAbsentRecord, in Obligations.RecordsFollowRequests -/

def createMakesAbsentRecord1_s : State := st (chipOf [(0x20C0C, 0), (rPlCfg, 1), (rQuota 0, 1), (rQuota 2, 1)] { on with plQueue := [{ addr := 0x80100000400, w := dw [0x700050020, 0x80100010000, 0x10000, 0x4], master := 1 }], recs := [] })
theorem wit_createMakesAbsentRecord1 :
    (tabFind createMakesAbsentRecord1_s.chip.recs ({ addr := 0x80100000400, w := dw [0x700050020, 0x80100010000, 0x10000, 0x4], master := 1 } : Block).recNo = none ∧
    bit (getReg createMakesAbsentRecord1_s.chip rPlCfg) 0 = true ∧
    bit (({ addr := 0x80100000400, w := dw [0x700050020, 0x80100010000, 0x10000, 0x4], master := 1 } : Block).w.getD 2 0) 48 = false ∧
    recAt createMakesAbsentRecord1_s.chip (({ addr := 0x80100000400, w := dw [0x700050020, 0x80100010000, 0x10000, 0x4], master := 1 } : Block).f 1 0 48) = none ∧
    ({ addr := 0x80100000400, w := dw [0x700050020, 0x80100010000, 0x10000, 0x4], master := 1 } : Block).f 3 0 24 ≠ 0 ∧
    ({ addr := 0x80100000400, w := dw [0x700050020, 0x80100010000, 0x10000, 0x4], master := 1 } : Block).f 1 0 48 % 64 = 0 ∧
    pkgOf (({ addr := 0x80100000400, w := dw [0x700050020, 0x80100010000, 0x10000, 0x4], master := 1 } : Block).f 1 0 48) = pkg createMakesAbsentRecord1_s.chip ∧
    pkgOf (({ addr := 0x80100000400, w := dw [0x700050020, 0x80100010000, 0x10000, 0x4], master := 1 } : Block).f 2 0 48) = pkg createMakesAbsentRecord1_s.chip ∧
    inHub (({ addr := 0x80100000400, w := dw [0x700050020, 0x80100010000, 0x10000, 0x4], master := 1 } : Block).f 1 0 48) (({ addr := 0x80100000400, w := dw [0x700050020, 0x80100010000, 0x10000, 0x4], master := 1 } : Block).f 3 0 24 * 64) = false ∧
    inHub (({ addr := 0x80100000400, w := dw [0x700050020, 0x80100010000, 0x10000, 0x4], master := 1 } : Block).f 2 0 48) (({ addr := 0x80100000400, w := dw [0x700050020, 0x80100010000, 0x10000, 0x4], master := 1 } : Block).f 3 0 24 * 64) = false ∧
    backed (({ addr := 0x80100000400, w := dw [0x700050020, 0x80100010000, 0x10000, 0x4], master := 1 } : Block).f 1 0 48) (({ addr := 0x80100000400, w := dw [0x700050020, 0x80100010000, 0x10000, 0x4], master := 1 } : Block).f 3 0 24 * 64) = true ∧
    backed (({ addr := 0x80100000400, w := dw [0x700050020, 0x80100010000, 0x10000, 0x4], master := 1 } : Block).f 2 0 48) (({ addr := 0x80100000400, w := dw [0x700050020, 0x80100010000, 0x10000, 0x4], master := 1 } : Block).f 3 0 24 * 64) = true ∧
    tierOf createMakesAbsentRecord1_s.chip (({ addr := 0x80100000400, w := dw [0x700050020, 0x80100010000, 0x10000, 0x4], master := 1 } : Block).f 1 0 48) false < tierOf createMakesAbsentRecord1_s.chip (({ addr := 0x80100000400, w := dw [0x700050020, 0x80100010000, 0x10000, 0x4], master := 1 } : Block).f 2 0 48) false ∧
    unitOf (locOf (({ addr := 0x80100000400, w := dw [0x700050020, 0x80100010000, 0x10000, 0x4], master := 1 } : Block).f 1 0 48)) = some (0 : Nat) ∧
    unitOf (locOf (({ addr := 0x80100000400, w := dw [0x700050020, 0x80100010000, 0x10000, 0x4], master := 1 } : Block).f 2 0 48)) = some (36 : Nat) ∧
    createMakesAbsentRecord1_s.chip.charged = [] ∧
    ({ addr := 0x80100000400, w := dw [0x700050020, 0x80100010000, 0x10000, 0x4], master := 1 } : Block).f 3 0 24 * 64 ≤ getReg createMakesAbsentRecord1_s.chip (rQuota (quotaTier (0 : Nat))) * 65536 ∧
    ({ addr := 0x80100000400, w := dw [0x700050020, 0x80100010000, 0x10000, 0x4], master := 1 } : Block).f 3 0 24 * 64 ≤ getReg createMakesAbsentRecord1_s.chip (rQuota (quotaTier (36 : Nat))) * 65536) ∧
    OldestBlock createMakesAbsentRecord1_s 0 ({ addr := 0x80100000400, w := dw [0x700050020, 0x80100010000, 0x10000, 0x4], master := 1 } : Block) ([] : List Block) :=
  ⟨by decide +kernel, by unfold OldestBlock; decide +kernel⟩

def createMakesAbsentRecord2_s : State := st (chipOf [(0x20C0C, 0)] { on with plQueue := [{ addr := 0x80100000400, w := dw [0x700050020, 0x80100010000, 0x10000, 0x4], master := 1 }], recs := [(7, {})] })
theorem wit_createMakesAbsentRecord2 :
    (tabFind createMakesAbsentRecord2_s.chip.recs ({ addr := 0x80100000400, w := dw [0x700050020, 0x80100010000, 0x10000, 0x4], master := 1 } : Block).recNo).isSome = true ∧
    OldestBlock createMakesAbsentRecord2_s 0 ({ addr := 0x80100000400, w := dw [0x700050020, 0x80100010000, 0x10000, 0x4], master := 1 } : Block) ([] : List Block) :=
  ⟨by decide +kernel, by unfold OldestBlock; decide +kernel⟩

/-! MovesFollowTheRecord, in Obligations.MovesRun -/

def movesFollowTheRecord1_s : State := st (chipOf [(0x20C0C, 0)] { on with plQueue := [{ addr := 0x80100000400, w := dw [0x700050004, 0x0, 0x0, 0x0], master := 1 }], recs := [(7, { up := 0x80100010000, down := 0x10000, len64 := 1, job := 5 })] })
theorem wit_movesFollowTheRecord1 :
    ((7 : Nat) = ({ addr := 0x80100000400, w := dw [0x700050004, 0x0, 0x0, 0x0], master := 1 } : Block).recNo ∧
    tabFind movesFollowTheRecord1_s.chip.recs (7 : Nat) = some ({ up := 0x80100010000, down := 0x10000, len64 := 1, job := 5 } : Rec) ∧
    ({ up := 0x80100010000, down := 0x10000, len64 := 1, job := 5 } : Rec).moveFailed = false ∧
    ({ up := 0x80100010000, down := 0x10000, len64 := 1, job := 5 } : Rec).evictPend = false ∧
    ({ up := 0x80100010000, down := 0x10000, len64 := 1, job := 5 } : Rec).forcePend = false ∧
    ({ up := 0x80100010000, down := 0x10000, len64 := 1, job := 5 } : Rec).upPend = false ∧
    bit (({ addr := 0x80100000400, w := dw [0x700050004, 0x0, 0x0, 0x0], master := 1 } : Block).w.getD 0 0) 4 = false ∧
    ({ up := 0x80100010000, down := 0x10000, len64 := 1, job := 5 } : Rec).state = .absent ∧
    ({ up := 0x80100010000, down := 0x10000, len64 := 1, job := 5 } : Rec).claims = 0) ∧
    OldestBlock movesFollowTheRecord1_s 4 ({ addr := 0x80100000400, w := dw [0x700050004, 0x0, 0x0, 0x0], master := 1 } : Block) ([] : List Block) :=
  ⟨by decide +kernel, by unfold OldestBlock; decide +kernel⟩

def movesFollowTheRecord2_s : State := st (chipOf [(0x20C0C, 0)] { on with plQueue := [{ addr := 0x80100000400, w := dw [0x700050004, 0x0, 0x0, 0x0], master := 1 }], recs := [(7, { up := 0x80100010000, down := 0x10000, len64 := 1, job := 5, state := .resident })] })
theorem wit_movesFollowTheRecord2 :
    ((7 : Nat) = ({ addr := 0x80100000400, w := dw [0x700050004, 0x0, 0x0, 0x0], master := 1 } : Block).recNo ∧
    tabFind movesFollowTheRecord2_s.chip.recs (7 : Nat) = some ({ up := 0x80100010000, down := 0x10000, len64 := 1, job := 5, state := .resident } : Rec) ∧
    ({ up := 0x80100010000, down := 0x10000, len64 := 1, job := 5, state := .resident } : Rec).moveFailed = false ∧
    ({ up := 0x80100010000, down := 0x10000, len64 := 1, job := 5, state := .resident } : Rec).evictPend = false ∧
    ({ up := 0x80100010000, down := 0x10000, len64 := 1, job := 5, state := .resident } : Rec).forcePend = false ∧
    ({ up := 0x80100010000, down := 0x10000, len64 := 1, job := 5, state := .resident } : Rec).upPend = false ∧
    bit (({ addr := 0x80100000400, w := dw [0x700050004, 0x0, 0x0, 0x0], master := 1 } : Block).w.getD 0 0) 4 = false ∧
    ({ up := 0x80100010000, down := 0x10000, len64 := 1, job := 5, state := .resident } : Rec).state = .resident) ∧
    OldestBlock movesFollowTheRecord2_s 4 ({ addr := 0x80100000400, w := dw [0x700050004, 0x0, 0x0, 0x0], master := 1 } : Block) ([] : List Block) :=
  ⟨by decide +kernel, by unfold OldestBlock; decide +kernel⟩

def movesFollowTheRecord3_s : State := st (chipOf [(0x20C0C, 0)] { on with plQueue := [{ addr := 0x80100000400, w := dw [0x700050004, 0x0, 0x0, 0x0], master := 1 }], recs := [(7, { up := 0x80100010000, down := 0x10000, len64 := 1, job := 5, state := .movingUp, waiters := [.block 0x80100000800] })], mem := memWriteN [] 0x10000 [5, 6] })
theorem wit_movesFollowTheRecord3 :
    ((7 : Nat) = ({ addr := 0x80100000400, w := dw [0x700050004, 0x0, 0x0, 0x0], master := 1 } : Block).recNo ∧
    tabFind movesFollowTheRecord3_s.chip.recs (7 : Nat) = some ({ up := 0x80100010000, down := 0x10000, len64 := 1, job := 5, state := .movingUp, waiters := [.block 0x80100000800] } : Rec) ∧
    ({ up := 0x80100010000, down := 0x10000, len64 := 1, job := 5, state := .movingUp, waiters := [.block 0x80100000800] } : Rec).moveFailed = false ∧
    ({ up := 0x80100010000, down := 0x10000, len64 := 1, job := 5, state := .movingUp, waiters := [.block 0x80100000800] } : Rec).evictPend = false ∧
    ({ up := 0x80100010000, down := 0x10000, len64 := 1, job := 5, state := .movingUp, waiters := [.block 0x80100000800] } : Rec).forcePend = false ∧
    ({ up := 0x80100010000, down := 0x10000, len64 := 1, job := 5, state := .movingUp, waiters := [.block 0x80100000800] } : Rec).upPend = false ∧
    ({ up := 0x80100010000, down := 0x10000, len64 := 1, job := 5, state := .movingUp, waiters := [.block 0x80100000800] } : Rec).state = .movingUp ∧
    ({ up := 0x80100010000, down := 0x10000, len64 := 1, job := 5, state := .movingUp, waiters := [.block 0x80100000800] } : Rec).downFlash = false ∧
    pkgOf ({ up := 0x80100010000, down := 0x10000, len64 := 1, job := 5, state := .movingUp, waiters := [.block 0x80100000800] } : Rec).down = pkg movesFollowTheRecord3_s.chip ∧
    movesFollowTheRecord3_s.chip.ecc = [] ∧
    movePlaced (7 : Nat) ({ up := 0x80100010000, down := 0x10000, len64 := 1, job := 5, state := .movingUp, waiters := [.block 0x80100000800] } : Rec).up movesFollowTheRecord3_s.chip = true) ∧
    (∃ a, ({ up := 0x80100010000, down := 0x10000, len64 := 1, job := 5, state := .movingUp, waiters := [.block 0x80100000800] } : Rec).waiters = [.block a] ∧ pkgOf (a + 56) = pkg movesFollowTheRecord3_s.chip) :=
  ⟨by decide +kernel, ⟨_, rfl, by decide +kernel⟩⟩

def movesFollowTheRecord4_s : State := st (chipOf [(0x20C0C, 0)] { on with plQueue := [{ addr := 0x80100000400, w := dw [0x700050005, 0x0, 0x0, 0x0], master := 1 }], recs := [(7, { up := 0x80100010000, down := 0x10000, len64 := 1, job := 5, state := .resident })] })
theorem wit_movesFollowTheRecord4 :
    ((7 : Nat) = ({ addr := 0x80100000400, w := dw [0x700050005, 0x0, 0x0, 0x0], master := 1 } : Block).recNo ∧
    tabFind movesFollowTheRecord4_s.chip.recs (7 : Nat) = some ({ up := 0x80100010000, down := 0x10000, len64 := 1, job := 5, state := .resident } : Rec) ∧
    ({ up := 0x80100010000, down := 0x10000, len64 := 1, job := 5, state := .resident } : Rec).moveFailed = false ∧
    ({ up := 0x80100010000, down := 0x10000, len64 := 1, job := 5, state := .resident } : Rec).evictPend = false ∧
    ({ up := 0x80100010000, down := 0x10000, len64 := 1, job := 5, state := .resident } : Rec).forcePend = false ∧
    ({ up := 0x80100010000, down := 0x10000, len64 := 1, job := 5, state := .resident } : Rec).upPend = false ∧
    ({ up := 0x80100010000, down := 0x10000, len64 := 1, job := 5, state := .resident } : Rec).state = .resident ∧
    ({ up := 0x80100010000, down := 0x10000, len64 := 1, job := 5, state := .resident } : Rec).pins = 0 ∧
    ({ up := 0x80100010000, down := 0x10000, len64 := 1, job := 5, state := .resident } : Rec).busy = 0 ∧
    wbParts movesFollowTheRecord4_s.chip ({ up := 0x80100010000, down := 0x10000, len64 := 1, job := 5, state := .resident } : Rec) = []) ∧
    OldestBlock movesFollowTheRecord4_s 5 ({ addr := 0x80100000400, w := dw [0x700050005, 0x0, 0x0, 0x0], master := 1 } : Block) ([] : List Block) :=
  ⟨by decide +kernel, by unfold OldestBlock; decide +kernel⟩

def movesFollowTheRecord5_s : State := st (chipOf [(0x20C0C, 0)] { on with plQueue := [{ addr := 0x80100000400, w := dw [0x700050005, 0x0, 0x0, 0x0], master := 1 }], recs := [(7, { up := 0x80100010000, down := 0x10000, len64 := 1, job := 5, state := .resident, pins := 2 })] })
theorem wit_movesFollowTheRecord5 :
    ((7 : Nat) = ({ addr := 0x80100000400, w := dw [0x700050005, 0x0, 0x0, 0x0], master := 1 } : Block).recNo ∧
    tabFind movesFollowTheRecord5_s.chip.recs (7 : Nat) = some ({ up := 0x80100010000, down := 0x10000, len64 := 1, job := 5, state := .resident, pins := 2 } : Rec) ∧
    ({ up := 0x80100010000, down := 0x10000, len64 := 1, job := 5, state := .resident, pins := 2 } : Rec).moveFailed = false ∧
    ({ up := 0x80100010000, down := 0x10000, len64 := 1, job := 5, state := .resident, pins := 2 } : Rec).evictPend = false ∧
    ({ up := 0x80100010000, down := 0x10000, len64 := 1, job := 5, state := .resident, pins := 2 } : Rec).forcePend = false ∧
    ({ up := 0x80100010000, down := 0x10000, len64 := 1, job := 5, state := .resident, pins := 2 } : Rec).upPend = false ∧
    ({ up := 0x80100010000, down := 0x10000, len64 := 1, job := 5, state := .resident, pins := 2 } : Rec).state = .resident ∧
    ({ up := 0x80100010000, down := 0x10000, len64 := 1, job := 5, state := .resident, pins := 2 } : Rec).pins ≠ 0) ∧
    OldestBlock movesFollowTheRecord5_s 5 ({ addr := 0x80100000400, w := dw [0x700050005, 0x0, 0x0, 0x0], master := 1 } : Block) ([] : List Block) :=
  ⟨by decide +kernel, by unfold OldestBlock; decide +kernel⟩

def movesFollowTheRecord6_s : State := st (chipOf [(0x20C0C, 0), (rStCfg, 0x20)] { on with plQueue := [{ addr := 0x80100000400, w := dw [0x700050006, 0x0, 0x0, 0x0], master := 1 }], recs := [(7, { up := 0x80100010000, down := 0x10000, len64 := 1, job := 5, state := .resident, pins := 2 })] })
theorem wit_movesFollowTheRecord6 :
    ((7 : Nat) = ({ addr := 0x80100000400, w := dw [0x700050006, 0x0, 0x0, 0x0], master := 1 } : Block).recNo ∧
    tabFind movesFollowTheRecord6_s.chip.recs (7 : Nat) = some ({ up := 0x80100010000, down := 0x10000, len64 := 1, job := 5, state := .resident, pins := 2 } : Rec) ∧
    ({ up := 0x80100010000, down := 0x10000, len64 := 1, job := 5, state := .resident, pins := 2 } : Rec).moveFailed = false ∧
    ({ up := 0x80100010000, down := 0x10000, len64 := 1, job := 5, state := .resident, pins := 2 } : Rec).evictPend = false ∧
    ({ up := 0x80100010000, down := 0x10000, len64 := 1, job := 5, state := .resident, pins := 2 } : Rec).forcePend = false ∧
    ({ up := 0x80100010000, down := 0x10000, len64 := 1, job := 5, state := .resident, pins := 2 } : Rec).upPend = false ∧
    ({ up := 0x80100010000, down := 0x10000, len64 := 1, job := 5, state := .resident, pins := 2 } : Rec).state = .resident ∧
    ({ up := 0x80100010000, down := 0x10000, len64 := 1, job := 5, state := .resident, pins := 2 } : Rec).pins ≠ 0 ∧
    ({ up := 0x80100010000, down := 0x10000, len64 := 1, job := 5, state := .resident, pins := 2 } : Rec).busy = 0 ∧
    bit (getReg movesFollowTheRecord6_s.chip rStCfg) 5 = true ∧
    wbParts movesFollowTheRecord6_s.chip ({ up := 0x80100010000, down := 0x10000, len64 := 1, job := 5, state := .resident, pins := 2 } : Rec) = []) ∧
    OldestBlock movesFollowTheRecord6_s 6 ({ addr := 0x80100000400, w := dw [0x700050006, 0x0, 0x0, 0x0], master := 1 } : Block) ([] : List Block) :=
  ⟨by decide +kernel, by unfold OldestBlock; decide +kernel⟩

def movesFollowTheRecord7_s : State := st (chipOf [(0x20C0C, 0)] { on with plQueue := [{ addr := 0x80100000400, w := dw [0x700050004, 0x0, 0x0, 0x0], master := 1 }], recs := [(7, { up := 0x80100010000, down := 0x10000, len64 := 1, job := 5, state := .movingDown, wbAll := true })], mem := memWriteN [] 0x80100010000 [5, 6] })
theorem wit_movesFollowTheRecord7 :
    (7 : Nat) = ({ addr := 0x80100000400, w := dw [0x700050004, 0x0, 0x0, 0x0], master := 1 } : Block).recNo ∧
    tabFind movesFollowTheRecord7_s.chip.recs (7 : Nat) = some ({ up := 0x80100010000, down := 0x10000, len64 := 1, job := 5, state := .movingDown, wbAll := true } : Rec) ∧
    ({ up := 0x80100010000, down := 0x10000, len64 := 1, job := 5, state := .movingDown, wbAll := true } : Rec).moveFailed = false ∧
    ({ up := 0x80100010000, down := 0x10000, len64 := 1, job := 5, state := .movingDown, wbAll := true } : Rec).evictPend = false ∧
    ({ up := 0x80100010000, down := 0x10000, len64 := 1, job := 5, state := .movingDown, wbAll := true } : Rec).forcePend = false ∧
    ({ up := 0x80100010000, down := 0x10000, len64 := 1, job := 5, state := .movingDown, wbAll := true } : Rec).upPend = false ∧
    ({ up := 0x80100010000, down := 0x10000, len64 := 1, job := 5, state := .movingDown, wbAll := true } : Rec).state = .movingDown ∧
    ({ up := 0x80100010000, down := 0x10000, len64 := 1, job := 5, state := .movingDown, wbAll := true } : Rec).downFlash = false ∧
    movesFollowTheRecord7_s.chip.ecc = [] ∧
    pkgOf ({ up := 0x80100010000, down := 0x10000, len64 := 1, job := 5, state := .movingDown, wbAll := true } : Rec).down = pkg movesFollowTheRecord7_s.chip ∧
    movePlaced (7 : Nat) ({ up := 0x80100010000, down := 0x10000, len64 := 1, job := 5, state := .movingDown, wbAll := true } : Rec).up movesFollowTheRecord7_s.chip = true ∧
    moveFar (7 : Nat) movesFollowTheRecord7_s.chip = false ∧
    (∀ p ∈ wbParts movesFollowTheRecord7_s.chip ({ up := 0x80100010000, down := 0x10000, len64 := 1, job := 5, state := .movingDown, wbAll := true } : Rec), pkgOf p.1 = pkg movesFollowTheRecord7_s.chip) :=
  by decide +kernel

/-! Obligations.AccountsAndLateTiers -/

def accountsAndLateTiers1_s : State := st { on with plQueue := [{ addr := 0x80100000400, w := dw [0x70005000b, 0x0, 0x0, 0x0], master := 1 }], accounts := [5, 6], reserved := [(320, 64), (400, 64)] }
theorem wit_accountsAndLateTiers1 :
    accountsAndLateTiers1_s.chip.charged.any (fun p => p.1 / 64 == ({ addr := 0x80100000400, w := dw [0x70005000b, 0x0, 0x0, 0x0], master := 1 } : Block).job && p.2 != 0) = false ∧
    OldestBlock accountsAndLateTiers1_s 11 ({ addr := 0x80100000400, w := dw [0x70005000b, 0x0, 0x0, 0x0], master := 1 } : Block) ([] : List Block) :=
  ⟨by decide +kernel, by unfold OldestBlock; decide +kernel⟩

def accountsAndLateTiers2_s : State := st { on with plQueue := [{ addr := 0x80100000400, w := dw [0x70005000c, 0x80100010000, 0x0, 0x0], master := 1 }], reserved := [(323, 64)] }
theorem wit_accountsAndLateTiers2 :
    (fenced accountsAndLateTiers2_s.chip (pkgOf (({ addr := 0x80100000400, w := dw [0x70005000c, 0x80100010000, 0x0, 0x0], master := 1 } : Block).f 1 0 48)) = false ∧
    pkgOf (({ addr := 0x80100000400, w := dw [0x70005000c, 0x80100010000, 0x0, 0x0], master := 1 } : Block).f 1 0 48) = pkg accountsAndLateTiers2_s.chip ∧
    inHub (({ addr := 0x80100000400, w := dw [0x70005000c, 0x80100010000, 0x0, 0x0], master := 1 } : Block).f 1 0 48) 656 = false ∧
    backed (({ addr := 0x80100000400, w := dw [0x70005000c, 0x80100010000, 0x0, 0x0], master := 1 } : Block).f 1 0 48) 656 = true) ∧
    OldestBlock accountsAndLateTiers2_s 12 ({ addr := 0x80100000400, w := dw [0x70005000c, 0x80100010000, 0x0, 0x0], master := 1 } : Block) ([] : List Block) :=
  ⟨by decide +kernel, by unfold OldestBlock; decide +kernel⟩

def accountsAndLateTiers3_s : State := st { putReg on rPlCfg 0 with plQueue := [{ addr := 0x80100000400, w := dw [0x70005000a, 0x80100010000, 0x0, 0x1000000], master := 1 }], mem := at0 0x10000 (leBytes 8 804) [] }
theorem wit_accountsAndLateTiers3 :
    (bit (getReg accountsAndLateTiers3_s.chip rPlCfg) 0 = false ∧
    ({ addr := 0x80100000400, w := dw [0x70005000a, 0x80100010000, 0x0, 0x1000000], master := 1 } : Block).f 3 24 6 = 1 ∧
    (36 : Nat) ≤ 40 ∧
    accountsAndLateTiers3_s.chip.reserved = [] ∧
    accountsAndLateTiers3_s.chip.accounts = []) ∧
    OldestBlock accountsAndLateTiers3_s 10 ({ addr := 0x80100000400, w := dw [0x70005000a, 0x80100010000, 0x0, 0x1000000], master := 1 } : Block) ([] : List Block) ∧
    (∃ n, PlainRange accountsAndLateTiers3_s.chip (({ addr := 0x80100000400, w := dw [0x70005000a, 0x80100010000, 0x0, 0x1000000], master := 1 } : Block).f 1 0 48) 8 ∧ admitList (memReadN accountsAndLateTiers3_s.chip.mem (({ addr := 0x80100000400, w := dw [0x70005000a, 0x80100010000, 0x0, 0x1000000], master := 1 } : Block).f 1 0 48) 8) 1 = some [((36 : Nat), n)] ∧ n ≤ capacity accountsAndLateTiers3_s.chip (36 : Nat)) :=
  ⟨by decide +kernel, by unfold OldestBlock; decide +kernel, ⟨192, by decide +kernel⟩⟩

def accountsAndLateTiers4_s : State := st { on with recs := [(7, { up := 0x80100010000, down := 0x10000, len64 := 1, job := 5, state := .movingUp, moveJob := 5 })] }
theorem wit_accountsAndLateTiers4 :
    (tabFind accountsAndLateTiers4_s.chip.recs (7 : Nat) = some ({ up := 0x80100010000, down := 0x10000, len64 := 1, job := 5, state := .movingUp, moveJob := 5 } : Rec) ∧
    ({ up := 0x80100010000, down := 0x10000, len64 := 1, job := 5, state := .movingUp, moveJob := 5 } : Rec).moveFailed = false ∧
    ({ up := 0x80100010000, down := 0x10000, len64 := 1, job := 5, state := .movingUp, moveJob := 5 } : Rec).waiters = [] ∧
    (({ up := 0x80100010000, down := 0x10000, len64 := 1, job := 5, state := .movingUp, moveJob := 5 } : Rec).state = .movingUp ∨ ({ up := 0x80100010000, down := 0x10000, len64 := 1, job := 5, state := .movingUp, moveJob := 5 } : Rec).state = .movingDown) ∧
    (0x0201 : BitVec 16).toNat ∈ moveErrors ∧
    ({ up := 0x80100010000, down := 0x10000, len64 := 1, job := 5, state := .movingUp, moveJob := 5 } : Rec).moveJob < 256) ∧
    NoRunAhead accountsAndLateTiers4_s.chip :=
  ⟨by decide +kernel, by unfold NoRunAhead; decide +kernel⟩

def accountsAndLateTiers5_s : State := st { on with basins := on.basins.set 0 { holds := [{ job := 5, chain := 0, since := 0, cause := 0, limit := 1 }] } }
theorem wit_accountsAndLateTiers5 :
    accountsAndLateTiers5_s.chip.basins[(0 : Fin 32)].holds[(0 : Nat)]? = some ({ job := 5, chain := 0, since := 0, cause := 0, limit := 1 } : Hold) ∧
    ({ job := 5, chain := 0, since := 0, cause := 0, limit := 1 } : Hold).reported = false :=
  by decide +kernel

def accountsAndLateTiers6_s : State := st on
theorem wit_accountsAndLateTiers6 :
    (1 : Master).toNat ≤ 3 ∧
    hubOn accountsAndLateTiers6_s.chip = true ∧
    (0x1201 : BitVec 32).getLsbD 0 = true :=
  by decide +kernel

/-! Obligations.AccountsMovesAndModesComplete -/

def accountsMovesAndModesComplete1_s : State := st { on with plQueue := [{ addr := 0x80100000400, w := dw [0x70005000b, 0x0, 0x0, 0x0], master := 1 }], accounts := [5, 6], reserved := [(320, 64), (400, 64)] }
theorem wit_accountsMovesAndModesComplete1 :
    accountsMovesAndModesComplete1_s.chip.charged.any (fun p => p.1 / 64 == ({ addr := 0x80100000400, w := dw [0x70005000b, 0x0, 0x0, 0x0], master := 1 } : Block).job && p.2 != 0) = false ∧
    OldestBlock accountsMovesAndModesComplete1_s 11 ({ addr := 0x80100000400, w := dw [0x70005000b, 0x0, 0x0, 0x0], master := 1 } : Block) ([] : List Block) :=
  ⟨by decide +kernel, by unfold OldestBlock; decide +kernel⟩

def accountsMovesAndModesComplete2_s : State := st { on with plQueue := [{ addr := 0x80100000400, w := dw [0x70005000c, 0x80100010000, 0x0, 0x0], master := 1 }], reserved := [(323, 64)] }
theorem wit_accountsMovesAndModesComplete2 :
    (pkgOf (({ addr := 0x80100000400, w := dw [0x70005000c, 0x80100010000, 0x0, 0x0], master := 1 } : Block).f 1 0 48) = pkg accountsMovesAndModesComplete2_s.chip ∧
    inHub (({ addr := 0x80100000400, w := dw [0x70005000c, 0x80100010000, 0x0, 0x0], master := 1 } : Block).f 1 0 48) 656 = false ∧
    backed (({ addr := 0x80100000400, w := dw [0x70005000c, 0x80100010000, 0x0, 0x0], master := 1 } : Block).f 1 0 48) 656 = true) ∧
    OldestBlock accountsMovesAndModesComplete2_s 12 ({ addr := 0x80100000400, w := dw [0x70005000c, 0x80100010000, 0x0, 0x0], master := 1 } : Block) ([] : List Block) :=
  ⟨by decide +kernel, by unfold OldestBlock; decide +kernel⟩

def accountsMovesAndModesComplete3_s : State := st { putReg on rPlCfg 0 with plQueue := [{ addr := 0x80100000400, w := dw [0x70005000a, 0x80100010000, 0x0, 0x1000000], master := 1 }], mem := at0 0x10000 (leBytes 8 804) [] }
theorem wit_accountsMovesAndModesComplete3 :
    (bit (getReg accountsMovesAndModesComplete3_s.chip rPlCfg) 0 = false ∧
    1 ≤ (({ addr := 0x80100000400, w := dw [0x70005000a, 0x80100010000, 0x0, 0x1000000], master := 1 } : Block).f 3 24 6 : Nat) ∧
    (({ addr := 0x80100000400, w := dw [0x70005000a, 0x80100010000, 0x0, 0x1000000], master := 1 } : Block).f 3 24 6 : Nat) ≤ 41 ∧
    pkgOf (({ addr := 0x80100000400, w := dw [0x70005000a, 0x80100010000, 0x0, 0x1000000], master := 1 } : Block).f 1 0 48) = pkg accountsMovesAndModesComplete3_s.chip ∧
    accountsMovesAndModesComplete3_s.chip.ecc = [] ∧
    inHub (({ addr := 0x80100000400, w := dw [0x70005000a, 0x80100010000, 0x0, 0x1000000], master := 1 } : Block).f 1 0 48) (8 * (({ addr := 0x80100000400, w := dw [0x70005000a, 0x80100010000, 0x0, 0x1000000], master := 1 } : Block).f 3 24 6 : Nat)) = false ∧
    backed (({ addr := 0x80100000400, w := dw [0x70005000a, 0x80100010000, 0x0, 0x1000000], master := 1 } : Block).f 1 0 48) (8 * (({ addr := 0x80100000400, w := dw [0x70005000a, 0x80100010000, 0x0, 0x1000000], master := 1 } : Block).f 3 24 6 : Nat)) = true ∧
    admitList (memReadN accountsMovesAndModesComplete3_s.chip.mem (({ addr := 0x80100000400, w := dw [0x70005000a, 0x80100010000, 0x0, 0x1000000], master := 1 } : Block).f 1 0 48) (8 * (({ addr := 0x80100000400, w := dw [0x70005000a, 0x80100010000, 0x0, 0x1000000], master := 1 } : Block).f 3 24 6 : Nat))) (({ addr := 0x80100000400, w := dw [0x70005000a, 0x80100010000, 0x0, 0x1000000], master := 1 } : Block).f 3 24 6 : Nat) = some ([(36, 192)] : List (Nat × Nat)) ∧
    (∀ p ∈ ([(36, 192)] : List (Nat × Nat)), ((([(36, 192)] : List (Nat × Nat)).filter (fun q => q.1 == p.1)).map (·.2)).sum + unitSum accountsMovesAndModesComplete3_s.chip.reserved p.1 ≤ capacity accountsMovesAndModesComplete3_s.chip p.1) ∧
    (({ addr := 0x80100000400, w := dw [0x70005000a, 0x80100010000, 0x0, 0x1000000], master := 1 } : Block).job = 0 ∨ ({ addr := 0x80100000400, w := dw [0x70005000a, 0x80100010000, 0x0, 0x1000000], master := 1 } : Block).job ∈ accountsMovesAndModesComplete3_s.chip.accounts ∨ accountsMovesAndModesComplete3_s.chip.accounts.length < 255)) ∧
    OldestBlock accountsMovesAndModesComplete3_s 10 ({ addr := 0x80100000400, w := dw [0x70005000a, 0x80100010000, 0x0, 0x1000000], master := 1 } : Block) ([] : List Block) :=
  ⟨by decide +kernel, by unfold OldestBlock; decide +kernel⟩

def accountsMovesAndModesComplete4_s : State := st { on with recs := [(7, { up := 0x80100010000, down := 0x10000, len64 := 1, job := 5, state := .movingUp, moveJob := 5 })] }
theorem wit_accountsMovesAndModesComplete4 :
    tabFind accountsMovesAndModesComplete4_s.chip.recs (7 : Nat) = some ({ up := 0x80100010000, down := 0x10000, len64 := 1, job := 5, state := .movingUp, moveJob := 5 } : Rec) ∧
    ({ up := 0x80100010000, down := 0x10000, len64 := 1, job := 5, state := .movingUp, moveJob := 5 } : Rec).moveFailed = false ∧
    ({ up := 0x80100010000, down := 0x10000, len64 := 1, job := 5, state := .movingUp, moveJob := 5 } : Rec).waiters = [] ∧
    (({ up := 0x80100010000, down := 0x10000, len64 := 1, job := 5, state := .movingUp, moveJob := 5 } : Rec).state = .movingUp ∨ ({ up := 0x80100010000, down := 0x10000, len64 := 1, job := 5, state := .movingUp, moveJob := 5 } : Rec).state = .movingDown) ∧
    (0x0201 : BitVec 16).toNat ∈ moveErrors ∧
    ({ up := 0x80100010000, down := 0x10000, len64 := 1, job := 5, state := .movingUp, moveJob := 5 } : Rec).moveJob < 256 :=
  by decide +kernel

def accountsMovesAndModesComplete5_s : State := st { on with recs := [(7, { up := 0x80100010000, down := 0x10000, len64 := 1, job := 5 })] }
theorem wit_accountsMovesAndModesComplete5 :
    tabFind accountsMovesAndModesComplete5_s.chip.recs (7 : Nat) = some ({ up := 0x80100010000, down := 0x10000, len64 := 1, job := 5 } : Rec) ∧
    (({ up := 0x80100010000, down := 0x10000, len64 := 1, job := 5 } : Rec).moveFailed = true ∨ ({ up := 0x80100010000, down := 0x10000, len64 := 1, job := 5 } : Rec).state = .resident ∨ (({ up := 0x80100010000, down := 0x10000, len64 := 1, job := 5 } : Rec).state = .absent ∧ ({ up := 0x80100010000, down := 0x10000, len64 := 1, job := 5 } : Rec).waiters = [] ∧ claimOpen accountsMovesAndModesComplete5_s.chip (7 : Nat) = false)) :=
  by decide +kernel

def accountsMovesAndModesComplete6_s : State := st { on with basins := on.basins.set 0 { holds := [{ job := 5, chain := 0, since := 0, cause := 0, limit := 1 }] } }
theorem wit_accountsMovesAndModesComplete6 :
    accountsMovesAndModesComplete6_s.chip.basins[(0 : Fin 32)].holds[(0 : Nat)]? = some ({ job := 5, chain := 0, since := 0, cause := 0, limit := 1 } : Hold) ∧
    ({ job := 5, chain := 0, since := 0, cause := 0, limit := 1 } : Hold).reported = false :=
  by decide +kernel

def accountsMovesAndModesComplete7_s : State := st { on with basins := on.basins.set 0 { holds := [{ job := 5, chain := 0, since := 0, cause := 0, limit := 1, reported := true }] } }
theorem wit_accountsMovesAndModesComplete7 :
    accountsMovesAndModesComplete7_s.chip.basins[(0 : Fin 32)].holds[(0 : Nat)]? = some ({ job := 5, chain := 0, since := 0, cause := 0, limit := 1, reported := true } : Hold) ∧
    ({ job := 5, chain := 0, since := 0, cause := 0, limit := 1, reported := true } : Hold).reported = true :=
  by decide +kernel

def accountsMovesAndModesComplete8_s : State := st on
theorem wit_accountsMovesAndModesComplete8 :
    (1 : Master).toNat ≤ 3 ∧
    hubOn accountsMovesAndModesComplete8_s.chip = true ∧
    ((0x1201 : BitVec 32).getLsbD 0 = true ∨ bit (getReg accountsMovesAndModesComplete8_s.chip rPlCfg) 0 = false) :=
  by decide +kernel

def accountsMovesAndModesComplete9_s : State := st { chipOf [(rPlCfg, 1)] on with reserved := [(323, 64)], charged := [(324, 128)] }
theorem wit_accountsMovesAndModesComplete9 :
    (1 : Master).toNat ≤ 3 ∧
    hubOn accountsMovesAndModesComplete9_s.chip = true ∧
    (0x1200 : BitVec 32).getLsbD 0 = false ∧
    bit (getReg accountsMovesAndModesComplete9_s.chip rPlCfg) 0 = true ∧
    (∀ u, u ≤ 40 → unitSum accountsMovesAndModesComplete9_s.chip.charged u ≤ capacity accountsMovesAndModesComplete9_s.chip u) :=
  by decide +kernel

def accountsMovesAndModesComplete10_s : State := st { chipOf [(rPlCfg, 1)] on with charged := [(acctKey 5 3, 0x600001)] }
theorem wit_accountsMovesAndModesComplete10 :
    ((1 : Master).toNat ≤ 3 ∧
    hubOn accountsMovesAndModesComplete10_s.chip = true ∧
    (0x1200 : BitVec 32).getLsbD 0 = false ∧
    bit (getReg accountsMovesAndModesComplete10_s.chip rPlCfg) 0 = true) ∧
    (∃ u, u ≤ 40 ∧ capacity accountsMovesAndModesComplete10_s.chip u < unitSum accountsMovesAndModesComplete10_s.chip.charged u) :=
  ⟨by decide +kernel, ⟨3, by decide +kernel⟩⟩

/-! Obligations.FlashPrograms -/

def flashPrograms1_s : State := st { on with flash := { on.flash with writes := [(.wdata, 64, [1, 2])] } }
theorem wit_flashPrograms1 :
    flashPrograms1_s.chip.flash.writes[(0 : Nat)]? = some ((.wdata : FlashBy), (64 : Nat), ([1, 2] : List Byte)) ∧
    bit (getReg flashPrograms1_s.chip rFlStatus) 15 = false ∧
    pkgOf (64 : Nat) = pkg flashPrograms1_s.chip ∧
    flashPrograms1_s.sec.job = none :=
  by decide +kernel

def flashPrograms2_s : State := st { on with flash := { on.flash with writes := [(.wdata, 64, [1, 2])] } }
theorem wit_flashPrograms2 :
    flashPrograms2_s.chip.flash.writes[(0 : Nat)]? = some ((.wdata : FlashBy), (64 : Nat), ([1, 2] : List Byte)) ∧
    bit (getReg flashPrograms2_s.chip rFlStatus) 15 = false ∧
    pkgOf (64 : Nat) = pkg flashPrograms2_s.chip ∧
    flashPrograms2_s.sec.job = none ∧
    (.wdata : FlashBy) = .wdata :=
  by decide +kernel

def flashPrograms3_s : State := st { on with flash := { on.flash with blocks := 3, place := [(0, 0)], erases := [(0, 1), (1, 600)], reads := [(0, 3)] } }
theorem wit_flashPrograms3 :
    mayMove flashPrograms3_s.chip.flash (0 : Nat) (2 : Nat) = true ∧
    getF flashPrograms3_s.chip rFlCfg 8 8 * 64 < wearSpread flashPrograms3_s.chip.flash ∧
    (∀ p ∈ flashPrograms3_s.chip.flash.place, tabGet 0 flashPrograms3_s.chip.flash.erases (0 : Nat) ≤ tabGet 0 flashPrograms3_s.chip.flash.erases p.2) :=
  by decide +kernel

def flashPrograms4_s : State := st { on with flash := { on.flash with blocks := 3, place := [(0, 0)], erases := [(0, 1)], reads := [(0, 3)] } }
theorem wit_flashPrograms4 :
    mayMove flashPrograms4_s.chip.flash (0 : Nat) (1 : Nat) = true ∧
    wearSpread flashPrograms4_s.chip.flash ≤ getF flashPrograms4_s.chip rFlCfg 8 8 * 64 :=
  by decide +kernel

def flashPrograms5_s : State := st { on with flash := { on.flash with blocks := 3, place := [(0, 0)], erases := [(0, 1)], reads := [(0, 100001)] } }
theorem wit_flashPrograms5 :
    mayMove flashPrograms5_s.chip.flash (0 : Nat) (1 : Nat) = true ∧
    getF flashPrograms5_s.chip rFlCfg 0 8 * 10000 < tabGet 0 flashPrograms5_s.chip.flash.reads (0 : Nat) :=
  by decide +kernel

def flashPrograms6_s : State := st { on with flash := { on.flash with blocks := 3, place := [(0, 0)], erases := [(0, 1)], reads := [(0, 100000)] } }
theorem wit_flashPrograms6 :
    mayMove flashPrograms6_s.chip.flash (0 : Nat) (1 : Nat) = true ∧
    tabGet 0 flashPrograms6_s.chip.flash.reads (0 : Nat) ≤ getF flashPrograms6_s.chip rFlCfg 0 8 * 10000 :=
  by decide +kernel

def flashPrograms7_s : State := st { on with flash := { on.flash with spares := 1 } }
theorem wit_flashPrograms7 :
    (3 : Nat) ∉ flashPrograms7_s.chip.flash.bad :=
  by decide +kernel

/-! PostedCommandsEnterQueue, in Obligations.PostsEnterQueues -/

def postedCommandsEnterQueue1_s : State := st (chipOf [(rMsLo, 0x1000)] ({ on with mem := at0 0x1000 (([0x1, 0x2] : List Nat).flatMap (leBytes 8)) [] }))
def postedCommandsEnterQueue1_c : Chip := storeReg postedCommandsEnterQueue1_s.chip rMsHi (0x20801 : BitVec 32).toNat
theorem wit_postedCommandsEnterQueue1 :
    (1 : Master).toNat ≤ 3 ∧
    hubOn postedCommandsEnterQueue1_s.chip = true ∧
    fld (0x20801 : BitVec 32).toNat 16 8 ≠ 0 ∧
    (postAddr postedCommandsEnterQueue1_c rMsLo rMsHi : Nat) % 128 = 0 ∧
    PlainRange postedCommandsEnterQueue1_s.chip (postAddr postedCommandsEnterQueue1_c rMsLo rMsHi : Nat) (128 * (fld (0x20801 : BitVec 32).toNat 16 8 : Nat)) :=
  by decide +kernel

def postedCommandsEnterQueue2_s : State := st (chipOf [(rMsLo, 0x1040)] on)
def postedCommandsEnterQueue2_c : Chip := storeReg postedCommandsEnterQueue2_s.chip rMsHi (0x20801 : BitVec 32).toNat
theorem wit_postedCommandsEnterQueue2 :
    (1 : Master).toNat ≤ 3 ∧
    hubOn postedCommandsEnterQueue2_s.chip = true ∧
    fld (0x20801 : BitVec 32).toNat 16 8 ≠ 0 ∧
    postAddr postedCommandsEnterQueue2_c rMsLo rMsHi % 128 ≠ 0 :=
  by decide +kernel

/-! BindUnbindRetire, in Obligations.SetsAreBound -/

def bindUnbindRetire1_s : State := st (chipOf [(rSet 2 0, 5)] { on with ms := { queue := [{ addr := 0x80100000400, w := [0x50025, 0x0, 0x0, 0x0, 0x0, 0x0, 0x0, 0x0, 0x0, 0x0, 0x0, 0x0, 0x0, 0x0, 0x0, 0x0], master := 1 }] } })
theorem wit_bindUnbindRetire1 :
    setState bindUnbindRetire1_s.chip ({ addr := 0x80100000400, w := [0x50025, 0x0, 0x0, 0x0, 0x0, 0x0, 0x0, 0x0, 0x0, 0x0, 0x0, 0x0, 0x0, 0x0, 0x0, 0x0], master := 1 } : Block).set ≠ 0 ∧
    OldestCommand bindUnbindRetire1_s 5 ({ addr := 0x80100000400, w := [0x50025, 0x0, 0x0, 0x0, 0x0, 0x0, 0x0, 0x0, 0x0, 0x0, 0x0, 0x0, 0x0, 0x0, 0x0, 0x0], master := 1 } : Block) ([] : List Block) ∧
    NoRunAhead bindUnbindRetire1_s.chip :=
  ⟨by decide +kernel, by unfold OldestCommand; decide +kernel, by unfold NoRunAhead; decide +kernel⟩

def bindUnbindRetire2_s : State := st (chipOf [(rMsJob 5, 0x12), (rMsJob 6, 0x12)] { on with ms := { queue := [{ addr := 0x80100000400, w := [0x50026, 0x0, 0x0, 0x0, 0x0, 0x0, 0x0, 0x0, 0x0, 0x0, 0x0, 0x0, 0x0, 0x0, 0x0, 0x0], master := 1 }] } })
theorem wit_bindUnbindRetire2 :
    OldestCommand bindUnbindRetire2_s 6 ({ addr := 0x80100000400, w := [0x50026, 0x0, 0x0, 0x0, 0x0, 0x0, 0x0, 0x0, 0x0, 0x0, 0x0, 0x0, 0x0, 0x0, 0x0, 0x0], master := 1 } : Block) ([] : List Block) ∧
    NoRunAhead bindUnbindRetire2_s.chip :=
  ⟨by unfold OldestCommand; decide +kernel, by unfold NoRunAhead; decide +kernel⟩

def bindUnbindRetire3_s : State := st (chipOf [(rSet 2 0, 0x1A), (rMsJob 5, 0x13)] { on with ms := { queue := [{ addr := 0x80100000400, w := [0x50024, 0x0, 0x0, 0x0, 0x0, 0x0, 0x0, 0x0, 0x0, 0x0, 0x0, 0x0, 0x0, 0x0, 0x0, 0x0], master := 1 }], staged := [(2, ({}, 0))], current := [(2, {}), (3, {})] } })
theorem wit_bindUnbindRetire3 :
    ((∀ j, j < 256 → boundSet bindUnbindRetire3_s.chip j ≠ some ({ addr := 0x80100000400, w := [0x50024, 0x0, 0x0, 0x0, 0x0, 0x0, 0x0, 0x0, 0x0, 0x0, 0x0, 0x0, 0x0, 0x0, 0x0, 0x0], master := 1 } : Block).set) ∧
    setState bindUnbindRetire3_s.chip ({ addr := 0x80100000400, w := [0x50024, 0x0, 0x0, 0x0, 0x0, 0x0, 0x0, 0x0, 0x0, 0x0, 0x0, 0x0, 0x0, 0x0, 0x0, 0x0], master := 1 } : Block).set ≠ 1 ∧
    setState bindUnbindRetire3_s.chip ({ addr := 0x80100000400, w := [0x50024, 0x0, 0x0, 0x0, 0x0, 0x0, 0x0, 0x0, 0x0, 0x0, 0x0, 0x0, 0x0, 0x0, 0x0, 0x0], master := 1 } : Block).set ≠ 3 ∧
    setStage bindUnbindRetire3_s.chip ({ addr := 0x80100000400, w := [0x50024, 0x0, 0x0, 0x0, 0x0, 0x0, 0x0, 0x0, 0x0, 0x0, 0x0, 0x0, 0x0, 0x0, 0x0, 0x0], master := 1 } : Block).set ≠ 1 ∧
    tabFind bindUnbindRetire3_s.chip.ms.loads ({ addr := 0x80100000400, w := [0x50024, 0x0, 0x0, 0x0, 0x0, 0x0, 0x0, 0x0, 0x0, 0x0, 0x0, 0x0, 0x0, 0x0, 0x0, 0x0], master := 1 } : Block).set = none) ∧
    OldestCommand bindUnbindRetire3_s 4 ({ addr := 0x80100000400, w := [0x50024, 0x0, 0x0, 0x0, 0x0, 0x0, 0x0, 0x0, 0x0, 0x0, 0x0, 0x0, 0x0, 0x0, 0x0, 0x0], master := 1 } : Block) ([] : List Block) :=
  ⟨by decide +kernel, by unfold OldestCommand; decide +kernel⟩

def bindUnbindRetire4_s : State := st (chipOf [(rSet 2 0, 2), (rMsJob 9, 0x12)] { on with ms := { queue := [{ addr := 0x80100000400, w := [0x50024, 0x0, 0x0, 0x0, 0x0, 0x0, 0x0, 0x0, 0x0, 0x0, 0x0, 0x0, 0x0, 0x0, 0x0, 0x0], master := 1 }] } })
theorem wit_bindUnbindRetire4 :
    OldestCommand bindUnbindRetire4_s 4 ({ addr := 0x80100000400, w := [0x50024, 0x0, 0x0, 0x0, 0x0, 0x0, 0x0, 0x0, 0x0, 0x0, 0x0, 0x0, 0x0, 0x0, 0x0, 0x0], master := 1 } : Block) ([] : List Block) ∧
    (∃ j, j < 256 ∧ boundSet bindUnbindRetire4_s.chip j = some ({ addr := 0x80100000400, w := [0x50024, 0x0, 0x0, 0x0, 0x0, 0x0, 0x0, 0x0, 0x0, 0x0, 0x0, 0x0, 0x0, 0x0, 0x0, 0x0], master := 1 } : Block).set) :=
  ⟨by unfold OldestCommand; decide +kernel, ⟨9, by decide +kernel⟩⟩

/-! CommandOutOfStateRefused, in Obligations.SetsAreBound -/

def commandOutOfStateRefused1_s : State := st (chipOf [(rSet 2 0, 2)] { on with ms := { queue := [{ addr := 0x80100000400, w := [0x100050020, 0x0, 0x0, 0x0, 0x0, 0x0, 0x0, 0x0, 0x0, 0x0, 0x0, 0x0, 0x0, 0x0, 0x0, 0x0], master := 1 }] } })
theorem wit_commandOutOfStateRefused1 :
    OldestCommand commandOutOfStateRefused1_s 0 ({ addr := 0x80100000400, w := [0x100050020, 0x0, 0x0, 0x0, 0x0, 0x0, 0x0, 0x0, 0x0, 0x0, 0x0, 0x0, 0x0, 0x0, 0x0, 0x0], master := 1 } : Block) ([] : List Block) ∧ loadAllowed commandOutOfStateRefused1_s.chip ({ addr := 0x80100000400, w := [0x100050020, 0x0, 0x0, 0x0, 0x0, 0x0, 0x0, 0x0, 0x0, 0x0, 0x0, 0x0, 0x0, 0x0, 0x0, 0x0], master := 1 } : Block).set false = false :=
  by unfold OldestCommand; decide +kernel

def commandOutOfStateRefused2_s : State := st (chipOf [(rSet 2 0, 2)] { on with ms := { queue := [{ addr := 0x80100000400, w := [0x100050022, 0x0, 0x0, 0x0, 0x0, 0x0, 0x0, 0x0, 0x0, 0x0, 0x0, 0x0, 0x0, 0x0, 0x0, 0x0], master := 1 }] } })
theorem wit_commandOutOfStateRefused2 :
    OldestCommand commandOutOfStateRefused2_s 2 ({ addr := 0x80100000400, w := [0x100050022, 0x0, 0x0, 0x0, 0x0, 0x0, 0x0, 0x0, 0x0, 0x0, 0x0, 0x0, 0x0, 0x0, 0x0, 0x0], master := 1 } : Block) ([] : List Block) ∧ (setState commandOutOfStateRefused2_s.chip ({ addr := 0x80100000400, w := [0x100050022, 0x0, 0x0, 0x0, 0x0, 0x0, 0x0, 0x0, 0x0, 0x0, 0x0, 0x0, 0x0, 0x0, 0x0, 0x0], master := 1 } : Block).set ≠ 2 ∨ setStage commandOutOfStateRefused2_s.chip ({ addr := 0x80100000400, w := [0x100050022, 0x0, 0x0, 0x0, 0x0, 0x0, 0x0, 0x0, 0x0, 0x0, 0x0, 0x0, 0x0, 0x0, 0x0, 0x0], master := 1 } : Block).set ≠ 2) :=
  by unfold OldestCommand; decide +kernel

/-! LoadsBegin, in Obligations.LoadsRun -/

def loadsBegin1_s : State := { st (chipOf [] { on with ms := { queue := [{ addr := 0x80100000400, w := [0x100050020, 0x1000, 0x0, 0x0, 0x0, 0x0, 0x0, 0x0, 0x0, 0x0, 0x0, 0x0, 0x0, 0x0, 0x0, 0x0], master := 1 }] } }) with sec := { root := some [] } }
theorem wit_loadsBegin1 :
    (loadAllowed loadsBegin1_s.chip ({ addr := 0x80100000400, w := [0x100050020, 0x1000, 0x0, 0x0, 0x0, 0x0, 0x0, 0x0, 0x0, 0x0, 0x0, 0x0, 0x0, 0x0, 0x0, 0x0], master := 1 } : Block).set false = true ∧
    ({ addr := 0x80100000400, w := [0x100050020, 0x1000, 0x0, 0x0, 0x0, 0x0, 0x0, 0x0, 0x0, 0x0, 0x0, 0x0, 0x0, 0x0, 0x0, 0x0], master := 1 } : Block).peers.contains (pkg loadsBegin1_s.chip) = true ∧
    loadsBegin1_s.sec.root.isSome = true ∧
    loadsBegin1_s.sec.idReady = false) ∧
    OldestCommand loadsBegin1_s 0 ({ addr := 0x80100000400, w := [0x100050020, 0x1000, 0x0, 0x0, 0x0, 0x0, 0x0, 0x0, 0x0, 0x0, 0x0, 0x0, 0x0, 0x0, 0x0, 0x0], master := 1 } : Block) ([] : List Block) :=
  ⟨by decide +kernel, by unfold OldestCommand; decide +kernel⟩

def loadsBegin2_s : State := { st (chipOf [(rSet 2 0, 2)] { on with ms := { queue := [{ addr := 0x80100000400, w := [0x100050021, 0x1000, 0x20000, 0x0, 0x0, 0x0, 0x0, 0x0, 0x0, 0x0, 0x0, 0x0, 0x0, 0x0, 0x0, 0x0], master := 1 }] } }) with sec := { root := some [] } }
theorem wit_loadsBegin2 :
    (loadAllowed loadsBegin2_s.chip ({ addr := 0x80100000400, w := [0x100050021, 0x1000, 0x20000, 0x0, 0x0, 0x0, 0x0, 0x0, 0x0, 0x0, 0x0, 0x0, 0x0, 0x0, 0x0, 0x0], master := 1 } : Block).set true = true ∧
    ({ addr := 0x80100000400, w := [0x100050021, 0x1000, 0x20000, 0x0, 0x0, 0x0, 0x0, 0x0, 0x0, 0x0, 0x0, 0x0, 0x0, 0x0, 0x0, 0x0], master := 1 } : Block).peers.contains (pkg loadsBegin2_s.chip) = true ∧
    loadsBegin2_s.sec.root.isSome = true ∧
    loadsBegin2_s.sec.idReady = false) ∧
    OldestCommand loadsBegin2_s 1 ({ addr := 0x80100000400, w := [0x100050021, 0x1000, 0x20000, 0x0, 0x0, 0x0, 0x0, 0x0, 0x0, 0x0, 0x0, 0x0, 0x0, 0x0, 0x0, 0x0], master := 1 } : Block) ([] : List Block) :=
  ⟨by decide +kernel, by unfold OldestCommand; decide +kernel⟩

def loadsBegin3_s : State := st (chipOf [(rMembers, 3)] on)
theorem wit_loadsBegin3 :
    fenced loadsBegin3_s.chip (1 : Pkg).toNat = false ∧
    (1 : Pkg).toNat ≠ pkg loadsBegin3_s.chip ∧
    loadAllowed loadsBegin3_s.chip (2 : Fin 16).val false = true ∧
    ({ setUid := 5, epoch := 3 } : Manifest).tables = [] :=
  by decide +kernel

def loadsBegin4_s : State := st (chipOf [(rMembers, 3), (rSet 2 0, 2)] on)
theorem wit_loadsBegin4 :
    fenced loadsBegin4_s.chip (1 : Pkg).toNat = false ∧
    (1 : Pkg).toNat ≠ pkg loadsBegin4_s.chip ∧
    loadAllowed loadsBegin4_s.chip (2 : Fin 16).val true = true ∧
    ({ setUid := 5, epoch := 3 } : Manifest).tables = [] :=
  by decide +kernel

/-! ReaderServesShards, in Obligations.ShardsTravel -/

def readerServesShards1_s : State := st (chipOf [] { on with ms := { queue := [], loads := [(2, { mine := true, member := true, hand := some 0, peers := [0], next := 1, man := { shards := [{ flashOff := 0, len := 64, form := 1, dest := 0x10000, nonce := [], tag := [], hash := Config.sha256 (flashBytes on 0 64), reserved := false }, { flashOff := 0, len := 64, form := 1, dest := 0x10000, nonce := [], tag := [], hash := [], reserved := false }] } })] } })
theorem wit_readerServesShards1 :
    tabFind readerServesShards1_s.chip.ms.loads (2 : Fin 16).val = some ({ mine := true, member := true, hand := some 0, peers := [0], next := 1, man := { shards := [{ flashOff := 0, len := 64, form := 1, dest := 0x10000, nonce := [], tag := [], hash := Config.sha256 (flashBytes on 0 64), reserved := false }, { flashOff := 0, len := 64, form := 1, dest := 0x10000, nonce := [], tag := [], hash := [], reserved := false }] } } : Load) ∧
    ({ mine := true, member := true, hand := some 0, peers := [0], next := 1, man := { shards := [{ flashOff := 0, len := 64, form := 1, dest := 0x10000, nonce := [], tag := [], hash := Config.sha256 (flashBytes on 0 64), reserved := false }, { flashOff := 0, len := 64, form := 1, dest := 0x10000, nonce := [], tag := [], hash := [], reserved := false }] } } : Load).mine = true ∧
    ({ mine := true, member := true, hand := some 0, peers := [0], next := 1, man := { shards := [{ flashOff := 0, len := 64, form := 1, dest := 0x10000, nonce := [], tag := [], hash := Config.sha256 (flashBytes on 0 64), reserved := false }, { flashOff := 0, len := 64, form := 1, dest := 0x10000, nonce := [], tag := [], hash := [], reserved := false }] } } : Load).atStep1 = false ∧
    ({ mine := true, member := true, hand := some 0, peers := [0], next := 1, man := { shards := [{ flashOff := 0, len := 64, form := 1, dest := 0x10000, nonce := [], tag := [], hash := Config.sha256 (flashBytes on 0 64), reserved := false }, { flashOff := 0, len := 64, form := 1, dest := 0x10000, nonce := [], tag := [], hash := [], reserved := false }] } } : Load).hand = some (0 : Nat) ∧
    ({ mine := true, member := true, hand := some 0, peers := [0], next := 1, man := { shards := [{ flashOff := 0, len := 64, form := 1, dest := 0x10000, nonce := [], tag := [], hash := Config.sha256 (flashBytes on 0 64), reserved := false }, { flashOff := 0, len := 64, form := 1, dest := 0x10000, nonce := [], tag := [], hash := [], reserved := false }] } } : Load).man.shards[(0 : Nat)]? = some ({ flashOff := 0, len := 64, form := 1, dest := 0x10000, nonce := [], tag := [], hash := Config.sha256 (flashBytes on 0 64), reserved := false } : ShardEnt) ∧
    ({ flashOff := 0, len := 64, form := 1, dest := 0x10000, nonce := [], tag := [], hash := Config.sha256 (flashBytes on 0 64), reserved := false } : ShardEnt).form = 1 ∧
    ({ mine := true, member := true, hand := some 0, peers := [0], next := 1, man := { shards := [{ flashOff := 0, len := 64, form := 1, dest := 0x10000, nonce := [], tag := [], hash := Config.sha256 (flashBytes on 0 64), reserved := false }, { flashOff := 0, len := 64, form := 1, dest := 0x10000, nonce := [], tag := [], hash := [], reserved := false }] } } : Load).member = true ∧
    ({ mine := true, member := true, hand := some 0, peers := [0], next := 1, man := { shards := [{ flashOff := 0, len := 64, form := 1, dest := 0x10000, nonce := [], tag := [], hash := Config.sha256 (flashBytes on 0 64), reserved := false }, { flashOff := 0, len := 64, form := 1, dest := 0x10000, nonce := [], tag := [], hash := [], reserved := false }] } } : Load).peers = [pkg readerServesShards1_s.chip] ∧
    ({ mine := true, member := true, hand := some 0, peers := [0], next := 1, man := { shards := [{ flashOff := 0, len := 64, form := 1, dest := 0x10000, nonce := [], tag := [], hash := Config.sha256 (flashBytes on 0 64), reserved := false }, { flashOff := 0, len := 64, form := 1, dest := 0x10000, nonce := [], tag := [], hash := [], reserved := false }] } } : Load).again = [] ∧
    ({ mine := true, member := true, hand := some 0, peers := [0], next := 1, man := { shards := [{ flashOff := 0, len := 64, form := 1, dest := 0x10000, nonce := [], tag := [], hash := Config.sha256 (flashBytes on 0 64), reserved := false }, { flashOff := 0, len := 64, form := 1, dest := 0x10000, nonce := [], tag := [], hash := [], reserved := false }] } } : Load).paused = [] ∧
    ({ mine := true, member := true, hand := some 0, peers := [0], next := 1, man := { shards := [{ flashOff := 0, len := 64, form := 1, dest := 0x10000, nonce := [], tag := [], hash := Config.sha256 (flashBytes on 0 64), reserved := false }, { flashOff := 0, len := 64, form := 1, dest := 0x10000, nonce := [], tag := [], hash := [], reserved := false }] } } : Load).next < ({ mine := true, member := true, hand := some 0, peers := [0], next := 1, man := { shards := [{ flashOff := 0, len := 64, form := 1, dest := 0x10000, nonce := [], tag := [], hash := Config.sha256 (flashBytes on 0 64), reserved := false }, { flashOff := 0, len := 64, form := 1, dest := 0x10000, nonce := [], tag := [], hash := [], reserved := false }] } } : Load).man.shards.length ∧
    tabGet 0 ({ mine := true, member := true, hand := some 0, peers := [0], next := 1, man := { shards := [{ flashOff := 0, len := 64, form := 1, dest := 0x10000, nonce := [], tag := [], hash := Config.sha256 (flashBytes on 0 64), reserved := false }, { flashOff := 0, len := 64, form := 1, dest := 0x10000, nonce := [], tag := [], hash := [], reserved := false }] } } : Load).reads ({ mine := true, member := true, hand := some 0, peers := [0], next := 1, man := { shards := [{ flashOff := 0, len := 64, form := 1, dest := 0x10000, nonce := [], tag := [], hash := Config.sha256 (flashBytes on 0 64), reserved := false }, { flashOff := 0, len := 64, form := 1, dest := 0x10000, nonce := [], tag := [], hash := [], reserved := false }] } } : Load).next = 0 ∧
    ({ mine := true, member := true, hand := some 0, peers := [0], next := 1, man := { shards := [{ flashOff := 0, len := 64, form := 1, dest := 0x10000, nonce := [], tag := [], hash := Config.sha256 (flashBytes on 0 64), reserved := false }, { flashOff := 0, len := 64, form := 1, dest := 0x10000, nonce := [], tag := [], hash := [], reserved := false }] } } : Load).good.contains (pkg readerServesShards1_s.chip, (0 : Nat)) = false ∧
    (1 : Nat) ≠ (0 : Nat) ∧
    (1 : Nat) < ({ mine := true, member := true, hand := some 0, peers := [0], next := 1, man := { shards := [{ flashOff := 0, len := 64, form := 1, dest := 0x10000, nonce := [], tag := [], hash := Config.sha256 (flashBytes on 0 64), reserved := false }, { flashOff := 0, len := 64, form := 1, dest := 0x10000, nonce := [], tag := [], hash := [], reserved := false }] } } : Load).man.shards.length ∧
    ({ mine := true, member := true, hand := some 0, peers := [0], next := 1, man := { shards := [{ flashOff := 0, len := 64, form := 1, dest := 0x10000, nonce := [], tag := [], hash := Config.sha256 (flashBytes on 0 64), reserved := false }, { flashOff := 0, len := 64, form := 1, dest := 0x10000, nonce := [], tag := [], hash := [], reserved := false }] } } : Load).good.contains (pkg readerServesShards1_s.chip, (1 : Nat)) = false ∧
    flashBad readerServesShards1_s.chip (pkg readerServesShards1_s.chip * 2 ^ 44 + ({ mine := true, member := true, hand := some 0, peers := [0], next := 1, man := { shards := [{ flashOff := 0, len := 64, form := 1, dest := 0x10000, nonce := [], tag := [], hash := Config.sha256 (flashBytes on 0 64), reserved := false }, { flashOff := 0, len := 64, form := 1, dest := 0x10000, nonce := [], tag := [], hash := [], reserved := false }] } } : Load).base + ({ flashOff := 0, len := 64, form := 1, dest := 0x10000, nonce := [], tag := [], hash := Config.sha256 (flashBytes on 0 64), reserved := false } : ShardEnt).flashOff.toNat) ({ flashOff := 0, len := 64, form := 1, dest := 0x10000, nonce := [], tag := [], hash := Config.sha256 (flashBytes on 0 64), reserved := false } : ShardEnt).len.toNat = false ∧
    Config.sha256 (flashBytes readerServesShards1_s.chip (pkg readerServesShards1_s.chip * 2 ^ 44 + ({ mine := true, member := true, hand := some 0, peers := [0], next := 1, man := { shards := [{ flashOff := 0, len := 64, form := 1, dest := 0x10000, nonce := [], tag := [], hash := Config.sha256 (flashBytes on 0 64), reserved := false }, { flashOff := 0, len := 64, form := 1, dest := 0x10000, nonce := [], tag := [], hash := [], reserved := false }] } } : Load).base + ({ flashOff := 0, len := 64, form := 1, dest := 0x10000, nonce := [], tag := [], hash := Config.sha256 (flashBytes on 0 64), reserved := false } : ShardEnt).flashOff.toNat) ({ flashOff := 0, len := 64, form := 1, dest := 0x10000, nonce := [], tag := [], hash := Config.sha256 (flashBytes on 0 64), reserved := false } : ShardEnt).len.toNat) = ({ flashOff := 0, len := 64, form := 1, dest := 0x10000, nonce := [], tag := [], hash := Config.sha256 (flashBytes on 0 64), reserved := false } : ShardEnt).hash :=
  ⟨rfl, rfl, rfl, rfl, rfl, rfl, rfl, rfl, rfl, rfl, by decide +kernel, rfl, rfl, by decide, by decide +kernel, rfl, rfl, rfl⟩

def readerServesShards2_s : State := st (chipOf [(rMembers, 3)] { on with ms := { queue := [], loads := [(2, { mine := true, member := true, hand := some 0, peers := [0, 1], next := 1, man := { shards := [{ flashOff := 0, len := 64, form := 1, dest := 0x10000, nonce := [], tag := [], hash := [], reserved := false }, { flashOff := 0, len := 64, form := 1, dest := 0x10000, nonce := [], tag := [], hash := [], reserved := false }] } })] } })
theorem wit_readerServesShards2 :
    (tabFind readerServesShards2_s.chip.ms.loads (2 : Fin 16).val = some ({ mine := true, member := true, hand := some 0, peers := [0, 1], next := 1, man := { shards := [{ flashOff := 0, len := 64, form := 1, dest := 0x10000, nonce := [], tag := [], hash := [], reserved := false }, { flashOff := 0, len := 64, form := 1, dest := 0x10000, nonce := [], tag := [], hash := [], reserved := false }] } } : Load) ∧
    ({ mine := true, member := true, hand := some 0, peers := [0, 1], next := 1, man := { shards := [{ flashOff := 0, len := 64, form := 1, dest := 0x10000, nonce := [], tag := [], hash := [], reserved := false }, { flashOff := 0, len := 64, form := 1, dest := 0x10000, nonce := [], tag := [], hash := [], reserved := false }] } } : Load).mine = true ∧
    ({ mine := true, member := true, hand := some 0, peers := [0, 1], next := 1, man := { shards := [{ flashOff := 0, len := 64, form := 1, dest := 0x10000, nonce := [], tag := [], hash := [], reserved := false }, { flashOff := 0, len := 64, form := 1, dest := 0x10000, nonce := [], tag := [], hash := [], reserved := false }] } } : Load).atStep1 = false ∧
    ({ mine := true, member := true, hand := some 0, peers := [0, 1], next := 1, man := { shards := [{ flashOff := 0, len := 64, form := 1, dest := 0x10000, nonce := [], tag := [], hash := [], reserved := false }, { flashOff := 0, len := 64, form := 1, dest := 0x10000, nonce := [], tag := [], hash := [], reserved := false }] } } : Load).good.contains ((1 : BitVec 4).toNat, (1 : Nat)) = false) ∧
    FirstCopy readerServesShards2_s.chip (1 : BitVec 4) (3 : BitVec 16) :=
  ⟨by decide +kernel, by unfold FirstCopy; decide +kernel⟩

def readerServesShards3_s : State := st (chipOf [(rMembers, 3)] { on with ms := { queue := [], loads := [(2, { mine := true, member := true, hand := some 0, peers := [0, 1], next := 1, man := { shards := [{ flashOff := 0, len := 64, form := 1, dest := 0x10000, nonce := [], tag := [], hash := [], reserved := false }, { flashOff := 0, len := 64, form := 1, dest := 0x10000, nonce := [], tag := [], hash := [], reserved := false }] } })] } })
theorem wit_readerServesShards3 :
    (tabFind readerServesShards3_s.chip.ms.loads (2 : Fin 16).val = some ({ mine := true, member := true, hand := some 0, peers := [0, 1], next := 1, man := { shards := [{ flashOff := 0, len := 64, form := 1, dest := 0x10000, nonce := [], tag := [], hash := [], reserved := false }, { flashOff := 0, len := 64, form := 1, dest := 0x10000, nonce := [], tag := [], hash := [], reserved := false }] } } : Load) ∧
    ({ mine := true, member := true, hand := some 0, peers := [0, 1], next := 1, man := { shards := [{ flashOff := 0, len := 64, form := 1, dest := 0x10000, nonce := [], tag := [], hash := [], reserved := false }, { flashOff := 0, len := 64, form := 1, dest := 0x10000, nonce := [], tag := [], hash := [], reserved := false }] } } : Load).mine = true ∧
    ({ mine := true, member := true, hand := some 0, peers := [0, 1], next := 1, man := { shards := [{ flashOff := 0, len := 64, form := 1, dest := 0x10000, nonce := [], tag := [], hash := [], reserved := false }, { flashOff := 0, len := 64, form := 1, dest := 0x10000, nonce := [], tag := [], hash := [], reserved := false }] } } : Load).atStep1 = false ∧
    ({ mine := true, member := true, hand := some 0, peers := [0, 1], next := 1, man := { shards := [{ flashOff := 0, len := 64, form := 1, dest := 0x10000, nonce := [], tag := [], hash := [], reserved := false }, { flashOff := 0, len := 64, form := 1, dest := 0x10000, nonce := [], tag := [], hash := [], reserved := false }] } } : Load).paused.contains (1 : Nat) = false ∧
    ({ mine := true, member := true, hand := some 0, peers := [0, 1], next := 1, man := { shards := [{ flashOff := 0, len := 64, form := 1, dest := 0x10000, nonce := [], tag := [], hash := [], reserved := false }, { flashOff := 0, len := 64, form := 1, dest := 0x10000, nonce := [], tag := [], hash := [], reserved := false }] } } : Load).hand = some (0 : Nat) ∧
    (0 : Nat) ≠ (1 : Nat) ∧
    (tabGet 0 ({ mine := true, member := true, hand := some 0, peers := [0, 1], next := 1, man := { shards := [{ flashOff := 0, len := 64, form := 1, dest := 0x10000, nonce := [], tag := [], hash := [], reserved := false }, { flashOff := 0, len := 64, form := 1, dest := 0x10000, nonce := [], tag := [], hash := [], reserved := false }] } } : Load).reads (1 : Nat) : Nat) < 1 + ({ mine := true, member := true, hand := some 0, peers := [0, 1], next := 1, man := { shards := [{ flashOff := 0, len := 64, form := 1, dest := 0x10000, nonce := [], tag := [], hash := [], reserved := false }, { flashOff := 0, len := 64, form := 1, dest := 0x10000, nonce := [], tag := [], hash := [], reserved := false }] } } : Load).retry) ∧
    FirstCopy readerServesShards3_s.chip (1 : BitVec 4) (3 : BitVec 16) :=
  ⟨by decide +kernel, by unfold FirstCopy; decide +kernel⟩

def readerServesShards4_s : State := st (chipOf [(rMembers, 3)] { on with ms := { queue := [], loads := [(2, { mine := true, member := true, hand := some 0, peers := [0, 1], next := 1, man := { shards := [{ flashOff := 0, len := 64, form := 1, dest := 0x10000, nonce := [], tag := [], hash := [], reserved := false }, { flashOff := 0, len := 64, form := 1, dest := 0x10000, nonce := [], tag := [], hash := [], reserved := false }] } })] } })
theorem wit_readerServesShards4 :
    (tabFind readerServesShards4_s.chip.ms.loads (2 : Fin 16).val = some ({ mine := true, member := true, hand := some 0, peers := [0, 1], next := 1, man := { shards := [{ flashOff := 0, len := 64, form := 1, dest := 0x10000, nonce := [], tag := [], hash := [], reserved := false }, { flashOff := 0, len := 64, form := 1, dest := 0x10000, nonce := [], tag := [], hash := [], reserved := false }] } } : Load) ∧
    ({ mine := true, member := true, hand := some 0, peers := [0, 1], next := 1, man := { shards := [{ flashOff := 0, len := 64, form := 1, dest := 0x10000, nonce := [], tag := [], hash := [], reserved := false }, { flashOff := 0, len := 64, form := 1, dest := 0x10000, nonce := [], tag := [], hash := [], reserved := false }] } } : Load).mine = true ∧
    ({ mine := true, member := true, hand := some 0, peers := [0, 1], next := 1, man := { shards := [{ flashOff := 0, len := 64, form := 1, dest := 0x10000, nonce := [], tag := [], hash := [], reserved := false }, { flashOff := 0, len := 64, form := 1, dest := 0x10000, nonce := [], tag := [], hash := [], reserved := false }] } } : Load).atStep1 = false ∧
    ({ mine := true, member := true, hand := some 0, peers := [0, 1], next := 1, man := { shards := [{ flashOff := 0, len := 64, form := 1, dest := 0x10000, nonce := [], tag := [], hash := [], reserved := false }, { flashOff := 0, len := 64, form := 1, dest := 0x10000, nonce := [], tag := [], hash := [], reserved := false }] } } : Load).again.contains (1 : Nat) = false ∧
    ({ mine := true, member := true, hand := some 0, peers := [0, 1], next := 1, man := { shards := [{ flashOff := 0, len := 64, form := 1, dest := 0x10000, nonce := [], tag := [], hash := [], reserved := false }, { flashOff := 0, len := 64, form := 1, dest := 0x10000, nonce := [], tag := [], hash := [], reserved := false }] } } : Load).paused.contains (1 : Nat) = false ∧
    ({ mine := true, member := true, hand := some 0, peers := [0, 1], next := 1, man := { shards := [{ flashOff := 0, len := 64, form := 1, dest := 0x10000, nonce := [], tag := [], hash := [], reserved := false }, { flashOff := 0, len := 64, form := 1, dest := 0x10000, nonce := [], tag := [], hash := [], reserved := false }] } } : Load).hand = some (0 : Nat) ∧
    (0 : Nat) ≠ (1 : Nat)) ∧
    FirstCopy readerServesShards4_s.chip (1 : BitVec 4) (3 : BitVec 16) :=
  ⟨by decide +kernel, by unfold FirstCopy; decide +kernel⟩

/-! ReceiverTakesShards, in Obligations.ShardsTravel -/

def receiverTakesShards1_s : State := st (chipOf [(rMembers, 3)] { on with ms := { queue := [], loads := [(2, { member := true, reader := 1, man := { shards := [{ flashOff := 0, len := 64, form := 1, dest := 0x10000, nonce := [], tag := [], hash := [], reserved := false }, { flashOff := 0, len := 64, form := 1, dest := 0x10000, nonce := [], tag := [], hash := [], reserved := false }], epoch := 3 } })] } })
theorem wit_receiverTakesShards1 :
    tabFind receiverTakesShards1_s.chip.ms.loads (2 : Fin 16).val = some ({ member := true, reader := 1, man := { shards := [{ flashOff := 0, len := 64, form := 1, dest := 0x10000, nonce := [], tag := [], hash := [], reserved := false }, { flashOff := 0, len := 64, form := 1, dest := 0x10000, nonce := [], tag := [], hash := [], reserved := false }], epoch := 3 } } : Load) ∧
    ({ member := true, reader := 1, man := { shards := [{ flashOff := 0, len := 64, form := 1, dest := 0x10000, nonce := [], tag := [], hash := [], reserved := false }, { flashOff := 0, len := 64, form := 1, dest := 0x10000, nonce := [], tag := [], hash := [], reserved := false }], epoch := 3 } } : Load).mine = false ∧
    ({ member := true, reader := 1, man := { shards := [{ flashOff := 0, len := 64, form := 1, dest := 0x10000, nonce := [], tag := [], hash := [], reserved := false }, { flashOff := 0, len := 64, form := 1, dest := 0x10000, nonce := [], tag := [], hash := [], reserved := false }], epoch := 3 } } : Load).member = true ∧
    ({ member := true, reader := 1, man := { shards := [{ flashOff := 0, len := 64, form := 1, dest := 0x10000, nonce := [], tag := [], hash := [], reserved := false }, { flashOff := 0, len := 64, form := 1, dest := 0x10000, nonce := [], tag := [], hash := [], reserved := false }], epoch := 3 } } : Load).man.shards[({ index := 1, bytes := [7], whole := false, good := true } : ShardRx).index]? = some ({ flashOff := 0, len := 64, form := 1, dest := 0x10000, nonce := [], tag := [], hash := [], reserved := false } : ShardEnt) ∧
    ({ member := true, reader := 1, man := { shards := [{ flashOff := 0, len := 64, form := 1, dest := 0x10000, nonce := [], tag := [], hash := [], reserved := false }, { flashOff := 0, len := 64, form := 1, dest := 0x10000, nonce := [], tag := [], hash := [], reserved := false }], epoch := 3 } } : Load).good.contains (pkg receiverTakesShards1_s.chip, ({ index := 1, bytes := [7], whole := false, good := true } : ShardRx).index) = false :=
  by decide +kernel

def receiverTakesShards2_s : State := st (chipOf [(rMembers, 3)] { on with ms := { queue := [], loads := [(2, { member := true, reader := 1, man := { shards := [{ flashOff := 0, len := 64, form := 1, dest := 0x10000, nonce := [], tag := [], hash := [], reserved := false }, { flashOff := 0, len := 64, form := 1, dest := 0x10000, nonce := [], tag := [], hash := [], reserved := false }], epoch := 3 } })] } })
theorem wit_receiverTakesShards2 :
    tabFind receiverTakesShards2_s.chip.ms.loads (2 : Fin 16).val = some ({ member := true, reader := 1, man := { shards := [{ flashOff := 0, len := 64, form := 1, dest := 0x10000, nonce := [], tag := [], hash := [], reserved := false }, { flashOff := 0, len := 64, form := 1, dest := 0x10000, nonce := [], tag := [], hash := [], reserved := false }], epoch := 3 } } : Load) ∧
    ({ member := true, reader := 1, man := { shards := [{ flashOff := 0, len := 64, form := 1, dest := 0x10000, nonce := [], tag := [], hash := [], reserved := false }, { flashOff := 0, len := 64, form := 1, dest := 0x10000, nonce := [], tag := [], hash := [], reserved := false }], epoch := 3 } } : Load).mine = false ∧
    ({ member := true, reader := 1, man := { shards := [{ flashOff := 0, len := 64, form := 1, dest := 0x10000, nonce := [], tag := [], hash := [], reserved := false }, { flashOff := 0, len := 64, form := 1, dest := 0x10000, nonce := [], tag := [], hash := [], reserved := false }], epoch := 3 } } : Load).member = true ∧
    ({ member := true, reader := 1, man := { shards := [{ flashOff := 0, len := 64, form := 1, dest := 0x10000, nonce := [], tag := [], hash := [], reserved := false }, { flashOff := 0, len := 64, form := 1, dest := 0x10000, nonce := [], tag := [], hash := [], reserved := false }], epoch := 3 } } : Load).whole.contains (1 : Nat) = false ∧
    (1 : Nat) < ({ member := true, reader := 1, man := { shards := [{ flashOff := 0, len := 64, form := 1, dest := 0x10000, nonce := [], tag := [], hash := [], reserved := false }, { flashOff := 0, len := 64, form := 1, dest := 0x10000, nonce := [], tag := [], hash := [], reserved := false }], epoch := 3 } } : Load).man.shards.length ∧
    fenced receiverTakesShards2_s.chip ({ member := true, reader := 1, man := { shards := [{ flashOff := 0, len := 64, form := 1, dest := 0x10000, nonce := [], tag := [], hash := [], reserved := false }, { flashOff := 0, len := 64, form := 1, dest := 0x10000, nonce := [], tag := [], hash := [], reserved := false }], epoch := 3 } } : Load).reader.toNat = false ∧
    ({ member := true, reader := 1, man := { shards := [{ flashOff := 0, len := 64, form := 1, dest := 0x10000, nonce := [], tag := [], hash := [], reserved := false }, { flashOff := 0, len := 64, form := 1, dest := 0x10000, nonce := [], tag := [], hash := [], reserved := false }], epoch := 3 } } : Load).reader.toNat ≠ pkg receiverTakesShards2_s.chip :=
  by decide +kernel

/-! LoadsEnd, in Obligations.LoadsRun -/

def loadsEnd1_s : State := st (chipOf [(rSet 2 0, 1), (rMembers, 3)] { on with ms := { queue := [], loads := [(2, { member := true, mine := true, peers := [0, 1], done := [1], block := some 0x80100000800, man := { epoch := 3 } })] } })
theorem wit_loadsEnd1 :
    (tabFind loadsEnd1_s.chip.ms.loads (2 : Fin 16).val = some ({ member := true, mine := true, peers := [0, 1], done := [1], block := some 0x80100000800, man := { epoch := 3 } } : Load) ∧
    ({ member := true, mine := true, peers := [0, 1], done := [1], block := some 0x80100000800, man := { epoch := 3 } } : Load).stage = false ∧
    ({ member := true, mine := true, peers := [0, 1], done := [1], block := some 0x80100000800, man := { epoch := 3 } } : Load).member = true ∧
    ({ member := true, mine := true, peers := [0, 1], done := [1], block := some 0x80100000800, man := { epoch := 3 } } : Load).mine = true ∧
    ({ member := true, mine := true, peers := [0, 1], done := [1], block := some 0x80100000800, man := { epoch := 3 } } : Load).atStep1 = false ∧
    ({ member := true, mine := true, peers := [0, 1], done := [1], block := some 0x80100000800, man := { epoch := 3 } } : Load).block = some (0x80100000800 : Nat) ∧
    pkgOf ((0x80100000800 : Nat) + 120) = pkg loadsEnd1_s.chip ∧
    (∀ q ∈ ({ member := true, mine := true, peers := [0, 1], done := [1], block := some 0x80100000800, man := { epoch := 3 } } : Load).peers, q = (0 : BitVec 4).toNat ∨ q ∈ ({ member := true, mine := true, peers := [0, 1], done := [1], block := some 0x80100000800, man := { epoch := 3 } } : Load).done)) ∧
    FirstCopy loadsEnd1_s.chip (0 : BitVec 4) (3 : BitVec 16) :=
  ⟨by decide +kernel, by unfold FirstCopy; decide +kernel⟩

def loadsEnd2_s : State := st (chipOf [(rSet 2 0, 1), (rMembers, 3)] { on with ms := { queue := [], loads := [(2, { member := true, reader := 1, man := { shards := [{ flashOff := 0, len := 64, form := 1, dest := 0x10000, nonce := [], tag := [], hash := [], reserved := false }, { flashOff := 0, len := 64, form := 1, dest := 0x10000, nonce := [], tag := [], hash := [], reserved := false }], epoch := 3 } })] } })
theorem wit_loadsEnd2 :
    (tabFind loadsEnd2_s.chip.ms.loads (2 : Fin 16).val = some ({ member := true, reader := 1, man := { shards := [{ flashOff := 0, len := 64, form := 1, dest := 0x10000, nonce := [], tag := [], hash := [], reserved := false }, { flashOff := 0, len := 64, form := 1, dest := 0x10000, nonce := [], tag := [], hash := [], reserved := false }], epoch := 3 } } : Load) ∧
    ({ member := true, reader := 1, man := { shards := [{ flashOff := 0, len := 64, form := 1, dest := 0x10000, nonce := [], tag := [], hash := [], reserved := false }, { flashOff := 0, len := 64, form := 1, dest := 0x10000, nonce := [], tag := [], hash := [], reserved := false }], epoch := 3 } } : Load).stage = false ∧
    ({ member := true, reader := 1, man := { shards := [{ flashOff := 0, len := 64, form := 1, dest := 0x10000, nonce := [], tag := [], hash := [], reserved := false }, { flashOff := 0, len := 64, form := 1, dest := 0x10000, nonce := [], tag := [], hash := [], reserved := false }], epoch := 3 } } : Load).member = true ∧
    ({ member := true, reader := 1, man := { shards := [{ flashOff := 0, len := 64, form := 1, dest := 0x10000, nonce := [], tag := [], hash := [], reserved := false }, { flashOff := 0, len := 64, form := 1, dest := 0x10000, nonce := [], tag := [], hash := [], reserved := false }], epoch := 3 } } : Load).mine = false) ∧
    FirstCopy loadsEnd2_s.chip ({ member := true, reader := 1, man := { shards := [{ flashOff := 0, len := 64, form := 1, dest := 0x10000, nonce := [], tag := [], hash := [], reserved := false }, { flashOff := 0, len := 64, form := 1, dest := 0x10000, nonce := [], tag := [], hash := [], reserved := false }], epoch := 3 } } : Load).reader (3 : BitVec 16) :=
  ⟨by decide +kernel, by unfold FirstCopy; decide +kernel⟩

def loadsEnd3_s : State := st (chipOf [(rSet 2 0, 1), (rMembers, 3)] { on with ms := { queue := [], loads := [(2, { member := true, reader := 1, man := { shards := [{ flashOff := 0, len := 64, form := 1, dest := 0x10000, nonce := [], tag := [], hash := [], reserved := false }, { flashOff := 0, len := 64, form := 1, dest := 0x10000, nonce := [], tag := [], hash := [], reserved := false }], epoch := 3 } })] } })
theorem wit_loadsEnd3 :
    (tabFind loadsEnd3_s.chip.ms.loads (2 : Fin 16).val = some ({ member := true, reader := 1, man := { shards := [{ flashOff := 0, len := 64, form := 1, dest := 0x10000, nonce := [], tag := [], hash := [], reserved := false }, { flashOff := 0, len := 64, form := 1, dest := 0x10000, nonce := [], tag := [], hash := [], reserved := false }], epoch := 3 } } : Load) ∧
    ({ member := true, reader := 1, man := { shards := [{ flashOff := 0, len := 64, form := 1, dest := 0x10000, nonce := [], tag := [], hash := [], reserved := false }, { flashOff := 0, len := 64, form := 1, dest := 0x10000, nonce := [], tag := [], hash := [], reserved := false }], epoch := 3 } } : Load).stage = false ∧
    ({ member := true, reader := 1, man := { shards := [{ flashOff := 0, len := 64, form := 1, dest := 0x10000, nonce := [], tag := [], hash := [], reserved := false }, { flashOff := 0, len := 64, form := 1, dest := 0x10000, nonce := [], tag := [], hash := [], reserved := false }], epoch := 3 } } : Load).member = true ∧
    ({ member := true, reader := 1, man := { shards := [{ flashOff := 0, len := 64, form := 1, dest := 0x10000, nonce := [], tag := [], hash := [], reserved := false }, { flashOff := 0, len := 64, form := 1, dest := 0x10000, nonce := [], tag := [], hash := [], reserved := false }], epoch := 3 } } : Load).mine = false) ∧
    FirstCopy loadsEnd3_s.chip ({ member := true, reader := 1, man := { shards := [{ flashOff := 0, len := 64, form := 1, dest := 0x10000, nonce := [], tag := [], hash := [], reserved := false }, { flashOff := 0, len := 64, form := 1, dest := 0x10000, nonce := [], tag := [], hash := [], reserved := false }], epoch := 3 } } : Load).reader (3 : BitVec 16) :=
  ⟨by decide +kernel, by unfold FirstCopy; decide +kernel⟩

/-! ReplaceArmsAndAborts, in Obligations.ReplacementsRun -/

def replaceArmsAndAborts1_s : State := st (chipOf [(rSet 2 0, 0x12), (rTick, 100)] { on with ms := { queue := [{ addr := 0x80100000400, w := [0x100050022, 0x0, 0x0, 0x65, 0x0, 0x0, 0x0, 0x0, 0x0, 0x0, 0x0, 0x0, 0x0, 0x0, 0x0, 0x0], master := 1 }], staged := [(2, ({ setUid := 5, kind := 1, firstSeq := 1, lastSeq := 2, shards := [{ flashOff := 0, len := 64, form := 1, dest := 0x10000, nonce := [], tag := [], hash := [], reserved := false }, { flashOff := 0, len := 64, form := 1, dest := 0x10000, nonce := [], tag := [], hash := [], reserved := false }], layers := [{ seq := 1, first := 0, count := 1, reserved := false }, { seq := 2, first := 1, count := 1, reserved := false }] }, 65536))], current := [(2, { setUid := 5 })] } })
theorem wit_replaceArmsAndAborts1 :
    (setState replaceArmsAndAborts1_s.chip ({ addr := 0x80100000400, w := [0x100050022, 0x0, 0x0, 0x65, 0x0, 0x0, 0x0, 0x0, 0x0, 0x0, 0x0, 0x0, 0x0, 0x0, 0x0, 0x0], master := 1 } : Block).set = 2 ∧
    setStage replaceArmsAndAborts1_s.chip ({ addr := 0x80100000400, w := [0x100050022, 0x0, 0x0, 0x65, 0x0, 0x0, 0x0, 0x0, 0x0, 0x0, 0x0, 0x0, 0x0, 0x0, 0x0, 0x0], master := 1 } : Block).set = 2 ∧
    tabFind replaceArmsAndAborts1_s.chip.ms.staged ({ addr := 0x80100000400, w := [0x100050022, 0x0, 0x0, 0x65, 0x0, 0x0, 0x0, 0x0, 0x0, 0x0, 0x0, 0x0, 0x0, 0x0, 0x0, 0x0], master := 1 } : Block).set = some (({ setUid := 5, kind := 1, firstSeq := 1, lastSeq := 2, shards := [{ flashOff := 0, len := 64, form := 1, dest := 0x10000, nonce := [], tag := [], hash := [], reserved := false }, { flashOff := 0, len := 64, form := 1, dest := 0x10000, nonce := [], tag := [], hash := [], reserved := false }], layers := [{ seq := 1, first := 0, count := 1, reserved := false }, { seq := 2, first := 1, count := 1, reserved := false }] } : Manifest), (65536 : Nat)) ∧
    tabFind replaceArmsAndAborts1_s.chip.ms.current ({ addr := 0x80100000400, w := [0x100050022, 0x0, 0x0, 0x65, 0x0, 0x0, 0x0, 0x0, 0x0, 0x0, 0x0, 0x0, 0x0, 0x0, 0x0, 0x0], master := 1 } : Block).set = some ({ setUid := 5 } : Manifest) ∧
    ({ setUid := 5, kind := 1, firstSeq := 1, lastSeq := 2, shards := [{ flashOff := 0, len := 64, form := 1, dest := 0x10000, nonce := [], tag := [], hash := [], reserved := false }, { flashOff := 0, len := 64, form := 1, dest := 0x10000, nonce := [], tag := [], hash := [], reserved := false }], layers := [{ seq := 1, first := 0, count := 1, reserved := false }, { seq := 2, first := 1, count := 1, reserved := false }] } : Manifest).kind.toNat ≤ 1 ∧
    ({ setUid := 5, kind := 1, firstSeq := 1, lastSeq := 2, shards := [{ flashOff := 0, len := 64, form := 1, dest := 0x10000, nonce := [], tag := [], hash := [], reserved := false }, { flashOff := 0, len := 64, form := 1, dest := 0x10000, nonce := [], tag := [], hash := [], reserved := false }], layers := [{ seq := 1, first := 0, count := 1, reserved := false }, { seq := 2, first := 1, count := 1, reserved := false }] } : Manifest).setUid = ({ setUid := 5 } : Manifest).setUid ∧
    ({ addr := 0x80100000400, w := [0x100050022, 0x0, 0x0, 0x65, 0x0, 0x0, 0x0, 0x0, 0x0, 0x0, 0x0, 0x0, 0x0, 0x0, 0x0, 0x0], master := 1 } : Block).peers.contains (pkg replaceArmsAndAborts1_s.chip) = true ∧
    tickBefore (tickOf replaceArmsAndAborts1_s.chip) (({ addr := 0x80100000400, w := [0x100050022, 0x0, 0x0, 0x65, 0x0, 0x0, 0x0, 0x0, 0x0, 0x0, 0x0, 0x0, 0x0, 0x0, 0x0, 0x0], master := 1 } : Block).f 3 0 32) = true) ∧
    OldestCommand replaceArmsAndAborts1_s 2 ({ addr := 0x80100000400, w := [0x100050022, 0x0, 0x0, 0x65, 0x0, 0x0, 0x0, 0x0, 0x0, 0x0, 0x0, 0x0, 0x0, 0x0, 0x0, 0x0], master := 1 } : Block) ([] : List Block) :=
  ⟨by decide +kernel, by unfold OldestCommand; decide +kernel⟩

def replaceArmsAndAborts2_s : State := st (chipOf [(rSet 2 0, 0x12), (rTick, 100)] { on with ms := { queue := [{ addr := 0x80100000400, w := [0x100050022, 0x0, 0x0, 0x64, 0x0, 0x0, 0x0, 0x0, 0x0, 0x0, 0x0, 0x0, 0x0, 0x0, 0x0, 0x0], master := 1 }], staged := [(2, ({ setUid := 5, kind := 1, firstSeq := 1, lastSeq := 2, shards := [{ flashOff := 0, len := 64, form := 1, dest := 0x10000, nonce := [], tag := [], hash := [], reserved := false }, { flashOff := 0, len := 64, form := 1, dest := 0x10000, nonce := [], tag := [], hash := [], reserved := false }], layers := [{ seq := 1, first := 0, count := 1, reserved := false }, { seq := 2, first := 1, count := 1, reserved := false }] }, 65536))], current := [(2, { setUid := 5 })] } })
theorem wit_replaceArmsAndAborts2 :
    (setState replaceArmsAndAborts2_s.chip ({ addr := 0x80100000400, w := [0x100050022, 0x0, 0x0, 0x64, 0x0, 0x0, 0x0, 0x0, 0x0, 0x0, 0x0, 0x0, 0x0, 0x0, 0x0, 0x0], master := 1 } : Block).set = 2 ∧
    setStage replaceArmsAndAborts2_s.chip ({ addr := 0x80100000400, w := [0x100050022, 0x0, 0x0, 0x64, 0x0, 0x0, 0x0, 0x0, 0x0, 0x0, 0x0, 0x0, 0x0, 0x0, 0x0, 0x0], master := 1 } : Block).set = 2 ∧
    tabFind replaceArmsAndAborts2_s.chip.ms.staged ({ addr := 0x80100000400, w := [0x100050022, 0x0, 0x0, 0x64, 0x0, 0x0, 0x0, 0x0, 0x0, 0x0, 0x0, 0x0, 0x0, 0x0, 0x0, 0x0], master := 1 } : Block).set = some (({ setUid := 5, kind := 1, firstSeq := 1, lastSeq := 2, shards := [{ flashOff := 0, len := 64, form := 1, dest := 0x10000, nonce := [], tag := [], hash := [], reserved := false }, { flashOff := 0, len := 64, form := 1, dest := 0x10000, nonce := [], tag := [], hash := [], reserved := false }], layers := [{ seq := 1, first := 0, count := 1, reserved := false }, { seq := 2, first := 1, count := 1, reserved := false }] } : Manifest), (65536 : Nat)) ∧
    tabFind replaceArmsAndAborts2_s.chip.ms.current ({ addr := 0x80100000400, w := [0x100050022, 0x0, 0x0, 0x64, 0x0, 0x0, 0x0, 0x0, 0x0, 0x0, 0x0, 0x0, 0x0, 0x0, 0x0, 0x0], master := 1 } : Block).set = some ({ setUid := 5 } : Manifest) ∧
    ({ setUid := 5, kind := 1, firstSeq := 1, lastSeq := 2, shards := [{ flashOff := 0, len := 64, form := 1, dest := 0x10000, nonce := [], tag := [], hash := [], reserved := false }, { flashOff := 0, len := 64, form := 1, dest := 0x10000, nonce := [], tag := [], hash := [], reserved := false }], layers := [{ seq := 1, first := 0, count := 1, reserved := false }, { seq := 2, first := 1, count := 1, reserved := false }] } : Manifest).kind.toNat ≤ 1 ∧
    ({ setUid := 5, kind := 1, firstSeq := 1, lastSeq := 2, shards := [{ flashOff := 0, len := 64, form := 1, dest := 0x10000, nonce := [], tag := [], hash := [], reserved := false }, { flashOff := 0, len := 64, form := 1, dest := 0x10000, nonce := [], tag := [], hash := [], reserved := false }], layers := [{ seq := 1, first := 0, count := 1, reserved := false }, { seq := 2, first := 1, count := 1, reserved := false }] } : Manifest).setUid = ({ setUid := 5 } : Manifest).setUid ∧
    ({ addr := 0x80100000400, w := [0x100050022, 0x0, 0x0, 0x64, 0x0, 0x0, 0x0, 0x0, 0x0, 0x0, 0x0, 0x0, 0x0, 0x0, 0x0, 0x0], master := 1 } : Block).peers.contains (pkg replaceArmsAndAborts2_s.chip) = true ∧
    tickBefore (tickOf replaceArmsAndAborts2_s.chip) (({ addr := 0x80100000400, w := [0x100050022, 0x0, 0x0, 0x64, 0x0, 0x0, 0x0, 0x0, 0x0, 0x0, 0x0, 0x0, 0x0, 0x0, 0x0, 0x0], master := 1 } : Block).f 3 0 32) = false) ∧
    OldestCommand replaceArmsAndAborts2_s 2 ({ addr := 0x80100000400, w := [0x100050022, 0x0, 0x0, 0x64, 0x0, 0x0, 0x0, 0x0, 0x0, 0x0, 0x0, 0x0, 0x0, 0x0, 0x0, 0x0], master := 1 } : Block) ([] : List Block) :=
  ⟨by decide +kernel, by unfold OldestCommand; decide +kernel⟩

def replaceArmsAndAborts3_s : State := st (chipOf [(rSet 2 0, 0x13)] { on with ms := { queue := [{ addr := 0x80100000400, w := [0x50023, 0x0, 0x0, 0x0, 0x0, 0x0, 0x0, 0x0, 0x0, 0x0, 0x0, 0x0, 0x0, 0x0, 0x0, 0x0], master := 1 }], repls := [(2, { block := 0x80100000800, peers := [0], man := { setUid := 5, kind := 1, firstSeq := 1, lastSeq := 2, shards := [{ flashOff := 0, len := 64, form := 1, dest := 0x10000, nonce := [], tag := [], hash := [], reserved := false }, { flashOff := 0, len := 64, form := 1, dest := 0x10000, nonce := [], tag := [], hash := [], reserved := false }], layers := [{ seq := 1, first := 0, count := 1, reserved := false }, { seq := 2, first := 1, count := 1, reserved := false }] }, bias := 65536, layers := [1, 2] })] } })
theorem wit_replaceArmsAndAborts3 :
    (tabFind replaceArmsAndAborts3_s.chip.ms.loads ({ addr := 0x80100000400, w := [0x50023, 0x0, 0x0, 0x0, 0x0, 0x0, 0x0, 0x0, 0x0, 0x0, 0x0, 0x0, 0x0, 0x0, 0x0, 0x0], master := 1 } : Block).set = none ∧
    tabFind replaceArmsAndAborts3_s.chip.ms.repls ({ addr := 0x80100000400, w := [0x50023, 0x0, 0x0, 0x0, 0x0, 0x0, 0x0, 0x0, 0x0, 0x0, 0x0, 0x0, 0x0, 0x0, 0x0, 0x0], master := 1 } : Block).set = some ({ block := 0x80100000800, peers := [0], man := { setUid := 5, kind := 1, firstSeq := 1, lastSeq := 2, shards := [{ flashOff := 0, len := 64, form := 1, dest := 0x10000, nonce := [], tag := [], hash := [], reserved := false }, { flashOff := 0, len := 64, form := 1, dest := 0x10000, nonce := [], tag := [], hash := [], reserved := false }], layers := [{ seq := 1, first := 0, count := 1, reserved := false }, { seq := 2, first := 1, count := 1, reserved := false }] }, bias := 65536, layers := [1, 2] } : Repl) ∧
    ({ block := 0x80100000800, peers := [0], man := { setUid := 5, kind := 1, firstSeq := 1, lastSeq := 2, shards := [{ flashOff := 0, len := 64, form := 1, dest := 0x10000, nonce := [], tag := [], hash := [], reserved := false }, { flashOff := 0, len := 64, form := 1, dest := 0x10000, nonce := [], tag := [], hash := [], reserved := false }], layers := [{ seq := 1, first := 0, count := 1, reserved := false }, { seq := 2, first := 1, count := 1, reserved := false }] }, bias := 65536, layers := [1, 2] } : Repl).copying = none ∧
    ({ block := 0x80100000800, peers := [0], man := { setUid := 5, kind := 1, firstSeq := 1, lastSeq := 2, shards := [{ flashOff := 0, len := 64, form := 1, dest := 0x10000, nonce := [], tag := [], hash := [], reserved := false }, { flashOff := 0, len := 64, form := 1, dest := 0x10000, nonce := [], tag := [], hash := [], reserved := false }], layers := [{ seq := 1, first := 0, count := 1, reserved := false }, { seq := 2, first := 1, count := 1, reserved := false }] }, bias := 65536, layers := [1, 2] } : Repl).begun = false ∧
    pkgOf (({ block := 0x80100000800, peers := [0], man := { setUid := 5, kind := 1, firstSeq := 1, lastSeq := 2, shards := [{ flashOff := 0, len := 64, form := 1, dest := 0x10000, nonce := [], tag := [], hash := [], reserved := false }, { flashOff := 0, len := 64, form := 1, dest := 0x10000, nonce := [], tag := [], hash := [], reserved := false }], layers := [{ seq := 1, first := 0, count := 1, reserved := false }, { seq := 2, first := 1, count := 1, reserved := false }] }, bias := 65536, layers := [1, 2] } : Repl).block + 120) = pkg replaceArmsAndAborts3_s.chip) ∧
    OldestCommand replaceArmsAndAborts3_s 3 ({ addr := 0x80100000400, w := [0x50023, 0x0, 0x0, 0x0, 0x0, 0x0, 0x0, 0x0, 0x0, 0x0, 0x0, 0x0, 0x0, 0x0, 0x0, 0x0], master := 1 } : Block) ([] : List Block) ∧
    NoRunAhead replaceArmsAndAborts3_s.chip :=
  ⟨by decide +kernel, by unfold OldestCommand; decide +kernel, by unfold NoRunAhead; decide +kernel⟩

/-! ReplacementRuns, in Obligations.ReplacementsRun -/

def replacementRuns1_s : State := st (chipOf [(rSet 2 0, 0x13), (rSet 2 1, 9), (0x20C0C, 1), (rTick, 100), (rSet 2 3, 100)] { on with ms := { queue := [], repls := [(2, { block := 0x80100000800, peers := [0], man := { setUid := 5, kind := 1, firstSeq := 1, lastSeq := 2, shards := [{ flashOff := 0, len := 64, form := 1, dest := 0x10000, nonce := [], tag := [], hash := [], reserved := false }, { flashOff := 0, len := 64, form := 1, dest := 0x10000, nonce := [], tag := [], hash := [], reserved := false }], layers := [{ seq := 1, first := 0, count := 1, reserved := false }, { seq := 2, first := 1, count := 1, reserved := false }] }, bias := 65536, layers := [1, 2] })] } })
theorem wit_replacementRuns1 :
    (tabFind replacementRuns1_s.chip.ms.repls (2 : Fin 16).val = some ({ block := 0x80100000800, peers := [0], man := { setUid := 5, kind := 1, firstSeq := 1, lastSeq := 2, shards := [{ flashOff := 0, len := 64, form := 1, dest := 0x10000, nonce := [], tag := [], hash := [], reserved := false }, { flashOff := 0, len := 64, form := 1, dest := 0x10000, nonce := [], tag := [], hash := [], reserved := false }], layers := [{ seq := 1, first := 0, count := 1, reserved := false }, { seq := 2, first := 1, count := 1, reserved := false }] }, bias := 65536, layers := [1, 2] } : Repl) ∧
    pkgOf (({ block := 0x80100000800, peers := [0], man := { setUid := 5, kind := 1, firstSeq := 1, lastSeq := 2, shards := [{ flashOff := 0, len := 64, form := 1, dest := 0x10000, nonce := [], tag := [], hash := [], reserved := false }, { flashOff := 0, len := 64, form := 1, dest := 0x10000, nonce := [], tag := [], hash := [], reserved := false }], layers := [{ seq := 1, first := 0, count := 1, reserved := false }, { seq := 2, first := 1, count := 1, reserved := false }] }, bias := 65536, layers := [1, 2] } : Repl).block + 120) = pkg replacementRuns1_s.chip ∧
    ({ block := 0x80100000800, peers := [0], man := { setUid := 5, kind := 1, firstSeq := 1, lastSeq := 2, shards := [{ flashOff := 0, len := 64, form := 1, dest := 0x10000, nonce := [], tag := [], hash := [], reserved := false }, { flashOff := 0, len := 64, form := 1, dest := 0x10000, nonce := [], tag := [], hash := [], reserved := false }], layers := [{ seq := 1, first := 0, count := 1, reserved := false }, { seq := 2, first := 1, count := 1, reserved := false }] }, bias := 65536, layers := [1, 2] } : Repl).armed = false ∧
    tickLe (armTick replacementRuns1_s.chip (2 : Fin 16).val) (tickOf replacementRuns1_s.chip) = true ∧
    ticking replacementRuns1_s.chip = true) ∧
    NoRunAhead replacementRuns1_s.chip :=
  ⟨by decide +kernel, by unfold NoRunAhead; decide +kernel⟩

def replacementRuns2_s : State := st (chipOf [(rSet 2 0, 0x13), (rSet 2 1, 9), (0x20C0C, 1), (rTick, 100)] { on with ms := { queue := [], repls := [(2, { block := 0x80100000800, peers := [0], man := { setUid := 5, kind := 1, firstSeq := 1, lastSeq := 2, shards := [{ flashOff := 0, len := 64, form := 1, dest := 0x10000, nonce := [], tag := [], hash := [], reserved := false }, { flashOff := 0, len := 64, form := 1, dest := 0x10000, nonce := [], tag := [], hash := [], reserved := false }], layers := [{ seq := 1, first := 0, count := 1, reserved := false }, { seq := 2, first := 1, count := 1, reserved := false }] }, bias := 65536, layers := [1, 2], armed := true })] } })
theorem wit_replacementRuns2 :
    tabFind replacementRuns2_s.chip.ms.repls (2 : Fin 16).val = some ({ block := 0x80100000800, peers := [0], man := { setUid := 5, kind := 1, firstSeq := 1, lastSeq := 2, shards := [{ flashOff := 0, len := 64, form := 1, dest := 0x10000, nonce := [], tag := [], hash := [], reserved := false }, { flashOff := 0, len := 64, form := 1, dest := 0x10000, nonce := [], tag := [], hash := [], reserved := false }], layers := [{ seq := 1, first := 0, count := 1, reserved := false }, { seq := 2, first := 1, count := 1, reserved := false }] }, bias := 65536, layers := [1, 2], armed := true } : Repl) ∧
    pkgOf (({ block := 0x80100000800, peers := [0], man := { setUid := 5, kind := 1, firstSeq := 1, lastSeq := 2, shards := [{ flashOff := 0, len := 64, form := 1, dest := 0x10000, nonce := [], tag := [], hash := [], reserved := false }, { flashOff := 0, len := 64, form := 1, dest := 0x10000, nonce := [], tag := [], hash := [], reserved := false }], layers := [{ seq := 1, first := 0, count := 1, reserved := false }, { seq := 2, first := 1, count := 1, reserved := false }] }, bias := 65536, layers := [1, 2], armed := true } : Repl).block + 120) = pkg replacementRuns2_s.chip ∧
    ({ block := 0x80100000800, peers := [0], man := { setUid := 5, kind := 1, firstSeq := 1, lastSeq := 2, shards := [{ flashOff := 0, len := 64, form := 1, dest := 0x10000, nonce := [], tag := [], hash := [], reserved := false }, { flashOff := 0, len := 64, form := 1, dest := 0x10000, nonce := [], tag := [], hash := [], reserved := false }], layers := [{ seq := 1, first := 0, count := 1, reserved := false }, { seq := 2, first := 1, count := 1, reserved := false }] }, bias := 65536, layers := [1, 2], armed := true } : Repl).armed = true ∧
    ({ block := 0x80100000800, peers := [0], man := { setUid := 5, kind := 1, firstSeq := 1, lastSeq := 2, shards := [{ flashOff := 0, len := 64, form := 1, dest := 0x10000, nonce := [], tag := [], hash := [], reserved := false }, { flashOff := 0, len := 64, form := 1, dest := 0x10000, nonce := [], tag := [], hash := [], reserved := false }], layers := [{ seq := 1, first := 0, count := 1, reserved := false }, { seq := 2, first := 1, count := 1, reserved := false }] }, bias := 65536, layers := [1, 2], armed := true } : Repl).copying = none ∧
    ({ block := 0x80100000800, peers := [0], man := { setUid := 5, kind := 1, firstSeq := 1, lastSeq := 2, shards := [{ flashOff := 0, len := 64, form := 1, dest := 0x10000, nonce := [], tag := [], hash := [], reserved := false }, { flashOff := 0, len := 64, form := 1, dest := 0x10000, nonce := [], tag := [], hash := [], reserved := false }], layers := [{ seq := 1, first := 0, count := 1, reserved := false }, { seq := 2, first := 1, count := 1, reserved := false }] }, bias := 65536, layers := [1, 2], armed := true } : Repl).layers = (1 : Nat) :: ([2] : List Nat) ∧
    earlyItems replacementRuns2_s.chip (2 : Fin 16).val (1 : Nat) = false ∧
    (∀ p ∈ replacementRuns2_s.chip.recs, meets (layerDests replacementRuns2_s.chip ({ block := 0x80100000800, peers := [0], man := { setUid := 5, kind := 1, firstSeq := 1, lastSeq := 2, shards := [{ flashOff := 0, len := 64, form := 1, dest := 0x10000, nonce := [], tag := [], hash := [], reserved := false }, { flashOff := 0, len := 64, form := 1, dest := 0x10000, nonce := [], tag := [], hash := [], reserved := false }], layers := [{ seq := 1, first := 0, count := 1, reserved := false }, { seq := 2, first := 1, count := 1, reserved := false }] }, bias := 65536, layers := [1, 2], armed := true } : Repl).man (1 : Nat)) p.2.down (p.2.len64 * 64) = false ∧ meets (layerDests replacementRuns2_s.chip ({ block := 0x80100000800, peers := [0], man := { setUid := 5, kind := 1, firstSeq := 1, lastSeq := 2, shards := [{ flashOff := 0, len := 64, form := 1, dest := 0x10000, nonce := [], tag := [], hash := [], reserved := false }, { flashOff := 0, len := 64, form := 1, dest := 0x10000, nonce := [], tag := [], hash := [], reserved := false }], layers := [{ seq := 1, first := 0, count := 1, reserved := false }, { seq := 2, first := 1, count := 1, reserved := false }] }, bias := 65536, layers := [1, 2], armed := true } : Repl).man (1 : Nat)) p.2.up (p.2.len64 * 64) = false) :=
  by decide +kernel

def replacementRuns3_s : State := st (chipOf [(rSet 2 0, 0x13), (rSet 2 1, 9), (0x20C0C, 1), (rTick, 100)] { on with ms := { queue := [], repls := [(2, { block := 0x80100000800, peers := [0], man := { setUid := 5, kind := 1, firstSeq := 1, lastSeq := 2, shards := [{ flashOff := 0, len := 64, form := 1, dest := 0x10000, nonce := [], tag := [], hash := [], reserved := false }, { flashOff := 0, len := 64, form := 1, dest := 0x10000, nonce := [], tag := [], hash := [], reserved := false }], layers := [{ seq := 1, first := 0, count := 1, reserved := false }, { seq := 2, first := 1, count := 1, reserved := false }] }, bias := 65536, layers := [1, 2], armed := true, copying := some 1 })] }, mem := memWriteN [] 0x20000 [5, 6] })
theorem wit_replacementRuns3 :
    tabFind replacementRuns3_s.chip.ms.repls (2 : Fin 16).val = some ({ block := 0x80100000800, peers := [0], man := { setUid := 5, kind := 1, firstSeq := 1, lastSeq := 2, shards := [{ flashOff := 0, len := 64, form := 1, dest := 0x10000, nonce := [], tag := [], hash := [], reserved := false }, { flashOff := 0, len := 64, form := 1, dest := 0x10000, nonce := [], tag := [], hash := [], reserved := false }], layers := [{ seq := 1, first := 0, count := 1, reserved := false }, { seq := 2, first := 1, count := 1, reserved := false }] }, bias := 65536, layers := [1, 2], armed := true, copying := some 1 } : Repl) ∧
    pkgOf (({ block := 0x80100000800, peers := [0], man := { setUid := 5, kind := 1, firstSeq := 1, lastSeq := 2, shards := [{ flashOff := 0, len := 64, form := 1, dest := 0x10000, nonce := [], tag := [], hash := [], reserved := false }, { flashOff := 0, len := 64, form := 1, dest := 0x10000, nonce := [], tag := [], hash := [], reserved := false }], layers := [{ seq := 1, first := 0, count := 1, reserved := false }, { seq := 2, first := 1, count := 1, reserved := false }] }, bias := 65536, layers := [1, 2], armed := true, copying := some 1 } : Repl).block + 120) = pkg replacementRuns3_s.chip ∧
    ({ block := 0x80100000800, peers := [0], man := { setUid := 5, kind := 1, firstSeq := 1, lastSeq := 2, shards := [{ flashOff := 0, len := 64, form := 1, dest := 0x10000, nonce := [], tag := [], hash := [], reserved := false }, { flashOff := 0, len := 64, form := 1, dest := 0x10000, nonce := [], tag := [], hash := [], reserved := false }], layers := [{ seq := 1, first := 0, count := 1, reserved := false }, { seq := 2, first := 1, count := 1, reserved := false }] }, bias := 65536, layers := [1, 2], armed := true, copying := some 1 } : Repl).copying = some (1 : Nat) ∧
    1 < ({ block := 0x80100000800, peers := [0], man := { setUid := 5, kind := 1, firstSeq := 1, lastSeq := 2, shards := [{ flashOff := 0, len := 64, form := 1, dest := 0x10000, nonce := [], tag := [], hash := [], reserved := false }, { flashOff := 0, len := 64, form := 1, dest := 0x10000, nonce := [], tag := [], hash := [], reserved := false }], layers := [{ seq := 1, first := 0, count := 1, reserved := false }, { seq := 2, first := 1, count := 1, reserved := false }] }, bias := 65536, layers := [1, 2], armed := true, copying := some 1 } : Repl).layers.length ∧
    replacementRuns3_s.chip.ecc = [] ∧
    (∀ x ∈ layerShards ({ block := 0x80100000800, peers := [0], man := { setUid := 5, kind := 1, firstSeq := 1, lastSeq := 2, shards := [{ flashOff := 0, len := 64, form := 1, dest := 0x10000, nonce := [], tag := [], hash := [], reserved := false }, { flashOff := 0, len := 64, form := 1, dest := 0x10000, nonce := [], tag := [], hash := [], reserved := false }], layers := [{ seq := 1, first := 0, count := 1, reserved := false }, { seq := 2, first := 1, count := 1, reserved := false }] }, bias := 65536, layers := [1, 2], armed := true, copying := some 1 } : Repl).man (1 : Nat), pkgOf (sys replacementRuns3_s.chip (x.dest.toNat + ({ block := 0x80100000800, peers := [0], man := { setUid := 5, kind := 1, firstSeq := 1, lastSeq := 2, shards := [{ flashOff := 0, len := 64, form := 1, dest := 0x10000, nonce := [], tag := [], hash := [], reserved := false }, { flashOff := 0, len := 64, form := 1, dest := 0x10000, nonce := [], tag := [], hash := [], reserved := false }], layers := [{ seq := 1, first := 0, count := 1, reserved := false }, { seq := 2, first := 1, count := 1, reserved := false }] }, bias := 65536, layers := [1, 2], armed := true, copying := some 1 } : Repl).bias)) = pkg replacementRuns3_s.chip) :=
  by decide +kernel

def replacementRuns4_s : State := st (chipOf [(rSet 2 0, 0x13), (rSet 2 1, 9), (0x20C0C, 1), (rTick, 100)] { on with ms := { queue := [], repls := [(2, { block := 0x80100000800, peers := [0], man := { setUid := 5, kind := 1, firstSeq := 1, lastSeq := 2, shards := [{ flashOff := 0, len := 64, form := 1, dest := 0x10000, nonce := [], tag := [], hash := [], reserved := false }, { flashOff := 0, len := 64, form := 1, dest := 0x10000, nonce := [], tag := [], hash := [], reserved := false }], layers := [{ seq := 1, first := 0, count := 1, reserved := false }, { seq := 2, first := 1, count := 1, reserved := false }] }, bias := 65536, layers := [1, 2], armed := true })] } })
theorem wit_replacementRuns4 :
    (tabFind replacementRuns4_s.chip.ms.repls (2 : Fin 16).val = some ({ block := 0x80100000800, peers := [0], man := { setUid := 5, kind := 1, firstSeq := 1, lastSeq := 2, shards := [{ flashOff := 0, len := 64, form := 1, dest := 0x10000, nonce := [], tag := [], hash := [], reserved := false }, { flashOff := 0, len := 64, form := 1, dest := 0x10000, nonce := [], tag := [], hash := [], reserved := false }], layers := [{ seq := 1, first := 0, count := 1, reserved := false }, { seq := 2, first := 1, count := 1, reserved := false }] }, bias := 65536, layers := [1, 2], armed := true } : Repl) ∧
    pkgOf (({ block := 0x80100000800, peers := [0], man := { setUid := 5, kind := 1, firstSeq := 1, lastSeq := 2, shards := [{ flashOff := 0, len := 64, form := 1, dest := 0x10000, nonce := [], tag := [], hash := [], reserved := false }, { flashOff := 0, len := 64, form := 1, dest := 0x10000, nonce := [], tag := [], hash := [], reserved := false }], layers := [{ seq := 1, first := 0, count := 1, reserved := false }, { seq := 2, first := 1, count := 1, reserved := false }] }, bias := 65536, layers := [1, 2], armed := true } : Repl).block + 120) = pkg replacementRuns4_s.chip ∧
    coordinator replacementRuns4_s.chip ({ block := 0x80100000800, peers := [0], man := { setUid := 5, kind := 1, firstSeq := 1, lastSeq := 2, shards := [{ flashOff := 0, len := 64, form := 1, dest := 0x10000, nonce := [], tag := [], hash := [], reserved := false }, { flashOff := 0, len := 64, form := 1, dest := 0x10000, nonce := [], tag := [], hash := [], reserved := false }], layers := [{ seq := 1, first := 0, count := 1, reserved := false }, { seq := 2, first := 1, count := 1, reserved := false }] }, bias := 65536, layers := [1, 2], armed := true } : Repl) = some (pkg replacementRuns4_s.chip) ∧
    (∀ q ∈ ({ block := 0x80100000800, peers := [0], man := { setUid := 5, kind := 1, firstSeq := 1, lastSeq := 2, shards := [{ flashOff := 0, len := 64, form := 1, dest := 0x10000, nonce := [], tag := [], hash := [], reserved := false }, { flashOff := 0, len := 64, form := 1, dest := 0x10000, nonce := [], tag := [], hash := [], reserved := false }], layers := [{ seq := 1, first := 0, count := 1, reserved := false }, { seq := 2, first := 1, count := 1, reserved := false }] }, bias := 65536, layers := [1, 2], armed := true } : Repl).peers, fenced replacementRuns4_s.chip q = true ∨ q = (0 : BitVec 4).toNat ∨ q ∈ ({ block := 0x80100000800, peers := [0], man := { setUid := 5, kind := 1, firstSeq := 1, lastSeq := 2, shards := [{ flashOff := 0, len := 64, form := 1, dest := 0x10000, nonce := [], tag := [], hash := [], reserved := false }, { flashOff := 0, len := 64, form := 1, dest := 0x10000, nonce := [], tag := [], hash := [], reserved := false }], layers := [{ seq := 1, first := 0, count := 1, reserved := false }, { seq := 2, first := 1, count := 1, reserved := false }] }, bias := 65536, layers := [1, 2], armed := true } : Repl).dones)) ∧
    FirstCopy replacementRuns4_s.chip (0 : BitVec 4) (3 : BitVec 16) ∧
    NoRunAhead replacementRuns4_s.chip :=
  ⟨by decide +kernel, by unfold FirstCopy; decide +kernel, by unfold NoRunAhead; decide +kernel⟩

def replacementRuns5_s : State := st (chipOf [(rSet 2 0, 0x13), (rSet 2 1, 9), (0x20C0C, 1), (rTick, 100), (rMembers, 3)] { on with ms := { queue := [], repls := [(2, { block := 0x80100000800, peers := [0], man := { setUid := 5, kind := 1, firstSeq := 1, lastSeq := 2, shards := [{ flashOff := 0, len := 64, form := 1, dest := 0x10000, nonce := [], tag := [], hash := [], reserved := false }, { flashOff := 0, len := 64, form := 1, dest := 0x10000, nonce := [], tag := [], hash := [], reserved := false }], layers := [{ seq := 1, first := 0, count := 1, reserved := false }, { seq := 2, first := 1, count := 1, reserved := false }] }, bias := 65536, layers := [1, 2], armed := true })] } })
theorem wit_replacementRuns5 :
    (tabFind replacementRuns5_s.chip.ms.repls (2 : Fin 16).val = some ({ block := 0x80100000800, peers := [0], man := { setUid := 5, kind := 1, firstSeq := 1, lastSeq := 2, shards := [{ flashOff := 0, len := 64, form := 1, dest := 0x10000, nonce := [], tag := [], hash := [], reserved := false }, { flashOff := 0, len := 64, form := 1, dest := 0x10000, nonce := [], tag := [], hash := [], reserved := false }], layers := [{ seq := 1, first := 0, count := 1, reserved := false }, { seq := 2, first := 1, count := 1, reserved := false }] }, bias := 65536, layers := [1, 2], armed := true } : Repl) ∧
    pkgOf (({ block := 0x80100000800, peers := [0], man := { setUid := 5, kind := 1, firstSeq := 1, lastSeq := 2, shards := [{ flashOff := 0, len := 64, form := 1, dest := 0x10000, nonce := [], tag := [], hash := [], reserved := false }, { flashOff := 0, len := 64, form := 1, dest := 0x10000, nonce := [], tag := [], hash := [], reserved := false }], layers := [{ seq := 1, first := 0, count := 1, reserved := false }, { seq := 2, first := 1, count := 1, reserved := false }] }, bias := 65536, layers := [1, 2], armed := true } : Repl).block + 120) = pkg replacementRuns5_s.chip) ∧
    FirstCopy replacementRuns5_s.chip (1 : BitVec 4) (3 : BitVec 16) ∧
    NoRunAhead replacementRuns5_s.chip :=
  ⟨by decide +kernel, by unfold FirstCopy; decide +kernel, by unfold NoRunAhead; decide +kernel⟩

def replacementRuns6_s : State := st (chipOf [(rSet 2 0, 0x13), (rSet 2 1, 9), (0x20C0C, 1), (rTick, 100)] { on with ms := { queue := [], repls := [(2, { block := 0x80100000800, peers := [0], man := { setUid := 5, kind := 1, firstSeq := 1, lastSeq := 2, shards := [{ flashOff := 0, len := 64, form := 1, dest := 0x10000, nonce := [], tag := [], hash := [], reserved := false }, { flashOff := 0, len := 64, form := 1, dest := 0x10000, nonce := [], tag := [], hash := [], reserved := false }], layers := [{ seq := 1, first := 0, count := 1, reserved := false }, { seq := 2, first := 1, count := 1, reserved := false }] }, bias := 65536, layers := [1, 2], armed := true })] } })
theorem wit_replacementRuns6 :
    tabFind replacementRuns6_s.chip.ms.repls (2 : Fin 16).val = some ({ block := 0x80100000800, peers := [0], man := { setUid := 5, kind := 1, firstSeq := 1, lastSeq := 2, shards := [{ flashOff := 0, len := 64, form := 1, dest := 0x10000, nonce := [], tag := [], hash := [], reserved := false }, { flashOff := 0, len := 64, form := 1, dest := 0x10000, nonce := [], tag := [], hash := [], reserved := false }], layers := [{ seq := 1, first := 0, count := 1, reserved := false }, { seq := 2, first := 1, count := 1, reserved := false }] }, bias := 65536, layers := [1, 2], armed := true } : Repl) ∧
    pkgOf (({ block := 0x80100000800, peers := [0], man := { setUid := 5, kind := 1, firstSeq := 1, lastSeq := 2, shards := [{ flashOff := 0, len := 64, form := 1, dest := 0x10000, nonce := [], tag := [], hash := [], reserved := false }, { flashOff := 0, len := 64, form := 1, dest := 0x10000, nonce := [], tag := [], hash := [], reserved := false }], layers := [{ seq := 1, first := 0, count := 1, reserved := false }, { seq := 2, first := 1, count := 1, reserved := false }] }, bias := 65536, layers := [1, 2], armed := true } : Repl).block + 120) = pkg replacementRuns6_s.chip ∧
    ({ block := 0x80100000800, peers := [0], man := { setUid := 5, kind := 1, firstSeq := 1, lastSeq := 2, shards := [{ flashOff := 0, len := 64, form := 1, dest := 0x10000, nonce := [], tag := [], hash := [], reserved := false }, { flashOff := 0, len := 64, form := 1, dest := 0x10000, nonce := [], tag := [], hash := [], reserved := false }], layers := [{ seq := 1, first := 0, count := 1, reserved := false }, { seq := 2, first := 1, count := 1, reserved := false }] }, bias := 65536, layers := [1, 2], armed := true } : Repl).armed = true ∧
    ({ block := 0x80100000800, peers := [0], man := { setUid := 5, kind := 1, firstSeq := 1, lastSeq := 2, shards := [{ flashOff := 0, len := 64, form := 1, dest := 0x10000, nonce := [], tag := [], hash := [], reserved := false }, { flashOff := 0, len := 64, form := 1, dest := 0x10000, nonce := [], tag := [], hash := [], reserved := false }], layers := [{ seq := 1, first := 0, count := 1, reserved := false }, { seq := 2, first := 1, count := 1, reserved := false }] }, bias := 65536, layers := [1, 2], armed := true } : Repl).stuck = false :=
  by decide +kernel

/-! Obligations.AdapterSwitches -/

def adapterSwitches1_s : State := st (chipOf [(rTick, 100), (rCxAdir 0, 0x20000), (rCxAdir 2, 0x20000)] { on with ms := { queue := [{ addr := 0x80100000400, w := [0x50027, 0x0, 0x0, 0x300000065, 0x5, 0x0, 0x0, 0x0, 0x7, 0x0, 0x5, 0x0, 0x0, 0x0, 0x0, 0x0], master := 1 }] } })
theorem wit_adapterSwitches1 :
    (fld (({ addr := 0x80100000400, w := [0x50027, 0x0, 0x0, 0x300000065, 0x5, 0x0, 0x0, 0x0, 0x7, 0x0, 0x5, 0x0, 0x0, 0x0, 0x0, 0x0], master := 1 } : Block).w.getD 10 0) 0 16 = ({ addr := 0x80100000400, w := [0x50027, 0x0, 0x0, 0x300000065, 0x5, 0x0, 0x0, 0x0, 0x7, 0x0, 0x5, 0x0, 0x0, 0x0, 0x0, 0x0], master := 1 } : Block).job ∧
    ({ addr := 0x80100000400, w := [0x50027, 0x0, 0x0, 0x300000065, 0x5, 0x0, 0x0, 0x0, 0x7, 0x0, 0x5, 0x0, 0x0, 0x0, 0x0, 0x0], master := 1 } : Block).f 4 0 32 ≠ 0 ∧
    (∀ n, n < 32 → bit (({ addr := 0x80100000400, w := [0x50027, 0x0, 0x0, 0x300000065, 0x5, 0x0, 0x0, 0x0, 0x7, 0x0, 0x5, 0x0, 0x0, 0x0, 0x0, 0x0], master := 1 } : Block).f 4 0 32) n = true → bit (getReg adapterSwitches1_s.chip (rCxAdir n)) 17 = true) ∧
    (∀ w ∈ adapterSwitches1_s.chip.ms.switches, w.job ≠ ({ addr := 0x80100000400, w := [0x50027, 0x0, 0x0, 0x300000065, 0x5, 0x0, 0x0, 0x0, 0x7, 0x0, 0x5, 0x0, 0x0, 0x0, 0x0, 0x0], master := 1 } : Block).job ∨ w.adapter ≠ ({ addr := 0x80100000400, w := [0x50027, 0x0, 0x0, 0x300000065, 0x5, 0x0, 0x0, 0x0, 0x7, 0x0, 0x5, 0x0, 0x0, 0x0, 0x0, 0x0], master := 1 } : Block).f 3 32 7) ∧
    tickBefore (tickOf adapterSwitches1_s.chip) (({ addr := 0x80100000400, w := [0x50027, 0x0, 0x0, 0x300000065, 0x5, 0x0, 0x0, 0x0, 0x7, 0x0, 0x5, 0x0, 0x0, 0x0, 0x0, 0x0], master := 1 } : Block).f 3 0 32) = true) ∧
    OldestCommand adapterSwitches1_s 7 ({ addr := 0x80100000400, w := [0x50027, 0x0, 0x0, 0x300000065, 0x5, 0x0, 0x0, 0x0, 0x7, 0x0, 0x5, 0x0, 0x0, 0x0, 0x0, 0x0], master := 1 } : Block) ([] : List Block) :=
  ⟨by decide +kernel, by unfold OldestCommand; decide +kernel⟩

def adapterSwitches2_s : State := st (chipOf [(rTick, 100), (rCxAdir 0, 0x20010), (rCxAdir 2, 0x20020)] { on with ms := { queue := [], switches := [{ block := 0x80100000800, job := 5, adapter := 3, tick := 100, basins := 5, entry := [1, 2, 3, 4] }] } })
theorem wit_adapterSwitches2 :
    adapterSwitches2_s.chip.ms.switches[(0 : Nat)]? = some ({ block := 0x80100000800, job := 5, adapter := 3, tick := 100, basins := 5, entry := [1, 2, 3, 4] } : Switch) ∧
    pkgOf (({ block := 0x80100000800, job := 5, adapter := 3, tick := 100, basins := 5, entry := [1, 2, 3, 4] } : Switch).block + 120) = pkg adapterSwitches2_s.chip ∧
    tickLe ({ block := 0x80100000800, job := 5, adapter := 3, tick := 100, basins := 5, entry := [1, 2, 3, 4] } : Switch).tick (tickOf adapterSwitches2_s.chip) = true ∧
    itemsBefore adapterSwitches2_s.chip ({ block := 0x80100000800, job := 5, adapter := 3, tick := 100, basins := 5, entry := [1, 2, 3, 4] } : Switch).job ({ block := 0x80100000800, job := 5, adapter := 3, tick := 100, basins := 5, entry := [1, 2, 3, 4] } : Switch).tick = 0 ∧
    guestsBefore adapterSwitches2_s.chip ({ block := 0x80100000800, job := 5, adapter := 3, tick := 100, basins := 5, entry := [1, 2, 3, 4] } : Switch).job ({ block := 0x80100000800, job := 5, adapter := 3, tick := 100, basins := 5, entry := [1, 2, 3, 4] } : Switch).tick = 0 ∧
    adapterSwitches2_s.chip.ms.switches.filter (fun y => y.job == ({ block := 0x80100000800, job := 5, adapter := 3, tick := 100, basins := 5, entry := [1, 2, 3, 4] } : Switch).job && y.tick == ({ block := 0x80100000800, job := 5, adapter := 3, tick := 100, basins := 5, entry := [1, 2, 3, 4] } : Switch).tick) = [({ block := 0x80100000800, job := 5, adapter := 3, tick := 100, basins := 5, entry := [1, 2, 3, 4] } : Switch)] :=
  by decide +kernel

/-! TrainingStartsAndEnds, in Obligations.LinksComeAndGo -/

def trainingStartsAndEnds1_s : State := st on
theorem wit_trainingStartsAndEnds1 :
    (1 : Master).toNat ≤ 3 ∧
    hubOn trainingStartsAndEnds1_s.chip = true ∧
    bit (1 : BitVec 32).toNat 0 = true ∧
    bit (1 : BitVec 32).toNat 1 = false ∧
    linkState trainingStartsAndEnds1_s.chip (0 : Fin 12) ≠ 2 ∧
    trainingStartsAndEnds1_s.chip.fab.selfFenced = false ∧
    modeOf trainingStartsAndEnds1_s.chip = 0 :=
  by decide +kernel

def trainingStartsAndEnds2_s : State := st (chipOf [(rMembers, 3), (rLinkStatus 0, 1)] on)
theorem wit_trainingStartsAndEnds2 :
    linkState trainingStartsAndEnds2_s.chip (0 : Fin 12) = 1 ∧
    ({ stagesOk := true, pkg := 1, link := 4, nonce := 77, rtt := 175 } : Ident).stagesOk = true ∧
    ({ stagesOk := true, pkg := 1, link := 4, nonce := 77, rtt := 175 } : Ident).pkg.toNat = linkPartner trainingStartsAndEnds2_s.chip (0 : Fin 12) ∧
    ({ stagesOk := true, pkg := 1, link := 4, nonce := 77, rtt := 175 } : Ident).link.toNat = linkBack (0 : Fin 12) ∧
    member trainingStartsAndEnds2_s.chip ({ stagesOk := true, pkg := 1, link := 4, nonce := 77, rtt := 175 } : Ident).pkg.toNat = true ∧
    ({ stagesOk := true, pkg := 1, link := 4, nonce := 77, rtt := 175 } : Ident).rtt.toNat ≤ 175 :=
  by decide +kernel

def trainingStartsAndEnds3_s : State := st (chipOf [(rMembers, 3), (rLinkStatus 0, 1)] on)
theorem wit_trainingStartsAndEnds3 :
    linkState trainingStartsAndEnds3_s.chip (0 : Fin 12) = 1 ∧
    ({ stagesOk := true, pkg := 2, link := 4, nonce := 77, rtt := 175 } : Ident).stagesOk = true ∧
    (({ stagesOk := true, pkg := 2, link := 4, nonce := 77, rtt := 175 } : Ident).pkg.toNat ≠ linkPartner trainingStartsAndEnds3_s.chip (0 : Fin 12) ∨ ({ stagesOk := true, pkg := 2, link := 4, nonce := 77, rtt := 175 } : Ident).link.toNat ≠ linkBack (0 : Fin 12)) :=
  by decide +kernel

def trainingStartsAndEnds4_s : State := st (chipOf [(rMembers, 3), (rLinkStatus 0, 1)] on)
theorem wit_trainingStartsAndEnds4 :
    linkState trainingStartsAndEnds4_s.chip (0 : Fin 12) = 1 :=
  by decide +kernel

/-! SpareLinksGoDown, in Obligations.LinksComeAndGo -/

def spareLinksGoDown1_s : State := st (chipOf [(rMembers, 3), (rLinkStatus 0, 2), (rLinkStatus 1, 2), (rPartner 1, 2)] on)
theorem wit_spareLinksGoDown1 :
    ((1 : Master).toNat ≤ 3 ∧
    hubOn spareLinksGoDown1_s.chip = true ∧
    bit (2 : BitVec 32).toNat 0 = false ∧
    bit (2 : BitVec 32).toNat 1 = true) ∧
    SpareLink spareLinksGoDown1_s.chip (0 : Fin 12) ∧
    RoutesHold spareLinksGoDown1_s.chip :=
  ⟨by decide +kernel, by unfold SpareLink; decide +kernel, by unfold RoutesHold; decide +kernel⟩

def spareLinksGoDown2_s : State := st (chipOf [(rMembers, 3), (rLinkStatus 0, 2), (rLinkStatus 1, 2), (rPartner 1, 2)] on)
theorem wit_spareLinksGoDown2 :
    SpareLink spareLinksGoDown2_s.chip (0 : Fin 12) ∧
    RoutesHold spareLinksGoDown2_s.chip :=
  ⟨by unfold SpareLink; decide +kernel, by unfold RoutesHold; decide +kernel⟩

def spareLinksGoDown3_s : State := st (chipOf [(rMembers, 3), (rLinkStatus 0, 2), (rLinkStatus 1, 2), (rPartner 1, 2)] on)
theorem wit_spareLinksGoDown3 :
    linkState spareLinksGoDown3_s.chip (0 : Fin 12) = 2 ∧
    SpareLink spareLinksGoDown3_s.chip (0 : Fin 12) ∧
    RoutesHold spareLinksGoDown3_s.chip :=
  ⟨by decide +kernel, by unfold SpareLink; decide +kernel, by unfold RoutesHold; decide +kernel⟩

/-! LinkTimersAndConfirmations, in Obligations.LinksKeepOrder -/

def linkTimersAndConfirmations1_s : State := st (chipOf [(rMembers, 3), (rLinkStatus 0, 2), (rPartner 1, 2)] { on with fab := { on.fab with links := on.fab.links.set 0 { replay := [{ ty := 2, dst := 1 }, { ty := 2, seq := 1 }] } } })
theorem wit_linkTimersAndConfirmations1 :
    linkState linkTimersAndConfirmations1_s.chip (0 : Fin 12) = 2 ∧
    linkTimersAndConfirmations1_s.chip.fab.links[(0 : Fin 12)].replay ≠ [] ∧
    (linkTimersAndConfirmations1_s.chip.fab.links[(0 : Fin 12)].runs = 0 ∨ linkTimersAndConfirmations1_s.chip.fab.links[(0 : Fin 12)].runs < linkTimersAndConfirmations1_s.chip.fab.links[(0 : Fin 12)].runMax) :=
  by decide +kernel

def linkTimersAndConfirmations2_s : State := st (chipOf [(rMembers, 3), (rLinkStatus 0, 2), (rPartner 1, 2)] { on with fab := { on.fab with links := on.fab.links.set 0 { since := 3, expect := 4095 } } })
theorem wit_linkTimersAndConfirmations2 :
    linkState linkTimersAndConfirmations2_s.chip (0 : Fin 12) = 2 ∧
    linkTimersAndConfirmations2_s.chip.fab.selfFenced = false ∧
    linkTimersAndConfirmations2_s.chip.fab.links[(0 : Fin 12)].since ≠ 0 ∧
    linkTimersAndConfirmations2_s.chip.fab.links[(0 : Fin 12)].returns = Vector.replicate 4 0 :=
  by decide +kernel

def linkTimersAndConfirmations3_s : State := st (chipOf [(rMembers, 3), (rLinkStatus 0, 2), (rPartner 1, 2)] on)
theorem wit_linkTimersAndConfirmations3 :
    linkState linkTimersAndConfirmations3_s.chip (0 : Fin 12) = 2 ∧
    linkTimersAndConfirmations3_s.chip.fab.selfFenced = false :=
  by decide +kernel

def linkTimersAndConfirmations4_s : State := st (chipOf [(rMembers, 3), (rLinkStatus 0, 2), (rPartner 1, 3)] on)
theorem wit_linkTimersAndConfirmations4 :
    fenced linkTimersAndConfirmations4_s.chip (1 : BitVec 4).toNat = true :=
  by decide +kernel

def linkTimersAndConfirmations5_s : State := st (chipOf [(rMembers, 3), (rLinkStatus 0, 2), (rPartner 1, 2)] { on with fab := { on.fab with confirms := [{ tag := 3, left := [1], msg := .ready 5 6 }, { tag := 4, left := [1, 2], msg := .ready 5 6 }] } })
theorem wit_linkTimersAndConfirmations5 :
    fenced linkTimersAndConfirmations5_s.chip (1 : BitVec 4).toNat = false :=
  by decide +kernel

def linkTimersAndConfirmations6_s : State := st (chipOf [(rMembers, 3), (rLinkStatus 0, 2), (rPartner 1, 2)] { on with fab := { on.fab with confirms := [{ tag := 3, left := [1, 2], msg := .ready 5 6 }] } })
theorem wit_linkTimersAndConfirmations6 :
    linkTimersAndConfirmations6_s.chip.fab.confirms.find? (fun y => y.tag == (3 : BitVec 16).toNat) = some ({ tag := 3, left := [1, 2], msg := .ready 5 6 } : Confirmed) :=
  by decide +kernel

/-! FlitsAreNumbered, in Obligations.LinksKeepOrder -/

def flitsAreNumbered1_s : State := st (chipOf [(rMembers, 3), (rLinkStatus 0, 2), (rPartner 1, 2)] { on with fab := { on.fab with links := on.fab.links.set 0 { ceAt := 5, ce := #v[0, 20, 7, 9] } }, upNs := 5000000 })
theorem wit_flitsAreNumbered1 :
    (linkState flitsAreNumbered1_s.chip (0 : Fin 12) = 2 ∧
    flitsAreNumbered1_s.chip.fab.selfFenced = false ∧
    (sealed { ty := 0, src := 1, ce := [0, 3, 1, 0] } : Flit).ce.sum ≠ 0 ∧
    (sealed { ty := 0, src := 1, ce := [0, 3, 1, 0] } : Flit).ty = 0 ∧
    (sealed { ty := 0, src := 1, ce := [0, 3, 1, 0] } : Flit).ackV = false ∧
    flitsAreNumbered1_s.chip.fab.links[(0 : Fin 12)].waiting = [] ∧
    (∀ i : Fin 4, (if flitsAreNumbered1_s.chip.fab.links[(0 : Fin 12)].ceAt = flitsAreNumbered1_s.chip.upNs / 1000000 then flitsAreNumbered1_s.chip.fab.links[(0 : Fin 12)].ce[i] else 0) + (sealed { ty := 0, src := 1, ce := [0, 3, 1, 0] } : Flit).ce.getD i.val 0 ≤ getF flitsAreNumbered1_s.chip rThCfg 8 8 * 1024)) ∧
    flitOk (sealed { ty := 0, src := 1, ce := [0, 3, 1, 0] } : Flit) = true :=
  ⟨by decide +kernel, flitOk_of (by decide +kernel)⟩

def flitsAreNumbered2_s : State := st (chipOf [(rMembers, 3), (rLinkStatus 0, 2), (rLinkStatus 1, 2), (rPartner 1, 2)] { on with fab := { on.fab with links := on.fab.links.set 0 { ceAt := 5, ce := #v[0, 65534, 7, 9] } }, upNs := 5000000 })
theorem wit_flitsAreNumbered2 :
    (linkState flitsAreNumbered2_s.chip (0 : Fin 12) = 2 ∧
    flitsAreNumbered2_s.chip.fab.selfFenced = false ∧
    (sealed { ty := 0, src := 1, ce := [0, 3, 1, 0] } : Flit).ce.sum ≠ 0 ∧
    (sealed { ty := 0, src := 1, ce := [0, 3, 1, 0] } : Flit).ty = 0 ∧
    flitsAreNumbered2_s.chip.fab.links[(0 : Fin 12)].ceAt = flitsAreNumbered2_s.chip.upNs / 1000000 ∧
    getF flitsAreNumbered2_s.chip rThCfg 8 8 * 1024 < flitsAreNumbered2_s.chip.fab.links[(0 : Fin 12)].ce[(1 : Fin 4)] + (sealed { ty := 0, src := 1, ce := [0, 3, 1, 0] } : Flit).ce.getD (1 : Fin 4).val 0 ∧
    (∀ j : Fin 4, j < (1 : Fin 4) → flitsAreNumbered2_s.chip.fab.links[(0 : Fin 12)].ce[j] + (sealed { ty := 0, src := 1, ce := [0, 3, 1, 0] } : Flit).ce.getD j.val 0 ≤ getF flitsAreNumbered2_s.chip rThCfg 8 8 * 1024)) ∧
    SpareLink flitsAreNumbered2_s.chip (0 : Fin 12) ∧
    RoutesHold flitsAreNumbered2_s.chip :=
  ⟨by decide +kernel, by unfold SpareLink; decide +kernel, by unfold RoutesHold; decide +kernel⟩

def flitsAreNumbered3_s : State := st (chipOf [(rMembers, 3), (rLinkStatus 0, 2), (rPartner 1, 2)] on)
theorem wit_flitsAreNumbered3 :
    (linkState flitsAreNumbered3_s.chip (0 : Fin 12) = 2 ∧
    flitsAreNumbered3_s.chip.fab.selfFenced = false ∧
    (sealed { ty := 2, src := 1, len := 4, data := [9] } : Flit).ce.sum = 0 ∧
    2 ≤ (sealed { ty := 2, src := 1, len := 4, data := [9] } : Flit).ty.toNat ∧
    fenced flitsAreNumbered3_s.chip (linkPartner flitsAreNumbered3_s.chip (0 : Fin 12)) = false ∧
    (sealed { ty := 2, src := 1, len := 4, data := [9] } : Flit).seq.toNat = flitsAreNumbered3_s.chip.fab.links[(0 : Fin 12)].expect ∧
    (sealed { ty := 2, src := 1, len := 4, data := [9] } : Flit).nak = false ∧
    flitsAreNumbered3_s.chip.fab.links[(0 : Fin 12)].waiting = []) ∧
    flitOk (sealed { ty := 2, src := 1, len := 4, data := [9] } : Flit) = true :=
  ⟨by decide +kernel, flitOk_of (by decide +kernel)⟩

def flitsAreNumbered4_s : State := st (chipOf [(rMembers, 3), (rLinkStatus 0, 2), (rPartner 1, 2)] on)
theorem wit_flitsAreNumbered4 :
    linkState flitsAreNumbered4_s.chip (0 : Fin 12) = 2 ∧
    flitsAreNumbered4_s.chip.fab.selfFenced = false ∧
    ({ fecOk := false } : Flit).ce.sum = 0 ∧
    flitOk ({ fecOk := false } : Flit) = false ∧
    ({ fecOk := false } : Flit).ty = 0 :=
  by decide +kernel

def flitsAreNumbered5_s : State := st (chipOf [(rMembers, 3), (rLinkStatus 0, 2), (rPartner 1, 2)] on)
theorem wit_flitsAreNumbered5 :
    (linkState flitsAreNumbered5_s.chip (0 : Fin 12) = 2 ∧
    flitsAreNumbered5_s.chip.fab.selfFenced = false ∧
    (sealed { ty := 3, vc := 1, src := 1, seq := 4095 } : Flit).ce.sum = 0 ∧
    (sealed { ty := 3, vc := 1, src := 1, seq := 4095 } : Flit).ty = 3 ∧
    fenced flitsAreNumbered5_s.chip (linkPartner flitsAreNumbered5_s.chip (0 : Fin 12)) = false ∧
    (sealed { ty := 3, vc := 1, src := 1, seq := 4095 } : Flit).seq.toNat ≠ flitsAreNumbered5_s.chip.fab.links[(0 : Fin 12)].expect ∧
    2048 ≤ ((sealed { ty := 3, vc := 1, src := 1, seq := 4095 } : Flit).seq.toNat + 4096 - flitsAreNumbered5_s.chip.fab.links[(0 : Fin 12)].expect) % 4096) ∧
    flitOk (sealed { ty := 3, vc := 1, src := 1, seq := 4095 } : Flit) = true :=
  ⟨by decide +kernel, flitOk_of (by decide +kernel)⟩

/-! AnswersCompleteTransactions, in Obligations.FlitsAreServed -/

def answersCompleteTransactions1_s : State := st (chipOf [(rMembers, 3), (rLinkStatus 0, 2), (rPartner 1, 2)] { on with fab := { on.fab with links := on.fab.links.set 0 { replay := [{ ty := 2, dst := 1 }], nextSeq := 1 } } })
def answersCompleteTransactions1_c : Chip := (receiveWhole (0 : Fin 12) (sealed { ty := 0, ackV := true, ack := 1 } : Flit) answersCompleteTransactions1_s.chip).2
theorem wit_answersCompleteTransactions1 :
    (sealed { ty := 0, ackV := true, ack := 1 } : Flit).ty.toNat = 0 ∧
    receive (0 : Fin 12) (sealed { ty := 0, ackV := true, ack := 1 } : Flit) answersCompleteTransactions1_s.chip = (.accepted, answersCompleteTransactions1_c) :=
  ⟨by decide +kernel, receive_of (by decide +kernel) (by decide +kernel)⟩

def answersCompleteTransactions2_s : State := st (chipOf [(rMembers, 3), (rLinkStatus 0, 2), (rPartner 1, 2)] on)
def answersCompleteTransactions2_c : Chip := (receiveWhole (0 : Fin 12) (sealed { ty := 1, src := 1, addr := 0x55 } : Flit) answersCompleteTransactions2_s.chip).2
theorem wit_answersCompleteTransactions2 :
    (sealed { ty := 1, src := 1, addr := 0x55 } : Flit).ty.toNat = 1 ∧
    receive (0 : Fin 12) (sealed { ty := 1, src := 1, addr := 0x55 } : Flit) answersCompleteTransactions2_s.chip = (.accepted, answersCompleteTransactions2_c) :=
  ⟨by decide +kernel, receive_of (by decide +kernel) (by decide +kernel)⟩

def answersCompleteTransactions3_s : State := st (chipOf [(rMembers, 3), (rLinkStatus 0, 2), (rPartner 1, 2)] { on with fab := { on.fab with txns := [{ tag := 9, dst := 1, addr := 0x40, len := 64, off := 4, write := true, who := .window }, { tag := 10, dst := 1, addr := 0, len := 1, who := .hub }] }, window := { busy := true, tag := some 9 } })
def answersCompleteTransactions3_c : Chip := (returnCredit (0 : Fin 12) (sealed { ty := 3, vc := 1, src := 1, tag := 9 } : Flit).vc.toNat (receiveWhole (0 : Fin 12) (sealed { ty := 3, vc := 1, src := 1, tag := 9 } : Flit) answersCompleteTransactions3_s.chip).2)
theorem wit_answersCompleteTransactions3 :
    (txnOf answersCompleteTransactions3_c (sealed { ty := 3, vc := 1, src := 1, tag := 9 } : Flit) = some ({ tag := 9, dst := 1, addr := 0x40, len := 64, off := 4, write := true, who := .window } : Txn) ∧
    ({ tag := 9, dst := 1, addr := 0x40, len := 64, off := 4, write := true, who := .window } : Txn).write = true ∧
    ({ tag := 9, dst := 1, addr := 0x40, len := 64, off := 4, write := true, who := .window } : Txn).who = .window) ∧
    Delivered answersCompleteTransactions3_s (0 : Fin 12) 3 (sealed { ty := 3, vc := 1, src := 1, tag := 9 } : Flit) answersCompleteTransactions3_c :=
  ⟨by decide +kernel, delivered_of (by decide +kernel)⟩

def answersCompleteTransactions4_s : State := st (chipOf [(rMembers, 3), (rLinkStatus 0, 2), (rPartner 1, 2)] { on with fab := { on.fab with txns := [{ tag := 9, dst := 1, addr := 0x40, len := 64, off := 4, write := false, who := .window }, { tag := 10, dst := 1, addr := 0, len := 1, who := .hub }] }, window := { busy := true, tag := some 9 } })
def answersCompleteTransactions4_c : Chip := (returnCredit (0 : Fin 12) (sealed { ty := 5, vc := 1, src := 1, tag := 9, len := 64, addr := 0x40, data := [1, 2, 3, 4, 5, 6, 7, 8] } : Flit).vc.toNat (receiveWhole (0 : Fin 12) (sealed { ty := 5, vc := 1, src := 1, tag := 9, len := 64, addr := 0x40, data := [1, 2, 3, 4, 5, 6, 7, 8] } : Flit) answersCompleteTransactions4_s.chip).2)
theorem wit_answersCompleteTransactions4 :
    (txnOf answersCompleteTransactions4_c (sealed { ty := 5, vc := 1, src := 1, tag := 9, len := 64, addr := 0x40, data := [1, 2, 3, 4, 5, 6, 7, 8] } : Flit) = some ({ tag := 9, dst := 1, addr := 0x40, len := 64, off := 4, write := false, who := .window } : Txn) ∧
    ({ tag := 9, dst := 1, addr := 0x40, len := 64, off := 4, write := false, who := .window } : Txn).write = false ∧
    ({ tag := 9, dst := 1, addr := 0x40, len := 64, off := 4, write := false, who := .window } : Txn).who = .window ∧
    ({ tag := 9, dst := 1, addr := 0x40, len := 64, off := 4, write := false, who := .window } : Txn).got = 0 ∧
    ({ tag := 9, dst := 1, addr := 0x40, len := 64, off := 4, write := false, who := .window } : Txn).bytes = [] ∧
    (sealed { ty := 5, vc := 1, src := 1, tag := 9, len := 64, addr := 0x40, data := [1, 2, 3, 4, 5, 6, 7, 8] } : Flit).len.toNat = ({ tag := 9, dst := 1, addr := 0x40, len := 64, off := 4, write := false, who := .window } : Txn).len ∧
    (sealed { ty := 5, vc := 1, src := 1, tag := 9, len := 64, addr := 0x40, data := [1, 2, 3, 4, 5, 6, 7, 8] } : Flit).addr.toNat = ({ tag := 9, dst := 1, addr := 0x40, len := 64, off := 4, write := false, who := .window } : Txn).addr) ∧
    Delivered answersCompleteTransactions4_s (0 : Fin 12) 5 (sealed { ty := 5, vc := 1, src := 1, tag := 9, len := 64, addr := 0x40, data := [1, 2, 3, 4, 5, 6, 7, 8] } : Flit) answersCompleteTransactions4_c :=
  ⟨by decide +kernel, delivered_of (by decide +kernel)⟩

def answersCompleteTransactions5_s : State := st (chipOf [(rMembers, 3), (rLinkStatus 0, 2), (rPartner 1, 2)] { on with fab := { on.fab with txns := [{ tag := 9, dst := 1, addr := 0x40, len := 64, off := 4, write := false, who := .done 3 5 9 }, { tag := 10, dst := 1, addr := 0, len := 1, who := .hub }] }, window := { busy := true, tag := some 9 } })
def answersCompleteTransactions5_c : Chip := (returnCredit (0 : Fin 12) (sealed { ty := 7, vc := 1, src := 1, tag := 9 } : Flit).vc.toNat (receiveWhole (0 : Fin 12) (sealed { ty := 7, vc := 1, src := 1, tag := 9 } : Flit) answersCompleteTransactions5_s.chip).2)
theorem wit_answersCompleteTransactions5 :
    (txnOf answersCompleteTransactions5_c (sealed { ty := 7, vc := 1, src := 1, tag := 9 } : Flit) = some ({ tag := 9, dst := 1, addr := 0x40, len := 64, off := 4, write := false, who := .done 3 5 9 } : Txn) ∧
    ({ tag := 9, dst := 1, addr := 0x40, len := 64, off := 4, write := false, who := .done 3 5 9 } : Txn).write = false ∧
    ({ tag := 9, dst := 1, addr := 0x40, len := 64, off := 4, write := false, who := .done 3 5 9 } : Txn).who = .done (3 : Fin 32) (5 : Nat) (9 : Nat)) ∧
    Delivered answersCompleteTransactions5_s (0 : Fin 12) 7 (sealed { ty := 7, vc := 1, src := 1, tag := 9 } : Flit) answersCompleteTransactions5_c :=
  ⟨by decide +kernel, delivered_of (by decide +kernel)⟩

def answersCompleteTransactions6_s : State := st (chipOf [(rMembers, 3), (rLinkStatus 0, 2), (rPartner 1, 2)] { on with fab := { on.fab with txns := [{ tag := 9, dst := 1, addr := 0x40, len := 64, off := 4, write := true, who := .window }, { tag := 10, dst := 1, addr := 0, len := 1, who := .hub }] }, window := { busy := true, tag := some 9 } })
def answersCompleteTransactions6_c : Chip := (returnCredit (0 : Fin 12) (sealed { ty := 10, vc := 1, src := 1, tag := 9, code := 0x301 } : Flit).vc.toNat (receiveWhole (0 : Fin 12) (sealed { ty := 10, vc := 1, src := 1, tag := 9, code := 0x301 } : Flit) answersCompleteTransactions6_s.chip).2)
theorem wit_answersCompleteTransactions6 :
    (answersCompleteTransactions6_c.fab.txns.find? (fun y => y.tag == (sealed { ty := 10, vc := 1, src := 1, tag := 9, code := 0x301 } : Flit).tag.toNat) = some ({ tag := 9, dst := 1, addr := 0x40, len := 64, off := 4, write := true, who := .window } : Txn) ∧
    ({ tag := 9, dst := 1, addr := 0x40, len := 64, off := 4, write := true, who := .window } : Txn).who = .window) ∧
    Delivered answersCompleteTransactions6_s (0 : Fin 12) 10 (sealed { ty := 10, vc := 1, src := 1, tag := 9, code := 0x301 } : Flit) answersCompleteTransactions6_c :=
  ⟨by decide +kernel, delivered_of (by decide +kernel)⟩

/-! RequestsAreServed, in Obligations.FlitsAreServed -/

def requestsAreServed1_s : State := st (chipOf [(rMembers, 3), (rLinkStatus 0, 2), (rPartner 1, 2)] { on with mem := memWriteN [] 0x80100000400 [255, 255, 255, 255, 1] })
def requestsAreServed1_c : Chip := (returnCredit (0 : Fin 12) (sealed { ty := 2, src := 1, tag := 9, addr := 0x80100000402, len := 3, data := [7, 8] } : Flit).vc.toNat (receiveWhole (0 : Fin 12) (sealed { ty := 2, src := 1, tag := 9, addr := 0x80100000402, len := 3, data := [7, 8] } : Flit) requestsAreServed1_s.chip).2)
theorem wit_requestsAreServed1 :
    (inHub (sys requestsAreServed1_c (sealed { ty := 2, src := 1, tag := 9, addr := 0x80100000402, len := 3, data := [7, 8] } : Flit).addr.toNat) (sealed { ty := 2, src := 1, tag := 9, addr := 0x80100000402, len := 3, data := [7, 8] } : Flit).len.toNat = false ∧
    backed (sys requestsAreServed1_c (sealed { ty := 2, src := 1, tag := 9, addr := 0x80100000402, len := 3, data := [7, 8] } : Flit).addr.toNat) (sealed { ty := 2, src := 1, tag := 9, addr := 0x80100000402, len := 3, data := [7, 8] } : Flit).len.toNat = true ∧
    requestsAreServed1_c.ecc = []) ∧
    Delivered requestsAreServed1_s (0 : Fin 12) 2 (sealed { ty := 2, src := 1, tag := 9, addr := 0x80100000402, len := 3, data := [7, 8] } : Flit) requestsAreServed1_c :=
  ⟨by decide +kernel, delivered_of (by decide +kernel)⟩

def requestsAreServed2_s : State := st (chipOf [(rMembers, 3), (rLinkStatus 0, 2), (rPartner 1, 2)] { on with mem := memWriteN [] 0x80100000400 [255, 255, 255, 255, 1] })
def requestsAreServed2_c : Chip := (returnCredit (0 : Fin 12) (sealed { ty := 4, src := 1, tag := 9, addr := 0x80100000400, len := 5 } : Flit).vc.toNat (receiveWhole (0 : Fin 12) (sealed { ty := 4, src := 1, tag := 9, addr := 0x80100000400, len := 5 } : Flit) requestsAreServed2_s.chip).2)
theorem wit_requestsAreServed2 :
    (inHub (sys requestsAreServed2_c (sealed { ty := 4, src := 1, tag := 9, addr := 0x80100000400, len := 5 } : Flit).addr.toNat) (sealed { ty := 4, src := 1, tag := 9, addr := 0x80100000400, len := 5 } : Flit).len.toNat = false ∧
    backed (sys requestsAreServed2_c (sealed { ty := 4, src := 1, tag := 9, addr := 0x80100000400, len := 5 } : Flit).addr.toNat) (sealed { ty := 4, src := 1, tag := 9, addr := 0x80100000400, len := 5 } : Flit).len.toNat = true ∧
    requestsAreServed2_c.ecc = []) ∧
    Delivered requestsAreServed2_s (0 : Fin 12) 4 (sealed { ty := 4, src := 1, tag := 9, addr := 0x80100000400, len := 5 } : Flit) requestsAreServed2_c :=
  ⟨by decide +kernel, delivered_of (by decide +kernel)⟩

def requestsAreServed3_s : State := st (chipOf [(rMembers, 3), (rLinkStatus 0, 2), (rPartner 1, 2)] { on with mem := memWriteN [] 0x80100000400 [255, 255, 255, 255, 1] })
def requestsAreServed3_c : Chip := (returnCredit (0 : Fin 12) (sealed { ty := 6, src := 1, tag := 9, addr := 0x80100000400, len := 12, data := [0, 0, 0, 0, 3] } : Flit).vc.toNat (receiveWhole (0 : Fin 12) (sealed { ty := 6, src := 1, tag := 9, addr := 0x80100000400, len := 12, data := [0, 0, 0, 0, 3] } : Flit) requestsAreServed3_s.chip).2)
theorem wit_requestsAreServed3 :
    ((leNat ((flitData (sealed { ty := 6, src := 1, tag := 9, addr := 0x80100000400, len := 12, data := [0, 0, 0, 0, 3] } : Flit)).take 4) = opAdd ∧ (4 : Nat) = 4 ∨ leNat ((flitData (sealed { ty := 6, src := 1, tag := 9, addr := 0x80100000400, len := 12, data := [0, 0, 0, 0, 3] } : Flit)).take 4) = opAdd64 ∧ (4 : Nat) = 8) ∧
    inHub (sys requestsAreServed3_c (sealed { ty := 6, src := 1, tag := 9, addr := 0x80100000400, len := 12, data := [0, 0, 0, 0, 3] } : Flit).addr.toNat) (4 : Nat) = false ∧
    backed (sys requestsAreServed3_c (sealed { ty := 6, src := 1, tag := 9, addr := 0x80100000400, len := 12, data := [0, 0, 0, 0, 3] } : Flit).addr.toNat) (4 : Nat) = true ∧
    requestsAreServed3_c.ecc = []) ∧
    Delivered requestsAreServed3_s (0 : Fin 12) 6 (sealed { ty := 6, src := 1, tag := 9, addr := 0x80100000400, len := 12, data := [0, 0, 0, 0, 3] } : Flit) requestsAreServed3_c :=
  ⟨by decide +kernel, delivered_of (by decide +kernel)⟩

def requestsAreServed4_s : State := st (chipOf [(rMembers, 3), (rLinkStatus 0, 2), (rPartner 1, 2)] { on with mem := memWriteN [] 0x80100000400 [255, 255, 255, 255, 1] })
def requestsAreServed4_c : Chip := (returnCredit (0 : Fin 12) (sealed { ty := 6, src := 1, tag := 9, addr := 0x80100000400, len := 4, data := [5] } : Flit).vc.toNat (receiveWhole (0 : Fin 12) (sealed { ty := 6, src := 1, tag := 9, addr := 0x80100000400, len := 4, data := [5] } : Flit) requestsAreServed4_s.chip).2)
theorem wit_requestsAreServed4 :
    (inHub (sys requestsAreServed4_c (sealed { ty := 6, src := 1, tag := 9, addr := 0x80100000400, len := 4, data := [5] } : Flit).addr.toNat : Nat) 192 = false ∧
    backed (sys requestsAreServed4_c (sealed { ty := 6, src := 1, tag := 9, addr := 0x80100000400, len := 4, data := [5] } : Flit).addr.toNat : Nat) 192 = true ∧
    requestsAreServed4_c.ecc = [] ∧
    leNat ((flitData (sealed { ty := 6, src := 1, tag := 9, addr := 0x80100000400, len := 4, data := [5] } : Flit)).take 4) = opRead ∧
    backed (sys requestsAreServed4_c (sealed { ty := 6, src := 1, tag := 9, addr := 0x80100000400, len := 4, data := [5] } : Flit).addr.toNat : Nat) (192 + 32 * fld (leNat (memReadN requestsAreServed4_c.mem (sys requestsAreServed4_c (sealed { ty := 6, src := 1, tag := 9, addr := 0x80100000400, len := 4, data := [5] } : Flit).addr.toNat : Nat) 8)) 0 9) = true) ∧
    Delivered requestsAreServed4_s (0 : Fin 12) 6 (sealed { ty := 6, src := 1, tag := 9, addr := 0x80100000400, len := 4, data := [5] } : Flit) requestsAreServed4_c :=
  ⟨by decide +kernel, delivered_of (by decide +kernel)⟩

def requestsAreServed5_s : State := st (chipOf [(rMembers, 3), (rLinkStatus 0, 2), (rPartner 1, 2)] { on with mem := memWriteN [] 0x80100000400 [255, 255, 255, 255, 1] })
def requestsAreServed5_c : Chip := (returnCredit (0 : Fin 12) (sealed { ty := 6, src := 1, tag := 9, addr := 0x80100000400, len := 8, data := [3, 0, 0, 0, 2] } : Flit).vc.toNat (receiveWhole (0 : Fin 12) (sealed { ty := 6, src := 1, tag := 9, addr := 0x80100000400, len := 8, data := [3, 0, 0, 0, 2] } : Flit) requestsAreServed5_s.chip).2)
theorem wit_requestsAreServed5 :
    (inHub (sys requestsAreServed5_c (sealed { ty := 6, src := 1, tag := 9, addr := 0x80100000400, len := 8, data := [3, 0, 0, 0, 2] } : Flit).addr.toNat : Nat) 192 = false ∧
    backed (sys requestsAreServed5_c (sealed { ty := 6, src := 1, tag := 9, addr := 0x80100000400, len := 8, data := [3, 0, 0, 0, 2] } : Flit).addr.toNat : Nat) 192 = true ∧
    requestsAreServed5_c.ecc = [] ∧
    leNat ((flitData (sealed { ty := 6, src := 1, tag := 9, addr := 0x80100000400, len := 8, data := [3, 0, 0, 0, 2] } : Flit)).take 4) = opUnpin) ∧
    Delivered requestsAreServed5_s (0 : Fin 12) 6 (sealed { ty := 6, src := 1, tag := 9, addr := 0x80100000400, len := 8, data := [3, 0, 0, 0, 2] } : Flit) requestsAreServed5_c :=
  ⟨by decide +kernel, delivered_of (by decide +kernel)⟩

def requestsAreServed6_s : State := st (chipOf [(rMembers, 3), (rLinkStatus 0, 2), (rPartner 1, 2)] { on with mem := memWriteN [] 0x80100000400 [255, 255, 255, 255, 1] })
def requestsAreServed6_c : Chip := (receiveWhole (0 : Fin 12) (sealed { ty := 8, vc := 2, src := 1, dst := 0, mask := 1, tag := 9, addr := 0x80100000402, len := 3, data := [7, 8] } : Flit) requestsAreServed6_s.chip).2
theorem wit_requestsAreServed6 :
    ((sealed { ty := 8, vc := 2, src := 1, dst := 0, mask := 1, tag := 9, addr := 0x80100000402, len := 3, data := [7, 8] } : Flit).ty.toNat = 8 ∧
    fenced requestsAreServed6_c (sealed { ty := 8, vc := 2, src := 1, dst := 0, mask := 1, tag := 9, addr := 0x80100000402, len := 3, data := [7, 8] } : Flit).src.toNat = false ∧
    bit (sealed { ty := 8, vc := 2, src := 1, dst := 0, mask := 1, tag := 9, addr := 0x80100000402, len := 3, data := [7, 8] } : Flit).mask.toNat (pkg requestsAreServed6_c) = true ∧
    inHub (sys requestsAreServed6_c (sealed { ty := 8, vc := 2, src := 1, dst := 0, mask := 1, tag := 9, addr := 0x80100000402, len := 3, data := [7, 8] } : Flit).addr.toNat) (sealed { ty := 8, vc := 2, src := 1, dst := 0, mask := 1, tag := 9, addr := 0x80100000402, len := 3, data := [7, 8] } : Flit).len.toNat = false ∧
    backed (sys requestsAreServed6_c (sealed { ty := 8, vc := 2, src := 1, dst := 0, mask := 1, tag := 9, addr := 0x80100000402, len := 3, data := [7, 8] } : Flit).addr.toNat) (sealed { ty := 8, vc := 2, src := 1, dst := 0, mask := 1, tag := 9, addr := 0x80100000402, len := 3, data := [7, 8] } : Flit).len.toNat = true) ∧
    receive (0 : Fin 12) (sealed { ty := 8, vc := 2, src := 1, dst := 0, mask := 1, tag := 9, addr := 0x80100000402, len := 3, data := [7, 8] } : Flit) requestsAreServed6_s.chip = (.accepted, requestsAreServed6_c) :=
  ⟨by decide +kernel, receive_of (by decide +kernel) (by decide +kernel)⟩

/-! Obligations.FencesAndMembers -/

def fencesAndMembers1_s : State := st (chipOf [(rMembers, 3), (rPartner 1, 2)] on)
theorem wit_fencesAndMembers1 :
    ((1 : Master).toNat ≤ 3 ∧
    hubOn fencesAndMembers1_s.chip = true ∧
    fld (0x11 : BitVec 32).toNat 0 4 = (1 : Nat) ∧
    bit (0x11 : BitVec 32).toNat 4 = true ∧
    bit (0x11 : BitVec 32).toNat 5 = false) ∧
    QuietPartner fencesAndMembers1_s.chip (1 : Nat) :=
  ⟨by decide +kernel, by unfold QuietPartner; decide +kernel⟩

def fencesAndMembers2_s : State := st (chipOf [(rMembers, 3), (rPartner 1, 2)] on)
theorem wit_fencesAndMembers2 :
    (fenced fencesAndMembers2_s.chip (0 : BitVec 4).toNat = false ∧
    (1 : BitVec 4).toNat = (1 : Nat) ∧
    (tabGet [] fencesAndMembers2_s.chip.fab.seen (0 : BitVec 4).toNat).contains (3 : BitVec 16).toNat = false) ∧
    QuietPartner fencesAndMembers2_s.chip (1 : Nat) :=
  ⟨by decide +kernel, by unfold QuietPartner; decide +kernel⟩

def fencesAndMembers3_s : State := st (chipOf [(rMembers, 3), (rPartner 1, 0xA3), (rLinkStatus 0, 2)] { on with fab := { on.fab with partners := on.fab.partners.set 1 { nonce := 8, fenceNonce := 7, newNonce := true } } })
theorem wit_fencesAndMembers3 :
    (1 : Master).toNat ≤ 3 ∧
    hubOn fencesAndMembers3_s.chip = true ∧
    bit (0x21 : BitVec 32).toNat 4 = false ∧
    bit (0x21 : BitVec 32).toNat 5 = true ∧
    fld (0x21 : BitVec 32).toNat 0 4 ≠ pkg fencesAndMembers3_s.chip ∧
    member fencesAndMembers3_s.chip (fld (0x21 : BitVec 32).toNat 0 4) = true ∧
    getF fencesAndMembers3_s.chip (rPartner (fld (0x21 : BitVec 32).toNat 0 4)) 0 2 = 3 ∧
    (partnerOf fencesAndMembers3_s.chip (fld (0x21 : BitVec 32).toNat 0 4)).newNonce = true ∧
    (nextHop fencesAndMembers3_s.chip (fld (0x21 : BitVec 32).toNat 0 4)).isSome = true ∧
    fencesAndMembers3_s.chip.fab.selfFenced = false ∧
    (∀ q, q < 16 → q ≠ fld (0x21 : BitVec 32).toNat 0 4 → q ≠ pkg fencesAndMembers3_s.chip → getF fencesAndMembers3_s.chip (rPartner q) 0 2 ≠ 2) :=
  by decide +kernel

def fencesAndMembers4_s : State := st on
theorem wit_fencesAndMembers4 :
    (1 : Master).toNat ≤ 3 ∧
    hubOn fencesAndMembers4_s.chip = true ∧
    (∀ l : Fin 12, linkState fencesAndMembers4_s.chip l ≠ 1 ∧ linkState fencesAndMembers4_s.chip l ≠ 2) :=
  by decide +kernel

def fencesAndMembers5_s : State := st (chipOf [(rMembers, 3), (rLinkStatus 0, 2), (rPartner 1, 2)] on)
theorem wit_fencesAndMembers5 :
    (1 : Master).toNat ≤ 3 ∧
    hubOn fencesAndMembers5_s.chip = true ∧
    (∃ l : Fin 12, linkState fencesAndMembers5_s.chip l = 1 ∨ linkState fencesAndMembers5_s.chip l = 2) :=
  by decide +kernel

/-! FramesAreWritten, in Obligations.WellheadRecordsAndWakes -/

def framesAreWritten1_s : State := st on
theorem wit_framesAreWritten1 :
    feOn framesAreWritten1_s.chip = true :=
  by decide +kernel

def framesAreWritten2_s : State := { st (chipOf [(rFeMute, 1)] on) with fe := { arr := (Vector.replicate 4 0xC8).set 1 0x8C9, k := 127, start := 7, gaps := [12] } }
theorem wit_framesAreWritten2 :
    feOn framesAreWritten2_s.chip = true ∧
    (12 : Nat) < 48 ∧
    (∀ q, q < 48 → selected framesAreWritten2_s.fe q = decide (q = (12 : Nat))) ∧
    framesAreWritten2_s.fe.muteAt = true ∧
    framesAreWritten2_s.fe.mutes = [] ∧
    bit (getReg framesAreWritten2_s.chip rWakeCfg) 0 = false ∧
    stageOf framesAreWritten2_s.chip = 0 ∧
    modeOf framesAreWritten2_s.chip ≤ 1 :=
  by decide +kernel

def framesAreWritten3_s : State := { st (chipOf [(rFeMute, 1), (rPower, 2)] on) with fe := { arr := (Vector.replicate 4 0xC8).set 1 0x8C9, k := 127, start := 7 } }
theorem wit_framesAreWritten3 :
    feOn framesAreWritten3_s.chip = true ∧
    (12 : Nat) < 48 ∧
    (∀ q, q < 48 → selected framesAreWritten3_s.fe q = decide (q = (12 : Nat))) ∧
    framesAreWritten3_s.fe.muteAt = true ∧
    framesAreWritten3_s.fe.mutes = [] ∧
    bit (getReg framesAreWritten3_s.chip rWakeCfg) 0 = false ∧
    stageOf framesAreWritten3_s.chip = 0 ∧
    modeOf framesAreWritten3_s.chip = 2 :=
  by decide +kernel

/-! RingRecordsAndFetches, in Obligations.WellheadRecordsAndWakes -/

def ringRecordsAndFetches1_s : State := { st (chipOf [(rRingCfg, 1)] on) with fe := { ringPos := 256, ringBuf := [(0, List.replicate 255 5)], ring := [{ start := 0, chans := [List.replicate 132 0] }] } }
theorem wit_ringRecordsAndFetches1 :
    feOn ringRecordsAndFetches1_s.chip = true ∧
    bit (getReg ringRecordsAndFetches1_s.chip rRingCfg) 0 = true ∧
    (tabGet [] ringRecordsAndFetches1_s.fe.ringBuf 0).length < 256 :=
  by decide +kernel

def ringRecordsAndFetches2_s : State := { st (chipOf [(rRingCfg, 1)] on) with fe := { ringPos := 256, ringBuf := [(0, List.replicate 300 5)], ring := [{ start := 0, chans := [List.replicate 132 0] }] } }
theorem wit_ringRecordsAndFetches2 :
    feOn ringRecordsAndFetches2_s.chip = true ∧
    bit (getReg ringRecordsAndFetches2_s.chip rRingCfg) 0 = true ∧
    256 ≤ (tabGet [] ringRecordsAndFetches2_s.fe.ringBuf 0).length ∧
    stageOf ringRecordsAndFetches2_s.chip ≠ 3 :=
  by decide +kernel

def ringRecordsAndFetches3_s : State := { st (chipOf [(rRingCfg, 1), (rFetch, 0), (rFetch + 4, 0x1000)] on) with fe := { k := 2, ringPos := 256, ring := [{ start := 0, chans := [List.replicate 132 0] }] } }
theorem wit_ringRecordsAndFetches3 :
    (1 : Master).toNat ≤ 3 ∧
    hubOn ringRecordsAndFetches3_s.chip = true ∧
    modeOf ringRecordsAndFetches3_s.chip ≤ 1 ∧
    bit (0x40200801 : BitVec 32).toNat 30 = true ∧
    (fld (0x40200801 : BitVec 32).toNat 21 9 : Nat) ≠ 0 ∧
    (getReg ringRecordsAndFetches3_s.chip (rFetch + 4) + fld (0x40200801 : BitVec 32).toNat 0 16 * 2 ^ 32 : Nat) % 64 = 0 ∧
    (fld (0x40200801 : BitVec 32).toNat 16 5 : Nat) < ringN ringRecordsAndFetches3_s.chip ∧
    bit (getReg ringRecordsAndFetches3_s.chip rFeMute) 1 = false ∧
    ringHolds ringRecordsAndFetches3_s.fe (frameNo ringRecordsAndFetches3_s.fe (getReg ringRecordsAndFetches3_s.chip rFetch) : Nat) (fld (0x40200801 : BitVec 32).toNat 21 9 : Nat) = true ∧
    pkgOf (getReg ringRecordsAndFetches3_s.chip (rFetch + 4) + fld (0x40200801 : BitVec 32).toNat 0 16 * 2 ^ 32 : Nat) = pkg ringRecordsAndFetches3_s.chip ∧
    inHub (getReg ringRecordsAndFetches3_s.chip (rFetch + 4) + fld (0x40200801 : BitVec 32).toNat 0 16 * 2 ^ 32 : Nat) (320 * (fld (0x40200801 : BitVec 32).toNat 21 9 : Nat)) = false ∧
    backed (getReg ringRecordsAndFetches3_s.chip (rFetch + 4) + fld (0x40200801 : BitVec 32).toNat 0 16 * 2 ^ 32 : Nat) (320 * (fld (0x40200801 : BitVec 32).toNat 21 9 : Nat)) = true :=
  by decide +kernel

def ringRecordsAndFetches4_s : State := { st (chipOf [] on) with fe := { ring := [{ start := 0, chans := [List.replicate 132 0] }] } }
theorem wit_ringRecordsAndFetches4 :
    (1 : Master).toNat ≤ 3 ∧
    hubOn ringRecordsAndFetches4_s.chip = true ∧
    (0 : Fin 9).val = 0 :=
  by decide +kernel

def ringRecordsAndFetches5_s : State := { st (chipOf [] on) with fe := { arr := (Vector.replicate 4 0xC8).set 1 0xCA, ring := [{ start := 0, chans := [List.replicate 132 0] }] } }
theorem wit_ringRecordsAndFetches5 :
    (1 : Master).toNat ≤ 3 ∧
    hubOn ringRecordsAndFetches5_s.chip = true ∧
    (8 : Fin 9).val ≠ 0 ∧
    (∀ i, i < 4 → highOut ringRecordsAndFetches5_s.fe (fld (0x0B0B0B30 : BitVec 32).toNat (8 * i) 6) = false) :=
  by decide +kernel

def ringRecordsAndFetches6_s : State := { st (chipOf [] on) with fe := { arr := (Vector.replicate 4 0xC8).set 1 0xCA, ring := [{ start := 0, chans := [List.replicate 132 0] }] } }
theorem wit_ringRecordsAndFetches6 :
    ((1 : Master).toNat ≤ 3 ∧
    hubOn ringRecordsAndFetches6_s.chip = true ∧
    (1 : Fin 9).val ≠ 0) ∧
    (∃ i, i < 4 ∧ highOut ringRecordsAndFetches6_s.fe (fld (0x0B0C0B30 : BitVec 32).toNat (8 * i) 6) = true) :=
  ⟨by decide +kernel, ⟨2, by decide +kernel⟩⟩

/-! StageThreeRuns, in Obligations.WellheadRecordsAndWakes -/

def stageThreeRuns1_s : State := { st (chipOf [(rWakeStatus, 3), (0x20C0C, 1), (rTick, 9)] { on with mem := at0 0x600 (([0x500000100, 0x0, 0x0, 0x80100000700, 0x0, 0x0, 0x0, 0x0] : List Nat).flatMap (leBytes 8)) [] }) with fe := { k := 2, ring := [{ start := 0, chans := [List.replicate 132 0] }], wake := { p := 0, cfg2 := 0, vItem := 0x600, vPcm := 8390656, vVerdict := 0x740, done := 0x80100000700 } } }
def stageThreeRuns1_c : Chip := (runEff (stage3Item stageThreeRuns1_s.fe.wake (fetchBytes stageThreeRuns1_s.fe 0 stageThreeRuns1_s.fe.wake.p (vLen stageThreeRuns1_s.fe.wake))) stageThreeRuns1_s.chip).1
def stageThreeRuns1_d : Chip := (postItems (vBasin stageThreeRuns1_s.fe.wake) true [([0x500000100, 0xa, 0x0, 0x80100000700, 0x0, 0x0, 0x0, 0x0] : List Nat)] stageThreeRuns1_c).2
theorem wit_stageThreeRuns1 :
    (stageOf stageThreeRuns1_s.chip = 3 ∧
    modeOf stageThreeRuns1_s.chip = 0 ∧
    enabled stageThreeRuns1_s.chip (vBasin stageThreeRuns1_s.fe.wake) = true ∧
    ringHolds stageThreeRuns1_s.fe stageThreeRuns1_s.fe.wake.p (vLen stageThreeRuns1_s.fe.wake) = true ∧
    ticking stageThreeRuns1_s.chip = true) ∧
    runEff (stage3Item stageThreeRuns1_s.fe.wake (fetchBytes stageThreeRuns1_s.fe 0 stageThreeRuns1_s.fe.wake.p (vLen stageThreeRuns1_s.fe.wake))) stageThreeRuns1_s.chip = (stageThreeRuns1_c, .ok (([0x500000100, 0xa, 0x0, 0x80100000700, 0x0, 0x0, 0x0, 0x0] : List Nat), (0x80100000700 : Nat))) ∧
    postItems (vBasin stageThreeRuns1_s.fe.wake) true [([0x500000100, 0xa, 0x0, 0x80100000700, 0x0, 0x0, 0x0, 0x0] : List Nat)] stageThreeRuns1_c = (0, stageThreeRuns1_d) :=
  ⟨by decide +kernel, pair_of (by delta stageThreeRuns1_c; rfl) (by decide +kernel), pair_of (by decide +kernel) (by delta stageThreeRuns1_d; rfl)⟩

def stageThreeRuns2_s : State := { st (chipOf [(rWakeStatus, 4), (0x20C0C, 1), (rTick, 9)] { on with mem := at0 0x700 [1] (at0 0x740 [1] []) }) with fe := { k := 2, ring := [{ start := 0, chans := [List.replicate 132 0] }], wake := { p := 0, cfg2 := 0, vItem := 0x600, vPcm := 8390656, vVerdict := 0x740, done := 0x80100000700 } } }
theorem wit_stageThreeRuns2 :
    stageOf stageThreeRuns2_s.chip = 4 ∧
    runEff (readAny 0 stageThreeRuns2_s.fe.wake.done 4) stageThreeRuns2_s.chip = (stageThreeRuns2_s.chip, .ok ([1, 0, 0, 0] : List Byte)) ∧
    leNat ([1, 0, 0, 0] : List Byte) ≠ 0 ∧
    runEff (readAny 0 (sram stageThreeRuns2_s.chip (vBasin stageThreeRuns2_s.fe.wake) (fld stageThreeRuns2_s.fe.wake.vVerdict 0 23)) 4) stageThreeRuns2_s.chip = (stageThreeRuns2_s.chip, .ok ([1, 0, 0, 0] : List Byte)) ∧
    leNat ([1, 0, 0, 0] : List Byte) = 1 :=
  by decide +kernel

def stageThreeRuns3_s : State := { st (chipOf [(rWakeStatus, 4), (0x20C0C, 1), (rTick, 9)] { on with mem := at0 0x700 [1] [] }) with fe := { k := 2, ring := [{ start := 0, chans := [List.replicate 132 0] }], wake := { p := 0, cfg2 := 0, vItem := 0x600, vPcm := 8390656, vVerdict := 0x740, done := 0x80100000700 } } }
theorem wit_stageThreeRuns3 :
    stageOf stageThreeRuns3_s.chip = 4 ∧
    runEff (readAny 0 stageThreeRuns3_s.fe.wake.done 4) stageThreeRuns3_s.chip = (stageThreeRuns3_s.chip, .ok ([1, 0, 0, 0] : List Byte)) ∧
    leNat ([1, 0, 0, 0] : List Byte) ≠ 0 ∧
    runEff (readAny 0 (sram stageThreeRuns3_s.chip (vBasin stageThreeRuns3_s.fe.wake) (fld stageThreeRuns3_s.fe.wake.vVerdict 0 23)) 4) stageThreeRuns3_s.chip = (stageThreeRuns3_s.chip, .ok ([0, 0, 0, 0] : List Byte)) ∧
    leNat ([0, 0, 0, 0] : List Byte) = 0 :=
  by decide +kernel

def stageThreeRuns4_s : State := { st (chipOf [(rWakeStatus, 4), (0x20C0C, 1), (rTick, 9)] { on with mem := [] }) with fe := { k := 2, ring := [{ start := 0, chans := [List.replicate 132 0] }], wake := { p := 0, cfg2 := 0, vItem := 0x600, vPcm := 8390656, vVerdict := 0x740, done := 0x80100000700 } } }
theorem wit_stageThreeRuns4 :
    stageOf stageThreeRuns4_s.chip = 4 ∧
    leNat (memReadN stageThreeRuns4_s.chip.mem stageThreeRuns4_s.fe.wake.done 4) = 0 :=
  by decide +kernel

/-! MuteStopsSamples, in Obligations.MuteAndSettings -/

def muteStopsSamples1_s : State := { st (chipOf [(rWakeStatus, 2)] { on with mem := memWriteN [] 0xF0040000010 [5, 6] }) with fe := { ring := [{ start := 0, chans := [List.replicate 132 0] }] } }
theorem wit_muteStopsSamples1 :
    (1 : Master).toNat ≤ 3 ∧
    hubOn muteStopsSamples1_s.chip = true ∧
    bit (1 : BitVec 32).toNat 0 = true :=
  by decide +kernel

def muteStopsSamples2_s : State := { st (chipOf [(rFeMute, 1)] on) with fe := { ring := [{ start := 0, chans := [List.replicate 132 0] }] } }
theorem wit_muteStopsSamples2 :
    (1 : Master).toNat ≤ 3 ∧
    hubOn muteStopsSamples2_s.chip = true ∧
    bit (0 : BitVec 32).toNat 0 = false ∧
    muted muteStopsSamples2_s.chip = true :=
  by decide +kernel

def muteStopsSamples3_s : State := { st (chipOf [(rFeMute, 3)] on) with fe := { ring := [{ start := 0, chans := [List.replicate 132 0] }] } }
theorem wit_muteStopsSamples3 :
    bit (getReg muteStopsSamples3_s.chip rFeMute) 1 = true :=
  by decide +kernel

/-! WellheadSettingsApply, in Obligations.MuteAndSettings -/

def wellheadSettingsApply1_s : State := st (chipOf [(rDsp, 0x1000)] { on with mem := at0 0x1000 [1, 0, 87, 75, 1, 0, 0, 0, 128, 0, 0, 0, 178, 198, 49, 252, 0, 0, 0, 0, 0, 0, 0, 0, 0, 0, 0, 0, 0, 0, 0, 0, 0, 0, 0, 0, 0, 0, 0, 0, 0, 0, 0, 0, 0, 0, 0, 0, 0, 0, 0, 0, 0, 0, 0, 0, 0, 0, 0, 0, 0, 0, 0, 0, 0, 0, 40, 0, 1, 0, 0, 0, 0, 0, 0, 0, 0, 0, 0, 0, 64, 0, 0, 0, 64, 0, 0, 0, 0, 0, 0, 0, 0, 0, 0, 0, 0, 0, 0, 0, 0, 0, 0, 0, 0, 0, 0, 0, 0, 0, 0, 0, 0, 0, 0, 0, 0, 0, 0, 0, 0, 0, 0, 0, 0, 0, 0, 0] [] })
def wellheadSettingsApply1_c : Chip := storeReg wellheadSettingsApply1_s.chip (rDsp + 4) (0x10801 : BitVec 32).toNat
theorem wit_wellheadSettingsApply1 :
    (1 : Master).toNat ≤ 3 ∧
    hubOn wellheadSettingsApply1_s.chip = true ∧
    bit (0x10801 : BitVec 32).toNat 16 = true ∧
    wellheadSettingsApply1_s.fe.loading = none ∧
    (getReg wellheadSettingsApply1_c rDsp + getF wellheadSettingsApply1_c (rDsp + 4) 0 16 * 2 ^ 32 : Nat) % 64 = 0 ∧
    64 ≤ (numAt (memReadN wellheadSettingsApply1_s.chip.mem (getReg wellheadSettingsApply1_c rDsp + getF wellheadSettingsApply1_c (rDsp + 4) 0 16 * 2 ^ 32 : Nat) 64) 8 4 : Nat) ∧
    (numAt (memReadN wellheadSettingsApply1_s.chip.mem (getReg wellheadSettingsApply1_c rDsp + getF wellheadSettingsApply1_c (rDsp + 4) 0 16 * 2 ^ 32 : Nat) 64) 8 4 : Nat) ≤ 65536 ∧
    PlainRange wellheadSettingsApply1_s.chip (getReg wellheadSettingsApply1_c rDsp + getF wellheadSettingsApply1_c (rDsp + 4) 0 16 * 2 ^ 32 : Nat) 64 ∧
    PlainRange wellheadSettingsApply1_s.chip (getReg wellheadSettingsApply1_c rDsp + getF wellheadSettingsApply1_c (rDsp + 4) 0 16 * 2 ^ 32 : Nat) (numAt (memReadN wellheadSettingsApply1_s.chip.mem (getReg wellheadSettingsApply1_c rDsp + getF wellheadSettingsApply1_c (rDsp + 4) 0 16 * 2 ^ 32 : Nat) 64) 8 4 : Nat) ∧
    ([1, 0, 87, 75, 1, 0, 0, 0, 128, 0, 0, 0, 178, 198, 49, 252, 0, 0, 0, 0, 0, 0, 0, 0, 0, 0, 0, 0, 0, 0, 0, 0, 0, 0, 0, 0, 0, 0, 0, 0, 0, 0, 0, 0, 0, 0, 0, 0, 0, 0, 0, 0, 0, 0, 0, 0, 0, 0, 0, 0, 0, 0, 0, 0, 0, 0, 40, 0, 1, 0, 0, 0, 0, 0, 0, 0, 0, 0, 0, 0, 64, 0, 0, 0, 64, 0, 0, 0, 0, 0, 0, 0, 0, 0, 0, 0, 0, 0, 0, 0, 0, 0, 0, 0, 0, 0, 0, 0, 0, 0, 0, 0, 0, 0, 0, 0, 0, 0, 0, 0, 0, 0, 0, 0, 0, 0, 0, 0] : List Byte) = memReadN wellheadSettingsApply1_s.chip.mem (getReg wellheadSettingsApply1_c rDsp + getF wellheadSettingsApply1_c (rDsp + 4) 0 16 * 2 ^ 32 : Nat) (numAt (memReadN wellheadSettingsApply1_s.chip.mem (getReg wellheadSettingsApply1_c rDsp + getF wellheadSettingsApply1_c (rDsp + 4) 0 16 * 2 ^ 32 : Nat) 64) 8 4 : Nat) ∧
    imageOk ([1, 0, 87, 75, 1, 0, 0, 0, 128, 0, 0, 0, 178, 198, 49, 252, 0, 0, 0, 0, 0, 0, 0, 0, 0, 0, 0, 0, 0, 0, 0, 0, 0, 0, 0, 0, 0, 0, 0, 0, 0, 0, 0, 0, 0, 0, 0, 0, 0, 0, 0, 0, 0, 0, 0, 0, 0, 0, 0, 0, 0, 0, 0, 0, 0, 0, 40, 0, 1, 0, 0, 0, 0, 0, 0, 0, 0, 0, 0, 0, 64, 0, 0, 0, 64, 0, 0, 0, 0, 0, 0, 0, 0, 0, 0, 0, 0, 0, 0, 0, 0, 0, 0, 0, 0, 0, 0, 0, 0, 0, 0, 0, 0, 0, 0, 0, 0, 0, 0, 0, 0, 0, 0, 0, 0, 0, 0, 0] : List Byte) = true :=
  by decide +kernel

def wellheadSettingsApply2_s : State := st (chipOf [(rDsp, 0x1000)] { on with mem := at0 0x1000 [1, 0, 87, 75, 1, 0, 0, 0, 128, 0, 0, 0, 179, 198, 49, 252, 0, 0, 0, 0, 0, 0, 0, 0, 0, 0, 0, 0, 0, 0, 0, 0, 0, 0, 0, 0, 0, 0, 0, 0, 0, 0, 0, 0, 0, 0, 0, 0, 0, 0, 0, 0, 0, 0, 0, 0, 0, 0, 0, 0, 0, 0, 0, 0, 0, 0, 40, 0, 1, 0, 0, 0, 0, 0, 0, 0, 0, 0, 0, 0, 64, 0, 0, 0, 64, 0, 0, 0, 0, 0, 0, 0, 0, 0, 0, 0, 0, 0, 0, 0, 0, 0, 0, 0, 0, 0, 0, 0, 0, 0, 0, 0, 0, 0, 0, 0, 0, 0, 0, 0, 0, 0, 0, 0, 0, 0, 0, 0] [] })
def wellheadSettingsApply2_c : Chip := storeReg wellheadSettingsApply2_s.chip (rDsp + 4) (0x10801 : BitVec 32).toNat
theorem wit_wellheadSettingsApply2 :
    (1 : Master).toNat ≤ 3 ∧
    hubOn wellheadSettingsApply2_s.chip = true ∧
    bit (0x10801 : BitVec 32).toNat 16 = true ∧
    wellheadSettingsApply2_s.fe.loading = none ∧
    (getReg wellheadSettingsApply2_c rDsp + getF wellheadSettingsApply2_c (rDsp + 4) 0 16 * 2 ^ 32 : Nat) % 64 = 0 ∧
    64 ≤ (numAt (memReadN wellheadSettingsApply2_s.chip.mem (getReg wellheadSettingsApply2_c rDsp + getF wellheadSettingsApply2_c (rDsp + 4) 0 16 * 2 ^ 32 : Nat) 64) 8 4 : Nat) ∧
    (numAt (memReadN wellheadSettingsApply2_s.chip.mem (getReg wellheadSettingsApply2_c rDsp + getF wellheadSettingsApply2_c (rDsp + 4) 0 16 * 2 ^ 32 : Nat) 64) 8 4 : Nat) ≤ 65536 ∧
    PlainRange wellheadSettingsApply2_s.chip (getReg wellheadSettingsApply2_c rDsp + getF wellheadSettingsApply2_c (rDsp + 4) 0 16 * 2 ^ 32 : Nat) 64 ∧
    PlainRange wellheadSettingsApply2_s.chip (getReg wellheadSettingsApply2_c rDsp + getF wellheadSettingsApply2_c (rDsp + 4) 0 16 * 2 ^ 32 : Nat) (numAt (memReadN wellheadSettingsApply2_s.chip.mem (getReg wellheadSettingsApply2_c rDsp + getF wellheadSettingsApply2_c (rDsp + 4) 0 16 * 2 ^ 32 : Nat) 64) 8 4 : Nat) ∧
    ([1, 0, 87, 75, 1, 0, 0, 0, 128, 0, 0, 0, 179, 198, 49, 252, 0, 0, 0, 0, 0, 0, 0, 0, 0, 0, 0, 0, 0, 0, 0, 0, 0, 0, 0, 0, 0, 0, 0, 0, 0, 0, 0, 0, 0, 0, 0, 0, 0, 0, 0, 0, 0, 0, 0, 0, 0, 0, 0, 0, 0, 0, 0, 0, 0, 0, 40, 0, 1, 0, 0, 0, 0, 0, 0, 0, 0, 0, 0, 0, 64, 0, 0, 0, 64, 0, 0, 0, 0, 0, 0, 0, 0, 0, 0, 0, 0, 0, 0, 0, 0, 0, 0, 0, 0, 0, 0, 0, 0, 0, 0, 0, 0, 0, 0, 0, 0, 0, 0, 0, 0, 0, 0, 0, 0, 0, 0, 0] : List Byte) = memReadN wellheadSettingsApply2_s.chip.mem (getReg wellheadSettingsApply2_c rDsp + getF wellheadSettingsApply2_c (rDsp + 4) 0 16 * 2 ^ 32 : Nat) (numAt (memReadN wellheadSettingsApply2_s.chip.mem (getReg wellheadSettingsApply2_c rDsp + getF wellheadSettingsApply2_c (rDsp + 4) 0 16 * 2 ^ 32 : Nat) 64) 8 4 : Nat) ∧
    imageOk ([1, 0, 87, 75, 1, 0, 0, 0, 128, 0, 0, 0, 179, 198, 49, 252, 0, 0, 0, 0, 0, 0, 0, 0, 0, 0, 0, 0, 0, 0, 0, 0, 0, 0, 0, 0, 0, 0, 0, 0, 0, 0, 0, 0, 0, 0, 0, 0, 0, 0, 0, 0, 0, 0, 0, 0, 0, 0, 0, 0, 0, 0, 0, 0, 0, 0, 40, 0, 1, 0, 0, 0, 0, 0, 0, 0, 0, 0, 0, 0, 64, 0, 0, 0, 64, 0, 0, 0, 0, 0, 0, 0, 0, 0, 0, 0, 0, 0, 0, 0, 0, 0, 0, 0, 0, 0, 0, 0, 0, 0, 0, 0, 0, 0, 0, 0, 0, 0, 0, 0, 0, 0, 0, 0, 0, 0, 0, 0] : List Byte) = false :=
  by decide +kernel

def wellheadSettingsApply3_s : State := { st (chipOf [(rFeArray 1, 0xC9)] on) with fe := { waiting := [1, 3] } }
theorem wit_wellheadSettingsApply3 :
    feOn wellheadSettingsApply3_s.chip = true ∧
    (1 : Fin 4).val ∈ wellheadSettingsApply3_s.fe.waiting :=
  by decide +kernel

def wellheadSettingsApply4_s : State := st (chipOf [(0x31030, 1)] { on with gptpNs := 14999999 })
theorem wit_wellheadSettingsApply4 :
    hubOn wellheadSettingsApply4_s.chip = true ∧
    locked wellheadSettingsApply4_s.chip = true ∧
    bit (getReg wellheadSettingsApply4_s.chip rWakeStatus) 4 = false :=
  by decide +kernel

/-! Obligations.GptpTimeAndLinks -/

def gptpTimeAndLinks1_s : State := st on
theorem wit_gptpTimeAndLinks1 :
    portOn gptpTimeAndLinks1_s.chip ({ port := 0, domain := 0, time := 5, offset := 5 } : SyncMsg).port.val = false ∨ ({ port := 0, domain := 0, time := 5, offset := 5 } : SyncMsg).domain ≠ 0 :=
  by decide +kernel

def gptpTimeAndLinks2_s : State := st (chipOf [(0x31028, 1), (0x31030, 1)] on)
theorem wit_gptpTimeAndLinks2 :
    portOn gptpTimeAndLinks2_s.chip ({ port := 0, domain := 0, time := 5, offset := -1000 } : SyncMsg).port.val = true ∧
    ({ port := 0, domain := 0, time := 5, offset := -1000 } : SyncMsg).domain = 0 ∧
    locked gptpTimeAndLinks2_s.chip = true ∧
    ({ port := 0, domain := 0, time := 5, offset := -1000 } : SyncMsg).offset.natAbs ≤ 1000 :=
  by decide +kernel

def gptpTimeAndLinks3_s : State := { st (chipOf [(0x31028, 1)] on) with net := { good := 15 } }
theorem wit_gptpTimeAndLinks3 :
    portOn gptpTimeAndLinks3_s.chip ({ port := 0, domain := 0, time := 5, offset := 100 } : SyncMsg).port.val = true ∧
    ({ port := 0, domain := 0, time := 5, offset := 100 } : SyncMsg).domain = 0 ∧
    locked gptpTimeAndLinks3_s.chip = false ∧
    ({ port := 0, domain := 0, time := 5, offset := 100 } : SyncMsg).offset.natAbs ≤ 100 ∧
    gptpTimeAndLinks3_s.net.good = 15 :=
  by decide +kernel

def gptpTimeAndLinks4_s : State := st (chipOf [(0x31028, 1), (0x31030, 1)] on)
theorem wit_gptpTimeAndLinks4 :
    portOn gptpTimeAndLinks4_s.chip ({ port := 0, domain := 0, time := 5, offset := 1001 } : SyncMsg).port.val = true ∧
    ({ port := 0, domain := 0, time := 5, offset := 1001 } : SyncMsg).domain = 0 ∧
    locked gptpTimeAndLinks4_s.chip = true ∧
    1000 < ({ port := 0, domain := 0, time := 5, offset := 1001 } : SyncMsg).offset.natAbs :=
  by decide +kernel

def gptpTimeAndLinks5_s : State := st (chipOf [(0x31030, 1), (0x31000, 0)] on)
theorem wit_gptpTimeAndLinks5 :
    modeOf gptpTimeAndLinks5_s.chip ≤ 1 ∧
    bit (getReg gptpTimeAndLinks5_s.chip rGptp) 1 = false ∧
    bit (getReg gptpTimeAndLinks5_s.chip rNetCfg) 4 = false ∧
    locked gptpTimeAndLinks5_s.chip = true :=
  by decide +kernel

def gptpTimeAndLinks6_s : State := st (chipOf [(0x31000, 16)] on)
theorem wit_gptpTimeAndLinks6 :
    modeOf gptpTimeAndLinks6_s.chip ≤ 1 ∧
    bit (getReg gptpTimeAndLinks6_s.chip rGptp) 1 = false ∧
    bit (getReg gptpTimeAndLinks6_s.chip rNetCfg) 4 = true :=
  by decide +kernel

def gptpTimeAndLinks7_s : State := st on
theorem wit_gptpTimeAndLinks7 :
    modeOf gptpTimeAndLinks7_s.chip ≤ 1 ∧
    ((true : Bool) = true → bit (getReg gptpTimeAndLinks7_s.chip rNetCfg) (2 + (1 : Fin 2).val) = true) :=
  by decide +kernel

/-! ListenerFrames, in Obligations.StreamsAndResults -/

def listenerFrames1_s : State := st on
theorem wit_listenerFrames1 :
    portOn listenerFrames1_s.chip ({ frame := { port := 0, dst := 0x010000000000, tags := [], bytes := 100, sdu := 80, seq := none }, streamId := 7, fmt := 0, rate48 := some false, tv := true, timestamp := 0, ch := 1, samples := [[5]] } : AvtpPacket).frame.port.val = false ∨ frameOk listenerFrames1_s.net ({ frame := { port := 0, dst := 0x010000000000, tags := [], bytes := 100, sdu := 80, seq := none }, streamId := 7, fmt := 0, rate48 := some false, tv := true, timestamp := 0, ch := 1, samples := [[5]] } : AvtpPacket).frame = false :=
  by decide +kernel

def listenerFrames2_s : State := st (chipOf [(0x31028, 1), (0x35000, 0), (0x35004, 0x10050100), (0x35008, 0x004F2000)] on)
theorem wit_listenerFrames2 :
    (portOn listenerFrames2_s.chip ({ frame := { port := 0, dst := 0x010000000000, tags := [(0, 5)], bytes := 100, sdu := 80, seq := none }, streamId := 7, fmt := 0, rate48 := some false, tv := true, timestamp := 0, ch := 1, samples := [[5]] } : AvtpPacket).frame.port.val = true ∧
    frameOk listenerFrames2_s.net ({ frame := { port := 0, dst := 0x010000000000, tags := [(0, 5)], bytes := 100, sdu := 80, seq := none }, streamId := 7, fmt := 0, rate48 := some false, tv := true, timestamp := 0, ch := 1, samples := [[5]] } : AvtpPacket).frame = true ∧
    streamEntry listenerFrames2_s.chip (tsnBase ({ frame := { port := 0, dst := 0x010000000000, tags := [(0, 5)], bytes := 100, sdu := 80, seq := none }, streamId := 7, fmt := 0, rate48 := some false, tv := true, timestamp := 0, ch := 1, samples := [[5]] } : AvtpPacket).frame.port.val + 0x1000) ({ frame := { port := 0, dst := 0x010000000000, tags := [(0, 5)], bytes := 100, sdu := 80, seq := none }, streamId := 7, fmt := 0, rate48 := some false, tv := true, timestamp := 0, ch := 1, samples := [[5]] } : AvtpPacket).frame.dst.toNat (vidOf ({ frame := { port := 0, dst := 0x010000000000, tags := [(0, 5)], bytes := 100, sdu := 80, seq := none }, streamId := 7, fmt := 0, rate48 := some false, tv := true, timestamp := 0, ch := 1, samples := [[5]] } : AvtpPacket).frame) = some (0 : Nat)) ∧
    (fld (getReg listenerFrames2_s.chip (tsnBase ({ frame := { port := 0, dst := 0x010000000000, tags := [(0, 5)], bytes := 100, sdu := 80, seq := none }, streamId := 7, fmt := 0, rate48 := some false, tv := true, timestamp := 0, ch := 1, samples := [[5]] } : AvtpPacket).frame.port.val + 0x1008 + 16 * (0 : Nat)) : Nat) 16 14 < ({ frame := { port := 0, dst := 0x010000000000, tags := [(0, 5)], bytes := 100, sdu := 80, seq := none }, streamId := 7, fmt := 0, rate48 := some false, tv := true, timestamp := 0, ch := 1, samples := [[5]] } : AvtpPacket).frame.sdu ∨ gateOpen listenerFrames2_s.chip ({ frame := { port := 0, dst := 0x010000000000, tags := [(0, 5)], bytes := 100, sdu := 80, seq := none }, streamId := 7, fmt := 0, rate48 := some false, tv := true, timestamp := 0, ch := 1, samples := [[5]] } : AvtpPacket).frame.port.val (fld (getReg listenerFrames2_s.chip (tsnBase ({ frame := { port := 0, dst := 0x010000000000, tags := [(0, 5)], bytes := 100, sdu := 80, seq := none }, streamId := 7, fmt := 0, rate48 := some false, tv := true, timestamp := 0, ch := 1, samples := [[5]] } : AvtpPacket).frame.port.val + 0x1008 + 16 * (0 : Nat)) : Nat) 0 6) = false ∨ (fld (getReg listenerFrames2_s.chip (tsnBase ({ frame := { port := 0, dst := 0x010000000000, tags := [(0, 5)], bytes := 100, sdu := 80, seq := none }, streamId := 7, fmt := 0, rate48 := some false, tv := true, timestamp := 0, ch := 1, samples := [[5]] } : AvtpPacket).frame.port.val + 0x1008 + 16 * (0 : Nat)) : Nat) 8 6 < 32 ∧ ∃ y m, meterFrame (tsnWord listenerFrames2_s.chip (tsnBase ({ frame := { port := 0, dst := 0x010000000000, tags := [(0, 5)], bytes := 100, sdu := 80, seq := none }, streamId := 7, fmt := 0, rate48 := some false, tv := true, timestamp := 0, ch := 1, samples := [[5]] } : AvtpPacket).frame.port.val + 0x1400 + 32 * fld (getReg listenerFrames2_s.chip (tsnBase ({ frame := { port := 0, dst := 0x010000000000, tags := [(0, 5)], bytes := 100, sdu := 80, seq := none }, streamId := 7, fmt := 0, rate48 := some false, tv := true, timestamp := 0, ch := 1, samples := [[5]] } : AvtpPacket).frame.port.val + 0x1008 + 16 * (0 : Nat)) : Nat) 8 6)) (tsnWord listenerFrames2_s.chip (tsnBase ({ frame := { port := 0, dst := 0x010000000000, tags := [(0, 5)], bytes := 100, sdu := 80, seq := none }, streamId := 7, fmt := 0, rate48 := some false, tv := true, timestamp := 0, ch := 1, samples := [[5]] } : AvtpPacket).frame.port.val + 0x1408 + 32 * fld (getReg listenerFrames2_s.chip (tsnBase ({ frame := { port := 0, dst := 0x010000000000, tags := [(0, 5)], bytes := 100, sdu := 80, seq := none }, streamId := 7, fmt := 0, rate48 := some false, tv := true, timestamp := 0, ch := 1, samples := [[5]] } : AvtpPacket).frame.port.val + 0x1008 + 16 * (0 : Nat)) : Nat) 8 6)) (getReg listenerFrames2_s.chip (tsnBase ({ frame := { port := 0, dst := 0x010000000000, tags := [(0, 5)], bytes := 100, sdu := 80, seq := none }, streamId := 7, fmt := 0, rate48 := some false, tv := true, timestamp := 0, ch := 1, samples := [[5]] } : AvtpPacket).frame.port.val + 0x1410 + 32 * fld (getReg listenerFrames2_s.chip (tsnBase ({ frame := { port := 0, dst := 0x010000000000, tags := [(0, 5)], bytes := 100, sdu := 80, seq := none }, streamId := 7, fmt := 0, rate48 := some false, tv := true, timestamp := 0, ch := 1, samples := [[5]] } : AvtpPacket).frame.port.val + 0x1008 + 16 * (0 : Nat)) : Nat) 8 6)) listenerFrames2_s.chip.gptpNs ({ frame := { port := 0, dst := 0x010000000000, tags := [(0, 5)], bytes := 100, sdu := 80, seq := none }, streamId := 7, fmt := 0, rate48 := some false, tv := true, timestamp := 0, ch := 1, samples := [[5]] } : AvtpPacket).frame.bytes (tabFind listenerFrames2_s.net.meters (32 * ({ frame := { port := 0, dst := 0x010000000000, tags := [(0, 5)], bytes := 100, sdu := 80, seq := none }, streamId := 7, fmt := 0, rate48 := some false, tv := true, timestamp := 0, ch := 1, samples := [[5]] } : AvtpPacket).frame.port.val + fld (getReg listenerFrames2_s.chip (tsnBase ({ frame := { port := 0, dst := 0x010000000000, tags := [(0, 5)], bytes := 100, sdu := 80, seq := none }, streamId := 7, fmt := 0, rate48 := some false, tv := true, timestamp := 0, ch := 1, samples := [[5]] } : AvtpPacket).frame.port.val + 0x1008 + 16 * (0 : Nat)) : Nat) 8 6)) = (y, m) ∧ (y = .red ∨ (y = .yellow ∧ bit (getReg listenerFrames2_s.chip (tsnBase ({ frame := { port := 0, dst := 0x010000000000, tags := [(0, 5)], bytes := 100, sdu := 80, seq := none }, streamId := 7, fmt := 0, rate48 := some false, tv := true, timestamp := 0, ch := 1, samples := [[5]] } : AvtpPacket).frame.port.val + 0x1410 + 32 * fld (getReg listenerFrames2_s.chip (tsnBase ({ frame := { port := 0, dst := 0x010000000000, tags := [(0, 5)], bytes := 100, sdu := 80, seq := none }, streamId := 7, fmt := 0, rate48 := some false, tv := true, timestamp := 0, ch := 1, samples := [[5]] } : AvtpPacket).frame.port.val + 0x1008 + 16 * (0 : Nat)) : Nat) 8 6)) 1 = true)))) :=
  ⟨by decide +kernel, .inl (by decide +kernel)⟩

def listenerFrames3_s : State := { st (chipOf [(0x31028, 1), (0x3C400, 0), (0x3C404, 0x10050100)] on) with net := { recovery := [(0, { top := 9, seen := [true, false, true] ++ List.replicate 29 false })] } }
theorem wit_listenerFrames3 :
    portOn listenerFrames3_s.chip ({ frame := { port := 0, dst := 0x010000000000, tags := [(0, 5)], bytes := 100, sdu := 80, seq := some 7 }, streamId := 7, fmt := 0, rate48 := some false, tv := true, timestamp := 0, ch := 1, samples := [[5]] } : AvtpPacket).frame.port.val = true ∧
    frameOk listenerFrames3_s.net ({ frame := { port := 0, dst := 0x010000000000, tags := [(0, 5)], bytes := 100, sdu := 80, seq := some 7 }, streamId := 7, fmt := 0, rate48 := some false, tv := true, timestamp := 0, ch := 1, samples := [[5]] } : AvtpPacket).frame = true ∧
    (filterFrame ({ frame := { port := 0, dst := 0x010000000000, tags := [(0, 5)], bytes := 100, sdu := 80, seq := some 7 }, streamId := 7, fmt := 0, rate48 := some false, tv := true, timestamp := 0, ch := 1, samples := [[5]] } : AvtpPacket).frame listenerFrames3_s.dev).1 = true ∧
    streamEntry listenerFrames3_s.chip 0x3C400 ({ frame := { port := 0, dst := 0x010000000000, tags := [(0, 5)], bytes := 100, sdu := 80, seq := some 7 }, streamId := 7, fmt := 0, rate48 := some false, tv := true, timestamp := 0, ch := 1, samples := [[5]] } : AvtpPacket).frame.dst.toNat (vidOf ({ frame := { port := 0, dst := 0x010000000000, tags := [(0, 5)], bytes := 100, sdu := 80, seq := some 7 }, streamId := 7, fmt := 0, rate48 := some false, tv := true, timestamp := 0, ch := 1, samples := [[5]] } : AvtpPacket).frame) = some (0 : Nat) ∧
    ({ frame := { port := 0, dst := 0x010000000000, tags := [(0, 5)], bytes := 100, sdu := 80, seq := some 7 }, streamId := 7, fmt := 0, rate48 := some false, tv := true, timestamp := 0, ch := 1, samples := [[5]] } : AvtpPacket).frame.seq = some (7 : BitVec 16) ∧
    tabFind listenerFrames3_s.net.recovery (0 : Nat) = some ({ top := 9, seen := [true, false, true] ++ List.replicate 29 false } : Recovery) ∧
    (7 : BitVec 16).toNat ≤ ({ top := 9, seen := [true, false, true] ++ List.replicate 29 false } : Recovery).top ∧
    ({ top := 9, seen := [true, false, true] ++ List.replicate 29 false } : Recovery).top < (7 : BitVec 16).toNat + 32 ∧
    ({ top := 9, seen := [true, false, true] ++ List.replicate 29 false } : Recovery).top < 2 ^ 16 ∧
    ({ top := 9, seen := [true, false, true] ++ List.replicate 29 false } : Recovery).seen.getD (({ top := 9, seen := [true, false, true] ++ List.replicate 29 false } : Recovery).top - (7 : BitVec 16).toNat) false = true :=
  by decide +kernel

def listenerFrames4_s : State := st (chipOf [(0x31028, 1)] on)
theorem wit_listenerFrames4 :
    Accepted ({ frame := { port := 0, dst := 0x010000000000, tags := [], bytes := 100, sdu := 80, seq := none }, streamId := 7, fmt := 0, rate48 := some false, tv := true, timestamp := 0, ch := 1, samples := [[5]] } : AvtpPacket).frame listenerFrames4_s ∧
    (listenerOf listenerFrames4_s.chip ({ frame := { port := 0, dst := 0x010000000000, tags := [], bytes := 100, sdu := 80, seq := none }, streamId := 7, fmt := 0, rate48 := some false, tv := true, timestamp := 0, ch := 1, samples := [[5]] } : AvtpPacket).streamId.toNat = none ∨ ∃ w, listenerOf listenerFrames4_s.chip ({ frame := { port := 0, dst := 0x010000000000, tags := [], bytes := 100, sdu := 80, seq := none }, streamId := 7, fmt := 0, rate48 := some false, tv := true, timestamp := 0, ch := 1, samples := [[5]] } : AvtpPacket).streamId.toNat = some w ∧ (packetBad ({ frame := { port := 0, dst := 0x010000000000, tags := [], bytes := 100, sdu := 80, seq := none }, streamId := 7, fmt := 0, rate48 := some false, tv := true, timestamp := 0, ch := 1, samples := [[5]] } : AvtpPacket) = true ∨ listenBad w ({ frame := { port := 0, dst := 0x010000000000, tags := [], bytes := 100, sdu := 80, seq := none }, streamId := 7, fmt := 0, rate48 := some false, tv := true, timestamp := 0, ch := 1, samples := [[5]] } : AvtpPacket) = true)) :=
  ⟨by unfold Accepted; decide +kernel, .inl (by decide +kernel)⟩

def listenerFrames5_s : State := st (chipOf [(0x31028, 1)] { on with mem := memWriteN [] 0xF0040600000 (leBytes 8 7 ++ leBytes 8 0x30003), gptpNs := 50000000 })
theorem wit_listenerFrames5 :
    (listenerOf listenerFrames5_s.chip ({ frame := { port := 0, dst := 0x010000000000, tags := [], bytes := 100, sdu := 80, seq := none }, streamId := 7, fmt := 0, rate48 := some false, tv := true, timestamp := 0, ch := 1, samples := [[5]] } : AvtpPacket).streamId.toNat = some ([7, 0x30003, 0, 0] : List Nat) ∧
    packetBad ({ frame := { port := 0, dst := 0x010000000000, tags := [], bytes := 100, sdu := 80, seq := none }, streamId := 7, fmt := 0, rate48 := some false, tv := true, timestamp := 0, ch := 1, samples := [[5]] } : AvtpPacket) = false ∧
    listenBad ([7, 0x30003, 0, 0] : List Nat) ({ frame := { port := 0, dst := 0x010000000000, tags := [], bytes := 100, sdu := 80, seq := none }, streamId := 7, fmt := 0, rate48 := some false, tv := true, timestamp := 0, ch := 1, samples := [[5]] } : AvtpPacket) = false ∧
    ({ frame := { port := 0, dst := 0x010000000000, tags := [], bytes := 100, sdu := 80, seq := none }, streamId := 7, fmt := 0, rate48 := some false, tv := true, timestamp := 0, ch := 1, samples := [[5]] } : AvtpPacket).ch = 1 ∧
    ({ frame := { port := 0, dst := 0x010000000000, tags := [], bytes := 100, sdu := 80, seq := none }, streamId := 7, fmt := 0, rate48 := some false, tv := true, timestamp := 0, ch := 1, samples := [[5]] } : AvtpPacket).samples = [[(5 : Int)]] ∧
    tabFind listenerFrames5_s.net.slots (fld (([7, 0x30003, 0, 0] : List Nat).getD 1 0) 16 9 : Nat) = none ∧
    10000000 * (((roundDiv (fullTime listenerFrames5_s.chip.gptpNs ({ frame := { port := 0, dst := 0x010000000000, tags := [], bytes := 100, sdu := 80, seq := none }, streamId := 7, fmt := 0, rate48 := some false, tv := true, timestamp := 0, ch := 1, samples := [[5]] } : AvtpPacket).timestamp.toNat * (if (bit (([7, 0x30003, 0, 0] : List Nat).getD 1 0) 5 : Bool) then 48000 else 16000)) 1000000000 : Nat) / frameLen (bit (([7, 0x30003, 0, 0] : List Nat).getD 1 0) 5 : Bool) : Nat) + 1) + 100000 * getF listenerFrames5_s.chip rNetCfg 13 6 ≤ listenerFrames5_s.chip.gptpNs) ∧
    Accepted ({ frame := { port := 0, dst := 0x010000000000, tags := [], bytes := 100, sdu := 80, seq := none }, streamId := 7, fmt := 0, rate48 := some false, tv := true, timestamp := 0, ch := 1, samples := [[5]] } : AvtpPacket).frame listenerFrames5_s :=
  ⟨by decide +kernel, by unfold Accepted; decide +kernel⟩

def listenerFrames6_s : State := st (chipOf [(0x31028, 1)] { on with mem := memWriteN [] 0xF0040600000 (leBytes 8 7 ++ leBytes 8 0x30003) })
theorem wit_listenerFrames6 :
    (listenerOf listenerFrames6_s.chip ({ frame := { port := 0, dst := 0x010000000000, tags := [], bytes := 100, sdu := 80, seq := none }, streamId := 7, fmt := 0, rate48 := some false, tv := true, timestamp := 0, ch := 1, samples := [[5]] } : AvtpPacket).streamId.toNat = some ([7, 0x30003, 0, 0] : List Nat) ∧
    packetBad ({ frame := { port := 0, dst := 0x010000000000, tags := [], bytes := 100, sdu := 80, seq := none }, streamId := 7, fmt := 0, rate48 := some false, tv := true, timestamp := 0, ch := 1, samples := [[5]] } : AvtpPacket) = false ∧
    listenBad ([7, 0x30003, 0, 0] : List Nat) ({ frame := { port := 0, dst := 0x010000000000, tags := [], bytes := 100, sdu := 80, seq := none }, streamId := 7, fmt := 0, rate48 := some false, tv := true, timestamp := 0, ch := 1, samples := [[5]] } : AvtpPacket) = false ∧
    ({ frame := { port := 0, dst := 0x010000000000, tags := [], bytes := 100, sdu := 80, seq := none }, streamId := 7, fmt := 0, rate48 := some false, tv := true, timestamp := 0, ch := 1, samples := [[5]] } : AvtpPacket).ch = 1 ∧
    ({ frame := { port := 0, dst := 0x010000000000, tags := [], bytes := 100, sdu := 80, seq := none }, streamId := 7, fmt := 0, rate48 := some false, tv := true, timestamp := 0, ch := 1, samples := [[5]] } : AvtpPacket).samples = [[(5 : Int)]] ∧
    tabFind listenerFrames6_s.net.slots (fld (([7, 0x30003, 0, 0] : List Nat).getD 1 0) 16 9 : Nat) = none ∧
    listenerFrames6_s.chip.gptpNs < 10000000 * (((roundDiv (fullTime listenerFrames6_s.chip.gptpNs ({ frame := { port := 0, dst := 0x010000000000, tags := [], bytes := 100, sdu := 80, seq := none }, streamId := 7, fmt := 0, rate48 := some false, tv := true, timestamp := 0, ch := 1, samples := [[5]] } : AvtpPacket).timestamp.toNat * (if (bit (([7, 0x30003, 0, 0] : List Nat).getD 1 0) 5 : Bool) then 48000 else 16000)) 1000000000 : Nat) / frameLen (bit (([7, 0x30003, 0, 0] : List Nat).getD 1 0) 5 : Bool) : Nat) + 1) + 100000 * getF listenerFrames6_s.chip rNetCfg 13 6) ∧
    Accepted ({ frame := { port := 0, dst := 0x010000000000, tags := [], bytes := 100, sdu := 80, seq := none }, streamId := 7, fmt := 0, rate48 := some false, tv := true, timestamp := 0, ch := 1, samples := [[5]] } : AvtpPacket).frame listenerFrames6_s :=
  ⟨by decide +kernel, by unfold Accepted; decide +kernel⟩

def listenerFrames7_s : State := st (chipOf [(0x31028, 1)] on)
theorem wit_listenerFrames7 :
    (({ frame := { port := 0, dst := 0x010000000000, tags := [], bytes := 100, sdu := 80, seq := none }, op := 1, senderMac := 0x7411, senderIp := 0x0A000001, targetIp := 0 } : ArpPacket).op = 1 ∧
    ({ frame := { port := 0, dst := 0x010000000000, tags := [], bytes := 100, sdu := 80, seq := none }, op := 1, senderMac := 0x7411, senderIp := 0x0A000001, targetIp := 0 } : ArpPacket).targetIp.toNat = getReg listenerFrames7_s.chip 0x31008 ∧
    TxFree listenerFrames7_s.chip [({ frame := { port := 0, dst := 0x010000000000, tags := [], bytes := 100, sdu := 80, seq := none }, op := 1, senderMac := 0x7411, senderIp := 0x0A000001, targetIp := 0 } : ArpPacket).frame.port.val] 0 64 listenerFrames7_s.chip.gptpNs) ∧
    Accepted ({ frame := { port := 0, dst := 0x010000000000, tags := [], bytes := 100, sdu := 80, seq := none }, op := 1, senderMac := 0x7411, senderIp := 0x0A000001, targetIp := 0 } : ArpPacket).frame listenerFrames7_s :=
  ⟨by decide +kernel, by unfold Accepted; decide +kernel⟩

def listenerFrames8_s : State := st (chipOf [(0x31028, 1)] on)
theorem wit_listenerFrames8 :
    (({ frame := { port := 0, dst := 0x010000000000, tags := [], bytes := 100, sdu := 80, seq := none }, srcMac := 0x7411, srcIp := 0x0A000001, dstIp := 0, fragment := false, ident := 5, seq := 6, data := [1, 2, 3] } : EchoRequest).fragment = false ∧
    ({ frame := { port := 0, dst := 0x010000000000, tags := [], bytes := 100, sdu := 80, seq := none }, srcMac := 0x7411, srcIp := 0x0A000001, dstIp := 0, fragment := false, ident := 5, seq := 6, data := [1, 2, 3] } : EchoRequest).dstIp.toNat = getReg listenerFrames8_s.chip 0x31008 ∧
    TxFree listenerFrames8_s.chip [({ frame := { port := 0, dst := 0x010000000000, tags := [], bytes := 100, sdu := 80, seq := none }, srcMac := 0x7411, srcIp := 0x0A000001, dstIp := 0, fragment := false, ident := 5, seq := 6, data := [1, 2, 3] } : EchoRequest).frame.port.val] 0 (etherBytes 0 (28 + ({ frame := { port := 0, dst := 0x010000000000, tags := [], bytes := 100, sdu := 80, seq := none }, srcMac := 0x7411, srcIp := 0x0A000001, dstIp := 0, fragment := false, ident := 5, seq := 6, data := [1, 2, 3] } : EchoRequest).data.length)) listenerFrames8_s.chip.gptpNs) ∧
    Accepted ({ frame := { port := 0, dst := 0x010000000000, tags := [], bytes := 100, sdu := 80, seq := none }, srcMac := 0x7411, srcIp := 0x0A000001, dstIp := 0, fragment := false, ident := 5, seq := 6, data := [1, 2, 3] } : EchoRequest).frame listenerFrames8_s :=
  ⟨by decide +kernel, by unfold Accepted; decide +kernel⟩

def listenerFrames9_s : State := { st on with net := { slots := [(3, { frames := [{ k := 0, got := [(0, 5)] }] })] } }
theorem wit_listenerFrames9 :
    modeOf listenerFrames9_s.chip ≤ 1 ∧
    tabFind listenerFrames9_s.net.slots (3 : Fin 512).val = some ({ frames := [{ k := 0, got := [(0, 5)] }] } : RxSlot) ∧
    closing ({ frames := [{ k := 0, got := [(0, 5)] }] } : RxSlot) (0 : BitVec 32).toNat = some ({ k := 0, got := [(0, 5)] } : RxFrame) :=
  by decide +kernel

/-! TalkersAndResultsLeave, in Obligations.StreamsAndResults -/

def talkersAndResultsLeave1_s : State := st { on with mem := memWriteN [(4, 1)] 0xF0040604008 (leBytes 8 3) }
theorem wit_talkersAndResultsLeave1 :
    (modeOf talkersAndResultsLeave1_s.chip ≤ 1 ∧
    talkerOf talkersAndResultsLeave1_s.chip (0 : Fin 2048).val = some ([0, 3, 0, 0] : List Nat) ∧
    numAt (memReadN [(4, 1)] 0 704 : List Byte) 0 4 = (0 : BitVec 32).toNat ∧
    bit (numAt (memReadN [(4, 1)] 0 704 : List Byte) 4 4) 0 = true ∧
    talkerHeld ((runHub hubMaster (.unit (2 + (0 : Fin 2048).val)) (readAny 0 (fld (([0, 3, 0, 0] : List Nat).getD 3 0) 0 48 + (0 : BitVec 32).toNat % 64 * (roundUp (64 + fld (([0, 3, 0, 0] : List Nat).getD 1 0 : Nat) 1 4 * unitLen (([0, 3, 0, 0] : List Nat).getD 1 0 : Nat) * (if bit (([0, 3, 0, 0] : List Nat).getD 1 0 : Nat) 5 then 4 else 2)) 64 : Nat)) (roundUp (64 + fld (([0, 3, 0, 0] : List Nat).getD 1 0 : Nat) 1 4 * unitLen (([0, 3, 0, 0] : List Nat).getD 1 0 : Nat) * (if bit (([0, 3, 0, 0] : List Nat).getD 1 0 : Nat) 5 then 4 else 2)) 64 : Nat)) talkersAndResultsLeave1_s.chip).1 : Chip) ([0, 3, 0, 0] : List Nat) = false) ∧
    runHub hubMaster (.unit (2 + (0 : Fin 2048).val)) (readAny 0 (fld (([0, 3, 0, 0] : List Nat).getD 3 0) 0 48 + (0 : BitVec 32).toNat % 64 * (roundUp (64 + fld (([0, 3, 0, 0] : List Nat).getD 1 0 : Nat) 1 4 * unitLen (([0, 3, 0, 0] : List Nat).getD 1 0 : Nat) * (if bit (([0, 3, 0, 0] : List Nat).getD 1 0 : Nat) 5 then 4 else 2)) 64 : Nat)) (roundUp (64 + fld (([0, 3, 0, 0] : List Nat).getD 1 0 : Nat) 1 4 * unitLen (([0, 3, 0, 0] : List Nat).getD 1 0 : Nat) * (if bit (([0, 3, 0, 0] : List Nat).getD 1 0 : Nat) 5 then 4 else 2)) 64 : Nat)) talkersAndResultsLeave1_s.chip = (((runHub hubMaster (.unit (2 + (0 : Fin 2048).val)) (readAny 0 (fld (([0, 3, 0, 0] : List Nat).getD 3 0) 0 48 + (0 : BitVec 32).toNat % 64 * (roundUp (64 + fld (([0, 3, 0, 0] : List Nat).getD 1 0 : Nat) 1 4 * unitLen (([0, 3, 0, 0] : List Nat).getD 1 0 : Nat) * (if bit (([0, 3, 0, 0] : List Nat).getD 1 0 : Nat) 5 then 4 else 2)) 64 : Nat)) (roundUp (64 + fld (([0, 3, 0, 0] : List Nat).getD 1 0 : Nat) 1 4 * unitLen (([0, 3, 0, 0] : List Nat).getD 1 0 : Nat) * (if bit (([0, 3, 0, 0] : List Nat).getD 1 0 : Nat) 5 then 4 else 2)) 64 : Nat)) talkersAndResultsLeave1_s.chip).1 : Chip), .done (memReadN [(4, 1)] 0 704 : List Byte)) :=
  ⟨by decide +kernel, paired _ _ (by decide +kernel)⟩

def talkersAndResultsLeave2_s : State := st { on with mem := memWriteN [(4, 1)] 0xF0040604008 (leBytes 8 3) }
theorem wit_talkersAndResultsLeave2 :
    (modeOf talkersAndResultsLeave2_s.chip ≤ 1 ∧
    talkerOf talkersAndResultsLeave2_s.chip (0 : Fin 2048).val = some ([0, 3, 0, 0] : List Nat) ∧
    (numAt (memReadN [] 0 704 : List Byte) 0 4 ≠ (1 : BitVec 32).toNat ∨ bit (numAt (memReadN [] 0 704 : List Byte) 4 4) 0 = false ∨ talkerHeld ((runHub hubMaster (.unit (2 + (0 : Fin 2048).val)) (readAny 0 (fld (([0, 3, 0, 0] : List Nat).getD 3 0) 0 48 + (1 : BitVec 32).toNat % 64 * (roundUp (64 + fld (([0, 3, 0, 0] : List Nat).getD 1 0 : Nat) 1 4 * unitLen (([0, 3, 0, 0] : List Nat).getD 1 0 : Nat) * (if bit (([0, 3, 0, 0] : List Nat).getD 1 0 : Nat) 5 then 4 else 2)) 64 : Nat)) (roundUp (64 + fld (([0, 3, 0, 0] : List Nat).getD 1 0 : Nat) 1 4 * unitLen (([0, 3, 0, 0] : List Nat).getD 1 0 : Nat) * (if bit (([0, 3, 0, 0] : List Nat).getD 1 0 : Nat) 5 then 4 else 2)) 64 : Nat)) talkersAndResultsLeave2_s.chip).1 : Chip) ([0, 3, 0, 0] : List Nat) = true)) ∧
    runHub hubMaster (.unit (2 + (0 : Fin 2048).val)) (readAny 0 (fld (([0, 3, 0, 0] : List Nat).getD 3 0) 0 48 + (1 : BitVec 32).toNat % 64 * (roundUp (64 + fld (([0, 3, 0, 0] : List Nat).getD 1 0 : Nat) 1 4 * unitLen (([0, 3, 0, 0] : List Nat).getD 1 0 : Nat) * (if bit (([0, 3, 0, 0] : List Nat).getD 1 0 : Nat) 5 then 4 else 2)) 64 : Nat)) (roundUp (64 + fld (([0, 3, 0, 0] : List Nat).getD 1 0 : Nat) 1 4 * unitLen (([0, 3, 0, 0] : List Nat).getD 1 0 : Nat) * (if bit (([0, 3, 0, 0] : List Nat).getD 1 0 : Nat) 5 then 4 else 2)) 64 : Nat)) talkersAndResultsLeave2_s.chip = (((runHub hubMaster (.unit (2 + (0 : Fin 2048).val)) (readAny 0 (fld (([0, 3, 0, 0] : List Nat).getD 3 0) 0 48 + (1 : BitVec 32).toNat % 64 * (roundUp (64 + fld (([0, 3, 0, 0] : List Nat).getD 1 0 : Nat) 1 4 * unitLen (([0, 3, 0, 0] : List Nat).getD 1 0 : Nat) * (if bit (([0, 3, 0, 0] : List Nat).getD 1 0 : Nat) 5 then 4 else 2)) 64 : Nat)) (roundUp (64 + fld (([0, 3, 0, 0] : List Nat).getD 1 0 : Nat) 1 4 * unitLen (([0, 3, 0, 0] : List Nat).getD 1 0 : Nat) * (if bit (([0, 3, 0, 0] : List Nat).getD 1 0 : Nat) 5 then 4 else 2)) 64 : Nat)) talkersAndResultsLeave2_s.chip).1 : Chip), .done (memReadN [] 0 704 : List Byte)) :=
  ⟨by decide +kernel, paired _ _ (by decide +kernel)⟩

def talkersAndResultsLeave3_s : State := { st (chipOf [(0x31028, 1)] { on with gptpNs := 99000000 }) with net := { units := [(0, { n := 0, zero := false, tick := 5, words := [0, 3, 0, 0], samples := List.replicate 320 [0], next := 3 })] } }
theorem wit_talkersAndResultsLeave3 :
    modeOf talkersAndResultsLeave3_s.chip ≤ 1 ∧
    unitDue talkersAndResultsLeave3_s.net (0 : Fin 2048).val (3 : Nat) = some ((0 : Nat), ({ n := 0, zero := false, tick := 5, words := [0, 3, 0, 0], samples := List.replicate 320 [0], next := 3 } : TxUnit)) ∧
    packetTime ({ n := 0, zero := false, tick := 5, words := [0, 3, 0, 0], samples := List.replicate 320 [0], next := 3 } : TxUnit) (3 : Nat) < talkersAndResultsLeave3_s.chip.gptpNs ∧
    (talkerHeld talkersAndResultsLeave3_s.chip ({ n := 0, zero := false, tick := 5, words := [0, 3, 0, 0], samples := List.replicate 320 [0], next := 3 } : TxUnit).words = false ∨ ({ n := 0, zero := false, tick := 5, words := [0, 3, 0, 0], samples := List.replicate 320 [0], next := 3 } : TxUnit).zero = true) :=
  by decide +kernel

def talkersAndResultsLeave4_s : State := { st (chipOf [(0x31028, 1)] { on with jobs := [(0, { contained := true })] }) with net := { units := [(0, { n := 0, zero := false, tick := 5, words := [0, 3, 0, 0], samples := List.replicate 320 [0], next := 0 })] } }
theorem wit_talkersAndResultsLeave4 :
    modeOf talkersAndResultsLeave4_s.chip ≤ 1 ∧
    unitDue talkersAndResultsLeave4_s.net (0 : Fin 2048).val (0 : Nat) = some ((0 : Nat), ({ n := 0, zero := false, tick := 5, words := [0, 3, 0, 0], samples := List.replicate 320 [0], next := 0 } : TxUnit)) ∧
    talkersAndResultsLeave4_s.chip.gptpNs ≤ packetTime ({ n := 0, zero := false, tick := 5, words := [0, 3, 0, 0], samples := List.replicate 320 [0], next := 0 } : TxUnit) (0 : Nat) ∧
    TxFree talkersAndResultsLeave4_s.chip (portsUp talkersAndResultsLeave4_s.chip (fld (({ n := 0, zero := false, tick := 5, words := [0, 3, 0, 0], samples := List.replicate 320 [0], next := 0 } : TxUnit).words.getD 1 0 : Nat) 9 2) : List Nat) (fld (({ n := 0, zero := false, tick := 5, words := [0, 3, 0, 0], samples := List.replicate 320 [0], next := 0 } : TxUnit).words.getD 1 0 : Nat) 11 3) (etherBytes (if ((nextSeq (fld (({ n := 0, zero := false, tick := 5, words := [0, 3, 0, 0], samples := List.replicate 320 [0], next := 0 } : TxUnit).words.getD 2 0) 0 48) (fld (({ n := 0, zero := false, tick := 5, words := [0, 3, 0, 0], samples := List.replicate 320 [0], next := 0 } : TxUnit).words.getD 1 0 : Nat) 14 12) talkersAndResultsLeave4_s.chip).1 : Option Nat).isSome then 10 else 4) (24 + (packetLen (({ n := 0, zero := false, tick := 5, words := [0, 3, 0, 0], samples := List.replicate 320 [0], next := 0 } : TxUnit).words.getD 1 0 : Nat) : Nat) * fld (({ n := 0, zero := false, tick := 5, words := [0, 3, 0, 0], samples := List.replicate 320 [0], next := 0 } : TxUnit).words.getD 1 0 : Nat) 1 4 * (if bit (({ n := 0, zero := false, tick := 5, words := [0, 3, 0, 0], samples := List.replicate 320 [0], next := 0 } : TxUnit).words.getD 1 0 : Nat) 5 then (if bit (({ n := 0, zero := false, tick := 5, words := [0, 3, 0, 0], samples := List.replicate 320 [0], next := 0 } : TxUnit).words.getD 1 0 : Nat) 6 then 4 else 3) else 2))) (packetTime ({ n := 0, zero := false, tick := 5, words := [0, 3, 0, 0], samples := List.replicate 320 [0], next := 0 } : TxUnit) (0 : Nat)) ∧
    (∀ y ∈ ({ n := 0, zero := false, tick := 5, words := [0, 3, 0, 0], samples := List.replicate 320 [0], next := 0 } : TxUnit).samples, y.length = fld (({ n := 0, zero := false, tick := 5, words := [0, 3, 0, 0], samples := List.replicate 320 [0], next := 0 } : TxUnit).words.getD 1 0 : Nat) 1 4) ∧
    talkerHeld talkersAndResultsLeave4_s.chip ({ n := 0, zero := false, tick := 5, words := [0, 3, 0, 0], samples := List.replicate 320 [0], next := 0 } : TxUnit).words = true ∧
    ({ n := 0, zero := false, tick := 5, words := [0, 3, 0, 0], samples := List.replicate 320 [0], next := 0 } : TxUnit).zero = false ∧
    ({ n := 0, zero := false, tick := 5, words := [0, 3, 0, 0], samples := List.replicate 320 [0], next := 0 } : TxUnit).samples.length = unitLen (({ n := 0, zero := false, tick := 5, words := [0, 3, 0, 0], samples := List.replicate 320 [0], next := 0 } : TxUnit).words.getD 1 0 : Nat) :=
  by decide +kernel

def talkersAndResultsLeave5_s : State := { st (chipOf [(0x31028, 1)] on) with net := { units := [(0, { n := 0, zero := false, tick := 5, words := [0, 3, 0, 0], samples := List.replicate 320 [0], next := 159 })] } }
theorem wit_talkersAndResultsLeave5 :
    modeOf talkersAndResultsLeave5_s.chip ≤ 1 ∧
    unitDue talkersAndResultsLeave5_s.net (0 : Fin 2048).val (159 : Nat) = some ((0 : Nat), ({ n := 0, zero := false, tick := 5, words := [0, 3, 0, 0], samples := List.replicate 320 [0], next := 159 } : TxUnit)) ∧
    talkersAndResultsLeave5_s.chip.gptpNs ≤ packetTime ({ n := 0, zero := false, tick := 5, words := [0, 3, 0, 0], samples := List.replicate 320 [0], next := 159 } : TxUnit) (159 : Nat) ∧
    TxFree talkersAndResultsLeave5_s.chip (portsUp talkersAndResultsLeave5_s.chip (fld (({ n := 0, zero := false, tick := 5, words := [0, 3, 0, 0], samples := List.replicate 320 [0], next := 159 } : TxUnit).words.getD 1 0 : Nat) 9 2) : List Nat) (fld (({ n := 0, zero := false, tick := 5, words := [0, 3, 0, 0], samples := List.replicate 320 [0], next := 159 } : TxUnit).words.getD 1 0 : Nat) 11 3) (etherBytes (if ((nextSeq (fld (({ n := 0, zero := false, tick := 5, words := [0, 3, 0, 0], samples := List.replicate 320 [0], next := 159 } : TxUnit).words.getD 2 0) 0 48) (fld (({ n := 0, zero := false, tick := 5, words := [0, 3, 0, 0], samples := List.replicate 320 [0], next := 159 } : TxUnit).words.getD 1 0 : Nat) 14 12) talkersAndResultsLeave5_s.chip).1 : Option Nat).isSome then 10 else 4) (24 + (packetLen (({ n := 0, zero := false, tick := 5, words := [0, 3, 0, 0], samples := List.replicate 320 [0], next := 159 } : TxUnit).words.getD 1 0 : Nat) : Nat) * fld (({ n := 0, zero := false, tick := 5, words := [0, 3, 0, 0], samples := List.replicate 320 [0], next := 159 } : TxUnit).words.getD 1 0 : Nat) 1 4 * (if bit (({ n := 0, zero := false, tick := 5, words := [0, 3, 0, 0], samples := List.replicate 320 [0], next := 159 } : TxUnit).words.getD 1 0 : Nat) 5 then (if bit (({ n := 0, zero := false, tick := 5, words := [0, 3, 0, 0], samples := List.replicate 320 [0], next := 159 } : TxUnit).words.getD 1 0 : Nat) 6 then 4 else 3) else 2))) (packetTime ({ n := 0, zero := false, tick := 5, words := [0, 3, 0, 0], samples := List.replicate 320 [0], next := 159 } : TxUnit) (159 : Nat)) ∧
    (∀ y ∈ ({ n := 0, zero := false, tick := 5, words := [0, 3, 0, 0], samples := List.replicate 320 [0], next := 159 } : TxUnit).samples, y.length = fld (({ n := 0, zero := false, tick := 5, words := [0, 3, 0, 0], samples := List.replicate 320 [0], next := 159 } : TxUnit).words.getD 1 0 : Nat) 1 4) ∧
    (talkerHeld talkersAndResultsLeave5_s.chip ({ n := 0, zero := false, tick := 5, words := [0, 3, 0, 0], samples := List.replicate 320 [0], next := 159 } : TxUnit).words = false ∨ ({ n := 0, zero := false, tick := 5, words := [0, 3, 0, 0], samples := List.replicate 320 [0], next := 159 } : TxUnit).zero = true) :=
  by decide +kernel

def talkersAndResultsLeave6_s : State := st (chipOf [(0x31028, 1), (0x31020, 1)] { on with mem := memWriteN [] 0xF0040614006 [4] })
theorem wit_talkersAndResultsLeave6 :
    (modeOf talkersAndResultsLeave6_s.chip ≤ 1 ∧
    ((getReg talkersAndResultsLeave6_s.chip rResHead + 2 ^ 32 - getReg talkersAndResultsLeave6_s.chip rResTail) % 2 ^ 32 : Nat) ≠ 0 ∧
    ((runHub hubMaster (.unit 0) (resultRun (getReg talkersAndResultsLeave6_s.chip rResTail + (((getReg talkersAndResultsLeave6_s.chip rResHead + 2 ^ 32 - getReg talkersAndResultsLeave6_s.chip rResTail) % 2 ^ 32 : Nat) - (2 ^ getF talkersAndResultsLeave6_s.chip 0x3101C 16 5 : Nat)) : Nat) (min ((getReg talkersAndResultsLeave6_s.chip rResHead + 2 ^ 32 - getReg talkersAndResultsLeave6_s.chip rResTail) % 2 ^ 32 : Nat) (2 ^ getF talkersAndResultsLeave6_s.chip 0x3101C 16 5 : Nat))) talkersAndResultsLeave6_s.chip).1 : Chip).commits = [] ∧
    (0 : Nat) < 256 ∧
    (jobRc ((runHub hubMaster (.unit 0) (resultRun (getReg talkersAndResultsLeave6_s.chip rResTail + (((getReg talkersAndResultsLeave6_s.chip rResHead + 2 ^ 32 - getReg talkersAndResultsLeave6_s.chip rResTail) % 2 ^ 32 : Nat) - (2 ^ getF talkersAndResultsLeave6_s.chip 0x3101C 16 5 : Nat)) : Nat) (min ((getReg talkersAndResultsLeave6_s.chip rResHead + 2 ^ 32 - getReg talkersAndResultsLeave6_s.chip rResTail) % 2 ^ 32 : Nat) (2 ^ getF talkersAndResultsLeave6_s.chip 0x3101C 16 5 : Nat))) talkersAndResultsLeave6_s.chip).1 : Chip) (0 : Nat)).contained = false ∧
    jobDest ((runHub hubMaster (.unit 0) (resultRun (getReg talkersAndResultsLeave6_s.chip rResTail + (((getReg talkersAndResultsLeave6_s.chip rResHead + 2 ^ 32 - getReg talkersAndResultsLeave6_s.chip rResTail) % 2 ^ 32 : Nat) - (2 ^ getF talkersAndResultsLeave6_s.chip 0x3101C 16 5 : Nat)) : Nat) (min ((getReg talkersAndResultsLeave6_s.chip rResHead + 2 ^ 32 - getReg talkersAndResultsLeave6_s.chip rResTail) % 2 ^ 32 : Nat) (2 ^ getF talkersAndResultsLeave6_s.chip 0x3101C 16 5 : Nat))) talkersAndResultsLeave6_s.chip).1 : Chip) (0 : Nat) = some ((0 : Nat), (0 : Nat), (0 : Nat)) ∧
    DatagramFree ((runHub hubMaster (.unit 0) (resultRun (getReg talkersAndResultsLeave6_s.chip rResTail + (((getReg talkersAndResultsLeave6_s.chip rResHead + 2 ^ 32 - getReg talkersAndResultsLeave6_s.chip rResTail) % 2 ^ 32 : Nat) - (2 ^ getF talkersAndResultsLeave6_s.chip 0x3101C 16 5 : Nat)) : Nat) (min ((getReg talkersAndResultsLeave6_s.chip rResHead + 2 ^ 32 - getReg talkersAndResultsLeave6_s.chip rResTail) % 2 ^ 32 : Nat) (2 ^ getF talkersAndResultsLeave6_s.chip 0x3101C 16 5 : Nat))) talkersAndResultsLeave6_s.chip).1 : Chip) (0 : Nat) (hostDatagram ((runHub hubMaster (.unit 0) (resultRun (getReg talkersAndResultsLeave6_s.chip rResTail + (((getReg talkersAndResultsLeave6_s.chip rResHead + 2 ^ 32 - getReg talkersAndResultsLeave6_s.chip rResTail) % 2 ^ 32 : Nat) - (2 ^ getF talkersAndResultsLeave6_s.chip 0x3101C 16 5 : Nat)) : Nat) (min ((getReg talkersAndResultsLeave6_s.chip rResHead + 2 ^ 32 - getReg talkersAndResultsLeave6_s.chip rResTail) % 2 ^ 32 : Nat) (2 ^ getF talkersAndResultsLeave6_s.chip 0x3101C 16 5 : Nat))) talkersAndResultsLeave6_s.chip).1 : Chip) 0 (0 : Nat) (0 : Nat) (udpPayload ((runHub hubMaster (.unit 0) (resultRun (getReg talkersAndResultsLeave6_s.chip rResTail + (((getReg talkersAndResultsLeave6_s.chip rResHead + 2 ^ 32 - getReg talkersAndResultsLeave6_s.chip rResTail) % 2 ^ 32 : Nat) - (2 ^ getF talkersAndResultsLeave6_s.chip 0x3101C 16 5 : Nat)) : Nat) (min ((getReg talkersAndResultsLeave6_s.chip rResHead + 2 ^ 32 - getReg talkersAndResultsLeave6_s.chip rResTail) % 2 ^ 32 : Nat) (2 ^ getF talkersAndResultsLeave6_s.chip 0x3101C 16 5 : Nat))) talkersAndResultsLeave6_s.chip).1 : Chip) 0 (0 : Nat) (tabGet 0 ((runHub hubMaster (.unit 0) (resultRun (getReg talkersAndResultsLeave6_s.chip rResTail + (((getReg talkersAndResultsLeave6_s.chip rResHead + 2 ^ 32 - getReg talkersAndResultsLeave6_s.chip rResTail) % 2 ^ 32 : Nat) - (2 ^ getF talkersAndResultsLeave6_s.chip 0x3101C 16 5 : Nat)) : Nat) (min ((getReg talkersAndResultsLeave6_s.chip rResHead + 2 ^ 32 - getReg talkersAndResultsLeave6_s.chip rResTail) % 2 ^ 32 : Nat) (2 ^ getF talkersAndResultsLeave6_s.chip 0x3101C 16 5 : Nat))) talkersAndResultsLeave6_s.chip).1 : Chip).seqs (0 : Nat)) ([List.replicate 32 0] : List (List Byte)).length (([List.replicate 32 0] : List (List Byte)).flatMap (resultOut ((runHub hubMaster (.unit 0) (resultRun (getReg talkersAndResultsLeave6_s.chip rResTail + (((getReg talkersAndResultsLeave6_s.chip rResHead + 2 ^ 32 - getReg talkersAndResultsLeave6_s.chip rResTail) % 2 ^ 32 : Nat) - (2 ^ getF talkersAndResultsLeave6_s.chip 0x3101C 16 5 : Nat)) : Nat) (min ((getReg talkersAndResultsLeave6_s.chip rResHead + 2 ^ 32 - getReg talkersAndResultsLeave6_s.chip rResTail) % 2 ^ 32 : Nat) (2 ^ getF talkersAndResultsLeave6_s.chip 0x3101C 16 5 : Nat))) talkersAndResultsLeave6_s.chip).1 : Chip) (0 : Nat)))) : Datagram)) ∧
    runHub hubMaster (.unit 0) (resultRun (getReg talkersAndResultsLeave6_s.chip rResTail + (((getReg talkersAndResultsLeave6_s.chip rResHead + 2 ^ 32 - getReg talkersAndResultsLeave6_s.chip rResTail) % 2 ^ 32 : Nat) - (2 ^ getF talkersAndResultsLeave6_s.chip 0x3101C 16 5 : Nat)) : Nat) (min ((getReg talkersAndResultsLeave6_s.chip rResHead + 2 ^ 32 - getReg talkersAndResultsLeave6_s.chip rResTail) % 2 ^ 32 : Nat) (2 ^ getF talkersAndResultsLeave6_s.chip 0x3101C 16 5 : Nat))) talkersAndResultsLeave6_s.chip = (((runHub hubMaster (.unit 0) (resultRun (getReg talkersAndResultsLeave6_s.chip rResTail + (((getReg talkersAndResultsLeave6_s.chip rResHead + 2 ^ 32 - getReg talkersAndResultsLeave6_s.chip rResTail) % 2 ^ 32 : Nat) - (2 ^ getF talkersAndResultsLeave6_s.chip 0x3101C 16 5 : Nat)) : Nat) (min ((getReg talkersAndResultsLeave6_s.chip rResHead + 2 ^ 32 - getReg talkersAndResultsLeave6_s.chip rResTail) % 2 ^ 32 : Nat) (2 ^ getF talkersAndResultsLeave6_s.chip 0x3101C 16 5 : Nat))) talkersAndResultsLeave6_s.chip).1 : Chip), .done ((0 : Nat), ([List.replicate 32 0] : List (List Byte)))) :=
  ⟨by decide +kernel, paired _ _ (by decide +kernel)⟩

def talkersAndResultsLeave7_s : State := st (chipOf [(0x31028, 1), (0x31020, 1)] { on with jobs := [(0, { contained := true })] })
theorem wit_talkersAndResultsLeave7 :
    (modeOf talkersAndResultsLeave7_s.chip ≤ 1 ∧
    ((getReg talkersAndResultsLeave7_s.chip rResHead + 2 ^ 32 - getReg talkersAndResultsLeave7_s.chip rResTail) % 2 ^ 32 : Nat) ≠ 0 ∧
    ((runHub hubMaster (.unit 0) (resultRun (getReg talkersAndResultsLeave7_s.chip rResTail + (((getReg talkersAndResultsLeave7_s.chip rResHead + 2 ^ 32 - getReg talkersAndResultsLeave7_s.chip rResTail) % 2 ^ 32 : Nat) - (2 ^ getF talkersAndResultsLeave7_s.chip 0x3101C 16 5 : Nat)) : Nat) (min ((getReg talkersAndResultsLeave7_s.chip rResHead + 2 ^ 32 - getReg talkersAndResultsLeave7_s.chip rResTail) % 2 ^ 32 : Nat) (2 ^ getF talkersAndResultsLeave7_s.chip 0x3101C 16 5 : Nat))) talkersAndResultsLeave7_s.chip).1 : Chip).commits = [] ∧
    (0 : Nat) < 256 ∧
    ((jobRc ((runHub hubMaster (.unit 0) (resultRun (getReg talkersAndResultsLeave7_s.chip rResTail + (((getReg talkersAndResultsLeave7_s.chip rResHead + 2 ^ 32 - getReg talkersAndResultsLeave7_s.chip rResTail) % 2 ^ 32 : Nat) - (2 ^ getF talkersAndResultsLeave7_s.chip 0x3101C 16 5 : Nat)) : Nat) (min ((getReg talkersAndResultsLeave7_s.chip rResHead + 2 ^ 32 - getReg talkersAndResultsLeave7_s.chip rResTail) % 2 ^ 32 : Nat) (2 ^ getF talkersAndResultsLeave7_s.chip 0x3101C 16 5 : Nat))) talkersAndResultsLeave7_s.chip).1 : Chip) (0 : Nat)).contained = true ∨ jobDest ((runHub hubMaster (.unit 0) (resultRun (getReg talkersAndResultsLeave7_s.chip rResTail + (((getReg talkersAndResultsLeave7_s.chip rResHead + 2 ^ 32 - getReg talkersAndResultsLeave7_s.chip rResTail) % 2 ^ 32 : Nat) - (2 ^ getF talkersAndResultsLeave7_s.chip 0x3101C 16 5 : Nat)) : Nat) (min ((getReg talkersAndResultsLeave7_s.chip rResHead + 2 ^ 32 - getReg talkersAndResultsLeave7_s.chip rResTail) % 2 ^ 32 : Nat) (2 ^ getF talkersAndResultsLeave7_s.chip 0x3101C 16 5 : Nat))) talkersAndResultsLeave7_s.chip).1 : Chip) (0 : Nat) = none)) ∧
    runHub hubMaster (.unit 0) (resultRun (getReg talkersAndResultsLeave7_s.chip rResTail + (((getReg talkersAndResultsLeave7_s.chip rResHead + 2 ^ 32 - getReg talkersAndResultsLeave7_s.chip rResTail) % 2 ^ 32 : Nat) - (2 ^ getF talkersAndResultsLeave7_s.chip 0x3101C 16 5 : Nat)) : Nat) (min ((getReg talkersAndResultsLeave7_s.chip rResHead + 2 ^ 32 - getReg talkersAndResultsLeave7_s.chip rResTail) % 2 ^ 32 : Nat) (2 ^ getF talkersAndResultsLeave7_s.chip 0x3101C 16 5 : Nat))) talkersAndResultsLeave7_s.chip = (((runHub hubMaster (.unit 0) (resultRun (getReg talkersAndResultsLeave7_s.chip rResTail + (((getReg talkersAndResultsLeave7_s.chip rResHead + 2 ^ 32 - getReg talkersAndResultsLeave7_s.chip rResTail) % 2 ^ 32 : Nat) - (2 ^ getF talkersAndResultsLeave7_s.chip 0x3101C 16 5 : Nat)) : Nat) (min ((getReg talkersAndResultsLeave7_s.chip rResHead + 2 ^ 32 - getReg talkersAndResultsLeave7_s.chip rResTail) % 2 ^ 32 : Nat) (2 ^ getF talkersAndResultsLeave7_s.chip 0x3101C 16 5 : Nat))) talkersAndResultsLeave7_s.chip).1 : Chip), .done ((0 : Nat), ([List.replicate 32 0] : List (List Byte)))) :=
  ⟨by decide +kernel, paired _ _ (by decide +kernel)⟩

/-! IngestAnswersEachDatagram, in Obligations.DatagramsAreAnswered -/

def ingestAnswersEachDatagram1_s : State := st on
theorem wit_ingestAnswersEachDatagram1 :
    portOn ingestAnswersEachDatagram1_s.chip ({ udp := { frame := { port := 0, dst := 0x010000000000, tags := [], bytes := 100, sdu := 80, seq := none }, srcIp := 0, dstIp := 0, dstPort := BitVec.ofNat 16 (getF on rUdp 0 16 + 1), fragment := false, magic := 0x4C45, version := 1, typ := 2, pkgId := 0, reserved4 := 0, job := 0, seq := 1, count := 0, reserved12 := 0 }, xfer := 2, offset := 0, reserved := false, data := List.replicate 64 1 } : WDatagram).udp.frame.port.val = false ∨ frameOk ingestAnswersEachDatagram1_s.net ({ udp := { frame := { port := 0, dst := 0x010000000000, tags := [], bytes := 100, sdu := 80, seq := none }, srcIp := 0, dstIp := 0, dstPort := BitVec.ofNat 16 (getF on rUdp 0 16 + 1), fragment := false, magic := 0x4C45, version := 1, typ := 2, pkgId := 0, reserved4 := 0, job := 0, seq := 1, count := 0, reserved12 := 0 }, xfer := 2, offset := 0, reserved := false, data := List.replicate 64 1 } : WDatagram).udp.frame = false :=
  by decide +kernel

def ingestAnswersEachDatagram2_s : State := st (chipOf [(0x31028, 1)] on)
theorem wit_ingestAnswersEachDatagram2 :
    hostBad ingestAnswersEachDatagram2_s.chip 1 2 ({ udp := { frame := { port := 0, dst := 0x010000000000, tags := [], bytes := 100, sdu := 80, seq := none }, srcIp := 1, dstIp := 0, dstPort := BitVec.ofNat 16 (getF on rUdp 0 16 + 1), fragment := false, magic := 0x4C45, version := 1, typ := 2, pkgId := 0, reserved4 := 0, job := 0, seq := 1, count := 0, reserved12 := 0 }, xfer := 2, offset := 0, reserved := false, data := List.replicate 64 1 } : WDatagram).udp = true ∧
    Accepted ({ udp := { frame := { port := 0, dst := 0x010000000000, tags := [], bytes := 100, sdu := 80, seq := none }, srcIp := 1, dstIp := 0, dstPort := BitVec.ofNat 16 (getF on rUdp 0 16 + 1), fragment := false, magic := 0x4C45, version := 1, typ := 2, pkgId := 0, reserved4 := 0, job := 0, seq := 1, count := 0, reserved12 := 0 }, xfer := 2, offset := 0, reserved := false, data := List.replicate 64 1 } : WDatagram).udp.frame ingestAnswersEachDatagram2_s :=
  ⟨by decide +kernel, by unfold Accepted; decide +kernel⟩

def ingestAnswersEachDatagram3_s : State := st (chipOf [(0x31028, 1), (0x31010, 0x4000), (rFlStatus, 1)] on)
theorem wit_ingestAnswersEachDatagram3 :
    (hostBad ingestAnswersEachDatagram3_s.chip 1 2 ({ udp := { frame := { port := 0, dst := 0x010000000000, tags := [], bytes := 100, sdu := 80, seq := none }, srcIp := 0, dstIp := 0, dstPort := BitVec.ofNat 16 (getF on rUdp 0 16 + 1), fragment := false, magic := 0x4C45, version := 1, typ := 2, pkgId := 0, reserved4 := 0, job := 0, seq := 1, count := 0, reserved12 := 0 }, xfer := 2, offset := 0x3FFFFFC0, reserved := false, data := List.replicate 64 1 } : WDatagram).udp = false ∧
    ({ udp := { frame := { port := 0, dst := 0x010000000000, tags := [], bytes := 100, sdu := 80, seq := none }, srcIp := 0, dstIp := 0, dstPort := BitVec.ofNat 16 (getF on rUdp 0 16 + 1), fragment := false, magic := 0x4C45, version := 1, typ := 2, pkgId := 0, reserved4 := 0, job := 0, seq := 1, count := 0, reserved12 := 0 }, xfer := 2, offset := 0x3FFFFFC0, reserved := false, data := List.replicate 64 1 } : WDatagram).reserved = false ∧
    ({ udp := { frame := { port := 0, dst := 0x010000000000, tags := [], bytes := 100, sdu := 80, seq := none }, srcIp := 0, dstIp := 0, dstPort := BitVec.ofNat 16 (getF on rUdp 0 16 + 1), fragment := false, magic := 0x4C45, version := 1, typ := 2, pkgId := 0, reserved4 := 0, job := 0, seq := 1, count := 0, reserved12 := 0 }, xfer := 2, offset := 0x3FFFFFC0, reserved := false, data := List.replicate 64 1 } : WDatagram).data.length % 64 = 0 ∧
    0 < ({ udp := { frame := { port := 0, dst := 0x010000000000, tags := [], bytes := 100, sdu := 80, seq := none }, srcIp := 0, dstIp := 0, dstPort := BitVec.ofNat 16 (getF on rUdp 0 16 + 1), fragment := false, magic := 0x4C45, version := 1, typ := 2, pkgId := 0, reserved4 := 0, job := 0, seq := 1, count := 0, reserved12 := 0 }, xfer := 2, offset := 0x3FFFFFC0, reserved := false, data := List.replicate 64 1 } : WDatagram).data.length ∧
    ({ udp := { frame := { port := 0, dst := 0x010000000000, tags := [], bytes := 100, sdu := 80, seq := none }, srcIp := 0, dstIp := 0, dstPort := BitVec.ofNat 16 (getF on rUdp 0 16 + 1), fragment := false, magic := 0x4C45, version := 1, typ := 2, pkgId := 0, reserved4 := 0, job := 0, seq := 1, count := 0, reserved12 := 0 }, xfer := 2, offset := 0x3FFFFFC0, reserved := false, data := List.replicate 64 1 } : WDatagram).data.length ≤ 8192 ∧
    ({ udp := { frame := { port := 0, dst := 0x010000000000, tags := [], bytes := 100, sdu := 80, seq := none }, srcIp := 0, dstIp := 0, dstPort := BitVec.ofNat 16 (getF on rUdp 0 16 + 1), fragment := false, magic := 0x4C45, version := 1, typ := 2, pkgId := 0, reserved4 := 0, job := 0, seq := 1, count := 0, reserved12 := 0 }, xfer := 2, offset := 0x3FFFFFC0, reserved := false, data := List.replicate 64 1 } : WDatagram).offset.toNat % 64 = 0 ∧
    ingestAnswersEachDatagram3_s.net.wdata.length < 64 ∧
    getF ingestAnswersEachDatagram3_s.chip rWwin 0 14 * 2 ^ 30 ≤ ({ udp := { frame := { port := 0, dst := 0x010000000000, tags := [], bytes := 100, sdu := 80, seq := none }, srcIp := 0, dstIp := 0, dstPort := BitVec.ofNat 16 (getF on rUdp 0 16 + 1), fragment := false, magic := 0x4C45, version := 1, typ := 2, pkgId := 0, reserved4 := 0, job := 0, seq := 1, count := 0, reserved12 := 0 }, xfer := 2, offset := 0x3FFFFFC0, reserved := false, data := List.replicate 64 1 } : WDatagram).offset.toNat ∧
    ({ udp := { frame := { port := 0, dst := 0x010000000000, tags := [], bytes := 100, sdu := 80, seq := none }, srcIp := 0, dstIp := 0, dstPort := BitVec.ofNat 16 (getF on rUdp 0 16 + 1), fragment := false, magic := 0x4C45, version := 1, typ := 2, pkgId := 0, reserved4 := 0, job := 0, seq := 1, count := 0, reserved12 := 0 }, xfer := 2, offset := 0x3FFFFFC0, reserved := false, data := List.replicate 64 1 } : WDatagram).offset.toNat + ({ udp := { frame := { port := 0, dst := 0x010000000000, tags := [], bytes := 100, sdu := 80, seq := none }, srcIp := 0, dstIp := 0, dstPort := BitVec.ofNat 16 (getF on rUdp 0 16 + 1), fragment := false, magic := 0x4C45, version := 1, typ := 2, pkgId := 0, reserved4 := 0, job := 0, seq := 1, count := 0, reserved12 := 0 }, xfer := 2, offset := 0x3FFFFFC0, reserved := false, data := List.replicate 64 1 } : WDatagram).data.length ≤ (getF ingestAnswersEachDatagram3_s.chip rWwin 0 14 + getF ingestAnswersEachDatagram3_s.chip rWwin 14 14) * 2 ^ 30 ∧
    ({ udp := { frame := { port := 0, dst := 0x010000000000, tags := [], bytes := 100, sdu := 80, seq := none }, srcIp := 0, dstIp := 0, dstPort := BitVec.ofNat 16 (getF on rUdp 0 16 + 1), fragment := false, magic := 0x4C45, version := 1, typ := 2, pkgId := 0, reserved4 := 0, job := 0, seq := 1, count := 0, reserved12 := 0 }, xfer := 2, offset := 0x3FFFFFC0, reserved := false, data := List.replicate 64 1 } : WDatagram).offset.toNat + ({ udp := { frame := { port := 0, dst := 0x010000000000, tags := [], bytes := 100, sdu := 80, seq := none }, srcIp := 0, dstIp := 0, dstPort := BitVec.ofNat 16 (getF on rUdp 0 16 + 1), fragment := false, magic := 0x4C45, version := 1, typ := 2, pkgId := 0, reserved4 := 0, job := 0, seq := 1, count := 0, reserved12 := 0 }, xfer := 2, offset := 0x3FFFFFC0, reserved := false, data := List.replicate 64 1 } : WDatagram).data.length ≤ getF ingestAnswersEachDatagram3_s.chip rFlStatus 0 14 * 2 ^ 30 ∧
    bit (getReg ingestAnswersEachDatagram3_s.chip rFlStatus) 15 = false) ∧
    Accepted ({ udp := { frame := { port := 0, dst := 0x010000000000, tags := [], bytes := 100, sdu := 80, seq := none }, srcIp := 0, dstIp := 0, dstPort := BitVec.ofNat 16 (getF on rUdp 0 16 + 1), fragment := false, magic := 0x4C45, version := 1, typ := 2, pkgId := 0, reserved4 := 0, job := 0, seq := 1, count := 0, reserved12 := 0 }, xfer := 2, offset := 0x3FFFFFC0, reserved := false, data := List.replicate 64 1 } : WDatagram).udp.frame ingestAnswersEachDatagram3_s :=
  ⟨by decide +kernel, by unfold Accepted; decide +kernel⟩

def ingestAnswersEachDatagram4_s : State := st (chipOf [(0x31028, 1), (0x31010, 0x4001)] on)
theorem wit_ingestAnswersEachDatagram4 :
    (hostBad ingestAnswersEachDatagram4_s.chip 1 2 ({ udp := { frame := { port := 0, dst := 0x010000000000, tags := [], bytes := 100, sdu := 80, seq := none }, srcIp := 0, dstIp := 0, dstPort := BitVec.ofNat 16 (getF on rUdp 0 16 + 1), fragment := false, magic := 0x4C45, version := 1, typ := 2, pkgId := 0, reserved4 := 0, job := 0, seq := 1, count := 0, reserved12 := 0 }, xfer := 2, offset := 0x3FFFFFC0, reserved := false, data := List.replicate 64 1 } : WDatagram).udp = false ∧
    ({ udp := { frame := { port := 0, dst := 0x010000000000, tags := [], bytes := 100, sdu := 80, seq := none }, srcIp := 0, dstIp := 0, dstPort := BitVec.ofNat 16 (getF on rUdp 0 16 + 1), fragment := false, magic := 0x4C45, version := 1, typ := 2, pkgId := 0, reserved4 := 0, job := 0, seq := 1, count := 0, reserved12 := 0 }, xfer := 2, offset := 0x3FFFFFC0, reserved := false, data := List.replicate 64 1 } : WDatagram).reserved = false ∧
    ({ udp := { frame := { port := 0, dst := 0x010000000000, tags := [], bytes := 100, sdu := 80, seq := none }, srcIp := 0, dstIp := 0, dstPort := BitVec.ofNat 16 (getF on rUdp 0 16 + 1), fragment := false, magic := 0x4C45, version := 1, typ := 2, pkgId := 0, reserved4 := 0, job := 0, seq := 1, count := 0, reserved12 := 0 }, xfer := 2, offset := 0x3FFFFFC0, reserved := false, data := List.replicate 64 1 } : WDatagram).data.length % 64 = 0 ∧
    0 < ({ udp := { frame := { port := 0, dst := 0x010000000000, tags := [], bytes := 100, sdu := 80, seq := none }, srcIp := 0, dstIp := 0, dstPort := BitVec.ofNat 16 (getF on rUdp 0 16 + 1), fragment := false, magic := 0x4C45, version := 1, typ := 2, pkgId := 0, reserved4 := 0, job := 0, seq := 1, count := 0, reserved12 := 0 }, xfer := 2, offset := 0x3FFFFFC0, reserved := false, data := List.replicate 64 1 } : WDatagram).data.length ∧
    ({ udp := { frame := { port := 0, dst := 0x010000000000, tags := [], bytes := 100, sdu := 80, seq := none }, srcIp := 0, dstIp := 0, dstPort := BitVec.ofNat 16 (getF on rUdp 0 16 + 1), fragment := false, magic := 0x4C45, version := 1, typ := 2, pkgId := 0, reserved4 := 0, job := 0, seq := 1, count := 0, reserved12 := 0 }, xfer := 2, offset := 0x3FFFFFC0, reserved := false, data := List.replicate 64 1 } : WDatagram).data.length ≤ 8192 ∧
    ({ udp := { frame := { port := 0, dst := 0x010000000000, tags := [], bytes := 100, sdu := 80, seq := none }, srcIp := 0, dstIp := 0, dstPort := BitVec.ofNat 16 (getF on rUdp 0 16 + 1), fragment := false, magic := 0x4C45, version := 1, typ := 2, pkgId := 0, reserved4 := 0, job := 0, seq := 1, count := 0, reserved12 := 0 }, xfer := 2, offset := 0x3FFFFFC0, reserved := false, data := List.replicate 64 1 } : WDatagram).offset.toNat % 64 = 0 ∧
    ingestAnswersEachDatagram4_s.net.wdata.length < 64 ∧
    ({ udp := { frame := { port := 0, dst := 0x010000000000, tags := [], bytes := 100, sdu := 80, seq := none }, srcIp := 0, dstIp := 0, dstPort := BitVec.ofNat 16 (getF on rUdp 0 16 + 1), fragment := false, magic := 0x4C45, version := 1, typ := 2, pkgId := 0, reserved4 := 0, job := 0, seq := 1, count := 0, reserved12 := 0 }, xfer := 2, offset := 0x3FFFFFC0, reserved := false, data := List.replicate 64 1 } : WDatagram).offset.toNat < getF ingestAnswersEachDatagram4_s.chip rWwin 0 14 * 2 ^ 30 ∧
    DatagramFree ingestAnswersEachDatagram4_s.chip 2 (hostDatagram ingestAnswersEachDatagram4_s.chip 1 (getReg ingestAnswersEachDatagram4_s.chip rHostIp) (getF ingestAnswersEachDatagram4_s.chip rUdp 0 16 + 1) (udpPayload ingestAnswersEachDatagram4_s.chip 3 0 ({ udp := { frame := { port := 0, dst := 0x010000000000, tags := [], bytes := 100, sdu := 80, seq := none }, srcIp := 0, dstIp := 0, dstPort := BitVec.ofNat 16 (getF on rUdp 0 16 + 1), fragment := false, magic := 0x4C45, version := 1, typ := 2, pkgId := 0, reserved4 := 0, job := 0, seq := 1, count := 0, reserved12 := 0 }, xfer := 2, offset := 0x3FFFFFC0, reserved := false, data := List.replicate 64 1 } : WDatagram).udp.seq.toNat 0 (leBytes 4 ({ udp := { frame := { port := 0, dst := 0x010000000000, tags := [], bytes := 100, sdu := 80, seq := none }, srcIp := 0, dstIp := 0, dstPort := BitVec.ofNat 16 (getF on rUdp 0 16 + 1), fragment := false, magic := 0x4C45, version := 1, typ := 2, pkgId := 0, reserved4 := 0, job := 0, seq := 1, count := 0, reserved12 := 0 }, xfer := 2, offset := 0x3FFFFFC0, reserved := false, data := List.replicate 64 1 } : WDatagram).xfer.toNat ++ leBytes 8 ({ udp := { frame := { port := 0, dst := 0x010000000000, tags := [], bytes := 100, sdu := 80, seq := none }, srcIp := 0, dstIp := 0, dstPort := BitVec.ofNat 16 (getF on rUdp 0 16 + 1), fragment := false, magic := 0x4C45, version := 1, typ := 2, pkgId := 0, reserved4 := 0, job := 0, seq := 1, count := 0, reserved12 := 0 }, xfer := 2, offset := 0x3FFFFFC0, reserved := false, data := List.replicate 64 1 } : WDatagram).offset.toNat ++ leBytes 2 0x0D05)) : Datagram)) ∧
    Accepted ({ udp := { frame := { port := 0, dst := 0x010000000000, tags := [], bytes := 100, sdu := 80, seq := none }, srcIp := 0, dstIp := 0, dstPort := BitVec.ofNat 16 (getF on rUdp 0 16 + 1), fragment := false, magic := 0x4C45, version := 1, typ := 2, pkgId := 0, reserved4 := 0, job := 0, seq := 1, count := 0, reserved12 := 0 }, xfer := 2, offset := 0x3FFFFFC0, reserved := false, data := List.replicate 64 1 } : WDatagram).udp.frame ingestAnswersEachDatagram4_s :=
  ⟨by decide +kernel, by unfold Accepted; decide +kernel⟩

def ingestAnswersEachDatagram5_s : State := { st (chipOf [(0x31028, 1)] { on with flash := { acked := [(64, 0)] } }) with net := { wdata := [{ addr := 64, xfer := 2, offset := 64, seq := 1 }] } }
def ingestAnswersEachDatagram5_c : Chip := chipOf [(0x31028, 1)] on
theorem wit_ingestAnswersEachDatagram5 :
    ingestAnswersEachDatagram5_s.net.wdata[(0 : Nat)]? = some ({ addr := 64, xfer := 2, offset := 64, seq := 1 } : Ingest) ∧
    takeAnswerOf ({ addr := 64, xfer := 2, offset := 64, seq := 1 } : Ingest).addr ingestAnswersEachDatagram5_s.chip = (some (0 : Nat), ingestAnswersEachDatagram5_c) ∧
    DatagramFree ingestAnswersEachDatagram5_s.chip 2 (hostDatagram ingestAnswersEachDatagram5_s.chip 1 (getReg ingestAnswersEachDatagram5_s.chip rHostIp) (getF ingestAnswersEachDatagram5_s.chip rUdp 0 16 + 1) (udpPayload ingestAnswersEachDatagram5_s.chip 3 0 ({ addr := 64, xfer := 2, offset := 64, seq := 1 } : Ingest).seq 0 (leBytes 4 ({ addr := 64, xfer := 2, offset := 64, seq := 1 } : Ingest).xfer ++ leBytes 8 ({ addr := 64, xfer := 2, offset := 64, seq := 1 } : Ingest).offset ++ leBytes 2 (0 : Nat))) : Datagram) :=
  by decide +kernel

/-! ControlRequestsAreAnswered, in Obligations.DatagramsAreAnswered -/

def controlRequestsAreAnswered1_s : State := st on
theorem wit_controlRequestsAreAnswered1 :
    portOn controlRequestsAreAnswered1_s.chip ({ udp := { frame := { port := 0, dst := 0x010000000000, tags := [], bytes := 100, sdu := 80, seq := none }, srcIp := 0, dstIp := 0, dstPort := BitVec.ofNat 16 (getF on rUdp 0 16 + 3), fragment := false, magic := 0x4C45, version := 1, typ := 4, pkgId := 0, reserved4 := 0, job := 0, seq := 9, count := 0, reserved12 := 0 }, chB := true, op := 0, addr := 0, data := 0 } : CtrlRequest).udp.frame.port.val = false ∨ frameOk controlRequestsAreAnswered1_s.net ({ udp := { frame := { port := 0, dst := 0x010000000000, tags := [], bytes := 100, sdu := 80, seq := none }, srcIp := 0, dstIp := 0, dstPort := BitVec.ofNat 16 (getF on rUdp 0 16 + 3), fragment := false, magic := 0x4C45, version := 1, typ := 4, pkgId := 0, reserved4 := 0, job := 0, seq := 9, count := 0, reserved12 := 0 }, chB := true, op := 0, addr := 0, data := 0 } : CtrlRequest).udp.frame = false :=
  by decide +kernel

def controlRequestsAreAnswered2_s : State := st (chipOf [(0x31028, 1)] on)
theorem wit_controlRequestsAreAnswered2 :
    hostBad controlRequestsAreAnswered2_s.chip (2 + b2n ({ udp := { frame := { port := 0, dst := 0x010000000000, tags := [], bytes := 100, sdu := 80, seq := none }, srcIp := 0, dstIp := 3, dstPort := BitVec.ofNat 16 (getF on rUdp 0 16 + 3), fragment := false, magic := 0x4C45, version := 1, typ := 4, pkgId := 0, reserved4 := 0, job := 0, seq := 9, count := 0, reserved12 := 0 }, chB := true, op := 0, addr := 0, data := 0 } : CtrlRequest).chB) 4 ({ udp := { frame := { port := 0, dst := 0x010000000000, tags := [], bytes := 100, sdu := 80, seq := none }, srcIp := 0, dstIp := 3, dstPort := BitVec.ofNat 16 (getF on rUdp 0 16 + 3), fragment := false, magic := 0x4C45, version := 1, typ := 4, pkgId := 0, reserved4 := 0, job := 0, seq := 9, count := 0, reserved12 := 0 }, chB := true, op := 0, addr := 0, data := 0 } : CtrlRequest).udp = true ∧
    Accepted ({ udp := { frame := { port := 0, dst := 0x010000000000, tags := [], bytes := 100, sdu := 80, seq := none }, srcIp := 0, dstIp := 3, dstPort := BitVec.ofNat 16 (getF on rUdp 0 16 + 3), fragment := false, magic := 0x4C45, version := 1, typ := 4, pkgId := 0, reserved4 := 0, job := 0, seq := 9, count := 0, reserved12 := 0 }, chB := true, op := 0, addr := 0, data := 0 } : CtrlRequest).udp.frame controlRequestsAreAnswered2_s :=
  ⟨by decide +kernel, by unfold Accepted; decide +kernel⟩

def controlRequestsAreAnswered3_s : State := st (chipOf [(0x31028, 1)] on)
theorem wit_controlRequestsAreAnswered3 :
    (hostBad controlRequestsAreAnswered3_s.chip (2 + b2n ({ udp := { frame := { port := 0, dst := 0x010000000000, tags := [], bytes := 100, sdu := 80, seq := none }, srcIp := 0, dstIp := 0, dstPort := BitVec.ofNat 16 (getF on rUdp 0 16 + 3), fragment := false, magic := 0x4C45, version := 1, typ := 4, pkgId := 0, reserved4 := 0, job := 0, seq := 9, count := 0, reserved12 := 0 }, chB := true, op := 0, addr := BitVec.ofNat 48 (hubBase + rCxCfg), data := 0 } : CtrlRequest).chB) 4 ({ udp := { frame := { port := 0, dst := 0x010000000000, tags := [], bytes := 100, sdu := 80, seq := none }, srcIp := 0, dstIp := 0, dstPort := BitVec.ofNat 16 (getF on rUdp 0 16 + 3), fragment := false, magic := 0x4C45, version := 1, typ := 4, pkgId := 0, reserved4 := 0, job := 0, seq := 9, count := 0, reserved12 := 0 }, chB := true, op := 0, addr := BitVec.ofNat 48 (hubBase + rCxCfg), data := 0 } : CtrlRequest).udp = false ∧
    DatagramFree controlRequestsAreAnswered3_s.chip 2 (ctrlAnswer controlRequestsAreAnswered3_s.chip ({ udp := { frame := { port := 0, dst := 0x010000000000, tags := [], bytes := 100, sdu := 80, seq := none }, srcIp := 0, dstIp := 0, dstPort := BitVec.ofNat 16 (getF on rUdp 0 16 + 3), fragment := false, magic := 0x4C45, version := 1, typ := 4, pkgId := 0, reserved4 := 0, job := 0, seq := 9, count := 0, reserved12 := 0 }, chB := true, op := 0, addr := BitVec.ofNat 48 (hubBase + rCxCfg), data := 0 } : CtrlRequest) 0 0) ∧
    (ctlOf controlRequestsAreAnswered3_s.chip ({ udp := { frame := { port := 0, dst := 0x010000000000, tags := [], bytes := 100, sdu := 80, seq := none }, srcIp := 0, dstIp := 0, dstPort := BitVec.ofNat 16 (getF on rUdp 0 16 + 3), fragment := false, magic := 0x4C45, version := 1, typ := 4, pkgId := 0, reserved4 := 0, job := 0, seq := 9, count := 0, reserved12 := 0 }, chB := true, op := 0, addr := BitVec.ofNat 48 (hubBase + rCxCfg), data := 0 } : CtrlRequest).chB).seq ≠ some ({ udp := { frame := { port := 0, dst := 0x010000000000, tags := [], bytes := 100, sdu := 80, seq := none }, srcIp := 0, dstIp := 0, dstPort := BitVec.ofNat 16 (getF on rUdp 0 16 + 3), fragment := false, magic := 0x4C45, version := 1, typ := 4, pkgId := 0, reserved4 := 0, job := 0, seq := 9, count := 0, reserved12 := 0 }, chB := true, op := 0, addr := BitVec.ofNat 48 (hubBase + rCxCfg), data := 0 } : CtrlRequest).udp.seq.toNat ∧
    ({ udp := { frame := { port := 0, dst := 0x010000000000, tags := [], bytes := 100, sdu := 80, seq := none }, srcIp := 0, dstIp := 0, dstPort := BitVec.ofNat 16 (getF on rUdp 0 16 + 3), fragment := false, magic := 0x4C45, version := 1, typ := 4, pkgId := 0, reserved4 := 0, job := 0, seq := 9, count := 0, reserved12 := 0 }, chB := true, op := 0, addr := BitVec.ofNat 48 (hubBase + rCxCfg), data := 0 } : CtrlRequest).op = 0 ∧
    ({ udp := { frame := { port := 0, dst := 0x010000000000, tags := [], bytes := 100, sdu := 80, seq := none }, srcIp := 0, dstIp := 0, dstPort := BitVec.ofNat 16 (getF on rUdp 0 16 + 3), fragment := false, magic := 0x4C45, version := 1, typ := 4, pkgId := 0, reserved4 := 0, job := 0, seq := 9, count := 0, reserved12 := 0 }, chB := true, op := 0, addr := BitVec.ofNat 48 (hubBase + rCxCfg), data := 0 } : CtrlRequest).addr.toNat = sys controlRequestsAreAnswered3_s.chip (hubBase + (rCxCfg : Nat)) ∧
    ((rCxCfg : Nat) = rCxCfg ∨ (rCxCfg : Nat) = rThCfg ∨ (rCxCfg : Nat) = rBudget ∨ (rCxCfg : Nat) = rNetCfg)) ∧
    Accepted ({ udp := { frame := { port := 0, dst := 0x010000000000, tags := [], bytes := 100, sdu := 80, seq := none }, srcIp := 0, dstIp := 0, dstPort := BitVec.ofNat 16 (getF on rUdp 0 16 + 3), fragment := false, magic := 0x4C45, version := 1, typ := 4, pkgId := 0, reserved4 := 0, job := 0, seq := 9, count := 0, reserved12 := 0 }, chB := true, op := 0, addr := BitVec.ofNat 48 (hubBase + rCxCfg), data := 0 } : CtrlRequest).udp.frame controlRequestsAreAnswered3_s :=
  ⟨by decide +kernel, by unfold Accepted; decide +kernel⟩

def controlRequestsAreAnswered4_s : State := st (chipOf [(0x31028, 1)] { on with ctl := on.ctl.set 1 { seq := some 9, answer := some (4, 5) } })
theorem wit_controlRequestsAreAnswered4 :
    (hostBad controlRequestsAreAnswered4_s.chip (2 + b2n ({ udp := { frame := { port := 0, dst := 0x010000000000, tags := [], bytes := 100, sdu := 80, seq := none }, srcIp := 0, dstIp := 0, dstPort := BitVec.ofNat 16 (getF on rUdp 0 16 + 3), fragment := false, magic := 0x4C45, version := 1, typ := 4, pkgId := 0, reserved4 := 0, job := 0, seq := 9, count := 0, reserved12 := 0 }, chB := true, op := 0, addr := 0, data := 0 } : CtrlRequest).chB) 4 ({ udp := { frame := { port := 0, dst := 0x010000000000, tags := [], bytes := 100, sdu := 80, seq := none }, srcIp := 0, dstIp := 0, dstPort := BitVec.ofNat 16 (getF on rUdp 0 16 + 3), fragment := false, magic := 0x4C45, version := 1, typ := 4, pkgId := 0, reserved4 := 0, job := 0, seq := 9, count := 0, reserved12 := 0 }, chB := true, op := 0, addr := 0, data := 0 } : CtrlRequest).udp = false ∧
    DatagramFree controlRequestsAreAnswered4_s.chip 2 (ctrlAnswer controlRequestsAreAnswered4_s.chip ({ udp := { frame := { port := 0, dst := 0x010000000000, tags := [], bytes := 100, sdu := 80, seq := none }, srcIp := 0, dstIp := 0, dstPort := BitVec.ofNat 16 (getF on rUdp 0 16 + 3), fragment := false, magic := 0x4C45, version := 1, typ := 4, pkgId := 0, reserved4 := 0, job := 0, seq := 9, count := 0, reserved12 := 0 }, chB := true, op := 0, addr := 0, data := 0 } : CtrlRequest) 0 0) ∧
    ctlOf controlRequestsAreAnswered4_s.chip ({ udp := { frame := { port := 0, dst := 0x010000000000, tags := [], bytes := 100, sdu := 80, seq := none }, srcIp := 0, dstIp := 0, dstPort := BitVec.ofNat 16 (getF on rUdp 0 16 + 3), fragment := false, magic := 0x4C45, version := 1, typ := 4, pkgId := 0, reserved4 := 0, job := 0, seq := 9, count := 0, reserved12 := 0 }, chB := true, op := 0, addr := 0, data := 0 } : CtrlRequest).chB = { seq := some ({ udp := { frame := { port := 0, dst := 0x010000000000, tags := [], bytes := 100, sdu := 80, seq := none }, srcIp := 0, dstIp := 0, dstPort := BitVec.ofNat 16 (getF on rUdp 0 16 + 3), fragment := false, magic := 0x4C45, version := 1, typ := 4, pkgId := 0, reserved4 := 0, job := 0, seq := 9, count := 0, reserved12 := 0 }, chB := true, op := 0, addr := 0, data := 0 } : CtrlRequest).udp.seq.toNat, answer := some ((4 : Nat), (5 : Nat)) }) ∧
    Accepted ({ udp := { frame := { port := 0, dst := 0x010000000000, tags := [], bytes := 100, sdu := 80, seq := none }, srcIp := 0, dstIp := 0, dstPort := BitVec.ofNat 16 (getF on rUdp 0 16 + 3), fragment := false, magic := 0x4C45, version := 1, typ := 4, pkgId := 0, reserved4 := 0, job := 0, seq := 9, count := 0, reserved12 := 0 }, chB := true, op := 0, addr := 0, data := 0 } : CtrlRequest).udp.frame controlRequestsAreAnswered4_s :=
  ⟨by decide +kernel, by unfold Accepted; decide +kernel⟩

def controlRequestsAreAnswered5_s : State := st (chipOf [(0x31028, 1)] on)
theorem wit_controlRequestsAreAnswered5 :
    (hostBad controlRequestsAreAnswered5_s.chip (2 + b2n ({ udp := { frame := { port := 0, dst := 0x010000000000, tags := [], bytes := 100, sdu := 80, seq := none }, srcIp := 0, dstIp := 0, dstPort := BitVec.ofNat 16 (getF on rUdp 0 16 + 3), fragment := false, magic := 0x4C45, version := 1, typ := 4, pkgId := 0, reserved4 := 0, job := 0, seq := 9, count := 0, reserved12 := 0 }, chB := true, op := 2, addr := 0, data := 0 } : CtrlRequest).chB) 4 ({ udp := { frame := { port := 0, dst := 0x010000000000, tags := [], bytes := 100, sdu := 80, seq := none }, srcIp := 0, dstIp := 0, dstPort := BitVec.ofNat 16 (getF on rUdp 0 16 + 3), fragment := false, magic := 0x4C45, version := 1, typ := 4, pkgId := 0, reserved4 := 0, job := 0, seq := 9, count := 0, reserved12 := 0 }, chB := true, op := 2, addr := 0, data := 0 } : CtrlRequest).udp = false ∧
    DatagramFree controlRequestsAreAnswered5_s.chip 2 (ctrlAnswer controlRequestsAreAnswered5_s.chip ({ udp := { frame := { port := 0, dst := 0x010000000000, tags := [], bytes := 100, sdu := 80, seq := none }, srcIp := 0, dstIp := 0, dstPort := BitVec.ofNat 16 (getF on rUdp 0 16 + 3), fragment := false, magic := 0x4C45, version := 1, typ := 4, pkgId := 0, reserved4 := 0, job := 0, seq := 9, count := 0, reserved12 := 0 }, chB := true, op := 2, addr := 0, data := 0 } : CtrlRequest) 0 0) ∧
    (ctlOf controlRequestsAreAnswered5_s.chip ({ udp := { frame := { port := 0, dst := 0x010000000000, tags := [], bytes := 100, sdu := 80, seq := none }, srcIp := 0, dstIp := 0, dstPort := BitVec.ofNat 16 (getF on rUdp 0 16 + 3), fragment := false, magic := 0x4C45, version := 1, typ := 4, pkgId := 0, reserved4 := 0, job := 0, seq := 9, count := 0, reserved12 := 0 }, chB := true, op := 2, addr := 0, data := 0 } : CtrlRequest).chB).seq ≠ some ({ udp := { frame := { port := 0, dst := 0x010000000000, tags := [], bytes := 100, sdu := 80, seq := none }, srcIp := 0, dstIp := 0, dstPort := BitVec.ofNat 16 (getF on rUdp 0 16 + 3), fragment := false, magic := 0x4C45, version := 1, typ := 4, pkgId := 0, reserved4 := 0, job := 0, seq := 9, count := 0, reserved12 := 0 }, chB := true, op := 2, addr := 0, data := 0 } : CtrlRequest).udp.seq.toNat ∧
    1 < ({ udp := { frame := { port := 0, dst := 0x010000000000, tags := [], bytes := 100, sdu := 80, seq := none }, srcIp := 0, dstIp := 0, dstPort := BitVec.ofNat 16 (getF on rUdp 0 16 + 3), fragment := false, magic := 0x4C45, version := 1, typ := 4, pkgId := 0, reserved4 := 0, job := 0, seq := 9, count := 0, reserved12 := 0 }, chB := true, op := 2, addr := 0, data := 0 } : CtrlRequest).op.toNat) ∧
    Accepted ({ udp := { frame := { port := 0, dst := 0x010000000000, tags := [], bytes := 100, sdu := 80, seq := none }, srcIp := 0, dstIp := 0, dstPort := BitVec.ofNat 16 (getF on rUdp 0 16 + 3), fragment := false, magic := 0x4C45, version := 1, typ := 4, pkgId := 0, reserved4 := 0, job := 0, seq := 9, count := 0, reserved12 := 0 }, chB := true, op := 2, addr := 0, data := 0 } : CtrlRequest).udp.frame controlRequestsAreAnswered5_s :=
  ⟨by decide +kernel, by unfold Accepted; decide +kernel⟩

def controlRequestsAreAnswered6_s : State := st (chipOf [(0x31028, 1)] on)
theorem wit_controlRequestsAreAnswered6 :
    (hostBad controlRequestsAreAnswered6_s.chip (2 + b2n ({ udp := { frame := { port := 0, dst := 0x010000000000, tags := [], bytes := 100, sdu := 80, seq := none }, srcIp := 0, dstIp := 0, dstPort := BitVec.ofNat 16 (getF on rUdp 0 16 + 3), fragment := false, magic := 0x4C45, version := 1, typ := 4, pkgId := 0, reserved4 := 0, job := 0, seq := 9, count := 0, reserved12 := 0 }, chB := true, op := 1, addr := 2, data := 0 } : CtrlRequest).chB) 4 ({ udp := { frame := { port := 0, dst := 0x010000000000, tags := [], bytes := 100, sdu := 80, seq := none }, srcIp := 0, dstIp := 0, dstPort := BitVec.ofNat 16 (getF on rUdp 0 16 + 3), fragment := false, magic := 0x4C45, version := 1, typ := 4, pkgId := 0, reserved4 := 0, job := 0, seq := 9, count := 0, reserved12 := 0 }, chB := true, op := 1, addr := 2, data := 0 } : CtrlRequest).udp = false ∧
    DatagramFree controlRequestsAreAnswered6_s.chip 2 (ctrlAnswer controlRequestsAreAnswered6_s.chip ({ udp := { frame := { port := 0, dst := 0x010000000000, tags := [], bytes := 100, sdu := 80, seq := none }, srcIp := 0, dstIp := 0, dstPort := BitVec.ofNat 16 (getF on rUdp 0 16 + 3), fragment := false, magic := 0x4C45, version := 1, typ := 4, pkgId := 0, reserved4 := 0, job := 0, seq := 9, count := 0, reserved12 := 0 }, chB := true, op := 1, addr := 2, data := 0 } : CtrlRequest) 0 0) ∧
    (ctlOf controlRequestsAreAnswered6_s.chip ({ udp := { frame := { port := 0, dst := 0x010000000000, tags := [], bytes := 100, sdu := 80, seq := none }, srcIp := 0, dstIp := 0, dstPort := BitVec.ofNat 16 (getF on rUdp 0 16 + 3), fragment := false, magic := 0x4C45, version := 1, typ := 4, pkgId := 0, reserved4 := 0, job := 0, seq := 9, count := 0, reserved12 := 0 }, chB := true, op := 1, addr := 2, data := 0 } : CtrlRequest).chB).seq ≠ some ({ udp := { frame := { port := 0, dst := 0x010000000000, tags := [], bytes := 100, sdu := 80, seq := none }, srcIp := 0, dstIp := 0, dstPort := BitVec.ofNat 16 (getF on rUdp 0 16 + 3), fragment := false, magic := 0x4C45, version := 1, typ := 4, pkgId := 0, reserved4 := 0, job := 0, seq := 9, count := 0, reserved12 := 0 }, chB := true, op := 1, addr := 2, data := 0 } : CtrlRequest).udp.seq.toNat ∧
    ({ udp := { frame := { port := 0, dst := 0x010000000000, tags := [], bytes := 100, sdu := 80, seq := none }, srcIp := 0, dstIp := 0, dstPort := BitVec.ofNat 16 (getF on rUdp 0 16 + 3), fragment := false, magic := 0x4C45, version := 1, typ := 4, pkgId := 0, reserved4 := 0, job := 0, seq := 9, count := 0, reserved12 := 0 }, chB := true, op := 1, addr := 2, data := 0 } : CtrlRequest).op.toNat ≤ 1 ∧
    ({ udp := { frame := { port := 0, dst := 0x010000000000, tags := [], bytes := 100, sdu := 80, seq := none }, srcIp := 0, dstIp := 0, dstPort := BitVec.ofNat 16 (getF on rUdp 0 16 + 3), fragment := false, magic := 0x4C45, version := 1, typ := 4, pkgId := 0, reserved4 := 0, job := 0, seq := 9, count := 0, reserved12 := 0 }, chB := true, op := 1, addr := 2, data := 0 } : CtrlRequest).addr.toNat % 4 ≠ 0) ∧
    Accepted ({ udp := { frame := { port := 0, dst := 0x010000000000, tags := [], bytes := 100, sdu := 80, seq := none }, srcIp := 0, dstIp := 0, dstPort := BitVec.ofNat 16 (getF on rUdp 0 16 + 3), fragment := false, magic := 0x4C45, version := 1, typ := 4, pkgId := 0, reserved4 := 0, job := 0, seq := 9, count := 0, reserved12 := 0 }, chB := true, op := 1, addr := 2, data := 0 } : CtrlRequest).udp.frame controlRequestsAreAnswered6_s :=
  ⟨by decide +kernel, by unfold Accepted; decide +kernel⟩

/-! PortAnswersFrames, in Obligations.PortAndWindow -/

def portAnswersFrames1_s : State := st on
theorem wit_portAnswersFrames1 :
    portAnswersFrames1_s.chip.power.aonHeld = false ∧
    crc8 (frameBytes ({ cmd := 0xA5, index := 0xB, data := 0x0, crc := 0x4A } : PortFrame).cmd.toNat ({ cmd := 0xA5, index := 0xB, data := 0x0, crc := 0x4A } : PortFrame).index.toNat ({ cmd := 0xA5, index := 0xB, data := 0x0, crc := 0x4A } : PortFrame).data.toNat) = ({ cmd := 0xA5, index := 0xB, data := 0x0, crc := 0x4A } : PortFrame).crc.toNat ∧
    ({ cmd := 0xA5, index := 0xB, data := 0x0, crc := 0x4A } : PortFrame).cmd = 0xA5 ∧
    ({ cmd := 0xA5, index := 0xB, data := 0x0, crc := 0x4A } : PortFrame).index = 11 :=
  by decide +kernel

def portAnswersFrames2_s : State := st on
theorem wit_portAnswersFrames2 :
    portAnswersFrames2_s.chip.power.aonHeld = false ∧
    crc8 (frameBytes ({ cmd := 0x5A, index := 0xB, data := 0xFFFFFFFF, crc := 0x3B } : PortFrame).cmd.toNat ({ cmd := 0x5A, index := 0xB, data := 0xFFFFFFFF, crc := 0x3B } : PortFrame).index.toNat ({ cmd := 0x5A, index := 0xB, data := 0xFFFFFFFF, crc := 0x3B } : PortFrame).data.toNat) = ({ cmd := 0x5A, index := 0xB, data := 0xFFFFFFFF, crc := 0x3B } : PortFrame).crc.toNat ∧
    ({ cmd := 0x5A, index := 0xB, data := 0xFFFFFFFF, crc := 0x3B } : PortFrame).cmd = 0x5A ∧
    ({ cmd := 0x5A, index := 0xB, data := 0xFFFFFFFF, crc := 0x3B } : PortFrame).index = 11 :=
  by decide +kernel

def portAnswersFrames3_s : State := st on
theorem wit_portAnswersFrames3 :
    portAnswersFrames3_s.chip.power.aonHeld = false ∧
    crc8 (frameBytes ({ cmd := 0x5B, index := 0xB, data := 0x3, crc := 0xC5 } : PortFrame).cmd.toNat ({ cmd := 0x5B, index := 0xB, data := 0x3, crc := 0xC5 } : PortFrame).index.toNat ({ cmd := 0x5B, index := 0xB, data := 0x3, crc := 0xC5 } : PortFrame).data.toNat) = ({ cmd := 0x5B, index := 0xB, data := 0x3, crc := 0xC5 } : PortFrame).crc.toNat ∧
    ({ cmd := 0x5B, index := 0xB, data := 0x3, crc := 0xC5 } : PortFrame).cmd ≠ 0xA5 ∧
    ({ cmd := 0x5B, index := 0xB, data := 0x3, crc := 0xC5 } : PortFrame).cmd ≠ 0x5A :=
  by decide +kernel

def portAnswersFrames4_s : State := st on
theorem wit_portAnswersFrames4 :
    portAnswersFrames4_s.chip.power.aonHeld = false ∧
    crc8 (frameBytes ({ cmd := 0xA5, index := 0x40, data := 0x0, crc := 0x3D } : PortFrame).cmd.toNat ({ cmd := 0xA5, index := 0x40, data := 0x0, crc := 0x3D } : PortFrame).index.toNat ({ cmd := 0xA5, index := 0x40, data := 0x0, crc := 0x3D } : PortFrame).data.toNat) = ({ cmd := 0xA5, index := 0x40, data := 0x0, crc := 0x3D } : PortFrame).crc.toNat ∧
    ({ cmd := 0xA5, index := 0x40, data := 0x0, crc := 0x3D } : PortFrame).cmd = 0xA5 ∧
    0x40 ≤ ({ cmd := 0xA5, index := 0x40, data := 0x0, crc := 0x3D } : PortFrame).index.toNat :=
  by decide +kernel

def portAnswersFrames5_s : State := st (chipOf [(rCount, 0xFFFF)] on)
theorem wit_portAnswersFrames5 :
    portAnswersFrames5_s.chip.power.aonHeld = false ∧
    crc8 (frameBytes ({ cmd := 0x5A, index := 0xB, data := 0x3, crc := 0xED } : PortFrame).cmd.toNat ({ cmd := 0x5A, index := 0xB, data := 0x3, crc := 0xED } : PortFrame).index.toNat ({ cmd := 0x5A, index := 0xB, data := 0x3, crc := 0xED } : PortFrame).data.toNat) ≠ ({ cmd := 0x5A, index := 0xB, data := 0x3, crc := 0xED } : PortFrame).crc.toNat :=
  by decide +kernel

def portAnswersFrames6_s : State := st (chipOf [(rCount, 0xFFFF0001)] on)
theorem wit_portAnswersFrames6 :
    portAnswersFrames6_s.chip.power.aonHeld = false :=
  by decide +kernel

theorem wit_portAnswersFrames7 :
    (State.reset : State).chip.power.aonHeld = true :=
  by decide +kernel

def portAnswersFrames8_s : State := st (chipOf [(rErPtr, 0x2)] { on with recorder := { ring := [(2, { seq := 2, sev := 1, w := (List.range 16) })], latch := (List.range 16).map (fun x => x + 7) } })
theorem wit_portAnswersFrames8 :
    portAnswersFrames8_s.chip.power.aonHeld = false :=
  by decide +kernel

/-! WindowAccessesMemory, in Obligations.PortAndWindow -/

def windowAccessesMemory1_s : State := st (chipOf [(rIwLo, 0xFFFFFFFC), (rIwHi, 0)] { on with mem := [(0xFFFFFFFC, 5)] })
theorem wit_windowAccessesMemory1 :
    windowAccessesMemory1_s.chip.power.aonHeld = false ∧
    windowAccessesMemory1_s.chip.window.busy = false ∧
    (windowAddr windowAccessesMemory1_s.chip : Nat) % 4 = 0 ∧
    pkgOf (windowAddr windowAccessesMemory1_s.chip : Nat) = pkg windowAccessesMemory1_s.chip ∧
    locOf (windowAddr windowAccessesMemory1_s.chip : Nat) < hubBase ∧
    memOn windowAccessesMemory1_s.chip = true ∧
    backed (windowAddr windowAccessesMemory1_s.chip : Nat) 4 = true ∧
    windowAccessesMemory1_s.chip.ecc = [] :=
  by decide +kernel

def windowAccessesMemory2_s : State := st (chipOf [(rIwLo, 0xFFFFFFFC), (rIwHi, 0)] { on with mem := [(0xFFFFFFFC, 5)] })
theorem wit_windowAccessesMemory2 :
    windowAccessesMemory2_s.chip.power.aonHeld = false ∧
    windowAccessesMemory2_s.chip.window.busy = false ∧
    (windowAddr windowAccessesMemory2_s.chip : Nat) % 4 = 0 ∧
    pkgOf (windowAddr windowAccessesMemory2_s.chip : Nat) = pkg windowAccessesMemory2_s.chip ∧
    locOf (windowAddr windowAccessesMemory2_s.chip : Nat) < hubBase ∧
    memOn windowAccessesMemory2_s.chip = true ∧
    backed (windowAddr windowAccessesMemory2_s.chip : Nat) 4 = true ∧
    windowAccessesMemory2_s.chip.ecc = [] ∧
    (9 : BitVec 4) ≠ 0 :=
  by decide +kernel

def windowAccessesMemory3_s : State := st (chipOf [(rIwLo, 2)] on)
theorem wit_windowAccessesMemory3 :
    windowAccessesMemory3_s.chip.power.aonHeld = false ∧
    windowAccessesMemory3_s.chip.window.busy = false ∧
    (windowAddr windowAccessesMemory3_s.chip : Nat) % 4 ≠ 0 :=
  by decide +kernel

def windowAccessesMemory4_s : State := st { on with window := { busy := true } }
theorem wit_windowAccessesMemory4 :
    windowAccessesMemory4_s.chip.window.busy = true :=
  by decide +kernel

/-! Obligations.MailboxWriteFollowsChecks -/

def mailboxWriteFollowsChecks1_s : State := st { on with mbox := on.mbox.set 33 { data := 7, full := false, sender := 1, receiver := 2, valid := false } }
theorem wit_mailboxWriteFollowsChecks1 :
    mailboxWriteFollowsChecks1_s.chip.mbox[(33 : Fin 64)] = ({ data := 7, full := false, sender := 1, receiver := 2, valid := false } : Mbox) ∧
    deadMaster mailboxWriteFollowsChecks1_s.chip (1 : Master) = false ∧
    mailboxWriteFollowsChecks1_s.chip.power.aonHeld = false ∧
    (({ data := 7, full := false, sender := 1, receiver := 2, valid := false } : Mbox).valid = false ∨ ({ data := 7, full := false, sender := 1, receiver := 2, valid := false } : Mbox).sender ≠ (1 : Master)) :=
  by decide +kernel

def mailboxWriteFollowsChecks2_s : State := st { on with mbox := on.mbox.set 33 { data := 7, full := true, sender := 1, receiver := 2, valid := true } }
theorem wit_mailboxWriteFollowsChecks2 :
    mailboxWriteFollowsChecks2_s.chip.mbox[(33 : Fin 64)] = ({ data := 7, full := true, sender := 1, receiver := 2, valid := true } : Mbox) ∧
    deadMaster mailboxWriteFollowsChecks2_s.chip (1 : Master) = false ∧
    mailboxWriteFollowsChecks2_s.chip.power.aonHeld = false ∧
    ({ data := 7, full := true, sender := 1, receiver := 2, valid := true } : Mbox).valid = true ∧
    ({ data := 7, full := true, sender := 1, receiver := 2, valid := true } : Mbox).sender = (1 : Master) ∧
    ({ data := 7, full := true, sender := 1, receiver := 2, valid := true } : Mbox).full = true :=
  by decide +kernel

def mailboxWriteFollowsChecks3_s : State := st { on with mbox := on.mbox.set 33 { data := 7, full := false, sender := 1, receiver := 0x43, valid := true } }
theorem wit_mailboxWriteFollowsChecks3 :
    mailboxWriteFollowsChecks3_s.chip.mbox[(33 : Fin 64)] = ({ data := 7, full := false, sender := 1, receiver := 0x43, valid := true } : Mbox) ∧
    deadMaster mailboxWriteFollowsChecks3_s.chip (1 : Master) = false ∧
    mailboxWriteFollowsChecks3_s.chip.power.aonHeld = false ∧
    ({ data := 7, full := false, sender := 1, receiver := 0x43, valid := true } : Mbox).valid = true ∧
    ({ data := 7, full := false, sender := 1, receiver := 0x43, valid := true } : Mbox).sender = (1 : Master) ∧
    ({ data := 7, full := false, sender := 1, receiver := 0x43, valid := true } : Mbox).full = false ∧
    deadMaster mailboxWriteFollowsChecks3_s.chip ({ data := 7, full := false, sender := 1, receiver := 0x43, valid := true } : Mbox).receiver = true :=
  by decide +kernel

def mailboxWriteFollowsChecks4_s : State := st { on with mbox := on.mbox.set 33 { data := 7, full := false, sender := 1, receiver := 2, valid := true } }
theorem wit_mailboxWriteFollowsChecks4 :
    mailboxWriteFollowsChecks4_s.chip.mbox[(33 : Fin 64)] = ({ data := 7, full := false, sender := 1, receiver := 2, valid := true } : Mbox) ∧
    deadMaster mailboxWriteFollowsChecks4_s.chip (1 : Master) = false ∧
    mailboxWriteFollowsChecks4_s.chip.power.aonHeld = false ∧
    ({ data := 7, full := false, sender := 1, receiver := 2, valid := true } : Mbox).valid = true ∧
    ({ data := 7, full := false, sender := 1, receiver := 2, valid := true } : Mbox).sender = (1 : Master) ∧
    ({ data := 7, full := false, sender := 1, receiver := 2, valid := true } : Mbox).full = false ∧
    deadMaster mailboxWriteFollowsChecks4_s.chip ({ data := 7, full := false, sender := 1, receiver := 2, valid := true } : Mbox).receiver = false :=
  by decide +kernel

/-! Obligations.MailboxReadTakesWord -/

def mailboxReadTakesWord1_s : State := st { on with mbox := on.mbox.set 33 { data := 7, full := true, sender := 1, receiver := 2, valid := true } }
theorem wit_mailboxReadTakesWord1 :
    mailboxReadTakesWord1_s.chip.mbox[(33 : Fin 64)] = ({ data := 7, full := true, sender := 1, receiver := 2, valid := true } : Mbox) ∧
    deadMaster mailboxReadTakesWord1_s.chip (2 : Master) = false ∧
    mailboxReadTakesWord1_s.chip.power.aonHeld = false ∧
    ({ data := 7, full := true, sender := 1, receiver := 2, valid := true } : Mbox).valid = true ∧
    ({ data := 7, full := true, sender := 1, receiver := 2, valid := true } : Mbox).receiver = (2 : Master) ∧
    fencedPeer mailboxReadTakesWord1_s.chip ({ data := 7, full := true, sender := 1, receiver := 2, valid := true } : Mbox).sender = false ∧
    ({ data := 7, full := true, sender := 1, receiver := 2, valid := true } : Mbox).full = true :=
  by decide +kernel

def mailboxReadTakesWord2_s : State := st { on with mbox := on.mbox.set 33 { data := 7, full := false, sender := 1, receiver := 2, valid := true } }
theorem wit_mailboxReadTakesWord2 :
    mailboxReadTakesWord2_s.chip.mbox[(33 : Fin 64)] = ({ data := 7, full := false, sender := 1, receiver := 2, valid := true } : Mbox) ∧
    deadMaster mailboxReadTakesWord2_s.chip (2 : Master) = false ∧
    mailboxReadTakesWord2_s.chip.power.aonHeld = false ∧
    ({ data := 7, full := false, sender := 1, receiver := 2, valid := true } : Mbox).valid = true ∧
    ({ data := 7, full := false, sender := 1, receiver := 2, valid := true } : Mbox).receiver = (2 : Master) ∧
    fencedPeer mailboxReadTakesWord2_s.chip ({ data := 7, full := false, sender := 1, receiver := 2, valid := true } : Mbox).sender = false ∧
    ({ data := 7, full := false, sender := 1, receiver := 2, valid := true } : Mbox).full = false :=
  by decide +kernel

def mailboxReadTakesWord3_s : State := st { on with mbox := on.mbox.set 33 { data := 7, full := true, sender := 0x43, receiver := 2, valid := true } }
theorem wit_mailboxReadTakesWord3 :
    mailboxReadTakesWord3_s.chip.mbox[(33 : Fin 64)] = ({ data := 7, full := true, sender := 0x43, receiver := 2, valid := true } : Mbox) ∧
    deadMaster mailboxReadTakesWord3_s.chip (2 : Master) = false ∧
    mailboxReadTakesWord3_s.chip.power.aonHeld = false ∧
    ({ data := 7, full := true, sender := 0x43, receiver := 2, valid := true } : Mbox).valid = true ∧
    ({ data := 7, full := true, sender := 0x43, receiver := 2, valid := true } : Mbox).receiver = (2 : Master) ∧
    fencedPeer mailboxReadTakesWord3_s.chip ({ data := 7, full := true, sender := 0x43, receiver := 2, valid := true } : Mbox).sender = true :=
  by decide +kernel

def mailboxReadTakesWord4_s : State := st { on with mbox := on.mbox.set 33 { data := 7, full := true, sender := 1, receiver := 2, valid := true } }
theorem wit_mailboxReadTakesWord4 :
    mailboxReadTakesWord4_s.chip.mbox[(33 : Fin 64)] = ({ data := 7, full := true, sender := 1, receiver := 2, valid := true } : Mbox) ∧
    deadMaster mailboxReadTakesWord4_s.chip (1 : Master) = false ∧
    mailboxReadTakesWord4_s.chip.power.aonHeld = false ∧
    (({ data := 7, full := true, sender := 1, receiver := 2, valid := true } : Mbox).valid = false ∨ ({ data := 7, full := true, sender := 1, receiver := 2, valid := true } : Mbox).receiver ≠ (1 : Master)) :=
  by decide +kernel

def mailboxReadTakesWord5_s : State := st { on with mbox := on.mbox.set 33 { data := 7, full := true, sender := 1, receiver := 2, valid := true } }
theorem wit_mailboxReadTakesWord5 :
    mailboxReadTakesWord5_s.chip.mbox[(33 : Fin 64)] = ({ data := 7, full := true, sender := 1, receiver := 2, valid := true } : Mbox) ∧
    deadMaster mailboxReadTakesWord5_s.chip (1 : Master) = false ∧
    mailboxReadTakesWord5_s.chip.power.aonHeld = false ∧
    ((({ data := 7, full := true, sender := 1, receiver := 2, valid := true } : Mbox).valid = true ∧ (({ data := 7, full := true, sender := 1, receiver := 2, valid := true } : Mbox).sender = (1 : Master) ∨ ({ data := 7, full := true, sender := 1, receiver := 2, valid := true } : Mbox).receiver = (1 : Master))) ∨ (1 : Master).toNat ≤ 1) :=
  by decide +kernel

/-! PollsAndTake, in Obligations.BindingsPollsAndLock -/

def pollsAndTake1_s : State := st { on with mbox := on.mbox.set 33 { data := 7, full := true, sender := 1, receiver := 2, valid := true } }
theorem wit_pollsAndTake1 :
    pollsAndTake1_s.chip.mbox[(33 : Fin 64)] = ({ data := 7, full := true, sender := 1, receiver := 2, valid := true } : Mbox) ∧
    ({ data := 7, full := true, sender := 1, receiver := 2, valid := true } : Mbox).valid = true ∧
    deadMaster pollsAndTake1_s.chip (1 : Master) = false ∧
    pollsAndTake1_s.chip.power.aonHeld = false ∧
    ({ data := 7, full := true, sender := 1, receiver := 2, valid := true } : Mbox).sender = (1 : Master) ∧
    deadMaster pollsAndTake1_s.chip ({ data := 7, full := true, sender := 1, receiver := 2, valid := true } : Mbox).receiver = false :=
  by decide +kernel

def pollsAndTake2_s : State := st { on with mbox := on.mbox.set 33 { data := 7, full := true, sender := 1, receiver := 0x43, valid := true } }
theorem wit_pollsAndTake2 :
    pollsAndTake2_s.chip.mbox[(33 : Fin 64)] = ({ data := 7, full := true, sender := 1, receiver := 0x43, valid := true } : Mbox) ∧
    ({ data := 7, full := true, sender := 1, receiver := 0x43, valid := true } : Mbox).valid = true ∧
    deadMaster pollsAndTake2_s.chip (1 : Master) = false ∧
    pollsAndTake2_s.chip.power.aonHeld = false ∧
    ({ data := 7, full := true, sender := 1, receiver := 0x43, valid := true } : Mbox).sender = (1 : Master) ∧
    deadMaster pollsAndTake2_s.chip ({ data := 7, full := true, sender := 1, receiver := 0x43, valid := true } : Mbox).receiver = true :=
  by decide +kernel

def pollsAndTake3_s : State := st { on with mbox := on.mbox.set 33 { data := 7, full := true, sender := 1, receiver := 0, valid := true } }
theorem wit_pollsAndTake3 :
    pollsAndTake3_s.chip.mbox[(33 : Fin 64)] = ({ data := 7, full := true, sender := 1, receiver := 0, valid := true } : Mbox) ∧
    ({ data := 7, full := true, sender := 1, receiver := 0, valid := true } : Mbox).valid = true ∧
    deadMaster pollsAndTake3_s.chip (1 : Master) = false ∧
    pollsAndTake3_s.chip.power.aonHeld = false ∧
    ({ data := 7, full := true, sender := 1, receiver := 0, valid := true } : Mbox).receiver = 0 ∧
    ({ data := 7, full := true, sender := 1, receiver := 0, valid := true } : Mbox).full = true ∧
    fencedPeer pollsAndTake3_s.chip ({ data := 7, full := true, sender := 1, receiver := 0, valid := true } : Mbox).sender = false :=
  by decide +kernel

/-! FarMailboxes, in Obligations.BindingsPollsAndLock -/

def farMailboxes1_s : State := st (chipOf [(rMembers, 3), (rLinkStatus 0, 2), (rPartner 1, 2)] on)
theorem wit_farMailboxes1 :
    (farMailboxes1_s.chip.power.aonHeld = false ∧
    (1 : Pkg).toNat ≠ pkg farMailboxes1_s.chip ∧
    hubOn farMailboxes1_s.chip = true ∧
    fenced farMailboxes1_s.chip (1 : Pkg).toNat = false ∧
    (nextHop farMailboxes1_s.chip (1 : Pkg).toNat).bind (fun h => bindLink farMailboxes1_s.chip h.1) = some (0 : Fin 12)) ∧
    ((.read : MbOp) ≠ .write → (0 : BitVec 32) = 0) :=
  ⟨by decide +kernel, fun _ => rfl⟩

def farMailboxes2_s : State := st on
theorem wit_farMailboxes2 :
    (farMailboxes2_s.chip.power.aonHeld = false ∧
    (1 : Pkg).toNat ≠ pkg farMailboxes2_s.chip ∧
    hubOn farMailboxes2_s.chip = true ∧
    fenced farMailboxes2_s.chip (1 : Pkg).toNat = true) ∧
    ((.read : MbOp) ≠ .write → (0 : BitVec 32) = 0) :=
  ⟨by decide +kernel, fun _ => rfl⟩

def farMailboxes3_s : State := st (chipOf [(rMembers, 3), (rLinkStatus 0, 2), (rPartner 1, 2)] on)
theorem wit_farMailboxes3 :
    (farMailboxes3_s.chip.power.aonHeld = false ∧
    (0 : Master) ≠ 1) ∧
    ((.read : MbOp) ≠ .write → (0 : BitVec 32) = 0) :=
  ⟨by decide +kernel, fun _ => rfl⟩

def farMailboxes4_s : State := st { chipOf [(rMembers, 3), (rLinkStatus 0, 2), (rPartner 1, 2)] on with fab := { on.fab with mails := [(.read, 1, 5)] } }
theorem wit_farMailboxes4 :
    (farMailboxes4_s.chip.power.aonHeld = false ∧
    fenced farMailboxes4_s.chip (1 : Pkg).toNat = false ∧
    ((.read : MbOp), (1 : Pkg), (5 : Fin 64)) ∈ farMailboxes4_s.chip.fab.mails) ∧
    ((.read : MbOp) ≠ .write → (0 : BitVec 32) = 0) :=
  ⟨by decide +kernel, fun _ => rfl⟩

def farMailboxes5_s : State := st (chipOf [(rMembers, 3), (rLinkStatus 0, 2), (rPartner 1, 2)] on)
theorem wit_farMailboxes5 :
    (farMailboxes5_s.chip.power.aonHeld = false ∧
    ((.read : MbOp), (1 : Pkg), (5 : Fin 64)) ∉ farMailboxes5_s.chip.fab.mails) ∧
    ((.read : MbOp) ≠ .write → (0 : BitVec 32) = 0) :=
  ⟨by decide +kernel, fun _ => rfl⟩

/-! BindingsAndLock, in Obligations.BindingsPollsAndLock -/

def bindingsAndLock1_s : State := st on
theorem wit_bindingsAndLock1 :
    ((0 : Master).toNat = 0 ∨ ((0 : Master).toNat = 1 ∧ hubOn bindingsAndLock1_s.chip = true)) ∧
    bindingsAndLock1_s.chip.power.aonHeld = false ∧
    bit (getReg bindingsAndLock1_s.chip rLock) 1 = false ∧
    knownMaster (BitVec.ofNat 8 (0x10102 : BitVec 32).toNat) = true ∧
    knownMaster (BitVec.ofNat 8 ((0x10102 : BitVec 32).toNat / 256)) = true ∧
    (0x10102 : BitVec 32).toNat % 256 ≠ (0x10102 : BitVec 32).toNat / 256 % 256 :=
  by decide +kernel

def bindingsAndLock2_s : State := st (chipOf [(rLock, 2)] on)
theorem wit_bindingsAndLock2 :
    ((1 : Master).toNat = 0 ∨ ((1 : Master).toNat = 1 ∧ hubOn bindingsAndLock2_s.chip = true)) ∧
    bindingsAndLock2_s.chip.power.aonHeld = false ∧
    bit (getReg bindingsAndLock2_s.chip rLock) 1 = true :=
  by decide +kernel

def bindingsAndLock3_s : State := st { State.reset.chip with power := { State.reset.chip.power with aonHeld := false } }
theorem wit_bindingsAndLock3 :
    ((0 : Master).toNat = 0 ∨ ((0 : Master).toNat = 1 ∧ hubOn bindingsAndLock3_s.chip = true)) ∧
    bindingsAndLock3_s.chip.power.aonHeld = false :=
  by decide +kernel

def bindingsAndLock4_s : State := st (chipOf [(rTherm, 0x4020)] on)
theorem wit_bindingsAndLock4 :
    ((0 : Master).toNat = 0 ∨ ((0 : Master).toNat = 1 ∧ hubOn bindingsAndLock4_s.chip = true)) ∧
    bindingsAndLock4_s.chip.power.aonHeld = false :=
  by decide +kernel

def bindingsAndLock5_s : State := st on
theorem wit_bindingsAndLock5 :
    ((1 : Master).toNat = 0 ∨ ((1 : Master).toNat = 1 ∧ hubOn bindingsAndLock5_s.chip = true)) ∧
    bindingsAndLock5_s.chip.power.aonHeld = false ∧
    (⟨0xC0DF, {}⟩ : RegWrite).v.toNat ≠ 0xC0DE :=
  by decide +kernel

/-! ProfilesOfOneRegister, in Obligations.ProfilesWriteRegisters -/

def profilesOfOneRegister1_s : State := st on
theorem wit_profilesOfOneRegister1 :
    oneRegister (.stateProfile 3 ⟨0, {}⟩ : Instr) = some ((2 : Nat), (3 : Master), (⟨0, {}⟩ : RegWrite), (rStCfg : Nat), ([0x30, 0x10, 0x34] : List Nat)) ∧
    (3 : Master).toNat ≤ 3 ∧
    hubOn profilesOfOneRegister1_s.chip = true ∧
    profilesOfOneRegister1_s.chip.power.aonHeld = false ∧
    ((⟨0, {}⟩ : RegWrite).v.toNat % 16 : Nat) ≤ ([0x30, 0x10, 0x34] : List Nat).length ∧
    (⟨0, {}⟩ : RegWrite).meets.silent = false ∧
    (⟨0, {}⟩ : RegWrite).meets.applying = false :=
  by decide +kernel

def profilesOfOneRegister2_s : State := st on
theorem wit_profilesOfOneRegister2 :
    oneRegister (.stateProfile 3 ⟨1, { applying := true }⟩ : Instr) = some ((2 : Nat), (3 : Master), (⟨1, { applying := true }⟩ : RegWrite), (rStCfg : Nat), ([0x30, 0x10, 0x34] : List Nat)) ∧
    (3 : Master).toNat ≤ 3 ∧
    hubOn profilesOfOneRegister2_s.chip = true ∧
    profilesOfOneRegister2_s.chip.power.aonHeld = false ∧
    ((⟨1, { applying := true }⟩ : RegWrite).v.toNat % 16 : Nat) ≤ ([0x30, 0x10, 0x34] : List Nat).length ∧
    (⟨1, { applying := true }⟩ : RegWrite).meets.silent = false ∧
    (⟨1, { applying := true }⟩ : RegWrite).meets.applying = true :=
  by decide +kernel

def profilesOfOneRegister3_s : State := st on
theorem wit_profilesOfOneRegister3 :
    oneRegister (.stateProfile 3 ⟨1, { silent := true }⟩ : Instr) = some ((2 : Nat), (3 : Master), (⟨1, { silent := true }⟩ : RegWrite), (rStCfg : Nat), ([0x30, 0x10, 0x34] : List Nat)) ∧
    (3 : Master).toNat ≤ 3 ∧
    hubOn profilesOfOneRegister3_s.chip = true ∧
    profilesOfOneRegister3_s.chip.power.aonHeld = false ∧
    ((⟨1, { silent := true }⟩ : RegWrite).v.toNat % 16 : Nat) ≤ ([0x30, 0x10, 0x34] : List Nat).length ∧
    (⟨1, { silent := true }⟩ : RegWrite).meets.silent = true :=
  by decide +kernel

def profilesOfOneRegister4_s : State := st on
theorem wit_profilesOfOneRegister4 :
    oneRegister (.stateProfile 3 ⟨15, {}⟩ : Instr) = some ((2 : Nat), (3 : Master), (⟨15, {}⟩ : RegWrite), (rStCfg : Nat), ([0x30, 0x10, 0x34] : List Nat)) ∧
    (3 : Master).toNat ≤ 3 ∧
    hubOn profilesOfOneRegister4_s.chip = true ∧
    profilesOfOneRegister4_s.chip.power.aonHeld = false ∧
    ([0x30, 0x10, 0x34] : List Nat).length < ((⟨15, {}⟩ : RegWrite).v.toNat % 16 : Nat) :=
  by decide +kernel

/-! ProfilesOfManyRegisters, in Obligations.ProfilesWriteRegisters -/

def profilesOfManyRegisters1_s : State := st { on with basins := on.basins.set 3 { selftest := 2 } }
theorem wit_profilesOfManyRegisters1 :
    (3 : Master).toNat ≤ 3 ∧
    profilesOfManyRegisters1_s.chip.power.aonHeld = false ∧
    (⟨2, {}⟩ : RegWrite).meets.silent = false ∧
    (⟨2, {}⟩ : RegWrite).meets.applying = false ∧
    1 ≤ ((⟨2, {}⟩ : RegWrite).v.toNat % 16 : Nat) ∧
    ((⟨2, {}⟩ : RegWrite).v.toNat % 16 : Nat) ≤ 2 ∧
    modeOf profilesOfManyRegisters1_s.chip = 0 ∧
    profilesOfManyRegisters1_s.chip.power.change = none :=
  by decide +kernel

def profilesOfManyRegisters2_s : State := st on
theorem wit_profilesOfManyRegisters2 :
    (3 : Master).toNat ≤ 3 ∧
    profilesOfManyRegisters2_s.chip.power.aonHeld = false ∧
    (⟨3, {}⟩ : RegWrite).meets.silent = false ∧
    (⟨3, {}⟩ : RegWrite).meets.applying = false ∧
    1 ≤ ((⟨3, {}⟩ : RegWrite).v.toNat % 16 : Nat) ∧
    ((⟨3, {}⟩ : RegWrite).v.toNat % 16 : Nat) ≤ 3 ∧
    hubOn profilesOfManyRegisters2_s.chip = true :=
  by decide +kernel

def profilesOfManyRegisters3_s : State := st (chipOf [(rPlCfg, 1)] on)
theorem wit_profilesOfManyRegisters3 :
    (3 : Master).toNat ≤ 3 ∧
    profilesOfManyRegisters3_s.chip.power.aonHeld = false ∧
    (⟨3, {}⟩ : RegWrite).meets.silent = false ∧
    (⟨3, {}⟩ : RegWrite).meets.applying = false ∧
    1 ≤ ((⟨3, {}⟩ : RegWrite).v.toNat % 16 : Nat) ∧
    ((⟨3, {}⟩ : RegWrite).v.toNat % 16 : Nat) ≤ 3 ∧
    hubOn profilesOfManyRegisters3_s.chip = true :=
  by decide +kernel

def profilesOfManyRegisters4_s : State := st (chipOf [(rMembers, 3), (rLinkStatus 1, 2), (rLinkStatus 2, 3)] on)
theorem wit_profilesOfManyRegisters4 :
    (3 : Master).toNat ≤ 3 ∧
    profilesOfManyRegisters4_s.chip.power.aonHeld = false ∧
    (⟨2, {}⟩ : RegWrite).meets.silent = false ∧
    (⟨2, {}⟩ : RegWrite).meets.applying = false ∧
    1 ≤ ((⟨2, {}⟩ : RegWrite).v.toNat % 16 : Nat) ∧
    ((⟨2, {}⟩ : RegWrite).v.toNat % 16 : Nat) ≤ 2 ∧
    modeOf profilesOfManyRegisters4_s.chip = 0 ∧
    profilesOfManyRegisters4_s.chip.fab.selfFenced = false :=
  by decide +kernel

def profilesOfManyRegisters5_s : State := st on
theorem wit_profilesOfManyRegisters5 :
    (3 : Master).toNat ≤ 3 ∧
    profilesOfManyRegisters5_s.chip.power.aonHeld = false ∧
    (⟨3, {}⟩ : RegWrite).meets.silent = false ∧
    (⟨3, {}⟩ : RegWrite).meets.applying = false ∧
    1 ≤ ((⟨3, {}⟩ : RegWrite).v.toNat % 16 : Nat) ∧
    ((⟨3, {}⟩ : RegWrite).v.toNat % 16 : Nat) ≤ 3 ∧
    hubOn profilesOfManyRegisters5_s.chip = true ∧
    (∀ a, a < 4 → getF profilesOfManyRegisters5_s.chip (rFeArray a) 5 2 ≠ 3) :=
  by decide +kernel

def profilesOfManyRegisters6_s : State := st on
theorem wit_profilesOfManyRegisters6 :
    (3 : Master).toNat ≤ 3 ∧
    profilesOfManyRegisters6_s.chip.power.aonHeld = false ∧
    (⟨3, {}⟩ : RegWrite).meets.silent = false ∧
    (⟨3, {}⟩ : RegWrite).meets.applying = false ∧
    1 ≤ ((⟨3, {}⟩ : RegWrite).v.toNat % 16 : Nat) ∧
    ((⟨3, {}⟩ : RegWrite).v.toNat % 16 : Nat) ≤ 3 ∧
    hubOn profilesOfManyRegisters6_s.chip = true :=
  by decide +kernel

def profilesOfManyRegisters7_s : State := st (chipOf [(rWrCfg, 0x11223344)] on)
theorem wit_profilesOfManyRegisters7 :
    (3 : Master).toNat ≤ 3 ∧
    profilesOfManyRegisters7_s.chip.power.aonHeld = false ∧
    (⟨3, {}⟩ : RegWrite).meets.silent = false ∧
    (⟨3, {}⟩ : RegWrite).meets.applying = false ∧
    1 ≤ ((⟨3, {}⟩ : RegWrite).v.toNat % 16 : Nat) ∧
    ((⟨3, {}⟩ : RegWrite).v.toNat % 16 : Nat) ≤ 3 ∧
    hubOn profilesOfManyRegisters7_s.chip = true :=
  by decide +kernel

def profilesOfManyRegisters8_s : State := st (chipOf [(0x20, 3)] on)
theorem wit_profilesOfManyRegisters8 :
    (0 : Master).toNat ≤ 3 ∧
    profilesOfManyRegisters8_s.chip.power.aonHeld = false ∧
    (⟨3, {}⟩ : RegWrite).meets.silent = false ∧
    (⟨3, {}⟩ : RegWrite).meets.applying = false ∧
    1 ≤ ((⟨3, {}⟩ : RegWrite).v.toNat % 16 : Nat) ∧
    ((⟨3, {}⟩ : RegWrite).v.toNat % 16 : Nat) ≤ 3 :=
  by decide +kernel

/-! Obligations.RegisterWritesStoreTheirBits -/

def registerWritesStoreTheirBits1_s : State := st on
theorem wit_registerWritesStoreTheirBits1 :
    registerWritesStoreTheirBits1_s.chip.power.aonHeld = false ∧
    (0 : Master).toNat ≤ 3 ∧
    (0xFFC : BitVec 48).toNat % 4 = 0 ∧
    pkgOf (0xFFC : BitVec 48).toNat = pkg registerWritesStoreTheirBits1_s.chip ∧
    locOf (0xFFC : BitVec 48).toNat < hubBase ∧
    memOn registerWritesStoreTheirBits1_s.chip = true ∧
    backed (0xFFC : BitVec 48).toNat 4 = true ∧
    registerWritesStoreTheirBits1_s.chip.ecc = [] :=
  by decide +kernel

def registerWritesStoreTheirBits2_s : State := st on
theorem wit_registerWritesStoreTheirBits2 :
    registerWritesStoreTheirBits2_s.chip.power.aonHeld = false ∧
    (3 : Master).toNat ≤ 3 ∧
    hubOn registerWritesStoreTheirBits2_s.chip = true ∧
    (BitVec.ofNat 48 (hubBase + rStCfg) : BitVec 48).toNat = sys registerWritesStoreTheirBits2_s.chip (hubBase + (rStCfg : Nat)) ∧
    ((rStCfg : Nat) = rStCfg ∨ (rStCfg : Nat) = rAtCfg ∨ (rStCfg : Nat) = rKvCfg ∨ (rStCfg : Nat) = rCadCfg ∨ (rStCfg : Nat) = rCxCfg ∨ (rStCfg : Nat) = rFlCfg ∨ (rStCfg : Nat) = rMsCfg ∨ (rStCfg : Nat) = rRcCfg) :=
  by decide +kernel

def registerWritesStoreTheirBits3_s : State := st on
theorem wit_registerWritesStoreTheirBits3 :
    registerWritesStoreTheirBits3_s.chip.power.aonHeld = false ∧
    3 < (4 : Master).toNat ∧
    (0xFFC : BitVec 48).toNat % 4 = 0 ∧
    pkgOf (0xFFC : BitVec 48).toNat = pkg registerWritesStoreTheirBits3_s.chip ∧
    locOf (0xFFC : BitVec 48).toNat < hubBase :=
  by decide +kernel

def registerWritesStoreTheirBits4_s : State := st on
theorem wit_registerWritesStoreTheirBits4 :
    registerWritesStoreTheirBits4_s.chip.power.aonHeld = false ∧
    (2 : BitVec 48).toNat % 4 ≠ 0 :=
  by decide +kernel

/-! PowerRequestsAreTaken, in Obligations.PowerModesChange -/

theorem wit_powerRequestsAreTaken1 :
    (State.reset : State).chip.power.aonHeld = true :=
  by decide +kernel

def powerRequestsAreTaken2_s : State := st (chipOf [(0x20000, 0)] on)
theorem wit_powerRequestsAreTaken2 :
    ((0 : Master).toNat = 0 ∨ ((0 : Master).toNat = 1 ∧ hubOn powerRequestsAreTaken2_s.chip = true)) ∧
    powerRequestsAreTaken2_s.chip.power.aonHeld = false ∧
    powerRequestsAreTaken2_s.chip.power.change = none ∧
    powerRequestsAreTaken2_s.chip.power.rstLow = false ∧
    (3 : BitVec 2).toNat ≠ modeOf powerRequestsAreTaken2_s.chip ∧
    ((3 : BitVec 2) = 3 ∨ (false : Bool) = true) ∧
    modeOf powerRequestsAreTaken2_s.chip = 0 ∧
    getReg powerRequestsAreTaken2_s.chip rEnable = 0 :=
  by decide +kernel

def powerRequestsAreTaken3_s : State := st on
theorem wit_powerRequestsAreTaken3 :
    ((1 : Master).toNat = 0 ∨ ((1 : Master).toNat = 1 ∧ hubOn powerRequestsAreTaken3_s.chip = true)) ∧
    powerRequestsAreTaken3_s.chip.power.aonHeld = false ∧
    powerRequestsAreTaken3_s.chip.power.change = none ∧
    powerRequestsAreTaken3_s.chip.power.rstLow = false ∧
    (3 : BitVec 2).toNat ≠ modeOf powerRequestsAreTaken3_s.chip ∧
    ((3 : BitVec 2) = 3 ∨ (false : Bool) = true) ∧
    modeOf powerRequestsAreTaken3_s.chip = 0 ∧
    getReg powerRequestsAreTaken3_s.chip rEnable ≠ 0 :=
  by decide +kernel

def powerRequestsAreTaken4_s : State := st (chipOf [(0x20, 0xF)] on)
theorem wit_powerRequestsAreTaken4 :
    ((0 : Master).toNat = 0 ∨ ((0 : Master).toNat = 1 ∧ hubOn powerRequestsAreTaken4_s.chip = true)) ∧
    powerRequestsAreTaken4_s.chip.power.aonHeld = false ∧
    powerRequestsAreTaken4_s.chip.power.change = none ∧
    powerRequestsAreTaken4_s.chip.power.rstLow = false ∧
    (2 : BitVec 2).toNat ≠ modeOf powerRequestsAreTaken4_s.chip ∧
    ((2 : BitVec 2) = 3 ∨ (true : Bool) = true) ∧
    modeOf powerRequestsAreTaken4_s.chip = 3 :=
  by decide +kernel

def powerRequestsAreTaken5_s : State := st (chipOf [(0x20000, 0)] on)
theorem wit_powerRequestsAreTaken5 :
    (0 : Master).toNat = 0 ∧
    powerRequestsAreTaken5_s.chip.power.aonHeld = false ∧
    powerRequestsAreTaken5_s.chip.power.change = none ∧
    powerRequestsAreTaken5_s.chip.power.rstLow = false ∧
    (2 : BitVec 2).toNat ≠ modeOf powerRequestsAreTaken5_s.chip ∧
    (2 : BitVec 2) ≠ 3 ∧
    (modeOf powerRequestsAreTaken5_s.chip ≠ 0 ∨ getReg powerRequestsAreTaken5_s.chip rEnable = 0) :=
  by decide +kernel

def powerRequestsAreTaken6_s : State := st (chipOf [(0x20, 0xA)] { on with power := { on.power with wakePend := true, pwrGood := true, boot := .off } })
theorem wit_powerRequestsAreTaken6 :
    powerRequestsAreTaken6_s.chip.power.wakePend = true ∧
    powerRequestsAreTaken6_s.chip.power.change = none ∧
    powerRequestsAreTaken6_s.chip.power.rstLow = false ∧
    powerRequestsAreTaken6_s.chip.power.pwrGood = true ∧
    getF powerRequestsAreTaken6_s.chip rPower 2 2 ≠ 0 ∧
    modeOf powerRequestsAreTaken6_s.chip = 2 :=
  by decide +kernel

def powerRequestsAreTaken7_s : State := st { on with power := { on.power with change := some { target := 1, draining := true } }, basins := on.basins.set 0 { chains := (Vector.replicate 16 none).set 0 (some { flight := [{ w := [1] }] }) } }
theorem wit_powerRequestsAreTaken7 :
    powerRequestsAreTaken7_s.chip.power.change = some ({ target := 1, draining := true } : Change) ∧
    ({ target := 1, draining := true } : Change).draining = true ∧
    allIdle powerRequestsAreTaken7_s.chip = false :=
  by decide +kernel

/-! ModeChangesComplete, in Obligations.PowerModesChange -/

def modeChangesComplete1_s : State := st (chipOf [(0x20, 1)] { on with power := { on.power with change := some { target := 0 } } })
theorem wit_modeChangesComplete1 :
    modeChangesComplete1_s.chip.power.change = some ({ target := 0 } : Change) ∧
    booting modeChangesComplete1_s.chip = false ∧
    ({ target := 0 } : Change).draining = false ∧
    ({ target := 0 } : Change).target = 0 ∧
    (∀ b : Fin 32, modeChangesComplete1_s.chip.basins[b].selftest ≠ 1) :=
  by decide +kernel

def modeChangesComplete2_s : State := { st (chipOf [(0x20, 9)] { on with power := { on.power with change := some { target := 2 } } }) with sec := { root := some [], head := some {} } }
theorem wit_modeChangesComplete2 :
    modeChangesComplete2_s.chip.power.change = some ({ target := 2 } : Change) ∧
    booting modeChangesComplete2_s.chip = false ∧
    ({ target := 2 } : Change).draining = false ∧
    ({ target := 2 } : Change).target = 2 ∧
    modeChangesComplete2_s.chip.flash.writes = [] :=
  by decide +kernel

def modeChangesComplete3_s : State := st (chipOf [(0x20000, 0), (0x20, 4), (rRcJob 5, 0x20464)] { on with power := { on.power with change := some { target := 1, draining := true } }, jobs := [(5, { contained := true })] })
theorem wit_modeChangesComplete3 :
    modeChangesComplete3_s.chip.power.change = some ({ target := 1, draining := true } : Change) ∧
    booting modeChangesComplete3_s.chip = false ∧
    ({ target := 1, draining := true } : Change).draining = true ∧
    ({ target := 1, draining := true } : Change).target = 1 ∧
    allIdle modeChangesComplete3_s.chip = true ∧
    modeChangesComplete3_s.chip.ms.loads = [] ∧
    modeChangesComplete3_s.chip.ms.repls = [] ∧
    (∀ l : Fin 12, linkState modeChangesComplete3_s.chip l ≠ 1 ∧ linkState modeChangesComplete3_s.chip l ≠ 2) :=
  by decide +kernel

/-! SwitchingOffAlwaysCompletes, in Obligations.SwitchOffAndReset -/

theorem wit_switchingOffAlwaysCompletes1 :
    (State.reset : State).chip.power.aonHeld = true :=
  by decide +kernel

def switchingOffAlwaysCompletes2_s : State := st on
theorem wit_switchingOffAlwaysCompletes2 :
    ((1 : Master).toNat = 0 ∨ ((1 : Master).toNat = 1 ∧ hubOn switchingOffAlwaysCompletes2_s.chip = true)) ∧
    switchingOffAlwaysCompletes2_s.chip.power.aonHeld = false :=
  by decide +kernel

def switchingOffAlwaysCompletes3_s : State := st on
theorem wit_switchingOffAlwaysCompletes3 :
    switchingOffAlwaysCompletes3_s.chip.power.aonHeld = false :=
  by decide +kernel

theorem wit_switchingOffAlwaysCompletes4 :
    (State.reset : State).chip.power.aonHeld = true :=
  by decide +kernel

def switchingOffAlwaysCompletes5_s : State := st on
theorem wit_switchingOffAlwaysCompletes5 :
    switchingOffAlwaysCompletes5_s.chip.power.aonHeld = false ∧
    110 ≤ (110 : BitVec 8).toNat :=
  by decide +kernel

def switchingOffAlwaysCompletes6_s : State := st (chipOf [(0x20, 1)] on)
theorem wit_switchingOffAlwaysCompletes6 :
    modeOf switchingOffAlwaysCompletes6_s.chip ≠ 3 :=
  by decide +kernel

def switchingOffAlwaysCompletes7_s : State := st (chipOf [(0x20, 0xF)] { on with power := { on.power with rstLow := true, boot := .off } })
theorem wit_switchingOffAlwaysCompletes7 :
    switchingOffAlwaysCompletes7_s.chip.power.rstLow = true :=
  by decide +kernel

/-! Obligations.WeirGrantsAndLimits -/

def weirGrantsAndLimits1_s : State := st (chipOf [(0x20000, 0)] on)
theorem wit_weirGrantsAndLimits1 :
    modeOf weirGrantsAndLimits1_s.chip = 0 ∧
    (∀ b : Fin 32, enabled weirGrantsAndLimits1_s.chip b = false) ∧
    getF weirGrantsAndLimits1_s.chip rPower 8 8 = 0 ∧
    weirGrantsAndLimits1_s.chip.weir.excursion = none ∧
    (0 : Nat) ≤ sustain weirGrantsAndLimits1_s.chip :=
  by decide +kernel

def weirGrantsAndLimits2_s : State := st (chipOf [(0x20000, 0)] on)
theorem wit_weirGrantsAndLimits2 :
    modeOf weirGrantsAndLimits2_s.chip = 0 ∧
    (∀ b : Fin 32, enabled weirGrantsAndLimits2_s.chip b = false) ∧
    getF weirGrantsAndLimits2_s.chip rPower 8 8 = 0 ∧
    weirGrantsAndLimits2_s.chip.weir.excursion = none ∧
    weirGrantsAndLimits2_s.chip.weir.rested = true ∧
    sustain weirGrantsAndLimits2_s.chip < (peak on : Nat) ∧
    (peak on : Nat) ≤ peak weirGrantsAndLimits2_s.chip ∧
    weirGrantsAndLimits2_s.chip.weir.bucket < (peak weirGrantsAndLimits2_s.chip - sustain weirGrantsAndLimits2_s.chip) * 1000 :=
  by decide +kernel

def weirGrantsAndLimits3_s : State := st (chipOf [(0x20, 0x100)] on)
theorem wit_weirGrantsAndLimits3 :
    modeOf weirGrantsAndLimits3_s.chip = 0 ∧
    getF weirGrantsAndLimits3_s.chip rPower 8 8 ≠ 0 ∧
    getF weirGrantsAndLimits3_s.chip rPower 8 8 * 16 < (17 : Nat) :=
  by decide +kernel

def weirGrantsAndLimits4_s : State := st on
theorem wit_weirGrantsAndLimits4 :
    modeOf weirGrantsAndLimits4_s.chip = 0 :=
  by decide +kernel

def weirGrantsAndLimits5_s : State := st (chipOf [(0x20, 0x100)] on)
theorem wit_weirGrantsAndLimits5 :
    modeOf weirGrantsAndLimits5_s.chip = 0 ∧
    getF weirGrantsAndLimits5_s.chip rPower 8 8 ≠ 0 :=
  by decide +kernel

def weirGrantsAndLimits6_s : State := st (chipOf [(0x20, 0xF)] on)
theorem wit_weirGrantsAndLimits6 :
    ((0 : Master).toNat = 0 ∨ ((0 : Master).toNat = 1 ∧ hubOn weirGrantsAndLimits6_s.chip = true)) ∧
    weirGrantsAndLimits6_s.chip.power.aonHeld = false :=
  by decide +kernel

def weirGrantsAndLimits7_s : State := st on
theorem wit_weirGrantsAndLimits7 :
    weirGrantsAndLimits7_s.chip.power.aonHeld = false ∧
    hubOn weirGrantsAndLimits7_s.chip = true ∧
    (100 : BitVec 8).toNat < 110 :=
  by decide +kernel

/-! ResetsClear, in Obligations.SwitchOffAndReset -/

def resetsClear1_s : State := st (chipOf [(0x20, 0xC)] on)
theorem wit_resetsClear1 :
    ((0 : Master).toNat = 0 ∨ ((0 : Master).toNat = 1 ∧ hubOn resetsClear1_s.chip = true)) ∧
    (⟨0xC0DE, { pins := some { pkgId := 0, bootAlt := true, autoOn := false, pwrGood := true } }⟩ : RegWrite).v.toNat = 0xC0DE ∧
    (⟨0xC0DE, { pins := some { pkgId := 0, bootAlt := true, autoOn := false, pwrGood := true } }⟩ : RegWrite).meets.pins = some ({ pkgId := 0, bootAlt := true, autoOn := false, pwrGood := true } : Straps) ∧
    ({ pkgId := 0, bootAlt := true, autoOn := false, pwrGood := true } : Straps).pkgId = resetsClear1_s.chip.power.pkgId ∧
    resetsClear1_s.chip.power.aonHeld = false ∧
    resetsClear1_s.chip.power.rstLow = false ∧
    resetsClear1_s.chip.flash.writes = [] :=
  by decide +kernel

def resetsClear2_s : State := st (chipOf [(0x20, 0xF)] { on with power := { on.power with rstLow := true, boot := .off } })
theorem wit_resetsClear2 :
    ((0 : Master).toNat = 0 ∨ ((0 : Master).toNat = 1 ∧ hubOn resetsClear2_s.chip = true)) ∧
    (⟨0xC0DE, {}⟩ : RegWrite).v.toNat = 0xC0DE ∧
    resetsClear2_s.chip.power.aonHeld = false ∧
    resetsClear2_s.chip.power.rstLow = true :=
  by decide +kernel

def resetsClear3_s : State := st on
theorem wit_resetsClear3 :
    resetsClear3_s.chip.power.aonHeld = false ∧
    resetsClear3_s.chip.flash.writes = [] ∧
    ({ pkgId := 0, bootAlt := true, autoOn := true, pwrGood := true } : Straps).pkgId = resetsClear3_s.chip.power.pkgId :=
  by decide +kernel

def resetsClear4_s : State := st on
theorem wit_resetsClear4 :
    resetsClear4_s.chip.flash.writes = [] :=
  by decide +kernel

theorem wit_resetsClear5 :
    (State.reset : State).chip.power.aonHeld = true ∧
    ({ pkgId := 15, bootAlt := true, autoOn := false, pwrGood := true } : Straps).autoOn = false ∧
    (State.reset : State).chip.power.shutPend = false ∧
    (State.reset : State).chip.recorder.ring = [] :=
  by decide +kernel

def resetsClear6_s : State := st { regs := [(0x20, 0xF)], power := State.reset.chip.power }
theorem wit_resetsClear6 :
    resetsClear6_s.chip.power.aonHeld = true ∧
    ({ pkgId := 15, bootAlt := true, autoOn := true, pwrGood := true } : Straps).autoOn = true ∧
    ({ pkgId := 15, bootAlt := true, autoOn := true, pwrGood := true } : Straps).pwrGood = true ∧
    resetsClear6_s.chip.power.shutPend = false ∧
    resetsClear6_s.chip.power.rstLow = false ∧
    resetsClear6_s.chip.power.change = none ∧
    modeOf resetsClear6_s.chip = 3 :=
  by decide +kernel

def resetsClear7_s : State := st (chipOf [(0x20, 0xF)] { on with power := { on.power with rstLow := true, boot := .off } })
theorem wit_resetsClear7 :
    resetsClear7_s.chip.power.rstLow = true ∧
    resetsClear7_s.chip.power.aonHeld = false ∧
    getF resetsClear7_s.chip rPower 2 2 = 3 :=
  by decide +kernel

def resetsClear8_s : State := st (chipOf [(0x20, 3)] { on with power := { on.power with rstLow := true, boot := .off, pwrGood := true } })
theorem wit_resetsClear8 :
    resetsClear8_s.chip.power.rstLow = true ∧
    resetsClear8_s.chip.power.aonHeld = false ∧
    getF resetsClear8_s.chip rPower 2 2 ≠ 3 ∧
    resetsClear8_s.chip.power.pwrGood = true :=
  by decide +kernel

/-! Obligations.StartUpStages -/

def startUpStages1_s : State := st (chipOf [(0x20, 3)] { on with power := { on.power with boot := .hub, change := some { target := 0 } } })
theorem wit_startUpStages1 :
    startUpStages1_s.chip.power.change = some ({ target := 0 } : Change) ∧
    startUpStages1_s.chip.power.boot = .hub :=
  by decide +kernel

def startUpStages2_s : State := st (chipOf [(0x20, 3)] { on with power := { on.power with boot := .dies, change := some { target := 0 } } })
theorem wit_startUpStages2 :
    startUpStages2_s.chip.power.change = some ({ target := 0 } : Change) ∧
    startUpStages2_s.chip.power.boot = .dies :=
  by decide +kernel

def startUpStages3_s : State := st (chipOf [(0x20, 3)] { on with power := { on.power with boot := .selftest, change := some { target := 0 }, resetRun := true } })
theorem wit_startUpStages3 :
    startUpStages3_s.chip.power.change = some ({ target := 0 } : Change) ∧
    startUpStages3_s.chip.power.boot = .selftest ∧
    ({ target := 0 } : Change).target = 0 ∧
    (∀ b : Fin 32, startUpStages3_s.chip.basins[b].selftest ≠ 1) ∧
    bit (getReg startUpStages3_s.chip rBoot) 4 = false :=
  by decide +kernel

def startUpStages4_s : State := { st on with sec := { root := some [], kemReady := true } }
theorem wit_startUpStages4 :
    startUpStages4_s.sec.root.isSome = true ∧
    startUpStages4_s.sec.idReady = false ∧
    startUpStages4_s.sec.kemReady = true ∧
    startUpStages4_s.sec.head = none ∧
    startUpStages4_s.chip.ms.loads = [] :=
  by decide +kernel

/-! ContainmentBeginsAndEnds, in Obligations.JobsAreContainedAndCommit -/

def containmentBeginsAndEnds1_s : State := st (chipOf [(rMembers, 9), (rRcJob 255, 0x90000)] on)
theorem wit_containmentBeginsAndEnds1 :
    ((255 : BitVec 16).toNat < 256 ∧
    (3 : BitVec 4).toNat ∈ jobPkgs containmentBeginsAndEnds1_s.chip (255 : BitVec 16).toNat ∧
    (jobRc containmentBeginsAndEnds1_s.chip (255 : BitVec 16).toNat).contained = false) ∧
    FreshMessage containmentBeginsAndEnds1_s.chip (3 : BitVec 4) (5 : BitVec 16) ∧
    NoRunAhead containmentBeginsAndEnds1_s.chip :=
  ⟨by decide +kernel, by unfold FreshMessage; decide +kernel, by unfold NoRunAhead; decide +kernel⟩

def containmentBeginsAndEnds2_s : State := st (chipOf [(rMembers, 9)] on)
theorem wit_containmentBeginsAndEnds2 :
    (3 : BitVec 4).toNat ∉ jobPkgs containmentBeginsAndEnds2_s.chip (255 : BitVec 16).toNat ∧
    FreshMessage containmentBeginsAndEnds2_s.chip (3 : BitVec 4) (5 : BitVec 16) :=
  ⟨by decide +kernel, by unfold FreshMessage; decide +kernel⟩

def containmentBeginsAndEnds3_s : State := st { on with jobs := [(255, { contained := true })] }
theorem wit_containmentBeginsAndEnds3 :
    (3 : Master).toNat ≤ 3 ∧
    hubOn containmentBeginsAndEnds3_s.chip = true ∧
    inflight containmentBeginsAndEnds3_s.chip (255 : Fin 256).val = false ∧
    (∀ p ∈ containmentBeginsAndEnds3_s.chip.jobs, p.2.waiting = []) :=
  by decide +kernel

def containmentBeginsAndEnds4_s : State := st { on with basins := on.basins.set 0 { chains := (Vector.replicate 16 none).set 0 (some { flight := [{ w := [1], job := 7 }] }) } }
theorem wit_containmentBeginsAndEnds4 :
    (3 : Master).toNat ≤ 3 ∧
    hubOn containmentBeginsAndEnds4_s.chip = true ∧
    inflight containmentBeginsAndEnds4_s.chip (7 : Fin 256).val = true :=
  by decide +kernel

/-! CommitPointsPass, in Obligations.JobsAreContainedAndCommit -/

def commitPointsPass1_s : State := st (chipOf [(rMembers, 3), (rRcJob 5, 0x3040A), (rCadStatus, 1)] { on with jobs := [(5, { waiting := [40], ready := [(0, 40)] })] })
theorem wit_commitPointsPass1 :
    (isHome commitPointsPass1_s.chip (5 : Fin 256).val = true ∧
    running commitPointsPass1_s.chip = true ∧
    intervalOf commitPointsPass1_s.chip (5 : Fin 256).val ≠ none ∧
    (jobRc commitPointsPass1_s.chip (5 : Fin 256).val).contained = false ∧
    (40 : BitVec 32).toNat ∈ (jobRc commitPointsPass1_s.chip (5 : Fin 256).val).waiting ∧
    (∀ q ∈ jobPkgs commitPointsPass1_s.chip (5 : Fin 256).val, fenced commitPointsPass1_s.chip q = true ∨ q = (1 : BitVec 4).toNat ∨ ∃ x ∈ (jobRc commitPointsPass1_s.chip (5 : Fin 256).val).ready, x.1.toNat = q ∧ x.2 = (40 : BitVec 32).toNat)) ∧
    FreshMessage commitPointsPass1_s.chip (1 : BitVec 4) (3 : BitVec 16) :=
  ⟨by decide +kernel, by unfold FreshMessage; decide +kernel⟩

def commitPointsPass2_s : State := st (chipOf [(rRcJob 5, 0x1040A), (rCadStatus, 1)] { on with jobs := [(5, { waiting := [40] })] })
theorem wit_commitPointsPass2 :
    (running commitPointsPass2_s.chip = true ∧
    intervalOf commitPointsPass2_s.chip (5 : Fin 256).val ≠ none ∧
    ((jobRc commitPointsPass2_s.chip (5 : Fin 256).val).passed = false ∨ tickLe (40 : BitVec 32).toNat (getReg commitPointsPass2_s.chip (rRcCommit (5 : Fin 256).val)) = false)) ∧
    FreshMessage commitPointsPass2_s.chip (0 : BitVec 4) (3 : BitVec 16) :=
  ⟨by decide +kernel, by unfold FreshMessage; decide +kernel⟩

def commitPointsPass3_s : State := st { on with jobs := [(5, { waiting := [40] })] }
theorem wit_commitPointsPass3 :
    (running commitPointsPass3_s.chip = false ∨ intervalOf commitPointsPass3_s.chip (5 : Fin 256).val = none ∨ ((jobRc commitPointsPass3_s.chip (5 : Fin 256).val).passed = true ∧ tickLe (40 : BitVec 32).toNat (getReg commitPointsPass3_s.chip (rRcCommit (5 : Fin 256).val)) = true)) ∧
    FreshMessage commitPointsPass3_s.chip (0 : BitVec 4) (3 : BitVec 16) :=
  ⟨by decide +kernel, by unfold FreshMessage; decide +kernel⟩

def commitPointsPass4_s : State := st { on with jobs := [(5, { waiting := [40] })] }
theorem wit_commitPointsPass4 :
    (40 : BitVec 32).toNat ∈ (jobRc commitPointsPass4_s.chip (5 : Fin 256).val).waiting ∧
    (40 : BitVec 32).toNat ∉ (jobRc commitPointsPass4_s.chip (5 : Fin 256).val).late :=
  by decide +kernel

/-! Obligations.RecorderClosesAndMirrors -/

def recorderClosesAndMirrors1_s : State := st (chipOf [(rErCfg, 1)] on)
theorem wit_recorderClosesAndMirrors1 :
    recorderClosesAndMirrors1_s.chip.power.aonHeld = false ∧
    bit (getReg recorderClosesAndMirrors1_s.chip rErCfg) 3 = false ∧
    bit (getReg recorderClosesAndMirrors1_s.chip rErCfg) 2 = false :=
  by decide +kernel

def recorderClosesAndMirrors2_s : State := st (chipOf [(rErCfg, 5)] on)
theorem wit_recorderClosesAndMirrors2 :
    recorderClosesAndMirrors2_s.chip.power.aonHeld = false ∧
    bit (getReg recorderClosesAndMirrors2_s.chip rErCfg) 3 = false ∧
    bit (getReg recorderClosesAndMirrors2_s.chip rErCfg) 2 = true ∧
    (recorderClosesAndMirrors2_s.chip.recorder.iv.powered = true ∨ modeOf recorderClosesAndMirrors2_s.chip ≤ 1) ∧
    recorderClosesAndMirrors2_s.chip.recorder.ring = [] :=
  by decide +kernel

def recorderClosesAndMirrors3_s : State := st (chipOf [(rErSeq, 1)] { on with recorder := { ring := [(0, { seq := 0, sev := 3, w := List.replicate 16 1, mir := true })] } })
theorem wit_recorderClosesAndMirrors3 :
    (getF recorderClosesAndMirrors3_s.chip rErCfg 0 2 ≠ 0 ∧
    bit (getReg recorderClosesAndMirrors3_s.chip rErStatus) 13 = false ∧
    modeOf recorderClosesAndMirrors3_s.chip ≤ 1 ∧
    (getReg recorderClosesAndMirrors3_s.chip rErMirror : Nat) < getReg recorderClosesAndMirrors3_s.chip rErSeq ∧
    mirrored recorderClosesAndMirrors3_s.chip (getReg recorderClosesAndMirrors3_s.chip rErMirror : Nat) (min (getReg recorderClosesAndMirrors3_s.chip rErSeq) (((getReg recorderClosesAndMirrors3_s.chip rErMirror : Nat) / 64 * 64 : Nat) + 64) : Nat) ≠ []) ∧
    (∀ w ∈ recorderClosesAndMirrors3_s.chip.flash.writes, ∀ n, w.1 ≠ .mirror n) :=
  ⟨by decide +kernel, by intro w h; cases h⟩

def recorderClosesAndMirrors4_s : State := st (chipOf [(rErSeq, 1)] on)
theorem wit_recorderClosesAndMirrors4 :
    (getF recorderClosesAndMirrors4_s.chip rErCfg 0 2 ≠ 0 ∧
    bit (getReg recorderClosesAndMirrors4_s.chip rErStatus) 13 = false ∧
    modeOf recorderClosesAndMirrors4_s.chip ≤ 1 ∧
    (getReg recorderClosesAndMirrors4_s.chip rErMirror : Nat) < getReg recorderClosesAndMirrors4_s.chip rErSeq ∧
    mirrored recorderClosesAndMirrors4_s.chip (getReg recorderClosesAndMirrors4_s.chip rErMirror : Nat) (min (getReg recorderClosesAndMirrors4_s.chip rErSeq) (((getReg recorderClosesAndMirrors4_s.chip rErMirror : Nat) / 64 * 64 : Nat) + 64) : Nat) = []) ∧
    (∀ w ∈ recorderClosesAndMirrors4_s.chip.flash.writes, ∀ n, w.1 ≠ .mirror n) :=
  ⟨by decide +kernel, by intro w h; cases h⟩

/-! SecurityCommandsRun, in Obligations.SecurityEngineAnswers -/

def securityCommandsRun1_s : State := { st (chipOf [] on) with sec := { root := some [], att := .ready, head := some { next := 1023, block := 31, subtree := 32767 } } }
theorem wit_securityCommandsRun1 :
    (1 : Master).toNat ≤ 1 ∧
    hubOn securityCommandsRun1_s.chip = true ∧
    securityCommandsRun1_s.sec.job = none ∧
    securityCommandsRun1_s.chip.ecc = [] ∧
    securityCommandsRun1_s.sec.att = .ready ∧
    securityCommandsRun1_s.sec.root = some ([] : List Byte) ∧
    securityCommandsRun1_s.sec.head = some ({ next := 1023, block := 31, subtree := 32767 } : Head) ∧
    ({ next := 1023, block := 31, subtree := 32767 } : Head).exhausted = false ∧
    (secAddr securityCommandsRun1_s.chip : Nat) % 64 = 0 ∧
    pkgOf (secAddr securityCommandsRun1_s.chip : Nat) = pkg securityCommandsRun1_s.chip ∧
    backed (secAddr securityCommandsRun1_s.chip : Nat) 8192 = true :=
  by decide +kernel

def securityCommandsRun2_s : State := st on
theorem wit_securityCommandsRun2 :
    (1 : Master).toNat ≤ 1 ∧
    hubOn securityCommandsRun2_s.chip = true ∧
    securityCommandsRun2_s.sec.job = none ∧
    securityCommandsRun2_s.chip.ecc = [] ∧
    (securityCommandsRun2_s.sec.att = .unanchored ∨ securityCommandsRun2_s.sec.att = .gap) :=
  by decide +kernel

def securityCommandsRun4_s : State := { st (chipOf [] on) with sec := { root := some [], att := .unanchored } }
theorem wit_securityCommandsRun4 :
    (1 : Master).toNat ≤ 1 ∧
    hubOn securityCommandsRun4_s.chip = true ∧
    securityCommandsRun4_s.sec.job = none ∧
    securityCommandsRun4_s.chip.ecc = [] ∧
    securityCommandsRun4_s.sec.att = .unanchored ∧
    (securityCommandsRun4_s.sec.idReady = false ∨ securityCommandsRun4_s.sec.head ≠ none) :=
  by decide +kernel

def securityCommandsRun5_s : State := { st (chipOf [(0x4000C, 5)] on) with sec := { root := some [], att := .ready, idReady := true, head := some { subtree := 4 } } }
theorem wit_securityCommandsRun5 :
    ((1 : Master).toNat ≤ 1 ∧
    hubOn securityCommandsRun5_s.chip = true ∧
    securityCommandsRun5_s.sec.job = none ∧
    securityCommandsRun5_s.chip.ecc = [] ∧
    (securityCommandsRun5_s.sec.att = .unanchored ∨ securityCommandsRun5_s.sec.att = .gap ∨ securityCommandsRun5_s.sec.att = .ready) ∧
    securityCommandsRun5_s.sec.root = some ([] : List Byte) ∧
    securityCommandsRun5_s.sec.idReady = true ∧
    (∀ u ∈ chainTrees securityCommandsRun5_s.chip, u < (getF securityCommandsRun5_s.chip 0x4000C 0 15 : Nat)) ∧
    (∀ n, securityCommandsRun5_s.sec.tried = some n → n < 32 * (getF securityCommandsRun5_s.chip 0x4000C 0 15 : Nat))) ∧
    (∀ h, securityCommandsRun5_s.sec.head = some h → h.subtree < (getF securityCommandsRun5_s.chip 0x4000C 0 15 : Nat)) :=
  ⟨by decide +kernel, by intro h e; cases e; decide⟩

def securityCommandsRun6_s : State := st on
theorem wit_securityCommandsRun6 :
    (0 : Master).toNat ≤ 1 ∧
    hubOn securityCommandsRun6_s.chip = true ∧
    securityCommandsRun6_s.sec.job = none ∧
    securityCommandsRun6_s.chip.ecc = [] ∧
    (0 : Master) = 0 ∧
    helperRoot securityCommandsRun6_s.dev = none :=
  by decide +kernel

def securityCommandsRun7_s : State := st on
theorem wit_securityCommandsRun7 :
    (1 : Master).toNat ≤ 1 ∧
    hubOn securityCommandsRun7_s.chip = true ∧
    securityCommandsRun7_s.sec.job = none ∧
    securityCommandsRun7_s.chip.ecc = [] :=
  by decide +kernel

/-! SecurityCommandsRefused, in Obligations.SecurityEngineAnswers -/

def securityCommandsRefused1_s : State := st on
theorem wit_securityCommandsRefused1 :
    (.attest 2 : Instr) ∈ secCommands (2 : Master) ∧
    hubOn securityCommandsRefused1_s.chip = true ∧
    1 < (2 : Master).toNat :=
  by decide +kernel

def securityCommandsRefused2_s : State := { st on with sec := { job := some (.enrol [] [] 0) } }
theorem wit_securityCommandsRefused2 :
    (.attest 1 : Instr) ∈ secCommands (1 : Master) ∧
    hubOn securityCommandsRefused2_s.chip = true ∧
    (1 : Master).toNat ≤ 1 ∧
    securityCommandsRefused2_s.sec.job.isSome = true :=
  by decide +kernel

/-! Obligations.ChainStaysInRange -/

def chainStaysInRange1_s : State := { st on with pending := [.attest 1], sec := { root := some [], att := .ready, head := some { next := 1023, block := 31, subtree := 32767 } } }
def chainStaysInRange1_t : State := (nextOf (step chainStaysInRange1_s) chainStaysInRange1_s)
theorem wit_chainStaysInRange1 :
    ChainInRange chainStaysInRange1_s ∧
    step chainStaysInRange1_s = .next chainStaysInRange1_t :=
  ⟨⟨by intro h e; cases e; unfold HeadInRange; decide, by intro a h r e; cases e⟩, next_of (by decide +kernel)⟩

/-! Obligations.IntegerMatmulResults -/

def integerMatmulResults1_s : State := st (atHead [0x10005a5110001, 0x10002001000, 0x400003002000, 0x2003000] ({ on with mem := listed 0x1000 [1, 128, 127] ++ listed 0x1040 [255, 3, 7] ++ listed 0x2000 [5, 129, 3, 1] }))
def integerMatmulResults1_d : Desc := ds [0x10005a5110001, 0x10002001000, 0x400003002000, 0x2003000]
def integerMatmulResults1_c : Chip := atHead [0x10005a5110001, 0x10002001000, 0x400003002000, 0x2003000] ({ on with mem := listed 0x1000 [1, 128, 127] ++ listed 0x1040 [255, 3, 7] ++ listed 0x2000 [5, 129, 3, 1] })
def integerMatmulResults1_c0 : Chip := launched (0 : Fin 32) (0 : Fin 16) ({} : Chain) integerMatmulResults1_d ([0] : List Nat) integerMatmulResults1_c
theorem wit_integerMatmulResults1 :
    (rowOf integerMatmulResults1_d = some .matmul ∧
    integerMatmulResults1_c0.ecc = [] ∧
    integerMatmulResults1_c0.residue = [] ∧
    fmtOf integerMatmulResults1_d.aFmt = some .int8 ∧
    fmtOf integerMatmulResults1_d.wFmt = some .int8 ∧
    fmtOf integerMatmulResults1_d.outFmt = some .int32 ∧
    integerMatmulResults1_d.accClear = true ∧
    integerMatmulResults1_d.acc48 = false ∧
    integerMatmulResults1_d.b 5 23 = false ∧
    integerMatmulResults1_d.b 5 47 = false ∧
    integerMatmulResults1_d.b 4 39 = false ∧
    integerMatmulResults1_d.b 6 23 = false ∧
    integerMatmulResults1_d.f 7 0 7 = 0 ∧
    integerMatmulResults1_d.b 1 23 = false ∧
    integerMatmulResults1_d.b 2 23 = false ∧
    integerMatmulResults1_d.f 3 23 2 = 0 ∧
    (((tileOf .int8 0).1 : Nat), ((tileOf .int8 0).2 : Nat)) = tileOf .int8 integerMatmulResults1_d.gang ∧
    integerMatmulResults1_d.f 2 24 20 ≤ ((tileOf .int8 0).1 : Nat) ∧
    1 ≤ integerMatmulResults1_d.f 2 24 20 ∧
    integerMatmulResults1_d.f 2 44 16 ≤ ((tileOf .int8 0).2 : Nat) ∧
    1 ≤ integerMatmulResults1_d.f 2 44 16) ∧
    HeadReady integerMatmulResults1_s (0 : Fin 32) (0 : Fin 16) ({} : Chain) integerMatmulResults1_d ([0] : List Nat) integerMatmulResults1_c :=
  ⟨by decide +kernel, headReady_of (by decide +kernel)⟩

/-! KvPageOperations, in Obligations.PagesOfTheCache -/

def kvPageOperations1_s : State := st (atHead [0x1000580000038, 0x4080100004000, 0x0, 0x9000, 0x0, 0x0] (chipOf [(0x20C0C, 1), (rTick, 100)] { on with mem := listed 0x4000 [1, 0, 5, 0, 0, 0, 0, 0, 0, 96, 0, 0, 1, 8, 0, 0, 0, 112, 0, 0, 1, 8, 0, 0, 2, 0, 0, 0, 0, 0, 0, 0, 0, 0, 0, 0, 0, 0, 0, 0, 0, 0, 0, 0, 0, 0, 0, 0, 0, 0, 0, 0, 0, 0, 0, 0, 0, 0, 0, 0, 0, 0, 0, 0, 7, 0, 1, 0, 90, 0, 0, 0, 0, 80, 0, 0, 1, 8, 0, 0, 0, 0, 0, 0, 0, 0, 0, 0, 0, 0, 0, 0, 0, 0, 0, 0, 8, 0, 1, 0, 95, 0, 0, 0, 0, 80, 0, 0, 1, 8, 0, 0, 3] }))
def kvPageOperations1_d : Desc := ds [0x1000580000038, 0x4080100004000, 0x0, 0x9000, 0x0, 0x0]
def kvPageOperations1_c : Chip := atHead [0x1000580000038, 0x4080100004000, 0x0, 0x9000, 0x0, 0x0] (chipOf [(0x20C0C, 1), (rTick, 100)] { on with mem := listed 0x4000 [1, 0, 5, 0, 0, 0, 0, 0, 0, 96, 0, 0, 1, 8, 0, 0, 0, 112, 0, 0, 1, 8, 0, 0, 2, 0, 0, 0, 0, 0, 0, 0, 0, 0, 0, 0, 0, 0, 0, 0, 0, 0, 0, 0, 0, 0, 0, 0, 0, 0, 0, 0, 0, 0, 0, 0, 0, 0, 0, 0, 0, 0, 0, 0, 7, 0, 1, 0, 90, 0, 0, 0, 0, 80, 0, 0, 1, 8, 0, 0, 0, 0, 0, 0, 0, 0, 0, 0, 0, 0, 0, 0, 0, 0, 0, 0, 8, 0, 1, 0, 95, 0, 0, 0, 0, 80, 0, 0, 1, 8, 0, 0, 3] })
def kvPageOperations1_c0 : Chip := launched (0 : Fin 32) (0 : Fin 16) ({} : Chain) kvPageOperations1_d ([] : List Nat) kvPageOperations1_c
def kvPageOperations1_r : Root := rootAt kvPageOperations1_c0 (kvPageOperations1_d.f 1 0 48 : Nat)
theorem wit_kvPageOperations1 :
    rowOf kvPageOperations1_d = some (.kv 4) ∧
    HeadReady kvPageOperations1_s (0 : Fin 32) (0 : Fin 16) ({} : Chain) kvPageOperations1_d ([] : List Nat) kvPageOperations1_c ∧
    RootGood kvPageOperations1_c0 kvPageOperations1_d (kvPageOperations1_d.f 1 0 48 : Nat) kvPageOperations1_r :=
  ⟨by decide +kernel, headReady_of (by decide +kernel), rootGood_of (by decide +kernel)⟩

def kvPageOperations2_s : State := st (atHead [0x1000580000038, 0x5080100004000, 0x0, 0x9000, 0x4000000000, 0x0] (chipOf [(0x20C0C, 1), (rTick, 100)] { on with mem := listed 0x4000 [1, 0, 5, 0, 0, 0, 0, 0, 0, 96, 0, 0, 1, 8, 0, 0, 0, 112, 0, 0, 1, 8, 0, 0, 2, 0, 0, 0, 0, 0, 0, 0, 0, 0, 0, 0, 0, 0, 0, 0, 0, 0, 0, 0, 0, 0, 0, 0, 0, 0, 0, 0, 0, 0, 0, 0, 0, 0, 0, 0, 0, 0, 0, 0, 7, 0, 1, 0, 90, 0, 0, 0, 0, 80, 0, 0, 1, 8, 0, 0, 0, 0, 0, 0, 0, 0, 0, 0, 0, 0, 0, 0, 0, 0, 0, 0, 8, 0, 1, 0, 95, 0, 0, 0, 0, 80, 0, 0, 1, 8, 0, 0, 3] }))
def kvPageOperations2_d : Desc := ds [0x1000580000038, 0x5080100004000, 0x0, 0x9000, 0x4000000000, 0x0]
def kvPageOperations2_c : Chip := atHead [0x1000580000038, 0x5080100004000, 0x0, 0x9000, 0x4000000000, 0x0] (chipOf [(0x20C0C, 1), (rTick, 100)] { on with mem := listed 0x4000 [1, 0, 5, 0, 0, 0, 0, 0, 0, 96, 0, 0, 1, 8, 0, 0, 0, 112, 0, 0, 1, 8, 0, 0, 2, 0, 0, 0, 0, 0, 0, 0, 0, 0, 0, 0, 0, 0, 0, 0, 0, 0, 0, 0, 0, 0, 0, 0, 0, 0, 0, 0, 0, 0, 0, 0, 0, 0, 0, 0, 0, 0, 0, 0, 7, 0, 1, 0, 90, 0, 0, 0, 0, 80, 0, 0, 1, 8, 0, 0, 0, 0, 0, 0, 0, 0, 0, 0, 0, 0, 0, 0, 0, 0, 0, 0, 8, 0, 1, 0, 95, 0, 0, 0, 0, 80, 0, 0, 1, 8, 0, 0, 3] })
def kvPageOperations2_c0 : Chip := launched (0 : Fin 32) (0 : Fin 16) ({} : Chain) kvPageOperations2_d ([] : List Nat) kvPageOperations2_c
def kvPageOperations2_e : Chip := putMem kvPageOperations2_c0 (pinsAddr (kvPageOperations2_d.f 1 0 48 : Nat) (kvPageOperations2_d.f 4 38 2)) (leBytes 4 0)
def kvPageOperations2_r : Root := rootAt kvPageOperations2_c0 (kvPageOperations2_d.f 1 0 48 : Nat)
theorem wit_kvPageOperations2 :
    rowOf kvPageOperations2_d = some (.kv 5) ∧
    HeadReady kvPageOperations2_s (0 : Fin 32) (0 : Fin 16) ({} : Chain) kvPageOperations2_d ([] : List Nat) kvPageOperations2_c ∧
    RootGood kvPageOperations2_c0 kvPageOperations2_d (kvPageOperations2_d.f 1 0 48 : Nat) kvPageOperations2_r :=
  ⟨by decide +kernel, headReady_of (by decide +kernel), rootGood_of (by decide +kernel)⟩

def kvPageOperations3_s : State := st (atHead [0x1000580000038, 0x80100004000, 0x80100005040, 0x9000, 0x0, 0x0] (chipOf [(0x20C0C, 1), (rTick, 100)] { on with mem := listed 0x4000 [1, 0, 5, 0, 0, 0, 0, 0, 0, 96, 0, 0, 1, 8, 0, 0, 0, 112, 0, 0, 1, 8, 0, 0, 2, 0, 0, 0, 0, 0, 0, 0, 0, 0, 0, 0, 0, 0, 0, 0, 0, 0, 0, 0, 0, 0, 0, 0, 0, 0, 0, 0, 0, 0, 0, 0, 0, 0, 0, 0, 0, 0, 0, 0, 7, 0, 1, 0, 90, 0, 0, 0, 0, 80, 0, 0, 1, 8, 0, 0, 0, 0, 0, 0, 0, 0, 0, 0, 0, 0, 0, 0, 0, 0, 0, 0, 8, 0, 1, 0, 95, 0, 0, 0, 0, 80, 0, 0, 1, 8, 0, 0, 3, 0, 0, 0, 0, 0, 0, 0, 0, 0, 0, 0, 0, 0, 0, 0, 9, 0, 1, 0, 101, 0, 0, 0, 0, 80, 0, 0, 1, 8] }))
def kvPageOperations3_d : Desc := ds [0x1000580000038, 0x80100004000, 0x80100005040, 0x9000, 0x0, 0x0]
def kvPageOperations3_c : Chip := atHead [0x1000580000038, 0x80100004000, 0x80100005040, 0x9000, 0x0, 0x0] (chipOf [(0x20C0C, 1), (rTick, 100)] { on with mem := listed 0x4000 [1, 0, 5, 0, 0, 0, 0, 0, 0, 96, 0, 0, 1, 8, 0, 0, 0, 112, 0, 0, 1, 8, 0, 0, 2, 0, 0, 0, 0, 0, 0, 0, 0, 0, 0, 0, 0, 0, 0, 0, 0, 0, 0, 0, 0, 0, 0, 0, 0, 0, 0, 0, 0, 0, 0, 0, 0, 0, 0, 0, 0, 0, 0, 0, 7, 0, 1, 0, 90, 0, 0, 0, 0, 80, 0, 0, 1, 8, 0, 0, 0, 0, 0, 0, 0, 0, 0, 0, 0, 0, 0, 0, 0, 0, 0, 0, 8, 0, 1, 0, 95, 0, 0, 0, 0, 80, 0, 0, 1, 8, 0, 0, 3, 0, 0, 0, 0, 0, 0, 0, 0, 0, 0, 0, 0, 0, 0, 0, 9, 0, 1, 0, 101, 0, 0, 0, 0, 80, 0, 0, 1, 8] })
def kvPageOperations3_c0 : Chip := launched (0 : Fin 32) (0 : Fin 16) ({} : Chain) kvPageOperations3_d ([] : List Nat) kvPageOperations3_c
def kvPageOperations3_e : Chip := putMem kvPageOperations3_c0 ((kvPageOperations3_d.f 1 0 48 : Nat) + 64 + 32 * ({ slot := 2, gen := 9, live := true, tick := 101, body := 0x80100005000, pins := 0 } : Version).slot + 8) (leBytes 8 (kvPageOperations3_d.f 2 0 48))
def kvPageOperations3_r : Root := rootAt kvPageOperations3_c0 (kvPageOperations3_d.f 1 0 48 : Nat)
theorem wit_kvPageOperations3 :
    (rowOf kvPageOperations3_d = some (.kv 0) ∧
    kvPageOperations3_r.vs.find? (fun v => v.live && v.tick == ((tickOf kvPageOperations3_c0 + 1) % 2 ^ 32 : Nat)) = some ({ slot := 2, gen := 9, live := true, tick := 101, body := 0x80100005000, pins := 0 } : Version)) ∧
    HeadReady kvPageOperations3_s (0 : Fin 32) (0 : Fin 16) ({} : Chain) kvPageOperations3_d ([] : List Nat) kvPageOperations3_c ∧
    RootGood kvPageOperations3_c0 kvPageOperations3_d (kvPageOperations3_d.f 1 0 48 : Nat) kvPageOperations3_r :=
  ⟨by decide +kernel, headReady_of (by decide +kernel), rootGood_of (by decide +kernel)⟩

def kvPageOperations4_s : State := st (atHead [0x1000580000038, 0x80100004000, 0x80100005040, 0x9000, 0x0, 0x0] (chipOf [(0x20C0C, 1), (rTick, 100)] { on with mem := listed 0x4000 [1, 0, 5, 0, 0, 0, 0, 0, 0, 96, 0, 0, 1, 8, 0, 0, 0, 112, 0, 0, 1, 8, 0, 0, 2, 0, 0, 0, 0, 0, 0, 0, 0, 0, 0, 0, 0, 0, 0, 0, 0, 0, 0, 0, 0, 0, 0, 0, 0, 0, 0, 0, 0, 0, 0, 0, 0, 0, 0, 0, 0, 0, 0, 0, 7, 0, 1, 0, 90, 0, 0, 0, 0, 80, 0, 0, 1, 8, 0, 0, 0, 0, 0, 0, 0, 0, 0, 0, 0, 0, 0, 0, 0, 0, 0, 0, 8, 0, 1, 0, 95, 0, 0, 0, 0, 80, 0, 0, 1, 8, 0, 0, 3] }))
def kvPageOperations4_d : Desc := ds [0x1000580000038, 0x80100004000, 0x80100005040, 0x9000, 0x0, 0x0]
def kvPageOperations4_c : Chip := atHead [0x1000580000038, 0x80100004000, 0x80100005040, 0x9000, 0x0, 0x0] (chipOf [(0x20C0C, 1), (rTick, 100)] { on with mem := listed 0x4000 [1, 0, 5, 0, 0, 0, 0, 0, 0, 96, 0, 0, 1, 8, 0, 0, 0, 112, 0, 0, 1, 8, 0, 0, 2, 0, 0, 0, 0, 0, 0, 0, 0, 0, 0, 0, 0, 0, 0, 0, 0, 0, 0, 0, 0, 0, 0, 0, 0, 0, 0, 0, 0, 0, 0, 0, 0, 0, 0, 0, 0, 0, 0, 0, 7, 0, 1, 0, 90, 0, 0, 0, 0, 80, 0, 0, 1, 8, 0, 0, 0, 0, 0, 0, 0, 0, 0, 0, 0, 0, 0, 0, 0, 0, 0, 0, 8, 0, 1, 0, 95, 0, 0, 0, 0, 80, 0, 0, 1, 8, 0, 0, 3] })
def kvPageOperations4_c0 : Chip := launched (0 : Fin 32) (0 : Fin 16) ({} : Chain) kvPageOperations4_d ([] : List Nat) kvPageOperations4_c
def kvPageOperations4_e : Chip := putMem (putMem (putMem kvPageOperations4_c0 ((kvPageOperations4_d.f 1 0 48 : Nat) + 64 + 32 * ({ slot := 2, gen := 0, live := false, tick := 0, body := 0x0, pins := 0 } : Version).slot + 8) (leBytes 8 (kvPageOperations4_d.f 2 0 48))) ((kvPageOperations4_d.f 1 0 48 : Nat) + 64 + 32 * ({ slot := 2, gen := 0, live := false, tick := 0, body := 0x0, pins := 0 } : Version).slot + 16) (leBytes 8 0)) ((kvPageOperations4_d.f 1 0 48 : Nat) + 64 + 32 * ({ slot := 2, gen := 0, live := false, tick := 0, body := 0x0, pins := 0 } : Version).slot) (leBytes 8 ((({ slot := 1, gen := 8, live := true, tick := 95, body := 0x80100005000, pins := 3 } : Version).gen + 1) % 2 ^ 16 + 2 ^ 16 + ((tickOf kvPageOperations4_c0 + 1) % 2 ^ 32 : Nat) * 2 ^ 32))
def kvPageOperations4_r : Root := rootAt kvPageOperations4_c0 (kvPageOperations4_d.f 1 0 48 : Nat)
theorem wit_kvPageOperations4 :
    (rowOf kvPageOperations4_d = some (.kv 0) ∧
    kvPageOperations4_r.vs.find? (fun v => v.live && v.tick == ((tickOf kvPageOperations4_c0 + 1) % 2 ^ 32 : Nat)) = none ∧
    kvPageOperations4_r.vs.find? (fun v => !v.live) = some ({ slot := 2, gen := 0, live := false, tick := 0, body := 0x0, pins := 0 } : Version) ∧
    ({ slot := 1, gen := 8, live := true, tick := 95, body := 0x80100005000, pins := 3 } : Version) ∈ kvPageOperations4_r.vs ∧
    ({ slot := 1, gen := 8, live := true, tick := 95, body := 0x80100005000, pins := 3 } : Version).live = true ∧
    (∀ y ∈ kvPageOperations4_r.vs, y.live = true → y.gen ≤ ({ slot := 1, gen := 8, live := true, tick := 95, body := 0x80100005000, pins := 3 } : Version).gen)) ∧
    HeadReady kvPageOperations4_s (0 : Fin 32) (0 : Fin 16) ({} : Chain) kvPageOperations4_d ([] : List Nat) kvPageOperations4_c ∧
    RootGood kvPageOperations4_c0 kvPageOperations4_d (kvPageOperations4_d.f 1 0 48 : Nat) kvPageOperations4_r :=
  ⟨by decide +kernel, headReady_of (by decide +kernel), rootGood_of (by decide +kernel)⟩

def kvPageOperations5_s : State := st (atHead [0x1000580000038, 0x1080100004000, 0x0, 0x0, 0x60100, 0x0] (chipOf [(0x20C0C, 1), (rTick, 100)] { on with mem := listed 0x4000 [1, 0, 5, 0, 0, 0, 0, 0, 0, 96, 0, 0, 1, 8, 0, 0, 0, 112, 0, 0, 1, 8, 0, 0, 2, 0, 0, 0, 0, 0, 0, 0, 0, 0, 0, 0, 0, 0, 0, 0, 0, 0, 0, 0, 0, 0, 0, 0, 0, 0, 0, 0, 0, 0, 0, 0, 0, 0, 0, 0, 0, 0, 0, 0, 7, 0, 1, 0, 90, 0, 0, 0, 0, 80, 0, 0, 1, 8, 0, 0, 0, 0, 0, 0, 0, 0, 0, 0, 0, 0, 0, 0, 0, 0, 0, 0, 8, 0, 1, 0, 95, 0, 0, 0, 0, 80, 0, 0, 1, 8, 0, 0, 3, 0, 0, 0, 0, 0, 0, 0, 0, 0, 0, 0, 0, 0, 0, 0, 0, 0, 0, 0, 0, 0, 0, 0, 0, 0, 0, 0, 0, 0, 0, 0, 0, 0, 0, 0, 0, 0, 0, 0, 0, 0, 0, 0, 0, 0, 0, 0, 0, 0, 0, 0, 0, 0, 0, 0, 0, 0, 0, 0, 0, 0, 0, 0, 0, 0, 0, 0, 0, 0, 0, 0, 0, 0, 0, 0, 0, 0, 0, 0, 20, 0, 32, 2] }))
def kvPageOperations5_d : Desc := ds [0x1000580000038, 0x1080100004000, 0x0, 0x0, 0x60100, 0x0]
def kvPageOperations5_c : Chip := atHead [0x1000580000038, 0x1080100004000, 0x0, 0x0, 0x60100, 0x0] (chipOf [(0x20C0C, 1), (rTick, 100)] { on with mem := listed 0x4000 [1, 0, 5, 0, 0, 0, 0, 0, 0, 96, 0, 0, 1, 8, 0, 0, 0, 112, 0, 0, 1, 8, 0, 0, 2, 0, 0, 0, 0, 0, 0, 0, 0, 0, 0, 0, 0, 0, 0, 0, 0, 0, 0, 0, 0, 0, 0, 0, 0, 0, 0, 0, 0, 0, 0, 0, 0, 0, 0, 0, 0, 0, 0, 0, 7, 0, 1, 0, 90, 0, 0, 0, 0, 80, 0, 0, 1, 8, 0, 0, 0, 0, 0, 0, 0, 0, 0, 0, 0, 0, 0, 0, 0, 0, 0, 0, 8, 0, 1, 0, 95, 0, 0, 0, 0, 80, 0, 0, 1, 8, 0, 0, 3, 0, 0, 0, 0, 0, 0, 0, 0, 0, 0, 0, 0, 0, 0, 0, 0, 0, 0, 0, 0, 0, 0, 0, 0, 0, 0, 0, 0, 0, 0, 0, 0, 0, 0, 0, 0, 0, 0, 0, 0, 0, 0, 0, 0, 0, 0, 0, 0, 0, 0, 0, 0, 0, 0, 0, 0, 0, 0, 0, 0, 0, 0, 0, 0, 0, 0, 0, 0, 0, 0, 0, 0, 0, 0, 0, 0, 0, 0, 0, 20, 0, 32, 2] })
def kvPageOperations5_c0 : Chip := launched (0 : Fin 32) (0 : Fin 16) ({} : Chain) kvPageOperations5_d ([] : List Nat) kvPageOperations5_c
def kvPageOperations5_r : Root := rootAt kvPageOperations5_c0 (kvPageOperations5_d.f 1 0 48 : Nat)
theorem wit_kvPageOperations5 :
    (kvPageOperations5_d.f 4 8 9 = 1 ∧
    (kvPageOperations5_d.f 4 0 8 : Nat) < kvPageOperations5_r.layers ∧
    ([0x2200014, 0x0, 0x0, 0x0] : List Nat) = layerAt kvPageOperations5_c0 (kvPageOperations5_d.f 1 0 48 : Nat) (kvPageOperations5_d.f 4 0 8 : Nat) ∧
    fld (([0x2200014, 0x0, 0x0, 0x0] : List Nat).getD 0 0) 42 22 = 0 ∧
    fld (([0x2200014, 0x0, 0x0, 0x0] : List Nat).getD 3 0) 32 32 = 0 ∧
    rowOf kvPageOperations5_d = some (.kv 1) ∧
    (kvPageOperations5_d.f 4 17 21 : Nat) ≤ (fld (([0x2200014, 0x0, 0x0, 0x0] : List Nat).getD 0 0) 0 21 : Nat) - (fld (([0x2200014, 0x0, 0x0, 0x0] : List Nat).getD 0 0) 21 21 : Nat)) ∧
    HeadReady kvPageOperations5_s (0 : Fin 32) (0 : Fin 16) ({} : Chain) kvPageOperations5_d ([] : List Nat) kvPageOperations5_c ∧
    RootGood kvPageOperations5_c0 kvPageOperations5_d (kvPageOperations5_d.f 1 0 48 : Nat) kvPageOperations5_r :=
  ⟨by decide +kernel, headReady_of (by decide +kernel), rootGood_of (by decide +kernel)⟩

def kvPageOperations6_s : State := st (atHead [0x1000580000038, 0x2080100004000, 0x0, 0x0, 0x220100, 0x0] (chipOf [(0x20C0C, 1), (rTick, 100)] { on with mem := listed 0x4000 [1, 0, 5, 0, 0, 0, 0, 0, 0, 96, 0, 0, 1, 8, 0, 0, 0, 112, 0, 0, 1, 8, 0, 0, 2, 0, 0, 0, 0, 0, 0, 0, 0, 0, 0, 0, 0, 0, 0, 0, 0, 0, 0, 0, 0, 0, 0, 0, 0, 0, 0, 0, 0, 0, 0, 0, 0, 0, 0, 0, 0, 0, 0, 0, 7, 0, 1, 0, 90, 0, 0, 0, 0, 80, 0, 0, 1, 8, 0, 0, 0, 0, 0, 0, 0, 0, 0, 0, 0, 0, 0, 0, 0, 0, 0, 0, 8, 0, 1, 0, 95, 0, 0, 0, 0, 80, 0, 0, 1, 8, 0, 0, 3, 0, 0, 0, 0, 0, 0, 0, 0, 0, 0, 0, 0, 0, 0, 0, 0, 0, 0, 0, 0, 0, 0, 0, 0, 0, 0, 0, 0, 0, 0, 0, 0, 0, 0, 0, 0, 0, 0, 0, 0, 0, 0, 0, 0, 0, 0, 0, 0, 0, 0, 0, 0, 0, 0, 0, 0, 0, 0, 0, 0, 0, 0, 0, 0, 0, 0, 0, 0, 0, 0, 0, 0, 0, 0, 0, 0, 0, 0, 0, 20, 0, 32, 2] }))
def kvPageOperations6_d : Desc := ds [0x1000580000038, 0x2080100004000, 0x0, 0x0, 0x220100, 0x0]
def kvPageOperations6_c : Chip := atHead [0x1000580000038, 0x2080100004000, 0x0, 0x0, 0x220100, 0x0] (chipOf [(0x20C0C, 1), (rTick, 100)] { on with mem := listed 0x4000 [1, 0, 5, 0, 0, 0, 0, 0, 0, 96, 0, 0, 1, 8, 0, 0, 0, 112, 0, 0, 1, 8, 0, 0, 2, 0, 0, 0, 0, 0, 0, 0, 0, 0, 0, 0, 0, 0, 0, 0, 0, 0, 0, 0, 0, 0, 0, 0, 0, 0, 0, 0, 0, 0, 0, 0, 0, 0, 0, 0, 0, 0, 0, 0, 7, 0, 1, 0, 90, 0, 0, 0, 0, 80, 0, 0, 1, 8, 0, 0, 0, 0, 0, 0, 0, 0, 0, 0, 0, 0, 0, 0, 0, 0, 0, 0, 8, 0, 1, 0, 95, 0, 0, 0, 0, 80, 0, 0, 1, 8, 0, 0, 3, 0, 0, 0, 0, 0, 0, 0, 0, 0, 0, 0, 0, 0, 0, 0, 0, 0, 0, 0, 0, 0, 0, 0, 0, 0, 0, 0, 0, 0, 0, 0, 0, 0, 0, 0, 0, 0, 0, 0, 0, 0, 0, 0, 0, 0, 0, 0, 0, 0, 0, 0, 0, 0, 0, 0, 0, 0, 0, 0, 0, 0, 0, 0, 0, 0, 0, 0, 0, 0, 0, 0, 0, 0, 0, 0, 0, 0, 0, 0, 20, 0, 32, 2] })
def kvPageOperations6_c0 : Chip := launched (0 : Fin 32) (0 : Fin 16) ({} : Chain) kvPageOperations6_d ([] : List Nat) kvPageOperations6_c
def kvPageOperations6_r : Root := rootAt kvPageOperations6_c0 (kvPageOperations6_d.f 1 0 48 : Nat)
theorem wit_kvPageOperations6 :
    (kvPageOperations6_d.f 4 8 9 = 1 ∧
    (kvPageOperations6_d.f 4 0 8 : Nat) < kvPageOperations6_r.layers ∧
    ([0x2200014, 0x0, 0x0, 0x0] : List Nat) = layerAt kvPageOperations6_c0 (kvPageOperations6_d.f 1 0 48 : Nat) (kvPageOperations6_d.f 4 0 8 : Nat) ∧
    fld (([0x2200014, 0x0, 0x0, 0x0] : List Nat).getD 0 0) 42 22 = 0 ∧
    fld (([0x2200014, 0x0, 0x0, 0x0] : List Nat).getD 3 0) 32 32 = 0 ∧
    rowOf kvPageOperations6_d = some (.kv 2) ∧
    (kvPageOperations6_d.f 4 17 21 : Nat) ≤ (fld (([0x2200014, 0x0, 0x0, 0x0] : List Nat).getD 0 0) 21 21 : Nat)) ∧
    HeadReady kvPageOperations6_s (0 : Fin 32) (0 : Fin 16) ({} : Chain) kvPageOperations6_d ([] : List Nat) kvPageOperations6_c ∧
    RootGood kvPageOperations6_c0 kvPageOperations6_d (kvPageOperations6_d.f 1 0 48 : Nat) kvPageOperations6_r :=
  ⟨by decide +kernel, headReady_of (by decide +kernel), rootGood_of (by decide +kernel)⟩

def kvPageOperations7_s : State := st (atHead [0x1000580000038, 0x3080100004000, 0x0, 0x0, 0x100, 0x64] (chipOf [(0x20C0C, 1), (rTick, 100)] { on with mem := listed 0x4000 [1, 0, 5, 0, 0, 0, 0, 0, 0, 96, 0, 0, 1, 8, 0, 0, 0, 112, 0, 0, 1, 8, 0, 0, 2, 0, 0, 0, 0, 0, 0, 0, 0, 0, 0, 0, 0, 0, 0, 0, 0, 0, 0, 0, 0, 0, 0, 0, 0, 0, 0, 0, 0, 0, 0, 0, 0, 0, 0, 0, 0, 0, 0, 0, 7, 0, 1, 0, 90, 0, 0, 0, 0, 80, 0, 0, 1, 8, 0, 0, 0, 0, 0, 0, 0, 0, 0, 0, 0, 0, 0, 0, 0, 0, 0, 0, 8, 0, 1, 0, 95, 0, 0, 0, 0, 80, 0, 0, 1, 8, 0, 0, 3, 0, 0, 0, 0, 0, 0, 0, 0, 0, 0, 0, 0, 0, 0, 0, 0, 0, 0, 0, 0, 0, 0, 0, 0, 0, 0, 0, 0, 0, 0, 0, 0, 0, 0, 0, 0, 0, 0, 0, 0, 0, 0, 0, 0, 0, 0, 0, 0, 0, 0, 0, 0, 0, 0, 0, 0, 0, 0, 0, 0, 0, 0, 0, 0, 0, 0, 0, 0, 0, 0, 0, 0, 0, 0, 0, 0, 0, 0, 0, 20, 0, 128, 2, 0, 4, 0, 0, 25, 128, 0, 0, 1, 8, 0, 0, 0, 0, 0, 0, 0, 0, 0, 0, 1] ++ listed 0x5000 [3, 0, 2, 8, 0, 0, 0, 0, 0, 0, 0, 0, 0, 0, 0, 0, 0, 0, 0, 0, 0, 0, 0, 0, 0, 0, 0, 0, 0, 0, 0, 0, 0, 0, 0, 0, 0, 0, 0, 0, 0, 0, 0, 0, 0, 0, 0, 0, 0, 0, 0, 0, 0, 0, 0, 0, 0, 0, 0, 0, 0, 0, 0, 0, 0, 0, 0, 0, 0, 0, 0, 0, 0, 0, 0, 0, 0, 0, 0, 0, 0, 0, 0, 0, 0, 0, 0, 0, 0, 0, 0, 0, 0, 0, 0, 0, 0, 0, 0, 0, 0, 0, 0, 0, 0, 0, 0, 0, 0, 0, 0, 0, 0, 0, 0, 0, 0, 0, 0, 0, 0, 0, 0, 0, 0, 0, 0, 0, 0, 0, 0, 0, 0, 0, 0, 0, 0, 0, 0, 0, 0, 0, 0, 0, 0, 0, 0, 0, 0, 0, 0, 0, 0, 0, 0, 0, 0, 0, 0, 0, 0, 0, 0, 0, 0, 0, 0, 0, 0, 0, 0, 0, 0, 0, 0, 0, 0, 0, 0, 0, 0, 0, 0, 0, 0, 0, 0, 0, 0, 0, 0, 0, 0, 0, 0, 0, 0, 0, 0, 0, 0, 0, 0, 0, 0, 0, 0, 0, 0, 0, 0, 0, 0, 0, 0, 0, 0, 0, 0, 0, 0, 0, 0, 0, 0, 0, 0, 0, 0, 0, 0, 0, 0, 0, 0, 0, 0, 0, 0, 0, 0, 0, 0, 0, 0, 0, 0, 0, 0, 0, 0, 0, 0, 0, 0, 0, 0, 0, 0, 0, 0, 0, 0, 0, 0, 0, 0, 0, 0, 0, 0, 0, 0, 0, 0, 0, 0, 0, 0, 0, 0, 0, 0, 0, 0, 0, 0, 0, 0, 0, 0, 0, 0, 0, 0, 0, 0, 0, 0, 0, 0, 0, 0, 0, 0, 0, 0, 0, 0, 0, 0, 0, 0, 0, 0, 0, 0, 0, 0, 0, 25, 128, 0, 0, 1, 8, 0, 0, 25, 128, 0, 0, 1, 8, 0, 0, 25, 132, 0, 0, 1, 8] }))
def kvPageOperations7_d : Desc := ds [0x1000580000038, 0x3080100004000, 0x0, 0x0, 0x100, 0x64]
def kvPageOperations7_c : Chip := atHead [0x1000580000038, 0x3080100004000, 0x0, 0x0, 0x100, 0x64] (chipOf [(0x20C0C, 1), (rTick, 100)] { on with mem := listed 0x4000 [1, 0, 5, 0, 0, 0, 0, 0, 0, 96, 0, 0, 1, 8, 0, 0, 0, 112, 0, 0, 1, 8, 0, 0, 2, 0, 0, 0, 0, 0, 0, 0, 0, 0, 0, 0, 0, 0, 0, 0, 0, 0, 0, 0, 0, 0, 0, 0, 0, 0, 0, 0, 0, 0, 0, 0, 0, 0, 0, 0, 0, 0, 0, 0, 7, 0, 1, 0, 90, 0, 0, 0, 0, 80, 0, 0, 1, 8, 0, 0, 0, 0, 0, 0, 0, 0, 0, 0, 0, 0, 0, 0, 0, 0, 0, 0, 8, 0, 1, 0, 95, 0, 0, 0, 0, 80, 0, 0, 1, 8, 0, 0, 3, 0, 0, 0, 0, 0, 0, 0, 0, 0, 0, 0, 0, 0, 0, 0, 0, 0, 0, 0, 0, 0, 0, 0, 0, 0, 0, 0, 0, 0, 0, 0, 0, 0, 0, 0, 0, 0, 0, 0, 0, 0, 0, 0, 0, 0, 0, 0, 0, 0, 0, 0, 0, 0, 0, 0, 0, 0, 0, 0, 0, 0, 0, 0, 0, 0, 0, 0, 0, 0, 0, 0, 0, 0, 0, 0, 0, 0, 0, 0, 20, 0, 128, 2, 0, 4, 0, 0, 25, 128, 0, 0, 1, 8, 0, 0, 0, 0, 0, 0, 0, 0, 0, 0, 1] ++ listed 0x5000 [3, 0, 2, 8, 0, 0, 0, 0, 0, 0, 0, 0, 0, 0, 0, 0, 0, 0, 0, 0, 0, 0, 0, 0, 0, 0, 0, 0, 0, 0, 0, 0, 0, 0, 0, 0, 0, 0, 0, 0, 0, 0, 0, 0, 0, 0, 0, 0, 0, 0, 0, 0, 0, 0, 0, 0, 0, 0, 0, 0, 0, 0, 0, 0, 0, 0, 0, 0, 0, 0, 0, 0, 0, 0, 0, 0, 0, 0, 0, 0, 0, 0, 0, 0, 0, 0, 0, 0, 0, 0, 0, 0, 0, 0, 0, 0, 0, 0, 0, 0, 0, 0, 0, 0, 0, 0, 0, 0, 0, 0, 0, 0, 0, 0, 0, 0, 0, 0, 0, 0, 0, 0, 0, 0, 0, 0, 0, 0, 0, 0, 0, 0, 0, 0, 0, 0, 0, 0, 0, 0, 0, 0, 0, 0, 0, 0, 0, 0, 0, 0, 0, 0, 0, 0, 0, 0, 0, 0, 0, 0, 0, 0, 0, 0, 0, 0, 0, 0, 0, 0, 0, 0, 0, 0, 0, 0, 0, 0, 0, 0, 0, 0, 0, 0, 0, 0, 0, 0, 0, 0, 0, 0, 0, 0, 0, 0, 0, 0, 0, 0, 0, 0, 0, 0, 0, 0, 0, 0, 0, 0, 0, 0, 0, 0, 0, 0, 0, 0, 0, 0, 0, 0, 0, 0, 0, 0, 0, 0, 0, 0, 0, 0, 0, 0, 0, 0, 0, 0, 0, 0, 0, 0, 0, 0, 0, 0, 0, 0, 0, 0, 0, 0, 0, 0, 0, 0, 0, 0, 0, 0, 0, 0, 0, 0, 0, 0, 0, 0, 0, 0, 0, 0, 0, 0, 0, 0, 0, 0, 0, 0, 0, 0, 0, 0, 0, 0, 0, 0, 0, 0, 0, 0, 0, 0, 0, 0, 0, 0, 0, 0, 0, 0, 0, 0, 0, 0, 0, 0, 0, 0, 0, 0, 0, 0, 0, 0, 0, 0, 0, 0, 25, 128, 0, 0, 1, 8, 0, 0, 25, 128, 0, 0, 1, 8, 0, 0, 25, 132, 0, 0, 1, 8] })
def kvPageOperations7_x : LayerRec := { len := 20, acc := 20, tails := [(0, 1, 8800388022297)] }
def kvPageOperations7_c0 : Chip := launched (0 : Fin 32) (0 : Fin 16) ({} : Chain) kvPageOperations7_d ([] : List Nat) kvPageOperations7_c
def kvPageOperations7_r : Root := rootAt kvPageOperations7_c0 (kvPageOperations7_d.f 1 0 48 : Nat)
def kvPageOperations7_w : Walk := got (runEff (kvPin (headCtx (0 : Fin 32) (0 : Fin 16) ({} : Chain)) (kvPageOperations7_d.f 1 0 48 : Nat) (kvPageOperations7_d.f 5 0 32) (kvPageOperations7_d.f 4 0 8 : Nat)) kvPageOperations7_c0).2 (by decide +kernel)
def kvPageOperations7_c1 : Chip := (runEff (kvPin (headCtx (0 : Fin 32) (0 : Fin 16) ({} : Chain)) (kvPageOperations7_d.f 1 0 48 : Nat) (kvPageOperations7_d.f 5 0 32) (kvPageOperations7_d.f 4 0 8 : Nat)) kvPageOperations7_c0).1
def kvPageOperations7_w2 : Walk := got (runEff (kvCheck kvPageOperations7_d.job none (fun _ _ => false) kvPageOperations7_w) kvPageOperations7_c1).2 (by decide +kernel)
def kvPageOperations7_c2 : Chip := (runEff (kvEntry (0 : Fin 32) kvPageOperations7_w2 (kvPageOperations7_d.f 4 0 8 : Nat) [] (1 : Nat)) kvPageOperations7_c1).1
theorem wit_kvPageOperations7 :
    (rowOf kvPageOperations7_d = some (.kv 3) ∧
    kvPageOperations7_d.f 4 8 9 = 1 ∧
    runEff (kvCheck kvPageOperations7_d.job none (fun _ _ => false) kvPageOperations7_w) kvPageOperations7_c1 = (kvPageOperations7_c1, .ok kvPageOperations7_w2) ∧
    runEff (readLayers (kvPageOperations7_d.f 1 0 48 : Nat) (kvPageOperations7_d.f 4 0 8 : Nat) 1) kvPageOperations7_c1 = (kvPageOperations7_c1, .ok [(kvPageOperations7_x, false)]) ∧
    kvPageOperations7_x.tails = [(0, (1 : Nat), (0x80100008019 : Nat))] ∧
    entTent (0x80100008019 : Nat) = false ∧
    (1 : Nat) < kvPageOperations7_w2.pages ∧
    runEff (kvEntry (0 : Fin 32) kvPageOperations7_w2 (kvPageOperations7_d.f 4 0 8 : Nat) [] (1 : Nat)) kvPageOperations7_c1 = (kvPageOperations7_c2, .ok ((0x80100008019 : Nat), true)) ∧
    (∀ q ∈ kvPageOperations7_c2.fab.far, pkgOf q.addr = pkg kvPageOperations7_c2) ∧
    pkgOf (kvPageOperations7_d.f 1 0 48 : Nat) = pkg kvPageOperations7_c2 ∧
    runEff (readLayers (kvPageOperations7_d.f 1 0 48 : Nat) (kvPageOperations7_d.f 4 0 8 : Nat) 1) kvPageOperations7_c2 = (kvPageOperations7_c2, .ok [(kvPageOperations7_x, false)]) ∧
    entV (0x80100008019 : Nat) = true ∧
    entCow (0x80100008019 : Nat) = false) ∧
    HeadReady kvPageOperations7_s (0 : Fin 32) (0 : Fin 16) ({} : Chain) kvPageOperations7_d ([] : List Nat) kvPageOperations7_c ∧
    RootGood kvPageOperations7_c0 kvPageOperations7_d (kvPageOperations7_d.f 1 0 48 : Nat) kvPageOperations7_r ∧
    runEff (kvPin (headCtx (0 : Fin 32) (0 : Fin 16) ({} : Chain)) (kvPageOperations7_d.f 1 0 48 : Nat) (kvPageOperations7_d.f 5 0 32) (kvPageOperations7_d.f 4 0 8 : Nat)) kvPageOperations7_c0 = (kvPageOperations7_c1, .ok kvPageOperations7_w) :=
  ⟨by decide +kernel, headReady_of (by decide +kernel), rootGood_of (by decide +kernel), by delta kvPageOperations7_c1 kvPageOperations7_w; exact ran _ _⟩

/-! AppendWritesRows, in Obligations.PagesOfTheCache -/

def appendWritesRows1_s : State := st (atHead [0x10005a3330001, 0x10001001000, 0x4000003002000, 0x803000, 0x0, 0x0, 0x0, 0x40000] (chipOf [(0x20C0C, 1), (rTick, 100)] { on with mem := listed 0x1000 [192, 63, 0, 192, 64, 64] ++ listed 0x2000 [0, 63, 128, 63, 0, 0, 128, 191] ++ listed 0x3000 [0, 64, 0, 0, 1, 8] ++ listed 0x4000 [1, 0, 5, 0, 0, 0, 0, 0, 0, 96, 0, 0, 1, 8, 0, 0, 0, 112, 0, 0, 1, 8, 0, 0, 2, 0, 0, 0, 0, 0, 0, 0, 0, 0, 0, 0, 0, 0, 0, 0, 0, 0, 0, 0, 0, 0, 0, 0, 0, 0, 0, 0, 0, 0, 0, 0, 0, 0, 0, 0, 0, 0, 0, 0, 8, 0, 1, 0, 95, 0, 0, 0, 0, 80, 0, 0, 1, 8, 0, 0, 3, 0, 0, 0, 0, 0, 0, 0, 0, 0, 0, 0, 0, 0, 0, 0, 0, 0, 0, 0, 0, 0, 0, 0, 0, 0, 0, 0, 0, 0, 0, 0, 0, 0, 0, 0, 0, 0, 0, 0, 0, 0, 0, 0, 0, 0, 0, 0, 0, 0, 0, 0, 0, 0, 0, 0, 0, 0, 0, 0, 0, 0, 0, 0, 0, 0, 0, 0, 0, 0, 0, 0, 0, 0, 0, 0, 0, 0, 0, 0, 0, 0, 0, 0, 0, 0, 0, 0, 0, 0, 0, 0, 0, 0, 0, 0, 0, 0, 0, 0, 0, 0, 0, 0, 0, 0, 0, 0, 0, 0, 0, 0, 20, 0, 128, 2] ++ listed 0x5000 [2, 0, 2, 8, 0, 0, 0, 0, 0, 0, 0, 0, 0, 0, 0, 0, 0, 0, 0, 0, 0, 0, 0, 0, 0, 0, 0, 0, 0, 0, 0, 0, 0, 0, 0, 0, 0, 0, 0, 0, 0, 0, 0, 0, 0, 0, 0, 0, 0, 0, 0, 0, 0, 0, 0, 0, 0, 0, 0, 0, 0, 0, 0, 0, 0, 0, 0, 0, 0, 0, 0, 0, 0, 0, 0, 0, 0, 0, 0, 0, 0, 0, 0, 0, 0, 0, 0, 0, 0, 0, 0, 0, 0, 0, 0, 0, 0, 0, 0, 0, 0, 0, 0, 0, 0, 0, 0, 0, 0, 0, 0, 0, 0, 0, 0, 0, 0, 0, 0, 0, 0, 0, 0, 0, 0, 0, 0, 0, 0, 0, 0, 0, 0, 0, 0, 0, 0, 0, 0, 0, 0, 0, 0, 0, 0, 0, 0, 0, 0, 0, 0, 0, 0, 0, 0, 0, 0, 0, 0, 0, 0, 0, 0, 0, 0, 0, 0, 0, 0, 0, 0, 0, 0, 0, 0, 0, 0, 0, 0, 0, 0, 0, 0, 0, 0, 0, 0, 0, 0, 0, 0, 0, 0, 0, 0, 0, 0, 0, 0, 0, 0, 0, 0, 0, 0, 0, 0, 0, 0, 0, 0, 0, 0, 0, 0, 0, 0, 0, 0, 0, 0, 0, 0, 0, 0, 0, 0, 0, 0, 0, 0, 0, 0, 0, 0, 0, 0, 0, 0, 0, 0, 0, 0, 0, 0, 0, 0, 0, 0, 0, 0, 0, 0, 0, 0, 0, 0, 0, 0, 0, 0, 0, 0, 0, 0, 0, 0, 0, 0, 0, 0, 0, 0, 0, 0, 0, 0, 0, 0, 0, 0, 0, 0, 0, 0, 0, 0, 0, 0, 0, 0, 0, 0, 0, 0, 0, 0, 0, 0, 0, 0, 0, 0, 0, 0, 0, 0, 0, 0, 0, 0, 0, 0, 0, 0, 0, 0, 0, 0, 0, 25, 128, 0, 0, 1, 8, 0, 0, 25, 132, 0, 0, 1, 8] }))
def appendWritesRows1_d : Desc := ds [0x10005a3330001, 0x10001001000, 0x4000003002000, 0x803000, 0x0, 0x0, 0x0, 0x40000]
def appendWritesRows1_c : Chip := atHead [0x10005a3330001, 0x10001001000, 0x4000003002000, 0x803000, 0x0, 0x0, 0x0, 0x40000] (chipOf [(0x20C0C, 1), (rTick, 100)] { on with mem := listed 0x1000 [192, 63, 0, 192, 64, 64] ++ listed 0x2000 [0, 63, 128, 63, 0, 0, 128, 191] ++ listed 0x3000 [0, 64, 0, 0, 1, 8] ++ listed 0x4000 [1, 0, 5, 0, 0, 0, 0, 0, 0, 96, 0, 0, 1, 8, 0, 0, 0, 112, 0, 0, 1, 8, 0, 0, 2, 0, 0, 0, 0, 0, 0, 0, 0, 0, 0, 0, 0, 0, 0, 0, 0, 0, 0, 0, 0, 0, 0, 0, 0, 0, 0, 0, 0, 0, 0, 0, 0, 0, 0, 0, 0, 0, 0, 0, 8, 0, 1, 0, 95, 0, 0, 0, 0, 80, 0, 0, 1, 8, 0, 0, 3, 0, 0, 0, 0, 0, 0, 0, 0, 0, 0, 0, 0, 0, 0, 0, 0, 0, 0, 0, 0, 0, 0, 0, 0, 0, 0, 0, 0, 0, 0, 0, 0, 0, 0, 0, 0, 0, 0, 0, 0, 0, 0, 0, 0, 0, 0, 0, 0, 0, 0, 0, 0, 0, 0, 0, 0, 0, 0, 0, 0, 0, 0, 0, 0, 0, 0, 0, 0, 0, 0, 0, 0, 0, 0, 0, 0, 0, 0, 0, 0, 0, 0, 0, 0, 0, 0, 0, 0, 0, 0, 0, 0, 0, 0, 0, 0, 0, 0, 0, 0, 0, 0, 0, 0, 0, 0, 0, 0, 0, 0, 0, 20, 0, 128, 2] ++ listed 0x5000 [2, 0, 2, 8, 0, 0, 0, 0, 0, 0, 0, 0, 0, 0, 0, 0, 0, 0, 0, 0, 0, 0, 0, 0, 0, 0, 0, 0, 0, 0, 0, 0, 0, 0, 0, 0, 0, 0, 0, 0, 0, 0, 0, 0, 0, 0, 0, 0, 0, 0, 0, 0, 0, 0, 0, 0, 0, 0, 0, 0, 0, 0, 0, 0, 0, 0, 0, 0, 0, 0, 0, 0, 0, 0, 0, 0, 0, 0, 0, 0, 0, 0, 0, 0, 0, 0, 0, 0, 0, 0, 0, 0, 0, 0, 0, 0, 0, 0, 0, 0, 0, 0, 0, 0, 0, 0, 0, 0, 0, 0, 0, 0, 0, 0, 0, 0, 0, 0, 0, 0, 0, 0, 0, 0, 0, 0, 0, 0, 0, 0, 0, 0, 0, 0, 0, 0, 0, 0, 0, 0, 0, 0, 0, 0, 0, 0, 0, 0, 0, 0, 0, 0, 0, 0, 0, 0, 0, 0, 0, 0, 0, 0, 0, 0, 0, 0, 0, 0, 0, 0, 0, 0, 0, 0, 0, 0, 0, 0, 0, 0, 0, 0, 0, 0, 0, 0, 0, 0, 0, 0, 0, 0, 0, 0, 0, 0, 0, 0, 0, 0, 0, 0, 0, 0, 0, 0, 0, 0, 0, 0, 0, 0, 0, 0, 0, 0, 0, 0, 0, 0, 0, 0, 0, 0, 0, 0, 0, 0, 0, 0, 0, 0, 0, 0, 0, 0, 0, 0, 0, 0, 0, 0, 0, 0, 0, 0, 0, 0, 0, 0, 0, 0, 0, 0, 0, 0, 0, 0, 0, 0, 0, 0, 0, 0, 0, 0, 0, 0, 0, 0, 0, 0, 0, 0, 0, 0, 0, 0, 0, 0, 0, 0, 0, 0, 0, 0, 0, 0, 0, 0, 0, 0, 0, 0, 0, 0, 0, 0, 0, 0, 0, 0, 0, 0, 0, 0, 0, 0, 0, 0, 0, 0, 0, 0, 0, 0, 0, 0, 0, 0, 25, 128, 0, 0, 1, 8, 0, 0, 25, 132, 0, 0, 1, 8] })
def appendWritesRows1_c0 : Chip := launched (0 : Fin 32) (0 : Fin 16) ({} : Chain) appendWritesRows1_d ([0] : List Nat) appendWritesRows1_c
def appendWritesRows1_p : Prod := prodOf appendWritesRows1_c0 (headCtx (0 : Fin 32) (0 : Fin 16) ({} : Chain) : Ctx) appendWritesRows1_d (appendWritesRows1_c0.basins[(0 : Fin 32)].chains[(0 : Fin 16)].bind (·.acc))
def appendWritesRows1_c1 : Chip := (runEff (appendOpen (headCtx (0 : Fin 32) (0 : Fin 16) ({} : Chain) : Ctx) appendWritesRows1_d appendWritesRows1_p.m appendWritesRows1_p.n) appendWritesRows1_c0).1
def appendWritesRows1_as : List Append := got (runEff (appendOpen (headCtx (0 : Fin 32) (0 : Fin 16) ({} : Chain) : Ctx) appendWritesRows1_d appendWritesRows1_p.m appendWritesRows1_p.n) appendWritesRows1_c0).2 (by decide +kernel)
def appendWritesRows1_a : Append := (got (runEff (appendPlan (0 : Fin 32) 3 false appendWritesRows1_as) appendWritesRows1_c1).2 (by decide +kernel)).head (by decide +kernel)
def appendWritesRows1_c2 : Chip := (runEff (appendPlan (0 : Fin 32) 3 false appendWritesRows1_as) appendWritesRows1_c1).1
def appendWritesRows1_c3 : Chip := (runEff (multiply (headCtx (0 : Fin 32) (0 : Fin 16) ({} : Chain) : Ctx) appendWritesRows1_p (srcOf (appendWritesRows1_d.f 1 0 23) (appendWritesRows1_d.b 1 23)) (srcOf (appendWritesRows1_d.f 2 0 23) (appendWritesRows1_d.b 2 23)) none none (fun _ _ _ => pure ())) appendWritesRows1_c2).1
def appendWritesRows1_cells : Tab (List Cell) := got (runEff (multiply (headCtx (0 : Fin 32) (0 : Fin 16) ({} : Chain) : Ctx) appendWritesRows1_p (srcOf (appendWritesRows1_d.f 1 0 23) (appendWritesRows1_d.b 1 23)) (srcOf (appendWritesRows1_d.f 2 0 23) (appendWritesRows1_d.b 2 23)) none none (fun _ _ _ => pure ())) appendWritesRows1_c2).2 (by decide +kernel)
theorem wit_appendWritesRows1 :
    (rowOf appendWritesRows1_d = some .kvAppend ∧
    appendWritesRows1_d.b 7 21 = false ∧
    appendWritesRows1_d.f 7 0 7 = 0 ∧
    appendWritesRows1_p.m = 1 ∧
    appendWritesRows1_d.accClear = true ∧
    appendWritesRows1_p.isInt = false ∧
    appendWritesRows1_d.b 4 39 = false ∧
    appendWritesRows1_d.outFmt = 3 ∧
    appendWritesRows1_a.rows = 1 ∧
    appendWritesRows1_a.first = 0 ∧
    appendWritesRows1_a.tails = [] ∧
    appendWritesRows1_a.shares = [] ∧
    appendWritesRows1_c2.residue = [] ∧
    pkgOf (frameOf (((appendWritesRows1_a.pages.find? (fun q => q.1 == appendWritesRows1_a.w.lrec.len / 16)).map (·.2)).getD 0) + appendWritesRows1_a.w.lrec.len % 16 * (32 * appendWritesRows1_a.w.rank32) * 2 : Nat) = pkg appendWritesRows1_c3 ∧
    pkgOf appendWritesRows1_a.w.root.addr = pkg appendWritesRows1_c3 ∧
    inHub (frameOf (((appendWritesRows1_a.pages.find? (fun q => q.1 == appendWritesRows1_a.w.lrec.len / 16)).map (·.2)).getD 0) + appendWritesRows1_a.w.lrec.len % 16 * (32 * appendWritesRows1_a.w.rank32) * 2 : Nat) (2 * (tabGet [] appendWritesRows1_cells 0).length) = false ∧
    backed (frameOf (((appendWritesRows1_a.pages.find? (fun q => q.1 == appendWritesRows1_a.w.lrec.len / 16)).map (·.2)).getD 0) + appendWritesRows1_a.w.lrec.len % 16 * (32 * appendWritesRows1_a.w.rank32) * 2 : Nat) (2 * (tabGet [] appendWritesRows1_cells 0).length) = true) ∧
    HeadReady appendWritesRows1_s (0 : Fin 32) (0 : Fin 16) ({} : Chain) appendWritesRows1_d ([0] : List Nat) appendWritesRows1_c ∧
    runEff (appendOpen (headCtx (0 : Fin 32) (0 : Fin 16) ({} : Chain) : Ctx) appendWritesRows1_d appendWritesRows1_p.m appendWritesRows1_p.n) appendWritesRows1_c0 = (appendWritesRows1_c1, .ok appendWritesRows1_as) ∧
    runEff (appendPlan (0 : Fin 32) 3 false appendWritesRows1_as) appendWritesRows1_c1 = (appendWritesRows1_c2, .ok [appendWritesRows1_a]) ∧
    runEff (multiply (headCtx (0 : Fin 32) (0 : Fin 16) ({} : Chain) : Ctx) appendWritesRows1_p (srcOf (appendWritesRows1_d.f 1 0 23) (appendWritesRows1_d.b 1 23)) (srcOf (appendWritesRows1_d.f 2 0 23) (appendWritesRows1_d.b 2 23)) none none (fun _ _ _ => pure ())) appendWritesRows1_c2 = (appendWritesRows1_c3, .ok appendWritesRows1_cells) ∧
    Steady appendWritesRows1_c0 appendWritesRows1_c3 :=
  ⟨by decide +kernel, headReady_of (by decide +kernel), by delta appendWritesRows1_c1 appendWritesRows1_as; exact ran _ _, pair_of (by delta appendWritesRows1_c2; rfl) (by rw [ran (runEff (appendPlan 0 3 false appendWritesRows1_as) appendWritesRows1_c1) (by decide +kernel)]; delta appendWritesRows1_a; exact congrArg Except.ok (one_of (by decide +kernel) _)), by delta appendWritesRows1_c3 appendWritesRows1_cells; exact ran _ _, by unfold Steady; decide +kernel⟩

/-! Obligations.StateOperatorsWriteObjects -/

def stateOperatorsWriteObjects1_s : State := st (atHead [0x1000580000041, 0x4000, 0x80100006000] ({ on with mem := listed 0x4000 [17, 0, 32, 0, 0, 0, 0, 0, 9, 0, 0, 0, 0, 0, 0, 0, 5, 0, 0, 0, 0, 0, 0, 0, 0, 0, 0, 0, 0, 0, 0, 0, 0, 0, 0, 0, 0, 0, 0, 0, 0, 0, 0, 0, 0, 0, 0, 0, 0, 0, 0, 0, 0, 0, 0, 0, 0, 0, 0, 0, 0, 0, 0, 0, 0, 0, 192, 63, 0, 0, 0, 192] }))
def stateOperatorsWriteObjects1_d : Desc := ds [0x1000580000041, 0x4000, 0x80100006000]
def stateOperatorsWriteObjects1_c : Chip := atHead [0x1000580000041, 0x4000, 0x80100006000] ({ on with mem := listed 0x4000 [17, 0, 32, 0, 0, 0, 0, 0, 9, 0, 0, 0, 0, 0, 0, 0, 5, 0, 0, 0, 0, 0, 0, 0, 0, 0, 0, 0, 0, 0, 0, 0, 0, 0, 0, 0, 0, 0, 0, 0, 0, 0, 0, 0, 0, 0, 0, 0, 0, 0, 0, 0, 0, 0, 0, 0, 0, 0, 0, 0, 0, 0, 0, 0, 0, 0, 192, 63, 0, 0, 0, 192] })
def stateOperatorsWriteObjects1_c0 : Chip := launched (0 : Fin 32) (0 : Fin 16) ({} : Chain) stateOperatorsWriteObjects1_d ([] : List Nat) stateOperatorsWriteObjects1_c
def stateOperatorsWriteObjects1_c1 : Chip := holdObject (headCtx (0 : Fin 32) (0 : Fin 16) ({} : Chain)) (sram stateOperatorsWriteObjects1_c0 ((headCtx (0 : Fin 32) (0 : Fin 16) ({} : Chain)).m : Fin 32) (stateOperatorsWriteObjects1_d.f 1 0 23) : Nat) stateOperatorsWriteObjects1_c0
def stateOperatorsWriteObjects1_h : Header := headerAt stateOperatorsWriteObjects1_c0 (sram stateOperatorsWriteObjects1_c0 ((headCtx (0 : Fin 32) (0 : Fin 16) ({} : Chain)).m : Fin 32) (stateOperatorsWriteObjects1_d.f 1 0 23) : Nat)
theorem wit_stateOperatorsWriteObjects1 :
    (stateOperatorsWriteObjects1_c0.ecc = [] ∧
    past (stateOperatorsWriteObjects1_d.f 1 0 23) 64 = false ∧
    headerBad0 stateOperatorsWriteObjects1_h stateOperatorsWriteObjects1_d.job = false ∧
    past (stateOperatorsWriteObjects1_d.f 1 0 23) (objectSize stateOperatorsWriteObjects1_h : Nat) = false ∧
    rowOf stateOperatorsWriteObjects1_d = some (.ckpt 0) ∧
    fenced stateOperatorsWriteObjects1_c0 (pkgOf (stateOperatorsWriteObjects1_d.f 2 0 48 : Nat)) = false ∧
    inHub (stateOperatorsWriteObjects1_d.f 2 0 48 : Nat) (objectSize stateOperatorsWriteObjects1_h : Nat) = false ∧
    backed (stateOperatorsWriteObjects1_d.f 2 0 48 : Nat) (objectSize stateOperatorsWriteObjects1_h : Nat) = true ∧
    pkgOf (stateOperatorsWriteObjects1_d.f 2 0 48 : Nat) = pkg stateOperatorsWriteObjects1_c0) ∧
    HeadReady stateOperatorsWriteObjects1_s (0 : Fin 32) (0 : Fin 16) ({} : Chain) stateOperatorsWriteObjects1_d ([] : List Nat) stateOperatorsWriteObjects1_c :=
  ⟨by decide +kernel, headReady_of (by decide +kernel)⟩

def stateOperatorsWriteObjects2_s : State := st (atHead [0x1000580000041, 0x4000, 0x100000004000] ({ (chipOf [(rMembers, 3), (rLinkStatus 0, 2), (rPartner 1, 2)] on) with mem := listed 0x4000 [17, 0, 32, 0, 0, 0, 0, 0, 9, 0, 0, 0, 0, 0, 0, 0, 5] }))
def stateOperatorsWriteObjects2_d : Desc := ds [0x1000580000041, 0x4000, 0x100000004000]
def stateOperatorsWriteObjects2_c : Chip := atHead [0x1000580000041, 0x4000, 0x100000004000] ({ (chipOf [(rMembers, 3), (rLinkStatus 0, 2), (rPartner 1, 2)] on) with mem := listed 0x4000 [17, 0, 32, 0, 0, 0, 0, 0, 9, 0, 0, 0, 0, 0, 0, 0, 5] })
def stateOperatorsWriteObjects2_c0 : Chip := launched (0 : Fin 32) (0 : Fin 16) ({} : Chain) stateOperatorsWriteObjects2_d ([] : List Nat) stateOperatorsWriteObjects2_c
def stateOperatorsWriteObjects2_c1 : Chip := holdObject (headCtx (0 : Fin 32) (0 : Fin 16) ({} : Chain)) (sram stateOperatorsWriteObjects2_c0 ((headCtx (0 : Fin 32) (0 : Fin 16) ({} : Chain)).m : Fin 32) (stateOperatorsWriteObjects2_d.f 1 0 23) : Nat) stateOperatorsWriteObjects2_c0
def stateOperatorsWriteObjects2_h : Header := headerAt stateOperatorsWriteObjects2_c0 (sram stateOperatorsWriteObjects2_c0 ((headCtx (0 : Fin 32) (0 : Fin 16) ({} : Chain)).m : Fin 32) (stateOperatorsWriteObjects2_d.f 1 0 23) : Nat)
theorem wit_stateOperatorsWriteObjects2 :
    (stateOperatorsWriteObjects2_c0.ecc = [] ∧
    past (stateOperatorsWriteObjects2_d.f 1 0 23) 64 = false ∧
    headerBad0 stateOperatorsWriteObjects2_h stateOperatorsWriteObjects2_d.job = false ∧
    past (stateOperatorsWriteObjects2_d.f 1 0 23) (objectSize stateOperatorsWriteObjects2_h : Nat) = false ∧
    rowOf stateOperatorsWriteObjects2_d = some (.ckpt 0) ∧
    fenced stateOperatorsWriteObjects2_c0 (pkgOf (stateOperatorsWriteObjects2_d.f 2 0 48 : Nat)) = false ∧
    inHub (stateOperatorsWriteObjects2_d.f 2 0 48 : Nat) (objectSize stateOperatorsWriteObjects2_h : Nat) = false ∧
    backed (stateOperatorsWriteObjects2_d.f 2 0 48 : Nat) (objectSize stateOperatorsWriteObjects2_h : Nat) = true ∧
    pkgOf (stateOperatorsWriteObjects2_d.f 2 0 48 : Nat) ≠ pkg stateOperatorsWriteObjects2_c0 ∧
    ((flushFar (basinMaster ({} : Chain).home) (.walk (0 : Fin 32) (0 : Fin 16) ({} : Chain).nextId) (askWrite (stateOperatorsWriteObjects2_d.f 2 0 48 : Nat) (memReadN stateOperatorsWriteObjects2_c0.mem (sram stateOperatorsWriteObjects2_c0 ((headCtx (0 : Fin 32) (0 : Fin 16) ({} : Chain)).m : Fin 32) (stateOperatorsWriteObjects2_d.f 1 0 23) : Nat) (objectSize stateOperatorsWriteObjects2_h : Nat)) stateOperatorsWriteObjects2_c1)).1.1 : List Nat) ≠ []) ∧
    HeadReady stateOperatorsWriteObjects2_s (0 : Fin 32) (0 : Fin 16) ({} : Chain) stateOperatorsWriteObjects2_d ([] : List Nat) stateOperatorsWriteObjects2_c ∧
    flushFar (basinMaster ({} : Chain).home) (.walk (0 : Fin 32) (0 : Fin 16) ({} : Chain).nextId) (askWrite (stateOperatorsWriteObjects2_d.f 2 0 48 : Nat) (memReadN stateOperatorsWriteObjects2_c0.mem (sram stateOperatorsWriteObjects2_c0 ((headCtx (0 : Fin 32) (0 : Fin 16) ({} : Chain)).m : Fin 32) (stateOperatorsWriteObjects2_d.f 1 0 23) : Nat) (objectSize stateOperatorsWriteObjects2_h : Nat)) stateOperatorsWriteObjects2_c1) = ((((flushFar (basinMaster ({} : Chain).home) (.walk (0 : Fin 32) (0 : Fin 16) ({} : Chain).nextId) (askWrite (stateOperatorsWriteObjects2_d.f 2 0 48 : Nat) (memReadN stateOperatorsWriteObjects2_c0.mem (sram stateOperatorsWriteObjects2_c0 ((headCtx (0 : Fin 32) (0 : Fin 16) ({} : Chain)).m : Fin 32) (stateOperatorsWriteObjects2_d.f 1 0 23) : Nat) (objectSize stateOperatorsWriteObjects2_h : Nat)) stateOperatorsWriteObjects2_c1)).1.1 : List Nat), none), ((flushFar (basinMaster ({} : Chain).home) (.walk (0 : Fin 32) (0 : Fin 16) ({} : Chain).nextId) (askWrite (stateOperatorsWriteObjects2_d.f 2 0 48 : Nat) (memReadN stateOperatorsWriteObjects2_c0.mem (sram stateOperatorsWriteObjects2_c0 ((headCtx (0 : Fin 32) (0 : Fin 16) ({} : Chain)).m : Fin 32) (stateOperatorsWriteObjects2_d.f 1 0 23) : Nat) (objectSize stateOperatorsWriteObjects2_h : Nat)) stateOperatorsWriteObjects2_c1)).2 : Chip)) :=
  ⟨by decide +kernel, headReady_of (by decide +kernel), paired2 _ _ (by decide +kernel)⟩

def stateOperatorsWriteObjects3_s : State := st (atHead [0x1000580000041, 0x1004000, 0x80100006000] ({ on with mem := listed 0x4000 [17, 0, 32, 0, 0, 0, 0, 0, 9, 0, 0, 0, 0, 0, 0, 0, 5, 0, 0, 0, 0, 0, 0, 0, 0, 0, 0, 0, 0, 0, 0, 0, 0, 0, 0, 0, 0, 0, 0, 0, 0, 0, 0, 0, 0, 0, 0, 0, 0, 0, 0, 0, 0, 0, 0, 0, 0, 0, 0, 0, 0, 0, 0, 0, 0, 0, 192, 63, 0, 0, 0, 192] ++ listed 0x6000 [17, 0, 32, 0, 0, 0, 0, 0, 3, 0, 0, 0, 0, 0, 0, 0, 5, 0, 0, 0, 0, 0, 0, 0, 0, 0, 0, 0, 0, 0, 0, 0, 0, 0, 0, 0, 0, 0, 0, 0, 0, 0, 0, 0, 0, 0, 0, 0, 0, 0, 0, 0, 0, 0, 0, 0, 0, 0, 0, 0, 0, 0, 0, 0, 0, 0, 224, 64] }))
def stateOperatorsWriteObjects3_d : Desc := ds [0x1000580000041, 0x1004000, 0x80100006000]
def stateOperatorsWriteObjects3_c : Chip := atHead [0x1000580000041, 0x1004000, 0x80100006000] ({ on with mem := listed 0x4000 [17, 0, 32, 0, 0, 0, 0, 0, 9, 0, 0, 0, 0, 0, 0, 0, 5, 0, 0, 0, 0, 0, 0, 0, 0, 0, 0, 0, 0, 0, 0, 0, 0, 0, 0, 0, 0, 0, 0, 0, 0, 0, 0, 0, 0, 0, 0, 0, 0, 0, 0, 0, 0, 0, 0, 0, 0, 0, 0, 0, 0, 0, 0, 0, 0, 0, 192, 63, 0, 0, 0, 192] ++ listed 0x6000 [17, 0, 32, 0, 0, 0, 0, 0, 3, 0, 0, 0, 0, 0, 0, 0, 5, 0, 0, 0, 0, 0, 0, 0, 0, 0, 0, 0, 0, 0, 0, 0, 0, 0, 0, 0, 0, 0, 0, 0, 0, 0, 0, 0, 0, 0, 0, 0, 0, 0, 0, 0, 0, 0, 0, 0, 0, 0, 0, 0, 0, 0, 0, 0, 0, 0, 224, 64] })
def stateOperatorsWriteObjects3_c0 : Chip := launched (0 : Fin 32) (0 : Fin 16) ({} : Chain) stateOperatorsWriteObjects3_d ([] : List Nat) stateOperatorsWriteObjects3_c
def stateOperatorsWriteObjects3_c1 : Chip := holdObject (headCtx (0 : Fin 32) (0 : Fin 16) ({} : Chain)) (sram stateOperatorsWriteObjects3_c0 ((headCtx (0 : Fin 32) (0 : Fin 16) ({} : Chain)).m : Fin 32) (stateOperatorsWriteObjects3_d.f 1 0 23) : Nat) stateOperatorsWriteObjects3_c0
def stateOperatorsWriteObjects3_h : Header := headerAt stateOperatorsWriteObjects3_c0 (sram stateOperatorsWriteObjects3_c0 ((headCtx (0 : Fin 32) (0 : Fin 16) ({} : Chain)).m : Fin 32) (stateOperatorsWriteObjects3_d.f 1 0 23) : Nat)
theorem wit_stateOperatorsWriteObjects3 :
    (stateOperatorsWriteObjects3_c0.ecc = [] ∧
    past (stateOperatorsWriteObjects3_d.f 1 0 23) 64 = false ∧
    headerBad0 stateOperatorsWriteObjects3_h stateOperatorsWriteObjects3_d.job = false ∧
    past (stateOperatorsWriteObjects3_d.f 1 0 23) (objectSize stateOperatorsWriteObjects3_h : Nat) = false ∧
    rowOf stateOperatorsWriteObjects3_d = some (.ckpt 1) ∧
    pkgOf (stateOperatorsWriteObjects3_d.f 2 0 48 : Nat) = pkg stateOperatorsWriteObjects3_c0 ∧
    inHub (stateOperatorsWriteObjects3_d.f 2 0 48 : Nat) 64 = false ∧
    backed (stateOperatorsWriteObjects3_d.f 2 0 48 : Nat) 64 = true ∧
    inHub (stateOperatorsWriteObjects3_d.f 2 0 48 : Nat) (objectSize stateOperatorsWriteObjects3_h : Nat) = false ∧
    backed (stateOperatorsWriteObjects3_d.f 2 0 48 : Nat) (objectSize stateOperatorsWriteObjects3_h : Nat) = true ∧
    headerBad0 (headerAt stateOperatorsWriteObjects3_c0 (stateOperatorsWriteObjects3_d.f 2 0 48 : Nat)) stateOperatorsWriteObjects3_d.job = false ∧
    (headerAt stateOperatorsWriteObjects3_c0 (stateOperatorsWriteObjects3_d.f 2 0 48 : Nat)).mode = stateOperatorsWriteObjects3_h.mode ∧
    (headerAt stateOperatorsWriteObjects3_c0 (stateOperatorsWriteObjects3_d.f 2 0 48 : Nat)).sFmt = stateOperatorsWriteObjects3_h.sFmt ∧
    (headerAt stateOperatorsWriteObjects3_c0 (stateOperatorsWriteObjects3_d.f 2 0 48 : Nat)).d = stateOperatorsWriteObjects3_h.d) ∧
    HeadReady stateOperatorsWriteObjects3_s (0 : Fin 32) (0 : Fin 16) ({} : Chain) stateOperatorsWriteObjects3_d ([] : List Nat) stateOperatorsWriteObjects3_c :=
  ⟨by decide +kernel, headReady_of (by decide +kernel)⟩

def stateOperatorsWriteObjects4_s : State := st (atHead [0x1000580000041, 0x2004000, 0x0] ({ on with mem := listed 0x4000 [145, 0, 32, 0, 0, 0, 0, 0, 9, 0, 0, 0, 0, 0, 0, 0, 5] }))
def stateOperatorsWriteObjects4_d : Desc := ds [0x1000580000041, 0x2004000, 0x0]
def stateOperatorsWriteObjects4_c : Chip := atHead [0x1000580000041, 0x2004000, 0x0] ({ on with mem := listed 0x4000 [145, 0, 32, 0, 0, 0, 0, 0, 9, 0, 0, 0, 0, 0, 0, 0, 5] })
def stateOperatorsWriteObjects4_c0 : Chip := launched (0 : Fin 32) (0 : Fin 16) ({} : Chain) stateOperatorsWriteObjects4_d ([] : List Nat) stateOperatorsWriteObjects4_c
def stateOperatorsWriteObjects4_c1 : Chip := holdObject (headCtx (0 : Fin 32) (0 : Fin 16) ({} : Chain)) (sram stateOperatorsWriteObjects4_c0 ((headCtx (0 : Fin 32) (0 : Fin 16) ({} : Chain)).m : Fin 32) (stateOperatorsWriteObjects4_d.f 1 0 23) : Nat) stateOperatorsWriteObjects4_c0
def stateOperatorsWriteObjects4_h : Header := headerAt stateOperatorsWriteObjects4_c0 (sram stateOperatorsWriteObjects4_c0 ((headCtx (0 : Fin 32) (0 : Fin 16) ({} : Chain)).m : Fin 32) (stateOperatorsWriteObjects4_d.f 1 0 23) : Nat)
theorem wit_stateOperatorsWriteObjects4 :
    (stateOperatorsWriteObjects4_c0.ecc = [] ∧
    past (stateOperatorsWriteObjects4_d.f 1 0 23) 64 = false ∧
    headerBad0 stateOperatorsWriteObjects4_h stateOperatorsWriteObjects4_d.job = false ∧
    past (stateOperatorsWriteObjects4_d.f 1 0 23) (objectSize stateOperatorsWriteObjects4_h : Nat) = false ∧
    rowOf stateOperatorsWriteObjects4_d = some (.ckpt 2)) ∧
    HeadReady stateOperatorsWriteObjects4_s (0 : Fin 32) (0 : Fin 16) ({} : Chain) stateOperatorsWriteObjects4_d ([] : List Nat) stateOperatorsWriteObjects4_c :=
  ⟨by decide +kernel, headReady_of (by decide +kernel)⟩

def stateOperatorsWriteObjects5_s : State := st (atHead [0x10005a4430040, 0x1001000, 0x2000, 0x0, 0x0, 0x80000803000] ({ on with mem := listed 0x1000 [128, 63, 0, 64, 64, 192] ++ listed 0x2000 [0, 0, 0, 63, 0, 0, 128, 127, 0, 0, 0, 64] ++ listed 0x3000 [0, 64] ++ listed 0x4000 [17, 0, 32, 0, 0, 0, 0, 0, 9, 0, 0, 0, 0, 0, 0, 0, 5, 0, 0, 0, 0, 0, 0, 0, 0, 0, 0, 0, 0, 0, 0, 0, 0, 0, 0, 0, 0, 0, 0, 0, 0, 0, 0, 0, 0, 0, 0, 0, 0, 0, 0, 0, 0, 0, 0, 0, 0, 0, 0, 0, 0, 0, 0, 0, 0, 0, 192, 63, 0, 0, 0, 192, 111, 18, 131, 58] }))
def stateOperatorsWriteObjects5_d : Desc := ds [0x10005a4430040, 0x1001000, 0x2000, 0x0, 0x0, 0x80000803000]
def stateOperatorsWriteObjects5_c : Chip := atHead [0x10005a4430040, 0x1001000, 0x2000, 0x0, 0x0, 0x80000803000] ({ on with mem := listed 0x1000 [128, 63, 0, 64, 64, 192] ++ listed 0x2000 [0, 0, 0, 63, 0, 0, 128, 127, 0, 0, 0, 64] ++ listed 0x3000 [0, 64] ++ listed 0x4000 [17, 0, 32, 0, 0, 0, 0, 0, 9, 0, 0, 0, 0, 0, 0, 0, 5, 0, 0, 0, 0, 0, 0, 0, 0, 0, 0, 0, 0, 0, 0, 0, 0, 0, 0, 0, 0, 0, 0, 0, 0, 0, 0, 0, 0, 0, 0, 0, 0, 0, 0, 0, 0, 0, 0, 0, 0, 0, 0, 0, 0, 0, 0, 0, 0, 0, 192, 63, 0, 0, 0, 192, 111, 18, 131, 58] })
def stateOperatorsWriteObjects5_c0 : Chip := launched (0 : Fin 32) (0 : Fin 16) ({} : Chain) stateOperatorsWriteObjects5_d ([] : List Nat) stateOperatorsWriteObjects5_c
def stateOperatorsWriteObjects5_h : Header := headerAt stateOperatorsWriteObjects5_c0 (sram stateOperatorsWriteObjects5_c0 ((headCtx (0 : Fin 32) (0 : Fin 16) ({} : Chain)).m : Fin 32) (leNat (memReadN stateOperatorsWriteObjects5_c0.mem (sram stateOperatorsWriteObjects5_c0 ((headCtx (0 : Fin 32) (0 : Fin 16) ({} : Chain)).m : Fin 32) (stateOperatorsWriteObjects5_d.f 5 0 23)) 4) : Nat) : Nat)
theorem wit_stateOperatorsWriteObjects5 :
    (stateOperatorsWriteObjects5_c0.ecc = [] ∧
    rowOf stateOperatorsWriteObjects5_d = some .chunk ∧
    stateOperatorsWriteObjects5_c0.residue = [] ∧
    stateOperatorsWriteObjects5_d.f 5 23 9 = 1 ∧
    stateOperatorsWriteObjects5_d.f 1 24 7 = 1 ∧
    stateOperatorsWriteObjects5_d.f 1 32 7 = 0 ∧
    stateOperatorsWriteObjects5_d.b 5 32 = false ∧
    stateOperatorsWriteObjects5_d.b 3 23 = false ∧
    stateOperatorsWriteObjects5_d.b 2 24 = false ∧
    (leNat (memReadN stateOperatorsWriteObjects5_c0.mem (sram stateOperatorsWriteObjects5_c0 ((headCtx (0 : Fin 32) (0 : Fin 16) ({} : Chain)).m : Fin 32) (stateOperatorsWriteObjects5_d.f 5 0 23)) 4) : Nat) % 64 = 0 ∧
    (leNat (memReadN stateOperatorsWriteObjects5_c0.mem (sram stateOperatorsWriteObjects5_c0 ((headCtx (0 : Fin 32) (0 : Fin 16) ({} : Chain)).m : Fin 32) (stateOperatorsWriteObjects5_d.f 5 0 23)) 4) : Nat) < 0x600000 ∧
    past (leNat (memReadN stateOperatorsWriteObjects5_c0.mem (sram stateOperatorsWriteObjects5_c0 ((headCtx (0 : Fin 32) (0 : Fin 16) ({} : Chain)).m : Fin 32) (stateOperatorsWriteObjects5_d.f 5 0 23)) 4) : Nat) 64 = false ∧
    headerBad0 stateOperatorsWriteObjects5_h stateOperatorsWriteObjects5_d.job = false ∧
    stateOperatorsWriteObjects5_h.mode = 1 ∧
    past (leNat (memReadN stateOperatorsWriteObjects5_c0.mem (sram stateOperatorsWriteObjects5_c0 ((headCtx (0 : Fin 32) (0 : Fin 16) ({} : Chain)).m : Fin 32) (stateOperatorsWriteObjects5_d.f 5 0 23)) 4) : Nat) (objectSize stateOperatorsWriteObjects5_h) = false ∧
    stateOperatorsWriteObjects5_h.pending = false) ∧
    HeadReady stateOperatorsWriteObjects5_s (0 : Fin 32) (0 : Fin 16) ({} : Chain) stateOperatorsWriteObjects5_d ([] : List Nat) stateOperatorsWriteObjects5_c :=
  ⟨by decide +kernel, headReady_of (by decide +kernel)⟩

/-! TablesAreBuiltAndCode, in Obligations.SlotsAndTables -/

def tablesAreBuiltAndCode1_s : State := st (atHead [0x1000580000022, 0x1001000, 0x0, 0x3] ({ on with mem := at0 0x1000 ((List.range 64).flatMap (fun i => [BitVec.ofNat 8 (i * i % 7), 3])) [] }))
def tablesAreBuiltAndCode1_d : Desc := ds [0x1000580000022, 0x1001000, 0x0, 0x3]
def tablesAreBuiltAndCode1_c : Chip := atHead [0x1000580000022, 0x1001000, 0x0, 0x3] ({ on with mem := at0 0x1000 ((List.range 64).flatMap (fun i => [BitVec.ofNat 8 (i * i % 7), 3])) [] })
def tablesAreBuiltAndCode1_c0 : Chip := launched (0 : Fin 32) (0 : Fin 16) ({} : Chain) tablesAreBuiltAndCode1_d ([] : List Nat) tablesAreBuiltAndCode1_c
theorem wit_tablesAreBuiltAndCode1 :
    (tablesAreBuiltAndCode1_c0.ecc = [] ∧
    tablesAreBuiltAndCode1_d.b 4 23 = false ∧
    (3 : Nat) < 16 ∧
    rowOf tablesAreBuiltAndCode1_d = some (.codec 0) ∧
    pickSlot tablesAreBuiltAndCode1_c0 ((headCtx (0 : Fin 32) (0 : Fin 16) ({} : Chain)).m : Fin 32) (tablesAreBuiltAndCode1_d.f 3 0 5) = some (3 : Nat) ∧
    tablesAreBuiltAndCode1_d.b 2 47 = false) ∧
    HeadReady tablesAreBuiltAndCode1_s (0 : Fin 32) (0 : Fin 16) ({} : Chain) tablesAreBuiltAndCode1_d ([] : List Nat) tablesAreBuiltAndCode1_c :=
  ⟨by decide +kernel, headReady_of (by decide +kernel)⟩

def tablesAreBuiltAndCode2_s : State := st (atHead [0x1000580000022, 0x30000001000, 0x0, 0x3] ({ on with mem := (at0 0x1000 [9, 1, 2, 0, 0, 0, 0, 0, 230, 218, 0, 0, 0, 0, 0, 0, 0, 0, 0, 0, 0, 0, 0, 0, 0, 0, 0, 0, 0, 0, 0, 0, 0, 0, 0, 0, 0, 0, 0, 0, 0, 0, 0, 0, 0, 0, 0, 0, 0, 0, 0, 0, 0, 0, 0, 0, 0, 0, 0, 0, 0, 0, 0, 0, 17, 0, 0, 0, 0, 0, 0, 0, 0, 0, 0, 0, 0, 0, 0, 0, 0, 0, 0, 0, 0, 0, 0, 0, 0, 0, 0, 0, 0, 0, 0, 0, 0, 0, 0, 0, 0, 0, 0, 0, 0, 0, 0, 0, 0, 0, 0, 0, 0, 0, 0, 0, 0, 0, 0, 0, 0, 0, 0, 0, 0, 0, 0, 0, 0, 0, 0, 0, 0, 0, 0, 0, 0, 0, 0, 0, 0, 0, 0, 0, 0, 0, 0, 0, 0, 0, 0, 0, 0, 0, 0, 0, 0, 0, 0, 0, 0, 0, 0, 0, 0, 0, 0, 0, 0, 0, 0, 0, 0, 0, 0, 0, 0, 0, 0, 0, 0, 0, 0, 0, 0, 0, 0, 0, 0, 0, 0, 0] []) }))
def tablesAreBuiltAndCode2_d : Desc := ds [0x1000580000022, 0x30000001000, 0x0, 0x3]
def tablesAreBuiltAndCode2_c : Chip := atHead [0x1000580000022, 0x30000001000, 0x0, 0x3] ({ on with mem := (at0 0x1000 [9, 1, 2, 0, 0, 0, 0, 0, 230, 218, 0, 0, 0, 0, 0, 0, 0, 0, 0, 0, 0, 0, 0, 0, 0, 0, 0, 0, 0, 0, 0, 0, 0, 0, 0, 0, 0, 0, 0, 0, 0, 0, 0, 0, 0, 0, 0, 0, 0, 0, 0, 0, 0, 0, 0, 0, 0, 0, 0, 0, 0, 0, 0, 0, 17, 0, 0, 0, 0, 0, 0, 0, 0, 0, 0, 0, 0, 0, 0, 0, 0, 0, 0, 0, 0, 0, 0, 0, 0, 0, 0, 0, 0, 0, 0, 0, 0, 0, 0, 0, 0, 0, 0, 0, 0, 0, 0, 0, 0, 0, 0, 0, 0, 0, 0, 0, 0, 0, 0, 0, 0, 0, 0, 0, 0, 0, 0, 0, 0, 0, 0, 0, 0, 0, 0, 0, 0, 0, 0, 0, 0, 0, 0, 0, 0, 0, 0, 0, 0, 0, 0, 0, 0, 0, 0, 0, 0, 0, 0, 0, 0, 0, 0, 0, 0, 0, 0, 0, 0, 0, 0, 0, 0, 0, 0, 0, 0, 0, 0, 0, 0, 0, 0, 0, 0, 0, 0, 0, 0, 0, 0, 0] []) })
def tablesAreBuiltAndCode2_c0 : Chip := launched (0 : Fin 32) (0 : Fin 16) ({} : Chain) tablesAreBuiltAndCode2_d ([] : List Nat) tablesAreBuiltAndCode2_c
theorem wit_tablesAreBuiltAndCode2 :
    (tablesAreBuiltAndCode2_c0.ecc = [] ∧
    tablesAreBuiltAndCode2_d.b 4 23 = false ∧
    (3 : Nat) < 16 ∧
    rowOf tablesAreBuiltAndCode2_d = some (.codec 3) ∧
    pickSlot tablesAreBuiltAndCode2_c0 ((headCtx (0 : Fin 32) (0 : Fin 16) ({} : Chain)).m : Fin 32) (tablesAreBuiltAndCode2_d.f 3 0 5) = some (3 : Nat) ∧
    imageLens (memReadN tablesAreBuiltAndCode2_c0.mem (sram tablesAreBuiltAndCode2_c0 ((headCtx (0 : Fin 32) (0 : Fin 16) ({} : Chain)).m : Fin 32) (tablesAreBuiltAndCode2_d.f 1 0 23)) 192 : List Byte) = some ((9 : Nat), ((((imageLens [9, 1, 2, 0, 0, 0, 0, 0, 230, 218, 0, 0, 0, 0, 0, 0, 0, 0, 0, 0, 0, 0, 0, 0, 0, 0, 0, 0, 0, 0, 0, 0, 0, 0, 0, 0, 0, 0, 0, 0, 0, 0, 0, 0, 0, 0, 0, 0, 0, 0, 0, 0, 0, 0, 0, 0, 0, 0, 0, 0, 0, 0, 0, 0, 17, 0, 0, 0, 0, 0, 0, 0, 0, 0, 0, 0, 0, 0, 0, 0, 0, 0, 0, 0, 0, 0, 0, 0, 0, 0, 0, 0, 0, 0, 0, 0, 0, 0, 0, 0, 0, 0, 0, 0, 0, 0, 0, 0, 0, 0, 0, 0, 0, 0, 0, 0, 0, 0, 0, 0, 0, 0, 0, 0, 0, 0, 0, 0, 0, 0, 0, 0, 0, 0, 0, 0, 0, 0, 0, 0, 0, 0, 0, 0, 0, 0, 0, 0, 0, 0, 0, 0, 0, 0, 0, 0, 0, 0, 0, 0, 0, 0, 0, 0, 0, 0, 0, 0, 0, 0, 0, 0, 0, 0, 0, 0, 0, 0, 0, 0, 0, 0, 0, 0, 0, 0, 0, 0, 0, 0, 0, 0]).map (·.2)).getD []) : List Nat))) ∧
    HeadReady tablesAreBuiltAndCode2_s (0 : Fin 32) (0 : Fin 16) ({} : Chain) tablesAreBuiltAndCode2_d ([] : List Nat) tablesAreBuiltAndCode2_c :=
  ⟨by decide +kernel, headReady_of (by decide +kernel)⟩

def tablesAreBuiltAndCode3_s : State := st (atHead [0x1000580000022, 0x10001001000, 0x4000, 0x3] ({ on with mem := at0 0x1000 ((List.range 64).flatMap (fun i => [BitVec.ofNat 8 (i * i % 7), 3])) [], basins := on.basins.set 0 { slots := (Vector.replicate 16 {}).set 3 { state := .ready, gen := 255, holds := 0xFFFFE, lens := [1, 1] } } }))
def tablesAreBuiltAndCode3_d : Desc := ds [0x1000580000022, 0x10001001000, 0x4000, 0x3]
def tablesAreBuiltAndCode3_c : Chip := atHead [0x1000580000022, 0x10001001000, 0x4000, 0x3] ({ on with mem := at0 0x1000 ((List.range 64).flatMap (fun i => [BitVec.ofNat 8 (i * i % 7), 3])) [], basins := on.basins.set 0 { slots := (Vector.replicate 16 {}).set 3 { state := .ready, gen := 255, holds := 0xFFFFE, lens := [1, 1] } } })
def tablesAreBuiltAndCode3_c0 : Chip := launched (0 : Fin 32) (0 : Fin 16) ({} : Chain) tablesAreBuiltAndCode3_d ([] : List Nat) tablesAreBuiltAndCode3_c
theorem wit_tablesAreBuiltAndCode3 :
    (tablesAreBuiltAndCode3_c0.ecc = [] ∧
    tablesAreBuiltAndCode3_d.b 4 23 = false ∧
    (3 : Nat) < 16 ∧
    rowOf tablesAreBuiltAndCode3_d = some (.codec 1) ∧
    (3 : Nat) = tablesAreBuiltAndCode3_d.f 3 0 5 ∧
    tablesAreBuiltAndCode3_d.f 1 24 11 = 1 ∧
    (slotAt tablesAreBuiltAndCode3_c0 ((headCtx (0 : Fin 32) (0 : Fin 16) ({} : Chain)).m : Fin 32) (3 : Nat)).state = .ready ∧
    (slotAt tablesAreBuiltAndCode3_c0 ((headCtx (0 : Fin 32) (0 : Fin 16) ({} : Chain)).m : Fin 32) (3 : Nat)).holds + 1 < 2 ^ 20) ∧
    HeadReady tablesAreBuiltAndCode3_s (0 : Fin 32) (0 : Fin 16) ({} : Chain) tablesAreBuiltAndCode3_d ([] : List Nat) tablesAreBuiltAndCode3_c :=
  ⟨by decide +kernel, headReady_of (by decide +kernel)⟩

def tablesAreBuiltAndCode4_s : State := st (atHead [0x1000580000022, 0x20001001000, 0x4000, 0x3] ({ on with mem := at0 0x1000 ((List.range 64).flatMap (fun i => [BitVec.ofNat 8 (i * i % 7), 3])) [] }))
def tablesAreBuiltAndCode4_d : Desc := ds [0x1000580000022, 0x20001001000, 0x4000, 0x3]
def tablesAreBuiltAndCode4_c : Chip := atHead [0x1000580000022, 0x20001001000, 0x4000, 0x3] ({ on with mem := at0 0x1000 ((List.range 64).flatMap (fun i => [BitVec.ofNat 8 (i * i % 7), 3])) [] })
def tablesAreBuiltAndCode4_c0 : Chip := launched (0 : Fin 32) (0 : Fin 16) ({} : Chain) tablesAreBuiltAndCode4_d ([] : List Nat) tablesAreBuiltAndCode4_c
theorem wit_tablesAreBuiltAndCode4 :
    (tablesAreBuiltAndCode4_c0.ecc = [] ∧
    tablesAreBuiltAndCode4_d.b 4 23 = false ∧
    (3 : Nat) < 16 ∧
    rowOf tablesAreBuiltAndCode4_d = some (.codec 2) ∧
    pickSlot tablesAreBuiltAndCode4_c0 ((headCtx (0 : Fin 32) (0 : Fin 16) ({} : Chain)).m : Fin 32) (tablesAreBuiltAndCode4_d.f 3 0 5) = some (3 : Nat) ∧
    tablesAreBuiltAndCode4_d.b 2 47 = false ∧
    tablesAreBuiltAndCode4_d.f 1 24 11 = 1) ∧
    HeadReady tablesAreBuiltAndCode4_s (0 : Fin 32) (0 : Fin 16) ({} : Chain) tablesAreBuiltAndCode4_d ([] : List Nat) tablesAreBuiltAndCode4_c :=
  ⟨by decide +kernel, headReady_of (by decide +kernel)⟩

/-! Obligations.AttentionWritesRows -/

def attentionWritesRows1_s : State := st (atHead [0x1000584040031, 0x1020006004000, 0x20008000, 0x809000, 0x7] ({ on with mem := listed 0x4000 [5, 0, 64, 8, 0, 8, 0, 0, 7, 0, 0, 0, 0, 0, 0, 0, 0, 0, 0, 0, 0, 0, 0, 0, 0, 0, 0, 0, 0, 0, 0, 0, 0, 0, 0, 0, 0, 0, 0, 0, 0, 0, 0, 0, 0, 0, 0, 0, 0, 0, 0, 0, 0, 0, 0, 0, 0, 0, 0, 0, 0, 0, 0, 0, 0, 0, 128, 63, 0, 0, 0, 64, 0, 0, 0, 0, 0, 0, 0, 0, 0, 0, 0, 0, 0, 0, 0, 0, 0, 0, 0, 0, 0, 0, 0, 0, 0, 0, 0, 0, 0, 0, 0, 0, 0, 0, 0, 0, 0, 0, 0, 0, 0, 0, 0, 0, 0, 0, 0, 0, 0, 0, 0, 0, 0, 0, 0, 0, 0, 0, 128, 63, 0, 0, 0, 64, 0, 0, 64, 64] ++ listed 0x4180 [5, 0, 65, 8, 0, 8, 0, 0, 7, 0, 0, 0, 0, 0, 0, 0, 0, 0, 0, 0, 0, 0, 0, 0, 0, 0, 0, 0, 0, 0, 0, 0, 0, 0, 0, 0, 0, 0, 0, 0, 0, 0, 0, 0, 0, 0, 0, 0, 0, 0, 0, 0, 0, 0, 0, 0, 0, 0, 0, 0, 0, 0, 0, 0, 0, 0, 0, 63, 0, 0, 128, 63, 0, 0, 0, 0, 0, 0, 0, 0, 0, 0, 0, 0, 0, 0, 0, 0, 0, 0, 0, 0, 0, 0, 0, 0, 0, 0, 0, 0, 0, 0, 0, 0, 0, 0, 0, 0, 0, 0, 0, 0, 0, 0, 0, 0, 0, 0, 0, 0, 0, 0, 0, 0, 0, 0, 0, 0, 0, 0, 128, 191] }))
def attentionWritesRows1_d : Desc := ds [0x1000584040031, 0x1020006004000, 0x20008000, 0x809000, 0x7]
def attentionWritesRows1_c : Chip := atHead [0x1000584040031, 0x1020006004000, 0x20008000, 0x809000, 0x7] ({ on with mem := listed 0x4000 [5, 0, 64, 8, 0, 8, 0, 0, 7, 0, 0, 0, 0, 0, 0, 0, 0, 0, 0, 0, 0, 0, 0, 0, 0, 0, 0, 0, 0, 0, 0, 0, 0, 0, 0, 0, 0, 0, 0, 0, 0, 0, 0, 0, 0, 0, 0, 0, 0, 0, 0, 0, 0, 0, 0, 0, 0, 0, 0, 0, 0, 0, 0, 0, 0, 0, 128, 63, 0, 0, 0, 64, 0, 0, 0, 0, 0, 0, 0, 0, 0, 0, 0, 0, 0, 0, 0, 0, 0, 0, 0, 0, 0, 0, 0, 0, 0, 0, 0, 0, 0, 0, 0, 0, 0, 0, 0, 0, 0, 0, 0, 0, 0, 0, 0, 0, 0, 0, 0, 0, 0, 0, 0, 0, 0, 0, 0, 0, 0, 0, 128, 63, 0, 0, 0, 64, 0, 0, 64, 64] ++ listed 0x4180 [5, 0, 65, 8, 0, 8, 0, 0, 7, 0, 0, 0, 0, 0, 0, 0, 0, 0, 0, 0, 0, 0, 0, 0, 0, 0, 0, 0, 0, 0, 0, 0, 0, 0, 0, 0, 0, 0, 0, 0, 0, 0, 0, 0, 0, 0, 0, 0, 0, 0, 0, 0, 0, 0, 0, 0, 0, 0, 0, 0, 0, 0, 0, 0, 0, 0, 0, 63, 0, 0, 128, 63, 0, 0, 0, 0, 0, 0, 0, 0, 0, 0, 0, 0, 0, 0, 0, 0, 0, 0, 0, 0, 0, 0, 0, 0, 0, 0, 0, 0, 0, 0, 0, 0, 0, 0, 0, 0, 0, 0, 0, 0, 0, 0, 0, 0, 0, 0, 0, 0, 0, 0, 0, 0, 0, 0, 0, 0, 0, 0, 128, 191] })
def attentionWritesRows1_c0 : Chip := launched (0 : Fin 32) (0 : Fin 16) ({} : Chain) attentionWritesRows1_d ([] : List Nat) attentionWritesRows1_c
def attentionWritesRows1_out : List ARow := (List.range (attentionWritesRows1_d.f 1 48 11 : Nat)).map (fun r => ((List.range (attentionWritesRows1_d.f 1 40 6)).map (fun i => sram attentionWritesRows1_c0 ((headCtx (0 : Fin 32) (0 : Fin 16) ({} : Chain) : Ctx).m : Fin 32) (attentionWritesRows1_d.f 1 0 23 + i * attentionWritesRows1_d.f 1 24 16 * 64)) : List Nat).foldl (fun y a => combine y (recordRow attentionWritesRows1_c0 a (attentionWritesRows1_d.f 1 48 11 : Nat) (attentionWritesRows1_d.f 2 24 10 : Nat) r)) (ARow.start (attentionWritesRows1_d.f 2 24 10 : Nat)))
theorem wit_attentionWritesRows1 :
    (attentionWritesRows1_c0.ecc = [] ∧
    attentionWritesRows1_c0.residue = [] ∧
    rowOf attentionWritesRows1_d = some .merge ∧
    fmtOf attentionWritesRows1_d.outFmt = some .fp32 ∧
    (∀ i, i < ((List.range (attentionWritesRows1_d.f 1 40 6)).map (fun i => sram attentionWritesRows1_c0 ((headCtx (0 : Fin 32) (0 : Fin 16) ({} : Chain) : Ctx).m : Fin 32) (attentionWritesRows1_d.f 1 0 23 + i * attentionWritesRows1_d.f 1 24 16 * 64)) : List Nat).length → recordSkew attentionWritesRows1_d i ((List.range 8).map (fun j => leNat (memReadN attentionWritesRows1_c0.mem (((List.range (attentionWritesRows1_d.f 1 40 6)).map (fun i => sram attentionWritesRows1_c0 ((headCtx (0 : Fin 32) (0 : Fin 16) ({} : Chain) : Ctx).m : Fin 32) (attentionWritesRows1_d.f 1 0 23 + i * attentionWritesRows1_d.f 1 24 16 * 64)) : List Nat).getD i 0 + 8 * j) 8))) = false)) ∧
    HeadReady attentionWritesRows1_s (0 : Fin 32) (0 : Fin 16) ({} : Chain) attentionWritesRows1_d ([] : List Nat) attentionWritesRows1_c :=
  ⟨by decide +kernel, headReady_of (by decide +kernel)⟩

def attentionWritesRows2_s : State := st (atHead [0x10005a4030030, 0x300000101001000, 0x2000000000000, 0x8000c00000a000, 0x100003f800000, 0x80100004000, 0x0, 0x6400000002] (chipOf [(0x20C0C, 1), (rTick, 100)] { on with mem := listed 0x1000 [128, 63, 128, 191, 0, 64] ++ listed 0x4000 [1, 0, 5, 0, 0, 0, 0, 0, 0, 96, 0, 0, 1, 8, 0, 0, 0, 112, 0, 0, 1, 8, 0, 0, 2, 0, 0, 0, 0, 0, 0, 0, 0, 0, 0, 0, 0, 0, 0, 0, 0, 0, 0, 0, 0, 0, 0, 0, 0, 0, 0, 0, 0, 0, 0, 0, 0, 0, 0, 0, 0, 0, 0, 0, 8, 0, 1, 0, 95, 0, 0, 0, 0, 80, 0, 0, 1, 8, 0, 0, 0, 0, 0, 0, 0, 0, 0, 0, 0, 0, 0, 0, 0, 0, 0, 0, 0, 0, 0, 0, 0, 0, 0, 0, 0, 0, 0, 0, 0, 0, 0, 0, 0, 0, 0, 0, 0, 0, 0, 0, 0, 0, 0, 0, 0, 0, 0, 0, 0, 0, 0, 0, 0, 0, 0, 0, 0, 0, 0, 0, 0, 0, 0, 0, 0, 0, 0, 0, 0, 0, 0, 0, 0, 0, 0, 0, 0, 0, 0, 0, 0, 0, 0, 0, 0, 0, 0, 0, 0, 0, 0, 0, 0, 0, 0, 0, 0, 0, 0, 0, 0, 0, 0, 0, 0, 0, 0, 0, 0, 0, 0, 0, 1, 0, 32] ++ listed 0x5000 [1, 0, 2, 8, 0, 0, 0, 0, 0, 0, 0, 0, 0, 0, 0, 0, 0, 0, 0, 0, 0, 0, 0, 0, 0, 0, 0, 0, 0, 0, 0, 0, 0, 0, 0, 0, 0, 0, 0, 0, 0, 0, 0, 0, 0, 0, 0, 0, 0, 0, 0, 0, 0, 0, 0, 0, 0, 0, 0, 0, 0, 0, 0, 0, 0, 0, 0, 0, 0, 0, 0, 0, 0, 0, 0, 0, 0, 0, 0, 0, 0, 0, 0, 0, 0, 0, 0, 0, 0, 0, 0, 0, 0, 0, 0, 0, 0, 0, 0, 0, 0, 0, 0, 0, 0, 0, 0, 0, 0, 0, 0, 0, 0, 0, 0, 0, 0, 0, 0, 0, 0, 0, 0, 0, 0, 0, 0, 0, 0, 0, 0, 0, 0, 0, 0, 0, 0, 0, 0, 0, 0, 0, 0, 0, 0, 0, 0, 0, 0, 0, 0, 0, 0, 0, 0, 0, 0, 0, 0, 0, 0, 0, 0, 0, 0, 0, 0, 0, 0, 0, 0, 0, 0, 0, 0, 0, 0, 0, 0, 0, 0, 0, 0, 0, 0, 0, 0, 0, 0, 0, 0, 0, 0, 0, 0, 0, 0, 0, 0, 0, 0, 0, 0, 0, 0, 0, 0, 0, 0, 0, 0, 0, 0, 0, 0, 0, 0, 0, 0, 0, 0, 0, 0, 0, 0, 0, 0, 0, 0, 0, 0, 0, 0, 0, 0, 0, 0, 0, 0, 0, 0, 0, 0, 0, 0, 0, 0, 0, 0, 0, 0, 0, 0, 0, 0, 0, 0, 0, 0, 0, 0, 0, 0, 0, 0, 0, 0, 0, 0, 0, 0, 0, 0, 0, 0, 0, 0, 0, 0, 0, 0, 0, 0, 0, 0, 0, 0, 0, 0, 0, 0, 0, 0, 0, 0, 0, 0, 0, 0, 0, 0, 0, 0, 0, 0, 0, 0, 0, 0, 0, 0, 0, 0, 0, 0, 0, 0, 0, 0, 0, 25, 128, 0, 0, 1, 8] ++ listed 0x8000 [192, 127] }))
def attentionWritesRows2_d : Desc := ds [0x10005a4030030, 0x300000101001000, 0x2000000000000, 0x8000c00000a000, 0x100003f800000, 0x80100004000, 0x0, 0x6400000002]
def attentionWritesRows2_c : Chip := atHead [0x10005a4030030, 0x300000101001000, 0x2000000000000, 0x8000c00000a000, 0x100003f800000, 0x80100004000, 0x0, 0x6400000002] (chipOf [(0x20C0C, 1), (rTick, 100)] { on with mem := listed 0x1000 [128, 63, 128, 191, 0, 64] ++ listed 0x4000 [1, 0, 5, 0, 0, 0, 0, 0, 0, 96, 0, 0, 1, 8, 0, 0, 0, 112, 0, 0, 1, 8, 0, 0, 2, 0, 0, 0, 0, 0, 0, 0, 0, 0, 0, 0, 0, 0, 0, 0, 0, 0, 0, 0, 0, 0, 0, 0, 0, 0, 0, 0, 0, 0, 0, 0, 0, 0, 0, 0, 0, 0, 0, 0, 8, 0, 1, 0, 95, 0, 0, 0, 0, 80, 0, 0, 1, 8, 0, 0, 0, 0, 0, 0, 0, 0, 0, 0, 0, 0, 0, 0, 0, 0, 0, 0, 0, 0, 0, 0, 0, 0, 0, 0, 0, 0, 0, 0, 0, 0, 0, 0, 0, 0, 0, 0, 0, 0, 0, 0, 0, 0, 0, 0, 0, 0, 0, 0, 0, 0, 0, 0, 0, 0, 0, 0, 0, 0, 0, 0, 0, 0, 0, 0, 0, 0, 0, 0, 0, 0, 0, 0, 0, 0, 0, 0, 0, 0, 0, 0, 0, 0, 0, 0, 0, 0, 0, 0, 0, 0, 0, 0, 0, 0, 0, 0, 0, 0, 0, 0, 0, 0, 0, 0, 0, 0, 0, 0, 0, 0, 0, 0, 1, 0, 32] ++ listed 0x5000 [1, 0, 2, 8, 0, 0, 0, 0, 0, 0, 0, 0, 0, 0, 0, 0, 0, 0, 0, 0, 0, 0, 0, 0, 0, 0, 0, 0, 0, 0, 0, 0, 0, 0, 0, 0, 0, 0, 0, 0, 0, 0, 0, 0, 0, 0, 0, 0, 0, 0, 0, 0, 0, 0, 0, 0, 0, 0, 0, 0, 0, 0, 0, 0, 0, 0, 0, 0, 0, 0, 0, 0, 0, 0, 0, 0, 0, 0, 0, 0, 0, 0, 0, 0, 0, 0, 0, 0, 0, 0, 0, 0, 0, 0, 0, 0, 0, 0, 0, 0, 0, 0, 0, 0, 0, 0, 0, 0, 0, 0, 0, 0, 0, 0, 0, 0, 0, 0, 0, 0, 0, 0, 0, 0, 0, 0, 0, 0, 0, 0, 0, 0, 0, 0, 0, 0, 0, 0, 0, 0, 0, 0, 0, 0, 0, 0, 0, 0, 0, 0, 0, 0, 0, 0, 0, 0, 0, 0, 0, 0, 0, 0, 0, 0, 0, 0, 0, 0, 0, 0, 0, 0, 0, 0, 0, 0, 0, 0, 0, 0, 0, 0, 0, 0, 0, 0, 0, 0, 0, 0, 0, 0, 0, 0, 0, 0, 0, 0, 0, 0, 0, 0, 0, 0, 0, 0, 0, 0, 0, 0, 0, 0, 0, 0, 0, 0, 0, 0, 0, 0, 0, 0, 0, 0, 0, 0, 0, 0, 0, 0, 0, 0, 0, 0, 0, 0, 0, 0, 0, 0, 0, 0, 0, 0, 0, 0, 0, 0, 0, 0, 0, 0, 0, 0, 0, 0, 0, 0, 0, 0, 0, 0, 0, 0, 0, 0, 0, 0, 0, 0, 0, 0, 0, 0, 0, 0, 0, 0, 0, 0, 0, 0, 0, 0, 0, 0, 0, 0, 0, 0, 0, 0, 0, 0, 0, 0, 0, 0, 0, 0, 0, 0, 0, 0, 0, 0, 0, 0, 0, 0, 0, 0, 0, 0, 0, 0, 0, 0, 0, 0, 25, 128, 0, 0, 1, 8] ++ listed 0x8000 [192, 127] })
def attentionWritesRows2_c0 : Chip := launched (0 : Fin 32) (0 : Fin 16) ({} : Chain) attentionWritesRows2_d ([0] : List Nat) attentionWritesRows2_c
def attentionWritesRows2_a : Part := partOf attentionWritesRows2_d
def attentionWritesRows2_w : Walk := got (runEff (partWalk (headCtx (0 : Fin 32) (0 : Fin 16) ({} : Chain) : Ctx) attentionWritesRows2_d attentionWritesRows2_a) (bumpUnits attentionWritesRows2_c0 (rAttnCtr (0 : Fin 32).val 3) 256 (700 : Nat))).2 (by decide +kernel)
def attentionWritesRows2_c1 : Chip := (runEff (partWalk (headCtx (0 : Fin 32) (0 : Fin 16) ({} : Chain) : Ctx) attentionWritesRows2_d attentionWritesRows2_a) (bumpUnits attentionWritesRows2_c0 (rAttnCtr (0 : Fin 32).val 3) 256 (700 : Nat))).1
def attentionWritesRows2_c2 : Chip := (runEff (queryRows (headCtx (0 : Fin 32) (0 : Fin 16) ({} : Chain) : Ctx) attentionWritesRows2_d attentionWritesRows2_a) attentionWritesRows2_c1).1
def attentionWritesRows2_qs : List SRow := got (runEff (queryRows (headCtx (0 : Fin 32) (0 : Fin 16) ({} : Chain) : Ctx) attentionWritesRows2_d attentionWritesRows2_a) attentionWritesRows2_c1).2 (by decide +kernel)
def attentionWritesRows2_rows : List ARow := got (runEff (forwardRows (headCtx (0 : Fin 32) (0 : Fin 16) ({} : Chain) : Ctx) attentionWritesRows2_d attentionWritesRows2_a attentionWritesRows2_w attentionWritesRows2_qs) attentionWritesRows2_c2).2 (by decide +kernel)
def attentionWritesRows2_c3 : Chip := (runEff (forwardRows (headCtx (0 : Fin 32) (0 : Fin 16) ({} : Chain) : Ctx) attentionWritesRows2_d attentionWritesRows2_a attentionWritesRows2_w attentionWritesRows2_qs) attentionWritesRows2_c2).1
def attentionWritesRows2_out : List ARow := attentionWritesRows2_rows.map (fun y => if y.nan || y.m.isNan || y.l.isNan then { m := .nan, l := .nan, o := y.o.map (fun _ => .nan), nan := true } else y)
theorem wit_attentionWritesRows2 :
    (attentionWritesRows2_c0.ecc = [] ∧
    attentionWritesRows2_c0.residue = [] ∧
    rowOf attentionWritesRows2_d = some (.attn 0) ∧
    attentionWritesRows2_d.b 7 21 = false) ∧
    HeadReady attentionWritesRows2_s (0 : Fin 32) (0 : Fin 16) ({} : Chain) attentionWritesRows2_d ([0] : List Nat) attentionWritesRows2_c ∧
    runEff (partWalk (headCtx (0 : Fin 32) (0 : Fin 16) ({} : Chain) : Ctx) attentionWritesRows2_d attentionWritesRows2_a) (bumpUnits attentionWritesRows2_c0 (rAttnCtr (0 : Fin 32).val 3) 256 (700 : Nat)) = (attentionWritesRows2_c1, .ok attentionWritesRows2_w) ∧
    runEff (queryRows (headCtx (0 : Fin 32) (0 : Fin 16) ({} : Chain) : Ctx) attentionWritesRows2_d attentionWritesRows2_a) attentionWritesRows2_c1 = (attentionWritesRows2_c2, .ok attentionWritesRows2_qs) ∧
    runEff (forwardRows (headCtx (0 : Fin 32) (0 : Fin 16) ({} : Chain) : Ctx) attentionWritesRows2_d attentionWritesRows2_a attentionWritesRows2_w attentionWritesRows2_qs) attentionWritesRows2_c2 = (attentionWritesRows2_c3, .ok attentionWritesRows2_rows) ∧
    Steady attentionWritesRows2_c0 attentionWritesRows2_c3 :=
  ⟨by decide +kernel, headReady_of (by decide +kernel), by delta attentionWritesRows2_c1 attentionWritesRows2_w; exact ran _ _, by delta attentionWritesRows2_c2 attentionWritesRows2_qs; exact ran _ _, by delta attentionWritesRows2_c3 attentionWritesRows2_rows; exact ran _ _, by unfold Steady; decide +kernel⟩

def attentionWritesRows3_s : State := st (atHead [0x10005a4030030, 0x300000101001000, 0x2000000000000, 0x8000c00000a000, 0x100003f800000, 0x80100004000, 0x0, 0x6400200002] (chipOf [(0x20C0C, 1), (rTick, 100)] { on with mem := listed 0x1000 [128, 63, 128, 191, 0, 64] ++ listed 0x4000 [1, 0, 5, 0, 0, 0, 0, 0, 0, 96, 0, 0, 1, 8, 0, 0, 0, 112, 0, 0, 1, 8, 0, 0, 2, 0, 0, 0, 0, 0, 0, 0, 0, 0, 0, 0, 0, 0, 0, 0, 0, 0, 0, 0, 0, 0, 0, 0, 0, 0, 0, 0, 0, 0, 0, 0, 0, 0, 0, 0, 0, 0, 0, 0, 8, 0, 1, 0, 95, 0, 0, 0, 0, 80, 0, 0, 1, 8, 0, 0, 0, 0, 0, 0, 0, 0, 0, 0, 0, 0, 0, 0, 0, 0, 0, 0, 0, 0, 0, 0, 0, 0, 0, 0, 0, 0, 0, 0, 0, 0, 0, 0, 0, 0, 0, 0, 0, 0, 0, 0, 0, 0, 0, 0, 0, 0, 0, 0, 0, 0, 0, 0, 0, 0, 0, 0, 0, 0, 0, 0, 0, 0, 0, 0, 0, 0, 0, 0, 0, 0, 0, 0, 0, 0, 0, 0, 0, 0, 0, 0, 0, 0, 0, 0, 0, 0, 0, 0, 0, 0, 0, 0, 0, 0, 0, 0, 0, 0, 0, 0, 0, 0, 0, 0, 0, 0, 0, 0, 0, 0, 0, 0, 1, 0, 32] ++ listed 0x5000 [1, 0, 2, 8, 0, 0, 0, 0, 0, 0, 0, 0, 0, 0, 0, 0, 0, 0, 0, 0, 0, 0, 0, 0, 0, 0, 0, 0, 0, 0, 0, 0, 0, 0, 0, 0, 0, 0, 0, 0, 0, 0, 0, 0, 0, 0, 0, 0, 0, 0, 0, 0, 0, 0, 0, 0, 0, 0, 0, 0, 0, 0, 0, 0, 0, 0, 0, 0, 0, 0, 0, 0, 0, 0, 0, 0, 0, 0, 0, 0, 0, 0, 0, 0, 0, 0, 0, 0, 0, 0, 0, 0, 0, 0, 0, 0, 0, 0, 0, 0, 0, 0, 0, 0, 0, 0, 0, 0, 0, 0, 0, 0, 0, 0, 0, 0, 0, 0, 0, 0, 0, 0, 0, 0, 0, 0, 0, 0, 0, 0, 0, 0, 0, 0, 0, 0, 0, 0, 0, 0, 0, 0, 0, 0, 0, 0, 0, 0, 0, 0, 0, 0, 0, 0, 0, 0, 0, 0, 0, 0, 0, 0, 0, 0, 0, 0, 0, 0, 0, 0, 0, 0, 0, 0, 0, 0, 0, 0, 0, 0, 0, 0, 0, 0, 0, 0, 0, 0, 0, 0, 0, 0, 0, 0, 0, 0, 0, 0, 0, 0, 0, 0, 0, 0, 0, 0, 0, 0, 0, 0, 0, 0, 0, 0, 0, 0, 0, 0, 0, 0, 0, 0, 0, 0, 0, 0, 0, 0, 0, 0, 0, 0, 0, 0, 0, 0, 0, 0, 0, 0, 0, 0, 0, 0, 0, 0, 0, 0, 0, 0, 0, 0, 0, 0, 0, 0, 0, 0, 0, 0, 0, 0, 0, 0, 0, 0, 0, 0, 0, 0, 0, 0, 0, 0, 0, 0, 0, 0, 0, 0, 0, 0, 0, 0, 0, 0, 0, 0, 0, 0, 0, 0, 0, 0, 0, 0, 0, 0, 0, 0, 0, 0, 0, 0, 0, 0, 0, 0, 0, 0, 0, 0, 0, 0, 0, 0, 0, 0, 0, 0, 25, 128, 0, 0, 1, 8] ++ listed 0x8000 [192, 127] }))
def attentionWritesRows3_d : Desc := ds [0x10005a4030030, 0x300000101001000, 0x2000000000000, 0x8000c00000a000, 0x100003f800000, 0x80100004000, 0x0, 0x6400200002]
def attentionWritesRows3_c : Chip := atHead [0x10005a4030030, 0x300000101001000, 0x2000000000000, 0x8000c00000a000, 0x100003f800000, 0x80100004000, 0x0, 0x6400200002] (chipOf [(0x20C0C, 1), (rTick, 100)] { on with mem := listed 0x1000 [128, 63, 128, 191, 0, 64] ++ listed 0x4000 [1, 0, 5, 0, 0, 0, 0, 0, 0, 96, 0, 0, 1, 8, 0, 0, 0, 112, 0, 0, 1, 8, 0, 0, 2, 0, 0, 0, 0, 0, 0, 0, 0, 0, 0, 0, 0, 0, 0, 0, 0, 0, 0, 0, 0, 0, 0, 0, 0, 0, 0, 0, 0, 0, 0, 0, 0, 0, 0, 0, 0, 0, 0, 0, 8, 0, 1, 0, 95, 0, 0, 0, 0, 80, 0, 0, 1, 8, 0, 0, 0, 0, 0, 0, 0, 0, 0, 0, 0, 0, 0, 0, 0, 0, 0, 0, 0, 0, 0, 0, 0, 0, 0, 0, 0, 0, 0, 0, 0, 0, 0, 0, 0, 0, 0, 0, 0, 0, 0, 0, 0, 0, 0, 0, 0, 0, 0, 0, 0, 0, 0, 0, 0, 0, 0, 0, 0, 0, 0, 0, 0, 0, 0, 0, 0, 0, 0, 0, 0, 0, 0, 0, 0, 0, 0, 0, 0, 0, 0, 0, 0, 0, 0, 0, 0, 0, 0, 0, 0, 0, 0, 0, 0, 0, 0, 0, 0, 0, 0, 0, 0, 0, 0, 0, 0, 0, 0, 0, 0, 0, 0, 0, 1, 0, 32] ++ listed 0x5000 [1, 0, 2, 8, 0, 0, 0, 0, 0, 0, 0, 0, 0, 0, 0, 0, 0, 0, 0, 0, 0, 0, 0, 0, 0, 0, 0, 0, 0, 0, 0, 0, 0, 0, 0, 0, 0, 0, 0, 0, 0, 0, 0, 0, 0, 0, 0, 0, 0, 0, 0, 0, 0, 0, 0, 0, 0, 0, 0, 0, 0, 0, 0, 0, 0, 0, 0, 0, 0, 0, 0, 0, 0, 0, 0, 0, 0, 0, 0, 0, 0, 0, 0, 0, 0, 0, 0, 0, 0, 0, 0, 0, 0, 0, 0, 0, 0, 0, 0, 0, 0, 0, 0, 0, 0, 0, 0, 0, 0, 0, 0, 0, 0, 0, 0, 0, 0, 0, 0, 0, 0, 0, 0, 0, 0, 0, 0, 0, 0, 0, 0, 0, 0, 0, 0, 0, 0, 0, 0, 0, 0, 0, 0, 0, 0, 0, 0, 0, 0, 0, 0, 0, 0, 0, 0, 0, 0, 0, 0, 0, 0, 0, 0, 0, 0, 0, 0, 0, 0, 0, 0, 0, 0, 0, 0, 0, 0, 0, 0, 0, 0, 0, 0, 0, 0, 0, 0, 0, 0, 0, 0, 0, 0, 0, 0, 0, 0, 0, 0, 0, 0, 0, 0, 0, 0, 0, 0, 0, 0, 0, 0, 0, 0, 0, 0, 0, 0, 0, 0, 0, 0, 0, 0, 0, 0, 0, 0, 0, 0, 0, 0, 0, 0, 0, 0, 0, 0, 0, 0, 0, 0, 0, 0, 0, 0, 0, 0, 0, 0, 0, 0, 0, 0, 0, 0, 0, 0, 0, 0, 0, 0, 0, 0, 0, 0, 0, 0, 0, 0, 0, 0, 0, 0, 0, 0, 0, 0, 0, 0, 0, 0, 0, 0, 0, 0, 0, 0, 0, 0, 0, 0, 0, 0, 0, 0, 0, 0, 0, 0, 0, 0, 0, 0, 0, 0, 0, 0, 0, 0, 0, 0, 0, 0, 0, 0, 0, 0, 0, 0, 0, 25, 128, 0, 0, 1, 8] ++ listed 0x8000 [192, 127] })
def attentionWritesRows3_c0 : Chip := launched (0 : Fin 32) (0 : Fin 16) ({} : Chain) attentionWritesRows3_d ([0] : List Nat) attentionWritesRows3_c
def attentionWritesRows3_a : Part := partOf attentionWritesRows3_d
def attentionWritesRows3_w : Walk := got (runEff (partWalk (headCtx (0 : Fin 32) (0 : Fin 16) ({} : Chain) : Ctx) attentionWritesRows3_d attentionWritesRows3_a) (bumpUnits attentionWritesRows3_c0 (rAttnCtr (0 : Fin 32).val 3) 256 (700 : Nat))).2 (by decide +kernel)
def attentionWritesRows3_c1 : Chip := (runEff (partWalk (headCtx (0 : Fin 32) (0 : Fin 16) ({} : Chain) : Ctx) attentionWritesRows3_d attentionWritesRows3_a) (bumpUnits attentionWritesRows3_c0 (rAttnCtr (0 : Fin 32).val 3) 256 (700 : Nat))).1
def attentionWritesRows3_c2 : Chip := (runEff (queryRows (headCtx (0 : Fin 32) (0 : Fin 16) ({} : Chain) : Ctx) attentionWritesRows3_d attentionWritesRows3_a) attentionWritesRows3_c1).1
def attentionWritesRows3_qs : List SRow := got (runEff (queryRows (headCtx (0 : Fin 32) (0 : Fin 16) ({} : Chain) : Ctx) attentionWritesRows3_d attentionWritesRows3_a) attentionWritesRows3_c1).2 (by decide +kernel)
def attentionWritesRows3_rows : List ARow := got (runEff (forwardRows (headCtx (0 : Fin 32) (0 : Fin 16) ({} : Chain) : Ctx) attentionWritesRows3_d attentionWritesRows3_a attentionWritesRows3_w attentionWritesRows3_qs) attentionWritesRows3_c2).2 (by decide +kernel)
def attentionWritesRows3_c3 : Chip := (runEff (forwardRows (headCtx (0 : Fin 32) (0 : Fin 16) ({} : Chain) : Ctx) attentionWritesRows3_d attentionWritesRows3_a attentionWritesRows3_w attentionWritesRows3_qs) attentionWritesRows3_c2).1
def attentionWritesRows3_out : List ARow := attentionWritesRows3_rows.map (fun y => combine (ARow.start attentionWritesRows3_a.width) { y with nan := y.nan || y.m.isNan || y.l.isNan || y.o.any Val.isNan })
theorem wit_attentionWritesRows3 :
    (attentionWritesRows3_c0.ecc = [] ∧
    attentionWritesRows3_c0.residue = [] ∧
    rowOf attentionWritesRows3_d = some (.attn 0) ∧
    attentionWritesRows3_d.b 7 21 = true ∧
    fmtOf attentionWritesRows3_d.outFmt = some .fp32) ∧
    HeadReady attentionWritesRows3_s (0 : Fin 32) (0 : Fin 16) ({} : Chain) attentionWritesRows3_d ([0] : List Nat) attentionWritesRows3_c ∧
    runEff (partWalk (headCtx (0 : Fin 32) (0 : Fin 16) ({} : Chain) : Ctx) attentionWritesRows3_d attentionWritesRows3_a) (bumpUnits attentionWritesRows3_c0 (rAttnCtr (0 : Fin 32).val 3) 256 (700 : Nat)) = (attentionWritesRows3_c1, .ok attentionWritesRows3_w) ∧
    runEff (queryRows (headCtx (0 : Fin 32) (0 : Fin 16) ({} : Chain) : Ctx) attentionWritesRows3_d attentionWritesRows3_a) attentionWritesRows3_c1 = (attentionWritesRows3_c2, .ok attentionWritesRows3_qs) ∧
    runEff (forwardRows (headCtx (0 : Fin 32) (0 : Fin 16) ({} : Chain) : Ctx) attentionWritesRows3_d attentionWritesRows3_a attentionWritesRows3_w attentionWritesRows3_qs) attentionWritesRows3_c2 = (attentionWritesRows3_c3, .ok attentionWritesRows3_rows) ∧
    Steady attentionWritesRows3_c0 attentionWritesRows3_c3 :=
  ⟨by decide +kernel, headReady_of (by decide +kernel), by delta attentionWritesRows3_c1 attentionWritesRows3_w; exact ran _ _, by delta attentionWritesRows3_c2 attentionWritesRows3_qs; exact ran _ _, by delta attentionWritesRows3_c3 attentionWritesRows3_rows; exact ran _ _, by unfold Steady; decide +kernel⟩

def attentionWritesRows4_s : State := st (atHead [0x10005a4030030, 0x300000101001000, 0x2000000000000, 0x8100c00000a000, 0x100003f800000, 0x80100004000, 0x0, 0x6400000002] (chipOf [(0x20C0C, 1), (rTick, 100)] { on with mem := listed 0x1000 [128, 63, 128, 191, 0, 64] ++ listed 0x4000 [1, 0, 5, 0, 0, 0, 0, 0, 0, 96, 0, 0, 1, 8, 0, 0, 0, 112, 0, 0, 1, 8, 0, 0, 2, 0, 0, 0, 0, 0, 0, 0, 0, 0, 0, 0, 0, 0, 0, 0, 0, 0, 0, 0, 0, 0, 0, 0, 0, 0, 0, 0, 0, 0, 0, 0, 0, 0, 0, 0, 0, 0, 0, 0, 8, 0, 1, 0, 95, 0, 0, 0, 0, 80, 0, 0, 1, 8, 0, 0, 0, 0, 0, 0, 0, 0, 0, 0, 0, 0, 0, 0, 0, 0, 0, 0, 0, 0, 0, 0, 0, 0, 0, 0, 0, 0, 0, 0, 0, 0, 0, 0, 0, 0, 0, 0, 0, 0, 0, 0, 0, 0, 0, 0, 0, 0, 0, 0, 0, 0, 0, 0, 0, 0, 0, 0, 0, 0, 0, 0, 0, 0, 0, 0, 0, 0, 0, 0, 0, 0, 0, 0, 0, 0, 0, 0, 0, 0, 0, 0, 0, 0, 0, 0, 0, 0, 0, 0, 0, 0, 0, 0, 0, 0, 0, 0, 0, 0, 0, 0, 0, 0, 0, 0, 0, 0, 0, 0, 0, 0, 0, 0, 1, 0, 32] ++ listed 0x5000 [1, 0, 2, 8, 0, 0, 0, 0, 0, 0, 0, 0, 0, 0, 0, 0, 0, 0, 0, 0, 0, 0, 0, 0, 0, 0, 0, 0, 0, 0, 0, 0, 0, 0, 0, 0, 0, 0, 0, 0, 0, 0, 0, 0, 0, 0, 0, 0, 0, 0, 0, 0, 0, 0, 0, 0, 0, 0, 0, 0, 0, 0, 0, 0, 0, 0, 0, 0, 0, 0, 0, 0, 0, 0, 0, 0, 0, 0, 0, 0, 0, 0, 0, 0, 0, 0, 0, 0, 0, 0, 0, 0, 0, 0, 0, 0, 0, 0, 0, 0, 0, 0, 0, 0, 0, 0, 0, 0, 0, 0, 0, 0, 0, 0, 0, 0, 0, 0, 0, 0, 0, 0, 0, 0, 0, 0, 0, 0, 0, 0, 0, 0, 0, 0, 0, 0, 0, 0, 0, 0, 0, 0, 0, 0, 0, 0, 0, 0, 0, 0, 0, 0, 0, 0, 0, 0, 0, 0, 0, 0, 0, 0, 0, 0, 0, 0, 0, 0, 0, 0, 0, 0, 0, 0, 0, 0, 0, 0, 0, 0, 0, 0, 0, 0, 0, 0, 0, 0, 0, 0, 0, 0, 0, 0, 0, 0, 0, 0, 0, 0, 0, 0, 0, 0, 0, 0, 0, 0, 0, 0, 0, 0, 0, 0, 0, 0, 0, 0, 0, 0, 0, 0, 0, 0, 0, 0, 0, 0, 0, 0, 0, 0, 0, 0, 0, 0, 0, 0, 0, 0, 0, 0, 0, 0, 0, 0, 0, 0, 0, 0, 0, 0, 0, 0, 0, 0, 0, 0, 0, 0, 0, 0, 0, 0, 0, 0, 0, 0, 0, 0, 0, 0, 0, 0, 0, 0, 0, 0, 0, 0, 0, 0, 0, 0, 0, 0, 0, 0, 0, 0, 0, 0, 0, 0, 0, 0, 0, 0, 0, 0, 0, 0, 0, 0, 0, 0, 0, 0, 0, 0, 0, 0, 0, 0, 0, 0, 0, 0, 0, 0, 25, 128, 0, 0, 1, 8] ++ listed 0x8000 [128, 63, 0, 64] ++ listed 0xc000 [0, 0, 0, 63, 0, 0, 0, 64, 0, 0, 128, 62, 0, 0, 0, 0, 0, 0, 0, 0, 0, 0, 0, 0, 0, 0, 0, 0, 0, 0, 0, 0, 0, 0, 0, 0, 0, 0, 0, 0, 0, 0, 0, 0, 0, 0, 0, 0, 0, 0, 0, 0, 0, 0, 0, 0, 0, 0, 0, 0, 0, 0, 0, 0, 0, 0, 128, 63, 0, 0, 0, 64, 0, 0, 64, 64] }))
def attentionWritesRows4_d : Desc := ds [0x10005a4030030, 0x300000101001000, 0x2000000000000, 0x8100c00000a000, 0x100003f800000, 0x80100004000, 0x0, 0x6400000002]
def attentionWritesRows4_c : Chip := atHead [0x10005a4030030, 0x300000101001000, 0x2000000000000, 0x8100c00000a000, 0x100003f800000, 0x80100004000, 0x0, 0x6400000002] (chipOf [(0x20C0C, 1), (rTick, 100)] { on with mem := listed 0x1000 [128, 63, 128, 191, 0, 64] ++ listed 0x4000 [1, 0, 5, 0, 0, 0, 0, 0, 0, 96, 0, 0, 1, 8, 0, 0, 0, 112, 0, 0, 1, 8, 0, 0, 2, 0, 0, 0, 0, 0, 0, 0, 0, 0, 0, 0, 0, 0, 0, 0, 0, 0, 0, 0, 0, 0, 0, 0, 0, 0, 0, 0, 0, 0, 0, 0, 0, 0, 0, 0, 0, 0, 0, 0, 8, 0, 1, 0, 95, 0, 0, 0, 0, 80, 0, 0, 1, 8, 0, 0, 0, 0, 0, 0, 0, 0, 0, 0, 0, 0, 0, 0, 0, 0, 0, 0, 0, 0, 0, 0, 0, 0, 0, 0, 0, 0, 0, 0, 0, 0, 0, 0, 0, 0, 0, 0, 0, 0, 0, 0, 0, 0, 0, 0, 0, 0, 0, 0, 0, 0, 0, 0, 0, 0, 0, 0, 0, 0, 0, 0, 0, 0, 0, 0, 0, 0, 0, 0, 0, 0, 0, 0, 0, 0, 0, 0, 0, 0, 0, 0, 0, 0, 0, 0, 0, 0, 0, 0, 0, 0, 0, 0, 0, 0, 0, 0, 0, 0, 0, 0, 0, 0, 0, 0, 0, 0, 0, 0, 0, 0, 0, 0, 1, 0, 32] ++ listed 0x5000 [1, 0, 2, 8, 0, 0, 0, 0, 0, 0, 0, 0, 0, 0, 0, 0, 0, 0, 0, 0, 0, 0, 0, 0, 0, 0, 0, 0, 0, 0, 0, 0, 0, 0, 0, 0, 0, 0, 0, 0, 0, 0, 0, 0, 0, 0, 0, 0, 0, 0, 0, 0, 0, 0, 0, 0, 0, 0, 0, 0, 0, 0, 0, 0, 0, 0, 0, 0, 0, 0, 0, 0, 0, 0, 0, 0, 0, 0, 0, 0, 0, 0, 0, 0, 0, 0, 0, 0, 0, 0, 0, 0, 0, 0, 0, 0, 0, 0, 0, 0, 0, 0, 0, 0, 0, 0, 0, 0, 0, 0, 0, 0, 0, 0, 0, 0, 0, 0, 0, 0, 0, 0, 0, 0, 0, 0, 0, 0, 0, 0, 0, 0, 0, 0, 0, 0, 0, 0, 0, 0, 0, 0, 0, 0, 0, 0, 0, 0, 0, 0, 0, 0, 0, 0, 0, 0, 0, 0, 0, 0, 0, 0, 0, 0, 0, 0, 0, 0, 0, 0, 0, 0, 0, 0, 0, 0, 0, 0, 0, 0, 0, 0, 0, 0, 0, 0, 0, 0, 0, 0, 0, 0, 0, 0, 0, 0, 0, 0, 0, 0, 0, 0, 0, 0, 0, 0, 0, 0, 0, 0, 0, 0, 0, 0, 0, 0, 0, 0, 0, 0, 0, 0, 0, 0, 0, 0, 0, 0, 0, 0, 0, 0, 0, 0, 0, 0, 0, 0, 0, 0, 0, 0, 0, 0, 0, 0, 0, 0, 0, 0, 0, 0, 0, 0, 0, 0, 0, 0, 0, 0, 0, 0, 0, 0, 0, 0, 0, 0, 0, 0, 0, 0, 0, 0, 0, 0, 0, 0, 0, 0, 0, 0, 0, 0, 0, 0, 0, 0, 0, 0, 0, 0, 0, 0, 0, 0, 0, 0, 0, 0, 0, 0, 0, 0, 0, 0, 0, 0, 0, 0, 0, 0, 0, 0, 0, 0, 0, 0, 0, 0, 25, 128, 0, 0, 1, 8] ++ listed 0x8000 [128, 63, 0, 64] ++ listed 0xc000 [0, 0, 0, 63, 0, 0, 0, 64, 0, 0, 128, 62, 0, 0, 0, 0, 0, 0, 0, 0, 0, 0, 0, 0, 0, 0, 0, 0, 0, 0, 0, 0, 0, 0, 0, 0, 0, 0, 0, 0, 0, 0, 0, 0, 0, 0, 0, 0, 0, 0, 0, 0, 0, 0, 0, 0, 0, 0, 0, 0, 0, 0, 0, 0, 0, 0, 128, 63, 0, 0, 0, 64, 0, 0, 64, 64] })
def attentionWritesRows4_c0 : Chip := launched (0 : Fin 32) (0 : Fin 16) ({} : Chain) attentionWritesRows4_d ([0] : List Nat) attentionWritesRows4_c
def attentionWritesRows4_a : Part := partOf attentionWritesRows4_d
def attentionWritesRows4_w : Walk := got (runEff (partWalk (headCtx (0 : Fin 32) (0 : Fin 16) ({} : Chain) : Ctx) attentionWritesRows4_d attentionWritesRows4_a) (bumpUnits attentionWritesRows4_c0 (rAttnCtr (0 : Fin 32).val 3) 256 (700 : Nat))).2 (by decide +kernel)
def attentionWritesRows4_c1 : Chip := (runEff (partWalk (headCtx (0 : Fin 32) (0 : Fin 16) ({} : Chain) : Ctx) attentionWritesRows4_d attentionWritesRows4_a) (bumpUnits attentionWritesRows4_c0 (rAttnCtr (0 : Fin 32).val 3) 256 (700 : Nat))).1
def attentionWritesRows4_c2 : Chip := (runEff (queryRows (headCtx (0 : Fin 32) (0 : Fin 16) ({} : Chain) : Ctx) attentionWritesRows4_d attentionWritesRows4_a) attentionWritesRows4_c1).1
def attentionWritesRows4_c3 : Chip := (runEff (readPages (headCtx (0 : Fin 32) (0 : Fin 16) ({} : Chain) : Ctx) attentionWritesRows4_d attentionWritesRows4_a attentionWritesRows4_w none (span attentionWritesRows4_a.first attentionWritesRows4_a.count)) attentionWritesRows4_c2).1
def attentionWritesRows4_qs : List SRow := got (runEff (queryRows (headCtx (0 : Fin 32) (0 : Fin 16) ({} : Chain) : Ctx) attentionWritesRows4_d attentionWritesRows4_a) attentionWritesRows4_c1).2 (by decide +kernel)
def attentionWritesRows4_fmt : Option Nat := (got (runEff (readPages (headCtx (0 : Fin 32) (0 : Fin 16) ({} : Chain) : Ctx) attentionWritesRows4_d attentionWritesRows4_a attentionWritesRows4_w none (span attentionWritesRows4_a.first attentionWritesRows4_a.count)) attentionWritesRows4_c2).2 (by decide +kernel)).1
def attentionWritesRows4_toks : List Tok := (got (runEff (readPages (headCtx (0 : Fin 32) (0 : Fin 16) ({} : Chain) : Ctx) attentionWritesRows4_d attentionWritesRows4_a attentionWritesRows4_w none (span attentionWritesRows4_a.first attentionWritesRows4_a.count)) attentionWritesRows4_c2).2 (by decide +kernel)).2
theorem wit_attentionWritesRows4 :
    (attentionWritesRows4_c0.ecc = [] ∧
    attentionWritesRows4_c0.residue = [] ∧
    rowOf attentionWritesRows4_d = some (.attn (1 : Nat)) ∧
    attentionWritesRows4_d.f 3 48 2 = (1 : Nat)) ∧
    HeadReady attentionWritesRows4_s (0 : Fin 32) (0 : Fin 16) ({} : Chain) attentionWritesRows4_d ([0] : List Nat) attentionWritesRows4_c ∧
    ((((.attnBackwardP (0 : Fin 32) (0 : Fin 16) (700 : Nat) : Instr), (1 : Nat)) = (.attnBackwardP (0 : Fin 32) (0 : Fin 16) (700 : Nat), 1) ∧ (fun p _ _ => p : Val → Val → Val → Val) = fun p _ _ => p) ∨ (((.attnBackwardP (0 : Fin 32) (0 : Fin 16) (700 : Nat) : Instr), (1 : Nat)) = (.attnBackwardDs (0 : Fin 32) (0 : Fin 16) (700 : Nat), 2) ∧ (fun p _ _ => p : Val → Val → Val → Val) = fun p dp e => fMul p (fAdd dp e.neg))) ∧
    runEff (partWalk (headCtx (0 : Fin 32) (0 : Fin 16) ({} : Chain) : Ctx) attentionWritesRows4_d attentionWritesRows4_a) (bumpUnits attentionWritesRows4_c0 (rAttnCtr (0 : Fin 32).val 3) 256 (700 : Nat)) = (attentionWritesRows4_c1, .ok attentionWritesRows4_w) ∧
    runEff (queryRows (headCtx (0 : Fin 32) (0 : Fin 16) ({} : Chain) : Ctx) attentionWritesRows4_d attentionWritesRows4_a) attentionWritesRows4_c1 = (attentionWritesRows4_c2, .ok attentionWritesRows4_qs) ∧
    runEff (readPages (headCtx (0 : Fin 32) (0 : Fin 16) ({} : Chain) : Ctx) attentionWritesRows4_d attentionWritesRows4_a attentionWritesRows4_w none (span attentionWritesRows4_a.first attentionWritesRows4_a.count)) attentionWritesRows4_c2 = (attentionWritesRows4_c3, .ok (attentionWritesRows4_fmt, attentionWritesRows4_toks)) ∧
    Steady attentionWritesRows4_c0 attentionWritesRows4_c3 :=
  ⟨by decide +kernel, headReady_of (by decide +kernel), .inl ⟨rfl, rfl⟩, by delta attentionWritesRows4_c1 attentionWritesRows4_w; exact ran _ _, by delta attentionWritesRows4_c2 attentionWritesRows4_qs; exact ran _ _, by delta attentionWritesRows4_c3 attentionWritesRows4_fmt attentionWritesRows4_toks; exact ran2 _ _, by unfold Steady; decide +kernel⟩

def attentionWritesRows5_s : State := st (atHead [0x10005a4330032, 0x1010000001000, 0x3000002000, 0xc00c00000a000, 0x3f800000] ({ on with mem := listed 0x1000 [128, 63, 0, 64] ++ listed 0x2000 [192, 127] ++ listed 0x3000 [64, 64, 128, 64, 160, 64] }))
def attentionWritesRows5_d : Desc := ds [0x10005a4330032, 0x1010000001000, 0x3000002000, 0xc00c00000a000, 0x3f800000]
def attentionWritesRows5_c : Chip := atHead [0x10005a4330032, 0x1010000001000, 0x3000002000, 0xc00c00000a000, 0x3f800000] ({ on with mem := listed 0x1000 [128, 63, 0, 64] ++ listed 0x2000 [192, 127] ++ listed 0x3000 [64, 64, 128, 64, 160, 64] })
def attentionWritesRows5_c0 : Chip := launched (0 : Fin 32) (0 : Fin 16) ({} : Chain) attentionWritesRows5_d ([0] : List Nat) attentionWritesRows5_c
def attentionWritesRows5_q : SRow := got (runEff (tensorRow (headCtx (0 : Fin 32) (0 : Fin 16) ({} : Chain) : Ctx) (0x21 + (myJets attentionWritesRows5_c0 (headCtx (0 : Fin 32) (0 : Fin 16) ({} : Chain) : Ctx)).headD 0 : Nat) (fmtGet attentionWritesRows5_d.aFmt : Fmt) (attentionWritesRows5_d.f 1 0 23) 1 (attentionWritesRows5_d.f 1 24 16) (hdimOf (attentionWritesRows5_d.f 3 48 2) : Nat) 0) attentionWritesRows5_c0).2 (by decide +kernel)
def attentionWritesRows5_kr : SRow := got (runEff (tensorRow (headCtx (0 : Fin 32) (0 : Fin 16) ({} : Chain) : Ctx) (0x21 + (myJets attentionWritesRows5_c0 (headCtx (0 : Fin 32) (0 : Fin 16) ({} : Chain) : Ctx)).headD 0 : Nat) (fmtGet attentionWritesRows5_d.wFmt : Fmt) (attentionWritesRows5_d.f 2 0 23) 1 (attentionWritesRows5_d.f 1 24 16) (hdimOf (attentionWritesRows5_d.f 3 48 2) : Nat) 0) attentionWritesRows5_c0).2 (by decide +kernel)
def attentionWritesRows5_v : SRow := got (runEff (tensorRow (headCtx (0 : Fin 32) (0 : Fin 16) ({} : Chain) : Ctx) (0x21 + (myJets attentionWritesRows5_c0 (headCtx (0 : Fin 32) (0 : Fin 16) ({} : Chain) : Ctx)).headD 0 : Nat) (fmtGet attentionWritesRows5_d.wFmt : Fmt) (attentionWritesRows5_d.f 2 24 23) 1 (attentionWritesRows5_d.f 1 24 16) (hdimOf (attentionWritesRows5_d.f 3 48 2) : Nat) 0) attentionWritesRows5_c0).2 (by decide +kernel)
def attentionWritesRows5_o : List Val := got (runEff (windowRow (headCtx (0 : Fin 32) (0 : Fin 16) ({} : Chain) : Ctx) (fmtGet (attentionWritesRows5_d.f 3 50 4) : Fmt) (fmtGet attentionWritesRows5_d.aFmt : Fmt) (fmtGet attentionWritesRows5_d.wFmt : Fmt) (valOf .fp32 (attentionWritesRows5_d.f 4 0 32)) attentionWritesRows5_q [(true, attentionWritesRows5_kr)] [attentionWritesRows5_v.vals (fmtGet attentionWritesRows5_d.wFmt : Fmt)] (hdimOf (attentionWritesRows5_d.f 3 48 2) : Nat)) attentionWritesRows5_c0).2 (by decide +kernel)
def attentionWritesRows5_c1 : Chip := (runEff (windowRow (headCtx (0 : Fin 32) (0 : Fin 16) ({} : Chain) : Ctx) (fmtGet (attentionWritesRows5_d.f 3 50 4) : Fmt) (fmtGet attentionWritesRows5_d.aFmt : Fmt) (fmtGet attentionWritesRows5_d.wFmt : Fmt) (valOf .fp32 (attentionWritesRows5_d.f 4 0 32)) attentionWritesRows5_q [(true, attentionWritesRows5_kr)] [attentionWritesRows5_v.vals (fmtGet attentionWritesRows5_d.wFmt : Fmt)] (hdimOf (attentionWritesRows5_d.f 3 48 2) : Nat)) attentionWritesRows5_c0).1
theorem wit_attentionWritesRows5 :
    (attentionWritesRows5_c0.ecc = [] ∧
    attentionWritesRows5_c0.residue = [] ∧
    rowOf attentionWritesRows5_d = some .window ∧
    fmtOf attentionWritesRows5_d.outFmt = some .fp32 ∧
    attentionWritesRows5_d.f 1 40 7 = 1 ∧
    attentionWritesRows5_d.f 1 48 12 = 1 ∧
    runEff (tensorRow (headCtx (0 : Fin 32) (0 : Fin 16) ({} : Chain) : Ctx) (0x21 + (myJets attentionWritesRows5_c0 (headCtx (0 : Fin 32) (0 : Fin 16) ({} : Chain) : Ctx)).headD 0 : Nat) (fmtGet attentionWritesRows5_d.wFmt : Fmt) (attentionWritesRows5_d.f 2 0 23) 1 (attentionWritesRows5_d.f 1 24 16) (hdimOf (attentionWritesRows5_d.f 3 48 2) : Nat) 0) attentionWritesRows5_c0 = (attentionWritesRows5_c0, .ok attentionWritesRows5_kr) ∧
    runEff (tensorRow (headCtx (0 : Fin 32) (0 : Fin 16) ({} : Chain) : Ctx) (0x21 + (myJets attentionWritesRows5_c0 (headCtx (0 : Fin 32) (0 : Fin 16) ({} : Chain) : Ctx)).headD 0 : Nat) (fmtGet attentionWritesRows5_d.wFmt : Fmt) (attentionWritesRows5_d.f 2 24 23) 1 (attentionWritesRows5_d.f 1 24 16) (hdimOf (attentionWritesRows5_d.f 3 48 2) : Nat) 0) attentionWritesRows5_c0 = (attentionWritesRows5_c0, .ok attentionWritesRows5_v) ∧
    runEff (tensorRow (headCtx (0 : Fin 32) (0 : Fin 16) ({} : Chain) : Ctx) (0x21 + (myJets attentionWritesRows5_c0 (headCtx (0 : Fin 32) (0 : Fin 16) ({} : Chain) : Ctx)).headD 0 : Nat) (fmtGet attentionWritesRows5_d.aFmt : Fmt) (attentionWritesRows5_d.f 1 0 23) 1 (attentionWritesRows5_d.f 1 24 16) (hdimOf (attentionWritesRows5_d.f 3 48 2) : Nat) 0) attentionWritesRows5_c0 = (attentionWritesRows5_c0, .ok attentionWritesRows5_q)) ∧
    HeadReady attentionWritesRows5_s (0 : Fin 32) (0 : Fin 16) ({} : Chain) attentionWritesRows5_d ([0] : List Nat) attentionWritesRows5_c ∧
    runEff (windowRow (headCtx (0 : Fin 32) (0 : Fin 16) ({} : Chain) : Ctx) (fmtGet (attentionWritesRows5_d.f 3 50 4) : Fmt) (fmtGet attentionWritesRows5_d.aFmt : Fmt) (fmtGet attentionWritesRows5_d.wFmt : Fmt) (valOf .fp32 (attentionWritesRows5_d.f 4 0 32)) attentionWritesRows5_q [(true, attentionWritesRows5_kr)] [attentionWritesRows5_v.vals (fmtGet attentionWritesRows5_d.wFmt : Fmt)] (hdimOf (attentionWritesRows5_d.f 3 48 2) : Nat)) attentionWritesRows5_c0 = (attentionWritesRows5_c1, .ok attentionWritesRows5_o) ∧
    Steady attentionWritesRows5_c0 attentionWritesRows5_c1 :=
  ⟨by decide +kernel, headReady_of (by decide +kernel), by delta attentionWritesRows5_c1 attentionWritesRows5_o; exact ran _ _, by unfold Steady; decide +kernel⟩

/-! MoveDescriptorsAct, in Obligations.MovesRun -/

def moveDescriptorsAct1_s : State := st (atHead [0x1000580000020, 0x0, 0x0, 0x0, 0x0, 0x10007] (chipOf [(0x20C0C, 0)] { on with recs := [(7, { up := 0x80100010000, down := 0x10000, len64 := 1, job := 5, state := .resident })], plQueue := [{ addr := 0, w := [], master := 0 }] }))
def moveDescriptorsAct1_d : Desc := ds [0x1000580000020, 0x0, 0x0, 0x0, 0x0, 0x10007]
def moveDescriptorsAct1_c : Chip := atHead [0x1000580000020, 0x0, 0x0, 0x0, 0x0, 0x10007] (chipOf [(0x20C0C, 0)] { on with recs := [(7, { up := 0x80100010000, down := 0x10000, len64 := 1, job := 5, state := .resident })], plQueue := [{ addr := 0, w := [], master := 0 }] })
def moveDescriptorsAct1_c0 : Chip := launched (0 : Fin 32) (0 : Fin 16) ({} : Chain) moveDescriptorsAct1_d ([] : List Nat) moveDescriptorsAct1_c
theorem wit_moveDescriptorsAct1 :
    ((7 : Nat) = moveDescriptorsAct1_d.f 5 0 14 ∧
    tabFind moveDescriptorsAct1_c0.recs (7 : Nat) = some ({ up := 0x80100010000, down := 0x10000, len64 := 1, job := 5, state := .resident } : Rec) ∧
    ({ up := 0x80100010000, down := 0x10000, len64 := 1, job := 5, state := .resident } : Rec).moveFailed = false ∧
    ({ up := 0x80100010000, down := 0x10000, len64 := 1, job := 5, state := .resident } : Rec).upPend = false ∧
    ({ up := 0x80100010000, down := 0x10000, len64 := 1, job := 5, state := .resident } : Rec).evictPend = false ∧
    ({ up := 0x80100010000, down := 0x10000, len64 := 1, job := 5, state := .resident } : Rec).forcePend = false ∧
    (∀ f ∈ ({} : Chain).flight, f.wait ≠ .move (7 : Nat)) ∧
    (∀ h ∈ moveDescriptorsAct1_c0.basins[(0 : Fin 32)].holds, h.chain ≠ copyHold (0 : Fin 16) (7 : Nat)) ∧
    moveDescriptorsAct1_c0.plQueue ≠ [] ∧
    (((.moveUp 0 0 : Instr) = .moveUp (0 : Fin 32) (0 : Fin 16) ∧ rowOf moveDescriptorsAct1_d = some (.copy 1) ∧ (4 : Nat) = 4) ∨ ((.moveUp 0 0 : Instr) = .evict (.desc (0 : Fin 32) (0 : Fin 16)) ∧ rowOf moveDescriptorsAct1_d = some (.copy 2) ∧ (4 : Nat) = 5) ∨ ((.moveUp 0 0 : Instr) = .forceEvict (.desc (0 : Fin 32) (0 : Fin 16)) ∧ rowOf moveDescriptorsAct1_d = some (.copy 3) ∧ (4 : Nat) = 6))) ∧
    HeadReady moveDescriptorsAct1_s (0 : Fin 32) (0 : Fin 16) ({} : Chain) moveDescriptorsAct1_d ([] : List Nat) moveDescriptorsAct1_c :=
  ⟨by decide +kernel, headReady_of (by decide +kernel)⟩

def moveDescriptorsAct2_s : State := st (atHead [0x1000580000020, 0x0, 0x0, 0x0, 0x0, 0x10007] (chipOf [(0x20C0C, 0)] { on with recs := [(7, { up := 0x80100010000, down := 0x10000, len64 := 1, job := 5, state := .resident })] }))
def moveDescriptorsAct2_d : Desc := ds [0x1000580000020, 0x0, 0x0, 0x0, 0x0, 0x10007]
def moveDescriptorsAct2_c : Chip := atHead [0x1000580000020, 0x0, 0x0, 0x0, 0x0, 0x10007] (chipOf [(0x20C0C, 0)] { on with recs := [(7, { up := 0x80100010000, down := 0x10000, len64 := 1, job := 5, state := .resident })] })
def moveDescriptorsAct2_c0 : Chip := launched (0 : Fin 32) (0 : Fin 16) ({} : Chain) moveDescriptorsAct2_d ([] : List Nat) moveDescriptorsAct2_c
theorem wit_moveDescriptorsAct2 :
    ((7 : Nat) = moveDescriptorsAct2_d.f 5 0 14 ∧
    tabFind moveDescriptorsAct2_c0.recs (7 : Nat) = some ({ up := 0x80100010000, down := 0x10000, len64 := 1, job := 5, state := .resident } : Rec) ∧
    ({ up := 0x80100010000, down := 0x10000, len64 := 1, job := 5, state := .resident } : Rec).moveFailed = false ∧
    ({ up := 0x80100010000, down := 0x10000, len64 := 1, job := 5, state := .resident } : Rec).upPend = false ∧
    ({ up := 0x80100010000, down := 0x10000, len64 := 1, job := 5, state := .resident } : Rec).evictPend = false ∧
    ({ up := 0x80100010000, down := 0x10000, len64 := 1, job := 5, state := .resident } : Rec).forcePend = false ∧
    (∀ f ∈ ({} : Chain).flight, f.wait ≠ .move (7 : Nat)) ∧
    (∀ h ∈ moveDescriptorsAct2_c0.basins[(0 : Fin 32)].holds, h.chain ≠ copyHold (0 : Fin 16) (7 : Nat)) ∧
    moveDescriptorsAct2_c0.plQueue = [] ∧
    rowOf moveDescriptorsAct2_d = some (.copy 1) ∧
    moveDescriptorsAct2_d.b 5 18 = false ∧
    ({ up := 0x80100010000, down := 0x10000, len64 := 1, job := 5, state := .resident } : Rec).state = .resident) ∧
    HeadReady moveDescriptorsAct2_s (0 : Fin 32) (0 : Fin 16) ({} : Chain) moveDescriptorsAct2_d ([] : List Nat) moveDescriptorsAct2_c :=
  ⟨by decide +kernel, headReady_of (by decide +kernel)⟩

def moveDescriptorsAct3_s : State := st (atHead [0x1000580000020, 0x0, 0x0, 0x0, 0x0, 0x10007] (chipOf [(0x20C0C, 0)] { on with recs := [(7, { up := 0x80100010000, down := 0x10000, len64 := 1, job := 5 })] }))
def moveDescriptorsAct3_d : Desc := ds [0x1000580000020, 0x0, 0x0, 0x0, 0x0, 0x10007]
def moveDescriptorsAct3_c : Chip := atHead [0x1000580000020, 0x0, 0x0, 0x0, 0x0, 0x10007] (chipOf [(0x20C0C, 0)] { on with recs := [(7, { up := 0x80100010000, down := 0x10000, len64 := 1, job := 5 })] })
def moveDescriptorsAct3_c0 : Chip := launched (0 : Fin 32) (0 : Fin 16) ({} : Chain) moveDescriptorsAct3_d ([] : List Nat) moveDescriptorsAct3_c
theorem wit_moveDescriptorsAct3 :
    ((7 : Nat) = moveDescriptorsAct3_d.f 5 0 14 ∧
    tabFind moveDescriptorsAct3_c0.recs (7 : Nat) = some ({ up := 0x80100010000, down := 0x10000, len64 := 1, job := 5 } : Rec) ∧
    ({ up := 0x80100010000, down := 0x10000, len64 := 1, job := 5 } : Rec).moveFailed = false ∧
    ({ up := 0x80100010000, down := 0x10000, len64 := 1, job := 5 } : Rec).upPend = false ∧
    ({ up := 0x80100010000, down := 0x10000, len64 := 1, job := 5 } : Rec).evictPend = false ∧
    ({ up := 0x80100010000, down := 0x10000, len64 := 1, job := 5 } : Rec).forcePend = false ∧
    (∀ f ∈ ({} : Chain).flight, f.wait ≠ .move (7 : Nat)) ∧
    (∀ h ∈ moveDescriptorsAct3_c0.basins[(0 : Fin 32)].holds, h.chain ≠ copyHold (0 : Fin 16) (7 : Nat)) ∧
    moveDescriptorsAct3_c0.plQueue = [] ∧
    rowOf moveDescriptorsAct3_d = some (.copy 1) ∧
    moveDescriptorsAct3_d.b 5 18 = false ∧
    ({ up := 0x80100010000, down := 0x10000, len64 := 1, job := 5 } : Rec).state = .absent ∧
    ({ up := 0x80100010000, down := 0x10000, len64 := 1, job := 5 } : Rec).claims = 0) ∧
    HeadReady moveDescriptorsAct3_s (0 : Fin 32) (0 : Fin 16) ({} : Chain) moveDescriptorsAct3_d ([] : List Nat) moveDescriptorsAct3_c :=
  ⟨by decide +kernel, headReady_of (by decide +kernel)⟩

def moveDescriptorsAct4_s : State := st (atHead [0x1000580000020, 0x0, 0x0, 0x0, 0x0, 0x20007] (chipOf [(0x20C0C, 0)] { on with recs := [(7, { up := 0x80100010000, down := 0x10000, len64 := 1, job := 5, state := .resident })] }))
def moveDescriptorsAct4_d : Desc := ds [0x1000580000020, 0x0, 0x0, 0x0, 0x0, 0x20007]
def moveDescriptorsAct4_c : Chip := atHead [0x1000580000020, 0x0, 0x0, 0x0, 0x0, 0x20007] (chipOf [(0x20C0C, 0)] { on with recs := [(7, { up := 0x80100010000, down := 0x10000, len64 := 1, job := 5, state := .resident })] })
def moveDescriptorsAct4_c0 : Chip := launched (0 : Fin 32) (0 : Fin 16) ({} : Chain) moveDescriptorsAct4_d ([] : List Nat) moveDescriptorsAct4_c
theorem wit_moveDescriptorsAct4 :
    ((7 : Nat) = moveDescriptorsAct4_d.f 5 0 14 ∧
    tabFind moveDescriptorsAct4_c0.recs (7 : Nat) = some ({ up := 0x80100010000, down := 0x10000, len64 := 1, job := 5, state := .resident } : Rec) ∧
    ({ up := 0x80100010000, down := 0x10000, len64 := 1, job := 5, state := .resident } : Rec).moveFailed = false ∧
    ({ up := 0x80100010000, down := 0x10000, len64 := 1, job := 5, state := .resident } : Rec).upPend = false ∧
    ({ up := 0x80100010000, down := 0x10000, len64 := 1, job := 5, state := .resident } : Rec).evictPend = false ∧
    ({ up := 0x80100010000, down := 0x10000, len64 := 1, job := 5, state := .resident } : Rec).forcePend = false ∧
    (∀ f ∈ ({} : Chain).flight, f.wait ≠ .move (7 : Nat)) ∧
    (∀ h ∈ moveDescriptorsAct4_c0.basins[(0 : Fin 32)].holds, h.chain ≠ copyHold (0 : Fin 16) (7 : Nat)) ∧
    moveDescriptorsAct4_c0.plQueue = [] ∧
    rowOf moveDescriptorsAct4_d = some (.copy 2) ∧
    ({ up := 0x80100010000, down := 0x10000, len64 := 1, job := 5, state := .resident } : Rec).state = .resident ∧
    ({ up := 0x80100010000, down := 0x10000, len64 := 1, job := 5, state := .resident } : Rec).pins = 0 ∧
    ({ up := 0x80100010000, down := 0x10000, len64 := 1, job := 5, state := .resident } : Rec).busy = 0 ∧
    wbParts moveDescriptorsAct4_c0 ({ up := 0x80100010000, down := 0x10000, len64 := 1, job := 5, state := .resident } : Rec) = []) ∧
    HeadReady moveDescriptorsAct4_s (0 : Fin 32) (0 : Fin 16) ({} : Chain) moveDescriptorsAct4_d ([] : List Nat) moveDescriptorsAct4_c :=
  ⟨by decide +kernel, headReady_of (by decide +kernel)⟩

def moveDescriptorsAct5_s : State := st (atHead [0x1000580000020, 0x0, 0x0, 0x0, 0x0, 0x30007] (chipOf [(0x20C0C, 0), (rStCfg, 0x20)] { on with recs := [(7, { up := 0x80100010000, down := 0x10000, len64 := 1, job := 5, state := .resident, pins := 3 })] }))
def moveDescriptorsAct5_d : Desc := ds [0x1000580000020, 0x0, 0x0, 0x0, 0x0, 0x30007]
def moveDescriptorsAct5_c : Chip := atHead [0x1000580000020, 0x0, 0x0, 0x0, 0x0, 0x30007] (chipOf [(0x20C0C, 0), (rStCfg, 0x20)] { on with recs := [(7, { up := 0x80100010000, down := 0x10000, len64 := 1, job := 5, state := .resident, pins := 3 })] })
def moveDescriptorsAct5_c0 : Chip := launched (0 : Fin 32) (0 : Fin 16) ({} : Chain) moveDescriptorsAct5_d ([] : List Nat) moveDescriptorsAct5_c
theorem wit_moveDescriptorsAct5 :
    ((7 : Nat) = moveDescriptorsAct5_d.f 5 0 14 ∧
    tabFind moveDescriptorsAct5_c0.recs (7 : Nat) = some ({ up := 0x80100010000, down := 0x10000, len64 := 1, job := 5, state := .resident, pins := 3 } : Rec) ∧
    ({ up := 0x80100010000, down := 0x10000, len64 := 1, job := 5, state := .resident, pins := 3 } : Rec).moveFailed = false ∧
    ({ up := 0x80100010000, down := 0x10000, len64 := 1, job := 5, state := .resident, pins := 3 } : Rec).upPend = false ∧
    ({ up := 0x80100010000, down := 0x10000, len64 := 1, job := 5, state := .resident, pins := 3 } : Rec).evictPend = false ∧
    ({ up := 0x80100010000, down := 0x10000, len64 := 1, job := 5, state := .resident, pins := 3 } : Rec).forcePend = false ∧
    (∀ f ∈ ({} : Chain).flight, f.wait ≠ .move (7 : Nat)) ∧
    (∀ h ∈ moveDescriptorsAct5_c0.basins[(0 : Fin 32)].holds, h.chain ≠ copyHold (0 : Fin 16) (7 : Nat)) ∧
    moveDescriptorsAct5_c0.plQueue = [] ∧
    rowOf moveDescriptorsAct5_d = some (.copy 3) ∧
    ({ up := 0x80100010000, down := 0x10000, len64 := 1, job := 5, state := .resident, pins := 3 } : Rec).state = .resident ∧
    ({ up := 0x80100010000, down := 0x10000, len64 := 1, job := 5, state := .resident, pins := 3 } : Rec).busy = 0 ∧
    bit (getReg moveDescriptorsAct5_c0 rStCfg) 5 = true ∧
    wbParts moveDescriptorsAct5_c0 ({ up := 0x80100010000, down := 0x10000, len64 := 1, job := 5, state := .resident, pins := 3 } : Rec) = []) ∧
    HeadReady moveDescriptorsAct5_s (0 : Fin 32) (0 : Fin 16) ({} : Chain) moveDescriptorsAct5_d ([] : List Nat) moveDescriptorsAct5_c :=
  ⟨by decide +kernel, headReady_of (by decide +kernel)⟩

end Sys2Proof.Tests
end

section
/-! PROOFS. Register writes by a master (R6, R375, R379, R380): the layers that a write passes on its way, each said once, and the statement
about them. A write of whole memory words, of a register that only stores its bits, and the two refusals are each an equation of the next state. -/

namespace Sys2Proof.Machine

/-! ### System addresses (R10) -/

theorem pkg_lt (c : Chip) : pkg c < 16 := c.power.pkgId.isLt

theorem pkgOf_sys (c : Chip) {loc : Nat} (h : loc < 2 ^ 44) : pkgOf (sys c loc) = pkg c := by
  have := pkg_lt c
  unfold pkgOf sys; omega

theorem locOf_sys (c : Chip) {loc : Nat} (h : loc < 2 ^ 44) : locOf (sys c loc) = loc := by
  unfold locOf sys; omega

/-- An address of this package is the system address of its local part. -/
theorem sys_locOf {c : Chip} {a : Nat} (ha : a < 2 ^ 48) (hp : pkgOf a = pkg c) : sys c (locOf a) = a := by
  unfold sys; rw [← hp]; unfold pkgOf locOf; omega

/-! ### Words of memory (R53, R54) -/

/-- Where no word has an error, a write narrower than 64 bits changes its bytes, and beside them only what marks granules as dirty. -/
theorem putSub_clean {c : Chip} (a : Nat) (bs : List Byte) (h : c.ecc = []) :
    ∃ di, putSub c a bs = { c with mem := memWriteN c.mem a bs, dirty := di } := by
  have hecc : (putMem c a bs).ecc = [] := by unfold putMem; split <;> simp [h]
  unfold putSub
  rw [hecc]
  unfold putMem; split
  · next hnil => subst hnil; exact ⟨c.dirty, by rw [tabDel, ← h]; rfl⟩
  · exact ⟨_, by rw [tabDel, ← h]⟩

/-- The same of bytes that are written one by one. -/
theorem foldl_putSub_clean (a : Nat) (xs : List (Nat × Byte)) {c : Chip} (h : c.ecc = []) :
    ∃ di, xs.foldl (fun c p => putSub c (a + p.1) [p.2]) c =
      { c with mem := xs.foldl (fun m p => memWriteN m (a + p.1) [p.2]) c.mem, dirty := di } := by
  induction xs generalizing c with
  | nil => exact ⟨c.dirty, rfl⟩
  | cons p xs ih =>
    obtain ⟨d₁, h₁⟩ := putSub_clean (a + p.1) [p.2] h
    obtain ⟨d₂, h₂⟩ := ih (c := putSub c (a + p.1) [p.2]) (by rw [h₁]; exact h)
    exact ⟨d₂, by rw [List.foldl_cons, h₂, h₁]; rfl⟩

/-- Changes made one after another do not stop. -/
theorem forM_change {α : Type} (f : Chip → α → Chip) (xs : List α) (c : Chip) :
    (xs.forM (fun x => change (fun c => f c x)) : Eff Unit) c = .ok () (xs.foldl f c) := by
  induction xs generalizing c with
  | nil => rfl
  | cons x xs ih => exact (bind_ok (change_ok _ c)).trans (ih _)

/-- All four byte enables pick the four bytes of the value, least significant first. -/
theorem foldl_enabledBytes_all (a v : Nat) (m : Memory) :
    (enabledBytes 15 v).foldl (fun m p => memWriteN m (a + p.1) [p.2]) m = memWriteN m a (leBytes 4 v) := by
  have hb : enabledBytes 15 v = [(0, BitVec.ofNat 8 (v / 256 ^ 0)), (1, BitVec.ofNat 8 (v / 256 ^ 1)), (2, BitVec.ofNat 8 (v / 256 ^ 2)),
    (3, BitVec.ofNat 8 (v / 256 ^ 3))] := rfl
  rw [hb]
  simp [memWriteN, leBytes, Nat.div_div_eq_div_mul, Nat.add_assoc]

/-- A write of a whole word of memory without errors is made. -/
theorem memStore_word {c : Chip} {a : Nat} (v : Nat) (hb : backed a 4 = true) (h : c.ecc = []) :
    ∃ di, memStore a 15 v c = (0, { c with mem := memWriteN c.mem a (leBytes 4 v), dirty := di }) := by
  obtain ⟨di, hd⟩ := foldl_putSub_clean a (enabledBytes 15 v) h
  rw [foldl_enabledBytes_all] at hd
  refine ⟨di, ?_⟩
  unfold memStore runEff
  simp only [hb, Bool.not_true, Bool.false_eq_true, if_false]
  rw [bind_ok (checkEcc_clean 0 _ 8 c h), forM_change (fun c (p : Nat × Byte) => putSub c (a + p.1) [p.2]), hd]

/-! ### What a register stores (R6, R379) -/

/-- With all four byte enables the value itself is stored. -/
theorem mergeReg_all (c : Chip) (off : Nat) {v : Nat} (hv : v < 2 ^ 32) : mergeReg c off 15 v = v := by
  have hmask : ((List.range 4).map (fun i => if bit 15 i then 255 * 256 ^ i else 0)).sum = 2 ^ 32 - 1 := by decide
  unfold mergeReg
  rw [hmask]
  show v &&& (2 ^ 32 - 1) ||| (_ &&& (2 ^ 32 - 1 - (2 ^ 32 - 1))) = v
  rw [Nat.sub_self, Nat.and_zero, Nat.or_zero, Nat.and_two_pow_sub_one_eq_mod, Nat.mod_eq_of_lt hv]

/-- The bits kept and the bits written lie apart: those of the row read as written. -/
theorem and_mask_merge (g v w n : Nat) (hw : w < 2 ^ n) : (((g &&& (2 ^ n - 1 - w)) ||| (v &&& w)) % 2 ^ n) &&& w = v &&& w := by
  refine Nat.eq_of_testBit_eq fun i => ?_
  have hc : 2 ^ n - 1 - w = 2 ^ n - (w + 1) := by omega
  rw [hc]
  simp only [Nat.testBit_and, Nat.testBit_or, Nat.testBit_mod_two_pow, Nat.testBit_two_pow_sub_succ hw]
  by_cases hi : i < n
  · cases w.testBit i <;> simp [hi]
  · have : w.testBit i = false := Nat.testBit_lt_two_pow (hw.trans_le (Nat.pow_le_pow_right (by omega) (by omega)))
    simp [this]

/-- A register that was written reads, in the bits of its row, as it was written. -/
theorem holdsBits_storeReg (c : Chip) {off : Nat} {r : RegRow} (v : Nat) (h : rowAt off = some r) (hw : r.wmask < 2 ^ 32) :
    holdsBits (storeReg c off v) off v := by
  refine ⟨r, h, ?_⟩
  rw [getReg_storeReg_self v h]
  exact and_mask_merge (getReg c off) v r.wmask 32 hw

/-! ### Registers whose write only stores -/

/-- The configuration registers of state, attention, pages, cadence, the sluice, the flash, model sets and recovery, whose write has no
effect beside the bits stored. -/
def plainRegs : List Nat := [rStCfg, rAtCfg, rKvCfg, rCadCfg, rCxCfg, rFlCfg, rMsCfg, rRcCfg]

theorem plainRegs_range : ∀ off ∈ plainRegs, 0x20000 ≤ off ∧ off < 0x30000 ∧ off % 4 = 0 := by decide

/-- The rows of the plain registers, and that they store none but the 32 bits of a register. -/
theorem plainRegs_row : ∀ off ∈ plainRegs, ∃ r, rowAt off = some r ∧ r.wmask < 2 ^ 32 := by
  simp only [plainRegs, List.forall_mem_cons, List.not_mem_nil, false_imp_iff, implies_true, and_true]
  refine ⟨?_, ?_, ?_, ?_, ?_, ?_, ?_, ?_⟩ <;> exact ⟨_, rfl, by decide⟩

theorem hubWrite_plain (m : Master) (v : Nat) (d : Dev) :
    ∀ off ∈ plainRegs, hubWrite m off v d = (0, d.chipDo (fun c => storeReg c off v)) := by
  simp only [plainRegs, List.forall_mem_cons, List.not_mem_nil, false_imp_iff, implies_true, and_true]
  refine ⟨?_, ?_, ?_, ?_, ?_, ?_, ?_, ?_⟩ <;> rfl

/-! ### One write on this package (R375, R380) -/

/-- The masters of this package may write all the registers between the mailboxes and the security engine. -/
theorem mayWrite_hubRegs {m : Master} {off : Nat} (hm : m.toNat ≤ 3) (lo : 0x12000 ≤ off) (hi : off < 0x40000) : mayWrite m off = true := by
  have hw : among off 0x10 4 4 = false := by simp [among]; omega
  have h4 : m.toNat = 0 ∨ m.toNat = 1 ∨ m.toNat = 2 ∨ m.toNat = 3 := by omega
  unfold mayWrite
  rcases h4 with h | h | h | h <;> simp [h, hw] <;> omega

theorem localWrite_memory {m : Master} {loc be v : Nat} (x : Meets) {d : Dev} (hl : loc < hubBase) (hm : m.toNat ≤ 3)
    (ho : memOn d.chip = true) :
    localWrite m loc be v x d = busCode (memStore (sys d.chip loc) be v d.chip).1 { d with chip := (memStore (sys d.chip loc) be v d.chip).2 } := by
  unfold localWrite
  simp only [if_pos hl, if_neg (Nat.not_lt.mpr hm), ho, Bool.not_true, Bool.false_eq_true, if_false]

/-- An identity beyond those of the package may not write memory by a register write. -/
theorem localWrite_memory_foreign {m : Master} {loc : Nat} (be v : Nat) (x : Meets) (d : Dev) (hl : loc < hubBase) (hm : 3 < m.toNat) :
    localWrite m loc be v x d = busCode eHubDenied d := by
  unfold localWrite
  simp only [if_pos hl, if_pos hm]

/-- A write of a hub register by a master of this package reaches the unit of the register. -/
theorem localWrite_hubReg {m : Master} {off : Nat} (be v : Nat) (x : Meets) {d : Dev} (hm : m.toNat ≤ 3) (hh : hubOn d.chip = true)
    (lo : 0x12000 ≤ off) (hi : off < 0x40000) :
    localWrite m (hubBase + off) be v x d =
      busCode (hubWrite m off (mergeReg d.chip off be v) d).1 (hubWrite m off (mergeReg d.chip off be v) d).2 := by
  have hn : noAnswer m off d.chip = false := by simp [noAnswer, hh]
  have hs : hubSram off = false := by simp [hubSram]; omega
  unfold localWrite
  simp only [Nat.add_sub_cancel_left, Nat.not_lt.mpr (Nat.le_add_right hubBase off), if_false, hn, mayWrite_hubRegs hm lo hi, hs,
    Bool.not_true, Bool.false_eq_true]
  rw [if_neg (by omega), if_neg (by omega), if_neg (by omega)]

/-! ### A register write of any master (R6, R380) -/

theorem registerWrite_unaligned {m : Master} {a : Nat} (v : RegWrite) {d : Dev} (h0 : d.chip.power.aonHeld = false) (ha : a % 4 ≠ 0) :
    registerWrite m a v d = d.chipDo (fun c => emit (.bus m 0 eIwAlign) (reportAccess eIwAlign 0x24 c)) := by
  unfold registerWrite
  rw [if_neg (by rw [h0]; decide), if_pos ha]

/-- A write that this package takes is answered with code 0. -/
theorem registerWrite_taken {m : Master} {a : Nat} {v : RegWrite} {d d' : Dev} (h0 : d.chip.power.aonHeld = false) (ha : a % 4 = 0)
    (hp : pkgOf a = pkg d.chip) (h : localWrite m (locOf a) 15 v.v.toNat v.meets d = busCode 0 d') :
    registerWrite m a v d = d'.chipDo (emit (.bus m 0 0)) := by
  unfold registerWrite
  rw [if_neg (by rw [h0]; decide), if_neg (not_not.mpr ha), if_pos hp, h]
  simp [busTimeout, busReport, busCode, eLater]

/-- A write that this package refuses is reported and answered with the code; the security engine's commands report their own. -/
theorem registerWrite_refused {m : Master} {a code : Nat} {v : RegWrite} {d d' : Dev} (h0 : d.chip.power.aonHeld = false) (ha : a % 4 = 0)
    (hp : pkgOf a = pkg d.chip) (hs : locOf a ≠ hubBase + 0x40000) (hc : code ≠ 0) (hl : code ≠ eLater)
    (h : localWrite m (locOf a) 15 v.v.toNat v.meets d = busCode code d') :
    registerWrite m a v d = d'.chipDo (fun c => emit (.bus m 0 code)
      (report { code := code, sev := sevOf code, src := unitAt (locOf a - hubBase), addr := wordNamed code (locOf a) } c)) := by
  unfold registerWrite
  rw [if_neg (by rw [h0]; decide), if_neg (not_not.mpr ha), if_pos hp, h]
  simp [busTimeout, busReport, busCode, hs, hc, hl, Dev.chipDo]

/-- A register write that changes no more than the chip. -/
theorem exec_registerWrite {m : Master} {a : BitVec 48} {v : RegWrite} {s : State} {c : Chip}
    (h : registerWrite m a.toNat v s.dev = { s.dev with chip := c }) : exec (.registerWrite m a v) s = .next (s.withChip c) := by
  show onDev (registerWrite m a.toNat v) s = _
  rw [onDev_eq, h]; rfl

/-! ### The clauses of the statement -/

section
variable {m : Master} {a : BitVec 48} (v : RegWrite) {s : State}

/-- R380: a word of powered memory of this package takes all four bytes. -/
theorem exec_registerWrite_memory (h0 : s.chip.power.aonHeld = false) (hm : m.toNat ≤ 3) (ha : a.toNat % 4 = 0)
    (hp : pkgOf a.toNat = pkg s.chip) (hl : locOf a.toNat < hubBase) (ho : memOn s.chip = true) (hb : backed a.toNat 4 = true)
    (he : s.chip.ecc = []) :
    ∃ di, exec (.registerWrite m a v) s = .next (s.withChip
      (emit (.bus m 0 0) { s.chip with mem := memWriteN s.chip.mem a.toNat (leBytes 4 v.v.toNat), dirty := di })) := by
  obtain ⟨di, hst⟩ := memStore_word v.v.toNat hb he
  have hw := localWrite_memory (be := 15) (v := v.v.toNat) v.meets (d := s.dev) hl hm ho
  rw [show s.dev.chip = s.chip from rfl, sys_locOf a.isLt hp, hst] at hw
  exact ⟨di, exec_registerWrite (registerWrite_taken (d := s.dev) h0 ha hp hw)⟩

/-- R6: a plain register of the hub's tables stores the bits of its row. -/
theorem exec_registerWrite_plain {off : Nat} (h0 : s.chip.power.aonHeld = false) (hm : m.toNat ≤ 3) (hh : hubOn s.chip = true)
    (ha : a.toNat = sys s.chip (hubBase + off)) (hoff : off ∈ plainRegs) :
    exec (.registerWrite m a v) s = .next (s.withChip (emit (.bus m 0 0) (storeReg s.chip off v.v.toNat))) := by
  obtain ⟨lo, hi, h4⟩ := plainRegs_range off hoff
  have hloc : hubBase + off < 2 ^ 44 := by unfold hubBase; omega
  refine exec_registerWrite (registerWrite_taken (d := s.dev) (d' := s.dev.chipDo (fun c => storeReg c off v.v.toNat)) h0 ?_ ?_ ?_)
  · rw [ha]; unfold sys hubBase; omega
  · rw [ha]; exact pkgOf_sys s.chip hloc
  · rw [ha, locOf_sys s.chip hloc, localWrite_hubReg _ _ v.meets hm hh (by omega) (by omega), mergeReg_all _ _ v.v.isLt,
      hubWrite_plain m v.v.toNat s.dev off hoff]

/-- R375: an identity that may not write memory is refused with HUB_DENIED, which is reported. -/
theorem exec_registerWrite_foreign (h0 : s.chip.power.aonHeld = false) (hm : 3 < m.toNat) (ha : a.toNat % 4 = 0)
    (hp : pkgOf a.toNat = pkg s.chip) (hl : locOf a.toNat < hubBase) :
    exec (.registerWrite m a v) s = .next (s.withChip (emit (.bus m 0 eHubDenied) (reportAccess eHubDenied 0x27 s.chip))) := by
  have hw := localWrite_memory_foreign 15 v.v.toNat v.meets s.dev hl hm
  have ht := registerWrite_refused (d := s.dev) h0 ha hp (by omega) (by decide) (by decide) hw
  rw [Nat.sub_eq_zero_of_le hl.le] at ht
  exact exec_registerWrite ht

/-- R379: an address that is not a multiple of 4 is refused with IW_ALIGN, which is reported. -/
theorem exec_registerWrite_unaligned (h0 : s.chip.power.aonHeld = false) (ha : a.toNat % 4 ≠ 0) :
    exec (.registerWrite m a v) s = .next (s.withChip (emit (.bus m 0 eIwAlign) (reportAccess eIwAlign 0x24 s.chip))) :=
  exec_registerWrite (registerWrite_unaligned (d := s.dev) v h0 ha)

end

/-- Settles O51: each clause is read off the next state of its kind of write; a refusal changes registers and the recorder alone. -/
theorem registerWritesStoreTheirBits : Obligations.RegisterWritesStoreTheirBits := by
  unfold Obligations.RegisterWritesStoreTheirBits
  intro m a v s h0
  refine ⟨?memory, ?register, ?foreign, ?unaligned⟩
  case memory =>
    intro hm ha hp hl ho hb he
    obtain ⟨di, h⟩ := exec_registerWrite_memory v h0 hm ha hp hl ho hb he
    exact ⟨_, h, sameRest_withChip s _, rfl, rfl, rfl⟩
  case register =>
    intro off hm hh ha hoff
    have hmem : off ∈ plainRegs := by simpa [plainRegs] using hoff
    obtain ⟨r, hr, hw⟩ := plainRegs_row off hmem
    obtain ⟨rg, hst⟩ := storeReg_eq s.chip off v.v.toNat
    refine ⟨_, exec_registerWrite_plain v h0 hm hh ha hmem, sameRest_withChip s _, holdsBits_storeReg s.chip _ hr hw,
      fun o ho => getReg_storeReg_ne s.chip _ ho, ?_, ?_⟩
    · rw [emit_mem, hst]
    · rw [emit_out, hst]
  case foreign =>
    intro hm ha hp hl
    have h := exec_registerWrite_foreign v h0 hm ha hp hl
    obtain ⟨rg, rc, hr⟩ := reportAccess_eq eHubDenied 0x27 s.chip
    rw [hr] at h
    exact ⟨_, h, sameRest_withChip s _, rfl, rfl, rfl⟩
  case unaligned =>
    intro ha
    have h := exec_registerWrite_unaligned (m := m) v h0 ha
    obtain ⟨rg, rc, hr⟩ := reportAccess_eq eIwAlign 0x24 s.chip
    rw [hr] at h
    exact ⟨_, h, sameRest_withChip s _, rfl, rfl, rfl⟩

end Sys2Proof.Machine
end

section
/-! PROOFS. The head of a chain (R37, R39, R42, R45, R61, R314): what the run of its body leaves, case by case, and what keeps it waiting.
A head that issues is `runFlight` after the launch; each way its body can end is one equation. -/

namespace Sys2Proof.Machine

/-! ### One basin and its chains after a change -/

@[simp] theorem basins_modBasin_self (b : Fin 32) (f : Basin → Basin) (c : Chip) : (modBasin b f c).basins[b] = f c.basins[b] := by
  simp

theorem basins_modBasin_ne {a b : Fin 32} (f : Basin → Basin) (c : Chip) (h : a ≠ b) : (modBasin b f c).basins[a] = c.basins[a] := by
  have : b.val ≠ a.val := fun e => h (Fin.ext e.symm)
  simp [this]

/-- A change that leaves the basin as it is leaves the package. -/
theorem modBasin_eq_self {b : Fin 32} {f : Basin → Basin} {c : Chip} (h : f c.basins[b] = c.basins[b]) : modBasin b f c = c := by
  unfold modBasin
  rw [h]
  show { c with basins := c.basins.set b.val c.basins[b.val] b.isLt } = c
  rw [Vector.set_getElem_self]

@[simp] theorem setChain_basins (b : Fin 32) (k : Fin 16) (o : Option Chain) (c : Chip) : (setChain b k o c).basins =
    c.basins.set b.val { c.basins[b] with chains := c.basins[b].chains.set k.val o k.isLt } b.isLt := rfl

theorem chains_setChain_self (b : Fin 32) (k : Fin 16) (o : Option Chain) (c : Chip) :
    (setChain b k o c).basins[b].chains[k] = o := by simp

theorem modChain_some {b : Fin 32} {k : Fin 16} {c : Chip} {ch : Chain} (f : Chain → Chain) (h : c.basins[b].chains[k] = some ch) :
    modChain b k f c = setChain b k (some (f ch)) c := by
  unfold modChain; rw [h]

theorem stampHead_some {b : Fin 32} {k : Fin 16} {c : Chip} {ch : Chain} (h : c.basins[b].chains[k] = some ch) :
    stampHead b k c = modBasin b (fun s => { s with stamp := c.basins[b].stamp + 1 })
      (setChain b k (some { ch with stamp := c.basins[b].stamp }) c) := by
  unfold stampHead; dsimp only; rw [modChain_some _ h]

/-! ### The launch (R37) -/

/-- The chain once its head has been launched. -/
def launchedChain (ch : Chain) (d : Desc) (js : List Nat) (stamp : Nat) : Chain :=
  { ch with pc := ch.pc + 64, begun := true, lastIssued := d.last, nextId := ch.nextId + 1, ahead := [], stamp := stamp,
            flight := ch.flight ++ [{ id := ch.nextId, w := d.w, job := d.job, jets := js }] }

section
variable (b : Fin 32) (k : Fin 16) (ch : Chain) (d : Desc) (js : List Nat) (c : Chip)

/-- A launch changes the chain of its head and the count of stamps, and nothing else. -/
theorem launch_eq : launch b k ch d js c = modBasin b (fun s => { s with stamp := s.stamp + 1 })
    (setChain b k (some (launchedChain ch d js c.basins[b].stamp)) c) := by
  unfold launch
  rw [stampHead_some (chains_setChain_self b k _ c)]
  unfold setChain modBasin launchedChain
  simp

@[simp] theorem launch_mem : (launch b k ch d js c).mem = c.mem := by rw [launch_eq]; rfl
@[simp] theorem launch_regs : (launch b k ch d js c).regs = c.regs := by rw [launch_eq]; rfl
@[simp] theorem launch_ctr : (launch b k ch d js c).basins[b].ctr = c.basins[b].ctr := by rw [launch_eq]; simp

theorem launch_chain : (launch b k ch d js c).basins[b].chains[k] = some (launchedChain ch d js c.basins[b].stamp) := by
  rw [launch_eq, basins_modBasin_self]
  exact chains_setChain_self b k _ c

end

/-! ### Holds that end -/

/-- Where no hold satisfies the test, none ends. -/
theorem endHolds_none {b : Fin 32} {p : Hold → Bool} {c : Chip} (h : ∀ x ∈ c.basins[b].holds, p x = false) : endHolds b p c = c := by
  have hno : c.basins[b].holds.filter p = [] := List.filter_eq_nil_iff.mpr fun x hx => by simp [h x hx]
  have hall : c.basins[b].holds.filter (fun x => !p x) = c.basins[b].holds := List.filter_eq_self.mpr fun x hx => by simp [h x hx]
  unfold endHolds
  simp only [hno, List.foldl_nil]
  exact modBasin_eq_self (by rw [hall])

/-! ### The fetch (R46) -/

theorem past_false {pc n : Nat} (h : past pc n = false) : pc + n ≤ 0x600000 := by
  unfold past sramEnd at h
  simpa using h

theorem readWords_clean (unit a n : Nat) {c : Chip} (h : c.ecc = []) (hp : pkgOf a = pkg c) :
    readWords unit a n c = .ok ((List.range n).map (fun i => leNat (((memReadN c.mem a (8 * n)).drop (8 * i)).take 8))) c := by
  unfold readWords
  rw [bind_ok (readMem_clean unit a (8 * n) c h hp)]
  rfl

theorem fetchDesc_ok {c : Chip} {m : Fin 32} {pc : Nat} (he : c.ecc = []) (hp : pkgOf (sram c m pc) = pkg c) : fetchDesc c m pc c =
    .ok { w := (List.range 8).map (fun i => leNat (((memReadN c.mem (sram c m pc) (8 * 8)).drop (8 * i)).take 8)) } c := by
  unfold fetchDesc
  rw [bind_ok (readWords_clean 0x34 (sram c m pc) 8 he hp)]
  rfl

/-- Where no word has an error, the fetch of a descriptor within SRAM changes nothing. -/
theorem fetchDesc_clean {c : Chip} {m : Fin 32} {pc : Nat} (he : c.ecc = []) (hp : past pc 64 = false) :
    (runEff (fetchDesc c m pc) c).1 = c := by
  have hpc := past_false hp
  rw [(runEff_eq_ok _ _ _ _).mpr (fetchDesc_ok he (pkgOf_sram c m pc (by omega)))]

/-! ### What waiting descriptors hold, and the fabric -/

/-- The package with another state of the fabric. -/
def withFab (x : Fab) (c : Chip) : Chip := { c with fab := x }

theorem putSub_withFab (x : Fab) (c : Chip) (a : Nat) (bs : List Byte) : putSub (withFab x c) a bs = withFab x (putSub c a bs) := by
  unfold putSub putMem withFab; split <;> rfl

theorem modRec_withFab (x : Fab) (n : Nat) (f : Rec → Rec) (c : Chip) : modRec n f (withFab x c) = withFab x (modRec n f c) := by
  unfold modRec withFab; dsimp only; split <;> rfl

/-- A record that is BUSY is not evicted (R252). -/
theorem addBusy_up (n : Nat) (c : Chip) : addBusy n true c = modRec n (fun r => { r with busy := r.busy + 1 }) c := by
  unfold addBusy settle modRec
  cases h : tabFind c.recs n with
  | none => simp [h]
  | some r => simp [tabFind_tabSet_self]

theorem addBusy_up_withFab (x : Fab) (n : Nat) (c : Chip) : addBusy n true (withFab x c) = withFab x (addBusy n true c) := by
  simp only [addBusy_up, modRec_withFab]

/-- A change that does not look at the fabric, made for each element of a list. -/
theorem foldl_withFab {α : Type} {f : Chip → α → Chip} {x : Fab} (h : ∀ c y, f (withFab x c) y = withFab x (f c y)) (ys : List α)
    (c : Chip) : ys.foldl f (withFab x c) = withFab x (ys.foldl f c) := by
  induction ys generalizing c with
  | nil => rfl
  | cons y ys ih => rw [List.foldl_cons, List.foldl_cons, h, ih]

/-- What a descriptor that waits holds does not depend on the fabric as it was before its body ran. -/
theorem keepHeld_withFab (b : Fin 32) (k : Fin 16) (id : Nat) (x : Fab) (d c : Chip) :
    keepHeld b k id d (withFab x c) = keepHeld b k id d c := by
  unfold keepHeld
  dsimp only [withFab]
  generalize (d.basins[b].chains[k]).bind (fun ch => ch.flight.find? (fun f => f.id == id)) = g
  generalize (c.basins[b].chains[k]).bind (fun ch => ch.flight.find? (fun f => f.id == id)) = f
  match g, f with
  | none, _ => rfl
  | some _, none => rfl
  | some g, some f =>
    have hpins := foldl_withFab (f := fun c (p : PinRef) => putSub c (pinsAddr p.root p.slot)
      (leBytes 4 (leNat (memReadN c.mem (pinsAddr p.root p.slot) 4) + 1))) (x := x) (fun c p => putSub_withFab x c _ _)
    have hbusy := foldl_withFab (f := fun c n => addBusy n true c) (fun c n => addBusy_up_withFab x n c)
    dsimp only [withFab] at hpins hbusy ⊢
    rw [hpins, hbusy]
    rfl

/-! ### The body of a head runs -/

section
variable {b : Fin 32} {k : Fin 16} {ch : Chain} {d : Desc} {js : List Nat} {c c2 c3 : Chip} {body : Ctx → Desc → Eff Unit}

/-- The body ends: what it asked of other packages is sent, and the descriptor waits for it, or stops where a package is not reached. -/
theorem runHead_sent {ts : List Nat} {o : Option Nat} (h : runEff (body (headCtx b k ch) d) (launched b k ch d js c) = (c2, .ok ()))
    (hf : flushFar (basinMaster ch.home) (.walk b k ch.nextId) c2 = ((ts, o), c3)) :
    runHead b k ch d js body c = o.elim (if ts = [] then c3 else modFlightOf b k ch.nextId (awaitTags ts) c3)
      (fun a => stopNumber b k ch.nextId { code := eFabFenced, unit := kvUnit, addr := a } c3) := by
  unfold runHead runFlight
  dsimp only [launched, headCtx] at h ⊢
  rw [h]
  dsimp only
  rw [hf]
  cases o <;> rfl

/-- The body stops with an error: its writes to other packages are sent, and the descriptor stops. -/
theorem runHead_error {e : Stop} (h : runEff (body (headCtx b k ch) d) (launched b k ch d js c) = (c2, .error e)) (he : e.code ≠ 0) :
    runHead b k ch d js body c =
      stopNumber b k ch.nextId e (flushFar (basinMaster ch.home) (.walk b k ch.nextId) (keepWrites c2)).2 := by
  unfold runHead runFlight
  dsimp only [launched, headCtx] at h ⊢
  rw [h]
  exact if_pos he

/-- The body waits for other packages: what it asked is sent, and it runs again. -/
theorem runHead_waits {e : Stop} {ts : List Nat} (h : runEff (body (headCtx b k ch) d) (launched b k ch d js c) = (c2, .error e))
    (he : e.code = 0) (hf : flushFar (basinMaster ch.home) (.walk b k ch.nextId)
      (keepHeld b k ch.nextId c2 (launched b k ch d js c)) = ((ts, none), c3)) :
    runHead b k ch d js body c = modFlightOf b k ch.nextId (fun f => { awaitTags ts f with again := true }) c3 := by
  have hk := keepHeld_withFab b k ch.nextId { (launch b k ch d js (if ch.begun then c
    else applyAhead ch.ahead (endHolds b (fun h => h.chain == chainHold k) c))).fab with far := [], now := .walk b k ch.nextId } c2
    (launch b k ch d js (if ch.begun then c else applyAhead ch.ahead (endHolds b (fun h => h.chain == chainHold k) c)))
  unfold runHead runFlight
  dsimp only [launched, headCtx, beginFar, withFab] at h hf hk ⊢
  rw [hk] at hf
  rw [h]
  dsimp only
  rw [if_neg (not_not.mpr he), hf]

/-- A head that may issue runs its body (R37). -/
theorem exec_headReady {i : Instr} {row : RowId} {s : State} (hi : descCommand i = some (b, k, row, body)) (hr : HeadReady s b k ch d js c)
    (hd : rowOf d = some row) : exec i s = .next (s.withChip (runHead b k ch d js body c)) := by
  rw [exec_descCommand hi, onChip_eq, issue_headReady hr hd]

/-- A head that may issue, whose body asks nothing of another package and does not stop, leaves what its body leaves. -/
theorem exec_headReady_ok {i : Instr} {row : RowId} {s : State} (hi : descCommand i = some (b, k, row, body))
    (hr : HeadReady s b k ch d js c) (hd : rowOf d = some row)
    (h : body (headCtx b k ch) d (launched b k ch d js c) = .ok () c2) (hf : c2.fab.far = []) :
    exec i s = .next (s.withChip (settled c2)) := by
  rw [exec_headReady hi hr hd, runHead_ok ((runEff_eq_ok _ _ _ _).mpr h) hf]

end

theorem headDescriptorIssuesAndRuns : HeadDescriptorIssuesAndRuns := by
  intro i b k row body s ch d js c c2 hi hr hd
  rw [exec_headReady hi hr hd]
  refine ⟨fun hok => ⟨fun hf => ?_, fun ts c3 hf hts => ?_, fun c3 hf => ?_, fun ts a c3 hf => ?_⟩, fun e he h0 => ?_,
    fun e ts c3 he h0 hf => ?_⟩
  · rw [runHead_ok hok hf]
  · rw [runHead_sent hok hf, Option.elim_none, if_neg hts]
  · rw [runHead_sent hok hf]; rfl
  · rw [runHead_sent hok hf]; rfl
  · rw [runHead_error he h0]
  · rw [runHead_waits he h0 hf]

/-! ### NOP (R477) -/

/-- Without errors, run-ahead copies and a hold that would end, a launch is made on the package as it was. -/
theorem launched_clean {s : State} {b : Fin 32} {k : Fin 16} {ch : Chain} {d : Desc} {js : List Nat} {c : Chip}
    (h : HeadReady s b k ch d js c) (ha : ch.ahead = []) (he : s.chip.ecc = [])
    (hh : ∀ x ∈ s.chip.basins[b].holds, x.chain ≠ chainHold k) :
    launched b k ch d js c = beginFar (.walk b k ch.nextId) (launch b k ch d js s.chip) := by
  have hc : c = s.chip := by
    have := fetchDesc_clean (m := (ctxOf b k ch).m) he h.room
    rw [h.fetch] at this
    exact this
  subst hc
  have hold := endHolds_none (p := fun x => x.chain == chainHold k) (c := s.chip) (b := b) (fun x hx => beq_eq_false_iff_ne.mpr (hh x hx))
  unfold launched
  rw [ha, hold]
  simp [applyAhead]

theorem nopMovesChainOnAlone : NopMovesChainOnAlone := by
  intro b k s ch d js c hr hd ha he hh
  have hl := launched_clean hr ha he hh
  have hx := exec_headReady_ok (i := .nop b k) rfl hr hd (c2 := launched b k ch d js c) rfl rfl
  rw [hl] at hx
  refine ⟨_, hx, sameRest_withChip s _, launch_mem b k ch d js s.chip, launch_regs b k ch d js s.chip, launch_ctr b k ch d js s.chip,
    _, launch_chain b k ch d js s.chip, rfl, rfl, rfl, rfl⟩

/-- Settles O5: each way in which the body of a head can end, and the launch alone for NOP. -/
theorem descriptorsIssue : Obligations.DescriptorsIssue := ⟨headDescriptorIssuesAndRuns, nopMovesChainOnAlone⟩

/-! ### What keeps a head waiting -/

section
variable {b : Fin 32} {k : Fin 16} {c : Chip} {ch : Chain} {d : Desc} {row : RowId} {body : Ctx → Desc → Eff Unit}

theorem issue_mayNot (want : RowId → Bool) (h : c.basins[b].chains[k] = some ch) (hm : mayIssue c b ch = false) :
    issue b k want body c = c := by
  unfold issue; rw [h]; simp [hm]

/-- A head that may issue, is fetched without an error and is the descriptor asked for: its order is looked at first, then the checks of
R43, then what a migrated chain may not run, then its event counter. -/
theorem issue_fetched (h : c.basins[b].chains[k] = some ch) (hm : mayIssue c b ch = true)
    (hw : ch.begun = true ∨ ch.ahead.all (·.moved) = true) (hp : past ch.pc 64 = false)
    (hf : runEff (fetchDesc c (ctxOf b k ch).m ch.pc) c = (c, .ok d)) (hd : ∀ r, rowOf d = some r → r = row) :
    ((orderOk ch d = false ∨ jobBlocked c b d.job = true) → issue b k (fun r => r == row) body c = c) ∧
    (orderOk ch d = true → jobBlocked c b d.job = false →
      (∀ code, checkDesc c ch.acc d = some code → issue b k (fun r => r == row) body c = rejectHead b k d code c) ∧
      (checkDesc c ch.acc d = none → migratedBad ch d = none → waitOk c (ctxOf b k ch).m d = false →
        issue b k (fun r => r == row) body c = c)) := by
  have hw' : (!ch.begun && !ch.ahead.all (·.moved)) = false := by rcases hw with w | w <;> rw [w] <;> simp
  have hrow : rowOf d = none ∨ rowOf d = some row := by
    cases hr : rowOf d with
    | none => exact .inl rfl
    | some r => exact .inr (by rw [hd r hr])
  unfold issue
  rw [h]
  simp only [hm, hw', hp, hf]
  refine ⟨fun hw => ?_, fun ho hj => ⟨fun code hk => ?_, fun hk hg hv => ?_⟩⟩
  · rcases hrow with hr | hr <;> rcases hw with hw | hw <;> simp [hr, hw]
  · rcases hrow with hr | hr <;> simp [hr, ho, hj, hk]
  · rcases hrow with hr | hr <;> simp [hr, ho, hj, hk, hg, hv]

end

/-- A head whose basin is not enabled may not issue (R61). -/
theorem mayIssue_disabled {c : Chip} {b : Fin 32} (ch : Chain) (h : bit (getReg c rEnable) b.val = false) : mayIssue c b ch = false := by
  simp [mayIssue, enabled, h]

/-- A head that does not overlap its predecessor in flight waits for it (R37). -/
theorem orderOk_false {ch : Chain} {d : Desc} (ho : d.overlap = false) (hf : ch.flight.any (fun f => f.id + 1 == ch.nextId) = true) :
    orderOk ch d = false := by
  simp [orderOk, ho, hf]

/-- A head waits for its event counter (R39). -/
theorem waitOk_false {c : Chip} {m : Fin 32} {d : Desc} (he : d.waitEn = true)
    (hv : 32768 ≤ (tabGet 0 c.basins[m].ctr d.waitCtr + 65536 - d.waitVal) % 65536) : waitOk c m d = false := by
  simp only [waitOk, he, Bool.not_true, Bool.false_or, decide_eq_false_iff_not]
  omega

/-- Settles O7: a head whose basin is not enabled may not issue; one that may is fetched, and its order or its counter holds it back. -/
theorem waitingHeadChangesNothing : Obligations.WaitingHeadChangesNothing := by
  unfold Obligations.WaitingHeadChangesNothing
  intro i b k row body s ch d hi hc hp hf hd hk hg hw hwait
  suffices issue b k (fun r => r == row) body s.chip = s.chip by rw [exec_descCommand hi, onChip_eq, this]
  by_cases hm : mayIssue s.chip b ch = true
  case neg => exact issue_mayNot _ hc (by simpa using hm)
  obtain ⟨hblocked, hnext⟩ := issue_fetched (body := body) hc hm hw hp hf (fun r hr => Option.some.inj (hr.symm.trans hd))
  by_cases ho : orderOk ch d = true ∧ jobBlocked s.chip b d.job = false
  case neg => exact hblocked (by simpa [Decidable.or_iff_not_imp_left] using ho)
  rcases hwait with hdis | ⟨hov, hfl⟩ | ⟨he, hv⟩
  · rw [mayIssue_disabled ch hdis] at hm; cases hm
  · exact hblocked (.inl (orderOk_false hov hfl))
  · exact (hnext ho.1 ho.2).2 hk hg (waitOk_false he hv)

end Sys2Proof.Machine
end

section
/-! PROOFS. The vector unit and the special-function unit (R49, R51, R73, R479): what each kind of body writes where no operand word has an
error and no residue fault is injected, which command has which body, and the special cases of the special functions. -/

namespace Sys2Proof.Machine

theorem putMem_fab (c : Chip) (a : Nat) (bs : List Byte) : (putMem c a bs).fab = c.fab := by unfold putMem; split <;> rfl

/-- Nothing has been asked of another package as the body of a head begins. -/
theorem launched_far (b : Fin 32) (k : Fin 16) (ch : Chain) (d : Desc) (js : List Nat) (c : Chip) :
    (launched b k ch d js c).fab.far = [] := rfl

theorem fmtGet_of_fmtOf {n : Nat} {f : Fmt} (h : fmtOf n = some f) : fmtGet n = f := by unfold fmtGet; rw [h]; rfl

section
variable {x : Ctx} {d : Desc} {c : Chip}

/-- An operand of the vector unit is read whole (R48). -/
theorem readCodes_vecCodes (u : Nat) (f : Fmt) (i lo n : Nat) (h : c.ecc = []) :
    readCodes x u f (d.f i lo 23) n c = .ok (vecCodes c x.m f (d.f i lo 23) n) c := readCodes_clean u f d i lo n h

/-! ### Results in FP32 -/

/-- The package with results in FP32 at DST. -/
def putFp32 (x : Ctx) (d : Desc) (vs : List Val) (c : Chip) : Chip :=
  putMem c (sram c x.m (d.f 3 0 23)) ((vs.map f32Code).flatMap (leBytes 4))

theorem putFp32_far (vs : List Val) : (putFp32 x d vs c).fab.far = c.fab.far := by unfold putFp32; rw [putMem_fab]

/-- Results in FP32 are written whole: their conversion neither saturates nor takes output scales. -/
theorem writeResults_fp32 (cov : Bool) (vs : List Val) (hr : c.residue = []) (ho : fmtGet d.outFmt = .fp32) :
    writeResults x d cov vs c = .ok () (putFp32 x d vs c) :=
  writeResults_plain cov vs hr .fp32 ho (by simp [scalesOut]) (fun v _ => conv32_flags v)

/-- An element-wise float operation of two operands (R49). -/
theorem bodyFloat_two (cov : Bool) (op : Desc → Val → Val → Val) (he : c.ecc = []) (hr : c.residue = []) (ho : fmtGet d.outFmt = .fp32) :
    bodyFloat true cov op x d c = .ok () (putFp32 x d
      ((vecPairs c x.m d).map (fun p => op d (widen (fmtGet d.aFmt) p.1) (widen (fmtGet d.wFmt) p.2))) c) := by
  have ha := readCodes_vecCodes (x := x) (d := d) vecUnit (fmtGet d.aFmt) 1 0 (d.f 1 24 20) he
  have hb := readCodes_vecCodes (x := x) (d := d) vecUnit (fmtGet d.wFmt) 2 0 (d.f 1 24 20) he
  exact (bind_ok ha).trans ((bind_ok hb).trans (writeResults_fp32 cov _ hr ho))

/-- An element-wise float operation of one operand (R49). -/
theorem bodyFloat_one (cov : Bool) (op : Desc → Val → Val → Val) (g : Desc → Val → Val) (hop : ∀ d v w, op d v w = g d v) (he : c.ecc = [])
    (hr : c.residue = []) (ho : fmtGet d.outFmt = .fp32) : bodyFloat false cov op x d c = .ok () (putFp32 x d
      ((vecCodes c x.m (fmtGet d.aFmt) (d.f 1 0 23) (d.f 1 24 20)).map (fun a => g d (widen (fmtGet d.aFmt) a))) c) := by
  have ha := readCodes_vecCodes (x := x) (d := d) vecUnit (fmtGet d.aFmt) 1 0 (d.f 1 24 20) he
  refine (bind_ok ha).trans ((bind_ok (pure_ok _ c)).trans ((writeResults_fp32 cov _ hr ho).trans ?_))
  congr 2
  have hzip : ∀ as : List Nat, as.zip (as.map (fun _ => 0)) = as.map (fun a => (a, 0)) := fun as => by
    have := List.zip_map' (f := id) (g := fun _ => 0) (l := as)
    rwa [List.map_id] at this
  rw [hzip, List.map_map]
  exact List.map_congr_left fun a _ => hop d _ _

/-- A reduction of rows (R479). -/
theorem bodyRow_fp32 (op : List Val → Val) (he : c.ecc = []) (hr : c.residue = []) (ho : fmtGet d.outFmt = .fp32) :
    bodyRow op x d c = .ok () (putFp32 x d
      ((chunks (d.f 2 24 20) (d.f 1 24 20) (vecCodes c x.m (fmtGet d.aFmt) (d.f 1 0 23) (d.f 1 24 20))).map
        (fun r => op (r.map (widen (fmtGet d.aFmt))))) c) := by
  unfold bodyRow
  rw [bind_ok (readCodes_vecCodes _ _ _ _ _ he), writeResults_fp32 _ _ hr ho]

/-- A special function of each element (R51). -/
theorem bodySfu_fp32 (op : Nat) (he : c.ecc = []) (hr : c.residue = []) (ho : fmtGet d.outFmt = .fp32) :
    bodySfu op x d c = .ok () (putFp32 x d ((vecCodes c x.m (fmtGet d.aFmt) (d.f 1 0 23) (d.f 1 24 20)).map
      (fun a => valOf .fp32 (sfuOf op (widenCode (fmtGet d.aFmt) a)))) c) := by
  unfold bodySfu
  rw [bind_ok (readCodes_vecCodes _ _ _ _ _ he), writeResults_fp32 _ _ hr ho]

/-! ### Results in INT32 -/

theorem filter_snd_take_nil {α : Type} {xs : List (α × Bool)} (n : Nat) (h : ∀ q ∈ xs, q.2 = false) :
    (xs.take n).filter (·.2) = [] :=
  List.filter_eq_nil_iff.mpr fun q hq => by simp [h q (List.mem_of_mem_take hq)]

/-- An element-wise integer operation whose results lie within INT32 (R49). -/
theorem bodyInt_int32 (cov : Bool) (op : Desc → Int → Int → Int) (he : c.ecc = []) (hr : c.residue = []) (ho : fmtGet d.outFmt = .int32)
    (hop : ∀ p ∈ vecPairs c x.m d, -(2 ^ 31) ≤ op d (intOf (fmtGet d.aFmt) p.1) (intOf (fmtGet d.wFmt) p.2) ∧
      op d (intOf (fmtGet d.aFmt) p.1) (intOf (fmtGet d.wFmt) p.2) < 2 ^ 31) :
    bodyInt cov op x d c = .ok () (putMem c (sram c x.m (d.f 3 0 23)) (((vecPairs c x.m d).map (fun p =>
      unsigned 32 (op d (intOf (fmtGet d.aFmt) p.1) (intOf (fmtGet d.wFmt) p.2)))).flatMap (leBytes 4))) := by
  have hsrc : ∀ i, intSource d i = (Val.ofInt i, false) := fun i => by simp [intSource, ho, scalesOut]
  have ha := readCodes_vecCodes (x := x) (d := d) vecUnit (fmtGet d.aFmt) 1 0 (d.f 1 24 20) he
  have hb := readCodes_vecCodes (x := x) (d := d) vecUnit (fmtGet d.wFmt) 2 0 (d.f 1 24 20) he
  have hcode : ∀ p ∈ vecPairs c x.m d, conv .int32 (Val.ofInt (op d (intOf (fmtGet d.aFmt) p.1) (intOf (fmtGet d.wFmt) p.2))) =
      { code := unsigned 32 (op d (intOf (fmtGet d.aFmt) p.1) (intOf (fmtGet d.wFmt) p.2)) } :=
    fun p hp => conv_int _ (hop p hp).1 (hop p hp).2
  refine (bind_ok ha).trans ((bind_ok hb).trans ((bind_ok (a := ()) (d := c) ?held).trans ?written))
  case held =>
    rw [change_ok, filter_snd_take_nil]
    · rfl
    · simp [hsrc]
  case written =>
    simp only [hsrc, List.map_map]
    rw [writeResults_plain cov _ hr .int32 ho (by simp [scalesOut])]
    · rw [List.map_map]
      have hcodes := List.map_congr_left fun p hp => congrArg Conv.code (hcode p hp)
      exact congrArg (fun cs => EStateM.Result.ok () (putMem c (sram c x.m (d.f 3 0 23)) (cs.flatMap (leBytes 4)))) hcodes
    · intro v hv
      obtain ⟨p, hp, rfl⟩ := List.mem_map.mp hv
      simp only [Function.comp_apply, hcode p hp, and_self]

end

/-- The integer commands of the vector unit issue `bodyInt` with an operation that is theirs modulo 2^32. -/
theorem descCommand_of_intVecCommand {i : Instr} {b : Fin 32} {k : Fin 16} {vop : Nat} {op : Int → Int → Int}
    (h : intVecCommand i = some (b, k, vop, op)) : ∃ cov op', descCommand i = some (b, k, .vec 0x10 vop, bodyInt cov op') ∧
      ∀ (d : Desc) (f g : Fmt) (p q : Nat), d.b 4 39 = false →
        (-(2 ^ 31) ≤ op' d (intOf f p) (intOf g q) ∧ op' d (intOf f p) (intOf g q) < 2 ^ 31) ∧
        unsigned 32 (op' d (intOf f p) (intOf g q)) = unsigned 32 (op (intOf f p) (intOf g q)) := by
  have hwrap : ∀ j : Int, (-(2 ^ 31) ≤ wrap32 j ∧ wrap32 j < 2 ^ 31) ∧ unsigned 32 (wrap32 j) = unsigned 32 j :=
    fun j => ⟨wrap_range j, unsigned_wrap j⟩
  cases i <;> simp only [intVecCommand, reduceCtorEq, Option.some.injEq] at h
  case iadd => obtain ⟨rfl, rfl, rfl, rfl⟩ := h; exact ⟨true, _, rfl, fun _ _ _ _ _ _ => hwrap _⟩
  case isub => obtain ⟨rfl, rfl, rfl, rfl⟩ := h; exact ⟨true, _, rfl, fun _ _ _ _ _ _ => hwrap _⟩
  case imul =>
    obtain ⟨rfl, rfl, rfl, rfl⟩ := h
    refine ⟨true, _, rfl, fun d f g p q hd => ?_⟩
    simp only [imulOp, hd, Bool.false_eq_true, if_false]
    exact hwrap _
  case imax =>
    obtain ⟨rfl, rfl, rfl, rfl⟩ := h
    refine ⟨false, _, rfl, fun d f g p q _ => ?_⟩
    have h1 := intOf_range f p
    have h2 := intOf_range g q
    have hmax : (if intOf f p < intOf g q then intOf g q else intOf f p) = max (intOf f p) (intOf g q) := by
      rw [max_def_lt]
    rw [hmax]
    exact ⟨⟨le_trans h1.1 (le_max_left _ _), max_lt h1.2 h2.2⟩, rfl⟩

/-- Settles O8: the body of each integer command writes results within INT32 that are the exact ones modulo 2^32. -/
theorem integerVectorResults : Obligations.IntegerVectorResults := by
  unfold Obligations.IntegerVectorResults
  intro i b k vop op s ch d js c c0 hi hr hd hc he hres ho hs hm
  obtain ⟨cov, op', hdc, hop⟩ := descCommand_of_intVecCommand hi
  subst hc
  have hbody := bodyInt_int32 (x := headCtx b k ch) cov op' he hres (fmtGet_of_fmtOf ho) (fun p _ => (hop d _ _ _ _ hm).1)
  simp only [(hop d _ _ _ _ hm).2] at hbody
  exact exec_headReady_ok hdc hr hd hbody (by rw [putMem_fab]; rfl)

/-- The float commands of two operands issue `bodyFloat` with their operation. -/
theorem descCommand_of_floatVecCommand {i : Instr} {b : Fin 32} {k : Fin 16} {vop : Nat} {op : Desc → Val → Val → Val}
    (h : floatVecCommand i = some (b, k, vop, op)) : ∃ cov, descCommand i = some (b, k, .vec 0x10 vop, bodyFloat true cov op) := by
  cases i <;> simp only [floatVecCommand, reduceCtorEq, Option.some.injEq] at h
  all_goals obtain ⟨rfl, rfl, rfl, rfl⟩ := h; exact ⟨_, rfl⟩

theorem floatVectorResults : FloatVectorResults := by
  intro i b k vop op s ch d js c c0 hi hr hd hc he hres ho
  obtain ⟨cov, hdc⟩ := descCommand_of_floatVecCommand hi
  subst hc
  have hbody := bodyFloat_two (x := headCtx b k ch) cov op he hres (fmtGet_of_fmtOf ho)
  have hx := exec_headReady_ok hdc hr hd hbody (by rw [putFp32_far]; rfl)
  unfold putFp32 at hx
  rwa [List.map_map] at hx

/-- A body that makes FP32 results of the codes of one operand (R49, R51, R479). -/
def WritesFp32Of (g : Desc → List Nat → List Val) (body : Ctx → Desc → Eff Unit) : Prop :=
  ∀ (x : Ctx) (d : Desc) (c : Chip), c.ecc = [] → c.residue = [] → fmtGet d.outFmt = .fp32 → body x d c =
    .ok () (putFp32 x d (g d (vecCodes c x.m (fmtGet d.aFmt) (d.f 1 0 23) (d.f 1 24 20))) c)

theorem descCommand_of_unaryVecCommand {i : Instr} {b : Fin 32} {k : Fin 16} {op vop : Nat} {g : Desc → List Nat → List Val}
    (h : unaryVecCommand i = some (b, k, op, vop, g)) :
    ∃ body, descCommand i = some (b, k, .vec op vop, body) ∧ WritesFp32Of g body := by
  cases i <;> simp only [unaryVecCommand, reduceCtorEq, Option.some.injEq] at h
  all_goals obtain ⟨rfl, rfl, rfl, rfl, rfl⟩ := h; refine ⟨_, rfl, fun x d c he hr ho => ?_⟩
  case scale => exact bodyFloat_one true _ (fun d v => fMul v (immVal d)) (fun _ _ _ => rfl) he hr ho
  case cvt => exact bodyFloat_one false _ (fun _ v => v) (fun _ _ _ => rfl) he hr ho
  case rowMax => exact bodyRow_fp32 rowMaxOf he hr ho
  case rowSum => exact bodyRow_fp32 rowSumOf he hr ho
  case exp2 => exact bodySfu_fp32 1 he hr ho
  case recip => exact bodySfu_fp32 2 he hr ho
  case rsqrt => exact bodySfu_fp32 3 he hr ho
  case log2 => exact bodySfu_fp32 4 he hr ho
  case tanh => exact bodySfu_fp32 5 he hr ho

theorem unaryVectorResults : UnaryVectorResults := by
  intro i b k op vop g s ch d js c c0 hi hr hd hc he hres ho
  obtain ⟨body, hdc, hbody⟩ := descCommand_of_unaryVecCommand hi
  subst hc
  exact exec_headReady_ok hdc hr hd (hbody (headCtx b k ch) d _ he hres (fmtGet_of_fmtOf ho)) (putFp32_far _)

/-- Settles O9: each float command writes, in FP32, what its operation makes of its operands. -/
theorem floatVectorOperations : Obligations.FloatVectorOperations := ⟨floatVectorResults, unaryVectorResults⟩

/-! ### The special cases of the special functions (R51) -/

/-- The sign, exponent and fraction of an FP32 code. -/
theorem valOf_fp32 (x : Nat) : valOf .fp32 x =
    if fld x 23 8 = 255 then (if fld x 0 23 = 0 then .inf (bit x 31) else .nan)
    else if fld x 23 8 = 0 then .fin (bit x 31) (fld x 0 23) (-149)
    else .fin (bit x 31) (2 ^ 23 + fld x 0 23) ((fld x 23 8 : Nat) - 150) := by
  unfold valOf floatVal
  by_cases h1 : fld x 23 8 = 255
  · simp [h1]
  · by_cases h0 : fld x 23 8 = 0
    · simp [h0]
    · simp [h1, h0]; omega

theorem bit_31 (x : Nat) : bit x 31 = decide (x / 2 ^ 31 % 2 = 1) := Nat.testBit_eq_decide_div_mod_eq

/-- A code with the sign bit added has the value with the other sign. -/
theorem valOf_fp32_add_sign {x : Nat} (h : x < 2 ^ 31) : valOf .fp32 (x + 0x80000000) = (valOf .fp32 x).neg := by
  have he : fld (x + 0x80000000) 23 8 = fld x 23 8 := by unfold fld; omega
  have hm : fld (x + 0x80000000) 0 23 = fld x 0 23 := by unfold fld; omega
  have hs : bit (x + 0x80000000) 31 = !bit x 31 := by
    rw [bit_31, bit_31, decide_eq_true (by omega : (x + 0x80000000) / 2 ^ 31 % 2 = 1), decide_eq_false (by omega : ¬ x / 2 ^ 31 % 2 = 1)]
    rfl
  simp only [valOf_fp32, he, hm, hs]
  split
  · split <;> rfl
  · split <;> rfl

theorem sfuOf_nan (op : Nat) {arg : Nat} (h : valOf .fp32 arg = .nan) : sfuOf op arg = 0x7FC00000 := by
  unfold sfuOf
  rw [h]

/-- RSQRT and LOG2 of a negative value that is not zero are NaN. -/
theorem sfuOf_negative {arg : Nat} (lo : 0x80000000 < arg) (hi : arg ≤ 0xFF800000) :
    sfuOf 3 arg = 0x7FC00000 ∧ sfuOf 4 arg = 0x7FC00000 := by
  have hs : bit arg 31 = true := by rw [bit_31]; exact decide_eq_true (by omega)
  have hv : valOf .fp32 arg = .inf true ∨ ∃ m e, m ≠ 0 ∧ valOf .fp32 arg = .fin true m e := by
    rw [valOf_fp32, hs]
    split
    · next he =>
      rw [if_pos (by unfold fld at he ⊢; omega)]
      exact .inl rfl
    · split
      · next h0 => exact .inr ⟨_, _, by unfold fld at h0 ⊢; omega, rfl⟩
      · exact .inr ⟨_, _, by omega, rfl⟩
  rcases hv with hv | ⟨m, e, hm, hv⟩ <;> unfold sfuOf <;> simp only [hv]
  · exact ⟨rfl, rfl⟩
  · simp [hm]

theorem atLeast_of_nonneg {m k q : Nat} {e : Int} (he : 0 ≤ e) (h : k ≤ m * 2 ^ q) : atLeast m e k q = true := by
  have h1 : 1 ≤ 2 ^ e.toNat := Nat.one_le_two_pow
  have h2 := Nat.mul_le_mul_left (m * 2 ^ q) h1
  unfold atLeast scaled
  rw [if_pos he]
  exact decide_eq_true (by omega)

theorem atLeast_of_neg {m k q : Nat} {e : Int} (he : e < 0) (h : k * 2 ^ (-e).toNat ≤ m * 2 ^ q) : atLeast m e k q = true := by
  unfold atLeast scaled
  rw [if_neg (by omega)]
  exact decide_eq_true (by rwa [Nat.one_mul])

/-- A magnitude from 9.5 up, infinity included. -/
theorem valOf_fp32_large {arg : Nat} (lo : 0x41180000 ≤ arg) (hi : arg ≤ 0x7F800000) :
    valOf .fp32 arg = .inf false ∨ ∃ m e, m ≠ 0 ∧ atLeast m e 19 1 = true ∧ valOf .fp32 arg = .fin false m e := by
  have hs : bit arg 31 = false := by rw [bit_31]; exact decide_eq_false (by omega)
  have hE : 130 ≤ fld arg 23 8 := by unfold fld; omega
  rw [valOf_fp32, hs]
  by_cases he : fld arg 23 8 = 255
  · rw [if_pos he, if_pos (by unfold fld at he ⊢; omega)]
    exact .inl rfl
  rw [if_neg he, if_neg (by omega)]
  refine .inr ⟨_, _, by omega, ?_, rfl⟩
  by_cases h150 : 150 ≤ fld arg 23 8
  · exact atLeast_of_nonneg (by omega) (by omega)
  refine atLeast_of_neg (by omega) ?_
  by_cases h0 : fld arg 23 8 = 130
  · have hm : 0x180000 ≤ fld arg 0 23 := by unfold fld at h0 ⊢; omega
    have hq : (-(((fld arg 23 8 : Nat) : Int) - 150)).toNat = 20 := by omega
    rw [hq]
    omega
  · have h1 : (-(((fld arg 23 8 : Nat) : Int) - 150)).toNat ≤ 19 := by omega
    have := Nat.pow_le_pow_right (n := 2) (by omega) h1
    omega

theorem sfuOf_tanh_inf {arg : Nat} {s : Bool} (h : valOf .fp32 arg = .inf s) : sfuOf 5 arg = withSign 32 s 0x3F800000 := by
  unfold sfuOf
  simp only [h]

theorem sfuOf_tanh_atLeast {arg m : Nat} {s : Bool} {e : Int} (h : valOf .fp32 arg = .fin s m e) (hm : m ≠ 0)
    (ha : atLeast m e 19 1 = true) : sfuOf 5 arg = withSign 32 s 0x3F800000 := by
  unfold sfuOf
  simp only [h, hm, ha, if_false, if_true]

/-- TANH of a magnitude from 9.5 up is 1 with the sign of the argument. -/
theorem sfuOf_tanh_large {arg : Nat} (lo : 0x41180000 ≤ arg) (hi : arg ≤ 0x7F800000) :
    sfuOf 5 arg = 0x3F800000 ∧ sfuOf 5 (arg + 0x80000000) = 0xBF800000 := by
  have hneg := valOf_fp32_add_sign (x := arg) (by omega)
  have hpos : withSign 32 false 0x3F800000 = 0x3F800000 := by decide
  have hsgn : withSign 32 true 0x3F800000 = 0xBF800000 := by decide
  rw [← hpos, ← hsgn]
  rcases valOf_fp32_large lo hi with hv | ⟨m, e, hm, ha, hv⟩ <;> rw [hv] at hneg
  · exact ⟨sfuOf_tanh_inf hv, sfuOf_tanh_inf hneg⟩
  · exact ⟨sfuOf_tanh_atLeast hv hm ha, sfuOf_tanh_atLeast hneg hm ha⟩

/-- Settles O10: NaN, the negative and the large arguments in general, every other special case by evaluation. -/
theorem specialFunctionSpecialCases : Obligations.SpecialFunctionSpecialCases := by
  unfold Obligations.SpecialFunctionSpecialCases
  refine ⟨fun op arg h => sfuOf_nan op h, ?_, ?_, ?_, ?_, ?_, ?_, ?_, ?_, fun _ => sfuOf_negative, ?_, ?_, ?_, ?_, ?_, ?_,
    fun _ => sfuOf_tanh_large⟩ <;> decide +kernel

end Sys2Proof.Machine
end

section
/-! PROOFS. A descriptor rejected at issue (R45): what a report, a message to other hubs and a containment leave of a package without run-ahead
copies (memory, the event counters, the registers of the basins), and the stop of a chain put together from them. -/

namespace Sys2Proof.Machine

/-! ### The registers that messages to other hubs leave alone (R311 to R318) -/

/-- Every register outside the link counters reads as before. -/
def LinkRegsOnly (c d : Chip) : Prop := ∀ off, off < 0x25400 ∨ 0x25580 ≤ off → getReg d off = getReg c off

theorem LinkRegsOnly.refl (c : Chip) : LinkRegsOnly c c := fun _ _ => rfl

theorem LinkRegsOnly.trans {c d e : Chip} (h : LinkRegsOnly c d) (k : LinkRegsOnly d e) : LinkRegsOnly c e :=
  fun off ho => (k off ho).trans (h off ho)

theorem LinkRegsOnly.foldl {α : Type} {f : Chip → α → Chip} (h : ∀ c x, LinkRegsOnly c (f c x)) (xs : List α) (c : Chip) :
    LinkRegsOnly c (xs.foldl f c) := by
  induction xs generalizing c with
  | nil => exact .refl c
  | cons x xs ih => exact (h c x).trans (ih _)

theorem sendFlit_regs (l : Fin 12) (nak : Bool) (f : Flit) (c : Chip) : LinkRegsOnly c (sendFlit l nak f c) := fun _ _ => rfl

theorem modLink_linkRegs (l : Fin 12) (f : Link → Link) (c : Chip) : LinkRegsOnly c (modLink l f c) := fun _ _ => rfl

theorem emit_linkRegs (x : Emit) (c : Chip) : LinkRegsOnly c (emit x c) := fun _ _ => rfl

theorem endWait_regs (l : Fin 12) (c : Chip) : LinkRegsOnly c (endWait l c) := by
  intro off ho
  unfold endWait
  split
  · refine (getReg_bump_ne (p := off) (o := rLinkCtr l.val 4) _ _ ?_).trans rfl
    have := l.isLt
    unfold rLinkCtr
    omega
  · rfl

theorem creditBack_regs (o : Option (Fin 12)) (v : Nat) {c d : Chip} (h : LinkRegsOnly c d) :
    LinkRegsOnly c (match o with | some o => returnCredit o v d | none => d) := by
  cases o <;> exact h

theorem pump_regs (l : Fin 12) (n : Nat) (c : Chip) : LinkRegsOnly c (pump l n c) := by
  induction n generalizing c with
  | zero => exact .refl c
  | succ n ih =>
    unfold pump
    dsimp only
    split
    · exact .refl c
    · split
      · split <;> exact fun _ _ => rfl
      · refine LinkRegsOnly.trans ?_ (ih _)
        exact creditBack_regs _ _ ((endWait_regs _ _).trans ((modLink_linkRegs _ _ _).trans (sendFlit_regs _ _ _ _)))

theorem enqueue_regs (l : Fin 12) (o : Option (Fin 12)) (f : Flit) (c : Chip) : LinkRegsOnly c (enqueue l o f c) :=
  LinkRegsOnly.trans (fun _ _ => rfl) (pump_regs l _ _)

theorem sendTree_regs (ds : List Nat) (f : Flit) (c : Chip) : LinkRegsOnly c (sendTree ds f c) := by
  unfold sendTree
  refine LinkRegsOnly.foldl (fun c h => ?_) _ c
  split
  · exact enqueue_regs _ _ _ _
  · exact .refl c

theorem sendMsg_regs (ds : List Nat) (tag : Nat) (x : HubMsg) (c : Chip) : LinkRegsOnly c (sendMsg ds tag x c) := by
  unfold sendMsg
  dsimp only
  split
  · exact .refl c
  · exact (LinkRegsOnly.foldl (fun c p => emit_linkRegs _ c) _ c).trans (sendTree_regs _ _ _)

theorem sendConfirmed_regs (ds : List Nat) (x : HubMsg) (c : Chip) : LinkRegsOnly c (sendConfirmed ds x c) := by
  unfold sendConfirmed
  dsimp only
  split
  · exact .refl c
  · exact LinkRegsOnly.trans (fun _ _ => rfl) (sendMsg_regs _ _ _ _)

/-! ### What a stop leaves alone -/

/-- Memory, the event counters and the registers of the basins are as before, and what was stopped in a basin stays so. -/
structure Calm (c d : Chip) : Prop where
  mem : d.mem = c.mem
  regs : ∀ off, 0x20000 ≤ off → off < 0x22600 → getReg d off = getReg c off
  ctr : ∀ a : Fin 32, d.basins[a].ctr = c.basins[a].ctr
  stopped : ∀ a : Fin 32, ∀ j ∈ c.basins[a].stopped, j ∈ d.basins[a].stopped

/-- The chains are as before as well. -/
structure Quiet (c d : Chip) : Prop extends Calm c d where
  chains : ∀ a : Fin 32, d.basins[a].chains = c.basins[a].chains

theorem Calm.trans {c d e : Chip} (h : Calm c d) (k : Calm d e) : Calm c e where
  mem := k.mem.trans h.mem
  regs off lo hi := (k.regs off lo hi).trans (h.regs off lo hi)
  ctr a := (k.ctr a).trans (h.ctr a)
  stopped a j hj := k.stopped a j (h.stopped a j hj)

theorem Quiet.trans {c d e : Chip} (h : Quiet c d) (k : Quiet d e) : Quiet c e where
  toCalm := h.toCalm.trans k.toCalm
  chains a := (k.chains a).trans (h.chains a)

/-- A change of registers other than the basins', and of nothing else that is looked at. -/
theorem Quiet.of_regs {c d : Chip} (hm : d.mem = c.mem) (hb : d.basins = c.basins)
    (hr : ∀ off, 0x20000 ≤ off → off < 0x22600 → getReg d off = getReg c off) : Quiet c d where
  mem := hm
  regs := hr
  ctr a := by rw [hb]
  stopped a j hj := by rwa [hb]
  chains a := by rw [hb]

theorem Quiet.refl (c : Chip) : Quiet c c := .of_regs rfl rfl fun _ _ _ => rfl

theorem Calm.modBasin {b : Fin 32} {f : Basin → Basin} (c : Chip) (hc : ∀ s, (f s).ctr = s.ctr) (hs : ∀ s, ∀ j ∈ s.stopped, j ∈ (f s).stopped) :
    Calm c (modBasin b f c) where
  mem := rfl
  regs _ _ _ := rfl
  ctr a := by
    by_cases h : a = b
    · subst h; rw [basins_modBasin_self, hc]
    · rw [basins_modBasin_ne _ _ h]
  stopped a j hj := by
    by_cases h : a = b
    · subst h; rw [basins_modBasin_self]; exact hs _ j hj
    · rwa [basins_modBasin_ne _ _ h]

theorem Quiet.modBasin {b : Fin 32} {f : Basin → Basin} (c : Chip) (hc : ∀ s, (f s).ctr = s.ctr)
    (hs : ∀ s, ∀ j ∈ s.stopped, j ∈ (f s).stopped) (hk : ∀ s, (f s).chains = s.chains) : Quiet c (modBasin b f c) where
  toCalm := Calm.modBasin c hc hs
  chains a := by
    by_cases h : a = b
    · subst h; rw [basins_modBasin_self, hk]
    · rw [basins_modBasin_ne _ _ h]

theorem report_quiet (r : Report) (c : Chip) (hs : r.sev ≤ 3) : Quiet c (report r c) := by
  obtain ⟨rg, rc, h⟩ := report_eq r c
  refine .of_regs (by rw [h]) (by rw [h]) fun off lo hi => ?_
  apply getReg_report <;> simp only [rErrLast, rStatus, rErDrop, rMirrorLost, rErSeq, rErStatus] <;> omega

theorem sendConfirmed_quiet (ds : List Nat) (x : HubMsg) (c : Chip) : Quiet c (sendConfirmed ds x c) := by
  obtain ⟨o, f, rg, rm, h⟩ := sendConfirmed_wire ds x c
  exact .of_regs (by rw [h]) (by rw [h]) fun off lo hi => sendConfirmed_regs ds x c off (.inl (by omega))

theorem bump_quiet (c : Chip) {off : Nat} (n : Nat) (h : off < 0x20000 ∨ 0x22600 ≤ off) : Quiet c (bump c off n) := by
  obtain ⟨rg, he⟩ := bump_eq c off n
  exact .of_regs (by rw [he]) (by rw [he]) fun o lo hi => getReg_bump_ne c n (by omega)

/-! ### Containment where no run-ahead copy waits (R191, R425) -/

/-- No queued item and no chain of the basin has a run-ahead copy. -/
def NoAheadBasin (s : Basin) : Prop := (∀ q ∈ s.queue, q.ahead.getD [] = []) ∧ ∀ p ∈ chainsOf s, p.2.ahead = []

theorem noRunAhead_iff (c : Chip) : NoRunAhead c ↔ ∀ a : Fin 32, NoAheadBasin c.basins[a] := Iff.rfl

theorem noAheadBasin_congr {s t : Basin} (hq : ∀ q ∈ t.queue, q ∈ s.queue ∨ q.ahead = none) (hk : t.chains = s.chains)
    (h : NoAheadBasin s) : NoAheadBasin t := by
  refine ⟨fun q hmem => ?_, fun p hp => h.2 p (by unfold chainsOf at hp ⊢; rwa [hk] at hp)⟩
  rcases hq q hmem with hs | hn
  · exact h.1 q hs
  · rw [hn]; rfl

theorem noRunAhead_modBasin {b : Fin 32} {f : Basin → Basin} {c : Chip} (h : NoRunAhead c)
    (hf : NoAheadBasin c.basins[b] → NoAheadBasin (f c.basins[b])) : NoRunAhead (modBasin b f c) := by
  rw [noRunAhead_iff] at h ⊢
  intro a
  by_cases hab : a = b
  · subst hab; rw [basins_modBasin_self]; exact hf (h a)
  · rw [basins_modBasin_ne _ _ hab]; exact h a

theorem noRunAhead_of_basins {c d : Chip} (h : NoRunAhead c) (hb : d.basins = c.basins) : NoRunAhead d := by
  rw [noRunAhead_iff] at h ⊢
  rw [hb]; exact h

theorem discardCopies_nil (b : Fin 32) (c : Chip) : discardCopies b [] c = c := rfl

/-- Queued items without run-ahead copies lose nothing but the mark that their chain has issued. -/
theorem discardAhead_noRunAhead {b : Fin 32} {c : Chip} (p : QItem → Bool) (h : NoRunAhead c) : discardAhead b p c =
    modBasin b (fun s => { s with queue := s.queue.map (fun q => if p q then { q with ahead := none } else q) }) c := by
  unfold discardAhead
  have hnil : ∀ xs ∈ (c.basins[b].queue.filter p).filterMap (·.ahead), xs = [] := by
    intro xs hxs
    obtain ⟨q, hq, hqa⟩ := List.mem_filterMap.mp hxs
    have := (h b).1 q (List.mem_of_mem_filter hq)
    rwa [hqa] at this
  have hfold : ∀ ls : List (List RunCopy), (∀ xs ∈ ls, xs = []) → ls.foldl (fun c xs => discardCopies b xs c) c = c := by
    intro ls
    induction ls with
    | nil => exact fun _ => rfl
    | cons xs ls ih =>
      intro hls
      rw [List.foldl_cons, hls xs List.mem_cons_self, discardCopies_nil]
      exact ih fun ys hy => hls ys (List.mem_cons_of_mem _ hy)
  dsimp only
  rw [hfold _ hnil]

theorem discardBegun_noRunAhead {b : Fin 32} {c : Chip} (j : Nat) (h : NoRunAhead c) : discardBegun b j c = c := by
  unfold discardBegun
  have hfold : ∀ ps : List (Fin 16 × Chain), (∀ p ∈ ps, p.2.ahead = []) → ps.foldl (fun c p =>
      if p.2.begun || p.2.item.job.toNat != j || p.2.ahead == [] then c
      else setChain b p.1 (some { p.2 with ahead := [] }) (discardCopies b p.2.ahead c)) c = c := by
    intro ps
    induction ps with
    | nil => exact fun _ => rfl
    | cons p ps ih =>
      intro hps
      rw [List.foldl_cons, if_pos (by simp [hps p List.mem_cons_self])]
      exact ih fun q hq => hps q (List.mem_cons_of_mem _ hq)
  exact hfold _ (h b).2

/-- One basin's part of a containment. -/
theorem discardJob_quiet {b : Fin 32} {c : Chip} (j : Nat) (p : QItem → Bool) (h : NoRunAhead c) :
    Quiet c (discardBegun b j (discardAhead b p c)) ∧ NoRunAhead (discardBegun b j (discardAhead b p c)) := by
  have hn : NoRunAhead (discardAhead b p c) := by
    rw [discardAhead_noRunAhead p h]
    refine noRunAhead_modBasin h (noAheadBasin_congr (fun q hq => ?_) rfl)
    obtain ⟨q', hq', rfl⟩ := List.mem_map.mp hq
    split
    · exact .inr rfl
    · exact .inl hq'
  rw [discardBegun_noRunAhead j hn]
  refine ⟨?_, hn⟩
  rw [discardAhead_noRunAhead p h]
  exact Quiet.modBasin c (fun _ => rfl) (fun _ _ hj => hj) (fun _ => rfl)

theorem contain_quiet {c : Chip} (j code : Nat) (h : NoRunAhead c) : Quiet c (contain j code c) := by
  unfold contain
  split
  · exact .refl c
  · have h1 : Quiet c (bump (modJob j (fun x => { x with contained := true, code := code }) c) (rRcCtr 0)) :=
      (Quiet.of_regs rfl rfl fun _ _ _ => rfl : Quiet c (modJob j _ c)).trans (bump_quiet (off := rRcCtr 0) _ 1 (by decide))
    have hfold : ∀ (bs : List (Fin 32)) (c : Chip), NoRunAhead c →
        Quiet c (bs.foldl (fun c b => discardBegun b j (discardAhead b (fun q => q.item.job.toNat == j) c)) c) := by
      intro bs
      induction bs with
      | nil => exact fun c _ => .refl c
      | cons b bs ih =>
        intro c hc
        obtain ⟨hq, hn⟩ := discardJob_quiet (b := b) j (fun q => q.item.job.toNat == j) hc
        exact hq.trans (ih _ hn)
    obtain ⟨rg, hb⟩ := bump_eq (modJob j (fun x => { x with contained := true, code := code }) c) (rRcCtr 0) 1
    exact (h1.trans (hfold _ _ (noRunAhead_of_basins h (by rw [hb]; rfl)))).trans (sendConfirmed_quiet _ _ _)

/-! ### The stop of a chain (R45) -/

/-- The package once an error is noted against a job of a basin: BS_ERR_n, BS_ERRID_n, and the job stopped there. -/
def errNoted (b : Fin 32) (job seq : Nat) (e : Stop) (c : Chip) : Chip :=
  modBasin b (fun s => { s with stopped := insertNat job s.stopped })
    (putReg (putReg c (rErr b.val) (e.code + e.unit * 65536)) (rErrId b.val) (seq + job * 65536))

theorem mem_insertNat (n : Nat) (l : List Nat) : n ∈ insertNat n l := by
  induction l with
  | nil => simp [insertNat]
  | cons k r ih => unfold insertNat; split <;> [simp; split <;> simp_all]

theorem mem_insertNat_of_mem {n m : Nat} {l : List Nat} (h : m ∈ l) : m ∈ insertNat n l := by
  induction l with
  | nil => cases h
  | cons k r ih =>
    unfold insertNat
    split
    · exact List.mem_cons_of_mem _ h
    · split
      · exact h
      · rcases List.mem_cons.mp h with rfl | h
        · exact List.mem_cons_self
        · exact List.mem_cons_of_mem _ (ih h)

theorem sevOf_le (code : Nat) : sevOf code ≤ 3 := by
  unfold sevOf
  split_ifs
  · decide
  · decide
  · decide
  · decide
  · decide
  · split <;> decide

/-- An error in a basin is noted; its report and the containment leave the rest. -/
theorem basinError_quiet {b : Fin 32} {job seq : Nat} {e : Stop} {c : Chip} (h : NoRunAhead c) :
    Quiet (errNoted b job seq e c) (basinError b job seq e c) := by
  have hn : NoRunAhead (errNoted b job seq e c) :=
    noRunAhead_modBasin (noRunAhead_of_basins h rfl) (noAheadBasin_congr (fun q hq => .inl hq) rfl)
  have key : ∀ c', Quiet (errNoted b job seq e c) c' → c'.basins = (errNoted b job seq e c).basins →
      Quiet (errNoted b job seq e c) (contain job e.code c') := fun c' hq hb => hq.trans (contain_quiet job e.code (noRunAhead_of_basins hn hb))
  have hs : max 2 (sevOf e.code) ≤ 3 := by have := sevOf_le e.code; omega
  unfold basinError
  dsimp only
  split
  · exact key _ (.refl _) rfl
  · generalize hr : Report.mk _ _ _ _ _ _ _ _ _ _ _ _ = r
    have hr3 : r.sev ≤ 3 := by rw [← hr]; exact hs
    obtain ⟨rg, rc, he⟩ := report_eq r (errNoted b job seq e c)
    exact key _ (report_quiet r _ hr3) ((congrArg Chip.basins he).trans rfl)

/-- The chain in a context holds no ticket. -/
def NoTicket (c : Chip) (b : Fin 32) (k : Fin 16) : Prop := ∀ x, c.basins[b].chains[k] = some x → x.ticket = none

theorem releaseTicket_none {c : Chip} {b : Fin 32} {k : Fin 16} (h : NoTicket c b k) : releaseTicket b k c = c := by
  unfold releaseTicket
  split
  · rfl
  · next ch hch => rw [h ch hch]

theorem setChain_calm (b : Fin 32) (k : Fin 16) (o : Option Chain) (c : Chip) : Calm c (setChain b k o c) :=
  Calm.modBasin c (fun _ => rfl) (fun _ _ hj => hj)

/-- A context without a ticket is freed. -/
theorem freeContext_calm {c : Chip} {b : Fin 32} {k : Fin 16} (h : NoTicket c b k) : Calm c (freeContext b k c) := by
  unfold freeContext
  split
  · exact (Quiet.refl c).toCalm
  · next ch hch =>
    dsimp only
    rw [releaseTicket_none h]
    refine (setChain_calm b k none c).trans ((bump_quiet _ _ ?_).toCalm.trans (Calm.modBasin _ (fun _ => rfl) (fun _ _ hj => hj)))
    have := b.isLt
    unfold rWqCtr
    omega

theorem freeStopped_calm {c : Chip} {b : Fin 32} {k : Fin 16} (h : NoTicket c b k) : Calm c (freeStopped b k c) := by
  unfold freeStopped
  split
  · exact (Quiet.refl c).toCalm
  · split
    · exact freeContext_calm h
    · exact (Quiet.refl c).toCalm

theorem noTicket_of_quiet {c d : Chip} {b : Fin 32} {k : Fin 16} (h : NoTicket c b k) (q : Quiet c d) : NoTicket d b k :=
  fun x hx => h x (by rw [← q.chains b]; exact hx)

/-- The package as a chain stops, before the error is noted. -/
def chainStopped (b : Fin 32) (k : Fin 16) (ch : Chain) (c : Chip) : Chip :=
  modBasin b (fun s => { s with drain := s.drain.filter (· != k) }) (setChain b k (some { ch with stopped := true, acc := none }) c)

theorem mem_chainsOf {s : Basin} {p : Fin 16 × Chain} : p ∈ chainsOf s ↔ s.chains[p.1] = some p.2 := by
  unfold chainsOf
  rw [List.mem_filterMap]
  constructor
  · rintro ⟨k, -, h⟩
    obtain ⟨x, hx, rfl⟩ := Option.map_eq_some_iff.mp h
    exact hx
  · exact fun h => ⟨p.1, List.mem_finRange _, by rw [h]; rfl⟩

/-- The stop of a chain without a ticket, where no run-ahead copy waits, leaves what the error leaves. -/
theorem stopChain_calm {b : Fin 32} {k : Fin 16} {job seq : Nat} {e : Stop} {c : Chip} {ch : Chain} (hc : c.basins[b].chains[k] = some ch)
    (ht : ch.ticket = none) (hn : NoRunAhead c) :
    Calm (errNoted b job seq e (chainStopped b k ch c)) (stopChain b k job seq e c) := by
  have hn1 : NoRunAhead (chainStopped b k ch c) := by
    refine noRunAhead_modBasin (noRunAhead_modBasin hn fun hb => ⟨hb.1, fun p hp => ?_⟩) (noAheadBasin_congr (fun q hq => .inl hq) rfl)
    have hp' := mem_chainsOf.mp hp
    have hch := hb.2 (k, ch) (mem_chainsOf.mpr hc)
    by_cases hk : p.1 = k
    · simp only [hk, Vector.getElem_set_self, Fin.getElem_fin] at hp'
      rw [← Option.some.inj hp']; exact hch
    · refine hb.2 p (mem_chainsOf.mpr (Eq.trans ?_ hp'))
      have : k.val ≠ p.1.val := fun h => hk (Fin.ext h.symm)
      simp [this]
  have ht1 : NoTicket (errNoted b job seq e (chainStopped b k ch c)) b k := by
    intro x hx
    have : (errNoted b job seq e (chainStopped b k ch c)).basins[b].chains[k] = some { ch with stopped := true, acc := none } := by
      simp [errNoted, chainStopped]
    rw [this] at hx
    rw [← Option.some.inj hx]; exact ht
  have hfreed : ∀ d, Quiet (errNoted b job seq e (chainStopped b k ch c)) d →
      Calm (errNoted b job seq e (chainStopped b k ch c))
        (freeStopped b k (if ch.flight.any (fun f => fld (f.w.getD 0 0) 0 8 == 0x40) then d else releaseTicket b k d)) := by
    intro d hq
    have htd := noTicket_of_quiet ht1 hq
    rw [releaseTicket_none htd, ite_self]
    exact hq.toCalm.trans (freeStopped_calm htd)
  have herr : Quiet (errNoted b job seq e (chainStopped b k ch c))
      (basinError b job seq { e with step := ch.item.stepTag.toNat } (chainStopped b k ch c)) :=
    basinError_quiet (e := { e with step := ch.item.stepTag.toNat }) hn1
  unfold stopChain
  rw [hc]
  dsimp only
  refine hfreed _ ?_
  split
  · exact herr
  · split
    · exact herr.trans (Quiet.modBasin _ (fun _ => rfl) (fun _ _ hj => mem_insertNat_of_mem hj) fun _ => rfl)
    · exact herr.trans (sendConfirmed_quiet _ _ _)

/-! ### A rejection at issue -/

theorem getReg_errNoted {b : Fin 32} {job seq : Nat} {e : Stop} {c : Chip} {off : Nat} :
    getReg (errNoted b job seq e c) off = if off = rErrId b.val then (seq + job * 65536) % 2 ^ 32
      else if off = rErr b.val then (e.code + e.unit * 65536) % 2 ^ 32 else getReg c off := by
  show getReg (putReg (putReg c _ _) _ _) off = _
  rw [getReg_putReg, getReg_putReg]

/-- Settles O6: a rejection is the stop of the chain on the package that has counted it. -/
theorem rejectedDescriptorStopsItsJob : Obligations.RejectedDescriptorStopsItsJob := by
  unfold Obligations.RejectedDescriptorStopsItsJob
  intro i b k row body s ch d code hi hc hm hp hf hd ho hj hk ht hw hn
  obtain ⟨-, hnext⟩ := issue_fetched (body := body) hc hm hw hp hf hd
  have hissue := (hnext ho hj).1 code hk
  obtain ⟨rg, hb⟩ := bump_eq s.chip (rBasinCtr b.val 4) 1
  have hcalm := stopChain_calm (b := b) (k := k) (job := d.job) (seq := d.seq) (e := { code := code, unit := 0x34 })
    (c := bump s.chip (rBasinCtr b.val 4)) (ch := ch) (by rw [hb]; exact hc) ht (noRunAhead_of_basins hn (by rw [hb]))
  refine ⟨_, by rw [exec_descCommand hi, onChip_eq, hissue], sameRest_withChip s _, ?_⟩
  have hlt := b.isLt
  have hreg : ∀ off, 0x20000 ≤ off → off < 0x22600 → getReg (rejectHead b k d code s.chip) off =
      if off = rErrId b.val then (d.seq + d.job * 65536) % 2 ^ 32 else if off = rErr b.val then (code + 0x34 * 65536) % 2 ^ 32
      else getReg (bump s.chip (rBasinCtr b.val 4)) off :=
    fun off lo hi => (hcalm.regs off lo hi).trans getReg_errNoted
  have hid : rErr b.val ≠ rErrId b.val := by unfold rErr rErrId; omega
  have hctrId : rBasinCtr b.val 4 ≠ rErrId b.val := by unfold rBasinCtr rErrId; omega
  have hctrErr : rBasinCtr b.val 4 ≠ rErr b.val := by unfold rBasinCtr rErr; omega
  refine ⟨?_, ?_, hcalm.stopped b _ ?_, ?_, ?_, ?_⟩
  · exact hcalm.mem.trans (by rw [hb]; rfl)
  · refine (hcalm.ctr b).trans ?_
    rw [hb]; simp [errNoted, chainStopped]
  · rw [errNoted, basins_modBasin_self]; exact mem_insertNat _ _
  · refine (hreg _ ?_ ?_).trans ?_
    · unfold rErr; omega
    · unfold rErr; omega
    · rw [if_neg hid, if_pos rfl]
  · refine (hreg _ ?_ ?_).trans (if_pos rfl)
    · unfold rErrId; omega
    · unfold rErrId; omega
  · refine (hreg _ ?_ ?_).trans ?_
    · unfold rBasinCtr; omega
    · unfold rBasinCtr; omega
    · rw [if_neg hctrId, if_neg hctrErr]
      exact getReg_putReg_self _ _ _

end Sys2Proof.Machine
end

section
/-! PROOFS. Work queues (R177 to R181, R285): a post beside a queued item that has become held at the barrier of its set's replacement. -/

namespace Sys2Proof.Machine

/-- A queued item of job 6 whose run-ahead chain has issued: set 0, which job 6 is bound to, is being replaced from the item's step on, so
that the item is held at the barrier (R285). -/
def heldItem : QItem := { item := { job := 6 }, ahead := some [] }

/-- An ACTIVE package whose basin 0 has the held item in its queue, and one item to post at offset 0x1000 of its SRAM, of job 5. -/
def postBesideHeld : State :=
  let c := { State.reset.chip with regs := [(0x20, 0), (0x20000, 1), (rWqLo 0, 0x1000), (rSet 0 0, 3), (rMsJob 6, 0x10)],
                                   power := { State.reset.chip.power with aonHeld := false, boot := .ready },
                                   mem := memWriteN [] 0x80100001000 ([0x500000100, 0, 0, 0, 0, 0, 0, 0].flatMap (leBytes 8)) }
  { State.reset with chip := modBasin 0 (fun x => { x with queue := [heldItem] }) c }

/-- The queue of basin 0 after a step. -/
def queueAfter : Host.Outcome State Fault Refusal → List QItem
  | .next t => t.chip.basins[0].queue
  | _ => []

/-- The words of the posted item. -/
def postedWords : List (List Nat) := [[0x500000100, 0, 0, 0, 0, 0, 0, 0]]

/-- The post is one that the statement admits: it fits, lies at a multiple of 64 in readable memory, and its item passes the checks. -/
theorem postBesideHeld_admitted :
    hubOn postBesideHeld.chip = true ∧
    PlainRange postBesideHeld.chip (postAddr (storeReg postBesideHeld.chip (rWqHi 0) 0x10801) (rWqLo 0) (rWqHi 0)) 64 ∧
    postedWords = runWords 64 1 (memReadN postBesideHeld.chip.mem
      (postAddr (storeReg postBesideHeld.chip (rWqHi 0) 0x10801) (rWqLo 0) (rWqHi 0)) 64) ∧
    postAddr (storeReg postBesideHeld.chip (rWqHi 0) 0x10801) (rWqLo 0) (rWqHi 0) % 64 = 0 ∧
    ∀ w ∈ postedWords, itemBad (storeReg postBesideHeld.chip (rWqHi 0) 0x10801) (itemOf w) = false ∧
      itemLate (storeReg postBesideHeld.chip (rWqHi 0) 0x10801) (itemOf w) = false ∧ (itemOf w).kind ≠ 2 := by
  decide +kernel

/-- The post ends with the look at what is held (R285): the held item loses the mark that its run-ahead chain has issued. -/
theorem queueAfter_postBesideHeld : queueAfter (exec (.wqPost 1 0 0x10801) postBesideHeld) =
    { heldItem with ahead := none } :: queuedItems postedWords := by
  decide +kernel

/-- Refutes O21: a post looks at what is held (R285), so that the queue after it is not the one before it with the items put behind it
where a queued item with run-ahead copies is held. -/
theorem not_queuesFillAndStart : ¬ Obligations.QueuesFillAndStart := by
  unfold Obligations.QueuesFillAndStart
  rintro ⟨hpost, -⟩
  obtain ⟨hub, hplain, hwords, halign, hitems⟩ := postBesideHeld_admitted
  obtain ⟨hfits, -⟩ := hpost 1 0 0x10801 postBesideHeld _ _ 1 postedWords (by decide) hub rfl rfl (by decide) (by decide) hplain hwords
  obtain ⟨t, ht, -, hqueue, -⟩ := hfits (by decide) halign hitems
  have hafter := queueAfter_postBesideHeld
  rw [ht] at hafter
  have hhead := congrArg (fun q => q.head?.map (·.ahead)) (hqueue.symm.trans hafter)
  exact absurd hhead (by decide)

end Sys2Proof.Machine
end

section
/-! PROOFS. The change of ganging mode (R35): which waiting chain reached its head first, and what the change leaves. -/

namespace Sys2Proof.Machine

/-! ### The chain that reached its head first -/

/-- The earlier of the best so far and another waiting chain. -/
def earlier (best : Option (Fin 16 × Chain)) (p : Fin 16 × Chain) : Option (Fin 16 × Chain) :=
  match best with
  | none => some p
  | some q => if p.2.stamp < q.2.stamp then some p else some q

theorem firstWaiting_eq (s : Basin) : firstWaiting s = ((chainsOf s).filter (fun p => s.drain.contains p.1)).foldl earlier none := rfl

theorem foldl_earlier_keeps {p : Fin 16 × Chain} {l : List (Fin 16 × Chain)} (h : ∀ q ∈ l, q ≠ p → p.2.stamp < q.2.stamp) :
    l.foldl earlier (some p) = some p := by
  induction l with
  | nil => rfl
  | cons q l ih =>
    have hq : earlier (some p) q = some p := by
      by_cases hqp : q = p
      · simp [earlier, hqp]
      · have := h q List.mem_cons_self hqp
        simp [earlier, Nat.le_of_lt this]
    rw [List.foldl_cons, hq]
    exact ih fun r hr => h r (List.mem_cons_of_mem _ hr)

theorem foldl_earlier {p : Fin 16 × Chain} {l : List (Fin 16 × Chain)} (hp : p ∈ l) (h : ∀ q ∈ l, q ≠ p → p.2.stamp < q.2.stamp)
    {best : Option (Fin 16 × Chain)} (hb : ∀ q, best = some q → p.2.stamp < q.2.stamp) : l.foldl earlier best = some p := by
  induction l generalizing best with
  | nil => cases hp
  | cons q l ih =>
    rw [List.foldl_cons]
    have hl : ∀ r ∈ l, r ≠ p → p.2.stamp < r.2.stamp := fun r hr => h r (List.mem_cons_of_mem _ hr)
    by_cases hqp : q = p
    · have : earlier best q = some p := by
        cases best with
        | none => rw [hqp]; rfl
        | some r => rw [hqp]; exact if_pos (hb r rfl)
      rw [this]
      exact foldl_earlier_keeps hl
    · refine ih ((List.mem_cons.mp hp).resolve_left fun e => hqp e.symm) hl fun r hr => ?_
      cases best with
      | none => cases hr; exact h q List.mem_cons_self hqp
      | some t =>
        unfold earlier at hr
        dsimp only at hr
        split at hr <;> cases hr
        · exact h q List.mem_cons_self hqp
        · exact hb _ rfl

/-- A waiting chain that came to its head before every other one is the first. -/
theorem firstWaiting_some {s : Basin} {k : Fin 16} {ch : Chain} (hc : s.chains[k] = some ch) (hd : s.drain.contains k = true)
    (h : ∀ p ∈ chainsOf s, s.drain.contains p.1 = true → p.1 ≠ k → ch.stamp < p.2.stamp) : firstWaiting s = some (k, ch) := by
  rw [firstWaiting_eq]
  refine foldl_earlier (List.mem_filter.mpr ⟨mem_chainsOf.mpr hc, hd⟩) (fun q hq hne => ?_) (fun q hq => by cases hq)
  obtain ⟨hmem, hdrain⟩ := List.mem_filter.mp hq
  refine h q hmem hdrain fun hk => hne ?_
  obtain ⟨i, x⟩ := q
  cases (hk : i = k)
  rw [Option.some.inj (hc.symm.trans (mem_chainsOf.mp hmem))]

theorem firstWaiting_none {s : Basin} (h : ∀ p ∈ chainsOf s, s.drain.contains p.1 = false) : firstWaiting s = none := by
  have : (chainsOf s).filter (fun p => s.drain.contains p.1) = [] := List.filter_eq_nil_iff.mpr fun p hp => by rw [h p hp]; decide
  rw [firstWaiting_eq, this]; rfl

/-! ### Counters -/

theorem resets_lt : ∀ r ∈ regRows, r.reset < 2 ^ 32 := by decide +kernel

/-- A register holds 32 bits. -/
theorem getReg_lt (c : Chip) (off : Nat) : getReg c off < 2 ^ 32 := by
  unfold getReg
  split
  · exact BitVec.isLt _
  · unfold resetAt rowAt
    split
    · next h => exact resets_lt _ (List.mem_of_find?_eq_some h)
    · norm_num

theorem getReg_bump_self (c : Chip) (off n : Nat) : getReg (bump c off n) off = (getReg c off + n) % 2 ^ 32 := by
  unfold bump
  split
  · next h => rw [h, Nat.add_zero, Nat.mod_eq_of_lt (getReg_lt c off)]
  · exact getReg_putReg_self c off _

/-- A counter in units grows by the whole units, the remainder counted in. -/
theorem getReg_bumpUnits_self (c : Chip) (off unit n : Nat) :
    getReg (bumpUnits c off unit n) off = (getReg c off + (tabGet 0 c.rems off + n) / unit) % 2 ^ 32 :=
  getReg_bump_self _ _ _

theorem bumpUnits_mem_basins (c : Chip) (off unit n : Nat) : (bumpUnits c off unit n).mem = c.mem ∧ (bumpUnits c off unit n).basins = c.basins := by
  obtain ⟨rg, h⟩ := bump_eq { c with rems := tabSet c.rems off ((tabGet 0 c.rems off + n) % unit) } off ((tabGet 0 c.rems off + n) / unit)
  unfold bumpUnits
  rw [h]
  exact ⟨rfl, rfl⟩

/-! ### The change -/

/-- The heads that wait on after a change to mode `g`. -/
def waitsOn (c : Chip) (b : Fin 32) (g : Nat) (i : Fin 16) : Bool :=
  match c.basins[b].chains[i] with
  | some x => headGang c b i x != g
  | none => false

theorem waitsOn_some {c : Chip} {b : Fin 32} {i : Fin 16} {x : Chain} (g : Nat) (h : c.basins[b].chains[i] = some x) :
    waitsOn c b g i = (headGang c b i x != g) := by
  unfold waitsOn; rw [h]

/-- The package once its basin has changed to mode `g`. -/
def modeChanged (b : Fin 32) (cycles g : Nat) (c : Chip) : Chip :=
  modBasin b (fun s => { s with gang := g, drain := s.drain.filter (waitsOn c b g) }) (bumpUnits c (rBasinCtr b.val 3) 256 cycles)

theorem gangChange_first {b : Fin 32} {cycles wait : Nat} {c : Chip} {k : Fin 16} {ch : Chain} (hf : firstWaiting c.basins[b] = some (k, ch))
    (hi : jetsIdle c.basins[b] = true) : gangChange b cycles wait c =
      issue b k (fun _ => true) (jetBody wait) (modeChanged b cycles (headGang c b k ch) c) := by
  unfold gangChange
  rw [hf]
  simp only [hi, Bool.not_true, Bool.false_eq_true, if_false]
  rfl

/-- Settles O19: the first waiter's mode is taken up where the jets are idle; nothing happens where they are not, or where no chain waits. -/
theorem gangModeChangesForFirstWaiter : Obligations.GangModeChangesForFirstWaiter := by
  unfold Obligations.GangModeChangesForFirstWaiter
  refine ⟨fun b j s k ch hc hd hi hfirst => ?_, fun b j s h => ?_⟩
  · have hx : exec (.gangModeChange b j) s = .next (s.withChip (gangChange b j.drain j.vec s.chip)) := rfl
    rw [gangChange_first (firstWaiting_some hc hd hfirst) hi] at hx
    obtain ⟨hmem, hbas⟩ := bumpUnits_mem_basins s.chip (rBasinCtr b.val 3) 256 j.drain
    refine ⟨_, hx, ?_, hmem, ?_, fun i x hix => ?_, getReg_bumpUnits_self s.chip _ _ _⟩
    · rw [modeChanged, basins_modBasin_self]
    · rw [modeChanged, basins_modBasin_self, hbas]
    · rw [modeChanged, basins_modBasin_self, hbas]
      simp only [List.mem_filter, waitsOn_some _ hix, bne_iff_ne]
  · have hx : exec (.gangModeChange b j) s = .next (s.withChip (gangChange b j.drain j.vec s.chip)) := rfl
    suffices gangChange b j.drain j.vec s.chip = s.chip by rw [hx, this]
    unfold gangChange
    rcases h with h | h
    · split
      · rfl
      · rw [h]; rfl
    · rw [firstWaiting_none h]

end Sys2Proof.Machine
end

section
/-! PROOFS. Completion (R37, R39, R177, R215, R216): what each step of it leaves of a basin, put together for a descriptor that holds no pin,
no record and no ticket. -/

namespace Sys2Proof.Machine

/-! ### A basin as its completions see it -/

/-- Memory, the jobs of the recorder, and one basin's chains, event counters and coding slots. -/
@[ext] structure BasinView where
  mem : Memory
  jobs : Tab JobRc
  chains : Vector (Option Chain) 16
  ctr : Tab Nat
  slots : Vector Slot 16

def viewOf (b : Fin 32) (c : Chip) : BasinView :=
  { mem := c.mem, jobs := c.jobs, chains := c.basins[b].chains, ctr := c.basins[b].ctr, slots := c.basins[b].slots }

def BasinView.withSlots (v : BasinView) (s : Vector Slot 16) : BasinView := { v with slots := s }

def BasinView.withChain (v : BasinView) (k : Fin 16) (o : Option Chain) : BasinView := { v with chains := v.chains.set k.val o k.isLt }

def BasinView.signalled (v : BasinView) (n : Nat) : BasinView := { v with ctr := tabSet v.ctr n ((tabGet 0 v.ctr n + 1) % 65536) }

section
variable (b : Fin 32) (k : Fin 16) (c : Chip)

theorem viewOf_modBasin (f : Basin → Basin) (hk : (f c.basins[b]).chains = c.basins[b].chains) (hc : (f c.basins[b]).ctr = c.basins[b].ctr)
    (hs : (f c.basins[b]).slots = c.basins[b].slots) : viewOf b (modBasin b f c) = viewOf b c := by
  unfold viewOf
  simp only [basins_modBasin_self, hk, hc, hs]
  rfl

theorem viewOf_setChain (o : Option Chain) :
    viewOf b (setChain b k o c) = (viewOf b c).withChain k o := by
  unfold viewOf setChain
  simp only [basins_modBasin_self]
  rfl

theorem viewOf_signalled (n : Nat) : viewOf b (modBasin b (fun s => { s with ctr := tabSet s.ctr n ((tabGet 0 s.ctr n + 1) % 65536) }) c) =
    (viewOf b c).signalled n := by
  unfold viewOf
  simp only [basins_modBasin_self]
  rfl

theorem viewOf_modSlot (m : Nat) (f : Slot → Slot) :
    viewOf b (modSlot b m f c) = (viewOf b c).withSlots (modSlot b m f c).basins[b].slots := by
  unfold viewOf modSlot
  simp only [basins_modBasin_self]
  rfl

theorem slotAt_modSlot {m n : Nat} (hm : m < 16) (hn : n < 16) (f : Slot → Slot) :
    slotAt (modSlot b m f c) b n = if n = m then f (slotAt c b n) else slotAt c b n := by
  unfold slotAt modSlot
  simp only [basins_modBasin_self, Vector.getElem_set, Nat.mod_eq_of_lt hm, Nat.mod_eq_of_lt hn, eq_comm (a := m)]
  split
  · next h => simp only [h]
  · rfl

theorem viewOf_bump (off n : Nat) : viewOf b (bump c off n) = viewOf b c := by
  obtain ⟨rg, h⟩ := bump_eq c off n
  rw [h]; rfl

/-! ### What a completion releases -/

theorem viewOf_leaveEngine (id : Nat) : viewOf b (leaveEngine b k id c) = viewOf b c := viewOf_modBasin b c _ rfl rfl rfl

theorem viewOf_releaseFlight (step : Nat) {f : Flight} (hp : f.pins = []) (hb : f.busy = []) :
    viewOf b (releaseFlight b step f c) = viewOf b c := by
  unfold releaseFlight
  dsimp only
  rw [hp, hb, flushFar_none _ _ (by rfl)]
  show viewOf b (releasePins b f.job (fld (f.w.getD 0 0) 48 16) [] (beginFar (.done b f.job step) c)) = _
  unfold releasePins
  dsimp only
  rw [viewOf_modBasin b _ _ rfl rfl rfl]
  rfl

theorem viewOf_forgetFlight (id : Nat) : viewOf b (forgetFlight b k id c) = viewOf b c := rfl

end

/-- The holds that a coding takes are counted, each with its slot. -/
theorem takeHolds_slots (b : Fin 32) {hs : List (Nat × Nat)} (h16 : ∀ h ∈ hs, h.1 < 16) (c : Chip) :
    viewOf b (takeHolds b hs c) = (viewOf b c).withSlots (takeHolds b hs c).basins[b].slots ∧
    ∀ n, n < 16 → (slotAt (takeHolds b hs c) b n).state = (slotAt c b n).state ∧
      (slotAt (takeHolds b hs c) b n).holds = (slotAt c b n).holds + ((hs.filter (fun h => h.1 == n)).map (·.2)).sum := by
  induction hs generalizing c with
  | nil => exact ⟨rfl, fun n _ => ⟨rfl, rfl⟩⟩
  | cons h hs ih =>
    have h1 := h16 h List.mem_cons_self
    obtain ⟨hv, hslot⟩ := ih (fun x hx => h16 x (List.mem_cons_of_mem _ hx)) (modSlot b h.1 (fun t => { t with holds := t.holds + h.2 }) c)
    have hstep : takeHolds b (h :: hs) c = takeHolds b hs (modSlot b h.1 (fun t => { t with holds := t.holds + h.2 }) c) := rfl
    rw [hstep]
    refine ⟨by rw [hv, viewOf_modSlot]; rfl, fun n hn => ?_⟩
    rw [(hslot n hn).1, (hslot n hn).2, slotAt_modSlot b c h1 hn]
    by_cases he : n = h.1
    · simp [he, Nat.add_assoc]
    · simp [he, Ne.symm he]

/-- The tables that a table write has built are READY. -/
theorem tablesReady_slots (b : Fin 32) {ns : List Nat} (h16 : ∀ n ∈ ns, n < 16) (c : Chip) :
    viewOf b (tablesReady b ns c) = (viewOf b c).withSlots (tablesReady b ns c).basins[b].slots ∧
    ∀ n, n < 16 → (slotAt (tablesReady b ns c) b n).holds = (slotAt c b n).holds ∧ (slotAt (tablesReady b ns c) b n).state =
      if n ∈ ns ∧ (slotAt c b n).state = .building then .ready else (slotAt c b n).state := by
  induction ns generalizing c with
  | nil => exact ⟨rfl, fun n _ => ⟨rfl, by simp [tablesReady]⟩⟩
  | cons m ns ih =>
    have h1 := h16 m List.mem_cons_self
    obtain ⟨hv, hslot⟩ := ih (fun x hx => h16 x (List.mem_cons_of_mem _ hx))
      (modSlot b m (fun t => if t.state = .building then { t with state := .ready } else t) c)
    have hstep : tablesReady b (m :: ns) c =
      tablesReady b ns (modSlot b m (fun t => if t.state = .building then { t with state := .ready } else t) c) := rfl
    rw [hstep]
    refine ⟨by rw [hv, viewOf_modSlot]; rfl, fun n hn => ?_⟩
    rw [(hslot n hn).1, (hslot n hn).2, slotAt_modSlot b c h1 hn]
    by_cases he : n = m <;> by_cases hs : (slotAt c b n).state = .building
    · subst he; simp [hs]
    · subst he; simp [hs]
    · simp [he, hs]
    · simp [he, hs]

/-! ### The chain after a completion -/

section
variable {b : Fin 32} {k : Fin 16} {c : Chip} {ch : Chain}

theorem viewOf_signalCtr (n : Nat) (hc : c.basins[b].chains[k] = some ch) (hp : ch.place = .home) : viewOf b (signalCtr b k n c) =
    (viewOf b c).signalled n := by
  have hm : (ctxOf b k ch).m = b := by unfold ctxOf; rw [hp]
  unfold signalCtr
  rw [hc]
  simp only [hp, hm, reduceCtorEq, if_false]
  exact viewOf_signalled b c n

theorem noTicket_of_chain (hc : c.basins[b].chains[k] = some ch) (ht : ch.ticket = none) : NoTicket c b k :=
  fun x hx => by rw [hc] at hx; rw [← Option.some.inj hx, ht]

/-- A chain without a ticket frees its context, and nothing else that the view shows. -/
theorem viewOf_freeContext (hc : c.basins[b].chains[k] = some ch) (ht : ch.ticket = none) :
    viewOf b (freeContext b k c) = (viewOf b c).withChain k none := by
  unfold freeContext
  rw [hc]
  dsimp only
  rw [releaseTicket_none (noTicket_of_chain hc ht), viewOf_modBasin _ _ _ rfl rfl rfl, viewOf_bump, viewOf_setChain]

theorem afterComplete_goesOn {d : Desc} (hc : c.basins[b].chains[k] = some ch) (hs : ch.stopped = false) (hd : ch.lastDone = false)
    (hl : d.last = false) : afterComplete b k d c = c := by
  unfold afterComplete freeStopped
  simp only [hc, hl, hs, hd, Bool.false_and, Bool.false_eq_true, if_false, false_and]

/-- After a LAST descriptor the context is freed where nothing is in flight, and the chain is as before, but done, otherwise. -/
theorem viewOf_afterComplete_last {d : Desc} (hc : c.basins[b].chains[k] = some ch) (hp : ch.place = .home) (ht : ch.ticket = none)
    (hs : ch.stopped = false) (hi : ch.item.done = 0) (hl : d.last = true) : viewOf b (afterComplete b k d c) =
      (viewOf b c).withChain k (if ch.flight = [] then none else some { ch with lastDone := true }) := by
  have hset : (setChain b k (some { ch with lastDone := true }) c).basins[b].chains[k] = some { ch with lastDone := true } :=
    chains_setChain_self b k _ c
  have hdone : addDone b ch.item (setChain b k (some { ch with lastDone := true }) c) = setChain b k (some { ch with lastDone := true }) c := by
    unfold addDone; rw [hi]; rfl
  have hplace : ch.place ≠ .migrated := by rw [hp]; decide
  unfold afterComplete
  rw [hc]
  dsimp only
  rw [if_pos (show (d.last && !ch.stopped) = true by rw [hl, hs]; rfl), if_neg hplace, hdone, hset]
  dsimp only
  by_cases hf : ch.flight = []
  · rw [if_pos ⟨rfl, hf, hplace⟩, if_pos hf, viewOf_freeContext hset ht, viewOf_setChain]
    simp [BasinView.withChain]
  · have hfree : freeStopped b k (setChain b k (some { ch with lastDone := true }) c) = setChain b k (some { ch with lastDone := true }) c := by
      unfold freeStopped
      rw [hset]
      exact if_neg fun h => hf h.2
    rw [if_neg fun h => hf h.2.1, if_neg hf, hfree, viewOf_setChain]

end

/-! ### The whole completion -/

/-- The package once a descriptor in flight of a chain has left it, with what it held and the tables it built. -/
def flightLeft (b : Fin 32) (k : Fin 16) (ch : Chain) (f : Flight) (c : Chip) : Chip :=
  let c := leaveEngine b k f.id (setChain b k (some { ch with flight := ch.flight.filter (fun g => g.id != f.id) }) c)
  tablesReady b f.builds (takeHolds b f.holds (forgetFlight b k f.id (releaseFlight b (stepOf c b k) f c)))

theorem viewOf_flightLeft {b : Fin 32} {k : Fin 16} {ch : Chain} {f : Flight} {c : Chip} (hp : f.pins = []) (hb : f.busy = [])
    (hn : ∀ n ∈ f.builds, n < 16) (hh : ∀ h ∈ f.holds, h.1 < 16) :
    viewOf b (flightLeft b k ch f c) = ((viewOf b c).withChain k (some { ch with flight := ch.flight.filter (fun g => g.id != f.id) })).withSlots
      (flightLeft b k ch f c).basins[b].slots := by
  unfold flightLeft
  dsimp only
  rw [(tablesReady_slots b hn _).1, (takeHolds_slots b hh _).1, viewOf_forgetFlight, viewOf_releaseFlight b _ _ hp hb, viewOf_leaveEngine,
    viewOf_setChain]
  rfl

theorem slotAt_flightLeft {b : Fin 32} {k : Fin 16} {ch : Chain} {f : Flight} {c : Chip} (hp : f.pins = []) (hb : f.busy = [])
    (hn : ∀ n ∈ f.builds, n < 16) (hh : ∀ h ∈ f.holds, h.1 < 16) {n : Nat} (h16 : n < 16) :
    (slotAt (flightLeft b k ch f c) b n).state =
      (if n ∈ f.builds ∧ (slotAt c b n).state = .building then .ready else (slotAt c b n).state) ∧
    (slotAt (flightLeft b k ch f c) b n).holds = (slotAt c b n).holds + ((f.holds.filter (fun h => h.1 == n)).map (·.2)).sum := by
  unfold flightLeft
  dsimp only
  obtain ⟨hholds, hstate⟩ := (tablesReady_slots b hn _).2 n h16
  obtain ⟨hs, hd⟩ := (takeHolds_slots b hh _).2 n h16
  have hbefore : ∀ d : Chip, d = forgetFlight b k f.id (releaseFlight b (stepOf (leaveEngine b k f.id
      (setChain b k (some { ch with flight := ch.flight.filter (fun g => g.id != f.id) }) c)) b k) f (leaveEngine b k f.id
      (setChain b k (some { ch with flight := ch.flight.filter (fun g => g.id != f.id) }) c))) → slotAt d b n = slotAt c b n := by
    intro d hd
    have : (viewOf b d).slots = (viewOf b c).slots := by
      rw [hd, viewOf_forgetFlight, viewOf_releaseFlight b _ _ hp hb, viewOf_leaveEngine, viewOf_setChain]; rfl
    exact congrArg (fun v : Vector Slot 16 => v[n % 16]'(Nat.mod_lt _ (by decide))) this
  rw [hholds, hstate, hs, hd, hbefore _ rfl]
  exact ⟨rfl, rfl⟩

theorem pollReady_noJobs {c : Chip} (h : c.jobs = []) : pollReady c = c := by unfold pollReady; rw [h]; rfl

section
variable {b : Fin 32} {k : Fin 16} {ch : Chain} {f : Flight} {c : Chip}

/-- A signal, where the descriptor gives one. -/
def BasinView.afterSignal (v : BasinView) (d : Desc) : BasinView := if d.sigEn then v.signalled d.sigCtr else v

/-- The end of a chain, where the descriptor is the LAST one. -/
def BasinView.afterLast (v : BasinView) (k : Fin 16) (ch : Chain) (d : Desc) : BasinView :=
  if d.last then v.withChain k (if ch.flight = [] then none else some { ch with lastDone := true }) else v

section
variable (v : BasinView) (x : Chain) (d : Desc)

theorem afterSignal_other : (v.afterSignal d).mem = v.mem ∧ (v.afterSignal d).jobs = v.jobs ∧ (v.afterSignal d).chains = v.chains ∧
    (v.afterSignal d).slots = v.slots := by
  unfold BasinView.afterSignal; split <;> exact ⟨rfl, rfl, rfl, rfl⟩

theorem afterSignal_ctr : (v.afterSignal d).ctr = if d.sigEn then tabSet v.ctr d.sigCtr ((tabGet 0 v.ctr d.sigCtr + 1) % 65536) else v.ctr := by
  unfold BasinView.afterSignal; split <;> rfl

theorem afterLast_other : (v.afterLast k x d).mem = v.mem ∧ (v.afterLast k x d).jobs = v.jobs ∧ (v.afterLast k x d).ctr = v.ctr ∧
    (v.afterLast k x d).slots = v.slots := by
  unfold BasinView.afterLast; split <;> exact ⟨rfl, rfl, rfl, rfl⟩

end

/-- What of a completion comes after the descriptor has left its chain: its counters, its signal and the end of the chain. -/
def completeTail (b : Fin 32) (k : Fin 16) (ch : Chain) (f : Flight) (c : Chip) : Chip :=
  let d : Desc := { w := f.w }
  let c := if d.opcode = 0x30 then bump c (rAttnCtr b.val 0) else c
  let c := if d.opcode = 0x40 && lastChunk c b ch f.id then releaseTicket b k c else c
  let c := if d.sigEn then signalCtr b k d.sigCtr c else c
  afterComplete b k d c

theorem completeFlight_done (hc : c.basins[b].chains[k] = some ch) (hf : ch.flight.find? (fun g => g.id == f.id) = some f)
    (hd : flightDone f = true) : completeFlight b k b f.id c = completeTail b k ch f (flightLeft b k ch f c) := by
  unfold completeFlight
  rw [hc]
  dsimp only
  rw [hf]
  dsimp only
  rw [hd]
  rfl

/-- A descriptor of its home basin that waits for nothing completes at once. -/
theorem complete_home {xbar vec i : Nat} (hc : c.basins[b].chains[k] = some ch) (hp : ch.place = .home) (hi : ch.flight[i]? = some f)
    (hw : f.wait = .none) (ha : f.again = false) : complete b k i xbar vec c = completeFlight b k b f.id c := by
  have hctx : ctxOf b k ch = { b := b, k := k, m := b } := by unfold ctxOf; rw [hp]
  have hgo : goOn vec b k ch f c = c := by unfold goOn; rw [ha]; rfl
  have hplaced : startPlaced b k (ctxOf b k ch) f c = c := by unfold startPlaced; rw [hw]; rfl
  unfold complete
  rw [hc]
  dsimp only
  rw [hi]
  dsimp only
  rw [hgo, hplaced, hctx, Bool.and_false]
  rfl

theorem chain_of_view {d : Chip} (h : viewOf b d = viewOf b c) : d.basins[b].chains[k] = c.basins[b].chains[k] :=
  congrArg (fun v : BasinView => v.chains[k]) h

/-- The tail of a completion on a chain that is not stopped and holds no ticket: the signal, and the end of the chain with LAST. -/
theorem viewOf_completeTail {x : Chain} (hc : c.basins[b].chains[k] = some x) (hp : x.place = .home) (ht : x.ticket = none)
    (hs : x.stopped = false) (hl : x.lastDone = false) (hi : x.item.done = 0) :
    viewOf b (completeTail b k ch f c) = ((viewOf b c).afterSignal { w := f.w }).afterLast k x { w := f.w } := by
  unfold completeTail
  generalize ({ w := f.w } : Desc) = d
  dsimp only
  have hcounted : ∀ e, e = (if d.opcode = 0x30 then bump c (rAttnCtr b.val 0) else c) → viewOf b e = viewOf b c := by
    rintro e rfl; split
    · exact viewOf_bump b c _ _
    · rfl
  generalize (if d.opcode = 0x30 then bump c (rAttnCtr b.val 0) else c) = c1 at hcounted ⊢
  have h1 := hcounted c1 rfl
  have hc1 := (chain_of_view h1).trans hc
  rw [releaseTicket_none (noTicket_of_chain hc1 ht), ite_self]
  have hsignal : ∀ e, e = (if d.sigEn = true then signalCtr b k d.sigCtr c1 else c1) → viewOf b e = (viewOf b c).afterSignal d := by
    rintro e rfl
    unfold BasinView.afterSignal
    split
    · rw [viewOf_signalCtr _ hc1 hp, h1]
    · exact h1
  generalize (if d.sigEn = true then signalCtr b k d.sigCtr c1 else c1) = c2 at hsignal ⊢
  have h2 := hsignal c2 rfl
  have hc2 : c2.basins[b].chains[k] = some x := by
    obtain ⟨-, -, hchains, -⟩ := afterSignal_other (viewOf b c) d
    have : (viewOf b c2).chains = (viewOf b c).chains := by rw [h2]; exact hchains
    exact (congrArg (fun v : Vector (Option Chain) 16 => v[k]) this).trans hc
  rw [← h2]
  unfold BasinView.afterLast
  cases hlast : d.last
  · rw [afterComplete_goesOn hc2 hs hl hlast]; rfl
  · exact viewOf_afterComplete_last hc2 hp ht hs hi hlast

end

/-- Settles O18: the descriptor leaves its chain with its holds and tables, and then come its signal and the end of the chain. -/
theorem completionSignalsAndEndsChain : Obligations.CompletionSignalsAndEndsChain := by
  unfold Obligations.CompletionSignalsAndEndsChain
  intro b k j s ch f d hc hp hs ht hl hi hf hw ha hne hpins hbusy hfind hd hjobs hn hh
  subst hd
  have hdone : flightDone f = true := by simp [flightDone, hw, ha, hne]
  have hleft := viewOf_flightLeft (b := b) (k := k) (ch := ch) (c := s.chip) hpins hbusy hn hh
  have hcl : (flightLeft b k ch f s.chip).basins[b].chains[k] = some { ch with flight := ch.flight.filter (fun g => g.id != f.id) } := by
    refine (congrArg (fun v : BasinView => v.chains[k]) hleft).trans ?_
    simp [BasinView.withChain, BasinView.withSlots]
  have htail := viewOf_completeTail (ch := ch) (f := f) hcl hp ht hs hl hi
  obtain ⟨hmem, hjob, hctr, hslots⟩ := afterLast_other (k := k) ((viewOf b (flightLeft b k ch f s.chip)).afterSignal { w := f.w })
    { ch with flight := ch.flight.filter (fun g => g.id != f.id) } { w := f.w }
  obtain ⟨hmem', hjob', hchains', hslots'⟩ := afterSignal_other (viewOf b (flightLeft b k ch f s.chip)) { w := f.w }
  have hend : ∀ t, t = completeTail b k ch f (flightLeft b k ch f s.chip) →
      exec (.descriptorComplete b k j) s = .next (s.withChip t) := by
    rintro t rfl
    have hnone : (completeTail b k ch f (flightLeft b k ch f s.chip)).jobs = [] :=
      (congrArg BasinView.jobs htail).trans ((hjob.trans hjob').trans ((congrArg BasinView.jobs hleft).trans hjobs))
    have hx : exec (.descriptorComplete b k j) s = .next (s.withChip (pollReady (complete b k j.i j.xbar j.vec s.chip))) := rfl
    rw [hx, complete_home hc hp hf hw ha, completeFlight_done hc hfind hdone, pollReady_noJobs hnone]
  generalize completeTail b k ch f (flightLeft b k ch f s.chip) = c at htail hend
  have hslot : ∀ n, slotAt c b n = slotAt (flightLeft b k ch f s.chip) b n := by
    have : (viewOf b c).slots = (flightLeft b k ch f s.chip).basins[b].slots := by rw [htail]; exact hslots.trans hslots'
    exact fun n => congrArg (fun v : Vector Slot 16 => v[n % 16]'(Nat.mod_lt _ (by decide))) this
  refine ⟨_, hend c rfl, sameRest_withChip s _, ?_, ?_, fun hlast hnone => ?_, fun hlast => ?_, fun n h16 => ?_, fun n h16 => ?_⟩
  · exact (congrArg BasinView.mem htail).trans ((hmem.trans hmem').trans (congrArg BasinView.mem hleft))
  · refine (congrArg BasinView.ctr htail).trans (hctr.trans ((afterSignal_ctr _ _).trans ?_))
    rw [hleft]; rfl
  · refine (congrArg (fun v : BasinView => v.chains[k]) htail).trans ?_
    unfold BasinView.afterLast
    rw [if_pos hlast, if_pos hnone]
    simp [BasinView.withChain]
  · refine ⟨_, (congrArg (fun v : BasinView => v.chains[k]) htail).trans (Eq.trans ?_ hcl), rfl, rfl⟩
    unfold BasinView.afterLast
    rw [if_neg (by simp [hlast])]
    exact congrArg (fun v : Vector (Option Chain) 16 => v[k]) hchains'
  · exact (congrArg Slot.state (hslot n)).trans (slotAt_flightLeft hpins hbusy hn hh h16).1
  · exact (congrArg Slot.holds (hslot n)).trans (slotAt_flightLeft hpins hbusy hn hh h16).2

end Sys2Proof.Machine
end

section
/-! PROOFS. Fields of registers bit by bit, what a register keeps of a write, and changes made for each element of a list. -/

namespace Sys2Proof.Machine

/-! ### Fields -/

theorem testBit_fld (x lo w i : Nat) : (fld x lo w).testBit i = (decide (i < w) && x.testBit (lo + i)) := by
  unfold fld
  rw [Nat.testBit_mod_two_pow, Nat.testBit_div_two_pow, Nat.add_comm]

/-- The bits above a field that is set, the field, and the bits below it. -/
theorem setFld_eq (x lo w v : Nat) : setFld x lo w v = 2 ^ lo * (2 ^ w * (x / 2 ^ lo / 2 ^ w) + v % 2 ^ w) + x % 2 ^ lo := by
  have hx : x = 2 ^ lo * (x / 2 ^ lo) + x % 2 ^ lo := (Nat.div_add_mod x (2 ^ lo)).symm
  have hq : x / 2 ^ lo = 2 ^ w * (x / 2 ^ lo / 2 ^ w) + x / 2 ^ lo % 2 ^ w := (Nat.div_add_mod (x / 2 ^ lo) (2 ^ w)).symm
  have hsum : x = 2 ^ lo * (2 ^ w * (x / 2 ^ lo / 2 ^ w)) + 2 ^ lo * (x / 2 ^ lo % 2 ^ w) + x % 2 ^ lo := by
    rw [← Nat.mul_add, ← hq]; exact hx
  unfold setFld fld
  rw [Nat.mul_add, Nat.mul_comm (x / 2 ^ lo % 2 ^ w), Nat.mul_comm (v % 2 ^ w)]
  omega

theorem testBit_setFld (x lo w v i : Nat) :
    (setFld x lo w v).testBit i = if lo ≤ i ∧ i < lo + w then v.testBit (i - lo) else x.testBit i := by
  rw [setFld_eq, Nat.testBit_two_pow_mul_add _ (Nat.mod_lt _ (by positivity)),
    Nat.testBit_two_pow_mul_add _ (Nat.mod_lt _ (by positivity)), Nat.testBit_mod_two_pow, Nat.testBit_mod_two_pow,
    Nat.testBit_div_two_pow, Nat.testBit_div_two_pow]
  by_cases h1 : i < lo
  · simp [h1, Nat.not_le.mpr h1]
  · by_cases h2 : i < lo + w
    · have : i - lo < w := by omega
      simp [h1, h2, this, Nat.not_lt.mp h1]
    · have h3 : ¬ i - lo < w := by omega
      have h4 : i - lo - w + w + lo = i := by omega
      simp [h1, h2, h3, h4]

/-- A field apart from one that is set reads as before. -/
theorem fld_setFld_ne (x : Nat) {lo w lo' w' : Nat} (v : Nat) (h : lo' + w' ≤ lo ∨ lo + w ≤ lo') :
    fld (setFld x lo w v) lo' w' = fld x lo' w' := by
  refine Nat.eq_of_testBit_eq fun i => ?_
  rw [testBit_fld, testBit_fld, testBit_setFld]
  by_cases hi : i < w'
  · rw [if_neg (by omega)]
  · simp [hi]

/-! ### The row of a register, and what it stores -/

/-- The bits that a register stores. -/
def rowMask (off : Nat) : Option Nat := (rowAt off).map (·.wmask)

theorem rowMask_some {off mask : Nat} (h : rowMask off = some mask) : ∃ r, rowAt off = some r ∧ r.wmask = mask :=
  Option.map_eq_some_iff.mp h

section
variable {c : Chip} {off mask v : Nat} (h : rowMask off = some mask) (hm : mask < 2 ^ 32)
include h hm

theorem holdsBits_stored : holdsBits (storeReg c off v) off v := by
  obtain ⟨r, hr, rfl⟩ := rowMask_some h
  exact holdsBits_storeReg c v hr hm

/-- A register takes the bits of its row from a write, and keeps the others. -/
theorem testBit_storeReg (i : Nat) :
    (getReg (storeReg c off v) off).testBit i = if mask.testBit i then v.testBit i else (getReg c off).testBit i := by
  obtain ⟨r, hr, rfl⟩ := rowMask_some h
  rw [getReg_storeReg_self v hr]
  show (((getReg c off &&& (2 ^ 32 - 1 - r.wmask)) ||| (v &&& r.wmask)) % 2 ^ 32).testBit i = _
  rw [show 2 ^ 32 - 1 - r.wmask = 2 ^ 32 - (r.wmask + 1) by omega]
  simp only [Nat.testBit_mod_two_pow, Nat.testBit_or, Nat.testBit_and, Nat.testBit_two_pow_sub_succ hm]
  by_cases hi : i < 32
  · cases r.wmask.testBit i <;> simp [hi]
  · have hbeyond : ∀ x, x < 2 ^ 32 → x.testBit i = false := fun x hx =>
      Nat.testBit_lt_two_pow (hx.trans_le (Nat.pow_le_pow_right (by omega) (by omega)))
    simp [hi, hbeyond _ hm, hbeyond _ (getReg_lt c off)]

/-- A field that the row stores reads as written. -/
theorem getF_storeReg_stored {lo w : Nat} (hf : fld mask lo w = 2 ^ w - 1) : getF (storeReg c off v) off lo w = fld v lo w := by
  unfold getF
  refine Nat.eq_of_testBit_eq fun i => ?_
  rw [testBit_fld, testBit_fld, testBit_storeReg h hm]
  by_cases hi : i < w
  · have hbit : mask.testBit (lo + i) = true := by
      have := congrArg (fun x => x.testBit i) hf
      simpa [testBit_fld, Nat.testBit_two_pow_sub_one, hi] using this
    simp [hbit]
  · simp [hi]

end

/-- What a register holds is told by its value alone. -/
theorem holdsBits_congr {c d : Chip} {off v : Nat} (h : getReg d off = getReg c off) (hb : holdsBits c off v) : holdsBits d off v := by
  obtain ⟨r, hr, hv⟩ := hb
  exact ⟨r, hr, by rw [h]; exact hv⟩

theorem getF_congr {c d : Chip} {off : Nat} (lo w : Nat) (h : getReg d off = getReg c off) : getF d off lo w = getF c off lo w := by
  unfold getF; rw [h]

/-- A field within the 32 bits of a register. -/
theorem fld_mod_32 (x : Nat) {lo w : Nat} (h : lo + w ≤ 32) : fld (x % 2 ^ 32) lo w = fld x lo w := by
  refine Nat.eq_of_testBit_eq fun i => ?_
  simp only [testBit_fld, Nat.testBit_mod_two_pow]
  by_cases hi : i < w
  · have : lo + i < 32 := by omega
    simp [this]
  · simp [hi]

theorem getF_putF_self (c : Chip) {off lo w v : Nat} (h : lo + w ≤ 32) : getF (putF c off lo w v) off lo w = v % 2 ^ w := by
  unfold getF putF
  rw [getReg_putReg_self, fld_mod_32 _ h, fld_setFld_self]

theorem getF_putF_ne (c : Chip) {off lo w lo' w' : Nat} (v : Nat) (h : lo' + w' ≤ lo ∨ lo + w ≤ lo') (h32 : lo' + w' ≤ 32) :
    getF (putF c off lo w v) off lo' w' = getF c off lo' w' := by
  unfold getF putF
  rw [getReg_putReg_self, fld_mod_32 _ h32, fld_setFld_ne _ _ h]

/-! ### A change made for each element of a list -/

/-- What each element's change brings about, and no other element's change undoes, holds of every element at the end. -/
theorem foldl_each {σ α : Type} {f : σ → α → σ} {I : σ → Prop} {P : α → σ → Prop} (l : List α) (hI : ∀ s, ∀ a ∈ l, I s → I (f s a))
    (hset : ∀ s, ∀ a ∈ l, I s → P a (f s a)) (hkeep : ∀ s, ∀ a ∈ l, ∀ b, I s → b ≠ a → P b s → P b (f s a)) {s : σ} (hs : I s) :
    I (l.foldl f s) ∧ ∀ a ∈ l, P a (l.foldl f s) := by
  suffices ∀ (m : List α) (s : σ), (∀ a ∈ m, a ∈ l) → I s →
      I (m.foldl f s) ∧ ∀ a, (a ∈ m ∨ P a s) → P a (m.foldl f s) by
    obtain ⟨h1, h2⟩ := this l s (fun _ h => h) hs
    exact ⟨h1, fun a ha => h2 a (.inl ha)⟩
  intro m
  induction m with
  | nil => exact fun s _ hs => ⟨hs, fun a ha => ha.resolve_left List.not_mem_nil⟩
  | cons x m ih =>
    intro s hm hs
    have hx := hm x List.mem_cons_self
    obtain ⟨h1, h2⟩ := ih (f s x) (fun a ha => hm a (List.mem_cons_of_mem _ ha)) (hI s x hx hs)
    refine ⟨h1, fun a ha => h2 a ?_⟩
    rcases ha with ha | ha
    · rcases List.mem_cons.mp ha with rfl | ha
      · exact .inr (hset s a hx hs)
      · exact .inl ha
    · by_cases hax : a = x
      · rw [hax]; exact .inr (hset s x hx hs)
      · exact .inr (hkeep s x hx a hs hax ha)

/-- What every change leaves holds at the end. -/
theorem foldl_keeps {σ α : Type} {f : σ → α → σ} {I : σ → Prop} (l : List α) (hI : ∀ s, ∀ a ∈ l, I s → I (f s a)) {s : σ} (hs : I s) :
    I (l.foldl f s) :=
  (foldl_each (P := fun _ _ => True) l hI (fun _ _ _ _ => trivial) (fun _ _ _ _ _ _ _ => trivial) hs).1

/-! ### Masks of basins -/

/-- The mask of the basins that satisfy a test. -/
def basinMask (p : Fin 32 → Bool) : Nat := (((List.finRange 32).filter p).map (fun b => 2 ^ b.val)).sum

theorem sum_map_ite {α : Type} (p : α → Bool) (f : α → Nat) (l : List α) :
    (l.map (fun a => if p a then f a else 0)).sum = ((l.filter p).map f).sum := by
  induction l with
  | nil => rfl
  | cons a l ih => cases h : p a <;> simp [h, ih]

theorem testBit_basinMask (p : Fin 32 → Bool) (i : Nat) : (basinMask p).testBit i = true ↔ ∃ b : Fin 32, p b = true ∧ b.val = i := by
  have hsort : (((List.finRange 32).filter p).map Fin.val).SortedLT :=
    ((List.pairwise_map (f := Fin.val)).mpr ((List.pairwise_lt_finRange 32).filter p)).sortedLT
  have hbits := Nat.bitIndices_sum_map_two_pow hsort
  rw [List.map_map] at hbits
  rw [← Nat.mem_bitIndices]
  show i ∈ (((List.finRange 32).filter p).map ((fun n => 2 ^ n) ∘ Fin.val)).sum.bitIndices ↔ _
  rw [hbits]
  simp

theorem bit_basinMask (p : Fin 32 → Bool) (b : Fin 32) : bit (basinMask p) b.val = p b := by
  rw [Bool.eq_iff_iff]
  show (basinMask p).testBit b.val = true ↔ _
  rw [testBit_basinMask]
  exact ⟨fun ⟨a, ha, hab⟩ => by rwa [← Fin.ext hab], fun h => ⟨b, h, rfl⟩⟩

theorem basinMask_lt (p : Fin 32 → Bool) : basinMask p < 2 ^ 32 := by
  refine Nat.lt_pow_two_of_testBit _ fun i hi => ?_
  rw [Bool.eq_false_iff]
  intro h
  obtain ⟨b, -, hb⟩ := (testBit_basinMask p i).mp h
  have := b.isLt
  omega

end Sys2Proof.Machine
end

section
/-! PROOFS. Profile registers (R373, R376, R382, R392): how a write of one is answered, and the profiles that write one register. -/

namespace Sys2Proof.Machine

/-! ### How a write of a profile register is answered -/

/-- The answer to a master of the package. -/
theorem exec_profile (k : Nat) {m : Master} (v : RegWrite) {s : State} (hm : m.toNat ≤ 3) (ha : s.chip.power.aonHeld = false) :
    onDev (profileBy k m v) s = onDev (fun d => (writeProfile k v.v.toNat v.meets d).dev.chipDo (fun c =>
      emit (.bus m (if (writeProfile k v.v.toNat v.meets d).status = 0 then (writeProfile k v.v.toNat v.meets d).data else 0)
        (writeProfile k v.v.toNat v.meets d).code) (reportAccess (writeProfile k v.v.toNat v.meets d).code 0x27 c))) s := by
  have ha' : s.dev.chip.power.aonHeld = false := ha
  unfold onDev
  dsimp only
  unfold profileBy
  rw [ha', if_neg (show ¬ 3 < m.toNat by omega)]
  rfl

section
variable {k p : Nat} {m : Master} {v : RegWrite} {s : State} (hm : m.toNat ≤ 3) (ha : s.chip.power.aonHeld = false)
  (hp : p = v.v.toNat % 16)
include hm ha hp

/-- A value without a profile is refused (R373). -/
theorem exec_profile_none (hc : profileCount k < p) :
    onDev (profileBy k m v) s = .next (s.withChip (emit (.bus m 0 0x0E0A) (reportAccess 0x0E0A 0x27 s.chip))) := by
  have hw : ∀ d, writeProfile k v.v.toNat v.meets d = { status := 6, data := eMpProfile, code := eMpProfile, dev := d } := by
    intro d
    unfold writeProfile
    exact if_pos (by rw [show fld v.v.toNat 0 4 = p by rw [hp]; simp [fld]]; exact hc)
  rw [exec_profile k v hm ha]
  simp only [hw]
  rfl

/-- A hub that does not answer (R392). -/
theorem exec_profile_silent (hc : p ≤ profileCount k) (hk : k ≠ 14) (hs : v.meets.silent = true) :
    onDev (profileBy k m v) s = .next (s.withChip (emit (.bus m 0 0x0E09) (reportAccess 0x0E09 0x27 s.chip))) := by
  have hw : ∀ d, writeProfile k v.v.toNat v.meets d = smOff d := by
    intro d
    have hf : fld v.v.toNat 0 4 = p := by rw [hp]; simp [fld]
    unfold writeProfile
    rw [hf]
    rw [if_neg (by omega), if_pos ⟨hk, .inr hs⟩]
  rw [exec_profile k v hm ha]
  simp only [hw]
  rfl

section
variable (hc : p ≤ profileCount k) (hk : k = 14 ∨ hubOn s.chip = true) (hs : v.meets.silent = false)
include hc hk hs

/-- An earlier profile is being applied (R373). -/
theorem exec_profile_busy (hb : v.meets.applying = true) :
    onDev (profileBy k m v) s = .next (s.withChip (emit (.bus m 0 0) s.chip)) := by
  have hf : fld v.v.toNat 0 4 = p := by rw [hp]; simp [fld]
  have hw : writeProfile k v.v.toNat v.meets s.dev = { status := 4, data := getReg s.dev.chip (0x80 + 4 * k), dev := s.dev } := by
    unfold writeProfile
    rw [hf]
    rw [if_neg (by omega), if_neg (by rintro ⟨h1, h2 | h2⟩ <;> simp_all [State.dev]), if_pos hb]
  rw [exec_profile k v hm ha]
  unfold onDev
  dsimp only
  rw [hw]
  rfl

/-- A profile is taken: its writes are made, and its register reads it. -/
theorem exec_profile_taken (hb : v.meets.applying = false) : onDev (profileBy k m v) s =
    onDev (fun d => (if p = 0 then d else profileWrites k p d).chipDo (fun c => emit (.bus m p 0) (putReg c (0x80 + 4 * k) p))) s := by
  have hf : fld v.v.toNat 0 4 = p := by rw [hp]; simp [fld]
  have hw : writeProfile k v.v.toNat v.meets s.dev =
      { data := p, dev := (if p = 0 then s.dev else profileWrites k p s.dev).chipDo (fun c => putReg c (0x80 + 4 * k) p) } := by
    unfold writeProfile
    rw [hf]
    rw [if_neg (by omega), if_neg (by rintro ⟨h1, h2 | h2⟩ <;> simp_all [State.dev]), if_neg (by rw [hb]; decide)]
  rw [exec_profile k v hm ha]
  unfold onDev
  dsimp only
  rw [hw]
  rfl

end
end

/-! ### Profiles of one register -/

/-- A command whose profiles each store one value in one register. -/
structure StoresOne (i : Instr) (k : Nat) (m : Master) (v : RegWrite) (off : Nat) (xs : List Nat) : Prop where
  exec : ∀ s, exec i s = onDev (profileBy k m v) s
  count : profileCount k = xs.length
  small : k ≤ 9
  writes : ∀ p d, 1 ≤ p → p ≤ xs.length → profileWrites k p d = d.chipDo (fun c => storeReg c off (xs.getD (p - 1) 0))
  mask : ∃ w, rowMask off = some w ∧ w < 2 ^ 32
  hub : 0x20000 ≤ off ∧ off < 0x30000

theorem two_or_three {p n : Nat} (h1 : 1 ≤ p) (h2 : p ≤ n) (hn : n ≤ 3) : p = 1 ∨ p = 2 ∧ 2 ≤ n ∨ p = 3 ∧ 3 ≤ n := by omega

theorem storesOne {i : Instr} {k : Nat} {m : Master} {v : RegWrite} {off : Nat} {xs : List Nat}
    (h : oneRegister i = some (k, m, v, off, xs)) : StoresOne i k m v off xs := by
  unfold oneRegister at h
  split at h <;> cases h
  all_goals
    refine ⟨fun s => rfl, rfl, by decide, fun p d h1 h2 => ?_, ⟨_, rfl, by decide⟩, by decide⟩
    rcases two_or_three h1 h2 (by decide) with rfl | ⟨rfl, -⟩ | ⟨rfl, -⟩ <;> rfl

theorem getReg_reportAccess {code src : Nat} {c : Chip} {off : Nat} (h : 0x40 ≤ off) (hi : off < 0xC0000) :
    getReg (reportAccess code src c) off = getReg c off := by
  unfold reportAccess
  split
  · rfl
  · apply getReg_report <;> simp only [rErrLast, rStatus, rErDrop, rMirrorLost, rErSeq, rErStatus] <;> omega

/-- The register of a profile that was written reads it. -/
theorem getReg_profile (x : Emit) (c : Chip) (k : Nat) {p : Nat} (hp : p < 16) :
    getReg (emit x (putReg c (0x80 + 4 * k) p)) (0x80 + 4 * k) = p :=
  (getReg_putReg_self c _ p).trans (Nat.mod_eq_of_lt (by omega))

theorem getReg_profile_ne (x : Emit) (c : Chip) (k p : Nat) {off : Nat} (h : off ≠ 0x80 + 4 * k) :
    getReg (emit x (putReg c (0x80 + 4 * k) p)) off = getReg c off :=
  getReg_putReg_ne c p h

theorem profilesOfOneRegister : ProfilesOfOneRegister := by
  intro i k m v p off xs s hi hm hh ha hp
  obtain ⟨hexec, hcount, hsmall, hwrites, ⟨w, hmask, hw⟩, hoff⟩ := storesOne hi
  rw [hexec, ← hcount]
  have hp16 : p < 16 := by omega
  have hne : off ≠ 0x80 + 4 * k := by omega
  refine ⟨fun hc hs hb => ?_, fun hc hs hb => exec_profile_busy hm ha hp hc (.inr hh) hs hb,
    fun hc hs => exec_profile_silent hm ha hp hc (by omega) hs, fun hc => ?_⟩
  case refine_1 =>
    rw [exec_profile_taken hm ha hp hc (.inr hh) hs hb, onDev_eq]
    by_cases h0 : p = 0
    · simp only [if_pos h0]
      exact ⟨_, rfl, ⟨rfl, rfl, rfl, rfl⟩, getReg_profile _ _ k hp16, fun h => absurd h0 h, rfl, rfl,
        fun o ho _ => getReg_profile_ne _ _ k p ho⟩
    · simp only [if_neg h0, hwrites p _ (by omega) (hcount ▸ hc)]
      obtain ⟨rg, hst⟩ := storeReg_eq s.chip off (xs.getD (p - 1) 0)
      refine ⟨_, rfl, ⟨rfl, rfl, rfl, rfl⟩, getReg_profile _ _ k hp16, fun _ => ?_, ?_, ?_, fun o ho hor => ?_⟩
      · exact holdsBits_congr (getReg_profile_ne _ _ k p hne) (holdsBits_stored hmask hw)
      · show Emit.bus m p 0 :: (storeReg s.chip off (xs.getD (p - 1) 0)).out = _
        rw [hst]
      · show (storeReg s.chip off (xs.getD (p - 1) 0)).mem = _
        rw [hst]
      · exact (getReg_profile_ne _ _ k p ho).trans (getReg_storeReg_ne _ _ (hor.resolve_right h0))
  case refine_2 =>
    obtain ⟨rg, rc, hr⟩ := reportAccess_eq 0x0E0A 0x27 s.chip
    refine ⟨_, exec_profile_none hm ha hp hc, sameRest_withChip s _, ?_, ?_, ?_, ?_⟩
    · show Emit.bus m 0 0x0E0A :: (reportAccess 0x0E0A 0x27 s.chip).out = _
      rw [hr]
    · show (reportAccess 0x0E0A 0x27 s.chip).mem = _
      rw [hr]
    · exact getReg_reportAccess (by omega) (by omega)
    · exact getReg_reportAccess (by omega) (by omega)

end Sys2Proof.Machine
end

section
/-! PROOFS. The profile registers that write more than one register (R64, R90, R266, R328, R348, R370, R419, R441). -/

namespace Sys2Proof.Machine

/-! ### A profile taken by the chip -/

/-- The package once a profile's register reads it and its master is answered. -/
def profileAnswered (k : Nat) (m : Master) (p : Nat) (c : Chip) : Chip := emit (.bus m p 0) (putReg c (0x80 + 4 * k) p)

theorem getReg_profileAnswered (k : Nat) (m : Master) (p : Nat) (c : Chip) {off : Nat} (hk : k ≤ 14) (h : 0xC0 ≤ off) :
    getReg (profileAnswered k m p c) off = getReg c off := getReg_profile_ne _ _ k p (by omega)

/-- Memory and what has been sent are as before. -/
def SameOut (c d : Chip) : Prop := d.mem = c.mem ∧ d.out = c.out

theorem SameOut.trans {c d e : Chip} (h : SameOut c d) (k : SameOut d e) : SameOut c e := ⟨k.1.trans h.1, k.2.trans h.2⟩

theorem sameOut_storeReg (c : Chip) (off v : Nat) : SameOut c (storeReg c off v) := by
  obtain ⟨rg, h⟩ := storeReg_eq c off v
  rw [h]; exact ⟨rfl, rfl⟩

section
variable {k p : Nat} {m : Master} {v : RegWrite} {s : State} {f : Chip → Chip}

/-- A profile whose writes change the chip alone. -/
theorem exec_profile_chip (hm : m.toNat ≤ 3) (ha : s.chip.power.aonHeld = false) (hs : v.meets.silent = false)
    (hb : v.meets.applying = false) (hp : p = v.v.toNat % 16) (h1 : 1 ≤ p) (hc : p ≤ profileCount k) (hk : k = 14 ∨ hubOn s.chip = true)
    (hw : ∀ d, profileWrites k p d = d.chipDo f) (hf : SameOut s.chip (f s.chip)) :
    onDev (profileBy k m v) s = .next (s.withChip (profileAnswered k m p (f s.chip))) ∧
      ProfileTaken s (s.withChip (profileAnswered k m p (f s.chip))) k m p := by
  obtain ⟨hmem, hout⟩ := hf
  refine ⟨?_, rfl, rfl, rfl, hmem, getReg_profile _ _ k (by omega), congrArg (Emit.bus m p 0 :: ·) hout⟩
  rw [exec_profile_taken hm ha hp hc hk hs hb, onDev_eq, if_neg (by omega), hw]
  rfl

end

/-! ### The basins (R64) -/

theorem wBsEnable_active {c : Chip} {mask : Nat} (hmode : modeOf c = 0) (hch : c.power.change = none) {q : Fin 32 → Bool}
    (hq : ∀ b : Fin 32, bit mask b.val = true → c.basins[b].selftest = 2) (hmask : ∀ b : Fin 32, bit mask b.val = q b) :
    (wBsEnable mask c).2 = putReg c rEnable (basinMask q) := by
  have hfilter : ∀ b : Fin 32, (bit mask b.val && ((c.basins[b].selftest == 2 && modeOf c == 0 && c.power.change.isNone) || enabled c b)) = q b := by
    intro b
    rw [← hmask b]
    cases hb : bit mask b.val
    · rfl
    · rw [hq b hb, hmode, hch]; rfl
  unfold wBsEnable basinMask
  simp only [hfilter]

theorem rClk_mask : ∀ b : Fin 32, rowMask (rClk b.val) = some 0x3F := by decide +kernel

/-- A write of a FREQ that exists is stored, or stands there already. -/
theorem getF_wBsClk (b : Fin 32) {v : Nat} (c : Chip) (hv : v ≤ 24) : getF (wBsClk b v c).2 (rClk b.val) 0 6 = v := by
  have hf : fld v 0 6 = v := by unfold fld; omega
  unfold wBsClk
  rw [hf]
  split
  · next h => exact (h.resolve_left (by omega)).1.symm
  · show getF (putF (storeReg c (rClk b.val) v) (rClk b.val) 8 1 0) (rClk b.val) 0 6 = v
    rw [getF_putF_ne _ _ (by omega) (by omega), getF_storeReg_stored (rClk_mask b) (by decide) (by decide), hf]

theorem wBsClk_other (b : Fin 32) (v : Nat) (c : Chip) :
    SameOut c (wBsClk b v c).2 ∧ ∀ off, off ≠ rClk b.val → getReg (wBsClk b v c).2 off = getReg c off := by
  unfold wBsClk
  split
  · exact ⟨⟨rfl, rfl⟩, fun _ _ => rfl⟩
  · refine ⟨sameOut_storeReg c _ _, fun off h => ?_⟩
    show getReg (putF (storeReg c (rClk b.val) v) (rClk b.val) 8 1 0) off = _
    rw [getReg_putF_ne _ _ _ _ h, getReg_storeReg_ne _ _ h]

theorem basinProfile_spec {freq : Nat} {c : Chip} (hv : freq ≤ 24) (hmode : modeOf c = 0) (hch : c.power.change = none) :
    SameOut c (basinProfile freq c) ∧ getReg (basinProfile freq c) rEnable = basinMask (fun b => c.basins[b].selftest == 2) ∧
      ∀ b : Fin 32, getF (basinProfile freq c) (rClk b.val) 0 6 = freq := by
  have hsum : ((List.finRange 32).map (fun b : Fin 32 => if c.basins[b].selftest = 2 then 2 ^ b.val else 0)).sum =
      basinMask (fun b => c.basins[b].selftest == 2) := by
    have := sum_map_ite (fun b : Fin 32 => c.basins[b].selftest == 2) (fun b => 2 ^ b.val) (List.finRange 32)
    simp only [beq_iff_eq] at this
    exact this
  have hen := wBsEnable_active (mask := basinMask (fun b => c.basins[b].selftest == 2)) hmode hch
    (fun b hb => by simpa using (bit_basinMask _ b).symm.trans hb) (bit_basinMask _)
  have hfold := foldl_each (f := fun c b => (wBsClk b freq c).2) (P := fun b d => getF d (rClk b.val) 0 6 = freq)
    (I := fun d => SameOut c d ∧ getReg d rEnable = basinMask (fun b => c.basins[b].selftest == 2)) (List.finRange 32)
    (fun d b _ hd => ⟨hd.1.trans (wBsClk_other b freq d).1, ((wBsClk_other b freq d).2 _ (by unfold rEnable rClk; omega)).trans hd.2⟩)
    (fun d b _ _ => getF_wBsClk b d hv)
    (fun d a _ b _ hab hb => (getF_congr 0 6 ((wBsClk_other a freq d).2 _ fun h => hab (Fin.ext (by unfold rClk at h; omega)))).trans hb)
    (s := putReg c rEnable (basinMask (fun b => c.basins[b].selftest == 2)))
    ⟨⟨rfl, rfl⟩, by rw [getReg_putReg_self, Nat.mod_eq_of_lt (basinMask_lt _)]⟩
  unfold basinProfile
  dsimp only
  rw [hsum, hen]
  exact ⟨hfold.1.1, hfold.1.2, fun b => hfold.2 b (List.mem_finRange b)⟩

/-! ### The scales (R90), the late tiers (R266) -/

theorem rSuCfg_mask : ∀ b < 32, rowMask (rSuCfg b) = some 0x37 := by decide +kernel

/-- Every SU_CFG as a profile writes it. -/
def scaleWrites (x : Nat) (c : Chip) : Chip := (List.range 32).foldl (fun c b => storeReg c (rSuCfg b) x) c

theorem scaleWrites_spec (x : Nat) (c : Chip) : SameOut c (scaleWrites x c) ∧ ∀ b, b < 32 → holdsBits (scaleWrites x c) (rSuCfg b) x := by
  have hfold := foldl_each (f := fun c b => storeReg c (rSuCfg b) x) (P := fun b d => holdsBits d (rSuCfg b) x)
    (I := fun d => SameOut c d) (List.range 32)
    (fun d b _ hd => hd.trans (sameOut_storeReg d _ _))
    (fun d b hb _ => holdsBits_stored (rSuCfg_mask b (List.mem_range.mp hb)) (by decide))
    (fun d a _ b _ hab hb => holdsBits_congr (getReg_storeReg_ne d x (by unfold rSuCfg; omega)) hb)
    (s := c) ⟨rfl, rfl⟩
  exact ⟨hfold.1, fun b hb => hfold.2 b (List.mem_range.mpr hb)⟩

/-- LATE_LIMIT and FL_CFG as a profile writes them. -/
def placeWrites (p : Nat) (c : Chip) : Chip := storeReg (putF c rPlCfg 8 8 (pick p 50 10 200)) rFlCfg 0x080A

theorem placeWrites_spec {p : Nat} (c : Chip) (h1 : 1 ≤ p) (h3 : p ≤ 3) : SameOut c (placeWrites p c) ∧
    getF (placeWrites p c) rPlCfg 8 8 = pick p 50 10 200 ∧ getF (placeWrites p c) rPlCfg 0 1 = getF c rPlCfg 0 1 ∧
    holdsBits (placeWrites p c) rFlCfg 0x080A := by
  have hpl : getReg (placeWrites p c) rPlCfg = getReg (putF c rPlCfg 8 8 (pick p 50 10 200)) rPlCfg :=
    getReg_storeReg_ne _ _ (by decide)
  have hlt : pick p 50 10 200 < 2 ^ 8 := by rcases two_or_three h1 h3 le_rfl with rfl | ⟨rfl, -⟩ | ⟨rfl, -⟩ <;> decide
  refine ⟨(show SameOut c (putF c rPlCfg 8 8 (pick p 50 10 200)) from ⟨rfl, rfl⟩).trans (sameOut_storeReg _ _ _), ?_, ?_,
    holdsBits_stored (mask := 0xFFFF) rfl (by decide)⟩
  · rw [getF_congr 8 8 hpl, getF_putF_self _ (by omega), Nat.mod_eq_of_lt hlt]
  · rw [getF_congr 0 1 hpl, getF_putF_ne _ _ (by omega) (by omega)]

/-! ### The fabric (R328) -/

/-- No register but the partner entries changes, and nothing else of the package. -/
def PartnersOnly (c d : Chip) : Prop := (∃ rg, d = { c with regs := rg }) ∧ ∀ off, (∀ p < 16, off ≠ rPartner p) → getReg d off = getReg c off

theorem PartnersOnly.trans {c d e : Chip} (h : PartnersOnly c d) (k : PartnersOnly d e) : PartnersOnly c e := by
  obtain ⟨⟨rg, rfl⟩, h⟩ := h
  obtain ⟨⟨rg', rfl⟩, k⟩ := k
  exact ⟨⟨rg', rfl⟩, fun off ho => (k off ho).trans (h off ho)⟩

theorem refreshPartners_only (c : Chip) : PartnersOnly c (refreshPartners c) := by
  have hput : ∀ d v, ∀ p < 16, PartnersOnly d (putReg d (rPartner p) v) := fun d v p hp =>
    ⟨⟨_, rfl⟩, fun off ho => getReg_putReg_ne d v (ho p hp)⟩
  have hself : ∀ d, PartnersOnly d d := fun d => ⟨⟨d.regs, rfl⟩, fun _ _ => rfl⟩
  unfold refreshPartners
  refine foldl_keeps (I := PartnersOnly c) (List.range 16) (fun d p hp hd => hd.trans ?_) (hself c)
  have hp := List.mem_range.mp hp
  dsimp only
  split
  · exact hput _ _ p hp
  · split
    · exact hput _ _ p hp
    · split
      · exact hself d
      · split
        · exact hput _ _ p hp
        · split
          · exact hself d
          · exact hput _ _ p hp

/-- A change of one link's status, of that link, and of nothing else that the training of links looks at. -/
structure TrainsOnly (l : Fin 12) (c d : Chip) : Prop where
  same : SameOut c d
  power : d.power = c.power
  fenced : d.fab.selfFenced = c.fab.selfFenced
  regs : ∀ off, off ≠ rLinkStatus l.val → getReg d off = getReg c off

theorem trainLink_begins {l : Fin 12} {c : Chip} (hmode : modeOf c = 0) (hf : c.fab.selfFenced = false) (hl : linkState c l = 0 ∨ linkState c l = 3) :
    linkState (trainLink l c) l = 1 ∧ TrainsOnly l c (trainLink l c) := by
  have hup : linkUp c l = false := by
    unfold linkUp; rcases hl with h | h <;> rw [h] <;> rfl
  unfold trainLink
  rw [hup, hf, hmode]
  exact ⟨getF_putF_self c (by omega), ⟨rfl, rfl⟩, rfl, rfl, fun off ho => getReg_putF_ne c _ _ _ ho⟩

/-- What a link is after FABRIC_PROFILE has trained the links that are DOWN or FAILED and lead to members. -/
def stateTrained (c : Chip) (l : Fin 12) : Nat :=
  if (linkState c l = 0 ∨ linkState c l = 3) ∧ member c (linkPartner c l) = true then 1 else linkState c l

/-- A package on which some of the links have been trained. -/
structure Trained (c d : Chip) : Prop where
  same : SameOut c d
  power : d.power = c.power
  fenced : d.fab.selfFenced = c.fab.selfFenced
  regs : ∀ off, (∀ l : Fin 12, off ≠ rLinkStatus l.val) → getReg d off = getReg c off
  state : ∀ l, linkState d l = linkState c l ∨ linkState d l = stateTrained c l

/-- The training of one link by FABRIC_PROFILE. -/
def profileTrain (p : Nat) (c : Chip) (l : Fin 12) : Chip :=
  if p = 3 then wLinkCtrl l 2 c
  else if (linkState c l = 0 ∨ linkState c l = 3) ∧ member c (linkPartner c l) then wLinkCtrl l 1 c else c

theorem fabricProfile_eq (p : Nat) (c : Chip) :
    fabricProfile p c = (List.finRange 12).foldl (profileTrain p) (wThCfg (pick p 0x4088 0x4044 0x4088) c) := rfl

theorem linkState_congr {c d : Chip} {l : Fin 12} (h : getReg d (rLinkStatus l.val) = getReg c (rLinkStatus l.val)) :
    linkState d l = linkState c l := getF_congr 0 3 h

theorem rLinkStatus_ne {a b : Fin 12} (h : b ≠ a) : rLinkStatus b.val ≠ rLinkStatus a.val := by
  unfold rLinkStatus; intro he; exact h (Fin.ext (by omega))

section
variable {c d : Chip} {p : Nat} (hp : p ≠ 3) (hmode : modeOf c = 0) (hf : c.fab.selfFenced = false) (h : Trained c d) (l : Fin 12)
include hp hmode hf h

theorem profileTrain_own : TrainsOnly l d (profileTrain p d l) ∧ linkState (profileTrain p d l) l = stateTrained c l := by
  have hpower : getReg d rPower = getReg c rPower := h.regs _ fun l => by unfold rPower rLinkStatus; omega
  have hmember : member d (linkPartner d l) = member c (linkPartner c l) := by
    have hreg : getReg d rMembers = getReg c rMembers := h.regs _ fun l => by unfold rMembers rLinkStatus; omega
    unfold member linkPartner pkg
    rw [hreg, h.power]
  have hself : TrainsOnly l d d := ⟨⟨rfl, rfl⟩, rfl, rfl, fun _ _ => rfl⟩
  unfold profileTrain
  rw [if_neg hp, hmember]
  by_cases hgo : (linkState d l = 0 ∨ linkState d l = 3) ∧ member c (linkPartner c l) = true
  · have htrain := trainLink_begins (l := l) (c := d) ((getF_congr 0 2 hpower).trans hmode) (h.fenced.trans hf) hgo.1
    rw [if_pos hgo]
    refine ⟨htrain.2, htrain.1.trans ?_⟩
    unfold stateTrained
    rcases h.state l with hs | hs
    · rw [if_pos (by rw [← hs]; exact hgo)]
    · unfold stateTrained at hs
      split at hs
      · omega
      · next hno => rw [hs] at hgo; exact absurd hgo hno
  · rw [if_neg hgo]
    refine ⟨hself, ?_⟩
    rcases h.state l with hs | hs
    · unfold stateTrained
      rw [hs] at hgo ⊢
      rw [if_neg hgo]
    · exact hs

theorem profileTrain_trained : Trained c (profileTrain p d l) := by
  obtain ⟨⟨hsame, hpow, hfen, hreg⟩, hown⟩ := profileTrain_own hp hmode hf h l
  refine ⟨h.same.trans hsame, hpow.trans h.power, hfen.trans h.fenced, fun off ho => (hreg off (ho l)).trans (h.regs off ho), fun a => ?_⟩
  by_cases ha : a = l
  · rw [ha]; exact .inr hown
  · rw [linkState_congr (hreg _ (rLinkStatus_ne ha))]; exact h.state a

end

/-- A write of TH_CFG changes registers alone: its own, and the partner entries. -/
theorem wThCfg_spec {x : Nat} {c : Chip} : (∃ rg, wThCfg x c = { c with regs := rg }) ∧ holdsBits (wThCfg x c) rThCfg x ∧
    ∀ off, off ≠ rThCfg → (∀ q < 16, off ≠ rPartner q) → getReg (wThCfg x c) off = getReg c off := by
  obtain ⟨⟨rg, hrg⟩, hreg⟩ : PartnersOnly (storeReg c rThCfg x) (wThCfg x c) := refreshPartners_only _
  obtain ⟨rg', hst⟩ := storeReg_eq c rThCfg x
  refine ⟨⟨rg, by rw [hrg, hst]⟩, ?_, fun off h1 h2 => (hreg off h2).trans (getReg_storeReg_ne _ _ h1)⟩
  exact holdsBits_congr (hreg _ fun q hq => by unfold rThCfg rPartner; omega) (holdsBits_stored (mask := 0x1FFFF) rfl (by decide))

theorem fabricProfile_spec {p : Nat} {c : Chip} (hp : p ≠ 3) (hmode : modeOf c = 0) (hf : c.fab.selfFenced = false) :
    SameOut c (fabricProfile p c) ∧ holdsBits (fabricProfile p c) rThCfg (pick p 0x4088 0x4044 0x4088) ∧
      ∀ l : Fin 12, linkState (fabricProfile p c) l = stateTrained c l := by
  rw [fabricProfile_eq]
  obtain ⟨⟨rg, hrg⟩, hcfg, hreg⟩ := wThCfg_spec (x := pick p 0x4088 0x4044 0x4088) (c := c)
  generalize wThCfg (pick p 0x4088 0x4044 0x4088) c = e at hrg hcfg hreg
  have hemode : modeOf e = 0 :=
    (getF_congr 0 2 (hreg rPower (by decide) fun q _ => by unfold rPower rPartner; omega)).trans hmode
  have hestate : ∀ l : Fin 12, linkState e l = linkState c l := fun l =>
    linkState_congr (hreg _ (by unfold rLinkStatus rThCfg; omega) fun q hq => by have := l.isLt; unfold rLinkStatus rPartner; omega)
  have hetrained : ∀ l : Fin 12, stateTrained e l = stateTrained c l := by
    intro l
    have hmem : getReg e rMembers = getReg c rMembers := hreg _ (by decide) fun q _ => by unfold rMembers rPartner; omega
    unfold stateTrained member linkPartner pkg
    rw [hestate, hmem, hrg]
  have hefen : e.fab.selfFenced = false := by rw [hrg]; exact hf
  have hfold := foldl_each (f := profileTrain p) (P := fun l d => linkState d l = stateTrained e l) (I := Trained e) (List.finRange 12)
    (fun d l _ hd => profileTrain_trained hp hemode hefen hd l)
    (fun d l _ hd => (profileTrain_own hp hemode hefen hd l).2)
    (fun d a _ b hd hab hb => (linkState_congr ((profileTrain_own hp hemode hefen hd a).1.regs _ (rLinkStatus_ne hab))).trans hb)
    (s := e) ⟨⟨rfl, rfl⟩, rfl, rfl, fun _ _ => rfl, fun _ => .inl rfl⟩
  have hsame : SameOut c e := by rw [hrg]; exact ⟨rfl, rfl⟩
  refine ⟨hsame.trans hfold.1.same, holdsBits_congr (hfold.1.regs _ fun l => by unfold rThCfg rLinkStatus; omega) hcfg, fun l => ?_⟩
  rw [hfold.2 l (List.mem_finRange l), hetrained]

/-! ### The network (R370), the power budget (R419), the recorder (R441) -/

theorem wNetCfg_spec (x : Nat) (c : Chip) : SameOut c (wNetCfg x c) ∧ holdsBits (wNetCfg x c) rNetCfg x := by
  unfold wNetCfg
  refine foldl_keeps (I := fun d => SameOut c d ∧ holdsBits d rNetCfg x) (List.range 2) (fun d p hp hd => ?_)
    ⟨sameOut_storeReg c _ _, holdsBits_stored (mask := 0x7FFFF) rfl (by decide)⟩
  split
  · exact hd
  · exact ⟨hd.1.trans ⟨rfl, rfl⟩, holdsBits_congr (getReg_putF_ne d _ _ _ (by unfold rNetCfg rPort; omega)) hd.2⟩

/-- WR_BUDGET and WR_CFG as a profile writes them. -/
def powerWrites (p : Nat) (c : Chip) : Chip :=
  let c := storeReg c rBudget (pick p (450 + 600 * 65536) (300 + 400 * 65536) (200 + 250 * 65536))
  let ip := getF c rWrCfg 16 8 * 65536
  storeReg c rWrCfg (ip + pick p (20 + 4 * 256 + 100 * 2 ^ 24) (14 + 4 * 256 + 95 * 2 ^ 24) (9 + 8 * 256 + 90 * 2 ^ 24))

theorem powerWrites_spec {p : Nat} (c : Chip) (h1 : 1 ≤ p) (h3 : p ≤ 3) : SameOut c (powerWrites p c) ∧
    getF (powerWrites p c) rBudget 0 10 = pick p 450 300 200 ∧ getF (powerWrites p c) rBudget 16 10 = pick p 600 400 250 ∧
    getF (powerWrites p c) rWrCfg 0 8 = pick p 20 14 9 ∧ getF (powerWrites p c) rWrCfg 8 4 = pick p 4 4 8 ∧
    getF (powerWrites p c) rWrCfg 24 8 = pick p 100 95 90 ∧ getF (powerWrites p c) rWrCfg 16 8 = getF c rWrCfg 16 8 := by
  have hp := two_or_three h1 h3 le_rfl
  have hb : rowMask rBudget = some 0x3FF03FF := rfl
  have hw : rowMask rWrCfg = some 0xFFFF0FFF := rfl
  have hip : getF c rWrCfg 16 8 < 2 ^ 8 := fld_lt _ _ _
  have hkeep : ∀ v lo w, getF (storeReg c rBudget v) rWrCfg lo w = getF c rWrCfg lo w := fun v lo w =>
    getF_congr lo w (getReg_storeReg_ne c v (by decide))
  unfold powerWrites
  dsimp only
  rw [hkeep]
  generalize getF c rWrCfg 16 8 = ip at hip
  have hbudget : ∀ d : Chip, ∀ v lo w, getF (storeReg d rWrCfg v) rBudget lo w = getF d rBudget lo w := fun d v lo w =>
    getF_congr lo w (getReg_storeReg_ne d v (by decide))
  refine ⟨(sameOut_storeReg c _ _).trans (sameOut_storeReg _ _ _), ?_, ?_, ?_, ?_, ?_, ?_⟩
  · rw [hbudget, getF_storeReg_stored hb (by decide) (by decide)]
    rcases hp with rfl | ⟨rfl, -⟩ | ⟨rfl, -⟩ <;> rfl
  · rw [hbudget, getF_storeReg_stored hb (by decide) (by decide)]
    rcases hp with rfl | ⟨rfl, -⟩ | ⟨rfl, -⟩ <;> rfl
  all_goals
    rw [getF_storeReg_stored hw (by decide) (by decide)]
    rcases hp with rfl | ⟨rfl, -⟩ | ⟨rfl, -⟩ <;> simp only [pick, fld] <;> omega

theorem wErCfg_spec (x : Nat) (c : Chip) : SameOut c (wErCfg x c).2 ∧ holdsBits (wErCfg x c).2 rErCfg x ∧
    getF (wErCfg x c).2 rErStatus 13 1 = 0 :=
  ⟨(sameOut_storeReg c _ _).trans ⟨rfl, rfl⟩,
    holdsBits_congr (getReg_putF_ne _ _ _ _ (by decide)) (holdsBits_stored (mask := 0xF) rfl (by decide)), getF_putF_self _ (by omega)⟩

/-! ### The arrays and the wake stage (R348) -/

theorem bit_eq_fld (x i : Nat) : bit x i = decide (fld x i 1 = 1) := Nat.testBit_eq_decide_div_mod_eq

/-- The settings of an array as a profile writes them, from those that stand there. -/
def arraySettings (p r : Nat) : Nat := setFld (setFld (setFld (setFld r 1 1 (pick p 0 0 1)) 2 3 (pick p 2 2 3)) 7 1 1) 8 3 0

/-- An array's settings are set by a profile. -/
def profileArray (p : Nat) (d : Dev) (a : Nat) : Dev := (wFeArray a (arraySettings p (getReg d.chip (rFeArray a))) d).2

theorem rFeArray_mask : ∀ a < 4, rowMask (rFeArray a) = some 0x7FFFFF := by decide +kernel

/-- What a profile leaves of the device beside the arrays' settings that wait. -/
structure ArraysOnly (d e : Dev) : Prop where
  same : SameOut d.chip e.chip
  sec : e.sec = d.sec
  net : e.net = d.net
  valid : ∀ a < 4, getF e.chip (rFeArray a) 5 2 ≠ 3

/-- An array whose settings are those of profile `p`, and wait for its next frame boundary. -/
structure ArraySet (p a : Nat) (d : Dev) : Prop where
  waits : a ∈ d.fe.waiting
  path : getF d.chip (rFeArray a) 1 1 = pick p 0 0 1
  clock : getF d.chip (rFeArray a) 2 3 = pick p 2 2 3
  block : getF d.chip (rFeArray a) 7 1 = 1
  gain : getF d.chip (rFeArray a) 8 3 = 0

section
variable {p : Nat} (h1 : 1 ≤ p) (h3 : p ≤ 3)
include h1 h3

theorem arraySettings_fields (r : Nat) : fld (arraySettings p r) 1 1 = pick p 0 0 1 ∧ fld (arraySettings p r) 2 3 = pick p 2 2 3 ∧
    fld (arraySettings p r) 7 1 = 1 ∧ fld (arraySettings p r) 8 3 = 0 ∧ fld (arraySettings p r) 5 2 = fld r 5 2 := by
  have hp := two_or_three h1 h3 le_rfl
  unfold arraySettings
  refine ⟨?_, ?_, ?_, ?_, ?_⟩
  · rw [fld_setFld_ne _ _ (by omega), fld_setFld_ne _ _ (by omega), fld_setFld_ne _ _ (by omega), fld_setFld_self]
    rcases hp with rfl | ⟨rfl, -⟩ | ⟨rfl, -⟩ <;> rfl
  · rw [fld_setFld_ne _ _ (by omega), fld_setFld_ne _ _ (by omega), fld_setFld_self]
    rcases hp with rfl | ⟨rfl, -⟩ | ⟨rfl, -⟩ <;> rfl
  · rw [fld_setFld_ne _ _ (by omega), fld_setFld_self]; rfl
  · rw [fld_setFld_self]; rfl
  · rw [fld_setFld_ne _ _ (by omega), fld_setFld_ne _ _ (by omega), fld_setFld_ne _ _ (by omega), fld_setFld_ne _ _ (by omega)]

theorem arraySettings_good {r : Nat} (hr : fld r 5 2 ≠ 3) : arrayBad (arraySettings p r) = false := by
  obtain ⟨hpath, hclock, -, -, hkeep⟩ := arraySettings_fields h1 h3 r
  unfold arrayBad
  rw [bit_eq_fld, hpath, hclock, hkeep]
  rcases two_or_three h1 h3 le_rfl with rfl | ⟨rfl, -⟩ | ⟨rfl, -⟩ <;> simp [pick, hr]

theorem profileArray_eq {d : Dev} {a : Nat} (hd : getF d.chip (rFeArray a) 5 2 ≠ 3) : profileArray p d a =
    modFe (fun fe => { fe with waiting := insertNat a fe.waiting })
      (d.chipDo (fun c => storeReg c (rFeArray a) (arraySettings p (getReg d.chip (rFeArray a))))) := by
  unfold profileArray wFeArray
  rw [arraySettings_good h1 h3 hd]
  rfl

theorem profileArray_set {d : Dev} {a : Nat} (ha : a < 4) (hd : getF d.chip (rFeArray a) 5 2 ≠ 3) : ArraySet p a (profileArray p d a) := by
  obtain ⟨hpath, hclock, hblock, hgain, -⟩ := arraySettings_fields h1 h3 (getReg d.chip (rFeArray a))
  have hmask := rFeArray_mask a ha
  have hread : ∀ lo w, fld 0x7FFFFF lo w = 2 ^ w - 1 →
      getF (profileArray p d a).chip (rFeArray a) lo w = fld (arraySettings p (getReg d.chip (rFeArray a))) lo w := fun lo w hf => by
    rw [profileArray_eq h1 h3 hd]; exact getF_storeReg_stored hmask (by decide) hf
  refine ⟨?_, (hread 1 1 (by decide)).trans hpath, (hread 2 3 (by decide)).trans hclock, (hread 7 1 (by decide)).trans hblock,
    (hread 8 3 (by decide)).trans hgain⟩
  rw [profileArray_eq h1 h3 hd]
  exact mem_insertNat a _

theorem profileArray_other {d : Dev} {a b : Nat} (hd : getF d.chip (rFeArray a) 5 2 ≠ 3) (hab : b ≠ a) :
    getReg (profileArray p d a).chip (rFeArray b) = getReg d.chip (rFeArray b) := by
  rw [profileArray_eq h1 h3 hd]
  exact getReg_storeReg_ne _ _ (by unfold rFeArray; omega)

theorem profileArray_only {c d : Dev} {a : Nat} (ha : a < 4) (h : ArraysOnly c d) : ArraysOnly c (profileArray p d a) := by
  have hd := h.valid a ha
  have heq := profileArray_eq (p := p) h1 h3 hd
  refine ⟨h.same.trans ?_, ?_, ?_, fun b hb => ?_⟩
  · rw [heq]; exact sameOut_storeReg _ _ _
  · rw [heq]; exact h.sec
  · rw [heq]; exact h.net
  · by_cases hab : b = a
    · obtain ⟨-, -, -, -, hkeep⟩ := arraySettings_fields h1 h3 (getReg d.chip (rFeArray a))
      rw [hab, heq]
      show getF (storeReg d.chip (rFeArray a) _) (rFeArray a) 5 2 ≠ 3
      rw [getF_storeReg_stored (rFeArray_mask a ha) (by decide) (by decide), hkeep]
      exact hd
    · rw [getF_congr 5 2 (profileArray_other h1 h3 hd hab)]; exact h.valid b hb

end

/-- FE_WAKE_CFG as a profile writes it, from what stands there. -/
def wakeSettings (p r : Nat) : Nat :=
  setFld (setFld r 7 21 (24 + 3 * 2 ^ 6 + 50 * 2 ^ 10 + (if p = 1 then 0xF * 2 ^ 18 else 0))) 0 1 (pick p 1 0 0)

/-- The ring starts with profile 1, where it does not run. -/
def profileRing (p : Nat) (d : Dev) : Dev :=
  if p = 1 ∧ !bit (getReg d.chip rRingCfg) 0 then (wRing 0 (getReg d.chip rRingCfg + 1) d).2 else d

theorem feProfile_eq (p : Nat) (d : Dev) : feProfile p d =
    profileRing p (((List.range 4).foldl (profileArray p) d).chipDo (fun c =>
      storeReg c rWakeCfg (wakeSettings p (getReg ((List.range 4).foldl (profileArray p) d).chip rWakeCfg)))) := rfl

/-- What the start of the ring leaves. -/
structure RingOnly (d e : Dev) : Prop where
  same : SameOut d.chip e.chip
  sec : e.sec = d.sec
  net : e.net = d.net
  waiting : e.fe.waiting = d.fe.waiting
  regs : ∀ off, off ≠ rRingCfg → off ≠ rWakeStatus → off ≠ rFeCtr 6 → getReg e.chip off = getReg d.chip off

theorem ringReset_only (d : Dev) : RingOnly d (ringReset d) := by
  unfold ringReset
  dsimp only
  split
  · obtain ⟨rg, hb⟩ := bump_eq (putStage 0 d.chip) (rFeCtr 6) 1
    refine ⟨?_, rfl, rfl, rfl, fun off _ hs hc => (getReg_bump_ne (putStage 0 d.chip) 1 hc).trans (getReg_putF_ne d.chip _ _ _ hs)⟩
    show SameOut d.chip (bump (putStage 0 d.chip) (rFeCtr 6) 1)
    rw [hb]; exact ⟨rfl, rfl⟩
  · exact ⟨⟨rfl, rfl⟩, rfl, rfl, rfl, fun _ _ _ _ => rfl⟩

theorem profileRing_only (p : Nat) (d : Dev) : RingOnly d (profileRing p d) := by
  unfold profileRing
  split
  · obtain ⟨hsame, hsec, hnet, hwait, hregs⟩ := ringReset_only (d.chipDo (fun c => storeReg c rRingCfg (getReg d.chip rRingCfg + 1)))
    exact ⟨(sameOut_storeReg d.chip _ _).trans hsame, hsec, hnet, hwait,
      fun off hr hs hc => (hregs off hr hs hc).trans (getReg_storeReg_ne d.chip _ hr)⟩
  · exact ⟨⟨rfl, rfl⟩, rfl, rfl, rfl, fun _ _ _ _ => rfl⟩

theorem ArraySet.of_regs {p a : Nat} {d e : Dev} (h : ArraySet p a d) (hw : a ∈ d.fe.waiting → a ∈ e.fe.waiting)
    (hr : getReg e.chip (rFeArray a) = getReg d.chip (rFeArray a)) : ArraySet p a e := by
  obtain ⟨hwait, hpath, hclock, hblock, hgain⟩ := h
  exact ⟨hw hwait, (getF_congr 1 1 hr).trans hpath, (getF_congr 2 3 hr).trans hclock, (getF_congr 7 1 hr).trans hblock,
    (getF_congr 8 3 hr).trans hgain⟩

/-- The arrays, the wake stage and the ring after a profile. -/
structure FeProfiled (p : Nat) (d e : Dev) : Prop where
  same : SameOut d.chip e.chip
  sec : e.sec = d.sec
  net : e.net = d.net
  source : getF e.chip rWakeCfg 0 1 = pick p 1 0 0
  arrays : ∀ a < 4, ArraySet p a e

theorem feProfile_spec {p : Nat} {d : Dev} (h1 : 1 ≤ p) (h3 : p ≤ 3) (hd : ∀ a < 4, getF d.chip (rFeArray a) 5 2 ≠ 3) :
    FeProfiled p d (feProfile p d) := by
  have hfold := foldl_each (f := profileArray p) (P := fun a e => ArraySet p a e) (I := ArraysOnly d) (List.range 4)
    (fun e a ha he => profileArray_only h1 h3 (List.mem_range.mp ha) he)
    (fun e a ha he => profileArray_set h1 h3 (List.mem_range.mp ha) (he.valid a (List.mem_range.mp ha)))
    (fun e a ha b he hab hb => by
      have hv := he.valid a (List.mem_range.mp ha)
      refine hb.of_regs (fun hin => ?_) (profileArray_other h1 h3 hv hab)
      rw [profileArray_eq h1 h3 hv]
      exact mem_insertNat_of_mem hin)
    (s := d) ⟨⟨rfl, rfl⟩, rfl, rfl, hd⟩
  rw [feProfile_eq]
  generalize (List.range 4).foldl (profileArray p) d = e at hfold
  obtain ⟨⟨hsame, hsec, hnet, -⟩, harr⟩ := hfold
  have hring := profileRing_only p (e.chipDo (fun c => storeReg c rWakeCfg (wakeSettings p (getReg e.chip rWakeCfg))))
  refine ⟨(hsame.trans (sameOut_storeReg e.chip _ _)).trans hring.same, hring.sec.trans hsec, hring.net.trans hnet, ?_, fun a ha => ?_⟩
  · rw [getF_congr 0 1 (hring.regs rWakeCfg (by decide) (by decide) (by decide))]
    show getF (storeReg e.chip rWakeCfg _) rWakeCfg 0 1 = _
    rw [getF_storeReg_stored (mask := 0xFFFFFFF) rfl (by decide) (by decide)]
    unfold wakeSettings
    rw [fld_setFld_self]
    rcases two_or_three h1 h3 le_rfl with rfl | ⟨rfl, -⟩ | ⟨rfl, -⟩ <;> rfl
  · refine (harr a (List.mem_range.mpr ha)).of_regs (fun hin => hring.waiting ▸ hin) ?_
    refine (hring.regs _ (by unfold rFeArray rRingCfg; omega) (by unfold rFeArray rWakeStatus; omega)
      (by unfold rFeArray rFeCtr; omega)).trans (getReg_storeReg_ne e.chip _ (by unfold rFeArray rWakeCfg; omega))

/-! ### Each profile register in turn -/

theorem hubOn_of_active {c : Chip} (h : modeOf c = 0) : hubOn c = true := by unfold hubOn; rw [h]; rfl

theorem profilesOfManyRegisters : ProfilesOfManyRegisters := by
  intro m v s p hm ha hs hb hp h1
  have hchip := fun (k : Nat) (f : Chip → Chip) => exec_profile_chip (k := k) (f := f) hm ha hs hb hp h1
  refine ⟨fun h2 hmode hch => ?_, fun h3 hh => ?_, fun h3 hh => ?_, fun h2 hmode hf => ?_, fun h3 hh hgood => ?_, fun h3 hh => ?_,
    fun h3 hh => ?_, fun h3 => ?_⟩
  case refine_1 =>
    have hfreq : pick p 24 18 0 ≤ 24 ∧ pick p 24 18 0 = if p = 1 then 24 else 18 := by
      rcases two_or_three h1 h2 (by decide) with rfl | ⟨rfl, -⟩ | ⟨-, h⟩
      · decide
      · decide
      · omega
    obtain ⟨hsame, hen, hclk⟩ := basinProfile_spec hfreq.1 hmode hch
    obtain ⟨hx, htaken⟩ := hchip 0 _ h2 (.inr (hubOn_of_active hmode)) (fun _ => rfl) hsame
    refine ⟨_, hx, htaken, fun b => ⟨?_, ?_⟩⟩
    · show bit (getReg (profileAnswered 0 m p _) rEnable) b.val = _
      rw [getReg_profileAnswered _ _ _ _ (by omega) (by decide), hen, bit_basinMask]
    · refine (getF_congr 0 6 (getReg_profileAnswered _ _ _ _ (by omega) (by unfold rClk; omega))).trans ?_
      rw [hclk b, hfreq.2]
  case refine_2 =>
    obtain ⟨hsame, hcfg⟩ := scaleWrites_spec (pick p 0x23 0x31 0x14) s.chip
    obtain ⟨hx, htaken⟩ := hchip 1 (scaleWrites (pick p 0x23 0x31 0x14)) h3 (.inr hh) (fun _ => rfl) hsame
    exact ⟨_, hx, htaken, fun b hb =>
      holdsBits_congr (getReg_profileAnswered _ _ _ _ (by omega) (by unfold rSuCfg; omega)) (hcfg b hb)⟩
  case refine_3 =>
    obtain ⟨hsame, hlimit, hkeep, hfl⟩ := placeWrites_spec s.chip h1 h3
    obtain ⟨hx, htaken⟩ := hchip 8 (placeWrites p) h3 (.inr hh) (fun _ => rfl) hsame
    have hreg : ∀ off, 0xC0 ≤ off → getReg (profileAnswered 8 m p (placeWrites p s.chip)) off = getReg (placeWrites p s.chip) off :=
      fun off ho => getReg_profileAnswered _ _ _ _ (by omega) ho
    exact ⟨_, hx, htaken, (getF_congr 8 8 (hreg _ (by decide))).trans hlimit, (getF_congr 0 1 (hreg _ (by decide))).trans hkeep,
      holdsBits_congr (hreg _ (by decide)) hfl⟩
  case refine_4 =>
    obtain ⟨hsame, hcfg, hlinks⟩ := fabricProfile_spec (p := p) (by omega) hmode hf
    obtain ⟨hx, htaken⟩ := hchip 10 _ (h2.trans (by decide)) (.inr (hubOn_of_active hmode)) (fun _ => rfl) hsame
    exact ⟨_, hx, htaken, holdsBits_congr (getReg_profileAnswered _ _ _ _ (by omega) (by decide)) hcfg,
      fun l => (linkState_congr (getReg_profileAnswered _ _ _ _ (by omega) (by unfold rLinkStatus; omega))).trans (hlinks l)⟩
  case refine_5 =>
    obtain ⟨⟨hmem, hout⟩, hsec, hnet, hsource, harr⟩ := feProfile_spec (d := s.dev) h1 h3 hgood
    have hx := exec_profile_taken (k := 11) hm ha hp h3 (.inr hh) hs hb
    rw [onDev_eq (fun d => Dev.chipDo _ _), if_neg (by omega)] at hx
    have hreg : ∀ off, 0xC0 ≤ off → getReg (profileAnswered 11 m p (feProfile p s.dev).chip) off = getReg (feProfile p s.dev).chip off :=
      fun off ho => getReg_profileAnswered _ _ _ _ (by omega) ho
    refine ⟨_, hx, ⟨rfl, hsec, hnet, hmem, getReg_profile _ _ 11 (by omega), congrArg (Emit.bus m p 0 :: ·) hout⟩,
      (getF_congr 0 1 (hreg _ (by decide))).trans hsource, fun a ha => ?_⟩
    obtain ⟨hwait, hpath, hclock, hblock, hgain⟩ := harr a ha
    have hra := hreg (rFeArray a) (by unfold rFeArray; omega)
    exact ⟨hwait, (getF_congr 1 1 hra).trans hpath, (getF_congr 2 3 hra).trans hclock, (getF_congr 7 1 hra).trans hblock,
      (getF_congr 8 3 hra).trans hgain⟩
  case refine_6 =>
    obtain ⟨hsame, hcfg⟩ := wNetCfg_spec (pick p 0x29FEE 0x29F1E 0x79FEE) s.chip
    obtain ⟨hx, htaken⟩ := hchip 12 _ h3 (.inr hh) (fun _ => rfl) hsame
    exact ⟨_, hx, htaken, holdsBits_congr (getReg_profileAnswered _ _ _ _ (by omega) (by decide)) hcfg⟩
  case refine_7 =>
    obtain ⟨hsame, hfields⟩ := powerWrites_spec s.chip h1 h3
    obtain ⟨hx, htaken⟩ := hchip 13 (powerWrites p) h3 (.inr hh) (fun _ => rfl) hsame
    have hreg : ∀ off, 0xC0 ≤ off → ∀ lo w, getF (profileAnswered 13 m p (powerWrites p s.chip)) off lo w = getF (powerWrites p s.chip) off lo w :=
      fun off ho lo w => getF_congr lo w (getReg_profileAnswered _ _ _ _ (by omega) ho)
    refine ⟨_, hx, htaken, ?_⟩
    simp only [hreg rBudget (by decide), hreg rWrCfg (by decide)]
    exact hfields
  case refine_8 =>
    obtain ⟨hsame, hcfg, hoff⟩ := wErCfg_spec (pick p 0xD 0xF 0xC) s.chip
    obtain ⟨hx, htaken⟩ := hchip 14 (fun c => (wErCfg (pick p 0xD 0xF 0xC) c).2) h3 (.inl rfl) (fun _ => rfl) hsame
    exact ⟨_, hx, htaken, holdsBits_congr (getReg_profileAnswered _ _ _ _ (by omega) (by decide)) hcfg,
      (getF_congr 13 1 (getReg_profileAnswered _ _ _ _ (by omega) (by decide))).trans hoff⟩

/-- Settles O50: the profiles that store one value, and the others one by one. -/
theorem profilesWriteRegisters : Obligations.ProfilesWriteRegisters := ⟨profilesOfOneRegister, profilesOfManyRegisters⟩

end Sys2Proof.Machine
end

section
/-! PROOFS. The exact sums of the jets (R31, R74): blocks of INT8 products enter an INT32 accumulator, which a weight tile of at most 256 rows
cannot drive past its width. -/

namespace Sys2Proof.Machine

/-- The sum of the products of INT8 codes. -/
def dot8 (as ws : List Nat) : Int := (List.zipWith (fun a w => intOf .int8 a * intOf .int8 w) as ws).sum

theorem intOf_int8_range (x : Nat) : -128 ≤ intOf .int8 x ∧ intOf .int8 x ≤ 127 := by
  unfold intOf signed
  dsimp only
  split <;> omega

theorem int8_product_range (a w : Nat) : -16384 ≤ intOf .int8 a * intOf .int8 w ∧ intOf .int8 a * intOf .int8 w ≤ 16384 := by
  have ha := intOf_int8_range a
  have hw := intOf_int8_range w
  constructor <;> nlinarith only [ha.1, ha.2, hw.1, hw.2]

/-- Each product is at most 2^14 in magnitude. -/
theorem dot8_range (as ws : List Nat) : -(16384 * (as.length : Int)) ≤ dot8 as ws ∧ dot8 as ws ≤ 16384 * (as.length : Int) := by
  induction as generalizing ws with
  | nil => simp [dot8]
  | cons a as ih =>
    cases ws with
    | nil => simp [dot8]; omega
    | cons w ws =>
      have hstep : dot8 (a :: as) (w :: ws) = intOf .int8 a * intOf .int8 w + dot8 as ws := by simp [dot8]
      have hp := int8_product_range a w
      have := ih ws
      rw [hstep, List.length_cons]
      omega

theorem dot8_take_drop (n : Nat) (as ws : List Nat) : dot8 (as.take n) (ws.take n) + dot8 (as.drop n) (ws.drop n) = dot8 as ws := by
  unfold dot8
  rw [← List.take_zipWith, ← List.drop_zipWith, ← List.sum_append, List.take_append_drop]

theorem clampInt_within {i : Int} (lo : -(2 ^ 31) ≤ i) (hi : i < 2 ^ 31) : clampInt 32 i = (i, false) := by
  unfold clampInt
  dsimp only
  rw [if_neg (by norm_num; omega), if_neg (by norm_num; omega)]

/-- A product of INT8 by INT8 without scales, into INT32. -/
structure PlainInt8 (p : Prod) : Prop where
  aFmt : p.aFmt = .int8
  wFmt : p.wFmt = .int8
  acc48 : p.acc48 = false
  scaled : p.scaled = false
  aSc : p.aSc = none
  wSc : p.wSc = none

theorem PlainInt8.isInt {p : Prod} (hp : PlainInt8 p) : p.isInt = true := by
  unfold Prod.isInt intPair
  rw [hp.aFmt, hp.wFmt]; rfl

theorem PlainInt8.clear {p : Prod} (hp : PlainInt8 p) : p.clear = .int 0 none := by unfold Prod.clear; rw [hp.isInt]; rfl

theorem PlainInt8.blockUnits {p : Prod} (hp : PlainInt8 p) : p.blockUnits = [] := by
  unfold Prod.blockUnits
  rw [hp.aSc, hp.wSc, hp.isInt]; rfl

theorem addBlocks_nil (p : Prod) (sas sws : List Sc16) (x : Cell × Bool) : addBlocks p sas sws [] [] x = x := by
  cases sas <;> cases sws <;> rfl

section
variable {p : Prod} (hp : PlainInt8 p)
include hp

/-- A block whose sum stays within INT32 adds its exact sum. -/
theorem addBlock_exact (sa sw : Sc16) (as ws : List Nat) (a : Int) (lo : -(2 ^ 31) ≤ a + dot8 as ws) (hi : a + dot8 as ws < 2 ^ 31) :
    addBlock p sa sw as ws (.int a none) = (.int (a + dot8 as ws) none, false) := by
  have hsum : ((as.zip ws).map (fun q => intOf p.aFmt q.1 * intOf p.wFmt q.2)).sum = dot8 as ws := by
    rw [hp.aFmt, hp.wFmt]
    unfold dot8
    rw [List.zip, List.map_zipWith]
  unfold addBlock
  simp only [hsum, hp.scaled, hp.acc48, Bool.false_eq_true, if_false, clampInt_within lo hi]

/-- A run of blocks adds the exact sum of all its products. -/
theorem addBlocks_exact (fuel : Nat) {sas sws : List Sc16} {as ws : List Nat} {a : Int} (s : Bool) (hlen : as.length = ws.length)
    (hf : as.length ≤ fuel) (hsa : as.length ≤ 32 * sas.length) (hsw : as.length ≤ 32 * sws.length)
    (lo : -(2 ^ 31) ≤ a - 16384 * (as.length : Int)) (hi : a + 16384 * (as.length : Int) < 2 ^ 31) :
    addBlocks p sas sws (chunks 32 fuel as) (chunks 32 fuel ws) (.int a none, s) = (.int (a + dot8 as ws) none, s) := by
  induction fuel generalizing sas sws as ws a with
  | zero =>
    obtain rfl := List.length_eq_zero_iff.mp (Nat.le_zero.mp hf)
    obtain rfl := List.length_eq_zero_iff.mp hlen.symm
    simp [chunks, addBlocks_nil, dot8]
  | succ fuel ih =>
    cases as with
    | nil =>
      obtain rfl := List.length_eq_zero_iff.mp hlen.symm
      simp [chunks, addBlocks_nil, dot8]
    | cons x as =>
      cases ws with
      | nil => simp at hlen
      | cons w ws =>
        cases sas with
        | nil => simp at hsa
        | cons sa sas =>
          cases sws with
          | nil => simp at hsw
          | cons sw sws =>
            have hr := dot8_range ((x :: as).take 32) ((w :: ws).take 32)
            have htake : ((x :: as).take 32).length + ((x :: as).drop 32).length = (x :: as).length := by
              rw [← List.length_append, List.take_append_drop]
            have hdrop := List.length_drop (i := 32) (l := x :: as)
            have hblock := addBlock_exact hp sa sw ((x :: as).take 32) ((w :: ws).take 32) a (by omega) (by omega)
            simp only [List.length_cons] at hsa hsw hf hlen htake hdrop lo hi
            have hrest := ih (sas := sas) (sws := sws) (as := (x :: as).drop 32) (ws := (w :: ws).drop 32)
              (a := a + dot8 ((x :: as).take 32) ((w :: ws).take 32)) (by simp only [List.length_drop, List.length_cons]; omega)
              (by omega) (by omega) (by omega) (by omega) (by omega)
            show addBlocks p (sa :: sas) (sw :: sws) ((x :: as).take 32 :: chunks 32 fuel ((x :: as).drop 32))
              ((w :: ws).take 32 :: chunks 32 fuel ((w :: ws).drop 32)) (.int a none, s) = _
            unfold addBlocks
            rw [hblock]
            simp only [Bool.or_false]
            rw [hrest, Int.add_assoc, dot8_take_drop]

/-- A row against the columns of a tile, from accumulators that are clear: the exact sums, and none saturates. -/
theorem rowTile_exact {as : List Nat} {sc : List Sc16} (hsc : as.length ≤ 32 * sc.length) (hlen : as.length ≤ 65536) {cols : List (List Nat)}
    (hcols : ∀ w ∈ cols, w.length = as.length) : rowTile p sc as (cols.map (fun w => (sc, w))) (List.replicate cols.length (.int 0 none)) =
      (cols.map (fun w => .int (dot8 as w) none), false) := by
  have hcell : ∀ w ∈ cols, addBlocks p sc sc (chunks 32 as.length as) (chunks 32 w.length w) (.int 0 none, false) =
      (.int (dot8 as w) none, false) := by
    intro w hw
    rw [hcols w hw, addBlocks_exact hp as.length false (hcols w hw).symm le_rfl hsc hsc (by omega) (by omega), Int.zero_add]
  have hrow : ((cols.map (fun w => (sc, w))).zip (List.replicate cols.length (Cell.int 0 none))).map (fun q =>
      addBlocks p sc q.1.1 (chunks 32 as.length as) (chunks 32 q.1.2.length q.1.2) (q.2, false)) =
      cols.map (fun w => (.int (dot8 as w) none, false)) := by
    have hrep : List.replicate cols.length (Cell.int 0 none) = cols.map (fun _ => Cell.int 0 none) := by simp
    rw [hrep, List.zip_map', List.map_map]
    exact List.map_congr_left hcell
  unfold rowTile
  dsimp only
  rw [hrow, List.map_map, List.any_map]
  simp [Function.comp_def]

end

end Sys2Proof.Machine
end

section
/-! PROOFS. A jet multiply of INT8 operands over one raw weight tile (R33, R46, R47, R57, R212, R478): what each step of the loop over rows and
tiles leaves where no word has an error and no residue fault is injected. -/

namespace Sys2Proof.Machine

/-! ### Lists of effects -/

theorem foldlM_nil_ok {σ α : Type} (f : σ → α → Eff σ) (s : σ) (c : Chip) : [].foldlM f s c = .ok s c := rfl

theorem foldlM_cons_ok {σ α : Type} {f : σ → α → Eff σ} {s t : σ} {a : α} {l : List α} {c d : Chip} (h : f s a c = .ok t d) :
    (a :: l).foldlM f s c = l.foldlM f t d := by
  rw [List.foldlM_cons]
  exact bind_ok h

theorem foldlM_one {σ α : Type} {f : σ → α → Eff σ} {s t : σ} {a : α} {c d : Chip} (h : f s a c = .ok t d) :
    [a].foldlM f s c = .ok t d := (foldlM_cons_ok h).trans (foldlM_nil_ok f t d)

/-- A list of effects that change nothing. -/
theorem mapM_ok {α β : Type} {f : α → Eff β} (g : α → β) (h : ∀ a, f a = pure (g a)) (l : List α) (c : Chip) : l.mapM f c = .ok (l.map g) c := by
  rw [show f = fun a => pure (g a) from funext h, List.mapM_pure]
  rfl

/-! ### The operands -/

theorem readSrc_raw (pt : Port) (unit : Nat) (tags : Nat → Option Nat) (base o n : Nat) {c : Chip} (he : c.ecc = [])
    (hp : pkgOf (pt.sram + base + o) = pkg c) :
    readSrc pt unit tags (.raw base) o n c = .ok (memReadN c.mem (pt.sram + base + o) n, .raw base) c :=
  bind_ok (readMem_clean unit _ n c he hp)

theorem scalesOf_none (base blocks r b0 b1 : Nat) : scalesOf false base blocks r b0 b1 = pure (List.replicate (b1 - b0) sc16One) := rfl

theorem bytes_int8 (n : Nat) : Fmt.int8.bytes n = n := by
  show (8 * n + 8 - 1) / 8 = n
  omega

/-- The codes of row `r` of a raw INT8 operand. -/
def rowCodes (p : Prod) (pt : Port) (base : Nat) (c : Chip) (r : Nat) : List Nat :=
  (List.range p.k).map (element .int8 (memReadN c.mem (pt.sram + base + r * p.pitch * 64) p.k))

section
variable {p : Prod} (hp : PlainInt8 p) {pt : Port} {c : Chip} (he : c.ecc = [])
include hp he

/-- A row of the activation operand. -/
theorem loadRow_raw {base r : Nat} (hpkg : pkgOf (pt.sram + base + r * p.pitch * 64) = pkg c) :
    loadRow p pt (.raw base) r 0 p.k c = .ok (List.replicate (ceilDiv p.k 32) sc16One, rowCodes p pt base c r, .raw base) c := by
  unfold loadRow
  rw [hp.aSc, hp.aFmt]
  simp only [Option.isSome_none, bytes_int8, Nat.zero_add, Nat.add_zero, Nat.zero_div]
  rw [scalesOf_none, bind_ok (pure_ok _ c), bind_ok (readSrc_raw pt _ _ base _ p.k he hpkg)]
  rfl

/-- The columns of the weight tile, the only one. -/
theorem loadTile_raw {base kt nt : Nat} (ht : (kt, nt) = tileOf .int8 p.gang) (hk : p.k ≤ kt) (hn : p.n ≤ nt)
    (hpkg : pkgOf (pt.sram + base) = pkg c) : loadTile p pt (.raw base) 0 0 c =
      .ok (((List.range p.n).map (fun x => (List.range p.k).map (fun y =>
        element .int8 (memReadN c.mem (pt.sram + base) (kt * nt)) (y * nt + x)))).map (fun w =>
          (List.replicate (ceilDiv p.k 32) sc16One, w)), .raw base) c := by
  have hread := readSrc_raw pt p.unit (wTag p) base 0 (kt * nt) he (by simpa using hpkg)
  have hscale := mapM_ok (f := fun x => scalesOf false ((none : Option Nat).getD 0) p.blocks (0 * nt + x) (0 * kt / 32) (ceilDiv (0 * kt + p.k) 32))
    (fun _ => List.replicate (ceilDiv p.k 32) sc16One) (fun x => by rw [scalesOf_none]; simp) (List.range p.n) c
  have hzip : ∀ (f : Nat → List Nat), ((List.range p.n).map (fun _ => List.replicate (ceilDiv p.k 32) sc16One)).zip ((List.range p.n).map f) =
      ((List.range p.n).map f).map (fun w => (List.replicate (ceilDiv p.k 32) sc16One, w)) := fun f => by
    rw [List.zip_map', List.map_map]; rfl
  unfold loadTile
  rw [hp.wFmt, ← ht, hp.wSc]
  have hnc : min nt (p.n - 0 * nt) = p.n := by omega
  have hkc : min kt (p.k - 0 * kt) = p.k := by omega
  simp only [hnc, hkc, Option.isSome_none, bytes_int8]
  rw [bind_ok hscale]
  simp only [Nat.zero_mul, Nat.zero_add]
  rw [bind_ok hread]
  simp only [Nat.add_zero, hzip]
  rfl

end

/-! ### A row at its drain -/

theorem residueAt_none {c : Chip} (hr : c.residue = []) (b : Fin 32) (units : List Nat) (row : Nat) (at_ : Nat → Bool) :
    residueAt c b units row at_ = none := by unfold residueAt; rw [hr]; rfl

theorem residueBlocks_clean {c : Chip} (hr : c.residue = []) (b : Fin 32) (units : List Nat) (row lo hi : Nat) :
    residueBlocks b units row lo hi c = .ok () c := by
  unfold residueBlocks
  rw [bind_ok (get_ok c), residueAt_none hr]
  rfl

theorem drainCheck_clean {c : Chip} (hr : c.residue = []) (b : Fin 32) (p : Prod) (row : Nat) : drainCheck b p row c = .ok () c := by
  unfold drainCheck residueCheck
  split
  · rw [bind_ok (get_ok c), residueAt_none hr]
    rfl
  · rfl

theorem packCodes_int32 (cs : List Nat) : packCodes .int32 cs = cs.flatMap (leBytes 4) := rfl

/-- The source values of accumulators in plain form are their integers. -/
theorem sourceVals_plain {p : Prod} (hp : PlainInt8 p) {o : OutSpec} (hrs : o.rsEn = false) (hsc : o.scEn = false) (is : List Int) :
    sourceVals p o 0 (is.map (fun i => .int i none)) = (is.map Val.ofInt, 0) := by
  have hres : ∀ q : Cell × Nat, intResult false (o.rs.getD (0 + q.2) (o.rs.getD 0 ⟨0, 0⟩)) q.1 = intResult false ⟨0, 0⟩ q.1 := by
    intro q
    unfold intResult
    simp only [Bool.false_eq_true, if_false]
  have hmap : ∀ l : List (Cell × Nat), l.map (fun q => intResult false ⟨0, 0⟩ q.1) = (l.map Prod.fst).map (intResult false ⟨0, 0⟩) :=
    fun l => by rw [List.map_map]; rfl
  have hfst : ((is.map (fun i => Cell.int i none)).zip (List.range (is.map (fun i => Cell.int i none)).length)).map
      (fun q => intResult false (o.rs.getD (0 + q.2) (o.rs.getD 0 ⟨0, 0⟩)) q.1) = is := by
    rw [List.map_congr_left (fun q _ => hres q), hmap, List.map_fst_zip (by simp), List.map_map]
    exact List.map_id is
  unfold sourceVals
  rw [hp.isInt, hrs, hsc]
  simp only [if_true, Bool.false_and, Bool.false_eq_true, if_false, hfst]

theorem convPlain_int32 (b : Fin 32) {is : List Int} (his : ∀ i ∈ is, -(2 ^ 31) ≤ i ∧ i < 2 ^ 31) (c : Chip) :
    convPlain b .int32 (is.map Val.ofInt) c = .ok (is.map (unsigned 32)) c := by
  have hcs : (is.map Val.ofInt).map (conv .int32) = (is.map (unsigned 32)).map (fun n => { code := n }) := by
    rw [List.map_map, List.map_map]
    exact List.map_congr_left fun i hi => conv_int i (his i hi).1 (his i hi).2
  have hcount : countConv b ((is.map (unsigned 32)).map (fun n => { code := n })) c = c :=
    countConv_none b _ c fun q hq => by obtain ⟨n, -, rfl⟩ := List.mem_map.mp hq; exact ⟨rfl, rfl⟩
  generalize is.map (unsigned 32) = codes at hcs hcount
  unfold convPlain
  rw [hcs, bind_ok (change_ok _ c), hcount, List.map_map]
  exact congrArg (fun l => EStateM.Result.ok l c) (List.map_id codes)

/-- A row of INT32 results is written as it is. -/
theorem writeSeg_int32 {p : Prod} (hp : PlainInt8 p) (b : Fin 32) {o : OutSpec} (hf : o.fmt = .int32) (hrs : o.rsEn = false)
    (hsc : o.scEn = false) (r : Nat) {is : List Int} (his : ∀ i ∈ is, -(2 ^ 31) ≤ i ∧ i < 2 ^ 31) (c : Chip) :
    writeSeg b p o r 0 (is.map (fun i => .int i none)) c =
      .ok () (putMem c (o.base + r * o.pitch * 64) ((is.map (unsigned 32)).flatMap (leBytes 4))) := by
  have hbytes : Fmt.int32.bytes 0 = 0 := rfl
  unfold writeSeg
  rw [sourceVals_plain hp hrs hsc, hsc, hf]
  simp only [Bool.false_and, Bool.false_eq_true, if_false]
  rw [bind_ok (change_ok _ c), bump_zero, bind_ok (convPlain_int32 b his c), writeMem_ok, hbytes, Nat.add_zero, packCodes_int32]

/-! ### The rows of a tile -/

/-- A package without an error in a word and without a residue fault, of a given number. -/
structure CleanPkg (n : Nat) (c : Chip) : Prop where
  ecc : c.ecc = []
  residue : c.residue = []
  pkg : pkg c = n

theorem putMem_clean {n : Nat} {c : Chip} (h : CleanPkg n c) (a : Nat) (bs : List Byte) : CleanPkg n (putMem c a bs) := by
  obtain ⟨he, hr, hp⟩ := h
  refine ⟨?_, ?_, ?_⟩
  · unfold putMem; split
    · exact he
    · simp [he]
  · unfold putMem; split <;> exact hr
  · unfold Machine.pkg; rw [putMem_power]; exact hp

/-- The accumulators of row `r` over the columns of a tile. -/
def rowCells (p : Prod) (pt : Port) (base : Nat) (cols : List (List Nat)) (c : Chip) (r : Nat) : List Cell :=
  cols.map (fun w => .int (dot8 (rowCodes p pt base c r) w) none)

section
variable {p : Prod} (hp : PlainInt8 p) {pt : Port} {n base : Nat} {cols : List (List Nat)} (hk : p.k ≤ 65536)
  (hcols : ∀ w ∈ cols, w.length = p.k)
include hp hk hcols

/-- The rows of a tile that is the only one enter one after another, each taken as it is complete. -/
theorem passTile_clean {done : Nat → List Cell → Eff Unit} {put : Chip → Nat → Chip} {rows : List Nat} (hnodup : rows.Nodup)
    (hpkg : ∀ r ∈ rows, pkgOf (pt.sram + base + r * p.pitch * 64) = n)
    (hdone : ∀ c, ∀ r ∈ rows, CleanPkg n c → done r (rowCells p pt base cols c r) c = .ok () (put c r) ∧ CleanPkg n (put c r))
    {c : Chip} (hc : CleanPkg n c) {s : JetSt} (ha : s.a = .raw base)
    (hs : ∀ r ∈ rows, tabGet [] s.cells r = List.replicate cols.length (.int 0 none)) :
    ∃ t, passTile p pt none (cols.map (fun w => (List.replicate (ceilDiv p.k 32) sc16One, w))) 0 p.k done rows s c = .ok t (rows.foldl put c) := by
  induction rows generalizing c s with
  | nil => exact ⟨s, rfl⟩
  | cons r rows ih =>
    obtain ⟨hput, hclean⟩ := hdone c r List.mem_cons_self hc
    have hload := loadRow_raw hp hc.ecc ((hpkg r List.mem_cons_self).trans hc.pkg.symm)
    have hlen : (rowCodes p pt base c r).length = p.k := by unfold rowCodes; simp
    have htile := rowTile_exact hp (as := rowCodes p pt base c r) (sc := List.replicate (ceilDiv p.k 32) sc16One)
      (by rw [hlen, List.length_replicate]; unfold ceilDiv; omega) (by omega) (cols := cols) (by rw [hlen]; exact hcols)
    rw [← hs r List.mem_cons_self] at htile
    change _ = (rowCells p pt base cols c r, false) at htile
    have hstep : ∀ rs, passTile p pt none (cols.map (fun w => (List.replicate (ceilDiv p.k 32) sc16One, w))) 0 p.k done (r :: rs) s c =
        passTile p pt none (cols.map (fun w => (List.replicate (ceilDiv p.k 32) sc16One, w))) 0 p.k done rs
          { s with a := .raw base, cells := tabSet s.cells r (rowCells p pt base cols c r) } (put c r) := by
      intro rs
      unfold passTile
      refine foldlM_cons_ok ?_
      dsimp only
      rw [ha]
      refine (bind_ok hload).trans ?_
      dsimp only
      rw [htile, bind_ok (residueBlocks_clean hc.residue _ _ _ _ _), bind_ok (change_ok _ c)]
      simp only [Bool.false_and, Bool.false_eq_true, if_false]
      rw [show b2n false = 0 from rfl, bump_zero, bind_ok hput]
      rfl
    rw [hstep]
    refine ih (List.nodup_cons.mp hnodup).2 (fun q hq => hpkg q (List.mem_cons_of_mem _ hq))
      (fun d q hq => hdone d q (List.mem_cons_of_mem _ hq)) hclean rfl fun q hq => ?_
    have hne : q ≠ r := fun h => (List.nodup_cons.mp hnodup).1 (h ▸ hq)
    unfold tabGet
    rw [tabFind_tabSet_ne _ _ hne]
    exact hs q (List.mem_cons_of_mem _ hq)

end

/-! ### The multiply over one tile -/

theorem chunks_all {α : Type} {n : Nat} {xs : List α} (hx : xs ≠ []) (hn : xs.length ≤ n) : chunks n n xs = [xs] := by
  cases n with
  | zero => exact absurd (List.length_eq_zero_iff.mp (Nat.le_zero.mp hn)) hx
  | succ n =>
    cases xs with
    | nil => exact absurd rfl hx
    | cons y ys =>
      show (y :: ys).take (n + 1) :: chunks (n + 1) n ((y :: ys).drop (n + 1)) = _
      rw [List.take_of_length_le hn, List.drop_of_length_le hn]
      cases n <;> rfl

theorem ceilDiv_one {a b : Nat} (h1 : 1 ≤ a) (h2 : a ≤ b) : ceilDiv a b = 1 := by
  unfold ceilDiv
  rw [show a + b - 1 = b + (a - 1) by omega, Nat.add_div_left _ (by omega), Nat.div_eq_of_lt (by omega)]

/-- The columns of the only weight tile of an operand. -/
def tileCols (p : Prod) (w : List Byte) (nt : Nat) : List (List Nat) :=
  (List.range p.n).map (fun x => (List.range p.k).map (fun y => element .int8 w (y * nt + x)))

theorem tileCols_length {p : Prod} {w : List Byte} {nt : Nat} : ∀ col ∈ tileCols p w nt, col.length = p.k := by
  intro col h
  obtain ⟨x, -, rfl⟩ := List.mem_map.mp h
  simp

/-- The accumulators of a fresh product, by row. -/
theorem tabGet_startCells (p : Prod) (nt nc : Nat) {rows : List Nat} {r : Nat} (h : r ∈ rows) :
    tabGet [] (startCells p none nt 0 nc rows) r = List.replicate nc p.clear := by
  have hfind : tabFind (startCells p none nt 0 nc rows) r = some (List.replicate nc p.clear) := by
    unfold startCells
    induction rows with
    | nil => cases h
    | cons q rows ih =>
      by_cases hq : q = r
      · simp [tabFind, hq]
      · simp only [List.map_cons, tabFind, hq, if_false]
        exact ih ((List.mem_cons.mp h).resolve_left fun e => hq e.symm)
  unfold tabGet
  rw [hfind]; rfl

/-- What a multiply over one weight tile carries at its end, from the loop over the rows. -/
def mulDone (p : Prod) (wb : Nat) (t : JetSt) : MulSt :=
  { a := t.a, w := t.w, fb := .raw wb, sats := t.sats,
    out := (List.range p.m).foldl (fun u r => tabSet u r (tabGet [] u r ++ tabGet [] t.cells r)) [] }

section
variable {p : Prod} (hp : PlainInt8 p) {x : Ctx} {c : Chip} {n kt nt ab wb : Nat} {w : List Byte} (ht : (kt, nt) = tileOf .int8 p.gang)
  (hk1 : 1 ≤ p.k) (hk : p.k ≤ kt) (hk16 : p.k ≤ 65536) (hn : p.n ≤ nt) (hc : CleanPkg n c)
  (hw : w = memReadN c.mem (sram c x.m 0 + wb) (kt * nt))
  (hpw : pkgOf (sram c x.m 0 + wb) = n) (hpa : ∀ r ∈ List.range p.m, pkgOf (sram c x.m 0 + ab + r * p.pitch * 64) = n)
include hp ht hk1 hk hk16 hn hc hw hpw hpa

/-- One column tile of one weight tile: the rows pass through the array in order. -/
theorem reduceTile_clean {done : Nat → List Cell → Eff Unit} {put : Chip → Nat → Chip} {sats : List Nat}
    (hdone : ∀ e, ∀ r ∈ List.range p.m, CleanPkg n e →
      done r (rowCells p (portOf c x) ab (tileCols p w nt) e r) e = .ok () (put e r) ∧ CleanPkg n (put e r)) :
    ∃ t, reduceTile p (portOf c x) none 0 done (List.range p.m)
      { a := .raw ab, w := .raw wb, cells := startCells p none nt 0 p.n (List.range p.m), sats := sats } c =
        .ok t ((List.range p.m).foldl put c) := by
  have hkn : ceilDiv p.k (tileOf p.wFmt p.gang).1 = 1 := by rw [hp.wFmt, ← ht]; exact ceilDiv_one hk1 hk
  have hload := loadTile_raw hp (pt := portOf c x) hc.ecc ht hk hn (hpw.trans hc.pkg.symm)
  obtain ⟨t, hpass⟩ := passTile_clean hp hk16 (pt := portOf c x) (base := ab) (cols := tileCols p w nt) tileCols_length List.nodup_range
    hpa hdone hc (s := { a := .raw ab, w := .raw wb, cells := startCells p none nt 0 p.n (List.range p.m), sats := sats }) rfl
    (fun r hr => by rw [tabGet_startCells p nt p.n hr, hp.clear]; simp [tileCols])
  refine ⟨t, ?_⟩
  unfold reduceTile
  simp only [hkn, List.range_one]
  refine foldlM_one ?_
  have hkc : min (tileOf p.wFmt p.gang).1 (p.k - 0) = p.k := by rw [hp.wFmt, ← ht]; omega
  rw [bind_ok hload]
  simp only [hkc, Nat.zero_mul, Nat.zero_add, if_true]
  rw [hw] at hpass
  exact hpass

/-- A multiply over one weight tile takes each row as it is complete. -/
theorem multiply_clean (hn1 : 1 ≤ p.n) (hm : 1 ≤ p.m) {take : Nat → Nat → List Cell → Eff Unit} {put : Chip → Nat → Chip}
    (htake : ∀ e, ∀ r ∈ List.range p.m, CleanPkg n e →
      take r 0 (rowCells p (portOf c x) ab (tileCols p w nt) e r) e = .ok () (put e r) ∧ CleanPkg n (put e r)) :
    ∃ t, multiply x p (.raw ab) (.raw wb) none none take c = .ok t ((List.range p.m).foldl put c) := by
  have hblocks : rowBlocks p false = [List.range p.m] := by
    unfold rowBlocks
    rw [hp.wFmt, ← ht]
    rw [if_pos (by rw [ceilDiv_one hk1 hk]; rfl)]
    exact chunks_all (by rw [Ne, List.range_eq_nil]; omega) (by simp)
  obtain ⟨t, hred⟩ := reduceTile_clean hp ht hk1 hk hk16 hn hc hw hpw hpa (sats := [])
    (done := fun r cs => take r (0 * nt) (tabGet [] [] r ++ cs)) (put := put) (fun e r hr he => by
      simp only [Nat.zero_mul]
      exact htake e r hr he)
  have hnt : (tileOf p.wFmt p.gang).2 = nt := by rw [hp.wFmt, ← ht]
  have hnc : min nt (p.n - 0 * nt) = p.n := by omega
  unfold multiply
  rw [bind_ok (get_ok c)]
  simp only [hnt, Option.isSome_none, hblocks]
  refine ⟨_, bind_ok (foldlM_one (t := mulDone p wb t) (d := (List.range p.m).foldl put c) ?_)⟩
  refine (bind_ok (pure_ok _ c)).trans ?_
  simp only [ceilDiv_one hn1 hn, List.range_one]
  refine foldlM_one ?_
  simp only [hnc, Bool.false_eq_true, if_false]
  exact (bind_ok hred).trans (bind_ok (pure_ok _ _))

end

end Sys2Proof.Machine
end

section
/-! PROOFS. MATMUL of INT8 over one weight tile (R31, R43, R47, R74, R478): what the checks at issue say of its operands, and its body. -/

namespace Sys2Proof.Machine

/-! ### What a passed check says (R43) -/

theorem firstBad_none {l : List (Bool × Nat)} (h : firstBad l = none) : ∀ q ∈ l, q.1 = false := by
  induction l with
  | nil => intro q hq; cases hq
  | cons q l ih =>
    obtain ⟨bad, code⟩ := q
    cases bad with
    | true => simp [firstBad] at h
    | false =>
      intro q hq
      rcases List.mem_cons.mp hq with rfl | hq
      · rfl
      · exact ih (by simpa [firstBad] using h) q hq

/-- A MATMUL that passes its checks has rows, and its raw activation operand lies within SRAM. -/
theorem checksJet_none {d : Desc} {held : Option Acc} (h : firstBad (checksJet d held) = none) (ha : d.b 1 23 = false) :
    1 ≤ d.f 1 24 16 ∧ d.f 1 0 23 + rowsBytes (d.f 1 24 16) (d.f 1 40 16) ((fmtGet d.aFmt).bytes (d.f 2 24 20)) ≤ 0x600000 := by
  have hall := firstBad_none h
  unfold checksJet at hall
  dsimp only at hall
  simp only [List.forall_mem_cons] at hall
  obtain ⟨-, -, -, -, -, -, hshape, -, hrange, -⟩ := hall
  simp only [Bool.or_eq_false_iff, Bool.and_eq_false_iff, ha, Bool.not_false, beq_eq_false_iff_ne] at hshape hrange
  obtain ⟨⟨⟨⟨hm, -⟩, -⟩, -⟩, -⟩ := hshape
  obtain ⟨⟨⟨⟨⟨⟨hpast, -⟩, -⟩, -⟩, -⟩, -⟩, -⟩ := hrange
  refine ⟨Nat.one_le_iff_ne_zero.mpr hm, past_false ?_⟩
  rcases hpast with hf | hf
  · cases hf
  · exact hf

theorem ite_ne_of_ne {α : Type} {q : Prop} [Decidable q] {a b c : α} (ha : a ≠ c) (hb : b ≠ c) : (if q then a else b) ≠ c := by
  by_cases hq : q
  · rwa [if_pos hq]
  · rwa [if_neg hq]

/-- No other opcode has the row of a MATMUL. -/
theorem opcode_matmul {d : Desc} (h : rowOf d = some .matmul) : d.opcode = 0x01 := by
  by_contra hne
  refine absurd h ?_
  unfold rowOf
  dsimp only
  simp only [if_neg hne]
  repeat' refine ite_ne_of_ne ?_ ?_
  all_goals simp only [ne_eq, reduceCtorEq, Option.some.injEq, not_false_eq_true]

/-! ### Addresses and codes -/

theorem sram_add (c : Chip) (m : Fin 32) (a : Nat) : sram c m 0 + a = sram c m a := by unfold sram sys sramLoc; omega

theorem sram_congr {c e : Chip} (m : Fin 32) (a : Nat) (h : pkg e = pkg c) : sram e m a = sram c m a := by unfold sram sys; rw [h]

theorem headCtx_bk (b : Fin 32) (k : Fin 16) (ch : Chain) : (headCtx b k ch).b = b ∧ (headCtx b k ch).k = k := by
  unfold headCtx ctxOf; cases ch.place <;> exact ⟨rfl, rfl⟩

/-- The sums of a row as the statement lists them are those of the accumulators. -/
theorem tileRow_eq {c : Chip} {m : Fin 32} {d : Desc} {w : List Byte} {nt r : Nat} : tileRow c m d w nt r =
    (((List.range (d.f 2 44 16)).map (fun x => (List.range (d.f 2 24 20)).map (fun y => element .int8 w (y * nt + x)))).map (fun col =>
      unsigned 32 (dot8 (vecCodes c m .int8 (d.f 1 0 23 + r * d.f 1 40 16 * 64) (d.f 2 24 20)) col))).flatMap (leBytes 4) := by
  have hdot : ∀ (f g : Nat → Nat) (n : Nat), dot8 ((List.range n).map f) ((List.range n).map g) =
      ((List.range n).map (fun y => intOf .int8 (((List.range n).map f).getD y 0) * intOf .int8 (g y))).sum := by
    intro f g n
    unfold dot8
    rw [List.zipWith_map, List.zipWith_self]
    congr 1
    refine List.map_congr_left fun y hy => ?_
    rw [List.getD_eq_getElem?_getD, List.getElem?_map, List.getElem?_range (List.mem_range.mp hy)]
    rfl
  unfold tileRow
  rw [List.map_map, List.flatMap_map]
  refine congrArg (fun f => (List.range (d.f 2 44 16)).flatMap f) (funext fun x => ?_)
  unfold vecCodes
  rw [Function.comp_apply, hdot]

theorem modChain_fab (b : Fin 32) (k : Fin 16) (f : Chain → Chain) (c : Chip) : (modChain b k f c).fab = c.fab := by
  unfold modChain; split <;> rfl

/-! ### The body -/

/-- What the statement asks of the descriptor: INT8 by INT8 into INT32, fresh accumulators, no scales, no rescale and no adapter, over one raw
weight tile. -/
structure TileMatmul (d : Desc) (kt nt : Nat) : Prop where
  aFmt : fmtGet d.aFmt = .int8
  wFmt : fmtGet d.wFmt = .int8
  outFmt : fmtGet d.outFmt = .int32
  clear : d.accClear = true
  acc48 : d.acc48 = false
  aScale : d.b 5 23 = false
  wScale : d.b 5 47 = false
  rescale : d.b 4 39 = false
  outScale : d.b 6 23 = false
  adapter : d.f 7 0 7 = 0
  aRaw : d.b 1 23 = false
  wRaw : d.b 2 23 = false
  mode : d.f 3 23 2 = 0
  tile : (kt, nt) = tileOf .int8 d.gang
  depth : d.f 2 24 20 ≤ kt
  depth1 : 1 ≤ d.f 2 24 20
  width : d.f 2 44 16 ≤ nt
  width1 : 1 ≤ d.f 2 44 16
  rows1 : 1 ≤ d.f 1 24 16
  room : d.f 1 0 23 + rowsBytes (d.f 1 24 16) (d.f 1 40 16) (d.f 2 24 20) ≤ 0x600000

/-- Row `r` of the result is written. -/
def putTileRow (m : Fin 32) (d : Desc) (w : List Byte) (nt : Nat) (e : Chip) (r : Nat) : Chip :=
  putMem e (sram e m (d.f 3 0 23) + r * d.f 3 25 16 * 64) (tileRow e m d w nt r)

section
variable {d : Desc} {kt nt : Nat} (h : TileMatmul d kt nt) {x : Ctx} {c : Chip}
include h

theorem plainInt8_prodOf (held : Option Acc) : PlainInt8 (prodOf c x d held) := by
  refine ⟨h.aFmt, h.wFmt, h.acc48, ?_, ?_, ?_⟩
  · unfold prodOf; rw [h.clear, h.aScale, h.wScale]; rfl
  · unfold prodOf; rw [h.aScale]; rfl
  · unfold prodOf; rw [h.wScale]; rfl

/-- A tile is at most 256 rows deep, so that no accumulator can pass INT32. -/
theorem depth_le : d.f 2 24 20 ≤ 256 := by
  have hg : d.gang < 2 ^ 2 := fld_lt _ _ _
  have hkt : kt = 32 * 2 ^ d.gang := congrArg Prod.fst h.tile
  have hpow : 2 ^ d.gang ≤ 2 ^ 3 := Nat.pow_le_pow_right (by omega) (by omega)
  have := h.depth
  omega

/-- The rows of the activation operand lie in the SRAM of the package. -/
theorem pkgOf_row {r : Nat} (hr : r ∈ List.range (d.f 1 24 16)) :
    pkgOf (sram c x.m 0 + d.f 1 0 23 + r * d.f 1 40 16 * 64) = pkg c := by
  have hroom := h.room
  have hle : r * d.f 1 40 16 * 64 ≤ (d.f 1 24 16 - 1) * d.f 1 40 16 * 64 := by
    have : r ≤ d.f 1 24 16 - 1 := by have := List.mem_range.mp hr; omega
    gcongr
  unfold rowsBytes at hroom
  rw [sram_add, show sram c x.m (d.f 1 0 23) + r * d.f 1 40 16 * 64 = sram c x.m (d.f 1 0 23 + r * d.f 1 40 16 * 64) by
    unfold sram sys sramLoc; omega]
  exact pkgOf_sram c x.m _ (by omega)

/-- A row of accumulators is written as the statement lists it. -/
theorem drainRow {e : Chip} {rs : List Rescale} {w : List Byte} {r : Nat} (held : Option Acc) (he : CleanPkg (pkg c) e) :
    (do drainCheck x.b (prodOf c x d held) r
        writeSeg x.b (prodOf c x d held) (outOf c x d rs) r 0
          ((rowCells (prodOf c x d held) (portOf c x) (d.f 1 0 23) (tileCols (prodOf c x d held) w nt) e r).drop 0) : Eff Unit) e =
      .ok () (putTileRow x.m d w nt e r) ∧ CleanPkg (pkg c) (putTileRow x.m d w nt e r) := by
  refine ⟨?_, putMem_clean he _ _⟩
  have hp := plainInt8_prodOf h (c := c) (x := x) held
  have hcodes : rowCodes (prodOf c x d held) (portOf c x) (d.f 1 0 23) e r =
      vecCodes e x.m .int8 (d.f 1 0 23 + r * d.f 1 40 16 * 64) (d.f 2 24 20) := by
    have haddr : sram c x.m 0 + d.f 1 0 23 + r * d.f 1 40 16 * 64 = sram e x.m (d.f 1 0 23 + r * d.f 1 40 16 * 64) := by
      rw [sram_congr x.m _ he.pkg]; unfold sram sys sramLoc; omega
    unfold rowCodes vecCodes
    rw [bytes_int8, ← haddr]
    rfl
  have hcells : rowCells (prodOf c x d held) (portOf c x) (d.f 1 0 23) (tileCols (prodOf c x d held) w nt) e r =
      ((tileCols (prodOf c x d held) w nt).map (fun col =>
        dot8 (vecCodes e x.m .int8 (d.f 1 0 23 + r * d.f 1 40 16 * 64) (d.f 2 24 20)) col)).map (fun i => .int i none) := by
    unfold rowCells
    rw [hcodes, List.map_map]
    rfl
  have hrange : ∀ i ∈ (tileCols (prodOf c x d held) w nt).map (fun col =>
      dot8 (vecCodes e x.m .int8 (d.f 1 0 23 + r * d.f 1 40 16 * 64) (d.f 2 24 20)) col), -(2 ^ 31) ≤ i ∧ i < 2 ^ 31 := by
    intro i hi
    obtain ⟨col, -, rfl⟩ := List.mem_map.mp hi
    have hlen : (vecCodes e x.m .int8 (d.f 1 0 23 + r * d.f 1 40 16 * 64) (d.f 2 24 20)).length = d.f 2 24 20 := by simp [vecCodes]
    have := dot8_range (vecCodes e x.m .int8 (d.f 1 0 23 + r * d.f 1 40 16 * 64) (d.f 2 24 20)) col
    have := depth_le h
    rw [hlen] at *
    omega
  refine (bind_ok (drainCheck_clean he.residue _ _ _)).trans ?_
  rw [List.drop_zero, hcells, writeSeg_int32 hp x.b h.outFmt h.rescale h.outScale r hrange e, putTileRow, tileRow_eq, List.map_map,
    sram_congr x.m _ he.pkg]
  rfl

/-- The body of the MATMUL: its rows are written one after another, and its chain holds no accumulators. -/
theorem bodyMatmul_tile {w : List Byte} (he : c.ecc = []) (hr : c.residue = [])
    (hw : w = memReadN c.mem (sram c x.m (d.f 2 0 23)) (kt * nt)) : bodyMatmul x d c =
      .ok () (modChain x.b x.k (fun ch => { ch with acc := none }) ((List.range (d.f 1 24 16)).foldl (putTileRow x.m d w nt) c)) := by
  have hp := plainInt8_prodOf h (c := c) (x := x) (c.basins[x.b].chains[x.k].bind (·.acc))
  have hk := depth_le h
  have hpw : pkgOf (sram c x.m 0 + d.f 2 0 23) = pkg c := by rw [sram_add]; exact pkgOf_sram_field c x.m (d.word 2) 0
  obtain ⟨t, hmul⟩ := multiply_clean hp (x := x) (c := c) (n := pkg c) (ab := d.f 1 0 23) (wb := d.f 2 0 23) (w := w) h.tile h.depth1 h.depth
    (by show d.f 2 24 20 ≤ 65536; omega) h.width ⟨he, hr, rfl⟩ (by rw [sram_add]; exact hw) hpw (fun r hr => pkgOf_row h hr) h.width1 h.rows1
    (put := putTileRow x.m d w nt) (take := fun r c0 cs => do
      drainCheck x.b (prodOf c x d (c.basins[x.b].chains[x.k].bind (·.acc))) r
      writeSeg x.b (prodOf c x d (c.basins[x.b].chains[x.k].bind (·.acc))) (outOf c x d [d.rescale]) r c0 (cs.drop c0))
    (fun e r _ hclean => drainRow h _ hclean)
  have hrescale : rescalesOf c x d = pure [d.rescale] := by unfold rescalesOf; rw [h.rescale]; rfl
  unfold bodyMatmul
  rw [bind_ok (get_ok c)]
  simp only [hrescale, h.adapter, h.clear, h.mode, h.aRaw, h.wRaw, if_true]
  rw [bind_ok (pure_ok _ c), bind_ok (pure_ok _ c)]
  exact (bind_ok hmul).trans (change_ok _ _)

end

/-- Settles O11: the descriptor is a MATMUL over one tile, whose body writes its rows and asks nothing of another package. -/
theorem integerMatmulResults : Obligations.IntegerMatmulResults := by
  unfold Obligations.IntegerMatmulResults
  intro b k s ch d js c c0 w kt nt hr hrow hc he hres hA hW hO hclear h48 hasc hwsc hrs hosc had har hwr hmode ht hk hk1 hn hn1 hw
  subst hc
  have hlegal := hr.legal
  unfold checkDesc at hlegal
  rw [opcode_matmul hrow] at hlegal
  obtain ⟨hm, hroom⟩ := checksJet_none hlegal har
  rw [fmtGet_of_fmtOf hA, bytes_int8] at hroom
  have htile : TileMatmul d kt nt := ⟨fmtGet_of_fmtOf hA, fmtGet_of_fmtOf hW, fmtGet_of_fmtOf hO, hclear, h48, hasc, hwsc, hrs, hosc, had, har,
    hwr, hmode, ht, hk, hk1, hn, hn1, hm, hroom⟩
  have hbody := bodyMatmul_tile htile (x := headCtx b k ch) he hres hw
  obtain ⟨hb, hk'⟩ := headCtx_bk b k ch
  rw [hb, hk'] at hbody
  refine exec_headReady_ok rfl hr hrow hbody ?_
  rw [modChain_fab]
  exact foldl_keeps (I := fun e : Chip => e.fab.far = []) _ (fun e r _ hfar => by rw [putMem_fab]; exact hfar)
    (launched_far b k ch d js c)

end Sys2Proof.Machine
end

section
/-! PROOFS. State-carrying operators (R93, R94, R97, R98, R101, R107 to R109): a header and an FP32 state read where no word has an error, what
holding an object leaves, the bodies of SAVE, RESTORE and CLEAR_HOOK, and one frame of the diagonal recurrence. -/

namespace Sys2Proof.Machine

/-! ### Parts of a range that was read -/

/-- Bytes within a range that was read are those read at their place. -/
theorem memReadN_slice (m : Memory) (a : Nat) {n i k : Nat} (h : i + k ≤ n) : ((memReadN m a n).drop i).take k = memReadN m (a + i) k := by
  refine List.ext_getElem (by simp only [List.length_take, List.length_drop, memReadN_length]; omega) fun j _ _ => ?_
  simp only [List.getElem_take, List.getElem_drop, memReadN_getElem, Nat.add_assoc]

/-- An FP32 element of a range that was read. -/
theorem element_fp32_memReadN (m : Memory) (a : Nat) {n i : Nat} (h : i < n) :
    element .fp32 (memReadN m a (4 * n)) i = leNat (memReadN m (a + 4 * i) 4) := by
  show leNat ((List.range 4).map (fun k => (memReadN m a (4 * n)).getD (4 * i + k) 0)) = _
  refine congrArg leNat (List.ext_getElem (by simp [memReadN_length]) fun j hj _ => ?_)
  have hlt : 4 * i + j < (memReadN m a (4 * n)).length := by
    rw [memReadN_length]; simp only [List.length_map, List.length_range] at hj; omega
  rw [List.getElem_map, List.getElem_range, List.getD_eq_getElem _ _ hlt, memReadN_getElem, memReadN_getElem, Nat.add_assoc]

/-! ### Checks that pass -/

theorem stopIf_passes {p : Bool} (h : p = false) (code unit addr : Nat) (c : Chip) : stopIf p code unit addr c = .ok () c := by
  rw [h, stopIf_false]

/-- A place that is backed, in no hub range and at no fenced package passes its checks (R237, R238, R322). -/
theorem checkPlace_passes {unit a n : Nat} {c : Chip} (hf : fenced c (pkgOf a) = false) (hh : inHub a n = false) (hb : backed a n = true) :
    checkPlace unit a n c = .ok () c := by
  unfold checkPlace
  rw [bind_ok (get_ok c), bind_ok (stopIf_passes hf _ _ _ c), bind_ok (stopIf_passes hh _ _ _ c)]
  exact stopIf_passes (by rw [hb]; rfl) _ _ _ c

/-- No package is fenced by itself (R301). -/
theorem fenced_self (c : Chip) : fenced c (pkg c) = false := by simp [fenced]

/-! ### Holding an object (R248) -/

/-- A hold changes the basins and the records, and nothing else of the package. -/
theorem holdObject_eq (x : Ctx) (a : Nat) (c : Chip) : ∃ bs rs, holdObject x a c = { c with basins := bs, recs := rs } := by
  have hbusy : ∀ (n : Nat) (c : Chip), ∃ rs, addBusy n true c = { c with recs := rs } := fun n c => by
    rw [addBusy_up]; unfold modRec
    split
    · exact ⟨_, rfl⟩
    · exact ⟨c.recs, rfl⟩
  have hflight : ∀ (f : Flight → Flight) (c : Chip), ∃ bs, modFlightOf x.b x.k x.id f c = { c with basins := bs } := fun f c => by
    unfold modFlightOf modChain
    split
    · exact ⟨c.basins, rfl⟩
    · exact ⟨_, rfl⟩
  unfold holdObject
  split
  · exact ⟨c.basins, c.recs, rfl⟩
  · next n _ =>
    split
    · exact ⟨c.basins, c.recs, rfl⟩
    · obtain ⟨bs, h1⟩ := hflight (fun f => { f with busy := f.busy ++ [n] }) c
      obtain ⟨rs, h2⟩ := hbusy n { c with basins := bs }
      exact ⟨bs, rs, by rw [h1, h2]⟩

/-! ### Headers (R93) -/

/-- The words of a header in clean memory of the package. -/
theorem readWords_header (unit : Nat) {a : Nat} {c : Chip} (he : c.ecc = []) (hp : pkgOf a = pkg c) :
    ∃ ws, readWords unit a 8 c = .ok ws c ∧ headerOf ws = headerAt c a := by
  refine ⟨_, readWords_clean unit a 8 he hp, congrArg headerOf (List.map_congr_left fun i hi => ?_)⟩
  have := List.mem_range.mp hi
  rw [memReadN_slice _ _ (by omega)]

/-- A header that passes its checks is of the descriptor's job. -/
theorem job_of_headerGood {h : Header} {job : Nat} (hg : headerBad0 h job = false) : h.job = job := by
  unfold headerBad0 at hg
  simp only [Bool.or_eq_false_iff, bne_eq_false_iff_eq] at hg
  exact hg.2

/-! ### The object of a STATE_CKPT (R108) -/

/-- The object at `a`, with header `h`, that a STATE_CKPT names: it passes the checks of its row, in a package without errors in words. -/
structure CkptOpen (x : Ctx) (d : Desc) (c : Chip) (a : Nat) (h : Header) : Prop where
  clean : c.ecc = []
  addr : a = sram c x.m (d.f 1 0 23)
  headRoom : past (d.f 1 0 23) 64 = false
  header : h = headerAt c a
  good : headerBad0 h d.job = false
  room : past (d.f 1 0 23) (objectSize h) = false

section
variable {x : Ctx} {d : Desc} {c : Chip} {a : Nat} {h : Header} (ho : CkptOpen x d c a h)
include ho

theorem CkptOpen.pkgOf_addr : pkgOf a = pkg c := by rw [ho.addr]; exact pkgOf_sram_field c x.m _ 0

theorem ckptObject_ok : ckptObject x d c = .ok (a, h) (holdObject x a c) := by
  obtain ⟨bs, rs, hold⟩ := holdObject_eq x a c
  obtain ⟨ws, hread, hws⟩ := readWords_header seqUnit (c := holdObject x a c) (by rw [hold]; exact ho.clean) (by rw [hold]; exact ho.pkgOf_addr)
  have hws' : headerOf ws = h := by rw [hws, ho.header, hold]; rfl
  unfold ckptObject
  rw [bind_ok (get_ok c), bind_ok (stopIf_passes ho.headRoom _ _ _ c)]
  simp only [← ho.addr]
  rw [bind_ok (change_ok _ c), bind_ok hread, hws', bind_ok (stopIf_passes ho.good _ _ _ _), bind_ok (stopIf_passes ho.room _ _ _ _)]
  rfl

/-- SAVE writes the object to its checkpoint, or asks it of the package that holds the checkpoint (R108). -/
theorem bodySave_ok {ck : Nat} (hck : ck = d.f 2 0 48) (hf : fenced c (pkgOf ck) = false) (hh : inHub ck (objectSize h) = false)
    (hb : backed ck (objectSize h) = true) : bodySave x d c = .ok () (if pkgOf ck = pkg c
      then putMem (holdObject x a c) ck (memReadN c.mem a (objectSize h))
      else askWrite ck (memReadN c.mem a (objectSize h)) (holdObject x a c)) := by
  obtain ⟨bs, rs, hold⟩ := holdObject_eq x a c
  unfold bodySave
  rw [bind_ok (ckptObject_ok ho), hold, ← hck]
  dsimp only
  rw [bind_ok (checkPlace_passes (by exact hf) hh hb), bind_ok (readMem_clean copyUnit a _ _ (by exact ho.clean) (by exact ho.pkgOf_addr))]
  rfl

/-- RESTORE writes the checkpoint over the object (R108). -/
theorem bodyRestore_ok {ck : Nat} (hck : ck = d.f 2 0 48) (hp : pkgOf ck = pkg c) (hh0 : inHub ck 64 = false) (hb0 : backed ck 64 = true)
    (hh : inHub ck (objectSize h) = false) (hb : backed ck (objectSize h) = true) (hg : headerBad0 (headerAt c ck) d.job = false)
    (hmode : (headerAt c ck).mode = h.mode) (hfmt : (headerAt c ck).sFmt = h.sFmt) (hd : (headerAt c ck).d = h.d) :
    bodyRestore x d c = .ok () (putMem (holdObject x a c) a (memReadN c.mem ck (objectSize h))) := by
  obtain ⟨bs, rs, hold⟩ := holdObject_eq x a c
  have hfence : fenced (holdObject x a c) (pkgOf ck) = false := by rw [hp, hold]; exact fenced_self c
  obtain ⟨ws, hread, hws⟩ := readWords_header seqUnit (c := holdObject x a c) (by rw [hold]; exact ho.clean) (by rw [hold]; exact hp)
  have hws' : headerOf ws = headerAt c ck := by rw [hws, hold]; rfl
  have hsame : (headerBad0 (headerAt c ck) d.job || (headerAt c ck).job != h.job || (headerAt c ck).mode != h.mode ||
      (headerAt c ck).sFmt != h.sFmt || (headerAt c ck).d != h.d) = false := by
    simp [hg, hmode, hfmt, hd, job_of_headerGood hg, job_of_headerGood ho.good]
  unfold bodyRestore
  rw [bind_ok (ckptObject_ok ho), ← hck]
  dsimp only
  rw [bind_ok (checkPlace_passes hfence hh0 hb0), bind_ok hread, hws', bind_ok (stopIf_passes hsame _ _ _ _),
    bind_ok (checkPlace_passes hfence hh hb), hold, bind_ok (readMem_clean copyUnit ck _ _ (by exact ho.clean) (by exact hp))]
  rfl

/-- CLEAR_HOOK writes the first word of the header with PENDING 0 (R107). -/
theorem bodyClearHook_ok : bodyClearHook x d c =
    .ok () (putMem (holdObject x a c) a (leBytes 8 ({ h with pending := false } : Header).word0)) := by
  unfold bodyClearHook
  rw [bind_ok (ckptObject_ok ho)]
  show writeMem _ _ _ = _
  rw [writeMem_ok, List.flatMap_singleton]

end

/-! ### Lists of one effect -/

theorem mapM_one {α β : Type} {f : α → Eff β} {a : α} {b : β} {c d : Chip} (h : f a c = .ok b d) : [a].mapM f c = .ok [b] d := by
  rw [List.mapM_cons]
  exact (bind_ok h).trans (bind_ok (by rw [List.mapM_nil]; rfl))

theorem forM_one {α : Type} {f : α → Eff Unit} {a : α} {c d : Chip} (h : f a c = .ok () d) : [a].forM f c = .ok () d :=
  bind_ok h

/-! ### One frame of one FP32 object (R97, R98, R100) -/

theorem residueCheck_clean {c : Chip} (hr : c.residue = []) (b : Fin 32) (units : List Nat) (row : Nat) :
    residueCheck b units row c = .ok () c := by
  unfold residueCheck
  rw [bind_ok (get_ok c), residueAt_none hr]
  rfl

/-- The elements of an FP32 object. -/
def objectVals (c : Chip) (a n : Nat) : List Val := (List.range n).map (fun i => valOf .fp32 (leNat (memReadN c.mem (a + 64 + 4 * i) 4)))

/-- The codes of an operand of a STATE_CHUNK as values. -/
def operandVals (c : Chip) (m : Fin 32) (f : Fmt) (off n : Nat) : List Val := (vecCodes c m f off n).map (widen f)

/-- The elements after a frame: g · s + u of each, rounded once (R97). -/
def frameVals (c : Chip) (x : Ctx) (d : Desc) (n : Nat) (ss : List Val) : List Val :=
  (zip3 (operandVals c x.m (fmtGet d.wFmt) (d.f 2 0 23) n) (operandVals c x.m (fmtGet d.aFmt) (d.f 1 0 23) n) ss).map
    (fun q => fFma q.1 q.2.2 q.2.1)

/-- A STATE_CHUNK of one frame and no look-ahead, with neither Y nor a matrix, over the table of one FP32 object without a residual lane, whose
header at `a` passes the checks of its row; in a package without errors in words and residue faults. -/
structure OneFrame (x : Ctx) (d : Desc) (c : Chip) (off a : Nat) (h : Header) : Prop where
  clean : c.ecc = []
  residue : c.residue = []
  streams : d.f 5 23 9 = 1
  frames : d.f 1 24 7 = 1
  noAhead : d.f 1 32 7 = 0
  diagonal : d.b 5 32 = false
  noY : d.b 3 23 = false
  entry : off = leNat (memReadN c.mem (sram c x.m (d.f 5 0 23)) 4)
  grid : off % 64 = 0
  low : off < 0x600000
  headRoom : past off 64 = false
  addr : a = sram c x.m off
  header : h = headerAt c a
  good : headerBad0 h d.job = false
  mode : h.mode = 1
  width : h.d = d.f 5 38 17
  room : past off (objectSize h) = false
  calm : h.pending = false

section
variable {x : Ctx} {d : Desc} {c : Chip} {off a : Nat} {h : Header} (ho : OneFrame x d c off a h)
include ho

theorem OneFrame.pkgOf_addr : pkgOf a = pkg c := by rw [ho.addr]; exact pkgOf_sram c x.m off (by have := ho.low; omega)

theorem OneFrame.chunk : chunkOf d = { f := 1, l := 0, streams := 1, d := h.d, dense := false, nonlin := d.b 5 33 } := by
  unfold chunkOf; rw [ho.frames, ho.noAhead, ho.streams, ho.diagonal, ho.width]

/-- The table names one object, which passes the checks (R100). -/
theorem openObjects_one : openObjects x d c = .ok [(off, h)] c := by
  have htable := readMem_clean seqUnit (sram c x.m (d.f 5 0 23)) (4 * 1) c ho.clean (pkgOf_sram_field c x.m _ 0)
  have hentry : (List.range 1).map (fun i => leNat (((memReadN c.mem (sram c x.m (d.f 5 0 23)) (4 * 1)).drop (4 * i)).take 4)) = [off] := by
    rw [List.range_one, List.map_singleton, memReadN_slice _ _ (by omega), Nat.mul_zero, Nat.add_zero, ← ho.entry]
  obtain ⟨ws, hread, hws⟩ := readWords_header seqUnit ho.clean ho.pkgOf_addr
  have hobject : [off].mapM (fun e => (do
      let ws ← readWords seqUnit (sram c x.m e) 8
      pure (e, headerOf ws) : Eff (Nat × Header))) c = .ok [(off, h)] c := by
    refine mapM_one ?_
    rw [← ho.addr, bind_ok hread, hws, ← ho.header]
    rfl
  unfold openObjects
  rw [bind_ok (get_ok c)]
  simp only [ho.chunk]
  rw [bind_ok htable]
  simp only [hentry]
  have hlow := ho.low
  rw [bind_ok (stopIf_passes (by simp; omega) _ _ _ c), bind_ok (stopIf_passes (by simp [off64, ho.grid, ho.headRoom]) _ _ _ c), bind_ok hobject,
    bind_ok (stopIf_passes (by simp [ho.good, ho.mode]) _ _ _ c), bind_ok (stopIf_passes (by simp [ho.room]) _ _ _ c),
    bind_ok (stopIf_passes (by simp [ho.calm]) _ _ _ c)]
  rfl

/-- The object's elements are loaded as they stand. -/
theorem loadStream_fp32 : loadStream x (off, h) c = .ok { off := off, h := h, s := objectVals c a h.d, r := [] } c := by
  have hp : pkgOf (a + 64) = pkg c := by
    have hlow := ho.low
    rw [ho.addr, show sram c x.m off + 64 = sram c x.m (off + 64) by unfold sram sys sramLoc; omega]
    exact pkgOf_sram c x.m _ (by omega)
  have hvals : (List.range h.d).map (fun i => valOf .fp32 (element .fp32 (memReadN c.mem (a + 64) (4 * h.d)) i)) = objectVals c a h.d :=
    List.map_congr_left fun i hi => by rw [element_fp32_memReadN _ _ (List.mem_range.mp hi)]
  unfold loadStream
  rw [bind_ok (get_ok c)]
  simp only [← ho.addr, ho.mode]
  rw [if_pos le_rfl, bind_ok (readMem_clean vecUnit _ _ c ho.clean hp), if_neg one_ne_zero, bind_ok (pure_ok _ c), hvals]
  rfl

/-- The frame gives the stream its new elements, and writes no Y. -/
theorem runFrame_diag (ss : List Val) :
    runFrame x d (chunkOf d) 0 [{ off := off, h := h, s := ss, r := [] }] c =
      .ok [{ off := off, h := h, s := frameVals c x d h.d ss, r := [] }] c := by
  have hrow : ∀ (f : Fmt) (i lo pitch : Nat), readRow x f (d.f i lo 23) pitch 0 h.d c = .ok (operandVals c x.m f (d.f i lo 23) h.d) c := by
    intro f i lo pitch
    unfold readRow
    rw [Nat.zero_mul, Nat.zero_mul, Nat.add_zero, bind_ok (readCodes_vecCodes vecUnit f i lo h.d ho.clean)]
    rfl
  have hframe : frameDiag x d (chunkOf d) 0 0 { off := off, h := h, s := ss, r := [] } c =
      .ok { off := off, h := h, s := frameVals c x d h.d ss, r := [] } c := by
    unfold frameDiag
    simp only [ho.chunk, Nat.zero_mul, Nat.add_zero, ite_self]
    rw [bind_ok (hrow _ 1 0 _), bind_ok (hrow _ 2 0 _), bind_ok (residueCheck_clean ho.residue _ _ _)]
    simp only [ho.mode, one_ne_zero, if_false]
    rfl
  have hy : ∀ out, writeY x d (chunkOf d) 0 out c = .ok () c := fun out => by unfold writeY; rw [ho.noY]; rfl
  have hdiag : (chunkOf d).dense = false := ho.diagonal
  unfold runFrame
  rw [hdiag, if_neg Bool.false_ne_true]
  exact (bind_ok (mapM_one hframe)).trans ((bind_ok (hy _)).trans (pure_ok _ c))

end

/-! ### The object written back (R98, R101, R106) -/

/-- The package once an FP32 object is written back: its elements that are not finite are counted, and where the hook fires that is. -/
def wroteBack (b : Fin 32) (a : Nat) (h : Header) (ss : List Val) (c : Chip) : Chip :=
  bump (putMem (putMem (bump c (rStateCtr b.val 3) (ss.filter (fun v => !v.isFin)).length) (a + 64) (ss.flatMap (fun v => leBytes 4 (f32Code v)))) a
      (leBytes 8 ({ h with pending := hookFires c h 1 } : Header).word0 ++ leBytes 8 ((h.step + 1) % 2 ^ 48)))
    (rStateCtr b.val 1) (b2n (hookFires c h 1))

theorem writeBack_fp32 {x : Ctx} {c : Chip} {k : Chunk} {st : Stream} (hk : k.f = 1) (hm : st.h.mode = 1) :
    writeBack x k st c = .ok (hookFires c st.h 1) (wroteBack x.b (sram c x.m st.off) st.h st.s c) := by
  unfold writeBack
  rw [bind_ok (get_ok c), bind_ok (change_ok _ c)]
  dsimp only
  rw [if_pos hm.le, if_neg (show ¬ st.h.mode = 0 by omega), hk]
  refine (bind_ok (bind_ok (writeMem_ok _ _ _))).trans ((bind_ok (writeMem_ok _ _ _)).trans ((bind_ok (change_ok _ _)).trans ?_))
  simp only [List.flatMap_cons, List.flatMap_nil, List.append_nil]
  rfl

theorem bump_mem (c : Chip) (off n : Nat) : (bump c off n).mem = c.mem := by
  obtain ⟨rg, h⟩ := bump_eq c off n
  rw [h]

theorem bump_fab (c : Chip) (off n : Nat) : (bump c off n).fab = c.fab := by
  obtain ⟨rg, h⟩ := bump_eq c off n
  rw [h]

section
variable (b : Fin 32) (a : Nat) (h : Header) (ss : List Val) (c : Chip)

theorem wroteBack_mem : (wroteBack b a h ss c).mem = memWriteN (memWriteN c.mem (a + 64) (ss.flatMap (fun v => leBytes 4 (f32Code v)))) a
    (leBytes 8 ({ h with pending := hookFires c h 1 } : Header).word0 ++ leBytes 8 ((h.step + 1) % 2 ^ 48)) := by
  unfold wroteBack
  rw [bump_mem, putMem_mem, putMem_mem, bump_mem]

theorem wroteBack_fab : (wroteBack b a h ss c).fab = c.fab := by
  unfold wroteBack
  rw [bump_fab, putMem_fab, putMem_fab, bump_fab]

theorem getReg_wroteBack_nonfinite : getReg (wroteBack b a h ss c) (rStateCtr b.val 3) =
    (getReg c (rStateCtr b.val 3) + (ss.filter (fun v => !v.isFin)).length) % 2 ^ 32 := by
  unfold wroteBack
  rw [getReg_bump_ne _ _ (by unfold rStateCtr; omega), getReg_putMem, getReg_putMem, getReg_bump_self]

end

theorem signalCtr_eq (b : Fin 32) (k : Fin 16) (n : Nat) (c : Chip) : ∃ bs, signalCtr b k n c = { c with basins := bs } := by
  unfold signalCtr
  split
  · exact ⟨c.basins, rfl⟩
  · split
    · exact ⟨_, rfl⟩
    · exact ⟨_, rfl⟩

section
variable {x : Ctx} {d : Desc} {c : Chip} {off a : Nat} {h : Header}

theorem OneFrame.hold (ho : OneFrame x d c off a h) : OneFrame x d (holdObject x a c) off a h := by
  obtain ⟨bs, rs, hold⟩ := holdObject_eq x a c
  rw [hold]
  exact { ho with }

/-- The body of the frame: the object is held, and written back with its new elements; a signal of its hook changes a basin alone. -/
theorem bodyChunk_oneFrame (ho : OneFrame x d c off a h) : ∃ bs, bodyChunk x d c =
    .ok () { wroteBack x.b a h (frameVals c x d h.d (objectVals c a h.d)) (holdObject x a c) with basins := bs } := by
  obtain ⟨bs, rs, hold⟩ := holdObject_eq x a c
  have hvals : frameVals (holdObject x a c) x d h.d (objectVals (holdObject x a c) a h.d) = frameVals c x d h.d (objectVals c a h.d) := by
    rw [hold]; rfl
  have hheld : [(off, h)].forM (fun p => change (holdObject x (sram c x.m p.1))) c = .ok () (holdObject x a c) :=
    forM_one (by rw [change_ok, ← ho.addr])
  have hframe := foldlM_one (f := fun ss t => runFrame x d (chunkOf d) t ss) (a := 0)
    (runFrame_diag ho.hold (objectVals (holdObject x a c) a h.d))
  have hback := mapM_one (f := writeBack x (chunkOf d)) (writeBack_fp32 (c := holdObject x a c)
    (st := { off := off, h := h, s := frameVals c x d h.d (objectVals c a h.d), r := [] }) ho.frames ho.mode)
  rw [← ho.hold.addr] at hback
  rw [hvals] at hframe
  unfold bodyChunk
  rw [bind_ok (get_ok c), bind_ok (openObjects_one ho), bind_ok hheld, bind_ok (mapM_one (loadStream_fp32 ho.hold))]
  have hf : (chunkOf d).f = 1 := ho.frames
  have hl : (chunkOf d).l = 0 := ho.noAhead
  simp only [hf, hl, List.range_one, show span 1 0 = [] from rfl]
  rw [bind_ok hframe, bind_ok (foldlM_nil_ok _ _ _), bind_ok hback]
  split
  · obtain ⟨bs', hs⟩ := signalCtr_eq x.b x.k (d.f 7 0 6) (wroteBack x.b a h (frameVals c x d h.d (objectVals c a h.d)) (holdObject x a c))
    exact ⟨bs', by rw [change_ok, hs]⟩
  · exact ⟨_, rfl⟩

end

/-! ### The clauses of the statement -/

/-- Settles O17: each command runs its body on the package as launched; what SAVE asks of another package is sent, and the descriptor waits. -/
theorem stateOperatorsWriteObjects : Obligations.StateOperatorsWriteObjects := by
  unfold Obligations.StateOperatorsWriteObjects
  intro b k s ch d js c c0 c1 m a ck n h hr hc0 he hm
  subst hc0 hm
  obtain ⟨hb, -⟩ := headCtx_bk b k ch
  have hfar := launched_far b k ch d js c
  refine ⟨fun ha hck hc1 hhead hh hgood hn hroom => ?_, ?_⟩
  case refine_1 =>
    subst hc1 hn
    have ho : CkptOpen (headCtx b k ch) d (launched b k ch d js c) a h := ⟨he, ha, hhead, hh, hgood, hroom⟩
    obtain ⟨bs, rs, hold⟩ := holdObject_eq (headCtx b k ch) a (launched b k ch d js c)
    have hput : ∀ p ys, (putMem (holdObject (headCtx b k ch) a (launched b k ch d js c)) p ys).fab.far = [] := fun p ys => by
      rw [putMem_fab, hold]; exact hfar
    refine ⟨fun hrow hf hi hbk => ?_, fun hrow hp hi0 hb0 hi hbk hg hmode hfmt hd => ?_, fun hrow => ?_⟩
    · have hbody := bodySave_ok ho hck hf hi hbk
      refine ⟨fun hp => ?_, fun ts c2 hp hts hflush => ?_⟩
      · rw [if_pos hp] at hbody
        exact exec_headReady_ok rfl hr hrow hbody (hput _ _)
      · rw [if_neg hp] at hbody
        rw [exec_headReady (i := .save b k) rfl hr hrow, runHead_sent ((runEff_eq_ok _ _ _ _).mpr hbody) hflush, Option.elim_none, if_neg hts]
    · exact exec_headReady_ok rfl hr hrow (bodyRestore_ok ho hck hp hi0 hb0 hi hbk hg hmode hfmt hd) (hput _ _)
    · exact exec_headReady_ok rfl hr hrow (bodyClearHook_ok ho) (hput _ _)
  case refine_2 =>
    intro off us gs ss out hrow hres hst hfr hla hdiag hnoY _ hoff hgrid hlow hhead ha hh hgood hmode hn hwidth hroom hpend hus hgs hss hout
    subst hn
    have ho : OneFrame (headCtx b k ch) d (launched b k ch d js c) off a h :=
      ⟨he, hres, hst, hfr, hla, hdiag, hnoY, hoff, hgrid, hlow, hhead, ha, hh, hgood, hmode, hwidth, hroom, hpend⟩
    obtain ⟨bs, rs, hold⟩ := holdObject_eq (headCtx b k ch) a (launched b k ch d js c)
    obtain ⟨bs', hbody⟩ := bodyChunk_oneFrame ho
    have hvals : frameVals (launched b k ch d js c) (headCtx b k ch) d h.d (objectVals (launched b k ch d js c) a h.d) = out := by
      rw [hout, hus, hgs, hss]; rfl
    rw [hvals, hb] at hbody
    refine ⟨_, exec_headReady_ok rfl hr hrow hbody ?_, sameRest_withChip s _, ?_, ?_⟩
    · show (wroteBack b a h out (holdObject (headCtx b k ch) a (launched b k ch d js c))).fab.far = []
      rw [wroteBack_fab, hold]; exact hfar
    · refine (wroteBack_mem b a h out _).trans ?_
      rw [hold]; rfl
    · refine (getReg_wroteBack_nonfinite b a h out _).trans ?_
      rw [hold]; rfl

end Sys2Proof.Machine
end

section
/-! PROOFS. Lists of effects, each element run under what those before it keep; a package without errors and residue faults whose requests are
all to itself (R53, R57, R314), where a body that ends leaves its own state; and rows of FP32 results (R125, R129). -/

namespace Sys2Proof.Machine

/-! ### Lists of effects -/

/-- Changes made one after another, each under what those before it keep. -/
theorem forM_foldl {α : Type} {I : Chip → Prop} {f : α → Eff Unit} {g : Chip → α → Chip} (l : List α)
    (h : ∀ c, ∀ a ∈ l, I c → f a c = .ok () (g c a) ∧ I (g c a)) {c : Chip} (hc : I c) :
    l.forM f c = .ok () (l.foldl g c) ∧ I (l.foldl g c) := by
  induction l generalizing c with
  | nil => exact ⟨rfl, hc⟩
  | cons a l ih =>
    obtain ⟨hstep, hnext⟩ := h c a List.mem_cons_self hc
    obtain ⟨hrest, hend⟩ := ih (fun c b hb => h c b (List.mem_cons_of_mem _ hb)) hnext
    exact ⟨(bind_ok hstep).trans hrest, hend⟩

/-- Reads of each element of a list, which change nothing. -/
theorem mapM_reads {α β : Type} {f : α → Eff β} {g : α → β} {c : Chip} (l : List α) (h : ∀ a ∈ l, f a c = .ok (g a) c) :
    l.mapM f c = .ok (l.map g) c := by
  induction l with
  | nil => rfl
  | cons a l ih =>
    rw [List.mapM_cons, bind_ok (h a List.mem_cons_self), bind_ok (ih fun b hb => h b (List.mem_cons_of_mem _ hb))]
    rfl

/-- Reads folded into a state, which change nothing. -/
theorem foldlM_reads {σ α : Type} {f : σ → α → Eff σ} {g : σ → α → σ} {c : Chip} (l : List α)
    (h : ∀ s, ∀ a ∈ l, f s a c = .ok (g s a) c) (s : σ) : l.foldlM f s c = .ok (l.foldl g s) c := by
  induction l generalizing s with
  | nil => rfl
  | cons a l ih =>
    rw [foldlM_cons_ok (h s a List.mem_cons_self), ih (fun s b hb => h s b (List.mem_cons_of_mem _ hb))]
    rfl

/-! ### A package that stays within itself (R53, R57, R314) -/

/-- A package of a given number without an error in a word and without a residue fault, all of whose requests are to itself. -/
structure SteadyPkg (n : Nat) (c : Chip) : Prop where
  clean : CleanPkg n c
  far : ∀ q ∈ c.fab.far, pkgOf q.addr = n

theorem pkg_of_steady {c e : Chip} (h : Steady c e) : pkg e = pkg c := by
  obtain ⟨-, -, -, hid⟩ := h
  unfold pkg
  rw [hid]

theorem steadyPkg_of_steady {c e : Chip} (h : Steady c e) : SteadyPkg (pkg c) e := by
  have hp := pkg_of_steady h
  obtain ⟨he, hr, hf, -⟩ := h
  exact ⟨⟨he, hr, hp⟩, fun q hq => (hf q hq).trans hp⟩

theorem steadyPkg_putMem {n : Nat} {c : Chip} (h : SteadyPkg n c) (a : Nat) (bs : List Byte) : SteadyPkg n (putMem c a bs) :=
  ⟨putMem_clean h.clean a bs, by rw [putMem_fab]; exact h.far⟩

theorem steadyPkg_bump {n : Nat} {c : Chip} (h : SteadyPkg n c) (off k : Nat) : SteadyPkg n (bump c off k) := by
  obtain ⟨rg, hb⟩ := bump_eq c off k
  rw [hb]
  exact ⟨⟨h.clean.ecc, h.clean.residue, h.clean.pkg⟩, h.far⟩

theorem steadyPkg_undefine {n : Nat} {c : Chip} (h : SteadyPkg n c) (a k : Nat) : SteadyPkg n (undefine c a k) :=
  steadyPkg_putMem (c := { c with free := c.free + 1 }) ⟨⟨h.clean.ecc, h.clean.residue, h.clean.pkg⟩, h.far⟩ _ _

theorem undefine_mem (c : Chip) (a n : Nat) :
    (undefine c a n).mem = memWriteN c.mem a ((List.range n).map (Config.freeByte c.free)) := putMem_mem _ _ _

theorem putMem_free (c : Chip) (a : Nat) (bs : List Byte) : (putMem c a bs).free = c.free := by unfold putMem; split <;> rfl

theorem bump_free (c : Chip) (off n : Nat) : (bump c off n).free = c.free := by
  obtain ⟨rg, h⟩ := bump_eq c off n
  rw [h]

/-- Every offset below 2^40 from the start of a basin's window lies in the package. -/
theorem pkgOf_sram_offset (c : Chip) (m : Fin 32) {off : Nat} (h : off < 2 ^ 40) : pkgOf (sram c m off) = pkg c := by
  have hm := m.isLt
  have hp := pkg_lt c
  unfold pkgOf sram sys sramLoc
  omega

theorem sram_offset (c : Chip) (m : Fin 32) (off a : Nat) : sram c m off + a = sram c m (off + a) := by
  unfold sram sys sramLoc; omega

/-- Requests to the package itself are not sent. -/
theorem flushFar_near {c : Chip} (m : Master) (who : Requester) (h : ∀ q ∈ c.fab.far, pkgOf q.addr = pkg c) :
    flushFar m who c = (([], none), beginFar .hub c) := by
  have hmem : ∀ p ∈ farNumbered c.fab.far, pkgOf p.1.addr = pkg c := by
    intro p hp
    obtain ⟨q, hq, rfl⟩ := List.mem_map.mp hp
    exact h _ (List.of_mem_zip hq).2
  have hcode : codeWrites who c = c := by
    have hnone : (farNumbered c.fab.far).filter (fun p => (askedFor c who p.1 p.2).isNone && pkgOf p.1.addr != pkg c) = [] :=
      List.filter_eq_nil_iff.mpr fun p hp => by simp [hmem p hp]
    unfold codeWrites
    rw [hnone]
    rfl
  have hfold : (farNumbered c.fab.far).foldl (flushOne m who) (([], none), c) = (([], none), c) :=
    foldl_keeps (I := fun r => r = (([], none), c)) _ (fun r p hp hr => by subst hr; exact if_pos (hmem p hp)) rfl
  unfold flushFar
  rw [hcode, hfold]

/-- A head that may issue, whose body asks only the package itself and does not stop, leaves what its body leaves. -/
theorem exec_headReady_near {b : Fin 32} {k : Fin 16} {ch : Chain} {d : Desc} {js : List Nat} {c c2 : Chip} {body : Ctx → Desc → Eff Unit}
    {i : Instr} {row : RowId} {s : State} {n : Nat} (hi : descCommand i = some (b, k, row, body)) (hr : HeadReady s b k ch d js c)
    (hd : rowOf d = some row) (h : body (headCtx b k ch) d (launched b k ch d js c) = .ok () c2) (hn : SteadyPkg n c2) :
    exec i s = .next (s.withChip (settled c2)) := by
  have hflush := flushFar_near (basinMaster ch.home) (.walk b k ch.nextId) fun q hq => (hn.far q hq).trans hn.clean.pkg.symm
  rw [exec_headReady hi hr hd, runHead_sent ((runEff_eq_ok _ _ _ _).mpr h) hflush]
  rfl

theorem undefineOnStop_ok {α : Type} {m : Eff α} {c e : Chip} {a : α} (rs : List (Nat × Nat)) (h : m c = .ok a e) :
    undefineOnStop rs m c = .ok a e := by
  unfold undefineOnStop
  rw [h]

/-! ### Rows in FP32 (R125, R129) -/

theorem bytes_fp32 (n : Nat) : Fmt.fp32.bytes n = 4 * n := by
  show (32 * n + 8 - 1) / 8 = 4 * n
  omega

theorem scalesOut_fp32 : scalesOut .fp32 = false := rfl

/-- The bytes of a row in FP32. -/
def fp32Bytes (vs : List Val) : List Byte := vs.flatMap (fun v => leBytes 4 (f32Code v))

theorem packCodes_fp32 (vs : List Val) : packCodes .fp32 (vs.map f32Code) = fp32Bytes vs := List.flatMap_map _ _ _

theorem convPlain_fp32 (b : Fin 32) (vs : List Val) (c : Chip) : convPlain b .fp32 vs c = .ok (vs.map f32Code) c := by
  have hcount : countConv b (vs.map (conv .fp32)) c = c :=
    countConv_none b _ c fun q hq => by obtain ⟨v, -, rfl⟩ := List.mem_map.mp hq; exact conv32_flags v
  unfold convPlain
  rw [bind_ok (change_ok _ c), hcount, List.map_map]
  rfl

/-- A row of a merge's output with its count of empty rows (R129). -/
def putOutputRow (ctr a pitch : Nat) (c : Chip) (p : ARow × Nat) : Chip :=
  putMem (bump c ctr (b2n (finalRow p.1).2)) (a + p.2 * pitch) (fp32Bytes (finalRow p.1).1)

/-- The output rows of a merge, in FP32. -/
def putOutputRows (ctr a pitch : Nat) (rows : List ARow) (c : Chip) : Chip :=
  (rows.zip (List.range rows.length)).foldl (putOutputRow ctr a pitch) c

theorem writeOutputs_fp32 {x : Ctx} {d : Desc} (dst width : Nat) (rows : List ARow) (c : Chip) (ho : fmtGet d.outFmt = .fp32) :
    writeOutputs x d dst width rows c =
      .ok () (putOutputRows (rAttnCtr x.b.val 1) (sram c x.m dst) (roundUp (4 * width) 64) rows c) := by
  unfold writeOutputs
  rw [bind_ok (get_ok c), ho]
  dsimp only
  refine (forM_foldl (I := fun _ => True) _ (fun e p _ _ => ⟨?_, trivial⟩) trivial).1
  rw [bind_ok (change_ok _ e)]
  rw [scalesOut_fp32, Bool.and_false, if_neg Bool.false_ne_true, bind_ok (convPlain_fp32 x.b _ _), writeMem_ok, packCodes_fp32, bytes_fp32]
  rfl

theorem rowsWritten_map {α : Type} (m : Memory) (a pitch : Nat) (g : α → List Val) (rows : List α) : rowsWritten m a pitch (rows.map g) =
    (rows.zip (List.range rows.length)).foldl (fun m p => memWriteN m (a + p.2 * pitch) (fp32Bytes (g p.1))) m := by
  unfold rowsWritten
  rw [List.length_map, List.zip_map_left, List.foldl_map]
  rfl

section
variable (ctr a pitch : Nat) (rows : List ARow) (c : Chip)

theorem putOutputRows_mem : (putOutputRows ctr a pitch rows c).mem = rowsWritten c.mem a pitch (rows.map (fun y => (finalRow y).1)) := by
  rw [rowsWritten_map]
  exact (List.foldl_hom Chip.mem fun e p => by rw [putOutputRow, putMem_mem, bump_mem]).symm

theorem putOutputRows_free : (putOutputRows ctr a pitch rows c).free = c.free :=
  foldl_keeps (I := fun e : Chip => e.free = c.free) _ (fun e p _ he => by rw [putOutputRow, putMem_free, bump_free, he]) rfl

theorem steadyPkg_putOutputRows {n : Nat} (h : SteadyPkg n c) : SteadyPkg n (putOutputRows ctr a pitch rows c) :=
  foldl_keeps (I := SteadyPkg n) _ (fun _ _ _ he => steadyPkg_putMem (steadyPkg_bump he _ _) _ _) h

/-- The counter of empty rows grows by the empty ones among the rows written. -/
theorem getReg_putOutputRows : getReg (putOutputRows ctr a pitch rows c) ctr =
    (getReg c ctr + (rows.filter (fun y => (finalRow y).2)).length) % 2 ^ 32 := by
  have hcount : ∀ (ps : List (ARow × Nat)) (e : Chip), getReg (ps.foldl (putOutputRow ctr a pitch) e) ctr =
      (getReg e ctr + ((ps.map Prod.fst).filter (fun y => (finalRow y).2)).length) % 2 ^ 32 := by
    intro ps
    induction ps with
    | nil => exact fun e => (Nat.mod_eq_of_lt (getReg_lt e ctr)).symm
    | cons p ps ih =>
      intro e
      have hrow : getReg (putOutputRow ctr a pitch e p) ctr = (getReg e ctr + b2n (finalRow p.1).2) % 2 ^ 32 := by
        rw [putOutputRow, getReg_putMem, getReg_bump_self]
      rw [List.foldl_cons, ih, hrow, List.map_cons, List.filter_cons]
      cases (finalRow p.1).2
      · simp [b2n]
      · simp only [b2n, if_true, List.length_cons]; omega
  rw [putOutputRows, hcount, List.map_fst_zip (by simp)]

end

end Sys2Proof.Machine
end

section
/-! PROOFS. The merge and the forward partial (R123 to R126, R128 to R132, R134): records read where no word has an error, and what each writes. -/

namespace Sys2Proof.Machine

/-! ### The merge (R128 to R132) -/

/-- The words of a range of this package. -/
theorem readWords_eq (unit a n : Nat) {c : Chip} (he : c.ecc = []) (hp : pkgOf a = pkg c) :
    readWords unit a n c = .ok ((List.range n).map (fun j => leNat (memReadN c.mem (a + 8 * j) 8))) c := by
  rw [readWords_clean unit a n he hp]
  refine congrArg (fun l => EStateM.Result.ok l c) (List.map_congr_left fun j hj => ?_)
  rw [memReadN_slice _ _ (by have := List.mem_range.mp hj; omega)]

/-- Where each header agrees with the descriptor, none is skewed (R132). -/
theorem recordSkew_none {d : Desc} {as : List Nat} {g : Nat → List Nat} (h : ∀ i, i < as.length → recordSkew d i (g (as.getD i 0)) = false) :
    ((as.map g).zip (List.range (as.map g).length)).any (fun p => recordSkew d p.2 p.1) = false := by
  rw [List.any_eq_false]
  intro p hp
  obtain ⟨i, hi, rfl⟩ := List.mem_iff_getElem.mp hp
  have hlt : i < as.length := by simpa using hi
  have hi' := h i hlt
  rw [List.getD_eq_getElem _ _ hlt] at hi'
  simpa using hi'

/-- The records of a merge. -/
def mergeRecords (c : Chip) (m : Fin 32) (d : Desc) : List Nat :=
  (List.range (d.f 1 40 6)).map (fun i => sram c m (d.f 1 0 23 + i * d.f 1 24 16 * 64))

/-- What a merge makes of a row of its records (R128, R129). -/
def mergedRow (c : Chip) (m : Fin 32) (d : Desc) (r : Nat) : ARow :=
  (mergeRecords c m d).foldl (fun y a => combine y (recordRow c a (d.f 1 48 11) (d.f 2 24 10) r)) (ARow.start (d.f 2 24 10))

/-- The records of a merge lie in the package. -/
theorem pkgOf_mergeRecord {c : Chip} {m : Fin 32} {d : Desc} {a off : Nat} (ha : a ∈ mergeRecords c m d) (h : off < 2 ^ 30) :
    pkgOf (a + off) = pkg c := by
  obtain ⟨i, hi, rfl⟩ := List.mem_map.mp ha
  have hbase : d.f 1 0 23 < 2 ^ 23 := fld_lt _ _ _
  have hpitch : d.f 1 24 16 < 2 ^ 16 := fld_lt _ _ _
  have hparts : d.f 1 40 6 < 2 ^ 6 := fld_lt _ _ _
  have hi := List.mem_range.mp hi
  have hmul : i * d.f 1 24 16 ≤ 2 ^ 6 * 2 ^ 16 := Nat.mul_le_mul (by omega) (by omega)
  rw [sram_offset]
  exact pkgOf_sram_offset c m (by omega)

/-- The rows of o lie within 2^30 bytes of their record. -/
theorem recordRow_offset_lt {d : Desc} {r : Nat} (hr : r < d.f 1 48 11) :
    roundUp (64 + 16 * d.f 1 48 11) 64 + r * roundUp (4 * d.f 2 24 10) 64 < 2 ^ 30 := by
  have hrows : d.f 1 48 11 < 2 ^ 11 := fld_lt _ _ _
  have hdim : d.f 2 24 10 < 2 ^ 10 := fld_lt _ _ _
  have hstat : roundUp (64 + 16 * d.f 1 48 11) 64 ≤ 2 ^ 16 := by unfold roundUp ceilDiv; omega
  have hmul : r * roundUp (4 * d.f 2 24 10) 64 ≤ 2 ^ 11 * 2 ^ 13 := Nat.mul_le_mul (by omega) (by unfold roundUp ceilDiv; omega)
  omega

section
variable {x : Ctx} {d : Desc} {c : Chip} (he : c.ecc = [])
include he

/-- A row of a record is folded in as it stands. -/
theorem combine_recordRow {a r : Nat} (ha : a ∈ mergeRecords c x.m d) (hr : r < d.f 1 48 11) (s : ARow) : (do
      let st ← readMem vecUnit (a + 64 + 16 * r) 16
      let ob ← readMem vecUnit (a + roundUp (64 + 16 * d.f 1 48 11) 64 + r * roundUp (4 * d.f 2 24 10) 64) (4 * d.f 2 24 10)
      let y : ARow := { m := valOf .fp32 (element .fp32 st 0), l := valOf .fp32 (element .fp32 st 1),
                        o := (List.range (d.f 2 24 10)).map (fun i => valOf .fp32 (element .fp32 ob i)) }
      pure (combine s { y with nan := y.m.isNan || y.l.isNan || y.o.any Val.isNan }) : Eff ARow) c =
    .ok (combine s (recordRow c a (d.f 1 48 11) (d.f 2 24 10) r)) c := by
  have hrows : d.f 1 48 11 < 2 ^ 11 := fld_lt _ _ _
  have hst := readMem_clean vecUnit (a + 64 + 16 * r) 16 c he (by rw [Nat.add_assoc]; exact pkgOf_mergeRecord ha (by omega))
  have hob := readMem_clean vecUnit (a + roundUp (64 + 16 * d.f 1 48 11) 64 + r * roundUp (4 * d.f 2 24 10) 64) (4 * d.f 2 24 10) c he
    (by rw [Nat.add_assoc]; exact pkgOf_mergeRecord ha (recordRow_offset_lt hr))
  have hm := element_fp32_memReadN c.mem (a + 64 + 16 * r) (n := 4) (i := 0) (by omega)
  have hl := element_fp32_memReadN c.mem (a + 64 + 16 * r) (n := 4) (i := 1) (by omega)
  have ho : (List.range (d.f 2 24 10)).map (fun i => valOf .fp32 (element .fp32 (memReadN c.mem (a + roundUp (64 + 16 * d.f 1 48 11) 64 +
      r * roundUp (4 * d.f 2 24 10) 64) (4 * d.f 2 24 10)) i)) = (recordRow c a (d.f 1 48 11) (d.f 2 24 10) r).o :=
    List.map_congr_left fun i hi => by rw [element_fp32_memReadN _ _ (List.mem_range.mp hi)]
  rw [bind_ok hst, bind_ok hob]
  dsimp only
  rw [ho, hm, hl, show a + 64 + 16 * r + 4 * 1 = a + 68 + 16 * r by omega]
  rfl

/-- The merge writes its final rows, and their statistics where they are asked for. -/
theorem bodyMerge_fp32 (hres : c.residue = []) (ho : fmtGet d.outFmt = .fp32)
    (hskew : ∀ i, i < (mergeRecords c x.m d).length → recordSkew d i
      ((List.range 8).map (fun j => leNat (memReadN c.mem ((mergeRecords c x.m d).getD i 0 + 8 * j) 8))) = false)
    {out : List ARow} (hout : out = (List.range (d.f 1 48 11)).map (mergedRow c x.m d)) {e : Chip}
    (heq : e = putOutputRows (rAttnCtr x.b.val 1) (sram c x.m (d.f 2 0 23)) (roundUp (4 * d.f 2 24 10) 64) out c) :
    bodyMerge x d c = .ok () (if d.b 3 23 then putMem e (sram c x.m (d.f 3 0 23)) (out.flatMap statBytes) else e) := by
  have hheads : (mergeRecords c x.m d).mapM (fun a => readWords vecUnit a 8) c =
      .ok ((mergeRecords c x.m d).map (fun a => (List.range 8).map (fun j => leNat (memReadN c.mem (a + 8 * j) 8)))) c :=
    mapM_reads _ fun a ha => readWords_eq vecUnit a 8 he (pkgOf_mergeRecord (off := 0) ha (by omega))
  have hagree := recordSkew_none (g := fun a => (List.range 8).map (fun j => leNat (memReadN c.mem (a + 8 * j) 8))) hskew
  unfold bodyMerge
  rw [bind_ok (get_ok c)]
  refine (bind_ok hheads).trans ((bind_ok (stopIf_passes hagree _ _ _ c)).trans ((bind_ok (a := out) (d := c) ?rows).trans ?written))
  case rows =>
    rw [hout]
    exact mapM_reads _ fun r hr => (bind_ok (residueCheck_clean hres x.b [vecUnit] r)).trans
      (foldlM_reads _ (fun s a ha => combine_recordRow he ha (List.mem_range.mp hr) s) _)
  case written =>
    rw [bind_ok (writeOutputs_fp32 _ _ _ c ho), ← heq]
    split
    · rfl
    · rfl

end

/-! ### The forward partial (R123 to R126, R134) -/

/-- A row with a NaN in its statistics is written as NaN (R118, R125). -/
def spoiledRow (y : ARow) : ARow :=
  if y.nan || y.m.isNan || y.l.isNan then { m := .nan, l := .nan, o := y.o.map (fun _ => .nan), nan := true } else y

/-- A row marked as NaN by its statistics. -/
def markedRow (y : ARow) : ARow := { y with nan := y.nan || y.m.isNan || y.l.isNan }

/-- A marked row that is written as NaN where it is marked is `spoiledRow`. -/
theorem spoiledRow_of_marked (y : ARow) :
    (if (markedRow y).nan then { markedRow y with m := .nan, l := .nan, o := y.o.map (fun _ => .nan) } else markedRow y) = spoiledRow y := by
  unfold spoiledRow markedRow
  cases h : y.nan || y.m.isNan || y.l.isNan
  · have hy : y.nan = false := by simp only [Bool.or_eq_false_iff] at h; exact h.1.1
    show ARow.mk y.m y.l y.o false = y
    rw [← hy]
  · rfl

/-- The header of a partial record (R125). -/
def partHeader (d : Desc) (a : Part) (n : Nat) : List Nat :=
  [d.job + d.f 5 56 5 * 2 ^ 16 + d.f 3 55 6 * 2 ^ 21 + n * 2 ^ 27 + a.width * 2 ^ 38, d.f 7 32 32, 0, 0, 0, 0, 0, 0]

/-- The rows of o of a partial record, one after another. -/
def putRows (a pitch : Nat) (rows : List ARow) (c : Chip) : Chip :=
  (rows.zip (List.range rows.length)).foldl (fun c p => putMem c (a + p.2 * pitch) (fp32Bytes p.1.o)) c

section
variable (a pitch : Nat) (rows : List ARow) (c : Chip)

theorem putRows_mem : (putRows a pitch rows c).mem = rowsWritten c.mem a pitch (rows.map (·.o)) := by
  rw [rowsWritten_map]
  exact (List.foldl_hom Chip.mem fun e p => by rw [putMem_mem]).symm

theorem putRows_free : (putRows a pitch rows c).free = c.free :=
  foldl_keeps (I := fun e : Chip => e.free = c.free) _ (fun e p _ he => by rw [putMem_free, he]) rfl

theorem steadyPkg_putRows {n : Nat} (h : SteadyPkg n c) : SteadyPkg n (putRows a pitch rows c) :=
  foldl_keeps (I := SteadyPkg n) _ (fun _ _ _ he => steadyPkg_putMem he _ _) h

end

/-- A partial record: statistics, o, and the header last (R126). -/
def putRecord (d : Desc) (a : Part) (base : Nat) (rows : List ARow) (c : Chip) : Chip :=
  putMem (putRows (base + roundUp (64 + 16 * rows.length) 64) (roundUp (4 * a.width) 64) rows
    (putMem c (base + 64) (rows.flatMap statBytes))) base ((partHeader d a rows.length).flatMap (leBytes 8))

theorem writePartRecord_eq (x : Ctx) (d : Desc) (a : Part) (rows : List ARow) (c : Chip) :
    writePartRecord x d a (rows.map markedRow) c =
      .ok () (putRecord d a (sram c x.m (d.f 3 0 23)) (rows.map spoiledRow) c) := by
  have hrows : (rows.map markedRow).map (fun r => if r.nan then { r with m := .nan, l := .nan, o := r.o.map (fun _ => .nan) } else r) =
      rows.map spoiledRow := by
    rw [List.map_map]
    exact List.map_congr_left fun y _ => spoiledRow_of_marked y
  unfold writePartRecord putRecord
  rw [bind_ok (get_ok c), hrows, bind_ok (writeMem_ok _ _ c), List.length_map, List.length_map]
  refine (bind_ok (forM_foldl (I := fun _ => True) _ (fun e p _ _ => ⟨writeMem_ok _ _ e, trivial⟩) trivial).1).trans ?_
  rw [putRows, List.length_map]
  rfl

section
variable (d : Desc) (a : Part) (base : Nat) (rows : List ARow) (c : Chip)

theorem putRecord_mem : (putRecord d a base rows c).mem =
    memWriteN (rowsWritten (memWriteN c.mem (base + 64) (rows.flatMap statBytes)) (base + roundUp (64 + 16 * rows.length) 64)
      (roundUp (4 * a.width) 64) (rows.map (·.o))) base ((partHeader d a rows.length).flatMap (leBytes 8)) := by
  rw [putRecord, putMem_mem, putRows_mem, putMem_mem]

theorem putRecord_free : (putRecord d a base rows c).free = c.free := by
  rw [putRecord, putMem_free, putRows_free, putMem_free]

theorem steadyPkg_putRecord {n : Nat} (h : SteadyPkg n c) : SteadyPkg n (putRecord d a base rows c) :=
  steadyPkg_putMem (steadyPkg_putRows _ _ _ _ (steadyPkg_putMem h _ _)) _ _

end

/-- A row of a partial that finalises its rows, folded as the merge of one record folds it (R134). -/
def finalised (width : Nat) (y : ARow) : ARow :=
  combine (ARow.start width) { y with nan := y.nan || y.m.isNan || y.l.isNan || y.o.any Val.isNan }

/-- The package as a forward partial begins to write: its NaN rows are counted. -/
def nanCounted (b : Fin 32) (rows : List ARow) (c : Chip) : Chip :=
  bump c (rAttnCtr b.val 2) ((rows.map markedRow).filter (·.nan)).length

section
variable {x : Ctx} {d : Desc} {a : Part} {wait : Nat} {w : Walk} {qs : List SRow} {rows : List ARow} {c c1 c2 c3 : Chip}
  (ha : a = partOf d) (hw : partWalk x d a (bumpUnits c (rAttnCtr x.b.val 3) 256 wait) = .ok w c1)
  (hq : queryRows x d a c1 = .ok qs c2) (hr : forwardRows x d a w qs c2 = .ok rows c3)
include ha hw hq hr

/-- A forward partial runs its walk, its queries and its blocks, and then writes; its scratch area is undefined at the end. -/
theorem bodyForward_ok {c4 : Chip} (hput : (if d.b 7 21 then
      writeOutputs x d (d.f 3 0 23) a.width (rows.map (finalised a.width))
    else writePartRecord x d a (rows.map markedRow)) (nanCounted x.b rows c3) = .ok () c4) :
    bodyForward wait x d c = .ok () (undefine c4 (scratchOf c x d a).1 (scratchOf c x d a).2) := by
  have hfinal : (rows.map markedRow).map
      (fun r => combine (ARow.start a.width) { r with nan := r.nan || r.o.any Val.isNan }) = rows.map (finalised a.width) := by
    rw [List.map_map]; rfl
  unfold bodyForward
  rw [bind_ok (get_ok c)]
  dsimp only
  rw [← ha, bind_ok (change_ok _ c)]
  refine undefineOnStop_ok _ ?_
  rw [bind_ok hw, bind_ok hq, bind_ok hr, bind_ok (change_ok _ c3)]
  change (if d.b 7 21 then _ else _ : Eff Unit) (nanCounted x.b rows c3) = _
  split
  · next hf =>
    rw [if_pos hf, ← hfinal] at hput
    exact (bind_ok hput).trans (change_ok _ c4)
  · next hf =>
    rw [if_neg hf] at hput
    exact (bind_ok hput).trans (change_ok _ c4)

end

end Sys2Proof.Machine
end

section
/-! PROOFS. The backward passes and the windowed mode (R139 to R141), and the statement about the attention engine. -/

namespace Sys2Proof.Machine

/-! ### The backward passes (R139) -/

/-- A row of a backward pass is written, and its scores that saturate are counted. -/
def putBackwardRow (b : Fin 32) (a : Part) (w : Walk) (f : Fmt) (val : Val → Val → Val → Val) (toks : List Tok) (inp out : Nat) (c : Chip)
    (p : SRow × Nat) : Chip :=
  putMem (bump c (rBasinCtr b.val 6) (b2n (rowScores a w f p.1 p.2 toks).2)) (out + p.2 * (64 * a.count))
    (backwardRow c.mem a w f val toks inp p.1 p.2)

/-- The rows of a backward pass, one after another. -/
def putBackwardRows (b : Fin 32) (a : Part) (w : Walk) (f : Fmt) (val : Val → Val → Val → Val) (toks : List Tok) (inp out : Nat)
    (qs : List SRow) (c : Chip) : Chip :=
  (qs.zip (List.range (a.heads * a.qpos))).foldl (putBackwardRow b a w f val toks inp out) c

section
variable (b : Fin 32) (a : Part) (w : Walk) (f : Fmt) (val : Val → Val → Val → Val) (toks : List Tok) (inp out : Nat) (qs : List SRow)
  (c : Chip)

theorem putBackwardRows_mem : (putBackwardRows b a w f val toks inp out qs c).mem = (qs.zip (List.range (a.heads * a.qpos))).foldl
    (fun m p => memWriteN m (out + p.2 * (64 * a.count)) (backwardRow m a w f val toks inp p.1 p.2)) c.mem :=
  (List.foldl_hom Chip.mem fun e p => by rw [putBackwardRow, putMem_mem, bump_mem]).symm

theorem steadyPkg_putBackwardRow {n : Nat} (p : SRow × Nat) (h : SteadyPkg n c) :
    SteadyPkg n (putBackwardRow b a w f val toks inp out c p) := steadyPkg_putMem (steadyPkg_bump h _ _) _ _

theorem steadyPkg_putBackwardRows {n : Nat} (h : SteadyPkg n c) : SteadyPkg n (putBackwardRows b a w f val toks inp out qs c) :=
  foldl_keeps (I := SteadyPkg n) _ (fun e p _ he => steadyPkg_putBackwardRow b a w f val toks inp out e p he) h

end

/-- The statistics and the gradients of a row lie within 2^36 bytes of the input area. -/
theorem backwardInput_lt {d : Desc} {a : Part} {i : Nat} (ha : a = partOf d) (hi : i < a.heads * a.qpos) :
    16 * i < 2 ^ 36 ∧ roundUp (16 * (a.heads * a.qpos)) 64 + i * (64 * a.count) < 2 ^ 36 := by
  have hh : a.heads < 2 ^ 8 := by rw [ha]; exact fld_lt _ _ _
  have hq : a.qpos < 2 ^ 4 := by rw [ha]; exact fld_lt _ _ _
  have hc : a.count < 2 ^ 16 := by rw [ha]; exact fld_lt _ _ _
  have hrows : a.heads * a.qpos ≤ 2 ^ 8 * 2 ^ 4 := Nat.mul_le_mul (by omega) (by omega)
  have hmul : i * (64 * a.count) ≤ 2 ^ 12 * (64 * 2 ^ 16) := Nat.mul_le_mul (by omega) (by omega)
  have hround : roundUp (16 * (a.heads * a.qpos)) 64 ≤ 2 ^ 17 := by unfold roundUp ceilDiv; omega
  omega

/-- The input area of a backward pass lies in the package. -/
theorem pkgOf_backwardInput (c : Chip) (m : Fin 32) (d : Desc) {off : Nat} (h : off < 2 ^ 36) : pkgOf (sram c m (d.f 3 24 23) + off) = pkg c := by
  have hbase : d.f 3 24 23 < 2 ^ 23 := fld_lt _ _ _
  rw [sram_offset]
  exact pkgOf_sram_offset c m (by omega)

/-- A range is read where a pass needs it. -/
theorem readMem_where {unit a n : Nat} {c : Chip} (p : Bool) (he : c.ecc = []) (hp : pkgOf a = pkg c) :
    (if p then readMem unit a n else pure [] : Eff (List Byte)) c = .ok (if p then memReadN c.mem a n else []) c := by
  cases p
  · rfl
  · exact readMem_clean unit a n c he hp

/-- An FP32 element of whole blocks of 64 bytes that were read. -/
theorem element_fp32_block (m : Memory) (a : Nat) {n i : Nat} (h : i < 16 * n) :
    element .fp32 (memReadN m a (64 * n)) i = leNat (memReadN m (a + 4 * i) 4) := by
  rw [show 64 * n = 4 * (16 * n) by omega, element_fp32_memReadN m a h]

section
variable {x : Ctx} {d : Desc} {a : Part} {wait : Nat} {val : Val → Val → Val → Val} {w : Walk} {qs : List SRow} {fmt : Option Nat}
  {toks : List Tok} {c c1 c2 c3 : Chip}

/-- A backward pass runs its walk, its queries and its pages, and then writes its rows. A pass whose values need dP reads it. -/
theorem bodyBackward_ok (ha : a = partOf d) (hw : partWalk x d a (bumpUnits c (rAttnCtr x.b.val 3) 256 wait) = .ok w c1)
    (hq : queryRows x d a c1 = .ok qs c2) (hr : readPages x d a w none (span a.first a.count) c2 = .ok (fmt, toks) c3)
    (hs : SteadyPkg (pkg c) c3) (hval : d.f 3 48 2 = 2 ∨ ∀ p u v e, val p u e = val p v e) :
    bodyBackward val wait x d c = .ok ()
      (putBackwardRows x.b a w (fmtGet (fmt.getD 1)) val toks (sram c x.m (d.f 3 24 23)) (sram c x.m (d.f 3 0 23)) qs c3) := by
  unfold bodyBackward
  rw [bind_ok (get_ok c)]
  dsimp only
  rw [← ha, bind_ok (change_ok _ c)]
  refine undefineOnStop_ok _ ?_
  rw [bind_ok hw, bind_ok hq, bind_ok hr]
  refine (forM_foldl (I := SteadyPkg (pkg c)) _ (fun e p hp he => ⟨?_, steadyPkg_putBackwardRow _ _ _ _ _ _ _ _ e p he⟩) hs).1
  obtain ⟨q, i⟩ := p
  obtain ⟨hstat, hgrad⟩ := backwardInput_lt ha (List.mem_range.mp (List.of_mem_zip hp).2)
  have hst := readMem_clean vecUnit (sram c x.m (d.f 3 24 23) + 16 * i) 16 e he.clean.ecc
    ((pkgOf_backwardInput c x.m d hstat).trans he.clean.pkg.symm)
  have hdp := readMem_where (unit := vecUnit) (n := 64 * a.count) (d.f 3 48 2 == 2) he.clean.ecc
    ((pkgOf_backwardInput c x.m d hgrad).trans he.clean.pkg.symm)
  have hword : ∀ j, j < 4 → element .fp32 (memReadN e.mem (sram c x.m (d.f 3 24 23) + 16 * i) 16) j =
      leNat (memReadN e.mem (sram c x.m (d.f 3 24 23) + 16 * i + 4 * j) 4) := fun j hj => element_fp32_memReadN e.mem _ (n := 4) hj
  rw [← Nat.add_assoc] at hdp
  dsimp only
  rw [bind_ok (residueCheck_clean he.clean.residue _ _ _), bind_ok hst, bind_ok hdp, bind_ok (change_ok _ e), writeMem_ok]
  refine congrArg (fun bs => EStateM.Result.ok () (putMem _ _ bs)) ?_
  unfold backwardRow
  rw [List.flatMap_map]
  refine List.flatMap_congr fun t ht => congrArg (fun v => leBytes 4 (f32Code v)) ?_
  dsimp only
  generalize ((toks.zip (rowScores a w (fmtGet (fmt.getD 1)) q i toks).1).find? (fun z => z.1.pos == 16 * a.first + t)).bind (·.2) = score
  cases score with
  | none => rfl
  | some v =>
    simp only [hword 0 (by omega), hword 1 (by omega), hword 2 (by omega)]
    rcases hval with htwo | hval
    · have hread : (d.f 3 48 2 == 2) = true := beq_iff_eq.mpr htwo
      rw [if_pos hread, element_fp32_block _ _ (List.mem_range.mp ht)]
    · rw [hval]

end

/-! ### The windowed mode (R140, R141) -/

theorem countConv_eq (b : Fin 32) (cs : List Conv) (c : Chip) : ∃ rg, countConv b cs c = { c with regs := rg } := by
  obtain ⟨r1, h1⟩ := bump_eq c (rBasinCtr b.val 6) (cs.filter (·.sat)).length
  obtain ⟨r2, h2⟩ := bump_eq { c with regs := r1 } (rBasinCtr b.val 7) (cs.filter (·.nanc)).length
  exact ⟨r2, by rw [countConv, h1, h2]⟩

/-- A conversion with found scales changes counters alone. -/
theorem toSRow_counts (b : Fin 32) (f : Fmt) (vs : List Val) (c : Chip) : ∃ r rg, toSRow b f vs c = .ok r { c with regs := rg } := by
  unfold toSRow foundSeg
  cases hf : scalesOut f
  · obtain ⟨rg, h⟩ := countConv_eq b (vs.map (conv f)) c
    exact ⟨_, rg, by rw [← h]; rfl⟩
  · obtain ⟨rg, h⟩ := countConv_eq b (((chunks 32 vs.length vs).map (fun blk =>
      (sc16Found f (blockMax blk), blk.map (quant f (sc16Found f (blockMax blk)))))).flatMap (·.2)) c
    exact ⟨_, rg, by rw [← h]; rfl⟩

/-- A row of the windowed mode changes counters alone. -/
theorem windowRow_counts (x : Ctx) (pf fa fw : Fmt) (scale : Val) (q : SRow) (ks : List (Bool × SRow)) (vs : List (List Val)) (width : Nat)
    (c : Chip) : ∃ o rg, windowRow x pf fa fw scale q ks vs width c = .ok o { c with regs := rg } := by
  obtain ⟨r1, h1⟩ := bump_eq c (rBasinCtr x.b.val 6) (b2n ((ks.map (fun k => (score fa fw scale q k.2, k.1))).any (fun s => s.1.2)))
  unfold windowRow
  dsimp only
  rw [bind_ok (change_ok _ c), h1]
  obtain ⟨p, r2, h2⟩ := toSRow_counts x.b pf _ { c with regs := r1 }
  rw [bind_ok h2]
  split
  · exact ⟨_, r2, rfl⟩
  split
  · exact ⟨_, r2, rfl⟩
  · obtain ⟨n, r3, h3⟩ := toSRow_counts x.b pf _ { c with regs := r2 }
    exact ⟨_, r3, by rw [bind_ok h3]; rfl⟩

/-- The package once the only row of a windowed mode is written, and its scratch area left undefined. -/
def windowWritten (x : Ctx) (d : Desc) (o : List Val) (c c1 : Chip) : Chip :=
  undefine (putMem c1 (sram c x.m (d.f 3 0 23)) (fp32Bytes o)) (sram c x.m (d.f 3 24 23))
    (2 * 4096 * ceilDiv (d.f 2 48 8 + d.f 2 56 8 + 32) 32)

/-- The windowed mode of one head and one frame: its key, value and query are read, and its row is written. -/
theorem bodyWindow_oneFrame {x : Ctx} {d : Desc} {f g pf : Fmt} {hd u : Nat} {q kr v : SRow} {o : List Val} {c c1 : Chip}
    (ho : fmtGet d.outFmt = .fp32) (hheads : d.f 1 40 7 = 1) (hframes : d.f 1 48 12 = 1) (hf : f = fmtGet d.aFmt) (hg : g = fmtGet d.wFmt)
    (hpf : pf = fmtGet (d.f 3 50 4)) (hhd : hd = hdimOf (d.f 3 48 2)) (hu : u = 0x21 + (myJets c x).headD 0) (hres : c.residue = [])
    (hk : tensorRow x u g (d.f 2 0 23) 1 (d.f 1 24 16) hd 0 c = .ok kr c) (hv : tensorRow x u g (d.f 2 24 23) 1 (d.f 1 24 16) hd 0 c = .ok v c)
    (hq : tensorRow x u f (d.f 1 0 23) 1 (d.f 1 24 16) hd 0 c = .ok q c)
    (hrow : windowRow x pf f g (valOf .fp32 (d.f 4 0 32)) q [(true, kr)] [v.vals g] hd c = .ok o c1) :
    bodyWindow x d c = .ok () (windowWritten x d o c c1) := by
  have hjs : span (0 - d.f 2 48 8) (min (1 - 1) (0 + 31 + d.f 2 56 8) + 1 - (0 - d.f 2 48 8)) = [0] := by simp [span]
  have hsees : ([0].zip [kr]).map (fun z => (decide (0 ≤ z.1 + d.f 2 48 8 ∧ z.1 ≤ 0 + d.f 2 56 8), z.2)) = [(true, kr)] := by simp
  have hblk : chunks 32 1 [0] = [[0]] := rfl
  rw [← hsees] at hrow
  unfold bodyWindow
  rw [bind_ok (get_ok c)]
  dsimp only
  refine undefineOnStop_ok _ ?_
  rw [← hu, ← hf, ← hg, ← hpf, ← hhd, ho, hheads, hframes, List.range_one, hblk]
  refine (bind_ok (forM_one (forM_one (d := putMem c1 (sram c x.m (d.f 3 0 23)) (fp32Bytes o)) ?_))).trans (change_ok _ _)
  dsimp only [List.headD]
  rw [hjs]
  simp only [Nat.mul_one, Nat.zero_add]
  refine (bind_ok (mapM_one hk)).trans ((bind_ok (mapM_one hv)).trans (forM_one ?_))
  refine (bind_ok hq).trans ((bind_ok (residueCheck_clean hres _ _ _)).trans ((bind_ok hrow).trans ?_))
  rw [scalesOut_fp32, Bool.and_false, if_neg Bool.false_ne_true, bind_ok (convPlain_fp32 x.b o c1), writeMem_ok, packCodes_fp32,
    Nat.zero_mul, Nat.zero_mul, Nat.add_zero]

theorem windowWritten_mem (x : Ctx) (d : Desc) (o : List Val) (c c1 : Chip) : (windowWritten x d o c c1).mem =
    memWriteN (memWriteN c1.mem (sram c x.m (d.f 3 0 23)) (fp32Bytes o)) (sram c x.m (d.f 3 24 23))
      ((List.range (2 * 4096 * ceilDiv (d.f 2 48 8 + d.f 2 56 8 + 32) 32)).map (Config.freeByte c1.free)) := by
  rw [windowWritten, undefine_mem, putMem_mem, putMem_free]

/-! ### The clauses of the statement -/

/-- Each backward pass issues `bodyBackward` with what it writes; pass 1 does not look at dP. -/
theorem descCommand_backward {b : Fin 32} {k : Fin 16} {wait pass : Nat} {i : Instr} {val : Val → Val → Val → Val}
    (h : ((i, pass) = (.attnBackwardP b k wait, 1) ∧ val = fun p _ _ => p) ∨
      ((i, pass) = (.attnBackwardDs b k wait, 2) ∧ val = fun p dp e => fMul p (fAdd dp e.neg))) :
    descCommand i = some (b, k, .attn pass, bodyBackward val wait) ∧ (pass = 2 ∨ ∀ p u v e, val p u e = val p v e) := by
  rcases h with ⟨hi, rfl⟩ | ⟨hi, rfl⟩ <;> cases hi
  · exact ⟨rfl, .inr fun _ _ _ _ => rfl⟩
  · exact ⟨rfl, .inl rfl⟩

/-- Settles O15: each command runs its body on the package as launched, where its operands are read as the hypotheses say. -/
theorem attentionWritesRows : Obligations.AttentionWritesRows := by
  unfold Obligations.AttentionWritesRows
  intro b k wait s ch d js c c0 x m hr hc0 he hres hx hm
  subst hm
  obtain ⟨hb, -⟩ := headCtx_bk b k ch
  rw [← hx] at hb
  have hbody : ∀ {i : Instr} {row : RowId} {body : Ctx → Desc → Eff Unit} {e : Chip}, descCommand i = some (b, k, row, body) →
      rowOf d = some row → body x d c0 = .ok () e → SteadyPkg (pkg c0) e → exec i s = .next (s.withChip (settled e)) := by
    intro i row body e hi hrow h hn
    subst hx hc0
    exact exec_headReady_near hi hr hrow h hn
  have hstart : SteadyPkg (pkg c0) c0 := ⟨⟨he, hres, rfl⟩, by rw [hc0, launched_far]; simp⟩
  subst hb
  refine ⟨?merge, ?forward, ?backward, ?window⟩
  case merge =>
    intro rows width as out hrow ho hrows hwidth has hskew hout
    subst hrows hwidth has
    have hmerge := bodyMerge_fp32 (x := x) he hres (fmtGet_of_fmtOf ho) hskew hout rfl
    have hput := steadyPkg_putOutputRows (rAttnCtr x.b.val 1) (sram c0 x.m (d.f 2 0 23)) (roundUp (4 * d.f 2 24 10) 64) out c0 hstart
    have hmem := putOutputRows_mem (rAttnCtr x.b.val 1) (sram c0 x.m (d.f 2 0 23)) (roundUp (4 * d.f 2 24 10) 64) out c0
    have hempty := getReg_putOutputRows (rAttnCtr x.b.val 1) (sram c0 x.m (d.f 2 0 23)) (roundUp (4 * d.f 2 24 10) 64) out c0
    cases hsave : d.b 3 23
    · rw [hsave, if_neg Bool.false_ne_true] at hmerge
      exact ⟨_, hbody rfl hrow hmerge hput, sameRest_withChip s _, hmem, hempty⟩
    · rw [hsave, if_pos rfl] at hmerge
      refine ⟨_, hbody rfl hrow hmerge (steadyPkg_putMem hput _ _), sameRest_withChip s _, ?_, ?_⟩
      · exact (putMem_mem _ _ _).trans (by rw [hmem]; rfl)
      · exact (getReg_putMem _ _ _ _).trans hempty
  case forward =>
    intro a w qs rows out c1 c2 c3 base hrow ha hbase hw hq hf hs
    rw [runEff_eq_ok] at hw hq hf
    have hcounted := steadyPkg_bump (steadyPkg_of_steady hs) (rAttnCtr x.b.val 2) ((rows.map markedRow).filter (·.nan)).length
    have hsram : base = sram (nanCounted x.b rows c3) x.m (d.f 3 0 23) := hbase.trans (sram_congr x.m _ hcounted.clean.pkg).symm
    have hmem : (nanCounted x.b rows c3).mem = c3.mem := bump_mem _ _ _
    have hfree : (nanCounted x.b rows c3).free = c3.free := bump_free _ _ _
    refine ⟨fun hfin hout => ?_, fun hfin ho hout => ?_⟩
    · have hput := writePartRecord_eq x d a rows (nanCounted x.b rows c3)
      rw [← hsram] at hput
      have hforward := bodyForward_ok ha hw hq hf (by rw [if_neg (by rw [hfin]; exact Bool.false_ne_true)]; exact hput)
      refine ⟨_, hbody rfl hrow hforward (steadyPkg_undefine (steadyPkg_putRecord _ _ _ _ _ hcounted) _ _), sameRest_withChip s _, ?_⟩
      refine (undefine_mem _ _ _).trans ?_
      rw [putRecord_mem, putRecord_free, hmem, hfree, List.length_map, hout]
      rfl
    · have hput := writeOutputs_fp32 (x := x) (d.f 3 0 23) a.width (rows.map (finalised a.width)) (nanCounted x.b rows c3) (fmtGet_of_fmtOf ho)
      rw [← hsram] at hput
      have hforward := bodyForward_ok ha hw hq hf (by rw [if_pos hfin]; exact hput)
      refine ⟨_, hbody rfl hrow hforward (steadyPkg_undefine (steadyPkg_putOutputRows _ _ _ _ _ hcounted) _ _), sameRest_withChip s _, ?_⟩
      refine (undefine_mem _ _ _).trans ?_
      rw [putOutputRows_mem, putOutputRows_free, hmem, hfree, hout]
      rfl
  case backward =>
    intro i val pass a w qs fmt toks c1 c2 c3 inp out len hi hrow hpass ha hlen hout hinp hw hq hp hs
    rw [runEff_eq_ok] at hw hq hp
    obtain ⟨hdesc, hval⟩ := descCommand_backward hi
    rw [← hpass] at hval
    have hbackward := bodyBackward_ok ha hw hq hp (steadyPkg_of_steady hs) hval
    refine ⟨_, hbody hdesc hrow hbackward (steadyPkg_putBackwardRows _ _ _ _ _ _ _ _ _ _ (steadyPkg_of_steady hs)), sameRest_withChip s _, ?_⟩
    rw [hout, hinp, hlen]
    exact putBackwardRows_mem _ _ _ _ _ _ _ _ _ _
  case window =>
    intro f g pf hd base u q kr v o c1 hrow ho hheads hframes hf hg hpf hhd hbase hu hk hv hq hw hs
    rw [runEff_eq_ok] at hk hv hq hw
    have hwindow := bodyWindow_oneFrame (fmtGet_of_fmtOf ho) hheads hframes hf hg hpf hhd hu hres hk hv hq hw
    obtain ⟨o', rg, hcount⟩ := windowRow_counts x pf f g (valOf .fp32 (d.f 4 0 32)) q [(true, kr)] [v.vals g] hd c0
    have hmem : c1.mem = c0.mem := by
      have hsame := hcount.symm.trans hw
      injection hsame with _ hc1
      rw [← hc1]
    refine ⟨_, hbody rfl hrow hwindow (steadyPkg_undefine (steadyPkg_putMem (steadyPkg_of_steady hs) _ _) _ _), sameRest_withChip s _, ?_⟩
    rw [hbase, ← hmem]
    exact windowWritten_mem x d o c0 c1

end Sys2Proof.Machine
end

section
/-! PROOFS. The version in effect at a tick (R152), prefetched lines (R155, R156), waits for a coder slot (R215, R220, R233) and link
blocks (R231). -/

namespace Sys2Proof.Machine

/-! ### The version in effect at a tick (R152) -/

/-- Tick `a` follows tick `t` in the serial order where it lies in the half range after it. -/
theorem precedes_eq_false {t a : Nat} (ht : t < 2 ^ 32) (hne : ticksBefore t a ≠ 2 ^ 31) :
    precedes t a = false ↔ ticksBefore t a < 2 ^ 31 := by
  unfold precedes
  unfold ticksBefore at hne ⊢
  simp only [decide_eq_false_iff_not]
  omega

/-- Of two ticks not after `t`, the one that precedes is the one further before `t`. -/
theorem precedes_of_before {t a b : Nat} (ht : t < 2 ^ 32) (hb : b < 2 ^ 32) (hat : ticksBefore t a < 2 ^ 31)
    (hbt : ticksBefore t b < 2 ^ 31) : precedes a b = true ↔ ticksBefore t b < ticksBefore t a := by
  unfold precedes
  unfold ticksBefore at hat hbt ⊢
  simp only [decide_eq_true_eq]
  omega

/-- The later of the best version so far and the next one. -/
def laterVersion (best : Option Version) (v : Version) : Option Version :=
  match best with
  | none => some v
  | some x => if precedes x.tick v.tick then some v else some x

theorem versionAt_eq (vs : List Version) (t : Nat) :
    versionAt vs t = (vs.filter (fun v => v.live && !precedes t v.tick)).foldl laterVersion none := rfl

/-- Versions whose ticks lie less than half the range before `t`. -/
def NotAfter (t : Nat) (v : Version) : Prop := v.tick < 2 ^ 32 ∧ ticksBefore t v.tick < 2 ^ 31

/-- The fold answers the latest of the versions it has seen. -/
theorem foldl_laterVersion {t : Nat} (ht : t < 2 ^ 32) (vs : List Version) (hvs : ∀ v ∈ vs, NotAfter t v) (x : Version) (hx : NotAfter t x) :
    ∃ v, vs.foldl laterVersion (some x) = some v ∧ v ∈ x :: vs ∧ ∀ w ∈ x :: vs, ticksBefore t v.tick ≤ ticksBefore t w.tick := by
  induction vs generalizing x with
  | nil => exact ⟨x, rfl, List.mem_cons_self, fun w hw => by rw [List.mem_singleton.mp hw]⟩
  | cons y ys ih =>
    obtain ⟨hy, hys⟩ := List.forall_mem_cons.mp hvs
    have hlater := precedes_of_before ht hy.1 hx.2 hy.2
    by_cases hp : precedes x.tick y.tick = true
    · obtain ⟨v, hfold, hmem, hmin⟩ := ih hys y hy
      refine ⟨v, by rw [List.foldl_cons, laterVersion, if_pos hp]; exact hfold, List.mem_cons_of_mem _ hmem, ?_⟩
      have hxy := hlater.mp hp
      have hvy := hmin y List.mem_cons_self
      exact List.forall_mem_cons.mpr ⟨by omega, hmin⟩
    · obtain ⟨v, hfold, hmem, hmin⟩ := ih hys x hx
      obtain ⟨hvx, hrest⟩ := List.forall_mem_cons.mp hmin
      have hxy := mt hlater.mpr hp
      refine ⟨v, by rw [List.foldl_cons, laterVersion, if_neg hp]; exact hfold, ?_, ?_⟩
      · exact (List.mem_cons.mp hmem).elim (fun h => h ▸ List.mem_cons_self) fun h => List.mem_cons_of_mem _ (List.mem_cons_of_mem _ h)
      · exact List.forall_mem_cons.mpr ⟨hvx, List.forall_mem_cons.mpr ⟨by omega, hrest⟩⟩

/-- Settles O13: the fold of the LIVE versions not after the tick keeps the latest of those seen. -/
theorem versionInEffectIsLatest : Obligations.VersionInEffectIsLatest := by
  unfold Obligations.VersionInEffectIsLatest
  intro vs t ht hvs
  have hmem : ∀ v, v ∈ vs.filter (fun v => v.live && !precedes t v.tick) ↔ v ∈ vs ∧ v.live = true ∧ ticksBefore t v.tick < 2 ^ 31 := by
    intro v
    rw [List.mem_filter, Bool.and_eq_true, Bool.not_eq_true']
    exact and_congr_right fun hv => and_congr_right fun _ => precedes_eq_false ht (hvs v hv).2
  rw [versionAt_eq]
  generalize vs.filter (fun v => v.live && !precedes t v.tick) = ls at hmem
  have hls : ∀ v ∈ ls, NotAfter t v := fun v hv => ⟨(hvs v ((hmem v).mp hv).1).1, ((hmem v).mp hv).2.2⟩
  cases ls with
  | nil =>
    refine ⟨fun v hv => (nomatch hv), fun _ w hw hlive => ?_⟩
    by_contra hlt
    exact List.not_mem_nil ((hmem w).mpr ⟨hw, hlive, by omega⟩)
  | cons x xs =>
    obtain ⟨hx, hxs⟩ := List.forall_mem_cons.mp hls
    obtain ⟨v, hfold, hv, hmin⟩ := foldl_laterVersion ht xs hxs x hx
    have hfirst : (x :: xs).foldl laterVersion none = some v := hfold
    rw [hfirst]
    refine ⟨fun u hu => ?_, fun h => (nomatch h)⟩
    cases hu
    obtain ⟨hin, hlive, hbefore⟩ := (hmem v).mp hv
    exact ⟨hin, hlive, hbefore, fun w hw hl hb => hmin w ((hmem w).mpr ⟨hw, hl, hb⟩)⟩

/-! ### Prefetched lines (R155, R156) -/

section
variable {b : Fin 32} {i : Nat} {c : Chip} {x : LabFetch} (hx : c.basins[b].labFetch[i]? = some x)
include hx

/-- A read that failed, or whose version no pin holds any more, installs nothing. -/
theorem labFill_dropped {ok : Bool} (h : ok = false ∨ fetchPinned b x c = false) : labFill b i ok c = fetchOver b i x c := by
  have hdrop : (!ok || !fetchPinned b x c) = true := by rcases h with h | h <;> simp [h]
  unfold labFill
  rw [hx]
  dsimp only
  rw [if_pos]
  · rfl
  · change (!ok || !fetchPinned b x c || _ || _) = true
    rw [hdrop]
    rfl

/-- A line of this package whose version is pinned is read and installed. -/
theorem labFill_installed {d : Chip} {es : List LabLine} (hp : fetchPinned b x c = true)
    (hnear : pkgOf x.addr = pkg c) (hline : pkgOf (x.addr / 64 * 64) = pkg c)
    (hread : runEff (readLine x.root x.gen x.layer x.page x.count x.addr) c = (d, .ok es)) :
    labFill b i true c = labInstall b es (fetchOver b i x d) := by
  have hfill : runEff (fillLine b x) c = (d, .ok es) := by
    rw [runEff_eq_ok] at hread ⊢
    unfold fillLine
    rw [bind_ok (get_ok c), if_pos hline, hread]
  unfold labFill
  rw [hx]
  dsimp only
  rw [if_neg, hfill]
  · rfl
  · change ¬(!true || !fetchPinned b x c || _ || _) = true
    simp [hp, hnear, fenced_self]

end

theorem prefetchFillEndsItsRead : PrefetchFillEndsItsRead := by
  intro b i s x hx
  have hexec : ∀ ok, exec (.labPrefetchFill b i ok) s = .next (s.withChip (labFill b i ok s.chip)) := fun _ => rfl
  refine ⟨?_, fun ok hp => ?_, fun c es hp _ hnear hline hread => ?_⟩
  · rw [hexec, labFill_dropped hx (.inl rfl)]
  · rw [hexec, labFill_dropped hx (.inr hp)]
  · rw [hexec, labFill_installed hx hp hnear hline hread]

/-! ### Waits for a coder slot (R215, R220, R233) -/

section
variable {b : Fin 32} {k : Fin 16} {cycles n : Nat} {s : State} {ch : Chain} {f : Flight} (h : slotWaiter s.chip b k = some (ch, f, n))
include h

/-- Where a descriptor waits for a slot, it comes before a load that waits in the basin. -/
theorem exec_codecSlotAcquire : exec (.codecSlotAcquire b k cycles) s = .next (s.withChip (slotAcquire b k cycles s.chip)) := by
  show execCodecSlotAcquire b k cycles s = _
  unfold execCodecSlotAcquire
  rw [onChip_eq, h]

theorem exec_tableWaitTimeout : exec (.tableWaitTimeout b k cycles) s = .next (s.withChip (slotTimeout b k cycles s.chip)) := by
  show execTableWaitTimeout b k cycles s = _
  unfold execTableWaitTimeout
  rw [onChip_eq, h]

end

theorem tableWaitEndsOneWayOrTheOther : TableWaitEndsOneWayOrTheOther := by
  intro b k cycles s ch f n hw
  refine ⟨fun slot c1 c2 hen hpick hc1 hrun => ?_, ?_⟩
  · have hm : ({ ctxOf b k ch with id := f.id } : Ctx).m = (ctxOf b k ch).m := rfl
    rw [exec_codecSlotAcquire hw]
    unfold slotAcquire
    rw [hw]
    dsimp only
    rw [hen, if_pos rfl, hpick]
    dsimp only
    rw [← hc1, hrun]
  · rw [exec_tableWaitTimeout hw]
    unfold slotTimeout
    rw [hw]
    rfl

/-! ### Link blocks (R231) -/

theorem intactLinkBlockWritesRawBytes : IntactLinkBlockWritesRawBytes := by
  intro l x s bs hup hself hbytes hback hnear
  have htake : takeLinkBlock l x s.chip = putMem s.chip x.dst.toNat bs := by
    unfold takeLinkBlock
    rw [hbytes, hup, hself]
    simp [hback, hnear]
  show onChip (takeLinkBlock l x) s = _
  rw [onChip_eq, htake]

/-- Settles O25: a prefetch read, a wait for a slot and a link block each end as their rule says. -/
theorem waitsAndBlocksEnd : Obligations.WaitsAndBlocksEnd :=
  ⟨prefetchFillEndsItsRead, tableWaitEndsOneWayOrTheOther, intactLinkBlockWritesRawBytes⟩

end Sys2Proof.Machine
end

section
/-! PROOFS. Places of the cache's pages (R145, R146, R237): ranges that lie within backed ones, words of memory apart from what was written, and
roots and layer records as the operations at their home read them. -/

namespace Sys2Proof.Machine

/-! ### Ranges within backed ones (R237) -/

theorem regionOf_sram_iff (loc : Nat) (b : Fin 32) : regionOf loc = .sram b ↔
    0x80100000000 + b.val * 0x800000 ≤ loc ∧ loc < 0x80100000000 + b.val * 0x800000 + 0x600000 := by
  have hb := b.isLt
  unfold regionOf hubBase
  split_ifs <;> simp only [Region.sram.injEq, Fin.ext_iff, false_iff] <;> omega

theorem regionOf_cistern_iff (loc : Nat) (d : Fin 4) : regionOf loc = .cistern d ↔
    0x80000000000 + d.val * 0x4000000 ≤ loc ∧ loc < 0x80000000000 + d.val * 0x4000000 + 0x3000000 := by
  have hd := d.isLt
  unfold regionOf hubBase
  split_ifs <;> simp only [Region.cistern.injEq, Fin.ext_iff, false_iff] <;> omega

theorem regionOf_dram_iff (loc : Nat) : (∃ d, regionOf loc = .dram d) ↔ loc < 0x1800000000 := by
  unfold regionOf hubBase
  split_ifs <;> simp <;> omega

/-- What a backed range of some bytes is: its ends lie in one SRAM, in one cistern, or among the DRAM stacks. -/
theorem backed_iff {a n : Nat} (hn : 0 < n) : backed a n = true ↔
    ((∃ b, regionOf (locOf a + n - 1) = .sram b ∧ regionOf (locOf a) = .sram b) ∨
      (∃ d, regionOf (locOf a + n - 1) = .cistern d ∧ regionOf (locOf a) = .cistern d) ∨
      ((∃ d, regionOf (locOf a) = .dram d) ∧ ∃ d, regionOf (locOf a + n - 1) = .dram d)) ∧ pkgOf (a + n - 1) = pkgOf a := by
  have hne : (n = 0) = False := by simp; omega
  unfold backed
  cases hr : regionOf (locOf a) <;> cases hs : regionOf (locOf a + n - 1) <;>
    simp [hne, Region.joined]

/-- Every address of a backed range lies below the hub range, in the package of its first. -/
theorem backed_lt {a n : Nat} (hn : 0 < n) (h : backed a n = true) : locOf a + n ≤ hubBase := by
  obtain ⟨⟨b, hb, -⟩ | ⟨d, hd, -⟩ | ⟨-, hd⟩, -⟩ := (backed_iff hn).mp h
  · have := b.isLt; have := (regionOf_sram_iff _ _).mp hb; unfold hubBase; omega
  · have := d.isLt; have := (regionOf_cistern_iff _ _).mp hd; unfold hubBase; omega
  · have := (regionOf_dram_iff _).mp hd; unfold hubBase; omega

theorem pkgOf_add {a k : Nat} (h : locOf a + k < 2 ^ 44) : pkgOf (a + k) = pkgOf a := by
  unfold pkgOf; unfold locOf at h; omega

theorem pkgOf_within {a n k : Nat} (h : backed a n = true) (hk : k < n) : pkgOf (a + k) = pkgOf a := by
  have := backed_lt (by omega) h
  exact pkgOf_add (by unfold hubBase at this; omega)

/-- A range from the start of a backed one is backed. -/
theorem backed_mono {a n k : Nat} (h : backed a n = true) (hk : 0 < k) (hkn : k ≤ n) : backed a k = true := by
  have hpkg := pkgOf_within (k := k - 1) h (by omega)
  rw [← Nat.add_sub_assoc hk] at hpkg
  refine (backed_iff hk).mpr ⟨?_, hpkg⟩
  obtain ⟨⟨b, hb, ha⟩ | ⟨d, hd, ha⟩ | ⟨ha, hd⟩, -⟩ := (backed_iff (by omega)).mp h
  · refine .inl ⟨b, ?_, ha⟩
    rw [regionOf_sram_iff] at *; omega
  · refine .inr (.inl ⟨d, ?_, ha⟩)
    rw [regionOf_cistern_iff] at *; omega
  · refine .inr (.inr ⟨ha, ?_⟩)
    rw [regionOf_dram_iff] at *; omega

/-! ### Words of memory -/

theorem memReadN_memWriteN_out (m : Memory) (a : Nat) (bs : List Byte) {q n : Nat} (h : q + n ≤ a ∨ a + bs.length ≤ q) :
    memReadN (memWriteN m a bs) q n = memReadN m q n := by
  refine List.ext_getElem (by rw [memReadN_length, memReadN_length]) fun i hi _ => ?_
  rw [memReadN_length] at hi
  rw [memReadN_getElem, memReadN_getElem, memRead_memWriteN_out m a _ bs (by omega)]

theorem leNat_lt (bs : List Byte) : leNat bs < 256 ^ bs.length := by
  induction bs with
  | nil => exact Nat.one_pos
  | cons v vs ih =>
    have hv : v.toNat < 256 := v.isLt
    rw [leNat, List.length_cons, pow_succ]
    omega

/-- The number of two ranges side by side. -/
theorem leNat_memReadN_add (m : Memory) (a k n : Nat) :
    leNat (memReadN m a (k + n)) = leNat (memReadN m a k) + 256 ^ k * leNat (memReadN m (a + k) n) := by
  induction k generalizing a with
  | zero => simp [memReadN, leNat]
  | succ k ih =>
    rw [Nat.add_right_comm, memReadN, leNat, ih (a + 1), memReadN, leNat, pow_succ, Nat.add_right_comm a 1 k, Nat.add_assoc a k 1]
    ring

/-- The upper half of a word is the number of its upper four bytes. -/
theorem fld_word_upper (m : Memory) (a : Nat) : fld (leNat (memReadN m a 8)) 32 32 = leNat (memReadN m (a + 4) 4) := by
  have hlow := leNat_lt (memReadN m a 4)
  have hupper := leNat_lt (memReadN m (a + 4) 4)
  rw [memReadN_length] at hlow hupper
  rw [show (8 : Nat) = 4 + 4 from rfl, leNat_memReadN_add]
  unfold fld
  norm_num at *
  omega

theorem chunks_eq {α : Type} {n : Nat} (hn : 0 < n) (m : Nat) {fuel : Nat} {xs : List α} (hl : xs.length = n * m) (hf : m ≤ fuel) :
    chunks n fuel xs = (List.range m).map (fun i => (xs.drop (n * i)).take n) := by
  induction m generalizing fuel xs with
  | zero =>
    rw [List.length_eq_zero_iff.mp hl]
    cases fuel <;> rfl
  | succ m ih =>
    obtain ⟨fuel, rfl⟩ : ∃ k, fuel = k + 1 := ⟨fuel - 1, by omega⟩
    obtain ⟨y, ys, rfl⟩ := List.exists_cons_of_ne_nil (l := xs) (by rintro rfl; simp at hl; omega)
    have hrest : ((y :: ys).drop n).length = n * m := by rw [List.length_drop, hl, Nat.mul_succ]; omega
    rw [List.range_succ_eq_map, List.map_cons, List.map_map]
    refine congrArg₂ List.cons rfl ((ih hrest (by omega)).trans (List.map_congr_left fun i _ => ?_))
    rw [List.drop_drop, Function.comp_apply, Nat.mul_succ, Nat.add_comm]

/-- Word `i` from an address on. -/
def wordAt (m : Memory) (a i : Nat) : Nat := leNat (memReadN m (a + 8 * i) 8)

theorem wordsOf_memReadN (m : Memory) (a n : Nat) : wordsOf (memReadN m a (8 * n)) = (List.range n).map (wordAt m a) := by
  unfold wordsOf
  rw [chunks_eq (by omega) n (memReadN_length m a _) (by rw [memReadN_length]; omega), List.map_map]
  exact List.map_congr_left fun i hi => congrArg leNat (memReadN_slice m a (by have := List.mem_range.mp hi; omega))

theorem getD_words (m : Memory) (a : Nat) {n i : Nat} (h : i < n) : ((List.range n).map (wordAt m a)).getD i 0 = wordAt m a i := by
  simp [List.getD_eq_getElem?_getD, h]

/-! ### Writes where no word has an error (R53, R54) -/

theorem putMem_clean_ecc {c : Chip} (h : c.ecc = []) (a : Nat) (bs : List Byte) : (putMem c a bs).ecc = [] := by
  unfold putMem; split <;> simp [h]

theorem pkg_putMem (c : Chip) (a : Nat) (bs : List Byte) : pkg (putMem c a bs) = pkg c := by
  unfold Machine.pkg; rw [putMem_power]

theorem putSub_eq_putMem {c : Chip} (h : c.ecc = []) (a : Nat) (bs : List Byte) : putSub c a bs = putMem c a bs := by
  have he := putMem_clean_ecc h a bs
  unfold putSub
  rw [he, tabDel]
  exact congrArg (fun e => { putMem c a bs with ecc := e }) he.symm

theorem rmw_clean (unit a : Nat) (bs : List Byte) {c : Chip} (h : c.ecc = []) : rmw unit a bs c = .ok () (putMem c a bs) := by
  unfold rmw
  rw [bind_ok (checkEcc_clean unit _ 8 c h), change_ok, putSub_eq_putMem h]

theorem atHome_near {unit a op : Nat} {os : List Nat} {m : Eff (List Byte)} {c : Chip} (h : pkgOf a = pkg c) :
    atHome unit a op os m c = m c := by
  unfold atHome
  rw [bind_ok (get_ok c), if_pos h]

theorem ok_of_bind {α β : Type} {m : Eff α} {f : α → Eff β} {c d : Chip} {y : β} (h : (m >>= f) c = .ok y d) :
    ∃ a e, m c = .ok a e ∧ f a e = .ok y d := by
  cases hm : m c with
  | ok a e => exact ⟨a, e, rfl, (bind_ok hm).symm.trans h⟩
  | error x e => rw [bind_error hm] at h; cases h

/-- A head that may issue, whose body asks only the package itself and does not stop, leaves what its body leaves, errors of words
included. -/
theorem exec_headReady_own {b : Fin 32} {k : Fin 16} {ch : Chain} {d : Desc} {js : List Nat} {c c2 : Chip} {body : Ctx → Desc → Eff Unit}
    {i : Instr} {row : RowId} {s : State} (hi : descCommand i = some (b, k, row, body)) (hr : HeadReady s b k ch d js c)
    (hd : rowOf d = some row) (h : body (headCtx b k ch) d (launched b k ch d js c) = .ok () c2)
    (hown : ∀ q ∈ c2.fab.far, pkgOf q.addr = pkg c2) : exec i s = .next (s.withChip (settled c2)) := by
  rw [exec_headReady hi hr hd, runHead_sent ((runEff_eq_ok _ _ _ _).mpr h) (flushFar_near _ _ hown)]
  rfl

/-! ### Roots (R146, R152) -/

theorem rootAt_eq (c : Chip) (a : Nat) : rootAt c a = rootOf a ((List.range 24).map (wordAt c.mem a)) := rfl

/-- The root in 192 bytes read from its address. -/
theorem rootOf_memReadN (c : Chip) (a : Nat) : rootOf a (wordsOf (memReadN c.mem a 192)) = rootAt c a :=
  congrArg (rootOf a) (wordsOf_memReadN c.mem a 24)

theorem rootAt_layers (c : Chip) (a : Nat) : (rootAt c a).layers = fld (leNat (memReadN c.mem a 8)) 0 9 := rfl

theorem slot_lt_of_mem {a : Nat} {ws : List Nat} {v : Version} (h : v ∈ (rootOf a ws).vs) : v.slot < 4 := by
  obtain ⟨i, hi, rfl⟩ := List.mem_map.mp h
  exact List.mem_range.mp hi

theorem any_congr {α : Type} {p q : α → Bool} {l : List α} (h : ∀ x ∈ l, p x = q x) : l.any p = l.any q := by
  rw [Bool.eq_iff_iff, List.any_eq_true, List.any_eq_true]
  exact exists_congr fun x => and_congr_right fun hx => by rw [h x hx]

/-- What the checks of a root look at is all but the lower halves of its pins words. -/
theorem rootOf_congr {a : Nat} {ws us : List Nat} (hwords : ∀ i < 24, (∀ v < 4, i ≠ 10 + 4 * v) → us.getD i 0 = ws.getD i 0)
    (hpins : ∀ v < 4, fld (us.getD (10 + 4 * v) 0) 32 32 = fld (ws.getD (10 + 4 * v) 0) 32 32) :
    (rootOf a us).layers = (rootOf a ws).layers ∧ (rootOf a us).job = (rootOf a ws).job ∧ (rootOf a us).bad = (rootOf a ws).bad := by
  have h0 := hwords 0 (by omega) (by omega)
  have h1 := hwords 1 (by omega) (by omega)
  have h2 := hwords 2 (by omega) (by omega)
  have h3 := hwords 3 (by omega) (by omega)
  have hspan : ∀ i ∈ span 4 4, us.getD i 0 = ws.getD i 0 := by
    intro i hi
    obtain ⟨j, hj, rfl⟩ := List.mem_map.mp hi
    have := List.mem_range.mp hj
    exact hwords _ (by omega) (by omega)
  have hslot : ∀ v ∈ List.range 4, us.getD (8 + 4 * v) 0 = ws.getD (8 + 4 * v) 0 ∧ us.getD (9 + 4 * v) 0 = ws.getD (9 + 4 * v) 0 ∧
      us.getD (11 + 4 * v) 0 = ws.getD (11 + 4 * v) 0 := by
    intro v hv
    have := List.mem_range.mp hv
    exact ⟨hwords _ (by omega) (by omega), hwords _ (by omega) (by omega), hwords _ (by omega) (by omega)⟩
  refine ⟨by simp only [rootOf, h0], by simp only [rootOf, h0], ?_⟩
  simp only [rootOf, h0, h1, h2, h3]
  congr 3
  · exact congrArg _ (any_congr fun i hi => by rw [hspan i hi])
  · refine any_congr fun v hv => ?_
    obtain ⟨e8, e9, e11⟩ := hslot v hv
    rw [e8, e9, e11, hpins v (List.mem_range.mp hv)]

end Sys2Proof.Machine
end

section
/-! PROOFS. KV_PAGE (R163, R166, R169 to R171): each operation on a root of this package where no word has an error. -/

namespace Sys2Proof.Machine

/-! ### A root that may be named (R152, R153) -/

section
variable {c : Chip} {d : Desc} {a : Nat} {r : Root} (hg : RootGood c d a r)
include hg

theorem backed_of_rootGood : backed a (192 + 32 * r.layers) = true := by
  obtain ⟨-, -, h⟩ := hg.placed
  exact h

/-- Every record of a layer of the root lies in backed memory of its package. -/
theorem layer_backed {n : Nat} (hn : n ≤ r.layers) : backed a (192 + 32 * n) = true :=
  backed_mono (backed_of_rootGood hg) (by omega) (by omega)

theorem pkgOf_layer {l : Nat} (hl : l < r.layers) : pkgOf (a + 192 + 32 * l) = pkg c := by
  rw [Nat.add_assoc, pkgOf_within (backed_of_rootGood hg) (by omega), hg.here]

theorem addr_of_rootGood : r.addr = a := by rw [hg.read]; rfl

theorem rootPlaced_good : rootPlaced a c = .ok () c := by
  obtain ⟨halign, hback, hroot⟩ := hg.placed
  rw [hg.read, rootAt_layers] at hroot
  have hfence : fenced c (pkgOf a) = false := by rw [hg.here]; exact fenced_self c
  unfold rootPlaced
  rw [bind_ok (get_ok c), bind_ok (stopIf_passes (by simp [halign, hback]) _ _ _ c), bind_ok (stopIf_passes hfence _ _ _ c), if_pos hg.here,
    bind_ok (readNat_clean kvUnit a 8 c hg.clean hg.here)]
  exact stopIf_passes (by rw [hroot]; rfl) _ _ _ c

theorem rootRefused_good {n : Nat} (hn : n ≤ r.layers) : rootRefused r d.job n = false := by
  simp [rootRefused, hg.good, hg.job, hn]

theorem kvPageRoot_good {n : Nat} (ha : a = d.f 1 0 48) (hn : n ≤ r.layers) : kvPageRoot d n c = .ok r c := by
  unfold kvPageRoot
  rw [← ha, bind_ok (rootPlaced_good hg), bind_ok ((atHome_near hg.here).trans (readMem_clean kvUnit a 192 c hg.clean hg.here)),
    rootOf_memReadN, ← hg.read, bind_ok (stopIf_passes (rootRefused_good hg hn) _ _ _ c)]
  rfl

end

theorem writeResult_ok (m : Fin 32) (d : Desc) (r : Root) (wrote : Option (Nat × Bool)) (c : Chip) :
    writeResult m d r wrote c = .ok () (putMem c (sram c m (d.f 3 0 23)) (resultBytes c r wrote)) := rfl

/-- Pins of a slot written leave a root that may be named one that may. -/
theorem rootGood_putPins {c : Chip} {d : Desc} {a s : Nat} {r : Root} (hg : RootGood c d a r) (hs : s < 4) {bs : List Byte}
    (hlen : bs.length = 4) : RootGood (putMem c (pinsAddr a s) bs) d a (rootAt (putMem c (pinsAddr a s) bs) a) := by
  have hmem := putMem_mem c (pinsAddr a s) bs
  have hword : ∀ i, i ≠ 10 + 4 * s → wordAt (putMem c (pinsAddr a s) bs).mem a i = wordAt c.mem a i := fun i hi => by
    rw [hmem]
    exact congrArg leNat (memReadN_memWriteN_out c.mem _ bs (by unfold pinsAddr; omega))
  have hupper : ∀ i, fld (wordAt (putMem c (pinsAddr a s) bs).mem a i) 32 32 = fld (wordAt c.mem a i) 32 32 := fun i => by
    rw [hmem, wordAt, wordAt, fld_word_upper, fld_word_upper, memReadN_memWriteN_out c.mem _ bs (by unfold pinsAddr; omega)]
  obtain ⟨hlayers, hjob, hbad⟩ := rootOf_congr (a := a) (ws := (List.range 24).map (wordAt c.mem a))
    (us := (List.range 24).map (wordAt (putMem c (pinsAddr a s) bs).mem a))
    (fun i hi hv => by rw [getD_words _ _ hi, getD_words _ _ hi, hword i (hv s hs)])
    (fun v hv => by rw [getD_words _ _ (by omega), getD_words _ _ (by omega), hupper])
  rw [← rootAt_eq, ← rootAt_eq, ← hg.read] at hlayers hjob hbad
  obtain ⟨halign, hback, hroot⟩ := hg.placed
  exact ⟨by rw [pkg_putMem]; exact hg.here, putMem_clean_ecc hg.clean _ _, ⟨halign, hback, by rw [hlayers]; exact hroot⟩, rfl,
    by rw [hbad]; exact hg.good, by rw [hjob]; exact hg.job⟩

/-! ### QUERY and CLEAR_PINS (R169, R171) -/

section
variable {c : Chip} {d : Desc} {a : Nat} {r : Root} (hg : RootGood c d a r) (ha : a = d.f 1 0 48) (m : Fin 32)
include hg ha

theorem kvQuery_good : kvQuery m d c = .ok () (putMem c (sram c m (d.f 3 0 23)) (resultBytes c r none)) := by
  unfold kvQuery
  rw [bind_ok (kvPageRoot_good hg ha (Nat.zero_le _)), writeResult_ok]

theorem kvClearPins_good {e : Chip} (he : e = putMem c (pinsAddr a (d.f 4 38 2)) (leBytes 4 0)) :
    kvClearPins m d c = .ok () (putMem e (sram c m (d.f 3 0 23)) (resultBytes e (rootAt e a) none)) := by
  have hafter := rootGood_putPins hg (s := d.f 4 38 2) (fld_lt _ _ _) (bs := leBytes 4 0) (leBytes_length 4 0)
  have hclear : ∀ op os, atHome kvUnit a op os (do
      rmw kvUnit (pinsAddr a (d.f 4 38 2)) (leBytes 4 0)
      pure []) c = .ok [] e := fun op os => by
    rw [atHome_near hg.here, bind_ok (rmw_clean kvUnit _ _ hg.clean), ← he]
    rfl
  rw [← he] at hafter
  unfold kvClearPins
  rw [bind_ok (kvPageRoot_good hg ha (Nat.zero_le _)), addr_of_rootGood hg, bind_ok (hclear _ _), bind_ok (kvPageRoot_good hafter ha (Nat.zero_le _)),
    writeResult_ok, sram_congr (c := c) (e := e) m _ (by rw [he, pkg_putMem])]

end

/-! ### PUBLISH (R166) -/

/-- The highest generation of the LIVE slots. -/
theorem foldl_max_gen {vs : List Version} {x : Version} (hx : x ∈ vs) (hl : x.live = true)
    (hmax : ∀ y ∈ vs, y.live = true → y.gen ≤ x.gen) : (vs.filter (·.live)).foldl (fun g y => max g y.gen) 0 = x.gen := by
  obtain ⟨hle, hge⟩ := foldl_each (f := fun g (y : Version) => max g y.gen) (I := fun g => g ≤ x.gen) (P := fun y g => y.gen ≤ g)
    (vs.filter (·.live)) (fun g y hy hg => max_le hg (hmax y (List.mem_filter.mp hy).1 (List.mem_filter.mp hy).2))
    (fun g y _ _ => le_max_right g y.gen) (fun g y _ z _ _ hz => le_trans hz (le_max_left g y.gen)) (Nat.zero_le x.gen)
  exact le_antisymm hle (hge x (List.mem_filter.mpr ⟨hx, hl⟩))

/-- What PUBLISH answers from the root's home. -/
def publishAnswer (e : Chip) (a slot : Nat) (replaced : Bool) : List Byte :=
  memReadN e.mem a 192 ++ leBytes 1 slot ++ leBytes 1 (b2n replaced)

theorem rootOf_publishAnswer (e : Chip) (a slot : Nat) (replaced : Bool) :
    rootOf a (wordsOf ((publishAnswer e a slot replaced).take 192)) = rootAt e a := by
  rw [publishAnswer, List.append_assoc, List.take_left' (memReadN_length _ _ _), rootOf_memReadN]

theorem slot_publishAnswer (e : Chip) (a : Nat) {slot : Nat} (h : slot < 4) (replaced : Bool) :
    ((publishAnswer e a slot replaced).getD 192 0).toNat = slot ∧ (((publishAnswer e a slot replaced).getD 193 0).toNat == 1) = replaced := by
  have hget : ∀ i, (publishAnswer e a slot replaced).getD (192 + i) 0 = (leBytes 1 slot ++ leBytes 1 (b2n replaced)).getD i 0 := fun i => by
    have hlen := memReadN_length e.mem a 192
    rw [publishAnswer, List.append_assoc, List.getD_append_right _ _ _ _ (by omega), hlen, Nat.add_sub_cancel_left]
  rw [hget 0, hget 1]
  refine ⟨?_, by cases replaced <;> rfl⟩
  show (BitVec.ofNat 8 slot).toNat = slot
  rw [BitVec.toNat_ofNat]
  omega

section
variable {c : Chip} {d : Desc} {a : Nat} {r : Root} (hg : RootGood c d a r)
include hg

/-- Once a slot is written, the root is read as it then stands. -/
theorem publishEnd_ok {e : Chip} (hclean : e.ecc = []) (hpkg : pkg e = pkg c) (s : Nat × Bool) : (do
      let bs ← readMem kvUnit a 192
      pure (bs ++ leBytes 1 s.1 ++ leBytes 1 (b2n s.2))) e = .ok (publishAnswer e a s.1 s.2) e := by
  rw [bind_ok (readMem_clean kvUnit a 192 e hclean (hg.here.trans hpkg.symm))]
  rfl

/-- A version for the next tick that stands has its body replaced. -/
theorem publishAtHome_replaces {body : Nat} {v : Version} {e : Chip}
    (hv : r.vs.find? (fun v => v.live && v.tick == (tickOf c + 1) % 2 ^ 32) = some v)
    (he : e = putMem c (a + 64 + 32 * v.slot + 8) (leBytes 8 body)) :
    publishAtHome a d.job body c = .ok (publishAnswer e a v.slot true) e := by
  have hput : writeNat (a + 64 + 32 * v.slot + 8 * 1) 8 body c = .ok () e := by rw [he]; rfl
  unfold publishAtHome
  rw [bind_ok (readMem_clean kvUnit a 192 c hg.clean hg.here), rootOf_memReadN, ← hg.read]
  dsimp only
  rw [bind_ok (stopIf_passes (rootRefused_good hg (Nat.zero_le _)) _ _ _ c), bind_ok (get_ok c), hv]
  dsimp only
  refine (bind_ok ((bind_ok hput).trans (pure_ok (v.slot, true) e))).trans ?_
  exact publishEnd_ok hg (by rw [he]; exact putMem_clean_ecc hg.clean _ _) (by rw [he, pkg_putMem]) _

/-- Otherwise the first slot that is not LIVE takes the body, with the next generation. -/
theorem publishAtHome_takes {body : Nat} {v x : Version} {e : Chip}
    (hnone : r.vs.find? (fun v => v.live && v.tick == (tickOf c + 1) % 2 ^ 32) = none) (hv : r.vs.find? (fun v => !v.live) = some v)
    (hx : x ∈ r.vs) (hl : x.live = true) (hmax : ∀ y ∈ r.vs, y.live = true → y.gen ≤ x.gen)
    (he : e = putMem (putMem (putMem c (a + 64 + 32 * v.slot + 8) (leBytes 8 body)) (a + 64 + 32 * v.slot + 16) (leBytes 8 0))
      (a + 64 + 32 * v.slot) (leBytes 8 ((x.gen + 1) % 2 ^ 16 + 2 ^ 16 + (tickOf c + 1) % 2 ^ 32 * 2 ^ 32))) :
    publishAtHome a d.job body c = .ok (publishAnswer e a v.slot false) e := by
  have hlive : r.vs.any (·.live) = true := List.any_eq_true.mpr ⟨x, hx, hl⟩
  have hclean : e.ecc = [] := by rw [he]; exact putMem_clean_ecc (putMem_clean_ecc (putMem_clean_ecc hg.clean _ _) _ _) _ _
  have hpkg : pkg e = pkg c := by rw [he, pkg_putMem, pkg_putMem, pkg_putMem]
  unfold publishAtHome
  rw [bind_ok (readMem_clean kvUnit a 192 c hg.clean hg.here), rootOf_memReadN, ← hg.read]
  dsimp only
  rw [bind_ok (stopIf_passes (rootRefused_good hg (Nat.zero_le _)) _ _ _ c), bind_ok (get_ok c), hnone]
  dsimp only
  rw [hv, Option.some_or]
  dsimp only
  rw [hlive, if_pos rfl, foldl_max_gen hx hl hmax]
  have hwrite : (do
      writeNat (a + 64 + 32 * v.slot + 8 * 1) 8 body
      writeNat (a + 64 + 32 * v.slot + 8 * 2) 8 0
      writeNat (a + 64 + 32 * v.slot + 8 * 0) 8 ((x.gen + 1) % 2 ^ 16 + 2 ^ 16 + (tickOf c + 1) % 2 ^ 32 * 2 ^ 32)
      pure (v.slot, false) : Eff (Nat × Bool)) c = .ok (v.slot, false) e := by rw [he]; rfl
  exact (bind_ok hwrite).trans (publishEnd_ok hg hclean hpkg _)

theorem kvPublish_answered (ha : a = d.f 1 0 48) (m : Fin 32) {slot : Nat} {replaced : Bool} {e : Chip} (hs : slot < 4)
    (hpkg : pkg e = pkg c) (h : publishAtHome a d.job (d.f 2 0 48) c = .ok (publishAnswer e a slot replaced) e) :
    kvPublish m d c = .ok () (putMem e (sram c m (d.f 3 0 23)) (resultBytes e (rootAt e a) (some (slot, replaced)))) := by
  obtain ⟨hslot, hrep⟩ := slot_publishAnswer e a hs replaced
  unfold kvPublish
  rw [← ha, bind_ok (rootPlaced_good hg), bind_ok ((atHome_near hg.here).trans h), rootOf_publishAnswer, hslot, hrep, writeResult_ok,
    sram_congr m _ hpkg]

end

/-! ### Records of layers (R146, R147) -/

theorem putLayer_ok (root l : Nat) (x : LayerRec) (c : Chip) :
    putLayer root l x c = .ok () (putMem c (root + 192 + 32 * l) ((layerWords x).flatMap (leBytes 8))) := rfl

/-- The words of a record without tails. -/
theorem layerWords_noTails (len acc : Nat) : layerWords { len := len, acc := acc, tails := [] } = [len + acc * 2 ^ 21, 0, 0, 0] := by
  simp [layerWords, b2n]

/-- A layer of a root of this package is read at once. -/
theorem readLayers_near {root l : Nat} {c : Chip} (h : pkgOf root = pkg c) : readLayers root l 1 c = (do
    let bs ← layersAtHome root l 1
    pure ((chunks 32 1 bs).map layerOf) : Eff (List (LayerRec × Bool))) c := by
  have hpieces : (pieces 8 l 1).map (fun p => (p.1, p.2)) = [(l, 1)] := rfl
  unfold readLayers
  rw [hpieces, bind_ok (get_ok c), if_pos h]
  cases hread : layersAtHome root l 1 c with
  | ok bs e =>
    rw [bind_ok (mapM_one (f := fun p : Nat × Nat => layersAtHome root p.1 p.2) (a := (l, 1)) hread), bind_ok hread]
    simp only [List.flatten_cons, List.flatten_nil, List.append_nil]
  | error x e =>
    have hlist : [(l, 1)].mapM (fun p : Nat × Nat => layersAtHome root p.1 p.2) c = .error x e := by
      rw [List.mapM_cons]
      exact bind_error hread
    rw [bind_error hlist, bind_error hread]

section
variable {c : Chip} {d : Desc} {a : Nat} {r : Root} (hg : RootGood c d a r) {l : Nat} (hl : l < r.layers)
include hg hl

theorem layersAtHome_good : layersAtHome a l 1 c = .ok (memReadN c.mem (a + 192 + 32 * l) 32) c := by
  unfold layersAtHome
  rw [bind_ok (stopIf_passes (by rw [layer_backed hg hl]; rfl) _ _ _ c)]
  exact readMem_clean kvUnit _ 32 c hg.clean (pkgOf_layer hg hl)

end

/-- A record whose tails are not valid and whose reserved bits are 0. -/
theorem layerOf_noTails {bs : List Byte} {w : List Nat} (hw : wordsOf bs = w) (h0 : fld (w.getD 0 0) 42 22 = 0)
    (h3 : fld (w.getD 3 0) 32 32 = 0) :
    layerOf bs = ({ len := fld (w.getD 0 0) 0 21, acc := fld (w.getD 0 0) 21 21, tails := [] }, false) := by
  have htail : ∀ t < 2, bit (w.getD 0 0) (42 + t) = false := fun t ht => by
    have h := testBit_fld (w.getD 0 0) 42 22 t
    rw [h0, Nat.zero_testBit, decide_eq_true (by omega : t < 22), Bool.true_and] at h
    exact h.symm
  have hres : fld (w.getD 0 0) 44 20 = 0 := by unfold fld at h0 ⊢; omega
  have hnone : ∀ g : Nat → Nat × Nat × Nat, (List.range 2).filterMap (fun t => if bit (w.getD 0 0) (42 + t) then some (g t) else none) = [] :=
    fun g => List.filterMap_eq_nil_iff.mpr fun t ht => by rw [htail t (List.mem_range.mp ht)]; rfl
  unfold layerOf
  rw [hw]
  dsimp only
  rw [hnone, hres, h3]
  rfl

/-! ### RESOLVE and TRIM (R163) -/

section
variable {c : Chip} {d : Desc} {a : Nat} {r : Root} (hg : RootGood c d a r) {l : Nat} (hl : l < r.layers) {x : LayerRec}
  (hx : layerOf (memReadN c.mem (a + 192 + 32 * l) 32) = (x, false)) (hnt : x.tails = []) {trim : Bool} {n len : Nat}
  (hlen : revertLens trim n x = some len)
include hg hl hx hnt hlen

/-- The operation at the root's home writes the record with its new LEN and ACC_LEN. -/
theorem revertAtHome_one (ws : List Nat) : revertAtHome a trim l 1 n ws c =
    .ok (leBytes 4 1) (putMem c (a + 192 + 32 * l) (([len + len * 2 ^ 21, 0, 0, 0] : List Nat).flatMap (leBytes 8))) := by
  have hlist : (chunks 32 1 (memReadN c.mem (a + 192 + 32 * l) 32)).map layerOf = [(x, false)] := by
    rw [chunks_eq (by omega) 1 (memReadN_length _ _ _) le_rfl, List.range_one, List.map_singleton, List.map_singleton, List.drop_zero,
      List.take_of_length_le (memReadN_length _ _ _).le, hx]
  have hrec : revertLayer len 0 ws x = { len := len, acc := len, tails := [] } := by unfold revertLayer; rw [hnt]; rfl
  unfold revertAtHome
  rw [bind_ok (layersAtHome_good hg hl)]
  simp only [hlist, List.map_cons, List.map_nil, hlen, List.range_one]
  rw [bind_ok (stopIf_passes (by rfl) _ _ _ c), bind_ok (stopIf_passes (by rfl) _ _ _ c)]
  refine (bind_ok (forM_one (d := putMem c (a + 192 + 32 * l) (([len + len * 2 ^ 21, 0, 0, 0] : List Nat).flatMap (leBytes 8))) ?_)).trans
    (pure_ok _ _)
  dsimp only
  rw [Option.getD_some, hrec, putLayer_ok, layerWords_noTails, Nat.add_zero l]

theorem kvRevert_one (b : Fin 32) (ha : a = d.f 1 0 48) (hfirst : l = d.f 4 0 8) (hcount : d.f 4 8 9 = 1) (hn : n = d.f 4 17 21) :
    kvRevert trim b d c = .ok () (bump (putMem c (a + 192 + 32 * l) (([len + len * 2 ^ 21, 0, 0, 0] : List Nat).flatMap (leBytes 8)))
      (rKvCtr b.val 3) (x.len - len)) := by
  have hread : readLayers a l 1 c = .ok [(x, false)] c := by
    rw [readLayers_near hg.here, bind_ok (layersAtHome_good hg hl), chunks_eq (by omega) 1 (memReadN_length _ _ _) le_rfl, List.range_one,
      List.map_singleton, List.map_singleton, List.drop_zero, List.take_of_length_le (memReadN_length _ _ _).le, hx]
    rfl
  unfold kvRevert
  rw [← hfirst, hcount, ← hn]
  dsimp only
  rw [bind_ok (kvPageRoot_good hg ha hl), bind_ok (get_ok c), addr_of_rootGood hg, bind_ok hread, bind_ok (stopIf_passes (by rfl) _ _ _ c),
    bind_ok (stopIf_passes (by simp [hlen]) _ _ _ c)]
  refine (bind_ok (mapM_one (b := []) (d := c) ?_)).trans ?_
  · dsimp only
    rw [hnt]
    rfl
  · rw [bind_ok ((atHome_near hg.here).trans (revertAtHome_one hg hl hx hnt hlen _)), change_ok]
    simp [hlen]

end

/-! ### FOLD_TAIL (R170) -/

/-- A tail that the body holds is dropped from its record. -/
theorem kvFoldTail_one {x : Ctx} {d : Desc} {c c1 c2 : Chip} {a l i e : Nat} {r : Root} {y : LayerRec} {w w2 : Walk} (hg : RootGood c d a r)
    (ha : a = d.f 1 0 48) (hfirst : l = d.f 4 0 8) (hcount : d.f 4 8 9 = 1) (hpin : kvPin x a (d.f 5 0 32) l c = .ok w c1)
    (hcheck : kvCheck d.job none (fun _ _ => false) w c1 = .ok w2 c1) (hread : readLayers a l 1 c1 = .ok [(y, false)] c1)
    (ht : y.tails = [(0, i, e)]) (htent : entTent e = false) (hi : i < w2.pages) (hentry : kvEntry x.b w2 l [] i c1 = .ok (e, true) c2)
    (hnear : pkgOf a = pkg c2) (hagain : readLayers a l 1 c2 = .ok [(y, false)] c2) (hv : entV e = true) (hcow : entCow e = false) :
    kvFoldTail x d c =
      .ok () (putMem c2 (a + 192 + 32 * l) (([y.len + y.acc * 2 ^ 21, 0, 0, 0] : List Nat).flatMap (leBytes 8))) := by
  have hnamed : tailNamed (tailWords [(0, 0)] 1) 0 0 = true := by decide
  have hfilter : y.tails.filter (fun q => !entTent q.2.2) = [(0, i, e)] := by rw [ht]; simp [htent]
  obtain ⟨bs, c', hbs, hpure⟩ := ok_of_bind ((readLayers_near hnear).symm.trans hagain)
  injection hpure with hlist hc'
  rw [hc'] at hbs
  have hfold : foldAtHome a l 1 (tailWords [(0, 0)] 1) c2 =
      .ok (leBytes 4 1) (putMem c2 (a + 192 + 32 * l) (([y.len + y.acc * 2 ^ 21, 0, 0, 0] : List Nat).flatMap (leBytes 8))) := by
    have hrec : ({ y with tails := y.tails.filter (fun q => !tailNamed (tailWords [(0, 0)] 1) 0 q.1) } : LayerRec) =
        { len := y.len, acc := y.acc, tails := [] } := by rw [ht]; simp [hnamed]
    unfold foldAtHome
    rw [bind_ok hbs, hlist, List.range_one]
    refine (bind_ok (forM_one ?_)).trans (pure_ok _ _)
    dsimp only
    rw [hrec, putLayer_ok, layerWords_noTails, Nat.add_zero l]
  unfold kvFoldTail
  rw [← ha, ← hfirst, hcount, Nat.add_sub_cancel]
  dsimp only
  rw [bind_ok (rootPlaced_good hg), bind_ok hpin, bind_ok hcheck, bind_ok hread, bind_ok (stopIf_passes (by rfl) _ _ _ c1)]
  refine (bind_ok (mapM_one (b := [(0, 0)]) (d := c2) ?_)).trans ?_
  · dsimp only
    rw [hfilter]
    refine mapM_one ?_
    dsimp only
    rw [if_pos hi, Nat.add_zero, bind_ok hentry]
    dsimp only
    rw [bind_ok (stopIf_passes (by simp [hv, hcow]) _ _ _ c2)]
    rfl
  · rw [List.flatten_singleton, bind_ok ((atHome_near hnear).trans hfold)]
    rfl

/-! ### The clauses of the statement -/

theorem kvPageOperations : KvPageOperations := by
  intro b k s ch d js c c0 m a out next r hr hc0 hm ha hg hout hnext
  obtain ⟨hb, -⟩ := headCtx_bk b k ch
  have hfar : c0.fab.far = [] := by rw [hc0]; exact launched_far b k ch d js c
  subst hm hout
  have hrun : ∀ {i : Instr} {row : RowId} {body : Ctx → Desc → Eff Unit} {e : Chip}, descCommand i = some (b, k, row, body) →
      rowOf d = some row → body (headCtx b k ch) d c0 = .ok () e → e.fab.far = [] → exec i s = .next (s.withChip (settled e)) := by
    intro i row body e hi hrow h hf
    subst hc0
    exact exec_headReady_ok hi hr hrow h hf
  refine ⟨?query, ?clear, ?replace, ?take, ?revert, ?fold⟩
  case query =>
    intro hrow
    exact hrun (i := .query b k) rfl hrow (kvQuery_good hg ha _) (by rw [putMem_fab, hfar])
  case clear =>
    intro e hrow he
    exact hrun (i := .clearPins b k) rfl hrow (kvClearPins_good hg ha _ he) (by rw [putMem_fab, he, putMem_fab, hfar])
  case replace =>
    intro v e hrow hv he
    subst hnext
    have hslot : v.slot < 4 := slot_lt_of_mem (hg.read ▸ List.mem_of_find?_eq_some hv)
    exact hrun (i := .publish b k) rfl hrow (kvPublish_answered hg ha _ hslot (by rw [he, pkg_putMem]) (publishAtHome_replaces hg hv he))
      (by rw [putMem_fab, he, putMem_fab, hfar])
  case take =>
    intro v x e hrow hnone hv hx hl hmax he
    subst hnext
    have hslot : v.slot < 4 := slot_lt_of_mem (hg.read ▸ List.mem_of_find?_eq_some hv)
    exact hrun (i := .publish b k) rfl hrow
      (kvPublish_answered hg ha _ hslot (by rw [he, pkg_putMem, pkg_putMem, pkg_putMem]) (publishAtHome_takes hg hnone hv hx hl hmax he))
      (by rw [putMem_fab, he, putMem_fab, putMem_fab, putMem_fab, hfar])
  case revert =>
    intro l len acc n w hfirst hcount hl hw h0 h3 hlen hacc hn
    have hx := layerOf_noTails ((wordsOf_memReadN c0.mem (a + 192 + 32 * l) 4).trans hw.symm) h0 h3
    rw [← hlen, ← hacc] at hx
    refine ⟨fun hrow hle => ?_, fun hrow hle => ?_⟩
    · have hnew : revertLens false n { len := len, acc := acc, tails := [] } = some (acc + n) := by
        simp [revertLens, Nat.not_lt.mpr hle]
      have hbody := kvRevert_one hg hl hx rfl hnew b ha hfirst hcount hn
      exact hrun (i := .resolve b k) rfl hrow (show kvResolve (headCtx b k ch).b d c0 = _ from by rw [hb]; exact hbody)
        (by rw [bump_fab, putMem_fab, hfar])
    · have hnew : revertLens true n { len := len, acc := acc, tails := [] } = some n := by
        simp [revertLens, Nat.not_lt.mpr hle]
      have hbody := kvRevert_one hg hl hx rfl hnew b ha hfirst hcount hn
      exact hrun (i := .trim b k) rfl hrow (show kvTrim (headCtx b k ch).b d c0 = _ from by rw [hb]; exact hbody)
        (by rw [bump_fab, putMem_fab, hfar])
  case fold =>
    intro l e i x w w2 c1 c2 hrow hfirst hcount hpin hcheck hread ht htent hi hentry hown hnear hagain hv hcow
    rw [runEff_eq_ok] at hpin hcheck hread hentry hagain
    rw [← hb] at hentry
    have hbody := kvFoldTail_one hg ha hfirst hcount hpin hcheck hread ht htent hi hentry hnear hagain hv hcow
    subst hc0
    exact exec_headReady_own (i := .foldTail b k) rfl hr hrow hbody (fun q hq => by
      rw [putMem_fab] at hq; rw [pkg_putMem]; exact hown q hq)

end Sys2Proof.Machine
end

section
/-! PROOFS. A jet multiply of one row (R33, R46, R478): what takes the row as it is complete runs once, after everything that the multiply
does. -/

namespace Sys2Proof.Machine

/-! ### Lists of effects -/

theorem foldlM_congr_mem {σ α : Type} {f g : σ → α → Eff σ} (l : List α) (h : ∀ s, ∀ a ∈ l, f s a = g s a) (s : σ) :
    l.foldlM f s = l.foldlM g s := by
  induction l generalizing s with
  | nil => rfl
  | cons a l ih =>
    rw [List.foldlM_cons, List.foldlM_cons, h s a List.mem_cons_self]
    exact bind_congr fun t => ih (fun s b hb => h s b (List.mem_cons_of_mem _ hb)) t

/-- What every step that ends keeps holds where the list ends. -/
theorem foldlM_keeps {σ α : Type} {f : σ → α → Eff σ} {I : σ → Prop} (l : List α)
    (h : ∀ s, ∀ a ∈ l, ∀ c t e, I s → f s a c = .ok t e → I t) {s t : σ} {c e : Chip}
    (hr : l.foldlM f s c = .ok t e) (hs : I s) : I t := by
  induction l generalizing s c with
  | nil => cases hr; exact hs
  | cons a l ih =>
    rw [List.foldlM_cons] at hr
    obtain ⟨u, c', hstep, hrest⟩ := ok_of_bind hr
    exact ih (fun s b hb => h s b (List.mem_cons_of_mem _ hb)) hrest (h s a List.mem_cons_self c u c' hs hstep)

/-- Steps numbered from 0 that end as others do, under what the steps before them leave. -/
theorem foldlM_range_ok {σ : Type} {f g : σ → Nat → Eff σ} {I : Nat → σ → Prop} (n : Nat)
    (h : ∀ i < n, ∀ s c t e, I i s → g s i c = .ok t e → f s i c = .ok t e ∧ I (i + 1) t) {s t : σ} {c e : Chip} (hs : I 0 s)
    (hr : (List.range n).foldlM g s c = .ok t e) : (List.range n).foldlM f s c = .ok t e ∧ I n t := by
  induction n generalizing t e with
  | zero => cases hr; exact ⟨rfl, hs⟩
  | succ n ih =>
    rw [List.range_succ, List.foldlM_append] at hr ⊢
    obtain ⟨u, c', hinit, hlast⟩ := ok_of_bind hr
    obtain ⟨hf, hu⟩ := ih (fun i hi => h i (by omega)) hinit
    obtain ⟨v, c'', hone, hnil⟩ := ok_of_bind hlast
    cases hnil
    obtain ⟨hstep, ht⟩ := h n (by omega) u c' _ _ hu hone
    exact ⟨(bind_ok hf).trans (foldlM_one hstep), ht⟩

theorem mapM_length {α β : Type} {f : α → Eff β} (l : List α) {bs : List β} {c e : Chip} (h : l.mapM f c = .ok bs e) :
    bs.length = l.length := by
  induction l generalizing bs c with
  | nil => cases h; rfl
  | cons a l ih =>
    rw [List.mapM_cons] at h
    obtain ⟨y, c', -, hrest⟩ := ok_of_bind h
    obtain ⟨ys, c'', hys, hpure⟩ := ok_of_bind hrest
    cases hpure
    rw [List.length_cons, List.length_cons, ih hys]

theorem tabGet_tabSet_self {α : Type} (d : α) (m : Tab α) (n : Nat) (v : α) : tabGet d (tabSet m n v) n = v := by
  unfold tabGet; rw [tabFind_tabSet_self]; rfl

/-! ### One row passes through the tiles -/

section
variable (p : Prod) (pt : Port) (r : Nat)

/-- A row that passes one tile is taken after everything else. -/
theorem passTile_row (held : Option (Tab (List Nat))) (cols : List (List Sc16 × List Nat)) (k0 kc : Nat) (done : Nat → List Cell → Eff Unit)
    (s : JetSt) : passTile p pt held cols k0 kc done [r] s = (do
      let t ← passTile p pt held cols k0 kc (fun _ _ => pure ()) [r] s
      done r (tabGet [] t.cells r)
      pure t) := by
  unfold passTile
  simp only [List.foldlM_cons, List.foldlM_nil, bind_pure, bind_assoc]
  refine bind_congr fun ⟨sc, as, a⟩ => ?_
  dsimp only
  generalize rowTile p sc as cols (tabGet [] s.cells r) = q
  obtain ⟨cs, sat⟩ := q
  simp only [pure_bind, tabGet_tabSet_self]

/-- A row that passes the tiles of a column tile, one at least, is taken after everything else. -/
theorem reduceTile_row (held : Option (Tab (List Nat))) (j : Nat) (done : Nat → List Cell → Eff Unit) (s : JetSt)
    (hk : ceilDiv p.k (tileOf p.wFmt p.gang).1 ≠ 0) : reduceTile p pt held j done [r] s = (do
      let t ← reduceTile p pt held j (fun _ _ => pure ()) [r] s
      done r (tabGet [] t.cells r)
      pure t) := by
  obtain ⟨kn, hkn⟩ := Nat.exists_eq_succ_of_ne_zero hk
  unfold reduceTile
  simp only [hkn, List.range_succ, List.foldlM_append, List.foldlM_cons, List.foldlM_nil, bind_pure, bind_assoc, ite_self, if_true,
    Nat.succ_eq_add_one]
  refine (congrArg (· >>= _) (foldlM_congr_mem (List.range kn) (fun s i hi => ?_) s)).trans (bind_congr fun t => bind_congr fun ⟨cols, w⟩ => ?_)
  · have hne : ¬ i + 1 = kn + 1 := by have := List.mem_range.mp hi; omega
    simp only [if_neg hne]
  · exact passTile_row p pt r held cols _ _ done _

end

/-! ### How many accumulators a row has -/

section
variable {p : Prod} {pt : Port} {c e : Chip}

theorem loadTile_length {w w' : Src} {i j : Nat} {cols : List (List Sc16 × List Nat)} (h : loadTile p pt w i j c = .ok (cols, w') e) :
    cols.length = min (tileOf p.wFmt p.gang).2 (p.n - j * (tileOf p.wFmt p.gang).2) := by
  unfold loadTile at h
  obtain ⟨scs, c', hscs, hrest⟩ := ok_of_bind h
  obtain ⟨⟨bs, w1⟩, c'', -, hpure⟩ := ok_of_bind hrest
  injection hpure with hcols
  injection hcols with hcols
  rw [← hcols, List.length_zip, mapM_length _ hscs, List.length_map, min_self, List.length_range]
  rfl

theorem rowTile_length (p : Prod) (sas : List Sc16) (as : List Nat) (cols : List (List Sc16 × List Nat)) (cells : List Cell) :
    (rowTile p sas as cols cells).1.length = min cols.length cells.length := by
  unfold rowTile; simp

theorem passTile_length {held : Option (Tab (List Nat))} {cols : List (List Sc16 × List Nat)} {k0 kc r : Nat} {s t : JetSt}
    (h : passTile p pt held cols k0 kc (fun _ _ => pure ()) [r] s c = .ok t e) :
    (tabGet [] t.cells r).length = min cols.length (tabGet [] s.cells r).length := by
  unfold passTile at h
  rw [List.foldlM_cons] at h
  obtain ⟨u, c1, hstep, hnil⟩ := ok_of_bind h
  cases hnil
  obtain ⟨⟨sc, as, a⟩, c2, -, hstep⟩ := ok_of_bind hstep
  obtain ⟨-, c3, -, hstep⟩ := ok_of_bind hstep
  obtain ⟨-, c4, -, hstep⟩ := ok_of_bind hstep
  obtain ⟨-, c5, -, hstep⟩ := ok_of_bind hstep
  cases hstep
  rw [tabGet_tabSet_self]
  exact rowTile_length p sc as cols _

/-- A row keeps as many accumulators as its column tile has columns. -/
theorem reduceTile_length {held : Option (Tab (List Nat))} {j r : Nat} {s t : JetSt}
    (h : reduceTile p pt held j (fun _ _ => pure ()) [r] s c = .ok t e)
    (hs : (tabGet [] s.cells r).length = min (tileOf p.wFmt p.gang).2 (p.n - j * (tileOf p.wFmt p.gang).2)) :
    (tabGet [] t.cells r).length = min (tileOf p.wFmt p.gang).2 (p.n - j * (tileOf p.wFmt p.gang).2) := by
  unfold reduceTile at h
  refine foldlM_keeps (I := fun s : JetSt => (tabGet [] s.cells r).length = _) _ (fun s i _ c t e hs h => ?_) h hs
  obtain ⟨⟨cols, w⟩, c', hload, hpass⟩ := ok_of_bind h
  rw [ite_self] at hpass
  rw [passTile_length hpass, loadTile_length hload, hs, min_self]

end

/-! ### The multiply of one row -/

/-- One column tile of a multiply of one row. -/
def rowStep (p : Prod) (pt : Port) (take : Nat → Nat → List Cell → Eff Unit) (s : MulSt) (j : Nat) : Eff MulSt := do
  let st ← reduceTile p pt none j (fun r cs => take r (j * (tileOf p.wFmt p.gang).2) (tabGet [] s.out r ++ cs)) [0]
    { a := s.a, w := s.w, cells := startCells p none (tileOf p.wFmt p.gang).2 j
        (min (tileOf p.wFmt p.gang).2 (p.n - j * (tileOf p.wFmt p.gang).2)) [0], sats := s.sats }
  pure { a := st.a, w := st.w, fb := s.fb, out := tabSet s.out 0 (tabGet [] s.out 0 ++ tabGet [] st.cells 0), sats := st.sats }

theorem accDepth_pos (gang : Nat) (acc48 : Bool) : 0 < accDepth gang acc48 := by
  unfold accDepth
  exact Nat.mul_pos (by split <;> omega) (Nat.two_pow_pos gang)

theorem rowBlocks_one {p : Prod} (hm : p.m = 1) : rowBlocks p false = [[0]] := by
  have hchunk : ∀ n, 0 < n → chunks n 1 [0] = [[0]] := fun n hn => by
    show [0].take n :: chunks n 0 ([0].drop n) = [[0]]
    rw [List.take_of_length_le (show [0].length ≤ n from hn)]
    rfl
  unfold rowBlocks
  rw [hm, List.range_one]
  refine hchunk _ ?_
  split
  · exact Nat.one_pos
  · exact accDepth_pos _ _

theorem multiply_row {x : Ctx} {p : Prod} (hm : p.m = 1) (a w : Src) (take : Nat → Nat → List Cell → Eff Unit) (c : Chip) :
    multiply x p a w none none take c = (do
      let r ← (List.range (ceilDiv p.n (tileOf p.wFmt p.gang).2)).foldlM (rowStep p (portOf c x) take)
        { a := a.seek (0 * p.pitch * 64), w := w.rewind, fb := w.rewind }
      pure r.out : Eff (Tab (List Cell))) c := by
  unfold multiply
  rw [bind_ok (get_ok c)]
  simp only [Option.isSome_none, rowBlocks_one hm, List.foldlM_cons, List.foldlM_nil, bind_pure, pure_bind, Bool.false_eq_true, if_false,
    List.headD_cons, Option.map_none, Option.getD_none, List.foldl_cons, List.foldl_nil]
  rfl

section
variable {p : Prod} {pt : Port} {c e : Chip}

theorem rowStep_takes (take : Nat → Nat → List Cell → Eff Unit) (s : MulSt) (j : Nat) (hk : ceilDiv p.k (tileOf p.wFmt p.gang).1 ≠ 0) :
    rowStep p pt take s j = (do
      let t ← rowStep p pt (fun _ _ _ => pure ()) s j
      take 0 (j * (tileOf p.wFmt p.gang).2) (tabGet [] t.out 0)
      pure t) := by
  unfold rowStep
  rw [reduceTile_row p pt 0 none j (fun r cs => take r (j * (tileOf p.wFmt p.gang).2) (tabGet [] s.out r ++ cs)) _ hk]
  simp only [bind_assoc, pure_bind, tabGet_tabSet_self]

theorem rowStep_length {s t : MulSt} {j : Nat} (h : rowStep p pt (fun _ _ _ => pure ()) s j c = .ok t e) : (tabGet [] t.out 0).length =
    (tabGet [] s.out 0).length + min (tileOf p.wFmt p.gang).2 (p.n - j * (tileOf p.wFmt p.gang).2) := by
  unfold rowStep at h
  obtain ⟨st, c', hred, hpure⟩ := ok_of_bind h
  cases hpure
  rw [tabGet_tabSet_self, List.length_append, reduceTile_length hred List.length_replicate]

end

theorem ceilDiv_ne_zero {a b : Nat} (ha : a ≠ 0) (hb : 0 < b) : ceilDiv a b ≠ 0 := (Nat.div_pos (by omega) hb).ne'

/-- The last of the pieces of a length begins before its end and reaches it. -/
theorem last_piece {n w j : Nat} (hw : 0 < w) (h : ceilDiv n w = j + 1) : j * w < n ∧ n ≤ j * w + w := by
  have hle := Nat.div_mul_le_self (n + w - 1) w
  have hlt := Nat.lt_mul_div_succ (n + w - 1) hw
  change ceilDiv n w * w ≤ _ at hle
  change _ < w * (ceilDiv n w + 1) at hlt
  rw [h, Nat.succ_mul] at hle
  rw [h, Nat.mul_comm, Nat.succ_mul, Nat.succ_mul] at hlt
  omega

/-- A column tile that does not complete the row takes nothing. -/
theorem rowStep_early {p : Prod} {pt : Port} {take : Nat → Nat → List Cell → Eff Unit} {s t : MulSt} {i j : Nat} {c e : Chip}
    (hk : ceilDiv p.k (tileOf p.wFmt p.gang).1 ≠ 0) (hskip : ∀ c0 cs, cs.length ≠ p.n → take 0 c0 cs = pure ()) (hi : i < j)
    (hj : j * (tileOf p.wFmt p.gang).2 < p.n) (hs : (tabGet [] s.out 0).length = i * (tileOf p.wFmt p.gang).2)
    (h : rowStep p pt (fun _ _ _ => pure ()) s i c = .ok t e) :
    rowStep p pt take s i c = .ok t e ∧ (tabGet [] t.out 0).length = (i + 1) * (tileOf p.wFmt p.gang).2 := by
  have hlen := rowStep_length h
  have hle := Nat.mul_le_mul_right (tileOf p.wFmt p.gang).2 (Nat.succ_le_of_lt hi)
  rw [Nat.succ_mul] at hle
  have hshort : (tabGet [] t.out 0).length = i * (tileOf p.wFmt p.gang).2 + (tileOf p.wFmt p.gang).2 := by omega
  rw [Nat.succ_mul, rowStep_takes take s i hk]
  refine ⟨(bind_ok h).trans ?_, hshort⟩
  rw [hskip _ _ (by omega)]
  rfl

/-- What a multiply of one row takes: nothing until the row has all its columns, and then the row. -/
theorem multiply_row_takes {x : Ctx} {p : Prod} (hm : p.m = 1) (hn : p.n ≠ 0) (hk : ceilDiv p.k (tileOf p.wFmt p.gang).1 ≠ 0)
    (hnt : 0 < (tileOf p.wFmt p.gang).2) {a w : Src} {take : Nat → Nat → List Cell → Eff Unit}
    (hskip : ∀ c0 cs, cs.length ≠ p.n → take 0 c0 cs = pure ()) {cells : Tab (List Cell)} {c d : Chip}
    (h : multiply x p a w none none (fun _ _ _ => pure ()) c = .ok cells d) :
    (tabGet [] cells 0).length = p.n ∧
      ∀ e, (∀ c0, take 0 c0 (tabGet [] cells 0) d = .ok () e) → multiply x p a w none none take c = .ok cells e := by
  obtain ⟨jn, hjn⟩ := Nat.exists_eq_succ_of_ne_zero (ceilDiv_ne_zero hn hnt)
  obtain ⟨hbefore, hafter⟩ := last_piece hnt hjn
  rw [multiply_row hm, hjn, List.range_succ, List.foldlM_append] at h
  obtain ⟨t, c', hrun, hpure⟩ := ok_of_bind h
  cases hpure
  obtain ⟨u, c1, hinit, hlast⟩ := ok_of_bind hrun
  obtain ⟨v, c2, hstep, hnil⟩ := ok_of_bind hlast
  cases hnil
  obtain ⟨htakes, hu⟩ := foldlM_range_ok (I := fun i (s : MulSt) => (tabGet [] s.out 0).length = i * (tileOf p.wFmt p.gang).2) jn
    (fun i hi _ _ _ _ hs hrow => rowStep_early hk hskip hi hbefore hs hrow) (by simp [tabGet, tabFind]) hinit
  have hlen := rowStep_length hstep
  refine ⟨by omega, fun e he => ?_⟩
  rw [multiply_row hm, hjn, List.range_succ, List.foldlM_append]
  refine bind_ok ((bind_ok htakes).trans (foldlM_one ?_))
  rw [rowStep_takes take u jn hk]
  exact (bind_ok hstep).trans (bind_ok (he _))

end Sys2Proof.Machine
end

section
/-! PROOFS. KV_APPEND of one BF16 latent to one root of this package (R157 to R162). -/

namespace Sys2Proof.Machine

/-! ### What the checks at issue say (R42, R43) -/

/-- No other opcode has the row of a KV_APPEND. -/
theorem opcode_kvAppend {d : Desc} (h : rowOf d = some .kvAppend) : d.opcode = 0x01 := by
  by_contra hne
  refine absurd h ?_
  unfold rowOf
  dsimp only
  simp only [if_neg hne]
  repeat' refine ite_ne_of_ne ?_ ?_
  all_goals simp only [ne_eq, reduceCtorEq, Option.some.injEq, not_false_eq_true]

/-- A jet descriptor that passes its checks has a reduction and columns. -/
theorem checksJet_shape {d : Desc} {held : Option Acc} (h : firstBad (checksJet d held) = none) : d.f 2 24 20 ≠ 0 ∧ d.f 2 44 16 ≠ 0 := by
  have hall := firstBad_none h
  unfold checksJet at hall
  dsimp only at hall
  simp only [List.forall_mem_cons] at hall
  obtain ⟨-, -, -, -, -, -, hshape, -⟩ := hall
  simp only [Bool.or_eq_false_iff, beq_eq_false_iff_ne] at hshape
  obtain ⟨⟨⟨⟨-, hk⟩, hn⟩, -⟩, -⟩ := hshape
  exact ⟨hk, hn⟩

theorem tileOf_pos (w : Fmt) (gang : Nat) : 0 < (tileOf w gang).1 ∧ 0 < (tileOf w gang).2 :=
  ⟨Nat.mul_pos (by split <;> omega) (Nat.two_pow_pos gang), Nat.mul_pos (by omega) (Nat.two_pow_pos gang)⟩

/-! ### The row in its slot (R144, R159 step 3) -/

/-- A row of accumulators in BF16. -/
def bf16Bytes (cells : List Cell) : List Byte := cells.flatMap (fun v => leBytes 2 (conv .bf16 (fltResult v)).code)

theorem bf16Bytes_length (cells : List Cell) : (bf16Bytes cells).length = 2 * cells.length := by
  unfold bf16Bytes
  rw [List.length_flatMap, List.map_congr_left (g := fun _ => 2) fun v _ => leBytes_length 2 _]
  simp [Nat.mul_comm]

theorem writeAny_near {unit a : Nat} {bs : List Byte} {c : Chip} (hp : pkgOf a = pkg c) (hh : inHub a bs.length = false)
    (hb : backed a bs.length = true) : writeAny unit a bs c = .ok () (putMem c a bs) := by
  unfold writeAny writeOut
  rw [bind_ok (checkPlace_passes (by rw [hp]; exact fenced_self c) hh hb), change_ok, if_pos hp]

/-- A row converted to BF16 has no scales; what it counts stands in registers alone. -/
theorem foundSeg_bf16 (b : Fin 32) (cells : List Cell) (c : Chip) : ∃ rg, foundSeg b .bf16 (cells.map fltResult) c =
    .ok (cells.map (fun v => (conv .bf16 (fltResult v)).code), []) { c with regs := rg } := by
  obtain ⟨rg, h⟩ := countConv_eq b ((cells.map fltResult).map (conv .bf16)) c
  have hplain : convPlain b .bf16 (cells.map fltResult) c =
      .ok (((cells.map fltResult).map (conv .bf16)).map (·.code)) (countConv b ((cells.map fltResult).map (conv .bf16)) c) := rfl
  unfold foundSeg
  rw [if_neg (by decide), bind_ok hplain, h, List.map_map, List.map_map]
  exact ⟨rg, rfl⟩

/-- Where the only row of an append goes. -/
def appendAddr (a : Append) : Nat :=
  frameOf (((a.pages.find? (fun q => q.1 == a.w.lrec.len / 16)).map (·.2)).getD 0) + a.w.lrec.len % 16 * (32 * a.w.rank32) * 2

theorem appendSlot_bf16 {x : Ctx} {d : Desc} {p : Prod} {o : OutSpec} {a : Append} {cells : List Cell} {c : Chip} (hint : p.isInt = false)
    (hfmt : d.outFmt = 3) (ho : o.fmt = fmtGet d.outFmt) (hfirst : a.first = 0) (hrows : a.rows = 1) (hp : pkgOf (appendAddr a) = pkg c)
    (hh : inHub (appendAddr a) (2 * cells.length) = false) (hb : backed (appendAddr a) (2 * cells.length) = true) :
    ∃ rg, appendSlot x d p o [a] 0 cells c = .ok () (putMem { c with regs := rg } (appendAddr a) (bf16Bytes cells)) := by
  have hfind : [a].find? (fun a => decide (a.first ≤ 0 ∧ 0 < a.first + a.rows)) = some a := by simp [hfirst, hrows]
  have hsource : sourceVals p o 0 cells = (cells.map fltResult, 0) := by unfold sourceVals; rw [hint]; rfl
  have hbf : o.fmt = .bf16 := by rw [ho, hfmt]; rfl
  have hpack : packCodes .bf16 (cells.map (fun v => (conv .bf16 (fltResult v)).code)) = bf16Bytes cells := List.flatMap_map _ _ _
  obtain ⟨r1, hbump⟩ := bump_eq c (rBasinCtr x.b.val 6) 0
  obtain ⟨rg, hseg⟩ := foundSeg_bf16 x.b cells { c with regs := r1 }
  refine ⟨rg, ?_⟩
  have hwrite : appendRow 3 a 0 (bf16Bytes cells) [] { c with regs := rg } =
      .ok () (putMem { c with regs := rg } (appendAddr a) (bf16Bytes cells)) := by
    rw [← bf16Bytes_length] at hh hb
    exact bind_ok (writeAny_near (c := { c with regs := rg }) hp hh hb)
  unfold appendSlot
  rw [hfind]
  dsimp only
  rw [hsource, hbf, hfirst, hfmt]
  dsimp only
  rw [bind_ok (change_ok _ c), hbump, bind_ok hseg]
  dsimp only
  rw [hpack]
  exact hwrite

/-! ### The close (R159 steps 4 and 5) -/

/-- Nothing has to be waited for where all was asked of the package itself. -/
theorem syncFar_near (unit : Nat) {c : Chip} (h : ∀ q ∈ c.fab.far, pkgOf q.addr = pkg c) : syncFar unit c = .ok () c := by
  have hnone : (farNumbered c.fab.far).filter (fun p => !p.1.quiet && pkgOf p.1.addr != pkg c) = [] :=
    List.filter_eq_nil_iff.mpr fun p hp => by
      obtain ⟨q, hq, rfl⟩ := List.mem_map.mp hp
      simp [h _ (List.of_mem_zip hq).2]
  unfold syncFar
  rw [bind_ok (get_ok c), hnone]
  rfl

/-- The record that an append of one root leaves where the layer has no tails. -/
theorem closedLayer_noTails {a : Append} (ht : a.tails = []) : closedLayer false a =
    pure { len := a.w.lrec.len + a.rows, acc := a.w.lrec.len + a.rows, tails := [] } := by
  unfold closedLayer fixTails
  rw [ht]
  rfl

/-- The package once the only root of an append is closed: the record of its layer and its FREE_CNT. -/
def closedRoot (a : Append) (len : Nat) (c : Chip) : Chip :=
  putMem (putMem c (a.w.root.addr + 192 + 32 * a.w.layer) (([len + len * 2 ^ 21, 0, 0, 0] : List Nat).flatMap (leBytes 8)))
    (a.w.root.addr + 24) (leBytes 2 a.freeCnt)

theorem steadyPkg_closedRoot {n : Nat} {c : Chip} (h : SteadyPkg n c) (a : Append) (len : Nat) : SteadyPkg n (closedRoot a len c) :=
  steadyPkg_putMem (steadyPkg_putMem h _ _) _ _

theorem appendClose_noTails {a : Append} {n : Nat} {c : Chip} (hc : SteadyPkg n c) (hroot : pkgOf a.w.root.addr = n) (ht : a.tails = [])
    (hs : a.shares = []) : appendClose false [a] c = .ok () (closedRoot a (a.w.lrec.len + a.rows) c) := by
  have hhere : (pkgOf a.w.root.addr == pkg c) = true := beq_iff_eq.mpr (hroot.trans hc.clean.pkg.symm)
  have hsync := syncFar_near kvUnit fun q hq => (hc.far q hq).trans hc.clean.pkg.symm
  have hclosed : closedLayer false a c = .ok { len := a.w.lrec.len + a.rows, acc := a.w.lrec.len + a.rows, tails := [] } c := by
    rw [closedLayer_noTails ht]; rfl
  unfold appendClose
  rw [bind_ok (mapM_one hclosed), bind_ok hsync, bind_ok (get_ok c)]
  simp only [List.zip_cons_cons, List.zip_nil_right, List.filter_cons, List.filter_nil, hhere, Bool.not_true, Bool.false_eq_true, if_false,
    if_true, List.map_nil, List.flatMap_cons, List.flatMap_nil, hs, List.append_nil]
  have hupdate : (do
      putLayer a.w.root.addr a.w.layer { len := a.w.lrec.len + a.rows, acc := a.w.lrec.len + a.rows, tails := [] }
      rmw kvUnit (a.w.root.addr + 24) (leBytes 2 a.freeCnt)) c = .ok () (closedRoot a (a.w.lrec.len + a.rows) c) := by
    rw [bind_ok (putLayer_ok _ _ _ c), layerWords_noTails, rmw_clean _ _ _ (putMem_clean_ecc hc.clean.ecc _ _)]
    rfl
  have hnothing : askAll kvUnit [] c = .ok [] c := rfl
  rw [bind_ok hnothing, bind_ok hnothing]
  refine (bind_ok (forM_one ?_)).trans (pure_ok _ _)
  exact hupdate

/-! ### The body -/

/-- The chain of an append holds no accumulators any more. -/
def accDropped (x : Ctx) (c : Chip) : Chip := modChain x.b x.k (fun ch => { ch with acc := none }) c

theorem accDropped_eq (x : Ctx) (c : Chip) : ∃ bs, accDropped x c = { c with basins := bs } := by
  unfold accDropped modChain
  split
  · exact ⟨c.basins, rfl⟩
  · exact ⟨_, rfl⟩

theorem accDropped_mem (x : Ctx) (c : Chip) : (accDropped x c).mem = c.mem := by
  obtain ⟨bs, h⟩ := accDropped_eq x c
  rw [h]

theorem steadyPkg_accDropped {n : Nat} {c : Chip} (h : SteadyPkg n c) (x : Ctx) : SteadyPkg n (accDropped x c) := by
  obtain ⟨bs, hb⟩ := accDropped_eq x c
  rw [hb]
  exact ⟨⟨h.clean.ecc, h.clean.residue, h.clean.pkg⟩, h.far⟩

theorem steadyPkg_regs {n : Nat} {c : Chip} (h : SteadyPkg n c) (rg : Tab (BitVec 32)) : SteadyPkg n { c with regs := rg } :=
  ⟨⟨h.clean.ecc, h.clean.residue, h.clean.pkg⟩, h.far⟩

theorem closedRoot_mem (a : Append) (len : Nat) (c : Chip) : (closedRoot a len c).mem =
    memWriteN (memWriteN c.mem (a.w.root.addr + 192 + 32 * a.w.layer) (([len + len * 2 ^ 21, 0, 0, 0] : List Nat).flatMap (leBytes 8)))
      (a.w.root.addr + 24) (leBytes 2 a.freeCnt) := by
  rw [closedRoot, putMem_mem, putMem_mem]

/-- The package that an append of one row leaves: the row in its slot, the root closed, and no accumulators held. -/
def appended (x : Ctx) (a : Append) (cells : List Cell) (c : Chip) : Chip :=
  accDropped x (closedRoot a (a.w.lrec.len + 1) (putMem c (appendAddr a) (bf16Bytes cells)))

theorem bodyAppend_row {x : Ctx} {d : Desc} {p : Prod} {as : List Append} {a : Append} {cells : Tab (List Cell)} {c c1 c2 c3 : Chip}
    {n : Nat} (hp : p = prodOf c x d (c.basins[x.b].chains[x.k].bind (·.acc))) (hshape : d.f 2 24 20 ≠ 0 ∧ d.f 2 44 16 ≠ 0)
    (hspec : d.b 7 21 = false) (had : d.f 7 0 7 = 0) (hm : p.m = 1) (hclear : d.accClear = true) (hint : p.isInt = false)
    (hrs : d.b 4 39 = false) (hfmt : d.outFmt = 3) (hopen : appendOpen x d p.m p.n c = .ok as c1)
    (hplan : appendPlan x.b 3 false as c1 = .ok [a] c2) (hrows : a.rows = 1) (hfirst : a.first = 0) (ht : a.tails = []) (hs : a.shares = [])
    (hmul : multiply x p (srcOf (d.f 1 0 23) (d.b 1 23)) (srcOf (d.f 2 0 23) (d.b 2 23)) none none (fun _ _ _ => pure ()) c2 = .ok cells c3)
    (hc : SteadyPkg n c3) (hframe : pkgOf (appendAddr a) = n) (hroot : pkgOf a.w.root.addr = n)
    (hh : inHub (appendAddr a) (2 * (tabGet [] cells 0).length) = false) (hb : backed (appendAddr a) (2 * (tabGet [] cells 0).length) = true) :
    ∃ rg, bodyAppend x d c = .ok () (appended x a (tabGet [] cells 0) { c3 with regs := rg }) := by
  obtain ⟨hk, hn⟩ := hshape
  obtain ⟨hkt, hnt⟩ := tileOf_pos p.wFmt p.gang
  have hkp : p.k = d.f 2 24 20 := by rw [hp]; rfl
  have hnp : p.n = d.f 2 44 16 := by rw [hp]; rfl
  have hdrain : ∀ r, drainCheck x.b p r = pure () := fun r => by unfold drainCheck; rw [hint]; rfl
  have hresc : rescalesOf c x d = pure [d.rescale] := by unfold rescalesOf; rw [hrs]; rfl
  obtain ⟨rg, hslot⟩ := appendSlot_bf16 (x := x) (d := d) (p := p) (o := outOf c x d [d.rescale]) hint hfmt rfl hfirst hrows
    (hframe.trans hc.clean.pkg.symm) hh hb
  obtain ⟨hlen, htakes⟩ := multiply_row_takes hm (hnp ▸ hn) (ceilDiv_ne_zero (hkp ▸ hk) hkt) hnt
    (take := fun r _ cs => do
      drainCheck x.b p r
      if cs.length = p.n then appendSlot x d p (outOf c x d [d.rescale]) [a] r cs else pure ())
    (fun c0 cs hne => by rw [hdrain, if_neg hne]; rfl) hmul
  have hwritten := htakes _ fun c0 => by
    rw [hdrain, if_pos hlen]
    exact hslot
  refine ⟨rg, ?_⟩
  have hclose := appendClose_noTails (steadyPkg_putMem (steadyPkg_regs hc rg) (appendAddr a) (bf16Bytes (tabGet [] cells 0))) hroot ht hs
  rw [hrows] at hclose
  unfold bodyAppend
  rw [bind_ok (get_ok c)]
  dsimp only
  rw [← hp, hspec, hfmt, bind_ok hopen, bind_ok hplan, hresc, if_pos had, if_pos hclear]
  simp only [pure_bind]
  exact (bind_ok hwritten).trans ((bind_ok hclose).trans (change_ok _ _))

/-- A KV_APPEND that issues has a reduction and columns. -/
theorem shape_of_kvAppend {d : Desc} {c : Chip} {held : Option Acc} (hrow : rowOf d = some .kvAppend) (h : checkDesc c held d = none) :
    d.f 2 24 20 ≠ 0 ∧ d.f 2 44 16 ≠ 0 := by
  unfold checkDesc at h
  rw [opcode_kvAppend hrow] at h
  exact checksJet_shape h

/-- The command runs `bodyAppend` on the package as launched, whose multiply takes the row once. -/
theorem appendWritesRows : AppendWritesRows := by
  unfold AppendWritesRows
  intro b k s ch d js c c0 c1 c2 c3 x p as a frame cells hr hrow hc0 hx hspec had hp hm hclear hint hrs hfmt hopen hplan hrows hfirst ht hs _
    hmul hsteady hframe hfp hroot hh hb
  change frame = appendAddr a at hframe
  rw [hframe] at hfp hh hb ⊢
  rw [runEff_eq_ok] at hopen hplan hmul
  have hpkg := pkg_of_steady hsteady
  have hc := steadyPkg_of_steady hsteady
  have hbody : ∀ {e : Chip}, bodyAppend x d c0 = .ok () e → SteadyPkg (pkg c0) e → exec (.kvAppend b k) s = .next (s.withChip (settled e)) := by
    intro e h hn
    subst hx hc0
    exact exec_headReady_near rfl hr hrow h hn
  obtain ⟨hxb, hxk⟩ := headCtx_bk b k ch
  rw [← hx] at hxb hxk
  have hshape := shape_of_kvAppend hrow hr.legal
  clear hx hr hc0
  subst hxb hxk
  obtain ⟨rg, happend⟩ := bodyAppend_row hp hshape hspec had hm hclear hint hrs hfmt hopen hplan hrows hfirst ht hs hmul hc
    (hfp.trans hpkg) (hroot.trans hpkg) hh hb
  have hend := steadyPkg_closedRoot (steadyPkg_putMem (steadyPkg_regs hc rg) (appendAddr a) (bf16Bytes (tabGet [] cells 0))) a
    (a.w.lrec.len + 1)
  refine ⟨_, hbody happend (steadyPkg_accDropped hend x), sameRest_withChip s _, ?_⟩
  exact (accDropped_mem x _).trans ((closedRoot_mem a _ _).trans (by rw [putMem_mem]; rfl))

/-- Settles O16: the operations of KV_PAGE, and KV_APPEND of one row. -/
theorem pagesOfTheCache : Obligations.PagesOfTheCache := ⟨kvPageOperations, appendWritesRows⟩

end Sys2Proof.Machine
end

section
/-! PROOFS. What leaves by the links (R308 to R318): giving flits to them keeps all that has left the package, and of the fabric changes the
links alone; and a confirmed message that is acted on. -/

namespace Sys2Proof.Machine

/-! ### Flits given to the links (R311 to R313) -/

/-- All that has left the package stands in its log still, and of the fabric the links alone may differ. -/
structure LinksMove (c d : Chip) : Prop where
  out : c.out <:+ d.out
  fab : ∃ ls, d.fab = { c.fab with links := ls }

theorem LinksMove.refl (c : Chip) : LinksMove c c := ⟨List.suffix_refl _, c.fab.links, rfl⟩

theorem LinksMove.trans {c d e : Chip} (h : LinksMove c d) (k : LinksMove d e) : LinksMove c e := by
  obtain ⟨ho, ls, hf⟩ := h
  obtain ⟨ko, ms, kf⟩ := k
  exact ⟨ho.trans ko, ms, by rw [kf, hf]⟩

theorem LinksMove.foldl {α : Type} {f : Chip → α → Chip} (h : ∀ c x, LinksMove c (f c x)) (xs : List α) (c : Chip) :
    LinksMove c (xs.foldl f c) :=
  foldl_keeps xs (fun d x _ hd => hd.trans (h d x)) (LinksMove.refl c)

theorem emit_links (x : Emit) (c : Chip) : LinksMove c (emit x c) := ⟨List.suffix_cons _ _, c.fab.links, rfl⟩

theorem modLink_links (l : Fin 12) (f : Link → Link) (c : Chip) : LinksMove c (modLink l f c) := ⟨List.suffix_refl _, _, rfl⟩

theorem sendFlit_links (l : Fin 12) (nak : Bool) (f : Flit) (c : Chip) : LinksMove c (sendFlit l nak f c) :=
  (modLink_links _ _ _).trans (emit_links _ _)

theorem endWait_links (l : Fin 12) (c : Chip) : LinksMove c (endWait l c) := by
  unfold endWait
  split
  · next t _ =>
    obtain ⟨rg, h⟩ := bump_eq { c with rems := tabSet c.rems (rLinkCtr l.val 4) ((tabGet 0 c.rems (rLinkCtr l.val 4) + (c.upNs - t)) % 1000) }
      (rLinkCtr l.val 4) ((tabGet 0 c.rems (rLinkCtr l.val 4) + (c.upNs - t)) / 1000)
    unfold bumpUnits
    rw [h]
    exact ⟨List.suffix_refl _, _, rfl⟩
  · exact .refl c

theorem creditBack_links (o : Option (Fin 12)) (v : Nat) {c d : Chip} (h : LinksMove c d) :
    LinksMove c (match o with | some o => returnCredit o v d | none => d) := by
  cases o
  · exact h
  · exact h.trans (modLink_links _ _ _)

theorem pump_links (l : Fin 12) (n : Nat) (c : Chip) : LinksMove c (pump l n c) := by
  induction n generalizing c with
  | zero => exact .refl c
  | succ n ih =>
    unfold pump
    dsimp only
    split
    · exact .refl c
    · split
      · split
        · exact modLink_links _ _ _
        · exact .refl c
      · exact (creditBack_links _ _ ((endWait_links _ _).trans ((modLink_links _ _ _).trans (sendFlit_links _ _ _ _)))).trans (ih _)

theorem enqueue_links (l : Fin 12) (o : Option (Fin 12)) (f : Flit) (c : Chip) : LinksMove c (enqueue l o f c) :=
  (modLink_links _ _ _).trans (pump_links _ _ _)

theorem sendTree_links (ds : List Nat) (f : Flit) (c : Chip) : LinksMove c (sendTree ds f c) := by
  unfold sendTree
  refine LinksMove.foldl (fun c h => ?_) _ c
  split
  · exact enqueue_links _ _ _ _
  · exact .refl c

/-! ### A message between hubs, and one that is acted on (R318) -/

theorem sendHub_wire (p : Nat) (x : HubMsg) (c : Chip) : WireOnly c (sendHub p x c) := sendMsg_wire _ _ _ _

/-- A message to one package that is not fenced is among what has left. -/
theorem sendHub_out {p : Nat} (x : HubMsg) {c : Chip} (hf : fenced c p = false) (hp : p ≠ pkg c) :
    .hub (BitVec.ofNat 4 p) 0 x ∈ (sendHub p x c).out := by
  have hmem : ([p].filter fun q => !fenced c q && decide (q ≠ pkg c)) = [p] := by simp [hf, hp]
  unfold sendHub sendMsg
  dsimp only
  rw [hmem, if_neg (List.cons_ne_nil _ _)]
  exact (sendTree_links _ _ _).out.subset List.mem_cons_self

/-- The package as a confirmed message of package `src` is acted on: it has left its confirmation, and its tag is noted. -/
structure Heard (src tag : Nat) (c d : Chip) : Prop where
  wire : WireOnly c d
  regs : LinkRegsOnly c d
  out : .confirm (BitVec.ofNat 4 src) tag ∈ d.out

/-- The first copy of a confirmed message is confirmed and acted on. -/
theorem onConfirmed_acts {src tag : Nat} (act : Chip → Chip) {c : Chip} (hf : fenced c src = false) (hs : tag ∉ tabGet [] c.fab.seen src) :
    ∃ d, onConfirmed src tag act c = act d ∧ Heard src tag c d := by
  unfold onConfirmed
  rw [if_neg (by rw [hf]; decide)]
  dsimp only
  generalize hx : msgFlit (emit (.confirm (BitVec.ofNat 4 src) tag) c) [src] 0 (.confirm (BitVec.ofNat 4 src) tag) = x
  have hl := sendTree_links [src] x (emit (.confirm (BitVec.ofNat 4 src) tag) c)
  have hw := (emit_wire (.confirm (BitVec.ofNat 4 src) tag) c).trans (sendTree_wire [src] x _)
  have hr := (emit_linkRegs (.confirm (BitVec.ofNat 4 src) tag) c).trans (sendTree_regs [src] x _)
  generalize sendTree [src] x (emit (.confirm (BitVec.ofNat 4 src) tag) c) = d at hl hw hr
  obtain ⟨ho, ls, hfab⟩ := hl
  have hseen : d.fab.seen = c.fab.seen := by rw [hfab]; rfl
  rw [hseen, if_neg (by simpa using hs)]
  exact ⟨_, rfl, hw.trans ⟨_, _, _, _, rfl⟩, fun off h => hr off h, ho.subset List.mem_cons_self⟩

end Sys2Proof.Machine
end

section
/-! PROOFS. The cadence (R193 to R202, R356): what a tick leaves of the package, and each command that controls the ticks. -/

namespace Sys2Proof.Machine

/-! ### Numbers in two's complement -/

theorem unsigned_lt (i : Int) : unsigned 32 i < 2 ^ 32 := by unfold unsigned; omega

theorem unsigned_signed {x : Nat} (h : x < 2 ^ 32) : unsigned 32 (signed 32 x) = x := by
  unfold unsigned signed
  dsimp only
  split <;> omega

theorem clampNs_zero : clampNs 0 = 0 := rfl

/-! ### The registers of the cadence -/

theorem getReg_setPhase_self (x : Int) (c : Chip) : getReg (setPhase x c) rPhase = unsigned 32 x := by
  unfold setPhase
  rw [getReg_putReg_self, Nat.mod_eq_of_lt (unsigned_lt x)]

theorem getReg_setPhase_ne (x : Int) (c : Chip) {off : Nat} (h : off ≠ rPhase) : getReg (setPhase x c) off = getReg c off :=
  getReg_putReg_ne c _ h

theorem getReg_slewing_ne (c : Chip) {off : Nat} (h : off ≠ rCadStatus) : getReg (slewing c) off = getReg c off :=
  getReg_putF_ne c _ _ _ h

/-- The phase set to what it was. -/
theorem getReg_setPhase_phase {c d : Chip} (h : getReg d rPhase = getReg c rPhase) (off : Nat) :
    getReg (setPhase (phase c) d) off = getReg d off := by
  by_cases ho : off = rPhase
  · rw [ho, getReg_setPhase_self, h]
    exact unsigned_signed (getReg_lt c rPhase)
  · exact getReg_setPhase_ne _ _ ho

theorem ticking_congr {c d : Chip} (h : getReg d rCadStatus = getReg c rCadStatus) : ticking d = ticking c := by
  unfold ticking; rw [h]

/-- A bit of a register that is set. -/
theorem bit_putF_one (c : Chip) (off : Nat) {i : Nat} (h : i < 32) : bit (getReg (putF c off i 1 1) off) i = true := by
  rw [bit_eq_fld]
  have : getF (putF c off i 1 1) off i 1 = 1 := getF_putF_self c (by omega)
  unfold getF at this
  rw [this]; rfl

theorem ticking_beginTicks (c : Chip) : ticking (beginTicks c) = true := bit_putF_one _ rCadStatus (i := 0) (by decide)

/-! ### A tick where no item is held and no commit point falls (R193 to R196, R285, R427) -/

/-- No set is under replacement, so that no item is held at a barrier. -/
theorem itemHeld_false {c : Chip} (h : ∀ e, e < 16 → setState c e ≠ 3) (it : Item) : itemHeld c it = false := by
  unfold itemHeld boundSet
  split
  · next e he =>
    split at he
    · cases he
      have : setState c (getF c (rMsJob it.job.toNat) 0 4) ≠ 3 := h _ (fld_lt _ 0 4)
      simp [this]
    · cases he
  · rfl

theorem refreshHeld_none {c : Chip} (h : ∀ it, itemHeld c it = false) (hs : c.ms.heldSince = none) : refreshHeld c = c := by
  unfold refreshHeld
  simp [h, hs]

theorem intervalOf_congr {c d : Chip} {j : Nat} (hr : getReg d (rRcJob j) = getReg c (rRcJob j)) (hp : d.power = c.power) :
    intervalOf d j = intervalOf c j := by
  unfold intervalOf jobPkgs pkg getF
  rw [hr, hp]

theorem commitTick_none {c : Chip} (n : Nat) (hi : ∀ j, j < 256 → intervalOf c j = none) (hj : c.jobs = []) : commitTick n c = c := by
  unfold commitTick
  dsimp only
  rw [List.filter_eq_nil_iff.mpr ?none]
  case none =>
    intro j hm
    rw [hi j (List.mem_range.mp hm)]
    exact Bool.false_ne_true
  exact pollReady_noJobs hj

/-- What is still to be steered that the next tick takes. -/
def steered (c : Chip) : Int := if steering c then clampNs c.cad.steer else 0

/-- The tick generator at a tick for which no correction is named. -/
def ticked (c : Chip) : Cadence :=
  { c.cad with fresh := false, guardDone := false, instant := c.gptpNs, steer := c.cad.steer - steered c, notices := [],
               moved := c.cad.moved.filter (fun y => !tickLe y ((getReg c rTick + 1) % 2 ^ 32)) }

/-- The package after such a tick. -/
def tickTaken (c : Chip) : Chip :=
  slewing (setPhase (phase c) (putReg { c with cad := ticked c } rTick ((getReg c rTick + 1) % 2 ^ 32)))

theorem getReg_tickTaken {c : Chip} {off : Nat} (h1 : off ≠ rTick) (h2 : off ≠ rCadStatus) : getReg (tickTaken c) off = getReg c off := by
  unfold tickTaken
  rw [getReg_slewing_ne _ h2, getReg_setPhase_phase (c := c) (getReg_putReg_ne { c with cad := ticked c } (o := rTick) _ (by decide)), getReg_putReg_ne _ _ h1]
  rfl

theorem getReg_tickTaken_tick (c : Chip) : getReg (tickTaken c) rTick = (getReg c rTick + 1) % 2 ^ 32 := by
  unfold tickTaken
  rw [getReg_slewing_ne _ (by decide), getReg_setPhase_ne _ _ (by decide), getReg_putReg_self, Nat.mod_mod]

theorem tick_eq {c : Chip} (ht : ticking c = true) (hf : c.cad.fresh = false) (hn : c.cad.notices = []) :
    tick c = commitTick ((getReg c rTick + 1) % 2 ^ 32) (refreshHeld (tickTaken c)) := by
  have hcad : ∀ n, n = (getReg c rTick + 1) % 2 ^ 32 → modCad (fun x => { x with
      fresh := false, guardDone := false, instant := c.gptpNs, steer := x.steer + 0 - clampNs (if steering c then c.cad.steer + 0 else 0),
      notices := x.notices.filter (fun y => y.1 != n), moved := x.moved.filter (fun y => !tickLe y n) }) c = { c with cad := ticked c } := by
    rintro n rfl
    cases h : steering c <;> simp [modCad, ticked, steered, hn, h, clampNs_zero]
  unfold tick
  rw [ht, hf, hn]
  simp only [Bool.not_true, Bool.false_eq_true, if_false, List.filter_nil, List.map_nil, List.foldl_nil]
  rw [hcad _ rfl, Int.sub_zero]
  rfl

/-- A tick of a package without commit interval, job, notice or replacement. -/
theorem tick_quiet {c : Chip} (ht : ticking c = true) (hf : c.cad.fresh = false) (hn : c.cad.notices = []) (hj : c.jobs = [])
    (hi : ∀ j, j < 256 → intervalOf c j = none) (hs : ∀ e, e < 16 → setState c e ≠ 3) (hh : c.ms.heldSince = none) : tick c = tickTaken c := by
  have hset : ∀ e, e < 16 → setState (tickTaken c) e ≠ 3 := fun e he => by
    have hr : getReg (tickTaken c) (rSet e 0) = getReg c (rSet e 0) := by
      apply getReg_tickTaken <;> simp only [rSet, rTick, rCadStatus] <;> omega
    unfold setState
    rw [getF_congr _ _ hr]
    exact hs e he
  have hint : ∀ j, j < 256 → intervalOf (tickTaken c) j = none := fun j hl => by
    have hr : getReg (tickTaken c) (rRcJob j) = getReg c (rRcJob j) := by
      apply getReg_tickTaken <;> simp only [rRcJob, rTick, rCadStatus] <;> omega
    exact (intervalOf_congr hr rfl).trans (hi j hl)
  rw [tick_eq ht hf hn, refreshHeld_none (itemHeld_false hset) hh, commitTick_none _ hint hj]

theorem cadenceTickAdvances : CadenceTickAdvances := by
  intro s ht hf hn hj hi hs hh
  have hx : exec .cadenceTick s = .next (s.withChip (tickTaken s.chip)) := by rw [← tick_quiet ht hf hn hj hi hs hh]; rfl
  exact ⟨_, hx, sameRest_withChip s _, getReg_tickTaken_tick s.chip, rfl, rfl, rfl, rfl, rfl, fun off h1 _ h3 => getReg_tickTaken h1 h3⟩

/-! ### START and RESYNC (R200, R202) -/

section
variable {m : Master} {w : CadWrite} {s : State}

/-- A write of CAD_CTRL is START where its bit 0 is set, and RESYNC where its bit 1 is. -/
theorem exec_cadCtrl {i : Instr} (hi : i = .start m w ∨ i = .resync m w) (hm : m.toNat ≤ 3) (hh : hubOn s.chip = true) {d : Chip}
    (h : wCadCtrl (some w.phi) w.v.toNat s.chip = (0, d)) : exec i s = .next (s.withChip (emit (.bus m 0 0) d)) := by
  have hx : exec i s = .next (s.withChip (busWrite m (wCadCtrl (some w.phi) w.v.toNat) s.chip)) := by rcases hi with rfl | rfl <;> rfl
  rw [hx, busWrite_ok hh hm h]

theorem wCadCtrl_start {c : Chip} (phi : Option (Option (BitVec 32))) (v : BitVec 32) (h0 : v.getLsbD 0 = true) (h1 : v.getLsbD 1 = false) :
    wCadCtrl phi v.toNat c = (0, cadStart phi c) := by
  have e0 : bit v.toNat 0 = true := h0
  have e1 : bit v.toNat 1 = false := h1
  unfold wCadCtrl
  simp [e0, e1]

theorem wCadCtrl_resync {c : Chip} (phi : Option (Option (BitVec 32))) (v : BitVec 32) (h0 : v.getLsbD 0 = false) (h1 : v.getLsbD 1 = true) :
    wCadCtrl phi v.toNat c = (0, cadResync phi c) := by
  have e0 : bit v.toNat 0 = false := h0
  have e1 : bit v.toNat 1 = true := h1
  unfold wCadCtrl
  simp [e0, e1]

end

/-- A cadence master with its own clock begins ticks on START, with its own phase. -/
theorem cadStart_free {c : Chip} (phi : Option (Option (BitVec 32))) (ht : ticking c = false) (h0 : bit (getReg c rCadCfg) 0 = true)
    (h1 : bit (getReg c rCadCfg) 1 = true) : cadStart phi c = beginTicks (setPhase (phase c) (takeCadCfg c)) := by
  have hsrc : (setPhase (phase c) (takeCadCfg c)).cad.src = 1 := by
    have := bit_eq_fld (getReg c rCadCfg) 0
    rw [h0] at this
    exact of_decide_eq_true this.symm
  have hm : masterPhase phi c = (phase c, c) := by unfold masterPhase; rw [if_pos h1]
  unfold cadStart
  rw [ht, if_neg (by decide), hm]
  exact if_pos (.inl hsrc)

/-- The phase that a package takes which is not the cadence master (R200): the one that the write brings, or 0. -/
theorem masterPhase_told {c : Chip} (x : Option (BitVec 32)) (h1 : bit (getReg c rCadCfg) 1 = false) : masterPhase (some x) c =
    (if livePartners c = [] then 0 else (x.map (fun v => signed 32 v.toNat)).getD 0, c) := by
  unfold masterPhase
  rw [h1, if_neg (by decide)]
  split <;> rfl

/-- RESYNC where ticks are generated. -/
theorem cadResync_ticking {c : Chip} {phi : Option (Option (BitVec 32))} {p : Int} (ht : ticking c = true) (hp : masterPhase phi c = (p, c)) :
    cadResync phi c = slewing (setPhase p (takeCadCfg { c with cad := { c.cad with steer := c.cad.steer + (phase c - p) } })) := by
  unfold cadResync
  rw [hp]
  simp only [ht, if_true]
  rfl

/-! ### Edges of SYNC_IN (R199, R356) -/

theorem exec_syncInEdge (stamp : BitVec 64) (s : State) : exec (.syncInEdge stamp) s = .next (s.withChip
    (if 1 < modeOf s.chip then s.chip
     else if ticking s.chip && s.chip.cad.syncEn then syncEdge stamp.toNat { s.chip with syncNs := stamp.toNat }
     else { s.chip with syncNs := stamp.toNat })) := rfl

/-- An edge more than 500 us off every expected time is ignored and counted. -/
theorem syncEdge_far {c : Chip} {stamp last n off : Nat} (hp : c.cad.syncPeriod = 2) (hl : c.cad.lastEdge = some last)
    (hs : stamp = last + 2000000 * n + off) (lo : 500000 < off) (hi : off < 1500000) :
    syncEdge stamp c = putF c rCadStatus 16 16 (getF c rCadStatus 16 16 + 1) := by
  unfold syncEdge
  rw [hp, hl]
  refine if_pos (decide_eq_true ?_)
  norm_num
  omega

/-! ### Phase notices (R200, R318) -/

theorem phaseNotice_toCome {c : Chip} {n : Nat} (corr : Int) (h : tickLe n (getReg c rTick) = false) :
    phaseNotice n corr c = addNotice n corr c := by
  unfold phaseNotice
  rw [h, Bool.and_false]
  rfl

theorem phaseNotice_past {c : Chip} {n : Nat} (corr : Int) (ht : ticking c = true) (hf : c.cad.fresh = false)
    (h : tickLe n (getReg c rTick) = true) : phaseNotice n corr c =
      setStatus 3 (report { code := eCadPhase, sev := 2, src := 0x24, arg := n } (putF c rCadStatus 3 1 1)) := by
  unfold phaseNotice
  rw [h, ht, hf]
  rfl

/-- A report of a severity above 0 stands in MP_ERR_LAST. -/
theorem getReg_report_errLast (r : Report) (c : Chip) (hs : r.sev ≠ 0) :
    getReg (report r c) rErrLast = (r.code + r.sev * 65536) % 2 ^ 32 := by
  have hlast : ∀ d, d = (if r.sev ≥ 2 then putF (putReg (countReport c r) rErrLast (r.code + r.sev * 65536)) rStatus 1 1 1
      else putReg (countReport c r) rErrLast (r.code + r.sev * 65536)) → getReg d rErrLast = (r.code + r.sev * 65536) % 2 ^ 32 := by
    rintro d rfl
    split
    · rw [getReg_putF_ne _ _ _ _ (by decide), getReg_putReg_self]
    · exact getReg_putReg_self _ _ _
  have hdrop : rErrLast ≠ rErDrop r.sev := by unfold rErrLast rErDrop; omega
  unfold report
  dsimp only
  rw [if_neg hs]
  generalize (if r.sev ≥ 2 then putF (putReg (countReport c r) rErrLast (r.code + r.sev * 65536)) rStatus 1 1 1
      else putReg (countReport c r) rErrLast (r.code + r.sev * 65536)) = d at hlast ⊢
  split
  · exact hlast d rfl
  · rw [getReg_writeRecord _ _ _ _ _ _ _ _ hdrop (by decide) (by decide) (by decide)]
    exact hlast d rfl

section
variable {src : BitVec 4} {tag : BitVec 16} {tick : BitVec 32} (corr : Int) {s : State} (hf : fenced s.chip src.toNat = false)
  (hs : tag.toNat ∉ tabGet [] s.chip.fab.seen src.toNat)
include hf hs

/-- A phase notice acts on the package that has confirmed it. -/
theorem exec_phaseNotice : ∃ d, exec (.phaseNotice src tag tick corr) s = .next (s.withChip (phaseNotice tick.toNat corr d)) ∧
    Heard src.toNat tag.toNat s.chip d := by
  obtain ⟨d, hd, hc⟩ := onConfirmed_acts (phaseNotice tick.toNat corr) hf hs
  exact ⟨d, congrArg (fun c => Host.Outcome.next (s.withChip c)) hd, hc⟩

theorem exec_phaseNotice_toCome (h : tickLe tick.toNat (getReg s.chip rTick) = false) :
    ∃ t, exec (.phaseNotice src tag tick corr) s = .next t ∧ sameRest s t ∧ t.chip.cad.notices = s.chip.cad.notices ++ [(tick.toNat, corr)] ∧
      .confirm src tag.toNat ∈ t.chip.out ∧ getReg t.chip rPhase = getReg s.chip rPhase ∧ t.chip.mem = s.chip.mem := by
  obtain ⟨d, hx, hw, hr, ho⟩ := exec_phaseNotice (tick := tick) corr hf hs
  have htick : getReg d rTick = getReg s.chip rTick := hr _ (.inl (by decide))
  rw [phaseNotice_toCome corr (by rw [htick]; exact h)] at hx
  rw [BitVec.ofNat_toNat, BitVec.setWidth_eq] at ho
  obtain ⟨_, _, _, _, rfl⟩ := hw
  exact ⟨_, hx, sameRest_withChip s _, rfl, ho, hr _ (.inl (by decide)), rfl⟩

theorem exec_phaseNotice_past (ht : ticking s.chip = true) (hfr : s.chip.cad.fresh = false)
    (h : tickLe tick.toNat (getReg s.chip rTick) = true) :
    ∃ t, exec (.phaseNotice src tag tick corr) s = .next t ∧ sameRest s t ∧ bit (getReg t.chip rCadStatus) 3 = true ∧
      getReg t.chip rErrLast = 0x0C01 + 2 * 65536 ∧ bit (getReg t.chip rStatus) 3 = true ∧ t.chip.cad = s.chip.cad := by
  obtain ⟨d, hx, hw, hr, -⟩ := exec_phaseNotice (tick := tick) corr hf hs
  have htick : getReg d rTick = getReg s.chip rTick := hr _ (.inl (by decide))
  have hrun : ticking d = true := (ticking_congr (hr _ (.inl (by decide)))).trans ht
  obtain ⟨_, _, _, _, hd⟩ := hw
  have hcad : d.cad = s.chip.cad := by rw [hd]
  rw [phaseNotice_past corr hrun (by rw [hcad]; exact hfr) (by rw [htick]; exact h)] at hx
  refine ⟨_, hx, sameRest_withChip s _, ?_, ?_, bit_putF_one _ rStatus (by decide), ?_⟩
  · show bit (getReg (putF _ rStatus 3 1 1) rCadStatus) 3 = true
    rw [getReg_putF_ne _ _ _ _ (by decide)]
    rw [getReg_report _ _ _ (by decide) (by decide) (show rCadStatus ≠ rErDrop 2 by decide) (by decide) (by decide) (by decide)]
    exact bit_putF_one _ rCadStatus (by decide)
  · show getReg (putF _ rStatus 3 1 1) rErrLast = _
    rw [getReg_putF_ne _ _ _ _ (by decide)]
    rw [getReg_report_errLast _ _ two_ne_zero]
    norm_num [eCadPhase]
  · obtain ⟨rg, rc, hrep⟩ := report_eq { code := eCadPhase, sev := 2, src := 0x24, arg := tick.toNat } (putF d rCadStatus 3 1 1)
    unfold setStatus
    rw [hrep]
    exact hcad

end

/-! ### The clauses of the statement -/

theorem cadenceControl : CadenceControl := by
  unfold CadenceControl
  refine ⟨fun s ht => ?guard, fun m w s hm hh h0 h1 ht hown hmaster => ?start, fun m w phi s hm hh h0 h1 ht hmaster hphi => ?resync,
    fun stamp s hmode hoff => ?stamped, fun stamp s hmode => ?ignored, fun stamp last n off s hmode ht hen hper hlast hstamp lo hi => ?far,
    fun src tag tick corr s hf hs => ⟨exec_phaseNotice_toCome corr hf hs, exec_phaseNotice_past corr hf hs⟩⟩
  case guard =>
    have hx : exec .tickGuardExpire s =
      .next (s.withChip (if ticking s.chip then modCad (fun x => { x with guardDone := true }) s.chip else s.chip)) := rfl
    rw [hx, if_pos ht]
    rfl
  case start =>
    have hx := exec_cadCtrl (.inl rfl) hm hh (wCadCtrl_start (c := s.chip) (some w.phi) w.v h0 h1)
    rw [cadStart_free _ ht hown hmaster] at hx
    refine ⟨_, hx, sameRest_withChip s _, ticking_beginTicks _, rfl, rfl, rfl, ?_⟩
    show getReg (putF (modCad _ _) rCadStatus 0 1 1) rPhase = _
    rw [getReg_putF_ne _ _ _ _ (by decide)]
    exact getReg_setPhase_phase (c := s.chip) (d := takeCadCfg s.chip) rfl rPhase
  case resync =>
    have hx := exec_cadCtrl (.inr rfl) hm hh (wCadCtrl_resync (c := s.chip) (some w.phi) w.v h0 h1)
    rw [cadResync_ticking ht (masterPhase_told w.phi hmaster), ← hphi] at hx
    refine ⟨_, hx, sameRest_withChip s _, ?_, rfl, rfl, rfl⟩
    show getReg (slewing _) rPhase = _
    rw [getReg_slewing_ne _ (by decide), getReg_setPhase_self]
  case stamped =>
    rw [exec_syncInEdge, if_neg (by omega), hoff]
    rfl
  case ignored =>
    rw [exec_syncInEdge, if_pos hmode]
  case far =>
    have hx := exec_syncInEdge stamp s
    rw [if_neg (by omega), ht, hen] at hx
    have hfar := syncEdge_far (c := { s.chip with syncNs := stamp.toNat }) hper hlast hstamp lo hi
    refine ⟨_, hx, sameRest_withChip s _, ?_⟩
    show (syncEdge _ _).cad = _ ∧ (syncEdge _ _).syncNs = _ ∧ getF (syncEdge _ _) rCadStatus 16 16 = _
    rw [hfar]
    exact ⟨rfl, rfl, getF_putF_self _ (by decide)⟩

/-- Settles O24: a tick is one equation of the next state, and each command that controls the ticks is another. -/
theorem cadenceRuns : Obligations.CadenceRuns := ⟨cadenceTickAdvances, cadenceControl⟩

end Sys2Proof.Machine
end

section
/-! PROOFS. Stealing and migration (R182 to R187): a sweep of a thief, a take in the terrace, and the return of a migrated item. -/

namespace Sys2Proof.Machine

/-! ### Sweeps (R182) -/

section
variable {b : Fin 32} {c : Chip}

theorem stealSweep_thief (hi : c.basins[b].thief = .idle) (ht : isThief c b = true) : stealSweep b c = sweepFrom b 5 1 (sweepBegun b c) := by
  unfold stealSweep
  rw [hi]
  exact if_pos ht

theorem stealSweep_noThief (hi : c.basins[b].thief = .idle) (ht : isThief c b = false) : stealSweep b c = c := by
  unfold stealSweep
  rw [hi]
  exact if_neg (by rw [ht]; decide)

/-- A basin that backs off, or waits for a take or for probes, does not sweep. -/
theorem stealSweep_waits (h : c.basins[b].thief = .backoff ∨ (∃ n v, c.basins[b].thief = .taking n v) ∨
    (∃ xs, c.basins[b].thief = .probing xs) ∨ ∃ p v, c.basins[b].thief = .takingFar p v) : stealSweep b c = c := by
  unfold stealSweep
  rcases h with h | ⟨n, v, h⟩ | ⟨xs, h⟩ | ⟨p, v, h⟩ <;> rw [h]

/-- The widest circle of a sweep, as WQ_CFG stood when it began. -/
def widestCircle (cfg : Nat) : Nat := if 4 < fld cfg 0 3 then 3 else fld cfg 0 3

theorem widestCircle_pos_of_thief (ht : isThief c b = true) : 1 ≤ widestCircle (getReg c rWqCfg) := by
  have hne : getF c rWqCfg 0 3 ≠ 0 := by
    simp only [isThief, Bool.and_eq_true, bne_iff_ne] at ht
    exact ht.2
  unfold getF at hne
  unfold widestCircle
  split <;> omega

theorem sweepBegun_cfg : (sweepBegun b c).basins[b].sweepCfg = getReg c rWqCfg := by rw [sweepBegun, basins_modBasin_self]

theorem sweepFrom_beyond {circle n : Nat} (h : widestCircle c.basins[b].sweepCfg < circle) : sweepFrom b n circle c = sweepEmpty b c := by
  cases n with
  | zero => rfl
  | succ n => exact if_pos h

theorem sweepFrom_found {circle n : Nat} {v : Fin 32} (hw : circle ≤ widestCircle c.basins[b].sweepCfg) (h3 : circle ≤ 3)
    (hv : findVictim c b circle = some v) : sweepFrom b (n + 1) circle c =
      modBasin b (fun s => { s with thief := .taking circle v, takeWin := getReg c rWqWindow }) c := by
  refine (if_neg (Nat.not_lt.mpr hw)).trans ((if_pos h3).trans ?_)
  rw [hv]

theorem sweepFrom_next {circle n : Nat} (hw : circle ≤ widestCircle c.basins[b].sweepCfg) (h3 : circle ≤ 3)
    (hv : findVictim c b circle = none) : sweepFrom b (n + 1) circle c = sweepFrom b n (circle + 1) c := by
  refine (if_neg (Nat.not_lt.mpr hw)).trans ((if_pos h3).trans ?_)
  rw [hv]

end

/-! ### Takes (R183, R184) -/

theorem modBasin_modBasin_self (b : Fin 32) (f g : Basin → Basin) (c : Chip) : modBasin b g (modBasin b f c) = modBasin b (fun s => g (f s)) c := by
  unfold modBasin
  simp

/-- A new chain in a context, its head stamped. -/
theorem stampHead_setChain (b : Fin 32) (k : Fin 16) (ch : Chain) (c : Chip) : stampHead b k (setChain b k (some ch) c) =
    modBasin b (fun s => { s with stamp := s.stamp + 1, chains := s.chains.set k.val (some { ch with stamp := s.stamp }) k.isLt }) c := by
  rw [stampHead_some (chains_setChain_self b k _ c)]
  unfold setChain
  rw [modBasin_modBasin_self, modBasin_modBasin_self]
  unfold modBasin
  simp

/-- What of a basin a change leaves, in every basin. -/
theorem basins_modBasin_keeps {α : Type} (g : Basin → α) (a b : Fin 32) {f : Basin → Basin} (h : ∀ s, g (f s) = g s) (c : Chip) :
    g (modBasin b f c).basins[a] = g c.basins[a] := by
  by_cases hab : a = b
  · rw [hab, basins_modBasin_self, h]
  · rw [basins_modBasin_ne _ _ hab]

theorem getReg_modBasin (b : Fin 32) (f : Basin → Basin) (c : Chip) (off : Nat) : getReg (modBasin b f c) off = getReg c off := rfl

theorem bump_one (c : Chip) (off : Nat) : bump c off = putReg c off (getReg c off + 1) := rfl

section
variable {b v : Fin 32} {k : Fin 16} {q : QItem} {c : Chip}

/-- The hold of an item that was held at home goes on in the context of its thief. -/
def holdsMoved (b home : Fin 32) (k : Fin 16) (q : QItem) (c : Chip) : Chip :=
  let held := if q.heldSince.isSome then c.basins[home].holds.filter (itemHold q) else []
  modBasin b (fun s => { s with holds := s.holds ++ held.map (fun h => { h with chain := chainHold k }) })
    (modBasin home (fun s => { s with holds := s.holds.filter (fun h => !held.contains h) }) c)

/-- The chain of an item that is stolen in place. -/
def stolenChain (home : Fin 32) (q : QItem) (c : Chip) : Chain :=
  { item := q.item, homePkg := c.power.pkgId, home := home, place := .inPlace, pc := q.item.chain.toNat, ahead := q.ahead.getD [],
    ticket := q.ticket }

theorem stolenAhead_known (ha : q.item.pfEn = false ∨ q.ahead.isSome = true) : stolenAhead v q c = (q.ahead.getD [], c) := by
  unfold stolenAhead
  refine if_pos ?_
  rcases ha with h | h <;> rw [h]
  · rfl
  · exact Bool.or_true _

/-- An item stolen in the terrace begins in place, and STEAL_IN counts it. -/
theorem beginStolen_inPlace (hk : freeContextOf c.basins[b] = some k) (ht : terraceOf v = terraceOf b)
    (ha : q.item.pfEn = false ∨ q.ahead.isSome = true) : beginStolen b c.power.pkgId v q c =
      bump (stampHead b k (setChain b k (some (stolenChain v q c)) (holdsMoved b v k q c))) (rWqCtr b.val 0) := by
  unfold beginStolen
  rw [hk]
  simp only [ht, and_self, if_true, stolenAhead_known ha]
  rfl

theorem serveTake_found {circle i : Nat} (ht : c.basins[b].thief = .taking circle v) (he : enabled c b = true)
    (hf : takeFrom c v circle (freeJets c.basins[b]) c.basins[b].takeWin c.basins[b].occupied = some (i, q))
    (hk : freeContextOf c.basins[b] = some k) :
    serveTake b c = beginStolen b c.power.pkgId v q (bump (takeOut v i (setThief b .idle c)) (rWqCtr v.val 1)) := by
  unfold serveTake
  rw [ht]
  dsimp only
  rw [if_neg (by rw [he]; decide), hf]
  dsimp only
  rw [if_neg (by rw [hk]; exact Bool.false_ne_true)]

/-- The package once a place of `v`'s queue has been taken out for the thief `b`. -/
def takenOut (b v : Fin 32) (i : Nat) (c : Chip) : Chip := bump (takeOut v i (setThief b .idle c)) (rWqCtr v.val 1)

theorem takenOut_thief (h : v ≠ b) (i : Nat) : (takenOut b v i c).basins[b] = { c.basins[b] with thief := .idle } := by
  unfold takenOut takeOut setThief
  rw [bump_one, putReg_basins, basins_modBasin_ne _ _ h.symm, basins_modBasin_self]

theorem takenOut_victim (h : v ≠ b) (i : Nat) : (takenOut b v i c).basins[v] = { c.basins[v] with queue := c.basins[v].queue.eraseIdx i } := by
  unfold takenOut takeOut setThief
  rw [bump_one, putReg_basins, basins_modBasin_self, basins_modBasin_ne _ _ h]

theorem rWqCtr_inj {a b : Fin 32} {i j : Nat} (hi : i < 8) (hj : j < 8) (h : rWqCtr a.val i = rWqCtr b.val j) : i = j := by
  unfold rWqCtr at h; omega

/-- The package once a take in the terrace has moved an item, which runs in context `k` of its thief. -/
def stolen (b v : Fin 32) (i : Nat) (k : Fin 16) (q : QItem) (c : Chip) : Chip :=
  bump (stampHead b k (setChain b k (some (stolenChain v q c)) (holdsMoved b v k q (takenOut b v i c)))) (rWqCtr b.val 0)

theorem takenOut_power (i : Nat) : (takenOut b v i c).power = c.power := by
  unfold takenOut takeOut setThief
  rw [bump_one, putReg_power, modBasin_power, modBasin_power]

/-- A take in the terrace that finds an item (R183, R184). -/
theorem serveTake_stolen {i : Nat} (ht : c.basins[b].thief = .taking 1 v) (hne : v ≠ b) (hter : terraceOf v = terraceOf b)
    (he : enabled c b = true) (hf : takeFrom c v 1 (freeJets c.basins[b]) c.basins[b].takeWin c.basins[b].occupied = some (i, q))
    (hk : freeContextOf c.basins[b] = some k) (ha : q.item.pfEn = false ∨ q.ahead.isSome = true) :
    serveTake b c = stolen b v i k q c := by
  have hfree : freeContextOf (takenOut b v i c).basins[b] = some k := by rw [takenOut_thief hne]; exact hk
  have hbegin := beginStolen_inPlace hfree hter ha
  unfold stolenChain at hbegin
  rw [takenOut_power] at hbegin
  exact (serveTake_found ht he hf hk).trans hbegin

theorem stolen_mem (i : Nat) : (stolen b v i k q c).mem = c.mem := by
  unfold stolen holdsMoved takenOut takeOut setThief
  simp only [stampHead_setChain, bump_mem, modBasin_mem]

theorem stolen_victim (h : v ≠ b) (i : Nat) : (stolen b v i k q c).basins[v].queue = c.basins[v].queue.eraseIdx i := by
  unfold stolen
  rw [stampHead_setChain, bump_one, putReg_basins, basins_modBasin_ne _ _ h]
  unfold holdsMoved
  dsimp only
  rw [basins_modBasin_ne _ _ h, basins_modBasin_self, takenOut_victim h]

theorem stolen_thief (h : v ≠ b) (i : Nat) : (stolen b v i k q c).basins[b].thief = .idle ∧
    (stolen b v i k q c).basins[b].chains[k] = some { stolenChain v q c with stamp := c.basins[b].stamp } := by
  unfold stolen
  rw [stampHead_setChain, bump_one, putReg_basins, basins_modBasin_self]
  unfold holdsMoved
  dsimp only
  rw [basins_modBasin_self, basins_modBasin_ne _ _ h.symm, takenOut_thief h]
  exact ⟨rfl, by simp⟩

theorem getReg_stolen (i : Nat) : getReg (stolen b v i k q c) (rWqCtr v.val 1) = (getReg c (rWqCtr v.val 1) + 1) % 2 ^ 32 ∧
    getReg (stolen b v i k q c) (rWqCtr b.val 0) = (getReg c (rWqCtr b.val 0) + 1) % 2 ^ 32 := by
  have hne : ∀ x y : Fin 32, rWqCtr x.val 1 ≠ rWqCtr y.val 0 := fun x y h => absurd (rWqCtr_inj (by decide) (by decide) h) (by decide)
  unfold stolen holdsMoved takenOut takeOut setThief
  rw [stampHead_setChain]
  constructor
  · simp only [getReg_bump_ne _ _ (hne v b), getReg_modBasin, getReg_bump_self]
  · simp only [getReg_bump_self, getReg_modBasin, getReg_bump_ne _ _ (hne v b).symm]

end

/-! ### The return of a migrated item (R185, R187) -/

section
variable {src dst n : Nat} {c : Chip}

/-- A range copied within a package without errors. -/
theorem copyRange_clean (hp : pkgOf src = pkg c) (he : c.ecc = []) : runEff (copyRange src dst n) c =
    (putMem c dst (memReadN c.mem src n), .ok ()) := by
  rw [runEff_eq_ok]
  unfold copyRange
  exact (bind_ok (readMem_clean copyUnit src n c he hp)).trans (writeMem_ok _ _ _)

end

theorem putMem_jobs (c : Chip) (a : Nat) (bs : List Byte) : (putMem c a bs).jobs = c.jobs := by unfold putMem; split <;> rfl

/-- The event counters once signals have been added to them. -/
def ctrSignalled (signals : List Nat) (t : Tab Nat) : Tab Nat := signals.foldl (fun t n => tabSet t n ((tabGet 0 t n + 1) % 65536)) t

section
variable {b : Fin 32} {k : Fin 16} {ch : Chain} {c : Chip}

/-- A migrated chain without a ticket frees its context, and STEAL_IN counts it. -/
theorem freeContext_migrated (hc : c.basins[b].chains[k] = some ch) (ht : ch.ticket = none) (hp : ch.place = .migrated) :
    freeContext b k c = modBasin b (fun s => { s with
      drain := s.drain.filter (· != k),
      occupied := s.occupied.filter (fun g => !(granules ch.item.workOff.toNat ch.item.workLen.toNat).contains g) })
      (bump (setChain b k none c) (rWqCtr b.val 0)) := by
  unfold freeContext
  rw [hc]
  dsimp only
  rw [releaseTicket_none (noTicket_of_chain hc ht), hp]
  rfl

/-- The end of a return within the package, of an item without a done word. -/
theorem returnEnds_here (hp : ch.homePkg = c.power.pkgId) (hd : ch.item.done = 0) : returnEnds b k ch c =
    freeContext b k (modBasin ch.home (fun s => { s with ctr := ctrSignalled ch.signals s.ctr }) c) := by
  have hdone : ∀ d, addDone b ch.item d = d := fun d => by unfold addDone; rw [hd]; rfl
  unfold returnEnds
  dsimp only
  rw [if_pos hp, hdone]
  rfl

/-- The package once the return range of a migrated item lies at its home. -/
def returned (b : Fin 32) (ch : Chain) (c : Chip) : Chip :=
  putMem c (sram c ch.home ch.item.retOff.toNat) (memReadN c.mem (sram c b ch.item.retOff.toNat) (ch.item.retLen.toNat * 64))

theorem migrateReturn_here (hc : c.basins[b].chains[k] = some ch) (hpl : ch.place = .migrated) (hl : ch.lastDone = true)
    (hs : ch.stopped = false) (hf : ch.flight = []) (hp : ch.homePkg = c.power.pkgId) (he : c.ecc = []) :
    migrateReturn b k c = returnEnds b k ch (returned b ch c) := by
  have hoff : ch.item.retOff.toNat < 0x800000 := by have := ch.item.retOff.isLt; omega
  have hgo : ¬ (ch.place ≠ .migrated ∨ !ch.lastDone ∨ ch.stopped ∨ ch.flight ≠ []) := by simp [hpl, hl, hs, hf]
  unfold migrateReturn
  split
  · next hnone => rw [hc] at hnone; cases hnone
  · next x hx =>
    cases hc.symm.trans hx
    refine (if_neg hgo).trans ((if_pos hp).trans ?_)
    rw [copyRange_clean (pkgOf_sram c b _ hoff) he]
    rfl

theorem migratedItemReturns : MigratedItemReturns := by
  intro b k s ch hc hpl hl hs hf hp ht hd he hj
  have hx : exec (.migrateReturn b (.mine k)) s = .next (s.withChip (pollReady (migrateReturn b k s.chip))) := rfl
  rw [migrateReturn_here hc hpl hl hs hf hp he] at hx
  have hmem : (returned b ch s.chip).mem = _ := putMem_mem _ _ _
  have hbas : (returned b ch s.chip).basins = s.chip.basins := putMem_basins _ _ _
  have hpow : (returned b ch s.chip).power = s.chip.power := putMem_power _ _ _
  have hjobs : (returned b ch s.chip).jobs = s.chip.jobs := putMem_jobs _ _ _
  have hreg := getReg_putMem s.chip (sram s.chip ch.home ch.item.retOff.toNat)
    (memReadN s.chip.mem (sram s.chip b ch.item.retOff.toNat) (ch.item.retLen.toNat * 64)) (rWqCtr b.val 0)
  change getReg (returned b ch s.chip) _ = _ at hreg
  generalize returned b ch s.chip = c at hx hmem hbas hpow hjobs hreg
  rw [returnEnds_here (hp.trans (congrArg Power.pkgId hpow.symm)) hd] at hx
  have hchain : (modBasin ch.home (fun s => { s with ctr := ctrSignalled ch.signals s.ctr }) c).basins[b].chains[k] = some ch := by
    rw [basins_modBasin_keeps Basin.chains (h := ?keeps), hbas]
    case keeps => exact fun _ => rfl
    exact hc
  rw [freeContext_migrated hchain ht hpl, pollReady_noJobs (by rw [bump_one]; exact hjobs.trans hj)] at hx
  refine ⟨_, hx, sameRest_withChip s _, (bump_mem _ _ _).trans hmem, ?_, ?_, ?_⟩
  · rw [withChip_chip, basins_modBasin_self, bump_one, putReg_basins]
    exact chains_setChain_self b k none _
  · rw [withChip_chip, basins_modBasin_keeps Basin.ctr (h := ?freed), bump_one, putReg_basins]
    case freed => exact fun _ => rfl
    unfold setChain
    rw [basins_modBasin_keeps Basin.ctr (h := ?ended), basins_modBasin_self, hbas]
    case ended => exact fun _ => rfl
    rfl
  · rw [withChip_chip, getReg_modBasin, getReg_bump_self]
    exact congrArg (fun n => (n + 1) % 2 ^ 32) hreg

end

/-! ### The clauses of the statement -/

theorem stealingMovesItems : StealingMovesItems := by
  unfold StealingMovesItems
  refine ⟨fun b v s hi ht hv => ?found, fun b s hi ht hv hw => ?empty, fun b s hi ht => ?noThief, fun b s h => ?waits, fun b s h => ?backoff,
    fun src tb s hf hp hmode => ?probe, fun b v i q k s ht hne hter he hq hk ha => ?take⟩
  case found =>
    have hx : exec (.stealSweep b) s = .next (s.withChip (stealSweep b s.chip)) := rfl
    have hpos := widestCircle_pos_of_thief ht
    rw [hx, stealSweep_thief hi ht, sweepFrom_found (by rw [sweepBegun_cfg]; exact hpos) (by decide) hv]
    rfl
  case empty =>
    have hx : exec (.stealSweep b) s = .next (s.withChip (stealSweep b s.chip)) := rfl
    have hone : widestCircle (getReg s.chip rWqCfg) = 1 := by
      unfold getF at hw
      unfold widestCircle
      rw [hw]
      rfl
    rw [stealSweep_thief hi ht, sweepFrom_next (by rw [sweepBegun_cfg, hone]) (by decide) hv,
      sweepFrom_beyond (by rw [sweepBegun_cfg, hone]; decide)] at hx
    refine ⟨_, hx, sameRest_withChip s _, ?_, bump_mem _ _ _, getReg_bump_self _ _ 1⟩
    rw [withChip_chip, sweepEmpty, setThief, basins_modBasin_self]
  case noThief =>
    have hx : exec (.stealSweep b) s = .next (s.withChip (stealSweep b s.chip)) := rfl
    rw [hx, stealSweep_noThief hi ht]
  case waits =>
    have hx : exec (.stealSweep b) s = .next (s.withChip (stealSweep b s.chip)) := rfl
    rw [hx, stealSweep_waits h]
  case backoff =>
    have hx : exec (.stealBackoffExpire b) s =
      .next (s.withChip (if s.chip.basins[b].thief = .backoff then setThief b .idle s.chip else s.chip)) := rfl
    rw [if_pos h] at hx
    refine ⟨_, hx, sameRest_withChip s _, ?_, rfl, rfl⟩
    rw [withChip_chip, setThief, basins_modBasin_self]
  case probe =>
    have hx : exec (.stealProbe (.ask src tb)) s = .next (s.withChip (if fenced s.chip src.toNat || modeOf s.chip != 0 then s.chip
      else sendHub src.toNat (.probeAnswer tb (fabricBest s.chip).1 (fabricBest s.chip).2) s.chip)) := rfl
    have hpkg : src.toNat ≠ pkg s.chip := fun h => hp (BitVec.eq_of_toNat_eq h)
    have hout := sendHub_out (.probeAnswer tb (fabricBest s.chip).1 (fabricBest s.chip).2) hf hpkg
    rw [BitVec.ofNat_toNat, BitVec.setWidth_eq] at hout
    rw [hf, hmode, if_neg (by decide)] at hx
    obtain ⟨_, _, _, _, hw⟩ := sendHub_wire src.toNat (.probeAnswer tb (fabricBest s.chip).1 (fabricBest s.chip).2) s.chip
    refine ⟨_, hx, sameRest_withChip s _, ?_, ?_, hout⟩
    · rw [withChip_chip, hw]
    · rw [withChip_chip, hw]
  case take =>
    have hx : exec (.stealTake (.serve b)) s = .next (s.withChip (serveTake b s.chip)) := rfl
    rw [serveTake_stolen ht hne hter he hq hk ha] at hx
    obtain ⟨hidle, hchain⟩ := stolen_thief (k := k) (q := q) (c := s.chip) hne i
    obtain ⟨hout, hin⟩ := getReg_stolen (b := b) (v := v) (k := k) (q := q) (c := s.chip) i
    exact ⟨_, hx, sameRest_withChip s _, stolen_mem i, stolen_victim hne i, hidle, hout, hin, _, hchain, rfl, rfl, rfl, rfl, rfl⟩

/-- Settles O22: each case of a sweep, a take or a return is one equation of the next state, from which its clauses are read. -/
theorem itemsMoveAndReturn : Obligations.ItemsMoveAndReturn := ⟨stealingMovesItems, migratedItemReturns⟩

end Sys2Proof.Machine
end

section
/-! PROOFS. What becomes of queued items (R191, R192, R252, R285, R322, R425): an item that is queued stays in its queue or leaves it, whatever a
containment, a fence, a move of a record or a commit point does beside. -/

namespace Sys2Proof.Machine

/-! ### Queues that gain no item -/

/-- Every queue of `d` holds none but items that the same queue of `c` held. -/
def QueuesWithin (c d : Chip) : Prop := ∀ b : Fin 32, ∀ q ∈ d.basins[b].queue, ∃ p ∈ c.basins[b].queue, p.item = q.item

theorem QueuesWithin.refl (c : Chip) : QueuesWithin c c := fun _ q hq => ⟨q, hq, rfl⟩

theorem QueuesWithin.trans {c d e : Chip} (h : QueuesWithin c d) (k : QueuesWithin d e) : QueuesWithin c e := fun b q hq => by
  obtain ⟨p, hp, hpq⟩ := k b q hq
  obtain ⟨r, hr, hrp⟩ := h b p hp
  exact ⟨r, hr, hrp.trans hpq⟩

theorem QueuesWithin.foldl {α : Type} {f : Chip → α → Chip} (h : ∀ c x, QueuesWithin c (f c x)) (xs : List α) (c : Chip) :
    QueuesWithin c (xs.foldl f c) :=
  foldl_keeps xs (fun d x _ hd => hd.trans (h d x)) (QueuesWithin.refl c)

theorem QueuesWithin.of_basins {c d : Chip} (h : d.basins = c.basins) : QueuesWithin c d := fun b q hq => ⟨q, by rwa [h] at hq, rfl⟩

/-- What a queue holds is told by the basins alone. -/
theorem QueuesWithin.congr {c d e : Chip} (h : QueuesWithin c d) (hb : e.basins = d.basins) : QueuesWithin c e := h.trans (.of_basins hb)

theorem WireOnly.queues {c d : Chip} (h : WireOnly c d) : QueuesWithin c d := by
  obtain ⟨_, _, _, _, rfl⟩ := h
  exact .of_basins rfl

theorem modBasin_queues (b : Fin 32) {f : Basin → Basin} (c : Chip) (h : ∀ s, ∀ q ∈ (f s).queue, ∃ p ∈ s.queue, p.item = q.item) :
    QueuesWithin c (modBasin b f c) := fun a q hq => by
  by_cases hab : a = b
  · subst hab
    rw [basins_modBasin_self] at hq
    exact h _ q hq
  · rw [basins_modBasin_ne _ _ hab] at hq
    exact ⟨q, hq, rfl⟩

theorem modBasin_sameQueue (b : Fin 32) {f : Basin → Basin} (c : Chip) (h : ∀ s, (f s).queue = s.queue) : QueuesWithin c (modBasin b f c) :=
  modBasin_queues b c fun s q hq => ⟨q, by rwa [h] at hq, rfl⟩

theorem putF_queues (c : Chip) (off lo w v : Nat) : QueuesWithin c (putF c off lo w v) := .of_basins rfl

theorem bump_basins (c : Chip) (off n : Nat) : (bump c off n).basins = c.basins := by
  obtain ⟨rg, h⟩ := bump_eq c off n
  rw [h]

theorem bumpUnits_basins (c : Chip) (off unit n : Nat) : (bumpUnits c off unit n).basins = c.basins := bump_basins _ _ _

theorem bump_queues (c : Chip) (off n : Nat) : QueuesWithin c (bump c off n) := .of_basins (bump_basins c off n)

theorem report_queues (r : Report) (c : Chip) : QueuesWithin c (report r c) := by
  obtain ⟨rg, rc, h⟩ := report_eq r c
  exact .of_basins (by rw [h])

theorem putMem_queues (c : Chip) (a : Nat) (bs : List Byte) : QueuesWithin c (putMem c a bs) := .of_basins (putMem_basins c a bs)

theorem undefine_queues (c : Chip) (a n : Nat) : QueuesWithin c (undefine c a n) := .of_basins (putMem_basins _ _ _)

theorem setChain_queues (b : Fin 32) (k : Fin 16) (o : Option Chain) (c : Chip) : QueuesWithin c (setChain b k o c) :=
  modBasin_sameQueue b c fun _ => rfl

/-! ### Run-ahead copies discarded, and containment (R191, R424, R425) -/

theorem modRec_queues (n : Nat) (f : Rec → Rec) (c : Chip) : QueuesWithin c (modRec n f c) := by
  unfold modRec
  split
  · exact .of_basins rfl
  · exact .refl c

theorem undefineAll_queues (xs : List (Nat × Nat)) (c : Chip) : QueuesWithin c (xs.foldl (fun c d => undefine c d.1 d.2) c) :=
  .foldl (fun c d => undefine_queues c d.1 d.2) xs c

theorem dropClaims_queues (xs : List RunCopy) (c : Chip) : QueuesWithin c (dropClaims xs c) := by
  unfold dropClaims
  refine .foldl (fun c x => ?_) xs c
  split
  · exact modRec_queues _ _ _
  · exact .refl c

theorem discardCopies_queues (b : Fin 32) (xs : List RunCopy) (c : Chip) : QueuesWithin c (discardCopies b xs c) := by
  unfold discardCopies
  refine QueuesWithin.trans (.foldl (fun c x => ?_) xs c) ((dropClaims_queues xs _).trans (bump_queues _ _ _))
  split
  · split
    · exact undefineAll_queues _ c
    · exact .refl c
  · exact undefineAll_queues _ c

theorem discardAhead_queues (b : Fin 32) (p : QItem → Bool) (c : Chip) : QueuesWithin c (discardAhead b p c) := by
  unfold discardAhead
  refine QueuesWithin.trans (.foldl (fun c xs => discardCopies_queues b xs c) _ c) (modBasin_queues b _ fun s q hq => ?_)
  obtain ⟨q', hq', rfl⟩ := List.mem_map.mp hq
  exact ⟨q', hq', by split <;> rfl⟩

theorem discardBegun_queues (b : Fin 32) (j : Nat) (c : Chip) : QueuesWithin c (discardBegun b j c) := by
  unfold discardBegun
  refine .foldl (fun c p => ?_) _ c
  split
  · exact .refl c
  · exact (discardCopies_queues _ _ _).trans (setChain_queues _ _ _ _)

theorem sendConfirmed_queues (ds : List Nat) (x : HubMsg) (c : Chip) : QueuesWithin c (sendConfirmed ds x c) := (sendConfirmed_wire ds x c).queues

theorem contain_queues (j code : Nat) (c : Chip) : QueuesWithin c (contain j code c) := by
  unfold contain
  split
  · exact .refl c
  · refine QueuesWithin.trans ?_ (sendConfirmed_queues _ _ _)
    refine QueuesWithin.trans ?_ (.foldl (fun c b => (discardAhead_queues b _ c).trans (discardBegun_queues b j _)) _ _)
    exact QueuesWithin.trans (d := modJob j (fun x => { x with contained := true, code := code }) c) (.of_basins rfl) (bump_queues _ _ _)

theorem hubError_queues (job : Nat) (e : Stop) (c : Chip) : QueuesWithin c (hubError job e c) :=
  (report_queues _ c).trans (contain_queues _ _ _)

/-- Items that become held at a barrier stay queued (R285). -/
theorem refreshHeld_queues (c : Chip) : QueuesWithin c (refreshHeld c) := by
  unfold refreshHeld
  dsimp only
  generalize hd : (List.finRange 32).foldl _ c = d
  have hq : QueuesWithin c d := by
    rw [← hd]
    refine .foldl (fun c b => ?_) _ c
    split
    · exact discardAhead_queues _ _ _
    · exact .refl c
  split
  · split
    · exact hq.trans (.of_basins rfl)
    · exact hq
  · split
    · exact hq
    · exact hq.trans (.of_basins (bumpUnits_basins _ _ _ _))

/-! ### Requests to other packages (R302, R303, R314) -/

theorem sendReq_queues (l : Fin 12) (t : Txn) (f : Flit) (c : Chip) : QueuesWithin c (sendReq l t f c) :=
  QueuesWithin.trans (d := { c with fab := { c.fab with txns := c.fab.txns ++ [t] } }) (.of_basins rfl) (enqueue_wire _ _ _ _).queues

theorem takeTag_queues (c : Chip) : QueuesWithin c (takeTag c).2 := .of_basins rfl

theorem sendRead_queues (l : Fin 12) (a len : Nat) (m : Master) (who : Requester) (c : Chip) (off : Nat) :
    QueuesWithin c (sendRead l a len m who c off).2 := (takeTag_queues c).trans (sendReq_queues _ _ _ _)

theorem sendWrite_queues (l : Fin 12) (a : Nat) (bs : List Byte) (m : Master) (who : Requester) (c : Chip) :
    QueuesWithin c (sendWrite l a bs m who c).2 := (takeTag_queues c).trans (sendReq_queues _ _ _ _)

theorem sendAtomic_queues (l : Fin 12) (a : Nat) (bs : List Byte) (m : Master) (who : Requester) (c : Chip) :
    QueuesWithin c (sendAtomic l a bs m who c).2 := (takeTag_queues c).trans (sendReq_queues _ _ _ _)

theorem sendAsked_queues (l : Fin 12) (m : Master) (who : Requester) (x : FarReq) (c : Chip) : QueuesWithin c (sendAsked l m who x c).2 := by
  unfold sendAsked
  split
  · exact sendRead_queues _ _ _ _ _ _ _
  · split
    · exact sendWrite_queues _ _ _ _ _ _
    · exact sendAtomic_queues _ _ _ _ _ _

theorem writeHub_queues (a : Nat) (bs : List Byte) (c : Chip) : QueuesWithin c (writeHub a bs c) := by
  unfold writeHub
  split
  · exact putMem_queues _ _ _
  · refine .foldl (fun c p => ?_) _ c
    split
    · exact sendWrite_queues _ _ _ _ _ _
    · exact .refl c

/-! ### Model sets as a package is lost (R281, R282, R287) -/

theorem finishCmd_queues (addr code cause : Nat) (c : Chip) : QueuesWithin c (finishCmd addr code cause c) := by
  unfold finishCmd
  dsimp only
  split
  · exact writeHub_queues _ _ _
  · exact QueuesWithin.trans ((writeHub_queues _ _ _).trans (putF_queues _ _ _ _ _)) (report_queues _ _)

theorem finishCmdAt_queues (addr : Option Nat) (code cause : Nat) (c : Chip) : QueuesWithin c (finishCmdAt addr code cause c) := by
  cases addr
  · exact .refl c
  · exact finishCmd_queues _ _ _ _

theorem modSlot_queues (m : Fin 32) (n : Nat) (f : Slot → Slot) (c : Chip) : QueuesWithin c (modSlot m n f c) := modBasin_sameQueue m c fun _ => rfl

theorem releaseLoadHolds_queues (l : Load) (c : Chip) : QueuesWithin c (releaseLoadHolds l c) := .foldl (fun _ _ => modSlot_queues _ _ _ _) _ c

theorem endLoad_queues (e cause : Nat) (c : Chip) : QueuesWithin c (endLoad e cause c) := by
  unfold endLoad
  split
  · exact .refl c
  · next l _ =>
    have hended : ∀ d : Chip, QueuesWithin c d → QueuesWithin c (if l.mine then finishCmdAt l.block eLoadFail cause (bump d (rMsCtr 5)) else d) := by
      intro d hd
      split
      · exact hd.trans ((bump_queues _ _ _).trans (finishCmdAt_queues _ _ _ _))
      · exact hd
    refine hended _ ?_
    split
    · refine QueuesWithin.trans ?_ (.foldl (fun c s => undefine_queues _ _ _) _ _)
      refine QueuesWithin.trans ?_ (releaseLoadHolds_queues _ _)
      split <;> exact .of_basins rfl
    · exact .of_basins rfl

theorem failLoad_queues (e cause : Nat) (c : Chip) : QueuesWithin c (failLoad e cause c) := by
  unfold failLoad
  split
  · exact .refl c
  · exact (sendConfirmed_queues _ _ _).trans (endLoad_queues _ _ _)

theorem modRepl_queues (e : Nat) (f : Repl → Repl) (c : Chip) : QueuesWithin c (modRepl e f c) := by
  unfold modRepl
  split
  · exact .of_basins rfl
  · exact .refl c

theorem releaseRepl_queues (e : Nat) (c : Chip) : QueuesWithin c (releaseRepl e c) := by
  unfold releaseRepl
  split
  · exact .refl c
  · refine QueuesWithin.trans ?_ ((refreshHeld_queues _).trans (finishCmd_queues _ _ _ _))
    refine QueuesWithin.trans ?_ ((putF_queues _ _ _ _ _).trans ((putF_queues _ _ _ _ _).trans (putF_queues _ _ _ _ _)))
    exact .of_basins rfl

theorem replDoneAt_queues (e p : Nat) (c : Chip) : QueuesWithin c (replDoneAt e p c) := by
  have hd := modRepl_queues e (fun r => { r with dones := insertNat p r.dones }) c
  unfold replDoneAt
  generalize modRepl e (fun r => { r with dones := insertNat p r.dones }) c = d at hd
  dsimp only
  split
  · exact hd
  · split
    · exact hd.trans ((sendConfirmed_queues _ _ _).trans (releaseRepl_queues _ _))
    · exact hd

theorem reportReplDone_queues (e : Nat) (c : Chip) : QueuesWithin c (reportReplDone e c) := by
  have hd := modRepl_queues e (fun r => { r with doneSent := true }) c
  unfold reportReplDone
  generalize modRepl e (fun r => { r with doneSent := true }) c = d at hd
  dsimp only
  split
  · exact .refl c
  · split
    · exact hd
    · split
      · exact hd.trans (replDoneAt_queues _ _ _)
      · exact hd.trans (sendConfirmed_queues _ _ _)

theorem msFenced_queues (p : Nat) (c : Chip) : QueuesWithin c (msFenced p c) := by
  unfold msFenced
  dsimp only
  refine QueuesWithin.trans (.foldl (fun c x => ?load) _ c) (.foldl (fun c x => ?repl) _ _)
  case load =>
    split
    · exact failLoad_queues _ _ _
    · split
      · exact endLoad_queues _ _ _
      · exact .refl c
  case repl =>
    split
    · exact .refl c
    · split
      · exact reportReplDone_queues _ _
      · split
        · split
          · exact replDoneAt_queues _ _ _
          · exact .refl c
        · exact .refl c

/-! ### Fences (R302, R322) -/

theorem mailsFenced_queues (p : Nat) (c : Chip) : QueuesWithin c (mailsFenced p c) := by
  unfold mailsFenced
  dsimp only
  refine QueuesWithin.trans ?_ (.foldl (fun c x => ?_) _ _)
  · exact .of_basins rfl
  · exact (report_queues _ c).congr rfl

theorem afterFence_queues (p cause : Nat) (by' : Option (Nat × Nat)) (c : Chip) : QueuesWithin c (afterFence p cause by' c) := by
  unfold afterFence
  dsimp only
  refine QueuesWithin.trans ?_ (msFenced_queues _ _)
  refine QueuesWithin.trans ?_ (.foldl (fun c j => contain_queues _ _ _) _ _)
  refine QueuesWithin.trans (QueuesWithin.trans ?_ (report_queues _ _)) (putF_queues _ _ _ _ _)
  have hmails : QueuesWithin c (mailsFenced p (unconfirm p { c with away := c.away.filter (fun x => x.thief.toNat != p) })) :=
    QueuesWithin.trans (.of_basins rfl) (mailsFenced_queues p _)
  split
  · exact hmails
  · exact hmails.trans (sendConfirmed_queues _ _ _)

theorem noteFence_queues (p cause : Nat) (by' : Option (Nat × Nat)) (c : Chip) : QueuesWithin c (noteFence p cause by' c) := by
  unfold noteFence
  refine QueuesWithin.trans ?_ ((putF_queues _ _ _ _ _).trans (putF_queues _ _ _ _ _))
  exact .of_basins rfl

theorem fenceUnreached_queues (p : Nat) (c : Chip) : QueuesWithin c (fenceUnreached p c) := by
  unfold fenceUnreached
  split
  · exact .refl c
  · exact (noteFence_queues _ _ _ _).trans (afterFence_queues _ _ _ _)

/-! ### What a unit asks of other packages (R314) -/

theorem codeLink_queues (l : Fin 12) (job dst : Nat) (bs : List Byte) (c : Chip) : QueuesWithin c (codeLink l job dst bs c) := by
  unfold codeLink
  split
  · exact .refl c
  · refine .foldl (fun c p => ?_) _ c
    exact .of_basins rfl

theorem codeWrites_queues (who : Requester) (c : Chip) : QueuesWithin c (codeWrites who c) := by
  unfold codeWrites
  refine .foldl (fun c w => ?_) _ c
  split
  · exact codeLink_queues _ _ _ _ _
  · exact .refl c

theorem flushOne_queues (m : Master) (who : Requester) (r : (List Nat × Option Nat) × Chip) (p : FarReq × Nat) :
    QueuesWithin r.2 (flushOne m who r p).2 := by
  unfold flushOne
  dsimp only
  generalize (if p.1.quiet = true then _ else who) = w
  split
  · exact .refl _
  · split
    · exact .refl _
    · split
      · split
        · exact .refl _
        · exact fenceUnreached_queues _ _
      · next l _ =>
        have hs := sendAsked_queues l m w p.1 r.2
        generalize sendAsked l m w p.1 r.2 = q at hs
        dsimp only
        split
        · exact hs.congr rfl
        · exact hs

theorem flushFar_queues (m : Master) (who : Requester) (c : Chip) : QueuesWithin c (flushFar m who c).2 := by
  have hsent : QueuesWithin c ((farNumbered c.fab.far).foldl (flushOne m who) (([], none), codeWrites who c)).2 :=
    foldl_keeps (I := fun r => QueuesWithin c r.2) _ (fun r p _ hr => hr.trans (flushOne_queues m who r p)) (codeWrites_queues who c)
  exact hsent.trans (.of_basins rfl)

theorem flushHub_queues (who : Requester) (c : Chip) : QueuesWithin c (flushHub who c).2 := flushFar_queues _ _ _

end Sys2Proof.Machine
end

section
/-! PROOFS. What a released pin lets go on, and what leaves a queue, gives no queue an item (R111, R192, R252). -/

namespace Sys2Proof.Machine

/-! ### Moves of records that a released pin lets go on (R111, R252) -/

theorem askFar_basins (x : FarReq) (c : Chip) : (askFar x c).basins = c.basins := by
  unfold askFar
  split <;> rfl

theorem askRead_queues (a n : Nat) (c : Chip) : QueuesWithin c (askRead a n c) := .foldl (fun c x => .of_basins (askFar_basins x c)) _ c

theorem askWrite_queues (a : Nat) (bs : List Byte) (c : Chip) : QueuesWithin c (askWrite a bs c) := by
  unfold askWrite
  refine .foldl (fun c p => ?_) _ c
  exact .of_basins (askFar_basins _ c)

/-- What a unit of the hub forgets and begins afresh is the fabric's alone. -/
theorem beginForgotten_queues (who : Requester) (c : Chip) : QueuesWithin c (beginFar who (forgetFar who c)) := .of_basins rfl

theorem askLower_queues (n : Nat) (r : Rec) (c : Chip) : QueuesWithin c (askLower n r c) := by
  unfold askLower
  split
  · exact .refl c
  · exact (beginForgotten_queues _ c).trans ((askRead_queues _ _ _).trans (flushHub_queues _ _))

theorem joinMove_queues (n up : Nat) (c : Chip) : QueuesWithin c (joinMove n up c) := by
  unfold joinMove
  split
  · exact modBasin_sameQueue _ c fun _ => rfl
  · exact .of_basins rfl
  · exact .of_basins rfl
  · exact .refl c

theorem leaveMove_queues (n up : Nat) (c : Chip) : QueuesWithin c (leaveMove n up c) := by
  unfold leaveMove
  split
  · exact modBasin_sameQueue _ c fun _ => rfl
  · exact .of_basins rfl
  · exact .of_basins rfl
  · exact .refl c

theorem clearDirty_queues (a n : Nat) (c : Chip) : QueuesWithin c (clearDirty a n c) := .of_basins rfl

theorem startUp_queues (n job : Nat) (c : Chip) : QueuesWithin c (startUp n job c) := by
  unfold startUp
  split
  · exact .refl c
  · exact (modRec_queues _ _ _).trans ((joinMove_queues _ _ _).trans ((askLower_queues _ _ _).trans (bump_queues _ _ _)))

theorem downDone_queues (n : Nat) (c : Chip) : QueuesWithin c (downDone n c) := by
  unfold downDone
  split
  · exact .refl c
  · next r _ =>
    have hd : QueuesWithin c (modRec n (fun r => { r with evictPend := false, forcePend := false, upPend := false, state := .absent })
        (leaveMove n r.up (clearDirty r.up (r.len64 * 64) c))) :=
      (clearDirty_queues _ _ _).trans ((leaveMove_queues _ _ _).trans (modRec_queues _ _ _))
    dsimp only
    split
    · exact hd.trans ((bump_queues _ _ _).trans (startUp_queues _ _ _))
    · exact hd

theorem markFailed_queues (n : Nat) (e : Stop) (c : Chip) : QueuesWithin c (markFailed n e c) := by
  unfold markFailed
  split
  · exact .refl c
  · refine QueuesWithin.trans ?_ (hubError_queues _ _ _)
    refine QueuesWithin.trans ?_ (modRec_queues _ _ _)
    refine QueuesWithin.trans ?_ (leaveMove_queues _ _ _)
    exact .of_basins rfl

/-- Whatever an effect does, and whether it stops or not, no queue gains an item. -/
def EffQueues {α : Type} (m : Eff α) : Prop := ∀ c, QueuesWithin c (runEff m c).1

section
variable {α β : Type}

theorem effQueues_of_ok {m : Eff α} (f : Chip → Chip) (a : Chip → α) (h : ∀ c, m c = .ok (a c) (f c)) (hf : ∀ c, QueuesWithin c (f c)) :
    EffQueues m := fun c => by
  rw [(runEff_eq_ok m c (f c) (a c)).mpr (h c)]
  exact hf c

theorem EffQueues.bind {m : Eff α} {f : α → Eff β} (hm : EffQueues m) (hf : ∀ a, EffQueues (f a)) : EffQueues (m >>= f) := fun c => by
  have h := hm c
  unfold runEff at h ⊢
  cases hc : m c with
  | ok a d =>
    rw [hc] at h
    rw [bind_ok hc]
    exact h.trans (hf a d)
  | error e d =>
    rw [hc] at h
    rw [bind_error hc]
    exact h

theorem effQueues_pure (a : α) : EffQueues (pure a : Eff α) := effQueues_of_ok id (fun _ => a) (fun _ => rfl) QueuesWithin.refl

theorem effQueues_get : EffQueues (get : Eff Chip) := effQueues_of_ok id id (fun _ => rfl) QueuesWithin.refl

theorem effQueues_throw (e : Stop) : EffQueues (throw e : Eff α) := fun c => QueuesWithin.refl c

theorem effQueues_change {f : Chip → Chip} (h : ∀ c, QueuesWithin c (f c)) : EffQueues (change f) :=
  effQueues_of_ok f (fun _ => ()) (fun _ => rfl) h

theorem effQueues_stopIf (p : Bool) (code unit addr : Nat) : EffQueues (stopIf p code unit addr) := by
  cases p
  · exact effQueues_pure ()
  · exact effQueues_throw _

theorem effQueues_mapM {f : α → Eff β} (hf : ∀ a, EffQueues (f a)) (l : List α) : EffQueues (l.mapM f) := by
  induction l with
  | nil => exact effQueues_pure []
  | cons a l ih =>
    rw [List.mapM_cons]
    exact (hf a).bind fun b => ih.bind fun bs => effQueues_pure _

end

/-- A word with an error counted in the counter of its memory that `f` picks, where it is this package's own. -/
def countWord (own w : Nat) (f : Nat × Nat → Nat) (c : Chip) : Chip :=
  match eccCtr (locOf (8 * w)) with
  | some k => if pkgOf (8 * w) = own then bump c (f k) else c
  | none => c

/-- A corrected word of a cistern written back. -/
def mendWord (w : Nat) (c : Chip) : Chip := if inCistern (8 * w) then { c with ecc := tabDel c.ecc w } else c

theorem countEcc_single (own w : Nat) (l : List (Nat × EccErr)) (c : Chip) :
    countEcc own ((w, .single) :: l) c = countEcc own l (mendWord w (countWord own w Prod.fst c)) := by
  rw [countEcc]
  unfold mendWord countWord
  cases eccCtr (locOf (8 * w)) <;> rfl

theorem countEcc_double (own w : Nat) (l : List (Nat × EccErr)) (c : Chip) :
    countEcc own ((w, .double) :: l) c = (countWord own w Prod.snd c, some (8 * w)) := by
  rw [countEcc]
  unfold countWord
  cases eccCtr (locOf (8 * w)) <;> rfl

theorem countWord_queues (own w : Nat) (f : Nat × Nat → Nat) (c : Chip) : QueuesWithin c (countWord own w f c) := by
  unfold countWord
  split
  · split
    · exact bump_queues _ _ _
    · exact .refl c
  · exact .refl c

theorem mendWord_queues (w : Nat) (c : Chip) : QueuesWithin c (mendWord w c) := by
  unfold mendWord
  split
  · exact .of_basins rfl
  · exact .refl c

theorem countEcc_queues (own : Nat) (l : List (Nat × EccErr)) (c : Chip) : QueuesWithin c (countEcc own l c).1 := by
  induction l generalizing c with
  | nil => exact .refl c
  | cons p l ih =>
    obtain ⟨w, e⟩ := p
    cases e with
    | single =>
      rw [countEcc_single]
      exact (countWord_queues _ _ _ c).trans ((mendWord_queues w _).trans (ih _))
    | double =>
      rw [countEcc_double]
      exact countWord_queues _ _ _ c

theorem checkEcc_counts (unit a n : Nat) (c : Chip) : (runEff (checkEcc unit a n) c).1 = (countEcc (pkg c) (eccIn c a n) c).1 := by
  unfold runEff checkEcc
  rw [bind_ok (show (get : Eff Chip) c = .ok c c from rfl)]
  rcases countEcc (pkg c) (eccIn c a n) c with ⟨d, bad⟩
  cases bad <;> rfl

theorem effQueues_checkEcc (unit a n : Nat) : EffQueues (checkEcc unit a n) := fun c => by
  rw [checkEcc_counts]
  exact countEcc_queues _ _ c

theorem ask_asks (unit : Nat) (x : FarReq) (c : Chip) : (runEff (ask unit x) c).1 = askFar x c := by
  unfold runEff ask
  rw [bind_ok (show (get : Eff Chip) c = .ok c c from rfl)]
  rw [bind_ok (show (set (askFar x c) : Eff PUnit) c = .ok () (askFar x c) from rfl)]
  rcases (askedFor c c.fab.now x (farNth c.fab.far x)).bind (·.answer) with _ | ⟨code, bs⟩
  · rfl
  · by_cases h : code = 0
    · simp only [h, if_true]
      rfl
    · simp only [h, if_false]
      rfl

theorem effQueues_ask (unit : Nat) (x : FarReq) : EffQueues (ask unit x) := fun c => by
  rw [ask_asks]
  exact .of_basins (askFar_basins x c)

theorem effQueues_askAll (unit : Nat) (xs : List FarReq) : EffQueues (askAll unit xs) := by
  refine (effQueues_mapM (effQueues_ask unit) xs).bind fun os => ?_
  split
  · exact effQueues_pure _
  · exact effQueues_throw _

theorem effQueues_readMem (unit a n : Nat) : EffQueues (readMem unit a n) := by
  refine effQueues_get.bind fun c => ?_
  split
  · exact (effQueues_checkEcc unit a n).bind fun _ => effQueues_get.bind fun _ => effQueues_pure _
  · split
    · exact effQueues_pure _
    · exact (effQueues_askAll unit _).bind fun _ => effQueues_pure _

theorem effQueues_flashParts (n : Nat) (r : Rec) (parts : List (Nat × Nat)) : EffQueues (flashParts n r parts) := by
  unfold flashParts
  refine effQueues_get.bind fun c => (effQueues_stopIf _ _ _ _).bind fun _ => effQueues_mapM (fun p => ?_) parts
  exact (effQueues_readMem _ _ _).bind fun _ => effQueues_pure _

theorem effQueues_farParts (n : Nat) (r : Rec) (parts : List (Nat × Nat)) : EffQueues (farParts n r parts) := by
  refine (effQueues_flashParts n r parts).bind fun ws => effQueues_change fun c => ?_
  refine (beginForgotten_queues (.move n) c).trans (QueuesWithin.trans ?_ (flushHub_queues _ _))
  exact .foldl (fun c w => askWrite_queues w.2.1 w.2.2 c) ws _

theorem EffQueues.of_runEff {α : Type} {m : Eff α} (hm : EffQueues m) {c d : Chip} {r : Except Stop α} (h : runEff m c = (d, r)) :
    QueuesWithin c d := by
  have := hm c
  rwa [h] at this

theorem startDown_queues (n job : Nat) (c : Chip) : QueuesWithin c (startDown n job c) := by
  unfold startDown
  split
  · exact .refl c
  · next r _ =>
    dsimp only
    refine ((modRec_queues n (fun r => { r with state := .movingDown, moveJob := job }) c).trans (bump_queues _ (rPlCtr 1) 1)).trans ?_
    generalize bump (modRec n (fun r => { r with state := .movingDown, moveJob := job }) c) (rPlCtr 1) = d
    split
    · exact downDone_queues n d
    refine (joinMove_queues n r.up d).trans ?_
    split
    · split
      · next _ e ws h => exact ((effQueues_flashParts n r _).of_runEff h).congr rfl
      · next h => exact ((effQueues_flashParts n r _).of_runEff h).trans (markFailed_queues _ _ _)
    split
    · split
      · next h => exact (effQueues_farParts n r _).of_runEff h
      · next h => exact ((effQueues_farParts n r _).of_runEff h).trans (markFailed_queues _ _ _)
    · exact .refl _

theorem settle_queues (n : Nat) (c : Chip) : QueuesWithin c (settle n c) := by
  unfold settle
  split
  · exact .refl c
  · split
    · exact startDown_queues _ _ _
    · exact .refl c

theorem dropPin_queues (n : Nat) (c : Chip) : QueuesWithin c (dropPin n c) := (modRec_queues _ _ _).trans (settle_queues _ _)

/-! ### Items that leave a queue (R192) -/

/-- The longest hold is kept where this one is longer. -/
theorem keepLongest_basins (p : Prop) [Decidable p] (off v : Nat) (c : Chip) : (if p then putReg c off v else c).basins = c.basins := by
  split <;> rfl

theorem endHold_queues (h : Hold) (c : Chip) : QueuesWithin c (endHold h c) := by
  have hb : (endHold h c).basins = c.basins := by
    unfold endHold
    exact (keepLongest_basins _ _ _ _).trans ((bumpUnits_basins _ _ _ _).trans (bump_basins _ _ _))
  exact .of_basins hb

theorem endHolds_queues (b : Fin 32) (p : Hold → Bool) (c : Chip) : QueuesWithin c (endHolds b p c) := by
  unfold endHolds
  refine (modBasin_sameQueue b (f := fun s => { s with holds := s.holds.filter (fun h => !p h) }) c fun _ => rfl).trans ?_
  exact .foldl (fun c h => endHold_queues h c) _ _

theorem dropItem_queues (b : Fin 32) (q : QItem) (c : Chip) : QueuesWithin c (dropItem b q c) := by
  have hd : QueuesWithin c (match q.ticket with | some n => dropPin n c | none => c) := by
    split
    · exact dropPin_queues _ _
    · exact .refl c
  unfold dropItem
  dsimp only
  split
  · exact hd.trans (endHolds_queues _ _ _)
  · exact hd

/-- No item that a queue of a basin holds satisfies the test. -/
def QueueLacks (p : QItem → Bool) (b : Fin 32) (c : Chip) : Prop := ∀ q ∈ c.basins[b].queue, p q = false

/-- A test that looks at the item alone stays unmet where no queue gains an item. -/
theorem QueueLacks.within {p : QItem → Bool} (hp : ∀ q r : QItem, q.item = r.item → p q = p r) {b : Fin 32} {c d : Chip}
    (h : QueueLacks p b c) (hw : QueuesWithin c d) : QueueLacks p b d := fun q hq => by
  obtain ⟨r, hr, hi⟩ := hw b q hq
  rw [← hp r q hi]
  exact h r hr

theorem filterQueue_lacks (b : Fin 32) (p : QItem → Bool) (c : Chip) :
    QueueLacks p b (modBasin b (fun s => { s with queue := s.queue.filter (fun q => !p q) }) c) := fun q hq => by
  rw [basins_modBasin_self] at hq
  simpa using (List.mem_filter.mp hq).2

theorem filterQueue_queues (b : Fin 32) (p : QItem → Bool) (c : Chip) :
    QueuesWithin c (modBasin b (fun s => { s with queue := s.queue.filter p }) c) :=
  modBasin_queues b c fun _ q hq => ⟨q, (List.mem_filter.mp hq).1, rfl⟩

theorem removeItems_queues (b : Fin 32) (p : QItem → Bool) (c : Chip) : QueuesWithin c (removeItems b p c) :=
  (discardAhead_queues b p c).trans ((filterQueue_queues b _ _).trans (.foldl (fun c q => dropItem_queues b q c) _ _))

theorem removeItems_lacks {p : QItem → Bool} (hp : ∀ q r : QItem, q.item = r.item → p q = p r) (b : Fin 32) (c : Chip) :
    QueueLacks p b (removeItems b p c) :=
  (filterQueue_lacks b p _).within hp (.foldl (fun c q => dropItem_queues b q c) _ _)

end Sys2Proof.Machine
end

section
/-! PROOFS. Commit points and cancels (R192, R427, R428), the queue's registers (R201) and run-ahead (R59, R189, R406). -/

namespace Sys2Proof.Machine

/-! ### Commit points looked at again (R428) -/

theorem emit_queues (x : Emit) (c : Chip) : QueuesWithin c (emit x c) := .of_basins rfl

theorem spendCredit_queues (p q bytes now : Nat) (queued : Bool) (c : Chip) : QueuesWithin c (spendCredit p q bytes now queued c) := by
  unfold spendCredit
  split
  · exact .refl c
  · exact .of_basins rfl

theorem drainTx_queues (now : Nat) (c : Chip) : QueuesWithin c (drainTx now c) := by
  unfold drainTx
  refine QueuesWithin.trans (d := { c with tx := { c.tx with waiting := [] } }) (.of_basins rfl) (.foldl (fun c x => ?_) _ _)
  split
  · exact .refl c
  · split
    · exact (spendCredit_queues _ _ _ _ _ c).trans (emit_queues _ _)
    · exact .of_basins rfl

theorem transmit_queues (ports : List Nat) (queue bytes now : Nat) (what : List Nat → Emit) (c : Chip) :
    QueuesWithin c (transmit ports queue bytes now what c) := by
  unfold transmit
  dsimp only
  refine QueuesWithin.congr ?_ rfl
  refine (drainTx_queues now c).trans ?_
  generalize List.filter _ ports = go
  split
  · exact .refl _
  · refine QueuesWithin.trans ?_ (emit_queues (what go) _)
    exact .foldl (fun c p => spendCredit_queues p _ _ _ _ c) go _

/-- The next sequence number of a stream, by any search of the table: one that the kernel does not run. -/
def nextSeqBy (find : Chip → Nat → Nat → Nat → Option Nat) (dst vid : Nat) (c : Chip) : Option Nat × Chip :=
  match find c 0x3C000 dst vid with
  | none => (none, c)
  | some i =>
    let n := tabGet 0 c.tx.seqGen i
    (some n, { c with tx := { c.tx with seqGen := tabSet c.tx.seqGen i ((n + 1) % 2 ^ 16) } })

theorem nextSeq_eq : nextSeq = nextSeqBy streamEntry := rfl

theorem nextSeqBy_queues (find : Chip → Nat → Nat → Nat → Option Nat) (dst vid : Nat) (c : Chip) : QueuesWithin c (nextSeqBy find dst vid c).2 := by
  unfold nextSeqBy
  split
  · exact .refl c
  · exact .of_basins rfl

theorem nextSeq_queues (dst vid : Nat) (c : Chip) : QueuesWithin c (nextSeq dst vid c).2 := by
  rw [nextSeq_eq]
  exact nextSeqBy_queues _ dst vid c

theorem sendDatagram_queues (ports off ip udp : Nat) (payload : List Byte) (c : Chip) :
    QueuesWithin c (sendDatagram ports off ip udp payload c) := by
  unfold sendDatagram
  split
  · exact .refl c
  · exact (nextSeq_queues _ _ c).trans (transmit_queues _ _ _ _ _ _)

theorem jobSeq_queues (j : Nat) (c : Chip) : QueuesWithin c (jobSeq j c).2 := .of_basins rfl

theorem sendCommits_queues (c : Chip) : QueuesWithin c (sendCommits c) := by
  unfold sendCommits
  refine QueuesWithin.trans (.of_basins ?_) (.foldl (fun c x => ?_) _ _)
  · rfl
  · split
    · exact (jobSeq_queues _ c).trans (sendDatagram_queues _ _ _ _ _ _)
    · exact .refl c

theorem modJob_queues (j : Nat) (f : JobRc → JobRc) (c : Chip) : QueuesWithin c (modJob j f c) := .of_basins rfl

theorem putReg_queues (c : Chip) (off v : Nat) : QueuesWithin c (putReg c off v) := .of_basins rfl

theorem commitAt_queues (j t : Nat) (c : Chip) : QueuesWithin c (commitAt j t c) := by
  unfold commitAt
  split
  · exact .refl c
  · dsimp only
    refine QueuesWithin.trans ?_ (sendCommits_queues _)
    refine QueuesWithin.congr (d := bump _ _ _) ?_ rfl
    exact (modJob_queues _ _ c).trans ((putReg_queues _ _ _).trans (bump_queues _ _ _))

theorem passIfReady_queues (j t : Nat) (c : Chip) : QueuesWithin c (passIfReady j t c) := by
  unfold passIfReady
  dsimp only
  split
  · exact (sendConfirmed_queues _ _ c).trans (commitAt_queues _ _ _)
  · exact .refl c

theorem readyAt_queues (j p t : Nat) (c : Chip) : QueuesWithin c (readyAt j p t c) := by
  unfold readyAt
  exact (modJob_queues j _ c).trans (passIfReady_queues _ _ _)

theorem sendReady_queues (j t : Nat) (c : Chip) : QueuesWithin c (sendReady j t c) := by
  unfold sendReady
  dsimp only
  split
  · exact .refl c
  · refine (modJob_queues j (fun x => { x with sentReady := t :: x.sentReady }) c).trans ?_
    split
    · exact readyAt_queues _ _ _ _
    · exact sendConfirmed_queues _ _ _

theorem pollReady_queues (c : Chip) : QueuesWithin c (pollReady c) := by
  refine .foldl (fun c x => .foldl (fun c t => (sendReady_queues x.1 t c).trans ?_) _ c) _ c
  dsimp only
  split
  · exact passIfReady_queues _ _ _
  · exact .refl _

/-! ### WQ_CANCEL (R192) -/

/-- The items that a WQ_CANCEL with ALL picks. -/
def ofJob (j : Nat) (q : QItem) : Bool := q.item.job.toNat == j

theorem ofJob_item (j : Nat) (q r : QItem) (h : q.item = r.item) : ofJob j q = ofJob j r := by
  unfold ofJob
  rw [h]

/-- The items of a job leave every queue, and each queue counts its own. -/
def removeJob (j : Nat) (c : Chip) : Chip :=
  (List.finRange 32).foldl (fun c b => removeItems b (ofJob j) (bump c (rWqCtr b.val 5) (c.basins[b].queue.filter (ofJob j)).length)) c

theorem removeJob_lacks (j : Nat) (c : Chip) (b : Fin 32) : QueueLacks (ofJob j) b (removeJob j c) := by
  have hw : ∀ (c : Chip) (a : Fin 32), QueuesWithin c (removeItems a (ofJob j) (bump c (rWqCtr a.val 5) (c.basins[a].queue.filter (ofJob j)).length)) :=
    fun c a => (bump_queues _ _ _).trans (removeItems_queues _ _ _)
  refine (foldl_each (I := fun _ => True) (P := QueueLacks (ofJob j)) (List.finRange 32) (fun _ _ _ _ => trivial) ?_ ?_ trivial).2 b
    (List.mem_finRange b)
  · exact fun c a _ _ => removeItems_lacks (ofJob_item j) a _
  · exact fun c a _ d _ _ h => h.within (ofJob_item j) (hw c a)

theorem wWqCancel_all {v : Nat} (hj : fld v 0 16 < 256) (hgo : bit v 17 = true) (hall : bit v 16 = true) (c : Chip) :
    wWqCancel v c = (0, refreshHeld (removeJob (fld v 0 16) (storeReg c rWqCancel v))) := by
  unfold wWqCancel
  rw [if_neg (by omega)]
  simp only [hgo, hall, Bool.not_true, Bool.false_eq_true, if_false, Bool.true_or, Bool.and_true]
  rfl

theorem wqCancel_emptiesJob (m : Master) (v : BitVec 32) (s : State) (hm : m.toNat ≤ 3) (hh : hubOn s.chip = true)
    (hj : fld v.toNat 0 16 < 256) (hgo : v.getLsbD 17 = true) (hall : v.getLsbD 16 = true) :
    ∃ t, exec (.wqCancel m v) s = .next t ∧ sameRest s t ∧ ∀ b : Fin 32, ∀ q ∈ t.chip.basins[b].queue, q.item.job.toNat ≠ fld v.toNat 0 16 := by
  refine ⟨s.withChip (pollReady (busWrite m (wWqCancel v.toNat) s.chip)), rfl, sameRest_withChip _ _, fun b q hq => ?_⟩
  have hb := busWrite_ok hh hm (wWqCancel_all hj hgo hall s.chip)
  have hk : QueueLacks (ofJob (fld v.toNat 0 16)) b (pollReady (busWrite m (wWqCancel v.toNat) s.chip)) := by
    rw [hb]
    exact (removeJob_lacks _ _ b).within (ofJob_item _)
      ((refreshHeld_queues _).trans ((emit_queues _ _).trans (pollReady_queues _)))
  simpa [ofJob] using hk q hq

/-! ### WQ_WINDOW and WQ_BASE_n (R201) -/

theorem rowMask_wqWindow : rowMask rWqWindow = some 0x3F7F := by decide +kernel

theorem rowMask_wqBase : ∀ b : Fin 32, rowMask (rWqBase b.val) = some 0x1FF := by decide +kernel

theorem getReg_emit (x : Emit) (c : Chip) (off : Nat) : getReg (emit x c) off = getReg c off := rfl

theorem wqWindow_written (m : Master) (v : BitVec 32) (s : State) (hm : m.toNat ≤ 3) (hh : hubOn s.chip = true)
    (ho : ∀ b : Fin 32, s.chip.basins[b].occupied = []) (hs : fld v.toNat 8 6 ≤ 32)
    (hr : (fld v.toNat 0 7 + fld v.toNat 8 6) * 65536 ≤ 0x600000) :
    ∃ t, exec (.wqWindowWrite m v) s = .next t ∧ sameRest s t ∧ getF t.chip rWqWindow 0 7 = fld v.toNat 0 7 ∧
      getF t.chip rWqWindow 8 6 = fld v.toNat 8 6 ∧ (∀ off, off ≠ rWqWindow → getReg t.chip off = getReg s.chip off) := by
  have hfree : (List.finRange 32).any (fun b => s.chip.basins[b].occupied != []) = false :=
    List.any_eq_false.mpr fun b _ => by rw [ho b]; decide
  have hw : wWqWindow v.toNat s.chip = (0, storeReg s.chip rWqWindow v.toNat) := by
    unfold wWqWindow
    refine if_neg ?_
    rintro (h | h | h)
    · exact absurd h (Nat.not_lt.mpr hr)
    · exact absurd h (Nat.not_lt.mpr hs)
    · exact absurd (hfree.symm.trans h) Bool.false_ne_true
  refine ⟨s.withChip (busWrite m (wWqWindow v.toNat) s.chip), rfl, sameRest_withChip _ _, ?_⟩
  show getF (busWrite m (wWqWindow v.toNat) s.chip) rWqWindow 0 7 = _ ∧ getF (busWrite m (wWqWindow v.toNat) s.chip) rWqWindow 8 6 = _ ∧
    ∀ off, off ≠ rWqWindow → getReg (busWrite m (wWqWindow v.toNat) s.chip) off = _
  rw [busWrite_ok hh hm hw]
  exact ⟨getF_storeReg_stored rowMask_wqWindow (by decide) (by decide), getF_storeReg_stored rowMask_wqWindow (by decide) (by decide),
    fun off h => getReg_storeReg_ne _ _ h⟩

theorem wqBase_written (m : Master) (b : Fin 32) (v : BitVec 32) (s : State) (hm : m.toNat ≤ 3) (hh : hubOn s.chip = true)
    (hq : s.chip.basins[b].queue = []) (hv : fld v.toNat 0 9 ≤ 383) :
    ∃ t, exec (.wqBaseWrite m b v) s = .next t ∧ sameRest s t ∧ getF t.chip (rWqBase b.val) 0 9 = fld v.toNat 0 9 ∧
      (∀ off, off ≠ rWqBase b.val → getReg t.chip off = getReg s.chip off) ∧ t.chip.basins[b].queue = [] := by
  have hw : wWqBase b v.toNat s.chip = (0, modBasin b (fun s => { s with tail := 0 }) (storeReg s.chip (rWqBase b.val) v.toNat)) := by
    unfold wWqBase
    refine if_neg ?_
    rintro (h | h)
    · exact h hq
    · exact absurd h (Nat.not_lt.mpr hv)
  obtain ⟨rg, hrg⟩ := storeReg_eq s.chip (rWqBase b.val) v.toNat
  refine ⟨s.withChip (busWrite m (wWqBase b v.toNat) s.chip), rfl, sameRest_withChip _ _, ?_⟩
  show getF (busWrite m (wWqBase b v.toNat) s.chip) (rWqBase b.val) 0 9 = _ ∧
    (∀ off, off ≠ rWqBase b.val → getReg (busWrite m (wWqBase b v.toNat) s.chip) off = _) ∧
    (busWrite m (wWqBase b v.toNat) s.chip).basins[b].queue = []
  rw [busWrite_ok hh hm hw]
  refine ⟨getF_storeReg_stored (rowMask_wqBase b) (by decide) (by decide), fun off h => getReg_storeReg_ne _ _ h, ?_⟩
  show (modBasin b (fun s => { s with tail := 0 }) (storeReg s.chip (rWqBase b.val) v.toNat)).basins[b].queue = []
  rw [basins_modBasin_self, hrg]
  exact hq

end Sys2Proof.Machine
end

section
/-! PROOFS. Run-ahead copies kept with their item (R59, R189, R406), and O23. -/

namespace Sys2Proof.Machine

theorem runAhead_nothing {b : Fin 32} {i : Nat} {q : QItem} {c : Chip} (hq : c.basins[b].queue[i]? = some q)
    (h : aheadDue c b q = false ∨ c.basins[b].freqPend = true ∨ c.basins[b].hold = true ∨ enabled c b = false) : runAhead b i c = c := by
  unfold runAhead
  simp only [hq]
  refine if_pos ?_
  obtain h | h | h | h := h <;> rw [h] <;> simp

section
variable {b : Fin 32} {i : Nat} {q : QItem} {c d : Chip} {xs : List RunCopy}
  (hq : c.basins[b].queue[i]? = some q) (he : enabled c b = true) (hm : modeOf c = 0) (hf : c.basins[b].freqPend = false)
  (hh : c.basins[b].hold = false) (hd : aheadDue c b q = true) (hb : (c.basins[b].queue.take i).any (aheadDue c b) = false)
include hq he hm hf hh hd hb

/-- The copies of a run-ahead chain that nothing stops are kept with the item. -/
theorem runAhead_keeps (hx : aheadChain b 98304 q.item.pfChain.toNat [] c = (d, xs, none)) :
    runAhead b i c = modBasin b (fun s => { s with queue := s.queue.set i { q with ahead := some xs } }) d := by
  unfold runAhead
  simp only [hq]
  refine (if_neg ?_).trans ?_
  · rw [he, hm, hf, hh, hd, hb]
    decide
  · rw [hx]

end

/-! ### One PLAIN copy -/

theorem aheadHere_reads {c : Chip} (rows : List ((Nat × Nat) × (Nat × Nat)))
    (h : ∀ r ∈ rows, PlainRange c r.1.1 r.1.2) : aheadHere rows c =
      .ok { moved := true, writes := rows.map (fun r => (r.2.1, memReadN c.mem r.1.1 r.1.2)), dst := rows.map (·.2) } c := by
  unfold aheadHere
  rw [bind_ok (mapM_reads (g := fun r => (r.2.1, memReadN c.mem r.1.1 r.1.2)) rows fun r hr => ?_)]
  · rfl
  · obtain ⟨hp, -, -, -, he⟩ := h r hr
    rw [bind_ok (readMem_clean copyUnit r.1.1 r.1.2 c he hp)]
    rfl

theorem checkPlaces_pass {c : Chip} (rows : List (Nat × Nat)) (h : ∀ r ∈ rows, PlainRange c r.1 r.2) :
    rows.forM (fun r => checkPlace copyUnit r.1 r.2) c = .ok () c := by
  induction rows with
  | nil => rfl
  | cons r rows ih =>
    obtain ⟨hp, hf, hh, hb, -⟩ := h r (by simp)
    show (checkPlace copyUnit r.1 r.2 >>= fun _ => rows.forM (fun r => checkPlace copyUnit r.1 r.2)) c = _
    rw [bind_ok (checkPlace_passes (by rw [hp]; exact hf) hh hb)]
    exact ih fun x hx => h x (by simp [hx])

/-- What a PLAIN copy of rows will have written once its item issues. -/
def aheadCopy (c : Chip) (srcs dsts : List (Nat × Nat)) : RunCopy :=
  { moved := true, writes := (srcs.zip dsts).map (fun r => (r.2.1, memReadN c.mem r.1.1 r.1.2)), dst := (srcs.zip dsts).map (·.2) }

section
variable {c : Chip} {b : Fin 32} {q : QItem} {e : Desc} {srcs dsts : List (Nat × Nat)} (h : AheadOne c b q e srcs dsts)
include h

theorem aheadPlain_copies : aheadPlain b e c = .ok (aheadCopy c srcs dsts) c := by
  obtain ⟨hs, hds⟩ := h.rows
  obtain ⟨hp, hr⟩ := h.here
  have hall : dsts.all (fun r => aheadPlace c b r.1 r.2) = true := List.all_eq_true.mpr h.there
  unfold aheadPlain
  rw [bind_ok (get_ok c)]
  rw [← hs, ← hds, bind_ok (stopIf_passes (by rw [hall]; rfl) _ _ _ c)]
  refine undefineOnStop_ok _ ?_
  rw [bind_ok (checkPlaces_pass srcs hr), if_pos hp]
  exact aheadHere_reads _ fun r hr' => hr r.1 (List.of_mem_zip hr').1

theorem aheadOne_copies : aheadOne b q.item.pfChain.toNat c = .ok (aheadCopy c srcs dsts, true) c := by
  obtain ⟨hrow, hlast⟩ := h.row
  unfold aheadOne
  rw [bind_ok (stopIf_passes h.room _ _ _ c), bind_ok (get_ok c), bind_ok ((runEff_eq_ok _ _ _ _).mp h.fetch)]
  simp only [hrow, h.legal]
  refine (bind_ok (d := c) (a := aheadCopy c srcs dsts) ?_).trans ?_
  · exact (bind_ok (stopIf_passes rfl _ _ _ c)).trans (aheadPlain_copies h)
  · rw [hlast]
    rfl

theorem aheadChain_copies (n : Nat) : aheadChain b (n + 1) q.item.pfChain.toNat [] c = (c, [aheadCopy c srcs dsts], none) := by
  rw [aheadChain.eq_2, (runEff_eq_ok _ _ _ _).mpr (aheadOne_copies h)]
  rfl

end

theorem exec_runAheadIssue {b : Fin 32} {i : Nat} {s : State} {c : Chip} (h : runAhead b i s.chip = c) :
    exec (.runAheadIssue b i) s = .next (s.withChip c) := by
  subst h
  rfl

theorem runAhead_clauses (b : Fin 32) (i : Nat) (s : State) (q : QItem) (hq : s.chip.basins[b].queue[i]? = some q)
    (he : enabled s.chip b = true) (hm : modeOf s.chip = 0) (hf : s.chip.basins[b].freqPend = false) (hh : s.chip.basins[b].hold = false)
    (hd : aheadDue s.chip b q = true) (hb : (s.chip.basins[b].queue.take i).any (aheadDue s.chip b) = false) :
    (∀ (d : Chip) (xs : List RunCopy), aheadChain b 98304 q.item.pfChain.toNat [] s.chip = (d, xs, none) →
      ∃ t, exec (.runAheadIssue b i) s = .next t ∧ sameRest s t ∧ t.chip.mem = d.mem ∧ t.chip.regs = d.regs ∧
        t.chip.basins[b].queue = d.basins[b].queue.set i { q with ahead := some xs }) ∧
    (∀ (e : Desc) (srcs dsts : List (Nat × Nat)), AheadOne s.chip b q e srcs dsts → exec (.runAheadIssue b i) s =
      .next (s.withChip (modBasin b (fun x => { x with queue := x.queue.set i { q with ahead := some [aheadCopy s.chip srcs dsts] } }) s.chip))) := by
  constructor
  · intro d xs hx
    have hk := runAhead_keeps hq he hm hf hh hd hb hx
    refine ⟨s.withChip (modBasin b (fun s => { s with queue := s.queue.set i { q with ahead := some xs } }) d),
      exec_runAheadIssue hk, sameRest_withChip _ _, rfl, rfl, ?_⟩
    exact congrArg Basin.queue (basins_modBasin_self b _ d)
  · intro e srcs dsts h
    exact exec_runAheadIssue (runAhead_keeps hq he hm hf hh hd hb (aheadChain_copies h 98303))

/-- Settles O23: a chain that nothing stops, or of one copy, is kept with its item; a cancel leaves no queue with an item of its job, since
nothing that follows the removal gives a queue an item (`QueuesWithin`); the registers store the bits of their rows. -/
theorem runAheadCancelAndQueueRegisters : Obligations.RunAheadCancelAndQueueRegisters :=
  ⟨runAhead_clauses,
    fun _ _ _ _ hq h => exec_runAheadIssue (runAhead_nothing hq h),
    wqCancel_emptiesJob, wqWindow_written, wqBase_written⟩

end Sys2Proof.Machine
end

section
/-! PROOFS. Coder tables (R215, R216, R218, R219, R223): how slots and descriptors in flight change, a slot that is built or loaded, one block
coded with a slot's table, and the statement about CODEC_BUILD. -/

namespace Sys2Proof.Machine

/-! ### A descriptor in flight changed -/

section
variable (b : Fin 32) (k : Fin 16) (id : Nat) (f : Flight → Flight) (c : Chip)

/-- A change to a descriptor in flight is one of the basins, which keep their slots. -/
theorem modFlightOf_eq : ∃ bs : Vector Basin 32, modFlightOf b k id f c = { c with basins := bs } ∧
    ∀ m : Fin 32, bs[m].slots = c.basins[m].slots := by
  unfold modFlightOf modChain
  split
  · exact ⟨c.basins, rfl, fun _ => rfl⟩
  · refine ⟨_, rfl, fun m => ?_⟩
    simp only [Fin.getElem_fin, Vector.getElem_set]
    split
    · next h => simp only [h]
    · rfl

@[simp] theorem modFlightOf_mem : (modFlightOf b k id f c).mem = c.mem := by obtain ⟨_, h, -⟩ := modFlightOf_eq b k id f c; rw [h]
@[simp] theorem modFlightOf_regs : (modFlightOf b k id f c).regs = c.regs := by obtain ⟨_, h, -⟩ := modFlightOf_eq b k id f c; rw [h]
@[simp] theorem modFlightOf_ecc : (modFlightOf b k id f c).ecc = c.ecc := by obtain ⟨_, h, -⟩ := modFlightOf_eq b k id f c; rw [h]
@[simp] theorem modFlightOf_power : (modFlightOf b k id f c).power = c.power := by obtain ⟨_, h, -⟩ := modFlightOf_eq b k id f c; rw [h]
@[simp] theorem modFlightOf_fab : (modFlightOf b k id f c).fab = c.fab := modChain_fab b k _ c

@[simp] theorem modFlightOf_slots (m : Fin 32) : (modFlightOf b k id f c).basins[m].slots = c.basins[m].slots := by
  obtain ⟨_, h, hs⟩ := modFlightOf_eq b k id f c
  rw [h]
  exact hs m

@[simp] theorem slotAt_modFlightOf (m : Fin 32) (n : Nat) : slotAt (modFlightOf b k id f c) m n = slotAt c m n := by
  unfold slotAt
  simp only [modFlightOf_slots]

end

/-! ### A slot changed -/

section
variable (m : Fin 32) (n : Nat) (f g : Slot → Slot) (c : Chip)

@[simp] theorem modSlot_mem : (modSlot m n f c).mem = c.mem := rfl
@[simp] theorem modSlot_regs : (modSlot m n f c).regs = c.regs := rfl
@[simp] theorem modSlot_fab : (modSlot m n f c).fab = c.fab := rfl

@[simp] theorem sram_modSlot (a : Fin 32) (off : Nat) : sram (modSlot m n f c) a off = sram c a off := rfl

@[simp] theorem slotAt_modSlot_self : slotAt (modSlot m n f c) m n = f (slotAt c m n) := by
  unfold slotAt modSlot
  simp only [basins_modBasin_self, Vector.getElem_set_self]

/-- Changes of one slot, one after the other, are one change. -/
theorem modSlot_modSlot : modSlot m n g (modSlot m n f c) = modSlot m n (fun t => g (f t)) c := by
  unfold modSlot modBasin
  simp

end

/-- A slot that a table write takes has no holds (R215). -/
theorem holds_of_pickSlot {c : Chip} {m : Fin 32} {i n : Nat} {since : Option Nat} (h : pickSlot c m i since = some n) :
    (slotAt c m n).holds = 0 := by
  have hfree : slotFree c m n = true := by
    unfold pickSlot at h
    dsimp only at h
    split at h
    · split at h
      · next hok => exact (Option.some.inj h) ▸ (Bool.and_eq_true _ _ ▸ hok).1
      · cases h
    · exact (Bool.and_eq_true _ _ ▸ List.find?_some h).1
  unfold slotFree at hfree
  simp only [Bool.and_eq_true, beq_iff_eq] at hfree
  obtain ⟨⟨⟨hholds, -⟩, -⟩, -⟩ := hfree
  exact hholds

/-! ### Which operation a descriptor is -/

theorem op_of_codec {d : Desc} {n : Nat} (h : rowOf d = some (.codec n)) : d.f 1 40 3 = n := by
  by_contra hne
  refine absurd h ?_
  unfold rowOf
  dsimp only
  repeat' refine ite_ne_of_ne ?_ ?_
  all_goals simp [hne]

/-! ### A slot that is being written (R214, R215) -/

section
variable (x : Ctx) (w : Writer) (n : Nat) (lens : List Nat) (c : Chip)

@[simp] theorem beBuilding_mem : (beBuilding x w n lens c).mem = c.mem := by simp [beBuilding]
@[simp] theorem beBuilding_regs : (beBuilding x w n lens c).regs = c.regs := by simp [beBuilding]
@[simp] theorem beBuilding_fab : (beBuilding x w n lens c).fab = c.fab := by simp [beBuilding]

@[simp] theorem slotAt_beBuilding : slotAt (beBuilding x w n lens c) x.m n = { slotAt c x.m n with state := .building, lens := lens } := by
  simp [beBuilding]

end

/-! ### HOLD and RELEASE (R216), and tables built and loaded (R215, R218, R219) -/

section
variable {x : Ctx} {d : Desc} {c : Chip} {n : Nat}

theorem codecResult_none (w : Written) (h : d.b 4 23 = false) : codecResult x d n w c = .ok () c := by
  unfold codecResult
  rw [bind_ok (get_ok c)]
  simp [h, pure_ok]

/-- HOLD or RELEASE of a READY slot whose GEN is the one named sets HOLDS. -/
theorem bodyHolds_counts {f : Nat → Nat → Option Nat} {h : Nat} (hres : d.b 4 23 = false) (hready : (slotAt c x.m (d.f 3 0 5)).state = .ready)
    (hgen : (slotAt c x.m (d.f 3 0 5)).gen = d.f 3 8 8) (hf : f (slotAt c x.m (d.f 3 0 5)).holds (d.f 3 16 20) = some h) (hlt : h < 2 ^ 20) :
    bodyHolds x d f c = .ok () (modSlot x.m (d.f 3 0 5) (fun t => { t with holds := h }) c) := by
  unfold bodyHolds
  rw [bind_ok (get_ok c), hf]
  refine (congrFun (if_pos ⟨hready, hgen, hlt⟩) c).trans ?_
  rw [bind_ok (change_ok _ c), codecResult_none _ hres]

theorem codecSrc_clean (he : c.ecc = []) :
    codecSrc x d c = .ok (memReadN c.mem (sram c x.m (d.f 1 0 23)) (d.f 1 24 11 * 4096)) c := by
  unfold codecSrc
  rw [bind_ok (get_ok c)]
  exact readMem_clean cxUnit _ _ c he (pkgOf_sram_field c x.m (d.word 1) 0)

/-- The table of a source, without a table image to write; the slot is EMPTY with the next GEN meanwhile. -/
theorem buildTable_clean {src : List Byte} (he : c.ecc = []) (himg : d.b 2 47 = false)
    (hsrc : src = memReadN c.mem (sram c x.m (d.f 1 0 23)) (d.f 1 24 11 * 4096)) : buildTable x d n c =
      .ok (buildLens src) (modSlot x.m n (fun t => { t with state := .empty, gen := (t.gen + 1) % 256, lens := [] }) c) := by
  have hread : codecSrc x d (modSlot x.m n (fun t => { t with state := .empty, gen := (t.gen + 1) % 256, lens := [] }) c) =
      .ok src (modSlot x.m n (fun t => { t with state := .empty, gen := (t.gen + 1) % 256, lens := [] }) c) := by
    rw [hsrc]
    exact codecSrc_clean he
  unfold buildTable
  rw [bind_ok (change_ok _ c), bind_ok hread, himg]
  rfl

theorem fld_leNat_byte (bs : List Byte) (k : Nat) : fld (leNat (bs.take (k + 1))) 0 8 = (bs.getD 0 0).toNat := by
  cases bs with
  | nil => simp [fld, leNat]
  | cons v vs =>
    have hv : v.toNat < 256 := v.isLt
    simp only [fld, List.take_succ_cons, leNat, List.getD_cons_zero]
    omega

/-- The generation of a table image is its first byte (R218). -/
theorem imageLens_gen {img : List Byte} {g : Nat} {lens : List Nat} (h : imageLens img = some (g, lens)) : (img.getD 0 0).toNat = g := by
  unfold imageLens at h
  dsimp only at h
  split at h
  · cases h
  · split at h
    · cases h
    · exact (fld_leNat_byte img 7).symm.trans (congrArg Prod.fst (Option.some.inj h))

/-- The lengths of a table image that is whole; the slot is EMPTY with the image's GEN meanwhile. -/
theorem loadTable_clean {img : List Byte} {g : Nat} {lens : List Nat} (he : c.ecc = [])
    (hsrc : img = memReadN c.mem (sram c x.m (d.f 1 0 23)) 192) (himg : imageLens img = some (g, lens)) : loadTable x d n c =
      .ok lens (modSlot x.m n (fun t => { t with state := .empty, gen := g, lens := [] }) c) := by
  have hread : readMem cxUnit (sram c x.m (d.f 1 0 23)) 192 (modSlot x.m n (fun t => { t with state := .empty, lens := [] }) c) =
      .ok img (modSlot x.m n (fun t => { t with state := .empty, lens := [] }) c) := by
    rw [hsrc]
    exact readMem_clean cxUnit _ _ _ he (pkgOf_sram_field c x.m (d.word 1) 0)
  unfold loadTable
  rw [bind_ok (get_ok c), bind_ok (change_ok _ c), bind_ok hread, bind_ok (change_ok _ _), imageLens_gen himg,
    himg, modSlot_modSlot]
  rfl

/-- A table write takes the slot that it finds (R215). -/
theorem bodyTable_picked (h : pickSlot c x.m (d.f 3 0 5) = some n) : bodyTable x d c = tableWrite x d (newWriter c x) n c := by
  unfold bodyTable
  rw [bind_ok (get_ok c), h]

/-! ### The operations of a table write, one by one -/

theorem tableWrite_build {w : Writer} (h : d.f 1 40 3 = 0) : tableWrite x d w n =
    buildTable x d n >>= fun lens => codecResult x d n {} >>= fun _ => change (beBuilding x w n lens) := by
  unfold tableWrite; rw [h]; rfl

theorem tableWrite_buildEncode {w : Writer} (h : d.f 1 40 3 = 2) : tableWrite x d w n =
    buildTable x d n >>= fun lens => change (modSlot x.m n (fun t => { t with state := .ready, lens := lens })) >>= fun _ =>
      encodeWith x d w n >>= fun _ => change (beBuilding x w n lens) := by
  unfold tableWrite; rw [h]; rfl

theorem tableWrite_load {w : Writer} (h : d.f 1 40 3 = 3) : tableWrite x d w n =
    loadTable x d n >>= fun lens => codecResult x d n {} >>= fun _ => change (beBuilding x w n lens) := by
  unfold tableWrite; rw [h]; rfl

/-- A slot with a new GEN is made BUILDING. -/
theorem beBuilding_modSlot (w : Writer) (lens : List Nat) (gen : Slot → Nat) :
    beBuilding x w n lens (modSlot x.m n (fun t => { t with state := .empty, gen := gen t, lens := [] }) c) =
      modFlightOf x.b x.k w.id (fun f => { f with builds := f.builds ++ [n] })
        (modSlot x.m n (fun t => { t with state := .building, gen := gen t, lens := lens }) c) := by
  unfold beBuilding
  rw [modSlot_modSlot]

/-- BUILD (R215, R219). -/
theorem bodyTable_build {src : List Byte} (hrow : rowOf d = some (.codec 0)) (hp : pickSlot c x.m (d.f 3 0 5) = some n) (he : c.ecc = [])
    (hres : d.b 4 23 = false) (himg : d.b 2 47 = false) (hsrc : src = memReadN c.mem (sram c x.m (d.f 1 0 23)) (d.f 1 24 11 * 4096)) :
    bodyTable x d c = .ok () (modFlightOf x.b x.k x.id (fun f => { f with builds := f.builds ++ [n] })
      (modSlot x.m n (fun t => { t with state := .building, gen := (t.gen + 1) % 256, lens := buildLens src }) c)) := by
  rw [bodyTable_picked hp, tableWrite_build (op_of_codec hrow),
    bind_ok (buildTable_clean he himg hsrc), bind_ok (codecResult_none {} hres), change_ok, beBuilding_modSlot _ _ (fun t => (t.gen + 1) % 256)]
  rfl

/-- LOAD (R215, R218). -/
theorem bodyTable_load {img : List Byte} {g : Nat} {lens : List Nat} (hrow : rowOf d = some (.codec 3))
    (hp : pickSlot c x.m (d.f 3 0 5) = some n) (he : c.ecc = []) (hres : d.b 4 23 = false)
    (hsrc : img = memReadN c.mem (sram c x.m (d.f 1 0 23)) 192) (himg : imageLens img = some (g, lens)) :
    bodyTable x d c = .ok () (modFlightOf x.b x.k x.id (fun f => { f with builds := f.builds ++ [n] })
      (modSlot x.m n (fun t => { t with state := .building, gen := g, lens := lens }) c)) := by
  rw [bodyTable_picked hp, tableWrite_load (op_of_codec hrow),
    bind_ok (loadTable_clean he hsrc himg), bind_ok (codecResult_none {} hres), change_ok, beBuilding_modSlot _ _ (fun _ => g)]
  rfl

end

/-! ### One block coded (R204 to R206, R216, R223) -/

/-- The package with a block's bytes written at the destination of a coding, whose descriptor `id` keeps the slot and takes its holds. -/
def blockCoded (x : Ctx) (d : Desc) (id n held : Nat) (bs : List Byte) (c : Chip) : Chip :=
  modFlightOf x.b x.k id (fun f => { f with holds := f.holds ++ [(n, held)] })
    (putMem (modFlightOf x.b x.k id (fun f => { f with encode := f.encode ++ [n] }) c) (sram c x.m (d.f 2 0 23)) bs)

section
variable (x : Ctx) (d : Desc) (id n held : Nat) (bs : List Byte) (c : Chip)

@[simp] theorem blockCoded_mem : (blockCoded x d id n held bs c).mem = memWriteN c.mem (sram c x.m (d.f 2 0 23)) bs := by
  simp [blockCoded, putMem_mem]

@[simp] theorem blockCoded_regs : (blockCoded x d id n held bs c).regs = c.regs := by simp [blockCoded, putMem_regs]
@[simp] theorem blockCoded_fab : (blockCoded x d id n held bs c).fab = c.fab := by simp [blockCoded, putMem_fab]

@[simp] theorem blockCoded_slots (m : Fin 32) : (blockCoded x d id n held bs c).basins[m].slots = c.basins[m].slots := by
  simp only [blockCoded, modFlightOf_slots, putMem_basins]

@[simp] theorem slotAt_blockCoded (m : Fin 32) (i : Nat) : slotAt (blockCoded x d id n held bs c) m i = slotAt c m i := by
  unfold slotAt
  simp only [blockCoded_slots]

end

section
variable {x : Ctx} {d : Desc} {c : Chip} {n : Nat} {src : List Byte}

/-- A list of one effect, whatever state it leaves. -/
theorem foldlM_one_exists {σ α : Type} {f : σ → α → Eff σ} {s : σ} {a : α} {c e : Chip} (h : ∃ t, f s a c = .ok t e) :
    ∃ t, [a].foldlM f s c = .ok t e := h.imp fun _ => foldlM_one

/-- A source of one block is written as its table stores it. The address is a variable in the proof, where the kernel would count with its
numerals. -/
theorem codeBlocks_one (t : Slot) (lim : Nat) (hone : d.f 1 24 11 = 1) (hlen : src.length = 4096) : ∃ w, codeBlocks x d t n lim src c =
    .ok w (putMem c (sram c x.m (d.f 2 0 23)) (storedBlock t.lens n t.gen (scTag d 0) lim src)) := by
  have hne : src ≠ [] := List.ne_nil_of_length_pos (by omega)
  have hchunks : chunks src.length src.length src = [src] := chunks_all hne le_rfl
  have hzip : [src].zip (List.range 1) = [(src, 0)] := rfl
  rw [hlen] at hchunks
  unfold codeBlocks storedBlock
  rw [bind_ok (get_ok c), hlen, hchunks, hone, hzip]
  generalize sram c x.m (d.f 2 0 23) = dst
  refine foldlM_one_exists ?_
  dsimp only
  obtain ⟨hs, payload, dcyc⟩ := codeBlock t.lens n t.gen (scTag d 0) lim src
  dsimp only
  rw [bind_ok (writeMem_ok _ _ c), Nat.add_zero]
  exact ⟨_, rfl⟩

/-- ENCODE of one block with the table of a READY slot that has room for one more hold. -/
theorem encodeWith_one (w : Writer) (he : c.ecc = []) (hres : d.b 4 23 = false) (hone : d.f 1 24 11 = 1)
    (hready : (slotAt c x.m n).state = .ready) (hroom : (slotAt c x.m n).holds + 1 < 2 ^ 20)
    (hsrc : src = memReadN c.mem (sram c x.m (d.f 1 0 23)) 4096) : ∃ held, encodeWith x d w n c = .ok () (blockCoded x d w.id n held
      (storedBlock (slotAt c x.m n).lens n (slotAt c x.m n).gen (scTag d 0) w.dcycMax src) c) := by
  have hread := codecSrc_clean (x := x) (d := d) (c := modFlightOf x.b x.k w.id (fun f => { f with encode := f.encode ++ [n] }) c) (by simp [he])
  rw [hone, modFlightOf_mem, sram_congr (c := c) x.m _ (by simp [pkg]), Nat.one_mul, ← hsrc] at hread
  obtain ⟨out, hcode⟩ := codeBlocks_one (x := x) (n := n) (src := src)
    (c := modFlightOf x.b x.k w.id (fun f => { f with encode := f.encode ++ [n] }) c) (slotAt c x.m n) w.dcycMax hone
    (by rw [hsrc, memReadN_length])
  rw [sram_congr (c := c) x.m _ (by simp [pkg])] at hcode
  refine ⟨out.coded, ?_⟩
  unfold encodeWith
  rw [bind_ok (get_ok c), bind_ok (stopIf_passes (by simp [hready]) _ _ _ c),
    bind_ok (stopIf_passes (by rw [hone]; exact decide_eq_false (by omega)) _ _ _ c)]
  refine undefineOnStop_ok _ ((bind_ok (d := blockCoded x d w.id n out.coded _ c) (a := out) ?_).trans (codecResult_none _ hres))
  unfold encodeBlocks
  rw [bind_ok (get_ok c), bind_ok (change_ok _ c), bind_ok hread, bind_ok hcode]
  rfl

/-- ENCODE of one block (R216, R223). -/
theorem bodyEncode_one (he : c.ecc = []) (hres : d.b 4 23 = false) (hone : d.f 1 24 11 = 1) (hn : n = d.f 3 0 5)
    (hready : (slotAt c x.m n).state = .ready) (hroom : (slotAt c x.m n).holds + 1 < 2 ^ 20)
    (hsrc : src = memReadN c.mem (sram c x.m (d.f 1 0 23)) 4096) : ∃ held, bodyEncode x d c = .ok () (blockCoded x d x.id n held
      (storedBlock (slotAt c x.m n).lens n (slotAt c x.m n).gen (scTag d 0) (getF c rCxCfg 0 8) src) c) := by
  obtain ⟨held, hcode⟩ := encodeWith_one (newWriter c x) he hres hone hready hroom hsrc
  refine ⟨held, ?_⟩
  unfold bodyEncode
  rw [bind_ok (get_ok c), ← hn, hcode]
  rfl

/-- BUILD_ENCODE of one block (R215, R219, R223): it codes with the table that it has built. -/
theorem bodyTable_buildEncode (hrow : rowOf d = some (.codec 2)) (hp : pickSlot c x.m (d.f 3 0 5) = some n) (he : c.ecc = [])
    (hres : d.b 4 23 = false) (himg : d.b 2 47 = false) (hone : d.f 1 24 11 = 1)
    (hsrc : src = memReadN c.mem (sram c x.m (d.f 1 0 23)) 4096) : ∃ held, bodyTable x d c =
      .ok () (beBuilding x (newWriter c x) n (buildLens src) (blockCoded x d x.id n held
        (storedBlock (buildLens src) n (((slotAt c x.m n).gen + 1) % 256) (scTag d 0) (getF c rCxCfg 0 8) src)
        (modSlot x.m n (fun t => { t with state := .ready, gen := (t.gen + 1) % 256, lens := buildLens src }) c))) := by
  obtain ⟨held, hcode⟩ := encodeWith_one (x := x) (d := d) (n := n) (src := src)
    (c := modSlot x.m n (fun t => { t with state := .ready, gen := (t.gen + 1) % 256, lens := buildLens src }) c) (newWriter c x)
    he hres hone (by simp) (by simp [holds_of_pickSlot hp]) hsrc
  refine ⟨held, ?_⟩
  rw [slotAt_modSlot_self] at hcode
  rw [bodyTable_picked hp, tableWrite_buildEncode (op_of_codec hrow),
    bind_ok (buildTable_clean (src := src) he himg (by rw [hone, hsrc])), bind_ok (change_ok _ _), modSlot_modSlot, bind_ok hcode, change_ok]
  rfl

end

/-! ### The package once the effect has run -/

@[simp] theorem settled_mem (c : Chip) : (settled c).mem = c.mem := rfl
@[simp] theorem settled_regs (c : Chip) : (settled c).regs = c.regs := rfl
@[simp] theorem settled_basins (c : Chip) : (settled c).basins = c.basins := rfl
@[simp] theorem slotAt_settled (c : Chip) (m : Fin 32) (n : Nat) : slotAt (settled c) m n = slotAt c m n := rfl

/-! ### The clauses of the statement -/

theorem holdAndReleaseCountHolds : HoldAndReleaseCountHolds := by
  intro b k s ch d js c c0 h hr hc0 hres hready hgen hh
  subst hc0
  refine ⟨fun hrow hlt => ?_, fun hrow hle hlt => ?_⟩
  · exact exec_headReady_ok (i := .hold b k) rfl hr hrow (bodyHolds_counts hres hready hgen (by rw [← hh]) hlt) (launched_far b k ch d js c)
  · exact exec_headReady_ok (i := .cxRelease b k) rfl hr hrow
      (bodyHolds_counts hres hready hgen (by rw [← hh]; exact if_neg (by omega)) (by omega)) (launched_far b k ch d js c)

theorem tablesAreBuiltAndCode : TablesAreBuiltAndCode := by
  intro b k s ch d js c c0 m n lim src hr hc0 he hm hres hn hlim
  have hfar : c0.fab.far = [] := by rw [hc0]; exact launched_far b k ch d js c
  obtain ⟨hb, hk⟩ := headCtx_bk b k ch
  have hid : (headCtx b k ch).id = ch.nextId := rfl
  have hrun : ∀ {i : Instr} {row : RowId} {body : Ctx → Desc → Eff Unit} {e : Chip}, descCommand i = some (b, k, row, body) →
      rowOf d = some row → body (headCtx b k ch) d c0 = .ok () e → e.fab.far = [] → exec i s = .next (s.withChip (settled e)) := by
    intro i row body e hi hrow h hf
    subst hc0
    exact exec_headReady_ok hi hr hrow h hf
  subst hm hlim
  refine ⟨?build, ?load, ?encode, ?buildEncode⟩
  case build =>
    intro hrow hp himg hsrc
    have hbody := bodyTable_build hrow hp he hres himg hsrc
    rw [hb, hk, hid] at hbody
    exact hrun (i := .cxBuild b k) rfl hrow hbody (by simp [hfar])
  case load =>
    intro g lens hrow hp hsrc himg
    have hbody := bodyTable_load hrow hp he hres hsrc himg
    rw [hb, hk, hid] at hbody
    exact hrun (i := .cxLoad b k) rfl hrow hbody (by simp [hfar])
  case encode =>
    intro hrow hslot hone hready hroom hsrc
    obtain ⟨held, hbody⟩ := bodyEncode_one he hres hone hslot hready hroom hsrc
    refine ⟨_, hrun (i := .encode b k) rfl hrow hbody (by simp [hfar]), sameRest_withChip s _, ?_, by simp, by simp⟩
    rw [withChip_chip, settled_basins, blockCoded_slots]
  case buildEncode =>
    intro hrow hp himg hone hsrc
    obtain ⟨held, hbody⟩ := bodyTable_buildEncode hrow hp he hres himg hone hsrc
    exact ⟨_, hrun (i := .buildEncode b k) rfl hrow hbody (by simp [hfar]), sameRest_withChip s _, by simp, by simp, by simp, by simp,
      by simp⟩

/-- Settles O14: HOLD and RELEASE set HOLDS of their slot; a table write takes a slot without holds, and codes with the table it has built. -/
theorem slotsAndTables : Obligations.SlotsAndTables := ⟨holdAndReleaseCountHolds, tablesAreBuiltAndCode⟩

end Sys2Proof.Machine
end

section
/-! PROOFS. Moves of records (R252): an UP whose lower place lies in a package to which no route is left. -/

namespace Sys2Proof.Machine

/-- The record that an UP is to move: its lower place lies in DRAM of package 1. -/
def farRecord : Rec := { up := 0x80100010000, down := 0x100000010000, len64 := 1, job := 5 }

/-- UP of record 7 by job 5, posted from the SRAM of basin 0. -/
def upBlock : Block := { addr := 0x80100000400, w := [0x700050004, 0, 0, 0, 0, 0, 0, 0], master := 1 }

/-- A queued item of job 6 whose run-ahead chain has claimed record 8. -/
def claimingItem : QItem := { item := { job := 6 }, ahead := some [{ claim := some 8 }] }

/-- An ACTIVE package with member package 1, to which no link leads, among the packages of job 6 (R427), and with the UP as its oldest request. -/
def upTowardUnreached : State :=
  let c := { State.reset.chip with regs := [(0x20, 0), (0x20000, 1), (rMembers, 3), (rRcJob 6, 0x30000)],
                                   power := { State.reset.chip.power with aonHeld := false, boot := .ready },
                                   plQueue := [upBlock], recs := [(7, farRecord), (8, { claims := 1 })] }
  { State.reset with chip := modBasin 0 (fun x => { x with queue := [claimingItem] }) c }

/-- The claims on a record after a step. -/
def claimsAfter (n : Nat) : Host.Outcome State Fault Refusal → Option Nat
  | .next t => (tabFind t.chip.recs n).map (·.claims)
  | _ => none

theorem upTowardUnreached_admitted :
    upBlock.recNo = 7 ∧ tabFind upTowardUnreached.chip.recs 7 = some farRecord ∧ OldestBlock upTowardUnreached 4 upBlock [] := by
  unfold OldestBlock
  decide +kernel

/-- The read of the lower place finds no route, so that package 1 is fenced (R302) and job 6 contained (R322): the claim of its run-ahead
copy falls (R191). -/
theorem claimsAfter_upTowardUnreached : claimsAfter 8 (exec .up upTowardUnreached) = some 0 := by
  decide +kernel

/-- Refutes O27: an UP whose lower place lies in a member package to which no route is left fences that package (R302), and the containment
of its jobs changes other records than the one that moves. -/
theorem not_movesRun : ¬ Obligations.MovesRun := by
  unfold Obligations.MovesRun MovesFollowTheRecord
  rintro ⟨hmoves, -⟩
  obtain ⟨hno, hrec, hold⟩ := upTowardUnreached_admitted
  obtain ⟨hup, -⟩ := hmoves upTowardUnreached upBlock [] 7 farRecord hno.symm hrec rfl rfl rfl rfl
  obtain ⟨t, ht, -, -, -, hrecs, -⟩ := hup hold (by decide) rfl rfl
  have hafter := claimsAfter_upTowardUnreached
  have hclaims : claimsAfter 8 (.next t) = some 1 := by
    simp only [claimsAfter, hrecs]
    decide
  rw [ht, hclaims] at hafter
  exact absurd hafter (by decide)

end Sys2Proof.Machine
end

section
/-! PROOFS. Requests of the hub's own engines on this package's memory (R314), and posted runs (R250, R276). -/

namespace Sys2Proof.Machine

theorem onChip_of {f : Chip → Chip} {s : State} {d : Chip} (h : f s.chip = d) : onChip f s = .next (s.withChip d) := by
  rw [onChip_eq, h]

/-! ### A unit of the hub that needs no other package (R314) -/

/-- What a unit of the hub has done where it asked nothing of another package. -/
theorem runHub_near {α : Type} {m : Master} {who : Requester} {act : Eff α} {c d : Chip} {a : α} (h : act (beginFar who c) = .ok a d)
    (hf : d.fab.far = []) : runHub m who act c = (requestOver who d, .done a) := by
  unfold runHub
  rw [(runEff_eq_ok _ _ _ _).mpr h]
  dsimp only
  rw [flushFar_none m who hf]
  rfl

theorem readAny_near {unit a n : Nat} {c : Chip} (hp : pkgOf a = pkg c) (hh : inHub a n = false) (hb : backed a n = true) (he : c.ecc = []) :
    readAny unit a n c = .ok (memReadN c.mem a n) c := by
  unfold readAny
  rw [bind_ok (checkPlace_passes (by rw [hp]; exact fenced_self c) hh hb)]
  exact readMem_clean unit a n c he hp

/-- A read of this package's memory by a unit of the hub. -/
theorem runHub_readAny {m : Master} {who : Requester} {unit a n : Nat} {c : Chip} (hp : pkgOf a = pkg c) (hh : inHub a n = false)
    (hb : backed a n = true) (he : c.ecc = []) :
    runHub m who (readAny unit a n) c = (requestOver who c, .done (memReadN c.mem a n)) :=
  runHub_near (d := beginFar who c) (readAny_near hp hh hb he) rfl

/-! ### Posted runs -/

/-- A run of this package's memory is taken at once. -/
theorem postRun_near (k : PostKind) (m : Master) {a n : Nat} {c : Chip} (h : PlainRange c a (k.size * n)) :
    postRun k m a n c = postTake k m a n none (memReadN c.mem a (k.size * n)) (requestOver (.post c.fab.nextPost) c) := by
  obtain ⟨hp, -, hh, hb, he⟩ := h
  unfold postRun
  dsimp only
  rw [runHub_readAny hp hh hb he]

/-- A register write leaves a range readable. -/
theorem plainRange_storeReg {c : Chip} {a n : Nat} (h : PlainRange c a n) (off v : Nat) : PlainRange (storeReg c off v) a n := by
  obtain ⟨hp, -, hh, hb, he⟩ := h
  obtain ⟨rg, hs⟩ := storeReg_eq c off v
  rw [hs]
  exact ⟨hp, fenced_self _, hh, hb, he⟩

/-- A post of requests or commands in this package's memory is answered, and its blocks stand at the end of their queue. -/
theorem busWrite_postTaken {k : PostKind} {m : Master} {act : Chip → Nat × Chip} {c : Chip} {off v a n : Nat} (hm : m.toNat ≤ 3)
    (hh : hubOn c = true) (hk : ∀ b, k ≠ .items b) (hr : PlainRange c a (k.size * n)) (ha : act c = postRun k m a n (storeReg c off v)) :
    ∃ d, busWrite m act c = d ∧ d.mem = c.mem ∧ d.out = .bus m 0 0 :: c.out ∧
      (k = .requests → d.plQueue = c.plQueue ++ runBlocks m a 64 n (memReadN c.mem a (k.size * n))) ∧
      (k = .commands → d.ms.queue = c.ms.queue ++ runBlocks m a 128 n (memReadN c.mem a (k.size * n))) := by
  rw [postRun_near k m (plainRange_storeReg hr off v)] at ha
  obtain ⟨rg, hs⟩ := storeReg_eq c off v
  rw [hs] at ha
  cases k with
  | items b => exact absurd rfl (hk b)
  | requests => exact ⟨_, busWrite_ok hh hm ha, rfl, rfl, fun _ => rfl, nofun⟩
  | commands => exact ⟨_, busWrite_ok hh hm ha, rfl, rfl, nofun, fun _ => rfl⟩

/-- A post that is refused leaves memory and both queues; the status register `st` shows its code. -/
theorem busWrite_postRefused {m : Master} {act : Chip → Nat × Chip} {c : Chip} {off v st code : Nat} (hm : m.toNat ≤ 3) (hh : hubOn c = true)
    (hlo : 0x40 ≤ st) (hhi : st < 0xC0000) (hc : code < 65536) (ha : act c = (code, putF (storeReg c off v) st 16 16 code)) :
    ∃ d, busWrite m act c = d ∧ d.mem = c.mem ∧ d.plQueue = c.plQueue ∧ d.ms = c.ms ∧ getF d st 16 16 = code := by
  obtain ⟨rg, hs⟩ := storeReg_eq c off v
  obtain ⟨r1, rc, hrep⟩ := reportAccess_eq code 0x24 (putF (storeReg c off v) st 16 16 code)
  have hlast : getF (reportAccess code 0x24 (putF (storeReg c off v) st 16 16 code)) st 16 16 = code :=
    (getF_congr _ _ (getReg_reportAccess hlo hhi)).trans ((getF_putF_self _ (by decide)).trans (Nat.mod_eq_of_lt hc))
  refine ⟨_, busWrite_refused hh hm ha (by unfold eLater; omega), ?_, ?_, ?_, hlast⟩
  all_goals rw [hrep, hs]; rfl

theorem postedBlocksEnterQueue : PostedBlocksEnterQueue := by
  rintro m v s c a n hm hh rfl hn rfl rfl
  refine ⟨fun h64 hr => ?taken, fun h64 => ?refused⟩
  case taken =>
    obtain ⟨d, hd, hmem, hout, hqueue, -⟩ := busWrite_postTaken (k := .requests) hm hh nofun hr
      (show wPlPost m v.toNat s.chip = _ from (if_neg hn).trans (if_neg (not_not.mpr h64)))
    exact ⟨_, onChip_of hd, sameRest_withChip s d, hmem, hout, hqueue rfl⟩
  case refused =>
    obtain ⟨d, hd, hmem, hqueue, -, hlast⟩ := busWrite_postRefused (code := ePlRec) hm hh (by decide) (by decide) (by decide)
      (show wPlPost m v.toNat s.chip = _ from (if_neg hn).trans (if_pos h64))
    exact ⟨_, onChip_of hd, sameRest_withChip s d, hmem, hqueue, hlast⟩

theorem postedCommandsEnterQueue : PostedCommandsEnterQueue := by
  rintro m v s c hm hh hn rfl
  refine ⟨?taken, fun h128 => ?refused⟩
  case taken =>
    rintro a n rfl rfl h128 hr
    obtain ⟨d, hd, hmem, hout, -, hqueue⟩ := busWrite_postTaken (k := .commands) hm hh nofun hr
      (show wMsPost m v.toNat s.chip = _ from (if_neg hn).trans (if_neg (not_not.mpr h128)))
    exact ⟨_, onChip_of hd, sameRest_withChip s d, hmem, hout, hqueue rfl⟩
  case refused =>
    obtain ⟨d, hd, hmem, -, hms, hlast⟩ := busWrite_postRefused (code := eMsCmd) hm hh (by decide) (by decide) (by decide)
      (show wMsPost m v.toNat s.chip = _ from (if_neg hn).trans (if_pos h128))
    exact ⟨_, onChip_of hd, sameRest_withChip s d, hmem, hms, hlast⟩

/-- Settles O31: a run of this package's memory is read and taken at once; one that lies wrong is refused before it is read. -/
theorem postsEnterQueues : Obligations.PostsEnterQueues := ⟨postedBlocksEnterQueue, postedCommandsEnterQueue⟩

end Sys2Proof.Machine
end

section
/-! PROOFS. PLAIN copies within the package (R240 to R243). -/

namespace Sys2Proof.Machine

/-! ### Rows moved one after another (R242) -/

/-- A row that is moved leaves errors, the package's number and what is asked of other packages as they were. -/
theorem putMem_own {c : Chip} (he : c.ecc = []) (a : Nat) (bs : List Byte) :
    (putMem c a bs).ecc = [] ∧ pkg (putMem c a bs) = pkg c ∧ (putMem c a bs).fab = c.fab :=
  ⟨by unfold putMem; split <;> simp [he], by unfold pkg; rw [putMem_power], putMem_fab c a bs⟩

/-- Rows within the package move in order (R241). -/
theorem copyBody_near (x : Ctx) (id job : Nat) {rows : List ((Nat × Nat) × (Nat × Nat))} {c : Chip} (he : c.ecc = [])
    (hr : ∀ r ∈ rows, pkgOf r.1.1 = pkg c ∧ pkgOf r.2.1 = pkg c) :
    copyBody x id job rows c = .ok () (rowsMoved rows c) ∧ (rowsMoved rows c).fab = c.fab := by
  obtain ⟨hloop, -, -, hfab⟩ := forM_foldl (I := fun e => e.ecc = [] ∧ pkg e = pkg c ∧ e.fab = c.fab)
    (f := fun r => do
      let bs ← readMem copyUnit r.1.1 r.1.2
      writeMem r.2.1 bs) (g := fun c r => putMem c r.2.1 (memReadN c.mem r.1.1 r.1.2)) rows
    (fun e r hmem hi => by
      obtain ⟨hecc, hpkg, hfab⟩ := hi
      obtain ⟨h1, h2, h3⟩ := putMem_own hecc r.2.1 (memReadN e.mem r.1.1 r.1.2)
      exact ⟨bind_ok (readMem_clean copyUnit r.1.1 r.1.2 e hecc ((hr r hmem).1.trans hpkg.symm)), h1, h2.trans hpkg, h3.trans hfab⟩)
    ⟨he, rfl, rfl⟩
  refine ⟨?_, hfab⟩
  unfold copyBody
  rw [bind_ok (get_ok c)]
  cases rows with
  | nil => rfl
  | cons r rows =>
    obtain ⟨hsrc, hdst⟩ := hr r List.mem_cons_self
    dsimp only
    rw [if_neg (by rw [hsrc]; exact not_not.mpr rfl), if_neg (by rw [hdst]; exact not_not.mpr rfl)]
    exact hloop

/-! ### A PLAIN copy in its place -/

/-- No mailbox channel lies below the hub range (R386). -/
theorem mbChannel_below {a : Nat} (h : inHub a 64 = false) : mbChannel (locOf a) = none := by
  have hlow : ¬ locOf a + 64 > hubBase := of_decide_eq_false h
  rw [hubBase] at hlow
  exact if_neg (by omega)

theorem head_mem_copyRows (a pitch len : Nat) {n : Nat} (hn : 1 ≤ n) : (a, len * 64) ∈ copyRows a pitch n len :=
  List.mem_map.mpr ⟨0, List.mem_range.mpr hn, by simp⟩

section
variable {x : Ctx} {d : Desc} {c : Chip} {srcs dsts : List (Nat × Nat)}
  (hs : srcs = copyRows (d.f 1 0 48) (d.f 4 0 24) (d.f 3 0 16) (d.f 3 16 24))
  (hd : dsts = copyRows (d.f 2 0 48) (d.f 4 24 24) (d.f 3 0 16) (d.f 3 16 24))
  (hr : ∀ r ∈ srcs ++ dsts, pkgOf r.1 = pkg c ∧ inHub r.1 r.2 = false ∧ backed r.1 r.2 = true) (hn : 1 ≤ d.f 3 0 16) (he : c.ecc = [])
include hs hd hr hn he

/-- Rows in backed memory of the package, none of which is a mailbox channel, are moved. -/
theorem plainCopy_near (id : Nat) : plainCopy x id d c = .ok () (rowsMoved (srcs.zip dsts) c) ∧ (rowsMoved (srcs.zip dsts) c).fab = c.fab := by
  have hno : ∀ a, (a, d.f 3 16 24 * 64) ∈ srcs ++ dsts →
      (if pkgOf a = pkg c ∧ d.f 3 0 16 = 1 ∧ d.f 3 16 24 = 1 then mbChannel (locOf a) else none) = none := by
    intro a ha
    split
    · next h =>
      have hhub := (hr _ ha).2.1
      rw [h.2.2] at hhub
      exact mbChannel_below hhub
    · rfl
  have hsrc := hno (d.f 1 0 48) (List.mem_append_left _ (hs ▸ head_mem_copyRows _ _ _ hn))
  have hdst := hno (d.f 2 0 48) (List.mem_append_right _ (hd ▸ head_mem_copyRows _ _ _ hn))
  obtain ⟨hbody, hfab⟩ := copyBody_near x id d.job (rows := srcs.zip dsts) he fun r hmem =>
    ⟨(hr _ (List.mem_append_left _ (List.of_mem_zip hmem).1)).1, (hr _ (List.mem_append_right _ (List.of_mem_zip hmem).2)).1⟩
  have hplaces : (srcs ++ dsts).forM (fun r => checkPlace copyUnit r.1 r.2) c = .ok () c :=
    checkPlaces_pass _ fun r hmem => by
      obtain ⟨hp, hh, hb⟩ := hr r hmem
      exact ⟨hp, fenced_self c, hh, hb, he⟩
  refine ⟨?_, hfab⟩
  unfold plainCopy
  rw [bind_ok (get_ok c)]
  dsimp only
  rw [hsrc, hdst, ← hs, ← hd]
  exact undefineOnStop_ok _ ((bind_ok hplaces).trans hbody)

end

/-- With a place free the copy takes it and runs; with none it takes its turn and waits (R243). -/
theorem bodyPlain_eq {x : Ctx} {b : Fin 32} {k : Fin 16} (hb : x.b = b) (hk : x.k = k) (d : Desc) (c : Chip) : bodyPlain x d c =
    if 4 ≤ c.basins[b].engine.length then
      .ok () (modFlightOf b k x.id (fun f => { f with wait := .place }) (engineTaken b k x.id c))
    else plainCopy x x.id d (engineTaken b k x.id c) := by
  subst hb hk
  unfold bodyPlain
  rw [bind_ok (get_ok c)]
  refine (bind_ok (change_ok _ c)).trans ?_
  split <;> rfl

/-- Settles O12: the body takes its place and moves the rows, or waits. -/
theorem plainCopyMovesRows : Obligations.PlainCopyMovesRows := by
  rintro b k s ch d js c c0 srcs dsts h hrow rfl he hs hd hr hn
  obtain ⟨hb, hk⟩ := headCtx_bk b k ch
  have hbody := bodyPlain_eq hb hk d (launched b k ch d js c)
  refine ⟨fun hfree => ?runs, fun hfull => ?waits⟩
  case runs =>
    obtain ⟨hcopy, hfab⟩ := plainCopy_near (x := headCtx b k ch) (c := engineTaken b k ch.nextId (launched b k ch d js c)) hs hd hr hn he
      ch.nextId
    exact exec_headReady_ok rfl h hrow (hbody.trans ((if_neg (Nat.not_le.mpr hfree)).trans hcopy)) (by rw [hfab]; rfl)
  case waits =>
    exact exec_headReady_ok rfl h hrow (hbody.trans (if_pos hfull)) (by rw [modFlightOf_fab]; rfl)

end Sys2Proof.Machine
end

section
/-! PROOFS. Placement requests on residency records (R247 to R258): the acceptance of the oldest block and its answer, the requests that
change their record at acceptance, and CREATE with its charges. -/

namespace Sys2Proof.Machine

/-! ### The acceptance of the oldest block (R250) -/

/-- The package once the oldest block has left the queue and PENDING counts the rest. -/
def dequeued (c : Chip) (rest : List Block) : Chip := plPending { c with plQueue := rest }

theorem getReg_dequeued (c : Chip) (rest : List Block) {off : Nat} (h : off ≠ rPlStatus) : getReg (dequeued c rest) off = getReg c off :=
  getReg_putF_ne _ _ _ _ h

theorem getF_dequeued_pending (c : Chip) (rest : List Block) :
    getF (dequeued c rest) rPlStatus 0 9 = (rest.filter (fun y => y.origin == .posted)).length % 512 := getF_putF_self _ (by decide)

section
variable {s : State} {op : Nat} {x : Block} {rest : List Block} (h : OldestBlock s op x rest)
include h

/-- The oldest block is accepted by the command of its OP, with its reserved fields 0. -/
theorem acceptBlock_oldest (hop : op < 13) (act : Block → Chip → Chip) : acceptBlock op act s.chip = act x (dequeued s.chip rest) := by
  obtain ⟨hq, hf, hbad, horigin, -⟩ := h
  have hreserved : ¬ 13 ≤ x.f 0 0 4 := by omega
  unfold acceptBlock
  rw [hq]
  dsimp only
  rw [horigin]
  dsimp only
  rw [if_neg (by decide), if_pos (Or.inl hf)]
  exact if_neg (by simp [hreserved, hbad])

/-- Word 7 of the block is written at its address, in this package (R250). -/
theorem finishBlock_oldest {d : Chip} (hp : pkg d = pkg s.chip) (code unit : Nat) :
    finishBlock x.addr code unit d = putMem d (x.addr + 56) (leBytes 8 (1 + b2n (code == 0) * 2 + code * 65536 + unit * 2 ^ 32)) :=
  if_pos (by rw [hp]; exact h.2.2.2.2)

end

/-! ### The answer to a request (R250) -/

/-- A request that has been accepted has left memory, the rest of the queue, the package's number and PL_STATUS as the acceptance did. -/
structure RequestKept (c : Chip) (rest : List Block) (d : Chip) : Prop where
  mem : d.mem = c.mem
  queue : d.plQueue = rest
  pkg : pkg d = pkg c
  status : getReg d rPlStatus = getReg (dequeued c rest) rPlStatus

theorem RequestKept.refl (c : Chip) (rest : List Block) : RequestKept c rest (dequeued c rest) := ⟨rfl, rfl, rfl, rfl⟩

/-- The package with one record set. -/
def recSet (n : Nat) (r : Rec) (c : Chip) : Chip := { c with recs := tabSet c.recs n r }

theorem RequestKept.recSet {c d : Chip} {rest : List Block} (h : RequestKept c rest d) (n : Nat) (r : Rec) :
    RequestKept c rest (recSet n r d) := ⟨h.mem, h.queue, h.pkg, h.status⟩

theorem putMem_plQueue (c : Chip) (a : Nat) (bs : List Byte) : (putMem c a bs).plQueue = c.plQueue := by unfold putMem; split <;> rfl
theorem putMem_charged (c : Chip) (a : Nat) (bs : List Byte) : (putMem c a bs).charged = c.charged := by unfold putMem; split <;> rfl

/-- A request that completes with code 0 is answered with DONE and OK, and nothing else changes. -/
theorem finishReq_ok {s : State} {op : Nat} {x : Block} {rest : List Block} {d : Chip} (h : OldestBlock s op x rest)
    (hk : RequestKept s.chip rest d) : AnsweredOk s (s.withChip (finishReq x (0, 0, d))) x rest ∧ (finishReq x (0, 0, d)).recs = d.recs ∧
      (finishReq x (0, 0, d)).charged = d.charged := by
  have hfin : finishReq x (0, 0, d) = putMem d (x.addr + 56) (leBytes 8 3) := finishBlock_oldest h hk.pkg 0 0
  rw [hfin]
  refine ⟨⟨sameRest_withChip s _, ?_, ?_, ?_⟩, putMem_recs _ _ _, putMem_charged _ _ _⟩
  · exact (putMem_plQueue _ _ _).trans hk.queue
  · exact (putMem_mem _ _ _).trans (by rw [hk.mem])
  · rw [withChip_chip, ← getF_dequeued_pending s.chip rest]
    exact getF_congr _ _ ((getReg_putMem _ _ _ _).trans hk.status)

/-- A request on the record that it names, which completes at acceptance. -/
theorem exec_onRecord {i : Instr} {s : State} {op : Nat} {x : Block} {rest : List Block} {r : Rec} {d : Chip}
    {req : Nat → Rec → Block → Chip → Nat × Nat × Chip} (hi : exec i s = onChip (acceptBlock op (onRecord req)) s)
    (h : OldestBlock s op x rest) (hop : op < 13) (hr : tabFind s.chip.recs x.recNo = some r) (hreq : req x.recNo r x (dequeued s.chip rest) = (0, 0, d))
    (hk : RequestKept s.chip rest d) : ∃ t, exec i s = .next t ∧ AnsweredOk s t x rest ∧ t.chip.recs = d.recs := by
  have hact : onRecord req x (dequeued s.chip rest) = finishReq x (0, 0, d) := by
    unfold onRecord
    rw [show tabFind (dequeued s.chip rest).recs x.recNo = some r from hr]
    exact congrArg (finishReq x) hreq
  obtain ⟨hok, hrecs, -⟩ := finishReq_ok h hk
  exact ⟨_, hi.trans (onChip_of ((acceptBlock_oldest h hop _).trans hact)), hok, hrecs⟩

/-! ### Changes of a record (R251, R252) -/

theorem modRec_some {c : Chip} {n : Nat} {r : Rec} (f : Rec → Rec) (h : tabFind c.recs n = some r) :
    modRec n f c = recSet n (f r) c := by
  unfold modRec
  rw [h]
  rfl

/-- A record without a pending eviction is left alone. -/
theorem settle_idle {c : Chip} {n : Nat} {r : Rec} (h : tabFind c.recs n = some r) (he : r.evictPend = false) (hf : r.forcePend = false) :
    settle n c = c := by
  unfold settle
  rw [h]
  exact if_neg (by simp [he, hf])

theorem dropPin_idle {c : Chip} {n : Nat} {r : Rec} (h : tabFind c.recs n = some r) (he : r.evictPend = false) (hf : r.forcePend = false) :
    dropPin n c = recSet n { r with pins := r.pins - 1 } c := by
  unfold dropPin
  rw [modRec_some _ h]
  exact settle_idle (tabFind_tabSet_self _ _ _) he hf

/-- Charges that are returned change nothing but the charges. -/
theorem foldl_addCharge (job : Nat) (bytes : Int) (us : List Nat) (c : Chip) :
    ∃ ch, us.foldl (fun c u => addCharge job u bytes c) c = { c with charged := ch } := by
  induction us generalizing c with
  | nil => exact ⟨c.charged, rfl⟩
  | cons u us ih => exact ih _

theorem recordRequestsChangeTheirRecord : RecordRequestsChangeTheirRecord := by
  rintro s x rest n r rfl hr he hf
  have hrec : tabFind (dequeued s.chip rest).recs x.recNo = some r := hr
  have hkept : ∀ r', RequestKept s.chip rest (recSet x.recNo r' (dequeued s.chip rest)) := (RequestKept.refl s.chip rest).recSet x.recNo
  refine ⟨?share, ?unshare, ?pin, ?unpin, ?free⟩
  case share =>
    intro h hm hlt
    refine exec_onRecord (req := reqShare) rfl h (by decide) hr ((if_neg (by simp [hm]; omega)).trans ?_) (hkept _)
    rw [modRec_some _ hrec]
  case unshare =>
    intro h hm hlt
    refine exec_onRecord (req := reqUnshare) rfl h (by decide) hr ((if_neg (by simp [hm]; omega)).trans ?_) (hkept _)
    rw [modRec_some _ hrec]
  case pin =>
    intro h hlt
    refine exec_onRecord (req := reqPin) rfl h (by decide) hr ((if_neg (by omega)).trans ?_) (hkept _)
    rw [modRec_some _ hrec]
  case unpin =>
    intro h hne
    refine exec_onRecord (req := reqUnpin) rfl h (by decide) hr ((if_neg hne).trans ?_) (hkept _)
    rw [dropPin_idle hrec he hf]
  case free =>
    intro h hrefs hpins hbusy hclaims hup hstate
    obtain ⟨ch, hch⟩ := foldl_addCharge r.job (-((r.len64 * 64 : Nat) : Int)) (chargedUnits (dequeued s.chip rest) r)
      { dequeued s.chip rest with recs := tabDel s.chip.recs x.recNo }
    refine exec_onRecord (req := reqFree) rfl h (by decide) hr ((if_pos ?_).trans (congrArg (fun c => (0, 0, c)) hch)) ⟨rfl, rfl, rfl, rfl⟩
    simp [hrefs, hpins, hbusy, hclaims, hup, hstate, he, hf]

theorem cancelEvictClearsPendingFlags : CancelEvictClearsPendingFlags := by
  intro s x rest r h hr
  refine exec_onRecord (req := reqCancelEvict) rfl h (by decide) hr ?_ ((RequestKept.refl s.chip rest).recSet x.recNo _)
  unfold reqCancelEvict
  rw [modRec_some _ (show tabFind (dequeued s.chip rest).recs x.recNo = some r from hr)]

/-! ### CREATE and its charges (R247, R256, R258) -/

/-- A place of this package lies in a unit of the tier that the package sees. -/
theorem tierOf_unit {c : Chip} {a u : Nat} (hp : pkgOf a = pkg c) (hu : unitOf (locOf a) = some u) :
    u < 64 ∧ quotaTier u + 1 = tierOf c a false := by
  unfold unitOf at hu
  unfold tierOf
  rw [if_neg (by decide), if_neg (by rw [hp]; exact not_not.mpr rfl)]
  split at hu
  · next b hb =>
    cases hu
    have hlt := b.isLt
    rw [hb]
    unfold quotaTier
    rw [if_pos hlt]
    exact ⟨by omega, rfl⟩
  · next d hd =>
    cases hu
    have hlt := d.isLt
    rw [hd]
    unfold quotaTier
    rw [if_neg (by omega), if_pos (by omega)]
    exact ⟨by omega, rfl⟩
  · next d hd =>
    cases hu
    have hlt := d.isLt
    rw [hd]
    unfold quotaTier
    rw [if_neg (by omega), if_neg (by omega), if_pos (by omega)]
    exact ⟨by omega, rfl⟩
  · cases hu

theorem acctKey_mod (job : Nat) {u : Nat} (h : u < 64) : acctKey job u % 64 = u := by unfold acctKey; omega

/-- The only charge of a tier is what stands on another. -/
theorem tierSum_other {job u k n : Nat} (h : u < 64) (hk : quotaTier u ≠ k) : tierSum [(acctKey job u, n)] k = 0 := by
  simp [tierSum, acctKey_mod job h, hk]

section
variable {c : Chip} {job u l n : Nat} (hmode : bit (getReg c rPlCfg) 0 = true) (hcharged : c.charged = []) (hu : u < 64)
  (htier : quotaTier u ≠ quotaTier l) (hqu : n ≤ getReg c (rQuota (quotaTier u)) * 65536) (hql : n ≤ getReg c (rQuota (quotaTier l)) * 65536)
include hmode hcharged hu htier hqu hql

/-- In QUOTA mode, with nothing charged yet, two units of different tiers are charged where each quota has room. -/
theorem chargeAll_quota : chargeAll job n [u, l] c = (none, { c with charged := tabSet [(acctKey job u, n)] (acctKey job l) n }) := by
  have hkey : acctKey job u ≠ acctKey job l := fun h => htier (congrArg quotaTier (by unfold acctKey at h; omega))
  have hfirst : addCharge job u n c = { c with charged := [(acctKey job u, n)] } := by
    simp [addCharge, hcharged, tabGet, tabFind, tabSet]
  have hsecond : addCharge job l n { c with charged := [(acctKey job u, n)] } =
      { c with charged := tabSet [(acctKey job u, n)] (acctKey job l) n } := by
    simp [addCharge, tabGet, tabFind, hkey]
  have hfitu : chargeFits c job u n = true := by
    unfold chargeFits
    rw [if_pos hmode, hcharged]
    exact decide_eq_true (by simpa [tierSum] using hqu)
  have hfitl : chargeFits { c with charged := [(acctKey job u, n)] } job l n = true := by
    unfold chargeFits
    rw [if_pos (show bit (getReg { c with charged := [(acctKey job u, n)] } rPlCfg) 0 = true from hmode)]
    refine decide_eq_true ?_
    show tierSum [(acctKey job u, n)] (quotaTier l) + n ≤ _
    rw [tierSum_other hu htier, Nat.zero_add]
    exact hql
  rw [chargeAll, if_pos hfitu, hfirst, chargeAll, if_pos hfitl, hsecond, chargeAll]

end

/-- A record with its lower place in this package's memory charges the units of both places (R256). -/
theorem chargedUnits_memory {c : Chip} {r : Rec} {u l : Nat} (hf : r.downFlash = false) (hp : pkgOf r.down = pkg c)
    (hu : unitOf (locOf r.up) = some u) (hl : unitOf (locOf r.down) = some l) : chargedUnits c r = [u, l] := by
  unfold chargedUnits
  rw [hf, if_neg Bool.false_ne_true, if_pos hp, hu, hl]
  rfl

/-- The record that CREATE makes: ABSENT, with REFS 1 (R247). -/
def createdRec (x : Block) : Rec :=
  { up := x.f 1 0 48, wbAll := bit (x.w.getD 0 0) 5, down := x.f 2 0 48, len64 := x.f 3 0 24, job := x.job }

/-- The places of a CREATE are ones that a record may have (R247): a free number, an upper place that no record has, at a multiple of 64 in
backed memory of the package, and a lower one in backed memory of a lower tier. -/
structure PlacesFit (c : Chip) (x : Block) : Prop where
  free : tabFind c.recs x.recNo = none
  fresh : recAt c (x.f 1 0 48) = none
  long : x.f 3 0 24 ≠ 0
  aligned : x.f 1 0 48 % 64 = 0
  own : pkgOf (x.f 1 0 48) = pkg c
  upHub : inHub (x.f 1 0 48) (x.f 3 0 24 * 64) = false
  upBacked : backed (x.f 1 0 48) (x.f 3 0 24 * 64) = true
  memory : bit (x.w.getD 2 0) 48 = false
  downHub : inHub (x.f 2 0 48) (x.f 3 0 24 * 64) = false
  downBacked : backed (x.f 2 0 48) (x.f 3 0 24 * 64) = true
  lower : tierOf c (x.f 1 0 48) false < tierOf c (x.f 2 0 48) false

/-- A CREATE whose places fit makes its record once its charges are made. -/
theorem reqCreate_charged {c d : Chip} {x : Block} (h : PlacesFit c x)
    (hcharge : chargeAll x.job (x.f 3 0 24 * 64) (chargedUnits c (createdRec x)) c = (none, d)) :
    reqCreate x c = (0, 0, recSet x.recNo (createdRec x) d) := by
  have hrec : createdRec x =
      { up := x.f 1 0 48, wbAll := bit (x.w.getD 0 0) 5, down := x.f 2 0 48, downFlash := false, len64 := x.f 3 0 24, job := x.job } := rfl
  unfold reqCreate
  rw [h.memory]
  dsimp only
  refine (if_neg ?_).trans ?_
  · simp [h.free, h.fresh, h.long, h.aligned, h.own, h.upHub, h.upBacked, h.downHub, h.downBacked, h.lower]
  · rw [← hrec, hcharge]
    rfl

/-- CREATE at a number that is VALID already is refused, and the table stays (R250). -/
theorem exec_create_taken {s : State} {x : Block} {rest : List Block} (h : OldestBlock s 0 x rest)
    (hv : (tabFind s.chip.recs x.recNo).isSome = true) : ∃ t, exec .create s = .next t ∧ sameRest s t ∧ t.chip.recs = s.chip.recs ∧
      t.chip.charged = s.chip.charged ∧ t.chip.mem = memWriteN s.chip.mem (x.addr + 56) (leBytes 8 (1 + 0x0902 * 65536)) ∧
      getF t.chip rPlStatus 16 16 = 0x0902 := by
  have hreq : reqCreate x (dequeued s.chip rest) = (ePlRec, 0, dequeued s.chip rest) := by
    unfold reqCreate
    exact if_pos (by rw [show (tabFind (dequeued s.chip rest).recs x.recNo).isSome = true from hv]; rfl)
  have hfin := finishBlock_oldest (d := dequeued s.chip rest) h rfl ePlRec 0
  obtain ⟨rg, rc, hrep⟩ := report_eq { code := ePlRec, sev := sevOf ePlRec, job := some x.job, src := 0x24 }
    (failBlock x.addr ePlRec 0 (dequeued s.chip rest))
  have hact : finishReq x (reqCreate x (dequeued s.chip rest)) =
      report { code := ePlRec, sev := sevOf ePlRec, job := some x.job, src := 0x24 } (failBlock x.addr ePlRec 0 (dequeued s.chip rest)) := by
    rw [hreq]
    unfold finishReq endRequest
    exact if_neg (show ¬ ePlRec = 0 by decide)
  refine ⟨_, onChip_of ((acceptBlock_oldest h (by decide) _).trans hact), sameRest_withChip s _, ?_, ?_, ?_, ?_⟩
  · rw [withChip_chip, hrep]
    show (finishBlock x.addr ePlRec 0 (dequeued s.chip rest)).recs = _
    rw [hfin, putMem_recs]; rfl
  · rw [withChip_chip, hrep]
    show (finishBlock x.addr ePlRec 0 (dequeued s.chip rest)).charged = _
    rw [hfin, putMem_charged]; rfl
  · rw [withChip_chip, hrep]
    show (finishBlock x.addr ePlRec 0 (dequeued s.chip rest)).mem = _
    rw [hfin, putMem_mem]; rfl
  · have hdrop : rPlStatus ≠ rErDrop (sevOf ePlRec) := by decide
    exact (getF_congr _ _ (getReg_report _ _ _ (by decide) (by decide) hdrop (by decide) (by decide) (by decide))).trans
      (getF_putF_self _ (by decide))

theorem createMakesAbsentRecord : CreateMakesAbsentRecord := by
  intro s x rest u l h
  refine ⟨?created, exec_create_taken h⟩
  case created =>
    intro hfree hmode hmem hfresh hlen hup hpup hpdown hhup hhdown hbup hbdown htier hu hl hcharged hqu hql
    obtain ⟨hu64, hut⟩ := tierOf_unit hpup hu
    obtain ⟨-, hlt⟩ := tierOf_unit hpdown hl
    have hother : quotaTier u ≠ quotaTier l := by omega
    have hquota : ∀ k, getReg (dequeued s.chip rest) (rQuota k) = getReg s.chip (rQuota k) := fun k =>
      getReg_dequeued _ _ (by unfold rQuota rPlStatus; omega)
    have hunits : chargedUnits (dequeued s.chip rest) (createdRec x) = [u, l] := chargedUnits_memory rfl hpdown hu hl
    have hcharge := chargeAll_quota (c := dequeued s.chip rest) (job := x.job) (by rw [getReg_dequeued _ _ (by decide)]; exact hmode)
      hcharged hu64 hother ((hquota _).symm ▸ hqu) ((hquota _).symm ▸ hql)
    rw [← hunits] at hcharge
    have hreq := reqCreate_charged (c := dequeued s.chip rest)
      { free := hfree, fresh := hfresh, long := hlen, aligned := hup, own := hpup, upHub := hhup, upBacked := hbup, memory := hmem,
        downHub := hhdown, downBacked := hbdown, lower := htier } hcharge
    obtain ⟨hok, hrecs, hch⟩ := finishReq_ok (d := recSet x.recNo (createdRec x) { dequeued s.chip rest with
      charged := tabSet [(acctKey x.job u, x.f 3 0 24 * 64)] (acctKey x.job l) (x.f 3 0 24 * 64) }) h ⟨rfl, rfl, rfl, rfl⟩
    refine ⟨_, onChip_of ((acceptBlock_oldest h (by decide) _).trans (congrArg (finishReq x) hreq)), hok, hrecs, ?_, ?_⟩
    · rw [withChip_chip, hch]
      show tabGet 0 (tabSet _ _ _) _ = _
      unfold tabGet
      rw [tabFind_tabSet_ne _ _ (fun hk => hother (congrArg quotaTier (by unfold acctKey at hk; omega)))]
      simp [tabFind]
    · rw [withChip_chip, hch]
      exact tabGet_tabSet_self _ _ _ _

/-- Settles O26: each request changes its record at acceptance, and is answered. -/
theorem recordsFollowRequests : Obligations.RecordsFollowRequests :=
  ⟨recordRequestsChangeTheirRecord, cancelEvictClearsPendingFlags, createMakesAbsentRecord⟩

end Sys2Proof.Machine
end

section
/-! PROOFS. The flash translation layer (R262, R263): programs acknowledged or failed, blocks whose data moves, and blocks retired. -/

namespace Sys2Proof.Machine

/-! ### Programs (R262) -/

/-- `g` is `f` but for the places of the sectors and the counts of the blocks. -/
def PlacedOnly (f g : Flash) : Prop := ∃ er rd pl op, g = { f with erases := er, reads := rd, place := pl, opened := op }

theorem PlacedOnly.refl (f : Flash) : PlacedOnly f f := ⟨f.erases, f.reads, f.place, f.opened, rfl⟩

theorem PlacedOnly.trans {f g h : Flash} (a : PlacedOnly f g) (b : PlacedOnly g h) : PlacedOnly f h := by
  obtain ⟨_, _, _, _, rfl⟩ := a
  obtain ⟨_, _, _, _, rfl⟩ := b
  exact ⟨_, _, _, _, rfl⟩

theorem placeSector_placed (s : Nat) (f : Flash) : PlacedOnly f (placeSector s f) := by
  unfold placeSector
  dsimp only
  split
  · split
    · exact ⟨_, _, _, _, rfl⟩
    · split <;> exact ⟨_, _, _, _, rfl⟩
  · split <;> exact ⟨_, _, _, _, rfl⟩

theorem programmed_placed (a : Nat) (bs : List Byte) (f : Flash) : PlacedOnly { f with bytes := memWriteN f.bytes a bs } (programmed a bs f) := by
  unfold programmed
  dsimp only
  split
  · exact .refl _
  · exact foldl_keeps _ (fun g s _ hg => hg.trans (placeSector_placed s g)) (PlacedOnly.refl _)

/-- The security engine, with nothing to wait for, leaves an acknowledgement to the package (R454). -/
theorem exec_flashProgramAck {s : State} {d : Chip} (i : Nat) (err : Option (BitVec 16)) (h : s.sec.job = none)
    (hd : programAck i (err.map (·.toNat)) s.chip = d) : exec (.flashProgramAck i err) s = .next (s.withChip d) := by
  have hidle : ∀ c : Chip, secGoesOn { s.dev with chip := c } = { s.dev with chip := c } := fun c => by
    unfold secGoesOn
    rw [show ({ s.dev with chip := c } : Dev).sec.job = none from h]
  show onDev (fun d => secGoesOn (secGoesOn (d.chipDo (programAck i (err.map (·.toNat)))))) s = _
  rw [onDev_eq, show s.dev.chipDo (programAck i (err.map (·.toNat))) = { s.dev with chip := d } by rw [← hd]; rfl, hidle, hidle]
  rfl

section
variable {c : Chip} {i a : Nat} {bs : List Byte} {who : FlashBy} (hw : c.flash.writes[i]? = some (who, a, bs))
  (hro : bit (getReg c rFlStatus) 15 = false) (hp : pkgOf a = pkg c)
include hw hro hp

/-- A program into this package's flash that is acknowledged is stored, and whoever made it is told. -/
theorem programAck_stored : programAck i none c =
    flashEnds who a none { c with flash := programmed a bs { c.flash with writes := c.flash.writes.eraseIdx i } } := by
  unfold programAck
  rw [hw]
  simp [hp, show bit (getReg { c with flash := { c.flash with writes := c.flash.writes.eraseIdx i } } rFlStatus) 15 = false from hro]

/-- One that fails stores nothing. -/
theorem programAck_failed (e : Nat) : programAck i (some e) c =
    flashEnds who a (some e) { c with flash := { c.flash with writes := c.flash.writes.eraseIdx i } } := by
  unfold programAck
  rw [hw]
  simp [hp, show bit (getReg { c with flash := { c.flash with writes := c.flash.writes.eraseIdx i } } rFlStatus) 15 = false from hro]

end

/-- The end of a program without an error tells whoever made it, and leaves memory and what the flash holds. -/
theorem flashEnds_ok (who : FlashBy) (a : Nat) (c : Chip) : (flashEnds who a none c).mem = c.mem ∧
    (flashEnds who a none c).flash.bytes = c.flash.bytes ∧ (flashEnds who a none c).flash.writes = c.flash.writes ∧
    (who = .wdata → (flashEnds who a none c).flash.acked = c.flash.acked ++ [(a, 0)]) ∧
    ∀ next, who = .mirror next → next < 2 ^ 32 → getReg (flashEnds who a none c) rErMirror = next := by
  cases who with
  | move n => exact ⟨rfl, rfl, rfl, nofun, nofun⟩
  | wdata => exact ⟨rfl, rfl, rfl, fun _ => rfl, nofun⟩
  | sec => exact ⟨rfl, rfl, rfl, nofun, nofun⟩
  | mirror next =>
    refine ⟨rfl, rfl, rfl, nofun, fun n hn hlt => ?_⟩
    cases hn
    exact (getReg_putReg_self _ _ _).trans (Nat.mod_eq_of_lt hlt)

theorem flashProgramAck_clauses (s : State) (i a : Nat) (bs : List Byte) (who : FlashBy) (hw : s.chip.flash.writes[i]? = some (who, a, bs))
    (hro : bit (getReg s.chip rFlStatus) 15 = false) (hp : pkgOf a = pkg s.chip) (hs : s.sec.job = none) :
    (∃ t, exec (.flashProgramAck i none) s = .next t ∧ t.pending = s.pending ∧ t.sec = s.sec ∧
      t.chip.flash.bytes = memWriteN s.chip.flash.bytes a bs ∧ t.chip.flash.writes = s.chip.flash.writes.eraseIdx i ∧
      t.chip.mem = s.chip.mem ∧ (who = .wdata → t.chip.flash.acked = s.chip.flash.acked ++ [(a, 0)]) ∧
      ∀ next, who = .mirror next → next < 2 ^ 32 → getReg t.chip rErMirror = next) ∧
    (∀ e : BitVec 16, who = .wdata → ∃ t, exec (.flashProgramAck i (some e)) s = .next t ∧ t.chip.flash.bytes = s.chip.flash.bytes ∧
      t.chip.flash.writes = s.chip.flash.writes.eraseIdx i ∧ t.chip.flash.acked = s.chip.flash.acked ++ [(a, e.toNat)]) := by
  refine ⟨?stored, fun e he => ?failed⟩
  case stored =>
    obtain ⟨er, rd, pl, op, hplaced⟩ := programmed_placed a bs { s.chip.flash with writes := s.chip.flash.writes.eraseIdx i }
    have hack := programAck_stored hw hro hp
    rw [hplaced] at hack
    refine ⟨_, exec_flashProgramAck i none hs hack, rfl, rfl, ?_⟩
    obtain ⟨hmem, hbytes, hwrites, hacked, hmirror⟩ := flashEnds_ok who a { s.chip with flash := { s.chip.flash with
      writes := s.chip.flash.writes.eraseIdx i, bytes := memWriteN s.chip.flash.bytes a bs, erases := er, reads := rd, place := pl, opened := op } }
    exact ⟨hbytes, hwrites, hmem, hacked, hmirror⟩
  case failed =>
    subst he
    exact ⟨_, exec_flashProgramAck i (some e) hs (programAck_failed hw hro hp e.toNat), rfl, rfl, rfl⟩

/-! ### The block that data moves to (R263) -/

/-- The less erased of the best so far and another block. -/
def lessErased (best : Option (Nat × Nat)) (x : Nat × Nat) : Option (Nat × Nat) :=
  match best with
  | none => some x
  | some y => if x.2 < y.2 then some x else some y

theorem mem_of_foldl_lessErased {l : List (Nat × Nat)} {best : Option (Nat × Nat)} {x : Nat × Nat} (h : l.foldl lessErased best = some x) :
    x ∈ l ∨ best = some x := by
  induction l generalizing best with
  | nil => exact .inr h
  | cons y l ih =>
    rcases ih h with hmem | hbest
    · exact .inl (List.mem_cons_of_mem _ hmem)
    · unfold lessErased at hbest
      split at hbest
      · cases hbest; exact .inl List.mem_cons_self
      · split at hbest
        · cases hbest; exact .inl List.mem_cons_self
        · exact .inr hbest

theorem leastErased_eq (f : Flash) (p : Nat → Bool) : leastErased f p =
    match (List.range (min f.blocks (f.erases.length + f.bad.length + f.place.length + 2))).find? (fun k => p k && (tabFind f.erases k).isNone) with
    | some k => some k
    | none => ((f.erases.filter (fun x => p x.1)).foldl lessErased none).map (·.1) := rfl

/-- The least-erased block that satisfies a test satisfies it. -/
theorem leastErased_satisfies {f : Flash} {p : Nat → Bool} {k : Nat} (h : leastErased f p = some k) : p k = true := by
  rw [leastErased_eq] at h
  split at h
  · next j hj =>
    cases h
    have := List.find?_some hj
    simp only [Bool.and_eq_true] at this
    exact this.1
  · obtain ⟨x, hx, rfl⟩ := Option.map_eq_some_iff.mp h
    rcases mem_of_foldl_lessErased hx with hmem | hbest
    · exact (List.mem_filter.mp hmem).2
    · cases hbest

/-- A block that may move holds data, and its data moves to another one. -/
theorem ne_of_mayMove {f : Flash} {src dst : Nat} (h : mayMove f src dst = true) : src ≠ dst := by
  simp only [mayMove, Bool.and_eq_true, List.any_eq_true, beq_iff_eq] at h
  obtain ⟨⟨p, hp, hps⟩, hdst⟩ := h
  have hfree := leastErased_satisfies hdst
  simp only [blockFree, Bool.and_eq_true, Bool.not_eq_true', List.any_eq_false, beq_iff_eq] at hfree
  intro he
  exact hfree.1.2 p hp (hps.trans he)

/-- The flash once the data of a block stands in another, and the block is erased. -/
def blockMoved (src dst : Nat) (f : Flash) : Flash := eraseBlock src (moveBlock src dst (eraseBlock dst f))

theorem moveBlock_leaves {f : Flash} {src dst : Nat} (h : src ≠ dst) : ∀ p ∈ (moveBlock src dst f).place, p.2 ≠ src := by
  intro p hp
  obtain ⟨q, -, rfl⟩ := List.mem_map.mp hp
  split
  · exact h.symm
  · next hq => exact hq

/-- No byte changes; the old block is erased, and holds no sector. -/
theorem blockMoved_facts {f : Flash} {src dst : Nat} (h : src ≠ dst) : (blockMoved src dst f).bytes = f.bytes ∧
    (∀ p ∈ (blockMoved src dst f).place, p.2 ≠ src) ∧
    tabGet 0 (blockMoved src dst f).erases src = tabGet 0 f.erases src + 1 ∧ tabGet 0 (blockMoved src dst f).reads src = 0 := by
  refine ⟨rfl, moveBlock_leaves h, ?_, tabGet_tabSet_self _ _ _ _⟩
  show tabGet 0 (tabSet (tabSet f.erases dst _) src (tabGet 0 (tabSet f.erases dst _) src + 1)) src = _
  rw [tabGet_tabSet_self]
  unfold tabGet
  rw [tabFind_tabSet_ne _ _ h]

theorem wearLevelling_moves {s : State} {src dst : Nat} (hm : mayMove s.chip.flash src dst = true)
    (hlim : getF s.chip rFlCfg 8 8 * 64 < wearSpread s.chip.flash)
    (hfew : ∀ p ∈ s.chip.flash.place, tabGet 0 s.chip.flash.erases src ≤ tabGet 0 s.chip.flash.erases p.2) :
    exec (.wearLevelling src dst) s = .next (s.withChip { s.chip with flash := blockMoved src dst s.chip.flash }) := by
  refine onChip_of (if_pos ?_)
  simp only [Bool.and_eq_true, decide_eq_true_eq, List.all_eq_true]
  exact ⟨⟨hm, hfew⟩, hlim⟩

theorem readDisturbRefresh_moves {s : State} {src dst : Nat} (hm : mayMove s.chip.flash src dst = true)
    (hlim : getF s.chip rFlCfg 0 8 * 10000 < tabGet 0 s.chip.flash.reads src) :
    exec (.readDisturbRefresh src dst) s = .next (s.withChip (bump { s.chip with flash := blockMoved src dst s.chip.flash } (rPlCtr 7))) := by
  refine onChip_of (if_pos ?_)
  simp only [Bool.and_eq_true, decide_eq_true_eq]
  exact ⟨hm, hlim⟩

theorem blockMoves_clauses (s : State) (src dst : Nat) (hm : mayMove s.chip.flash src dst = true) :
    (getF s.chip rFlCfg 8 8 * 64 < wearSpread s.chip.flash →
      (∀ p ∈ s.chip.flash.place, tabGet 0 s.chip.flash.erases src ≤ tabGet 0 s.chip.flash.erases p.2) →
      ∃ t, exec (.wearLevelling src dst) s = .next t ∧ sameRest s t ∧ t.chip.flash.bytes = s.chip.flash.bytes ∧ t.chip.regs = s.chip.regs ∧
        (∀ p ∈ t.chip.flash.place, p.2 ≠ src) ∧
        tabGet 0 t.chip.flash.erases src = tabGet 0 s.chip.flash.erases src + 1 ∧ tabGet 0 t.chip.flash.reads src = 0) ∧
    (wearSpread s.chip.flash ≤ getF s.chip rFlCfg 8 8 * 64 → exec (.wearLevelling src dst) s = .next s) ∧
    (getF s.chip rFlCfg 0 8 * 10000 < tabGet 0 s.chip.flash.reads src →
      ∃ t, exec (.readDisturbRefresh src dst) s = .next t ∧ sameRest s t ∧ t.chip.flash.bytes = s.chip.flash.bytes ∧
        (∀ p ∈ t.chip.flash.place, p.2 ≠ src) ∧
        tabGet 0 t.chip.flash.reads src = 0 ∧ getReg t.chip (rPlCtr 7) = (getReg s.chip (rPlCtr 7) + 1) % 2 ^ 32) ∧
    (tabGet 0 s.chip.flash.reads src ≤ getF s.chip rFlCfg 0 8 * 10000 → exec (.readDisturbRefresh src dst) s = .next s) := by
  obtain ⟨hbytes, hplace, herases, hreads⟩ := blockMoved_facts (f := s.chip.flash) (ne_of_mayMove hm)
  refine ⟨fun hlim hfew => ?level, fun hlim => ?even, fun hlim => ?refresh, fun hlim => ?fresh⟩
  case level => exact ⟨_, wearLevelling_moves hm hlim hfew, sameRest_withChip s _, hbytes, rfl, hplace, herases, hreads⟩
  case even =>
    have hno : ¬ getF s.chip rFlCfg 8 8 * 64 < wearSpread s.chip.flash := by omega
    exact onChip_of (if_neg (by simp [hno]))
  case refresh =>
    obtain ⟨rg, hb⟩ := bump_eq { s.chip with flash := blockMoved src dst s.chip.flash } (rPlCtr 7) 1
    refine ⟨_, readDisturbRefresh_moves hm hlim, sameRest_withChip s _, ?_, ?_, ?_, getReg_bump_self _ _ _⟩
    all_goals rw [withChip_chip, hb]
    · exact hbytes
    · exact hplace
    · exact hreads
  case fresh =>
    have hno : ¬ getF s.chip rFlCfg 0 8 * 10000 < tabGet 0 s.chip.flash.reads src := by omega
    exact onChip_of (if_neg (by simp [hno]))

/-! ### Retired blocks (R263) -/

/-- The flash once a block is retired: one spare fewer, and its data in the least-erased free block. -/
def blockRetired (k : Nat) (f : Flash) : Flash :=
  let g := { f with bad := insertNat k f.bad, spares := f.spares - 1 }
  match leastErased g (blockFree g) with
  | some j => if g.place.any (fun p => p.2 == k) then moveBlock k j (eraseBlock j g) else g
  | none => g

theorem blockRetired_facts (k : Nat) (f : Flash) : (blockRetired k f).bad = insertNat k f.bad ∧ (blockRetired k f).spares = f.spares - 1 ∧
    (blockRetired k f).bytes = f.bytes := by
  unfold blockRetired
  dsimp only
  split
  · split <;> exact ⟨rfl, rfl, rfl⟩
  · exact ⟨rfl, rfl, rfl⟩

/-- Few spares are told once. -/
def fewSparesTold (c : Chip) : Chip :=
  if c.flash.spares * 50 < c.flash.blocks ∧ !bit (getReg c rFlStatus) 14 then
    setStatus 6 (report { code := eFlashFull, sev := 1, src := 0x2A } (putF c rFlStatus 14 1 1)) else c

/-- With no spare left the flash is read-only. -/
def noSparesTold (c : Chip) : Chip :=
  if c.flash.spares = 0 ∧ !bit (getReg c rFlStatus) 15 then setStatus 6 (putF c rFlStatus 15 1 1) else c

theorem retireBlock_eq {k : Nat} {c : Chip} (h : k ∉ c.flash.bad) :
    retireBlock k c = noSparesTold (fewSparesTold (bump { c with flash := blockRetired k c.flash } (rPlCtr 8))) := by
  unfold retireBlock
  rw [if_neg (by simpa using h)]
  rfl

theorem fewSparesTold_flash (c : Chip) : (fewSparesTold c).flash = c.flash := by
  unfold fewSparesTold
  split
  · obtain ⟨rg, rc, hrep⟩ := report_eq { code := eFlashFull, sev := 1, src := 0x2A } (putF c rFlStatus 14 1 1)
    rw [hrep]; rfl
  · rfl

theorem fewSparesTold_counter (c : Chip) : getReg (fewSparesTold c) (rPlCtr 8) = getReg c (rPlCtr 8) := by
  unfold fewSparesTold
  split
  · exact (getReg_putF_ne _ _ _ _ (by decide)).trans ((getReg_report _ _ _ (by decide) (by decide) (by decide) (by decide) (by decide)
      (by decide)).trans (getReg_putF_ne _ _ _ _ (by decide)))
  · rfl

theorem noSparesTold_flash (c : Chip) : (noSparesTold c).flash = c.flash := by unfold noSparesTold; split <;> rfl

theorem noSparesTold_counter (c : Chip) : getReg (noSparesTold c) (rPlCtr 8) = getReg c (rPlCtr 8) := by
  unfold noSparesTold
  split
  · exact (getReg_putF_ne _ _ _ _ (by decide)).trans (getReg_putF_ne _ _ _ _ (by decide))
  · rfl

theorem noSparesTold_readOnly {c : Chip} (h : c.flash.spares = 0) : bit (getReg (noSparesTold c) rFlStatus) 15 = true := by
  unfold noSparesTold
  split
  · exact (congrArg (fun x => bit x 15) (getReg_putF_ne _ _ _ _ (by decide))).trans (bit_putF_one c rFlStatus (by decide))
  · next hno =>
    simpa [h] using hno

theorem badBlockRetire_clause (s : State) (k : Nat) (hk : k ∉ s.chip.flash.bad) :
    ∃ t, exec (.badBlockRetire k) s = .next t ∧ sameRest s t ∧ k ∈ t.chip.flash.bad ∧ t.chip.flash.spares = s.chip.flash.spares - 1 ∧
      t.chip.flash.bytes = s.chip.flash.bytes ∧ getReg t.chip (rPlCtr 8) = (getReg s.chip (rPlCtr 8) + 1) % 2 ^ 32 ∧
      (s.chip.flash.spares = 1 → bit (getReg t.chip rFlStatus) 15 = true) := by
  obtain ⟨hbad, hspares, hbytes⟩ := blockRetired_facts k s.chip.flash
  obtain ⟨rg, hb⟩ := bump_eq { s.chip with flash := blockRetired k s.chip.flash } (rPlCtr 8) 1
  have hcount := getReg_bump_self { s.chip with flash := blockRetired k s.chip.flash } (rPlCtr 8) 1
  rw [hb] at hcount
  have hflash : ∀ c, (noSparesTold (fewSparesTold c)).flash = c.flash := fun c => (noSparesTold_flash _).trans (fewSparesTold_flash c)
  refine ⟨_, onChip_of (retireBlock_eq hk), sameRest_withChip s _, ?_⟩
  rw [withChip_chip, hb, hflash]
  refine ⟨hbad ▸ mem_insertNat k _, hspares, hbytes, ?_, fun h1 => noSparesTold_readOnly ?_⟩
  · rw [noSparesTold_counter, fewSparesTold_counter]; exact hcount
  · rw [fewSparesTold_flash]
    show (blockRetired k s.chip.flash).spares = 0
    rw [hspares, h1]

/-- Settles O30: a program ends as its outcome says, blocks move past their limits alone, and a retired block takes a spare. -/
theorem flashPrograms : Obligations.FlashPrograms := ⟨flashProgramAck_clauses, blockMoves_clauses, badBlockRetire_clause⟩

end Sys2Proof.Machine
end

section
/-! PROOFS. Accounts, moves that stop, late tiers and the mode of PL_CFG (R252, R255 to R261, R265, R424). -/

namespace Sys2Proof.Machine

/-! ### Accounts (R255, R257) -/

theorem exec_releaseJob {s : State} {x : Block} {rest : List Block} (h : OldestBlock s 11 x rest)
    (hc : s.chip.charged.any (fun p => p.1 / 64 == x.job && p.2 != 0) = false) :
    exec .releaseJob s = .next (s.withChip (finishBlock x.addr 0 0 { plPending { s.chip with plQueue := rest } with
      accounts := s.chip.accounts.filter (· != x.job), reserved := s.chip.reserved.filter (fun p => p.1 / 64 != x.job) })) := by
  have hreq : reqReleaseJob x (dequeued s.chip rest) = (0, 0, { dequeued s.chip rest with
      accounts := s.chip.accounts.filter (· != x.job), reserved := s.chip.reserved.filter (fun p => p.1 / 64 != x.job) }) :=
    if_neg (by rw [show (dequeued s.chip rest).charged = s.chip.charged from rfl, hc]; decide)
  exact onChip_of ((acceptBlock_oldest h (by decide) _).trans (congrArg (finishReq x) hreq))

/-- What a unit began to ask does not bear on the bytes it writes here. -/
theorem requestOver_putMem (who : Requester) (a : Nat) (bs : List Byte) (c : Chip) :
    requestOver who (putMem (beginFar who c) a bs) = requestOver who (putMem c a bs) := by
  unfold putMem
  split <;> rfl

/-- A request of the hub that needs this package alone ends as its own answer says. -/
theorem memReq_near {α : Type} {x : Block} {act : Eff α} {next : α → Chip → Nat × Nat × Chip} {c d : Chip} {a : α}
    (h : act (beginFar .request c) = .ok a d) (hf : d.fab.far = []) : memReq x act next c = finishReq x (next a (requestOver .request d)) := by
  unfold memReq
  rw [runHub_near h hf]

theorem accountBytes_length (c : Chip) (j : Nat) : (accountBytes c j).length = 656 := by
  unfold accountBytes
  rw [List.length_flatMap, List.map_congr_left (g := fun _ => 16) fun u _ => by rw [List.length_append, leBytes_length, leBytes_length]]
  rfl

theorem exec_queryJob {s : State} {x : Block} {rest : List Block} (h : OldestBlock s 12 x rest) (hp : pkgOf (x.f 1 0 48) = pkg s.chip)
    (hh : inHub (x.f 1 0 48) 656 = false) (hb : backed (x.f 1 0 48) 656 = true) :
    exec .queryJob s = .next (s.withChip (finishBlock x.addr 0 0 (requestOver .request
      (putMem (plPending { s.chip with plQueue := rest }) (x.f 1 0 48) (accountBytes s.chip x.job))))) := by
  have hlen := accountBytes_length s.chip x.job
  have hwrite : (do writeAny 0 (x.f 1 0 48) (accountBytes s.chip x.job); syncFar 0 : Eff Unit) (beginFar .request (dequeued s.chip rest)) =
      .ok () (putMem (beginFar .request (dequeued s.chip rest)) (x.f 1 0 48) (accountBytes s.chip x.job)) := by
    refine (bind_ok (writeAny_near (c := beginFar .request (dequeued s.chip rest)) hp (by rw [hlen]; exact hh)
      (by rw [hlen]; exact hb))).trans (syncFar_near 0 ?_)
    rw [putMem_fab]
    exact fun q hq => absurd hq List.not_mem_nil
  have hreq : reqQueryJob x (dequeued s.chip rest) = finishReq x (0, 0, requestOver .request
      (putMem (dequeued s.chip rest) (x.f 1 0 48) (accountBytes s.chip x.job))) :=
    (memReq_near hwrite (by rw [putMem_fab]; rfl)).trans (by rw [requestOver_putMem])
  exact onChip_of ((acceptBlock_oldest h (by decide) _).trans hreq)

/-- The reservations of a job with the amounts of a list added (R255). -/
theorem foldl_reserve (job : Nat) (xs : List (Nat × Nat)) (c : Chip) :
    xs.foldl (fun c p => { c with reserved := tabSet c.reserved (acctKey job p.1) (tabGet 0 c.reserved (acctKey job p.1) + p.2) }) c =
      { c with reserved := xs.foldl (fun t p => tabSet t (acctKey job p.1) (tabGet 0 t (acctKey job p.1) + p.2)) c.reserved } := by
  induction xs generalizing c with
  | nil => rfl
  | cons p xs ih => exact ih _

/-- A list that fits every unit, of a job that has an account or finds one free, is granted whole (R255). -/
theorem admitRead_granted {x : Block} {bs : List Byte} {c : Chip} {xs : List (Nat × Nat)} (hl : admitList bs (x.f 3 24 6) = some xs)
    (hfit : ∀ p ∈ xs, ((xs.filter (fun q => q.1 == p.1)).map (·.2)).sum + unitSum c.reserved p.1 ≤ capacity c p.1)
    (hacct : x.job = 0 ∨ x.job ∈ c.accounts ∨ c.accounts.length < 255) : admitRead x bs c = (0, 0, { c with
      accounts := if x.job = 0 ∨ x.job ∈ c.accounts then c.accounts else insertNat x.job c.accounts,
      reserved := xs.foldl (fun t p => tabSet t (acctKey x.job p.1) (tabGet 0 t (acctKey x.job p.1) + p.2)) c.reserved }) := by
  have hfull : xs.find? (fun p => decide (capacity c p.1 < ((xs.filter (fun q => q.1 == p.1)).map (·.2)).sum + unitSum c.reserved p.1)) = none :=
    List.find?_eq_none.mpr fun p hp => by simpa using hfit p hp
  unfold admitRead
  rw [hl]
  dsimp only
  rw [hfull]
  dsimp only
  by_cases hknown : x.job = 0 ∨ x.job ∈ c.accounts
  · have hk : (x.job == 0 || c.accounts.contains x.job) = true := by simpa using hknown
    rw [hk, if_pos hknown, foldl_reserve]
    rfl
  · have hk : (x.job == 0 || c.accounts.contains x.job) = false := by simpa using hknown
    have hroom : ¬ 255 ≤ c.accounts.length :=
      Nat.not_le.mpr ((hacct.resolve_left fun h => hknown (.inl h)).resolve_left fun h => hknown (.inr h))
    rw [hk, if_neg hknown, foldl_reserve]
    simp [hroom]

theorem exec_admitJob {s : State} {x : Block} {rest : List Block} {n : Nat} {xs : List (Nat × Nat)} (h : OldestBlock s 10 x rest)
    (hmode : bit (getReg s.chip rPlCfg) 0 = false) (hn : n = x.f 3 24 6) (h1 : 1 ≤ n) (h41 : n ≤ 41) (hp : pkgOf (x.f 1 0 48) = pkg s.chip)
    (he : s.chip.ecc = []) (hh : inHub (x.f 1 0 48) (8 * n) = false) (hb : backed (x.f 1 0 48) (8 * n) = true)
    (hl : admitList (memReadN s.chip.mem (x.f 1 0 48) (8 * n)) n = some xs)
    (hfit : ∀ p ∈ xs, ((xs.filter (fun q => q.1 == p.1)).map (·.2)).sum + unitSum s.chip.reserved p.1 ≤ capacity s.chip p.1)
    (hacct : x.job = 0 ∨ x.job ∈ s.chip.accounts ∨ s.chip.accounts.length < 255) :
    exec .admitJob s = .next (s.withChip (finishBlock x.addr 0 0 { requestOver .request (plPending { s.chip with plQueue := rest }) with
      accounts := if x.job = 0 ∨ x.job ∈ s.chip.accounts then s.chip.accounts else insertNat x.job s.chip.accounts,
      reserved := xs.foldl (fun t p => tabSet t (acctKey x.job p.1) (tabGet 0 t (acctKey x.job p.1) + p.2)) s.chip.reserved })) := by
  subst hn
  have hcap : ∀ u, capacity (requestOver .request (dequeued s.chip rest)) u = capacity s.chip u := fun u => by
    unfold capacity
    rw [show getF (requestOver .request (dequeued s.chip rest)) rFlStatus 0 14 = getF s.chip rFlStatus 0 14 from
      getF_congr _ _ (getReg_dequeued s.chip rest (by decide))]
  have hgrant := admitRead_granted (c := requestOver .request (dequeued s.chip rest)) hl (fun p hp => by rw [hcap]; exact hfit p hp) hacct
  have hread : readAny 0 (x.f 1 0 48) (8 * x.f 3 24 6) (beginFar .request (dequeued s.chip rest)) =
      .ok (memReadN s.chip.mem (x.f 1 0 48) (8 * x.f 3 24 6)) (beginFar .request (dequeued s.chip rest)) := readAny_near hp hh hb he
  have hmode' : bit (getReg (dequeued s.chip rest) rPlCfg) 0 = false := by rw [getReg_dequeued _ _ (by decide)]; exact hmode
  have hreq : reqAdmitJob x (dequeued s.chip rest) = finishReq x (admitRead x (memReadN s.chip.mem (x.f 1 0 48) (8 * x.f 3 24 6))
      (requestOver .request (dequeued s.chip rest))) :=
    (if_neg (by rw [hmode']; decide)).trans ((if_neg (by omega)).trans
      (memReq_near (c := dequeued s.chip rest) (d := beginFar .request (dequeued s.chip rest)) hread rfl))
  rw [hgrant] at hreq
  exact onChip_of ((acceptBlock_oldest h (by decide) _).trans hreq)

/-! ### What a containment leaves of records (R191, R424) -/

/-- The jobs and MP_ERR_LAST are as before, and of a record at most the claims have changed. -/
structure LosesClaims (c d : Chip) : Prop where
  jobs : d.jobs = c.jobs
  errLast : getReg d rErrLast = getReg c rErrLast
  recs : ∀ n r, tabFind c.recs n = some r → ∃ k, tabFind d.recs n = some { r with claims := k }

theorem LosesClaims.of_recs {c d : Chip} (hj : d.jobs = c.jobs) (he : getReg d rErrLast = getReg c rErrLast) (hr : d.recs = c.recs) :
    LosesClaims c d := ⟨hj, he, fun n r h => ⟨r.claims, by rw [hr]; exact h⟩⟩

theorem LosesClaims.refl (c : Chip) : LosesClaims c c := .of_recs rfl rfl rfl

theorem LosesClaims.trans {c d e : Chip} (h : LosesClaims c d) (k : LosesClaims d e) : LosesClaims c e where
  jobs := k.jobs.trans h.jobs
  errLast := k.errLast.trans h.errLast
  recs n r hr := by
    obtain ⟨_, h1⟩ := h.recs n r hr
    obtain ⟨j, h2⟩ := k.recs n _ h1
    exact ⟨j, h2⟩

theorem LosesClaims.foldl {α : Type} {f : Chip → α → Chip} (h : ∀ c x, LosesClaims c (f c x)) (xs : List α) (c : Chip) :
    LosesClaims c (xs.foldl f c) :=
  foldl_keeps xs (fun d x _ hd => hd.trans (h d x)) (LosesClaims.refl c)

theorem dropClaims_loses (xs : List RunCopy) (c : Chip) : LosesClaims c (dropClaims xs c) := by
  unfold dropClaims
  refine .foldl (fun c x => ?_) xs c
  split
  · next n _ =>
    unfold modRec
    split
    · next r hr =>
      refine ⟨rfl, rfl, fun m y hy => ?_⟩
      by_cases hm : m = n
      · subst hm
        cases hr.symm.trans hy
        exact ⟨r.claims - 1, tabFind_tabSet_self _ _ _⟩
      · exact ⟨y.claims, (tabFind_tabSet_ne _ _ hm).trans hy⟩
    · exact .refl c
  · exact .refl c

theorem undefine_loses (c : Chip) (a n : Nat) : LosesClaims c (undefine c a n) :=
  .of_recs (putMem_jobs _ _ _) (getReg_putMem _ _ _ _) (putMem_recs _ _ _)

theorem undefineAll_loses (xs : List (Nat × Nat)) (c : Chip) : LosesClaims c (xs.foldl (fun c d => undefine c d.1 d.2) c) :=
  .foldl (fun c d => undefine_loses c d.1 d.2) xs c

theorem bump_loses (c : Chip) {off : Nat} (n : Nat) (h : off ≠ rErrLast) : LosesClaims c (bump c off n) := by
  obtain ⟨rg, hb⟩ := bump_eq c off n
  exact .of_recs (by rw [hb]) (getReg_bump_ne c n h.symm) (by rw [hb])

theorem discardCopies_loses (b : Fin 32) (xs : List RunCopy) (c : Chip) : LosesClaims c (discardCopies b xs c) := by
  unfold discardCopies
  refine LosesClaims.trans (.foldl (fun c x => ?_) xs c) ((dropClaims_loses xs _).trans (bump_loses _ _ ?_))
  · split
    · split
      · exact undefineAll_loses _ c
      · exact .refl c
    · exact undefineAll_loses _ c
  · unfold rWqCtr rErrLast; omega

theorem discardAhead_loses (b : Fin 32) (p : QItem → Bool) (c : Chip) : LosesClaims c (discardAhead b p c) := by
  unfold discardAhead
  exact LosesClaims.trans (.foldl (fun c xs => discardCopies_loses b xs c) _ c) (.of_recs rfl rfl rfl)

theorem discardBegun_loses (b : Fin 32) (j : Nat) (c : Chip) : LosesClaims c (discardBegun b j c) := by
  unfold discardBegun
  refine .foldl (fun c p => ?_) _ c
  split
  · exact .refl c
  · exact (discardCopies_loses _ _ _).trans (.of_recs rfl rfl rfl)

theorem sendConfirmed_loses (ds : List Nat) (x : HubMsg) (c : Chip) : LosesClaims c (sendConfirmed ds x c) := by
  have hreg := sendConfirmed_regs ds x c rErrLast (.inl (by decide))
  obtain ⟨_, _, _, _, hw⟩ := sendConfirmed_wire ds x c
  exact .of_recs (by rw [hw]) hreg (by rw [hw])

/-- The run-ahead copies of a job are discarded in every basin (R191). -/
def discardJob (j : Nat) (c : Chip) : Chip :=
  (List.finRange 32).foldl (fun c b => discardBegun b j (discardAhead b (fun q => q.item.job.toNat == j) c)) c

theorem discardJob_loses (j : Nat) (c : Chip) : LosesClaims c (discardJob j c) :=
  .foldl (fun c b => (discardAhead_loses b _ c).trans (discardBegun_loses b j _)) _ c

/-- The package once a job is marked as contained and its run-ahead copies are gone. -/
def jobMarked (j code : Nat) (c : Chip) : Chip :=
  discardJob j (bump (modJob j (fun x => { x with contained := true, code := code }) c) (rRcCtr 0))

theorem contain_first {j code : Nat} {c : Chip} (h : ¬ (256 ≤ j ∨ (jobRc c j).contained = true)) :
    contain j code c = sendConfirmed (jobPkgs (jobMarked j code c) j) (.contain j code) (jobMarked j code c) := if_neg h

/-- A containment marks its job, and leaves MP_ERR_LAST and all of a record but its claims. -/
theorem contain_marks {j : Nat} (code : Nat) (c : Chip) (hj : j < 256) : (jobRc (contain j code c) j).contained = true ∧
    getReg (contain j code c) rErrLast = getReg c rErrLast ∧
    ∀ n r, tabFind c.recs n = some r → ∃ k, tabFind (contain j code c).recs n = some { r with claims := k } := by
  by_cases h : 256 ≤ j ∨ (jobRc c j).contained = true
  · have hdone := h.resolve_left (by omega)
    rw [contain_again code hdone]
    exact ⟨hdone, rfl, fun n r hr => ⟨r.claims, hr⟩⟩
  · have hall : LosesClaims (modJob j (fun x => { x with contained := true, code := code }) c) (contain j code c) := by
      rw [contain_first h]
      exact ((bump_loses _ 1 (by decide)).trans (discardJob_loses j _)).trans (sendConfirmed_loses _ _ _)
    refine ⟨?_, hall.errLast, hall.recs⟩
    unfold jobRc
    rw [hall.jobs]
    exact congrArg JobRc.contained (tabGet_tabSet_self _ _ _ _)

/-- An error against the hub is reported last, and contains its job (R424). -/
theorem hubError_marks {job : Nat} {e : Stop} (c : Chip) (hj : job < 256) (he : e.code < 65536) :
    (jobRc (hubError job e c) job).contained = true ∧ getReg (hubError job e c) rErrLast = e.code + max 2 (sevOf e.code) * 65536 ∧
    ∀ n r, tabFind c.recs n = some r → ∃ k, tabFind (hubError job e c).recs n = some { r with claims := k } := by
  unfold hubError
  generalize hrep : Report.mk _ _ _ _ _ _ _ _ _ _ _ _ = rep
  obtain ⟨rg, rc, hreport⟩ := report_eq rep c
  obtain ⟨hjob, hlast, hrecs⟩ := contain_marks e.code (report rep c) hj
  have hsev := sevOf_le e.code
  have herr : getReg (report rep c) rErrLast = e.code + max 2 (sevOf e.code) * 65536 := by
    rw [getReg_report_errLast rep c (by rw [← hrep]; show max 2 _ ≠ 0; omega), ← hrep]
    exact Nat.mod_eq_of_lt (show e.code + max 2 (sevOf e.code) * 65536 < 2 ^ 32 by omega)
  exact ⟨hjob, hlast.trans herr, fun n r hr => hrecs n r (by rw [hreport]; exact hr)⟩

/-! ### A move that stops (R252, R424) -/

theorem leaveMove_eq (n up : Nat) (c : Chip) : ∃ bs mv, leaveMove n up c = { c with basins := bs, movers := mv } := by
  unfold leaveMove
  split
  · exact ⟨_, c.movers, rfl⟩
  · exact ⟨c.basins, _, rfl⟩
  · exact ⟨c.basins, _, rfl⟩
  · exact ⟨c.basins, c.movers, rfl⟩

/-- The record of a move that has stopped: MOVE_FAILED and no pending flag. -/
def failedRec (r : Rec) : Rec := { r with moveFailed := true, evictPend := false, forcePend := false, upPend := false }

/-- The package as a move has stopped: no program of it is under way, its place is free, and its record shows the failure. -/
def moveLeft (n : Nat) (r : Rec) (c : Chip) : Chip :=
  recSet n (failedRec r) (leaveMove n r.up { c with flash := { c.flash with writes := c.flash.writes.filter (fun w => w.1 != .move n) } })

theorem markFailed_some {c : Chip} {n : Nat} {r : Rec} (e : Stop) (h : tabFind c.recs n = some r) :
    markFailed n e c = hubError r.moveJob e (moveLeft n r c) := by
  obtain ⟨bs, mv, hleave⟩ := leaveMove_eq n r.up
    { c with flash := { c.flash with writes := c.flash.writes.filter (fun w => w.1 != .move n) } }
  unfold markFailed
  rw [h]
  dsimp only
  rw [modRec_some (r := r) _ (by rw [hleave]; exact h)]
  rfl

/-- A record for which nobody waits has no one to answer. -/
theorem answerWaiters_none {c : Chip} {n : Nat} {r : Rec} (e : Option Stop) (h : tabFind c.recs n = some r) (hw : r.waiters = []) :
    answerWaiters n e c = recSet n r c := by
  unfold answerWaiters
  rw [h]
  dsimp only
  rw [modRec_some _ h, hw]
  exact congrArg (fun y => recSet n y c) (by rw [← hw])

theorem exec_moveStop_fails {s : State} {n : Nat} {r : Rec} {code : BitVec 16} (hr : tabFind s.chip.recs n = some r) (hm : r.moveFailed = false)
    (hw : r.waiters = []) (hs : r.state = .movingUp ∨ r.state = .movingDown) (hc : code.toNat ∈ moveErrors) (hj : r.moveJob < 256) :
    ∃ t, exec (.moveStop n code) s = .next t ∧ sameRest s t ∧ (jobRc t.chip r.moveJob).contained = true ∧
      getReg t.chip rErrLast = code.toNat + max 2 (sevOf code.toNat) * 65536 ∧
      tabFind t.chip.recs n = some { failedRec r with claims := ((tabFind t.chip.recs n).map (·.claims)).getD 0 } := by
  obtain ⟨hjob, hlast, hrecs⟩ := hubError_marks (e := { code := code.toNat, addr := r.down }) (moveLeft n r s.chip) hj code.isLt
  obtain ⟨k, hk⟩ := hrecs n (failedRec r) (tabFind_tabSet_self _ _ _)
  have hstop : moveStop n code.toNat s.chip = recSet n { failedRec r with claims := k }
      (hubError r.moveJob { code := code.toNat, addr := r.down } (moveLeft n r s.chip)) := by
    unfold moveStop
    rw [hr]
    dsimp only
    rw [if_neg (by simp [hc, hm]), if_pos hs]
    unfold moveFails
    rw [markFailed_some _ hr]
    exact answerWaiters_none _ hk hw
  refine ⟨_, onChip_of hstop, sameRest_withChip s _, hjob, hlast, ?_⟩
  rw [withChip_chip, show tabFind (recSet n { failedRec r with claims := k } _).recs n = some { failedRec r with claims := k } from
    tabFind_tabSet_self _ _ _]
  rfl

theorem exec_moveStop_idle {s : State} {n : Nat} {r : Rec} (code : BitVec 16) (hr : tabFind s.chip.recs n = some r)
    (h : r.moveFailed = true ∨ r.state = .resident ∨ (r.state = .absent ∧ r.waiters = [] ∧ claimOpen s.chip n = false)) :
    exec (.moveStop n code) s = .next s := by
  refine onChip_of (d := s.chip) ?_
  unfold moveStop
  rw [hr]
  dsimp only
  rcases h with h | h | ⟨h, hw, hc⟩ <;> simp [*]

/-! ### Late tiers (R261) -/

theorem exec_tierLate {s : State} {b : Fin 32} {i : Nat} {h : Hold} (hi : s.chip.basins[b].holds[i]? = some h) :
    (h.reported = false → exec (.tierLate b i) s = .next (s.withChip (setStatus 5
      (report { code := 0x0908, sev := 1, job := some h.job, src := b.val, arg := h.cause }
        (modBasin b (fun y => { y with holds := y.holds.set i { h with reported := true } }) s.chip))))) ∧
    (h.reported = true → exec (.tierLate b i) s = .next s) := by
  refine ⟨fun hno => onChip_of ?_, fun hyes => onChip_of (d := s.chip) ?_⟩
  all_goals unfold tierLate; rw [hi]
  · exact if_neg (by rw [hno]; decide)
  · exact if_pos hyes

/-! ### The mode of PL_CFG (R258, R265) -/

theorem rPlCfg_mask : rowMask rPlCfg = some 0xFF01 := by decide +kernel

/-- The accounts on the way to SERVICE mode: each reserved amount is the charged one, and every job that is charged has an account (R258). -/
def chargesReserved (c : Chip) : Chip :=
  let jobs := (c.charged.filter (fun p => p.2 != 0)).map (fun p => p.1 / 64)
  { c with reserved := c.charged, accounts := jobs.foldl (fun l j => if j = 0 then l else insertNat j l) c.accounts }

theorem exec_plModeWrite (m : Master) (v : BitVec 32) (s : State) (hm : m.toNat ≤ 3) (hh : hubOn s.chip = true) :
    (v.getLsbD 0 = true ∨ bit (getReg s.chip rPlCfg) 0 = false →
      exec (.plModeWrite m v) s = .next (s.withChip (emit (.bus m 0 0) (storeReg s.chip rPlCfg v.toNat)))) ∧
    (v.getLsbD 0 = false → bit (getReg s.chip rPlCfg) 0 = true → (∀ u, u ≤ 40 → unitSum s.chip.charged u ≤ capacity s.chip u) →
      ∃ t, exec (.plModeWrite m v) s = .next t ∧ sameRest s t ∧ t.chip.mem = s.chip.mem ∧ t.chip.reserved = s.chip.charged ∧
        t.chip.charged = s.chip.charged ∧ bit (getReg t.chip rPlCfg) 0 = false ∧ getF t.chip rPlCfg 8 8 = fld v.toNat 8 8) ∧
    (v.getLsbD 0 = false → bit (getReg s.chip rPlCfg) 0 = true → (∃ u, u ≤ 40 ∧ capacity s.chip u < unitSum s.chip.charged u) →
      exec (.plModeWrite m v) s = .next (s.withChip (emit (.bus m 0 0) (putF s.chip rPlStatus 9 1 1)))) := by
  have hkeeps : v.getLsbD 0 = false → bit (getReg s.chip rPlCfg) 0 = true → ¬ (bit v.toNat 0 || !bit (getReg s.chip rPlCfg) 0) = true := by
    intro hv hq
    rw [show bit v.toNat 0 = false from hv, hq]
    decide
  refine ⟨fun h => ?stored, fun hv hq hfit => ?service, fun hv hq hover => ?refused⟩
  case stored =>
    have hact : wPlCfg v.toNat s.chip = (0, storeReg s.chip rPlCfg v.toNat) := if_pos (by
      show (v.getLsbD 0 || !bit (getReg s.chip rPlCfg) 0) = true
      rcases h with h | h <;> simp [h])
    exact onChip_of (busWrite_ok hh hm hact)
  case service =>
    have hall : (List.range 41).all (fun u => decide (unitSum s.chip.charged u ≤ capacity s.chip u)) = true :=
      List.all_eq_true.mpr fun u hu => decide_eq_true (hfit u (by have := List.mem_range.mp hu; omega))
    have hact : wPlCfg v.toNat s.chip = (0, storeReg (chargesReserved s.chip) rPlCfg v.toNat) :=
      (if_neg (hkeeps hv hq)).trans (if_pos hall)
    obtain ⟨rg, hs⟩ := storeReg_eq (chargesReserved s.chip) rPlCfg v.toNat
    refine ⟨_, onChip_of (busWrite_ok hh hm hact), sameRest_withChip s _, ?_, ?_, ?_, ?_,
      getF_storeReg_stored rPlCfg_mask (by decide) (by decide)⟩
    · rw [withChip_chip, hs]; rfl
    · rw [withChip_chip, hs]; rfl
    · rw [withChip_chip, hs]; rfl
    · exact (testBit_storeReg rPlCfg_mask (by decide) 0).trans ((if_pos (by decide)).trans hv)
  case refused =>
    have hall : ¬ (List.range 41).all (fun u => decide (unitSum s.chip.charged u ≤ capacity s.chip u)) = true := by
      obtain ⟨u, hu, hlt⟩ := hover
      simp only [List.all_eq_true, decide_eq_true_eq, not_forall, Nat.not_le]
      exact ⟨u, List.mem_range.mpr (by omega), hlt⟩
    exact onChip_of (busWrite_ok hh hm ((if_neg (hkeeps hv hq)).trans (if_neg hall)))

/-- Settles O29: each command is one equation of the next state, or what its parts leave. -/
theorem accountsMovesAndModesComplete : Obligations.AccountsMovesAndModesComplete := by
  refine ⟨?release, ?query, ?grant, ?stop, ?late, ?mode⟩
  case release => exact fun s x rest => exec_releaseJob
  case query => exact fun s x rest => exec_queryJob
  case grant => exact fun s x rest n xs => exec_admitJob
  case stop => exact fun s n r code hr => ⟨exec_moveStop_fails hr, exec_moveStop_idle code hr⟩
  case late => exact fun s b i h => exec_tierLate
  case mode => exact exec_plModeWrite

end Sys2Proof.Machine
end

section
/-! PROOFS. What the commands of model sets share (R267, R268, R276, R285, R318): the acceptance of the oldest command block and its answer, and
what the answer, the barrier and messages between hubs leave of the set table. -/

namespace Sys2Proof.Machine

/-! ### The set table and the bindings (R267, R268) -/

/-- The registers of the set table and of the bindings are as before. -/
def TableRegs (c d : Chip) : Prop := ∀ off, 0x24010 ≤ off → off < 0x24600 → getReg d off = getReg c off

theorem TableRegs.trans {c d e : Chip} (h : TableRegs c d) (k : TableRegs d e) : TableRegs c e := fun off lo hi =>
  (k off lo hi).trans (h off lo hi)

section
variable {c d : Chip} {e : Nat} (h : TableRegs c d)
include h

/-- Word `k` of an entry of the set table. -/
theorem TableRegs.entry (he : e < 16) {k : Nat} (hk : k < 4) : getReg d (rSet e k) = getReg c (rSet e k) :=
  h _ (by unfold rSet; omega) (by unfold rSet; omega)

theorem TableRegs.setState (he : e < 16) : setState d e = setState c e := getF_congr _ _ (h.entry he (by decide))

theorem TableRegs.setStage (he : e < 16) : setStage d e = setStage c e := getF_congr _ _ (h.entry he (by decide))

theorem TableRegs.boundSet (j : Nat) : boundSet d j = boundSet c j := by
  unfold Machine.boundSet
  by_cases hj : j < 256
  · have hr : getReg d (rMsJob j) = getReg c (rMsJob j) := h _ (by unfold rMsJob; omega) (by unfold rMsJob; omega)
    rw [hr, getF_congr _ _ hr]
  · simp [hj]

theorem TableRegs.loadAllowed (he : e < 16) (hl : d.ms.loads = c.ms.loads) (stage : Bool) : loadAllowed d e stage = loadAllowed c e stage := by
  unfold Machine.loadAllowed
  rw [hl, h.setState he, h.setStage he]

end

/-- A register outside the set table and the bindings is written. -/
theorem tableRegs_putReg (c : Chip) {off : Nat} (v : Nat) (h : off < 0x24010 ∨ 0x24600 ≤ off) : TableRegs c (putReg c off v) := fun _ lo hi =>
  getReg_putReg_ne c v (by omega)

theorem tableRegs_bump (c : Chip) {off : Nat} (n : Nat) (h : off < 0x24010 ∨ 0x24600 ≤ off) : TableRegs c (bump c off n) := fun _ lo hi =>
  getReg_bump_ne c n (by omega)

theorem rSet_ne {e f : Nat} (h : f ≠ e) : rSet f 0 ≠ rSet e 0 := by unfold rSet; omega

/-- An entry of the set table whose first word is set leaves every other entry's. -/
theorem setState_putF_ne (c : Chip) {e f : Nat} (lo w v : Nat) (h : f ≠ e) : setState (putF c (rSet e 0) lo w v) f = setState c f :=
  getF_congr _ _ (getReg_putF_ne c lo w v (rSet_ne h))

theorem setStage_putF_ne (c : Chip) {e f : Nat} (lo w v : Nat) (h : f ≠ e) : setStage (putF c (rSet e 0) lo w v) f = setStage c f :=
  getF_congr _ _ (getReg_putF_ne c lo w v (rSet_ne h))

theorem Block.set_lt (x : Block) : x.set < 16 := fld_lt _ 4 4

/-- A command that is well formed names a job (R9). -/
theorem job_lt_of_msBad {x : Block} (h : msBad x = false) : x.job < 256 := by
  by_contra hj
  have hbad : msBad x = true := by simp [msBad, Nat.not_lt.mp hj]
  exact absurd (hbad.symm.trans h) (by decide)

/-! ### The acceptance of the oldest command (R276) -/

/-- The package once the oldest command has left the queue and PENDING counts the rest. -/
def commandLeft (c : Chip) (rest : List Block) : Chip := msPending { c with ms := { c.ms with queue := rest } }

theorem getReg_commandLeft (c : Chip) (rest : List Block) {off : Nat} (h : off ≠ rMsStatus) :
    getReg (commandLeft c rest) off = getReg c off := getReg_putF_ne _ _ _ _ h

theorem getF_commandLeft_pending (c : Chip) (rest : List Block) :
    getF (commandLeft c rest) rMsStatus 0 9 = (rest.filter (fun y => y.origin == .posted)).length % 512 := getF_putF_self _ (by decide)

theorem tableRegs_commandLeft (c : Chip) (rest : List Block) : TableRegs c (commandLeft c rest) := fun _ lo hi =>
  getReg_commandLeft c rest (by unfold rMsStatus; omega)

/-- A command is taken where its block has left the queue and PENDING has not changed since. -/
theorem commandTaken_of {s : State} {d : Chip} {rest : List Block} (hq : d.ms.queue = rest)
    (hp : getF d rMsStatus 0 9 = getF (commandLeft s.chip rest) rMsStatus 0 9) : CommandTaken s (s.withChip d) rest :=
  ⟨sameRest_withChip s d, hq, hp.trans (getF_commandLeft_pending _ _)⟩

section
variable {s : State} {op : Nat} {x : Block} {rest : List Block} (h : OldestCommand s op x rest) (hop : op < 8)
include h

theorem own_of_oldest : pkgOf (x.addr + 120) = pkg s.chip := h.2.2.2.2

theorem job_lt_of_oldest : x.job < 256 := job_lt_of_msBad h.2.2.1

include hop

/-- The oldest command is accepted by the row of its OP. -/
theorem acceptMs_oldest (act : Block → Dev → Dev) : acceptMs op act s.dev = act x (s.dev.chipDo fun c => commandLeft c rest) := by
  obtain ⟨hq, hf, hbad, horigin, -⟩ := h
  have hreserved : ¬ 8 ≤ x.f 0 0 4 := by omega
  unfold acceptMs
  rw [show s.dev.chip.ms.queue = x :: rest from hq]
  dsimp only
  rw [horigin]
  dsimp only
  rw [if_neg (by decide), if_pos (Or.inl hf)]
  exact if_neg (by simp [hreserved, hbad])

/-- A command that acts on the chip alone. -/
theorem exec_oldestCommand {i : Instr} {act : Block → Chip → Chip} (hi : exec i s = acceptMsChip op act s) :
    exec i s = .next (s.withChip (act x (commandLeft s.chip rest))) := by
  rw [hi]
  unfold acceptMsChip
  rw [onDev_eq, acceptMs_oldest h hop]
  rfl

end

/-! ### The answer to a command (R276) -/

theorem putMem_ms (c : Chip) (a : Nat) (bs : List Byte) : (putMem c a bs).ms = c.ms := by unfold putMem; split <;> rfl

/-- What the answer to a command block of this package leaves: word 15 of the block, and LAST_ERR where the answer is not OK. -/
structure Answered (addr code : Nat) (c d : Chip) : Prop where
  mem : d.mem = commandAnswer c.mem addr code
  ms : d.ms = c.ms
  pkg : pkg d = pkg c
  regs : TableRegs c d
  pending : getF d rMsStatus 0 9 = getF c rMsStatus 0 9
  lastErr : code ≠ 0 → getF d rMsStatus 16 16 = code

/-- A report leaves the registers of the hub range below the recorder's. -/
theorem getReg_report_hub (r : Report) (c : Chip) {off : Nat} (lo : 0x40 ≤ off) (hi : off < 0xC0000) : getReg (report r c) off = getReg c off := by
  apply getReg_report <;> simp only [rErrLast, rStatus, rErDrop, rMirrorLost, rErSeq, rErStatus] <;> omega

theorem finishCmd_answered {addr code : Nat} {c : Chip} (hp : pkgOf (addr + 120) = pkg c) (hc : code < 65536) :
    Answered addr code c (finishCmd addr code 0 c) := by
  have hword : writeHub (addr + 120) (leBytes 8 (1 + b2n (code == 0) * 2 + code * 65536 + 0 * 2 ^ 32)) c =
      putMem c (addr + 120) (leBytes 8 (if code = 0 then 3 else 1 + code * 65536)) := by
    refine (if_pos hp).trans (congrArg (fun n => putMem c (addr + 120) (leBytes 8 n)) ?_)
    by_cases h0 : code = 0
    · rw [h0]; rfl
    · simp [h0, b2n]
  unfold finishCmd
  rw [hword]
  dsimp only
  by_cases h0 : code = 0
  · rw [if_pos h0]
    exact ⟨putMem_mem _ _ _, putMem_ms _ _ _, pkg_putMem _ _ _, fun off _ _ => getReg_putMem _ _ _ _,
      getF_congr _ _ (getReg_putMem _ _ _ _), fun h => absurd h0 h⟩
  · rw [if_neg h0]
    generalize hr : Report.mk _ _ _ _ _ _ _ _ _ _ _ _ = r
    obtain ⟨rg, rc, hrep⟩ := report_eq r (putF (putMem c (addr + 120) (leBytes 8 (if code = 0 then 3 else 1 + code * 65536))) rMsStatus 16 16 code)
    have hstatus : ∀ d, getReg (report r d) rMsStatus = getReg d rMsStatus := fun d => getReg_report_hub r d (by decide) (by decide)
    refine ⟨?_, ?_, ?_, fun off lo hi => ?_, ?_, fun _ => ?_⟩
    · rw [hrep]; exact putMem_mem _ _ _
    · rw [hrep]; exact putMem_ms _ _ _
    · rw [hrep]; exact pkg_putMem _ _ _
    · rw [getReg_report_hub r _ (by omega) (by omega), getReg_putF_ne _ _ _ _ (by unfold rMsStatus; omega), getReg_putMem]
    · rw [getF_congr _ _ (hstatus _), getF_putF_ne _ _ (.inl (by decide)) (by decide)]
      exact getF_congr _ _ (getReg_putMem _ _ _ _)
    · rw [getF_congr _ _ (hstatus _), getF_putF_self _ (by decide)]
      exact Nat.mod_eq_of_lt hc

/-! ### Items at the barrier (R285) -/

theorem noRunAhead_discardAhead {b : Fin 32} {c : Chip} (p : QItem → Bool) (h : NoRunAhead c) : NoRunAhead (discardAhead b p c) := by
  rw [discardAhead_noRunAhead p h]
  refine noRunAhead_modBasin h (noAheadBasin_congr (fun q hq => ?_) rfl)
  obtain ⟨q', hq', rfl⟩ := List.mem_map.mp hq
  split
  · exact .inr rfl
  · exact .inl hq'

/-- Where no run-ahead copy waits, items that become held change the queues and the count of REPL_HOLD, and nothing else. -/
structure HoldCounted (c d : Chip) : Prop where
  parts : ∃ bs rg rm hs, d = { c with basins := bs, regs := rg, rems := rm, ms := { c.ms with heldSince := hs } }
  regs : ∀ off, off ≠ rMsCtr 3 → getReg d off = getReg c off

theorem refreshHeld_counted {c : Chip} (h : NoRunAhead c) : HoldCounted c (refreshHeld c) := by
  have hdiscard : ∀ p : QItem → Bool, ∃ bs, (List.finRange 32).foldl (fun c b => if c.basins[b].queue.any p then discardAhead b p c else c) c =
      { c with basins := bs } := by
    intro p
    refine (foldl_keeps (I := fun d => (∃ bs, d = { c with basins := bs }) ∧ NoRunAhead d) _ (fun d b _ hd => ?_) ⟨⟨c.basins, rfl⟩, h⟩).1
    obtain ⟨⟨bs, rfl⟩, hn⟩ := hd
    split
    · refine ⟨?_, noRunAhead_discardAhead p hn⟩
      rw [discardAhead_noRunAhead p hn]
      exact ⟨_, rfl⟩
    · exact ⟨⟨bs, rfl⟩, hn⟩
  unfold refreshHeld
  obtain ⟨bs, hbs⟩ := hdiscard (fun q => q.ahead.isSome && itemHeld c q.item)
  dsimp only
  rw [hbs]
  split
  · split
    · exact ⟨⟨bs, c.regs, c.rems, _, rfl⟩, fun _ _ => rfl⟩
    · exact ⟨⟨bs, c.regs, c.rems, c.ms.heldSince, rfl⟩, fun _ _ => rfl⟩
  · next t _ =>
    split
    · exact ⟨⟨bs, c.regs, c.rems, c.ms.heldSince, rfl⟩, fun _ _ => rfl⟩
    · unfold bumpUnits
      dsimp only
      generalize tabGet 0 c.rems (rMsCtr 3) + (c.upNs - t) = n
      obtain ⟨rg, hb⟩ := bump_eq { c with basins := bs, rems := tabSet c.rems (rMsCtr 3) (n % 1000) } (rMsCtr 3) (n / 1000)
      have hregs : ∀ off, off ≠ rMsCtr 3 → getReg (bump { c with basins := bs, rems := tabSet c.rems (rMsCtr 3) (n % 1000) } (rMsCtr 3) (n / 1000))
          off = getReg c off := fun off ho => getReg_bump_ne _ _ ho
      rw [hb] at hregs ⊢
      exact ⟨⟨bs, rg, _, none, rfl⟩, hregs⟩

section
variable {c d : Chip} (h : HoldCounted c d)
include h

theorem HoldCounted.mem : d.mem = c.mem := by obtain ⟨⟨_, _, _, _, rfl⟩, -⟩ := h; rfl

theorem HoldCounted.pkg : pkg d = pkg c := by obtain ⟨⟨_, _, _, _, rfl⟩, -⟩ := h; rfl

theorem HoldCounted.ms : ∃ hs, d.ms = { c.ms with heldSince := hs } := by obtain ⟨⟨_, _, _, hs, rfl⟩, -⟩ := h; exact ⟨hs, rfl⟩

theorem HoldCounted.tableRegs : TableRegs c d := fun off lo hi => h.regs off (by unfold rMsCtr; omega)

theorem HoldCounted.pending : getF d rMsStatus 0 9 = getF c rMsStatus 0 9 := getF_congr _ _ (h.regs _ (by decide))

end

end Sys2Proof.Machine
end

section
/-! PROOFS. Commands of the model sets that end at once (R268, R276, R292): BIND, UNBIND, RETIRE, and refusals with MS_STATE. -/

namespace Sys2Proof.Machine

/-! ### BIND and UNBIND (R268) -/

theorem boundSet_putReg (c : Chip) {j n : Nat} (hj : j < 256) (hn : n < 32) :
    boundSet (putReg c (rMsJob j) n) j = if bit n 4 then some (fld n 0 4) else none := by
  unfold boundSet getF
  rw [getReg_putReg_self, Nat.mod_eq_of_lt (by omega)]
  simp [hj]

theorem boundSet_putReg_ne (c : Chip) {j k : Nat} (v : Nat) (h : k ≠ j) : boundSet (putReg c (rMsJob j) v) k = boundSet c k := by
  have hr : getReg (putReg c (rMsJob j) v) (rMsJob k) = getReg c (rMsJob k) := getReg_putReg_ne c v (by unfold rMsJob; omega)
  unfold boundSet
  rw [hr, getF_congr _ _ hr]

/-- A command that sets one binding, and so may release or hold items, is answered with OK. -/
theorem exec_rebinds {i : Instr} {s : State} {op n : Nat} {x : Block} {rest : List Block} {act : Block → Chip → Nat × Chip}
    (hi : exec i s = acceptMsChip op (fun x c => msDone x (act x c)) s) (h : OldestCommand s op x rest) (hop : op < 8) (hn : n < 32)
    (hact : act x (commandLeft s.chip rest) = (0, refreshHeld (putReg (commandLeft s.chip rest) (rMsJob x.job) n))) (ha : NoRunAhead s.chip) :
    ∃ t, exec i s = .next t ∧ CommandTaken s t rest ∧ t.chip.mem = commandAnswer s.chip.mem x.addr 0 ∧
      boundSet t.chip x.job = (if bit n 4 then some (fld n 0 4) else none) ∧
      ∀ j, j < 256 → j ≠ x.job → boundSet t.chip j = boundSet s.chip j := by
  have hheld : HoldCounted (putReg (commandLeft s.chip rest) (rMsJob x.job) n) (refreshHeld (putReg (commandLeft s.chip rest) (rMsJob x.job) n)) :=
    refreshHeld_counted (noRunAhead_of_basins ha rfl)
  have hx := exec_oldestCommand h hop hi
  simp only [hact, msDone] at hx
  obtain ⟨hs, hms⟩ := hheld.ms
  have hans := finishCmd_answered (addr := x.addr) (code := 0) ((own_of_oldest h).trans hheld.pkg.symm) (by decide)
  have hregs := hheld.tableRegs.trans hans.regs
  refine ⟨_, hx, commandTaken_of ?_ ?_, ?_, ?_, fun j hj hne => ?_⟩
  · rw [hans.ms, hms]; rfl
  · rw [hans.pending, hheld.pending]
    exact getF_congr _ _ (getReg_putReg_ne _ _ (by unfold rMsStatus rMsJob; omega))
  · exact hans.mem.trans (congrArg (fun m => commandAnswer m x.addr 0) hheld.mem)
  · exact (hregs.boundSet _).trans (boundSet_putReg _ (job_lt_of_oldest h) hn)
  · exact (hregs.boundSet _).trans ((boundSet_putReg_ne _ _ hne).trans ((tableRegs_commandLeft s.chip rest).boundSet j))

theorem exec_bind {s : State} {x : Block} {rest : List Block} (h : OldestCommand s 5 x rest) (hs : setState s.chip x.set ≠ 0)
    (ha : NoRunAhead s.chip) : ∃ t, exec .bind s = .next t ∧ CommandTaken s t rest ∧ t.chip.mem = commandAnswer s.chip.mem x.addr 0 ∧
      boundSet t.chip x.job = some x.set ∧ ∀ j, j < 256 → j ≠ x.job → boundSet t.chip j = boundSet s.chip j := by
  have hlt := x.set_lt
  have hbit : bit (x.set + 16) 4 = true := by rw [bit_eq_fld]; simp only [fld]; exact decide_eq_true (by omega)
  have hfld : fld (x.set + 16) 0 4 = x.set := by unfold fld; omega
  have hset : setState (commandLeft s.chip rest) x.set ≠ 0 := by rwa [(tableRegs_commandLeft s.chip rest).setState hlt]
  have hbound := exec_rebinds (i := .bind) (n := x.set + 16) (act := bindJob) rfl h (by decide) (by omega) (if_neg hset) ha
  rwa [hbit, if_pos rfl, hfld] at hbound

theorem exec_unbind {s : State} {x : Block} {rest : List Block} (h : OldestCommand s 6 x rest) (ha : NoRunAhead s.chip) :
    ∃ t, exec .unbind s = .next t ∧ CommandTaken s t rest ∧ t.chip.mem = commandAnswer s.chip.mem x.addr 0 ∧
      boundSet t.chip x.job = none ∧ ∀ j, j < 256 → j ≠ x.job → boundSet t.chip j = boundSet s.chip j :=
  exec_rebinds (n := 0) (act := unbindJob) rfl h (by decide) (by decide) rfl ha

/-! ### RETIRE (R292) -/

/-- The package once an entry is EMPTY. -/
def entryRetired (e : Nat) (c : Chip) : Chip :=
  putF (putF { c with ms := { c.ms with current := tabDel c.ms.current e, staged := tabDel c.ms.staged e } } (rSet e 0) 0 3 0) (rSet e 0) 3 2 0

theorem entryRetired_entries (e : Nat) (c : Chip) : setState (entryRetired e c) e = 0 ∧ setStage (entryRetired e c) e = 0 ∧
    ∀ f, f ≠ e → setState (entryRetired e c) f = setState c f ∧ setStage (entryRetired e c) f = setStage c f := by
  refine ⟨?_, getF_putF_self _ (by decide), fun f hf => ⟨?_, ?_⟩⟩
  · exact (getF_putF_ne _ _ (.inl (by decide)) (by decide)).trans (getF_putF_self _ (by decide))
  · exact (setState_putF_ne _ _ _ _ hf).trans (setState_putF_ne _ _ _ _ hf)
  · exact (setStage_putF_ne _ _ _ _ hf).trans (setStage_putF_ne _ _ _ _ hf)

theorem exec_retire {s : State} {x : Block} {rest : List Block} (h : OldestCommand s 4 x rest)
    (hfree : ∀ j, j < 256 → boundSet s.chip j ≠ some x.set) (h1 : setState s.chip x.set ≠ 1) (h3 : setState s.chip x.set ≠ 3)
    (hstage : setStage s.chip x.set ≠ 1) (hload : tabFind s.chip.ms.loads x.set = none) :
    ∃ t, exec .retire s = .next t ∧ CommandTaken s t rest ∧ t.chip.mem = commandAnswer s.chip.mem x.addr 0 ∧
      setState t.chip x.set = 0 ∧ setStage t.chip x.set = 0 ∧ t.chip.ms.current = tabDel s.chip.ms.current x.set ∧
      t.chip.ms.staged = tabDel s.chip.ms.staged x.set ∧
      ∀ e, e < 16 → e ≠ x.set → setState t.chip e = setState s.chip e ∧ setStage t.chip e = setStage s.chip e := by
  have hleft := tableRegs_commandLeft s.chip rest
  have hret : retireSet x (commandLeft s.chip rest) = (0, entryRetired x.set (commandLeft s.chip rest)) := by
    refine if_neg ?_
    have hnone : (List.range 256).any (fun j => boundSet (commandLeft s.chip rest) j == some x.set) = false :=
      List.any_eq_false.mpr fun j hj => by simpa [hleft.boundSet j] using hfree j (List.mem_range.mp hj)
    have hl : (commandLeft s.chip rest).ms.loads = s.chip.ms.loads := rfl
    rw [hnone, hleft.setState x.set_lt, hleft.setStage x.set_lt, hl, hload]
    simp [h1, h3, hstage]
  have hx := exec_oldestCommand h (by decide) (show exec .retire s = acceptMsChip 4 (fun x c => msDone x (retireSet x c)) s from rfl)
  simp only [hret, msDone] at hx
  have hans := finishCmd_answered (addr := x.addr) (code := 0) (c := entryRetired x.set (commandLeft s.chip rest)) (own_of_oldest h) (by decide)
  obtain ⟨hstate, hstaged, hother⟩ := entryRetired_entries x.set (commandLeft s.chip rest)
  have hne : rMsStatus ≠ rSet x.set 0 := by unfold rMsStatus rSet; omega
  refine ⟨_, hx, commandTaken_of ?_ ?_, hans.mem, ?_, ?_, ?_, ?_, fun e he hex => ⟨?_, ?_⟩⟩
  · rw [hans.ms]; rfl
  · rw [hans.pending]
    exact getF_congr _ _ ((getReg_putF_ne _ _ _ _ hne).trans (getReg_putF_ne _ _ _ _ hne))
  · exact (hans.regs.setState x.set_lt).trans hstate
  · exact (hans.regs.setStage x.set_lt).trans hstaged
  · rw [withChip_chip, hans.ms]; rfl
  · rw [withChip_chip, hans.ms]; rfl
  · exact (hans.regs.setState he).trans ((hother e hex).1.trans (hleft.setState he))
  · exact (hans.regs.setStage he).trans ((hother e hex).2.trans (hleft.setStage he))

/-! ### Refusals with MS_STATE (R276) -/

/-- What a command that is refused leaves: the answer, LAST_ERR, the set table, and all else of the model sets but the queue. -/
structure Refused (s : State) (x : Block) (rest : List Block) (code : Nat) (t : State) : Prop where
  taken : CommandTaken s t rest
  mem : t.chip.mem = commandAnswer s.chip.mem x.addr code
  lastErr : getF t.chip rMsStatus 16 16 = code
  regs : TableRegs s.chip t.chip
  ms : t.chip.ms = { s.chip.ms with queue := rest }

theorem refused_of {s : State} {op code : Nat} {x : Block} {rest : List Block} (h : OldestCommand s op x rest) (h0 : code ≠ 0)
    (hc : code < 65536) : Refused s x rest code (s.withChip (finishCmd x.addr code 0 (commandLeft s.chip rest))) := by
  have hans := finishCmd_answered (c := commandLeft s.chip rest) (own_of_oldest h) hc
  exact ⟨commandTaken_of (by rw [hans.ms]; rfl) hans.pending, hans.mem, hans.lastErr h0, (tableRegs_commandLeft s.chip rest).trans hans.regs,
    hans.ms⟩

theorem exec_retire_refused {s : State} {x : Block} {rest : List Block} (h : OldestCommand s 4 x rest)
    (hb : ∃ j, j < 256 ∧ boundSet s.chip j = some x.set) : ∃ t, exec .retire s = .next t ∧ Refused s x rest 0x0A03 t := by
  obtain ⟨j, hj, hjx⟩ := hb
  have hsome : (List.range 256).any (fun j => boundSet (commandLeft s.chip rest) j == some x.set) = true :=
    List.any_eq_true.mpr ⟨j, List.mem_range.mpr hj, by rw [(tableRegs_commandLeft s.chip rest).boundSet, hjx]; exact beq_self_eq_true _⟩
  have hret : retireSet x (commandLeft s.chip rest) = (eMsState, commandLeft s.chip rest) := if_pos (by rw [hsome]; simp only [Bool.true_or])
  have hx := exec_oldestCommand h (by decide) (show exec .retire s = acceptMsChip 4 (fun x c => msDone x (retireSet x c)) s from rfl)
  simp only [hret, msDone] at hx
  exact ⟨_, hx, refused_of h (by decide) (by decide)⟩

theorem exec_load_refused {s : State} {x : Block} {rest : List Block} (h : OldestCommand s 0 x rest)
    (hl : loadAllowed s.chip x.set false = false) : ∃ t, exec (.msLoad .post) s = .next t ∧ Refused s x rest 0x0A03 t := by
  have hl' : loadAllowed (commandLeft s.chip rest) x.set false = false :=
    ((tableRegs_commandLeft s.chip rest).loadAllowed x.set_lt rfl false).trans hl
  have hact : acceptLoad false x (s.dev.chipDo fun c => commandLeft c rest) =
      (s.dev.chipDo fun c => commandLeft c rest).chipDo (finishCmd x.addr eMsState 0) :=
    if_pos (by rw [show (s.dev.chipDo fun c => commandLeft c rest).chip = commandLeft s.chip rest from rfl, hl']; rfl)
  have hx : exec (.msLoad .post) s = onDev (acceptMs 0 (acceptLoad false)) s := rfl
  rw [onDev_eq, acceptMs_oldest h (by decide), hact] at hx
  exact ⟨_, hx, refused_of h (by decide) (by decide)⟩

theorem exec_replace_refused {s : State} {x : Block} {rest : List Block} (h : OldestCommand s 2 x rest)
    (hs : setState s.chip x.set ≠ 2 ∨ setStage s.chip x.set ≠ 2) : ∃ t, exec .replace s = .next t ∧ Refused s x rest 0x0A03 t := by
  have hleft := tableRegs_commandLeft s.chip rest
  have hact : replaceSet x (commandLeft s.chip rest) = finishCmd x.addr eMsState 0 (commandLeft s.chip rest) := by
    unfold replaceSet
    dsimp only
    rw [hleft.setState x.set_lt, hleft.setStage x.set_lt]
    rcases hs with h2 | h2
    · rw [beq_false_of_ne h2]
    · rw [beq_false_of_ne h2]
      cases setState s.chip x.set == 2 <;> rfl
  have hx := exec_oldestCommand h (by decide) (show exec .replace s = acceptMsChip 2 replaceSet s from rfl)
  rw [hact] at hx
  exact ⟨_, hx, refused_of h (by decide) (by decide)⟩

/-! ### The clauses of the statement -/

theorem bindUnbindRetire : BindUnbindRetire := by
  intro s x rest
  refine ⟨fun h hs ha => exec_bind h hs ha, fun h ha => exec_unbind h ha, fun h hfree h1 h3 hstage hl => exec_retire h hfree h1 h3 hstage hl,
    fun h hb => ?_⟩
  obtain ⟨t, hx, hr⟩ := exec_retire_refused h hb
  exact ⟨t, hx, hr.taken, hr.mem, hr.regs.setState x.set_lt, hr.regs.setStage x.set_lt⟩

theorem commandOutOfStateRefused : CommandOutOfStateRefused := by
  intro s x rest
  refine ⟨fun ⟨h, hl⟩ => ?load, fun ⟨h, hs⟩ => ?replace⟩
  case load =>
    obtain ⟨t, hx, hr⟩ := exec_load_refused h hl
    exact ⟨t, hx, hr.taken, hr.mem, hr.lastErr, fun e he => hr.regs.setState he, by rw [hr.ms]⟩
  case replace =>
    obtain ⟨t, hx, hr⟩ := exec_replace_refused h hs
    exact ⟨t, hx, hr.taken, hr.mem, hr.lastErr, fun e he => hr.regs.setState he, by rw [hr.ms]⟩

/-- Settles O32: a binding or an entry is set and the command answered; a command out of state is answered with MS_STATE and nothing else. -/
theorem setsAreBound : Obligations.SetsAreBound := ⟨bindUnbindRetire, commandOutOfStateRefused⟩

end Sys2Proof.Machine
end

section
/-! PROOFS. Messages between hubs and the model sets (R318): what a message that is sent, or acted on, leaves; and one load of the table of loads. -/

namespace Sys2Proof.Machine

/-! ### What a message leaves of the model sets (R318) -/

/-- Memory, basins, model sets with their registers, the package's number and who is fenced are as before. -/
structure SetsKept (c d : Chip) : Prop where
  mem : d.mem = c.mem
  basins : d.basins = c.basins
  ms : d.ms = c.ms
  pkg : pkg d = pkg c
  regs : TableRegs c d
  fenced : ∀ p, fenced d p = fenced c p

theorem SetsKept.trans {c d e : Chip} (h : SetsKept c d) (k : SetsKept d e) : SetsKept c e where
  mem := k.mem.trans h.mem
  basins := k.basins.trans h.basins
  ms := k.ms.trans h.ms
  pkg := k.pkg.trans h.pkg
  regs := h.regs.trans k.regs
  fenced p := (k.fenced p).trans (h.fenced p)

/-- Who is fenced is told by MEMBERS, the partners' registers, the package's number and whether it has fenced itself (R301, R322). -/
theorem fenced_congr {c d : Chip} (hp : pkg d = pkg c) (hf : d.fab.selfFenced = c.fab.selfFenced) (hm : getReg d rMembers = getReg c rMembers)
    (hr : ∀ p, p < 32 → getReg d (rPartner p) = getReg c (rPartner p)) (p : Nat) : fenced d p = fenced c p := by
  unfold fenced member
  rw [hp, hf, hm]
  by_cases hlt : p < 32
  · rw [getF_congr _ _ (hr p hlt)]
  · have hno : bit (getReg c rMembers) p = false :=
      Nat.testBit_lt_two_pow ((getReg_lt c _).trans_le (Nat.pow_le_pow_right (by decide) (by omega)))
    simp [hno]

theorem setsKept_of_wire {c d : Chip} (h : WireOnly c d) (hr : LinkRegsOnly c d) (hf : d.fab.selfFenced = c.fab.selfFenced) : SetsKept c d := by
  have hpkg : pkg d = pkg c := by obtain ⟨_, _, _, _, rfl⟩ := h; rfl
  refine ⟨?mem, ?basins, ?ms, hpkg, fun off lo hi => hr off (.inl (by omega)),
    fenced_congr hpkg hf (hr _ (.inl (by decide))) fun p hp => hr _ (.inl (by unfold rPartner; omega))⟩
  all_goals obtain ⟨_, _, _, _, rfl⟩ := h; rfl

theorem sendMsg_links (ds : List Nat) (tag : Nat) (x : HubMsg) (c : Chip) : LinksMove c (sendMsg ds tag x c) := by
  unfold sendMsg
  dsimp only
  split
  · exact .refl c
  · exact (LinksMove.foldl (fun c p => emit_links _ c) _ c).trans (sendTree_links _ _ _)

theorem sendMsg_sets (ds : List Nat) (tag : Nat) (x : HubMsg) (c : Chip) : SetsKept c (sendMsg ds tag x c) := by
  obtain ⟨ls, hf⟩ := (sendMsg_links ds tag x c).fab
  exact setsKept_of_wire (sendMsg_wire _ _ _ _) (sendMsg_regs _ _ _ _) (by rw [hf])

/-- A confirmed message to packages of which some are not fenced leaves with a tag, and waits for their confirmations (R318). -/
theorem sendConfirmed_left {ds left : List Nat} (x : HubMsg) {c : Chip} (hl : ds.filter (fun p => !fenced c p && decide (p ≠ pkg c)) = left)
    (hne : left ≠ []) : ∃ ls, (sendConfirmed ds x c).fab = { (takeTag c).2.fab with
      links := ls, confirms := c.fab.confirms ++ [{ tag := (takeTag c).1, left := left.map (BitVec.ofNat 4), msg := x }] } := by
  subst hl
  unfold sendConfirmed
  dsimp only
  rw [if_neg hne]
  exact (sendMsg_links _ _ _ _).fab

theorem sendConfirmed_sets (ds : List Nat) (x : HubMsg) (c : Chip) : SetsKept c (sendConfirmed ds x c) := by
  refine setsKept_of_wire (sendConfirmed_wire _ _ _) (sendConfirmed_regs _ _ _) ?_
  by_cases hne : ds.filter (fun p => !fenced c p && decide (p ≠ pkg c)) = []
  · unfold sendConfirmed
    dsimp only
    rw [if_pos hne]
  · obtain ⟨ls, hf⟩ := sendConfirmed_left x rfl hne
    rw [hf]
    rfl

/-- The counters of model sets stand outside the set table (R298). -/
theorem bump_sets (c : Chip) (k : Nat) (h : k < 8) : SetsKept c (bump c (rMsCtr k)) := by
  have hother : ∀ off, off < 0x24600 ∨ 0x25000 ≤ off → getReg (bump c (rMsCtr k)) off = getReg c off := fun off ho =>
    getReg_bump_ne c 1 (by unfold rMsCtr; omega)
  have hpkg : pkg (bump c (rMsCtr k)) = pkg c := by
    obtain ⟨rg, hb⟩ := bump_eq c (rMsCtr k) 1
    rw [hb]; rfl
  refine ⟨bump_mem _ _ _, bump_basins _ _ _, ?ms, hpkg, tableRegs_bump c 1 (.inr (by unfold rMsCtr; omega)),
    fenced_congr hpkg (by rw [bump_fab]) (hother _ (.inr (by decide))) fun p hp => hother _ (.inr (by unfold rPartner; omega))⟩
  obtain ⟨rg, hb⟩ := bump_eq c (rMsCtr k) 1
  rw [hb]

/-- What confirms a message, and notes it, changes of the fabric its links and the tags seen. -/
theorem onConfirmed_fab (src tag : Nat) (c : Chip) : ∃ ls sn, (onConfirmed src tag id c).fab = { c.fab with links := ls, seen := sn } := by
  unfold onConfirmed
  split
  · exact ⟨c.fab.links, c.fab.seen, rfl⟩
  · dsimp only
    generalize msgFlit _ _ _ _ = x
    obtain ⟨ls, hf⟩ := (sendTree_links [src] x (emit (.confirm (BitVec.ofNat 4 src) tag) c)).fab
    rw [hf]
    split
    · exact ⟨ls, c.fab.seen, hf⟩
    · exact ⟨ls, _, rfl⟩

/-- The first copy of a confirmed message acts on the package that has confirmed it. -/
theorem onConfirmed_first {src tag : Nat} (act : Chip → Chip) {c : Chip} (hf : fenced c src = false) (hs : tag ∉ tabGet [] c.fab.seen src) :
    onConfirmed src tag act c = act (onConfirmed src tag id c) := by
  have hseen : ∀ x, (sendTree [src] x (emit (.confirm (BitVec.ofNat 4 src) tag) c)).fab.seen = c.fab.seen := fun x => by
    obtain ⟨ls, hl⟩ := (sendTree_links [src] x (emit (.confirm (BitVec.ofNat 4 src) tag) c)).fab
    rw [hl]
    rfl
  unfold onConfirmed
  simp only [hf, hseen, List.contains_eq_mem, hs]
  rfl

/-- The first copy of a confirmed message acts on a package whose model sets are as before. -/
theorem exec_sent {i : Instr} {s : State} {p : BitVec 4} {tag : BitVec 16} {act : Chip → Chip} (hi : exec i s = onChip (onSent ⟨p, tag⟩ act) s)
    (h : FirstCopy s.chip p tag) : ∃ d, exec i s = .next (s.withChip (act d)) ∧ SetsKept s.chip d ∧ LinkRegsOnly s.chip d := by
  obtain ⟨hf, hs⟩ := h
  obtain ⟨d, hd, hwire, hregs, -⟩ := onConfirmed_acts id hf hs
  obtain ⟨ls, sn, hfab⟩ := onConfirmed_fab p.toNat tag.toNat s.chip
  rw [hd] at hfab
  have hact : onSent ⟨p, tag⟩ act s.chip = act d := by
    rw [← show onConfirmed p.toNat tag.toNat id s.chip = d from hd]
    exact onConfirmed_first act hf hs
  exact ⟨d, hi.trans (onChip_of hact), setsKept_of_wire hwire hregs (by rw [show d.fab = _ from hfab]), hregs⟩

/-! ### One load of the table of loads -/

/-- The package with one load set. -/
def loadSet (e : Nat) (l : Load) (c : Chip) : Chip := { c with ms := { c.ms with loads := tabSet c.ms.loads e l } }

theorem modLoad_some {c : Chip} {e : Nat} {l : Load} (f : Load → Load) (h : tabFind c.ms.loads e = some l) : modLoad e f c = loadSet e (f l) c := by
  unfold modLoad
  rw [h]
  rfl

@[simp] theorem tabFind_loadSet (e : Nat) (l : Load) (c : Chip) : tabFind (loadSet e l c).ms.loads e = some l := tabFind_tabSet_self _ _ _

theorem pkg_loadSet (e : Nat) (l : Load) (c : Chip) : pkg (loadSet e l c) = pkg c := rfl

/-- Load `e` is `l`; memory, the set table and the package's number are as before. -/
structure LoadIs (e : Nat) (l : Load) (c d : Chip) : Prop where
  mem : d.mem = c.mem
  pkg : pkg d = pkg c
  regs : TableRegs c d
  load : tabFind d.ms.loads e = some l

theorem LoadIs.trans {e : Nat} {l k : Load} {c d d' : Chip} (h : LoadIs e l c d) (h' : LoadIs e k d d') : LoadIs e k c d' :=
  ⟨h'.mem.trans h.mem, h'.pkg.trans h.pkg, h.regs.trans h'.regs, h'.load⟩

theorem LoadIs.refl {e : Nat} {l : Load} {c : Chip} (h : tabFind c.ms.loads e = some l) : LoadIs e l c c := ⟨rfl, rfl, fun _ _ _ => rfl, h⟩

theorem loadIs_loadSet (e : Nat) (l : Load) (c : Chip) : LoadIs e l c (loadSet e l c) := ⟨rfl, rfl, fun _ _ _ => rfl, tabFind_loadSet e l c⟩

/-- What leaves the model sets alone leaves the load. -/
theorem LoadIs.kept {e : Nat} {l : Load} {c d d' : Chip} (h : LoadIs e l c d) (k : SetsKept d d') : LoadIs e l c d' :=
  h.trans ⟨k.mem, k.pkg, k.regs, by rw [k.ms]; exact h.load⟩

theorem SetsKept.loadIs {e : Nat} {l : Load} {c d : Chip} (k : SetsKept c d) (h : tabFind c.ms.loads e = some l) : LoadIs e l c d :=
  (LoadIs.refl h).kept k

/-- A report to the reader of a load acts there. -/
theorem atReader_mine {c : Chip} {e : Nat} {l : Load} (act : Chip → Chip) (h : tabFind c.ms.loads e = some l) (hm : l.mine = true)
    (h1 : l.atStep1 = false) : atReader e act c = act c := by
  unfold atReader
  rw [h]
  simp [hm, h1]

/-- A receiver that has everything of its load reports so once, and changes nothing else of it (R277 step 6). -/
theorem reportLoadDone_receiver {c : Chip} {e : Nat} {l : Load} (h : tabFind c.ms.loads e = some l) (hm : l.mine = false) :
    ∃ ds, LoadIs e { l with done := ds } c (reportLoadDone e c) := by
  unfold reportLoadDone
  rw [h]
  dsimp only
  split
  · rw [modLoad_some _ h, hm]
    exact ⟨_, (loadIs_loadSet e _ c).kept (sendConfirmed_sets _ _ _)⟩
  · exact ⟨l.done, .refl h⟩

end Sys2Proof.Machine
end

section
/-! PROOFS. Loads and stages begin and end (R277, R281, R446): at the package that reads the set and at a receiver. -/

namespace Sys2Proof.Machine

/-! ### The entry of a load (R277) -/

/-- Memory, the queue of commands and the table of loads are as before. -/
theorem setLoading_keeps (e : Nat) (stage : Bool) (c : Chip) : (setLoading e stage c).mem = c.mem ∧
    (setLoading e stage c).ms.queue = c.ms.queue ∧ (setLoading e stage c).ms.loads = c.ms.loads := by
  unfold setLoading
  split
  · exact ⟨rfl, rfl, rfl⟩
  · split <;> exact ⟨rfl, rfl, rfl⟩

theorem getReg_setLoading_ne {e off : Nat} (stage : Bool) (c : Chip) (h : off ≠ rSet e 0) : getReg (setLoading e stage c) off = getReg c off := by
  unfold setLoading
  split
  · exact getReg_putF_ne _ _ _ _ h
  · split
    · exact (getReg_putF_ne _ _ _ _ h).trans (getReg_putF_ne _ _ _ _ h)
    · exact getReg_putF_ne _ _ _ _ h

/-- A LOAD takes its entry LOADING. -/
theorem setState_setLoading (e : Nat) (c : Chip) : setState (setLoading e false c) e = 1 := by
  unfold setLoading
  rw [if_neg (by decide)]
  split <;> exact getF_putF_self _ (by decide)

/-- A STAGE takes the stage of its entry LOADING, and leaves its state. -/
theorem setStage_setLoading (e : Nat) (c : Chip) : setStage (setLoading e true c) e = 1 ∧ setState (setLoading e true c) e = setState c e :=
  ⟨getF_putF_self _ (by decide), getF_putF_ne _ _ (.inl (by decide)) (by decide)⟩

/-- An entry that may be staged is READY. -/
theorem setState_of_loadAllowed {c : Chip} {e : Nat} (h : loadAllowed c e true = true) : setState c e = 2 := by
  unfold loadAllowed at h
  simp only [if_true, Bool.and_eq_true, beq_iff_eq] at h
  exact h.2.1

/-! ### LOAD and STAGE posted (R277, R446) -/

/-- The load of a command that is accepted where the package is a receiver too. -/
def postedLoad (stage : Bool) (x : Block) (d : Dev) : Load :=
  { stage := stage, reader := d.chip.power.pkgId, mine := true, member := true, peers := x.peers, block := some x.addr,
    bias := if stage then x.f 2 0 44 else 0, base := x.f 1 0 44, retry := getF d.chip rMsCfg 0 2, atStep1 := true,
    pubs := d.sec.pubs.map (fun p => (p.id, p.key, p.priv)) }

/-- The package once such a load waits at step 1. -/
def loadWaits (stage : Bool) (x : Block) (d : Dev) : Chip := setLoading x.set stage (loadSet x.set (postedLoad stage x d) d.chip)

theorem acceptLoad_waits {stage : Bool} {x : Block} {d : Dev} (hl : loadAllowed d.chip x.set stage = true)
    (hp : x.peers.contains (pkg d.chip) = true) (hroot : d.sec.root.isSome = true) (hid : d.sec.idReady = false) :
    acceptLoad stage x d = { d with chip := loadWaits stage x d } := by
  unfold acceptLoad
  dsimp only
  rw [hl, hp, hroot, hid]
  rfl

/-- What a posted LOAD or STAGE leaves while an identity is still to be built. -/
structure PostedLoadWaits (s : State) (stage : Bool) (x : Block) (rest : List Block) (l : Load) (c : Chip) : Prop where
  taken : CommandTaken s (s.withChip c) rest
  mem : c.mem = s.chip.mem
  load : tabFind c.ms.loads x.set = some l
  mine : l.mine = true
  kind : l.stage = stage
  waits : l.atStep1 = true
  peers : l.peers = x.peers
  base : l.base = x.f 1 0 44
  block : l.block = some x.addr
  bias : l.bias = if stage then x.f 2 0 44 else 0

theorem exec_postedLoad {i : Instr} {s : State} {stage : Bool} {op : Nat} {x : Block} {rest : List Block}
    (hi : exec i s = onDev (acceptMs op (acceptLoad stage)) s) (h : OldestCommand s op x rest) (hop : op < 8)
    (hl : loadAllowed s.chip x.set stage = true) (hp : x.peers.contains (pkg s.chip) = true) (hroot : s.sec.root.isSome = true)
    (hid : s.sec.idReady = false) : ∃ l c, exec i s = .next (s.withChip (setLoading x.set stage c)) ∧
      PostedLoadWaits s stage x rest l (setLoading x.set stage c) ∧ setState c x.set = setState s.chip x.set := by
  have hleft := tableRegs_commandLeft s.chip rest
  have hl' : loadAllowed (commandLeft s.chip rest) x.set stage = true := (hleft.loadAllowed x.set_lt rfl stage).trans hl
  rw [onDev_eq, acceptMs_oldest h hop,
    acceptLoad_waits (d := s.dev.chipDo fun c => commandLeft c rest) hl' hp hroot hid] at hi
  obtain ⟨hmem, hqueue, hloads⟩ := setLoading_keeps x.set stage
    (loadSet x.set (postedLoad stage x (s.dev.chipDo fun c => commandLeft c rest)) (commandLeft s.chip rest))
  have hpending : rMsStatus ≠ rSet x.set 0 := by unfold rMsStatus rSet; omega
  refine ⟨_, _, hi, ⟨commandTaken_of hqueue (getF_congr _ _ (getReg_setLoading_ne _ _ hpending)), hmem,
    (congrArg (fun t => tabFind t x.set) hloads).trans (tabFind_loadSet _ _ (commandLeft s.chip rest)), rfl, rfl, rfl, rfl, rfl, rfl, rfl⟩,
    hleft.setState x.set_lt⟩

/-! ### The manifest at a receiver (R277 step 2) -/

/-- A receiver whose tables are done goes on with its shards. -/
theorem loadGoesOn_receiver {c : Chip} {e : Nat} {l : Load} (h : tabFind c.ms.loads e = some l) (ht : l.tables = []) (hm : l.mine = false) :
    ∃ ds, LoadIs e { l with done := ds } c (loadGoesOn e c) := by
  have hrun : runTables e l.tables c = loadSet e l c := by
    rw [ht, show runTables e [] c = modLoad e (fun l => { l with tables := [] }) c from rfl, modLoad_some _ h, ← ht]
  obtain ⟨ds, hd⟩ := reportLoadDone_receiver (tabFind_loadSet e l c) hm
  unfold loadGoesOn
  rw [h]
  dsimp only
  rw [hrun, tabFind_loadSet]
  dsimp only
  rw [if_neg (by simp [ht]), if_neg (by simp [hm])]
  exact ⟨ds, (loadIs_loadSet e l c).trans hd⟩

/-- The load of a manifest without tables that reaches a receiver. -/
def receivedLoad (stage : Bool) (reader : Pkg) (bias : Nat) (m : Manifest) : Load :=
  { stage := stage, reader := reader, member := true, bias := if stage then bias else 0, man := m }

theorem takeManifest_receives {stage : Bool} {reader : Pkg} {e bias : Nat} {m : Manifest} {c : Chip} (hf : fenced c reader.toNat = false)
    (hp : reader.toNat ≠ pkg c) (hl : loadAllowed c e stage = true) (ht : m.tables = []) :
    ∃ ds, LoadIs e { receivedLoad stage reader bias m with done := ds }
      (setLoading e stage (loadSet e (receivedLoad stage reader bias m) c)) (takeManifest stage reader e bias m c) := by
  have htables : tableJobs c m = [] := by unfold tableJobs; rw [ht]; rfl
  have htake : takeManifest stage reader e bias m c = loadGoesOn e (setLoading e stage (loadSet e (receivedLoad stage reader bias m) c)) := by
    unfold takeManifest
    rw [hf, beq_false_of_ne hp, hl, htables]
    rfl
  rw [htake]
  exact loadGoesOn_receiver
    ((congrArg (fun t => tabFind t e) (setLoading_keeps e stage _).2.2).trans (tabFind_loadSet e (receivedLoad stage reader bias m) c)) rfl rfl

theorem loadsBegin : LoadsBegin := by
  refine ⟨?load, ?stage, ?manifest, ?stageManifest⟩
  case load =>
    intro s x rest h hl hp hroot hid
    obtain ⟨l, c, hx, hw, -⟩ := exec_postedLoad (i := .msLoad .post) (stage := false) rfl h (by decide) hl hp hroot hid
    exact ⟨_, l, hx, hw.taken, hw.mem, setState_setLoading _ _, hw.load, hw.mine, hw.kind, hw.waits, hw.peers, hw.base, hw.block, hw.bias⟩
  case stage =>
    intro s x rest h hl hp hroot hid
    obtain ⟨l, c, hx, hw, hstate⟩ := exec_postedLoad (i := .stage .post) (stage := true) rfl h (by decide) hl hp hroot hid
    obtain ⟨hstage, hkept⟩ := setStage_setLoading x.set c
    exact ⟨_, l, hx, hw.taken, hw.mem, hstage, (hkept.trans hstate).trans (setState_of_loadAllowed hl), hw.load, hw.mine, hw.kind, hw.waits,
      hw.peers, hw.base, hw.block, hw.bias⟩
  case manifest =>
    intro s r e bias m hf hp hl ht
    obtain ⟨ds, hd⟩ := takeManifest_receives (bias := bias.toNat) hf hp hl ht
    exact ⟨_, _, onChip_of rfl, sameRest_withChip s _, hd.mem.trans (setLoading_keeps _ _ _).1,
      (hd.regs.setState e.isLt).trans (setState_setLoading _ _), hd.load, rfl, rfl, rfl, rfl, rfl⟩
  case stageManifest =>
    intro s r e bias m hf hp hl ht
    obtain ⟨ds, hd⟩ := takeManifest_receives (bias := bias.toNat) hf hp hl ht
    exact ⟨_, _, onChip_of rfl, sameRest_withChip s _, hd.mem.trans (setLoading_keeps _ _ _).1,
      (hd.regs.setStage e.isLt).trans (setStage_setLoading _ _).1, hd.load, rfl, rfl, rfl, rfl, rfl⟩

/-! ### The end of a load (R277 step 7) -/

/-- The package once the entry of a load is READY with its manifest. -/
def loadReady (e : Nat) (l : Load) (c : Chip) : Chip :=
  putF (putF { c with ms := { c.ms with loads := tabDel c.ms.loads e, current := tabSet c.ms.current e l.man } } (rSet e 0) 0 3 2) (rSet e 0) 16 16
    l.man.epoch.toNat

theorem loadReady_entry (e : Nat) (l : Load) (c : Chip) : setState (loadReady e l c) e = 2 ∧
    getF (loadReady e l c) (rSet e 0) 16 16 = l.man.epoch.toNat :=
  ⟨(getF_putF_ne _ _ (.inl (by decide)) (by decide)).trans (getF_putF_self _ (by decide)),
    (getF_putF_self _ (by decide)).trans (Nat.mod_eq_of_lt l.man.epoch.isLt)⟩

section
variable {c : Chip} {e : Nat} {l : Load} (h : tabFind c.ms.loads e = some l) (hs : l.stage = false) (hm : l.member = true)
include h hs hm

theorem completeLoad_receiver (hmine : l.mine = false) : completeLoad e c = loadReady e l c := by
  unfold completeLoad
  rw [h]
  dsimp only
  rw [hm, hs, hmine]
  rfl

/-- At the reader the command is answered too, and LOAD_DONE counts it. -/
theorem completeLoad_reader (hmine : l.mine = true) {a : Nat} (ha : l.block = some a) :
    completeLoad e c = finishCmd a 0 0 (bump (loadReady e l c) (rMsCtr 4)) := by
  unfold completeLoad
  rw [h]
  dsimp only
  rw [hm, hs, hmine, ha]
  rfl

end

/-- With the last report the reader sends COMPLETE and its own load is complete. -/
theorem loadDoneAt_last {c : Chip} {e p : Nat} {l : Load} (h : tabFind c.ms.loads e = some l) (hm : l.mine = true)
    (hall : ∀ q ∈ l.peers, q = p ∨ q ∈ l.done) : loadDoneAt e p c =
      completeLoad e (sendConfirmed l.peers (.loadComplete e) (loadSet e { l with done := insertNat p l.done } c)) := by
  have hdone : l.peers.all (fun q => (insertNat p l.done).contains q) = true := List.all_eq_true.mpr fun q hq => by
    rw [List.contains_eq_mem, decide_eq_true_eq]
    rcases hall q hq with rfl | hd
    · exact mem_insertNat _ _
    · exact mem_insertNat_of_mem hd
  unfold loadDoneAt
  rw [modLoad_some _ h]
  dsimp only
  rw [tabFind_loadSet]
  dsimp only
  rw [hm, hdone]
  rfl

/-! ### FAIL at a receiver (R281) -/

/-- The package once the entry of a load is FAILED with a cause. -/
def loadFailed (e cause : Nat) (c : Chip) : Chip :=
  putF (putF { c with ms := { c.ms with loads := tabDel c.ms.loads e } } (rSet e 0) 0 3 4) (rSet e 0) 8 4 cause

theorem loadFailed_entry (e cause : Nat) (c : Chip) : setState (loadFailed e cause c) e = 4 ∧
    getF (loadFailed e cause c) (rSet e 0) 8 4 = cause % 16 ∧ ∀ d, d ≠ e → setState (loadFailed e cause c) d = setState c d :=
  ⟨(getF_putF_ne _ _ (.inl (by decide)) (by decide)).trans (getF_putF_self _ (by decide)), getF_putF_self _ (by decide),
    fun _ hd => (setState_putF_ne _ _ _ _ hd).trans (setState_putF_ne _ _ _ _ hd)⟩

/-- Registers and model sets are as before. -/
def RegsAndSets (c d : Chip) : Prop := d.regs = c.regs ∧ d.ms = c.ms

theorem RegsAndSets.foldl {α : Type} {f : Chip → α → Chip} (h : ∀ c x, RegsAndSets c (f c x)) (xs : List α) (c : Chip) :
    RegsAndSets c (xs.foldl f c) :=
  foldl_keeps xs (fun d x _ hd => ⟨(h d x).1.trans hd.1, (h d x).2.trans hd.2⟩) ⟨rfl, rfl⟩

theorem RegsAndSets.tableRegs {c d : Chip} (h : RegsAndSets c d) : TableRegs c d := fun off _ _ => by unfold getReg; rw [h.1]

/-- At a receiver its holds fall, and the destinations of its shards are left undefined; registers and model sets stay as the failure set them. -/
theorem endLoad_receiver {c : Chip} {e : Nat} {l : Load} (cause : Nat) (h : tabFind c.ms.loads e = some l) (hs : l.stage = false)
    (hm : l.member = true) (hmine : l.mine = false) : RegsAndSets (loadFailed e cause c) (endLoad e cause c) := by
  have hend : endLoad e cause c = l.man.shards.foldl (fun d s => undefine d (shardDest d l s) s.len.toNat)
      (releaseLoadHolds l (loadFailed e cause c)) := by
    unfold endLoad
    rw [h]
    dsimp only
    rw [hm, hs, hmine]
    rfl
  have hholds : RegsAndSets (loadFailed e cause c) (releaseLoadHolds l (loadFailed e cause c)) := by
    unfold releaseLoadHolds
    refine .foldl (fun d x => ?_) _ _
    exact ⟨rfl, rfl⟩
  have hshards : ∀ d, RegsAndSets d (l.man.shards.foldl (fun d s => undefine d (shardDest d l s) s.len.toNat) d) := fun d => by
    refine .foldl (fun d x => ?_) _ _
    exact ⟨putMem_regs _ _ _, putMem_ms _ _ _⟩
  rw [hend]
  exact ⟨(hshards _).1.trans hholds.1, (hshards _).2.trans hholds.2⟩

/-! ### The clauses of the statement -/

theorem loadsEnd : LoadsEnd := by
  intro s e l hl hs hm
  refine ⟨?reader, ?complete, ?fail⟩
  case reader =>
    intro p tag a hfirst hmine h1 ha hp hall
    obtain ⟨d, hx, hd, -⟩ := exec_sent (i := .loadDoneReport e ⟨p, tag⟩) rfl hfirst
    have hload : tabFind d.ms.loads e.val = some l := by rw [hd.ms]; exact hl
    rw [atReader_mine _ hload hmine h1, loadDoneAt_last hload hmine hall] at hx
    have hsent := sendConfirmed_sets l.peers (.loadComplete e.val) (loadSet e.val { l with done := insertNat p.toNat l.done } d)
    generalize sendConfirmed l.peers (.loadComplete e.val) (loadSet e.val { l with done := insertNat p.toNat l.done } d) = d2 at hx hsent
    have hload2 : tabFind d2.ms.loads e.val = some { l with done := insertNat p.toNat l.done } := by rw [hsent.ms]; exact tabFind_loadSet _ _ d
    rw [completeLoad_reader hload2 hs hm hmine ha] at hx
    have hbump := bump_sets (loadReady e.val { l with done := insertNat p.toNat l.done } d2) 4 (by decide)
    have hans := finishCmd_answered (addr := a) (code := 0) (hp.trans (hd.pkg.symm.trans (hsent.pkg.symm.trans hbump.pkg.symm))) (by decide)
    have hregs := hbump.regs.trans hans.regs
    have hms := hans.ms.trans hbump.ms
    obtain ⟨hstate, hepoch⟩ := loadReady_entry e.val { l with done := insertNat p.toNat l.done } d2
    refine ⟨_, hx, sameRest_withChip s _, ?_, (hregs.setState e.isLt).trans hstate, ?_, ?_, ?_⟩
    · exact hans.mem.trans (congrArg (fun m => commandAnswer m a 0) (hbump.mem.trans (hsent.mem.trans hd.mem)))
    · exact (getF_congr _ _ (hregs.entry e.isLt (by decide))).trans hepoch
    · rw [withChip_chip, hms]
      show tabDel d2.ms.loads e.val = _
      rw [hsent.ms, show (loadSet e.val { l with done := insertNat p.toNat l.done } d).ms.loads = tabSet d.ms.loads e.val _ from rfl, hd.ms]
    · rw [withChip_chip, hms]
      exact tabFind_tabSet_self _ _ _
  case complete =>
    intro tag hfirst hmine
    obtain ⟨d, hx, hd, -⟩ := exec_sent (i := .complete ⟨e, l.reader, tag⟩) rfl hfirst
    have hload : tabFind d.ms.loads e.val = some l := by rw [hd.ms]; exact hl
    have hact : completeLoad e.val d = loadReady e.val l d := completeLoad_receiver hload hs hm hmine
    obtain ⟨hstate, hepoch⟩ := loadReady_entry e.val l d
    simp only [hload, hmine, beq_self_eq_true, Bool.not_false, Bool.and_self, if_true, hact] at hx
    refine ⟨_, hx, sameRest_withChip s _, hd.mem, hstate, hepoch, ?_, tabFind_tabSet_self _ _ _⟩
    show tabDel d.ms.loads e.val = _
    rw [hd.ms]
  case fail =>
    intro cause tag hfirst hmine
    obtain ⟨d, hx, hd, -⟩ := exec_sent (i := .fail ⟨e, l.reader, tag⟩ cause) rfl hfirst
    have hload : tabFind d.ms.loads e.val = some l := by rw [hd.ms]; exact hl
    have hend := endLoad_receiver cause.toNat hload hs hm hmine
    obtain ⟨hstate, hcause, hother⟩ := loadFailed_entry e.val cause.toNat d
    simp only [hload, hmine, beq_self_eq_true, Bool.false_eq_true, if_true, if_false] at hx
    refine ⟨_, hx, sameRest_withChip s _, (hend.tableRegs.setState e.isLt).trans hstate, ?_, ?_, fun f hf hlt => ?_⟩
    · exact (getF_congr _ _ (hend.tableRegs.entry e.isLt (by decide))).trans (hcause.trans (Nat.mod_eq_of_lt cause.isLt))
    · rw [withChip_chip, hend.2]
      show tabDel d.ms.loads e.val = _
      rw [hd.ms]
    · exact (hend.tableRegs.setState hlt).trans ((hother f hf).trans (hd.regs.setState hlt))

/-- Settles O34: a load begins with its entry LOADING and its place in the table of loads, and ends with the entry READY or FAILED. -/
theorem loadsRun : Obligations.LoadsRun := ⟨loadsBegin, loadsEnd⟩

end Sys2Proof.Machine
end

section
/-! PROOFS. Shards at the reader and at a receiver of a load (R277, R279, R280). -/

namespace Sys2Proof.Machine

/-! ### The reads of the reader (R277 step 4, R280) -/

/-- The load once the reader has begun a read of shard `i`, for which it has set aside the read in hand. -/
def readBegun (i : Nat) (l : Load) : Load :=
  { l with hand := some i, paused := l.hand.toList ++ l.paused, reads := tabSet l.reads i (tabGet 0 l.reads i + 1) }

section
variable {c : Chip} {e i : Nat} {l : Load} (h : tabFind c.ms.loads e = some l) (hk : tabGet 0 l.reads i < 1 + l.retry)
include h hk

theorem readNow_within : LoadIs e (readBegun i l) c (readNow e i c) ∧
    (0 < tabGet 0 l.reads i → getReg (readNow e i c) (rMsCtr 0) = (getReg c (rMsCtr 0) + 1) % 2 ^ 32) := by
  have hread : readNow e i c = sendMsg (shardFor (if 0 < tabGet 0 l.reads i then bump c (rMsCtr 0) else c) l i) 0 (.announce e i)
      (loadSet e (readBegun i l) (if 0 < tabGet 0 l.reads i then bump c (rMsCtr 0) else c)) := by
    have hload : tabFind (if 0 < tabGet 0 l.reads i then bump c (rMsCtr 0) else c).ms.loads e = some l := by
      split
      · rw [(bump_sets c 0 (by decide)).ms]; exact h
      · exact h
    unfold readNow
    rw [h]
    dsimp only
    rw [if_neg (Nat.not_le.mpr hk), modLoad_some _ hload]
    rfl
  rw [hread]
  have hsent := fun d : Chip => sendMsg_sets (shardFor d l i) 0 (.announce e i) (loadSet e (readBegun i l) d)
  by_cases hpos : 0 < tabGet 0 l.reads i
  · rw [if_pos hpos]
    refine ⟨(((bump_sets c 0 (by decide)).loadIs h).trans (loadIs_loadSet e _ _)).kept (hsent _), fun _ => ?_⟩
    rw [sendMsg_regs _ _ _ _ _ (.inl (by decide))]
    exact getReg_bump_self c (rMsCtr 0) 1
  · rw [if_neg hpos]
    exact ⟨(loadIs_loadSet e _ c).kept (hsent _), fun h0 => absurd h0 hpos⟩

end

/-- Where nothing was set aside or is to be read again, the next shard is read. -/
theorem beginShard_next {c : Chip} {e : Nat} {l : Load} (h : tabFind c.ms.loads e = some l) (hp : l.paused = []) (ha : l.again = [])
    (hn : l.next < l.man.shards.length) (hr : tabGet 0 l.reads l.next = 0) :
    LoadIs e (readBegun l.next { l with next := l.next + 1 }) c (beginShard e c) := by
  have hbegin : beginShard e c = readNow e l.next (loadSet e { l with next := l.next + 1 } c) := by
    unfold beginShard
    rw [h]
    dsimp only
    split
    · next hsome => cases hp.symm.trans hsome
    · next hsome => cases ha.symm.trans hsome
    · rw [if_pos hn, modLoad_some _ h]
  rw [hbegin]
  exact (loadIs_loadSet e _ c).trans (readNow_within (tabFind_loadSet e _ c) (by simp only [hr]; omega)).1

/-- A corrupt attempt is read again at once, before the read in hand (R280). -/
theorem readAgain_corrupt {c : Chip} {e i : Nat} {l : Load} (h : tabFind c.ms.loads e = some l) (hp : l.paused.contains i = false)
    (hi : l.hand ≠ some i) (hk : tabGet 0 l.reads i < 1 + l.retry) :
    LoadIs e (readBegun i { l with bad := insertNat i l.bad, again := l.again.filter (· != i) }) c (readAgain e i true c) ∧
      (0 < tabGet 0 l.reads i → getReg (readAgain e i true c) (rMsCtr 0) = (getReg c (rMsCtr 0) + 1) % 2 ^ 32) := by
  have hagain : readAgain e i true c = readNow e i (loadSet e { l with bad := insertNat i l.bad, again := l.again.filter (· != i) }
      (loadSet e { l with bad := insertNat i l.bad } c)) := by
    unfold readAgain
    rw [h]
    dsimp only
    rw [beq_false_of_ne hi, hp, modLoad_some _ h, modLoad_some _ (tabFind_loadSet _ _ c)]
    rfl
  rw [hagain]
  obtain ⟨hload, hctr⟩ := readNow_within (tabFind_loadSet e { l with bad := insertNat i l.bad, again := l.again.filter (· != i) }
    (loadSet e { l with bad := insertNat i l.bad } c)) hk
  exact ⟨((loadIs_loadSet e _ c).trans (loadIs_loadSet e _ _)).trans hload, hctr⟩

/-- A missing shard waits behind the read in hand (R279, R280). -/
theorem readAgain_missing {c : Chip} {e i k : Nat} {l : Load} (h : tabFind c.ms.loads e = some l) (ha : l.again.contains i = false)
    (hp : l.paused.contains i = false) (hk : l.hand = some k) (hi : k ≠ i) :
    LoadIs e { l with again := l.again ++ [i] } c (readAgain e i false c) := by
  have hagain : readAgain e i false c = loadSet e { l with again := l.again ++ [i] } (loadSet e l c) := by
    unfold readAgain
    rw [h]
    dsimp only
    rw [modLoad_some _ h]
    refine (if_neg (by rw [hk, hp]; simpa using hi)).trans ((if_neg (by decide)).trans ((if_neg (by rw [ha]; decide)).trans ?_))
    exact (if_neg (by rw [hk]; exact Bool.false_ne_true)).trans (modLoad_some _ (tabFind_loadSet e l c))
  rw [hagain]
  exact (loadIs_loadSet e l c).trans (loadIs_loadSet e _ _)

/-! ### Reports on a shard (R277 step 5) -/

theorem shardGoodAt_new {c : Chip} {e p i : Nat} {l : Load} (h : tabFind c.ms.loads e = some l) (hg : l.good.contains (p, i) = false) :
    shardGoodAt e p i c = loadSet e { l with good := (p, i) :: l.good } c := by
  unfold shardGoodAt
  rw [modLoad_some _ h, hg]
  rfl

/-- The shards that are GOOD once a package has reported on one. -/
def goodAfter (good : Bool) (p i : Nat) (l : Load) : Load := { l with good := if good then (p, i) :: l.good else l.good }

/-- The load once every byte of an attempt of shard `i` has come. -/
def wholeAt (i : Nat) (l : Load) : Load := { l with whole := insertNat i l.whole }

/-- A receiver's own report (R279). -/
theorem reportShard_receiver {c : Chip} {e i : Nat} {l : Load} (good : Bool) (h : tabFind c.ms.loads e = some l) (hm : l.mine = false)
    (hg : l.good.contains (pkg c, i) = false) : LoadIs e (goodAfter good (pkg c) i l) c (reportShard e i good c) := by
  unfold reportShard
  rw [h]
  dsimp only
  rw [hm, shardGoodAt_new h hg]
  cases good
  · exact (LoadIs.refl h).kept (sendConfirmed_sets _ _ _)
  · exact (loadIs_loadSet e _ c).kept (sendConfirmed_sets _ _ _)

/-- The reader's own report on a good shard. -/
theorem reportShard_reader {c : Chip} {e i : Nat} {l : Load} (h : tabFind c.ms.loads e = some l) (hm : l.mine = true)
    (hg : l.good.contains (pkg c, i) = false) : reportShard e i true c = loadSet e (goodAfter true (pkg c) i l) c := by
  unfold reportShard
  rw [h]
  dsimp only
  rw [hm, shardGoodAt_new h hg]
  rfl

/-- While a shard is not GOOD here the load is not done (R277 step 6). -/
theorem reportLoadDone_open {c : Chip} {e j : Nat} {l : Load} (h : tabFind c.ms.loads e = some l) (hj : j < l.man.shards.length)
    (hg : l.good.contains (pkg c, j) = false) : reportLoadDone e c = c := by
  have hall : (List.range l.man.shards.length).all (fun i => l.good.contains (pkg c, i)) = false :=
    List.all_eq_false.mpr ⟨j, List.mem_range.mpr hj, by rw [hg]; decide⟩
  unfold reportLoadDone
  rw [h]
  dsimp only
  rw [hall]
  simp

/-! ### An attempt received (R277 step 5, R279) -/

/-- Is an attempt of shard `y` good: it came whole, its hash agrees, and the reader has marked it so. -/
def attemptGood (x : ShardRx) (y : ShardEnt) : Bool :=
  x.good && (x.bytes.take y.len.toNat).length == y.len.toNat && Config.sha256 (x.bytes.take y.len.toNat) == y.hash

/-- The package once the bytes of an attempt stand at their destination. -/
def attemptStored (l : Load) (x : ShardRx) (y : ShardEnt) (c : Chip) : Chip := putMem c (shardDest c l y) (x.bytes.take y.len.toNat)

theorem attemptStored_ms (l : Load) (x : ShardRx) (y : ShardEnt) (c : Chip) : (attemptStored l x y c).ms = c.ms := putMem_ms _ _ _

section
variable {c : Chip} {e : Nat} {l : Load} {x : ShardRx} {y : ShardEnt} (h : tabFind c.ms.loads e = some l)
  (hy : l.man.shards[x.index]? = some y) (hm : l.member = true) (hg : l.good.contains (pkg c, x.index) = false)
include h hy hm hg

theorem receiveShard_partial (hw : x.whole = false) :
    receiveShard e x c = loadSet e { l with whole := l.whole.filter (· != x.index) } (attemptStored l x y c) := by
  have hload : tabFind (attemptStored l x y c).ms.loads e = some l := by rw [attemptStored_ms]; exact h
  unfold receiveShard
  rw [h]
  dsimp only
  rw [hy]
  dsimp only
  exact (if_neg (by rw [hm, hg]; decide)).trans ((if_pos (by rw [hw]; rfl)).trans (modLoad_some _ hload))

theorem receiveShard_whole (hw : x.whole = true) : receiveShard e x c = reportLoadDone e (reportShard e x.index (attemptGood x y)
    (loadSet e (wholeAt x.index l) (attemptStored l x y c))) := by
  have hload : tabFind (attemptStored l x y c).ms.loads e = some l := by rw [attemptStored_ms]; exact h
  unfold receiveShard
  rw [h]
  dsimp only
  rw [hy]
  dsimp only
  exact (if_neg (by rw [hm, hg]; decide)).trans ((if_neg (by rw [hw]; decide)).trans
    (congrArg (fun d => reportLoadDone e (reportShard e x.index (attemptGood x y) d)) (modLoad_some _ hload)))

/-- A whole attempt at a receiver. -/
theorem receiveShard_receiver (hmine : l.mine = false) (hw : x.whole = true) : ∃ ds,
    LoadIs e { goodAfter (attemptGood x y) (pkg c) x.index (wholeAt x.index l) with done := ds }
      (attemptStored l x y c) (receiveShard e x c) := by
  have hpkg : pkg (attemptStored l x y c) = pkg c := pkg_putMem _ _ _
  have hreport := reportShard_receiver (attemptGood x y)
    (tabFind_loadSet e (wholeAt x.index l) (attemptStored l x y c)) hmine (i := x.index)
    (by rw [pkg_loadSet, hpkg]; exact hg)
  rw [pkg_loadSet, hpkg] at hreport
  obtain ⟨ds, hdone⟩ := reportLoadDone_receiver hreport.load hmine
  rw [receiveShard_whole h hy hm hg hw]
  exact ⟨ds, ((loadIs_loadSet e _ _).trans hreport).trans hdone⟩

/-- A whole good attempt at the reader, of whose load another shard is still to come. -/
theorem receiveShard_reader (hmine : l.mine = true) (hw : x.whole = true) (hgood : attemptGood x y = true) {j : Nat} (hji : j ≠ x.index)
    (hj : j < l.man.shards.length) (hgj : l.good.contains (pkg c, j) = false) :
    LoadIs e (goodAfter true (pkg c) x.index (wholeAt x.index l)) (attemptStored l x y c) (receiveShard e x c) := by
  have hpkg : pkg (attemptStored l x y c) = pkg c := pkg_putMem _ _ _
  have hreport := reportShard_reader (tabFind_loadSet e (wholeAt x.index l) (attemptStored l x y c)) hmine (i := x.index)
    (by rw [pkg_loadSet, hpkg]; exact hg)
  rw [pkg_loadSet, hpkg] at hreport
  have hopen : (goodAfter true (pkg c) x.index (wholeAt x.index l)).good.contains (pkg c, j) = false := by
    show ((pkg c, x.index) :: l.good).contains (pkg c, j) = false
    rw [List.contains_cons, hgj]
    simpa using hji
  have hdone := reportLoadDone_open (c := loadSet e (goodAfter true (pkg c) x.index (wholeAt x.index l)) (loadSet e (wholeAt x.index l)
    (attemptStored l x y c))) (tabFind_loadSet _ _ _) hj (by rw [pkg_loadSet, pkg_loadSet, hpkg]; exact hopen)
  rw [receiveShard_whole h hy hm hg hw, hgood, hreport, hdone]
  exact (loadIs_loadSet e _ _).trans (loadIs_loadSet e _ _)

end

/-! ### A read that ends at the reader alone (R277 step 4, R279) -/

theorem countReads_sets (a n : Nat) (c : Chip) : SetsKept c (countReads a n c) := by
  unfold countReads
  split <;> exact ⟨rfl, rfl, rfl, rfl, fun _ _ _ => rfl, fun _ => rfl⟩

theorem countReads_flash (a n : Nat) (c : Chip) : (countReads a n c).flash.bytes = c.flash.bytes ∧
    (countReads a n c).flash.unreadable = c.flash.unreadable := by
  unfold countReads
  split <;> exact ⟨rfl, rfl⟩

/-- A plain shard that the flash can read and whose hash agrees is read whole. -/
theorem readShard_plain {c : Chip} {l : Load} {i : Nat} {y : ShardEnt} (hf : y.form = 1)
    (hbad : flashBad c (pkg c * 2 ^ 44 + l.base + y.flashOff.toNat) y.len.toNat = false)
    (hhash : Config.sha256 (flashBytes c (pkg c * 2 ^ 44 + l.base + y.flashOff.toNat) y.len.toNat) = y.hash) :
    ∃ d, readShard l i y c = (flashBytes c (pkg c * 2 ^ 44 + l.base + y.flashOff.toNat) y.len.toNat, true, d) ∧ SetsKept c d := by
  unfold readShard
  generalize pkg c * 2 ^ 44 + l.base + y.flashOff.toNat = a at *
  obtain ⟨hbytes, hunread⟩ := countReads_flash a y.len.toNat c
  have hread : flashBytes (countReads a y.len.toNat c) a y.len.toNat = flashBytes c a y.len.toNat := by
    unfold flashBytes; rw [hbytes]
  have hok : flashBad (countReads a y.len.toNat c) a y.len.toNat = false := by
    rw [← hbad]; unfold flashBad; rw [hunread]
  refine ⟨countReads a y.len.toNat c, ?_, countReads_sets a y.len.toNat c⟩
  dsimp only
  rw [hread, hok, if_neg (by decide), if_pos hf, hhash, beq_self_eq_true]

theorem castShard_none (loc : Nat) (bs : List Byte) (c : Chip) : castShard [] loc bs c = c :=
  foldl_keeps (I := fun d => d = c) (pieces 256 loc bs.length) (fun _ _ _ hd => hd) rfl

theorem sendMsg_none (tag : Nat) (x : HubMsg) (c : Chip) : sendMsg [] tag x c = c := rfl

/-- A reader whose load has no other receiver sends a shard to none. -/
theorem shardFor_alone {c : Chip} {l : Load} (i : Nat) (h : l.peers = [pkg c]) : shardFor c l i = [] := by
  unfold shardFor
  rw [h]
  simp

theorem takeTag_congr {c d : Chip} (h : d.fab = c.fab) : (takeTag d).1 = (takeTag c).1 := by
  unfold takeTag
  rw [h]

theorem shardDest_congr {c d : Chip} {l k : Load} {y : ShardEnt} (hp : pkg d = pkg c) (hb : k.bias = l.bias) :
    shardDest d k y = shardDest c l y := by
  unfold shardDest sys
  rw [hp, hb]

/-- The load once the shard in hand has been read well. -/
def handRead (i : Nat) (l : Load) : Load := { l with hand := none, bad := l.bad.filter (· != i) }

/-- The read in hand ends well at a reader that is the only receiver: the shard is received here, and the next read begins. -/
theorem shardRead_alone {c d : Chip} {e i : Nat} {l k : Load} {y : ShardEnt} {bs : List Byte} (h : tabFind c.ms.loads e = some l)
    (hm : l.mine = true) (hh : l.hand = some i) (hy : l.man.shards[i]? = some y) (hp : l.peers = [pkg c])
    (hread : readShard l i y c = (bs, true, d)) (hd : SetsKept c d)
    (hk : tabFind (receiveShard e { index := i, bytes := bs, whole := true, good := true } (loadSet e (handRead i l) d)).ms.loads e = some k)
    (hnone : k.hand = none) :
    shardRead e c = beginShard e (receiveShard e { index := i, bytes := bs, whole := true, good := true } (loadSet e (handRead i l) d)) := by
  have hload : tabFind d.ms.loads e = some l := by rw [hd.ms]; exact h
  have hnobody : shardFor (loadSet e (handRead i l) d) l i = [] := shardFor_alone i (by rw [pkg_loadSet, hd.pkg]; exact hp)
  have hhand : modLoad e (fun l => { l with hand := none, bad := l.bad.filter (· != i) }) d = loadSet e (handRead i l) d := modLoad_some _ hload
  unfold shardRead
  -- With the read a variable of an existential, the kernel evaluates none of its arithmetic.
  obtain ⟨read, hr⟩ : ∃ read, read = readShard := ⟨_, rfl⟩
  rw [← hr] at hread ⊢
  simp only [h, hm, hh, hy, hread, hhand, hnobody, castShard_none, sendMsg_none, hk, hnone, Bool.true_or, Bool.not_true,
    Bool.false_eq_true, if_false, if_true, Option.isNone_none]

/-! ### The clauses of the statement -/

section
variable {s : State} {e : Fin 16} {l : Load} (h : tabFind s.chip.ms.loads e.val = some l)
include h

theorem exec_shardReadDone (h1 : l.atStep1 = false) : exec (.shardReadDone e) s = .next (s.withChip (shardRead e.val s.chip)) := by
  show execShardReadDone e s = _
  unfold execShardReadDone
  rw [onChip_eq, h]
  exact congrArg (fun c => Host.Outcome.next (s.withChip c)) (if_neg (by rw [h1]; decide))

theorem exec_shardAnnounce (x : ShardRx) (hm : l.mine = false) :
    exec (.shardAnnounce e x) s = .next (s.withChip (receiveShard e.val x s.chip)) := by
  show execShardAnnounce e x s = _
  unfold execShardAnnounce
  rw [onChip_eq, h]
  exact congrArg (fun c => Host.Outcome.next (s.withChip c)) (if_neg (by rw [hm]; decide))

end

theorem readerServesShards : ReaderServesShards := by
  intro s e l hl hmine h1
  refine ⟨?read, ?good, ?bad, ?request⟩
  case read =>
    intro i j x hh hx hform hm hp ha hpaused hn hr hg hji hj hgj hbad hhash
    obtain ⟨d, hread, hd⟩ := readShard_plain (i := i) hform hbad hhash
    have hbytes : (flashBytes s.chip (pkg s.chip * 2 ^ 44 + l.base + x.flashOff.toNat) x.len.toNat).length = x.len.toNat := memReadN_length _ _ _
    generalize flashBytes s.chip (pkg s.chip * 2 ^ 44 + l.base + x.flashOff.toNat) x.len.toNat = bs at *
    have hgood : attemptGood { index := i, bytes := bs, whole := true, good := true } x = true := by
      unfold attemptGood
      dsimp only
      rw [List.take_of_length_le hbytes.le, hbytes, hhash]
      simp
    have hgone : ∀ n, l.good.contains (pkg (loadSet e.val (handRead i l) d), n) = l.good.contains (pkg s.chip, n) :=
      fun n => by rw [pkg_loadSet, hd.pkg]
    have hrecv := receiveShard_reader (c := loadSet e.val (handRead i l) d)
      (x := { index := i, bytes := bs, whole := true, good := true }) (tabFind_loadSet _ _ _) hx hm
      ((hgone i).trans hg) hmine rfl hgood hji hj ((hgone j).trans hgj)
    rw [pkg_loadSet, hd.pkg] at hrecv
    have hnext := beginShard_next hrecv.load hpaused ha hn hr
    rw [← shardRead_alone hl hmine hh hx hp hread hd hrecv.load rfl] at hnext
    refine ⟨_, _, exec_shardReadDone hl h1, sameRest_withChip s _, ?_, hnext.load, rfl, rfl, rfl⟩
    refine (hnext.mem.trans (hrecv.mem.trans (putMem_mem _ _ _))).trans ?_
    rw [List.take_of_length_le hbytes.le]
    exact congrArg₂ (fun m loc => memWriteN m loc bs) hd.mem (shardDest_congr ((pkg_loadSet _ _ _).trans hd.pkg) rfl)
  case good =>
    intro p tag i hfirst hg
    obtain ⟨d, hx, hd, -⟩ := exec_sent (i := .shardGood e ⟨p, tag⟩ i) rfl hfirst
    have hload : tabFind d.ms.loads e.val = some l := by rw [hd.ms]; exact hl
    rw [atReader_mine _ hload hmine h1, shardGoodAt_new hload hg] at hx
    exact ⟨_, hx, sameRest_withChip s _, hd.mem, tabFind_loadSet _ _ d⟩
  case bad =>
    rintro p tag i k n hfirst hp hh hki rfl hn
    obtain ⟨d, hx, hd, hregs⟩ := exec_sent (i := .shardBad e ⟨p, tag⟩ i) rfl hfirst
    have hload : tabFind d.ms.loads e.val = some l := by rw [hd.ms]; exact hl
    obtain ⟨hread, hctr⟩ := readAgain_corrupt hload hp (by rw [hh]; simpa using hki) hn
    rw [atReader_mine _ hload hmine h1] at hx
    refine ⟨_, hx, sameRest_withChip s _, hread.mem.trans hd.mem, ?_, fun h0 => ?_⟩
    · refine hread.load.trans ?_
      simp only [readBegun, hh]
      rfl
    · rw [withChip_chip, hctr h0, hregs _ (.inl (by decide))]
  case request =>
    intro p tag i k hfirst ha hp hh hki
    obtain ⟨d, hx, hd, -⟩ := exec_sent (i := .shardRequest e ⟨p, tag⟩ i) rfl hfirst
    have hload : tabFind d.ms.loads e.val = some l := by rw [hd.ms]; exact hl
    have hread := readAgain_missing hload ha hp hh hki
    rw [atReader_mine _ hload hmine h1] at hx
    exact ⟨_, hx, sameRest_withChip s _, hread.mem.trans hd.mem, hread.load⟩

theorem receiverTakesShards : ReceiverTakesShards := by
  intro s e l hl hmine hm
  refine ⟨?announce, ?missing⟩
  case announce =>
    intro x y hy hg
    have hexec := exec_shardAnnounce hl x hmine
    cases hw : x.whole with
    | false =>
      have hpart := receiveShard_partial hl hy hm hg hw
      refine ⟨_, { l with whole := l.whole.filter (· != x.index) }, hexec, sameRest_withChip s _, ?_, ?_, fun _ => rfl, nofun, ?_⟩
      · rw [withChip_chip, hpart]; exact putMem_mem _ _ _
      · rw [withChip_chip, hpart]; exact tabFind_loadSet _ _ _
      · rw [show l.good.contains (pkg s.chip, x.index) = false from hg]; simp
    | true =>
      obtain ⟨ds, hrecv⟩ := receiveShard_receiver hl hy hm hg hmine hw
      refine ⟨_, _, hexec, sameRest_withChip s _, hrecv.mem.trans (putMem_mem _ _ _), hrecv.load, nofun, fun _ => rfl, ?_⟩
      show (if attemptGood x y then (pkg s.chip, x.index) :: l.good else l.good).contains (pkg s.chip, x.index) = true ↔ _
      have hiff : attemptGood x y = true ↔ x.good = true ∧ (x.bytes.take y.len.toNat).length = y.len.toNat ∧
          Config.sha256 (x.bytes.take y.len.toNat) = y.hash := by
        unfold attemptGood
        rw [Bool.and_eq_true, Bool.and_eq_true, beq_iff_eq, beq_iff_eq, and_assoc]
      rw [← hiff]
      cases attemptGood x y
      · rw [if_neg Bool.false_ne_true, hg]; simp
      · simp
  case missing =>
    intro i hw hi hf hp
    have hbump := bump_sets s.chip 1 (by decide)
    have hask : askShard e.val i s.chip = sendConfirmed [l.reader.toNat] (.shardReq e.val i) (bump s.chip (rMsCtr 1)) := by
      unfold askShard
      rw [hl]
      exact if_neg (by rw [hmine, hm, hw]; simpa using hi)
    have hleft : [l.reader.toNat].filter (fun p => !fenced (bump s.chip (rMsCtr 1)) p && decide (p ≠ pkg (bump s.chip (rMsCtr 1)))) =
        [l.reader.toNat] := by
      rw [hbump.pkg, List.filter_singleton, hbump.fenced, hf]
      simp [hp]
    have hsent := sendConfirmed_sets [l.reader.toNat] (.shardReq e.val i) (bump s.chip (rMsCtr 1))
    obtain ⟨ls, hfab⟩ := sendConfirmed_left (.shardReq e.val i) hleft (List.cons_ne_nil _ _)
    rw [← hask] at hsent hfab
    refine ⟨_, onChip_of rfl, sameRest_withChip s _, hsent.mem.trans hbump.mem, hsent.ms.trans hbump.ms, ?_, ?_⟩
    · rw [withChip_chip, hask, sendConfirmed_regs _ _ _ _ (.inl (by decide))]
      exact getReg_bump_self s.chip (rMsCtr 1) 1
    · rw [withChip_chip, hfab, bump_fab]
      rw [takeTag_congr (bump_fab _ _ _), List.map_singleton, BitVec.ofNat_toNat, BitVec.setWidth_eq]

/-- Settles O33: each message of a shard changes one load of the table, and the bytes of an attempt stand at their destination. -/
theorem shardsTravel : Obligations.ShardsTravel := ⟨readerServesShards, receiverTakesShards⟩

end Sys2Proof.Machine
end

section
/-! PROOFS. Adapter switches (R294, R295). -/

namespace Sys2Proof.Machine

/-! ### The command (R294) -/

/-- The switch that a command block asks for. -/
def switchOf (x : Block) : Switch :=
  { block := x.addr, job := x.job, adapter := x.f 3 32 7, tick := x.f 3 0 32, basins := x.f 4 0 32,
    entry := [x.w.getD 8 0, x.w.getD 9 0, x.w.getD 10 0, x.w.getD 11 0] }

theorem switchAdapter_allowed {x : Block} {c : Chip} (hjob : fld (x.w.getD 10 0) 0 16 = x.job) (hb : x.f 4 0 32 ≠ 0)
    (hdir : ∀ n, n < 32 → bit (x.f 4 0 32) n = true → bit (getReg c (rCxAdir n)) 17 = true)
    (hfree : ∀ w ∈ c.ms.switches, w.job ≠ x.job ∨ w.adapter ≠ x.f 3 32 7) (ht : tickBefore (tickOf c) (x.f 3 0 32) = true) :
    switchAdapter x c = { c with ms := { c.ms with switches := c.ms.switches ++ [switchOf x] } } := by
  have hcmd : ¬ (fld (x.w.getD 10 0) 0 16 ≠ x.job ∨ x.f 4 0 32 = 0) := not_or.mpr ⟨not_not.mpr hjob, hb⟩
  have hnoDir : (List.range 32).any (fun n => bit (x.f 4 0 32) n && !bit (getReg c (rCxAdir n)) 17) = false :=
    List.any_eq_false.mpr fun n hn => by
      cases hbit : bit (x.f 4 0 32) n
      · simp
      · simp [hdir n (List.mem_range.mp hn) hbit]
  have hnoTwin : c.ms.switches.any (fun w => w.job == x.job && w.adapter == x.f 3 32 7) = false :=
    List.any_eq_false.mpr fun w hw => by simpa using (hfree w hw).resolve_left ∘ not_not.mpr
  unfold switchAdapter
  refine (if_neg hcmd).trans ((if_neg ?_).trans ((if_neg ?_).trans rfl))
  · rw [hnoDir, hnoTwin]; decide
  · rw [ht]; decide

/-! ### The entries of a switch (R295) -/

/-- The memory has been written, and neither registers nor model sets have changed. -/
structure MemWritten (c d : Chip) (m : Memory) : Prop where
  mem : d.mem = m
  pkg : pkg d = pkg c
  regs : d.regs = c.regs
  ms : d.ms = c.ms

theorem memWritten_refl (c : Chip) : MemWritten c c c.mem := ⟨rfl, rfl, rfl, rfl⟩

theorem MemWritten.putMem {c d : Chip} {m : Memory} (h : MemWritten c d m) (a : Nat) (bs : List Byte) :
    MemWritten c (putMem d a bs) (memWriteN m a bs) :=
  ⟨(putMem_mem _ _ _).trans (congrArg (fun m => memWriteN m a bs) h.mem), (pkg_putMem _ _ _).trans h.pkg, (putMem_regs _ _ _).trans h.regs,
    (putMem_ms _ _ _).trans h.ms⟩

/-- Where a switch's entry stands in a basin. -/
def entryAt (c : Chip) (w : Switch) (b : Fin 32) : Nat := sram c b (getF c (rCxAdir b.val) 0 17 * 64 + 32 * (w.adapter - 1))

theorem MemWritten.entryAt {c d : Chip} {m : Memory} (h : MemWritten c d m) (w : Switch) (b : Fin 32) : entryAt d w b = entryAt c w b := by
  unfold Machine.entryAt sram sys getF getReg
  rw [h.pkg, h.regs]

theorem writeSwitch_answered {c : Chip} {w : Switch} (hp : pkgOf (w.block + 120) = pkg c) :
    (writeSwitch c w).mem = commandAnswer ((List.finRange 32).foldl (fun m b => if bit w.basins b.val then
      memWriteN m (entryAt c w b) (w.entry.flatMap (leBytes 8)) else m) c.mem) w.block 0 ∧ (writeSwitch c w).ms = c.ms := by
  have hwritten : MemWritten c ((List.finRange 32).foldl (fun c b =>
      if bit w.basins b.val then Machine.putMem c (entryAt c w b) (w.entry.flatMap (leBytes 8)) else c) c) ((List.finRange 32).foldl (fun m b =>
        if bit w.basins b.val then memWriteN m (entryAt c w b) (w.entry.flatMap (leBytes 8)) else m) c.mem) :=
    List.foldl_rel (r := MemWritten c) (memWritten_refl c) fun b _ d m h => by
      split
      · rw [h.entryAt]; exact h.putMem _ _
      · exact h
  have hdone := finishCmd_answered (addr := w.block) (code := 0) (hp.trans hwritten.pkg.symm) (by decide)
  exact ⟨hdone.mem.trans (congrArg (fun m => commandAnswer m w.block 0) hwritten.mem), hdone.ms.trans hwritten.ms⟩

/-- A switch that is due and that shares its job and tick with no other. -/
theorem applySwitch_due {c : Chip} {i : Nat} {w : Switch} (hw : c.ms.switches[i]? = some w) (ht : tickLe w.tick (tickOf c) = true)
    (hitems : itemsBefore c w.job w.tick = 0) (hguests : guestsBefore c w.job w.tick = 0)
    (hone : c.ms.switches.filter (fun y => y.job == w.job && y.tick == w.tick) = [w]) :
    applySwitch i c = writeSwitch { c with ms := { c.ms with
      switches := c.ms.switches.filter (fun y => !(y.job == w.job && y.tick == w.tick)) } } w := by
  unfold applySwitch
  rw [hw]
  refine (if_neg (by rw [ht, hitems, hguests]; decide)).trans ?_
  dsimp only
  rw [hone]
  rfl

/-- Settles O36: what the command leaves waiting, and what the write of one switch leaves. -/
theorem adapterSwitches : Obligations.AdapterSwitches := by
  refine ⟨?command, ?apply⟩
  case command =>
    intro s x rest h hjob hb hdir hfree ht
    have hexec := exec_oldestCommand h (by decide) (i := .adapterSwitch) (act := switchAdapter) rfl
    have hreg : ∀ off, off ≠ rMsStatus → getReg (commandLeft s.chip rest) off = getReg s.chip off := fun _ => getReg_commandLeft _ _
    rw [switchAdapter_allowed (c := commandLeft s.chip rest) hjob hb
      (fun n hn hbit => by rw [hreg _ (by unfold rCxAdir rMsStatus; omega)]; exact hdir n hn hbit) hfree
      (by unfold tickOf at ht ⊢; rw [hreg _ (by decide)]; exact ht)] at hexec
    exact ⟨_, switchOf x, hexec, commandTaken_of rfl rfl, rfl, rfl, rfl, rfl, rfl, rfl, rfl, rfl⟩
  case apply =>
    intro s i w hw hp ht hitems hguests hone
    obtain ⟨hmem, hms⟩ := writeSwitch_answered (c := { s.chip with ms := { s.chip.ms with
      switches := s.chip.ms.switches.filter (fun y => !(y.job == w.job && y.tick == w.tick)) } }) hp
    rw [← applySwitch_due hw ht hitems hguests hone] at hmem hms
    exact ⟨_, onChip_of rfl, sameRest_withChip s _, hmem, congrArg Ms.switches hms⟩

end Sys2Proof.Machine
end

section
/-! PROOFS. Replacements (R283, R285 to R287, R290, R291). -/

namespace Sys2Proof.Machine

/-! ### One replacement of the table of replacements -/

/-- The package with one replacement set. -/
def replSet (e : Nat) (r : Repl) (c : Chip) : Chip := { c with ms := { c.ms with repls := tabSet c.ms.repls e r } }

theorem modRepl_some {c : Chip} {e : Nat} {r : Repl} (f : Repl → Repl) (h : tabFind c.ms.repls e = some r) :
    modRepl e f c = replSet e (f r) c := by
  unfold modRepl
  rw [h]
  rfl

theorem tabFind_replSet (e : Nat) (r : Repl) (c : Chip) : tabFind (replSet e r c).ms.repls e = some r := tabFind_tabSet_self _ _ _

/-! ### REPLACE (R283) -/

/-- The replacement that a command block asks for. -/
def replOf (x : Block) (m : Manifest) (bias : Nat) : Repl :=
  { block := x.addr, peers := x.peers, man := m, bias := bias, layers := m.layers.map (·.seq.toNat) }

/-- The package once a replacement has been accepted. -/
def replaceBegun (x : Block) (m : Manifest) (bias : Nat) (c : Chip) : Chip :=
  putReg (putReg (putF (replSet x.set (replOf x m bias) c) (rSet x.set 0) 0 3 3) (rSet x.set 2)
    (m.firstSeq.toNat + m.lastSeq.toNat * 65536)) (rSet x.set 3) (x.f 3 0 32)

section
variable {x : Block} {c : Chip} {m cur : Manifest} {bias : Nat} (hs : setState c x.set = 2) (ht : setStage c x.set = 2)
  (hm : tabFind c.ms.staged x.set = some (m, bias)) (hc : tabFind c.ms.current x.set = some cur) (hk : m.kind.toNat ≤ 1)
  (hu : m.setUid = cur.setUid) (hp : x.peers.contains (pkg c) = true)
include hs ht hm hc hk hu hp

/-- REPLACE of a set that may be replaced is accepted where its tick is ahead, and refused with MS_LATE where it is not. -/
theorem replaceSet_allowed : replaceSet x c =
    if tickBefore (tickOf c) (x.f 3 0 32) then replaceBegun x m bias c else finishCmd x.addr eMsLate 0 c := by
  have hallowed : ¬ (1 < m.kind.toNat ∨ m.setUid ≠ cur.setUid ∨ (!x.peers.contains (pkg c)) = true) := by
    simpa [hu, hk] using hp
  unfold replaceSet
  dsimp only
  rw [hs, ht, hm, hc]
  refine (if_neg hallowed).trans ?_
  cases tickBefore (tickOf c) (x.f 3 0 32) <;> rfl

end

section
variable (x : Block) (m : Manifest) (bias : Nat) (c : Chip)

theorem replaceBegun_mem : (replaceBegun x m bias c).mem = c.mem := rfl

theorem replaceBegun_repls : tabFind (replaceBegun x m bias c).ms.repls x.set = some (replOf x m bias) := tabFind_tabSet_self _ _ _

theorem getReg_replaceBegun {off : Nat} (h : ∀ k, k < 4 → off ≠ rSet x.set k) : getReg (replaceBegun x m bias c) off = getReg c off :=
  (getReg_putReg_ne _ _ (h 3 (by decide))).trans ((getReg_putReg_ne _ _ (h 2 (by decide))).trans (getReg_putF_ne _ _ _ _ (h 0 (by decide))))

theorem setState_replaceBegun : setState (replaceBegun x m bias c) x.set = 3 := by
  have hreg : getReg (replaceBegun x m bias c) (rSet x.set 0) =
      getReg (putF (replSet x.set (replOf x m bias) c) (rSet x.set 0) 0 3 3) (rSet x.set 0) :=
    (getReg_putReg_ne _ _ (by unfold rSet; omega)).trans (getReg_putReg_ne _ _ (by unfold rSet; omega))
  exact (getF_congr _ _ hreg).trans (getF_putF_self _ (by decide))

theorem armTick_replaceBegun : armTick (replaceBegun x m bias c) x.set = x.f 3 0 32 :=
  (getReg_putReg_self _ _ _).trans (Nat.mod_eq_of_lt (fld_lt _ 0 32))

/-- The range of the replaced layers. -/
theorem range_replaceBegun : firstSeq (replaceBegun x m bias c) x.set = m.firstSeq.toNat ∧
    lastSeq (replaceBegun x m bias c) x.set = m.lastSeq.toNat := by
  have hf : m.firstSeq.toNat < 65536 := m.firstSeq.isLt
  have hl : m.lastSeq.toNat < 65536 := m.lastSeq.isLt
  have hreg : getReg (replaceBegun x m bias c) (rSet x.set 2) = m.firstSeq.toNat + m.lastSeq.toNat * 65536 :=
    (getReg_putReg_ne _ _ (by unfold rSet; omega)).trans ((getReg_putReg_self _ _ _).trans (Nat.mod_eq_of_lt (by omega)))
  constructor
  · unfold firstSeq getF fld
    rw [hreg]
    omega
  · unfold lastSeq getF fld
    rw [hreg]
    omega

end

/-! ### The end of a replacement (R287, R291) -/

/-- A command is answered once the barrier has been looked at again. -/
structure HeldAnswered (addr code : Nat) (c d : Chip) : Prop where
  mem : d.mem = commandAnswer c.mem addr code
  ms : ∃ hs, d.ms = { c.ms with heldSince := hs }
  pkg : pkg d = pkg c
  regs : TableRegs c d
  pending : getF d rMsStatus 0 9 = getF c rMsStatus 0 9

theorem finishCmd_refreshHeld {addr code : Nat} {c : Chip} (hn : NoRunAhead c) (hp : pkgOf (addr + 120) = pkg c) (hc : code < 65536) :
    HeldAnswered addr code c (finishCmd addr code 0 (refreshHeld c)) := by
  have hheld := refreshHeld_counted hn
  have hans := finishCmd_answered (hp.trans hheld.pkg.symm) hc
  obtain ⟨hs, hms⟩ := hheld.ms
  exact ⟨hans.mem.trans (congrArg (fun m => commandAnswer m addr code) hheld.mem), ⟨hs, hans.ms.trans hms⟩, hans.pkg.trans hheld.pkg,
    hheld.tableRegs.trans hans.regs, hans.pending.trans hheld.pending⟩

/-- The set table and the tables of model sets once a replacement has succeeded. -/
def replacedSet (e : Nat) (r : Repl) (c : Chip) : Chip :=
  putF (putF (putF { c with ms := { c.ms with repls := tabDel c.ms.repls e, staged := tabDel c.ms.staged e, current := tabSet c.ms.current e r.man } }
    (rSet e 0) 16 16 (getF c (rSet e 1) 0 16)) (rSet e 0) 3 2 0) (rSet e 0) 0 3 2

section
variable (e : Nat) (r : Repl) (c : Chip)

theorem setState_replacedSet : setState (replacedSet e r c) e = 2 := getF_putF_self _ (by decide)

theorem setStage_replacedSet : setStage (replacedSet e r c) e = 0 :=
  (getF_putF_ne _ _ (.inr (by decide)) (by decide)).trans (getF_putF_self _ (by decide))

theorem epoch_replacedSet : getF (replacedSet e r c) (rSet e 0) 16 16 = getF c (rSet e 1) 0 16 :=
  (getF_putF_ne _ _ (.inr (by decide)) (by decide)).trans ((getF_putF_ne _ _ (.inr (by decide)) (by decide)).trans
    ((getF_putF_self _ (by decide)).trans (Nat.mod_eq_of_lt (fld_lt _ 0 16))))

end

/-- A replacement has succeeded: its set is READY with the new epoch, and its command is answered. -/
structure Replaced (e : Nat) (r : Repl) (c d : Chip) : Prop where
  mem : d.mem = commandAnswer c.mem r.block 0
  state : setState d e = 2
  stage : setStage d e = 0
  epoch : getF d (rSet e 0) 16 16 = getF c (rSet e 1) 0 16
  repls : d.ms.repls = tabDel c.ms.repls e
  current : tabFind d.ms.current e = some r.man

theorem releaseRepl_replaced {c : Chip} {e : Nat} {r : Repl} (h : tabFind c.ms.repls e = some r) (he : e < 16)
    (hp : pkgOf (r.block + 120) = pkg c) (hn : NoRunAhead c) : Replaced e r c (releaseRepl e c) := by
  have hend := finishCmd_refreshHeld (addr := r.block) (code := 0) (c := replacedSet e r c) (noRunAhead_of_basins hn rfl) hp (by decide)
  have hrel : releaseRepl e c = finishCmd r.block 0 0 (refreshHeld (replacedSet e r c)) := by
    unfold releaseRepl
    rw [h]
    rfl
  rw [← hrel] at hend
  obtain ⟨hs, hms⟩ := hend.ms
  exact ⟨hend.mem, (hend.regs.setState he).trans (setState_replacedSet e r c), (hend.regs.setStage he).trans (setStage_replacedSet e r c),
    (getF_congr _ _ (hend.regs.entry he (by decide))).trans (epoch_replacedSet e r c), by rw [hms]; rfl,
    by rw [hms]; exact tabFind_tabSet_self _ _ _⟩

/-- The package once a replacement has been given up of which nothing was copied. -/
def replaceDropped (e : Nat) (c : Chip) : Chip := putF { c with ms := { c.ms with repls := tabDel c.ms.repls e } } (rSet e 0) 0 3 2

theorem stopRepl_idle {c : Chip} {e code : Nat} {r : Repl} (h : tabFind c.ms.repls e = some r) (hc : r.copying = none) (hb : r.begun = false) :
    stopRepl e code c = finishCmd r.block code 0 (refreshHeld (replaceDropped e c)) := by
  have hend : endRepl e code c = finishCmd r.block code 0 (refreshHeld (replaceDropped e c)) := by
    unfold endRepl
    rw [h]
    dsimp only
    rw [hb]
    rfl
  unfold stopRepl
  rw [h]
  dsimp only
  rw [hc]
  exact hend

theorem exec_abort_idle {s : State} {x : Block} {rest : List Block} {r : Repl} (h : OldestCommand s 3 x rest)
    (hl : tabFind s.chip.ms.loads x.set = none) (hr : tabFind s.chip.ms.repls x.set = some r) (hc : r.copying = none) (hb : r.begun = false)
    (hp : pkgOf (r.block + 120) = pkg s.chip) (hn : NoRunAhead s.chip) : ∃ t, exec .abort s = .next t ∧ CommandTaken s t rest ∧
      t.chip.mem = commandAnswer (commandAnswer s.chip.mem r.block 0x0A07) x.addr 0 ∧ setState t.chip x.set = 2 ∧
      t.chip.ms.repls = tabDel s.chip.ms.repls x.set ∧ t.chip.ms.staged = s.chip.ms.staged := by
  have hx := exec_oldestCommand h (by decide) (show exec .abort s = acceptMsChip 3 abortSet s from rfl)
  have habort : abortSet x (commandLeft s.chip rest) = finishCmd x.addr 0 0 (stopRepl x.set eReplFail (commandLeft s.chip rest)) :=
    (if_neg (by rw [show (commandLeft s.chip rest).ms.loads = s.chip.ms.loads from rfl, hl]; decide)).trans
      (if_pos (by rw [show (commandLeft s.chip rest).ms.repls = s.chip.ms.repls from rfl, hr]; rfl))
  have hstop := stopRepl_idle (c := commandLeft s.chip rest) (code := eReplFail) hr hc hb
  have hend := finishCmd_refreshHeld (addr := r.block) (code := eReplFail) (c := replaceDropped x.set (commandLeft s.chip rest))
    (noRunAhead_of_basins hn rfl) hp (by decide)
  rw [← hstop] at hend
  have hans := finishCmd_answered (addr := x.addr) (code := 0) ((own_of_oldest h).trans hend.pkg.symm) (by decide)
  rw [← habort] at hans
  obtain ⟨hs, hms⟩ := hend.ms
  refine ⟨_, hx, commandTaken_of ?_ ?_, hans.mem.trans (congrArg (fun m => commandAnswer m x.addr 0) hend.mem), ?_, ?_, ?_⟩
  · rw [hans.ms, hms]; rfl
  · rw [hans.pending, hend.pending]
    exact getF_congr _ _ (getReg_putF_ne _ _ _ _ (by unfold rMsStatus rSet; omega))
  · exact ((hend.regs.trans hans.regs).setState x.set_lt).trans (getF_putF_self _ (by decide))
  · rw [withChip_chip, hans.ms, hms]; rfl
  · rw [withChip_chip, hans.ms, hms]; rfl

theorem replaceArmsAndAborts : ReplaceArmsAndAborts := by
  intro s x rest
  refine ⟨fun m cur bias h hs ht hm hc hk hu hp => ?replace, fun r h hl hr hc hb hp hn => exec_abort_idle h hl hr hc hb hp hn⟩
  case replace =>
    have hleft := tableRegs_commandLeft s.chip rest
    have hx := exec_oldestCommand h (by decide) (show exec .replace s = acceptMsChip 2 replaceSet s from rfl)
    have htick : tickOf (commandLeft s.chip rest) = tickOf s.chip := getReg_commandLeft _ _ (by decide)
    rw [replaceSet_allowed (c := commandLeft s.chip rest) ((hleft.setState x.set_lt).trans hs) ((hleft.setStage x.set_lt).trans ht) hm hc hk hu hp,
      htick] at hx
    refine ⟨fun hahead => ?_, fun hlate => ?_⟩
    · rw [if_pos hahead] at hx
      obtain ⟨hfirst, hlast⟩ := range_replaceBegun x m bias (commandLeft s.chip rest)
      have hpending : getF (replaceBegun x m bias (commandLeft s.chip rest)) rMsStatus 0 9 = getF (commandLeft s.chip rest) rMsStatus 0 9 :=
        getF_congr _ _ (getReg_replaceBegun x m bias _ fun k _ => by unfold rMsStatus rSet; omega)
      exact ⟨_, replOf x m bias, hx, commandTaken_of rfl hpending, replaceBegun_mem x m bias _, setState_replaceBegun x m bias _,
        hfirst, hlast, armTick_replaceBegun x m bias _, replaceBegun_repls x m bias _, rfl, rfl, rfl, rfl, rfl, rfl⟩
    · rw [if_neg (by rw [hlate]; decide)] at hx
      have hr := refused_of (code := eMsLate) h (by decide) (by decide)
      exact ⟨_, hx, hr.taken, hr.mem, (hr.regs.setState x.set_lt).trans hs, by rw [hr.ms]⟩

/-! ### The run of a replacement (R285, R286, R287, R290) -/

theorem armBarrier_arms {c : Chip} {e : Nat} {r : Repl} (h : tabFind c.ms.repls e = some r) (ha : r.armed = false)
    (ht : tickLe (armTick c e) (tickOf c) = true) (hk : ticking c = true) :
    armBarrier e c = refreshHeld (replSet e { r with armed := true } c) := by
  unfold armBarrier
  rw [h]
  dsimp only
  rw [if_neg (by rw [ha, ht, hk]; decide), modRepl_some _ h]

/-- Where no record lies in a layer, its copy begins with no record made ABSENT. -/
theorem layerCopy_begins {c : Chip} {e j : Nat} {r : Repl} {js : List Nat} (h : tabFind c.ms.repls e = some r) (ha : r.armed = true)
    (hc : r.copying = none) (hl : r.layers = j :: js) (hearly : earlyItems c e j = false)
    (hrecs : ∀ p ∈ c.recs, meets (layerDests c r.man j) p.2.down (p.2.len64 * 64) = false ∧
      meets (layerDests c r.man j) p.2.up (p.2.len64 * 64) = false) :
    layerCopy e c = replSet e { r with copying := some j, begun := true } c := by
  have hlower : c.recs.any (fun p => !p.2.downFlash && meets (layerDests c r.man j) p.2.down (p.2.len64 * 64) && !recQuiet p.2) = false :=
    List.any_eq_false.mpr fun p hp => by simp [(hrecs p hp).1]
  have hupper : c.recs.any (fun p => meets (layerDests c r.man j) p.2.up (p.2.len64 * 64) && p.2.state != .resident) = false :=
    List.any_eq_false.mpr fun p hp => by simp [(hrecs p hp).2]
  have hdrop : c.recs.filter (fun p => !p.2.downFlash && meets (layerDests c r.man j) p.2.down (p.2.len64 * 64) && p.2.state == .resident) = [] :=
    List.filter_eq_nil_iff.mpr fun p hp => by simp [(hrecs p hp).1]
  have hready : (r.armed && r.copying.isNone) = true := by rw [ha, hc]; rfl
  refine Eq.trans ?_ (modRepl_some (fun r => { r with copying := some j, begun := true }) h)
  unfold layerCopy
  rw [h]
  dsimp only
  rw [hready, hl]
  dsimp only
  rw [hearly, hlower, hupper, hdrop]
  exact if_neg (by decide)

/-- The package once a shard has been copied from DEST + BIAS to DEST. -/
def shardCopied (bias : Nat) (c : Chip) (x : ShardEnt) : Chip :=
  putMem c (sys c x.dest.toNat) (memReadN c.mem (sys c (x.dest.toNat + bias)) x.len.toNat)

/-- The bytes of a layer move where no word has an error and the new bytes lie in this package. -/
theorem copyLayer_ok {c : Chip} {m : Manifest} {bias j : Nat} (he : c.ecc = [])
    (hp : ∀ x ∈ layerShards m j, pkgOf (sys c (x.dest.toNat + bias)) = pkg c) :
    copyLayer m bias j c = .ok () ((layerShards m j).foldl (shardCopied bias) c) := by
  refine (forM_foldl (I := fun d => d.ecc = [] ∧ pkg d = pkg c) (layerShards m j) (fun d x hx hd => ?_) ⟨he, rfl⟩).1
  obtain ⟨hecc, hpkg⟩ := hd
  have hown : pkgOf (sys d (x.dest.toNat + bias)) = pkg d := by
    have hx := hp x hx
    unfold sys at hx ⊢
    rw [hpkg]
    exact hx
  refine ⟨?_, putMem_clean_ecc hecc _ _, (pkg_putMem _ _ _).trans hpkg⟩
  rw [bind_ok (get_ok d), bind_ok (readMem_clean 0x38 _ _ d hecc hown)]
  exact writeMem_ok _ _ _

theorem shardsCopied_memWritten (c : Chip) (bias : Nat) (xs : List ShardEnt) :
    MemWritten c (xs.foldl (shardCopied bias) c) (xs.foldl (fun m x =>
      memWriteN m (sys c x.dest.toNat) (memReadN m (sys c (x.dest.toNat + bias)) x.len.toNat)) c.mem) :=
  List.foldl_rel (r := MemWritten c) (memWritten_refl c) fun x _ d m h => by
    have hsys : ∀ a, sys d a = sys c a := fun a => by unfold sys; rw [h.pkg]
    unfold shardCopied
    rw [hsys, hsys, h.mem]
    exact h.putMem _ _

/-- A layer is done, and it is not the last. -/
theorem layerDone_more {c d : Chip} {e j : Nat} {r : Repl} (h : tabFind c.ms.repls e = some r) (hc : r.copying = some j)
    (hl : 1 < r.layers.length) (hd : copyLayer r.man r.bias j c = .ok () d) (hms : d.ms = c.ms) :
    layerDone e c = replSet e { r with copying := none, layers := r.layers.drop 1 } d := by
  have hrun : runEff (copyLayer r.man r.bias j) c = (d, .ok ()) := (runEff_eq_ok _ _ _ _).mpr hd
  unfold layerDone
  rw [h]
  dsimp only
  rw [hc]
  dsimp only
  rw [hrun]
  dsimp only
  rw [if_neg (by omega)]
  exact modRepl_some _ (by rw [hms]; exact h)

/-- The replacement once package `p` has reported that its layers are done. -/
def doneNoted (p : Nat) (r : Repl) : Repl := { r with dones := insertNat p r.dones }

/-- The coordinator's last report releases the others, and ends the replacement here. -/
theorem replDoneAt_last {c : Chip} {e p : Nat} {r : Repl} (h : tabFind c.ms.repls e = some r) (hco : coordinator c r = some (pkg c))
    (hall : ∀ q ∈ r.peers, fenced c q = true ∨ q = p ∨ q ∈ r.dones) :
    replDoneAt e p c = releaseRepl e (sendConfirmed r.peers (.replRelease e) (replSet e (doneNoted p r) c)) := by
  have hdone : r.peers.all (fun q => fenced c q || (insertNat p r.dones).contains q) = true := List.all_eq_true.mpr fun q hq => by
    rw [Bool.or_eq_true, List.contains_iff_mem]
    rcases hall q hq with hf | rfl | hd
    · exact .inl hf
    · exact .inr (mem_insertNat _ _)
    · exact .inr (mem_insertNat_of_mem hd)
  unfold replDoneAt
  rw [modRepl_some _ h]
  dsimp only
  rw [tabFind_replSet]
  refine if_pos ?_
  rw [Bool.and_eq_true]
  exact ⟨decide_eq_true hco, hdone⟩

theorem replStuck_reports {c : Chip} {e : Fin 16} {r : Repl} (h : tabFind c.ms.repls e.val = some r) (ha : r.armed = true) (hs : r.stuck = false) :
    (replStuck (.set e) c).mem = c.mem ∧ bit (getReg (replStuck (.set e) c) rStatus) 5 = true ∧
      getReg (replStuck (.set e) c) rErrLast = 0x0A06 + 65536 ∧
      tabFind (replStuck (.set e) c).ms.repls e.val = some { r with stuck := true } := by
  have hrep : replStuck (.set e) c = setStatus 5 (report
      { code := eReplStuck, sev := sevOf eReplStuck, src := 0x24, tag := e.val, arg := r.layers.headD 0 }
      (replSet e.val { r with stuck := true } c)) := by
    unfold replStuck
    dsimp only
    rw [h]
    dsimp only
    rw [if_neg (by rw [ha, hs]; decide), modRepl_some _ h]
  rw [hrep]
  generalize hr : Report.mk _ _ _ _ _ _ _ _ _ _ _ _ = x
  obtain ⟨rg, rc, hx⟩ := report_eq x (replSet e.val { r with stuck := true } c)
  refine ⟨by rw [hx]; rfl, bit_putF_one _ _ (by decide), ?_, by rw [hx]; exact tabFind_replSet _ _ _⟩
  refine (getReg_putF_ne _ _ _ _ (by decide)).trans ?_
  have hsev : x.sev = 1 := by rw [← hr]; rfl
  have hcode : x.code = 0x0A06 := by rw [← hr]; rfl
  rw [getReg_report_errLast _ _ (by rw [hsev]; decide), hsev, hcode]
  rfl

/-! ### The clauses of the statement -/

theorem replacementRuns : ReplacementRuns := by
  intro s e r h hp
  refine ⟨?arm, ?copy, ?done, ?last, ?release, ?stuck⟩
  case arm =>
    intro ha ht hk hn
    have hheld := refreshHeld_counted (c := replSet e.val { r with armed := true } s.chip) (noRunAhead_of_basins hn rfl)
    rw [← armBarrier_arms h ha ht hk] at hheld
    obtain ⟨hs, hms⟩ := hheld.ms
    exact ⟨_, onChip_of rfl, sameRest_withChip s _, hheld.mem, by rw [withChip_chip, hms]; exact tabFind_replSet _ _ _⟩
  case copy =>
    intro j js ha hc hl hearly hrecs
    exact ⟨_, onChip_of (layerCopy_begins h ha hc hl hearly hrecs), sameRest_withChip s _, rfl, rfl, tabFind_replSet _ _ _⟩
  case done =>
    intro j hc hl he hown
    have hwritten := shardsCopied_memWritten s.chip r.bias (layerShards r.man j)
    exact ⟨_, onChip_of (layerDone_more h hc hl (copyLayer_ok he hown) hwritten.ms), sameRest_withChip s _, hwritten.mem, tabFind_replSet _ _ _⟩
  case last =>
    intro p tag hfirst hn hco hall
    obtain ⟨d, hx, hd, -⟩ := exec_sent (i := .replDone e ⟨p, tag⟩) rfl hfirst
    have hdr : tabFind d.ms.repls e.val = some r := by rw [hd.ms]; exact h
    have hdco : coordinator d r = some (pkg d) := by
      rw [hd.pkg, ← hco]
      unfold coordinator
      simp only [hd.fenced]
    have hlast := replDoneAt_last hdr hdco fun q hq => by rw [hd.fenced]; exact hall q hq
    have hsent := sendConfirmed_sets r.peers (.replRelease e.val) (replSet e.val (doneNoted p.toNat r) d)
    have hrel := releaseRepl_replaced (r := doneNoted p.toNat r)
      (c := sendConfirmed r.peers (.replRelease e.val) (replSet e.val (doneNoted p.toNat r) d))
      (by rw [hsent.ms]; exact tabFind_replSet _ _ _) e.isLt (hp.trans (hsent.pkg.trans hd.pkg).symm)
      (noRunAhead_of_basins hn (hsent.basins.trans hd.basins))
    rw [← hlast] at hrel
    refine ⟨_, hx, sameRest_withChip s _, ?_, hrel.state, hrel.stage, ?_, ?_, hrel.current⟩
    · exact hrel.mem.trans (congrArg (fun m => commandAnswer m r.block 0) (hsent.mem.trans hd.mem))
    · exact hrel.epoch.trans (getF_congr _ _ ((hd.regs.trans hsent.regs).entry e.isLt (by decide)))
    · rw [withChip_chip, hrel.repls, hsent.ms, ← hd.ms]; rfl
  case release =>
    intro p tag hfirst hn
    obtain ⟨d, hx, hd, -⟩ := exec_sent (i := .replRelease ⟨e, p, tag⟩) rfl hfirst
    have hrel := releaseRepl_replaced (c := d) (by rw [hd.ms]; exact h) e.isLt (hp.trans hd.pkg.symm) (noRunAhead_of_basins hn hd.basins)
    refine ⟨_, hx, sameRest_withChip s _, ?_, hrel.state, hrel.stage, ?_, ?_, hrel.current⟩
    · exact hrel.mem.trans (congrArg (fun m => commandAnswer m r.block 0) hd.mem)
    · exact hrel.epoch.trans (getF_congr _ _ (hd.regs.entry e.isLt (by decide)))
    · rw [withChip_chip, hrel.repls, hd.ms]
  case stuck =>
    intro ha hs
    obtain ⟨hmem, hbit, hlast, hrepl⟩ := replStuck_reports h ha hs
    exact ⟨_, onChip_of rfl, sameRest_withChip s _, hmem, hbit, hlast, hrepl⟩

/-- Settles O35: how a replacement is armed, copies its layers, is reported, and ends, each as an equation of the package after it. -/
theorem replacementsRun : Obligations.ReplacementsRun := ⟨replaceArmsAndAborts, replacementRuns⟩

end Sys2Proof.Machine
end

section
/-! PROOFS. Routes and the entries of the partners (R302, R303, R327): what a route depends on, that a package to which a route is left is not
fenced for want of one, and what each entry reads once the entries follow the routes. -/

namespace Sys2Proof.Machine

/-! ### Routes (R302) -/

/-- Of `d` every package that `c` has not fenced is not fenced, and every pair with a link UP in `c` has one; the order of choice is the same. -/
structure RoutesWithin (c d : Chip) : Prop where
  pkg : pkg d = pkg c
  fenced : ∀ q, fenced d q = true → fenced c q = true
  up : ∀ q, upLinks c q ≠ [] → upLinks d q ≠ []
  cfg : getReg d rThCfg = getReg c rThCfg

theorem hopOk_iff (c : Chip) (q : Nat) : hopOk c q = true ↔ fenced c q = false ∧ upLinks c q ≠ [] := by
  unfold hopOk
  rw [Bool.and_eq_true, Bool.not_eq_true', bne_iff_ne]

/-- A route is a pair with a link UP, or one of the two intermediates that may carry flits. -/
theorem nextHop_isSome_iff (c : Chip) (q : Nat) : (nextHop c q).isSome = true ↔
    if (pairTo (pkg c) q).isSome then upLinks c q ≠ [] else hopOk c (vias c q).1 = true ∨ hopOk c (vias c q).2 = true := by
  unfold nextHop
  split
  · split <;> simp_all
  · split
    · simp_all
    · split <;> simp_all

theorem RoutesWithin.hopOk {c d : Chip} (h : RoutesWithin c d) {q : Nat} (hq : hopOk c q = true) : hopOk d q = true := by
  obtain ⟨hf, hu⟩ := (hopOk_iff c q).mp hq
  refine (hopOk_iff d q).mpr ⟨Bool.eq_false_iff.mpr fun hd => ?_, h.up q hu⟩
  rw [h.fenced q hd] at hf
  cases hf

theorem vias_congr {c d : Chip} (hp : pkg d = pkg c) (hr : getReg d rThCfg = getReg c rThCfg) (q : Nat) : vias d q = vias c q := by
  unfold vias
  rw [hp, hr]

/-- A package that can be reached still can where no link has gone down and no package has been fenced. -/
theorem RoutesWithin.nextHop {c d : Chip} (h : RoutesWithin c d) {q : Nat} (hq : (nextHop c q).isSome = true) : (nextHop d q).isSome = true := by
  rw [nextHop_isSome_iff] at hq ⊢
  rw [h.pkg, vias_congr h.pkg h.cfg]
  split
  · next hpair =>
    rw [if_pos hpair] at hq
    exact h.up q hq
  · next hpair =>
    rw [if_neg hpair] at hq
    exact hq.imp h.hopOk h.hopOk

theorem upLinks_congr {c d : Chip} (hp : pkg d = pkg c) (hs : ∀ l, linkState d l = linkState c l) (q : Nat) : upLinks d q = upLinks c q := by
  have hup : linkUp d = linkUp c := funext fun l => by unfold linkUp; rw [hs]
  unfold upLinks
  rw [hp, hup]

/-- What a route is told by. -/
theorem nextHop_congr {c d : Chip} (hp : pkg d = pkg c) (hf : ∀ q, fenced d q = fenced c q) (hs : ∀ l, linkState d l = linkState c l)
    (hr : getReg d rThCfg = getReg c rThCfg) (q : Nat) : nextHop d q = nextHop c q := by
  have hhop : ∀ q, hopOk d q = hopOk c q := fun q => by
    unfold hopOk
    rw [hf, upLinks_congr hp hs]
  unfold nextHop
  simp only [hp, upLinks_congr hp hs, vias_congr hp hr, hhop]

/-- Without a link UP there is no route. -/
theorem upLinks_nil {c : Chip} (h : ∀ l, linkState c l ≠ 2) (q : Nat) : upLinks c q = [] := by
  unfold upLinks
  split
  · refine List.filter_eq_nil_iff.mpr fun l _ => ?_
    unfold linkUp
    rw [beq_iff_eq]
    exact h l
  · rfl

theorem nextHop_none {c : Chip} (h : ∀ l, linkState c l ≠ 2) (q : Nat) : nextHop c q = none := by
  unfold nextHop hopOk
  simp [upLinks_nil h]

/-! ### Packages to which no route is left (R302, R321) -/

/-- Where every LIVE package can be reached none is fenced. -/
theorem fenceCutOff_none {c : Chip} (h : RoutesHold c) (n : Nat) : fenceCutOff n c = c := by
  cases n with
  | zero => rfl
  | succ n =>
    have hnone : (List.range 16).find? (fun p => p != pkg c && member c p && getF c (rPartner p) 0 2 == 2 && (nextHop c p).isNone) = none := by
      refine List.find?_eq_none.mpr fun p hp hcut => ?_
      simp only [Bool.and_eq_true, bne_iff_ne, beq_iff_eq] at hcut
      obtain ⟨⟨⟨hown, hmem⟩, hlive⟩, hcut⟩ := hcut
      have hroute := h p (List.mem_range.mp hp) hown hmem hlive
      rw [Option.isNone_iff_eq_none.mp hcut] at hroute
      cases hroute
    unfold fenceCutOff
    rw [hnone]

theorem settleRoutes_routes {c : Chip} (h : RoutesHold c) : settleRoutes c = refreshPartners c := by
  unfold settleRoutes
  rw [fenceCutOff_none h]

/-! ### The entries of the partners (R327) -/

/-- What TH_PARTNER_p reads once the entries follow the routes, where it read `e`: the package's own entry, NOT_MEMBER, FENCED as it was, LIVE
with its route, and without one LIVE as it was or UNREACHED. -/
def entryAfter (c : Chip) (p e : Nat) : Nat :=
  if p = pkg c then (if c.fab.selfFenced then 3 else 2)
  else if !member c p then 0
  else if fld e 0 2 = 3 then e
  else
    match nextHop c p with
    | some (h, second) => 2 + (if h = p then 1 else 2) * 4 + b2n second * 16
    | none => if fld e 0 2 = 2 then e else 1

def partnerEntry (c : Chip) (p : Nat) : Nat := entryAfter c p (getReg c (rPartner p))

theorem liveEntry_lt (p h : Nat) (second : Bool) : 2 + (if h = p then 1 else 2) * 4 + b2n second * 16 < 32 := by
  cases second <;> split <;> decide

theorem liveEntry_state (p h : Nat) (second : Bool) : fld (2 + (if h = p then 1 else 2) * 4 + b2n second * 16) 0 2 = 2 := by
  cases second <;> split <;> rfl

/-- An entry that follows the routes goes on following them. -/
theorem entryAfter_again (c : Chip) (p e : Nat) : entryAfter c p (entryAfter c p e) = entryAfter c p e := by
  unfold entryAfter
  split
  · rfl
  · split
    · rfl
    · by_cases hf : fld e 0 2 = 3
      · simp only [if_pos hf]
      · simp only [if_neg hf]
        cases nextHop c p with
        | some x => rw [liveEntry_state]; rfl
        | none =>
          by_cases hl : fld e 0 2 = 2
          · simp only [if_pos hl, if_neg hf]
          · simp only [if_neg hl]; rfl

/-- An entry of a member reads FENCED as it follows the routes where it did before, and nowhere else. -/
theorem entryAfter_fenced {c : Chip} {p : Nat} (e : Nat) (hown : p ≠ pkg c) (hm : member c p = true) :
    fld (entryAfter c p e) 0 2 = 3 ↔ fld e 0 2 = 3 := by
  unfold entryAfter
  rw [if_neg hown, hm]
  simp only [Bool.not_true, Bool.false_eq_true, if_false]
  split
  · rfl
  · next hf =>
    refine iff_of_false ?_ hf
    split
    · rw [liveEntry_state]; decide
    · split
      · exact hf
      · decide

/-- The refresh of one entry. -/
def refreshPartner (c : Chip) (p : Nat) : Chip :=
  if p = pkg c then putReg c (rPartner p) (if c.fab.selfFenced then 3 else 2)
  else if !member c p then putReg c (rPartner p) 0
  else if getF c (rPartner p) 0 2 = 3 then c
  else
    match nextHop c p with
    | some (h, second) => putReg c (rPartner p) (2 + (if h = p then 1 else 2) * 4 + b2n second * 16)
    | none => if getF c (rPartner p) 0 2 = 2 then c else putReg c (rPartner p) 1

theorem refreshPartners_eq (c : Chip) : refreshPartners c = (List.range 16).foldl refreshPartner c := rfl

theorem getReg_refreshPartner (c : Chip) (p : Nat) : getReg (refreshPartner c p) (rPartner p) = partnerEntry c p := by
  unfold refreshPartner partnerEntry entryAfter getF
  split
  · rw [getReg_putReg_self]
    split <;> rfl
  · split
    · rw [getReg_putReg_self]; rfl
    · split
      · rfl
      · split
        · next h second _ =>
          rw [getReg_putReg_self, Nat.mod_eq_of_lt ((liveEntry_lt p h second).trans (by decide))]
        · split
          · rfl
          · rw [getReg_putReg_self]; rfl

theorem rPartner_ne {p q : Nat} (h : q ≠ p) : rPartner q ≠ rPartner p := by unfold rPartner; omega

/-- One refresh changes its own entry alone. -/
theorem refreshPartner_own (c : Chip) (p : Nat) :
    (∃ rg, refreshPartner c p = { c with regs := rg }) ∧ ∀ off, off ≠ rPartner p → getReg (refreshPartner c p) off = getReg c off := by
  have hself : (∃ rg, c = { c with regs := rg }) ∧ ∀ off, off ≠ rPartner p → getReg c off = getReg c off :=
    ⟨⟨c.regs, rfl⟩, fun _ _ => rfl⟩
  have hput : ∀ v, (∃ rg, putReg c (rPartner p) v = { c with regs := rg }) ∧
      ∀ off, off ≠ rPartner p → getReg (putReg c (rPartner p) v) off = getReg c off :=
    fun v => ⟨⟨_, rfl⟩, fun off ho => getReg_putReg_ne c v ho⟩
  unfold refreshPartner
  split
  · exact hput _
  · split
    · exact hput _
    · split
      · exact hself
      · split
        · exact hput _
        · split
          · exact hself
          · exact hput _

/-- Entries are as before or as they follow from the routes; the rest of the package is as before. -/
structure PartlyFresh (c d : Chip) : Prop where
  regs : ∃ rg, d = { c with regs := rg }
  other : ∀ off, (∀ p < 16, off ≠ rPartner p) → getReg d off = getReg c off
  entry : ∀ p < 16, getReg d (rPartner p) = getReg c (rPartner p) ∨ getReg d (rPartner p) = partnerEntry c p

section
variable {c d : Chip} (h : PartlyFresh c d)
include h

theorem PartlyFresh.pkg : pkg d = pkg c := by obtain ⟨_, rfl⟩ := h.regs; rfl

theorem PartlyFresh.selfFenced : d.fab.selfFenced = c.fab.selfFenced := by obtain ⟨_, rfl⟩ := h.regs; rfl

theorem PartlyFresh.member (p : Nat) : member d p = member c p := by
  unfold Machine.member
  rw [h.other rMembers fun q hq => by unfold rMembers rPartner; omega]

/-- Only a package that was fenced reads FENCED, and none but it. -/
theorem PartlyFresh.fencedEntry {p : Nat} (hp : p < 16) (hown : p ≠ Machine.pkg c) (hm : Machine.member c p = true) :
    getF d (rPartner p) 0 2 = 3 ↔ getF c (rPartner p) 0 2 = 3 := by
  rcases h.entry p hp with he | he
  · unfold getF; rw [he]
  · unfold getF; rw [he]; exact entryAfter_fenced _ hown hm

theorem PartlyFresh.fenced (p : Nat) : fenced d p = fenced c p := by
  unfold Machine.fenced
  rw [h.pkg, h.member, h.selfFenced]
  by_cases hown : p = Machine.pkg c
  · simp [hown]
  · cases hm : Machine.member c p with
    | false => rfl
    | true =>
      by_cases hp : p < 16
      · have hiff := h.fencedEntry hp hown hm
        have hbeq : (getF d (rPartner p) 0 2 == 3) = (getF c (rPartner p) 0 2 == 3) := by
          rw [Bool.eq_iff_iff, beq_iff_eq, beq_iff_eq]; exact hiff
        rw [hbeq]
      · rw [getF_congr 0 2 (h.other (rPartner p) fun q hq => rPartner_ne (by omega))]

theorem PartlyFresh.nextHop (q : Nat) : nextHop d q = nextHop c q :=
  nextHop_congr h.pkg h.fenced
    (fun l => linkState_congr (h.other _ fun p hp => by have := l.isLt; unfold rLinkStatus rPartner; omega))
    (h.other _ fun p hp => by unfold rThCfg rPartner; omega) q

/-- An entry follows from the routes whether or not others, or itself, do already. -/
theorem PartlyFresh.partnerEntry {p : Nat} (hp : p < 16) : partnerEntry d p = partnerEntry c p := by
  have hafter : entryAfter d p (getReg d (rPartner p)) = entryAfter c p (getReg d (rPartner p)) := by
    unfold entryAfter
    rw [h.pkg, h.member, h.selfFenced, h.nextHop]
  refine hafter.trans ?_
  rcases h.entry p hp with he | he
  · rw [he]; rfl
  · rw [he]; exact entryAfter_again _ _ _

theorem PartlyFresh.refreshed {p : Nat} (hp : p < 16) : PartlyFresh c (refreshPartner d p) := by
  obtain ⟨⟨rg, hrg⟩, hother⟩ := refreshPartner_own d p
  refine ⟨?_, fun off ho => (hother off (ho p hp)).trans (h.other off ho), fun q hq => ?_⟩
  · obtain ⟨rg', rfl⟩ := h.regs
    exact ⟨rg, hrg⟩
  · by_cases hqp : q = p
    · rw [hqp, getReg_refreshPartner]
      exact .inr (h.partnerEntry hp)
    · rw [hother _ (rPartner_ne hqp)]
      exact h.entry q hq

end

/-- Every entry follows from the routes once the entries have been refreshed. -/
theorem getReg_refreshPartners (c : Chip) {p : Nat} (hp : p < 16) : getReg (refreshPartners c) (rPartner p) = partnerEntry c p := by
  rw [refreshPartners_eq]
  have hfold := foldl_each (f := refreshPartner) (P := fun p d => getReg d (rPartner p) = partnerEntry c p) (I := PartlyFresh c) (List.range 16)
    (fun d p hp hd => hd.refreshed (List.mem_range.mp hp))
    (fun d p hp hd => (getReg_refreshPartner d p).trans (hd.partnerEntry (List.mem_range.mp hp)))
    (fun d a _ b _ hba hb => ((refreshPartner_own d a).2 _ (rPartner_ne hba)).trans hb)
    (s := c) ⟨⟨c.regs, rfl⟩, fun _ _ => rfl, fun _ _ => .inl rfl⟩
  exact hfold.2 p (List.mem_range.mpr hp)

/-- The refresh of the entries leaves every register that is none. -/
theorem getReg_refreshPartners_ne (c : Chip) {off : Nat} (h : off < 0x25200 ∨ 0x25240 ≤ off) : getReg (refreshPartners c) off = getReg c off :=
  (refreshPartners_only c).2 off fun p hp => by unfold rPartner; omega

theorem refreshPartners_regs (c : Chip) : ∃ rg, refreshPartners c = { c with regs := rg } := (refreshPartners_only c).1

end Sys2Proof.Machine
end

section
/-! PROOFS. Training and links that go down (R306, R307, R319, R320, R327). -/

namespace Sys2Proof.Machine

/-! ### Commands that change the chip alone -/

/-- A command that changes the chip alone leaves the rest of the package, and of the chip what its change leaves. -/
theorem onChip_next (f : Chip → Chip) {s : State} {Q : Chip → Prop} (h : Q (f s.chip)) :
    ∃ t, onChip f s = .next t ∧ sameRest s t ∧ Q t.chip :=
  ⟨_, onChip_eq f s, sameRest_withChip s _, h⟩

/-- The same of a register write that is taken, whose answer is all that leaves beside. -/
theorem busWrite_next {m : Master} {act : Chip → Nat × Chip} {s : State} {d : Chip} {Q : Chip → Prop} (hh : hubOn s.chip = true)
    (hm : m.toNat ≤ 3) (ha : act s.chip = (0, d)) (h : Q (emit (.bus m 0 0) d)) :
    ∃ t, onChip (busWrite m act) s = .next t ∧ sameRest s t ∧ Q t.chip :=
  onChip_next (busWrite m act) (by rw [busWrite_ok hh hm ha]; exact h)

/-! ### Links and partners changed -/

@[simp] theorem links_modLink_self (l : Fin 12) (f : Link → Link) (c : Chip) : (modLink l f c).fab.links[l] = f c.fab.links[l] := by
  simp [modLink]

@[simp] theorem partnerOf_modPartner_self (p : Nat) (f : Partner → Partner) (c : Chip) : partnerOf (modPartner p f c) p = f (partnerOf c p) := by
  simp [modPartner, partnerOf]

theorem getReg_modLink (l : Fin 12) (f : Link → Link) (c : Chip) (off : Nat) : getReg (modLink l f c) off = getReg c off := rfl

theorem getReg_modPartner (p : Nat) (f : Partner → Partner) (c : Chip) (off : Nat) : getReg (modPartner p f c) off = getReg c off := rfl

theorem partners_modLink (l : Fin 12) (f : Link → Link) (c : Chip) : (modLink l f c).fab.partners = c.fab.partners := rfl

theorem partnerOf_congr {c d : Chip} (h : d.fab.partners = c.fab.partners) (p : Nat) : partnerOf d p = partnerOf c p := by
  unfold partnerOf
  simp only [h]

theorem putF_wire (c : Chip) (off lo w v : Nat) : WireOnly c (putF c off lo w v) := ⟨_, _, _, _, rfl⟩

/-- Registers of the hub other than a link's status and counters. -/
theorem rLinkCtr_ne {l : Fin 12} {i j : Nat} (h : i ≠ j) : rLinkCtr l.val i ≠ rLinkCtr l.val j := by unfold rLinkCtr; omega

/-! ### Training (R307) -/

/-- A link that is not UP begins its training as a new link. -/
theorem trainLink_started {l : Fin 12} {c : Chip} (hs : linkState c l ≠ 2) (hf : c.fab.selfFenced = false) (hm : modeOf c = 0) :
    trainLink l c = modLink l (fun _ => {}) (putF c (rLinkStatus l.val) 0 3 1) := by
  have hup : linkUp c l = false := beq_false_of_ne hs
  unfold trainLink
  rw [hup, hf, hm]
  rfl

/-- What a failed training leaves: FAILED with its cause, the report in MP_ERR_LAST, and one more in LINK_DOWN. -/
structure TrainingFailed (l : Fin 12) (cause code : Nat) (c d : Chip) : Prop where
  state : linkState d l = 3
  cause : getF d (rLinkStatus l.val) 11 4 = cause
  errLast : getReg d rErrLast = code + sevOf code * 65536
  down : getReg d (rLinkCtr l.val 3) = (getReg c (rLinkCtr l.val 3) + 1) % 2 ^ 32

theorem failTraining_failed (l : Fin 12) {cause code : Nat} (c : Chip) (hc : cause < 16) (hs : sevOf code ≠ 0) (hcode : code < 65536) :
    TrainingFailed l cause code c (failTraining l cause code c) := by
  have hl := l.isLt
  have hstatus : rLinkStatus l.val ≠ rLinkCtr l.val 3 := by unfold rLinkStatus rLinkCtr; omega
  have hsev := sevOf_le code
  unfold failTraining
  dsimp only
  refine ⟨?_, ?_, ?_, ?_⟩
  · refine (linkState_congr ((getReg_report_hub _ _ ?_ ?_).trans (getReg_bump_ne _ 1 hstatus))).trans ?_
    · unfold rLinkStatus; omega
    · unfold rLinkStatus; omega
    · exact (getF_putF_ne _ _ (.inl (by decide)) (by decide)).trans (getF_putF_self _ (by decide))
  · refine (getF_congr _ _ ((getReg_report_hub _ _ ?_ ?_).trans (getReg_bump_ne _ 1 hstatus))).trans ?_
    · unfold rLinkStatus; omega
    · unfold rLinkStatus; omega
    · exact (getF_putF_self _ (by decide)).trans (Nat.mod_eq_of_lt hc)
  · exact (getReg_report_errLast _ _ hs).trans (Nat.mod_eq_of_lt (by dsimp only; omega))
  · refine (getReg_report_hub _ _ ?_ ?_).trans ((getReg_bump_self _ _ 1).trans ?_)
    · unfold rLinkCtr; omega
    · unfold rLinkCtr; omega
    · rw [getReg_putF_ne _ _ _ _ hstatus.symm, getReg_putF_ne _ _ _ _ hstatus.symm]

/-- The package as Identify has found the partner of a link, and the link is UP. -/
def linkTrained (l : Fin 12) (x : Ident) (c : Chip) : Chip :=
  modLink l (fun _ => {}) (putF (putF (noteIdent l x c) (rLinkStatus l.val) 17 8 x.rtt.toNat) (rLinkStatus l.val) 0 3 2)

/-- Training that finds the partner that R300 wires, a member near enough, ends UP. -/
theorem trainDone_up {l : Fin 12} {x : Ident} {c : Chip} (h1 : linkState c l = 1) (hs : x.stagesOk = true) (hp : x.pkg.toNat = linkPartner c l)
    (hb : x.link.toNat = linkBack l) (hm : member c x.pkg.toNat = true) (hr : x.rtt.toNat ≤ 175) :
    trainDone l x c = refreshPartners (linkTrained l x c) := by
  unfold trainDone
  rw [if_neg (not_not.mpr h1), hs, hm]
  simp only [hp, hb, ne_eq, not_true, Bool.not_true, Bool.false_eq_true, or_self, if_false]
  exact if_neg (Nat.not_lt.mpr hr)

/-- Training that finds another partner fails with WIRING. -/
theorem trainDone_miswired {l : Fin 12} {x : Ident} {c : Chip} (h1 : linkState c l = 1) (hs : x.stagesOk = true)
    (hw : x.pkg.toNat ≠ linkPartner c l ∨ x.link.toNat ≠ linkBack l) : trainDone l x c =
      failTraining l 4 eThWiring (putF (putF c (rLinkStatus l.val) 3 4 x.pkg.toNat) (rLinkStatus l.val) 7 4 x.link.toNat) := by
  unfold trainDone
  rw [if_neg (not_not.mpr h1), hs]
  exact if_pos (hw.imp_right .inl)

section
variable (l : Fin 12) (x : Ident) (c : Chip)

theorem getReg_linkTrained (off : Nat) : getReg (linkTrained l x c) off =
    getReg (putF (putF (noteIdent l x c) (rLinkStatus l.val) 17 8 x.rtt.toNat) (rLinkStatus l.val) 0 3 2) off := getReg_modLink _ _ _ _

theorem getReg_noteIdent (off : Nat) : getReg (noteIdent l x c) off =
    getReg (putF (putF c (rLinkStatus l.val) 3 4 x.pkg.toNat) (rLinkStatus l.val) 7 4 x.link.toNat) off := getReg_modPartner _ _ _ _

theorem linkTrained_state : linkState (linkTrained l x c) l = 2 :=
  (linkState_congr (getReg_linkTrained l x c _)).trans (getF_putF_self _ (by decide))

theorem linkTrained_rtt : getF (linkTrained l x c) (rLinkStatus l.val) 17 8 = x.rtt.toNat := by
  rw [getF_congr _ _ (getReg_linkTrained l x c _), getF_putF_ne _ _ (.inr (by decide)) (by decide), getF_putF_self _ (by decide),
    Nat.mod_eq_of_lt x.rtt.isLt]

/-- The fields that Identify notes stand as the link is UP. -/
theorem getF_linkTrained_ident {lo w : Nat} (h3 : 3 ≤ lo) (h17 : lo + w ≤ 17) :
    getF (linkTrained l x c) (rLinkStatus l.val) lo w =
      getF (putF (putF c (rLinkStatus l.val) 3 4 x.pkg.toNat) (rLinkStatus l.val) 7 4 x.link.toNat) (rLinkStatus l.val) lo w := by
  rw [getF_congr _ _ (getReg_linkTrained l x c _), getF_putF_ne _ _ (.inr h3) (by omega), getF_putF_ne _ _ (.inl h17) (by omega),
    getF_congr _ _ (getReg_noteIdent l x c _)]

theorem linkTrained_pkg : getF (linkTrained l x c) (rLinkStatus l.val) 3 4 = x.pkg.toNat := by
  rw [getF_linkTrained_ident l x c (by decide) (by decide), getF_putF_ne _ _ (.inl (by decide)) (by decide), getF_putF_self _ (by decide),
    Nat.mod_eq_of_lt x.pkg.isLt]

theorem linkTrained_link : getF (linkTrained l x c) (rLinkStatus l.val) 7 4 = x.link.toNat := by
  rw [getF_linkTrained_ident l x c (by decide) (by decide), getF_putF_self _ (by decide), Nat.mod_eq_of_lt x.link.isLt]

theorem linkTrained_mem : (linkTrained l x c).mem = c.mem := by
  unfold linkTrained noteIdent
  rw [modLink_mem, putF_mem, putF_mem, modPartner_mem, putF_mem, putF_mem]

theorem linkTrained_nonce : (partnerOf (linkTrained l x c) x.pkg.toNat).nonce = x.nonce.toNat := by
  have hpartners : (linkTrained l x c).fab.partners = (noteIdent l x c).fab.partners := by
    unfold linkTrained
    rw [partners_modLink, putF_fab, putF_fab]
  rw [partnerOf_congr hpartners]
  unfold noteIdent
  dsimp only
  rw [partnerOf_modPartner_self]

end

/-- The refresh of the entries leaves the status of a link. -/
theorem getReg_refreshPartners_status (c : Chip) (l : Fin 12) : getReg (refreshPartners c) (rLinkStatus l.val) = getReg c (rLinkStatus l.val) :=
  getReg_refreshPartners_ne c (.inl (by have := l.isLt; unfold rLinkStatus; omega))

/-- The link is UP, its status names the partner that Identify found, and the partner's nonce is noted. -/
structure LinkTrained (l : Fin 12) (x : Ident) (c d : Chip) : Prop where
  state : linkState d l = 2
  pkg : getF d (rLinkStatus l.val) 3 4 = x.pkg.toNat
  link : getF d (rLinkStatus l.val) 7 4 = x.link.toNat
  rtt : getF d (rLinkStatus l.val) 17 8 = x.rtt.toNat
  nonce : (partnerOf d x.pkg.toNat).nonce = x.nonce.toNat
  mem : d.mem = c.mem

theorem linkTrained_trained (l : Fin 12) (x : Ident) (c : Chip) : LinkTrained l x c (linkTrained l x c) :=
  ⟨linkTrained_state l x c, linkTrained_pkg l x c, linkTrained_link l x c, linkTrained_rtt l x c, linkTrained_nonce l x c, linkTrained_mem l x c⟩

/-- The entries of the partners do not tell of a link's training. -/
theorem LinkTrained.refresh {l : Fin 12} {x : Ident} {c d : Chip} (h : LinkTrained l x c d) : LinkTrained l x c (refreshPartners d) := by
  have hstatus := getReg_refreshPartners_status d l
  obtain ⟨rg, hrg⟩ := refreshPartners_regs d
  refine ⟨(linkState_congr hstatus).trans h.state, (getF_congr _ _ hstatus).trans h.pkg, (getF_congr _ _ hstatus).trans h.link,
    (getF_congr _ _ hstatus).trans h.rtt, ?_, ?_⟩
  · rw [hrg]; exact h.nonce
  · rw [hrg]; exact h.mem

/-- A link that is TRAINING, as a new one, and memory as it was. -/
structure LinkStarted (l : Fin 12) (c d : Chip) : Prop where
  state : linkState d l = 1
  link : d.fab.links[l] = {}
  mem : d.mem = c.mem

theorem linkStarted_trained (l : Fin 12) (c : Chip) : LinkStarted l c (modLink l (fun _ => {}) (putF c (rLinkStatus l.val) 0 3 1)) :=
  ⟨(linkState_congr (getReg_modLink _ _ _ _)).trans (getF_putF_self c (by decide)), links_modLink_self l _ _,
    by rw [modLink_mem, putF_mem]⟩

theorem trainingStartsAndEnds : TrainingStartsAndEnds := by
  refine ⟨?starts, ?up, ?wiring, ?timeout⟩
  case starts =>
    intro m l v s hm hh h0 h1 hs hf hmode
    have hw : okWrite (wLinkCtrl l v.toNat) s.chip = (0, trainLink l s.chip) := by
      unfold okWrite wLinkCtrl
      rw [h0, h1]
      rfl
    rw [trainLink_started hs hf hmode] at hw
    obtain ⟨hstate, hlink, hmem⟩ := linkStarted_trained l s.chip
    generalize modLink l (fun _ => {}) (putF s.chip (rLinkStatus l.val) 0 3 1) = d at hw hstate hlink hmem
    exact busWrite_next (Q := fun d => linkState d l = 1 ∧ d.fab.links[l] = {} ∧ d.mem = s.chip.mem) hh hm hw ⟨hstate, hlink, hmem⟩
  case up =>
    intro l x s h1 hs hp hb hm hr
    obtain ⟨t, ht, hrest, hstate, hpkg, hlink, hrtt, hnonce, hmem⟩ := onChip_next (trainDone l x) (Q := LinkTrained l x s.chip)
      (by rw [trainDone_up h1 hs hp hb hm hr]; exact (linkTrained_trained l x s.chip).refresh)
    exact ⟨t, ht, hrest, hstate, hpkg, hlink, hrtt, hnonce, hmem⟩
  case wiring =>
    intro l x s h1 hs hw
    have hstatus : rLinkCtr l.val 3 ≠ rLinkStatus l.val := by have := l.isLt; unfold rLinkStatus rLinkCtr; omega
    obtain ⟨t, ht, hrest, hstate, hcause, hlast, hdown⟩ := onChip_next (trainDone l x) (s := s)
      (Q := TrainingFailed l 4 eThWiring (putF (putF s.chip (rLinkStatus l.val) 3 4 x.pkg.toNat) (rLinkStatus l.val) 7 4 x.link.toNat))
      (by rw [trainDone_miswired h1 hs hw]; exact failTraining_failed l _ (by decide) (by decide) (by decide))
    rw [getReg_putF_ne _ _ _ _ hstatus, getReg_putF_ne _ _ _ _ hstatus] at hdown
    exact ⟨t, ht, hrest, hstate, hcause, hlast, hdown⟩
  case timeout =>
    intro l s h1
    obtain ⟨t, ht, hrest, hstate, hcause, hlast, hdown⟩ := onChip_next (fun c => if linkState c l = 1 then failTraining l 5 eThTrain c else c)
      (Q := TrainingFailed l 5 eThTrain s.chip) (by rw [if_pos h1]; exact failTraining_failed l s.chip (by decide) (by decide) (by decide))
    exact ⟨t, ht, hrest, hstate, hcause, hlast, hdown⟩

/-! ### A link that goes down (R320) -/

theorem getReg_endWait_ne (l : Fin 12) (c : Chip) {off : Nat} (h : off ≠ rLinkCtr l.val 4) : getReg (endWait l c) off = getReg c off := by
  unfold endWait
  split
  · exact getReg_bump_ne { c with rems := _ } _ h
  · rfl

/-- The package once a link that held no flit has gone DOWN. -/
def linkDropped (l : Fin 12) (cause lane : Nat) (c : Chip) : Chip :=
  modLink l (fun _ => {}) (endWait l (bump (putF (putF (putF c (rLinkStatus l.val) 0 3 0) (rLinkStatus l.val) 11 4 cause)
    (rLinkStatus l.val) 15 2 lane) (rLinkCtr l.val 3)))

theorem dropLink_idle {l : Fin 12} {cause lane : Nat} {c : Chip} (hs : linkState c l = 1 ∨ linkState c l = 2)
    (hr : c.fab.links[l].replay = []) (hw : c.fab.links[l].waiting = []) : dropLink l cause lane c = linkDropped l cause lane c := by
  unfold dropLink
  rw [if_pos hs]
  dsimp only
  rw [hr, hw]
  rfl

section
variable (l : Fin 12) (cause lane : Nat) (c : Chip)

theorem linkDropped_wire : WireOnly c (linkDropped l cause lane c) :=
  (putF_wire _ _ _ _ _).trans ((putF_wire _ _ _ _ _).trans ((putF_wire _ _ _ _ _).trans ((bump_wire _ _ _).trans
    ((endWait_wire l _).trans (modLink_wire l _ _)))))

theorem linkDropped_selfFenced : (linkDropped l cause lane c).fab.selfFenced = c.fab.selfFenced := by
  obtain ⟨ls, hf⟩ := ((endWait_links l (bump (putF (putF (putF c (rLinkStatus l.val) 0 3 0) (rLinkStatus l.val) 11 4 cause)
    (rLinkStatus l.val) 15 2 lane) (rLinkCtr l.val 3))).trans (modLink_links l (fun _ => {}) _)).fab
  unfold linkDropped
  rw [hf, bump_fab, putF_fab, putF_fab, putF_fab]

theorem getReg_linkDropped_before {off : Nat} (h4 : off ≠ rLinkCtr l.val 4) : getReg (linkDropped l cause lane c) off =
    getReg (bump (putF (putF (putF c (rLinkStatus l.val) 0 3 0) (rLinkStatus l.val) 11 4 cause) (rLinkStatus l.val) 15 2 lane)
      (rLinkCtr l.val 3)) off :=
  (getReg_modLink _ _ _ _).trans (getReg_endWait_ne l _ h4)

/-- Beside the status and the counters of the link no register changes. -/
theorem getReg_linkDropped {off : Nat} (h4 : off ≠ rLinkCtr l.val 4) (h3 : off ≠ rLinkCtr l.val 3) (hs : off ≠ rLinkStatus l.val) :
    getReg (linkDropped l cause lane c) off = getReg c off := by
  rw [getReg_linkDropped_before l cause lane c h4, getReg_bump_ne _ 1 h3, getReg_putF_ne _ _ _ _ hs, getReg_putF_ne _ _ _ _ hs,
    getReg_putF_ne _ _ _ _ hs]

theorem getReg_linkDropped_status : getReg (linkDropped l cause lane c) (rLinkStatus l.val) = getReg (putF (putF (putF c (rLinkStatus l.val) 0 3 0)
    (rLinkStatus l.val) 11 4 cause) (rLinkStatus l.val) 15 2 lane) (rLinkStatus l.val) := by
  have hne : ∀ k, rLinkStatus l.val ≠ rLinkCtr l.val k := fun k => by have := l.isLt; unfold rLinkStatus rLinkCtr; omega
  rw [getReg_linkDropped_before l cause lane c (hne 4), getReg_bump_ne _ 1 (hne 3)]

theorem linkState_linkDropped : linkState (linkDropped l cause lane c) l = 0 :=
  (linkState_congr (getReg_linkDropped_status l cause lane c)).trans ((getF_putF_ne _ _ (.inl (by decide)) (by decide)).trans
    ((getF_putF_ne _ _ (.inl (by decide)) (by decide)).trans (getF_putF_self _ (by decide))))

theorem linkState_linkDropped_ne {m : Fin 12} (h : m ≠ l) : linkState (linkDropped l cause lane c) m = linkState c m :=
  linkState_congr (getReg_linkDropped l cause lane c (by have := l.isLt; have := m.isLt; unfold rLinkStatus rLinkCtr; omega)
    (by have := l.isLt; have := m.isLt; unfold rLinkStatus rLinkCtr; omega) (rLinkStatus_ne h))

theorem linkDropped_cause : getF (linkDropped l cause lane c) (rLinkStatus l.val) 11 4 = cause % 16 :=
  (getF_congr _ _ (getReg_linkDropped_status l cause lane c)).trans ((getF_putF_ne _ _ (.inl (by decide)) (by decide)).trans
    (getF_putF_self _ (by decide)))

theorem linkDropped_lane : getF (linkDropped l cause lane c) (rLinkStatus l.val) 15 2 = lane % 4 :=
  (getF_congr _ _ (getReg_linkDropped_status l cause lane c)).trans (getF_putF_self _ (by decide))

theorem linkDropped_counted : getReg (linkDropped l cause lane c) (rLinkCtr l.val 3) = (getReg c (rLinkCtr l.val 3) + 1) % 2 ^ 32 := by
  have hne : rLinkCtr l.val 3 ≠ rLinkStatus l.val := by have := l.isLt; unfold rLinkStatus rLinkCtr; omega
  rw [getReg_linkDropped_before l cause lane c (rLinkCtr_ne (by decide)), getReg_bump_self, getReg_putF_ne _ _ _ _ hne,
    getReg_putF_ne _ _ _ _ hne, getReg_putF_ne _ _ _ _ hne]

end

theorem pkg_wire {c d : Chip} (h : WireOnly c d) : pkg d = pkg c := by
  obtain ⟨_, _, _, _, rfl⟩ := h
  rfl

theorem fenced_linkDropped (l : Fin 12) (cause lane : Nat) (c : Chip) (p : Nat) : fenced (linkDropped l cause lane c) p = fenced c p := by
  have hl := l.isLt
  refine fenced_congr (pkg_wire (linkDropped_wire l cause lane c)) (linkDropped_selfFenced l cause lane c)
    (getReg_linkDropped l cause lane c ?_ ?_ ?_) (fun q hq => getReg_linkDropped l cause lane c ?_ ?_ ?_) p
  all_goals simp only [rMembers, rPartner, rLinkCtr, rLinkStatus]; omega

/-- The two links of a pair that leads somewhere have its number. -/
theorem pairTo_linksOf {p q k : Nat} {m : Fin 12} (hk : pairTo p q = some k) (hm : m ∈ linksOf k) : m.val / 2 = k := by
  have hlt : k < 6 := by
    unfold pairTo at hk
    split at hk
    · cases hk
    · split at hk
      · cases hk; omega
      · split at hk
        · cases hk; omega
        · cases hk
  rcases List.mem_pair.mp hm with rfl | rfl
  · show 2 * k % 12 / 2 = k
    omega
  · show (2 * k + 1) % 12 / 2 = k
    omega

/-- A pair of which the link was TRAINING, or of which another link is UP, has a link UP after it if it had one before. -/
theorem upLinks_linkDropped {l : Fin 12} {c : Chip} (cause lane : Nat) (h : SpareLink c l) {q : Nat} (hq : upLinks c q ≠ []) :
    upLinks (linkDropped l cause lane c) q ≠ [] := by
  obtain ⟨m, hm⟩ := List.exists_mem_of_ne_nil _ hq
  unfold upLinks at hm ⊢
  rw [pkg_wire (linkDropped_wire l cause lane c)]
  split at hm
  · next k hk =>
    obtain ⟨hmk, hup⟩ := List.mem_filter.mp hm
    have hup2 : linkState c m = 2 := beq_iff_eq.mp hup
    have hstill : ∀ n : Fin 12, n ∈ linksOf k → n ≠ l → linkState c n = 2 →
        (linksOf k).filter (linkUp (linkDropped l cause lane c)) ≠ [] := by
      intro n hn hnl h2
      refine List.ne_nil_of_mem (List.mem_filter.mpr ⟨hn, ?_⟩)
      unfold linkUp
      rw [linkState_linkDropped_ne l cause lane c hnl, h2]
      rfl
    by_cases hml : m = l
    · obtain ⟨hstate, -, -⟩ := h
      rw [← hml, hup2] at hstate
      rcases hstate with h1 | ⟨-, n, hn, hnm, h2⟩
      · cases h1
      · have hk6 : m.val / 2 = k := pairTo_linksOf hk hmk
        rw [hk6] at hn
        exact hstill n hn (hml ▸ hnm) h2
    · exact hstill m hmk hml hup2
  · cases hm

/-- What a link that has gone DOWN leaves: its state, cause and lane, one more in LINK_DOWN, and memory as it was. -/
structure LinkIsDown (l : Fin 12) (cause lane : Nat) (c d : Chip) : Prop where
  state : linkState d l = 0
  cause : getF d (rLinkStatus l.val) 11 4 = cause
  lane : getF d (rLinkStatus l.val) 15 2 = lane
  counted : getReg d (rLinkCtr l.val 3) = (getReg c (rLinkCtr l.val 3) + 1) % 2 ^ 32
  mem : d.mem = c.mem

theorem linkDropped_down (l : Fin 12) {cause lane : Nat} (c : Chip) (hc : cause < 16) (hl : lane < 4) :
    LinkIsDown l cause lane c (linkDropped l cause lane c) where
  state := linkState_linkDropped l cause lane c
  cause := (linkDropped_cause l cause lane c).trans (Nat.mod_eq_of_lt hc)
  lane := (linkDropped_lane l cause lane c).trans (Nat.mod_eq_of_lt hl)
  counted := linkDropped_counted l cause lane c
  mem := by obtain ⟨_, _, _, _, h⟩ := linkDropped_wire l cause lane c; rw [h]

/-- The entries of the partners do not tell of a link. -/
theorem LinkIsDown.refresh {l : Fin 12} {cause lane : Nat} {c d : Chip} (h : LinkIsDown l cause lane c d) :
    LinkIsDown l cause lane c (refreshPartners d) := by
  have hstatus := getReg_refreshPartners_status d l
  obtain ⟨rg, hrg⟩ := refreshPartners_regs d
  refine ⟨(linkState_congr hstatus).trans h.state, (getF_congr _ _ hstatus).trans h.cause, (getF_congr _ _ hstatus).trans h.lane, ?_, ?_⟩
  · exact (getReg_refreshPartners_ne d (.inr (by unfold rLinkCtr; omega))).trans h.counted
  · rw [hrg]; exact h.mem

/-- Every LIVE package can still be reached once a link that can be spared has gone. -/
theorem routesHold_linkDropped {l : Fin 12} {c : Chip} (cause lane : Nat) (h : SpareLink c l) (hr : RoutesHold c) :
    RoutesHold (linkDropped l cause lane c) := by
  have hl := l.isLt
  have hpkg := pkg_wire (linkDropped_wire l cause lane c)
  have hreg : ∀ off, off < 0x25104 ∨ 0x25200 ≤ off ∧ off < 0x25400 → getReg (linkDropped l cause lane c) off = getReg c off := fun off ho =>
    getReg_linkDropped l cause lane c (by unfold rLinkCtr; omega) (by unfold rLinkCtr; omega) (by unfold rLinkStatus; omega)
  have hwithin : RoutesWithin c (linkDropped l cause lane c) := ⟨hpkg, fun q hq => by rwa [fenced_linkDropped] at hq,
    fun q => upLinks_linkDropped cause lane h, hreg rThCfg (.inl (by decide))⟩
  intro p hp hown hm hlive
  rw [hpkg] at hown
  unfold member at hm
  rw [hreg rMembers (.inl (by decide))] at hm
  rw [getF_congr _ _ (hreg (rPartner p) (.inr (by unfold rPartner; omega)))] at hlive
  exact hwithin.nextHop (hr p hp hown hm hlive)

/-- A link that can be spared goes DOWN, and no package is fenced. -/
theorem linkDown_spare {l : Fin 12} {c : Chip} (cause lane : Nat) (h : SpareLink c l) (hr : RoutesHold c) :
    linkDown l cause lane c = refreshPartners (linkDropped l cause lane c) := by
  obtain ⟨hstate, hreplay, hwait⟩ := h
  have hup : linkState c l = 1 ∨ linkState c l = 2 := hstate.imp_right And.left
  have hspared : (linkUp c l && (linksOf (l.val / 2)).all (fun m => linkState (linkDropped l cause lane c) m == 0)) = false := by
    rcases hstate with h1 | ⟨-, m, hm, hml, h2⟩
    · unfold linkUp; rw [h1]; rfl
    · rw [Bool.and_eq_false_iff]
      refine .inr (List.all_eq_false.mpr ⟨m, hm, ?_⟩)
      rw [linkState_linkDropped_ne l cause lane c hml, h2]
      decide
  unfold linkDown
  rw [if_pos hup, dropLink_idle hup hreplay hwait]
  dsimp only
  rw [hspared]
  exact settleRoutes_routes (routesHold_linkDropped cause lane ⟨hstate, hreplay, hwait⟩ hr)

theorem linkDown_down {l : Fin 12} {cause lane : Nat} {c : Chip} (h : SpareLink c l) (hr : RoutesHold c) (hc : cause < 16) (hl : lane < 4) :
    LinkIsDown l cause lane c (linkDown l cause lane c) := by
  rw [linkDown_spare cause lane h hr]
  exact (linkDropped_down l c hc hl).refresh

/-- A command that takes a link DOWN, and changes the chip alone. -/
theorem wentDown_next (f : Chip → Chip) {s : State} {l : Fin 12} {cause lane : Nat} (h : LinkIsDown l cause lane s.chip (f s.chip)) :
    ∃ t, onChip f s = .next t ∧ WentDown s t l cause lane := by
  obtain ⟨t, ht, hrest, hstate, hcause, hlane, hcounted, hmem⟩ := onChip_next f h
  exact ⟨t, ht, hrest, hstate, hcause, hlane, hcounted, hmem⟩

theorem spareLinksGoDown : SpareLinksGoDown := by
  intro s l hspare hroutes
  refine ⟨?software, ?lane, ?beats⟩
  case software =>
    intro m v hm hh h0 h1
    have hw : okWrite (wLinkCtrl l v.toNat) s.chip = (0, linkDown l 6 0 s.chip) := by
      unfold okWrite wLinkCtrl
      rw [h0, h1]
      rfl
    have hdown := linkDown_down (cause := 6) (lane := 0) hspare hroutes (by decide) (by decide)
    refine wentDown_next (busWrite m (okWrite (wLinkCtrl l v.toNat))) ?_
    rw [busWrite_ok hh hm hw]
    exact ⟨hdown.state, hdown.cause, hdown.lane, hdown.counted, hdown.mem⟩
  case lane =>
    intro lane
    exact wentDown_next (linkDown l 1 lane.toNat) (linkDown_down hspare hroutes (by decide) lane.isLt)
  case beats =>
    intro h2
    have hup : linkUp s.chip l = true := beq_iff_eq.mpr h2
    refine wentDown_next (fun c => if linkUp c l then linkDown l 3 0 c else c) ?_
    rw [if_pos hup]
    exact linkDown_down hspare hroutes (by decide) (by decide)

/-- Settles O37: the ends of training are equations of the package, and a link that can be spared takes no route with it. -/
theorem linksComeAndGo : Obligations.LinksComeAndGo := ⟨trainingStartsAndEnds, spareLinksGoDown⟩

end Sys2Proof.Machine
end

section
/-! PROOFS. What leaves on a link by its timers, and messages that are confirmed or sent again (R308 to R311, R318, R319, R327). -/

namespace Sys2Proof.Machine

/-- A command that changes the chip alone leaves it as its change says. -/
theorem onChip_at {f : Chip → Chip} {s : State} {d : Chip} (h : f s.chip = d) : ∃ t, onChip f s = .next t ∧ sameRest s t ∧ t.chip = d :=
  onChip_next f (Q := fun e => e = d) h

/-! ### The CRC of a flit (R310) -/

theorem crc32Step_lt {poly : Nat} (hp : poly < 2 ^ 32) (k : Nat) {x : Nat} (hx : x < 2 ^ 32) : crc32Step poly k x < 2 ^ 32 := by
  induction k generalizing x with
  | zero => exact hx
  | succ k ih =>
    refine ih ?_
    split
    · exact Nat.xor_lt_two_pow (by omega) hp
    · omega

theorem crc32_lt {poly : Nat} (hp : poly < 2 ^ 32) (bs : List Byte) : crc32 poly bs < 2 ^ 32 :=
  Nat.xor_lt_two_pow (by decide) (foldl_keeps (I := fun x => x < 2 ^ 32) bs
    (fun _ v _ hx => crc32Step_lt hp 8 (Nat.xor_lt_two_pow hx (Nat.lt_trans v.isLt (by decide)))) (by decide))

theorem flitCrc_lt (f : Flit) : flitCrc f < 2 ^ 32 := crc32_lt (by decide) _

/-! ### A flit that leaves (R308, R311, R313) -/

/-- The credits still due to the partner of a link once a flit has taken those of one channel. -/
def creditsLeft (r : Vector Nat 4) : Vector Nat 4 :=
  let v := ((List.finRange 4).find? (fun v => r[v] != 0)).getD 0
  r.set v.val (r[v] - min 511 r[v]) v.isLt

/-- A flit as it leaves on a link. -/
def stamped (l : Fin 12) (nak : Bool) (f : Flit) (c : Chip) : Flit :=
  let k := c.fab.links[l]
  let v := ((List.finRange 4).find? (fun v => k.returns[v] != 0)).getD 0
  let g := { f with ack := BitVec.ofNat 12 k.expect, ackV := true, nak := nak, crVc := BitVec.ofNat 2 v.val,
                    crCnt := BitVec.ofNat 9 (min 511 k.returns[v]) }
  { g with crc := BitVec.ofNat 32 (flitCrc g) }

/-- A flit that leaves is logged, and of its link changes what it carries. -/
theorem sendFlit_eq (l : Fin 12) (nak : Bool) (f : Flit) (c : Chip) : sendFlit l nak f c =
    emit (.flit l (stamped l nak f c)) (modLink l (fun k => { k with since := 0, returns := creditsLeft k.returns }) c) := rfl

theorem stamped_crc (l : Fin 12) (nak : Bool) (f : Flit) (c : Chip) : (stamped l nak f c).crc.toNat = flitCrc (stamped l nak f c) :=
  Nat.mod_eq_of_lt (flitCrc_lt _)

theorem creditsLeft_none : creditsLeft (Vector.replicate 4 0) = Vector.replicate 4 0 := by decide

theorem sendFlit_link (l : Fin 12) (nak : Bool) (f : Flit) (c : Chip) :
    (sendFlit l nak f c).fab.links[l] = { c.fab.links[l] with since := 0, returns := creditsLeft c.fab.links[l].returns } := by
  rw [sendFlit_eq, emit_fab, links_modLink_self]

theorem sendFlit_out (l : Fin 12) (nak : Bool) (f : Flit) (c : Chip) : (sendFlit l nak f c).out = .flit l (stamped l nak f c) :: c.out := rfl

theorem sendFlit_regs_eq (l : Fin 12) (nak : Bool) (f : Flit) (c : Chip) : (sendFlit l nak f c).regs = c.regs := by
  rw [sendFlit_eq, emit_regs, modLink_regs]

theorem sendFlit_mem (l : Fin 12) (nak : Bool) (f : Flit) (c : Chip) : (sendFlit l nak f c).mem = c.mem := by
  rw [sendFlit_eq, emit_mem, modLink_mem]

theorem getReg_of_regs {c d : Chip} (h : d.regs = c.regs) (off : Nat) : getReg d off = getReg c off := by
  unfold getReg
  rw [h]

/-! ### A replay (R311, R327) -/

/-- `n` flits have left again on a link that holds what it held. -/
structure Resent (l : Fin 12) (n : Nat) (c d : Chip) : Prop where
  mem : d.mem = c.mem
  regs : d.regs = c.regs
  replay : d.fab.links[l].replay = c.fab.links[l].replay
  runs : d.fab.links[l].runs = c.fab.links[l].runs
  runMax : d.fab.links[l].runMax = c.fab.links[l].runMax
  out : d.out.length = c.out.length + n

theorem foldl_sendFlit_resent (l : Fin 12) (fs : List Flit) (c : Chip) :
    Resent l fs.length c (fs.foldl (fun c f => sendFlit l false f c) c) := by
  induction fs generalizing c with
  | nil => exact ⟨rfl, rfl, rfl, rfl, rfl, rfl⟩
  | cons f fs ih =>
    obtain ⟨hmem, hregs, hreplay, hruns, hmax, hout⟩ := ih (sendFlit l false f c)
    have hlink := sendFlit_link l false f c
    refine ⟨hmem.trans (sendFlit_mem _ _ _ _), hregs.trans (sendFlit_regs_eq _ _ _ _), hreplay.trans ?_, hruns.trans ?_,
      hmax.trans ?_, hout.trans ?_⟩
    · rw [hlink]
    · rw [hlink]
    · rw [hlink]
    · rw [sendFlit_out, List.length_cons, List.length_cons]
      omega

/-- What a replay within REPLAY_MAX leaves. -/
structure Replayed (l : Fin 12) (c d : Chip) : Prop where
  mem : d.mem = c.mem
  counted : getReg d (rLinkCtr l.val 2) = (getReg c (rLinkCtr l.val 2) + 1) % 2 ^ 32
  replay : d.fab.links[l].replay = c.fab.links[l].replay
  runs : d.fab.links[l].runs = c.fab.links[l].runs + 1
  runMax : d.fab.links[l].runMax = if c.fab.links[l].runs = 0 then getF c rThCfg 4 4 else c.fab.links[l].runMax
  out : d.out.length = c.out.length + c.fab.links[l].replay.length

theorem bump_out (c : Chip) (off n : Nat) : (bump c off n).out = c.out := by
  obtain ⟨rg, h⟩ := bump_eq c off n
  rw [h]

theorem replay_replayed {l : Fin 12} {c : Chip} (hr : c.fab.links[l].replay ≠ [])
    (hm : c.fab.links[l].runs = 0 ∨ c.fab.links[l].runs < c.fab.links[l].runMax) : Replayed l c (replay l c) := by
  unfold replay
  dsimp only
  rw [if_neg hr, if_neg (by omega)]
  generalize hmost : (if c.fab.links[l].runs = 0 then getF c rThCfg 4 4 else c.fab.links[l].runMax) = most
  obtain ⟨hmem, hregs, hreplay, hruns, hmax, hout⟩ := foldl_sendFlit_resent l c.fab.links[l].replay
    (modLink l (fun k => { k with runs := k.runs + 1, runMax := most }) (bump c (rLinkCtr l.val 2)))
  rw [links_modLink_self, bump_fab] at hreplay hruns hmax
  refine ⟨hmem.trans ?_, (getReg_of_regs hregs _).trans ?_, hreplay, hruns, hmax.trans hmost.symm, hout.trans ?_⟩
  · rw [modLink_mem, bump_mem]
  · rw [getReg_modLink, getReg_bump_self]
  · rw [modLink_out, bump_out]

/-! ### An acknowledgement that is due, and a BEAT (R311, R319) -/

/-- With no credit due beside it, the acknowledgement leaves in one IDLE flit. -/
theorem ackLink_idle {l : Fin 12} {c : Chip} (h2 : linkState c l = 2) (hs : c.fab.selfFenced = false) (hsince : c.fab.links[l].since ≠ 0)
    (hr : c.fab.links[l].returns = Vector.replicate 4 0) : ackLink l c = sendIdle l false c := by
  have hup : linkUp c l = true := beq_iff_eq.mpr h2
  have hnone : (sendIdle l false c).fab.links[l].returns = Vector.replicate 4 0 := by
    unfold sendIdle
    rw [sendFlit_link, hr]
    exact creditsLeft_none
  have hdue : (List.finRange 4).any (fun v => (sendIdle l false c).fab.links[l].returns[v] != 0) = false := by
    rw [List.any_eq_false]
    intro v _
    rw [hnone]
    simp
  unfold ackLink
  rw [hup, hs, if_neg (by decide), if_pos hsince]
  exact foldl_keeps (I := fun d => d = sendIdle l false c) (List.range 4) (fun d _ _ hd => by rw [hd, hdue]; rfl) rfl

/-- A BEAT leaves with the package's nonce as its address. -/
theorem sendBeat_up {l : Fin 12} {c : Chip} (h2 : linkState c l = 2) (hs : c.fab.selfFenced = false) : sendBeat l c =
    sendFlit l false { ty := 1, src := c.power.pkgId, dst := BitVec.ofNat 4 (linkPartner c l), addr := BitVec.ofNat 44 (getReg c rNonce) } c := by
  have hup : linkUp c l = true := beq_iff_eq.mpr h2
  unfold sendBeat
  rw [hup, hs]
  rfl

/-! ### Messages confirmed, and sent again (R318) -/

/-- After a confirmation every message waits for someone, and the one confirmed no longer for its sender. -/
theorem confirmed_left {p : BitVec 4} {tag : Nat} {c : Chip} {x : Confirmed} (hx : x ∈ (confirmed p.toNat tag c).fab.confirms) :
    x.left ≠ [] ∧ (x.tag = tag → p ∉ x.left) := by
  obtain ⟨hx, hleft⟩ := List.mem_filter.mp hx
  obtain ⟨y, -, rfl⟩ := List.mem_map.mp hx
  refine ⟨bne_iff_ne.mp hleft, fun htag hp => ?_⟩
  by_cases h : y.tag = tag
  · rw [if_pos h] at hp
    exact bne_iff_ne.mp (List.mem_filter.mp hp).2 rfl
  · rw [if_neg h] at htag
    exact h htag

/-- A confirmation leaves the other messages as they are. -/
theorem confirmed_others {p tag : Nat} {c : Chip} {x : Confirmed} (hx : x ∈ c.fab.confirms) (ht : x.tag ≠ tag) (hl : x.left ≠ []) :
    x ∈ (confirmed p tag c).fab.confirms :=
  List.mem_filter.mpr ⟨List.mem_map.mpr ⟨x, hx, if_neg ht⟩, bne_iff_ne.mpr hl⟩

/-- A message logged for several packages is logged for each. -/
theorem foldl_hub_out (ds : List Nat) (tag : Nat) (x : HubMsg) (c : Chip) :
    ∀ p ∈ ds, Emit.hub (BitVec.ofNat 4 p) tag x ∈ (ds.foldl (fun c p => emit (.hub (BitVec.ofNat 4 p) tag x) c) c).out :=
  (foldl_each (I := fun _ => True) (P := fun p (d : Chip) => Emit.hub (BitVec.ofNat 4 p) tag x ∈ d.out) ds (fun _ _ _ _ => trivial)
    (fun _ _ _ _ => List.mem_cons_self) (fun _ _ _ _ _ _ h => List.mem_cons_of_mem _ h) trivial).2

/-- A message leaves for each of its receivers that is not fenced. -/
theorem sendMsg_out {ds : List Nat} (tag : Nat) (x : HubMsg) {c : Chip} {p : Nat} (hp : p ∈ ds) (hf : fenced c p = false) (hown : p ≠ pkg c) :
    Emit.hub (BitVec.ofNat 4 p) tag x ∈ (sendMsg ds tag x c).out := by
  have hmem : p ∈ ds.filter (fun q => !fenced c q && decide (q ≠ pkg c)) := List.mem_filter.mpr ⟨hp, by simp [hf, hown]⟩
  unfold sendMsg
  dsimp only
  rw [if_neg (List.ne_nil_of_mem hmem)]
  exact (sendTree_links _ _ _).out.subset (foldl_hub_out _ tag x c p hmem)

theorem confirms_of_links {c d : Chip} (h : LinksMove c d) : d.fab.confirms = c.fab.confirms := by
  obtain ⟨ls, hf⟩ := h.fab
  rw [hf]

theorem linkTimersAndConfirmations : LinkTimersAndConfirmations := by
  refine ⟨?replay, ?ack, ?beat, ?fenced, ?confirm, ?resend⟩
  case replay =>
    intro l s h2 hr hm
    have hup : linkUp s.chip l = true := beq_iff_eq.mpr h2
    obtain ⟨t, ht, hrest, h⟩ := onChip_next (fun c => if linkUp c l then replay l c else c) (s := s) (Q := Replayed l s.chip)
      (by rw [if_pos hup]; exact replay_replayed hr hm)
    exact ⟨t, ht, hrest, h.mem, h.counted, h.replay, h.runs, h.runMax, h.out⟩
  case ack =>
    intro l s h2 hs hsince hr
    obtain ⟨t, ht, hrest, hd⟩ := onChip_at (f := ackLink l) (s := s) (ackLink_idle h2 hs hsince hr)
    unfold sendIdle at hd
    refine ⟨t, _, ht, hrest, by rw [hd]; exact sendFlit_out _ _ _ _, rfl, rfl, rfl, BitVec.toNat_ofNat _ _, ?_, ?_, ?_⟩
    · rw [hd, sendFlit_link]
    · rw [hd, sendFlit_regs_eq]
    · rw [hd, sendFlit_mem]
  case beat =>
    intro l s h2 hs
    obtain ⟨t, ht, hrest, hd⟩ := onChip_at (f := sendBeat l) (s := s) (sendBeat_up h2 hs)
    refine ⟨t, _, ht, hrest, by rw [hd]; exact sendFlit_out _ _ _ _, rfl, rfl, ?_, stamped_crc _ _ _ _, ?_, ?_⟩
    · exact Nat.mod_eq_of_lt (Nat.lt_trans (getReg_lt _ _) (by decide))
    · rw [hd, sendFlit_regs_eq]
    · rw [hd, sendFlit_mem]
  case fenced =>
    intro p tag s hf
    exact onChip_of (f := fun c => if fenced c p.toNat then c else confirmed p.toNat tag.toNat c) (d := s.chip) (if_pos hf)
  case confirm =>
    intro p tag s hf
    obtain ⟨t, ht, hrest, hd⟩ := onChip_at (f := fun c => if fenced c p.toNat then c else confirmed p.toNat tag.toNat c) (s := s)
      (if_neg (by rw [hf]; decide))
    refine ⟨t, ht, hrest, by rw [hd]; rfl, by rw [hd]; rfl, fun x hx => ?_, fun x hx htag hl => ?_⟩
    · rw [hd] at hx
      exact confirmed_left hx
    · rw [hd]
      exact confirmed_others hx htag hl
  case resend =>
    intro tag x s hx
    have hmsg : resend tag.toNat s.chip = sendMsg (x.left.map (·.toNat)) tag.toNat x.msg s.chip := by
      unfold resend
      rw [hx]
    obtain ⟨t, ht, hrest, hd⟩ := onChip_at (f := resend tag.toNat) (s := s) hmsg
    obtain ⟨_, _, _, _, hwire⟩ := sendMsg_wire (x.left.map (·.toNat)) tag.toNat x.msg s.chip
    refine ⟨t, ht, hrest, fun p hp hf hown => ?_, ?_, ?_, ?_⟩
    · have hout := sendMsg_out tag.toNat x.msg (List.mem_map_of_mem (f := (·.toNat)) hp) hf hown
      rwa [BitVec.ofNat_toNat, BitVec.setWidth_eq, ← hd] at hout
    · rw [hd]
      exact confirms_of_links (sendMsg_links _ _ _ _)
    · rw [hd, hwire]
    · rw [hd, hwire]

end Sys2Proof.Machine
end

section
/-! PROOFS. Flits taken in order, and the bytes that the FEC corrects (R306, R310, R311). -/

namespace Sys2Proof.Machine

/-! ### What a received flit is (R310, R311) -/

theorem countFec_none {f : Flit} (h : f.ce.sum = 0) (l : Fin 12) (c : Chip) : countFec l f c = c := if_pos h

/-- The package with the corrected bytes of a flit counted. -/
def fecCounted (l : Fin 12) (f : Flit) (c : Chip) : Chip :=
  modLink l (fun k => { k with ceAt := c.upNs / 1000000,
                               ce := Vector.ofFn (fun i : Fin 4 => (if k.ceAt = c.upNs / 1000000 then k.ce[i] else 0) + f.ce.getD i.val 0) })
    (bump c (rLinkCtr l.val 0) f.ce.sum)

section
variable (l : Fin 12) (f : Flit) (c : Chip)

theorem fecCounted_link : (fecCounted l f c).fab.links[l] = { c.fab.links[l] with
    ceAt := c.upNs / 1000000,
    ce := Vector.ofFn (fun i : Fin 4 => (if c.fab.links[l].ceAt = c.upNs / 1000000 then c.fab.links[l].ce[i] else 0) + f.ce.getD i.val 0) } := by
  unfold fecCounted
  rw [links_modLink_self, bump_fab]

theorem fecCounted_ce (i : Fin 4) : (fecCounted l f c).fab.links[l].ce[i] =
    (if c.fab.links[l].ceAt = c.upNs / 1000000 then c.fab.links[l].ce[i] else 0) + f.ce.getD i.val 0 := by
  rw [fecCounted_link]
  exact Vector.getElem_ofFn i.isLt

theorem getReg_fecCounted (off : Nat) : getReg (fecCounted l f c) off = getReg (bump c (rLinkCtr l.val 0) f.ce.sum) off := getReg_modLink _ _ _ _

theorem getReg_fecCounted_ne {off : Nat} (h : off ≠ rLinkCtr l.val 0) : getReg (fecCounted l f c) off = getReg c off :=
  (getReg_fecCounted l f c off).trans (getReg_bump_ne c _ h)

theorem fecCounted_mem : (fecCounted l f c).mem = c.mem := by
  unfold fecCounted
  rw [modLink_mem, bump_mem]

theorem linkState_fecCounted (m : Fin 12) : linkState (fecCounted l f c) m = linkState c m :=
  linkState_congr (getReg_fecCounted_ne l f c (by have := m.isLt; unfold rLinkStatus rLinkCtr; omega))

theorem fecCounted_selfFenced : (fecCounted l f c).fab.selfFenced = c.fab.selfFenced := by
  obtain ⟨ls, hf⟩ := (modLink_links l (fun k => { k with ceAt := c.upNs / 1000000, ce := Vector.ofFn (fun i : Fin 4 =>
    (if k.ceAt = c.upNs / 1000000 then k.ce[i] else 0) + f.ce.getD i.val 0) }) (bump c (rLinkCtr l.val 0) f.ce.sum)).fab
  unfold fecCounted
  rw [hf, bump_fab]

theorem fecCounted_wire : WireOnly c (fecCounted l f c) := (bump_wire _ _ _).trans (modLink_wire _ _ _)

end

/-- The limit for a lane is the package's own after the count. -/
theorem countFec_counts {l : Fin 12} {f : Flit} {c : Chip} (h : f.ce.sum ≠ 0) : countFec l f c =
    match (List.finRange 4).find? (fun i => decide (getF c rThCfg 8 8 * 1024 < (fecCounted l f c).fab.links[l].ce[i])) with
    | some i => linkDown l 1 i.val (fecCounted l f c)
    | none => fecCounted l f c := by
  have hcfg : getF c rThCfg 8 8 = getF (fecCounted l f c) rThCfg 8 8 :=
    (getF_congr 8 8 (getReg_fecCounted_ne l f c (by unfold rLinkCtr rThCfg; omega))).symm
  unfold countFec
  rw [if_neg h, hcfg]
  rfl

/-- Corrected bytes within the limit on every lane are counted and no more. -/
theorem countFec_within {l : Fin 12} {f : Flit} {c : Chip} (h : f.ce.sum ≠ 0)
    (hl : ∀ i : Fin 4, (fecCounted l f c).fab.links[l].ce[i] ≤ getF c rThCfg 8 8 * 1024) : countFec l f c = fecCounted l f c := by
  have hnone : (List.finRange 4).find? (fun i => decide (getF c rThCfg 8 8 * 1024 < (fecCounted l f c).fab.links[l].ce[i])) = none :=
    List.find?_eq_none.mpr fun i _ => by simpa using hl i
  rw [countFec_counts h, hnone]

/-- The first lane that passes the limit takes its link DOWN. -/
theorem countFec_over {l : Fin 12} {f : Flit} {c : Chip} {i : Fin 4} (h : f.ce.sum ≠ 0)
    (hi : getF c rThCfg 8 8 * 1024 < (fecCounted l f c).fab.links[l].ce[i])
    (hl : ∀ j : Fin 4, j < i → (fecCounted l f c).fab.links[l].ce[j] ≤ getF c rThCfg 8 8 * 1024) :
    countFec l f c = linkDown l 1 i.val (fecCounted l f c) := by
  have hsome : (List.finRange 4).find? (fun i => decide (getF c rThCfg 8 8 * 1024 < (fecCounted l f c).fab.links[l].ce[i])) = some i :=
    (List.find?_ofFn_eq_some_of_injective (f := id) Function.injective_id).mpr
      ⟨decide_eq_true hi, fun j hj => by simpa using hl j hj⟩
  rw [countFec_counts h, hsome]

/-- The link is UP, before and after the corrected bytes of a flit are counted: `d` is the package after it. -/
structure Counted (l : Fin 12) (f : Flit) (c d : Chip) : Prop where
  up : linkState c l = 2
  live : c.fab.selfFenced = false
  counted : countFec l f c = d
  upAfter : linkState d l = 2
  liveAfter : d.fab.selfFenced = false

theorem counted_none {l : Fin 12} {f : Flit} {c : Chip} (h2 : linkState c l = 2) (hs : c.fab.selfFenced = false) (h : f.ce.sum = 0) :
    Counted l f c c := ⟨h2, hs, countFec_none h l c, h2, hs⟩

theorem counted_within {l : Fin 12} {f : Flit} {c : Chip} (h2 : linkState c l = 2) (hs : c.fab.selfFenced = false) (h : f.ce.sum ≠ 0)
    (hl : ∀ i : Fin 4, (fecCounted l f c).fab.links[l].ce[i] ≤ getF c rThCfg 8 8 * 1024) : Counted l f c (fecCounted l f c) :=
  ⟨h2, hs, countFec_within h hl, (linkState_fecCounted l f c l).trans h2, (fecCounted_selfFenced l f c).trans hs⟩

/-- A flit that takes its link DOWN is discarded. -/
theorem receive_down {l : Fin 12} {f : Flit} {c : Chip} (h2 : linkState c l = 2) (hs : c.fab.selfFenced = false)
    (hd : linkState (countFec l f c) l = 0) : receive l f c = (.discarded, countFec l f c) := by
  have hup : linkUp c l = true := beq_iff_eq.mpr h2
  have hdown : linkUp (countFec l f c) l = false := by unfold linkUp; rw [hd]; rfl
  unfold receive
  simp only [hup, hs, hdown, Bool.not_true, Bool.or_self, Bool.false_eq_true, if_false, Bool.not_false, Bool.true_or, if_true]

/-- A numbered flit is taken: what it brings back counts, and the number moves on. -/
def numberTaken (l : Fin 12) (f : Flit) (c : Chip) : Chip :=
  modLink l (fun k => { k with expect := (k.expect + 1) % 4096, nakSent := false, since := k.since + 1 }) (takeBack l f c)

/-- An acknowledgement leaves with the 32nd flit that waits for one. -/
def ackDue (l : Fin 12) (c : Chip) : Chip := if 32 ≤ c.fab.links[l].since then sendIdle l false c else c

section
variable {l : Fin 12} {f : Flit} {c d : Chip} (h : Counted l f c d)
include h

theorem Counted.before : (!linkUp c l || c.fab.selfFenced) = false := by
  rw [show linkUp c l = true from beq_iff_eq.mpr h.up, h.live]
  rfl

theorem Counted.after : (!linkUp d l || d.fab.selfFenced) = false := by
  rw [show linkUp d l = true from beq_iff_eq.mpr h.upAfter, h.liveAfter]
  rfl

/-- A flit that is not whole is discarded. -/
theorem Counted.broken (hok : flitOk f = false) : receive l f c = (.discarded, discardFlit l d) := by
  unfold receive
  simp only [h.before, h.counted, h.after, hok, Bool.false_eq_true, if_false, Bool.not_false, if_true]

/-- A whole flit that is not numbered is accepted. -/
theorem Counted.unnumbered (hok : flitOk f = true) (ht : f.ty.toNat < 2) (ha : f.ackV = false) :
    receive l f c = (.accepted, pump l (takeBack l f d).fab.links[l].waiting.length (takeBack l f d)) := by
  have hn : numbered f.ty.toNat = false := decide_eq_false (by omega)
  unfold receive
  simp only [h.before, h.counted, h.after, hok, hn, ha, Bool.not_true, Bool.false_eq_true, if_false, Bool.not_false, Bool.false_and, if_true]

/-- A numbered flit that comes again is discarded. -/
theorem Counted.duplicate (hok : flitOk f = true) (ht : 2 ≤ f.ty.toNat) (hf : fenced d (linkPartner d l) = false)
    (hne : f.seq.toNat ≠ d.fab.links[l].expect) (hle : 2048 ≤ (f.seq.toNat + 4096 - d.fab.links[l].expect) % 4096) :
    receive l f c = (.discarded, d) := by
  have hn : numbered f.ty.toNat = true := decide_eq_true ht
  unfold receive
  simp only [h.before, h.counted, h.after, hok, hn, hf, Bool.not_true, Bool.false_eq_true, if_false]
  rw [if_neg hne, if_pos hle]

/-- The flit expected is accepted, and the number moves on. -/
theorem Counted.expected (hok : flitOk f = true) (ht : 2 ≤ f.ty.toNat) (hf : fenced d (linkPartner d l) = false)
    (he : f.seq.toNat = d.fab.links[l].expect) (hn : f.nak = false) : receive l f c =
      (.accepted, pump l (ackDue l (numberTaken l f d)).fab.links[l].waiting.length (ackDue l (numberTaken l f d))) := by
  have hnum : numbered f.ty.toNat = true := decide_eq_true ht
  unfold receive
  simp only [h.before, h.counted, h.after, hok, hnum, hf, hn, Bool.not_true, Bool.false_eq_true, if_false, Bool.and_false]
  exact if_pos he

end

/-! ### What a flit brings back (R311, R313) -/

theorem modLink_modLink (l : Fin 12) (f g : Link → Link) (c : Chip) : modLink l f (modLink l g c) = modLink l (fun k => f (g k)) c := by
  unfold modLink
  simp

/-- A change of a link is known by what it makes of the link as it stands. -/
theorem modLink_congr {l : Fin 12} {f g : Link → Link} {c : Chip} (h : f c.fab.links[l] = g c.fab.links[l]) : modLink l f c = modLink l g c := by
  unfold modLink
  rw [h]

/-- What a flit brings back changes of its link the flits to acknowledge, the run of replays and the credits in use. -/
theorem takeBack_eq (l : Fin 12) (f : Flit) (c : Chip) :
    ∃ rp rn us, takeBack l f c = modLink l (fun k => { k with replay := rp, runs := rn, used := us }) c := by
  unfold takeBack
  dsimp only
  generalize (f.ack.toNat + 4096 - _) % 4096 = n
  split
  · exact ⟨_, _, _, (modLink_modLink _ _ _ _).trans (modLink_congr rfl)⟩
  · exact ⟨_, _, _, modLink_congr rfl⟩

/-! ### Taking a flit, and discarding one -/

/-- Of the package the links alone may differ, and link `l` expects flit `n` and has as many flits to send. -/
structure Expects (l : Fin 12) (n : Nat) (c d : Chip) : Prop where
  expect : d.fab.links[l].expect = n
  waiting : d.fab.links[l].waiting = c.fab.links[l].waiting
  mem : d.mem = c.mem
  regs : d.regs = c.regs
  basins : d.basins = c.basins

theorem takeBack_expects (l : Fin 12) (f : Flit) (c : Chip) : Expects l c.fab.links[l].expect c (takeBack l f c) := by
  obtain ⟨rp, rn, us, h⟩ := takeBack_eq l f c
  rw [h]
  exact ⟨by rw [links_modLink_self], by rw [links_modLink_self], modLink_mem _ _ _, modLink_regs _ _ _, modLink_basins _ _ _⟩

theorem numberTaken_expects (l : Fin 12) (f : Flit) (c : Chip) : Expects l ((c.fab.links[l].expect + 1) % 4096) c (numberTaken l f c) := by
  obtain ⟨hexp, hwait, hmem, hregs, hbasins⟩ := takeBack_expects l f c
  unfold numberTaken
  refine ⟨?_, ?_, ?_, ?_, ?_⟩
  · rw [links_modLink_self, hexp]
  · rw [links_modLink_self, hwait]
  · rw [modLink_mem, hmem]
  · rw [modLink_regs, hregs]
  · rw [modLink_basins, hbasins]

theorem Expects.sendIdle {l : Fin 12} {n : Nat} {c d : Chip} (h : Expects l n c d) (nak : Bool) : Expects l n c (sendIdle l nak d) := by
  obtain ⟨hexp, hwait, hmem, hregs, hbasins⟩ := h
  unfold Machine.sendIdle
  refine ⟨?_, ?_, ?_, ?_, ?_⟩
  · rw [sendFlit_link, hexp]
  · rw [sendFlit_link, hwait]
  · rw [sendFlit_mem, hmem]
  · rw [sendFlit_regs_eq, hregs]
  · rw [sendFlit_eq, emit_basins, modLink_basins, hbasins]

theorem Expects.ackDue {l : Fin 12} {n : Nat} {c d : Chip} (h : Expects l n c d) : Expects l n c (ackDue l d) := by
  unfold Machine.ackDue
  split
  · exact h.sendIdle false
  · exact h

/-- What the discarding of a flit leaves: one more in CRC_FAIL, and one NAK. -/
structure Discarded (l : Fin 12) (c d : Chip) : Prop where
  mem : d.mem = c.mem
  counted : getReg d (rLinkCtr l.val 1) = (getReg c (rLinkCtr l.val 1) + 1) % 2 ^ 32
  nakSent : d.fab.links[l].nakSent = true
  expect : d.fab.links[l].expect = c.fab.links[l].expect
  still : c.fab.links[l].nakSent = true → d.out = c.out
  nak : c.fab.links[l].nakSent = false → ∃ g, d.out = .flit l g :: c.out ∧ g.nak = true

theorem discardFlit_discarded (l : Fin 12) (c : Chip) : Discarded l c (discardFlit l c) := by
  unfold discardFlit
  dsimp only
  rw [bump_fab]
  by_cases hsent : c.fab.links[l].nakSent = true
  · rw [if_pos hsent]
    exact ⟨bump_mem _ _ _, getReg_bump_self _ _ _, by rw [bump_fab]; exact hsent, by rw [bump_fab], fun _ => bump_out _ _ _,
      fun h => absurd hsent (by rw [h]; decide)⟩
  · rw [if_neg hsent]
    unfold sendIdle
    refine ⟨?_, ?_, ?_, ?_, fun h => absurd h hsent, fun _ => ?_⟩
    · rw [sendFlit_mem, modLink_mem, bump_mem]
    · rw [getReg_of_regs (sendFlit_regs_eq _ _ _ _), getReg_modLink, getReg_bump_self]
    · rw [sendFlit_link, links_modLink_self]
    · rw [sendFlit_link, links_modLink_self, bump_fab]
    · rw [sendFlit_out, modLink_out, bump_out]
      exact ⟨_, rfl, rfl⟩

/-! ### A flit that takes its link DOWN (R306) -/

theorem spareLink_fecCounted {l : Fin 12} {f : Flit} {c : Chip} (h : SpareLink c l) : SpareLink (fecCounted l f c) l := by
  unfold SpareLink at h ⊢
  simp only [linkState_fecCounted]
  rw [fecCounted_link]
  exact h

theorem routesHold_fecCounted {l : Fin 12} {f : Flit} {c : Chip} (h : RoutesHold c) : RoutesHold (fecCounted l f c) := by
  have hpkg := pkg_wire (fecCounted_wire l f c)
  have hreg : ∀ off, off < 0x25400 → getReg (fecCounted l f c) off = getReg c off := fun off ho =>
    getReg_fecCounted_ne l f c (by unfold rLinkCtr; omega)
  have hfenced : ∀ q, fenced (fecCounted l f c) q = fenced c q := fenced_congr hpkg (fecCounted_selfFenced l f c) (hreg rMembers (by decide))
    fun q hq => hreg (rPartner q) (by unfold rPartner; omega)
  intro p hp hown hm hlive
  rw [hpkg] at hown
  unfold member at hm
  rw [hreg rMembers (by decide)] at hm
  rw [getF_congr _ _ (hreg (rPartner p) (by unfold rPartner; omega))] at hlive
  rw [nextHop_congr hpkg hfenced (linkState_fecCounted l f c) (hreg rThCfg (by decide))]
  exact h p hp hown hm hlive

/-- The count leaves LINK_DOWN and memory, so that a link that goes DOWN after it has gone DOWN from the package before it. -/
theorem linkIsDown_fecCounted {l : Fin 12} {f : Flit} {cause lane : Nat} {c d : Chip} (h : LinkIsDown l cause lane (fecCounted l f c) d) :
    LinkIsDown l cause lane c d where
  state := h.state
  cause := h.cause
  lane := h.lane
  counted := by rw [h.counted, getReg_fecCounted_ne l f c (rLinkCtr_ne (by decide))]
  mem := h.mem.trans (fecCounted_mem l f c)

/-! ### The numbering of flits -/

theorem onFlit_accepted {l : Fin 12} {ty : Nat} {f : Flit} {act : Chip → Chip} {c d : Chip} (ht : f.ty.toNat = ty)
    (hr : receive l f c = (.accepted, d)) : onFlit l ty f act c = act d := by
  unfold onFlit
  rw [if_neg (fun h => h.1 ht), hr]

theorem onFlit_discarded {l : Fin 12} {ty : Nat} {f : Flit} {act : Chip → Chip} {c d : Chip} (ht : f.ty.toNat = ty)
    (hr : receive l f c = (.discarded, d)) : onFlit l ty f act c = d := by
  unfold onFlit
  rw [if_neg (fun h => h.1 ht), hr]

/-- The package once an IDLE flit within the limits has been taken: its corrected bytes are counted, and of its link the credits alone differ. -/
structure IdleCounted (l : Fin 12) (f : Flit) (c d : Chip) : Prop where
  mem : d.mem = c.mem
  state : linkState d l = linkState c l
  counted : getReg d (rLinkCtr l.val 0) = (getReg c (rLinkCtr l.val 0) + f.ce.sum) % 2 ^ 32
  ceAt : d.fab.links[l].ceAt = c.upNs / 1000000
  ce : ∀ i : Fin 4, d.fab.links[l].ce[i] =
    (if c.fab.links[l].ceAt = c.upNs / 1000000 then c.fab.links[l].ce[i] else 0) + f.ce.getD i.val 0

theorem takeBack_idleCounted (l : Fin 12) (f : Flit) (c : Chip) : IdleCounted l f c (takeBack l f (fecCounted l f c)) := by
  obtain ⟨rp, rn, us, h⟩ := takeBack_eq l f (fecCounted l f c)
  rw [h]
  refine ⟨?_, ?_, ?_, ?_, fun i => ?_⟩
  · rw [modLink_mem, fecCounted_mem]
  · exact (linkState_congr (getReg_modLink _ _ _ _)).trans (linkState_fecCounted l f c l)
  · rw [getReg_modLink, getReg_fecCounted, getReg_bump_self]
  · rw [links_modLink_self, fecCounted_link]
  · rw [links_modLink_self]
    exact fecCounted_ce l f c i

theorem flitsAreNumbered : FlitsAreNumbered := by
  refine ⟨?within, ?beyond, fun l f s h2 hs hce => ⟨?expected, ?broken, ?duplicate⟩⟩
  case within =>
    intro l f s h2 hs hce hok hty ha hw hl
    have hcounted := counted_within h2 hs hce (fun i => by rw [fecCounted_ce]; exact hl i)
    have hidle := takeBack_idleCounted l f s.chip
    have hempty : (takeBack l f (fecCounted l f s.chip)).fab.links[l].waiting = [] := by
      rw [(takeBack_expects l f _).waiting, fecCounted_link, hw]
    have hr := hcounted.unnumbered hok (by rw [hty]; decide) ha
    rw [hempty] at hr
    obtain ⟨t, ht, hrest, h⟩ := onChip_next (onFlit l 0 f id) (s := s) (Q := IdleCounted l f s.chip)
      (by rw [onFlit_accepted (by rw [hty]; rfl) hr]; exact hidle)
    exact ⟨t, ht, hrest, h.mem, h.state.trans h2, h.counted, h.ceAt, h.ce⟩
  case beyond =>
    intro l f s i hspare hroutes h2 hs hce hty hat hi hj
    have hlimit : ∀ j : Fin 4, (fecCounted l f s.chip).fab.links[l].ce[j] = s.chip.fab.links[l].ce[j] + f.ce.getD j.val 0 := fun j => by
      rw [fecCounted_ce, if_pos hat]
    have hover := countFec_over hce (by rw [hlimit]; exact hi) (fun j h => by rw [hlimit]; exact hj j h)
    have hdown : LinkIsDown l 1 i.val s.chip (countFec l f s.chip) := by
      rw [hover]
      exact linkIsDown_fecCounted (linkDown_down (spareLink_fecCounted hspare) (routesHold_fecCounted hroutes) (by decide) i.isLt)
    refine wentDown_next (onFlit l 0 f id) ?_
    rw [onFlit_discarded (by rw [hty]; rfl) (receive_down h2 hs hdown.state)]
    exact hdown
  case expected =>
    intro hok ht hf hseq hn hw
    have htaken := (numberTaken_expects l f s.chip).ackDue
    have hr := (counted_none h2 hs hce).expected hok ht hf hseq hn
    rw [htaken.waiting, hw] at hr
    exact ⟨_, hr, htaken.expect, htaken.mem, htaken.regs, htaken.basins⟩
  case broken =>
    intro hok hty
    obtain ⟨t, ht, hrest, h⟩ := onChip_next (onFlit l 0 f id) (s := s) (Q := Discarded l s.chip)
      (by rw [onFlit_discarded (by rw [hty]; rfl) ((counted_none h2 hs hce).broken hok)]; exact discardFlit_discarded l s.chip)
    exact ⟨t, ht, hrest, h.mem, h.counted, h.nakSent, h.expect, h.still, h.nak⟩
  case duplicate =>
    intro hok hty hf hne hle
    have ht3 : f.ty.toNat = 3 := by rw [hty]; rfl
    exact onChip_of (f := onFlit l 3 f (deliver l f (takeAck f)))
      (onFlit_discarded ht3 ((counted_none h2 hs hce).duplicate hok (by omega) hf hne hle))

/-- Settles O38: each timer and confirmation, and each verdict of the receiver, as an equation of the package after it. -/
theorem linksKeepOrder : Obligations.LinksKeepOrder := ⟨linkTimersAndConfirmations, flitsAreNumbered⟩

end Sys2Proof.Machine
end

section
/-! PROOFS. Answers that complete a transaction (R309, R314, R319), and what an access of the indirect window leaves (R379). -/

namespace Sys2Proof.Machine

/-! ### An access of the indirect window ends (R379) -/

/-- The package as the answer to an access stands in the window's registers. -/
def windowAnswered (data : Option Nat) (code : Nat) (c : Chip) : Chip :=
  setStatus 8 (putF (putF (match data with
    | some v => putReg { c with window := {} } rIwData v
    | none => { c with window := {} }) rIwCtrl 7 1 0) rIwCtrl 16 16 code)

/-- The address moves on after the answer where the access asks for it. -/
theorem windowEnd_eq (data : Option Nat) (code : Nat) (c : Chip) : windowEnd data code c = windowAnswered data code c ∨
    ∃ lo hi, windowEnd data code c = putReg (putReg (windowAnswered data code c) rIwLo lo) rIwHi hi := by
  by_cases h : bit (getReg (windowAnswered data code c) rIwCtrl) 6 = true
  · exact .inr ⟨_, _, if_pos h⟩
  · exact .inl (if_neg h)

theorem getReg_windowEnd (data : Option Nat) (code : Nat) (c : Chip) {off : Nat} (hlo : off ≠ rIwLo) (hhi : off ≠ rIwHi) :
    getReg (windowEnd data code c) off = getReg (windowAnswered data code c) off := by
  rcases windowEnd_eq data code c with h | ⟨lo, hi, h⟩
  · rw [h]
  · rw [h, getReg_putReg_ne _ _ hhi, getReg_putReg_ne _ _ hlo]

theorem putReg_regs_only (c : Chip) (off v : Nat) : ∃ rg, putReg c off v = { c with regs := rg } := ⟨_, rfl⟩

theorem putF_regs_only (c : Chip) (off lo w v : Nat) : ∃ rg, putF c off lo w v = { c with regs := rg } := putReg_regs_only c off _

theorem windowAnswered_regs (data : Option Nat) (code : Nat) (c : Chip) :
    ∃ rg, windowAnswered data code c = { c with window := {}, regs := rg } := by
  have hdata : ∃ rg, (match data with
      | some v => putReg { c with window := {} } rIwData v
      | none => { c with window := {} }) = { c with window := {}, regs := rg } := by
    cases data
    · exact ⟨c.regs, rfl⟩
    · exact putReg_regs_only _ _ _
  obtain ⟨r0, h0⟩ := hdata
  unfold windowAnswered setStatus
  rw [h0]
  obtain ⟨r1, h1⟩ := putF_regs_only { c with window := {}, regs := r0 } rIwCtrl 7 1 0
  rw [h1]
  obtain ⟨r2, h2⟩ := putF_regs_only { c with window := {}, regs := r1 } rIwCtrl 16 16 code
  rw [h2]
  exact putF_regs_only _ _ _ _ _

theorem windowEnd_regs (data : Option Nat) (code : Nat) (c : Chip) : ∃ rg, windowEnd data code c = { c with window := {}, regs := rg } := by
  obtain ⟨rg, hrg⟩ := windowAnswered_regs data code c
  rcases windowEnd_eq data code c with h | ⟨lo, hi, h⟩
  · exact ⟨rg, h.trans hrg⟩
  · rw [h, hrg]
    obtain ⟨r1, h1⟩ := putReg_regs_only { c with window := {}, regs := rg } rIwLo lo
    rw [h1]
    exact putReg_regs_only _ _ _

theorem getReg_windowAnswered_ctrl (data : Option Nat) (code : Nat) (c : Chip) : ∃ d, getReg (windowAnswered data code c) rIwCtrl =
    getReg (putF (putF d rIwCtrl 7 1 0) rIwCtrl 16 16 code) rIwCtrl := ⟨_, getReg_putF_ne _ _ _ _ (by decide)⟩

/-- The access has ended, in a package whose memory is that of `c`. -/
theorem windowEnd_ended (data : Option Nat) {code : Nat} {c e : Chip} (hm : e.mem = c.mem) (h : code < 65536) :
    WindowEnded c (windowEnd data code e) code := by
  obtain ⟨rg, hrg⟩ := windowEnd_regs data code e
  obtain ⟨d, hctrl⟩ := getReg_windowAnswered_ctrl data code e
  rw [← getReg_windowEnd data code e (by decide) (by decide)] at hctrl
  refine ⟨by rw [hrg], ?_, ?_, ?_, by rw [hrg]; exact hm⟩
  · have hbusy : getF (putF (putF d rIwCtrl 7 1 0) rIwCtrl 16 16 code) rIwCtrl 7 1 = 0 := by
      rw [getF_putF_ne _ _ (.inl (by decide)) (by decide), getF_putF_self _ (by decide), Nat.zero_mod]
    unfold getF at hbusy
    rw [hctrl, bit_eq_fld, hbusy]
    rfl
  · rw [getF_congr _ _ hctrl, getF_putF_self _ (by decide)]
    exact Nat.mod_eq_of_lt h
  · rw [getReg_windowEnd data code e (by decide) (by decide)]
    exact bit_putF_one _ _ (by decide)

/-- The value of a read stands in IW_DATA. -/
theorem windowEnd_data {v : Nat} (code : Nat) (c : Chip) (h : v < 2 ^ 32) : getReg (windowEnd (some v) code c) rIwData = v := by
  rw [getReg_windowEnd _ _ _ (by decide) (by decide)]
  unfold windowAnswered setStatus
  rw [getReg_putF_ne _ _ _ _ (by decide), getReg_putF_ne _ _ _ _ (by decide), getReg_putF_ne _ _ _ _ (by decide), getReg_putReg_self]
  exact Nat.mod_eq_of_lt h

theorem windowEnd_fab (data : Option Nat) (code : Nat) (c : Chip) : (windowEnd data code c).fab = c.fab := by
  obtain ⟨rg, hrg⟩ := windowEnd_regs data code c
  rw [hrg]

/-! ### Flits that are acted on here (R302, R322) -/

/-- What is accepted for this package from one that is not fenced is acted on. -/
theorem exec_delivered {l : Fin 12} {ty : Nat} {f : Flit} {s : State} {c : Chip} (act : Chip → Chip) (h : Delivered s l ty f c) :
    onChip (onFlit l ty f (deliver l f act)) s = .next (s.withChip (act c)) := by
  obtain ⟨d, hr, hty, hf, hdst, rfl⟩ := h
  refine onChip_of ((onFlit_accepted hty hr).trans ?_)
  unfold deliver fromFenced
  rw [hf, if_neg (by decide), if_neg (not_not.mpr hdst)]

/-! ### Transactions (R314) -/

theorem dropTxn_gone (tag : Nat) (c : Chip) : ∀ y ∈ (dropTxn tag c).fab.txns, y.tag ≠ tag := fun _ hy => bne_iff_ne.mp (List.mem_filter.mp hy).2

/-- An access of the window that has ended is outstanding no more. -/
theorem windowEnd_dropTxn_gone (data : Option Nat) (code tag : Nat) (c : Chip) :
    ∀ y ∈ (windowEnd data code (dropTxn tag c)).fab.txns, y.tag ≠ tag := by
  rw [windowEnd_fab]
  exact dropTxn_gone tag c

/-- An answered access of the window ends without error. -/
theorem finishTxn_window {t : Txn} (c : Chip) (h : t.who = .window) : finishTxn t c =
    windowEnd (if t.write then none else some (leNat ((t.bytes.drop t.off).take 4))) 0 (dropTxn t.tag c) := by
  unfold finishTxn
  dsimp only
  rw [h]

theorem finishTxn_done {t : Txn} {b : Fin 32} {j step : Nat} (c : Chip) (h : t.who = .done b j step) : finishTxn t c = dropTxn t.tag c := by
  unfold finishTxn
  dsimp only
  rw [h]

theorem flitData_length (f : Flit) : (flitData f).length = f.len.toNat := by
  unfold flitData
  rw [List.length_take, List.length_append, List.length_replicate]
  omega

/-- The whole answer to a read of the window in one flit ends it with the bytes of the flit. -/
theorem takeData_window {f : Flit} {c : Chip} {x : Txn} (hx : txnOf c f = some x) (hw : x.write = false) (hwho : x.who = .window)
    (hg : x.got = 0) (hb : x.bytes = []) (hl : f.len.toNat = x.len) (ha : f.addr.toNat = x.addr) : ∃ d, d.mem = c.mem ∧
      takeData f c = windowEnd (some (leNat (((flitData f).drop x.off).take 4))) 0 (dropTxn x.tag d) := by
  have hlen : (flitData f).length = x.len := (flitData_length f).trans hl
  have hbytes : ((x.bytes ++ List.replicate x.len 0).take x.len).take (f.addr.toNat - x.addr) ++ flitData f ++
      ((x.bytes ++ List.replicate x.len 0).take x.len).drop (f.addr.toNat - x.addr + (flitData f).length) = flitData f := by
    rw [hb, ha, hlen, Nat.sub_self, Nat.zero_add, List.take_zero, List.nil_append, List.nil_append,
      List.drop_eq_nil_of_le (by rw [List.length_take]; omega), List.append_nil]
  have hany : ∀ y : Txn, y.tag = x.tag →
      ((c.fab.txns.map (fun u => if u.tag == x.tag then y else u)).any (fun u => u.tag == x.tag)) = true := fun y hy =>
    List.any_eq_true.mpr ⟨y, List.mem_map.mpr ⟨x, List.mem_of_find?_eq_some hx, if_pos (beq_self_eq_true _)⟩,
      by rw [hy]; exact beq_self_eq_true _⟩
  have hdone : decide (x.len ≤ x.got + (flitData f).length) = true := decide_eq_true (by omega)
  unfold takeData
  rw [hx]
  dsimp only
  rw [hw, hbytes, hwho, if_neg (by decide)]
  refine ⟨_, ?_, (if_pos ?_).trans (finishTxn_window _ rfl)⟩
  · rfl
  · exact (congrArg₂ _ hdone (hany _ rfl))

theorem reportFar_mem (t : Txn) (code : Nat) (c : Chip) : (reportFar t code c).mem = c.mem := by
  unfold reportFar
  obtain ⟨rg, rc, h⟩ := report_eq { code := code, sev := sevOf code, src := 0x24, addr := t.dst.toNat * 2 ^ 44 + t.addr, peer := t.dst.toNat } c
  rw [h]

/-- A failed access of the window ends with the error; a read's value is 0. -/
theorem takeError_window {f : Flit} {c : Chip} {x : Txn} (hx : c.fab.txns.find? (fun y => y.tag == f.tag.toNat) = some x)
    (hwho : x.who = .window) : takeError f c = windowEnd (if x.write then none else some 0) f.code.toNat (reportFar x f.code.toNat
      (dropTxn x.tag c)) := by
  have htag : x.tag = f.tag.toNat := beq_iff_eq.mp (List.find?_some (p := fun y : Txn => y.tag == f.tag.toNat) hx)
  unfold takeError failTxn
  rw [hx]
  dsimp only
  rw [hwho, htag]

theorem reportFar_fab (t : Txn) (code : Nat) (c : Chip) : (reportFar t code c).fab = c.fab := by
  unfold reportFar
  obtain ⟨rg, rc, h⟩ := report_eq { code := code, sev := sevOf code, src := 0x24, addr := t.dst.toNat * 2 ^ 44 + t.addr, peer := t.dst.toNat } c
  rw [h]

theorem leNat_take4_lt (bs : List Byte) : leNat (bs.take 4) < 2 ^ 32 :=
  Nat.lt_of_lt_of_le (leNat_lt _) (Nat.pow_le_pow_right (by decide) (List.length_take_le 4 bs))

/-- A command that hands its flit to what acts on it here, and changes the chip alone. -/
theorem delivered_at {l : Fin 12} {ty : Nat} {f : Flit} {s : State} {c : Chip} (act : Chip → Chip) (h : Delivered s l ty f c) {d : Chip}
    (hd : act c = d) : ∃ t, onChip (onFlit l ty f (deliver l f act)) s = .next t ∧ sameRest s t ∧ t.chip = d :=
  ⟨_, exec_delivered act h, sameRest_withChip s _, hd⟩

theorem answersCompleteTransactions : AnswersCompleteTransactions := by
  intro l f s c
  refine ⟨?idle, ?beat, ?ack, ?data, ?result, ?error⟩
  case idle =>
    intro hr hty
    exact onChip_of (f := onFlit l 0 f id) (onFlit_accepted hty hr)
  case beat =>
    intro hr hty
    obtain ⟨t, ht, hrest, hd⟩ := onChip_at (f := onFlit l 1 f (takeBeat l f)) (s := s) (onFlit_accepted hty hr)
    refine ⟨t, ht, hrest, ?_, ?_, ?_⟩ <;> rw [hd] <;> unfold takeBeat
    · rw [partnerOf_modPartner_self]
    · exact modPartner_mem _ _ _
    · exact modPartner_regs _ _ _
  case ack =>
    intro x h hx hw hwho
    have hact : takeAck f c = windowEnd none 0 (dropTxn x.tag c) := by
      unfold takeAck
      rw [hx]
      dsimp only
      rw [if_pos hw, finishTxn_window c hwho, if_pos hw]
    obtain ⟨t, ht, hrest, hd⟩ := delivered_at (takeAck f) h hact
    exact ⟨t, ht, hrest, by rw [hd]; exact windowEnd_ended none rfl (by decide), by rw [hd]; exact windowEnd_dropTxn_gone _ _ _ _⟩
  case data =>
    intro x h hx hw hwho hg hb hl ha
    obtain ⟨e, hmem, hact⟩ := takeData_window hx hw hwho hg hb hl ha
    obtain ⟨t, ht, hrest, hd⟩ := delivered_at (takeData f) h hact
    refine ⟨t, ht, hrest, ?_, ?_, ?_⟩ <;> rw [hd]
    · exact windowEnd_ended _ hmem (by decide)
    · exact windowEnd_data 0 _ (leNat_take4_lt _)
    · exact windowEnd_dropTxn_gone _ _ _ _
  case result =>
    intro x b j step h hx hw hwho
    have hact : takeResult f c = dropTxn x.tag c := by
      unfold takeResult
      rw [hx]
      dsimp only
      rw [hw, if_neg (by decide)]
      exact finishTxn_done c hwho
    obtain ⟨t, ht, hrest, hd⟩ := delivered_at (takeResult f) h hact
    refine ⟨t, ht, hrest, ?_, ?_, ?_, ?_⟩ <;> rw [hd]
    · rfl
    · rfl
    · rfl
    · exact dropTxn_gone _ _
  case error =>
    intro x h hx hwho
    obtain ⟨t, ht, hrest, hd⟩ := delivered_at (takeError f) h (takeError_window hx hwho)
    refine ⟨t, ht, hrest, ?_, ?_, ?_⟩ <;> rw [hd]
    · exact windowEnd_ended _ (reportFar_mem _ _ _) f.code.isLt
    · intro hw
      rw [if_neg (by rw [hw]; decide)]
      exact windowEnd_data _ _ (by decide)
    · rw [windowEnd_fab, reportFar_fab]
      exact dropTxn_gone _ _

end Sys2Proof.Machine
end

section
/-! PROOFS. Requests served at their home (R314, R316): what a store, a read, an atomic operation and a multicast write leave in memory. -/

namespace Sys2Proof.Machine

/-! ### Numbers in the data of a flit (log entry 34) -/

theorem leNat_take_add (k n : Nat) (xs : List Byte) : leNat (xs.take (k + n)) = leNat (xs.take k) + 256 ^ k * leNat ((xs.drop k).take n) := by
  induction k generalizing xs with
  | zero => simp [leNat]
  | succ k ih =>
    cases xs with
    | nil => simp [leNat]
    | cons x xs =>
      rw [Nat.add_right_comm, List.take_succ_cons, List.take_succ_cons, List.drop_succ_cons, leNat, leNat, ih, pow_succ]
      ring

/-- The numbers of 32 bits of some bytes, by their place. -/
theorem words_getD (i : Nat) {k : Nat} {xs : List Byte} (h : xs.length ≤ k) :
    ((chunks 4 k xs).map leNat).getD i 0 = leNat ((xs.drop (4 * i)).take 4) := by
  induction k generalizing i xs with
  | zero =>
    rw [List.length_eq_zero_iff.mp (Nat.le_zero.mp h)]
    simp [chunks, leNat]
  | succ k ih =>
    cases xs with
    | nil => simp [chunks, leNat]
    | cons x xs =>
      show (leNat ((x :: xs).take 4) :: (chunks 4 k ((x :: xs).drop 4)).map leNat).getD i 0 = _
      cases i with
      | zero => rfl
      | succ i =>
        rw [List.getD_cons_succ, ih i (by rw [List.length_drop]; simp only [List.length_cons] at h ⊢; omega), List.drop_drop, Nat.mul_succ,
          Nat.add_comm]

/-! ### What an answer leaves (R303) -/

theorem sendAnswer_wire (f : Flit) (o : Option (Fin 12)) (c : Chip) : WireOnly c (sendAnswer f o c) := by
  unfold sendAnswer
  split
  · exact .refl c
  · split
    · exact enqueue_wire _ _ _ _
    · exact .refl c

theorem mem_wire {c d : Chip} (h : WireOnly c d) : d.mem = c.mem := by
  obtain ⟨_, _, _, _, rfl⟩ := h
  rfl

theorem sendAnswer_mem (f : Flit) (o : Option (Fin 12)) (c : Chip) : (sendAnswer f o c).mem = c.mem := mem_wire (sendAnswer_wire f o c)

/-! ### Words of memory at their home (R53, R54, R314) -/

theorem remoteCheck_clean {a n : Nat} {c : Chip} (hh : inHub a n = false) (hb : backed a n = true) (he : c.ecc = []) :
    remoteCheck a n c = .ok () c := by
  unfold remoteCheck
  rw [hh, hb, bind_ok (stopIf_false _ _ _ c), Bool.not_true, bind_ok (stopIf_false _ _ _ c)]
  exact checkEcc_clean _ _ _ c he

theorem remoteStore_clean {a : Nat} {bs : List Byte} {c : Chip} (hb : backed a bs.length = true) (he : c.ecc = []) :
    ∃ d, remoteStore a bs c = .ok () d ∧ d.mem = memWriteN c.mem a bs := by
  unfold remoteStore
  rw [hb, Bool.not_true, bind_ok (stopIf_false _ _ _ c)]
  generalize ((if a % 8 = 0 then [] else [a / 8]) ++ (if (a + bs.length) % 8 = 0 then [] else [(a + bs.length) / 8])).eraseDups = parts
  have hcheck := (forM_foldl (I := fun e => e = c) (f := fun w => checkEcc 0x24 (8 * w) 8) (g := fun e _ => e) parts
    (fun e w _ hc => ⟨by rw [hc]; exact checkEcc_clean _ _ _ c he, hc⟩) rfl)
  rw [bind_ok hcheck.1, bind_ok (writeMem_ok _ _ _), change_ok, hcheck.2]
  exact ⟨_, rfl, putMem_mem _ _ _⟩

theorem serveAdd_clean {a n : Nat} (v : Nat) {c : Chip} (hh : inHub a n = false) (hb : backed a n = true) (he : c.ecc = []) :
    serveAdd a n v c = .ok (memReadN c.mem a n) (putMem c a (leBytes n (leNat (memReadN c.mem a n) + v))) := by
  unfold serveAdd
  rw [hh, hb, bind_ok (stopIf_false _ _ _ c), Bool.not_true, bind_ok (stopIf_false _ _ _ c), bind_ok (get_ok c)]
  rw [bind_ok (rmw_clean _ _ _ he)]
  rfl

theorem unpinAtHome_clean (root slot : Nat) {c : Chip} (he : c.ecc = []) : unpinAtHome root slot c =
    .ok (memReadN c.mem (pinsAddr root (slot % 4)) 4)
      (putMem c (pinsAddr root (slot % 4)) (leBytes 4 (leNat (memReadN c.mem (pinsAddr root (slot % 4)) 4) - 1))) := by
  unfold unpinAtHome
  rw [bind_ok (get_ok c)]
  rw [bind_ok (rmw_clean _ _ _ he)]
  rfl

/-- An operation on a root of this package that the checks of R314 let through. -/
theorem serveRoot_clean {a op : Nat} {xs : List Nat} {c : Chip} (hh : inHub a 192 = false) (hb : backed a 192 = true) :
    (op = opUnpin → serveRoot a op xs c = unpinAtHome a (xs.getD 0 0) c) ∧
    (op = opRead → backed a (192 + 32 * fld (leNat (memReadN c.mem a 8)) 0 9) = true → serveRoot a op xs c = readMem kvUnit a 192 c) := by
  unfold serveRoot
  rw [hh, hb, bind_ok (stopIf_false _ _ _ c), Bool.not_true, bind_ok (stopIf_false _ _ _ c), bind_ok (get_ok c)]
  refine ⟨?_, ?_⟩
  · rintro rfl
    exact bind_ok (stopIf_false _ _ _ c)
  · rintro rfl hl
    rw [hl]
    exact bind_ok (stopIf_false _ _ _ c)

/-! ### Requests served (R314) -/

/-- What is accepted for this package from one that is not fenced is acted on by the package. -/
theorem exec_deliveredDev {l : Fin 12} {ty : Nat} {f : Flit} {s : State} {c d : Chip} {act : Dev → Dev} (h : Delivered s l ty f c)
    (ha : act { s.dev with chip := c } = { s.dev with chip := d }) :
    onDev (onFlitDev l ty f (deliverDev l f act)) s = .next (s.withChip d) := by
  obtain ⟨e, hr, hty, hf, hdst, rfl⟩ := h
  have hact : onFlitDev l ty f (deliverDev l f act) s.dev = { s.dev with chip := d } := by
    have hr' : receive l f s.dev.chip = (.accepted, e) := hr
    have hf' : fromFenced { s.dev with chip := e }.chip f = false := hf
    unfold onFlitDev
    rw [if_neg (fun hn => hn.1 hty), hr']
    dsimp only
    unfold deliverDev
    rw [hf', if_neg (by decide), if_neg (not_not.mpr hdst)]
    exact ha
  rw [onDev_eq, hact]
  rfl

/-- A WRITE for memory stores its bytes. -/
theorem serveWrite_stores {f : Flit} {d : Dev} (hh : inHub (sys d.chip f.addr.toNat) f.len.toNat = false)
    (hb : backed (sys d.chip f.addr.toNat) f.len.toNat = true) (he : d.chip.ecc = []) :
    ∃ e, serveWrite f d = { d with chip := e } ∧ e.mem = memWriteN d.chip.mem (sys d.chip f.addr.toNat) (flitData f) := by
  rw [← flitData_length f] at hh hb
  obtain ⟨e, hstore, hmem⟩ := remoteStore_clean hb he
  have hrun := (runEff_eq_ok _ _ _ _).mpr hstore
  unfold serveWrite
  dsimp only
  rw [hh, if_neg (show ¬false = true by decide), hrun]
  dsimp only
  rw [if_neg (show ¬0 = eLater by decide)]
  exact ⟨_, rfl, (sendAnswer_mem _ _ _).trans hmem⟩

/-- A READ_REQ for memory is answered with the bytes that stand there. -/
theorem serveRead_reads {f : Flit} {d : Dev} (hh : inHub (sys d.chip f.addr.toNat) f.len.toNat = false)
    (hb : backed (sys d.chip f.addr.toNat) f.len.toNat = true) (he : d.chip.ecc = []) :
    serveRead f d = d.chipDo (sendData f (memReadN d.chip.mem (sys d.chip f.addr.toNat) f.len.toNat)) := by
  have hread : (do remoteCheck (sys d.chip f.addr.toNat) f.len.toNat
                   readMem 0x24 (sys d.chip f.addr.toNat) f.len.toNat : Eff (List Byte)) d.chip =
      .ok (memReadN d.chip.mem (sys d.chip f.addr.toNat) f.len.toNat) d.chip :=
    (bind_ok (remoteCheck_clean hh hb he)).trans (readMem_clean _ _ _ _ he (pkgOf_sys d.chip f.addr.isLt))
  have hrun := (runEff_eq_ok _ _ _ _).mpr hread
  -- Unfolded as a function: unfolded where it is applied, it takes the kernel past its depth.
  generalize hserve : serveRead = serve
  delta serveRead at hserve
  subst hserve
  beta_reduce
  simp only [hh, Bool.false_eq_true, if_false, hrun]

/-- The operation and the first operand of an ATOMIC, by their places in its data. -/
theorem atomicWord (f : Flit) (i : Nat) : ((chunks 4 f.len.toNat (flitData f)).map leNat).getD i 0 = leNat (((flitData f).drop (4 * i)).take 4) :=
  words_getD i (Nat.le_of_eq (flitData_length f))

/-- An ATOMIC that adds to a word of 32 or 64 bits. -/
theorem serveAtomic_adds {f : Flit} {n : Nat} {c : Chip}
    (ho : leNat ((flitData f).take 4) = opAdd ∧ n = 4 ∨ leNat ((flitData f).take 4) = opAdd64 ∧ n = 8)
    (hh : inHub (sys c f.addr.toNat) n = false) (hb : backed (sys c f.addr.toNat) n = true) (he : c.ecc = []) :
    (serveAtomic f c).mem = memWriteN c.mem (sys c f.addr.toNat)
      (leBytes n (leNat (memReadN c.mem (sys c f.addr.toNat) n) + leNat (((flitData f).drop 4).take n))) := by
  have hrun := fun v => (runEff_eq_ok _ _ _ _).mpr (serveAdd_clean v hh hb he)
  unfold serveAtomic
  simp only [atomicWord, Nat.mul_zero, List.drop_zero]
  rcases ho with ⟨hop, rfl⟩ | ⟨hop, rfl⟩
  · rw [hop, if_pos rfl, hrun]
    exact (sendAnswer_mem _ _ _).trans (putMem_mem _ _ _)
  · have hword : leNat (((flitData f).drop (4 * 1)).take 4) + leNat (((flitData f).drop (4 * 2)).take 4) * 2 ^ 32 =
        leNat (((flitData f).drop 4).take 8) := by
      rw [leNat_take_add 4 4, List.drop_drop, Nat.mul_comm _ (2 ^ 32)]
      rfl
    rw [hop, if_neg (by decide), if_pos rfl, hword, hrun]
    exact (sendAnswer_mem _ _ _).trans (putMem_mem _ _ _)

/-- An ATOMIC on a root. -/
theorem serveAtomic_root {f : Flit} {c d : Chip} {bs : List Byte} (h0 : leNat ((flitData f).take 4) ≠ opAdd)
    (h1 : leNat ((flitData f).take 4) ≠ opAdd64)
    (h : ∀ xs : List Nat, xs.getD 0 0 = leNat (((flitData f).drop 4).take 4) →
      serveRoot (sys c f.addr.toNat) (leNat ((flitData f).take 4)) xs c = .ok bs d) :
    serveAtomic f c = sendAnswer (answerFlit d f 7 bs) none d := by
  have hxs : (((chunks 4 f.len.toNat (flitData f)).map leNat).drop 1).getD 0 0 = leNat (((flitData f).drop 4).take 4) := by
    rw [← atomicWord f 1, List.getD_eq_getElem?_getD, List.getD_eq_getElem?_getD, List.getElem?_drop]
  have hrun := (runEff_eq_ok _ _ _ _).mpr (h _ hxs)
  unfold serveAtomic
  dsimp only
  rw [atomicWord f 0, Nat.mul_zero, List.drop_zero, if_neg h0, if_neg h1, hrun]

/-- A multicast write is stored where MASK names this package. -/
theorem takeCast_stores {l : Fin 12} {f : Flit} {c : Chip} (hty : f.ty.toNat = 8) (hf : fenced c f.src.toNat = false)
    (hm : bit f.mask.toNat (pkg c) = true) (hh : inHub (sys c f.addr.toNat) f.len.toNat = false)
    (hb : backed (sys c f.addr.toNat) f.len.toNat = true) :
    (takeCast l f c).mem = memWriteN c.mem (sys c f.addr.toNat) (flitData f) := by
  have h8 : f.ty = 8 := BitVec.eq_of_toNat_eq hty
  rw [← flitData_length f] at hh hb
  unfold takeCast fromFenced
  rw [hf, if_neg (show ¬false = true by decide), h8, if_neg (fun h => absurd h.1 (by decide))]
  dsimp only
  rw [hm, hb, hh, if_pos (by decide)]
  refine (mem_wire ?_).trans (putMem_mem c _ _)
  split
  · exact modLink_wire _ _ _
  · exact (enqueue_wire _ _ _ _).trans (WireOnly.foldl (fun c m => enqueue_wire m none f c) _ _)

theorem requestsAreServed : RequestsAreServed := by
  intro l f s c
  refine ⟨?write, ?read, ?add, ?root, ?cast⟩
  case write =>
    intro h hh hb he
    obtain ⟨d, hd, hmem⟩ := serveWrite_stores (d := { s.dev with chip := c }) hh hb he
    exact ⟨_, exec_deliveredDev h hd, sameRest_withChip s _, hmem⟩
  case read =>
    intro h hh hb he
    exact exec_deliveredDev h (serveRead_reads (d := { s.dev with chip := c }) hh hb he)
  case add =>
    intro n h ho hh hb he
    obtain ⟨t, ht, hrest, hd⟩ := delivered_at (serveAtomic f) h rfl
    exact ⟨t, ht, hrest, by rw [hd]; exact serveAtomic_adds ho hh hb he⟩
  case root =>
    rintro a h rfl hh hb he
    have hroot := fun op xs => serveRoot_clean (op := op) (xs := xs) (c := c) hh hb
    refine ⟨fun hop hl => ?_, fun p hop hp => ?_⟩
    · refine (exec_delivered (serveAtomic f) h).trans (congrArg (fun d => Host.Outcome.next (s.withChip d)) ?_)
      refine serveAtomic_root (by rw [hop]; decide) (by rw [hop]; decide) fun xs _ => ((hroot _ xs).2 hop hl).trans ?_
      exact readMem_clean _ _ _ _ he (pkgOf_sys c f.addr.isLt)
    · subst hp
      have hserve := serveAtomic_root (f := f) (c := c) (by rw [hop]; decide) (by rw [hop]; decide) fun xs hx =>
        ((hroot _ xs).1 hop).trans ((congrArg (unpinAtHome _ · c) hx).trans (unpinAtHome_clean _ _ he))
      obtain ⟨t, ht, hrest, hd⟩ := delivered_at (serveAtomic f) h hserve
      exact ⟨t, ht, hrest, by rw [hd]; exact (sendAnswer_mem _ _ _).trans (putMem_mem _ _ _)⟩
  case cast =>
    intro hr hty hf hm hh hb
    have hif : (if f.ty = 9 then 9 else 8) = f.ty.toNat := by
      rw [show f.ty = 8 from BitVec.eq_of_toNat_eq hty]
      rfl
    obtain ⟨t, ht, hrest, hd⟩ := onChip_at (f := onFlit l (if f.ty = 9 then 9 else 8) f (takeCast l f)) (s := s) (onFlit_accepted hif.symm hr)
    exact ⟨t, ht, hrest, by rw [hd]; exact takeCast_stores hty hf hm hh hb⟩

/-- Settles O39: each answer completes its transaction, and each request is the read or write of memory that it asks for. -/
theorem flitsAreServed : Obligations.FlitsAreServed := ⟨answersCompleteTransactions, requestsAreServed⟩

end Sys2Proof.Machine
end

section
/-! PROOFS. The fence of a package with which nothing is under way (R302, R321, R322). -/

namespace Sys2Proof.Machine

/-! ### Changes of the links alone (R311 to R313, R320) -/

/-- `d` is `c` but for the log, the links and the counters of the links. -/
structure LinksOnly (c d : Chip) : Prop where
  wire : WireOnly c d
  links : LinksMove c d
  regs : LinkRegsOnly c d

theorem LinksOnly.refl (c : Chip) : LinksOnly c c := ⟨.refl c, .refl c, .refl c⟩

theorem LinksOnly.trans {c d e : Chip} (h : LinksOnly c d) (k : LinksOnly d e) : LinksOnly c e :=
  ⟨h.wire.trans k.wire, h.links.trans k.links, h.regs.trans k.regs⟩

theorem LinksOnly.foldl {α : Type} {f : Chip → α → Chip} (h : ∀ c x, LinksOnly c (f c x)) (xs : List α) (c : Chip) :
    LinksOnly c (xs.foldl f c) :=
  foldl_keeps xs (fun d x _ hd => hd.trans (h d x)) (.refl c)

theorem modLink_only (l : Fin 12) (f : Link → Link) (c : Chip) : LinksOnly c (modLink l f c) :=
  ⟨modLink_wire l f c, modLink_links l f c, modLink_linkRegs l f c⟩

theorem endWait_only (l : Fin 12) (c : Chip) : LinksOnly c (endWait l c) := ⟨endWait_wire l c, endWait_links l c, endWait_regs l c⟩

theorem freeOrigin_only (x : Queued) (c : Chip) : LinksOnly c (freeOrigin x c) :=
  ⟨creditBack_wire _ _ (.refl c), creditBack_links _ _ (.refl c), creditBack_regs _ _ (.refl c)⟩

/-- Of the package the flits held for another change the links alone as they are given up. -/
theorem purgeFlits_only (p : Nat) (c : Chip) : LinksOnly c (purgeFlits p c).2 := by
  have hwait : ∀ (l : Fin 12) (e : Chip), LinksOnly e (if e.fab.links[l].waiting = [] then endWait l e else e) := fun l e => by
    split
    · exact endWait_only l e
    · exact .refl e
  unfold purgeFlits
  dsimp only
  exact LinksOnly.foldl (fun d l => ((modLink_only l _ d).trans (hwait l _)).trans (LinksOnly.foldl (fun e x => freeOrigin_only x e) _ _)) _ c

/-! ### A package with which nothing is under way (R322) -/

/-- Package `p` is a member that is not fenced, no link is UP or TRAINING, no transaction is outstanding, nothing of a model set is under way, no
job names `p`, and no other package is LIVE. -/
structure Unconcerned (c : Chip) (p : Nat) : Prop where
  lt : p < 16
  own : p ≠ pkg c
  member : member c p = true
  unfenced : getF c (rPartner p) 0 2 ≠ 3
  txns : c.fab.txns = []
  loads : c.ms.loads = []
  repls : c.ms.repls = []
  jobs : ∀ j, j < 256 → p ∉ jobPkgs c j
  links : ∀ l : Fin 12, linkState c l ≠ 1 ∧ linkState c l ≠ 2
  others : ∀ q, q < 16 → q ≠ p → q ≠ pkg c → getF c (rPartner q) 0 2 ≠ 2

theorem quietPartner_unconcerned {c : Chip} {p : Nat} (h : QuietPartner c p) : Unconcerned c p := by
  obtain ⟨hlt, hown, hmem, hunf, -, htxns, -, hloads, hrepls, hjobs, hlinks, hothers⟩ := h
  exact ⟨hlt, hown, hmem, hunf, htxns, hloads, hrepls, hjobs, hlinks, hothers⟩

/-- The registers that tell of members, links and jobs. -/
def TellsOfOthers (off : Nat) : Prop := 0x25000 ≤ off ∧ off < 0x25300 ∨ 0x27000 ≤ off ∧ off < 0x27800

theorem tells_members : TellsOfOthers rMembers := .inl ⟨by decide, by decide⟩

theorem tells_partner {p : Nat} (h : p < 16) : TellsOfOthers (rPartner p) := .inl (by unfold rPartner; omega)

theorem tells_status (l : Fin 12) : TellsOfOthers (rLinkStatus l.val) := .inl (by have := l.isLt; unfold rLinkStatus; omega)

theorem tells_job {j : Nat} (h : j < 256) : TellsOfOthers (rRcJob j) := .inr (by unfold rRcJob; omega)

/-- A package of which members, links, jobs, transactions and model sets are as before is still without concern. -/
theorem Unconcerned.of_same {c d : Chip} {p : Nat} (h : Unconcerned c p) (hp : pkg d = pkg c) (ht : d.fab.txns = c.fab.txns) (hm : d.ms = c.ms)
    (hr : ∀ off, TellsOfOthers off → getReg d off = getReg c off) : Unconcerned d p := by
  refine ⟨h.lt, hp ▸ h.own, ?_, ?_, ht.trans h.txns, hm ▸ h.loads, hm ▸ h.repls, fun j hj => ?_, fun l => ?_, fun q hq hqp hown => ?_⟩
  · unfold Machine.member
    rw [hr _ tells_members]
    exact h.member
  · rw [getF_congr 0 2 (hr _ (tells_partner h.lt))]
    exact h.unfenced
  · unfold jobPkgs
    rw [getF_congr 16 16 (hr _ (tells_job hj))]
    exact h.jobs j hj
  · rw [linkState_congr (hr _ (tells_status l))]
    exact h.links l
  · rw [getF_congr 0 2 (hr _ (tells_partner hq))]
    exact h.others q hq hqp (hp ▸ hown)

/-! ### The course of the fence -/

/-- `d` is on the way from `c` to the fence of `p`: its entry is FENCED with the cause, and nothing else that the course depends on has changed. -/
structure Fencing (p cause : Nat) (c d : Chip) : Prop where
  mem : d.mem = c.mem
  pkg : pkg d = pkg c
  txns : d.fab.txns = c.fab.txns
  ms : d.ms = c.ms
  state : getF d (rPartner p) 0 2 = 3
  cause : getF d (rPartner p) 5 4 = cause
  regs : ∀ off, TellsOfOthers off → off ≠ rPartner p → getReg d off = getReg c off

section
variable {p cause : Nat} {c d e : Chip}

/-- A change that leaves memory, the package's number, transactions, model sets and the registers that tell of others is a step on the way. -/
theorem Fencing.step (h : Fencing p cause c d) (hp : p < 16) (hmem : e.mem = d.mem) (hpkg : Machine.pkg e = Machine.pkg d)
    (ht : e.fab.txns = d.fab.txns) (hms : e.ms = d.ms) (hr : ∀ off, TellsOfOthers off → getReg e off = getReg d off) : Fencing p cause c e :=
  ⟨hmem.trans h.mem, hpkg.trans h.pkg, ht.trans h.txns, hms.trans h.ms, (getF_congr _ _ (hr _ (tells_partner hp))).trans h.state,
    (getF_congr _ _ (hr _ (tells_partner hp))).trans h.cause, fun off ho hne => (hr off ho).trans (h.regs off ho hne)⟩

theorem Fencing.linksOnly (h : Fencing p cause c d) (hp : p < 16) (hl : LinksOnly d e) : Fencing p cause c e := by
  obtain ⟨ls, hfab⟩ := hl.links.fab
  have hregs := hl.regs
  obtain ⟨_, _, _, _, rfl⟩ := hl.wire
  exact h.step hp rfl rfl (by rw [hfab]) rfl fun off ho => hregs off (by unfold TellsOfOthers at ho; omega)

theorem Fencing.report (h : Fencing p cause c d) (hp : p < 16) (r : Report) : Fencing p cause c (report r d) := by
  have hr : ∀ off, TellsOfOthers off → getReg (Machine.report r d) off = getReg d off := fun off ho =>
    getReg_report_hub r d (by unfold TellsOfOthers at ho; omega) (by unfold TellsOfOthers at ho; omega)
  obtain ⟨rg, rc, heq⟩ := report_eq r d
  rw [heq] at hr ⊢
  exact h.step hp rfl rfl rfl rfl hr

/-- No link is UP or TRAINING on the way. -/
theorem Fencing.links (h : Fencing p cause c d) (hu : Unconcerned c p) (l : Fin 12) : linkState d l ≠ 1 ∧ linkState d l ≠ 2 := by
  have hp := hu.lt
  rw [linkState_congr (h.regs _ (tells_status l) (by have := l.isLt; unfold rLinkStatus rPartner; omega))]
  exact hu.links l

/-- Nobody to whom an error could be told. -/
theorem giveUp_nobody {code : Nat} (f : Flit) (ht : d.fab.txns = []) (hl : ∀ l, linkState d l ≠ 2) : giveUp code f d = d := by
  have hfail : ∀ tag, failTxn tag code d = d := fun tag => by unfold failTxn; rw [ht]; rfl
  have hsend : ∀ g o, sendAnswer g o d = d := fun g o => by
    unfold sendAnswer
    rw [nextHop_none hl]
    split <;> rfl
  unfold giveUp
  split
  · rfl
  · split
    · exact hfail _
    · exact hsend _ _

/-- A link that is neither UP nor TRAINING cannot go DOWN. -/
theorem dropLink_down {l : Fin 12} {k lane : Nat} (h : linkState d l ≠ 1 ∧ linkState d l ≠ 2) : dropLink l k lane d = d :=
  if_neg (fun ho => ho.elim h.1 h.2)

theorem noteFence_fencing (by' : Option (Nat × Nat)) (hc : cause < 16) : Fencing p cause c (noteFence p cause by' c) := by
  have hreg : ∀ d : Chip, ∀ off, off ≠ rPartner p → getReg (putF (putF d (rPartner p) 0 2 3) (rPartner p) 5 4 cause) off = getReg d off :=
    fun d off ho => by rw [getReg_putF_ne _ _ _ _ ho, getReg_putF_ne _ _ _ _ ho]
  unfold noteFence
  dsimp only
  refine ⟨?_, ?_, ?_, ?_, ?_, ?_, fun off _ ho => (hreg _ off ho).trans (getReg_modPartner _ _ _ _)⟩
  · rw [putF_mem, putF_mem, modPartner_mem]
  · unfold Machine.pkg
    rw [putF_power, putF_power, modPartner_power]
  · rw [putF_fab, putF_fab]
    rfl
  · rw [putF_ms, putF_ms, modPartner_ms]
  · rw [getF_putF_ne _ _ (.inl (by decide)) (by decide), getF_putF_self _ (by decide)]
    rfl
  · rw [getF_putF_self _ (by decide)]
    exact Nat.mod_eq_of_lt hc

/-- A change of the fabric beside its transactions. -/
theorem Fencing.fabric (h : Fencing p cause c d) (hp : p < 16) {f : Fab} (hf : f.txns = d.fab.txns) : Fencing p cause c { d with fab := f } :=
  h.step hp rfl rfl hf rfl fun _ _ => rfl

theorem mailsFenced_fencing (h : Fencing p cause c d) (hp : p < 16) : Fencing p cause c (mailsFenced p d) := by
  unfold mailsFenced
  dsimp only
  refine foldl_keeps _ (fun e x _ he => ?_) (h.fabric hp rfl)
  exact (he.report hp _).step hp rfl rfl rfl rfl fun _ _ => rfl

/-- The fence has been reported. -/
structure FenceTold (d : Chip) : Prop where
  status : bit (getReg d rStatus) 2 = true
  last : getReg d rErrLast = 0x0B06 + 2 * 65536

theorem fenceTold_report {r : Report} (d : Chip) (hcode : r.code = ePartnerLost) (hsev : r.sev = 2) : FenceTold (setStatus 2 (report r d)) := by
  unfold setStatus
  refine ⟨bit_putF_one _ _ (by decide), ?_⟩
  rw [getReg_putF_ne _ _ _ _ (by decide), getReg_report_errLast r d (by rw [hsev]; decide), hcode, hsev]
  rfl

/-- With no one to be told but this package, and nothing of jobs and model sets to end, the fence ends with its report. -/
theorem afterFence_told (by' : Option (Nat × Nat)) (h : Fencing p cause c d) (hu : Unconcerned c p) :
    Fencing p cause c (afterFence p cause by' d) ∧ FenceTold (afterFence p cause by' d) := by
  have hp := hu.lt
  have hunconfirm : Fencing p cause c (unconfirm p { d with away := d.away.filter (fun x => x.thief.toNat != p) }) :=
    h.step hp rfl rfl rfl rfl fun _ _ => rfl
  have hmails := mailsFenced_fencing hunconfirm hp
  unfold afterFence
  dsimp only
  generalize mailsFenced p (unconfirm p { d with away := d.away.filter (fun x => x.thief.toNat != p) }) = e at hmails
  have hlive : livePartners e = [] := List.filter_eq_nil_iff.mpr fun q _ => by
    rw [hopOk_iff]
    exact fun hq => hq.2 (upLinks_nil (fun l => (hmails.links hu l).2) q)
  rw [hlive, List.all_nil, if_pos rfl]
  generalize hr : ({ code := ePartnerLost, sev := sevOf ePartnerLost, src := 0x24, peer := p, arg := cause } : Report) = r
  have htold : FenceTold (setStatus 2 (report r e)) := fenceTold_report e (by rw [← hr]) (by rw [← hr]; rfl)
  have hreport : Fencing p cause c (setStatus 2 (report r e)) := (hmails.report hp r).step hp rfl rfl rfl rfl fun off ho =>
    getReg_putF_ne _ _ _ _ (by unfold TellsOfOthers at ho; unfold rStatus; omega)
  generalize setStatus 2 (report r e) = e at htold hreport
  have hjobs : (List.range 256).filter (fun j => (jobPkgs e j).contains p) = [] := List.filter_eq_nil_iff.mpr fun j hj => by
    have hj := List.mem_range.mp hj
    unfold jobPkgs
    rw [getF_congr 16 16 (hreport.regs _ (tells_job hj) (by have := hu.lt; unfold rRcJob rPartner; omega)), List.contains_iff_mem]
    exact hu.jobs j hj
  rw [hjobs, List.foldl_nil]
  unfold msFenced
  dsimp only
  rw [hreport.ms, hu.loads, List.foldl_nil, hreport.ms, hu.repls, List.foldl_nil]
  exact ⟨hreport, htold⟩

/-- With no transaction outstanding, and no one to be answered, nothing of the flits held is told. -/
theorem heldFlits_told (by' : Option (Nat × Nat)) (held : List Flit) (h : Fencing p cause c d) (hu : Unconcerned c p) :
    let e := (oncePerTxn held).foldl (fun c f => giveUp eFabFenced f c)
      ((d.fab.txns.filter (fun t => t.dst.toNat == p)).foldl (fun c t => failTxn t.tag eFabFenced c) d)
    Fencing p cause c (afterFence p cause by' e) ∧ FenceTold (afterFence p cause by' e) := by
  have hgive : (oncePerTxn held).foldl (fun c f => giveUp eFabFenced f c) d = d :=
    foldl_keeps (I := fun e => e = d) _ (fun e f _ he => by
      rw [he]; exact giveUp_nobody f (h.txns.trans hu.txns) fun l => (h.links hu l).2) rfl
  dsimp only
  rw [h.txns, hu.txns, List.filter_nil, List.foldl_nil, hgive]
  exact afterFence_told by' h hu

/-- A package with which nothing is under way is fenced, and the fence is reported. -/
theorem fenceOne_told (by' : Option (Nat × Nat)) (hc : cause < 16) (hu : Unconcerned c p) :
    Fencing p cause c (fenceOne p cause by' c) ∧ FenceTold (fenceOne p cause by' c) := by
  have hp := hu.lt
  have hnew : ¬(p = Machine.pkg c ∨ (!member c p) = true ∨ getF c (rPartner p) 0 2 = 3 ∨ 16 ≤ p) := by
    rw [hu.member]
    rintro (h | h | h | h)
    · exact hu.own h
    · cases h
    · exact hu.unfenced h
    · omega
  have hpurged := (noteFence_fencing (c := c) (p := p) by' hc).linksOnly hp (purgeFlits_only p _)
  unfold fenceOne
  rw [if_neg hnew]
  dsimp only
  generalize (purgeFlits p (noteFence p cause by' c)).1 = held
  generalize (purgeFlits p (noteFence p cause by' c)).2 = d at hpurged
  split
  · next k _ =>
    have hdrop : (linksOf k).foldl (fun c l => dropLink l 7 0 c) d = d :=
      foldl_keeps (I := fun e => e = d) _ (fun e l _ he => by rw [he]; exact dropLink_down (hpurged.links hu l)) rfl
    rw [hdrop]
    exact heldFlits_told by' held hpurged hu
  · exact heldFlits_told by' held hpurged hu

end

end Sys2Proof.Machine
end

section
/-! PROOFS. Fences, unfencing, and the members of the system (R301, R322, R324, R327). -/

namespace Sys2Proof.Machine

/-! ### The fence of a package, and what follows (R302, R322) -/

/-- Package `p` is fenced with its cause, the fence is reported, and memory is as it was. -/
structure Fenced (p cause : Nat) (c d : Chip) : Prop where
  state : getF d (rPartner p) 0 2 = 3
  cause : getF d (rPartner p) 5 4 = cause
  status : bit (getReg d rStatus) 2 = true
  last : getReg d rErrLast = 0x0B06 + 2 * 65536
  mem : d.mem = c.mem

/-- An entry that reads FENCED stays as it is while the entries follow the routes. -/
theorem getReg_refreshPartners_fenced {c : Chip} {p : Nat} (hp : p < 16) (hown : p ≠ pkg c) (hm : member c p = true)
    (h3 : getF c (rPartner p) 0 2 = 3) : getReg (refreshPartners c) (rPartner p) = getReg c (rPartner p) := by
  rw [getReg_refreshPartners c hp]
  unfold partnerEntry entryAfter
  rw [if_neg hown, hm]
  exact if_pos h3

theorem fencePkg_fenced {p cause : Nat} (by' : Option (Nat × Nat)) {c : Chip} (hc : cause < 16) (hu : Unconcerned c p) :
    Fenced p cause c (fencePkg p cause by' c) := by
  obtain ⟨h, htold⟩ := fenceOne_told by' hc hu
  unfold fencePkg
  generalize fenceOne p cause by' c = d at h htold
  have hmember : ∀ q, member d q = member c q := fun q => by
    unfold member
    rw [h.regs _ tells_members (by unfold rMembers rPartner; omega)]
  have hroutes : RoutesHold d := fun q hq hown _ hlive => by
    by_cases hqp : q = p
    · rw [hqp, h.state] at hlive
      cases hlive
    · rw [getF_congr 0 2 (h.regs _ (tells_partner hq) (rPartner_ne hqp))] at hlive
      exact absurd hlive (hu.others q hq hqp (h.pkg ▸ hown))
  have hentry := getReg_refreshPartners_fenced hu.lt (h.pkg ▸ hu.own) ((hmember p).trans hu.member) h.state
  obtain ⟨rg, hrg⟩ := refreshPartners_regs d
  rw [settleRoutes_routes hroutes]
  refine ⟨(getF_congr _ _ hentry).trans h.state, (getF_congr _ _ hentry).trans h.cause, ?_, ?_, ?_⟩
  · rw [getReg_refreshPartners_ne d (.inl (by decide))]
    exact htold.status
  · rw [getReg_refreshPartners_ne d (.inl (by decide))]
    exact htold.last
  · rw [hrg]
    exact h.mem

/-! ### The write of TH_FENCE (R327) -/

theorem tells_ne_fence {off : Nat} (h : TellsOfOthers off) : off ≠ rFence := by unfold TellsOfOthers at h; unfold rFence; omega

theorem Unconcerned.storeFence {c : Chip} {p : Nat} (h : Unconcerned c p) (v : Nat) : Unconcerned (storeReg c rFence v) p := by
  obtain ⟨rg, hrg⟩ := storeReg_eq c rFence v
  exact h.of_same (by rw [hrg]; rfl) (by rw [hrg]) (by rw [hrg]) fun off ho => getReg_storeReg_ne c v (tells_ne_fence ho)

theorem wFence_fences {v : Nat} (c : Chip) (h4 : bit v 4 = true) (h5 : bit v 5 = false) :
    wFence v c = (0, fencePkg (fld v 0 4) 5 none (storeReg c rFence v)) := by
  unfold wFence
  rw [h4, h5]
  rfl

theorem wFence_unfences {v : Nat} (c : Chip) (h4 : bit v 4 = false) (h5 : bit v 5 = true) :
    wFence v c = unfence (fld v 0 4) (storeReg c rFence v) := by
  unfold wFence
  rw [h4, h5]
  rfl

theorem storeReg_mem (c : Chip) (off v : Nat) : (storeReg c off v).mem = c.mem := by
  obtain ⟨rg, hrg⟩ := storeReg_eq c off v
  rw [hrg]

/-- What the write of TH_FENCE stores tells of nothing else. -/
theorem storeFence_leaves (c : Chip) (v : Nat) : (∀ off, off ≠ rFence → getReg (storeReg c rFence v) off = getReg c off) ∧
    pkg (storeReg c rFence v) = pkg c ∧ (storeReg c rFence v).fab = c.fab ∧ (storeReg c rFence v).mem = c.mem := by
  obtain ⟨rg, hrg⟩ := storeReg_eq c rFence v
  exact ⟨fun off h => getReg_storeReg_ne c v h, by rw [hrg]; rfl, by rw [hrg], by rw [hrg]⟩

/-- The answer to a write adds to the log alone. -/
theorem Fenced.answered {p cause : Nat} {c d e : Chip} (h : Fenced p cause c d) (hm : c.mem = e.mem) (x : Emit) : Fenced p cause e (emit x d) :=
  ⟨h.state, h.cause, h.status, h.last, h.mem.trans hm⟩

/-! ### A LOST notice (R322) -/

/-- A notice leaves a confirmation, and a package that is without concern stays so. -/
theorem Unconcerned.confirms {c : Chip} {p : Nat} (h : Unconcerned c p) {src tag : Nat} (hf : fenced c src = false)
    (hs : tag ∉ tabGet [] c.fab.seen src) : Unconcerned (onConfirmed src tag id c) p ∧ (onConfirmed src tag id c).mem = c.mem := by
  obtain ⟨d, hd, hheard⟩ := onConfirmed_acts id hf hs
  obtain ⟨ls, sn, hfab⟩ := onConfirmed_fab src tag c
  have hregs := hheard.regs
  obtain ⟨_, _, _, _, rfl⟩ := hheard.wire
  rw [hd] at hfab ⊢
  refine ⟨h.of_same rfl ?_ rfl fun off ho => hregs off (by unfold TellsOfOthers at ho; omega), rfl⟩
  show _ = c.fab.txns
  exact (congrArg Fab.txns hfab).trans rfl

/-! ### UNFENCE (R324) -/

/-- UNFENCE of a fenced package with a new nonce and a route makes it LIVE. -/
theorem unfence_live {c : Chip} {p : Nat} (hp : p < 16) (hown : p ≠ pkg c) (hm : member c p = true) (hf : getF c (rPartner p) 0 2 = 3)
    (hn : (partnerOf c p).newNonce = true) (hr : (nextHop c p).isSome = true) (hs : c.fab.selfFenced = false)
    (ho : ∀ q, q < 16 → q ≠ p → q ≠ pkg c → getF c (rPartner q) 0 2 ≠ 2) :
    ∃ d, unfence p c = (0, d) ∧ getF d (rPartner p) 0 2 = 2 ∧ d.mem = c.mem := by
  have hlive : getReg (putReg c (rPartner p) 2) (rPartner p) = 2 := getReg_putReg_self _ _ _
  have hother : ∀ off, off ≠ rPartner p → getReg (putReg c (rPartner p) 2) off = getReg c off := fun off h => getReg_putReg_ne c 2 h
  have hunfence : unfence p c = (0, settleRoutes (putReg c (rPartner p) 2)) := if_pos ⟨hown, hm, hf, hn, hr, by rw [hs]; rfl⟩
  obtain ⟨rg, hrg⟩ := putReg_regs_only c (rPartner p) 2
  have hpkg : pkg (putReg c (rPartner p) 2) = pkg c := by rw [hrg]; rfl
  have hmem : (putReg c (rPartner p) 2).mem = c.mem := by rw [hrg]
  have hfab : (putReg c (rPartner p) 2).fab = c.fab := by rw [hrg]
  rw [hunfence]
  generalize putReg c (rPartner p) 2 = d at hlive hother hpkg hmem hfab
  have hmember : ∀ q, member d q = member c q := fun q => by
    unfold member
    rw [hother _ (by unfold rMembers rPartner; omega)]
  have hfenced : ∀ q, fenced d q = true → fenced c q = true := fun q hq => by
    by_cases hqp : q = p
    · unfold fenced
      rw [hqp, hm, hf, decide_eq_true hown]
      rfl
    · unfold fenced at hq ⊢
      rwa [hpkg, hmember, hfab, getF_congr 0 2 (hother _ (rPartner_ne hqp))] at hq
  have hlinks : ∀ l, linkState d l = linkState c l := fun l =>
    linkState_congr (hother _ (by have := l.isLt; unfold rLinkStatus rPartner; omega))
  have hwithin : RoutesWithin c d :=
    ⟨hpkg, hfenced, fun q hq => by rwa [upLinks_congr hpkg hlinks], hother _ (by unfold rThCfg rPartner; omega)⟩
  have hroute := hwithin.nextHop hr
  have hroutes : RoutesHold d := fun q hq hqown _ hqlive => by
    by_cases hqp : q = p
    · rwa [hqp]
    · rw [getF_congr 0 2 (hother _ (rPartner_ne hqp))] at hqlive
      exact absurd hqlive (ho q hq hqp (hpkg ▸ hqown))
  refine ⟨_, rfl, ?_, ?_⟩
  · obtain ⟨⟨h, second⟩, hnext⟩ := Option.isSome_iff_exists.mp hroute
    unfold getF
    rw [settleRoutes_routes hroutes, getReg_refreshPartners d hp]
    unfold partnerEntry entryAfter
    rw [if_neg (hpkg ▸ hown), (hmember p).trans hm, hlive, hnext]
    exact liveEntry_state p h second
  · obtain ⟨rg', hrg'⟩ := refreshPartners_regs d
    rw [settleRoutes_routes hroutes, hrg']
    exact hmem

/-! ### The members (R301, R327) -/

theorem rowMask_members : rowMask rMembers = some 0xFFFF := by decide +kernel

/-- TH_MEMBERS as it is written while no link is UP or TRAINING. -/
theorem wMembers_idle {c : Chip} (v : Nat) (h : ∀ l : Fin 12, linkState c l ≠ 1 ∧ linkState c l ≠ 2) :
    wMembers v c = refreshPartners (storeReg c rMembers v) := by
  have hnone : (List.finRange 12).any (fun l => linkState c l == 1 || linkState c l == 2) = false :=
    List.any_eq_false.mpr fun l _ => by simp [h l]
  unfold wMembers
  rw [hnone]
  rfl

/-- A write of TH_MEMBERS is ignored while a link is UP or TRAINING. -/
theorem wMembers_linked {c : Chip} (v : Nat) (h : ∃ l : Fin 12, linkState c l = 1 ∨ linkState c l = 2) : wMembers v c = c := by
  obtain ⟨l, hl⟩ := h
  have hsome : (List.finRange 12).any (fun l => linkState c l == 1 || linkState c l == 2) = true :=
    List.any_eq_true.mpr ⟨l, List.mem_finRange l, by simpa using hl⟩
  exact if_pos hsome

/-- TH_MEMBERS holds what was written, and the entry of a package that is no member reads 0. -/
structure MembersSet (v : Nat) (c d : Chip) : Prop where
  members : getF d rMembers 0 16 = v % 65536
  mem : d.mem = c.mem
  strangers : ∀ p, p < 16 → p ≠ pkg c → bit v p = false → getReg d (rPartner p) = 0

theorem members_set (v : Nat) (c : Chip) : MembersSet v c (refreshPartners (storeReg c rMembers v)) := by
  have hstored : getF (storeReg c rMembers v) rMembers 0 16 = fld v 0 16 := getF_storeReg_stored rowMask_members (by decide) (by decide)
  obtain ⟨rg, hrg⟩ := storeReg_eq c rMembers v
  have hpkg : pkg (storeReg c rMembers v) = pkg c := by rw [hrg]; rfl
  obtain ⟨rg', hrg'⟩ := refreshPartners_regs (storeReg c rMembers v)
  refine ⟨?_, ?_, fun p hp hown hbit => ?_⟩
  · rw [getF_congr 0 16 (getReg_refreshPartners_ne _ (.inl (by decide))), hstored]
    unfold fld
    rw [pow_zero, Nat.div_one]
    rfl
  · rw [hrg']
    exact storeReg_mem _ _ _
  · have hstranger : member (storeReg c rMembers v) p = false := by
      have hmask : Nat.testBit 0xFFFF p = true := (Nat.testBit_two_pow_sub_one 16 p).trans (decide_eq_true hp)
      refine (testBit_storeReg rowMask_members (by decide) p).trans ?_
      rw [if_pos hmask]
      exact hbit
    rw [getReg_refreshPartners _ hp]
    unfold partnerEntry entryAfter
    rw [if_neg (hpkg ▸ hown), hstranger]
    rfl

/-- Settles O40: with nothing under way with a package its fence is noted and reported and no more, and the entries follow the routes and the
members. -/
theorem fencesAndMembers : Obligations.FencesAndMembers := by
  refine ⟨fun s p hq => have hu := quietPartner_unconcerned hq; ⟨?fence, ?notice⟩, ?unfence, ?members, ?ignored⟩
  case fence =>
    intro m v hm hh hp h4 h5
    have hw := wFence_fences s.chip h4 h5
    rw [hp] at hw
    have hfenced := fencePkg_fenced none (by decide : 5 < 16) (hu.storeFence v.toNat)
    generalize fencePkg p 5 none (storeReg s.chip rFence v.toNat) = d at hw hfenced
    obtain ⟨t, ht, hrest, h⟩ := busWrite_next (Q := Fenced p 5 s.chip) hh hm hw (hfenced.answered (storeReg_mem _ _ _) _)
    exact ⟨t, ht, hrest, h.state, h.cause, h.status, h.last, h.mem⟩
  case notice =>
    intro src tag q nonce hf hqp hseen
    have hseen : tag.toNat ∉ tabGet [] s.chip.fab.seen src.toNat := by simpa using hseen
    obtain ⟨hheard, hmem⟩ := hu.confirms hf hseen
    have hact : onConfirmed src.toNat tag.toNat (lostNotice src.toNat q.toNat nonce.toNat) s.chip =
        fencePkg p 3 (some (src.toNat, nonce.toNat)) (onConfirmed src.toNat tag.toNat id s.chip) := by
      rw [onConfirmed_first _ hf hseen, hqp]
      exact if_neg hheard.own
    obtain ⟨t, ht, hrest, hd⟩ := onChip_at (s := s) hact
    have h := fencePkg_fenced (some (src.toNat, nonce.toNat)) (by decide : 3 < 16) hheard
    rw [← hd] at h
    exact ⟨t, ht, hrest, h.state, h.cause, h.status, h.last, h.mem.trans hmem⟩
  case unfence =>
    intro m v s hm hh h4 h5 hown hmem hf hn hr hs ho
    have hp : fld v.toNat 0 4 < 16 := Nat.mod_lt _ (by decide)
    obtain ⟨hreg, hpkg, hfab, hmem'⟩ := storeFence_leaves s.chip v.toNat
    have hw := wFence_unfences s.chip h4 h5
    generalize storeReg s.chip rFence v.toNat = c at hreg hpkg hfab hmem' hw
    have hpartner : ∀ q, q < 32 → getReg c (rPartner q) = getReg s.chip (rPartner q) := fun q hq =>
      hreg _ (by unfold rPartner rFence; omega)
    have hmembers : getReg c rMembers = getReg s.chip rMembers := hreg _ (by decide)
    have hnonce : partnerOf c (fld v.toNat 0 4) = partnerOf s.chip (fld v.toNat 0 4) := partnerOf_congr (by rw [hfab]) _
    have hroute : nextHop c (fld v.toNat 0 4) = nextHop s.chip (fld v.toNat 0 4) :=
      nextHop_congr hpkg (fenced_congr hpkg (by rw [hfab]) hmembers hpartner)
        (fun l => linkState_congr (hreg _ (tells_ne_fence (tells_status l)))) (hreg _ (by decide)) _
    obtain ⟨d, hd, hlive, hdmem⟩ := unfence_live (c := c) hp (hpkg ▸ hown) (by unfold member at hmem ⊢; rwa [hmembers])
      ((getF_congr 0 2 (hpartner _ (by omega))).trans hf) (by rwa [hnonce]) (by rwa [hroute]) (by rwa [hfab])
      (fun q hq hqp hqown => by rw [getF_congr 0 2 (hpartner q (by omega))]; exact ho q hq hqp (hpkg ▸ hqown))
    obtain ⟨t, ht, hrest, h2, h⟩ := busWrite_next (Q := fun e => getF e (rPartner (fld v.toNat 0 4)) 0 2 = 2 ∧ e.mem = s.chip.mem) hh hm
      (hw.trans hd) ⟨hlive, hdmem.trans hmem'⟩
    exact ⟨t, ht, hrest, h2, h⟩
  case members =>
    intro m v s hm hh hl
    have hset := members_set v.toNat s.chip
    have hw : okWrite (wMembers v.toNat) s.chip = (0, refreshPartners (storeReg s.chip rMembers v.toNat)) :=
      by
      rw [okWrite, wMembers_idle v.toNat hl]
    generalize refreshPartners (storeReg s.chip rMembers v.toNat) = d at hw hset
    obtain ⟨t, ht, hrest, h⟩ := busWrite_next (Q := MembersSet v.toNat s.chip) hh hm hw ⟨hset.members, hset.mem, hset.strangers⟩
    exact ⟨t, ht, hrest, h.members, h.mem, h.strangers⟩
  case ignored =>
    intro m v s hm hh hl
    have hw : okWrite (wMembers v.toNat) s.chip = (0, s.chip) := by
      rw [okWrite, wMembers_linked v.toNat hl]
    obtain ⟨t, ht, hrest, h⟩ := busWrite_next (Q := fun d => d = emit (.bus m 0 0) s.chip) hh hm hw rfl
    exact ⟨t, ht, hrest, by rw [h]; rfl, by rw [h]; rfl, by rw [h]; rfl⟩

end Sys2Proof.Machine
end
